-- ==== Sys2Proof/Word.lean ====
section
/-! DEFINITION. The word types of the EQ64 and the sparse table type of the model. -/

namespace Sys2Proof

/-- One byte. -/
abbrev Byte := BitVec 8

/-- One 32-bit register word (spec/18, R629). -/
abbrev Word := BitVec 32

/-- A sparse table: keys strictly rising, one value each. -/
abbrev Tbl (α : Type) := List (Nat × α)

end Sys2Proof
end

