-- ==== Sys2Proof/Forms.lean ====
section
/-! DEFINITION. The operand types of the commands: what an event of the table brings with it. -/

namespace Sys2Proof

/-- A 128-byte command entry, byte 0 in the lowest bits (spec/12, R452). -/
abbrev Entry := BitVec 1024

/-- A 64-bit word of a request. -/
abbrev Dword := BitVec 64

/-- What the stage manager meets at a start: REFCLK valid, and the PUF SRAM as it reads before any write (spec/15, R546). -/
structure BootObs where
  refclk : Bool
  puf : List Byte
deriving DecidableEq, Repr

/-- The header of a load-protocol datagram (spec/15, R554, R555): the sender's address and UDP port, the address it was sent to, and the
16 bytes as they arrive. -/
structure LoadHdr where
  ip : Nat
  port : Nat
  dest : Nat
  head : List Byte
deriving DecidableEq, Repr

/-- A field of the header, in network byte order (R8, R555). -/
def LoadHdr.field (h : LoadHdr) (off n : Nat) : Nat := ((h.head.drop off).take n).foldl (fun a b => 256 * a + b.toNat) 0

/-- SESSION and MSEQ. -/
def LoadHdr.session (h : LoadHdr) : Nat := h.field 4 4
def LoadHdr.mseq (h : LoadHdr) : Nat := h.field 8 4

/-- MAGIC, VERSION, TYPE and LENGTH are those of a message of a type with a payload of `len` bytes (R555). -/
def LoadHdr.fits (h : LoadHdr) (type len : Nat) : Bool :=
  h.head.length == 16 && h.field 0 2 == 0x4B51 && h.field 2 1 == 1 && h.field 3 1 == type && h.field 12 2 == len

/-- Where an RDMA request of a peer arrives from and what it asks (spec/14, R520). -/
inductive RdmaOp where
  | read (len : Nat)
  | write (bytes : List Byte)
  | send (bytes : List Byte)
  | other
deriving DecidableEq, Repr

/-- One sample row data segment of an ST 2110-20 packet: line, offset in pixel groups, samples of every component in
sending order, and whether it holds the last sample of the line (spec/14, R530). -/
structure RowSeg where
  line : Nat
  offset : Nat
  samples : List Nat
  last : Bool
deriving DecidableEq, Repr

/-- A PTP message that reaches the time receiver (spec/14, R537); times are TAI nanoseconds. -/
inductive PtpMsg where
  | announce
  | sync (origin : Nat) (twoStep : Bool)
  | followUp (origin : Nat)
  | delayResp (receive : Nat)
deriving DecidableEq, Repr

/-- The RTP header of a media packet with the sender's address, as far as R529 to R534 use it. -/
structure RtpHdr where
  src : Nat
  dest : Nat
  dport : Nat
  ssrc : Nat
  pt : Nat
  seq : Nat
  timestamp : Nat
  marker : Bool
deriving DecidableEq, Repr

/-- The NAKs a requester can meet (spec/14, R523). -/
inductive Nak where
  | access | invalid | rnr
deriving DecidableEq, Repr

/-- The 24-byte header of a pair message, as it arrives (spec/16, R588). -/
structure PairHdr where
  head : List Byte
deriving DecidableEq, Repr

/-- A field of the header, little-endian. -/
def PairHdr.field (h : PairHdr) (off n : Nat) : Nat := ((h.head.drop off).take n).foldr (fun b a => b.toNat + 256 * a) 0

/-- PAIR_EPOCH, MSEQ and TIME. -/
def PairHdr.epoch (h : PairHdr) : Nat := h.field 6 2
def PairHdr.mseq (h : PairHdr) : Nat := h.field 8 4
def PairHdr.time (h : PairHdr) : Nat := h.field 16 8

/-- MAGIC, TYPE and LENGTH are those of a message of a type with a payload of `len` bytes (R588). -/
def PairHdr.fits (h : PairHdr) (type len : Nat) : Bool :=
  h.head.length == 24 && h.field 0 4 == 0x5250514B && h.field 4 1 == type && h.field 12 4 == len

/-- What the check word of a memory line shows on a read (spec/13, R487). -/
inductive Ecc where
  | clean | corrected | uncorrectable
deriving DecidableEq, Repr

/-- Who starts a stream (spec/06, R188, R189): the SHD queue of a player, or the block that owns a shared stagehand, for a job, with the
descriptor at an offset of the job's package. -/
inductive Starter where
  | player (p : Fin 68)
  | block (sh : Fin 8) (slot : Fin 6) (job off : Nat)
deriving DecidableEq, Repr

/-- Where a shared stagehand meets an absent page (spec/06, R219): the job, the channel, the address, whether it writes, the
position of its stream. -/
structure SharedAt where
  job : Option Nat
  chan : Nat
  va : Nat
  write : Bool
  pos : Nat
deriving DecidableEq, Repr

/-- An adapter-eligible layer of a package (spec/09, R356; spec/07, R277): its number, K, COUT, ADP_BOUND, UP_M_MAX and the
FP32 codes of ACC_UNIT by output channel. -/
structure AdpLayer where
  layer : Nat
  k : Nat
  cout : Nat
  bound : Nat
  upMax : Nat
  accUnit : List Nat := []
deriving DecidableEq, Repr

/-- The content of a Glovex model package (spec/00, R6; spec/04, R148, R669); the spec gives no byte layout of the whole (log
entry 9). `structOk` says whether the package keeps its own structure. `sheets` are the cue sheet images with the work they
serve: 0 coding, 1 reconstruction, 2 fine-tuning, 3 decode, 4 enhancement, 5 audio, 6 tensor. -/
structure Package where
  va : Nat := 0                              -- the address it was loaded from (R126)
  structOk : Bool := true
  script : List Byte := []                   -- the Script block (R255)
  sheets : List (Nat × List Byte) := []
  tables : Option (List Byte) := none        -- coding table block (spec/08)
  audTables : Option (List Byte) := none     -- audio table block (R397)
  audFirst : Bool := false                   -- it lies before the coding table block (R669)
  requants : List (Nat × List Byte) := []    -- requantisation records with their output formats (R672)
  buckets : List (List Int) := []            -- bucket thresholds (R69)
  meanClamps : List (Int × Int) := []        -- clamp bounds of the mean layer (R91)
  meanRq : Nat := 0                          -- places in `requants` of the eight records of each latent channel, of the mean layer and of
  synRq : Nat := 0                           -- the synthesis input layer: 8 x channel + level beyond (R329)
  scaleBucket : Nat := 0                     -- places in `buckets` of the thresholds of the scale index mapping, and of the audio one (R69, R397)
  audBucket : Nat := 0
  gains : List Nat := []                     -- GAIN_A, FP32 codes, at 192 x level + channel (R328)
  hyperTensor : Nat := 0xFFFF                -- TENSOR_ID of the hyperlatents (R294)
  rehTensor : Nat := 0xFFFF                  -- and of the second moments of rehearsal and of fine-tuning (spec/03)
  tuneTensor : Nat := 0xFFFF
  adamPrm : List Nat := []                   -- β1, β2, ε and the learning rate, FP32 codes (R109)
  tensors : List (List Byte) := []           -- tensor scaling descriptors (spec/03)
  grains : List (Nat × Nat × Nat) := []      -- layers: input channels, GRAIN of the weights, GRAIN of the activations (R84, R85)
  inputOf : List (Nat × Nat) := []           -- TENSOR_ID that a frame names and that of the tensor its cue reads: a second moment and its gradient (R109), the output and the input of a transform (R180)
  exps : List (Nat × List Byte) := []        -- exponent tensors of grouped static scales, by TENSOR_ID
  descs : List Byte := []                    -- the descriptor region (spec/06)
  geoms : List Nat := []                     -- offsets of the window geometry records in it (R165)
  modes : List (Bool × Nat) := []            -- stored tensors: whether Script, and the frame store MODE (R414)
  audSyms : Option (Nat × Nat) := none       -- NA_HYP and NA_LAT (R396)
  weights : List (List Byte) := []           -- weight objects (R414)
  chain : List Byte := []                    -- the package's chain block (R462), empty for none
  enhTile : Nat := 1                         -- tile bytes and credits of the default ENH edge (R462)
  enhCredits : Nat := 1
  lowerHalo : Nat := 0                       -- LOWER_HALO (spec/09)
  synLead : Nat := 0                         -- SYN_LEAD and SYN_LAG (spec/10)
  synLag : Nat := 0
  rankMax : Nat := 0                         -- RANK_MAX (R320)
  layers : List AdpLayer := []               -- the eligible layers, ascending
  adpInit : List Byte := []                  -- the ADP_INIT tensor (R354)
  stages : List Nat := []                    -- enhancement stages: 0 super-resolution, 1 sharpening, 2 interpolation (R390)
deriving DecidableEq, Repr

/-- The symbols of a block row (spec/07, R266): the z of its hyper row where it opens one, and q. -/
structure RowSyms where
  z : List Int
  q : List Int
deriving DecidableEq, Repr

/-- The adapters of one eligible layer as a fine-tuning job leaves them (spec/09, R353 to R356): BF16 codes of the
down-projection, rank channel major, and of the up-projection, output channel major, and the FP32 code of the largest
magnitude of the down output over the picture. -/
structure Tuned where
  down : List Nat
  up : List Nat
  mag : Nat
deriving DecidableEq, Repr

end Sys2Proof
end

