-- ==== Sys2Proof/Machine/StCodec.lean ====
section
/-! DEFINITION. The parts of the state that belong to the coding pipeline. -/

namespace Sys2Proof.Machine

/-- The parameters of a COMP command (spec/12, R456). -/
structure CompArgs where
  op : Nat
  mode : Nat
  elem : Nat
  width : Nat
  count : Nat
  src : Nat
  srcLen : Nat
  dst : Nat
  dstLen : Nat
deriving DecidableEq, Repr

/-- An audio frame to be decoded (spec/10): its number, its substream where it is not concealed, whether the history is set to 0
before it (R399, R404). -/
structure AudIn where
  frame : Nat
  data : Option (List Byte) := none
  reset : Bool := false
deriving DecidableEq, Repr

/-- What a job works on. -/
inductive Work where
  | tensor
  | comp (a : CompArgs)
  | slice (pic index : Nat)                                   -- an encode slice: number of the coded picture, slice (R326)
  | recon (pic index : Nat)                                   -- the reconstruction of a slice (R346)
  | tune (pic : Nat)                                          -- fine-tuning on an intra picture (R353)
  | decode (index first rows : Nat) (side main : List Byte)   -- a decode slice (R373)
  | decodeEnd                                                 -- the rest of a picture (R377, R388)
  | enhance (first second : Nat) (pts : Nat)                  -- an output picture from one or two input pictures (R392)
  | audEnc (frame : Nat)
  | audDec (a : AudIn)
deriving DecidableEq, Repr

/-- The statistics of one tensor over an interval or an attempt (spec/03, R102, R103); `amax` is an FP32 code, `exp` the exponent
of the step last counted, as the byte that SCALE_EXP shows. -/
structure TStat where
  total : Nat := 0
  clip : Nat := 0
  nonfin : Nat := 0
  under : Nat := 0
  amax : Nat := 0
  exp : Option Nat := none
deriving DecidableEq, Repr

/-- The history of a delayed tensor (spec/03, R94): 16 maxima as FP32 codes, the step count, the maximum of the step in
progress once a job of it has written the tensor, and the exponent of the last step that ended. -/
structure Hist where
  h : List Nat
  n : Nat := 0
  amax : Option Nat := none
  prev : Int := 0
deriving DecidableEq, Repr

/-- An input picture or frame (spec/09, R322, R324; spec/12, R459): its number, its PTS, the lines written with their
arrival times or the time an announcement brought it whole, the time of the last line, whether no more lines come, and the
lines filled. -/
structure InPic where
  num : Nat
  pts : Nat
  got : Tbl Nat := []
  whole : Option Nat := none
  last : Nat := 0
  closed : Bool := false
  filled : List Nat := []
  hold : Nat := 1                    -- jobs that still read its buffer, or 1 until its coding begins
  taken : Bool := false              -- its coding has begun
deriving DecidableEq, Repr

/-- An adapter set (spec/07, R276). -/
structure AdpSet where
  id : Nat
  nlayer : Nat
  pay : List Byte
deriving DecidableEq, Repr

/-- A committed row of an encode slice (spec/09, R338): its charge, quality level, whether it is a curtain row, its symbols, its ŷ
(R92), and whether its gather entries are written (R308). -/
structure EncRow where
  k : Nat
  ql : Nat
  curtain : Bool
  syms : RowSyms := ⟨[], []⟩
  yhat : List Int := []
  gathered : Bool := false
deriving DecidableEq, Repr

/-- Parameters under refinement (spec/03, "Narrow tensors in rehearsal and fine-tuning"): their codes in the master format, the E4M3i
codes of the first moments with the exponents of their groups of 32, the E5M2 codes of the second moments and the exponent of the
step that wrote them. -/
structure Refine where
  w : List Nat
  m : List Nat
  me : List Int
  v : List Nat
  ve : Int := 0
deriving DecidableEq, Repr

/-- A fine-tuning job (spec/09, R353, R354): its rank, the synthesis inputs of the picture by block row, the down- and up-projection of
each eligible layer, the steps made. -/
structure Tuning where
  rank : Nat
  lat : List (List Int)
  parts : List Refine := []
  steps : Nat := 0
deriving DecidableEq, Repr

/-- An encode slice. `st`: 0 released, 1 in its coding job, 2 gathered, 3 in the code phase, 4 closed, 5 emitted, 6 not
emitted, 7 closed and dropped, its record still to come. -/
structure EncSlice where
  first : Nat
  rows : Nat
  seq : Nat
  st : Nat := 0
  begun : Bool := false              -- SLICE_FIXED has been charged (R338)
  lat : List (List Nat) := []        -- FP32 latents by row, after rehearsal (R350)
  done : List EncRow := []
  charged : Nat := 0
  side : List (Nat × Nat) := []      -- its gather area: (start, freq) of each symbol (R308)
  main : List (Nat × Nat) := []
  seg : List Byte := []              -- the segment as it stands on the wire
  readyAt : Nat := 0
  deadline : Option Nat := none
  codes : List Nat := []
  dropped : Bool := false
  retries : Nat := 0
  recon : Bool := false              -- its reconstruction job has ended
  tag : Nat := 0
deriving DecidableEq, Repr

/-- A picture being encoded: its number n in the house model, PIC_COUNT, PTS, type and references (R348), its input buffer,
the governor's quantities (R338, R343), and what has been written of it. -/
structure EncPic where
  n : Nat
  count : Nat
  pts : Nat
  input : Nat
  intra : Bool
  forced : Bool := false
  lead : Bool := false
  refs : List Nat := []
  store : Nat := 0
  adp : Option AdpSet := none        -- set in force
  deferred : Bool := false
  started : Bool := false            -- the governor has started it
  a : Nat := 0
  c : Nat := 0
  t : Nat := 0
  curtain : Bool := false
  ql0 : Nat := 0                     -- level of row 0
  head : List (List Byte) := []      -- its SEQ, ADP and PIC segments
  headOut : Bool := false
  pad : List Byte := []              -- its PAD segments (R341)
  slices : List EncSlice := []
  lines : Tbl (List (List Nat)) := [] -- reconstruction by block row: samples of each plane
  synth : Nat := 0                   -- block rows reconstructed
  reconNext : Nat := 0               -- slices whose reconstruction job has been admitted
  stored : Bool := false
  curtained : Bool := false          -- it has had a curtain row (R341)
  ended : Bool := false              -- every slice of it is closed or lost, and the governor has left it
deriving DecidableEq, Repr

/-- The encoder of a channel (spec/09). -/
structure Enc where
  n : Nat := 0
  a : Nat := 0
  ql : Nat := 0
  count : Nat := 0
  since : Nat := 0                   -- pictures since the last intra picture
  need : Bool := true                -- the next picture is intra: first of its sequence
  force : Bool := false              -- FORCE_INTRA
  owed : Bool := false               -- R349
  lead : Bool := false               -- the next picture is preceded by SEQ and the active set (R596)
  prev : Option (Bool × Nat) := none -- whether the previous picture was intra, and its slot
  pics : List EncPic := []           -- pictures in work, oldest first
  fresh : Option AdpSet := none      -- the set to send (R357)
  active : Option AdpSet := none
  nextAdp : Nat := 1
  seqOut : Bool := false             -- a SEQ has been written and no END since
  auds : List (List Byte) := []      -- AUD segments waiting for the SEQ (R402)
  rtpTs : Nat := 0                   -- PTS of the latest PIC written
  picTag : Nat := 0
deriving DecidableEq, Repr

/-- The picture a decoder has in progress (spec/10): `num` counts the pictures begun since CH_START, `next` is one above the last
SLICE_INDEX taken, `lost` and `replaced` are block rows, `released` is L_prev of R376, `ended` says that no further slice of it
comes, `gone` that its last record has been posted. -/
structure DecPic where
  num : Nat
  count : Nat
  pts : Nat
  intra : Bool
  refs : List Nat
  store : Option Nat
  qlRow : Bool
  ql : Nat
  sliceRows : Nat
  nslices : Nat
  adp : Option AdpSet := none
  next : Nat := 0
  latents : Tbl (List Int) := []     -- by block row
  qls : Tbl Nat := []
  lost : List Nat := []
  replaced : List Nat := []
  released : Nat := 0
  missing : Bool := false            -- slices have not arrived (R264)
  whole : Bool := false              -- R388
  refDoubt : Bool := false
  adpAbsent : Bool := false
  dropped : Bool := false
  ended : Bool := false
  gone : Bool := false
  codes : List Nat := []             -- for its next record
  retries : Nat := 0
  lines : Tbl (List (List Nat)) := [] -- by block row: samples of each plane
  seq : Option Nat := none           -- its number under DELIVER 1
  wrote : Nat := 0                   -- block rows delivered
deriving DecidableEq, Repr

/-- The decoder of a channel (spec/07, spec/10). `rd` is the stream position of the parser, `seg` the position of the segment
last taken, `after` says that a marker must stand at `rd`. -/
structure Dec where
  seq : List Byte := []              -- active sequence header, empty for none
  rd : Nat := 0
  seg : Nat := 0
  after : Bool := false
  arrivals : List (Nat × Nat) := []  -- totals announced and their times, oldest first
  pics : Nat := 0                    -- pictures begun
  lastCount : Option Nat := none     -- PIC_COUNT and PTS of the previous picture of the sequence
  lastPts : Option Nat := none
  pending : Option AdpSet := none
  active : Option AdpSet := none
  taint : Bool := false              -- R281
  pic : Option DecPic := none
deriving DecidableEq, Repr

/-- A reference slot, or the hold buffer (spec/11, R422): its two areas as row objects, the current one, whether it holds a
picture, its doubt bit, and when it was stored; the hold buffer shows the hold picture of R385. -/
structure RefSlot where
  full : Bool := false
  cur : Nat := 0
  areas : Tbl (List (List Byte)) := []
  doubt : Bool := false
  order : Nat := 0
  geom : List Byte := []             -- the sequence header it belongs to
deriving DecidableEq, Repr

/-- An audio channel (spec/10): the number and the PTS of the frame last taken, the hist of every channel, the run of concealed frames. -/
structure Aud where
  last : Option Nat := none
  pts : Nat := 0
  hist : List (List Int) := []
  run : Nat := 0
  made : Nat := 0                    -- frames written or coded
deriving DecidableEq, Repr

/-- The coding state of a channel. -/
structure Codec where
  started : Bool := false
  stat : List Byte := [0x8F, 0x02, 0, 0, 0, 0, 0, 0, 0, 0, 0, 0, 0, 0, 0, 0, 1, 0, 0, 0, 0, 0, 0, 0] -- statistics control block (R104)
  statNext : Option (List Byte) := none -- in force at the next statistics interval (R454)
  hist : Tbl Hist := []              -- delayed tensors, by TENSOR_ID
  stats : Tbl TStat := []            -- the statistics interval, by TENSOR_ID
  skipped : Bool := false            -- an update of the interval was suppressed (R111)
  adamT : Nat := 1                   -- step count t of R109
  retry : Nat := 0                   -- retries spent on the current unit (R477)
  total : Nat := 0                   -- bytes, pictures or frames announced or received since CH_START (R459)
  used : Nat := 0                    -- those the part has finished with
  made : Nat := 0                    -- bytes, pictures or frames produced since CH_START
  head : Nat := 0                    -- OUT_HEAD
  inputs : List InPic := []          -- input pictures or frames, oldest first
  carry : List Nat := []             -- codes that the channel's next record carries (R325, R466)
  slots : Tbl RefSlot := []          -- reference slots 0 to 7, hold buffer 8
  stores : Nat := 0                  -- stores made, the order of R388
  enc : Enc := {}
  dec : Dec := {}
  aud : Aud := {}
  ended : Bool := false              -- END has been written since the channel left RUNNING
  persist : List (Bool × Nat) := []  -- its persistent streams: whether the output one, the ring position of its pass (R195)
  lastUnit : Option Nat := none      -- the last picture or frame every job of which has ended (R592)
deriving DecidableEq, Repr

/-- A picture on its way into a slot (spec/11, R415, R422): the channel, the slot, the area, the originals of its row objects
in the order of the directory, those written, and what the slot takes when the last is. -/
structure PicStore where
  chan : Nat
  slot : Nat
  rows : List (List Byte)
  objs : List (List Byte) := []
  doubt : Bool := false
  geom : List Byte := []
  pic : Option Nat := none         -- the encode picture it stores
  tries : Nat := 0                 -- stores retried (R420)
deriving DecidableEq, Repr

/-- A COMP job in progress (spec/12, R456): objects done, the place of the next one in source and destination, and the bytes
and headers written. -/
structure CompSt where
  objs : Nat := 0
  src : Nat := 0
  dst : Nat := 0
  heads : List Nat := []
  bytes : Nat := 0
deriving DecidableEq, Repr

end Sys2Proof.Machine
end

