-- ==== Sys2Proof/Machine/StCore.lean ====
section
/-! DEFINITION. The parts of the state that belong to every block: registers, counters, callboard, pins, start-up,
transport, trace and pair. -/

namespace Sys2Proof.Machine

/-- Access types of register fields (spec/00, "Conventions"). -/
inductive Access where
  | ro | rw | w1c | wo | csw
deriving DecidableEq, Repr

/-- A field of a register map: lowest bit, width, access, reset value. -/
structure FieldDesc where
  lo : Nat
  width : Nat
  acc : Access
  reset : Nat
deriving DecidableEq, Repr

/-- A register, or `count` registers `stride` bytes apart, of a register map. -/
structure RegDesc where
  off : Nat
  count : Nat
  stride : Nat
  fields : List FieldDesc
deriving DecidableEq, Repr

/-- A named field: offset of its register in the page, lowest bit, width. -/
structure Fld where
  off : Nat
  lo : Nat
  width : Nat
deriving DecidableEq, Repr

/-- The counter banks of one page (spec/17, R601): the number of swaps, the tags and base of the running bank, and the
closed bank with its tags. -/
structure Bank where
  swaps : Nat := 0
  handle : Nat := 0
  seq : Nat := 0
  base : Tbl Nat := []
  cHandle : Nat := 0
  cSeq : Nat := 0
  cSpan : Nat := 0               -- draw of the free value that SPAN reads
  cBase : Tbl Nat := []
  cEnd : Tbl Nat := []
deriving DecidableEq, Repr

/-- One callboard record (spec/16, R583). -/
structure LogRec where
  time : Nat
  code : Nat
  inst : Nat
  handle : Nat
  seq : Nat
  d0 : Nat
  d1 : Nat
  recno : Nat
deriving DecidableEq, Repr

/-- The converters behind the pins (spec/19, R663, R665). -/
inductive Conv where
  | off       -- stopped
  | starting  -- PWR_EN seen high, rails rising
  | on        -- every rail in regulation
deriving DecidableEq, Repr

/-- Pins and power state kept in the standby domain (spec/19). -/
structure Pins where
  input : Bool := false          -- input at 38 V or more
  pwrEn : Bool := false
  armed : Bool := true           -- PWR_EN has been low since the last stop (R665)
  conv : Conv := .off
  modResetN : Bool := false
  refclk : Bool := false
  pwrGood : Bool := false
  thermTripN : Bool := true
  alertN : Bool := true
  nextCause : Nat := 0           -- RESET_CAUSE of the next start
  samples : List Nat := []       -- input power of the latest samples, 10 uW units, newest first, at most 1,000,000
  sampleNo : Nat := 0
  energy : Nat := 0              -- 10 pJ units not yet counted in ENERGY_J
  belowUs : Nat := 0             -- microseconds both averages have been below their limits
deriving DecidableEq, Repr

/-- One area of the identity store, in its two copies (spec/15, R550). -/
structure Area (α : Type) where
  a : α
  b : α
  okA : Bool := true
  okB : Bool := true
  useB : Bool := false           -- copy b is the newer
deriving DecidableEq, Repr

/-- An operator key (spec/15, R563): algorithm 256f and the public key. -/
structure OpKey where
  index : Nat
  f : Bool
  key : List Byte
deriving DecidableEq, Repr

/-- The POLICY area (spec/15). `values` are persisted field values: page, offset, mask, value. -/
structure Policy where
  keys : List OpKey := []
  values : List (Nat × Nat × Nat × Nat) := []
  bootIp : Nat := 0
  bootEth : Nat := 0
deriving DecidableEq, Repr

/-- The MAP area: the spare of each wing and further disabled players (spec/15). -/
structure RepairMap where
  spares : List Nat
  disabled : List Nat
deriving DecidableEq, Repr

/-- The identity store (spec/15, R550). -/
structure IdStore where
  helper : Area (List Byte)
  map : Area RepairMap
  macs : Area (List Nat × Nat)
  repairLog : Area (List (Nat × Nat))
  policy : Area Policy
  chain : Area (List Byte)
  certKey : List Byte            -- the public key in CHAIN's device certificate (R549)
deriving DecidableEq, Repr

/-- A load-protocol session (spec/15, R557). -/
structure Session where
  id : Nat
  ip : Nat
  port : Nat
  imageLen : Nat
  hostQp : Nat
  hostPsn : Nat
  devKey : Nat
  next : Nat := 0                     -- lowest image offset not yet received
  chunks : List (Nat × List Byte) := [] -- data kept, by offset
  lastTime : Nat := 0
  verifying : Bool := false
  endMseq : Nat := 0                  -- MSEQ of the END that started verification
deriving DecidableEq, Repr

/-- The stage manager's start-up state (spec/15). -/
structure BootSt where
  running : Bool := false             -- the die is out of reset
  fault : Nat := 0                    -- code of R549, 0 for none
  session : Option Session := none
  devPsn : Nat := 0
  image : List Byte := []             -- the image under verification or running
  bootQp : Nat × Nat × Nat × Nat × Nat := (0, 0, 0, 0, 0) -- host ip, port, QP, PSN, key of the accepted session
  seeds : List Byte × List Byte × List Byte := ([], [], []) -- SK.seed, SK.prf and PK.seed (R551)
deriving DecidableEq, Repr

/-- Where an outgoing message of the RDMA engine came from. -/
inductive Owner where
  | none
  | ringBody (ring : Nat)
  | ringWord (ring : Nat)
  | fetch (id : Nat)
  | stream (sh slot : Nat) (job : Option Nat)
  | pair
deriving DecidableEq, Repr

/-- What the module puts on its connectors. -/
inductive Msg where
  | pause (port prio quanta : Nat)
  | rdmaWrite (qp rkey addr : Nat) (bytes : List Byte)
  | rdmaWriteImm (qp rkey addr : Nat) (bytes : List Byte) (imm : Nat)
  | rdmaRead (qp rkey addr len : Nat)
  | readResponse (qp : Nat) (bytes : List Byte)
  | ack (qp : Nat)
  | nakAccess (qp : Nat)
  | nakInvalid (qp : Nat)
  | cnp (qp : Nat)
  | load (src ip port : Nat) (bytes : List Byte)
  | rtp (flow seq timestamp ssrc : Nat) (marker : Bool) (payload : List Byte)
  | igmpJoin (port group : Nat)
  | igmpLeave (port group : Nat)
  | delayReq (port : Nat)
  | pair (bytes : List Byte)
deriving DecidableEq, Repr

/-- A request the RDMA engine has issued and that is not acknowledged (spec/14, R523), with the EPOCH of its requester and that of the
RDMA engine when it was issued (spec/16, R582), and the job epoch of a stagehand (spec/06, R226). -/
structure Req where
  msg : Msg
  owner : Owner
  epoch : Nat := 0
  respEpoch : Nat := 0
  jobEpoch : Nat := 0
deriving DecidableEq, Repr

/-- A queue pair (spec/14, R521 to R527). State 0 RESET, 1 READY, 2 ERROR; rate in Mb/s. -/
structure Qp where
  st : Nat := 0
  port : Nat := 0
  mtu : Nat := 2
  retry : Nat := 7
  timeout : Nat := 0x0E
  prio : Nat := 3
  rdOk : Bool := false
  wrOk : Bool := false
  notify : Bool := false
  dest : Nat := 0
  ip : Nat := 0
  key : Nat := 0
  psn : Nat := 0
  peerPsn : Nat := 0
  rate : Nat := 200000
  lastCut : Nat := 0
  lastCnpTx : Option Nat := none
  out : List Req := []
  tries : Nat := 0
deriving DecidableEq, Repr

/-- A port (spec/14, R515 to R519): receive bytes held by priority, frames held back by a pause, since when the peer
holds each priority paused. -/
structure Port where
  occ : List Nat := [0, 0, 0, 0, 0, 0, 0, 0]
  held : List (Nat × Msg) := []
  since : List Nat := [0, 0, 0, 0, 0, 0, 0, 0]
deriving DecidableEq, Repr

/-- A unit that a transmit flow is to send (spec/14, R532): its number, its PTS in nanoseconds, its instant once the offset is set,
whether it is complete, whether it is lost or withheld (R380, R381), its bytes. -/
structure OutUnit where
  num : Nat
  pts : Nat
  instant : Option Nat := none
  whole : Bool := false
  gone : Bool := false
  bytes : List Byte := []
deriving DecidableEq, Repr

/-- A media flow (spec/14, R528 to R534); the settings are those applied, the rest is what the flow is doing. -/
structure Flow where
  kind : Nat := 0
  port : Nat := 0
  pt : Nat := 0
  bpm : Bool := false
  sampling : Nat := 0
  depth : Nat := 0
  dscp : Nat := 0
  pcp : Nat := 0
  ch : Nat := 0
  ptime : Bool := false
  dest : Nat := 0
  src : Nat := 0
  dport : Nat := 0
  sport : Nat := 0
  ssrc : Nat := 0
  width : Nat := 0
  height : Nat := 0
  num : Nat := 0
  den : Nat := 0
  payload : Nat := 0
  delay : Nat := 0
  bound : Option Nat := none       -- index of the channel served
  seq : Option Nat := none         -- next RTP sequence number expected or sent
  ts : Option Nat := none          -- RTP timestamp of the open picture or frame
  closedTs : Option Nat := none    -- RTP timestamp of the last closed picture
  filled : List (Nat × Nat) := []  -- samples written of each line (or of the frame) so far
  skip : Bool := false             -- Thardax receive: discarding until a resynchronisation packet (R289)
  expect : Nat := 0                -- Thardax receive: stream offset expected next
  offset : Option Int := none      -- offset O of R532
  units : List OutUnit := []       -- units to be sent, oldest first
  sent : Option (List Byte) := none -- the last unit sent
deriving DecidableEq, Repr

/-- The PTP or PPS servo (spec/14, R537 to R539). -/
structure Servo where
  t1 : Option Nat := none
  t2 : Nat := 0
  t3 : Option Nat := none
  t4 : Option Nat := none
  delay : Int := 0
  good : Nat := 0                  -- consecutive measurements below 1 us
  lastMeas : Nat := 0
  stepped : Bool := false          -- the one step of LOCKING has been made
  everLocked : Bool := false
  slew : Int := 0                  -- nanoseconds still to be slewed off
  frac : Nat := 0                  -- PTP cycles since the last slewing correction
deriving DecidableEq, Repr

/-- Trace packets (spec/17, R610). -/
inductive Packet where
  | sync (thread pc time : Nat)
  | branch (thread n : Nat) (bits : Nat)
  | indirect (thread target : Nat)
  | event (thread kind value time : Nat)
  | gap (lost time : Nat)
deriving DecidableEq, Repr

/-- The trace of one player (spec/17, R610 to R621). -/
structure Trace where
  buf : List Packet := []             -- oldest first, at most 4,096
  bits : List (Nat × Nat) := [(0, 0), (0, 0), (0, 0), (0, 0), (0, 0), (0, 0), (0, 0), (0, 0)] -- pending branch bits: count, bits
  lostSince : Nat := 0                -- dropped since the last GAP
  firstDrop : Nat := 0
  after : Nat := 0                    -- packets entered since the trigger
  job : Option Nat := none            -- the job during which the trigger fired
  nextSync : Nat := 0                 -- SYNC periods written
deriving DecidableEq, Repr

/-- The pair engine (spec/16, R587 to R598). -/
structure PairSt where
  nonce : List Byte := []
  peerJoin : Option (List Byte) := none
  myJoin : List Byte := []
  mseq : List Nat := [0, 0, 0, 0, 0, 0, 0]   -- messages sent, by type
  commits : Nat := 0
  beatSeen : Bool := false
  peerSizes : Option (List Nat) := none      -- sizes of the peer's ensemble 0 (R31)
  peerEpoch : Nat := 0                        -- PAIR_EPOCH of the peer at its JOIN
  excluded : List Nat := []                   -- channels not mirrored (R591)
deriving DecidableEq, Repr

end Sys2Proof.Machine
end

