-- ==== Sys2Proof/Machine/StStage.lean ====
section
/-! DEFINITION. The parts of the state that belong to the players (spec/04). -/

namespace Sys2Proof.Machine

/-- A thread of a control core. `st` is the state code of PLY_THREADS; `held` is the state it returns to from a
debugger halt; `wait` is the semaphore, barrier identity or engine mask it waits for, or the cue it is parked with. -/
structure Thread where
  st : Nat := 0
  pc : Nat := 0
  regs : Tbl Nat := []
  instret : Nat := 0
  mstatus : Nat := 0
  mepc : Nat := 0
  mcause : Nat := 0
  mtval : Nat := 0
  wait : Nat := 0
  rd : Nat := 0
  held : Nat := 0
  stepping : Bool := false
  haltReq : Bool := false
deriving DecidableEq, Repr

/-- A cue in a queue (R134): the thread that issued it and whether its engine has started and done it. -/
structure QCue where
  cue : Nat
  thread : Nat
  started : Bool := false
  ran : Bool := false
  waited : Bool := false             -- it has waited for a transform cue of another ensemble (R186)
deriving DecidableEq, Repr

/-- An accumulator bank (R116, R117): closed sums and open group sums by 64 x column + position; the values are
integers in Script and Ad-lib integer cues, FP32 codes where Ad-lib accumulates in FP32. -/
structure Acc where
  acc : Tbl Int := []
  part : Tbl Int := []
deriving DecidableEq, Repr

/-- A range of relay slices that the RLY KEEP cue at the head of a queue asks for (R234 to R236). -/
structure Keep where
  tag : Nat
  first : Nat
  count : Nat
  dst : Nat
  got : Nat := 0                     -- slices kept
deriving DecidableEq, Repr

/-- A player (spec/04). `st` is the state code of PLY_STATE. -/
structure Player where
  st : Nat := 0
  job : Option Nat := none
  ens : Nat := 0
  rank : Nat := 0
  size : Nat := 0
  threads : Tbl Thread := []
  queues : Tbl (List QCue) := []     -- by CLASS
  sems : Tbl Nat := []
  tdm : Tbl Byte := []
  acc : Tbl Acc := []
  barrier : Option Nat := none       -- identity of the barrier the player has arrived at
  posts : List (Nat × Nat × Nat) := [] -- remote posts on their way to this player: source, semaphore, amount
  keep : Option Keep := none         -- range its RLY KEEP asks for
  active : Nat := 0                  -- time of the last progress (R147)
  started : Nat := 0                 -- time the job's threads started
  paused : Option Nat := none        -- progress age while a stream of the job is halted (R147)
deriving DecidableEq, Repr

/-- What a yield point saves of a player (R143). -/
structure Save where
  threads : Tbl Thread
  sems : Tbl Nat
  tdm : Tbl Byte
  keep : List Byte
deriving DecidableEq, Repr

end Sys2Proof.Machine
end

