-- ==== Sys2Proof/Machine/StStream.lean ====
section
/-! DEFINITION. The parts of the state that belong to stagehands, chains and the relay (spec/06). Stagehand p below 68 is
the local one of physical player p, 0x80 + s shared stagehand s. -/

namespace Sys2Proof.Machine

/-- A stream in a slot of a stagehand. `st` is the state code of SMV_SLOTS; `tile` and `off` are the position of the pass:
tiles completed and elements moved of the tile in progress; `took` says that the count or credit of that tile is taken;
`sig` is the semaphore owed at the end of the pass. -/
structure Stream where
  chan : Nat
  job : Option Nat
  st : Nat := 2
  desc : List Byte := []
  base : Nat := 0
  sig : Option Nat := none
  tile : Nat := 0
  off : Nat := 0
  took : Bool := false
  haltSeq : Nat := 0
  haltAt : Nat := 0
  haltVa : Nat := 0
  haltWrite : Bool := false
  fetch : Option Nat := none       -- the page fetch it waits for (R502)
deriving DecidableEq, Repr

/-- A stagehand: descriptor blocks cached, newest first (R209), and its halt counter (R220). -/
structure Shd where
  cache : List Nat := []
  halts : Nat := 0
deriving DecidableEq, Repr

/-- A hand-over edge of a chain (R210 to R213, R461): free credits, the tile a producer has written and not handed over,
tiles handed over, oldest first, and whether the oldest has been read. -/
structure Edge where
  num : Nat
  prod : Nat
  cons : Nat
  credits : Nat
  tileBytes : Nat
  free : Nat
  built : Option (List Byte) := none
  tiles : List (List Byte) := []
  read : Bool := false
deriving DecidableEq, Repr

/-- Who a chain belongs to: a job, or the LIVE_BIND of an ENC channel index. -/
inductive ChainOwner where
  | job (id : Nat)
  | live (enc : Nat)
deriving DecidableEq, Repr

/-- A chain in admission order (R211, R212). -/
structure ChainSt where
  owner : ChainOwner
  edges : List Edge
  granted : Bool := false
deriving DecidableEq, Repr

/-- A relay slice on the ring: its number, its bytes, the physical player of the wing it reaches next. -/
structure Fly where
  tag : Nat
  job : Nat
  slice : Nat
  bytes : List Byte
  hop : Nat := 0
deriving DecidableEq, Repr

/-- A relay stream (R231 to R237): the player that started it and its slot, base, slices, the next one to send, the
participants, and the end of the last KEEP range of each. -/
structure Relay where
  tag : Nat
  job : Nat
  player : Nat
  slot : Nat
  base : Nat
  slices : Nat
  next : Nat := 0
  parts : List Nat
  ends : Tbl Nat := []
  stopped : Bool := false
deriving DecidableEq, Repr

/-- The ring of a wing: its streams in the order of their turns, the slices on it, oldest first, and the last stream that sent. -/
structure Ring4 where
  streams : List Relay := []
  flying : List Fly := []
  last : Option (Nat × Nat) := none
deriving DecidableEq, Repr

/-- A LIVE_BIND in force (R460). -/
structure Live where
  enc : Nat
  enh : Option Nat := none
  aud : Option Nat := none
  vin : Nat := 0
  ain : Nat := 0xFFFF
  outFlow : Nat := 0
deriving DecidableEq, Repr

end Sys2Proof.Machine
end

