-- ==== Sys2Proof/Machine/StHif.lean ====
section
/-! DEFINITION. The parts of the state that belong to the host interface: queues, rings, records, channels, jobs. -/

namespace Sys2Proof.Machine

/-- A completion record before PHASE and COUNT (spec/12, R465). `flags` is the halfword at 0x12; TIME is set when
the record is posted. -/
structure Rec where
  handle : Nat := 0
  seq : Nat := 0
  tag : Nat := 0
  code : Nat := 0
  flags : Nat := 0
  kind : Nat := 0
  retries : Nat := 0
  r0 : Nat := 0
  r1 : Nat := 0
  r2 : Nat := 0
  r3 : Nat := 0
deriving DecidableEq, Repr

/-- A record that is ready for its ring: an event stands outside the SEQ order (R471); `chan` is the channel whose
order it keeps, `queue` the submission queue its command came from (R449). -/
structure Due where
  ring : Nat
  body : Rec
  event : Bool := false
  chan : Option Nat := none
  queue : Option Nat := none
  held : Bool := false
deriving DecidableEq, Repr

/-- A completion ring (spec/12, R463 to R470). `cur` is the record whose body is being written, with its time and
whether the body has been acknowledged. -/
structure Ring where
  base : Nat
  log2n : Nat
  w : Nat := 0
  failed : Bool := false
  cur : Option (Due × Nat × Bool) := none
  broken : Bool := false             -- a write to the ring has failed at the transport
deriving DecidableEq, Repr

/-- The admission of one command: queue, TAG, HANDLE for its record, SEQ, ring, channel index if it is a command of
that channel, QUIET. `fwd` marks a command forwarded by the peer, which posts no record, with whether it succeeded there (R591). -/
structure Ctx where
  queue : Nat
  tag : Nat
  handle : Nat
  seq : Nat
  ring : Nat
  chan : Option Nat := none
  quiet : Bool := false
  fwd : Option Bool := none
deriving DecidableEq, Repr

/-- A submission queue (spec/12, R443 to R451). `waiting` holds entries fetched and not admitted, oldest first;
`openRecs` counts admitted entries whose record is not posted. -/
structure Queue where
  base : Nat
  log2n : Nat
  ring : Nat
  weight : Nat
  h : Nat := 0
  t : Nat := 0
  stopped : Bool := false
  waiting : List Entry := []
  openRecs : Nat := 0
  deleting : Option Ctx := none
deriving DecidableEq, Repr

/-- The CH_IO of a channel (spec/12, R455). -/
structure Io where
  inKind : Nat := 0
  outKind : Nat := 0
  inSlots : Nat := 0
  inFlow : Nat := 0
  outFlow : Nat := 0
  inPitch : Nat := 0
  outPitch : Nat := 0
  inBase : Nat := 0
  inBytes : Nat := 0
  outBase : Nat := 0
  outBytes : Nat := 0
deriving DecidableEq, Repr

/-- A channel (spec/12, R427 to R442). `st` is the state code of R431. -/
structure Chan where
  gen : Nat := 1
  st : Nat := 0
  page : Bool := false
  size : Bool := false
  susp : Bool := false
  ty : Nat := 0
  ens : Nat := 0
  cq : Nat := 0
  settings : Nat := 0
  latency : Nat := 0
  nextSettings : Option (Nat × Nat) := none
  ctxBase : Nat := 0
  xltRoot : Nat := 0
  saveBase : Nat := 0
  ctxHalf : Nat := 0                 -- half that holds the last good copy (R440)
  pkg : Option Package := none
  bind : Option (List Byte) := none
  seqHdr : List Byte := []
  io : Option Io := none
  seq : Nat := 0                     -- last number taken (R466)
  posted : Nat := 0                  -- last number posted in order (R470)
  last : Nat := 0                    -- SEQ of the last posted record
  slot : Option Nat := none
  pinned : Bool := false
  live : Option Nat := none          -- ENC channel index of the LIVE_BIND that holds it
  lastDispatch : Nat := 0
  stopping : List (Option Ctx × Bool) := [] -- CH_STOP commands in progress, with ABORT; none for a stop that no CH_STOP ordered
  dying : Option Nat := none         -- cause with which the channel is to be retired (R475)
  codec : Codec := {}
  mirSent : Option Nat := none       -- unit of the last mirror point sent (R592)
  mirAck : Option Nat := none        -- unit of the last one acknowledged
  mirStores : Nat := 0               -- stores made when the last mirror point was sent
deriving DecidableEq, Repr

/-- Where a job stands (spec/04, R140 to R146). -/
inductive JobState where
  | ready
  | running      -- dispatched
  | stopping     -- its players drain (R146, R227)
  | offstage     -- its players are free and shared blocks work on its unit (R327, R378)
deriving DecidableEq, Repr

/-- A job: its channel, the number of its unit, its command if one started it, what it works on. `stop` is the first
cause that stopped it (R142). -/
structure Job where
  chan : Nat
  seq : Nat
  cmd : Option Ctx := none
  work : Work
  role : Nat := 6                 -- the cue sheet it runs
  block : List Byte := []         -- its job block (R126)
  pkg : Option Package := none    -- the package the channel held at its admission (R149)
  st : JobState := .ready
  ens : Nat := 0
  players : List Nat := []        -- physical players it holds, in rank order
  readyAt : Nat := 0
  deadline : Option Nat := none   -- R217
  startedAt : Nat := 0
  retries : Nat := 0
  suspHeld : Bool := false        -- held for cause SUSPECT (R476)
  stop : Option Nat := none
  stopAt : Option (Nat × Nat) := none -- PTP time and logical index of the failure on a player that stopped it (R142)
  stats : Tbl TStat := []         -- statistics of this attempt (R104)
  marks : Tbl (Nat × Bool) := []  -- tensors written in the step in progress: the largest finite source magnitude as an FP32 code, and whether an element was coded as infinite or NaN (R95, R110)
  joined : Bool := false          -- its maxima are in the channel's histories
  update : Nat := 0               -- the update of the step in progress: 0 none yet, 1 made, 2 suppressed (R110)
  updated : Bool := false         -- a step of it has made its update (R360)
  skipped : Bool := false
  saves : List (Nat × Save) := [] -- by rank, of a tensor job at a yield point (R143)
  barrier : Option Nat := none    -- identity of the open barrier (R157)
  codes : List Nat := []          -- warnings and informations of its unit (R472)
  saved : Option Codec := none    -- the channel's coding state at the first dispatch (R474)
  detections : List (Nat × Nat × Nat) := [] -- player, kind and place of each detection in its attempts (R152)
  moved : Nat := 0                -- time of the last byte moved or credit passed (R215)
  tags : List (Nat × Nat) := []   -- relay streams it has started: wing and tag (R232)
  stallHeld : Option Nat := none  -- age of that while a stream of the job is halted
  coder : Option Nat := none      -- coder of an audio frame (R307)
  seg : List Byte := []           -- what an audio job writes or emits
  yhat : List (List Int) := []    -- of an audio frame coded, by channel
  late : Bool := false            -- its unit closed after its deadline and is not emitted or delivered (R381)
  comp : CompSt := {}
  tuning : Option Tuning := none  -- of a fine-tuning job
  codeAt : Option Nat := none     -- when a decode slice became ready for the coder array (R11)
  coded : Bool := false           -- it has been entropy decoded
  unit : Bool := true             -- its unit posts a record (R466)
  refused : Bool := false         -- it has been refused on an empty ensemble (R30)
  loaded : Bool := false          -- its tables were loaded into a bank for it (R312)
deriving DecidableEq, Repr

/-- A cached translation (spec/13, R498): channel index and GEN, virtual page number of 64 KiB, the device address the
page starts at, W, and the level of its entry. -/
structure Tlb where
  index : Nat
  gen : Nat
  vpage : Nat
  base : Nat
  w : Bool
  level : Nat
deriving DecidableEq, Repr

/-- A page fetch (spec/13, R502): the channel, the virtual page, the entry's address and its value when it started. -/
structure Fetch where
  chan : Nat
  vpage : Nat
  entry : Nat
  value : Nat := 0
  dest : Nat := 0
  started : Bool := false
  data : Option (List Byte) := none
  failCode : Nat := 0               -- transport error of the read
deriving DecidableEq, Repr

/-- A formed ensemble (spec/01, R17): its members, the logical indices of their players, its depth. -/
structure Ens where
  members : List Nat
  players : List Nat
  depth : Nat
deriving DecidableEq, Repr

/-- A command that completes later than its admission. -/
inductive OpenCmd where
  | pkgLoad (c : Ctx) (p : Package)
  | setNow (c : Ctx) (settings latency : Nat)
  | unbind (c : Ctx) (members : List Nat)
deriving DecidableEq, Repr

end Sys2Proof.Machine
end

