-- ==== Sys2Proof/Syntax.lean ====
section
/-! DEFINITION. The commands of the EQ64: one constructor for every row of spec/opcode_table.json, with the operands
the event brings with it. -/

namespace Sys2Proof

/-- A command: one indivisible step of the part (spec/95). Each docstring is the row's rule. -/
inductive Instr where
  /-- INPUT_APPLY (R653). -/
  | inputApply (cv : Nat)
  /-- INPUT_REMOVAL (R667). -/
  | inputRemoval
  /-- PWR_EN_RISE (R663). -/
  | pwrEnRise
  /-- RAILS_IN_REGULATION (R663). -/
  | railsInRegulation (obs : BootObs)
  /-- RAIL_TIMEOUT (R663). -/
  | railTimeout
  /-- PWR_EN_FALL (R665). -/
  | pwrEnFall
  /-- MOD_RESET_N_ASSERT (R658). -/
  | modResetNAssert (ns : Nat)
  /-- MOD_RESET_N_RELEASE (R546). -/
  | modResetNRelease (obs : BootObs)
  /-- UNDERVOLTAGE_STOP (R665). -/
  | undervoltageStop
  /-- OVERVOLTAGE_STOP (R665). -/
  | overvoltageStop
  /-- OVERCURRENT_STOP (R655). -/
  | overcurrentStop
  /-- POWER_SAMPLE (R654). -/
  | powerSample (cv : Nat) (ma : Nat)
  /-- TEMP_SAMPLE (R656). -/
  | tempSample (die : List Nat) (plate : Nat)
  /-- PLL_LOCK_LOSS (R661). -/
  | pllLockLoss (memory : Bool)
  /-- ETH_PLL_LOCK_LOSS (R661). -/
  | ethPllLockLoss
  /-- HELLO (R557). -/
  | hello (h : LoadHdr) (imageLen : Nat) (qp : Nat) (psn : Nat) (key : Nat)
  /-- DATA (R556). -/
  | data (h : LoadHdr) (offset : Nat) (bytes : List Byte)
  /-- END (R558). -/
  | endImage (h : LoadHdr)
  /-- ABORT (R557). -/
  | abortLoad (h : LoadHdr)
  /-- IMAGE_VERIFY_DONE (R558). -/
  | imageVerifyDone
  /-- OPERATIONAL (R547). -/
  | operational (ms : Nat)
  /-- LINK_CHANGE (R515). -/
  | linkChange (port : Fin 4) (up : Bool)
  /-- FRAME_RECEIVE (R518). -/
  | frameReceive (port : Fin 4) (pcp : Option (Fin 8)) (dscp : Fin 64) (len : Nat) (rtcp : Bool) (ce : Bool) (drained : Nat)
  /-- PFC_REFRESH (R518). -/
  | pfcRefresh
  /-- PFC_RESUME (R518). -/
  | pfcResume (port : Fin 4) (prio : Fin 8) (drained : Nat)
  /-- PAUSE_RECEIVE (R519). -/
  | pauseReceive (port : Fin 4) (prio : Fin 8) (quanta : BitVec 16)
  /-- PFC_WATCHDOG (R519). -/
  | pfcWatchdog (port : Fin 4) (prio : Fin 8)
  /-- RDMA_REQUEST_RECEIVE (R522). -/
  | rdmaRequestReceive (qp : Fin 4096) (op : RdmaOp) (rkey : Word) (addr : Dword) (ce : Bool)
  /-- RDMA_ACK_RECEIVE (R523). -/
  | rdmaAckReceive (qp : Fin 4096) (n : Nat) (bytes : List Byte) (ce : Bool)
  /-- RDMA_NAK_RECEIVE (R523). -/
  | rdmaNakReceive (qp : Fin 4096) (kind : Nak)
  /-- RDMA_RETRANSMIT (R523). -/
  | rdmaRetransmit (qp : Fin 4096)
  /-- CNP_RECEIVE (R527). -/
  | cnpReceive (qp : Fin 4096)
  /-- CC_RATE_RISE (R527). -/
  | ccRateRise (qp : Fin 4096)
  /-- QP_RESET (R525). -/
  | qpReset (qp : Fin 4096) (w : Word)
  /-- QP_READY (R525). -/
  | qpReady (qp : Fin 4096) (w : Word)
  /-- QP_CFG_WRITE (R525). -/
  | qpCfgWrite (qp : Fin 4096) (w : Word)
  /-- ETH_CTRL_WRITE (R515). -/
  | ethCtrlWrite (port : Fin 4) (w : Word)
  /-- FLOW_APPLY (R528). -/
  | flowApply (tx : Bool) (flow : Fin 256) (w : Word)
  /-- ST2110_20_PACKET (R530). -/
  | st211020Packet (flow : Fin 256) (h : RtpHdr) (segs : List RowSeg)
  /-- ST2110_30_PACKET (R531). -/
  | st211030Packet (flow : Fin 256) (h : RtpHdr) (samples : List Nat)
  /-- THARDAX_PACKET_RECEIVE (R289). -/
  | thardaxPacketReceive (flow : Fin 256) (h : RtpHdr) (payload : List Byte)
  /-- EGRESS_INSTANT (R532). -/
  | egressInstant (flow : Fin 256)
  /-- PTP_MESSAGE (R537). -/
  | ptpMessage (port : Fin 4) (domain : Nat) (m : PtpMsg)
  /-- PTP_DELAY_REQ (R537). -/
  | ptpDelayReq
  /-- PPS_EDGE (R537). -/
  | ppsEdge
  /-- TIME_HOLDOVER (R538). -/
  | timeHoldover
  /-- TIME_STEP (R540). -/
  | timeStep (w : Word)
  /-- TIME_SET (R544). -/
  | timeSet (w : Word)
  /-- REGISTER_WRITE (R630). -/
  | registerWrite (page : Fin 4096) (word : Fin 1024) (w : Word)
  /-- PG_ERR_CLEAR (R637). -/
  | pgErrClear (page : Fin 4096) (w : Word)
  /-- QUIESCE_REQ_SET (R578). -/
  | quiesceReqSet (page : Fin 4096)
  /-- QUIESCE_DONE (R579). -/
  | quiesceDone (page : Fin 4096)
  /-- QUIESCE_REQ_CLEAR (R580). -/
  | quiesceReqClear (page : Fin 4096)
  /-- RESET_REQ (R581). -/
  | resetReq (page : Fin 4096)
  /-- POWER_DOWN_REQ (R581). -/
  | powerDownReq (page : Fin 4096)
  /-- POWER_UP_REQ (R581). -/
  | powerUpReq (page : Fin 4096)
  /-- ENABLE_CLEAR (R635). -/
  | enableClear (page : Fin 4096)
  /-- ENABLE_SET (R635). -/
  | enableSet (page : Fin 4096)
  /-- DOORBELL (R446). -/
  | doorbell (q : Fin 256) (d : Dword)
  /-- CQ_HEAD_WRITE (R643). -/
  | cqHeadWrite (r : Fin 256) (w : Word)
  /-- Q0_EN_SET (R447). -/
  | q0EnSet
  /-- Q0_EN_TAKE_EFFECT (R447). -/
  | q0EnTakeEffect
  /-- Q0_EN_CLEAR (R447). -/
  | q0EnClear
  /-- ENTRY_FETCH (R448). -/
  | entryFetch (pkgs : List Package) (remote : List (List Byte))
  /-- FENCE_RELEASE (R449). -/
  | fenceRelease (q : Fin 256) (pkg : Package) (remote : List Byte)
  /-- NOP (R454). -/
  | nop (q : Fin 256) (e : Entry)
  /-- SQ_CREATE (R447). -/
  | sqCreate (q : Fin 256) (e : Entry)
  /-- SQ_DELETE (R451). -/
  | sqDelete (q : Fin 256) (e : Entry)
  /-- CQ_CREATE (R463). -/
  | cqCreate (q : Fin 256) (e : Entry)
  /-- CQ_DELETE (R454). -/
  | cqDelete (q : Fin 256) (e : Entry)
  /-- ENS_FORM (R17). -/
  | ensForm (q : Fin 256) (e : Entry)
  /-- ENS_DISSOLVE (R21). -/
  | ensDissolve (q : Fin 256) (e : Entry)
  /-- RETIRE (R576). -/
  | retire (q : Fin 256) (e : Entry)
  /-- READMIT (R576). -/
  | readmit (q : Fin 256) (e : Entry)
  /-- REPAIR (R553). -/
  | repair (q : Fin 256) (e : Entry) (remote : List Byte)
  /-- PROMOTE (R595). -/
  | promote (q : Fin 256) (e : Entry)
  /-- CSW_APPLY (R562). -/
  | cswApply (q : Fin 256) (e : Entry) (remote : List Byte)
  /-- ATTEST (R567). -/
  | attest (q : Fin 256) (e : Entry)
  /-- CH_CREATE (R428). -/
  | chCreate (q : Fin 256) (e : Entry)
  /-- CH_DESTROY (R432). -/
  | chDestroy (q : Fin 256) (e : Entry)
  /-- PKG_LOAD (R669). -/
  | pkgLoad (q : Fin 256) (e : Entry) (pkg : Package)
  /-- PKG_LOAD_COMPLETE (R149). -/
  | pkgLoadComplete (handle : Word)
  /-- CH_BIND (R320). -/
  | chBind (q : Fin 256) (e : Entry)
  /-- CH_IO (R453). -/
  | chIo (q : Fin 256) (e : Entry)
  /-- CH_PREPARE (R441). -/
  | chPrepare (q : Fin 256) (e : Entry)
  /-- CH_START (R435). -/
  | chStart (q : Fin 256) (e : Entry)
  /-- CH_STOP (R436). -/
  | chStop (q : Fin 256) (e : Entry)
  /-- CH_SET (R454). -/
  | chSet (q : Fin 256) (e : Entry)
  /-- STATS_SET (R671). -/
  | statsSet (q : Fin 256) (e : Entry)
  /-- CH_ENSEMBLE (R434). -/
  | chEnsemble (q : Fin 256) (e : Entry)
  /-- CH_CONTINUE (R476). -/
  | chContinue (q : Fin 256) (e : Entry)
  /-- FORCE_INTRA (R454). -/
  | forceIntra (q : Fin 256) (e : Entry)
  /-- STREAM_IN (R459). -/
  | streamIn (q : Fin 256) (e : Entry)
  /-- OUT_HEAD (R459). -/
  | outHead (q : Fin 256) (e : Entry)
  /-- RESUME (R223). -/
  | resume (q : Fin 256) (e : Entry)
  /-- CANCEL (R478). -/
  | cancel (q : Fin 256) (e : Entry)
  /-- TENSOR (R457). -/
  | tensor (q : Fin 256) (e : Entry)
  /-- COMP (R456). -/
  | comp (q : Fin 256) (e : Entry)
  /-- LIVE_BIND (R460). -/
  | liveBind (q : Fin 256) (e : Entry) (remote : List Byte)
  /-- LIVE_UNBIND (R436). -/
  | liveUnbind (q : Fin 256) (e : Entry)
  /-- RECORD_POST (R470). -/
  | recordPost (r : Fin 256)
  /-- COMPLETION_WORD_WRITE (R467). -/
  | completionWordWrite (r : Fin 256)
  /-- COMPLETION_WRITE_FAIL (R470). -/
  | completionWriteFail (r : Fin 256)
  /-- HIF_CH_PROBE_WRITE (R480). -/
  | hifChProbeWrite (w : Word)
  /-- RGV_PROBE_WRITE (R367). -/
  | rgvProbeWrite (w : Word)
  /-- XLT_INVALIDATE (R500). -/
  | xltInvalidate (w : Word)
  /-- XLT_INVAL_DONE (R500). -/
  | xltInvalDone
  /-- HO_POOL_WRITE (R648). -/
  | hoPoolWrite (w : Word)
  /-- GATHER_WRITE (R648). -/
  | gatherWrite (w : Word)
  /-- LOG_RD_WRITE (R645). -/
  | logRdWrite (w : Word)
  /-- CTR_SAMPLE_GO (R604). -/
  | ctrSampleGo (w : Word)
  /-- CTR_SAMPLE_DONE (R606). -/
  | ctrSampleDone (coincident : Bool)
  /-- TRC_ENABLE (R619). -/
  | trcEnable (p : Fin 68) (w : Word)
  /-- TRC_ARM (R620). -/
  | trcArm (p : Fin 68) (w : Word)
  /-- TRC_NOW (R620). -/
  | trcNow (p : Fin 68) (w : Word)
  /-- TRACE_DRAIN (R615). -/
  | traceDrain (p : Fin 68)
  /-- DBG_HALT (R622). -/
  | dbgHalt (p : Fin 68) (t : Fin 8)
  /-- DBG_RESUME (R622). -/
  | dbgResume (p : Fin 68) (t : Fin 8)
  /-- DBG_STEP (R622). -/
  | dbgStep (p : Fin 68) (t : Fin 8)
  /-- DBG_DATA_WRITE (R624). -/
  | dbgDataWrite (hi : Bool) (w : Word)
  /-- PAIR_JOIN (R589). -/
  | pairJoin
  /-- JOIN_RECEIVE (R589). -/
  | joinReceive (h : PairHdr) (payload : List Byte)
  /-- JOIN_SIG_RECEIVE (R589). -/
  | joinSigReceive (h : PairHdr) (sig : List Byte)
  /-- BEAT_SEND (R594). -/
  | beatSend
  /-- BEAT_RECEIVE (R597). -/
  | beatReceive (h : PairHdr) (st : Nat) (commits : Nat)
  /-- BEAT_PERIOD_MISSED (R594). -/
  | beatPeriodMissed
  /-- FORWARD (R591). -/
  | forward (h : PairHdr) (e : Entry) (pkg : Package) (remote : List Byte) (ok : Bool)
  /-- MIRROR_POINT (R592). -/
  | mirrorPoint (handle : Word)
  /-- COMMIT (R592). -/
  | commit (h : PairHdr) (handle : Word) (pic : Word) (bytes : Dword) (pt : Machine.Chan)
  /-- ACK (R593). -/
  | ack (h : PairHdr) (handle : Word) (pic : Word)
  /-- JOB_DISPATCH (R22). -/
  | jobDispatch (id : Nat)
  /-- CONTEXT_SWAP (R440). -/
  | contextSwap (handle : Word)
  /-- INSTRUCTION_RETIRE (R125). -/
  | instructionRetire (p : Fin 68) (t : Fin 8)
  /-- CUE_ISSUE (R131). -/
  | cueIssue (p : Fin 68) (t : Fin 8)
  /-- CUE_ISSUE_UNPARK (R129). -/
  | cueIssueUnpark (p : Fin 68) (t : Fin 8)
  /-- CUE_TRY (R129). -/
  | cueTry (p : Fin 68) (t : Fin 8)
  /-- SEM_WAIT (R129). -/
  | semWait (p : Fin 68) (t : Fin 8)
  /-- SEM_WAIT_TAKE (R138). -/
  | semWaitTake (p : Fin 68) (t : Fin 8)
  /-- SEM_TRY (R129). -/
  | semTry (p : Fin 68) (t : Fin 8)
  /-- SEM_POST (R137). -/
  | semPost (p : Fin 68) (t : Fin 8)
  /-- REMOTE_POST_ARRIVE (R156). -/
  | remotePostArrive (p : Fin 68) (src : Fin 68)
  /-- SEM_READ (R129). -/
  | semRead (p : Fin 68) (t : Fin 8)
  /-- FENCE_CUE (R129). -/
  | fenceCue (p : Fin 68) (t : Fin 8)
  /-- FENCE_CUE_RELEASE (R129). -/
  | fenceCueRelease (p : Fin 68) (t : Fin 8)
  /-- BAR (R157). -/
  | bar (p : Fin 68) (t : Fin 8)
  /-- YIELD (R143). -/
  | yield (p : Fin 68) (t : Fin 8)
  /-- YIELD_POINT (R143). -/
  | yieldPoint (id : Nat)
  /-- JOB_END (R142). -/
  | jobEnd (p : Fin 68) (t : Fin 8)
  /-- JOB_FINISH (R141). -/
  | jobFinish (id : Nat)
  /-- CUE_NOP (R130). -/
  | cueNop (p : Fin 68) (cls : Nat)
  /-- MAC_PSUM (R117). -/
  | macPsum (p : Fin 68)
  /-- VEC_ELT (R67). -/
  | vecElt (p : Fin 68)
  /-- VEC_FUNC (R80). -/
  | vecFunc (p : Fin 68)
  /-- VEC_CONV (R66). -/
  | vecConv (p : Fin 68)
  /-- VEC_SCALE (R100). -/
  | vecScale (p : Fin 68)
  /-- VEC_ADAM (R109). -/
  | vecAdam (p : Fin 68)
  /-- VEC_WARP (R72). -/
  | vecWarp (p : Fin 68)
  /-- VEC_REDUCE (R120). -/
  | vecReduce (p : Fin 68)
  /-- VEC_MOVE (R68). -/
  | vecMove (p : Fin 68)
  /-- VEC_QLAT (R92). -/
  | vecQlat (p : Fin 68)
  /-- TAB_LOOKUP (R70). -/
  | tabLookup (p : Fin 68)
  /-- TAB_BUCKET (R69). -/
  | tabBucket (p : Fin 68)
  /-- SHD_START (R189). -/
  | shdStart (by_ : Starter)
  /-- SHD_REARM (R191). -/
  | shdRearm (p : Fin 68)
  /-- SHD_CLOSE (R192). -/
  | shdClose (p : Fin 68)
  /-- TRE_NTTCONV (R177). -/
  | treNttconv (p : Fin 68)
  /-- TRE_FFTCONV (R180). -/
  | treFftconv (p : Fin 68)
  /-- TRE_FFT (R181). -/
  | treFft (p : Fin 68)
  /-- TRE_IFFT (R181). -/
  | treIfft (p : Fin 68)
  /-- RLY_KEEP (R234). -/
  | rlyKeep (p : Fin 68)
  /-- CUE_COMPLETE (R136). -/
  | cueComplete (p : Fin 68) (cls : Nat)
  /-- PLAYER_UPSET (R152). -/
  | playerUpset (p : Fin 68) (kind : Nat) (cls : Nat) (place : Nat)
  /-- PLAYER_WATCHDOG (R147). -/
  | playerWatchdog (p : Fin 68)
  /-- STREAM_STALL (R215). -/
  | streamStall (id : Nat)
  /-- JOB_STOP (R146). -/
  | jobStop (id : Nat)
  /-- STAGEHAND_DRAIN_END (R228). -/
  | stagehandDrainEnd (sh : Nat)
  /-- STREAM_TILE_DONE (R199). -/
  | streamTileDone (sh : Nat) (slot : Fin 6) (far : List Byte) (idx : List Byte)
  /-- STREAM_PASS_END (R189). -/
  | streamPassEnd (sh : Nat) (slot : Fin 6)
  /-- STREAM_HALT (R219). -/
  | streamHalt (sh : Nat) (slot : Fin 6) (far : List Byte) (idx : List Byte) (at_ : SharedAt)
  /-- HALT_TIMEOUT (R225). -/
  | haltTimeout (sh : Nat) (slot : Fin 6)
  /-- FETCH_START (R502). -/
  | fetchStart
  /-- FETCH_COMPLETE (R503). -/
  | fetchComplete (id : Nat)
  /-- XLT_WALK (R495). -/
  | xltWalk (handle : Word) (va : Dword) (write : Bool) (halts : Bool) (job : Option Nat)
  /-- LPDDR_READ (R488). -/
  | lpddrRead (a : Nat) (job : Option Nat) (ecc : Ecc)
  /-- LPDDR_WRITE (R490). -/
  | lpddrWrite (a : Nat) (off : Nat) (bytes : List Byte) (job : Option Nat) (ecc : Ecc)
  /-- SCRUB_LINE (R491). -/
  | scrubLine (a : Nat) (ecc : Ecc) (raced : Bool)
  /-- SHS_ECC_ERROR (R649). -/
  | shsEccError (offset : Nat) (double : Bool) (job : Option Nat)
  /-- CREDIT_GRANT (R212). -/
  | creditGrant (n : Nat)
  /-- HANDOVER_TILE (R213). -/
  | handoverTile (n : Nat) (num : Fin 64) (bytes : List Byte)
  /-- CREDIT_RETURN (R213). -/
  | creditReturn (n : Nat) (num : Fin 64)
  /-- RELAY_ACCEPT (R232). -/
  | relayAccept (p : Fin 68)
  /-- RELAY_SLICE_SEND (R233). -/
  | relaySliceSend (w : Fin 4) (far : List Byte)
  /-- RELAY_SLICE_ARRIVE (R234). -/
  | relaySliceArrive (w : Fin 4) (k : Nat)
  /-- RELAY_STREAM_END (R237). -/
  | relayStreamEnd (w : Fin 4)
  /-- RELAY_PARITY_ERROR (R238). -/
  | relayParityError (w : Fin 4) (k : Nat)
  /-- LINE_TIMEOUT (R324). -/
  | lineTimeout (handle : Word)
  /-- SLICE_RELEASE (R322). -/
  | sliceRelease (handle : Word)
  /-- ROW_COMMIT (R338): the job and the row of its slice. -/
  | rowCommit (id row : Nat)
  /-- GATHER_ROW (R308): the job and the row of its slice. -/
  | gatherRow (id row : Nat)
  /-- CODE_PHASE_START (R11). -/
  | codePhaseStart
  /-- SLICE_CLOSE (R339). -/
  | sliceClose
  /-- SLICE_EMIT (R361). -/
  | sliceEmit (handle : Word)
  /-- AUDIO_FRAME_CODE (R307): the job, with the handle and SEQ that name it (R466). -/
  | audioFrameCode (id : Nat) (handle seq : Word)
  /-- TABLE_BANK_LOAD (R312). -/
  | tableBankLoad (id : Nat)
  /-- RCA_PARITY_ERROR (R315). -/
  | rcaParityError (at_ : Nat)
  /-- ADAPTER_SET_COMPLETE (R356): the job, with the handle and SEQ that name it. -/
  | adapterSetComplete (id : Nat) (handle seq : Word)
  /-- SEQ_SEGMENT (R252). -/
  | seqSegment (handle : Word) (far : List Byte)
  /-- PIC_SEGMENT (R258). -/
  | picSegment (handle : Word) (far : List Byte)
  /-- SLC_SEGMENT (R263). -/
  | slcSegment (handle : Word) (far : List Byte)
  /-- AUD_SEGMENT (R275). -/
  | audSegment (handle : Word) (far : List Byte)
  /-- ADP_SEGMENT (R278). -/
  | adpSegment (handle : Word) (far : List Byte)
  /-- END_SEGMENT (R282). -/
  | endSegment (handle : Word) (far : List Byte)
  /-- PAD_SEGMENT (R283). -/
  | padSegment (handle : Word) (far : List Byte)
  /-- RESERVED_SEGMENT (R246). -/
  | reservedSegment (handle : Word) (far : List Byte)
  /-- DELIVERY_WRITE (R378). -/
  | deliveryWrite (id : Nat)
  /-- FSC_STORE (R415). -/
  | fscStore (job : Option Nat) (n : Nat) (mismatch : Bool) (far : List Byte)
  /-- FSC_LOAD (R418). -/
  | fscLoad (id : Nat) (far : List Byte)
  /-- BLOCK_RESET_DONE (R581). -/
  | blockResetDone (page : Fin 4096)
  /-- TRACE_SYNC_PERIOD (R613). -/
  | traceSyncPeriod (p : Fin 68)
deriving DecidableEq, Repr

end Sys2Proof
end

