-- ==== Sys2Proof/WellFormed.lean ====
section
/-! DEFINITION. Which commands are well formed: operands that the spec's fields and lists bound. What the operand types already bound is
not repeated. -/

namespace Sys2Proof

/-- The header of a load-protocol datagram has IPv4 addresses, a port and 16 bytes (R555). -/
def LoadHdr.wf (h : LoadHdr) : Bool := decide (h.ip < 2 ^ 32 ∧ h.port < 2 ^ 16 ∧ h.dest < 2 ^ 32 ∧ h.head.length = 16)

/-- The fields of an RTP packet keep their widths (R529 to R534). -/
def RtpHdr.wf (h : RtpHdr) : Bool :=
  decide (h.src < 2 ^ 32 ∧ h.dest < 2 ^ 32 ∧ h.dport < 2 ^ 16 ∧ h.ssrc < 2 ^ 32 ∧ h.pt < 128 ∧ h.seq < 2 ^ 16 ∧ h.timestamp < 2 ^ 32)

/-- The header of a pair message has 24 bytes (R588). -/
def PairHdr.wf (h : PairHdr) : Bool := h.head.length == 24

/-- A request's length fits its 32-bit field (R520). -/
def RdmaOp.wf : RdmaOp → Bool
  | .read len => decide (len < 2 ^ 32)
  | .write bytes => decide (bytes.length < 2 ^ 32)
  | .send bytes => decide (bytes.length < 2 ^ 32)
  | .other => true

/-- A CLASS of cues (R129). -/
def isClass (c : Nat) : Bool := decide (1 ≤ c ∧ c ≤ 6)

/-- A stagehand: the local one of a physical player, or shared stagehand 0x80 to 0x87 (spec/06). -/
def isStagehand (n : Nat) : Bool := decide (n < 68) || decide (0x80 ≤ n ∧ n < 0x88)

/-- An address of a line of LPDDR6 (R483). -/
def isLine (a : Nat) : Bool := decide (a < 0x003E00000000)

/-- A detection of R151 and R184, or a corrected error of R122 (kind 0): its kind, the class of the engine for kind 2, the thread for kind 3. -/
def isUpset (kind cls place : Nat) : Bool :=
  decide (kind ≤ 3) && (kind != 2 || [1, 2, 3, 5].contains cls) && (kind != 3 || decide (place < 8))

/-- Whether a command is well formed. -/
def WellFormed (i : Instr) : Bool :=
  match i with
  | .inputApply _ => true
  | .inputRemoval => true
  | .pwrEnRise => true
  | .railsInRegulation _ => true
  | .railTimeout => true
  | .pwrEnFall => true
  | .modResetNAssert _ => true
  | .modResetNRelease _ => true
  | .undervoltageStop => true
  | .overvoltageStop => true
  | .overcurrentStop => true
  | .powerSample _ _ => true
  | .tempSample die _ => decide (die.length ≤ 32)
  | .pllLockLoss _ => true
  | .ethPllLockLoss => true
  | .hello h imageLen qp psn key => h.wf && decide (imageLen < 2 ^ 32 ∧ qp < 2 ^ 24 ∧ psn < 2 ^ 24 ∧ key < 2 ^ 32)
  | .data h offset _ => h.wf && decide (offset < 2 ^ 32)
  | .endImage h => h.wf
  | .abortLoad h => h.wf
  | .imageVerifyDone => true
  | .operational _ => true
  | .linkChange _ _ => true
  | .frameReceive _ _ _ _ _ _ _ => true
  | .pfcRefresh => true
  | .pfcResume _ _ _ => true
  | .pauseReceive _ _ _ => true
  | .pfcWatchdog _ _ => true
  | .rdmaRequestReceive _ op _ _ _ => op.wf
  | .rdmaAckReceive _ _ _ _ => true
  | .rdmaNakReceive _ _ => true
  | .rdmaRetransmit _ => true
  | .cnpReceive _ => true
  | .ccRateRise _ => true
  | .qpReset _ _ => true
  | .qpReady _ _ => true
  | .qpCfgWrite _ _ => true
  | .ethCtrlWrite _ _ => true
  | .flowApply _ _ _ => true
  | .st211020Packet _ h _ => h.wf
  | .st211030Packet _ h _ => h.wf
  | .thardaxPacketReceive _ h _ => h.wf
  | .egressInstant _ => true
  | .ptpMessage _ domain _ => decide (domain < 128)
  | .ptpDelayReq => true
  | .ppsEdge => true
  | .timeHoldover => true
  | .timeStep _ => true
  | .timeSet _ => true
  | .registerWrite _ _ _ => true
  | .pgErrClear _ _ => true
  | .quiesceReqSet _ => true
  | .quiesceDone _ => true
  | .quiesceReqClear _ => true
  | .resetReq _ => true
  | .powerDownReq _ => true
  | .powerUpReq _ => true
  | .enableClear _ => true
  | .enableSet _ => true
  | .doorbell _ _ => true
  | .cqHeadWrite _ _ => true
  | .q0EnSet => true
  | .q0EnTakeEffect => true
  | .q0EnClear => true
  | .entryFetch _ _ => true
  | .fenceRelease _ _ _ => true
  | .nop _ _ => true
  | .sqCreate _ _ => true
  | .sqDelete _ _ => true
  | .cqCreate _ _ => true
  | .cqDelete _ _ => true
  | .ensForm _ _ => true
  | .ensDissolve _ _ => true
  | .retire _ _ => true
  | .readmit _ _ => true
  | .repair _ _ _ => true
  | .promote _ _ => true
  | .cswApply _ _ _ => true
  | .attest _ _ => true
  | .chCreate _ _ => true
  | .chDestroy _ _ => true
  | .pkgLoad _ _ _ => true
  | .pkgLoadComplete _ => true
  | .chBind _ _ => true
  | .chIo _ _ => true
  | .chPrepare _ _ => true
  | .chStart _ _ => true
  | .chStop _ _ => true
  | .chSet _ _ => true
  | .statsSet _ _ => true
  | .chEnsemble _ _ => true
  | .chContinue _ _ => true
  | .forceIntra _ _ => true
  | .streamIn _ _ => true
  | .outHead _ _ => true
  | .resume _ _ => true
  | .cancel _ _ => true
  | .tensor _ _ => true
  | .comp _ _ => true
  | .liveBind _ _ _ => true
  | .liveUnbind _ _ => true
  | .recordPost _ => true
  | .completionWordWrite _ => true
  | .completionWriteFail _ => true
  | .hifChProbeWrite _ => true
  | .rgvProbeWrite _ => true
  | .xltInvalidate _ => true
  | .xltInvalDone => true
  | .hoPoolWrite _ => true
  | .gatherWrite _ => true
  | .logRdWrite _ => true
  | .ctrSampleGo _ => true
  | .ctrSampleDone _ => true
  | .trcEnable _ _ => true
  | .trcArm _ _ => true
  | .trcNow _ _ => true
  | .traceDrain _ => true
  | .dbgHalt _ _ => true
  | .dbgResume _ _ => true
  | .dbgStep _ _ => true
  | .dbgDataWrite _ _ => true
  | .pairJoin => true
  | .joinReceive h _ => h.wf
  | .joinSigReceive h _ => h.wf
  | .beatSend => true
  | .beatReceive h st commits => h.wf && decide (st ≤ 6 ∧ commits < 2 ^ 32)
  | .beatPeriodMissed => true
  | .forward h _ _ _ _ => h.wf
  | .mirrorPoint _ => true
  | .commit h _ _ _ _ => h.wf
  | .ack h _ _ => h.wf
  | .jobDispatch _ => true
  | .contextSwap _ => true
  | .instructionRetire _ _ => true
  | .cueIssue _ _ => true
  | .cueIssueUnpark _ _ => true
  | .cueTry _ _ => true
  | .semWait _ _ => true
  | .semWaitTake _ _ => true
  | .semTry _ _ => true
  | .semPost _ _ => true
  | .remotePostArrive _ _ => true
  | .semRead _ _ => true
  | .fenceCue _ _ => true
  | .fenceCueRelease _ _ => true
  | .bar _ _ => true
  | .yield _ _ => true
  | .yieldPoint _ => true
  | .jobEnd _ _ => true
  | .jobFinish _ => true
  | .cueNop _ cls => isClass cls
  | .macPsum _ => true
  | .vecElt _ => true
  | .vecFunc _ => true
  | .vecConv _ => true
  | .vecScale _ => true
  | .vecAdam _ => true
  | .vecWarp _ => true
  | .vecReduce _ => true
  | .vecMove _ => true
  | .vecQlat _ => true
  | .tabLookup _ => true
  | .tabBucket _ => true
  | .shdStart _ => true
  | .shdRearm _ => true
  | .shdClose _ => true
  | .treNttconv _ => true
  | .treFftconv _ => true
  | .treFft _ => true
  | .treIfft _ => true
  | .rlyKeep _ => true
  | .cueComplete _ cls => isClass cls
  | .playerUpset _ kind cls place => isUpset kind cls place
  | .playerWatchdog _ => true
  | .streamStall _ => true
  | .jobStop _ => true
  | .stagehandDrainEnd sh => isStagehand sh
  | .streamTileDone sh _ _ _ => isStagehand sh
  | .streamPassEnd sh _ => isStagehand sh
  | .streamHalt sh _ _ _ _ => isStagehand sh
  | .haltTimeout sh _ => isStagehand sh
  | .fetchStart => true
  | .fetchComplete _ => true
  | .xltWalk _ _ _ _ _ => true
  | .lpddrRead a _ _ => isLine a
  | .lpddrWrite a off bytes _ _ => isLine a && decide (off < 64 ∧ 1 ≤ bytes.length ∧ off + bytes.length ≤ 64)
  | .scrubLine a _ _ => isLine a
  | .shsEccError offset _ _ => decide (offset < 2 ^ 26)
  | .creditGrant _ => true
  | .handoverTile _ _ _ => true
  | .creditReturn _ _ => true
  | .relayAccept _ => true
  | .relaySliceSend _ _ => true
  | .relaySliceArrive _ _ => true
  | .relayStreamEnd _ => true
  | .relayParityError _ _ => true
  | .lineTimeout _ => true
  | .sliceRelease _ => true
  | .rowCommit _ _ => true
  | .gatherRow _ _ => true
  | .codePhaseStart => true
  | .sliceClose => true
  | .sliceEmit _ => true
  | .audioFrameCode _ _ _ => true
  | .tableBankLoad _ => true
  | .rcaParityError at_ => decide (at_ < 10)
  | .adapterSetComplete _ _ _ => true
  | .seqSegment _ _ => true
  | .picSegment _ _ => true
  | .slcSegment _ _ => true
  | .audSegment _ _ => true
  | .adpSegment _ _ => true
  | .endSegment _ _ => true
  | .padSegment _ _ => true
  | .reservedSegment _ _ => true
  | .deliveryWrite _ => true
  | .fscStore _ _ _ _ => true
  | .fscLoad _ _ => true
  | .blockResetDone _ => true
  | .traceSyncPeriod _ => true

end Sys2Proof
end

