-- ==== Sys2Proof/Machine/Codes.lean ====
section
/-! DEFINITION. The error codes of spec/16, R572 and R573, and of the chapters that add to them, by name. -/

namespace Sys2Proof.Machine.Code

def I_BLOCK_STATE : Nat := 0x1010
def I_BOOT_PENDING : Nat := 0x1090
def I_MEM_CORRECTED : Nat := 0x1182
def I_RETRY : Nat := 0x1207
def I_INTRA_FORCED : Nat := 0x1256
def I_ADP_DEFERRED : Nat := 0x1257
def I_STEP_SKIPPED : Nat := 0x13D1
def I_PAIR_STATE : Nat := 0x1510
def I_TIME_STATE : Nat := 0x1550
def I_ENS_RESIZED : Nat := 0x1590
def I_SHS_CORRECTED : Nat := 0x15D0
def W_LOG_GAP : Nat := 0x2050
def W_THERM_HIGH : Nat := 0x20D0
def W_POWER_CAP : Nat := 0x20D1
def W_VIN_RANGE : Nat := 0x20D2
def W_REF_ABSENT : Nat := 0x2244
def W_DEADLINE_MISS : Nat := 0x2245
def W_ADP_ABSENT : Nat := 0x2251
def W_SLICE_ABSENT : Nat := 0x2252
def W_PIC_ABSENT : Nat := 0x2253
def W_LINES_MISSING : Nat := 0x2254
def W_INPUT_DROPPED : Nat := 0x2255
def W_AUD_GAP : Nat := 0x225B
def W_RC_CURTAIN : Nat := 0x2281
def W_CLIP_SHARE : Nat := 0x23C1
def W_NONFINITE : Nat := 0x23C2
def W_UNDERFLOW_SHARE : Nat := 0x23D0
def W_TRACE_GAP : Nat := 0x24C1
def W_PAIR_HEARTBEAT : Nat := 0x2501
def W_PAIR_DIVERGE : Nat := 0x2510
def W_MEDIA_LOSS : Nat := 0x2551
def H_PAGE_ABSENT : Nat := 0x3402
def E_COUNTERSIGN : Nat := 0x4081
def E_IMAGE_SIGNATURE : Nat := 0x4082
def E_NONCE_STALE : Nat := 0x4090
def E_CSW_TARGET : Nat := 0x4091
def E_CSW_FORMAT : Nat := 0x4092
def E_ATTEST_SPACE : Nat := 0x4093
def E_LOAD_FORMAT : Nat := 0x4094
def E_LOAD_BUSY : Nat := 0x4095
def E_REPAIR_STATE : Nat := 0x4096
def E_RDMA_TRANSPORT : Nat := 0x4150
def E_RDMA_REMOTE : Nat := 0x4151
def E_XLT_FAULT : Nat := 0x41D0
def E_XLT_PERM : Nat := 0x41D1
def E_XLT_PART : Nat := 0x41D2
def E_CMD_INVALID : Nat := 0x4201
def E_WINDOW_EMPTY : Nat := 0x4202
def E_CHAIN_CYCLE : Nat := 0x4203
def E_HANDLE_STALE : Nat := 0x4204
def E_QUEUE_OVERRUN : Nat := 0x4205
def E_CANCELLED : Nat := 0x4206
def E_CH_STATE : Nat := 0x4210
def E_LIVE_FORMAT : Nat := 0x4212
def E_RESOURCE_BUSY : Nat := 0x4213
def E_ADMIN_ONLY : Nat := 0x4214
def E_NO_SLOT : Nat := 0x4215
def E_STREAM_SYNTAX : Nat := 0x4241
def E_MARKER_LOST : Nat := 0x4242
def E_MODEL_MISMATCH : Nat := 0x4243
def E_ADP_CHECK : Nat := 0x4250
def E_ENC_PARAMS : Nat := 0x4258
def E_DEC_PARAMS : Nat := 0x4259
def E_ENH_PARAMS : Nat := 0x425A
def E_AUD_PARAMS : Nat := 0x425C
def E_RC_PARAMS : Nat := 0x4290
def E_SCALE_SKEW : Nat := 0x42C1
def E_RCA_SLICE_SIZE : Nat := 0x42D0
def E_PTB_TABLE : Nat := 0x4310
def E_FSC_OUT_FULL : Nat := 0x4341
def E_FSC_BAD_CODE : Nat := 0x4342
def E_FSC_DIST : Nat := 0x4343
def E_FSC_LEN : Nat := 0x4344
def E_FSC_CHECK : Nat := 0x4345
def E_FSC_SELFCHECK : Nat := 0x4346
def E_FSC_MODE : Nat := 0x4350
def E_NTT_RANGE : Nat := 0x4381
def E_CUE_ILLEGAL : Nat := 0x43C3
def E_SHEET_BAD : Nat := 0x43D2
def E_CORE_TRAP : Nat := 0x43D3
def E_SEM_OVERFLOW : Nat := 0x43D4
def E_PLY_STALL : Nat := 0x43D5
def E_SHEET_ABORT : Nat := 0x43D6
def E_STALL : Nat := 0x4401
def E_DESC_ILLEGAL : Nat := 0x4410
def E_HANDOVER_SIZE : Nat := 0x4411
def E_CHAIN_OVERLAP : Nat := 0x4412
def E_RESUME_STALE : Nat := 0x4413
def E_HALT_TIMEOUT : Nat := 0x4414
def E_RELAY_TAG : Nat := 0x4450
def E_RELAY_ORDER : Nat := 0x4451
def E_TRC_RING : Nat := 0x44D0
def E_DBG_LOCKED : Nat := 0x44D1
def E_PAIR_JOIN : Nat := 0x4510
def E_PAIR_EPOCH : Nat := 0x4511
def E_PAIR_STATE : Nat := 0x4512
def E_FLOW : Nat := 0x4550
def E_PEER_ABSENT : Nat := 0x4581
def E_ENS_MEMBER : Nat := 0x4590
def E_ENS_NEST : Nat := 0x4592
def E_ENS_BUSY : Nat := 0x4593
def E_SHS_SPACE : Nat := 0x45D1
def X_CHANNEL_RETIRED : Nat := 0x8201
def F_IDENTITY : Nat := 0xC090
def F_STORE_CHECK : Nat := 0xC091
def F_MEM_UNCORRECTABLE : Nat := 0xC181
def F_RCA_PARITY : Nat := 0xC2D0
def F_PLAYER_SUSPECT : Nat := 0xC3C1
def F_PLY_UPSET : Nat := 0xC3D0
def F_RELAY_PARITY : Nat := 0xC450
def F_SHS_UNCORRECTABLE : Nat := 0xC5D0

end Sys2Proof.Machine.Code
end

