-- ==== Sys2Proof/Machine/Counters.lean ====
section
/-! DEFINITION. The counter lists of every page by name: the index i of offset 0x040 + 8 * i (spec/17, R601). -/

namespace Sys2Proof.Machine.Cnt

def SMV_BYTES_IN : Nat := 0
def SMV_BYTES_OUT : Nat := 1
def SMV_LINE_REQS : Nat := 2
def SMV_DESC_BURSTS : Nat := 3
def SMV_DESC_HITS : Nat := 4
def SMV_STARTS : Nat := 5
def SMV_PASSES : Nat := 6
def SMV_REARMS : Nat := 7
def SMV_TILES : Nat := 8
def SMV_FREE_WAIT : Nat := 9
def SMV_DATA_WAIT : Nat := 10
def SMV_MEM_WAIT : Nat := 11
def SMV_XLT_MISSES : Nat := 12
def SMV_HALTS : Nat := 13
def SMV_RESUMES : Nat := 14
def SMV_HALT_CYCLES : Nat := 15
def SMV_DRAINS : Nat := 16
def SMV_DISCARDED : Nat := 17
def SMV_CREDIT_WAIT : Nat := 18
def SMV_STALLS : Nat := 19
def SMV_CONVERTED : Nat := 20
def SMV_PAD_GEN : Nat := 21
def SMV_DEADLINE_GRANTS : Nat := 22
def WRL_SLICES_SENT : Nat := 0
def WRL_BYTES_READ : Nat := 1
def WRL_STREAMS : Nat := 2
def WRL_HEAD_BUSY : Nat := 3
def WRL_HEAD_IDLE : Nat := 4
def WRL_WAIT_PARTICIPANT : Nat := 5
def WRL_WAIT_SOURCE : Nat := 6
def WRL_KEEPS_DONE : Nat := 7
def WRL_SLICES_KEPT : Nat := 8
def WRL_FORWARDS : Nat := 9
def WRL_RR_SWITCHES : Nat := 10
def WRL_STOPPED : Nat := 11
def WRL_UPSETS : Nat := 12
def PTB_LOOKUPS_LAT : Nat := 0
def PTB_LOOKUPS_HYP : Nat := 1
def PTB_LOOKUPS_BYP : Nat := 2
def PTB_LOADS : Nat := 3
def PTB_LOAD_BYTES : Nat := 4
def PTB_LOAD_CYCLES : Nat := 5
def PTB_BANK_HITS : Nat := 6
def PTB_BANK_WAIT : Nat := 7
def PTB_INDEX_WAIT : Nat := 8
def PTB_QL_WAIT : Nat := 9
def PTB_OFFSET_CLAMPS : Nat := 10
def PTB_GATHER_ENTRIES : Nat := 11
def PTB_TABLE_FAULTS : Nat := 12
def PTB_UPSETS : Nat := 13
def RCA_SLICES_ENC : Nat := 0
def RCA_SLICES_DEC : Nat := 1
def RCA_AUD_FRAMES : Nat := 2
def RCA_SYM_SIDE : Nat := 3
def RCA_SYM_MAIN : Nat := 4
def RCA_SYM_AUD : Nat := 5
def RCA_WORDS_OUT : Nat := 6
def RCA_WORDS_IN : Nat := 7
def RCA_CODE_CYCLES : Nat := 8
def RCA_TABLE_WAIT : Nat := 9
def RCA_OUT_WAIT : Nat := 10
def RCA_QUEUE_WAIT : Nat := 11
def RCA_ROWS_PASSED : Nat := 12
def RCA_CURTAIN_ROWS : Nat := 13
def RCA_SKEWS : Nat := 14
def RCA_OVERRUNS : Nat := 15
def RCA_END_FAILS : Nat := 16
def RCA_STATE_FAILS : Nat := 17
def RCA_GATHER_REJECTS : Nat := 18
def RCA_STOPPED : Nat := 19
def RCA_UPSETS : Nat := 20
def RCA_AUD_WAIT : Nat := 21
def SEQ_PICS_IN : Nat := 0
def SEQ_PICS_DROPPED_IN : Nat := 1
def SEQ_LINES_MISSING : Nat := 2
def SEQ_SLICES_RELEASED : Nat := 3
def SEQ_SLICES_EMITTED : Nat := 4
def SEQ_SLICES_DROPPED : Nat := 5
def SEQ_RELEASE_WAIT_REF : Nat := 6
def SEQ_RELEASE_WAIT_SLOT : Nat := 7
def SEQ_INTRA_PICS : Nat := 8
def SEQ_INTRA_FORCED : Nat := 9
def SEQ_RECON_JOBS : Nat := 10
def SEQ_SEQ_WRITTEN : Nat := 11
def SEQ_ADP_WRITTEN : Nat := 12
def SEQ_ADP_DEFERRED : Nat := 13
def SEQ_ADAPT_JOBS : Nat := 14
def SEQ_ADAPT_ABANDONED : Nat := 15
def SEQ_REH_ITERATIONS : Nat := 16
def SEQ_DEADLINE_MISSES : Nat := 17
def SEQ_BYTES_EMITTED : Nat := 18
def SEQ_PICS_DECODED : Nat := 19
def SEQ_SLICES_DECODED : Nat := 20
def SEQ_SLICES_CONCEALED : Nat := 21
def SEQ_END_WRITTEN : Nat := 22
def RGV_ROWS_DECIDED : Nat := 0
def RGV_ROWS_CODED : Nat := 1
def RGV_ROWS_CURTAIN_RESERVE : Nat := 2
def RGV_ROWS_CURTAIN_SIZE : Nat := 3
def RGV_CURTAIN_PICS : Nat := 4
def RGV_RECODED_SLICES : Nat := 5
def RGV_RECODE_PASSES : Nat := 6
def RGV_PICS_GOVERNED : Nat := 7
def RGV_QL_UP : Nat := 8
def RGV_QL_DOWN : Nat := 9
def RGV_ROWS_AT_QL_MIN : Nat := 10
def RGV_ROWS_AT_QL_MAX : Nat := 11
def RGV_ESTIMATE_BITS : Nat := 12
def RGV_CHARGED_BITS : Nat := 13
def RGV_EXACT_BITS : Nat := 14
def RGV_HEADER_BITS : Nat := 15
def RGV_PAD_SEGMENTS : Nat := 16
def RGV_PAD_BITS : Nat := 17
def RGV_CAP_EVENTS : Nat := 18
def RGV_DECISION_CYCLES : Nat := 19
def RGV_RESTORES : Nat := 20
def FSC_OBJ_COMP : Nat := 0
def FSC_OBJ_FIXED : Nat := 1
def FSC_OBJ_DECOMP : Nat := 2
def FSC_ORIG_IN : Nat := 3
def FSC_BODY_OUT : Nat := 4
def FSC_BODY_IN : Nat := 5
def FSC_ORIG_OUT : Nat := 6
def FSC_LITERAL_BYTES : Nat := 7
def FSC_MATCH_BYTES : Nat := 8
def FSC_SHORT_D_CYCLES : Nat := 9
def FSC_SELFCHECKS : Nat := 10
def FSC_SELFCHECK_FAILS : Nat := 11
def FSC_OUT_FULL : Nat := 12
def FSC_BAD_CODE : Nat := 13
def FSC_DIST : Nat := 14
def FSC_LEN : Nat := 15
def FSC_CHECK : Nat := 16
def FSC_MODE_REJECTS : Nat := 17
def FSC_AREA_WAIT : Nat := 18
def FSC_BUSY : Nat := 19
def FSC_DEADLINE_FIRST : Nat := 20
def FSC_STOPPED : Nat := 21
def HIF_CMDS_ADMITTED : Nat := 0
def HIF_CMDS_REJECTED : Nat := 1
def HIF_DOORBELLS : Nat := 2
def HIF_DOORBELL_REJECTS : Nat := 3
def HIF_RECORDS : Nat := 4
def HIF_EVENTS : Nat := 5
def HIF_RING_FULL_CYCLES : Nat := 6
def HIF_HELD_RECORDS : Nat := 7
def HIF_CH_CREATED : Nat := 8
def HIF_CH_DESTROYED : Nat := 9
def HIF_CH_RETIRED : Nat := 10
def HIF_SWAPS_OUT : Nat := 11
def HIF_SWAPS_IN : Nat := 12
def HIF_SWAP_BYTES : Nat := 13
def HIF_SWAP_DEFERRED : Nat := 14
def HIF_RETRIES : Nat := 15
def HIF_CANCELS : Nat := 16
def HIF_JOBS_CANCELLED : Nat := 17
def HIF_RESUMES : Nat := 18
def HIF_RESUME_STALE : Nat := 19
def HIF_LIVE_BINDS : Nat := 20
def HIF_CODES_SUPPRESSED : Nat := 21
def HIF_FENCE_WAIT : Nat := 22
def XLT_LOOKUPS : Nat := 0
def XLT_HITS : Nat := 1
def XLT_WALKS : Nat := 2
def XLT_WALK_READS : Nat := 3
def XLT_WALK_CYCLES : Nat := 4
def XLT_FAULTS : Nat := 5
def XLT_PERM_FAULTS : Nat := 6
def XLT_HOLDS : Nat := 7
def XLT_FETCHES : Nat := 8
def XLT_FETCH_BYTES : Nat := 9
def XLT_FETCH_RACES : Nat := 10
def XLT_INVALS : Nat := 11
def XLT_INVAL_CYCLES : Nat := 12
def XLT_REMOTE_REQS : Nat := 13
def XLT_REMOTE_BYTES : Nat := 14
def XLT_WIN_FAULTS : Nat := 15
def MEM_RD_BYTES : Nat := 0
def MEM_WR_BYTES : Nat := 1
def MEM_RD_REQS : Nat := 2
def MEM_WR_REQS : Nat := 3
def MEM_PARTIAL_WR : Nat := 4
def MEM_ECC_LINE_RD : Nat := 5
def MEM_CORRECTED : Nat := 6
def MEM_UNCORRECTABLE : Nat := 7
def MEM_SCRUB_LINES : Nat := 8
def MEM_SCRUB_DROPPED : Nat := 9
def MEM_REFRESH_CYCLES : Nat := 10
def MEM_BANK_CONFLICTS : Nat := 11
def MEM_LAT_SUM : Nat := 12
def MEM_LAT_OVER : Nat := 13
def MEM_DEADLINE_REQS : Nat := 14
def MEM_REFUSED : Nat := 15
def MEM_POISON_RD : Nat := 16
def ETH_RX_FRAMES : Nat := 0
def ETH_TX_FRAMES : Nat := 1
def ETH_RX_BYTES : Nat := 2
def ETH_TX_BYTES : Nat := 3
def ETH_RX_DROP_CLASS : Nat := 4
def ETH_RX_OVERSIZE : Nat := 5
def ETH_RX_FCS_ERR : Nat := 6
def ETH_FEC_CORRECTED : Nat := 7
def ETH_FEC_UNCORRECTED : Nat := 8
def ETH_PFC_RX : Nat := 9
def ETH_PFC_TX : Nat := 10
def ETH_PFC_WD_DROPS : Nat := 11
def ETH_ECN_CE_RX : Nat := 12
def ETH_LINK_DOWNS : Nat := 13
def RDM_REQ_READS : Nat := 0
def RDM_REQ_WRITES : Nat := 1
def RDM_RSP_READS : Nat := 2
def RDM_RSP_WRITES : Nat := 3
def RDM_BYTES_TX : Nat := 4
def RDM_BYTES_RX : Nat := 5
def RDM_RETRANSMITS : Nat := 6
def RDM_QP_ERRORS : Nat := 7
def RDM_NAK_TX : Nat := 8
def RDM_CNP_TX : Nat := 9
def RDM_CNP_RX : Nat := 10
def RDM_EMIT_DEPTH : Nat := 11
def RDM_NOTIFY_TX : Nat := 12
def MED_RX_PKTS : Nat := 0
def MED_TX_PKTS : Nat := 1
def MED_SEQ_GAPS : Nat := 2
def MED_LATE_PKTS : Nat := 3
def MED_RING_FULL : Nat := 4
def MED_BAD_VER : Nat := 5
def MED_RTCP_DISCARD : Nat := 6
def MED_AUD_LOST : Nat := 7
def MED_EGRESS_LATE : Nat := 8
def MED_EGRESS_REPEATS : Nat := 9
def MED_FILTERED : Nat := 10
def MED_PTP_RX : Nat := 11
def MED_PTP_TX : Nat := 12
def MED_TIME_STEPS : Nat := 13
def MED_PPS_EDGES : Nat := 14
def MED_IGMP_TX : Nat := 15
def SEC_CSW_APPLIED : Nat := 0
def SEC_CSW_FAILED : Nat := 1
def SEC_VERIFIES : Nat := 2
def SEC_SIGNS : Nat := 3
def SEC_ATTESTS : Nat := 4
def SEC_SHAKE_BYTES : Nat := 5
def SEC_NONCES : Nat := 6
def SEC_STORE_WRITES : Nat := 7
def SMG_HELLOS : Nat := 0
def SMG_DATA_RX : Nat := 1
def SMG_DATA_DUP : Nat := 2
def SMG_DATA_DROPPED : Nat := 3
def SMG_ACKS : Nat := 4
def SMG_BAD_MSG : Nat := 5
def SMG_REPAIRS : Nat := 6
def PAIR_BEATS_TX : Nat := 0
def PAIR_BEATS_RX : Nat := 1
def PAIR_MISSED : Nat := 2
def PAIR_FORWARDS : Nat := 3
def PAIR_COMMITS : Nat := 4
def PAIR_ACKS : Nat := 5
def PAIR_MIRROR_BYTES : Nat := 6
def PAIR_GATE_WAIT : Nat := 7
def PAIR_DIVERGED : Nat := 8
def PAIR_DISCARDED : Nat := 9
def PAIR_JOINS : Nat := 10
def PAIR_JOIN_FAILS : Nat := 11
def PAIR_PROMOTES : Nat := 12
def PAIR_FENCES : Nat := 13
def CTR_SAMPLES : Nat := 0
def CTR_CLOSED_SAMPLES : Nat := 1
def CTR_LIVE_SAMPLES : Nat := 2
def CTR_COINCIDENT : Nat := 3
def CTR_ABSENT : Nat := 4
def CTR_GO_IGNORED : Nat := 5
def TRC_PACKETS : Nat := 0
def TRC_BRANCH_PKTS : Nat := 1
def TRC_INDIRECT_PKTS : Nat := 2
def TRC_SYNC_PKTS : Nat := 3
def TRC_EVENT_PKTS : Nat := 4
def TRC_GAP_PKTS : Nat := 5
def TRC_LOST : Nat := 6
def TRC_STALL_CYCLES : Nat := 7
def TRC_DRAIN_BYTES : Nat := 8
def TRC_TRIGGERS : Nat := 9
def TRC_FREEZES : Nat := 10
def TRC_DBG_HALTS : Nat := 11
def TRC_DBG_STEPS : Nat := 12
def GLB_REG_READS : Nat := 0
def GLB_REG_WRITES : Nat := 1
def GLB_UNMAPPED_WRITES : Nat := 2
def GLB_CSW_PLAIN : Nat := 3
def GLB_NAKS : Nat := 4
def GLB_ALERTS : Nat := 5
def HQD_DB_WRITES : Nat := 0
def HQD_DB_ACCEPTED : Nat := 1
def HQD_DB_FORM : Nat := 2
def HQD_DB_NOQUEUE : Nat := 3
def HQD_HEAD_WRITES : Nat := 4
def HQD_HEAD_REJECTS : Nat := 5
def LOG_RECORDS : Nat := 0
def LOG_DROPPED : Nat := 1
def LOG_GAPS : Nat := 2
def LOG_READ_BYTES : Nat := 3
def ENS_FORMS : Nat := 0
def ENS_DISSOLVES : Nat := 1
def ENS_FORM_REJECTS : Nat := 2
def ENS_RESIZES : Nat := 3
def ENS_EMPTY_REJECTS : Nat := 4
def ENS_VIEW_WRITES : Nat := 5
def SHS_RD_BYTES : Nat := 0
def SHS_WR_BYTES : Nat := 1
def SHS_BANK_CONFLICTS : Nat := 2
def SHS_CORRECTED : Nat := 3
def SHS_UNCORRECTABLE : Nat := 4
def SHS_SPACE_REJECTS : Nat := 5
def PWR_ENERGY_J : Nat := 0
def PWR_CAP_CYCLES : Nat := 1
def PWR_CAP_EVENTS : Nat := 2
def PWR_THERM_WARNS : Nat := 3
def PWR_VIN_WARNS : Nat := 4
def PWR_STOPS : Nat := 5
def PWR_POWER_UPS : Nat := 6
def PWR_RESETS : Nat := 7
def PWR_PPS_MISSING : Nat := 8
def PWR_PEAK_DW : Nat := 9
def PLY_ARR_BUSY : Nat := 0
def PLY_ARR_IDLE_QNE : Nat := 1
def PLY_MACS : Nat := 2
def PLY_FILL : Nat := 3
def PLY_VEC_BUSY : Nat := 4
def PLY_TAB_BUSY : Nat := 5
def PLY_TRE_WAIT : Nat := 6
def PLY_RELAY_WAIT : Nat := 7
def PLY_ENG_SEM_WAIT : Nat := 8
def PLY_THR_SEM_WAIT : Nat := 9
def PLY_THR_BAR_WAIT : Nat := 10
def PLY_THR_QFULL : Nat := 11
def PLY_INSTRET : Nat := 12
def PLY_ICACHE_MISS : Nat := 13
def PLY_CUES_ISSUED : Nat := 14
def PLY_CUES_DONE : Nat := 15
def PLY_LS_CONFLICT : Nat := 16
def PLY_LS_READ_BYTES : Nat := 17
def PLY_LS_WRITE_BYTES : Nat := 18
def PLY_LS_ECC_CORRECTED : Nat := 19
def PLY_UPSETS : Nat := 20
def PLY_JOBS : Nat := 21
def PLY_YIELDS : Nat := 22
def PLY_SAVE_BYTES : Nat := 23
def TRE_NTT_CUES : Nat := 0
def TRE_FFTCONV_CUES : Nat := 1
def TRE_RAW_CUES : Nat := 2
def TRE_BUSY_NTT : Nat := 3
def TRE_BUSY_FFT : Nat := 4
def TRE_IDLE : Nat := 5
def TRE_NTT_BUTTERFLIES : Nat := 6
def TRE_FFT_BUTTERFLIES : Nat := 7
def TRE_POINTWISE : Nat := 8
def TRE_KER_XFORMS : Nat := 9
def TRE_KER_PRE : Nat := 10
def TRE_IN_BYTES : Nat := 11
def TRE_OUT_BYTES : Nat := 12
def TRE_RR_SWITCHES : Nat := 13
def TRE_WAIT_CUES : Nat := 14
def TRE_RANGE_DECL : Nat := 15
def TRE_RANGE_KER : Nat := 16
def TRE_RANGE_ACT : Nat := 17
def TRE_STOPPED : Nat := 18
def TRE_UPSETS : Nat := 19
def TRE_OUT_SAMPLES : Nat := 20
def TRE_WRAP_SAMPLES : Nat := 21
def TRE_CLIPPED : Nat := 22

end Sys2Proof.Machine.Cnt
end

