-- ==== Sys2Proof/Config.lean ====
section
/-! DEFINITION. What an implementation fixes and what the spec leaves open: constants with no body, so that no proof
can use a value of them. -/

namespace Sys2Proof.Config

/-- The free values of the model, one for each draw of the state's draw counter (log entry 5). -/
opaque freeValue : Nat → Nat

/-- Module serial number, MAC addresses, mask ROM version and die stepping: fixed at manufacture (spec/15, spec/18). -/
opaque serial : Nat
opaque mac : Nat → Nat
opaque romVersion : Nat
opaque stepping : Nat

/-- The HELPER and CHAIN areas of the identity store, and the public key in CHAIN's device certificate (spec/15, R550, R551). -/
opaque helper : List Byte
opaque chain : List Byte
opaque certKey : List Byte

/-- The corrected PUF response, of the SRAM as it is read at a start and the helper data (spec/15, R546, R551); the spec does not give the
correction. -/
opaque pufCorrect : List Byte → List Byte → List Byte

/-- PK.root of SLH-DSA-SHAKE-256f key generation (FIPS 205), of SK.seed and PK.seed (spec/15, R551). -/
opaque slhRoot : List Byte → List Byte → List Byte

/-- SHAKE256 cut to a number of bytes (FIPS 202); the spec names the function and does not define it. -/
opaque shake256 : List Byte → Nat → List Byte

/-- SLH-DSA verification (FIPS 205): key, 256f, message, signature. -/
opaque slhVerify : List Byte → Bool → List Byte → List Byte → Bool

/-- SLH-DSA-SHAKE-256f signing (FIPS 205): SK.seed, SK.prf and PK.seed of the key pair, and the message. -/
opaque slhSign : List Byte × List Byte × List Byte → List Byte → List Byte

/-- The vendor root key held in mask ROM (spec/15, R558). -/
opaque vendorKey : List Byte

/-- Which of the FP32 numbers within 2 units in the last place exp, natural log, tanh, sigmoid and log2 of an FP32 pattern
give (spec/02, R80). -/
opaque expUlp : BitVec 32 → Nat
opaque lnUlp : BitVec 32 → Nat
opaque tanhUlp : BitVec 32 → Nat
opaque sigmoidUlp : BitVec 32 → Nat
opaque log2Ulp : BitVec 32 → Nat

/-- The FP32 result of a division of an FP32 pattern that is neither NaN nor 0 by a zero, and of the logarithm of a zero: the
spec gives neither (R46, R80; log entry 166). -/
opaque divZero : BitVec 32 → BitVec 32 → BitVec 32
opaque lnZero : BitVec 32 → BitVec 32

/-- The Script block as Glovex writes it, which the spec does not lay out (spec/07, R255), of every Script constant of R61: weights,
biases, multipliers and element constants; coding tables; audio tables; requantisation records; thresholds; clamp bounds. -/
opaque scriptBytes : List Byte × Option (List Byte) × Option (List Byte) × List (Nat × List Byte) × List (List Int) × List (Int × Int) × (Nat × Nat × Nat × Nat) → List Byte

/-- The value of a register other than a0 at a thread's start, which the spec does not give (spec/04, R140; log entry 26): thread,
register. -/
opaque freshReg : Nat → Nat → Nat

/-- Bytes of the cue sheet window beyond the image (spec/04, R126). -/
opaque beyondCode : Nat → Byte

/-- The exact value of the last butterfly of a 1D transform, before its rounding: the spec fixes the order of the butterflies by N alone
and does not give it (spec/05, R180). Inverse or forward, N, the input words, the bin, whether its imaginary part; a kind (1 NaN, 2
infinity, else finite), sign, mantissa and exponent. -/
opaque fftLast : Bool → Nat → List (BitVec 32) → Nat → Bool → Nat × Bool × Nat × Int

/-- FFTCONV (R180): a word of the 2D transform of an input channel's tile (N, its values), of a kernel (frame, its bytes); one complex
multiply-accumulate of the transform domain (sum, input, kernel: real and imaginary parts); and the exact value of the last butterfly
of a sample of the 2D inverse (N, the words, the sample). -/
opaque tileWord : Nat → List (BitVec 32) → Nat → BitVec 32
opaque kernelWord : List Byte → List Byte → Nat → BitVec 32
opaque complexMac : BitVec 32 × BitVec 32 → BitVec 32 × BitVec 32 → BitVec 32 × BitVec 32 → BitVec 32 × BitVec 32
opaque tileLast : Nat → List (BitVec 32 × BitVec 32) → Nat → Nat × Bool × Nat × Int

/-- The spatial kernel that a pre-transformed kernel of an NTTCONV stands for; the spec gives no transform root or order
(spec/05, R174): N, the kernel's bytes, the tap. -/
opaque kernelOf : Nat → List Byte → Nat → Int

/-- The FP32 bilinear weighting of an Ad-lib WARP, whose order of roundings is not stated (spec/04, R120): ax, ay, taps. -/
opaque bilinear : Nat → Nat → List (BitVec 32) → BitVec 32

/-- Where the vector unit's space-to-depth and depth-to-space take their elements from, which no field of the cue says
(spec/04, R120): SUBOP, count of elements, index. -/
opaque moveIndex : Nat → Nat → Nat → Nat

/-- The shared stagehand on which the picture sequencer holds the input-ring stream, or the output stream, of a channel: the spec says
"on shared stagehands" (spec/06, R195; log entry 191). -/
opaque seqShared : Nat → Bool → Nat

/-- Where a COPY stream writes, as a channel virtual address: no field of the descriptor names it (spec/06, R196). -/
opaque copyBase : List Byte → Nat

/-! What the layers of a model package compute (spec/00, R6; spec/02, R61): the package is Glovex's, and the spec gives its
layers no numbers. Each is a function of exactly what its rule lets it read, the package by its identity (log entry 12). -/

/-- The sum of the mean layer, before its requantisation, and the scale value σ of a latent element (R292, R329): model, z of the hyper
rows read, ŷ of the rows above in the slice, ŷ of the groups before in the row, index of the element in the order of R266. -/
opaque latMean : Nat → List (List Int) → List (List Int) → List Int → Nat → Int
opaque latScale : Nat → List (List Int) → List (List Int) → List Int → Nat → Int

/-- The windows of an adapter-eligible layer in the synthesis of a block row (R74, R277): how many output positions the row needs of
the layer, and the values of the window at a position in the order of R62. Model, geometry (WIDTH, HEIGHT, CHROMA, BIT_DEPTH), the
synthesis inputs of the rows it reads, what the adapters of the layers before add to their sums, the lines of the reference pictures
by block row and plane; the row, the layer, the position. -/
opaque layerPlaces : Nat × (Nat × Nat × Nat × Nat) → Nat → Nat → Nat
opaque layerWindow : Nat × (Nat × Nat × Nat × Nat) × List (List Int) × List (Nat × List (List Int)) × List (List (Nat × List (List Nat))) → Nat → Nat → Nat → List Int

/-- A sample of a reconstructed block row (R346, R376), and the flow of one (R72, R384), of the same arguments; then the row, the plane,
the sample. -/
opaque synth : Nat × (Nat × Nat × Nat × Nat) × List (List Int) × List (Nat × List (List Int)) × List (List (Nat × List (List Nat))) → Nat → Nat → Nat → Nat
opaque flow : Nat × (Nat × Nat × Nat × Nat) × List (List Int) × List (Nat × List (List Int)) × List (List (Nat × List (List Nat))) → Nat → Nat → Nat → Int × Int

/-! The encoder's Ad-lib layers. Model, geometry, the picture's lines that the slice's analysis may read, the reference pictures. -/

/-- The FP32 latent of an element of a block row: the row, the index of the element in the order of R266 (R328). -/
opaque analysis : Nat × (Nat × Nat × Nat × Nat) × List Byte × List (List (Nat × List (List Nat))) → Nat → Nat → Nat

/-- The FP32 output of the hyper-analysis (R294): model, geometry, the slice's latents by row, the hyper row, the index. -/
opaque hyperAnalysis : Nat × (Nat × Nat × Nat × Nat) → List (List Nat) → Nat → Nat → Nat

/-- Rehearsal (R350, R351): the FP32 sample of the Ad-lib synthesis of the slice, the package's rate proxy, and the gradient of the loss
with respect to a latent. Model, geometry, the latents of the rows around the slice, the reference pictures; the quality level, the
latents; for the gradient also the samples, the loss and LAMBDA. -/
opaque rehSample : Nat × (Nat × Nat × Nat × Nat) × List (List Nat) × List (List (Nat × List (List Nat))) → Nat → List Nat → Nat → Nat
opaque rateProxy : Nat × (Nat × Nat × Nat × Nat) × List (List Nat) × List (List (Nat × List (List Nat))) → Nat → List Nat → Nat
opaque rehGrad : Nat × (Nat × Nat × Nat × Nat) × List (List Nat) × List (List (Nat × List (List Nat))) → Nat → List Nat → List Nat → Nat → Nat → Nat → Nat

/-- Fine-tuning (R353, R356): the FP32 sample of the Ad-lib synthesis of the intra picture, the gradient of the squared error with
respect to a parameter, and the FP32 code of the largest magnitude of a layer's down output over the picture. Model, geometry, the
synthesis inputs by block row, the adapters (down- and up-projection of each eligible layer, BF16 codes). -/
opaque tuneSample : Nat × (Nat × Nat × Nat × Nat) × List (List Int) × List (List Nat) → Nat → Nat
opaque tuneGrad : Nat × (Nat × Nat × Nat × Nat) × List (List Int) × List (List Nat) → List Nat → Nat → Nat → Nat → Nat
opaque downMag : Nat × (Nat × Nat × Nat × Nat) × List (List Int) × List (List Nat) → Nat → Nat

/-- Mean and scale value of an audio latent (R397): model, hyper symbols of the channel, index. -/
opaque audMean : Nat → List Int → Nat → Int
opaque audScale : Nat → List Int → Nat → Int

/-- hi and lo of an audio sample (R398, R399): model, the channel's ŷ of frames f - 1 and f, the sample. -/
opaque audHi : Nat → List Int → List Int → Nat → Nat
opaque audLo : Nat → List Int → List Int → Nat → Nat

/-- The FP32 outputs of the audio analysis, hyper and latent (R397): model, the bytes of the frame's slot, the channel, the index. -/
opaque audHyper : Nat × List Byte → Nat → Nat → Nat
opaque audLatent : Nat × List Byte → Nat → Nat → Nat

/-- M and S of a rank channel of a down-projection (R356): the unit of the base layer's input is the package's, which the spec does
not give. Model, layer, exponent of the weights less that of the common unit. -/
opaque downScale : Nat → Nat → Int → Nat × Nat

/-- A sample of an enhanced picture (R391): model, size of the ensemble, bind record, the bytes of its one or two input
pictures, its PTS, line and place in the line of the output layout. -/
opaque enhSample : Nat × Nat × List Byte × List Byte × List Byte × Nat → Nat → Nat → Nat

/-- The scene-cut score of a pair of input pictures (R393): an FP32 code. -/
opaque cutScore : Nat → List Byte → List Byte → Nat

/-- The PTS of a picture or frame that a receive flow brings, which the spec does not derive from its RTP timestamp (R459, R530,
R531): RTP timestamp, timescale, device time at its first packet. -/
opaque flowPts : Nat × Nat × Nat → Nat

/-- The MAP and REPAIR_LOG areas, and the POLICY area, as stored: the spec gives the identity store no byte layout (spec/15, R550, R567). Spares,
disabled players, repairs; keys (index, 256f, key), persisted values, BOOT_IP, BOOT_ETH. -/
opaque mapBytes : List Nat × List Nat × List (Nat × Nat) → List Byte
opaque policyBytes : List (Nat × Bool × List Byte) × List (Nat × Nat × Nat × Nat) × Nat × Nat → List Byte

/-- The compressor's choice of a lossless body, which R410 leaves to it. -/
opaque fscBody : List Byte → List Byte

end Sys2Proof.Config
end

