-- ==== Sys2Proof/Machine/State.lean ====
section
/-! DEFINITION. The state of the EQ64: everything the spec gives the part, as plain data. -/

namespace Sys2Proof.Machine

/-- Why the machine stops: nothing stops it. The spec gives every command an effect (log entry 194). -/
inductive Fault where
deriving DecidableEq, Repr

/-- Why a command is not run. `notModelled` is raised by a dispatch arm whose command has no meaning yet; safe. -/
inductive Refusal where
  | notModelled (mnemonic : String)
deriving DecidableEq, Repr

/-- The whole machine. -/
structure State where
  pending : List Instr := []          -- commands waiting, first in first out
  free : Nat := 0                     -- draws made of the free values (log entry 5)
  time : Nat := 0                     -- device time, ns (spec/14, R536)
  regs : Tbl Word := []               -- registers that differ from their reset value, by page * 4096 + offset
  latch : Tbl Word := []              -- latched high words (spec/18, R633)
  ctr : Tbl Nat := []                 -- cumulative counters, by page * 32 + i (spec/17)
  banks : Tbl Bank := []              -- counter banks, by page
  sample : Option (Nat × Nat × Nat) := none -- sample in progress: page, mode, swaps of the page at GO
  mem : List Host.Cell := []          -- LPDDR6, Shared Store and local stores, by device address (spec/13, R483)
  poison : List Nat := []             -- poisoned lines of LPDDR6, rising (R489)
  out : List Msg := []                -- what the module has sent, newest first (log entry 6)
  log : List LogRec := []             -- callboard records, newest first (spec/16, R583)
  logLost : Nat := 0                  -- records dropped since the last gap record (R585)
  pins : Pins := {}
  ids : IdStore
  boot : BootSt := {}
  ports : Tbl Port := []
  qps : Tbl Qp := []
  flows : Tbl Flow := []              -- receive flows 0 to 255, transmit flows 256 to 511
  servo : Servo := {}
  traces : Tbl Trace := []
  pair : PairSt := {}
  queues : Tbl Queue := []            -- queues in service
  rings : Tbl Ring := []              -- rings in service
  q0Wanted : Bool := false            -- Q0_EN set and not yet in effect (R447)
  due : List Due := []                -- records ready for their rings, in the order they became ready
  devSeq : Nat := 0                   -- last number of the device counter (R466)
  chans : Tbl Chan := []
  points : Tbl Chan := []             -- committed mirror points of the understudy, by channel index (R592)
  nextIndex : Nat := 0                -- lowest channel index never used (R428)
  freed : List Nat := []              -- indices freed, least recently first
  opens : List OpenCmd := []
  jobs : Tbl Job := []                -- admitted jobs, by the order of their admission
  nextJob : Nat := 0
  tlb : List Tlb := []                -- cached translations, newest first (R498)
  inval : Option (Nat × Nat × Nat) := none -- invalidation in progress: scope, VA, handle (R500)
  fetches : Tbl Fetch := []           -- page fetches, in halt order (R504)
  nextFetch : Nat := 0
  players : Tbl Player := []          -- by physical index (spec/04)
  treLast : Tbl Nat := []             -- ensemble that each transform engine served last, by its page (R15, R186)
  streams : Tbl Stream := []          -- by 8 * stagehand + slot (spec/06)
  shds : Tbl Shd := []                -- by stagehand
  chains : List ChainSt := []         -- chains waiting or granted, in admission order (R212)
  relays : Tbl Ring4 := []            -- by wing
  stores : List PicStore := []        -- pictures on their way into reference slots (spec/11)
  slice : Option (Nat × Nat) := none  -- the video slice on coders 0 and 1 (R11): job and its phase
  tableBanks : List (Option Nat) := [none, none] -- model identities of the table banks (R312)
  lives : Tbl Live := []              -- bindings in force, by ENC channel index (R460)
  ens : Tbl Ens := []                 -- formed ensembles (spec/01, R17)
deriving DecidableEq, Repr

/-- The identity store of a module as delivered: one spare a wing, the last of its seventeen players, no further player
disabled, no repair, no operator key (DESIGN CHOICE, log entry 2). -/
def IdStore.delivered : IdStore where
  helper := ⟨Config.helper, Config.helper, true, true, false⟩
  map := ⟨⟨[16, 33, 50, 67], []⟩, ⟨[16, 33, 50, 67], []⟩, true, true, false⟩
  macs := ⟨((List.range 4).map Config.mac, Config.serial), ((List.range 4).map Config.mac, Config.serial), true, true, false⟩
  repairLog := ⟨[], [], true, true, false⟩
  policy := ⟨{}, {}, true, true, false⟩
  chain := ⟨Config.chain, Config.chain, true, true, false⟩
  certKey := Config.certKey

/-- The machine before its input is applied: every register at its reset value, nothing in memory, no command waiting. -/
def State.reset : State where
  ids := IdStore.delivered

end Sys2Proof.Machine
end

