-- ==== Sys2Proof/Machine/RegTable.lean ====
section
/-! DEFINITION. The register maps of spec/01, 04 to 06, 08, 09, 11 to 19 as data: for every kind of page its
registers, and a name for every field. Written from the register tables of those chapters. -/

namespace Sys2Proof.Machine

/-- The sizes table of player pages and ensemble views (spec/01, R26). -/
def regsSize : List RegDesc := [
  ⟨0x100, 1, 0, [⟨0, 8, .ro, 0x0⟩, ⟨8, 8, .ro, 0x0⟩, ⟨16, 8, .ro, 0x0⟩, ⟨24, 8, .ro, 0x0⟩]⟩,
  ⟨0x104, 1, 0, [⟨0, 16, .ro, 0x0⟩, ⟨16, 8, .ro, 0x0⟩]⟩,
  ⟨0x108, 1, 0, [⟨0, 32, .ro, 0x0⟩]⟩,
  ⟨0x10c, 1, 0, [⟨0, 16, .ro, 0x0⟩, ⟨31, 1, .ro, 0x0⟩]⟩]

/-- Registers of the PLY page map. -/
def regsPly : List RegDesc := [
  ⟨0x110, 1, 0, [⟨0, 7, .ro, 0x0⟩, ⟨8, 8, .ro, 0xff⟩, ⟨16, 2, .ro, 0x0⟩, ⟨18, 2, .ro, 0x0⟩]⟩,
  ⟨0x114, 1, 0, [⟨0, 3, .ro, 0x0⟩, ⟨8, 8, .ro, 0x0⟩, ⟨16, 6, .ro, 0x0⟩, ⟨24, 7, .ro, 0x0⟩]⟩,
  ⟨0x118, 1, 0, [⟨0, 32, .ro, 0x0⟩]⟩,
  ⟨0x11c, 1, 0, [⟨0, 32, .ro, 0x0⟩]⟩,
  ⟨0x120, 1, 0, [⟨0, 4, .ro, 0x0⟩, ⟨4, 4, .ro, 0x0⟩, ⟨8, 4, .ro, 0x0⟩, ⟨12, 4, .ro, 0x0⟩, ⟨16, 4, .ro, 0x0⟩, ⟨20, 4, .ro, 0x0⟩, ⟨24, 4, .ro, 0x0⟩, ⟨28, 4, .ro, 0x0⟩]⟩,
  ⟨0x124, 1, 0, [⟨0, 5, .ro, 0x0⟩, ⟨5, 5, .ro, 0x0⟩, ⟨10, 5, .ro, 0x0⟩, ⟨15, 5, .ro, 0x0⟩, ⟨20, 5, .ro, 0x0⟩, ⟨25, 5, .ro, 0x0⟩]⟩,
  ⟨0x128, 8, 4, [⟨0, 8, .ro, 0x0⟩, ⟨8, 8, .ro, 0x0⟩, ⟨16, 8, .ro, 0x0⟩, ⟨24, 8, .ro, 0x0⟩]⟩,
  ⟨0x148, 1, 0, [⟨0, 3, .ro, 0x0⟩, ⟨3, 3, .ro, 0x0⟩, ⟨6, 3, .ro, 0x0⟩, ⟨9, 1, .ro, 0x0⟩, ⟨10, 6, .ro, 0x0⟩, ⟨16, 15, .ro, 0x0⟩, ⟨31, 1, .w1c, 0x0⟩]⟩,
  ⟨0x14c, 1, 0, [⟨0, 32, .ro, 0x0⟩]⟩,
  ⟨0x150, 1, 0, [⟨0, 32, .ro, 0x0⟩]⟩,
  ⟨0x154, 1, 0, [⟨0, 4, .rw, 0x4⟩]⟩]

/-- Registers of the TRE page map. -/
def regsTre : List RegDesc := [
  ⟨0x100, 1, 0, [⟨0, 2, .ro, 0x0⟩, ⟨8, 8, .ro, 0x0⟩, ⟨16, 6, .ro, 0x0⟩, ⟨24, 3, .ro, 0x0⟩]⟩,
  ⟨0x104, 1, 0, [⟨0, 2, .ro, 0x0⟩, ⟨8, 8, .ro, 0x0⟩, ⟨16, 10, .ro, 0x0⟩, ⟨31, 1, .w1c, 0x0⟩]⟩,
  ⟨0x108, 1, 0, [⟨0, 32, .ro, 0x0⟩]⟩,
  ⟨0x10c, 1, 0, [⟨0, 32, .ro, 0x0⟩]⟩]

/-- Registers of the SMV page map. -/
def regsSmv : List RegDesc := [
  ⟨0x100, 1, 0, [⟨0, 4, .ro, 0x0⟩, ⟨4, 4, .ro, 0x0⟩, ⟨8, 4, .ro, 0x0⟩, ⟨12, 4, .ro, 0x0⟩, ⟨16, 4, .ro, 0x0⟩, ⟨20, 4, .ro, 0x0⟩]⟩,
  ⟨0x104, 1, 0, [⟨0, 16, .ro, 0x0⟩, ⟨16, 1, .ro, 0x0⟩]⟩,
  ⟨0x108, 1, 0, [⟨0, 8, .rw, 0x0⟩]⟩,
  ⟨0x110, 1, 0, [⟨0, 3, .ro, 0x0⟩, ⟨3, 1, .ro, 0x0⟩, ⟨4, 1, .ro, 0x0⟩, ⟨15, 1, .w1c, 0x0⟩, ⟨16, 16, .ro, 0x0⟩]⟩,
  ⟨0x114, 1, 0, [⟨0, 32, .ro, 0x0⟩]⟩,
  ⟨0x118, 1, 0, [⟨0, 16, .ro, 0x0⟩]⟩,
  ⟨0x11c, 1, 0, [⟨0, 32, .ro, 0x0⟩]⟩,
  ⟨0x120, 1, 0, [⟨0, 32, .ro, 0x0⟩]⟩,
  ⟨0x124, 1, 0, [⟨0, 32, .ro, 0x0⟩]⟩]

/-- Registers of the SMV0 page map. -/
def regsSmv0 : List RegDesc := [
  ⟨0x140, 1, 0, [⟨0, 12, .rw, 0x400⟩]⟩,
  ⟨0x144, 1, 0, [⟨0, 12, .ro, 0x400⟩, ⟨16, 12, .ro, 0x0⟩]⟩]

/-- Registers of the WRL page map. -/
def regsWrl : List RegDesc := [
  ⟨0x100, 1, 0, [⟨0, 4, .ro, 0x0⟩, ⟨4, 1, .ro, 0x0⟩, ⟨5, 1, .ro, 0x0⟩, ⟨8, 6, .ro, 0x0⟩]⟩,
  ⟨0x104, 1, 0, [⟨0, 32, .ro, 0x0⟩]⟩,
  ⟨0x108, 1, 0, [⟨0, 16, .ro, 0x0⟩]⟩]

/-- Registers of the PTB page map. -/
def regsPtb : List RegDesc := [
  ⟨0x100, 1, 0, [⟨0, 1, .ro, 0x0⟩, ⟨1, 1, .ro, 0x0⟩, ⟨2, 2, .ro, 0x0⟩, ⟨4, 1, .ro, 0x0⟩, ⟨5, 1, .ro, 0x0⟩]⟩,
  ⟨0x110, 8, 4, [⟨0, 32, .ro, 0x0⟩]⟩,
  ⟨0x130, 1, 0, [⟨0, 2, .ro, 0x0⟩, ⟨2, 9, .ro, 0x0⟩, ⟨11, 8, .ro, 0x0⟩, ⟨31, 1, .w1c, 0x0⟩]⟩]

/-- Registers of the RCA page map. -/
def regsRca : List RegDesc := [
  ⟨0x100, 1, 0, [⟨0, 3, .ro, 0x0⟩, ⟨3, 3, .ro, 0x0⟩, ⟨6, 3, .ro, 0x0⟩, ⟨9, 3, .ro, 0x0⟩, ⟨12, 3, .ro, 0x0⟩, ⟨15, 3, .ro, 0x0⟩, ⟨18, 3, .ro, 0x0⟩, ⟨21, 3, .ro, 0x0⟩]⟩,
  ⟨0x104, 1, 0, [⟨0, 32, .ro, 0x0⟩]⟩,
  ⟨0x108, 1, 0, [⟨0, 8, .rw, 0x40⟩]⟩,
  ⟨0x10c, 1, 0, [⟨0, 6, .ro, 0x0⟩, ⟨6, 6, .ro, 0x0⟩, ⟨12, 6, .ro, 0x0⟩, ⟨18, 1, .ro, 0x0⟩, ⟨19, 1, .ro, 0x0⟩, ⟨20, 8, .ro, 0x0⟩, ⟨31, 1, .w1c, 0x0⟩]⟩,
  ⟨0x110, 1, 0, [⟨0, 16, .ro, 0x0⟩, ⟨16, 16, .ro, 0x0⟩]⟩,
  ⟨0x114, 1, 0, [⟨0, 32, .ro, 0x0⟩]⟩]

/-- Registers of the SEQ page map. -/
def regsSeq : List RegDesc := [
  ⟨0x100, 1, 0, [⟨0, 18, .ro, 0x0⟩, ⟨18, 1, .ro, 0x0⟩]⟩,
  ⟨0x104, 1, 0, [⟨0, 16, .rw, 0x3e8⟩]⟩,
  ⟨0x108, 1, 0, [⟨0, 13, .ro, 0x0⟩, ⟨13, 13, .ro, 0x0⟩, ⟨26, 1, .ro, 0x0⟩, ⟨31, 1, .w1c, 0x0⟩]⟩,
  ⟨0x10c, 1, 0, [⟨0, 32, .ro, 0x0⟩]⟩,
  ⟨0x110, 1, 0, [⟨0, 16, .ro, 0x0⟩, ⟨16, 15, .ro, 0x0⟩, ⟨31, 1, .w1c, 0x0⟩]⟩,
  ⟨0x114, 1, 0, [⟨0, 32, .ro, 0x0⟩]⟩]

/-- Registers of the RGV page map. -/
def regsRgv : List RegDesc := [
  ⟨0x100, 1, 0, [⟨0, 8, .ro, 0x0⟩, ⟨8, 1, .ro, 0x0⟩]⟩,
  ⟨0x104, 1, 0, [⟨0, 9, .ro, 0x0⟩, ⟨9, 1, .ro, 0x0⟩, ⟨16, 15, .ro, 0x0⟩, ⟨31, 1, .w1c, 0x0⟩]⟩,
  ⟨0x108, 1, 0, [⟨0, 32, .ro, 0x0⟩]⟩,
  ⟨0x10c, 1, 0, [⟨0, 32, .ro, 0x0⟩]⟩,
  ⟨0x110, 1, 0, [⟨0, 32, .rw, 0x0⟩]⟩,
  ⟨0x114, 1, 0, [⟨0, 3, .ro, 0x0⟩, ⟨3, 1, .ro, 0x0⟩, ⟨16, 15, .ro, 0x0⟩, ⟨31, 1, .ro, 0x0⟩]⟩,
  ⟨0x118, 1, 0, [⟨0, 32, .ro, 0x0⟩]⟩,
  ⟨0x11c, 1, 0, [⟨0, 32, .ro, 0x0⟩]⟩]

/-- Registers of the FSC page map. -/
def regsFsc : List RegDesc := [
  ⟨0x100, 1, 0, [⟨0, 3, .ro, 0x0⟩, ⟨3, 1, .ro, 0x0⟩, ⟨4, 3, .ro, 0x0⟩, ⟨7, 1, .ro, 0x0⟩, ⟨8, 3, .ro, 0x0⟩, ⟨11, 1, .ro, 0x0⟩, ⟨12, 3, .ro, 0x0⟩, ⟨15, 1, .ro, 0x0⟩]⟩,
  ⟨0x104, 1, 0, [⟨0, 1, .rw, 0x1⟩]⟩,
  ⟨0x108, 1, 0, [⟨0, 6, .ro, 0x0⟩, ⟨6, 2, .ro, 0x0⟩, ⟨8, 1, .ro, 0x0⟩, ⟨31, 1, .w1c, 0x0⟩]⟩,
  ⟨0x10c, 1, 0, [⟨0, 32, .ro, 0x0⟩]⟩,
  ⟨0x110, 1, 0, [⟨0, 32, .ro, 0x0⟩]⟩]

/-- Registers of the HIF page map. -/
def regsHif : List RegDesc := [
  ⟨0x100, 1, 0, [⟨0, 1, .rw, 0x0⟩]⟩,
  ⟨0x104, 1, 0, [⟨0, 32, .rw, 0x0⟩]⟩,
  ⟨0x108, 1, 0, [⟨0, 16, .rw, 0x0⟩]⟩,
  ⟨0x10c, 1, 0, [⟨0, 4, .rw, 0x4⟩, ⟨4, 4, .rw, 0x4⟩]⟩,
  ⟨0x110, 1, 0, [⟨0, 32, .rw, 0x0⟩]⟩,
  ⟨0x114, 1, 0, [⟨0, 16, .rw, 0x0⟩]⟩,
  ⟨0x118, 1, 0, [⟨0, 8, .ro, 0x0⟩, ⟨8, 1, .ro, 0x0⟩, ⟨9, 2, .ro, 0x0⟩, ⟨31, 1, .w1c, 0x0⟩]⟩,
  ⟨0x120, 1, 0, [⟨0, 32, .rw, 0x0⟩]⟩,
  ⟨0x124, 1, 0, [⟨0, 3, .ro, 0x0⟩, ⟨3, 1, .ro, 0x0⟩, ⟨4, 3, .ro, 0x0⟩, ⟨7, 1, .ro, 0x0⟩, ⟨8, 6, .ro, 0x0⟩, ⟨16, 15, .ro, 0x0⟩, ⟨31, 1, .ro, 0x0⟩]⟩,
  ⟨0x128, 1, 0, [⟨0, 32, .ro, 0x0⟩]⟩,
  ⟨0x12c, 1, 0, [⟨0, 4, .ro, 0x0⟩, ⟨8, 8, .ro, 0x0⟩, ⟨16, 8, .ro, 0x0⟩, ⟨24, 3, .ro, 0x0⟩]⟩,
  ⟨0x130, 1, 0, [⟨0, 7, .ro, 0x0⟩, ⟨8, 7, .ro, 0x0⟩]⟩,
  ⟨0x134, 1, 0, [⟨0, 19, .ro, 0x0⟩]⟩,
  ⟨0x138, 1, 0, [⟨0, 32, .ro, 0x0⟩]⟩]

/-- Registers of the XLT page map. -/
def regsXlt : List RegDesc := [
  ⟨0x100, 1, 0, [⟨0, 32, .rw, 0x0⟩]⟩,
  ⟨0x104, 1, 0, [⟨0, 16, .rw, 0x0⟩]⟩,
  ⟨0x108, 1, 0, [⟨0, 32, .rw, 0x0⟩]⟩,
  ⟨0x10c, 1, 0, [⟨0, 1, .wo, 0x0⟩, ⟨1, 1, .wo, 0x0⟩, ⟨16, 15, .ro, 0x0⟩, ⟨31, 1, .ro, 0x0⟩]⟩,
  ⟨0x110, 1, 0, [⟨0, 3, .ro, 0x0⟩, ⟨3, 2, .ro, 0x0⟩, ⟨5, 1, .ro, 0x0⟩, ⟨6, 16, .ro, 0x0⟩, ⟨31, 1, .w1c, 0x0⟩]⟩,
  ⟨0x114, 1, 0, [⟨0, 32, .ro, 0x0⟩]⟩,
  ⟨0x118, 1, 0, [⟨0, 32, .ro, 0x0⟩]⟩,
  ⟨0x140, 16, 4, [⟨0, 8, .csw, 0x0⟩, ⟨8, 8, .csw, 0x0⟩, ⟨31, 1, .csw, 0x0⟩]⟩,
  ⟨0x400, 64, 32, [⟨0, 32, .rw, 0x0⟩]⟩,
  ⟨0x404, 64, 32, [⟨0, 32, .rw, 0x0⟩]⟩,
  ⟨0x408, 64, 32, [⟨0, 32, .rw, 0x0⟩]⟩,
  ⟨0x40c, 64, 32, [⟨0, 12, .rw, 0x0⟩, ⟨12, 6, .rw, 0x10⟩, ⟨31, 1, .rw, 0x0⟩]⟩,
  ⟨0x410, 64, 32, [⟨0, 1, .csw, 0x1⟩, ⟨1, 1, .csw, 0x1⟩, ⟨16, 16, .csw, 0x1⟩]⟩]

/-- Registers of the MEM page map. -/
def regsMem : List RegDesc := [
  ⟨0x100, 1, 0, [⟨0, 2, .ro, 0x0⟩, ⟨2, 1, .ro, 0x0⟩, ⟨3, 1, .ro, 0x0⟩, ⟨31, 1, .w1c, 0x0⟩]⟩,
  ⟨0x104, 1, 0, [⟨0, 32, .ro, 0x0⟩]⟩,
  ⟨0x108, 1, 0, [⟨0, 16, .ro, 0x0⟩]⟩,
  ⟨0x10c, 1, 0, [⟨0, 8, .rw, 0x18⟩]⟩]

/-- Registers of the ETH page map. -/
def regsEth : List RegDesc := [
  ⟨0x100, 1, 0, [⟨0, 1, .rw, 0x0⟩, ⟨1, 1, .rw, 0x0⟩, ⟨2, 1, .rw, 0x1⟩, ⟨3, 1, .rw, 0x0⟩, ⟨4, 12, .rw, 0x0⟩, ⟨16, 8, .rw, 0x8⟩, ⟨24, 4, .rw, 0x7⟩]⟩,
  ⟨0x104, 1, 0, [⟨0, 1, .ro, 0x0⟩, ⟨1, 1, .ro, 0x0⟩, ⟨2, 1, .ro, 0x0⟩, ⟨4, 8, .ro, 0x0⟩, ⟨12, 8, .ro, 0x0⟩, ⟨20, 8, .ro, 0x0⟩]⟩,
  ⟨0x108, 1, 0, [⟨0, 32, .ro, 0x0⟩]⟩,
  ⟨0x10c, 1, 0, [⟨0, 32, .ro, 0x0⟩]⟩,
  ⟨0x110, 1, 0, [⟨0, 32, .rw, 0x0⟩]⟩]

/-- Registers of the RDM page map. -/
def regsRdm : List RegDesc := [
  ⟨0x100, 1, 0, [⟨0, 12, .rw, 0x0⟩]⟩,
  ⟨0x104, 1, 0, [⟨0, 2, .rw, 0x0⟩, ⟨2, 2, .rw, 0x0⟩, ⟨4, 2, .rw, 0x2⟩, ⟨6, 3, .rw, 0x7⟩, ⟨9, 5, .rw, 0xe⟩, ⟨14, 3, .rw, 0x3⟩, ⟨17, 1, .rw, 0x0⟩, ⟨18, 1, .rw, 0x0⟩, ⟨19, 1, .rw, 0x0⟩]⟩,
  ⟨0x108, 1, 0, [⟨0, 24, .rw, 0x0⟩]⟩,
  ⟨0x10c, 1, 0, [⟨0, 32, .rw, 0x0⟩]⟩,
  ⟨0x110, 1, 0, [⟨0, 32, .rw, 0x0⟩]⟩,
  ⟨0x114, 1, 0, [⟨0, 1, .rw, 0x1⟩, ⟨1, 3, .rw, 0x1⟩, ⟨4, 12, .rw, 0x32⟩, ⟨16, 16, .rw, 0x3e8⟩]⟩,
  ⟨0x118, 1, 0, [⟨0, 12, .ro, 0x0⟩, ⟨12, 3, .ro, 0x0⟩, ⟨31, 1, .w1c, 0x0⟩]⟩]

/-- Registers of the MED page map. -/
def regsMed : List RegDesc := [
  ⟨0x100, 1, 0, [⟨0, 8, .rw, 0x0⟩, ⟨8, 1, .rw, 0x0⟩]⟩,
  ⟨0x104, 1, 0, [⟨0, 2, .rw, 0x0⟩, ⟨2, 2, .rw, 0x0⟩, ⟨4, 7, .rw, 0x0⟩, ⟨11, 1, .rw, 0x0⟩, ⟨12, 2, .rw, 0x0⟩, ⟨14, 2, .rw, 0x0⟩, ⟨16, 6, .rw, 0x0⟩, ⟨22, 3, .rw, 0x0⟩, ⟨25, 4, .rw, 0x0⟩, ⟨29, 1, .rw, 0x0⟩, ⟨30, 1, .ro, 0x0⟩, ⟨31, 1, .wo, 0x0⟩]⟩,
  ⟨0x108, 1, 0, [⟨0, 32, .rw, 0x0⟩]⟩,
  ⟨0x10c, 1, 0, [⟨0, 32, .rw, 0x0⟩]⟩,
  ⟨0x110, 1, 0, [⟨0, 16, .rw, 0x0⟩, ⟨16, 16, .rw, 0x0⟩]⟩,
  ⟨0x114, 1, 0, [⟨0, 32, .rw, 0x0⟩]⟩,
  ⟨0x118, 1, 0, [⟨0, 14, .rw, 0x0⟩, ⟨14, 13, .rw, 0x0⟩]⟩,
  ⟨0x11c, 1, 0, [⟨0, 16, .rw, 0x0⟩, ⟨16, 16, .rw, 0x0⟩]⟩,
  ⟨0x120, 1, 0, [⟨0, 14, .rw, 0x578⟩, ⟨14, 16, .rw, 0x0⟩]⟩,
  ⟨0x140, 1, 0, [⟨0, 32, .ro, 0x0⟩]⟩,
  ⟨0x144, 1, 0, [⟨0, 32, .ro, 0x0⟩]⟩,
  ⟨0x148, 1, 0, [⟨0, 2, .rw, 0x0⟩, ⟨2, 2, .rw, 0x0⟩, ⟨4, 7, .rw, 0x0⟩, ⟨11, 1, .rw, 0x0⟩]⟩,
  ⟨0x14c, 1, 0, [⟨0, 2, .ro, 0x0⟩, ⟨2, 1, .ro, 0x0⟩]⟩,
  ⟨0x150, 1, 0, [⟨0, 32, .ro, 0x0⟩]⟩,
  ⟨0x154, 1, 0, [⟨0, 32, .wo, 0x0⟩]⟩,
  ⟨0x158, 1, 0, [⟨0, 31, .ro, 0x0⟩, ⟨31, 1, .w1c, 0x0⟩]⟩,
  ⟨0x15c, 1, 0, [⟨0, 32, .rw, 0x0⟩]⟩,
  ⟨0x160, 1, 0, [⟨0, 32, .wo, 0x0⟩]⟩]

/-- Registers of the SEC page map. -/
def regsSec : List RegDesc := [
  ⟨0x100, 8, 4, [⟨0, 32, .ro, 0x0⟩]⟩,
  ⟨0x120, 1, 0, [⟨0, 16, .ro, 0x0⟩, ⟨31, 1, .ro, 0x0⟩]⟩,
  ⟨0x124, 1, 0, [⟨0, 8, .ro, 0x0⟩, ⟨8, 8, .ro, 0x0⟩, ⟨16, 1, .ro, 0x0⟩]⟩,
  ⟨0x130, 3, 4, [⟨0, 32, .csw, 0x0⟩]⟩,
  ⟨0x140, 1, 0, [⟨0, 16, .ro, 0x0⟩, ⟨16, 7, .ro, 0x0⟩, ⟨23, 1, .ro, 0x0⟩, ⟨31, 1, .w1c, 0x0⟩]⟩]

/-- Registers of the SMG page map. -/
def regsSmg : List RegDesc := [
  ⟨0x100, 1, 0, [⟨0, 4, .ro, 0x0⟩, ⟨16, 16, .ro, 0x0⟩]⟩,
  ⟨0x104, 1, 0, [⟨0, 16, .ro, 0x0⟩, ⟨16, 16, .ro, 0x0⟩]⟩,
  ⟨0x108, 1, 0, [⟨0, 32, .ro, 0x0⟩]⟩,
  ⟨0x110, 8, 4, [⟨0, 32, .ro, 0x0⟩]⟩]

/-- Registers of the PAIR page map. -/
def regsPair : List RegDesc := [
  ⟨0x100, 1, 0, [⟨0, 2, .csw, 0x0⟩, ⟨2, 2, .csw, 0x0⟩, ⟨4, 3, .csw, 0x0⟩]⟩,
  ⟨0x104, 1, 0, [⟨0, 32, .csw, 0x0⟩]⟩,
  ⟨0x110, 8, 4, [⟨0, 32, .csw, 0x0⟩]⟩,
  ⟨0x130, 1, 0, [⟨0, 3, .ro, 0x0⟩, ⟨16, 16, .ro, 0x0⟩]⟩,
  ⟨0x134, 1, 0, [⟨0, 8, .ro, 0x0⟩, ⟨8, 8, .ro, 0x0⟩]⟩,
  ⟨0x138, 1, 0, [⟨0, 1, .wo, 0x0⟩]⟩]

/-- Registers of the CTR page map. -/
def regsCtr : List RegDesc := [
  ⟨0x100, 1, 0, [⟨0, 10, .rw, 0x0⟩, ⟨10, 1, .rw, 0x0⟩, ⟨31, 1, .wo, 0x0⟩]⟩,
  ⟨0x104, 1, 0, [⟨0, 15, .ro, 0x0⟩, ⟨15, 1, .ro, 0x0⟩, ⟨16, 1, .ro, 0x0⟩, ⟨17, 1, .ro, 0x0⟩, ⟨31, 1, .ro, 0x0⟩]⟩,
  ⟨0x108, 1, 0, [⟨0, 32, .ro, 0x0⟩]⟩,
  ⟨0x10c, 1, 0, [⟨0, 32, .ro, 0x0⟩]⟩,
  ⟨0x110, 1, 0, [⟨0, 32, .ro, 0x0⟩]⟩,
  ⟨0x200, 24, 8, [⟨0, 32, .ro, 0x0⟩]⟩,
  ⟨0x204, 24, 8, [⟨0, 32, .ro, 0x0⟩]⟩]

/-- Registers of the TRC page map. -/
def regsTrc : List RegDesc := [
  ⟨0x100, 1, 0, [⟨0, 7, .rw, 0x0⟩]⟩,
  ⟨0x104, 1, 0, [⟨0, 1, .rw, 0x0⟩, ⟨1, 8, .rw, 0xff⟩, ⟨9, 1, .rw, 0x1⟩, ⟨10, 1, .rw, 0x0⟩, ⟨11, 5, .rw, 0x10⟩]⟩,
  ⟨0x108, 1, 0, [⟨0, 32, .rw, 0x0⟩]⟩,
  ⟨0x10c, 1, 0, [⟨0, 16, .rw, 0x0⟩, ⟨16, 5, .rw, 0x10⟩]⟩,
  ⟨0x110, 1, 0, [⟨0, 32, .ro, 0x0⟩]⟩,
  ⟨0x114, 1, 0, [⟨0, 32, .rw, 0x0⟩]⟩,
  ⟨0x118, 1, 0, [⟨0, 1, .wo, 0x0⟩, ⟨1, 1, .rw, 0x0⟩, ⟨2, 1, .rw, 0x0⟩, ⟨3, 1, .rw, 0x0⟩, ⟨4, 1, .wo, 0x0⟩, ⟨5, 2, .ro, 0x0⟩, ⟨8, 12, .rw, 0x800⟩]⟩,
  ⟨0x11c, 1, 0, [⟨0, 32, .rw, 0x0⟩]⟩,
  ⟨0x120, 1, 0, [⟨0, 32, .ro, 0x0⟩]⟩,
  ⟨0x130, 1, 0, [⟨0, 8, .wo, 0x0⟩, ⟨8, 8, .wo, 0x0⟩, ⟨16, 8, .wo, 0x0⟩, ⟨24, 8, .ro, 0x0⟩]⟩,
  ⟨0x134, 1, 0, [⟨0, 3, .rw, 0x0⟩, ⟨3, 6, .rw, 0x0⟩]⟩,
  ⟨0x138, 1, 0, [⟨0, 32, .rw, 0x0⟩]⟩,
  ⟨0x13c, 1, 0, [⟨0, 32, .rw, 0x0⟩]⟩]

/-- The common layout of every assigned page (spec/18, R632 to R638). -/
def regsCommon : List RegDesc := [
  ⟨0x0, 1, 0, [⟨0, 16, .ro, 0x1⟩, ⟨16, 8, .ro, 0x0⟩, ⟨24, 8, .ro, 0x0⟩]⟩,
  ⟨0x4, 1, 0, [⟨0, 5, .ro, 0x0⟩, ⟨5, 1, .ro, 0x0⟩, ⟨6, 1, .ro, 0x0⟩, ⟨7, 1, .ro, 0x0⟩, ⟨8, 1, .ro, 0x0⟩, ⟨16, 16, .ro, 0x0⟩]⟩,
  ⟨0x8, 1, 0, [⟨0, 1, .rw, 0x1⟩, ⟨1, 1, .rw, 0x0⟩, ⟨2, 1, .rw, 0x0⟩, ⟨3, 1, .rw, 0x0⟩]⟩,
  ⟨0xc, 1, 0, [⟨0, 1, .ro, 0x0⟩, ⟨1, 1, .ro, 0x0⟩, ⟨2, 1, .ro, 0x0⟩, ⟨3, 1, .ro, 0x0⟩, ⟨4, 1, .ro, 0x0⟩, ⟨5, 1, .ro, 0x0⟩, ⟨16, 16, .ro, 0x0⟩]⟩,
  ⟨0x10, 1, 0, [⟨0, 1, .w1c, 0x0⟩, ⟨1, 1, .w1c, 0x0⟩, ⟨2, 1, .w1c, 0x0⟩, ⟨3, 1, .w1c, 0x0⟩, ⟨4, 1, .w1c, 0x0⟩, ⟨5, 1, .w1c, 0x0⟩]⟩,
  ⟨0x14, 1, 0, [⟨0, 6, .rw, 0x3⟩]⟩,
  ⟨0x18, 1, 0, [⟨0, 16, .ro, 0x0⟩, ⟨16, 16, .ro, 0x0⟩]⟩,
  ⟨0x20, 1, 0, [⟨0, 32, .ro, 0x0⟩]⟩,
  ⟨0x24, 1, 0, [⟨0, 32, .ro, 0x0⟩]⟩,
  ⟨0x28, 1, 0, [⟨0, 1, .ro, 0x0⟩, ⟨1, 1, .ro, 0x0⟩, ⟨2, 1, .ro, 0x0⟩, ⟨16, 16, .ro, 0x0⟩]⟩]

/-- Registers of the GLB page map. -/
def regsGlb : List RegDesc := [
  ⟨0x100, 1, 0, [⟨0, 16, .ro, 0xe064⟩, ⟨16, 8, .ro, 0x0⟩, ⟨24, 8, .ro, 0x50⟩]⟩,
  ⟨0x104, 1, 0, [⟨0, 32, .ro, 0x0⟩]⟩,
  ⟨0x108, 1, 0, [⟨0, 32, .ro, 0x0⟩]⟩,
  ⟨0x10c, 1, 0, [⟨0, 2, .ro, 0x0⟩, ⟨16, 16, .ro, 0x0⟩]⟩,
  ⟨0x110, 1, 0, [⟨0, 6, .ro, 0x0⟩]⟩,
  ⟨0x114, 1, 0, [⟨0, 12, .rw, 0x0⟩, ⟨16, 12, .ro, 0x0⟩, ⟨31, 1, .ro, 0x1⟩]⟩,
  ⟨0x118, 1, 0, [⟨0, 6, .rw, 0x34⟩, ⟨6, 1, .rw, 0x1⟩, ⟨16, 1, .ro, 0x0⟩]⟩,
  ⟨0x120, 1, 0, [⟨0, 32, .rw, 0x0⟩]⟩,
  ⟨0x124, 1, 0, [⟨0, 32, .rw, 0x0⟩]⟩]

/-- Registers of the HQD page map. -/
def regsHqd : List RegDesc := [
  ⟨0x100, 256, 8, [⟨0, 16, .rw, 0x0⟩, ⟨16, 8, .rw, 0x0⟩]⟩,
  ⟨0x104, 256, 8, [⟨0, 16, .ro, 0x0⟩]⟩,
  ⟨0x900, 256, 4, [⟨0, 16, .rw, 0x0⟩, ⟨16, 16, .ro, 0x0⟩]⟩]

/-- Registers of the LOG page map. -/
def regsLog : List RegDesc := [
  ⟨0x100, 1, 0, [⟨0, 32, .ro, 0x0⟩]⟩,
  ⟨0x104, 1, 0, [⟨0, 32, .rw, 0x0⟩]⟩,
  ⟨0x108, 1, 0, [⟨0, 32, .ro, 0x0⟩]⟩,
  ⟨0x10c, 1, 0, [⟨0, 32, .ro, 0x0⟩]⟩]

/-- Registers of the ENS page map. -/
def regsEns : List RegDesc := [
  ⟨0x100, 1, 0, [⟨0, 8, .ro, 0x0⟩]⟩]

/-- Registers of the SHS page map. -/
def regsShs : List RegDesc := [
  ⟨0x100, 1, 0, [⟨0, 12, .ro, 0x500⟩, ⟨16, 12, .ro, 0xa00⟩]⟩,
  ⟨0x104, 1, 0, [⟨0, 5, .ro, 0x0⟩, ⟨31, 1, .w1c, 0x0⟩]⟩,
  ⟨0x108, 1, 0, [⟨0, 26, .ro, 0x0⟩]⟩,
  ⟨0x10c, 1, 0, [⟨0, 32, .ro, 0x0⟩]⟩]

/-- Registers of the PWR page map. -/
def regsPwr : List RegDesc := [
  ⟨0x100, 1, 0, [⟨0, 1, .ro, 0x0⟩, ⟨1, 1, .ro, 0x0⟩, ⟨2, 1, .ro, 0x0⟩, ⟨3, 1, .ro, 0x0⟩, ⟨4, 1, .ro, 0x0⟩, ⟨5, 1, .ro, 0x0⟩, ⟨6, 1, .ro, 0x0⟩, ⟨7, 1, .ro, 0x0⟩]⟩,
  ⟨0x104, 1, 0, [⟨0, 16, .ro, 0x0⟩, ⟨16, 16, .ro, 0x0⟩]⟩,
  ⟨0x108, 1, 0, [⟨0, 16, .ro, 0x0⟩, ⟨16, 16, .ro, 0x0⟩]⟩,
  ⟨0x10c, 1, 0, [⟨0, 8, .ro, 0x0⟩, ⟨8, 5, .ro, 0x0⟩, ⟨16, 8, .ro, 0x0⟩]⟩,
  ⟨0x110, 1, 0, [⟨0, 8, .rw, 0x64⟩, ⟨8, 8, .ro, 0x73⟩, ⟨16, 8, .ro, 0x4b⟩]⟩,
  ⟨0x114, 1, 0, [⟨0, 10, .rw, 0x258⟩]⟩,
  ⟨0x118, 1, 0, [⟨0, 3, .ro, 0x0⟩]⟩]

/-! Field names: register offset, lowest bit, width. -/

namespace Reg

def ENS_SIZE_A_PLAYERS : Fld := ⟨0x100, 0, 8⟩
def ENS_SIZE_A_ARRAYS : Fld := ⟨0x100, 8, 8⟩
def ENS_SIZE_A_TRANSFORM : Fld := ⟨0x100, 16, 8⟩
def ENS_SIZE_A_RELAY : Fld := ⟨0x100, 24, 8⟩
def ENS_SIZE_B_XFERS : Fld := ⟨0x104, 0, 16⟩
def ENS_SIZE_B_HOT_SLOTS : Fld := ⟨0x104, 16, 8⟩
def ENS_LS_BYTES_LS_BYTES : Fld := ⟨0x108, 0, 32⟩
def ENS_SIZE_SEQ_SEQ : Fld := ⟨0x10c, 0, 16⟩
def ENS_SIZE_SEQ_VALID : Fld := ⟨0x10c, 31, 1⟩
def PLY_IDX_PHYS : Fld := ⟨0x110, 0, 7⟩
def PLY_IDX_LOGICAL : Fld := ⟨0x110, 8, 8⟩
def PLY_IDX_WING : Fld := ⟨0x110, 16, 2⟩
def PLY_IDX_QUAD : Fld := ⟨0x110, 18, 2⟩
def PLY_STATE_STATE : Fld := ⟨0x114, 0, 3⟩
def PLY_STATE_ENSEMBLE : Fld := ⟨0x114, 8, 8⟩
def PLY_STATE_RANK : Fld := ⟨0x114, 16, 6⟩
def PLY_STATE_SIZE : Fld := ⟨0x114, 24, 7⟩
def PLY_JOB_HANDLE : Fld := ⟨0x118, 0, 32⟩
def PLY_JOB_SEQ_SEQ : Fld := ⟨0x11c, 0, 32⟩
def PLY_THREADS_THREAD0 : Fld := ⟨0x120, 0, 4⟩
def PLY_THREADS_THREAD1 : Fld := ⟨0x120, 4, 4⟩
def PLY_THREADS_THREAD2 : Fld := ⟨0x120, 8, 4⟩
def PLY_THREADS_THREAD3 : Fld := ⟨0x120, 12, 4⟩
def PLY_THREADS_THREAD4 : Fld := ⟨0x120, 16, 4⟩
def PLY_THREADS_THREAD5 : Fld := ⟨0x120, 20, 4⟩
def PLY_THREADS_THREAD6 : Fld := ⟨0x120, 24, 4⟩
def PLY_THREADS_THREAD7 : Fld := ⟨0x120, 28, 4⟩
def PLY_QUEUES_MAC : Fld := ⟨0x124, 0, 5⟩
def PLY_QUEUES_VEC : Fld := ⟨0x124, 5, 5⟩
def PLY_QUEUES_TAB : Fld := ⟨0x124, 10, 5⟩
def PLY_QUEUES_SHD : Fld := ⟨0x124, 15, 5⟩
def PLY_QUEUES_TRE : Fld := ⟨0x124, 20, 5⟩
def PLY_QUEUES_RLY : Fld := ⟨0x124, 25, 5⟩
def PLY_SEM_SEM4i : Fld := ⟨0x128, 0, 8⟩
def PLY_SEM_SEM4iP1 : Fld := ⟨0x128, 8, 8⟩
def PLY_SEM_SEM4iP2 : Fld := ⟨0x128, 16, 8⟩
def PLY_SEM_SEM4iP3 : Fld := ⟨0x128, 24, 8⟩
def PLY_FAULT_KIND : Fld := ⟨0x148, 0, 3⟩
def PLY_FAULT_THREAD : Fld := ⟨0x148, 3, 3⟩
def PLY_FAULT_ENGINE : Fld := ⟨0x148, 6, 3⟩
def PLY_FAULT_REPEAT : Fld := ⟨0x148, 9, 1⟩
def PLY_FAULT_CAUSE : Fld := ⟨0x148, 10, 6⟩
def PLY_FAULT_DETAIL : Fld := ⟨0x148, 16, 15⟩
def PLY_FAULT_VALID : Fld := ⟨0x148, 31, 1⟩
def PLY_FAULT_ADDR_ADDR : Fld := ⟨0x14c, 0, 32⟩
def PLY_FAULT_VAL_VALUE : Fld := ⟨0x150, 0, 32⟩
def PLY_CTRL_WDOG_EXP : Fld := ⟨0x154, 0, 4⟩
def TRE_STATE_MODE : Fld := ⟨0x100, 0, 2⟩
def TRE_STATE_ENSEMBLE : Fld := ⟨0x100, 8, 8⟩
def TRE_STATE_PLAYER : Fld := ⟨0x100, 16, 6⟩
def TRE_STATE_WAITING : Fld := ⟨0x100, 24, 3⟩
def TRE_RANGE_CAUSE : Fld := ⟨0x104, 0, 2⟩
def TRE_RANGE_ENSEMBLE : Fld := ⟨0x104, 8, 8⟩
def TRE_RANGE_CHANNEL : Fld := ⟨0x104, 16, 10⟩
def TRE_RANGE_VALID : Fld := ⟨0x104, 31, 1⟩
def TRE_RANGE_VAL_VALUE : Fld := ⟨0x108, 0, 32⟩
def TRE_RANGE_CHAN_HANDLE : Fld := ⟨0x10c, 0, 32⟩
def SMV_SLOTS_SLOT0 : Fld := ⟨0x100, 0, 4⟩
def SMV_SLOTS_SLOT1 : Fld := ⟨0x100, 4, 4⟩
def SMV_SLOTS_SLOT2 : Fld := ⟨0x100, 8, 4⟩
def SMV_SLOTS_SLOT3 : Fld := ⟨0x100, 12, 4⟩
def SMV_SLOTS_SLOT4 : Fld := ⟨0x100, 16, 4⟩
def SMV_SLOTS_SLOT5 : Fld := ⟨0x100, 20, 4⟩
def SMV_JOB_JOB_EPOCH : Fld := ⟨0x104, 0, 16⟩
def SMV_JOB_DEAD : Fld := ⟨0x104, 16, 1⟩
def SMV_CTRL_HALT_TO : Fld := ⟨0x108, 0, 8⟩
def SMV_HALT_SLOT : Fld := ⟨0x110, 0, 3⟩
def SMV_HALT_FETCHING : Fld := ⟨0x110, 3, 1⟩
def SMV_HALT_WRITE : Fld := ⟨0x110, 4, 1⟩
def SMV_HALT_VALID : Fld := ⟨0x110, 15, 1⟩
def SMV_HALT_HALT_SEQ : Fld := ⟨0x110, 16, 16⟩
def SMV_HALT_VA_LO_VA : Fld := ⟨0x114, 0, 32⟩
def SMV_HALT_VA_HI_VA : Fld := ⟨0x118, 0, 16⟩
def SMV_HALT_POS_LO_POS : Fld := ⟨0x11c, 0, 32⟩
def SMV_HALT_POS_HI_POS : Fld := ⟨0x120, 0, 32⟩
def SMV_HALT_HANDLE_HANDLE : Fld := ⟨0x124, 0, 32⟩
def SMV_HO_POOL_POOL : Fld := ⟨0x140, 0, 12⟩
def SMV_HO_FREE_FREE : Fld := ⟨0x144, 0, 12⟩
def SMV_HO_FREE_WAITING : Fld := ⟨0x144, 16, 12⟩
def WRL_STATE_STREAMS : Fld := ⟨0x100, 0, 4⟩
def WRL_STATE_SENDING : Fld := ⟨0x100, 4, 1⟩
def WRL_STATE_WAITING : Fld := ⟨0x100, 5, 1⟩
def WRL_STATE_WAIT_PLAYER : Fld := ⟨0x100, 8, 6⟩
def WRL_TAG_TAG : Fld := ⟨0x104, 0, 32⟩
def WRL_SLICE_NEXT : Fld := ⟨0x108, 0, 16⟩
def PTB_STATE_BANK0_VALID : Fld := ⟨0x100, 0, 1⟩
def PTB_STATE_BANK1_VALID : Fld := ⟨0x100, 1, 1⟩
def PTB_STATE_LOADING : Fld := ⟨0x100, 2, 2⟩
def PTB_STATE_BANK0_BUSY : Fld := ⟨0x100, 4, 1⟩
def PTB_STATE_BANK1_BUSY : Fld := ⟨0x100, 5, 1⟩
def PTB_BANK_ID_ID : Fld := ⟨0x110, 0, 32⟩
def PTB_FAULT_KIND : Fld := ⟨0x130, 0, 2⟩
def PTB_FAULT_TABLE : Fld := ⟨0x130, 2, 9⟩
def PTB_FAULT_ENTRY : Fld := ⟨0x130, 11, 8⟩
def PTB_FAULT_VALID : Fld := ⟨0x130, 31, 1⟩
def RCA_STATE_CODER0 : Fld := ⟨0x100, 0, 3⟩
def RCA_STATE_CODER1 : Fld := ⟨0x100, 3, 3⟩
def RCA_STATE_CODER2 : Fld := ⟨0x100, 6, 3⟩
def RCA_STATE_CODER3 : Fld := ⟨0x100, 9, 3⟩
def RCA_STATE_CODER4 : Fld := ⟨0x100, 12, 3⟩
def RCA_STATE_CODER5 : Fld := ⟨0x100, 15, 3⟩
def RCA_STATE_CODER6 : Fld := ⟨0x100, 18, 3⟩
def RCA_STATE_CODER7 : Fld := ⟨0x100, 21, 3⟩
def RCA_SLICE_HANDLE : Fld := ⟨0x104, 0, 32⟩
def RCA_CTRL_GATHER : Fld := ⟨0x108, 0, 8⟩
def RCA_SKEW_EXPECTED : Fld := ⟨0x10c, 0, 6⟩
def RCA_SKEW_SIDE_TAG : Fld := ⟨0x10c, 6, 6⟩
def RCA_SKEW_MAIN_TAG : Fld := ⟨0x10c, 12, 6⟩
def RCA_SKEW_SIDE_SKIP : Fld := ⟨0x10c, 18, 1⟩
def RCA_SKEW_MAIN_SKIP : Fld := ⟨0x10c, 19, 1⟩
def RCA_SKEW_ROW : Fld := ⟨0x10c, 20, 8⟩
def RCA_SKEW_VALID : Fld := ⟨0x10c, 31, 1⟩
def RCA_SKEW_POS_PIC_TAG : Fld := ⟨0x110, 0, 16⟩
def RCA_SKEW_POS_SLICE_INDEX : Fld := ⟨0x110, 16, 16⟩
def RCA_SKEW_CHAN_HANDLE : Fld := ⟨0x114, 0, 32⟩
def SEQ_STATE_CHANNELS : Fld := ⟨0x100, 0, 18⟩
def SEQ_STATE_RELEASE_BUSY : Fld := ⟨0x100, 18, 1⟩
def SEQ_CTRL_LINE_TO : Fld := ⟨0x104, 0, 16⟩
def SEQ_INPUT_LOSS_FIRST_LINE : Fld := ⟨0x108, 0, 13⟩
def SEQ_INPUT_LOSS_LINES : Fld := ⟨0x108, 13, 13⟩
def SEQ_INPUT_LOSS_DROPPED : Fld := ⟨0x108, 26, 1⟩
def SEQ_INPUT_LOSS_VALID : Fld := ⟨0x108, 31, 1⟩
def SEQ_INPUT_CHAN_HANDLE : Fld := ⟨0x10c, 0, 32⟩
def SEQ_MISS_LATE_US : Fld := ⟨0x110, 0, 16⟩
def SEQ_MISS_SLICE_INDEX : Fld := ⟨0x110, 16, 15⟩
def SEQ_MISS_VALID : Fld := ⟨0x110, 31, 1⟩
def SEQ_MISS_CHAN_HANDLE : Fld := ⟨0x114, 0, 32⟩
def RGV_STATE_QUEUE : Fld := ⟨0x100, 0, 8⟩
def RGV_STATE_BUSY : Fld := ⟨0x100, 8, 1⟩
def RGV_CURTAIN_FIRST_ROW : Fld := ⟨0x104, 0, 9⟩
def RGV_CURTAIN_CAUSE : Fld := ⟨0x104, 9, 1⟩
def RGV_CURTAIN_SLICE_INDEX : Fld := ⟨0x104, 16, 15⟩
def RGV_CURTAIN_VALID : Fld := ⟨0x104, 31, 1⟩
def RGV_CURTAIN_PIC_PIC_COUNT : Fld := ⟨0x108, 0, 32⟩
def RGV_CURTAIN_CHAN_HANDLE : Fld := ⟨0x10c, 0, 32⟩
def RGV_PROBE_HANDLE : Fld := ⟨0x110, 0, 32⟩
def RGV_PROBE_STAT_QL : Fld := ⟨0x114, 0, 3⟩
def RGV_PROBE_STAT_CURTAIN : Fld := ⟨0x114, 3, 1⟩
def RGV_PROBE_STAT_SEQ : Fld := ⟨0x114, 16, 15⟩
def RGV_PROBE_STAT_VALID : Fld := ⟨0x114, 31, 1⟩
def RGV_PROBE_FILL_FILL : Fld := ⟨0x118, 0, 32⟩
def RGV_PROBE_COMMIT_COMMIT : Fld := ⟨0x11c, 0, 32⟩
def FSC_STATE_INST0 : Fld := ⟨0x100, 0, 3⟩
def FSC_STATE_SC0 : Fld := ⟨0x100, 3, 1⟩
def FSC_STATE_INST1 : Fld := ⟨0x100, 4, 3⟩
def FSC_STATE_SC1 : Fld := ⟨0x100, 7, 1⟩
def FSC_STATE_INST2 : Fld := ⟨0x100, 8, 3⟩
def FSC_STATE_SC2 : Fld := ⟨0x100, 11, 1⟩
def FSC_STATE_INST3 : Fld := ⟨0x100, 12, 3⟩
def FSC_STATE_SC3 : Fld := ⟨0x100, 15, 1⟩
def FSC_CTRL_SELFCHECK : Fld := ⟨0x104, 0, 1⟩
def FSC_ERR_CODE : Fld := ⟨0x108, 0, 6⟩
def FSC_ERR_INSTANCE : Fld := ⟨0x108, 6, 2⟩
def FSC_ERR_HOST_OBJ : Fld := ⟨0x108, 8, 1⟩
def FSC_ERR_VALID : Fld := ⟨0x108, 31, 1⟩
def FSC_ERR_POS_POS : Fld := ⟨0x10c, 0, 32⟩
def FSC_ERR_CHAN_HANDLE : Fld := ⟨0x110, 0, 32⟩
def HIF_CTRL_Q0_EN : Fld := ⟨0x100, 0, 1⟩
def HIF_SQ0_LO_BASE : Fld := ⟨0x104, 0, 32⟩
def HIF_SQ0_HI_BASE : Fld := ⟨0x108, 0, 16⟩
def HIF_Q0_SIZE_SQ_LOG2 : Fld := ⟨0x10c, 0, 4⟩
def HIF_Q0_SIZE_CQ_LOG2 : Fld := ⟨0x10c, 4, 4⟩
def HIF_CQ0_LO_BASE : Fld := ⟨0x110, 0, 32⟩
def HIF_CQ0_HI_BASE : Fld := ⟨0x114, 0, 16⟩
def HIF_QERR_NUMBER : Fld := ⟨0x118, 0, 8⟩
def HIF_QERR_RING : Fld := ⟨0x118, 8, 1⟩
def HIF_QERR_KIND : Fld := ⟨0x118, 9, 2⟩
def HIF_QERR_VALID : Fld := ⟨0x118, 31, 1⟩
def HIF_CH_PROBE_HANDLE : Fld := ⟨0x120, 0, 32⟩
def HIF_CH_STAT_STATE : Fld := ⟨0x124, 0, 3⟩
def HIF_CH_STAT_RESIDENT : Fld := ⟨0x124, 3, 1⟩
def HIF_CH_STAT_CAUSES : Fld := ⟨0x124, 4, 3⟩
def HIF_CH_STAT_LIVE : Fld := ⟨0x124, 7, 1⟩
def HIF_CH_STAT_SLOT : Fld := ⟨0x124, 8, 6⟩
def HIF_CH_STAT_SEQ : Fld := ⟨0x124, 16, 15⟩
def HIF_CH_STAT_VALID : Fld := ⟨0x124, 31, 1⟩
def HIF_CH_LAST_LAST : Fld := ⟨0x128, 0, 32⟩
def HIF_CH_INFO_TYPE : Fld := ⟨0x12c, 0, 4⟩
def HIF_CH_INFO_ENSEMBLE : Fld := ⟨0x12c, 8, 8⟩
def HIF_CH_INFO_CQ : Fld := ⟨0x12c, 16, 8⟩
def HIF_CH_INFO_RETRY : Fld := ⟨0x12c, 24, 3⟩
def HIF_SLOTS_IN_USE : Fld := ⟨0x130, 0, 7⟩
def HIF_SLOTS_PINNED : Fld := ⟨0x130, 8, 7⟩
def HIF_CHANNELS_COUNT : Fld := ⟨0x134, 0, 19⟩
def HIF_DEVSEQ_SEQ : Fld := ⟨0x138, 0, 32⟩
def XLT_INVAL_VA_LO_VA : Fld := ⟨0x100, 0, 32⟩
def XLT_INVAL_VA_HI_VA : Fld := ⟨0x104, 0, 16⟩
def XLT_INVAL_HANDLE_HANDLE : Fld := ⟨0x108, 0, 32⟩
def XLT_INVAL_CTRL_SCOPE : Fld := ⟨0x10c, 0, 1⟩
def XLT_INVAL_CTRL_GO : Fld := ⟨0x10c, 1, 1⟩
def XLT_INVAL_CTRL_SEQ : Fld := ⟨0x10c, 16, 15⟩
def XLT_INVAL_CTRL_BUSY : Fld := ⟨0x10c, 31, 1⟩
def XLT_FAULT_KIND : Fld := ⟨0x110, 0, 3⟩
def XLT_FAULT_LEVEL : Fld := ⟨0x110, 3, 2⟩
def XLT_FAULT_WRITE : Fld := ⟨0x110, 5, 1⟩
def XLT_FAULT_VA_HI : Fld := ⟨0x110, 6, 16⟩
def XLT_FAULT_VALID : Fld := ⟨0x110, 31, 1⟩
def XLT_FAULT_VA_VA : Fld := ⟨0x114, 0, 32⟩
def XLT_FAULT_CHAN_HANDLE : Fld := ⟨0x118, 0, 32⟩
def XLT_PART_BASE : Fld := ⟨0x140, 0, 8⟩
def XLT_PART_LIMIT : Fld := ⟨0x140, 8, 8⟩
def XLT_PART_EN : Fld := ⟨0x140, 31, 1⟩
def XLT_WIN_LO_ADDR : Fld := ⟨0x400, 0, 32⟩
def XLT_WIN_HI_ADDR : Fld := ⟨0x404, 0, 32⟩
def XLT_WIN_KEY_RKEY : Fld := ⟨0x408, 0, 32⟩
def XLT_WIN_CFG_QP : Fld := ⟨0x40c, 0, 12⟩
def XLT_WIN_CFG_LOG2_LEN : Fld := ⟨0x40c, 12, 6⟩
def XLT_WIN_CFG_ENABLE : Fld := ⟨0x40c, 31, 1⟩
def XLT_WIN_PERM_RD : Fld := ⟨0x410, 0, 1⟩
def XLT_WIN_PERM_WR : Fld := ⟨0x410, 1, 1⟩
def XLT_WIN_PERM_PARTS : Fld := ⟨0x410, 16, 16⟩
def MEM_UE_CHANNEL : Fld := ⟨0x100, 0, 2⟩
def MEM_UE_SUB : Fld := ⟨0x100, 2, 1⟩
def MEM_UE_SCRUB : Fld := ⟨0x100, 3, 1⟩
def MEM_UE_VALID : Fld := ⟨0x100, 31, 1⟩
def MEM_UE_ADDR_LO_ADDR : Fld := ⟨0x104, 0, 32⟩
def MEM_UE_ADDR_HI_ADDR : Fld := ⟨0x108, 0, 16⟩
def MEM_SCRUB_PERIOD : Fld := ⟨0x10c, 0, 8⟩
def ETH_CTRL_MODE : Fld := ⟨0x100, 0, 1⟩
def ETH_CTRL_MEDIUM : Fld := ⟨0x100, 1, 1⟩
def ETH_CTRL_AN_EN : Fld := ⟨0x100, 2, 1⟩
def ETH_CTRL_TAGGED : Fld := ⟨0x100, 3, 1⟩
def ETH_CTRL_VID : Fld := ⟨0x100, 4, 12⟩
def ETH_CTRL_LOSSLESS : Fld := ⟨0x100, 16, 8⟩
def ETH_CTRL_PFC_WD : Fld := ⟨0x100, 24, 4⟩
def ETH_STAT_LINK : Fld := ⟨0x104, 0, 1⟩
def ETH_STAT_FEC_LOCK : Fld := ⟨0x104, 1, 1⟩
def ETH_STAT_AN_DONE : Fld := ⟨0x104, 2, 1⟩
def ETH_STAT_PEER_PAUSED : Fld := ⟨0x104, 4, 8⟩
def ETH_STAT_PAUSING : Fld := ⟨0x104, 12, 8⟩
def ETH_STAT_WD_ACTIVE : Fld := ⟨0x104, 20, 8⟩
def ETH_MAC_LO_MAC : Fld := ⟨0x108, 0, 32⟩
def ETH_MAC_HI_MAC : Fld := ⟨0x10c, 0, 32⟩
def ETH_IP_IPV4 : Fld := ⟨0x110, 0, 32⟩
def RDM_QP_SEL_QP : Fld := ⟨0x100, 0, 12⟩
def RDM_QP_CFG_PORT : Fld := ⟨0x104, 0, 2⟩
def RDM_QP_CFG_STATE : Fld := ⟨0x104, 2, 2⟩
def RDM_QP_CFG_MTU : Fld := ⟨0x104, 4, 2⟩
def RDM_QP_CFG_RETRY : Fld := ⟨0x104, 6, 3⟩
def RDM_QP_CFG_TIMEOUT : Fld := ⟨0x104, 9, 5⟩
def RDM_QP_CFG_PRIO : Fld := ⟨0x104, 14, 3⟩
def RDM_QP_CFG_RD_OK : Fld := ⟨0x104, 17, 1⟩
def RDM_QP_CFG_WR_OK : Fld := ⟨0x104, 18, 1⟩
def RDM_QP_CFG_NOTIFY : Fld := ⟨0x104, 19, 1⟩
def RDM_QP_DEST_DEST_QP : Fld := ⟨0x108, 0, 24⟩
def RDM_QP_IP_PEER_IP : Fld := ⟨0x10c, 0, 32⟩
def RDM_QP_KEY_DEV_KEY : Fld := ⟨0x110, 0, 32⟩
def RDM_CC_CC_EN : Fld := ⟨0x114, 0, 1⟩
def RDM_CC_CUT : Fld := ⟨0x114, 1, 3⟩
def RDM_CC_RISE_US : Fld := ⟨0x114, 4, 12⟩
def RDM_CC_STEP : Fld := ⟨0x114, 16, 16⟩
def RDM_ERR_QP : Fld := ⟨0x118, 0, 12⟩
def RDM_ERR_KIND : Fld := ⟨0x118, 12, 3⟩
def RDM_ERR_VALID : Fld := ⟨0x118, 31, 1⟩
def MED_FLOW_SEL_FLOW : Fld := ⟨0x100, 0, 8⟩
def MED_FLOW_SEL_TX : Fld := ⟨0x100, 8, 1⟩
def MED_FLOW_CFG_KIND : Fld := ⟨0x104, 0, 2⟩
def MED_FLOW_CFG_PORT : Fld := ⟨0x104, 2, 2⟩
def MED_FLOW_CFG_PT : Fld := ⟨0x104, 4, 7⟩
def MED_FLOW_CFG_BPM : Fld := ⟨0x104, 11, 1⟩
def MED_FLOW_CFG_SAMPLING : Fld := ⟨0x104, 12, 2⟩
def MED_FLOW_CFG_DEPTH : Fld := ⟨0x104, 14, 2⟩
def MED_FLOW_CFG_DSCP : Fld := ⟨0x104, 16, 6⟩
def MED_FLOW_CFG_PCP : Fld := ⟨0x104, 22, 3⟩
def MED_FLOW_CFG_CH : Fld := ⟨0x104, 25, 4⟩
def MED_FLOW_CFG_PTIME : Fld := ⟨0x104, 29, 1⟩
def MED_FLOW_CFG_BOUND : Fld := ⟨0x104, 30, 1⟩
def MED_FLOW_CFG_APPLY : Fld := ⟨0x104, 31, 1⟩
def MED_FLOW_ADDR_DEST : Fld := ⟨0x108, 0, 32⟩
def MED_FLOW_SRC_SRC : Fld := ⟨0x10c, 0, 32⟩
def MED_FLOW_PORTS_DPORT : Fld := ⟨0x110, 0, 16⟩
def MED_FLOW_PORTS_SPORT : Fld := ⟨0x110, 16, 16⟩
def MED_FLOW_SSRC_SSRC : Fld := ⟨0x114, 0, 32⟩
def MED_FLOW_GEOM_WIDTH : Fld := ⟨0x118, 0, 14⟩
def MED_FLOW_GEOM_HEIGHT : Fld := ⟨0x118, 14, 13⟩
def MED_FLOW_RATE_NUM : Fld := ⟨0x11c, 0, 16⟩
def MED_FLOW_RATE_DEN : Fld := ⟨0x11c, 16, 16⟩
def MED_FLOW_PAY_PAYLOAD : Fld := ⟨0x120, 0, 14⟩
def MED_FLOW_PAY_DELAY_US : Fld := ⟨0x120, 14, 16⟩
def MED_TIME_LO_TIME : Fld := ⟨0x140, 0, 32⟩
def MED_TIME_HI_TIME : Fld := ⟨0x144, 0, 32⟩
def MED_TIME_CTRL_SOURCE : Fld := ⟨0x148, 0, 2⟩
def MED_TIME_CTRL_PTP_PORT : Fld := ⟨0x148, 2, 2⟩
def MED_TIME_CTRL_DOMAIN : Fld := ⟨0x148, 4, 7⟩
def MED_TIME_CTRL_PROFILE : Fld := ⟨0x148, 11, 1⟩
def MED_TIME_STAT_STATE : Fld := ⟨0x14c, 0, 2⟩
def MED_TIME_STAT_STEP_NEEDED : Fld := ⟨0x14c, 2, 1⟩
def MED_TIME_OFFSET_OFFSET : Fld := ⟨0x150, 0, 32⟩
def MED_TIME_STEP_STEP : Fld := ⟨0x154, 0, 32⟩
def MED_PPS_ERR : Fld := ⟨0x158, 0, 31⟩
def MED_PPS_VALID : Fld := ⟨0x158, 31, 1⟩
def MED_TIME_SET_LO_TIME : Fld := ⟨0x15c, 0, 32⟩
def MED_TIME_SET_HI_TIME : Fld := ⟨0x160, 0, 32⟩
def SEC_NONCE_NONCE : Fld := ⟨0x100, 0, 32⟩
def SEC_NONCE_SEQ_SEQ : Fld := ⟨0x120, 0, 16⟩
def SEC_NONCE_SEQ_VALID : Fld := ⟨0x120, 31, 1⟩
def SEC_KEYS_PRESENT : Fld := ⟨0x124, 0, 8⟩
def SEC_KEYS_ALG_F : Fld := ⟨0x124, 8, 8⟩
def SEC_KEYS_FACTORY : Fld := ⟨0x124, 16, 1⟩
def SEC_DBG_UNLOCK : Fld := ⟨0x130, 0, 32⟩
def SEC_CSW_ERR_CODE : Fld := ⟨0x140, 0, 16⟩
def SEC_CSW_ERR_ITEM : Fld := ⟨0x140, 16, 7⟩
def SEC_CSW_ERR_BLOCK : Fld := ⟨0x140, 23, 1⟩
def SEC_CSW_ERR_VALID : Fld := ⟨0x140, 31, 1⟩
def SMG_BOOT_STAGE : Fld := ⟨0x100, 0, 4⟩
def SMG_BOOT_LAST_ERR : Fld := ⟨0x100, 16, 16⟩
def SMG_ROM_ROM_VER : Fld := ⟨0x104, 0, 16⟩
def SMG_ROM_FAILS : Fld := ⟨0x104, 16, 16⟩
def SMG_FW_SVN_SVN : Fld := ⟨0x108, 0, 32⟩
def SMG_FW_DIGEST_DIGEST : Fld := ⟨0x110, 0, 32⟩
def PAIR_CFG_ROLE : Fld := ⟨0x100, 0, 2⟩
def PAIR_CFG_PORT : Fld := ⟨0x100, 2, 2⟩
def PAIR_CFG_PRIO : Fld := ⟨0x100, 4, 3⟩
def PAIR_PEER_IP_PEER_IP : Fld := ⟨0x104, 0, 32⟩
def PAIR_PEERID_ID : Fld := ⟨0x110, 0, 32⟩
def PAIR_STATE_STATE : Fld := ⟨0x130, 0, 3⟩
def PAIR_STATE_PAIR_EPOCH : Fld := ⟨0x130, 16, 16⟩
def PAIR_BEAT_MISSED : Fld := ⟨0x134, 0, 8⟩
def PAIR_BEAT_LAGGING : Fld := ⟨0x134, 8, 8⟩
def PAIR_CTRL_JOIN : Fld := ⟨0x138, 0, 1⟩
def CTR_SAMPLE_PAGE : Fld := ⟨0x100, 0, 10⟩
def CTR_SAMPLE_MODE : Fld := ⟨0x100, 10, 1⟩
def CTR_SAMPLE_GO : Fld := ⟨0x100, 31, 1⟩
def CTR_STAT_SEQ : Fld := ⟨0x104, 0, 15⟩
def CTR_STAT_ABSENT : Fld := ⟨0x104, 15, 1⟩
def CTR_STAT_BUSY : Fld := ⟨0x104, 16, 1⟩
def CTR_STAT_COINCIDENT : Fld := ⟨0x104, 17, 1⟩
def CTR_STAT_VALID : Fld := ⟨0x104, 31, 1⟩
def CTR_TAG_HANDLE_HANDLE : Fld := ⟨0x108, 0, 32⟩
def CTR_TAG_SEQ_SEQ : Fld := ⟨0x10c, 0, 32⟩
def CTR_SPAN_SPAN : Fld := ⟨0x110, 0, 32⟩
def CTR_VAL_VALUE : Fld := ⟨0x200, 0, 32⟩
def CTR_VALH_VALUE_HI : Fld := ⟨0x204, 0, 32⟩
def TRC_SEL_PLAYER : Fld := ⟨0x100, 0, 7⟩
def TRC_CFG_ENABLE : Fld := ⟨0x104, 0, 1⟩
def TRC_CFG_THREADS : Fld := ⟨0x104, 1, 8⟩
def TRC_CFG_DRAIN : Fld := ⟨0x104, 9, 1⟩
def TRC_CFG_STALL : Fld := ⟨0x104, 10, 1⟩
def TRC_CFG_TS_EXP : Fld := ⟨0x104, 11, 5⟩
def TRC_RING_LO_BASE : Fld := ⟨0x108, 0, 32⟩
def TRC_RING_HI_BASE : Fld := ⟨0x10c, 0, 16⟩
def TRC_RING_HI_LOG2 : Fld := ⟨0x10c, 16, 5⟩
def TRC_WR_WR : Fld := ⟨0x110, 0, 32⟩
def TRC_RD_RD : Fld := ⟨0x114, 0, 32⟩
def TRC_TRIG_ARM : Fld := ⟨0x118, 0, 1⟩
def TRC_TRIG_PC_EN : Fld := ⟨0x118, 1, 1⟩
def TRC_TRIG_TRAP_EN : Fld := ⟨0x118, 2, 1⟩
def TRC_TRIG_ENS_EN : Fld := ⟨0x118, 3, 1⟩
def TRC_TRIG_NOW : Fld := ⟨0x118, 4, 1⟩
def TRC_TRIG_TRIG_STATE : Fld := ⟨0x118, 5, 2⟩
def TRC_TRIG_POST : Fld := ⟨0x118, 8, 12⟩
def TRC_TRIG_PC_PC : Fld := ⟨0x11c, 0, 32⟩
def TRC_LOST_LOST : Fld := ⟨0x120, 0, 32⟩
def TRC_DBG_CTRL_HALT : Fld := ⟨0x130, 0, 8⟩
def TRC_DBG_CTRL_RESUME : Fld := ⟨0x130, 8, 8⟩
def TRC_DBG_CTRL_STEP : Fld := ⟨0x130, 16, 8⟩
def TRC_DBG_CTRL_HALTED : Fld := ⟨0x130, 24, 8⟩
def TRC_DBG_SEL_THREAD : Fld := ⟨0x134, 0, 3⟩
def TRC_DBG_SEL_REG : Fld := ⟨0x134, 3, 6⟩
def TRC_DBG_DATA_LO_DATA : Fld := ⟨0x138, 0, 32⟩
def TRC_DBG_DATA_HI_DATA : Fld := ⟨0x13c, 0, 32⟩
def PG_ID_LAYOUT : Fld := ⟨0x0, 0, 16⟩
def PG_ID_INSTANCE : Fld := ⟨0x0, 16, 8⟩
def PG_ID_BLOCK : Fld := ⟨0x0, 24, 8⟩
def PG_CAP_COUNTERS : Fld := ⟨0x4, 0, 5⟩
def PG_CAP_QUIESCE : Fld := ⟨0x4, 5, 1⟩
def PG_CAP_RESET : Fld := ⟨0x4, 6, 1⟩
def PG_CAP_POWER_DOWN : Fld := ⟨0x4, 7, 1⟩
def PG_CAP_CSW : Fld := ⟨0x4, 8, 1⟩
def PG_CAP_PAGES : Fld := ⟨0x4, 16, 16⟩
def PG_CTRL_ENABLE : Fld := ⟨0x8, 0, 1⟩
def PG_CTRL_QUIESCE_REQ : Fld := ⟨0x8, 1, 1⟩
def PG_CTRL_RESET_REQ : Fld := ⟨0x8, 2, 1⟩
def PG_CTRL_POWER_DOWN_REQ : Fld := ⟨0x8, 3, 1⟩
def PG_STAT_ENABLED : Fld := ⟨0xc, 0, 1⟩
def PG_STAT_QUIESCED : Fld := ⟨0xc, 1, 1⟩
def PG_STAT_IN_RESET : Fld := ⟨0xc, 2, 1⟩
def PG_STAT_POWERED_DOWN : Fld := ⟨0xc, 3, 1⟩
def PG_STAT_SUSPECT : Fld := ⟨0xc, 4, 1⟩
def PG_STAT_RETIRED : Fld := ⟨0xc, 5, 1⟩
def PG_STAT_EPOCH : Fld := ⟨0xc, 16, 16⟩
def PG_ERR_I : Fld := ⟨0x10, 0, 1⟩
def PG_ERR_W : Fld := ⟨0x10, 1, 1⟩
def PG_ERR_H : Fld := ⟨0x10, 2, 1⟩
def PG_ERR_E : Fld := ⟨0x10, 3, 1⟩
def PG_ERR_X : Fld := ⟨0x10, 4, 1⟩
def PG_ERR_F : Fld := ⟨0x10, 5, 1⟩
def PG_ERR_MASK_MASK : Fld := ⟨0x14, 0, 6⟩
def PG_ERR_FIRST_CODE : Fld := ⟨0x18, 0, 16⟩
def PG_ERR_FIRST_COUNT : Fld := ⟨0x18, 16, 16⟩
def PG_ERR_TIME_LO_TIME : Fld := ⟨0x20, 0, 32⟩
def PG_ERR_TIME_HI_TIME : Fld := ⟨0x24, 0, 32⟩
def PG_PROT_HAS_CSW : Fld := ⟨0x28, 0, 1⟩
def PG_PROT_PERSISTED : Fld := ⟨0x28, 1, 1⟩
def PG_PROT_DEBUG : Fld := ⟨0x28, 2, 1⟩
def PG_PROT_CHANGES : Fld := ⟨0x28, 16, 16⟩
def GLB_DEVICE_PART : Fld := ⟨0x100, 0, 16⟩
def GLB_DEVICE_STEP : Fld := ⟨0x100, 16, 8⟩
def GLB_DEVICE_VARIANT : Fld := ⟨0x100, 24, 8⟩
def GLB_SERIAL_LO_SERIAL : Fld := ⟨0x104, 0, 32⟩
def GLB_SERIAL_HI_SERIAL : Fld := ⟨0x108, 0, 32⟩
def GLB_START_RESET_CAUSE : Fld := ⟨0x10c, 0, 2⟩
def GLB_START_START_MS : Fld := ⟨0x10c, 16, 16⟩
def GLB_ERR_SUM_CLASSES : Fld := ⟨0x110, 0, 6⟩
def GLB_ERR_SCAN_START : Fld := ⟨0x114, 0, 12⟩
def GLB_ERR_SCAN_FOUND : Fld := ⟨0x114, 16, 12⟩
def GLB_ERR_SCAN_NONE : Fld := ⟨0x114, 31, 1⟩
def GLB_ALERT_CLASS_EN : Fld := ⟨0x118, 0, 6⟩
def GLB_ALERT_LOG_EN : Fld := ⟨0x118, 6, 1⟩
def GLB_ALERT_ASSERTED : Fld := ⟨0x118, 16, 1⟩
def GLB_SCRATCH0_VALUE : Fld := ⟨0x120, 0, 32⟩
def GLB_SCRATCH1_VALUE : Fld := ⟨0x124, 0, 32⟩
def HQD_DB_TAIL : Fld := ⟨0x100, 0, 16⟩
def HQD_DB_QUEUE : Fld := ⟨0x100, 16, 8⟩
def HQD_DBH_FETCHED : Fld := ⟨0x104, 0, 16⟩
def HQD_CQH_HEAD : Fld := ⟨0x900, 0, 16⟩
def HQD_CQH_WRITTEN : Fld := ⟨0x900, 16, 16⟩
def LOG_WR_WR : Fld := ⟨0x100, 0, 32⟩
def LOG_RD_RD : Fld := ⟨0x104, 0, 32⟩
def LOG_OLDEST_OLDEST : Fld := ⟨0x108, 0, 32⟩
def LOG_DROPPED_DROPPED : Fld := ⟨0x10c, 0, 32⟩
def ENS_COUNT_FORMED : Fld := ⟨0x100, 0, 8⟩
def SHS_FLEX_USED : Fld := ⟨0x100, 0, 12⟩
def SHS_FLEX_LIMIT : Fld := ⟨0x100, 16, 12⟩
def SHS_UE_BANK : Fld := ⟨0x104, 0, 5⟩
def SHS_UE_VALID : Fld := ⟨0x104, 31, 1⟩
def SHS_UE_ADDR_OFFSET : Fld := ⟨0x108, 0, 26⟩
def SHS_UE_CHAN_HANDLE : Fld := ⟨0x10c, 0, 32⟩
def PWR_STAT_VIN_OK : Fld := ⟨0x100, 0, 1⟩
def PWR_STAT_VIN_WARN : Fld := ⟨0x100, 1, 1⟩
def PWR_STAT_RAILS_OK : Fld := ⟨0x100, 2, 1⟩
def PWR_STAT_ROOT_LOCK : Fld := ⟨0x100, 3, 1⟩
def PWR_STAT_MEM_LOCK : Fld := ⟨0x100, 4, 1⟩
def PWR_STAT_ETH_LOCK : Fld := ⟨0x100, 5, 1⟩
def PWR_STAT_CAP_ACTIVE : Fld := ⟨0x100, 6, 1⟩
def PWR_STAT_THERM_WARN : Fld := ⟨0x100, 7, 1⟩
def PWR_VI_VIN : Fld := ⟨0x104, 0, 16⟩
def PWR_VI_IIN : Fld := ⟨0x104, 16, 16⟩
def PWR_PIN_P_10MS : Fld := ⟨0x108, 0, 16⟩
def PWR_PIN_P_1S : Fld := ⟨0x108, 16, 16⟩
def PWR_TEMP_DIE_MAX : Fld := ⟨0x10c, 0, 8⟩
def PWR_TEMP_DIE_SENSOR : Fld := ⟨0x10c, 8, 5⟩
def PWR_TEMP_PLATE : Fld := ⟨0x10c, 16, 8⟩
def PWR_THERM_WARN_C : Fld := ⟨0x110, 0, 8⟩
def PWR_THERM_TRIP_C : Fld := ⟨0x110, 8, 8⟩
def PWR_THERM_PLATE_TRIP_C : Fld := ⟨0x110, 16, 8⟩
def PWR_CAP_LIMIT : Fld := ⟨0x114, 0, 10⟩
def PWR_LAST_OFF_CAUSE : Fld := ⟨0x118, 0, 3⟩

end Reg

end Sys2Proof.Machine
end

