-- ==== Sys2Proof/Machine/Pages.lean ====
section
/-! DEFINITION. The page map (spec/18, "The page map") and the reset values of registers. Pages 0x1000 and above are
the model's own: they hold the banked registers, the TRC registers of player p on page 0x1000 + p, the RDM staging
registers of queue pair q on page 0x2000 + q and the MED flow registers of flow f on page 0x4000 + f. -/

namespace Sys2Proof.Machine

/-- The blocks of the page map (spec/16, R572), the two HIF pages and the two SMG pages apart, with the ensemble
views and the callboard pages. -/
inductive Blk where
  | glb | smg | sec | pwr | eth | rdm | mem | xlt | hif | hqd | seq | rgv | rca | ptb | fsc | med | ctr | trc | pair
  | ens | shs | log | tre | ply | smv | wrl | view | board
deriving DecidableEq, Repr

/-- The block of a page, if the page is assigned. -/
def pageBlk (p : Nat) : Option Blk :=
  if p < 0x100 then
    if p = 0 then some .glb else if p = 1 then some .smg else if p = 2 then some .sec else if p = 3 then some .pwr
    else if p < 8 then some .eth else if p = 8 then some .rdm
    else if 0x10 ≤ p ∧ p < 0x20 then some .mem
    else if p = 0x20 then some .xlt else if p = 0x21 then some .hif else if p = 0x22 then some .hqd
    else if p = 0x30 then some .seq else if p = 0x31 then some .rgv else if p = 0x32 then some .rca
    else if p = 0x33 then some .ptb else if p = 0x34 then some .fsc else if p = 0x35 then some .med
    else if p = 0x36 then some .ctr else if p = 0x37 then some .trc else if p = 0x38 then some .pair
    else if p = 0x39 then some .ens else if p = 0x3A then some .shs else if p = 0x3B then some .log
    else if 0x40 ≤ p ∧ p < 0x50 then some .tre else none
  else if p < 0x144 then some .ply
  else if 0x200 ≤ p ∧ p < 0x244 then some .smv
  else if 0x280 ≤ p ∧ p < 0x288 then some .smv
  else if 0x290 ≤ p ∧ p < 0x294 then some .wrl
  else if 0x300 ≤ p ∧ p < 0x400 then some .view
  else if 0x800 ≤ p ∧ p < 0x810 then some .board
  else if 0x1000 ≤ p ∧ p < 0x1044 then some .trc
  else if 0x2000 ≤ p ∧ p < 0x3000 then some .rdm
  else if 0x4000 ≤ p ∧ p < 0x4200 then some .med
  else none

/-- Block ID in PG_ID (spec/18, page map). -/
def Blk.id : Blk → Nat
  | .glb => 0x00 | .smg => 0x01 | .sec => 0x02 | .pwr => 0x03 | .eth => 0x04 | .rdm => 0x05 | .mem => 0x06 | .xlt => 0x07
  | .hif => 0x08 | .hqd => 0x08 | .seq => 0x09 | .rgv => 0x0A | .rca => 0x0B | .ptb => 0x0C | .fsc => 0x0D | .med => 0x15
  | .ctr => 0x12 | .trc => 0x13 | .pair => 0x14 | .ens => 0x16 | .shs => 0x17 | .log => 0x01 | .tre => 0x0E | .ply => 0x0F
  | .smv => 0x10 | .wrl => 0x11 | .view => 0x16 | .board => 0

/-- INSTANCE in PG_ID (spec/18, page map). -/
def pageInst (p : Nat) : Nat :=
  match pageBlk p with
  | some .eth => p - 4
  | some .mem => p - 0x10
  | some .hqd | some .log => 1
  | some .tre => p - 0x40
  | some .ply => p - 0x100
  | some .smv => p - 0x200
  | some .wrl => p - 0x290
  | some .view => p - 0x300
  | _ => 0

/-- Pages that read each block ID (PG_CAP.PAGES). -/
def Blk.pages : Blk → Nat
  | .smg | .log => 2 | .eth => 4 | .mem => 16 | .hif | .hqd => 2 | .tre => 16 | .ply => 68 | .smv => 76 | .wrl => 4
  | .ens | .view => 257 | _ => 1

/-- Counters the block defines (PG_CAP.COUNTERS). -/
def Blk.counters : Blk → Nat
  | .glb => 6 | .smg => 7 | .sec => 8 | .pwr => 10 | .eth => 14 | .rdm => 13 | .mem => 17 | .xlt => 16 | .hif => 23
  | .hqd => 6 | .seq => 23 | .rgv => 21 | .rca => 22 | .ptb => 14 | .fsc => 22 | .med => 16 | .ctr => 6 | .trc => 13
  | .pair => 14 | .ens => 6 | .shs => 6 | .log => 4 | .tre => 23 | .ply => 24 | .smv => 23 | .wrl => 13 | .view => 24
  | .board => 0

/-- The pages on which QUIESCE_REQ, RESET_REQ and POWER_DOWN_REQ act (spec/16, "Quiesce, reset and power-down"). -/
def Blk.quiesces : Blk → Bool
  | .ply | .tre | .smv | .wrl | .mem | .eth | .rdm | .med | .seq | .rgv | .rca | .ptb | .fsc | .trc | .pair => true
  | _ => false

/-- The register map of a block beyond the common layout. -/
def Blk.regs : Blk → List RegDesc
  | .glb => regsGlb | .smg => regsSmg | .sec => regsSec | .pwr => regsPwr | .eth => regsEth | .rdm => regsRdm
  | .mem => regsMem | .xlt => regsXlt | .hif => regsHif | .hqd => regsHqd | .seq => regsSeq | .rgv => regsRgv
  | .rca => regsRca | .ptb => regsPtb | .fsc => regsFsc | .med => regsMed | .ctr => regsCtr | .trc => regsTrc
  | .pair => regsPair | .ens => [] ++ regsEns | .shs => regsShs | .log => regsLog | .tre => regsTre
  | .ply => regsSize ++ regsPly | .smv => regsSmv ++ regsSmv0 | .wrl => regsWrl | .view => regsSize | .board => []

/-- Whether an offset is one of a register's words. -/
def RegDesc.covers (d : RegDesc) (off : Nat) : Bool :=
  if d.count ≤ 1 then off == d.off
  else d.off ≤ off && off < d.off + d.count * d.stride && (off - d.off) % d.stride == 0

/-- The register at an offset of a page, if the maps define one. -/
def regAt (page off : Nat) : Option RegDesc :=
  match pageBlk page with
  | none | some .board => none
  | some b =>
    if off < 0x100 then regsCommon.find? (·.covers off)
    else if b = .smv ∧ page ≠ 0x280 then regsSmv.find? (·.covers off)
    else b.regs.find? (·.covers off)

/-- A field's value put at its place. -/
def FieldDesc.place (f : FieldDesc) (v : Nat) : Nat := v % 2 ^ f.width * 2 ^ f.lo

/-- The bits a field occupies. -/
def FieldDesc.mask (f : FieldDesc) : Word := BitVec.ofNat 32 (f.place (2 ^ f.width - 1))

/-- The reset value of a register (spec/18, R632). -/
def RegDesc.resetWord (d : RegDesc) : Word :=
  BitVec.ofNat 32 (d.fields.foldl (fun a f => a + f.place f.reset) 0)

/-- The reset value at a key of the register file. -/
def regReset (key : Nat) : Word :=
  match regAt (key / 4096) (key % 4096) with
  | some d => d.resetWord
  | none => 0

end Sys2Proof.Machine
end

