-- ==== Sys2Proof/Machine/Ops.lean ====
section
/-! DEFINITION. The named operations every meaning is written with: sparse tables, memory, registers, counters, error
codes, the callboard, free values, messages. -/

namespace Sys2Proof.Machine

/-! Sparse tables -/

/-- Look a key up. -/
def tget? {α : Type} : Tbl α → Nat → Option α
  | [], _ => none
  | (k, v) :: t, i => if k = i then some v else tget? t i

/-- Look a key up, `d` where it is absent. -/
def tget {α : Type} (t : Tbl α) (d : α) (i : Nat) : α := (tget? t i).getD d

/-- Set a key, keeping the keys rising. -/
def tput {α : Type} : Tbl α → Nat → α → Tbl α
  | [], i, x => [(i, x)]
  | (k, v) :: t, i, x =>
    if i < k then (i, x) :: (k, v) :: t
    else if i = k then (i, x) :: t
    else (k, v) :: tput t i x

/-- Remove a key. -/
def tdel {α : Type} (t : Tbl α) (i : Nat) : Tbl α := t.filter (fun e => decide (e.1 ≠ i))

/-- Set a key in a table whose unlisted keys read `d`: a key never holds its default. -/
def dput {α : Type} [DecidableEq α] (d : α) (t : Tbl α) (i : Nat) (x : α) : Tbl α :=
  if x = d then tdel t i else tput t i x

/-- The keys of a table rise strictly. -/
def rising {α : Type} : Tbl α → Bool
  | [] => true
  | [_] => true
  | (k, _) :: (k', v') :: t => decide (k < k') && rising ((k', v') :: t)

/-! Bits and bytes -/

/-- Bits [lo + w - 1 : lo] of a number. -/
def bits (n lo w : Nat) : Nat := n / 2 ^ lo % 2 ^ w

/-- A number as a two's complement value of `w` bits. -/
def signed (w n : Nat) : Int := if n % 2 ^ w < 2 ^ (w - 1) then (n % 2 ^ w : Nat) else (n % 2 ^ w : Nat) - (2 ^ w : Nat)

/-- The `w`-bit two's complement pattern of an integer. -/
def wrapTo (w : Nat) (i : Int) : Nat := (i % (2 ^ w : Nat)).toNat

/-- How far `a` is ahead of `b` on a ring of 2^k numbers. -/
def ahead (k a b : Nat) : Nat := (2 ^ k + a - b) % 2 ^ k

/-- A quotient rounded up. -/
def upDiv (a n : Nat) : Nat := if a % n = 0 then a / n else a / n + 1

/-- A little-endian number from bytes (R7). -/
def leNat : List Byte → Nat
  | [] => 0
  | b :: t => b.toNat + 256 * leNat t

/-- A big-endian number from bytes (R8). -/
def beNat (l : List Byte) : Nat := l.foldl (fun a b => a * 256 + b.toNat) 0

/-- The `n` low bytes of a number, little-endian (R7). -/
def leBytes : Nat → Nat → List Byte
  | 0, _ => []
  | n + 1, v => BitVec.ofNat 8 v :: leBytes n (v / 256)

/-- The `n` low bytes of a number, most significant first (R8). -/
def beBytes (n v : Nat) : List Byte := (leBytes n v).reverse

/-- Bytes `off` to `off + n - 1` of a list as a little-endian number, 0 beyond its end. -/
def leAt (l : List Byte) (off n : Nat) : Nat := leNat ((l.drop off).take n)

/-! Packages (spec/04, cue sheet header) -/

/-- The largest of a header field over a package's cue sheets. -/
def sheetMax (k : Package) (off n : Nat) : Nat := (k.sheets.map (fun i => leAt i.2 off n)).foldl max 0

/-- MIN_PLAYERS, MIN_TRE and LS_BYTES of a package (R25). -/
def pkgPlayers (k : Package) : Nat := max 1 (sheetMax k 0x10 1)
def pkgTre (k : Package) : Nat := sheetMax k 0x11 1
def pkgLsBytes (k : Package) : Nat := sheetMax k 0x14 4

/-! Memory (spec/13, R483) -/

/-- LPDDR6, the 248 GiB that are backed. -/
def isLpddr (a : Nat) : Bool := decide (a < 0x003E00000000)
/-- The host usable part of LPDDR6. -/
def isHostLpddr (a : Nat) : Bool := decide (a < 0x003DC0000000)
/-- The Shared Store. -/
def isShared (a : Nat) : Bool := decide (0x010000000000 ≤ a ∧ a < 0x010004000000)
/-- The host area of the Shared Store. -/
def isHostShared (a : Nat) : Bool := decide (0x010000000000 ≤ a ∧ a < 0x010000400000)
/-- The local stores, 4 MiB apart. -/
def isLocal (a : Nat) : Bool := decide (0x010100000000 ≤ a ∧ a < 0x010111000000)
/-- The register window. -/
def isWindow (a : Nat) : Bool := decide (0x020000000000 ≤ a ∧ a < 0x020001000000)
/-- The remote windows. -/
def isRemote (a : Nat) : Bool := decide (0x030000000000 ≤ a ∧ a < 0x040000000000)

/-- What a byte of memory that nothing has written reads as (DESIGN CHOICE, log entry 1). -/
def emptyByte : Byte := 0

/-- Read one byte of memory. -/
def memGet (m : List Host.Cell) (a : Nat) : Byte := tget m emptyByte a

/-- Write one byte of memory, keeping the canonical form. -/
def memPut (m : List Host.Cell) (a : Nat) (b : Byte) : List Host.Cell := dput emptyByte m a b

/-- The canonical form: addresses rise and no entry holds what an unlisted address reads as. -/
def Memory.wf (m : List Host.Cell) : Bool := rising m && m.all (fun c => decide (c.2 ≠ emptyByte))

/-- Write a run of bytes. -/
def memWrite : List Host.Cell → Nat → List Byte → List Host.Cell
  | m, _, [] => m
  | m, a, b :: t => memWrite (memPut m a b) (a + 1) t

/-- Read a run of bytes. -/
def memRead (m : List Host.Cell) (a : Nat) : Nat → List Byte
  | 0 => []
  | n + 1 => memGet m a :: memRead m (a + 1) n

/-- Read a little-endian number of `n` bytes. -/
def State.load (s : State) (a n : Nat) : Nat := leNat (memRead s.mem a n)

/-- Read `n` bytes. -/
def State.bytes (s : State) (a n : Nat) : List Byte := memRead s.mem a n

/-- Store bytes. -/
def State.store (s : State) (a : Nat) (l : List Byte) : State := { s with mem := memWrite s.mem a l }

/-! Registers (spec/18) -/

/-- The word of a register as it is held. -/
def State.reg (s : State) (page off : Nat) : Word := tget s.regs (regReset (page * 4096 + off)) (page * 4096 + off)

/-- Hold a word in a register. -/
def State.setReg (s : State) (page off : Nat) (w : Word) : State :=
  { s with regs := dput (regReset (page * 4096 + off)) s.regs (page * 4096 + off) w }

/-- A field of a register on a page. -/
def State.rf (s : State) (page : Nat) (f : Fld) : Nat := bits (s.reg page f.off).toNat f.lo f.width

/-- A word with one field replaced. -/
def putField (w : Word) (lo width v : Nat) : Word :=
  BitVec.ofNat 32 (w.toNat - bits w.toNat lo width * 2 ^ lo + v % 2 ^ width * 2 ^ lo)

/-- Set a field of a register on a page. -/
def State.wf (s : State) (page : Nat) (f : Fld) (v : Nat) : State :=
  s.setReg page f.off (putField (s.reg page f.off) f.lo f.width v)

/-- Element i of a field of a register array with the given stride. -/
def Fld.nth (f : Fld) (stride i : Nat) : Fld := { f with off := f.off + stride * i }

/-- A Boolean as a bit. -/
def bit (b : Bool) : Nat := if b then 1 else 0

/-- Every register of a page back at its reset value. -/
def State.clearPage (s : State) (page : Nat) : State := { s with regs := s.regs.filter (fun e => e.1 / 4096 ≠ page) }

/-! Counters (spec/17, R601) -/

/-- The cumulative value of a counter. -/
def State.count (s : State) (page i : Nat) : Nat := tget s.ctr 0 (page * 32 + i)

/-- Count `n` events, modulo 2^64. -/
def bump (page i n : Nat) (s : State) : State :=
  { s with ctr := dput 0 s.ctr (page * 32 + i) ((s.count page i + n) % 2 ^ 64) }

/-- Words written in the register window (spec/18, R641). -/
def wrote (n : Nat) (s : State) : State := bump 0 Cnt.GLB_REG_WRITES n s

/-- Whether the host reaches the registers: the module is OPERATIONAL and a queue pair of the host is READY and allows writes (R1, R521,
R522, R547). -/
def State.hostUp (s : State) : Bool := s.boot.running && s.rf 1 Reg.SMG_BOOT_STAGE == 9 && s.qps.any (fun q => q.1 != 4095 && q.2.st == 1 && q.2.wrOk)

/-- A write of `n` words by the host, which has no way in but RoCEv2 (R1): without one it does not arrive. -/
def hostWrite (n : Nat) (f : State → State) (s : State) : Host.Outcome State Fault Refusal := .next (if s.hostUp then f (wrote n s) else s)

/-- Raise a counter to a value it holds as a maximum. -/
def peak (page i n : Nat) (s : State) : State :=
  { s with ctr := dput 0 s.ctr (page * 32 + i) (max (s.count page i) n) }

/-! Free values (log entry 5) -/

/-- Draw a free value. -/
def draw (s : State) : Nat × State := (Config.freeValue s.free, { s with free := s.free + 1 })

/-- Draw a free value below `n` (0 for n = 0). -/
def drawBelow (n : Nat) (s : State) : Nat × State := (Config.freeValue s.free % n, { s with free := s.free + 1 })

/-- Draw a free Boolean. -/
def drawBool (s : State) : Bool × State := (Config.freeValue s.free % 2 == 1, { s with free := s.free + 1 })

/-- Draw `n` free bytes. -/
def drawBytes : Nat → State → List Byte × State
  | 0, s => ([], s)
  | n + 1, s =>
    let r := drawBytes n { s with free := s.free + 1 }
    (BitVec.ofNat 8 (Config.freeValue s.free) :: r.1, r.2)

/-! Messages -/

/-- Put a message on the connectors (log entry 6). -/
def emit (m : Msg) (s : State) : State := { s with out := m :: s.out }

/-- Send a message of a priority on a port: held back while the peer holds the priority paused, unless the watchdog is
in force (spec/14, R518, R519). -/
def sendOn (port prio : Nat) (m : Msg) (s : State) : State :=
  let s := bump (4 + port) Cnt.ETH_TX_FRAMES 1 s
  if bits (s.rf (4 + port) Reg.ETH_STAT_PEER_PAUSED) prio 1 = 1 ∧ bits (s.rf (4 + port) Reg.ETH_STAT_WD_ACTIVE) prio 1 = 0 then
    let p := tget s.ports {} port
    { s with ports := tput s.ports port { p with held := p.held ++ [(prio, m)] } }
  else emit m s

end Sys2Proof.Machine
end

