-- ==== Sys2Proof/Machine/Flags.lean ====
section
/-! DEFINITION. Error classes, held records, the callboard and the alert pin: what recording a code does. -/

namespace Sys2Proof.Machine

/-- CLASS of a code (spec/16, R572). -/
def codeClass (c : Nat) : Nat := c / 0x1000
/-- BLOCK of a code (R572). -/
def codeBlock (c : Nat) : Nat := bits c 6 6

/-- The bit of PG_ERR that a class sets (spec/18, PG_ERR). -/
def classBit (c : Nat) : Nat :=
  match codeClass c with
  | 1 => 1 | 2 => 2 | 3 => 4 | 4 => 8 | 8 => 16 | 0xC => 32 | _ => 0

/-- Whether the callboard receives a code (spec/16, R584). -/
def onBoard (c : Nat) : Bool :=
  match codeClass c with
  | 0xC | 8 | 3 => true
  | 4 => [0x01, 0x02, 0x06, 0x14, 0x16].contains (codeBlock c)
  | 1 => [Code.I_RETRY, Code.I_MEM_CORRECTED, Code.I_TIME_STATE, Code.I_ENS_RESIZED, Code.I_PAIR_STATE, Code.I_BLOCK_STATE].contains c
  | 2 => [Code.W_PAIR_HEARTBEAT, Code.W_PAIR_DIVERGE, Code.W_TRACE_GAP, Code.W_LOG_GAP].contains c
  | _ => false

/-- Records written to the callboard: RECNO of the last (LOG_WR). -/
def State.logWr (s : State) : Nat := match s.log with | [] => 0 | r :: _ => r.recno

/-- GLB_ERR_SUM.CLASSES: the classes of pages 0x000 to 0x2FF that their masks let through (spec/18, R639). -/
def State.errSum (s : State) : Nat :=
  s.regs.foldl (fun a e =>
    if e.1 % 4096 = 0x010 ∧ e.1 / 4096 < 0x300 then
      a ||| ((e.2.toNat % 64) &&& (63 - s.rf (e.1 / 4096) Reg.PG_ERR_MASK_MASK)) else a) 0

/-- Drive ALERT_N (spec/18, R640) and count its assertions. -/
def alertUpdate (s : State) : State :=
  let on := (s.errSum &&& s.rf 0 Reg.GLB_ALERT_CLASS_EN) ≠ 0 ∨
    (s.rf 0 Reg.GLB_ALERT_LOG_EN = 1 ∧ s.logWr % 2 ^ 32 ≠ s.rf 0x3B Reg.LOG_RD_RD)
  if on then
    if s.pins.alertN then
      bump 0 Cnt.GLB_ALERTS 1 ({ s with pins := { s.pins with alertN := false } }.wf 0 Reg.GLB_ALERT_ASSERTED 1)
    else s
  else if s.pins.alertN then s
  else { s with pins := { s.pins with alertN := true } }.wf 0 Reg.GLB_ALERT_ASSERTED 0

/-- Record a code on a page (spec/18, R636). -/
def record (page code : Nat) (s : State) : State :=
  let fresh := s.rf page ⟨0x010, 0, 6⟩ = 0
  let s1 := s.setReg page 0x010 (s.reg page 0x010 ||| BitVec.ofNat 32 (classBit code))
  let s2 := s1.wf page Reg.PG_ERR_FIRST_COUNT (min 0xFFFF (s1.rf page Reg.PG_ERR_FIRST_COUNT + 1))
  let s3 := if fresh then
      ((s2.wf page Reg.PG_ERR_FIRST_CODE code).wf page Reg.PG_ERR_TIME_LO_TIME (s.time % 2 ^ 32)).wf page Reg.PG_ERR_TIME_HI_TIME (s.time / 2 ^ 32)
    else s2
  alertUpdate s3

/-- Write a record to the ring; the ring holds the latest 2,048 (spec/16, R583). -/
def logPush (r : LogRec) (s : State) : State :=
  bump 0x3B Cnt.LOG_RECORDS 1 { s with log := (r :: s.log).take 2048 }

/-- Whether the next record has room (R585). -/
def State.logRoom (s : State) : Bool := decide (ahead 32 s.logWr (s.rf 0x3B Reg.LOG_RD_RD) < 2048)

/-- The callboard receives an event: a record, or a drop that is counted (R584, R585). -/
def board (code inst handle seq d0 d1 : Nat) (s : State) : State :=
  if s.logRoom && s.logLost == 0 then
    alertUpdate (logPush ⟨s.time, code, inst, handle, seq, d0 % 2 ^ 32, d1, s.logWr + 1⟩ s)
  else
    bump 0x3B Cnt.LOG_DROPPED 1
      { (s.wf 0x3B Reg.LOG_DROPPED_DROPPED (min (2 ^ 32 - 1) (s.rf 0x3B Reg.LOG_DROPPED_DROPPED + 1))) with logLost := s.logLost + 1 }

/-- Room has returned: the gap record takes it before any other (R585). -/
def logGap (s : State) : State :=
  if s.logLost > 0 && s.logRoom then
    let s1 := bump 0x3B Cnt.LOG_GAPS 1 (logPush ⟨s.time, Code.W_LOG_GAP, 0, 0, 0, s.logLost % 2 ^ 32, 0, s.logWr + 1⟩ { s with logLost := 0 })
    record 1 Code.W_LOG_GAP s1
  else s

/-- Post a code on a page, with the fields a callboard record takes from it (R584, R636). -/
def postFull (page code handle seq d0 d1 : Nat) (s : State) : State :=
  let s1 := record page code s
  if onBoard code then board code (pageInst page) handle seq d0 d1 s1 else s1

/-- Post a code on a page for no channel. -/
def post (page code : Nat) (s : State) : State := postFull page code 0 0 0 0 s

/-- Write a held record: only while VALID is clear (spec/18, "Register patterns"). `valid` is the VALID field, `w`
the writes of the other fields. -/
def holdRecord (page : Nat) (valid : Fld) (w : List (Fld × Nat)) (s : State) : State :=
  if s.rf page valid = 1 then s
  else (w.foldl (fun a e => a.wf page e.1 e.2) s).wf page valid 1

/-- Set a status bit of PG_STAT and tell the callboard (I_BLOCK_STATE, R584); DETAIL0 is PG_STAT after the change. -/
def setStat (page : Nat) (f : Fld) (v : Nat) (s : State) : State :=
  if s.rf page f = v then s
  else
    let s1 := s.wf page f v
    let en := if s1.rf page Reg.PG_CTRL_ENABLE = 1 ∧ s1.rf page Reg.PG_STAT_QUIESCED = 0 ∧ s1.rf page Reg.PG_STAT_POWERED_DOWN = 0 then 1 else 0
    postFull page Code.I_BLOCK_STATE 0 0 ((s1.reg page 0x00C).toNat / 2 * 2 + en) 0 s1

end Sys2Proof.Machine
end

