-- ==== Sys2Proof/Machine/Records.lean ====
section
/-! DEFINITION. Channels by handle, completion records and events, the channel probe (spec/12). -/

namespace Sys2Proof.Machine

/-- The handle of a channel (R427). -/
def handleOf (i : Nat) (c : Chan) : Nat := c.gen * 2 ^ 18 + i

/-- The channel of an index; a FREE one where nothing is listed. -/
def State.chan (s : State) (i : Nat) : Chan := tget s.chans {} i

/-- Whether a handle and a SEQ name a job (R466). -/
def State.names (s : State) (j : Job) (handle seq : Word) : Bool := handleOf j.chan (s.chan j.chan) == handle.toNat && j.seq == seq.toNat

/-- The index a handle names, if its GEN is current and the channel is not FREE (R429). -/
def State.chanOf (s : State) (h : Nat) : Option Nat :=
  match tget? s.chans (h % 2 ^ 18) with
  | some c => if c.gen = h / 2 ^ 18 ∧ c.st ≠ 0 then some (h % 2 ^ 18) else none
  | none => none

/-- Sample the probed channel (R480). -/
def probe (s : State) : State :=
  let h := s.rf 0x21 Reg.HIF_CH_PROBE_HANDLE
  let i := h % 2 ^ 18
  let c := s.chan i
  let known := c.gen = h / 2 ^ 18
  let c : Chan := if known then c else {}
  let seq := (s.rf 0x21 Reg.HIF_CH_STAT_SEQ + 1) % 2 ^ 15
  let stat := c.st + bit c.slot.isSome * 8 + bit c.page * 16 + bit c.size * 32 + bit c.susp * 64 + bit c.live.isSome * 128 +
    (c.slot.getD 0) % 64 * 256 + seq * 65536 + 2 ^ 31
  let info := c.ty % 16 + c.ens % 256 * 256 + c.cq % 256 * 65536 + c.codec.retry % 8 * 2 ^ 24
  ((s.setReg 0x21 0x124 (BitVec.ofNat 32 stat)).setReg 0x21 0x128 (BitVec.ofNat 32 (if known then c.last else 0))).setReg 0x21 0x12C
    (BitVec.ofNat 32 (if known then info else 0))

/-- Write a channel back; a change of its state or causes is sampled when it is the probed one (R480). -/
def setChan (i : Nat) (c : Chan) (s : State) : State :=
  let o := s.chan i
  let s1 := { s with chans := tput s.chans i c }
  if (o.st ≠ c.st ∨ o.page ≠ c.page ∨ o.size ≠ c.size ∨ o.susp ≠ c.susp) ∧ s.rf 0x21 Reg.HIF_CH_PROBE_HANDLE = handleOf i c
  then probe s1 else s1

/-- Update a channel. -/
def modChan (i : Nat) (f : Chan → Chan) (s : State) : State := setChan i (f (s.chan i)) s

/-- RUNNING or HALTED by the set of causes (R434). -/
def Chan.settle (c : Chan) : Chan :=
  if c.st = 3 ∨ c.st = 4 then (if c.page || c.size || c.susp then { c with st := 4, codec := { c.codec with persist := [] } } else { c with st := 3 }) else c

/-- A record becomes ready. A record for a ring out of service is lost. -/
def pushDue (d : Due) (s : State) : State :=
  if (tget? s.rings d.ring).isSome then { s with due := s.due ++ [d] } else s

/-- An event of a channel (R471): KIND 6 and the SEQ of the unit it concerns. -/
def chanEvent (i seq code r0 r3 flags : Nat) (s : State) : State :=
  let c := s.chan i
  pushDue { ring := c.cq, body := { handle := handleOf i c, seq, code, kind := 6, r0, r3, flags }, event := true, chan := some i } s

/-- A device event on a ring (R471): HANDLE 0 and the SEQ that HIF_DEVSEQ holds. -/
def deviceEvent (ring code r0 : Nat) (s : State) : State :=
  pushDue { ring, body := { seq := s.rf 0x21 Reg.HIF_DEVSEQ_SEQ, code, kind := 6, r0 }, event := true } s

/-- The next number of the device counter (R466). -/
def nextDevSeq (s : State) : Nat × State := ((s.devSeq + 1) % 2 ^ 32, { s with devSeq := (s.devSeq + 1) % 2 ^ 32 })

/-- The page of the block that posts a code, for blocks of one page (R572); none for blocks of many instances. -/
def codePage (code : Nat) : Option Nat :=
  match codeBlock code with
  | 0x01 => some 1 | 0x02 => some 2 | 0x03 => some 3 | 0x05 => some 8 | 0x07 => some 0x20 | 0x08 => some 0x21 | 0x09 => some 0x30
  | 0x0A => some 0x31 | 0x0B => some 0x32 | 0x0C => some 0x33 | 0x0D => some 0x34 | 0x12 => some 0x36 | 0x13 => some 0x37
  | 0x14 => some 0x38 | 0x15 => some 0x35 | 0x16 => some 0x39 | 0x17 => some 0x3A | _ => none

/-- Post a code that a record carries (R584, R636): on the page of its block where there is one, and on the callboard.
Code 0 is success and posts nothing. -/
def postCode (code handle seq d0 d1 : Nat) (s : State) : State :=
  if code = 0 then s
  else match codePage code with
    | some p => postFull p code handle seq d0 d1 s
    | none => if onBoard code then board code 0 handle seq d0 d1 s else s

/-- Records written and not consumed leave room (R468). -/
def State.ringRoom (s : State) (r : Nat) (k : Ring) : Bool :=
  decide (ahead 16 k.w (s.rf 0x22 (Reg.HQD_CQH_HEAD.nth 4 r)) < 2 ^ k.log2n)

/-- Whether a ready record's turn has come (R470, R471). -/
def State.inOrder (s : State) (d : Due) : Bool :=
  d.event || (match d.chan with
    | none => true
    | some i => d.body.seq == ((s.chan i).posted + 1) % 2 ^ 32)

/-- A channel has a record that its ring holds back: no job of it is dispatched (R470). -/
def State.holds (s : State) (i : Nat) : Bool :=
  s.due.any (fun d => d.chan == some i && !d.event &&
    (match tget? s.rings d.ring with | some k => k.failed || !s.ringRoom d.ring k | none => false))

/-- The first ready record of a ring whose turn has come, and the others. -/
def takeDue (s : State) (r : Nat) : List Due → Option (Due × List Due)
  | [] => none
  | d :: t => if d.ring = r && s.inOrder d then some (d, t) else
    match takeDue s r t with
    | some (x, rest) => some (x, d :: rest)
    | none => none

/-- A record counts as posted: for the fence of its queue (R449) and the order of its channel (R470). -/
def markPosted (d : Due) (s : State) : State :=
  let s1 := match d.queue with
    | none => s
    | some q => match tget? s.queues q with
      | some k => { s with queues := tput s.queues q { k with openRecs := k.openRecs - 1 } }
      | none => s
  match d.chan with
  | none => s1
  | some i =>
    let c := s1.chan i
    if d.event then s1 else { s1 with chans := tput s1.chans i { c with posted := d.body.seq, last := d.body.seq } }

/-- A cause stops a job: the first one counts (R142, R473, R475). JOB_STOP acts on it. -/
def stopJob (id code : Nat) (s : State) : State :=
  match tget? s.jobs id with
  | some j => if j.stop.isSome then s else { s with jobs := tput s.jobs id { j with stop := some code } }
  | none => s

end Sys2Proof.Machine
end

