-- ==== Sys2Proof/Machine/Counting.lean ====
section
/-! DEFINITION. Players and ensembles (spec/01, R12 to R31, R575 to R577), counter banks and samples (spec/17, R601 to
R608). -/

namespace Sys2Proof.Machine

/-- The wing of a physical player. -/
def wingOf (p : Nat) : Nat := p / 17

/-- The logical index of a physical player, 0xFF where it has none. -/
def State.logical (s : State) (p : Nat) : Nat := s.rf (0x100 + p) Reg.PLY_IDX_LOGICAL

/-- The physical player of a logical index. -/
def State.physOf (s : State) (n : Nat) : Option Nat := (List.range 68).find? (fun p => s.logical p == n)

/-- An enabled player that is not SUSPECT or RETIRED (R26): it counts in every sizes table. -/
def State.counts (s : State) (p : Nat) : Bool :=
  s.logical p ≠ 0xFF && s.rf (0x100 + p) Reg.PG_CTRL_ENABLE == 1 && s.rf (0x100 + p) Reg.PG_STAT_SUSPECT == 0 &&
    s.rf (0x100 + p) Reg.PG_STAT_RETIRED == 0

/-- The logical indices of an ensemble (R14, R16). -/
def State.ensPlayers (s : State) (e : Nat) : List Nat :=
  if e = 0 then List.range 64
  else if e ≤ 4 then (List.range 16).map (· + 16 * (e - 1))
  else if e ≤ 20 then (List.range 4).map (· + 4 * (e - 5))
  else if e ≤ 84 then [e - 21]
  else match tget? s.ens e with | some x => x.players | none => []

/-- Whether an ensemble exists (R16). -/
def State.ensExists (s : State) (e : Nat) : Bool := decide (e ≤ 84) || (tget? s.ens e).isSome

/-- The logical indices whose player counts (R26). -/
def State.live (s : State) : List Nat := ((List.range 68).filter s.counts).map s.logical

/-- The logical indices of an ensemble whose player counts (R26). -/
def State.liveOf (s : State) (e : Nat) : List Nat :=
  let l := s.live
  (s.ensPlayers e).filter (fun n => l.contains n)

/-- The physical players an ensemble runs on. -/
def State.physLive (s : State) (e : Nat) : List Nat := (s.liveOf e).filterMap s.physOf

/-- The sizes table of a list of logical players: players, transform engines, relay rings (R26). -/
def sizesOf (l : List Nat) : Nat × Nat × Nat := (l.length, ((l.map (· / 4)).eraseDups).length, ((l.map (· / 16)).eraseDups).length)

/-- The sizes table of an ensemble; ensemble 0 of a paired module reads the minimum of the two modules (R31). -/
def State.sizes (s : State) (e : Nat) : Nat × Nat × Nat :=
  let x := sizesOf (s.liveOf e)
  match s.pair.peerSizes with
  | some [p, t, r] => if e = 0 then (min x.1 p, min x.2.1 t, min x.2.2 r) else x
  | _ => x

/-- The sizes table of an ensemble as its three words A, B, LS_BYTES (R26). -/
def State.sizeWords (s : State) (e : Nat) : Nat × Nat × Nat :=
  let x := s.sizes e
  (x.1 + x.1 * 256 + x.2.1 * 65536 + x.2.2 * 2 ^ 24, 6 * x.1 + x.1 * 65536, 3145728 * x.1)

/-- Post I_ENS_RESIZED for an ensemble: on the ENS page and on the ring of every channel bound to it (R29, R577). -/
def postResized (e : Nat) (s : State) : State :=
  let s1 := (s.wf (0x300 + e) Reg.ENS_SIZE_SEQ_SEQ (s.rf (0x300 + e) Reg.ENS_SIZE_SEQ_SEQ + 1))
  let n := (s1.sizes e).1
  let s2 := bump 0x39 Cnt.ENS_RESIZES 1 (postFull 0x39 Code.I_ENS_RESIZED 0 0 n 0 s1)
  s2.chans.foldl (fun a x => if x.2.st ≠ 0 ∧ x.2.ty ≠ 6 ∧ x.2.ens = e then chanEvent x.1 x.2.last Code.I_ENS_RESIZED n 0 0 a else a) s2

/-- Whether an ensemble is large enough for a channel's package (R25, R434). -/
def State.ensFits (s : State) (e : Nat) (p : Option Package) : Bool :=
  let z := s.sizes e
  match p with
  | some k => decide (pkgPlayers k ≤ z.1 ∧ pkgTre k ≤ z.2.1 ∧ pkgLsBytes k ≤ 3145728 * z.1)
  | none => decide (1 ≤ z.1)

/-- A channel whose ensemble has come to be large enough again loses cause SIZE; one whose ensemble has become too small
keeps its state until its next dispatch (R30, R434). -/
def regrow (s : State) : State :=
  s.chans.foldl (fun a x =>
    let c := a.chan x.1
    if c.size ∧ a.ensFits c.ens c.pkg then setChan x.1 ({ c with size := false } : Chan).settle a else a) s

/-- Make a change of players or ensembles, and post every sizes table that it changed (R27, R29, R577). -/
def resizing (f : State → State) (s : State) : State :=
  let t := f s
  if t.live = s.live ∧ t.ens = s.ens ∧ t.pair.peerSizes = s.pair.peerSizes then t else
  let es := (List.range 256).filter (fun e => decide (s.sizes e ≠ t.sizes e))
  let t1 := es.foldl (fun a e => postResized e a) t
  let ps := (List.range 68).filter (fun p => decide (s.counts p ≠ t.counts p))
  regrow (ps.foldl (fun a p => a.wf (0x100 + p) Reg.ENS_SIZE_SEQ_SEQ (a.rf (0x100 + p) Reg.ENS_SIZE_SEQ_SEQ + 1)) t1)

/-! Counter banks -/

/-- The cumulative values of a page that are not 0, by i; a view sums its member players (R602). -/
def State.counters (s : State) (page : Nat) : Tbl Nat :=
  if pageBlk page = some .view then
    let ms := (s.ensPlayers (page - 0x300)).filterMap s.physOf
    (List.range 24).map (fun i => (i, (ms.foldl (fun a p => a + s.count (0x100 + p) i) 0) % 2 ^ 64))
  else (s.ctr.filter (fun e => e.1 / 32 = page)).map (fun e => (e.1 % 32, e.2))

/-- Counts between two snapshots, modulo 2^64. -/
def since (now base : Tbl Nat) : List Nat :=
  (List.range 24).map (fun i => ahead 64 (tget now 0 i) (tget base 0 i))

/-- Swap the banks of a page: the running bank closes, a new one opens at zero with the tags of the command that
started (R601). SPAN is a count of cycles, which the model leaves free (log entry 5). -/
def swapBank (page handle seq : Nat) (s : State) : State :=
  let b := tget s.banks {} page
  let now := s.counters page
  let b1 : Bank := { swaps := b.swaps + 1, handle, seq, base := now, cHandle := b.handle, cSeq := b.seq, cSpan := s.free, cBase := b.base, cEnd := now }
  { s with free := s.free + 1, banks := tput s.banks page b1 }

/-- The pages that swap at the admission of any host command (R601, last row). -/
def commandPages : List Nat :=
  [0, 1, 2, 3, 4, 5, 6, 7, 8] ++ (List.range 16).map (· + 0x10) ++ [0x20, 0x21, 0x22, 0x35, 0x36, 0x37, 0x38, 0x39, 0x3A, 0x3B] ++
    (List.range 8).map (· + 0x280)

/-- Swap every page of a list. -/
def swapBanks (pages : List Nat) (handle seq : Nat) (s : State) : State :=
  pages.foldl (fun a p => swapBank p handle seq a) s

/-- CTR_SAMPLE.GO: a sample starts, or is ignored while one is in progress (R604, R606, R608). -/
def ctrGo (w : Word) (s : State) : State :=
  let n := w.toNat
  let s0 := (s.wf 0x36 Reg.CTR_SAMPLE_PAGE (bits n 0 10)).wf 0x36 Reg.CTR_SAMPLE_MODE (bits n 10 1)
  if bits n 31 1 = 0 then s0
  else if s.sample.isSome then
    bump 0x36 Cnt.CTR_GO_IGNORED 1 (record 0x36 Code.E_CMD_INVALID s)
  else
    let page := bits n 0 10
    let s1 := { s0 with sample := some (page, bits n 10 1, (tget s.banks {} page).swaps) }
    let s2 := (((s1.wf 0x36 Reg.CTR_STAT_VALID 0).wf 0x36 Reg.CTR_STAT_BUSY 1).setReg 0x36 0x108 0).setReg 0x36 0x10C 0
    (List.range 48).foldl (fun a i => a.setReg 0x36 (0x200 + 4 * i) 0) (s2.setReg 0x36 0x110 0)

/-- CTR_SAMPLE_GO (R604, R606). -/
def execCtrSampleGo (w : Word) (s : State) : Host.Outcome State Fault Refusal := hostWrite 1 (ctrGo w) s

/-- The sample cycle: the values are taken and VALID sets (R604 to R608). `coincident` says that the page's latest swap
fell in the sample cycle (R605); it can only if the page swapped since GO. An absent page that has swapped keeps its tags (R608). -/
def execCtrSampleDone (coincident : Bool) (s : State) : Host.Outcome State Fault Refusal :=
  match s.sample with
  | none => .next s
  | some (page, mode, swaps) =>
    let b := tget s.banks {} page
    let absent := (pageBlk page).isNone || s.rf page Reg.PG_STAT_POWERED_DOWN == 1 || b.swaps == 0
    let coin := coincident && decide (b.swaps > swaps) && !absent
    let vals := if absent then [] else if mode = 0 then since b.cEnd b.cBase else since (s.counters page) []
    let s0 := { s with sample := none }
    let s1 := (List.range 24).foldl (fun a i =>
      (a.setReg 0x36 (0x200 + 8 * i) (BitVec.ofNat 32 (vals.getD i 0))).setReg 0x36 (0x204 + 8 * i) (BitVec.ofNat 32 (vals.getD i 0 / 2 ^ 32))) s0
    let tag := if mode = 0 then (b.cHandle, b.cSeq, if b.swaps ≤ 1 then 0 else Config.freeValue b.cSpan % 2 ^ 32) else (b.handle, b.seq, 0)
    let s2 := ((s1.setReg 0x36 0x108 (BitVec.ofNat 32 tag.1)).setReg 0x36 0x10C (BitVec.ofNat 32 tag.2.1)).setReg 0x36 0x110 (BitVec.ofNat 32 tag.2.2)
    let s3 := ((((s2.wf 0x36 Reg.CTR_STAT_SEQ (s2.rf 0x36 Reg.CTR_STAT_SEQ + 1)).wf 0x36 Reg.CTR_STAT_ABSENT (bit absent)).wf 0x36
      Reg.CTR_STAT_BUSY 0).wf 0x36 Reg.CTR_STAT_COINCIDENT (bit coin)).wf 0x36 Reg.CTR_STAT_VALID 1
    let s4 := bump 0x36 Cnt.CTR_SAMPLES 1 s3
    let s5 := if mode = 0 then bump 0x36 Cnt.CTR_CLOSED_SAMPLES 1 s4 else bump 0x36 Cnt.CTR_LIVE_SAMPLES 1 s4
    let s6 := if coin then bump 0x36 Cnt.CTR_COINCIDENT 1 s5 else s5
    .next (if absent then bump 0x36 Cnt.CTR_ABSENT 1 s6 else s6)

end Sys2Proof.Machine
end

