-- ==== Sys2Proof/Machine/Startup.lean ====
section
/-! DEFINITION. Start-up: losing the volatile state, the boot sequence of spec/15 (R546 to R552), and the countersigned
protection's nonce (R564). -/

namespace Sys2Proof.Machine

/-- The current content of an identity store area: the newer valid copy (R550). -/
def Area.cur {α : Type} (x : Area α) : α :=
  if x.useB then (if x.okB then x.b else x.a) else (if x.okA then x.a else x.b)

/-- Whether either copy passes its digest (R549, R550). -/
def Area.valid {α : Type} (x : Area α) : Bool := x.okA || x.okB

/-- Write an area: the copy that does not hold the newer valid content, which then becomes the current one (R550). -/
def Area.write {α : Type} (x : Area α) (v : α) : Area α :=
  if (if x.useB then x.okB else !x.okA) then { x with a := v, okA := true, useB := false }
  else { x with b := v, okB := true, useB := true }

/-- The registers that the standby domain keeps: PWR_STAT, PWR_VI, PWR_PIN, PWR_TEMP and PWR_LAST_OFF (spec/19, R667). -/
def keptReg (key : Nat) : Bool := [0x3100, 0x3104, 0x3108, 0x310C, 0x3118].contains key

/-- Every volatile state is lost (spec/15, R546; spec/19, R665, R667): the identity store, the pins and the standby
domain's registers and counters stay, and the model's own queue, draws and outbox. -/
def dieReset (s : State) : State :=
  { pending := s.pending, free := s.free, out := s.out, ids := s.ids,
    pins := { s.pins with alertN := true },
    regs := s.regs.filter (fun e => keptReg e.1),
    ctr := s.ctr.filter (fun e => e.1 / 32 = 3) }

/-- Replace SEC_NONCE with 32 fresh bytes of entropy (R564); the bytes are free values. -/
def freshNonce (s : State) : State :=
  let s1 := (List.range 8).foldl (fun a i => let r := drawBelow (2 ^ 32) a; r.2.setReg 2 (0x100 + 4 * i) (BitVec.ofNat 32 r.1)) s
  bump 2 Cnt.SEC_NONCES 1
    ((s1.wf 2 Reg.SEC_NONCE_SEQ_SEQ (s1.rf 2 Reg.SEC_NONCE_SEQ_SEQ + 1)).wf 2 Reg.SEC_NONCE_SEQ_VALID 1)

/-- SEC_NONCE as bytes. -/
def State.nonce (s : State) : List Byte := (List.range 8).flatMap (fun i => leBytes 4 (s.reg 2 (0x100 + 4 * i)).toNat)

/-- The security engine hashes bytes, of a number the spec does not give (SHAKE_BYTES). -/
def hashed (s : State) : State := let r := drawBelow (2 ^ 32) s; bump 2 Cnt.SEC_SHAKE_BYTES r.1 r.2

/-- SEC_KEYS from POLICY (spec/15, SEC page). -/
def showKeys (s : State) : State :=
  let ks := s.ids.policy.cur.keys
  let present := ks.foldl (fun a k => a ||| 2 ^ k.index) 0
  let alg := ks.foldl (fun a k => if k.f then a ||| 2 ^ k.index else a) 0
  ((s.wf 2 Reg.SEC_KEYS_PRESENT present).wf 2 Reg.SEC_KEYS_ALG_F alg).wf 2 Reg.SEC_KEYS_FACTORY (bit ks.isEmpty)

/-- Logical indices under the repair map (R12): rank among the enabled players of the wing. -/
def applyMap (m : RepairMap) (s : State) : State :=
  ((List.range 68).foldl (fun (x : State × Nat × Nat) p =>
    let rank := if wingOf p = x.2.1 then x.2.2 else 0
    if m.spares.contains p || m.disabled.contains p then (x.1.wf (0x100 + p) Reg.PG_CTRL_ENABLE 0, wingOf p, rank)
    else (x.1.wf (0x100 + p) Reg.PLY_IDX_LOGICAL (16 * wingOf p + rank), wingOf p, rank + 1)) (s, 0, 0)).1

/-- A repair entry: the spare takes the logical index of the retired player (R13, R552). -/
def applyRepair (phys spare : Nat) (s : State) : State :=
  let n := s.logical phys
  (((s.wf (0x100 + phys) Reg.PLY_IDX_LOGICAL 0xFF).wf (0x100 + phys) Reg.PG_CTRL_ENABLE 0).wf (0x100 + spare)
    Reg.PLY_IDX_LOGICAL n).wf (0x100 + spare) Reg.PG_CTRL_ENABLE 1

/-- The CSW fields take the values POLICY persists, or their defaults (R510, R632). -/
def applyPolicy (s : State) : State :=
  let s0 := s.setReg 0x20 0x140 (BitVec.ofNat 32 (246 * 256 + 2 ^ 31))
  s.ids.policy.cur.values.foldl (fun a v =>
    (a.setReg v.1 v.2.1 ((a.reg v.1 v.2.1 &&& ~~~(BitVec.ofNat 32 v.2.2.1)) ||| (BitVec.ofNat 32 v.2.2.2 &&& BitVec.ofNat 32 v.2.2.1))).wf
      v.1 Reg.PG_PROT_PERSISTED 1) s0

/-- A seed of the identity key: SHAKE256 of the corrected PUF response followed by a one-byte label (R551). -/
def pufSeed (response : List Byte) (label : Byte) : List Byte := Config.shake256 (response ++ [label]) 32

/-- SK.seed, SK.prf and PK.seed of a start (R551). -/
def formSeeds (o : BootObs) (d : IdStore) : List Byte × List Byte × List Byte :=
  let r := Config.pufCorrect o.puf d.helper.cur
  (pufSeed r 1, pufSeed r 2, pufSeed r 3)

/-- The public key that key generation gives: PK.seed and PK.root (R551). -/
def publicKey (k : List Byte × List Byte × List Byte) : List Byte := k.2.2 ++ Config.slhRoot k.1 k.2.2

/-- The identity public key. -/
def State.identityKey (s : State) : List Byte := publicKey s.boot.seeds

/-- Sign with the identity key (R567, R589). -/
def State.sign (s : State) (m : List Byte) : List Byte := Config.slhSign s.boot.seeds m

/-- The code of R549, 0 when both checks pass. -/
def bootFault (o : BootObs) (d : IdStore) : Nat :=
  if publicKey (formSeeds o d) ≠ d.certKey then Code.F_IDENTITY
  else if !(d.helper.valid && d.map.valid && d.macs.valid && d.repairLog.valid && d.policy.valid && d.chain.valid) then Code.F_STORE_CHECK
  else 0

/-- MAC address of a port from the identity store. -/
def State.mac (s : State) (port : Nat) : Nat := s.ids.macs.cur.1.getD port 0 % 2 ^ 48

/-- The boot address (R554): BOOT_IP, or 169.254.a.b of port 0's MAC address. -/
def State.bootAddr (s : State) : Nat :=
  let m := s.mac 0
  if s.ids.policy.cur.bootIp = 0 then ((169 * 256 + 254) * 256 + (m / 256 % 256 % 254 + 1)) * 256 + (m % 256 % 254 + 1) else s.ids.policy.cur.bootIp

/-- The boot sequence from step 1 to boot-listen (R546, R549, R551, R552, R564). -/
def boot (o : BootObs) (s0 : State) : State :=
  let code := bootFault o s0.ids
  let s := { s0 with boot := { running := true, fault := code, seeds := formSeeds o s0.ids } }
  let s := ((s.wf 3 Reg.PWR_STAT_ROOT_LOCK 1).wf 3 Reg.PWR_STAT_MEM_LOCK 1).wf 3 Reg.PWR_STAT_ETH_LOCK 1
  let s := s.wf 0 Reg.GLB_START_RESET_CAUSE s.pins.nextCause
  let s := { s with pins := { s.pins with nextCause := 0 } }
  let s := s.wf 1 Reg.SMG_ROM_ROM_VER Config.romVersion
  let s := s.wf 0 Reg.GLB_DEVICE_STEP Config.stepping
  let s := applyMap s.ids.map.cur s
  let s := s.ids.repairLog.cur.foldl (fun a e => applyRepair e.1 e.2 a) s
  let s := showKeys (applyPolicy (freshNonce s))
  let s := (s.setReg 0 0x104 (BitVec.ofNat 32 s.ids.macs.cur.2)).setReg 0 0x108 (BitVec.ofNat 32 (s.ids.macs.cur.2 / 2 ^ 32))
  let s := (List.range 4).foldl (fun a n =>
    (a.setReg (4 + n) 0x108 (BitVec.ofNat 32 (a.mac n))).setReg (4 + n) 0x10C (BitVec.ofNat 32 (a.mac n / 2 ^ 32))) s
  let s := if s.ids.policy.cur.bootEth = 0 then s else s.setReg 4 0x100 (BitVec.ofNat 32 s.ids.policy.cur.bootEth)
  let s := ((s.wf 4 Reg.ETH_STAT_LINK 1).wf 4 Reg.ETH_STAT_FEC_LOCK 1).wf 4 Reg.ETH_STAT_AN_DONE (s.rf 4 Reg.ETH_CTRL_AN_EN)
  let r := drawBelow (2 ^ 24) s
  let s := { r.2 with boot := { r.2.boot with devPsn := r.1 } }
  let s := s.wf 1 Reg.SMG_BOOT_STAGE 5
  if code = 0 then s else post 1 code (s.wf 1 Reg.SMG_BOOT_LAST_ERR code)

/-- Start the boot sequence when PWR_GOOD and MOD_RESET_N are high and REFCLK is valid (R546, R664). -/
def tryBoot (o : BootObs) (s : State) : State :=
  if s.pins.pwrGood && s.pins.modResetN && s.pins.refclk && !s.boot.running then boot o s else s

end Sys2Proof.Machine
end

