-- ==== Sys2Proof/Machine/Boot.lean ====
section
/-! DEFINITION. The load protocol of boot-listen (spec/15, R547 to R560). A message that reaches the part outside
boot-listen leaves the state as it is: port 9414 is closed (R558). -/

namespace Sys2Proof.Machine

/-- Boot-listen is open: stages LISTEN to FIRMWARE (R546, R558). -/
def State.listening (s : State) : Bool :=
  s.boot.running && decide (5 ≤ s.rf 1 Reg.SMG_BOOT_STAGE ∧ s.rf 1 Reg.SMG_BOOT_STAGE ≤ 8)

/-- A message of the load protocol: its header in network byte order, its payload (R8, R555). -/
def loadBytes (type session mseq status : Nat) (payload : List Byte) : List Byte :=
  beBytes 2 0x4B51 ++ beBytes 1 1 ++ beBytes 1 type ++ beBytes 4 session ++ beBytes 4 mseq ++ beBytes 2 payload.length ++ beBytes 2 status ++ payload

/-- Send a reply of the load protocol from the boot address to an address and UDP port (R554, R555). -/
def reply (ip port type session mseq status : Nat) (payload : List Byte) (s : State) : State :=
  bump 4 Cnt.ETH_TX_FRAMES 1 (emit (.load s.bootAddr ip port (loadBytes type session mseq status payload)) s)

/-- RESULT: the code is kept in LAST_ERR and reported (R556 to R558, SMG_BOOT). -/
def sendResult (ip port session mseq code : Nat) (digest : List Byte) (s : State) : State :=
  let s := reply ip port 6 session mseq code digest (s.wf 1 Reg.SMG_BOOT_LAST_ERR code)
  if code = 0 then s else postCode code 0 0 0 0 s

/-- ACK: NEXT (R556). -/
def sendAck (h : LoadHdr) (next status : Nat) (s : State) : State :=
  bump 1 Cnt.SMG_ACKS 1 (reply h.ip h.port 4 h.session h.mseq status (beBytes 4 next) s)

/-- IDENT (R549, R555). -/
def sendIdent (h : LoadHdr) (s : State) : State :=
  reply h.ip h.port 2 h.session h.mseq s.boot.fault
    (beBytes 1 (s.rf 1 Reg.SMG_BOOT_STAGE) ++ beBytes 1 0 ++ beBytes 2 (s.rf 1 Reg.SMG_ROM_ROM_VER) ++ beBytes 8 s.ids.macs.cur.2 ++
      beBytes 4 s.boot.devPsn ++ beBytes 4 2097152 ++ s.identityKey) s

/-- Set the session of boot-listen. -/
def setSession (x : Option Session) (s : State) : State := { s with boot := { s.boot with session := x } }

/-- The session is discarded with its data and the device listens (R557, R558). -/
def dropSession (s : State) : State := (setSession none s).wf 1 Reg.SMG_BOOT_STAGE 5

/-- Open a session (R557). -/
def openSession (h : LoadHdr) (imageLen qp psn key : Nat) (s : State) : State :=
  let x : Session := { id := h.session, ip := h.ip, port := h.port, imageLen, hostQp := qp % 2 ^ 24, hostPsn := psn % 2 ^ 24, devKey := key, lastTime := s.time }
  sendIdent h (bump 1 Cnt.SMG_HELLOS 1 ((setSession (some x) s).wf 1 Reg.SMG_BOOT_STAGE 6))

/-- A datagram that R555 discards. -/
def badMsg (s : State) : State := bump 1 Cnt.SMG_BAD_MSG 1 s

/-- Whether a datagram reaches boot-listen: it is open and the datagram is sent to the boot address (R554). -/
def State.hears (s : State) (h : LoadHdr) : Bool := s.listening && h.dest == s.bootAddr

/-- HELLO (R554, R555, R557). -/
def execHello (h : LoadHdr) (imageLen qp psn key : Nat) (s : State) : Host.Outcome State Fault Refusal :=
  if !s.hears h then .next s
  else if !h.fits 1 16 ∨ h.session = 0 then .next (badMsg s)
  else match s.boot.session with
    | none => .next (openSession h imageLen qp psn key s)
    | some x =>
      if x.id = h.session then
        if x.verifying then .next s
        else .next (sendIdent h (bump 1 Cnt.SMG_HELLOS 1 (setSession (some { x with lastTime := s.time }) s)))
      else if x.verifying ∨ s.time < x.lastTime + 2000000000 then
        .next (sendResult h.ip h.port h.session h.mseq Code.E_LOAD_BUSY (List.replicate 32 0) s)
      else .next (openSession h imageLen qp psn key s)

/-- NEXT after the kept data: the lowest offset not yet received (R555, R556). -/
def advanceNext (imageLen : Nat) (chunks : List (Nat × List Byte)) : Nat → Nat → Nat
  | 0, next => next
  | fuel + 1, next =>
    match tget? chunks next with
    | some b => if b.isEmpty then next else advanceNext imageLen chunks fuel (next + b.length)
    | none => next

/-- DATA (R549, R555 to R557). -/
def execData (h : LoadHdr) (offset : Nat) (bytes : List Byte) (s : State) : Host.Outcome State Fault Refusal :=
  if !s.hears h then .next s
  else if !h.fits 3 (4 + bytes.length) then .next (badMsg s)
  else match s.boot.session with
    | none => .next s
    | some x =>
      if x.id ≠ h.session ∨ x.verifying ∨ s.boot.fault ≠ 0 then .next s
      else
        let s := setSession (some { x with lastTime := s.time }) s
        if offset % 8192 ≠ 0 ∨ x.imageLen ≤ offset ∨ bytes.length ≠ min 8192 (x.imageLen - offset) then .next (badMsg s)
        else if x.next + 2097152 < offset + bytes.length then
          .next (sendAck h x.next 0 (bump 1 Cnt.SMG_DATA_DROPPED 1 s))
        else if offset < x.next ∨ (tget? x.chunks offset).isSome then
          .next (sendAck h x.next 0 (bump 1 Cnt.SMG_DATA_DUP 1 s))
        else
          let chunks := tput x.chunks offset bytes
          let next := advanceNext x.imageLen chunks chunks.length x.next
          let s := bump 1 Cnt.SMG_DATA_RX 1 (setSession (some { x with lastTime := s.time, chunks, next }) s)
          if x.next / 131072 < next / 131072 then .next (sendAck h next 0 s) else .next s

/-- The image layout of R558. -/
def imageOk (imageLen : Nat) (b : List Byte) : Bool :=
  let code := leAt b 0x14 4
  leAt b 0 4 == 0x4647514B && leAt b 4 2 == 1 && leAt b 6 2 == 0 && leAt b 8 4 == imageLen && decide (b.length = imageLen) &&
    decide (imageLen = 128 + code + 29792) && decide (imageLen ≤ 67108864) && decide (64 ≤ code) &&
    decide (leAt b 0x10 4 < code) && ((b.drop 0x18).take 40).all (· == 0)

/-- END (R555 to R558). -/
def execEndImage (h : LoadHdr) (s : State) : Host.Outcome State Fault Refusal :=
  if !s.hears h then .next s
  else if !h.fits 5 0 then .next (badMsg s)
  else match s.boot.session with
    | none => .next s
    | some x =>
      if x.id ≠ h.session then .next s
      else if x.verifying then .next (sendAck h x.next Code.I_BOOT_PENDING s)
      else
        let s := setSession (some { x with lastTime := s.time }) s
        if x.next < x.imageLen then .next (sendAck h x.next 0 s)
        else
          let image := x.chunks.flatMap (·.2)
          if imageOk x.imageLen image then
            .next ((setSession (some { x with lastTime := s.time, verifying := true, endMseq := h.mseq })
              { s with boot := { s.boot with image } }).wf 1 Reg.SMG_BOOT_STAGE 7)
          else .next (dropSession (sendResult h.ip h.port h.session h.mseq Code.E_LOAD_FORMAT (List.replicate 32 0) s))

/-- ABORT (R555, R557). -/
def execAbortLoad (h : LoadHdr) (s : State) : Host.Outcome State Fault Refusal :=
  if !s.hears h then .next s
  else if !h.fits 7 0 then .next (badMsg s)
  else match s.boot.session with
    | none => .next s
    | some x => if x.id ≠ h.session ∨ x.verifying then .next s else .next (dropSession s)

/-- Whether the image's signature verifies against the vendor root key (R558). -/
def imageSigned (b : List Byte) : Bool :=
  Config.slhVerify Config.vendorKey false (b.take (128 + leAt b 0x14 4)) (b.drop (128 + leAt b 0x14 4))

/-- IMAGE_VERIFY_DONE (R558, R559). -/
def execImageVerifyDone (s : State) : Host.Outcome State Fault Refusal :=
  match s.boot.session with
  | none => .next s
  | some x =>
    if s.rf 1 Reg.SMG_BOOT_STAGE ≠ 7 then .next s
    else
      let s := hashed (bump 2 Cnt.SEC_VERIFIES 1 s)
      if imageSigned s.boot.image then
        .next ({ s with boot := { s.boot with bootQp := (x.ip, x.port, x.hostQp, x.hostPsn, x.devKey) } }.wf 1 Reg.SMG_BOOT_STAGE 8)
      else
        let s := s.wf 1 Reg.SMG_ROM_FAILS (min 0xFFFF (s.rf 1 Reg.SMG_ROM_FAILS + 1))
        let s := { s with boot := { s.boot with image := [] } }
        .next (dropSession (sendResult x.ip x.port x.id x.endMseq Code.E_IMAGE_SIGNATURE (List.replicate 32 0) s))

/-- Queue pair 0 at operational state (R560). -/
def bootQp (b : BootSt) : Qp :=
  { st := 1, rdOk := true, wrOk := true, dest := b.bootQp.2.2.1, ip := b.bootQp.1, key := b.bootQp.2.2.2.2, psn := b.devPsn, peerPsn := b.bootQp.2.2.2.1 }

/-- OPERATIONAL (R546 step 10, R547, R558 to R560); `ms` is the time since PWR_GOOD. -/
def execOperational (ms : Nat) (s : State) : Host.Outcome State Fault Refusal :=
  match s.boot.session with
  | none => .next s
  | some x =>
    if s.rf 1 Reg.SMG_BOOT_STAGE ≠ 8 then .next s
    else
      let digest := Config.shake256 s.boot.image 32
      let s := (s.wf 0 Reg.GLB_START_START_MS (min 0xFFFF ms)).wf 1 Reg.SMG_FW_SVN_SVN (leAt s.boot.image 0x0C 4)
      let s := (List.range 8).foldl (fun a w => a.setReg 1 (0x110 + 4 * w) (BitVec.ofNat 32 (leAt digest (4 * w) 4))) s
      let s := { s with qps := tput s.qps 0 (bootQp s.boot) }
      let s := ((s.setReg 0x2000 0x108 (BitVec.ofNat 32 (bootQp s.boot).dest)).setReg 0x2000 0x10C (BitVec.ofNat 32 (bootQp s.boot).ip)).setReg 0x2000 0x110 (BitVec.ofNat 32 (bootQp s.boot).key)
      let s := setSession none (s.wf 1 Reg.SMG_BOOT_STAGE 9)
      .next (sendResult x.ip x.port x.id x.endMseq 0 digest s)

/-- Whether the part is operational (R547). -/
def State.up (s : State) : Bool := s.boot.running && s.rf 1 Reg.SMG_BOOT_STAGE == 9

end Sys2Proof.Machine
end

