-- ==== Sys2Proof/Machine/Power.lean ====
section
/-! DEFINITION. The pins, the supply, the limits and the clocks (spec/19). An event that cannot occur in the present
state leaves the state as it is (log entry 4). -/

namespace Sys2Proof.Machine

/-- The power-down at the pins: the die held in reset, ports stopped, LPDDR6 lost, PWR_GOOD low, the cause recorded and
PWR_EN's effect cleared (R665 to R667). -/
def powerDown (cause : Nat) (s : State) : State :=
  let t := dieReset s
  let t := { t with pins := { t.pins with conv := .off, pwrGood := false, armed := decide (cause = 1 ∨ cause = 2), nextCause := if cause = 4 then 2 else 0, belowUs := 0 } }
  let t := (((t.wf 3 Reg.PWR_STAT_RAILS_OK 0).wf 3 Reg.PWR_STAT_ROOT_LOCK 0).wf 3 Reg.PWR_STAT_MEM_LOCK 0).wf 3 Reg.PWR_STAT_ETH_LOCK 0
  let t := (t.wf 3 Reg.PWR_STAT_CAP_ACTIVE 0).wf 3 Reg.PWR_LAST_OFF_CAUSE cause
  if cause = 1 then t else bump 3 Cnt.PWR_STOPS 1 t

/-- VIN_OK and VIN_WARN for an input voltage in 10 mV; entering the warning range records W_VIN_RANGE (R653). -/
def showVin (cv : Nat) (s : State) : State :=
  let warn := (3800 ≤ cv ∧ cv < 4000) ∨ (6000 < cv ∧ cv ≤ 6200)
  let was := s.rf 3 Reg.PWR_STAT_VIN_WARN = 1
  let s := (s.wf 3 Reg.PWR_STAT_VIN_OK (bit (decide (4000 ≤ cv ∧ cv ≤ 6000)))).wf 3 Reg.PWR_STAT_VIN_WARN (bit (decide warn))
  if warn ∧ ¬was then post 3 Code.W_VIN_RANGE (bump 3 Cnt.PWR_VIN_WARNS 1 s) else s

/-- INPUT_APPLY (R653, R659): the input rises to `cv` x 10 mV, 38 V or more. -/
def execInputApply (cv : Nat) (s : State) : Host.Outcome State Fault Refusal :=
  if s.pins.input ∨ cv < 3800 then .next s
  else
    let t := { s with pins := { s.pins with input := true, thermTripN := true } }
    .next (showVin cv t)

/-- INPUT_REMOVAL (R657, R667): below 38 V the standby domain's record and counters clear. -/
def execInputRemoval (s : State) : Host.Outcome State Fault Refusal :=
  if !s.pins.input then .next s
  else
    let t := { s with ctr := s.ctr.filter (fun e => e.1 / 32 ≠ 3), pins := { s.pins with input := false, thermTripN := true, armed := true, samples := [], sampleNo := 0, energy := 0, pwrEn := s.pins.pwrEn && decide (s.pins.conv ≠ Conv.off) } }
    .next (((t.setReg 3 0x118 0).wf 3 Reg.PWR_STAT_VIN_OK 0).wf 3 Reg.PWR_STAT_VIN_WARN 0)

/-- PWR_EN_RISE (R663, R665). -/
def execPwrEnRise (s : State) : Host.Outcome State Fault Refusal :=
  if !s.pins.input ∨ s.pins.pwrEn then .next s
  else .next { s with pins := { s.pins with pwrEn := true, conv := if s.pins.armed ∧ s.pins.conv = .off then .starting else s.pins.conv } }

/-- RAILS_IN_REGULATION (R663, R664). -/
def execRailsInRegulation (obs : BootObs) (s : State) : Host.Outcome State Fault Refusal :=
  if s.pins.conv ≠ .starting then .next s
  else
    let t := { s with pins := { s.pins with conv := .on, pwrGood := true, refclk := obs.refclk } }
    .next (tryBoot obs (bump 3 Cnt.PWR_POWER_UPS 1 (t.wf 3 Reg.PWR_STAT_RAILS_OK 1)))

/-- RAIL_TIMEOUT (R663): cause RAIL. -/
def execRailTimeout (s : State) : Host.Outcome State Fault Refusal :=
  if s.pins.conv ≠ .starting then .next s else .next (powerDown 7 s)

/-- PWR_EN_FALL (R657, R665, R666): the cause of an earlier stop is kept. -/
def execPwrEnFall (s : State) : Host.Outcome State Fault Refusal :=
  if !s.pins.pwrEn then .next s
  else
    let t := if s.pins.conv = .off then s else powerDown 1 s
    .next { t with pins := { t.pins with pwrEn := false, thermTripN := true, armed := true } }

/-- MOD_RESET_N_ASSERT (R546, R658): a low level of `ns` nanoseconds or, for a level still low, so far. Below 1 us it is
ignored, from 10 us it is taken, between the two a free value decides. -/
def execModResetNAssert (ns : Nat) (s : State) : Host.Outcome State Fault Refusal :=
  if !s.pins.modResetN ∨ ns < 1000 then .next s
  else
    let r := if ns < 10000 then drawBool s else (true, s)
    if r.1 then
      let t := bump 3 Cnt.PWR_RESETS 1 (dieReset r.2)
      .next { t with pins := { t.pins with modResetN := false, nextCause := if s.pins.pwrGood then 1 else t.pins.nextCause } }
    else .next r.2

/-- MOD_RESET_N_RELEASE (R546, R664). -/
def execModResetNRelease (obs : BootObs) (s : State) : Host.Outcome State Fault Refusal :=
  if s.pins.modResetN then .next s
  else .next (tryBoot obs { s with pins := { s.pins with modResetN := true, refclk := obs.refclk } })

/-- UNDERVOLTAGE_STOP: the input has been below 38 V for 100 us (R665). The standby domain is off as well, so the next
application of the input finds PWR_EN armed. -/
def execUndervoltageStop (s : State) : Host.Outcome State Fault Refusal :=
  if s.pins.input ∨ s.pins.conv = .off then .next s
  else
    let t := powerDown 2 s
    .next { t with pins := { t.pins with pwrEn := false } }

/-- OVERVOLTAGE_STOP (R665). -/
def execOvervoltageStop (s : State) : Host.Outcome State Fault Refusal :=
  if s.pins.conv = .off then .next s else .next (powerDown 3 s)

/-- OVERCURRENT_STOP (R655). -/
def execOvercurrentStop (s : State) : Host.Outcome State Fault Refusal :=
  if s.pins.conv = .off then .next s else .next (powerDown 6 s)

/-- The average of the latest `n` samples, in 10 uW units. -/
def average (l : List Nat) (n : Nat) : Nat := (l.take n).foldl (· + ·) 0 / n

/-- Start or stop array gating against the limits (R654); `p10` and `p1` are the averages in 10 uW units. -/
def gate (p10 p1 : Nat) (s : State) : State :=
  let past := 72000000 ≤ p10 ∨ s.rf 3 Reg.PWR_CAP_LIMIT * 100000 ≤ p1
  let below := if past then 0 else min 10000 (s.pins.belowUs + 1)
  let s := { s with pins := { s.pins with belowUs := below } }
  if s.rf 3 Reg.PWR_STAT_CAP_ACTIVE = 1 then
    if below = 10000 then s.wf 3 Reg.PWR_STAT_CAP_ACTIVE 0 else bump 3 Cnt.PWR_CAP_CYCLES 3000 s
  else if past then
    post 3 Code.W_POWER_CAP (bump 3 Cnt.PWR_CAP_CYCLES 3000 (bump 3 Cnt.PWR_CAP_EVENTS 1 (s.wf 3 Reg.PWR_STAT_CAP_ACTIVE 1)))
  else s

/-- POWER_SAMPLE: one microsecond's measurement, `cv` x 10 mV and `ma` mA (R653, R654, R668). The measurement registers
are refreshed every 1,000 samples. -/
def execPowerSample (cv ma : Nat) (s : State) : Host.Outcome State Fault Refusal :=
  if !s.pins.input then .next s
  else
    let p := cv * ma
    let l := (p :: s.pins.samples).take 1000000
    let p10 := average l 10000
    let p1 := average l 1000000
    let e := s.pins.energy + p
    let s := { s with pins := { s.pins with samples := l, sampleNo := (s.pins.sampleNo + 1) % 1000, energy := e % 10 ^ 11 } }
    let s := bump 3 Cnt.PWR_ENERGY_J (e / 10 ^ 11) s
    let s := peak 3 Cnt.PWR_PEAK_DW (p10 / 10000) s
    let s := if s.pins.sampleNo = 0 then
        (((s.wf 3 Reg.PWR_VI_VIN (min 65535 cv)).wf 3 Reg.PWR_VI_IIN (min 65535 ma)).wf 3 Reg.PWR_PIN_P_10MS (min 65535 (p10 / 10000))).wf 3
          Reg.PWR_PIN_P_1S (min 65535 (p1 / 10000))
      else s
    .next (gate p10 p1 (showVin cv s))

/-- The highest of the die readings and the lowest sensor that holds it. -/
def hottest (l : List Nat) : Nat × Nat :=
  let m := l.foldl max 0
  (m, l.findIdx (· == m))

/-- TEMP_SAMPLE: the 24 die sensors and the outlet (R656, R657). -/
def execTempSample (die : List Nat) (plate : Nat) (s : State) : Host.Outcome State Fault Refusal :=
  if !s.pins.input then .next s
  else
    let h := hottest die
    let s := ((s.wf 3 Reg.PWR_TEMP_DIE_MAX (min 255 h.1)).wf 3 Reg.PWR_TEMP_DIE_SENSOR h.2).wf 3 Reg.PWR_TEMP_PLATE (min 255 plate)
    let warn := s.rf 3 Reg.PWR_THERM_WARN_C ≤ h.1
    let was := s.rf 3 Reg.PWR_STAT_THERM_WARN = 1
    let s := s.wf 3 Reg.PWR_STAT_THERM_WARN (bit (decide warn))
    let s := if warn ∧ ¬was then post 3 Code.W_THERM_HIGH (bump 3 Cnt.PWR_THERM_WARNS 1 s) else s
    if 115 ≤ h.1 ∨ 75 ≤ plate then
      let t := if s.pins.conv = .off then s else powerDown 4 s
      .next { t with pins := { t.pins with thermTripN := !s.pins.pwrEn } }
    else .next s

/-- PLL_LOCK_LOSS: the root or the memory PLL has been unlocked for 1 us (R661). -/
def execPllLockLoss (memory : Bool) (s : State) : Host.Outcome State Fault Refusal :=
  if s.pins.conv = .off then .next s
  else .next (powerDown 5 (if memory then s.wf 3 Reg.PWR_STAT_MEM_LOCK 0 else s.wf 3 Reg.PWR_STAT_ROOT_LOCK 0))

/-- A port's link goes down: its status bits clear and LINK_DOWNS counts a transition of LINK to 0 (R541). -/
def linkDown (n : Nat) (s : State) : State :=
  let was := s.rf (4 + n) Reg.ETH_STAT_LINK
  let s := ((s.wf (4 + n) Reg.ETH_STAT_LINK 0).wf (4 + n) Reg.ETH_STAT_FEC_LOCK 0).wf (4 + n) Reg.ETH_STAT_AN_DONE 0
  if was = 1 then bump (4 + n) Cnt.ETH_LINK_DOWNS 1 s else s

/-- ETH_PLL_LOCK_LOSS: every link goes down and the module keeps running (R661). -/
def execEthPllLockLoss (s : State) : Host.Outcome State Fault Refusal :=
  if !s.boot.running then .next s
  else .next ((List.range 4).foldl (fun a n => linkDown n a) (s.wf 3 Reg.PWR_STAT_ETH_LOCK 0))

end Sys2Proof.Machine
end

