-- ==== Sys2Proof/Machine/Eth.lean ====
section
/-! DEFINITION. The Ethernet ports (spec/14, R515 to R519). -/

namespace Sys2Proof.Machine

/-- Replace element i of a list. -/
def setAt {α : Type} (l : List α) (i : Nat) (x : α) : List α := l.set i x

/-- Send a pause frame. -/
def sendPause (n prio quanta : Nat) (s : State) : State :=
  bump (4 + n) Cnt.ETH_PFC_TX 1 (bump (4 + n) Cnt.ETH_TX_FRAMES 1 (emit (.pause n prio quanta) s))

/-- Set or clear bit `i` of a field. -/
def setBitOf (page : Nat) (f : Fld) (i : Nat) (b : Bool) (s : State) : State :=
  let v := s.rf page f
  s.wf page f (v - bits v i 1 * 2 ^ i + bit b * 2 ^ i)

/-- Bytes leave a priority's share of the receive buffer. -/
def drain (n prio bytes : Nat) (s : State) : State :=
  let p := tget s.ports {} n
  { s with ports := tput s.ports n { p with occ := setAt p.occ prio (p.occ.getD prio 0 - bytes) } }

/-- The priority of a received frame (R517). -/
def framePrio (pcp : Option (Fin 8)) (dscp : Fin 64) : Nat := match pcp with | some p => p.val | none => dscp.val / 8

/-- FRAME_RECEIVE (R516 to R518, R535): `drained` bytes of the priority's share have been consumed since its last
event. -/
def execFrameReceive (port : Fin 4) (pcp : Option (Fin 8)) (dscp : Fin 64) (len : Nat) (rtcp ce : Bool) (drained : Nat)
    (s : State) : Host.Outcome State Fault Refusal :=
  if !s.up then .next s
  else
    let n := port.val
    let pg := 4 + n
    let prio := framePrio pcp dscp
    let s := drain n prio drained s
    if 9216 < len then .next (bump pg Cnt.ETH_RX_OVERSIZE 1 s)
    else
      let occ := (tget s.ports {} n).occ.getD prio 0
      let lossless := bits (s.rf pg Reg.ETH_CTRL_LOSSLESS) prio 1 = 1
      if ¬lossless ∧ 524288 < occ + len then .next (bump pg Cnt.ETH_RX_DROP_CLASS 1 s)
      else
        let s := bump pg Cnt.ETH_RX_BYTES len (bump pg Cnt.ETH_RX_FRAMES 1 s)
        let s := if ce then bump pg Cnt.ETH_ECN_CE_RX 1 s else s
        if rtcp then .next (bump 0x35 Cnt.MED_RTCP_DISCARD 1 s)
        else
          let p := tget s.ports {} n
          let s := { s with ports := tput s.ports n { p with occ := setAt p.occ prio (occ + len) } }
          if lossless ∧ 262144 ≤ occ + len ∧ bits (s.rf pg Reg.ETH_STAT_PAUSING) prio 1 = 0 then
            .next (sendPause n prio 0xFFFF (setBitOf pg Reg.ETH_STAT_PAUSING prio true s))
          else .next s

/-- PFC_REFRESH (R518): every priority still paused is paused again. -/
def execPfcRefresh (s : State) : Host.Outcome State Fault Refusal :=
  .next ((List.range 32).foldl (fun a k =>
    if bits (a.rf (4 + k / 8) Reg.ETH_STAT_PAUSING) (k % 8) 1 = 1 then sendPause (k / 8) (k % 8) 0xFFFF a else a) s)

/-- PFC_RESUME (R518). -/
def execPfcResume (port : Fin 4) (prio : Fin 8) (drained : Nat) (s : State) : Host.Outcome State Fault Refusal :=
  let s := drain port.val prio.val drained s
  if bits (s.rf (4 + port.val) Reg.ETH_STAT_PAUSING) prio.val 1 = 1 ∧ (tget s.ports {} port.val).occ.getD prio.val 0 < 131072 then
    .next (sendPause port.val prio.val 0 (setBitOf (4 + port.val) Reg.ETH_STAT_PAUSING prio.val false s))
  else .next s

/-- The frames held back for a priority go out. -/
def releaseHeld (n prio : Nat) (s : State) : State :=
  let p := tget s.ports {} n
  let s := { s with ports := tput s.ports n { p with held := p.held.filter (fun m => m.1 ≠ prio) } }
  (p.held.filter (fun m => m.1 = prio)).foldl (fun a m => emit m.2 a) s

/-- PAUSE_RECEIVE (R518, R519): quanta 0 releases the priority and ends the watchdog's hold; another value pauses it,
unless the watchdog is in force. -/
def execPauseReceive (port : Fin 4) (prio : Fin 8) (quanta : BitVec 16) (s : State) : Host.Outcome State Fault Refusal :=
  if !s.up then .next s
  else
    let pg := 4 + port.val
    let s := bump pg Cnt.ETH_PFC_RX 1 s
    if quanta = 0 then
      .next (releaseHeld port.val prio.val
        (setBitOf pg Reg.ETH_STAT_WD_ACTIVE prio.val false (setBitOf pg Reg.ETH_STAT_PEER_PAUSED prio.val false s)))
    else if bits (s.rf pg Reg.ETH_STAT_WD_ACTIVE) prio.val 1 = 1 ∨ bits (s.rf pg Reg.ETH_STAT_PEER_PAUSED) prio.val 1 = 1 then .next s
    else
      let p := tget s.ports {} port.val
      .next (setBitOf pg Reg.ETH_STAT_PEER_PAUSED prio.val true
        { s with ports := tput s.ports port.val { p with since := setAt p.since prio.val s.time } })

/-- PFC_WATCHDOG (R519). -/
def execPfcWatchdog (port : Fin 4) (prio : Fin 8) (s : State) : Host.Outcome State Fault Refusal :=
  let pg := 4 + port.val
  let p := tget s.ports {} port.val
  let wd := s.rf pg Reg.ETH_CTRL_PFC_WD
  if bits (s.rf pg Reg.ETH_STAT_PEER_PAUSED) prio.val 1 = 0 ∨ wd = 0 ∨ s.time < p.since.getD prio.val 0 + 2 ^ wd * 1000000 then .next s
  else
    let lost := (p.held.filter (fun m => m.1 = prio.val)).length
    let s := { s with ports := tput s.ports port.val { p with held := p.held.filter (fun m => m.1 ≠ prio.val) } }
    .next (bump pg Cnt.ETH_PFC_WD_DROPS lost (setBitOf pg Reg.ETH_STAT_WD_ACTIVE prio.val true s))

/-- LINK_CHANGE (R515). -/
def execLinkChange (port : Fin 4) (up : Bool) (s : State) : Host.Outcome State Fault Refusal :=
  if !s.boot.running then .next s
  else
    let pg := 4 + port.val
    if up then
      .next ((((s.wf pg Reg.ETH_STAT_LINK 1).wf pg Reg.ETH_STAT_FEC_LOCK 1).wf pg Reg.ETH_STAT_AN_DONE (s.rf pg Reg.ETH_CTRL_AN_EN)).wf 3
        Reg.PWR_STAT_ETH_LOCK 1)
    else .next (linkDown port.val s)

/-- A write to ETH_CTRL; one that changes MODE, MEDIUM or AN_EN restarts the link (R515). -/
def ethCtrl (n : Nat) (w : Word) (s : State) : State :=
  let old := s.reg (4 + n) 0x100
  let new := w &&& 0x0FFFFFFF
  let s := s.setReg (4 + n) 0x100 new
  if old.toNat % 8 ≠ new.toNat % 8 then linkDown n s else s

/-- ETH_CTRL_WRITE (R515). -/
def execEthCtrlWrite (port : Fin 4) (w : Word) (s : State) : Host.Outcome State Fault Refusal := hostWrite 1 (ethCtrl port.val w) s

end Sys2Proof.Machine
end

