-- ==== Sys2Proof/Machine/Rdma.lean ====
section
/-! DEFINITION. The RDMA requester and the queue pairs (spec/14, R521 to R527). -/

namespace Sys2Proof.Machine

/-- A queue pair; one never configured reads as in RESET. -/
def State.qp (s : State) (q : Nat) : Qp := tget s.qps {} q

/-- Write a queue pair back. -/
def setQp (q : Nat) (x : Qp) (s : State) : State := { s with qps := tput s.qps q x }

/-- A transport failure reaches the one that asked (R523): a completion write, a fetch, a job, the pair engine. -/
def ownerFail (o : Owner) (code : Nat) (s : State) : State :=
  match o with
  | .none => s
  | .ringBody r | .ringWord r => match tget? s.rings r with
    | some k => { s with rings := tput s.rings r { k with broken := true } }
    | none => s
  | .fetch k => match tget? s.fetches k with
    | some f => { s with fetches := tput s.fetches k { f with failCode := code } }
    | none => s
  | .stream _ _ (some j) => stopJob j code s
  | .stream _ _ none => s
  | .pair => setQp 4095 { s.qp 4095 with st := 0, out := [] } s

/-- RDM_ERR (R542). -/
def holdRdmErr (q kind : Nat) (s : State) : State :=
  holdRecord 8 Reg.RDM_ERR_VALID [(Reg.RDM_ERR_QP, q), (Reg.RDM_ERR_KIND, kind)] s

/-- Payload bytes of a request. -/
def msgBytes : Msg → Nat
  | .rdmaWrite _ _ _ b | .rdmaWriteImm _ _ _ b _ => b.length
  | _ => 0

/-- Whether the block of a page takes no new request (R578, R581). -/
def State.refusing (s : State) (page : Nat) : Bool :=
  s.rf page Reg.PG_CTRL_QUIESCE_REQ == 1 || s.rf page Reg.PG_STAT_QUIESCED == 1 || s.rf page Reg.PG_STAT_POWERED_DOWN == 1

/-- The page of a stagehand. -/
def shdPage (sh : Nat) : Nat := if sh < 0x80 then 0x200 + sh else 0x280 + (sh - 0x80)

/-- The page of the block that makes a request. -/
def Owner.page : Owner → Nat
  | .none | .ringBody _ | .ringWord _ => 0x21
  | .fetch _ => 0x20
  | .stream sh _ _ => shdPage sh
  | .pair => 0x38

/-- The job epoch that a request carries (R226). -/
def State.jobEpoch (s : State) (o : Owner) : Nat :=
  match o with | .stream sh _ _ => s.rf (shdPage sh) Reg.SMV_JOB_JOB_EPOCH | _ => 0

/-- A request with the values it takes when it is issued (R226, R582). -/
def State.tagged (s : State) (m : Msg) (o : Owner) : Req :=
  { msg := m, owner := o, epoch := s.rf o.page Reg.PG_STAT_EPOCH, respEpoch := s.rf 8 Reg.PG_STAT_EPOCH, jobEpoch := s.jobEpoch o }

/-- Whether a reply may be accepted: both EPOCHs are current, and the job epoch is current and not dead (R226, R227, R230, R582). -/
def State.current (s : State) (r : Req) : Bool :=
  r.epoch == s.rf r.owner.page Reg.PG_STAT_EPOCH && r.respEpoch == s.rf 8 Reg.PG_STAT_EPOCH && r.jobEpoch == s.jobEpoch r.owner &&
    (match r.owner with | .stream sh _ _ => s.rf (shdPage sh) Reg.SMV_JOB_DEAD == 0 | _ => true)

/-- Issue a request on a queue pair (R523, R524, R578): in ERROR it fails at once, and so it does while the RDMA engine takes none;
otherwise it is sent and outstanding. -/
def issue (q : Nat) (m : Msg) (o : Owner) (s : State) : State :=
  let x := s.qp q
  if s.refusing 8 then ownerFail o Code.E_PEER_ABSENT s
  else if x.st = 1 then
    let s := match m with
      | .rdmaRead .. => bump 8 Cnt.RDM_REQ_READS 1 s
      | _ => bump 8 Cnt.RDM_REQ_WRITES 1 (bump 8 Cnt.RDM_BYTES_TX (msgBytes m) s)
    sendOn x.port x.prio m (setQp q { x with out := x.out ++ [s.tagged m o] } s)
  else ownerFail o Code.E_RDMA_TRANSPORT (holdRdmErr q 1 s)

/-- Every outstanding request fails (R523, R525). -/
def failAll (q code : Nat) (s : State) : State :=
  let x := s.qp q
  x.out.foldl (fun a r => ownerFail r.owner code a) (setQp q { x with out := [], tries := 0 } s)

/-- A request is acknowledged, with the bytes of a read response. -/
def ownerDone (o : Owner) (bytes : List Byte) (s : State) : State :=
  match o with
  | .ringBody r => match tget? s.rings r with
    | some k => { s with rings := tput s.rings r { k with cur := k.cur.map (fun c => (c.1, c.2.1, true)) } }
    | none => s
  | .fetch k => match tget? s.fetches k with
    | some f => { s with fetches := tput s.fetches k { f with data := some bytes } }
    | none => s
  | _ => s

/-- A reply that is not current is discarded and counted, and the job that asked stops unless it has (R227, R230, R582). -/
def discardReply (o : Owner) (s : State) : State :=
  match o with
  | .stream sh _ _ => ownerFail o Code.E_PEER_ABSENT (bump (shdPage sh) Cnt.SMV_DISCARDED 1 s)
  | _ => ownerFail o Code.E_PEER_ABSENT s

/-- The reply to a request arrives. -/
def requestReply (r : Req) (bytes : List Byte) (s : State) : State := if s.current r then ownerDone r.owner bytes s else discardReply r.owner s

/-- One CNP for a packet marked CE, at most one per 50 us for each queue pair (R526). -/
def cnpFor (q : Nat) (ce : Bool) (s : State) : State :=
  let x := s.qp q
  if !ce then s
  else match x.lastCnpTx with
    | some t => if s.time < t + 50000 then s else bump 8 Cnt.RDM_CNP_TX 1 (sendOn x.port x.prio (.cnp q) (setQp q { x with lastCnpTx := some s.time } s))
    | none => bump 8 Cnt.RDM_CNP_TX 1 (sendOn x.port x.prio (.cnp q) (setQp q { x with lastCnpTx := some s.time } s))

/-- RDMA_ACK_RECEIVE (R523, R525): the first `n` outstanding requests complete; in RESET or ERROR the reply is
discarded. `bytes` is what a read response carries. -/
def execRdmaAckReceive (qp : Fin 4096) (n : Nat) (bytes : List Byte) (ce : Bool) (s : State) : Host.Outcome State Fault Refusal :=
  let x := s.qp qp.val
  if x.st ≠ 1 then .next s
  else
    let s := cnpFor qp.val ce s
    let x := s.qp qp.val
    let s := setQp qp.val { x with out := x.out.drop n, tries := 0 } s
    .next ((x.out.take n).foldl (fun a r => requestReply r bytes a) (bump 8 Cnt.RDM_BYTES_RX bytes.length s))

/-- The requester's timeout (R523): a retransmission, or ERROR once RETRY of them have been made. -/
def timeout (q : Nat) (s : State) : State :=
  let x := s.qp q
  match x.out with
  | [] => s
  | r :: _ =>
    if x.st ≠ 1 then s
    else if x.tries < x.retry then
      bump 8 Cnt.RDM_RETRANSMITS 1 (sendOn x.port x.prio r.msg (setQp q { x with tries := x.tries + 1 } s))
    else failAll q Code.E_RDMA_TRANSPORT (holdRdmErr q 1 (bump 8 Cnt.RDM_QP_ERRORS 1 (setQp q { x with st := 2 } s)))

/-- RDMA_RETRANSMIT (R523). -/
def execRdmaRetransmit (qp : Fin 4096) (s : State) : Host.Outcome State Fault Refusal := .next (timeout qp.val s)

/-- RDMA_NAK_RECEIVE (R523): the oldest outstanding request fails, or an RNR NAK acts as a timeout. -/
def execRdmaNakReceive (qp : Fin 4096) (kind : Nak) (s : State) : Host.Outcome State Fault Refusal :=
  let x := s.qp qp.val
  match x.out with
  | [] => .next s
  | r :: t =>
    if x.st ≠ 1 then .next s
    else match kind with
      | .rnr => .next (timeout qp.val s)
      | .access => .next (ownerFail r.owner Code.E_RDMA_REMOTE (holdRdmErr qp.val 2 (setQp qp.val { x with out := t, tries := 0 } s)))
      | .invalid => .next (ownerFail r.owner Code.E_RDMA_REMOTE (holdRdmErr qp.val 3 (setQp qp.val { x with out := t, tries := 0 } s)))

/-- The rate of a port in Mb/s (R515). -/
def State.portRate (s : State) (n : Nat) : Nat := if s.rf (4 + n) Reg.ETH_CTRL_MODE = 1 then 100000 else 200000

/-- CNP_RECEIVE (R527). -/
def execCnpReceive (qp : Fin 4096) (s : State) : Host.Outcome State Fault Refusal :=
  let x := s.qp qp.val
  let s := bump 8 Cnt.RDM_CNP_RX 1 s
  if s.rf 8 Reg.RDM_CC_CC_EN = 1 then
    let rate := min x.rate (s.portRate x.port)
    .next (setQp qp.val { x with rate := max 100 (rate - rate / 2 ^ s.rf 8 Reg.RDM_CC_CUT), lastCut := s.time } s)
  else .next s

/-- CC_RATE_RISE (R527). -/
def execCcRateRise (qp : Fin 4096) (s : State) : Host.Outcome State Fault Refusal :=
  let x := s.qp qp.val
  if s.rf 8 Reg.RDM_CC_CC_EN = 0 ∨ s.time < x.lastCut + s.rf 8 Reg.RDM_CC_RISE_US * 1000 then .next s
  else .next (setQp qp.val { x with rate := min (s.portRate x.port) (x.rate + s.rf 8 Reg.RDM_CC_STEP), lastCut := s.time } s)

/-- The settings of a configuration word with the staged registers (R525, RDM_QP_CFG): MTU 3 is reserved and keeps the
MTU there is. -/
def Qp.apply (x : Qp) (q : Nat) (w : Word) (s : State) : Qp :=
  let n := w.toNat
  let pg := 0x2000 + q
  { x with port := bits n 0 2, mtu := if bits n 4 2 = 3 then x.mtu else bits n 4 2, retry := bits n 6 3, timeout := bits n 9 5, prio := bits n 14 3, rdOk := bits n 17 1 = 1, wrOk := bits n 18 1 = 1, notify := bits n 19 1 = 1, dest := s.rf pg Reg.RDM_QP_DEST_DEST_QP, ip := s.rf pg Reg.RDM_QP_IP_PEER_IP, key := s.rf pg Reg.RDM_QP_KEY_DEV_KEY }

/-- A write of STATE RESET: outstanding requests fail, the staged settings apply (R523, R525). -/
def qpReset (q : Nat) (w : Word) (s : State) : State :=
  let x := s.qp q
  let s := if x.out.isEmpty then s else failAll q Code.E_RDMA_TRANSPORT (holdRdmErr q 4 s)
  setQp q { (s.qp q).apply q w s with st := 0, tries := 0 } s

/-- A write of STATE READY from RESET (R525). -/
def qpReady (q : Nat) (w : Word) (s : State) : State :=
  let x := s.qp q
  if x.st = 0 then setQp q { x.apply q w s with st := 1, rate := s.portRate (bits w.toNat 0 2) } s else s

/-- Another write to a READY queue pair changes only PRIO, RD_OK, WR_OK and NOTIFY (R525). -/
def qpTouch (q : Nat) (w : Word) (s : State) : State :=
  let x := s.qp q
  let n := w.toNat
  if x.st = 1 then setQp q { x with prio := bits n 14 3, rdOk := bits n 17 1 = 1, wrOk := bits n 18 1 = 1, notify := bits n 19 1 = 1 } s else s

/-- A write to RDM_QP_CFG (R525). Host writes for queue pair 4,095 are ignored (spec/16). -/
def qpCfg (q : Nat) (w : Word) (s : State) : State :=
  if q = 4095 then s
  else if bits w.toNat 2 2 = 0 then qpReset q w s
  else if (s.qp q).st = 0 ∧ bits w.toNat 2 2 = 1 then qpReady q w s
  else qpTouch q w s

/-- A configuration word with another STATE. -/
def withQpState (n : Nat) (w : Word) : Word := (w &&& 0xFFFFFFF3) ||| BitVec.ofNat 32 (4 * n)

/-- QP_RESET (R525): a write of RDM_QP_CFG with STATE RESET. -/
def execQpReset (qp : Fin 4096) (w : Word) (s : State) : Host.Outcome State Fault Refusal := hostWrite 1 (qpCfg qp.val (withQpState 0 w)) s

/-- QP_READY (R525): a write of RDM_QP_CFG with STATE READY. -/
def execQpReady (qp : Fin 4096) (w : Word) (s : State) : Host.Outcome State Fault Refusal := hostWrite 1 (qpCfg qp.val (withQpState 1 w)) s

/-- QP_CFG_WRITE (R525): any write of RDM_QP_CFG. -/
def execQpCfgWrite (qp : Fin 4096) (w : Word) (s : State) : Host.Outcome State Fault Refusal := hostWrite 1 (qpCfg qp.val w) s

end Sys2Proof.Machine
end

