-- ==== Sys2Proof/Machine/Xlt.lean ====
section
/-! DEFINITION. Partitions, remote windows and translation (spec/13, R493 to R512). -/

namespace Sys2Proof.Machine

/-- The sub-channel that holds an address (R486). -/
def subChannel (a : Nat) : Nat :=
  let g := a / 64 / 31
  (g ^^^ (g / 128) ^^^ (g / 16384)) % 128

/-- The MEM page of an address: package k is page 0x010 + k (R486). -/
def memPage (a : Nat) : Nat := 0x10 + subChannel a / 8

/-- Whether the block that serves an address takes no new request (R492, R578). -/
def State.addrRefused (s : State) (a : Nat) : Bool := if isRemote a then s.refusing 8 else isLpddr a && s.refusing (memPage a)

/-- Whether [a, a + len) lies in host usable LPDDR6 inside partition n, which is enabled (R508, R509). -/
def State.inPart (s : State) (n a len : Nat) : Bool :=
  let f (x : Fld) := s.rf 0x20 (x.nth 4 n)
  f Reg.XLT_PART_EN == 1 && decide (f Reg.XLT_PART_BASE ≤ a / 2 ^ 30 ∧ (a + len - 1) / 2 ^ 30 ≤ f Reg.XLT_PART_LIMIT) &&
    isHostLpddr (a + len - 1)

/-- The enabled partition that holds an address. -/
def State.partOf (s : State) (a : Nat) : Option Nat := (List.range 16).find? (fun n => s.inPart n a 1)

/-- LOG2_LEN of a window, with its bounds. -/
def State.winLen (s : State) (w : Nat) : Nat := 2 ^ max 16 (min 34 (s.rf 0x20 (Reg.XLT_WIN_CFG_LOG2_LEN.nth 32 w)))

/-- What a remote window allows to a partition: reads and writes of [a, a + len) (R499, R506). -/
def State.winOk (s : State) (part a len : Nat) : Bool × Bool :=
  let w := (a % 0x010000000000) / 2 ^ 34
  let o := (a % 0x010000000000) % 2 ^ 34
  let f (x : Fld) := s.rf 0x20 (x.nth 32 w)
  let ok := isRemote a && f Reg.XLT_WIN_CFG_ENABLE == 1 && bits (f Reg.XLT_WIN_PERM_PARTS) part 1 == 1 && decide (o + len ≤ s.winLen w)
  (ok && f Reg.XLT_WIN_PERM_RD == 1, ok && f Reg.XLT_WIN_PERM_WR == 1)

/-- The remote address, key and queue pair of an access to a window (R506). -/
def State.winTarget (s : State) (a : Nat) : Nat × Nat × Nat :=
  let w := (a % 0x010000000000) / 2 ^ 34
  let o := (a % 0x010000000000) % 2 ^ 34
  let f (x : Fld) := s.rf 0x20 (x.nth 32 w)
  (f Reg.XLT_WIN_CFG_QP, f Reg.XLT_WIN_KEY_RKEY, (f Reg.XLT_WIN_LO_ADDR + f Reg.XLT_WIN_HI_ADDR * 2 ^ 32 + o) % 2 ^ 64)

/-- Write bytes to a device address that a walk gave: LPDDR6, or a remote window by RDMA WRITE (R506). -/
def writeOut (a : Nat) (l : List Byte) (o : Owner) (s : State) : State :=
  if isRemote a then
    let t := s.winTarget a
    bump 0x20 Cnt.XLT_REMOTE_BYTES l.length (bump 0x20 Cnt.XLT_REMOTE_REQS 1 (issue t.1 (.rdmaWrite t.1 t.2.1 t.2.2 l) o s))
  else s.store a l

/-- The outcomes of a translation (R493 to R496), and of an access that the block it reaches refuses (R578). -/
inductive Walk where
  | ok (addr : Nat)
  | hold (level : Nat) (fetch : Bool) (entry : Nat)
  | fault (kind level : Nat) (win : Bool)
  | perm (level : Nat)
  | refused (addr : Nat)
deriving DecidableEq, Repr

/-- Whether an entry keeps the layout of R494 at its level. -/
def entryOk (level e : Nat) : Bool :=
  let v := bits e 0 1; let leaf := bits e 1 1; let w := bits e 2 1; let hold := bits e 3 1; let fetch := bits e 4 1
  bits e 5 4 == 0 && bits e 48 16 == 0 &&
  (if v = 1 then hold == 0 && fetch == 0 && (if level ≤ 1 then leaf == 0 else if level = 3 then leaf == 1 else true) &&
     (if leaf = 1 then (if level = 2 then bits e 9 12 == 0 else bits e 9 7 == 0) else (if level ≤ 1 then bits e 9 3 == 0 else true))
   else (hold == 0 && fetch == 0) || (hold == 1 && decide (2 ≤ level) &&
     (fetch == 0 || (level == 3 && w == 0 && bits e 9 7 == 0))))

/-- Device address bits of an entry. -/
def entryAddr (e : Nat) : Nat := bits e 9 39 * 512

/-- The check of a page's device address for one access (R495, R499). -/
def pageCheck (s : State) (part level : Nat) (w write : Bool) (a : Nat) : Walk :=
  if isRemote a then
    let p := s.winOk part a 1
    if write then
      if !(p.1 || p.2) then .fault 3 level true else if !w || !p.2 then .perm level else .ok a
    else if p.1 then .ok a else .fault 3 level true
  else if s.inPart part a 1 then (if write && !w then .perm level else .ok a)
  else .fault 3 level false

/-- One level of the walk and those below it (R493); `fuel` counts the levels left. -/
def walkFrom (s : State) (part va : Nat) (write : Bool) : Nat → Nat → Nat → Walk
  | 0, level, _ => .fault 2 level false
  | fuel + 1, level, table =>
    let idx := if level = 3 then bits va 16 5 else bits va (39 - 9 * level) 9
    let size := if level = 3 then 512 else 4096
    if !s.inPart part table size then .fault 3 level false
    else
      let e := s.load (table + 8 * idx) 8
      if !entryOk level e then .fault 2 level false
      else if bits e 0 1 = 0 then
        if bits e 3 1 = 1 then .hold level (bits e 4 1 == 1) (table + 8 * idx) else .fault 1 level false
      else if level = 3 then pageCheck s part 3 (bits e 2 1 == 1) write (entryAddr e + va % 2 ^ 16)
      else if level = 2 ∧ bits e 1 1 = 1 then pageCheck s part 2 (bits e 2 1 == 1) write (entryAddr e + va % 2 ^ 21)
      else walkFrom s part va write fuel (level + 1) (entryAddr e)

/-- The partition of a channel (R508). -/
def State.chanPart (s : State) (i : Nat) : Nat := (s.partOf (s.chan i).ctxBase).getD 0

/-- Walk a channel virtual address (R493). -/
def State.walk (s : State) (i va : Nat) (write : Bool) : Walk :=
  if 2 ^ 48 ≤ va then .fault 3 0 false else walkFrom s (s.chanPart i) va write 4 0 (s.chan i).xltRoot

/-- Translate: through a cached entry if there is one, else by a walk (R498, R501). -/
def State.translate (s : State) (i va : Nat) (write : Bool) : Walk :=
  match s.tlb.find? (fun t => t.index == i && t.gen == (s.chan i).gen && t.vpage == va / 2 ^ 16) with
  | some t => pageCheck s (s.chanPart i) t.level t.w write (t.base + va % 2 ^ 16)
  | none => s.walk i va write

/-- The level and the entry of the page that a walk that translates ends at (R493). -/
def State.leaf (s : State) (i va : Nat) : Nat × Nat :=
  let entry (table level : Nat) : Nat := s.load (table + 8 * bits va (39 - 9 * level) 9) 8
  let e2 := entry (entryAddr (entry (entryAddr (entry (s.chan i).xltRoot 0)) 1)) 2
  if bits e2 1 1 = 1 then (2, e2) else (3, s.load (entryAddr e2 + 8 * bits va 16 5) 8)

/-- Whether the translation of an address is cached. -/
def State.cached (s : State) (i va : Nat) : Bool := s.tlb.any (fun t => t.index == i && t.gen == (s.chan i).gen && t.vpage == va / 2 ^ 16)

/-- Cache the entry a walk used; 4,096 are held (R498). -/
def cacheWalk (i va : Nat) (s : State) : State :=
  if s.cached i va then s
  else
    let l := s.leaf i va
    let base := entryAddr l.2 + (if l.1 = 2 then va % 2 ^ 21 else va % 2 ^ 16) - va % 2 ^ 16
    { s with tlb := ({ index := i, gen := (s.chan i).gen, vpage := va / 2 ^ 16, base, w := bits l.2 2 1 == 1, level := l.1 } :: s.tlb).take 4096 }

/-- XLT_FAULT, XLT_FAULT_VA and XLT_FAULT_CHAN (R511). -/
def holdXlt (kind level : Nat) (write : Bool) (va handle : Nat) (s : State) : State :=
  holdRecord 0x20 Reg.XLT_FAULT_VALID
    [(Reg.XLT_FAULT_KIND, kind), (Reg.XLT_FAULT_LEVEL, level), (Reg.XLT_FAULT_WRITE, bit write), (Reg.XLT_FAULT_VA_HI, va / 2 ^ 32),
     (Reg.XLT_FAULT_VA_VA, va % 2 ^ 32), (Reg.XLT_FAULT_CHAN_HANDLE, handle)] s

/-- The address of a device command lies in no place that R509 allows it, which is a translation fault of handle 0 (R511; DEDUCED, log
entry 193). -/
def placeFault (a : Nat) (write : Bool) (s : State) : State := bump 0x20 Cnt.XLT_FAULTS 1 (holdXlt 3 0 write a 0 s)

/-- The code a failed walk gives, and its record (R495, R496, R511): for a requester that cannot halt. -/
def walkFail (i va : Nat) (write : Bool) (w : Walk) (s : State) : Nat × State :=
  let h := handleOf i (s.chan i)
  match w with
  | .ok _ => (0, s)
  | .hold level _ _ => (Code.E_XLT_FAULT, bump 0x20 Cnt.XLT_FAULTS 1 (holdXlt 1 level write va h s))
  | .fault kind level win =>
    let s := bump 0x20 Cnt.XLT_FAULTS 1 (holdXlt kind level write va h s)
    (Code.E_XLT_FAULT, if win then bump 0x20 Cnt.XLT_WIN_FAULTS 1 s else s)
  | .perm level => (Code.E_XLT_PERM, bump 0x20 Cnt.XLT_PERM_FAULTS 1 (holdXlt 4 level write va h s))
  | .refused a => (Code.E_PEER_ABSENT, if isRemote a then s else bump (memPage a) Cnt.MEM_REFUSED 1 s)

/-- Translate an access, which the block it reaches may refuse. -/
def State.access (s : State) (i va : Nat) (write : Bool) : Walk :=
  match s.translate i va write with
  | .ok a => if s.addrRefused a then .refused a else .ok a
  | w => w

/-- The first page of [va, va + len) that does not translate with V = 1 (R497); pages are 64 KiB. -/
def State.firstBad (s : State) (i va len : Nat) (write : Bool) : Option (Nat × Walk) :=
  ((List.range (upDiv (va % 65536 + len) 65536)).map (fun k => if k = 0 then va else (va / 65536 + k) * 65536)).findSome?
    (fun a => match s.translate i a write with | .ok _ => none | w => some (a, w))

/-- The first line of [a, a + len) whose block refuses it. -/
def State.lineRefused (s : State) (a len : Nat) : Option Nat :=
  if isRemote a then (if s.refusing 8 then some a else none)
  else if (List.range 16).any (fun k => s.refusing (0x10 + k)) then ((List.range (upDiv (a % 64 + len) 64)).map (fun k => 64 * (a / 64 + k))).find? s.addrRefused
  else none

/-- The first place of [va, va + len) that does not translate, or whose block refuses the access (R497, R578). -/
def State.firstMiss (s : State) (i va len : Nat) (write : Bool) : Option (Nat × Walk) :=
  (s.firstBad i va len write).orElse (fun _ =>
    ((List.range (upDiv (va % 65536 + len) 65536)).map (fun k => if k = 0 then va else (va / 65536 + k) * 65536)).findSome? (fun v =>
      match s.translate i v write with
      | .ok a => (s.lineRefused a (min (va + len - v) (65536 - v % 65536))).map (fun l => (v, Walk.refused l))
      | _ => none))

/-- Read `n` bytes at a channel virtual address through the pages that translate; bytes behind a remote window come
from `remote` in order. -/
def readVa (s : State) (i va : Nat) : Nat → List Byte → List Byte
  | 0, _ => []
  | n + 1, remote =>
    match s.translate i va false with
    | .ok a => if isRemote a then remote.headD 0 :: readVa s i (va + 1) n remote.tail else memGet s.mem a :: readVa s i (va + 1) n remote
    | _ => 0 :: readVa s i (va + 1) n remote

/-- Cut [va, va + len) at page boundaries and write it (R506): each run by one write. -/
def writeVa (i va : Nat) (l : List Byte) (o : Owner) : Nat → State → State
  | 0, s => s
  | fuel + 1, s =>
    if l.isEmpty then s
    else
      let n := min l.length (65536 - va % 65536)
      let s1 := match s.translate i va true with | .ok a => writeOut a (l.take n) o s | _ => s
      writeVa i (va + n) (l.drop n) o fuel s1

/-- XLT_INVALIDATE: GO starts an invalidation, or is ignored while one is in progress (R500). -/
def xltInval (w : Word) (s : State) : State :=
  if bits w.toNat 1 1 = 0 then s
  else if s.inval.isSome then record 0x20 Code.E_CMD_INVALID s
  else
    let va := s.rf 0x20 Reg.XLT_INVAL_VA_LO_VA + s.rf 0x20 Reg.XLT_INVAL_VA_HI_VA * 2 ^ 32
    { s with inval := some (bits w.toNat 0 1, va, s.rf 0x20 Reg.XLT_INVAL_HANDLE_HANDLE) }.wf 0x20 Reg.XLT_INVAL_CTRL_BUSY 1

/-- XLT_INVALIDATE (R500). -/
def execXltInvalidate (w : Word) (s : State) : Host.Outcome State Fault Refusal := hostWrite 1 (xltInval w) s

/-- Drop the cached entries of a channel, all of them or those on the walk of one address (R500). A walk of `va` is
served by entries of the 64 KiB page, and by the 2 MiB page that holds it. -/
def dropTlb (scope va index gen : Nat) (s : State) : State :=
  { s with tlb := s.tlb.filter (fun t => !(t.index == index && t.gen == gen && (scope == 1 || t.vpage / 32 == va / 2 ^ 21))) }

/-- Whether a request that was translated for a channel, by its index, has not completed (R500). -/
def State.inFlight (s : State) (i : Nat) : Bool :=
  s.qps.any (fun q => q.2.out.any (fun r => match r.owner with
    | .stream _ _ (some j) => (match tget? s.jobs j with | some x => x.chan == i | none => false)
    | .fetch k => (match tget? s.fetches k with | some f => f.chan == i | none => false)
    | _ => false))

/-- XLT_INVAL_DONE (R500): once the requests translated through the entries have completed. -/
def execXltInvalDone (s : State) : Host.Outcome State Fault Refusal :=
  match s.inval with
  | none => .next s
  | some (scope, va, h) =>
    if s.inFlight (h % 2 ^ 18) then .next s
    else
    let s := dropTlb scope va (h % 2 ^ 18) (h / 2 ^ 18) { s with inval := none }
    .next (bump 0x20 Cnt.XLT_INVALS 1
      ((s.wf 0x20 Reg.XLT_INVAL_CTRL_SEQ (s.rf 0x20 Reg.XLT_INVAL_CTRL_SEQ + 1)).wf 0x20 Reg.XLT_INVAL_CTRL_BUSY 0))

end Sys2Proof.Machine
end

