-- ==== Sys2Proof/Machine/Mem.lean ====
section
/-! DEFINITION. The LPDDR6 packages (spec/13, R485 to R492, R513, R514). -/

namespace Sys2Proof.Machine

/-- MEM_UE with its address (R513), and the codes of an uncorrectable line (R489, R491). -/
def uncorrectable (a : Nat) (scrub : Bool) (s : State) : State :=
  let pg := memPage a
  let sub := subChannel a
  let l := a / 64 * 64
  let s := holdRecord pg Reg.MEM_UE_VALID
    [(Reg.MEM_UE_CHANNEL, sub / 2 % 4), (Reg.MEM_UE_SUB, sub % 2), (Reg.MEM_UE_SCRUB, bit scrub),
     (Reg.MEM_UE_ADDR_LO_ADDR, l % 2 ^ 32), (Reg.MEM_UE_ADDR_HI_ADDR, l / 2 ^ 32)] s
  post pg Code.F_MEM_UNCORRECTABLE (bump pg Cnt.MEM_UNCORRECTABLE 1 s)

/-- Mark a line poisoned. -/
def poisonLine (a : Nat) (s : State) : State :=
  if s.poison.contains (a / 64) then s else { s with poison := a / 64 :: s.poison }

/-- Stop the job whose request it was, if a job made it. -/
def stopOf (job : Option Nat) (code : Nat) (s : State) : State :=
  match job with | some j => stopJob j code s | none => s

/-- A request to an address outside LPDDR6 (R483): one outside every backed range fails its job. No line of LPDDR6 is read or written. -/
def offLpddr (a : Nat) (write : Bool) (job : Option Nat) (s : State) : State :=
  if isShared a || isLocal a || isWindow a || isRemote a then s
  else
    let h := match job.bind (tget? s.jobs) with | some j => handleOf j.chan (s.chan j.chan) | none => 0
    stopOf job Code.E_XLT_FAULT (post 0x20 Code.E_XLT_FAULT (bump 0x20 Cnt.XLT_FAULTS 1 (holdXlt 3 0 write a h s)))

/-- LPDDR_READ of the line at `a` (R483, R487 to R489, R492, R514); `ecc` is what the check word shows. -/
def execLpddrRead (a : Nat) (job : Option Nat) (ecc : Ecc) (s : State) : Host.Outcome State Fault Refusal :=
  if !isLpddr a then .next (offLpddr a false job s)
  else
    let pg := memPage a
    if s.refusing pg then .next (stopOf job Code.E_PEER_ABSENT (bump pg Cnt.MEM_REFUSED 1 s))
    else
      let s := bump pg Cnt.MEM_ECC_LINE_RD 1 (bump pg Cnt.MEM_RD_BYTES 64 (bump pg Cnt.MEM_RD_REQS 1 s))
      if s.poison.contains (a / 64) then .next (stopOf job Code.F_MEM_UNCORRECTABLE (bump pg Cnt.MEM_POISON_RD 1 s))
      else match ecc with
        | .clean => .next s
        | .corrected => .next (post pg Code.I_MEM_CORRECTED (bump pg Cnt.MEM_CORRECTED 1 s))
        | .uncorrectable =>
          .next (stopOf job Code.F_MEM_UNCORRECTABLE (bump pg Cnt.MEM_POISON_RD 1 (poisonLine a (uncorrectable a false s))))

/-- LPDDR_WRITE of bytes inside the line at `a`, `off` bytes into it (R483, R490, R492, R514): a whole line clears poison; a
part is merged, and of a poisoned line it stops the job. -/
def execLpddrWrite (a off : Nat) (bytes : List Byte) (job : Option Nat) (ecc : Ecc) (s : State) : Host.Outcome State Fault Refusal :=
  if !isLpddr a then .next (offLpddr a true job s)
  else
    let pg := memPage a
    let l := a / 64 * 64
    let b := bytes.take (64 - off % 64)
    if s.refusing pg then .next (stopOf job Code.E_PEER_ABSENT (bump pg Cnt.MEM_REFUSED 1 s))
    else
      let s := bump pg Cnt.MEM_WR_BYTES b.length (bump pg Cnt.MEM_WR_REQS 1 s)
      if b.length = 64 then .next ({ s with poison := s.poison.filter (· ≠ a / 64) }.store l b)
      else
        let s := bump pg Cnt.MEM_PARTIAL_WR 1 s
        let s := match ecc with
          | .clean => s
          | .corrected => post pg Code.I_MEM_CORRECTED (bump pg Cnt.MEM_CORRECTED 1 s)
          | .uncorrectable => if s.poison.contains (a / 64) then s else poisonLine a (uncorrectable a false s)
        let s := s.store (l + off % 64) b
        if s.poison.contains (a / 64) then .next (stopOf job Code.F_MEM_UNCORRECTABLE s) else .next s

/-- SCRUB_LINE (R491): `raced` says that a write to the line was accepted since the scrub read it. No package has a line at any other
address, so none is scrubbed there. -/
def execScrubLine (a : Nat) (ecc : Ecc) (raced : Bool) (s : State) : Host.Outcome State Fault Refusal :=
  if !isLpddr a then .next s
  else
    let pg := memPage a
    if s.rf pg Reg.MEM_SCRUB_PERIOD = 0 ∨ s.rf pg Reg.PG_STAT_POWERED_DOWN = 1 then .next s
    else
      let s := bump pg Cnt.MEM_SCRUB_LINES 1 s
      match ecc with
      | .clean => .next s
      | .corrected =>
        let s := if raced then bump pg Cnt.MEM_SCRUB_DROPPED 1 s else s
        .next (post pg Code.I_MEM_CORRECTED (bump pg Cnt.MEM_CORRECTED 1 s))
      | .uncorrectable => .next (if s.poison.contains (a / 64) then s else poisonLine a (uncorrectable a true s))

end Sys2Proof.Machine
end

