-- ==== Sys2Proof/Machine/Operands.lean ====
section
/-! DEFINITION. The fields of command entries (spec/12, R452 to R455): where they lie, which bits each command leaves
reserved, and the ranges its fields keep. -/

namespace Sys2Proof.Machine

/-- A field of an entry: byte offset, lowest bit, width. -/
def eGet (e : Entry) (off lo w : Nat) : Nat := bits e.toNat (8 * off + lo) w

/-- Bytes of an entry. -/
def eBytes (e : Entry) (off n : Nat) : List Byte := (List.range n).map (fun k => BitVec.ofNat 8 (e.toNat / 2 ^ (8 * (off + k))))

/-- The header fields (R452). -/
def eOp (e : Entry) : Nat := eGet e 0 0 8
def eFence (e : Entry) : Bool := eGet e 1 0 1 == 1
def eQuiet (e : Entry) : Bool := eGet e 1 1 1 == 1
def eWindow (e : Entry) : Bool := eGet e 1 2 1 == 1
def eHandle (e : Entry) : Nat := eGet e 4 0 32
def eTag (e : Entry) : Nat := eGet e 8 0 64

/-- An entry with its OPCODE set. -/
def eWithOp (e : Entry) (op : Nat) : Entry := e - BitVec.ofNat 1024 (eOp e) + BitVec.ofNat 1024 op

/-- The bits of a list of fields. -/
def fieldMask (l : List (Nat × Nat × Nat)) : Nat := l.foldl (fun a f => a ||| (2 ^ f.2.2 - 1) * 2 ^ (8 * f.1 + f.2.1)) 0

/-- The header's own fields. -/
def headerFields : List (Nat × Nat × Nat) := [(0, 0, 8), (1, 0, 3), (4, 0, 32), (8, 0, 64)]

/-- Whether every reserved bit of an entry is 0 (R453, R455). -/
def eClean (e : Entry) (fields : List (Nat × Nat × Nat)) : Bool :=
  e.toNat &&& fieldMask (headerFields ++ fields) == e.toNat

/-- What admission needs to know of a command (R432, R433, R450, R453). -/
structure CmdSpec where
  op : Nat
  channel : Bool := false               -- a channel command; otherwise a device command
  either : Bool := false                -- NOP: both kinds
  admin : Bool := false                 -- queue 0 only (R450)
  quiet : Bool := false                 -- QUIET allowed (R458)
  window : Bool := false                -- WINDOW allowed (R452)
  fields : List (Nat × Nat × Nat) := []
  states : List Nat := []               -- states R432 allows
  types : List Nat := [0, 1, 2, 3, 4, 5, 6]
deriving DecidableEq, Repr

/-- The commands of R454 with the bodies of R455. -/
def spNop : CmdSpec := { op := 0x01, either := true, states := [1, 2, 3, 4, 5] }
def spSqCreate : CmdSpec := { op := 0x02, admin := true, fields := [(0x10, 0, 8), (0x11, 0, 4), (0x12, 0, 8), (0x13, 0, 4), (0x18, 0, 64)] }
def spSqDelete : CmdSpec := { op := 0x03, admin := true, fields := [(0x10, 0, 8)] }
def spCqCreate : CmdSpec := { op := 0x04, admin := true, fields := [(0x10, 0, 8), (0x11, 0, 4), (0x18, 0, 64)] }
def spCqDelete : CmdSpec := { op := 0x05, admin := true, fields := [(0x10, 0, 8)] }
def spEnsForm : CmdSpec := { op := 0x06, admin := true, fields := [(0x10, 0, 8), (0x11, 0, 5), (0x20, 0, 128)] }
def spEnsDissolve : CmdSpec := { op := 0x07, admin := true, fields := [(0x10, 0, 8)] }
def spRetire : CmdSpec := { op := 0x08, admin := true, fields := [(0x10, 0, 7)] }
def spReadmit : CmdSpec := { op := 0x09, admin := true, fields := [(0x10, 0, 7)] }
def spRepair : CmdSpec := { op := 0x0A, admin := true, fields := [(0x10, 0, 7), (0x11, 0, 7), (0x18, 0, 64), (0x20, 0, 64)] }
def spPromote : CmdSpec := { op := 0x0B, admin := true, fields := [(0x10, 0, 16)] }
def spCswApply : CmdSpec := { op := 0x0C, admin := true, fields := [(0x18, 0, 64), (0x20, 0, 64)] }
def spAttest : CmdSpec := { op := 0x0D, fields := [(0x18, 0, 64), (0x20, 0, 64), (0x40, 0, 256)] }
def spChCreate : CmdSpec := { op := 0x10, fields := [(0x10, 0, 4), (0x11, 0, 8), (0x12, 0, 8), (0x14, 0, 9), (0x18, 0, 32), (0x20, 0, 64), (0x28, 0, 64), (0x30, 0, 64)] }
def spChDestroy : CmdSpec := { op := 0x11, channel := true, states := [1, 5] }
def spPkgLoad : CmdSpec := { op := 0x12, channel := true, fields := [(0x10, 0, 64), (0x18, 0, 64)], states := [1, 2, 3, 4] }
def spChBind : CmdSpec := { op := 0x13, channel := true, fields := [(0x10, 0, 800)], states := [1], types := [0, 1, 2, 3, 4] }
def spChIo : CmdSpec := { op := 0x14, channel := true, fields := [(0x10, 0, 4), (0x11, 0, 8), (0x12, 0, 16), (0x14, 0, 16), (0x18, 0, 32), (0x1C, 0, 32), (0x20, 0, 256)], states := [1] }
def spChPrepare : CmdSpec := { op := 0x15, channel := true, states := [1] }
def spChStart : CmdSpec := { op := 0x16, channel := true, states := [1, 2] }
def spChStop : CmdSpec := { op := 0x17, channel := true, fields := [(0x10, 0, 1)], states := [2, 3, 4, 5] }
def spChSet : CmdSpec := { op := 0x18, channel := true, fields := [(0x10, 0, 9), (0x14, 0, 32)], states := [1, 2, 3, 4, 5] }
def spStatsSet : CmdSpec := { op := 0x19, channel := true, fields := [(0x10, 0, 192)], states := [1, 2, 3, 4] }
def spChEnsemble : CmdSpec := { op := 0x1A, channel := true, fields := [(0x10, 0, 8)], states := [1, 2, 4] }
def spChContinue : CmdSpec := { op := 0x1B, channel := true, states := [4] }
def spForceIntra : CmdSpec := { op := 0x1C, channel := true, states := [3, 4], types := [0] }
def spStreamIn : CmdSpec := { op := 0x1D, channel := true, quiet := true, fields := [(0x10, 0, 64), (0x18, 0, 48)], states := [3, 4] }
def spOutHead : CmdSpec := { op := 0x1E, channel := true, quiet := true, fields := [(0x10, 0, 64)], states := [3, 4] }
def spResume : CmdSpec := { op := 0x1F, channel := true, fields := [(0x10, 0, 32)], states := [4] }
def spCancel : CmdSpec := { op := 0x20, channel := true, fields := [(0x10, 0, 32), (0x14, 0, 1)], states := [3, 4] }
def spTensor : CmdSpec := { op := 0x21, channel := true, window := true, fields := [(0x10, 0, 896)], states := [3, 4], types := [5] }
def spComp : CmdSpec := { op := 0x22, channel := true, fields := [(0x10, 0, 1), (0x11, 0, 8), (0x12, 0, 4), (0x14, 0, 16), (0x18, 0, 32), (0x20, 0, 256)], states := [3, 4], types := [6] }
def spLiveBind : CmdSpec := { op := 0x23, channel := true, fields := [(0x10, 0, 96), (0x1C, 0, 48), (0x28, 0, 64)], states := [1, 2], types := [0] }
/-- An OPCODE that R454 does not list: its entry fails its checks. -/
def spNone : CmdSpec := { op := 0x00, admin := true }

def spLiveUnbind : CmdSpec := { op := 0x24, channel := true, fields := [(0x10, 0, 1)], states := [3, 4] }

/-- SETTINGS (R455): PRIO, RT, DROP, RETRIES, SUSPECT_HALT. -/
def setPrio (n : Nat) : Nat := bits n 0 2
def setRt (n : Nat) : Bool := bits n 2 1 == 1
def setDrop (n : Nat) : Bool := bits n 3 1 == 1
/-- Retries allowed by a RETRIES code: 0 is two, 1 to 8 are zero to seven. -/
def setRetries (n : Nat) : Nat := if bits n 4 4 = 0 then 2 else bits n 4 4 - 1
def setSuspHalt (n : Nat) : Bool := bits n 8 1 == 1

/-- SETTINGS and LATENCY_US keep their ranges (R453, R455). -/
def settingsOk (settings latency : Nat) : Bool :=
  decide (settings < 512) && decide (bits settings 4 4 ≤ 8) &&
    (if setRt settings then decide (1 ≤ latency ∧ latency ≤ 1000000) else latency == 0)

/-- The members of an ENS_FORM. -/
def eMembers (e : Entry) : List Nat := (List.range (eGet e 0x11 0 5)).map (fun k => eGet e (0x20 + k) 0 8)

/-- The ranges that a command's own table gives its fields, as far as they need no state (R453, R455). -/
def rangeOk (op : Nat) (e : Entry) : Bool :=
  match op with
  | 0x00 => false
  | 0x02 => decide (1 ≤ eGet e 0x10 0 8) && decide (4 ≤ eGet e 0x11 0 4 ∧ eGet e 0x11 0 4 ≤ 12) && decide (1 ≤ eGet e 0x13 0 4) && eGet e 0x18 0 12 == 0
  | 0x03 | 0x05 => decide (1 ≤ eGet e 0x10 0 8)
  | 0x04 => decide (1 ≤ eGet e 0x10 0 8) && decide (4 ≤ eGet e 0x11 0 4 ∧ eGet e 0x11 0 4 ≤ 15) && eGet e 0x18 0 12 == 0
  | 0x06 => decide (85 ≤ eGet e 0x10 0 8) && decide (1 ≤ eGet e 0x11 0 5 ∧ eGet e 0x11 0 5 ≤ 16) &&
      (eMembers e).all (fun m => decide (1 ≤ m)) && ((List.range 16).all (fun k => decide (k < eGet e 0x11 0 5) || eGet e (0x20 + k) 0 8 == 0))
  | 0x07 => decide (85 ≤ eGet e 0x10 0 8)
  | 0x08 | 0x09 => decide (eGet e 0x10 0 7 < 68)
  | 0x0A => decide (eGet e 0x10 0 7 < 68) && decide (eGet e 0x11 0 7 < 68)
  | 0x10 => decide (eGet e 0x10 0 4 ≤ 6) && (eGet e 0x10 0 4 != 6 || eGet e 0x11 0 8 == 0) && settingsOk (eGet e 0x14 0 16) (eGet e 0x18 0 32) &&
      eGet e 0x20 0 16 == 0 && eGet e 0x28 0 12 == 0 && (eGet e 0x10 0 4 == 5 || eGet e 0x30 0 64 == 0)
  | 0x14 => decide (eGet e 0x10 0 2 ≤ 1) && decide (eGet e 0x10 2 2 ≤ 1) && (eGet e 0x11 0 8 == 0 || decide (2 ≤ eGet e 0x11 0 8 ∧ eGet e 0x11 0 8 ≤ 16)) &&
      eGet e 0x18 0 7 == 0 && eGet e 0x1C 0 7 == 0 && eGet e 0x20 0 12 == 0 && eGet e 0x30 0 12 == 0
  | 0x18 => settingsOk (eGet e 0x10 0 16) (eGet e 0x14 0 32)
  | 0x23 => eGet e 0x10 0 32 == (eHandle e) && (eGet e 0x18 0 32 != 0 || eGet e 0x1E 0 16 == 0xFFFF)
  | _ => true

end Sys2Proof.Machine
end

