-- ==== Sys2Proof/Machine/Link.lean ====
section
/-! DEFINITION. What a module sends its peer (spec/16, R587, R588, R591): pair messages, mirror writes, forwarded commands; and the
divergence of a channel. -/

namespace Sys2Proof.Machine

/-- ROLE, STATE and PAIR_EPOCH. -/
def State.role (s : State) : Nat := s.rf 0x38 Reg.PAIR_CFG_ROLE
def State.pairState (s : State) : Nat := s.rf 0x38 Reg.PAIR_STATE_STATE
def State.pairEpoch (s : State) : Nat := s.rf 0x38 Reg.PAIR_STATE_PAIR_EPOCH

/-- The understudy admits no unit and emits nothing (R591). -/
def State.standby (s : State) : Bool := s.role == 2 && decide (1 ≤ s.pairState ∧ s.pairState ≤ 4)

/-- A primary that forwards and mirrors (R591, R592). -/
def State.mirrors (s : State) : Bool := s.role == 1 && (s.pairState == 2 || s.pairState == 3)

/-- A pair message: its header, little-endian, and its payload (R588). -/
def pairBytes (type epoch mseq time : Nat) (payload : List Byte) : List Byte :=
  leBytes 4 0x5250514B ++ leBytes 1 type ++ leBytes 1 0 ++ leBytes 2 epoch ++ leBytes 4 mseq ++ leBytes 4 payload.length ++ leBytes 8 time ++ payload

/-- Send a pair message on queue pair 4,095 (R588). -/
def sendPair (type : Nat) (payload : List Byte) (s : State) : State :=
  let n := s.pair.mseq.getD type 0
  let m := Msg.pair (pairBytes type s.pairEpoch (n % 2 ^ 32) s.time payload)
  issue 4095 m .pair { s with pair := { s.pair with mseq := s.pair.mseq.set type (n + 1) } }

/-- Write bytes to the same device address of the peer (R587, R592). -/
def mirrorWrite (a : Nat) (l : List Byte) (s : State) : State :=
  bump 0x38 Cnt.PAIR_MIRROR_BYTES l.length (issue 4095 (.rdmaWrite 4095 (s.rf 0x38 Reg.PAIR_PEERID_ID) a l) .pair s)

/-- Mirror [va, va + len) of a channel's address space, page by page; what lies behind a window is the host's. -/
def mirrorVa (i va len : Nat) : Nat → State → State
  | 0, s => s
  | fuel + 1, s =>
    if len = 0 then s
    else
      let n := min len (65536 - va % 65536)
      let s := match s.translate i va false with | .ok a => if isRemote a then s else mirrorWrite a (s.bytes a n) s | _ => s
      mirrorVa i (va + n) (len - n) fuel s

/-- Whether a command is forwarded (R591). -/
def CmdSpec.forwarded (sp : CmdSpec) : Bool := !([0x1F, 0x21, 0x22].contains sp.op) && (!sp.admin || sp.op == 0x06 || sp.op == 0x07)

/-- FORWARD with an entry as admitted (R588). -/
def sendEntry (e : Entry) (s : State) : State := bump 0x38 Cnt.PAIR_FORWARDS 1 (sendPair 4 (eBytes e 0 128) s)

/-- A primary forwards what it admits (R591): PKG_LOAD with the package's bytes; STREAM_IN goes later, after its range. -/
def forwardEntry (sp : CmdSpec) (e : Entry) (s : State) : State :=
  if !s.mirrors || !sp.forwarded || sp.op == 0x1D then s
  else
    let s := if sp.op = 0x12 then
        match s.chanOf (eHandle e) with
        | some i => mirrorVa i (eGet e 0x10 0 64) (eGet e 0x18 0 64) (eGet e 0x18 0 64 / 65536 + 2) s
        | none => s
      else s
    sendEntry e s

/-- The channel of a handle leaves the mirroring (R591). -/
def exclude (handle : Nat) (s : State) : State :=
  match s.chanOf handle with
  | some i => bump 0x38 Cnt.PAIR_DIVERGED 1 { s with pair := { s.pair with excluded := i :: s.pair.excluded } }
  | none => s

/-- A channel is excluded from mirroring (R591). -/
def diverge (handle seq : Nat) (s : State) : State := exclude handle (postFull 0x38 Code.W_PAIR_DIVERGE handle seq 0 0 s)

/-- A forwarded command ends: no record; a failure that the primary did not meet is a divergence (R591). -/
def finishFwd (ok : Bool) (c : Ctx) (code : Nat) (s : State) : State :=
  let s := match c.chan with
    | some i => { s with chans := tput s.chans i { s.chan i with posted := (s.chan i).seq, last := (s.chan i).seq } }
    | none => s
  if ok && code != 0 then diverge c.handle c.seq s else s

end Sys2Proof.Machine
end

