-- ==== Sys2Proof/Machine/Admit.lean ====
section
/-! DEFINITION. The admission of a command (spec/12, R429, R432, R433, R450, R453, R464, R466). -/

namespace Sys2Proof.Machine

/-- Whether a code counts in CMDS_REJECTED (R482). -/
def rejects (code : Nat) : Bool := [Code.E_CMD_INVALID, Code.E_CH_STATE, Code.E_HANDLE_STALE, Code.E_ADMIN_ONLY].contains code

/-- An entry admitted QUIET holds no fence of its queue back (R449). -/
def passQuiet (q : Nat) (s : State) : State :=
  match tget? s.queues q with
  | some k => { s with queues := tput s.queues q { k with openRecs := k.openRecs - 1 } }
  | none => s

/-- A command's record (R464, R465): nothing for a QUIET command that succeeds (R458) or for a forwarded one. -/
def finish (c : Ctx) (code r0 r1 : Nat) (s : State) : State :=
  match c.fwd with
  | some ok => finishFwd ok c code s
  | none =>
  if c.quiet && code == 0 then passQuiet c.queue s
  else
    let s1 := if rejects code then bump 0x21 Cnt.HIF_CMDS_REJECTED 1 s else s
    let s1 := if c.quiet then passQuiet c.queue s1 else s1
    pushDue { ring := c.ring, body := { handle := c.handle, seq := c.seq, tag := c.tag, code, kind := 0, r0, r1 },
              chan := c.chan, queue := if c.quiet then none else some c.queue } (postCode code c.handle c.seq r0 0 s1)

/-- A command fails: its record carries the code. -/
def fail (c : Ctx) (code : Nat) (s : State) : State := finish c code 0 0 s

/-- A command succeeds. -/
def done (c : Ctx) (s : State) : State := finish c 0 0 0 s

/-- Where an admitted entry comes from: its queue and that queue's ring, or the peer. -/
structure Source where
  queue : Nat
  ring : Nat
  fwd : Option Bool := none
deriving DecidableEq, Repr

/-- The context of a command whose record goes to the ring of its queue with a device number (R464). -/
def deviceCtx (q : Source) (e : Entry) (handle : Nat) (s : State) : Ctx × State :=
  if q.fwd.isSome then ({ queue := q.queue, tag := (eTag e), handle, seq := 0, ring := q.ring, fwd := q.fwd }, s)
  else
    let r := nextDevSeq s
    ({ queue := q.queue, tag := (eTag e), handle, seq := r.1, ring := q.ring }, r.2)

/-- The context of a channel's command: its ring and its next number (R464, R466). -/
def channelCtx (q : Source) (i : Nat) (e : Entry) (s : State) : Ctx × State :=
  let c := s.chan i
  let n := (c.seq + 1) % 2 ^ 32
  ({ queue := q.queue, tag := (eTag e), handle := handleOf i c, seq := n, ring := c.cq, chan := some i, fwd := q.fwd },
   { s with chans := tput s.chans i { c with seq := n } })

/-- The checks of R453 that need the command alone. -/
def entryFormOk (sp : CmdSpec) (e : Entry) : Bool :=
  eClean e sp.fields && (!(eQuiet e) || sp.quiet) && (!(eWindow e) || sp.window) && rangeOk sp.op e &&
    (sp.either || (if sp.channel then (eHandle e) != 0 else (eHandle e) == 0))

/-- The CQ field of SQ_CREATE and CH_CREATE names a ring in service (R453). -/
def ringFieldOk (op : Nat) (e : Entry) (s : State) : Bool :=
  (op != 0x02 && op != 0x10) || (tget? s.rings (eGet e 0x12 0 8)).isSome

/-- Check an entry in the order of R453 and run its command's own body, which gets its context and, for a channel command, the
channel's index. `body` makes its own checks and its record; a QUIET command's body takes its number only when it fails (R458). -/
def admitFrom (sp : CmdSpec) (q : Source) (e : Entry) (body : Ctx → Nat → Entry → State → State) (s : State) : State :=
  if !entryFormOk sp e || !ringFieldOk sp.op e s then
    let r := deviceCtx q e (if sp.op = 0x10 then 0 else (eHandle e)) s
    fail r.1 Code.E_CMD_INVALID (swapBanks commandPages (eHandle e) r.1.seq r.2)
  else if sp.admin && q.queue != 0 then
    let r := deviceCtx q e (eHandle e) s
    fail r.1 Code.E_ADMIN_ONLY (swapBanks commandPages (eHandle e) r.1.seq r.2)
  else if sp.channel || (sp.either && (eHandle e) != 0) then
    match s.chanOf (eHandle e) with
    | none =>
      let r := deviceCtx q e (eHandle e) s
      fail r.1 Code.E_HANDLE_STALE (swapBanks commandPages (eHandle e) r.1.seq r.2)
    | some i =>
      let c := s.chan i
      if (eQuiet e) && sp.types.contains c.ty && sp.states.contains c.st then
        body { queue := q.queue, tag := (eTag e), handle := (eHandle e), seq := c.seq, ring := c.cq, chan := some i, quiet := true, fwd := q.fwd } i e
          (swapBanks commandPages (eHandle e) c.seq s)
      else
        let r := channelCtx q i e s
        let s := swapBanks commandPages (eHandle e) r.1.seq r.2
        if !sp.types.contains c.ty then fail r.1 Code.E_CMD_INVALID s
        else if !sp.states.contains c.st then fail r.1 Code.E_CH_STATE s
        else body r.1 i e s
  else
    let r := deviceCtx q e 0 s
    body r.1 0 e (swapBanks commandPages 0 r.1.seq r.2)

/-- Admit an entry of queue `q` (R453, R591). -/
def admitCmd (sp : CmdSpec) (q : Nat) (e : Entry) (body : Ctx → Nat → Entry → State → State) (s : State) : State :=
  match tget? s.queues q with
  | none => s
  | some k =>
    let s := bump 0x21 Cnt.HIF_CMDS_ADMITTED 1 { s with queues := tput s.queues q { k with openRecs := k.openRecs + 1 } }
    admitFrom sp { queue := q, ring := k.ring } e body (forwardEntry sp e s)

/-- A device number is posted: HIF_DEVSEQ follows the records (HIF page). -/
def noteDevSeq (d : Due) (s : State) : State :=
  if d.chan.isNone && !d.event then s.wf 0x21 Reg.HIF_DEVSEQ_SEQ d.body.seq else s

end Sys2Proof.Machine
end

