-- ==== Sys2Proof/Machine/Queues.lean ====
section
/-! DEFINITION. Submission queues, completion rings, doorbells and records (spec/12, R443 to R451, R463 to R472,
R480, R481; spec/18, R642, R643). -/

namespace Sys2Proof.Machine

/-- LPDDR6 of partition 0 or the host area of the Shared Store (R509). -/
def State.devicePlace (s : State) (a len : Nat) : Bool :=
  s.inPart 0 a len || (isHostShared a && isHostShared (a + len - 1))

/-- The place CQ_CREATE allows for a ring (R509). -/
def State.ringPlace (s : State) (a len : Nat) : Bool := isRemote a && (s.winOk 0 a len).2

/-- HIF_QERR (R446, R470, R481). -/
def holdQerr (number : Nat) (ring : Bool) (kind : Nat) (s : State) : State :=
  holdRecord 0x21 Reg.HIF_QERR_VALID [(Reg.HIF_QERR_NUMBER, number), (Reg.HIF_QERR_RING, bit ring), (Reg.HIF_QERR_KIND, kind)] s

/-- Queue `q` comes into service with H and T at 0 (R447). -/
def startQueue (q : Nat) (k : Queue) (s : State) : State := ({ s with queues := tput s.queues q k }.setReg 0x22 (0x100 + 8 * q) 0).setReg 0x22 (0x104 + 8 * q) 0

/-- Ring `r` comes into service with W and its head at 0 (R447). -/
def startRing (r : Nat) (k : Ring) (s : State) : State := { s with rings := tput s.rings r k }.setReg 0x22 (0x900 + 4 * r) 0

/-- SQ_CREATE (R443, R447, R454, R509). -/
def sqCreate (c : Ctx) (_ : Nat) (e : Entry) (s : State) : State :=
  let q := eGet e 0x10 0 8
  let base := eGet e 0x18 0 64
  let n := eGet e 0x11 0 4
  if (tget? s.queues q).isSome then fail c Code.E_RESOURCE_BUSY s
  else if !s.devicePlace base (128 * 2 ^ n) then fail c Code.E_XLT_FAULT (placeFault base false s)
  else done c (startQueue q { base, log2n := n, ring := eGet e 0x12 0 8, weight := eGet e 0x13 0 4 } s)

/-- NOP completes at admission (R453, R454). -/
def nop (c : Ctx) (_ : Nat) (_ : Entry) (s : State) : State := done c s

/-- A queue under SQ_DELETE is freed once every fetched entry has been admitted (R451). -/
def trySqDelete (q : Nat) (s : State) : State :=
  match tget? s.queues q with
  | some k => match k.deleting with
    | some c => if k.waiting.isEmpty then done c { s with queues := tdel s.queues q } else s
    | none => s
  | none => s

/-- SQ_DELETE (R451, R454): entries not yet fetched are discarded. -/
def sqDelete (c : Ctx) (_ : Nat) (e : Entry) (s : State) : State :=
  let q := eGet e 0x10 0 8
  match tget? s.queues q with
  | none => fail c Code.E_CMD_INVALID s
  | some k => trySqDelete q { s with queues := tput s.queues q { k with t := k.h, stopped := true, deleting := some c } }

/-- CQ_CREATE (R447, R454, R463, R509). -/
def cqCreate (c : Ctx) (_ : Nat) (e : Entry) (s : State) : State :=
  let r := eGet e 0x10 0 8
  let base := eGet e 0x18 0 64
  let n := eGet e 0x11 0 4
  if (tget? s.rings r).isSome then fail c Code.E_RESOURCE_BUSY s
  else if !s.ringPlace base (64 * 2 ^ n) then fail c Code.E_XLT_FAULT (placeFault base true s)
  else done c (startRing r { base, log2n := n } s)

/-- Whether a record is due for a ring and not yet written. -/
def State.ringBusy (s : State) (r : Nat) : Bool :=
  s.due.any (fun d => d.ring == r) || (match tget? s.rings r with | some k => k.cur.isSome | none => false) ||
    s.queues.any (fun q => q.2.ring == r && decide (0 < q.2.openRecs))

/-- The held records of a failed ring are discarded, and count as posted (R470). -/
def discardRing (r : Nat) (s : State) : State :=
  let gone := s.due.filter (fun d => d.ring = r)
  let cur := match tget? s.rings r with | some k => (match k.cur with | some x => [x.1] | none => []) | none => []
  (cur ++ gone).foldl (fun a d => markPosted d a) { s with due := s.due.filter (fun d => d.ring ≠ r), rings := tdel s.rings r }

/-- CQ_DELETE (R454, R470). -/
def cqDelete (c : Ctx) (_ : Nat) (e : Entry) (s : State) : State :=
  let r := eGet e 0x10 0 8
  match tget? s.rings r with
  | none => fail c Code.E_CMD_INVALID s
  | some k =>
    if s.queues.any (fun q => q.2.ring == r) || s.chans.any (fun x => x.2.st != 0 && x.2.cq == r) then fail c Code.E_RESOURCE_BUSY s
    else if k.failed then done c (discardRing r s)
    else if s.ringBusy r then fail c Code.E_RESOURCE_BUSY s
    else done c { s with rings := tdel s.rings r }

/-- NOP (R453, R454). -/
def execNop (q : Fin 256) (e : Entry) (s : State) : Host.Outcome State Fault Refusal := .next (admitCmd spNop q.val (eWithOp e 0x01) nop s)
/-- SQ_CREATE. -/
def execSqCreate (q : Fin 256) (e : Entry) (s : State) : Host.Outcome State Fault Refusal := .next (admitCmd spSqCreate q.val (eWithOp e 0x02) sqCreate s)
/-- SQ_DELETE. -/
def execSqDelete (q : Fin 256) (e : Entry) (s : State) : Host.Outcome State Fault Refusal := .next (admitCmd spSqDelete q.val (eWithOp e 0x03) sqDelete s)
/-- CQ_CREATE. -/
def execCqCreate (q : Fin 256) (e : Entry) (s : State) : Host.Outcome State Fault Refusal := .next (admitCmd spCqCreate q.val (eWithOp e 0x04) cqCreate s)
/-- CQ_DELETE. -/
def execCqDelete (q : Fin 256) (e : Entry) (s : State) : Host.Outcome State Fault Refusal := .next (admitCmd spCqDelete q.val (eWithOp e 0x05) cqDelete s)

/-- A doorbell word for queue `q` (R445, R446, R642); queue 0 is out of service while Q0_EN reads 0 (R447). -/
def doorbellOn (q : Nat) (d : Dword) (s : State) : State :=
  match tget? s.queues q with
  | none => bump 0x22 Cnt.HQD_DB_NOQUEUE 1 s
  | some k =>
    let n := d.toNat
    let tail := n % 2 ^ 16
    if k.deleting.isSome ∨ (q = 0 ∧ s.rf 0x21 Reg.HIF_CTRL_Q0_EN = 0) then bump 0x22 Cnt.HQD_DB_NOQUEUE 1 s
    else if k.stopped then bump 0x21 Cnt.HIF_DOORBELL_REJECTS 1 s
    else
      let formOk := bits n 16 8 = q ∧ n < 2 ^ 24
      let out := ahead 16 tail (k.h % 2 ^ 16)
      let have_ := ahead 16 k.t (k.h % 2 ^ 16)
      if formOk ∧ have_ ≤ out ∧ out ≤ 2 ^ k.log2n then
        bump 0x21 Cnt.HIF_DOORBELLS 1 (bump 0x22 Cnt.HQD_DB_ACCEPTED 1 ({ s with queues := tput s.queues q { k with t := tail } }.wf 0x22 (Reg.HQD_DB_TAIL.nth 8 q) tail))
      else
        let s := { s with queues := tput s.queues q { k with stopped := true } }
        let s := holdQerr q false (if formOk then 1 else 3) s
        let s := bump 0x21 Cnt.HIF_DOORBELL_REJECTS 1 (post 0x21 Code.E_QUEUE_OVERRUN s)
        deviceEvent k.ring Code.E_QUEUE_OVERRUN q s

/-- A doorbell word for queue `q`, counted. -/
def doorbell (q : Nat) (d : Dword) (s : State) : State := doorbellOn q d (bump 0x22 Cnt.HQD_DB_WRITES 1 s)

/-- DOORBELL (R445, R446). -/
def execDoorbell (q : Fin 256) (d : Dword) (s : State) : Host.Outcome State Fault Refusal := hostWrite 2 (doorbell q.val d) s

/-- A write of a ring's head (R468, R643). -/
def cqHead (r : Nat) (w : Word) (s : State) : State :=
  match tget? s.rings r with
  | none => bump 0x22 Cnt.HQD_HEAD_REJECTS 1 s
  | some k =>
    let h := w.toNat % 2 ^ 16
    let old := s.rf 0x22 (Reg.HQD_CQH_HEAD.nth 4 r)
    if ahead 16 h old ≤ ahead 16 (k.w % 2 ^ 16) old then
      bump 0x22 Cnt.HQD_HEAD_WRITES 1 (s.wf 0x22 (Reg.HQD_CQH_HEAD.nth 4 r) h)
    else bump 0x22 Cnt.HQD_HEAD_REJECTS 1 s

/-- CQ_HEAD_WRITE (R468, R643). -/
def execCqHeadWrite (r : Fin 256) (w : Word) (s : State) : Host.Outcome State Fault Refusal := hostWrite 1 (cqHead r.val w) s

/-- Q0_EN is set (R447): service of queue 0 and ring 0 is asked for; HIF_CTRL reads 0 until it takes effect. -/
def q0Set (s : State) : State := if s.rf 0x21 Reg.HIF_CTRL_Q0_EN = 1 then s else { s with q0Wanted := true }

/-- Q0_EN_SET (R447). -/
def execQ0EnSet (s : State) : Host.Outcome State Fault Refusal := hostWrite 1 q0Set s

/-- A base address of the HIF registers. -/
def State.base0 (s : State) (lo hi : Fld) : Nat := s.rf 0x21 lo + s.rf 0x21 hi * 2 ^ 32

/-- Q0_EN_TAKE_EFFECT (R447, R509): once ring 0 has no record left to write. -/
def execQ0EnTakeEffect (s : State) : Host.Outcome State Fault Refusal :=
  if !s.q0Wanted ∨ s.ringBusy 0 ∨ !((tget? s.queues 0).map Queue.waiting |>.getD []).isEmpty then .next s
  else
    let s := { s with q0Wanted := false, rings := tdel s.rings 0, queues := tdel s.queues 0 }
    let sq := s.base0 Reg.HIF_SQ0_LO_BASE Reg.HIF_SQ0_HI_BASE
    let cq := s.base0 Reg.HIF_CQ0_LO_BASE Reg.HIF_CQ0_HI_BASE
    let a := s.rf 0x21 Reg.HIF_Q0_SIZE_SQ_LOG2
    let b := s.rf 0x21 Reg.HIF_Q0_SIZE_CQ_LOG2
    if ¬(4 ≤ a ∧ a ≤ 12 ∧ 4 ≤ b) ∨ sq % 4096 ≠ 0 ∨ cq % 4096 ≠ 0 then .next (record 0x21 Code.E_CMD_INVALID s)
    else if !s.devicePlace sq (128 * 2 ^ a) then .next (record 0x21 Code.E_XLT_FAULT (placeFault sq false s))
    else if !s.ringPlace cq (64 * 2 ^ b) then .next (record 0x21 Code.E_XLT_FAULT (placeFault cq true s))
    else .next (startRing 0 { base := cq, log2n := b }
      (startQueue 0 { base := sq, log2n := a, ring := 0, weight := 8 } (s.wf 0x21 Reg.HIF_CTRL_Q0_EN 1)))

/-- Queue 0 fetches no more and its unfetched entries go (R447). -/
def stopQueue0 (s : State) : State :=
  match tget? s.queues 0 with
  | some k => { s with queues := tput s.queues 0 { k with t := k.h, stopped := true } }
  | none => s

/-- A failed ring 0 discards its records (R447). -/
def dropFailed0 (s : State) : State :=
  match tget? s.rings 0 with
  | some k => if k.failed then discardRing 0 s else s
  | none => s

/-- Q0_EN is cleared (R447). -/
def q0Clear (s : State) : State := dropFailed0 (stopQueue0 { s.wf 0x21 Reg.HIF_CTRL_Q0_EN 0 with q0Wanted := false })

/-- Q0_EN_CLEAR (R447). -/
def execQ0EnClear (s : State) : Host.Outcome State Fault Refusal := hostWrite 1 q0Clear s

/-- A record as its 60 bytes before the PHASE word (R465). -/
def recBytes (b : Rec) (time : Nat) : List Byte :=
  leBytes 4 b.handle ++ leBytes 4 b.seq ++ leBytes 8 b.tag ++ leBytes 2 b.code ++ leBytes 2 b.flags ++ leBytes 1 b.kind ++ leBytes 1 b.retries ++
    leBytes 2 0 ++ leBytes 8 time ++ leBytes 8 b.r0 ++ leBytes 8 b.r1 ++ leBytes 8 b.r2 ++ leBytes 4 b.r3

/-- The word at 0x3C of record W (R465, R467). -/
def phaseWord (w log2n : Nat) : Nat := (if w / 2 ^ log2n % 2 = 0 then 1 else 0) + w % 2 ^ 16 * 2 ^ 16

/-- Write to a ring's slot through its window (R467, R506). -/
def ringWrite (r a : Nat) (l : List Byte) (body : Bool) (s : State) : State :=
  let t := s.winTarget a
  bump 0x20 Cnt.XLT_REMOTE_BYTES l.length (bump 0x20 Cnt.XLT_REMOTE_REQS 1
    (issue t.1 (.rdmaWrite t.1 t.2.1 t.2.2 l) (if body then .ringBody r else .ringWord r) s))

/-- COMPLETION_WORD_WRITE (R467, R470, R524): after the body is acknowledged, its word, and the notification where the queue
pair asks for one. A word that the window refuses leaves the record held by its ring, which then fails. -/
def execCompletionWordWrite (r : Fin 256) (s : State) : Host.Outcome State Fault Refusal :=
  match tget? s.rings r.val with
  | none => .next s
  | some k => match k.cur with
    | some (d, _, true) =>
      let a := k.base + 64 * (k.w % 2 ^ k.log2n) + 0x3C
      if k.failed ∨ k.broken ∨ s.refusing 8 then .next s
      else if !(s.winOk 0 a 4).2 then .next { s with rings := tput s.rings r.val { k with broken := true } }
      else
        let word := leBytes 4 (phaseWord k.w k.log2n)
        let s := { s with rings := tput s.rings r.val { k with cur := none, w := k.w + 1 } }
        let s := s.wf 0x22 (Reg.HQD_CQH_WRITTEN.nth 4 r.val) (k.w + 1)
        let s := noteDevSeq d (markPosted d (bump 0x21 (if d.event then Cnt.HIF_EVENTS else Cnt.HIF_RECORDS) 1 s))
        let s := match d.chan with
          | some i => if s.rf 0x21 Reg.HIF_CH_PROBE_HANDLE = handleOf i (s.chan i) then probe s else s
          | none => s
        let s := ringWrite r.val a word false s
        let t := s.winTarget a
        if (s.qp t.1).notify then
          .next (bump 8 Cnt.RDM_NOTIFY_TX 1 (issue t.1 (.rdmaWriteImm t.1 t.2.1 t.2.2 word (r.val + k.w % 2 ^ 16 * 2 ^ 16)) .none s))
        else .next s
    | _ => .next s

/-- COMPLETION_WRITE_FAIL (R470, R481): the ring is marked failed. -/
def execCompletionWriteFail (r : Fin 256) (s : State) : Host.Outcome State Fault Refusal :=
  match tget? s.rings r.val with
  | none => .next s
  | some k =>
    if k.broken ∧ !k.failed then
      .next (holdQerr r.val true 2 { s with rings := tput s.rings r.val { k with failed := true, broken := false } })
    else .next s

/-- A write of HIF_CH_PROBE (R480). -/
def chProbe (w : Word) (s : State) : State := probe (s.setReg 0x21 0x120 w)

/-- HIF_CH_PROBE_WRITE (R480): VALID clears and a sample of the channel follows. -/
def execHifChProbeWrite (w : Word) (s : State) : Host.Outcome State Fault Refusal := hostWrite 1 (chProbe w) s

end Sys2Proof.Machine
end

