-- ==== Sys2Proof/Machine/Ensembles.lean ====
section
/-! DEFINITION. Formed ensembles (spec/01, R16 to R21), SUSPECT, RETIRE and READMIT (spec/16, R575, R576), hot context slots
and swaps (spec/12, R437 to R440). -/

namespace Sys2Proof.Machine

/-- Depth of an ensemble: 0 for a fixed one (R18). -/
def State.ensDepth (s : State) (e : Nat) : Nat := match tget? s.ens e with | some x => x.depth | none => 0

/-- Whether a physical player is SUSPECT or RETIRED. -/
def State.outOf (s : State) (p : Nat) : Bool := s.rf (0x100 + p) Reg.PG_STAT_SUSPECT == 1 || s.rf (0x100 + p) Reg.PG_STAT_RETIRED == 1

/-- The players of the union of a list of ensembles, ascending (R17). -/
def State.unionPlayers (s : State) (ms : List Nat) : List Nat :=
  (List.range 64).filter (fun n => ms.any (fun m => (s.ensPlayers m).contains n))

/-- The code with which ENS_FORM fails, 0 if it does not (R17 to R19). -/
def ensFormCheck (e : Nat) (ms : List Nat) (s : State) : Nat :=
  let u := s.unionPlayers ms
  if (tget? s.ens e).isSome then Code.E_ENS_BUSY
  else if ms.any (fun m => !s.ensExists m) then Code.E_ENS_MEMBER
  else if 4 ≤ (ms.map s.ensDepth).foldl max 0 then Code.E_ENS_NEST
  else if u.isEmpty || u.any (fun n => match s.physOf n with | some p => s.outOf p | none => true) then Code.E_ENS_MEMBER
  else 0

/-- ENS_FORM (R17 to R19). That the sizes table of the ensemble formed posts I_ENS_RESIZED and advances SEQ is read from R29 alone, which
says it of every change of a sizes table (DEDUCED, log entry 165). -/
def ensForm (c : Ctx) (_ : Nat) (e : Entry) (s : State) : State :=
  let n := eGet e 0x10 0 8
  let ms := eMembers e
  let code := ensFormCheck n ms s
  if code ≠ 0 then
    bump 0x39 Cnt.ENS_FORM_REJECTS 1 (fail c code s)
  else
    let x : Ens := { members := ms, players := s.unionPlayers ms, depth := 1 + (ms.map s.ensDepth).foldl max 0 }
    done c (bump 0x39 Cnt.ENS_FORMS 1 (resizing (fun a => { a with ens := tput a.ens n x }) s))

/-- ENS_DISSOLVE (R21). The sizes table of the ensemble dissolved posts I_ENS_RESIZED as that of one formed does (DEDUCED, log entry 165). -/
def ensDissolve (c : Ctx) (_ : Nat) (e : Entry) (s : State) : State :=
  let n := eGet e 0x10 0 8
  if (tget? s.ens n).isNone then fail c Code.E_ENS_MEMBER s
  else if s.chans.any (fun x => x.2.st != 0 && x.2.ty != 6 && x.2.ens == n) || s.ens.any (fun x => x.2.members.contains n) then
    fail c Code.E_ENS_BUSY s
  else done c (bump 0x39 Cnt.ENS_DISSOLVES 1 (resizing (fun a => { a with ens := tdel a.ens n }) s))

/-! Hot context slots -/

/-- The channel in a slot. -/
def State.slotOwner (s : State) (n : Nat) : Option Nat := (s.chans.find? (fun c => c.2.slot == some n)).map (·.1)

/-- Whether a channel has a job dispatched. -/
def State.dispatched (s : State) (i : Nat) : Bool := s.jobs.any (fun j => j.2.chan == i && (j.2.st == .running || j.2.st == .stopping))

/-- A context of 256 KiB compressed as one lossless object (R406, R414, R426, R440), counted. The spec does not give its content: its body,
of a length within R409, and its CRC are free values (log entry 8). -/
def contextObject (s : State) : List Byte × State :=
  let n := drawBelow 266241 s
  let crc := drawBelow (2 ^ 32) n.2
  let b := drawBytes n.1 crc.2
  let lit := drawBelow 262145 b.2
  let s := bump 0x34 Cnt.FSC_BODY_OUT n.1 (bump 0x34 Cnt.FSC_ORIG_IN 262144 (bump 0x34 Cnt.FSC_OBJ_COMP 1 lit.2))
  let s := bump 0x34 Cnt.FSC_MATCH_BYTES (262144 - lit.1) (bump 0x34 Cnt.FSC_LITERAL_BYTES lit.1 s)
  (leBytes 4 1 ++ leBytes 4 262144 ++ leBytes 4 n.1 ++ leBytes 4 crc.1 ++ b.1, bump 0x34 Cnt.FSC_SELFCHECKS (bit (s.rf 0x34 Reg.FSC_CTRL_SELFCHECK == 1)) s)

/-- The context of a channel leaves its slot for the half of its context area that does not hold the last good copy
(R440). -/
def swapOut (i : Nat) (s : State) : State :=
  let c := s.chan i
  match c.slot with
  | none => s
  | some _ =>
    let b := contextObject s
    let s := b.2.store (c.ctxBase + (1 - c.ctxHalf) * 294912) b.1
    let s := bump 0x21 Cnt.HIF_SWAP_BYTES b.1.length (bump 0x21 Cnt.HIF_SWAPS_OUT 1 s)
    setChan i { c with slot := none, pinned := false, ctxHalf := 1 - c.ctxHalf } s

/-- A context comes into a slot, decompressed. -/
def swapIn (i n : Nat) (s : State) : State :=
  let z := drawBelow 266241 s
  let t := bump 0x34 Cnt.FSC_ORIG_OUT 262144 (bump 0x34 Cnt.FSC_BODY_IN z.1 (bump 0x34 Cnt.FSC_OBJ_DECOMP 1 z.2))
  setChan i { s.chan i with slot := some n } (bump 0x21 Cnt.HIF_SWAP_BYTES (16 + z.1) (bump 0x21 Cnt.HIF_SWAPS_IN 1 t))

/-- Whether a real-time deadline of the channel falls within one swap time, 20 us (R35, R440). -/
def State.dueSoon (s : State) (i : Nat) : Bool :=
  s.jobs.any (fun j => j.2.chan == i && (match j.2.deadline with | some d => decide (d ≤ s.time + 20000) | none => false))

/-- The channel R439 takes as the victim among the slots of an ensemble. -/
def State.victim (s : State) (slots : List Nat) : Option Nat :=
  let l := slots.filterMap s.slotOwner
  let l := l.filter (fun i => !s.dispatched i && (s.chan i).st != 2 && !s.dueSoon i)
  let age i := (s.chan i).lastDispatch
  l.foldl (fun b i => match b with
    | none => some i
    | some j => if age i < age j ∨ (age i = age j ∧ i < j) then some i else some j) none

/-- Take a slot of an ensemble for a channel: a free one, which of several is a free value, else a victim's (R437, R439). -/
def takeSlot (i e : Nat) (s : State) : Option State :=
  let slots := s.liveOf e
  if (match (s.chan i).slot with | some n => slots.contains n | none => false) then some s
  else
    let s := swapOut i s
    let open_ := slots.filter (fun n => (s.slotOwner n).isNone)
    if !open_.isEmpty then
      let r := drawBelow open_.length s
      some (swapIn i (open_.getD r.1 0) r.2)
    else match s.victim slots with
      | some v => match (s.chan v).slot with
        | some n => some (swapIn i n (swapOut v s))
        | none => none
      | none => none

/-- CONTEXT_SWAP (R35, R439, R440): a channel of a waiting job gets a slot; a job for which no channel qualifies as victim
waits and counts SWAP_DEFERRED. -/
def execContextSwap (handle : Word) (s : State) : Host.Outcome State Fault Refusal :=
  match s.chanOf handle.toNat with
  | none => .next s
  | some i =>
    let c := s.chan i
    if c.ty = 6 ∨ c.st ≠ 3 ∨ c.slot.isSome ∨ !s.jobs.any (fun j => j.2.chan == i && j.2.st == .ready) then .next s
    else match takeSlot i c.ens s with
      | some t => .next t
      | none => .next (bump 0x21 Cnt.HIF_SWAP_DEFERRED 1 s)

/-! Players out of and back in service -/

/-- The context in a slot is swapped out (R438). -/
def evict (n : Nat) (s : State) : State :=
  match s.slotOwner n with
  | some i => swapOut i s
  | none => s

/-- A player becomes SUSPECT: the sizes shrink and the context in its slot is swapped out (R26, R438, R575). -/
def makeSuspect (p handle seq : Nat) (s : State) : State :=
  evict (s.logical p) (resizing (fun a => setStat (0x100 + p) Reg.PG_STAT_SUSPECT 1 a) (postFull (0x100 + p) Code.F_PLAYER_SUSPECT handle seq p 0 s))

/-- RETIRE (R576). -/
def retire (c : Ctx) (_ : Nat) (e : Entry) (s : State) : State :=
  let pg := 0x100 + eGet e 0x10 0 7
  if s.rf pg Reg.PG_STAT_SUSPECT = 0 then fail c Code.E_CMD_INVALID s
  else done c (resizing (fun a => setStat pg Reg.PG_STAT_RETIRED 1 (setStat pg Reg.PG_STAT_SUSPECT 0 a)) s)

/-- Forget a player's detections (R576). -/
def forget (p : Nat) (s : State) : State :=
  { s with jobs := s.jobs.map (fun j => (j.1, { j.2 with detections := j.2.detections.filter (fun d => d.1 ≠ p) })) }

/-- READMIT (R576): SUSPECT clears and earlier detections are forgotten. -/
def readmit (c : Ctx) (_ : Nat) (e : Entry) (s : State) : State :=
  let pg := 0x100 + eGet e 0x10 0 7
  if s.rf pg Reg.PG_STAT_SUSPECT = 0 then fail c Code.E_CMD_INVALID s
  else done c (resizing (fun a => setStat pg Reg.PG_STAT_SUSPECT 0 (forget (eGet e 0x10 0 7) a)) s)

/-- ENS_FORM (R17 to R19). -/
def execEnsForm (q : Fin 256) (e : Entry) (s : State) : Host.Outcome State Fault Refusal := .next (admitCmd spEnsForm q.val (eWithOp e 0x06) ensForm s)
/-- ENS_DISSOLVE (R21). -/
def execEnsDissolve (q : Fin 256) (e : Entry) (s : State) : Host.Outcome State Fault Refusal := .next (admitCmd spEnsDissolve q.val (eWithOp e 0x07) ensDissolve s)
/-- RETIRE (R576). -/
def execRetire (q : Fin 256) (e : Entry) (s : State) : Host.Outcome State Fault Refusal := .next (admitCmd spRetire q.val (eWithOp e 0x08) retire s)
/-- READMIT (R576). -/
def execReadmit (q : Fin 256) (e : Entry) (s : State) : Host.Outcome State Fault Refusal := .next (admitCmd spReadmit q.val (eWithOp e 0x09) readmit s)

end Sys2Proof.Machine
end

