-- ==== Sys2Proof/Machine/ChanCmds.lean ====
section
/-! DEFINITION. Channel commands that do not start a channel (spec/12): CH_CREATE, CH_SET, STATS_SET,
CH_ENSEMBLE, CH_CONTINUE, CANCEL. -/

namespace Sys2Proof.Machine

/-- The code with which CH_CREATE fails after admission's checks, 0 if it does not (R509, R16). -/
def chCreateCheck (e : Entry) (s : State) : Nat :=
  let ens := eGet e 0x11 0 8
  let save := if eGet e 0x10 0 4 = 5 then 294912 * (s.ensPlayers ens).length else 0
  if !s.ensExists ens then Code.E_ENS_MEMBER
  else if !(List.range 16).any (fun n => s.inPart n (eGet e 0x20 0 64) 589824 && s.inPart n (eGet e 0x28 0 64) 4096 &&
      (save == 0 || s.inPart n (eGet e 0x30 0 64) save)) then Code.E_XLT_FAULT
  else if 2 ^ 18 ≤ s.nextIndex ∧ s.freed = [] then Code.E_RESOURCE_BUSY
  else 0

/-- The index of a new channel: the lowest never used, then the one freed longest ago (R428). -/
def State.newIndex (s : State) : Nat := if s.nextIndex < 2 ^ 18 then s.nextIndex else s.freed.headD 0

/-- That index is taken, and CH_CREATE's SEQ is the new channel's own: it takes no device number (R428, R464, R466). -/
def takeIndex (s : State) : State :=
  { s with
    nextIndex := if s.nextIndex < 2 ^ 18 then s.nextIndex + 1 else s.nextIndex
    freed := if s.nextIndex < 2 ^ 18 then s.freed else s.freed.tail
    devSeq := (s.devSeq + 2 ^ 32 - 1) % 2 ^ 32
    due := s.due.map (fun d => if d.chan = some s.newIndex then { d with chan := none } else d) }

/-- A place that CH_CREATE refuses (R509): recorded where its code is that of a placement. -/
def notePlace (code a : Nat) (s : State) : State := if code = Code.E_XLT_FAULT then placeFault a true s else s

/-- CH_CREATE (R427, R428, R454, R464, R466): the new channel's first record is its SEQ 1. -/
def chCreate (c : Ctx) (_ : Nat) (e : Entry) (s : State) : State :=
  let code := chCreateCheck e s
  if code ≠ 0 then fail c code (notePlace code (eGet e 0x20 0 64) s)
  else
    let i := s.newIndex
    let s := takeIndex s
    let x : Chan := { gen := (s.chan i).gen, st := 1, ty := eGet e 0x10 0 4, ens := eGet e 0x11 0 8, cq := eGet e 0x12 0 8, settings := eGet e 0x14 0 16, latency := eGet e 0x18 0 32, ctxBase := eGet e 0x20 0 64, xltRoot := eGet e 0x28 0 64, saveBase := eGet e 0x30 0 64, seq := 1 }
    let s := bump 0x21 Cnt.HIF_CH_CREATED 1 (setChan i x s)
    finish { c with handle := handleOf i x, seq := 1, ring := x.cq, chan := some i } 0 (handleOf i x) 0 s

/-- GEN after an index returns to FREE (R428). -/
def nextGen (g : Nat) : Nat := if g = 16383 then 1 else g + 1

/-- Settings in force at a job boundary: the waiting CH_SET commands of a channel complete (R454). -/
def settleSettings (i : Nat) (s : State) : State :=
  if s.dispatched i then s
  else
    let mine (o : OpenCmd) : Bool := match o with | .setNow c _ _ => c.chan == some i | _ => false
    let l := s.opens.filter mine
    l.foldl (fun a o => match o with
      | .setNow c st la => done c (setChan i { a.chan i with settings := st, latency := la } a)
      | _ => a) { s with opens := s.opens.filter (fun o => !mine o) }

/-- CH_SET (R454, R455). -/
def chSet (c : Ctx) (i : Nat) (e : Entry) (s : State) : State :=
  settleSettings i { s with opens := s.opens ++ [.setNow c (eGet e 0x10 0 16) (eGet e 0x14 0 32)] }

/-- The reserved bits and alignment of a statistics control block (spec/03). -/
def statBlockOk (b : List Byte) : Bool :=
  leAt b 8 8 % 64 == 0 && decide (leAt b 0x10 4 < 2) && leAt b 0x14 4 == 0

/-- STATS_SET (R671): walks the statistics area and installs the block for the next interval. -/
def statsSet (c : Ctx) (i : Nat) (e : Entry) (s : State) : State :=
  let b := eBytes e 0x10 24
  let base := leAt b 8 8
  if !statBlockOk b then fail c Code.E_CMD_INVALID s
  else match (if base = 0 then none else s.firstBad i base 2112 true) with
    | some (va, w) => let r := walkFail i va true w s; finish c r.1 va 0 r.2
    | none => done c (modChan i (fun x => { x with codec := { x.codec with statNext := some b } }) s)

/-- The job held for cause SUSPECT restarts, which counts as a retry (R476). -/
def restartHeld (i : Nat) (s : State) : State :=
  s.jobs.foldl (fun a j =>
    if j.2.chan = i ∧ j.2.suspHeld then
      let n := j.2.retries + 1
      let a := { a with jobs := tput a.jobs j.1 { j.2 with suspHeld := false, retries := n } }
      let a := modChan i (fun x => { x with codec := { x.codec with retry := n } }) (bump 0x21 Cnt.HIF_RETRIES 1 a)
      chanEvent i j.2.seq Code.I_RETRY (Code.F_PLAYER_SUSPECT + n % 256 * 65536) 0 0 (postCode Code.I_RETRY (handleOf i (a.chan i)) j.2.seq Code.F_PLAYER_SUSPECT 0 a)
    else a) s

/-- CH_CONTINUE (R432, R476). -/
def chContinue (c : Ctx) (i : Nat) (_ : Entry) (s : State) : State :=
  if !(s.chan i).susp then fail c Code.E_CH_STATE s
  else done c (restartHeld i (setChan i ({ s.chan i with susp := false } : Chan).settle s))

/-- CH_ENSEMBLE (R25, R432, R434, R441, R476). -/
def chEnsemble (c : Ctx) (i : Nat) (e : Entry) (s : State) : State :=
  let n := eGet e 0x10 0 8
  let x := s.chan i
  if x.st = 4 ∧ !(x.size || x.susp) then fail c Code.E_CH_STATE s
  else if x.ty = 6 ∧ n ≠ 0 then fail c Code.E_CMD_INVALID s
  else if !s.ensExists n || (x.pkg.isSome && !s.ensFits n x.pkg) then fail c Code.E_ENS_MEMBER s
  else
    let s1 := setChan i ({ x with ens := n, size := false, susp := false } : Chan).settle s
    if x.st = 2 then
      match takeSlot i n s1 with
      | some t => done c (modChan i (fun y => { y with pinned := true }) t)
      | none => fail c Code.E_NO_SLOT s
    else done c (restartHeld i s1)

/-- CANCEL (R478): the jobs stop under R146; the record counts those stopped. -/
def cancel (c : Ctx) (i : Nat) (e : Entry) (s : State) : State :=
  let hit (j : Job) : Bool := j.chan == i && j.stop.isNone && (eGet e 0x14 0 1 == 1 || j.seq == eGet e 0x10 0 32)
  let l := s.jobs.filter (fun j => hit j.2)
  let s := bump 0x21 Cnt.HIF_CANCELS 1 s
  finish c 0 l.length 0 (l.foldl (fun a j => stopJob j.1 Code.E_CANCELLED a) s)

/-- CH_CREATE. -/
def execChCreate (q : Fin 256) (e : Entry) (s : State) : Host.Outcome State Fault Refusal := .next (admitCmd spChCreate q.val (eWithOp e 0x10) chCreate s)
/-- CH_SET. -/
def execChSet (q : Fin 256) (e : Entry) (s : State) : Host.Outcome State Fault Refusal := .next (admitCmd spChSet q.val (eWithOp e 0x18) chSet s)
/-- STATS_SET. -/
def execStatsSet (q : Fin 256) (e : Entry) (s : State) : Host.Outcome State Fault Refusal := .next (admitCmd spStatsSet q.val (eWithOp e 0x19) statsSet s)
/-- CH_ENSEMBLE. -/
def execChEnsemble (q : Fin 256) (e : Entry) (s : State) : Host.Outcome State Fault Refusal := .next (admitCmd spChEnsemble q.val (eWithOp e 0x1A) chEnsemble s)
/-- CH_CONTINUE. -/
def execChContinue (q : Fin 256) (e : Entry) (s : State) : Host.Outcome State Fault Refusal := .next (admitCmd spChContinue q.val (eWithOp e 0x1B) chContinue s)
/-- CANCEL. -/
def execCancel (q : Fin 256) (e : Entry) (s : State) : Host.Outcome State Fault Refusal := .next (admitCmd spCancel q.val (eWithOp e 0x20) cancel s)

end Sys2Proof.Machine
end

