-- ==== Sys2Proof/Machine/Players.lean ====
section
/-! DEFINITION. Players, threads and streams by number, and the two counts of time without progress, which pause (spec/04, R147;
spec/06, R215; spec/17, R623). -/

namespace Sys2Proof.Machine

/-- A player. -/
def State.ply (s : State) (p : Nat) : Player := tget s.players {} p
/-- Write a player back. -/
def setPly (p : Nat) (x : Player) (s : State) : State := { s with players := tput s.players p x }
/-- A thread of a player. -/
def State.thread (s : State) (p t : Nat) : Thread := tget (s.ply p).threads {} t
/-- Write a thread back. -/
def setThread (p t : Nat) (x : Thread) (s : State) : State :=
  setPly p { s.ply p with threads := tput (s.ply p).threads t x } s

/-- The streams of a job. -/
def State.jobStreams (s : State) (id : Nat) : List (Nat × Stream) := s.streams.filter (fun (x : Nat × Stream) => x.2.job == some id)

/-- A stream is halted, its page being fetched or not (R219, R222). -/
def Stream.halted (x : Stream) : Bool := x.st == 5 || x.st == 7

/-- A stream is in a pass. -/
def Stream.inPass (x : Stream) : Bool := x.st == 2 || x.st == 3

/-- Whether a stream of a job is halted (R221). -/
def State.jobHalted (s : State) (id : Nat) : Bool := (s.jobStreams id).any (fun x => x.2.halted)

/-- Whether the debugger halts a thread of a job (R623). -/
def State.jobDebugged (s : State) (id : Nat) : Bool :=
  s.players.any (fun (x : Nat × Player) => x.2.job == some id && x.2.threads.any (fun (t : Nat × Thread) => t.2.st == 9))

/-- Whether both counts of a job pause (R147, R215, R623). -/
def State.jobPaused (s : State) (id : Nat) : Bool := s.jobHalted id || s.jobDebugged id

/-- Whether the WAIT of a cue is met. -/
def State.waitMet (s : State) (p cue : Nat) : Bool := bits cue 8 1 == 0 || decide (1 ≤ tget (s.ply p).sems 0 (bits cue 9 5))

/-- The page of the transform engine of a player. -/
def State.trePage (s : State) (p : Nat) : Nat := 0x40 + s.logical p / 4

/-- A TRE cue of the player waits for an engine that serves another ensemble (R147); one that waits for its semaphore does not. -/
def State.waitsTre (s : State) (p : Nat) : Bool :=
  (match tget (s.ply p).queues [] 5 with | c :: _ => !c.started && s.waitMet p c.cue | [] => false) &&
    s.rf (s.trePage p) Reg.TRE_STATE_MODE != 0 && s.rf (s.trePage p) Reg.TRE_STATE_ENSEMBLE != (s.ply p).ens

/-- Whether the watchdog of a player pauses (R147, R623). -/
def State.plyPaused (s : State) (p : Nat) : Bool :=
  match (s.ply p).job with | some id => s.jobPaused id || s.waitsTre p | none => false

/-- A count of time since `since` that stands still while `want` holds, `held` being where it stands: since when it then counts, and
where it stands. -/
def hold (now : Nat) (want : Bool) (since : Nat) (held : Option Nat) : Nat × Option Nat :=
  match held, want with
  | none, true => (since, some (now - since))
  | some n, false => (now - n, none)
  | h, _ => (since, h)

/-- The watchdog of a player pauses or goes on; PLY_STATE reads HALTED while a stream of its job is halted. -/
def repause (p : Nat) (s : State) : State :=
  let k := s.ply p
  match k.job with
  | none => s
  | some id =>
    let r := hold s.time (s.plyPaused p) k.active k.paused
    let halted := s.jobHalted id
    setPly p { k with active := r.1, paused := r.2, st := if halted ∧ k.st = 2 then 3 else if !halted ∧ k.st = 3 then 2 else k.st } s

/-- Every player's watchdog pauses or goes on. -/
def repauseAll (s : State) : State := (s.players.map (fun (x : Nat × Player) => x.1)).foldl (fun a p => repause p a) s

/-- The count of R215 of a job pauses or goes on: it counts while a stream is in a pass and neither a halt nor the debugger stops
it. -/
def restall (id : Nat) (s : State) : State :=
  match tget? s.jobs id with
  | none => s
  | some j =>
    let r := hold s.time (s.jobPaused id || !(s.jobStreams id).any (fun x => x.2.inPass)) j.moved j.stallHeld
    { s with jobs := tput s.jobs id { j with moved := r.1, stallHeld := r.2 } }

/-- Both counts of a job pause or go on. -/
def repauseJob (job : Option Nat) (s : State) : State := match job with | some id => repauseAll (restall id s) | none => s

/-- Progress of a player (R147). -/
def touch (p : Nat) (s : State) : State := setPly p { s.ply p with active := s.time, paused := (s.ply p).paused.map (fun _ => 0) } s

/-- A job moves a byte or passes a credit (R215). -/
def moved (job : Option Nat) (s : State) : State :=
  match job with
  | none => s
  | some id => match tget? s.jobs id with
    | some j => { s with jobs := tput s.jobs id { j with moved := s.time, stallHeld := j.stallHeld.map (fun _ => 0) } }
    | none => s

/-- The key of a slot of a stagehand. -/
def slotKey (sh slot : Nat) : Nat := 8 * sh + slot

/-- Whether every queue of a player is empty. -/
def State.idleQueues (s : State) (p : Nat) : Bool := (s.ply p).queues.all (fun (q : Nat × List QCue) => q.2.isEmpty)

/-- The states of the started threads of a player. -/
def State.threadStates (s : State) (p : Nat) : List Nat := ((s.ply p).threads.map (fun (x : Nat × Thread) => x.2.st)).filter (· ≠ 0)

/-- The streams in WAIT_REARM of a player close once its threads have retired JOB.END and its queues are empty (R194). -/
def closeIdle (p : Nat) (s : State) : State :=
  if s.idleQueues p && (s.threadStates p).all (· == 6) && (s.ply p).job.isSome then
    { s with streams := s.streams.filter (fun (x : Nat × Stream) => !(x.1 / 8 == p && x.2.st == 4)) }
  else s

end Sys2Proof.Machine
end

