-- ==== Sys2Proof/Machine/Trace.lean ====
section
/-! DEFINITION. The instruction trace (spec/17, R610 to R621). -/

namespace Sys2Proof.Machine

/-- Whether a player's debug unlock is set (SEC_DBGn). -/
def State.unlocked (s : State) (p : Nat) : Bool := decide (p < 68) && bits (s.reg 2 (0x130 + 4 * (p / 32))).toNat (p % 32) 1 == 1

/-- The trace of a player. -/
def State.trc (s : State) (p : Nat) : Trace := tget s.traces {} p
/-- Write a trace back. -/
def setTrc (p : Nat) (x : Trace) (s : State) : State := { s with traces := tput s.traces p x }

/-- Whether a thread is traced: trace on, the thread in the mask, the buffer not frozen (R611, R621). -/
def State.traced (s : State) (p t : Nat) : Bool :=
  s.rf (0x1000 + p) Reg.TRC_CFG_ENABLE == 1 && bits (s.rf (0x1000 + p) Reg.TRC_CFG_THREADS) t 1 == 1 && s.rf (0x1000 + p) Reg.TRC_TRIG_TRIG_STATE != 3

/-- The counter of a packet's type. -/
def packetCounter : Packet → Nat
  | .sync .. => Cnt.TRC_SYNC_PKTS | .branch .. => Cnt.TRC_BRANCH_PKTS | .indirect .. => Cnt.TRC_INDIRECT_PKTS
  | .event .. => Cnt.TRC_EVENT_PKTS | .gap .. => Cnt.TRC_GAP_PKTS

/-- A player's buffer freezes (R621). -/
def freeze (p : Nat) (s : State) : State :=
  bump 0x37 Cnt.TRC_FREEZES 1 (s.wf (0x1000 + p) Reg.TRC_TRIG_TRIG_STATE 3)

/-- A packet enters a buffer, and counts towards POST once the trigger has fired (R621). -/
def enterPacket (p : Nat) (k : Packet) (s : State) : State :=
  let x := s.trc p
  let fired := s.rf (0x1000 + p) Reg.TRC_TRIG_TRIG_STATE = 2
  let s := setTrc p { x with buf := x.buf ++ [k], after := if fired then x.after + 1 else x.after } s
  let s := bump 0x37 (packetCounter k) 1 (bump 0x37 Cnt.TRC_PACKETS 1 s)
  if fired ∧ s.rf (0x1000 + p) Reg.TRC_TRIG_POST ≤ x.after + 1 then freeze p s else s

/-- Produce a packet: a full buffer replaces its oldest with DRAIN clear and drops the new one with DRAIN set (R616,
R617). -/
def packet (p : Nat) (k : Packet) (s : State) : State :=
  let x := s.trc p
  if s.rf (0x1000 + p) Reg.TRC_TRIG_TRIG_STATE = 3 then s
  else if x.buf.length < 4096 then enterPacket p k s
  else if s.rf (0x1000 + p) Reg.TRC_CFG_DRAIN = 0 then enterPacket p k (setTrc p { x with buf := x.buf.drop 1 } s)
  else
    let s := setTrc p { x with lostSince := x.lostSince + 1, firstDrop := if x.lostSince = 0 then s.time else x.firstDrop } s
    bump 0x37 Cnt.TRC_LOST 1 (s.wf (0x1000 + p) Reg.TRC_LOST_LOST (min (2 ^ 32 - 1) (s.rf (0x1000 + p) Reg.TRC_LOST_LOST + 1)))

/-- A thread's pending branch bits are written (R611). -/
def flushBits (p t : Nat) (s : State) : State :=
  let x := s.trc p
  let b := x.bits.getD t (0, 0)
  if b.1 = 0 then s else packet p (.branch t b.1 b.2) (setTrc p { x with bits := x.bits.set t (0, 0) } s)

/-- SYNC of a traced thread (R613). -/
def traceSync (p t : Nat) (s : State) : State :=
  if s.traced p t then packet p (.sync t ((s.thread p t).pc % 2 ^ 32) s.time) (flushBits p t s) else s

/-- EVENT of a traced thread. -/
def traceEvent (p t kind value : Nat) (s : State) : State :=
  if s.traced p t then packet p (.event t kind (value % 2 ^ 32) s.time) (flushBits p t s) else s

/-- INDIRECT of a traced thread (R611). -/
def traceIndirect (p t target : Nat) (s : State) : State :=
  if s.traced p t then packet p (.indirect t (target % 2 ^ 32)) (flushBits p t s) else s

/-- One branch bit of a traced thread (R611). -/
def traceBranch (p t : Nat) (taken : Bool) (s : State) : State :=
  if s.traced p t then
    let x := s.trc p
    let b := x.bits.getD t (0, 0)
    let s := setTrc p { x with bits := x.bits.set t (b.1 + 1, b.2 + bit taken * 2 ^ b.1) } s
    if b.1 + 1 = 96 then flushBits p t s else s
  else s

/-- A player's armed trigger fires (R620); its EVENT is of thread `t`, whose pending bits come first (R611). -/
def fireOne (p t src : Nat) (s : State) : State :=
  if s.rf (0x1000 + p) Reg.TRC_TRIG_TRIG_STATE ≠ 1 then s
  else
    let s := if s.rf (0x1000 + p) Reg.TRC_CFG_ENABLE = 1 then packet p (.event t 7 src s.time) (flushBits p t s) else s
    let s := bump 0x37 Cnt.TRC_TRIGGERS 1 (s.wf (0x1000 + p) Reg.TRC_TRIG_TRIG_STATE 2)
    let s := setTrc p { s.trc p with after := 0, job := (s.ply p).job } s
    if s.rf (0x1000 + p) Reg.TRC_TRIG_POST = 0 then freeze p s else s

/-- A trigger fires, and with it those of the other players of the job that have ENS_EN (R620): of the thread that brought the PC or the
TRAP source, of thread 0 otherwise (log entry 196). -/
def fire (p t src : Nat) (s : State) : State :=
  if s.rf (0x1000 + p) Reg.TRC_TRIG_TRIG_STATE ≠ 1 then s
  else
    let others : List Nat := match (s.ply p).job with
      | some j => (s.players.filter (fun (x : Nat × Player) => x.2.job == some j && x.1 != p)).map (fun (x : Nat × Player) => x.1)
      | none => []
    (others.filter (fun q => s.rf (0x1000 + q) Reg.TRC_TRIG_ENS_EN == 1)).foldl (fun a q => fireOne q 0 4 a) (fireOne p t src s)

/-- The TRAP source: the player recorded an E or F code in PLY_FAULT (R620). -/
def fireTrap (p t : Nat) (s : State) : State := if s.rf (0x1000 + p) Reg.TRC_TRIG_TRAP_EN = 1 then fire p t 2 s else s

/-- The job during which a trigger fired ends on a player: its buffer freezes (R621). -/
def freezeAtEnd (p : Nat) (s : State) : State :=
  if s.rf (0x1000 + p) Reg.TRC_TRIG_TRIG_STATE = 2 ∧ (s.trc p).job.isSome ∧ (s.trc p).job = (s.ply p).job then freeze p s else s

/-- The 16 bytes of a packet (R610). -/
def packetBytes : Packet → List Byte
  | .sync t pc time => leBytes 1 (1 + 16 * t) ++ leBytes 3 0 ++ leBytes 4 pc ++ leBytes 8 time
  | .branch t n b => leBytes 1 (2 + 16 * t) ++ leBytes 1 n ++ leBytes 2 0 ++ leBytes 12 b
  | .indirect t a => leBytes 1 (3 + 16 * t) ++ leBytes 3 0 ++ leBytes 4 a ++ leBytes 8 0
  | .event t k v time => leBytes 1 (4 + 16 * t) ++ leBytes 1 k ++ leBytes 2 0 ++ leBytes 4 v ++ leBytes 8 time
  | .gap n time => leBytes 1 5 ++ leBytes 3 0 ++ leBytes 4 n ++ leBytes 8 time

/-- The buffer of a player is emptied, with TRC_WR and TRC_RD (R619, R621). -/
def emptyTrace (p : Nat) (s : State) : State := ((setTrc p {} s).setReg (0x1000 + p) 0x110 0).setReg (0x1000 + p) 0x114 0

/-- Threads of a player that run. -/
def State.startedThreads (s : State) (p : Nat) : List Nat :=
  (List.range 8).filter (fun t => (s.thread p t).st ≠ 0 && (s.thread p t).st ≠ 6)

/-- A write of TRC_CFG with ENABLE set (R613, R619). -/
def trcEnable (p : Nat) (w : Word) (s : State) : State :=
  let pg := 0x1000 + p
  let base := s.rf pg Reg.TRC_RING_LO_BASE + s.rf pg Reg.TRC_RING_HI_BASE * 2 ^ 32
  let n := s.rf pg Reg.TRC_RING_HI_LOG2
  if ¬(16 ≤ n ∧ n ≤ 30) ∨ base % 2 ^ n ≠ 0 ∨ !s.inPart 0 base (2 ^ n) then record 0x37 Code.E_TRC_RING s
  else if s.rf pg Reg.TRC_CFG_ENABLE = 1 then s.setReg pg 0x104 (w &&& 0xFFFF)
  else
    let s := (emptyTrace p (s.setReg pg 0x104 (w &&& 0xFFFF))).setReg pg 0x120 0
    (s.startedThreads p).foldl (fun a t => traceSync p t a) s

/-- TRC_ENABLE (R619). -/
def execTrcEnable (p : Fin 68) (w : Word) (s : State) : Host.Outcome State Fault Refusal := hostWrite 1 (trcEnable p.val (w ||| 1)) s

/-- A write of TRC_TRIG: its RW fields, then ARM, then NOW (R620, R621). -/
def trcTrig (p : Nat) (w : Word) (s : State) : State :=
  let pg := 0x1000 + p
  let st := s.rf pg Reg.TRC_TRIG_TRIG_STATE
  let s := (s.setReg pg 0x118 (w &&& 0x000FFF0E)).wf pg Reg.TRC_TRIG_TRIG_STATE st
  let s := if bits w.toNat 0 1 = 1 then (emptyTrace p s).wf pg Reg.TRC_TRIG_TRIG_STATE 1 else s
  if bits w.toNat 4 1 = 1 then fire p 0 8 s else s

/-- TRC_ARM (R620, R621). -/
def execTrcArm (p : Fin 68) (w : Word) (s : State) : Host.Outcome State Fault Refusal := hostWrite 1 (trcTrig p.val (w ||| 1)) s

/-- TRC_NOW (R620). -/
def execTrcNow (p : Fin 68) (w : Word) (s : State) : Host.Outcome State Fault Refusal := hostWrite 1 (trcTrig p.val (w ||| 16)) s

/-- After drops, a free slot takes a GAP packet and every traced thread writes a SYNC (R613, R617). -/
def traceGap (p : Nat) (s : State) : State :=
  let x := s.trc p
  if x.lostSince = 0 then s
  else
    let s := enterPacket p (.gap (min (2 ^ 32 - 1) x.lostSince) x.firstDrop) (setTrc p { x with lostSince := 0 } s)
    let s := postFull 0x37 Code.W_TRACE_GAP 0 0 x.lostSince 0 s
    (s.startedThreads p).foldl (fun a t => traceSync p t a) s

/-- TRACE_DRAIN: one packet to the ring (R615 to R617). -/
def execTraceDrain (p : Fin 68) (s : State) : Host.Outcome State Fault Refusal :=
  let pg := 0x1000 + p.val
  let x := s.trc p.val
  let frozen := s.rf pg Reg.TRC_TRIG_TRIG_STATE = 3
  let wr := s.rf pg Reg.TRC_WR_WR
  let n := s.rf pg Reg.TRC_RING_HI_LOG2
  let room := ahead 32 wr (s.rf pg Reg.TRC_RD_RD) < 2 ^ (n - 4)
  match x.buf with
  | [] => .next s
  | k :: t =>
    if s.rf pg Reg.TRC_CFG_ENABLE = 0 ∨ (s.rf pg Reg.TRC_CFG_DRAIN = 0 ∧ ¬frozen) ∨ ¬room then .next s
    else
      let base := s.rf pg Reg.TRC_RING_LO_BASE + s.rf pg Reg.TRC_RING_HI_BASE * 2 ^ 32
      let s := (setTrc p.val { x with buf := t } s).store (base + 16 * (wr % 2 ^ (n - 4))) (packetBytes k)
      .next (traceGap p.val (bump 0x37 Cnt.TRC_DRAIN_BYTES 16 (s.wf pg Reg.TRC_WR_WR (wr + 1))))

/-- TRACE_SYNC_PERIOD (R613): the period has passed once more since the job's start; a period of 2^TS_EXP CTL cycles of
2/3 ns. -/
def execTraceSyncPeriod (p : Fin 68) (s : State) : Host.Outcome State Fault Refusal :=
  let e := s.rf (0x1000 + p.val) Reg.TRC_CFG_TS_EXP
  let x := s.trc p.val
  let k := s.ply p.val
  if e = 0 ∨ k.st ≠ 2 ∨ (s.time - k.started) * 3 < (x.nextSync + 1) * 2 ^ e * 2 then .next s
  else .next ((s.startedThreads p.val).foldl (fun a t => traceSync p.val t a) (setTrc p.val { x with nextSync := x.nextSync + 1 } s))

/-! Debugger (R622 to R625) -/

/-- A thread halts for the debugger: VALUE 0 EBREAK, 1 HALT, 2 STEP. -/
def dbgStop (p t value : Nat) (s : State) : State :=
  let x := s.thread p t
  let s := setThread p t { x with st := 9, held := x.st, stepping := false } s
  let s := bump 0x37 Cnt.TRC_DBG_HALTS 1 s
  repauseJob (s.ply p).job (traceEvent p t 5 value (if value = 2 then bump 0x37 Cnt.TRC_DBG_STEPS 1 s else s))

/-- HALT (R622). -/
def dbgHalt (p t : Nat) (s : State) : State :=
  if !s.unlocked p then record 0x37 Code.E_DBG_LOCKED s
  else
    let x := s.thread p t
    if x.st = 0 ∨ x.st = 6 ∨ x.st = 9 then s else dbgStop p t 1 s

/-- A halted thread continues (R622). -/
def dbgContinue (p t : Nat) (s : State) : State :=
  let x := s.thread p t
  if x.st ≠ 9 then s else repauseJob (s.ply p).job (traceSync p t (traceEvent p t 6 0 (setThread p t { x with st := x.held } s)))

/-- RESUME (R622). -/
def dbgResume (p t : Nat) (s : State) : State :=
  if !s.unlocked p then record 0x37 Code.E_DBG_LOCKED s else dbgContinue p t s

/-- STEP (R622): the thread retires one instruction and halts again. -/
def dbgStep (p t : Nat) (s : State) : State :=
  if !s.unlocked p then record 0x37 Code.E_DBG_LOCKED s
  else
    let x := s.thread p t
    if x.st ≠ 9 then s else repauseJob (s.ply p).job (setThread p t { x with st := x.held, stepping := true } s)

/-- A write of TRC_DBG_DATA_LO or HI (R624). -/
def dbgData (hi : Bool) (w : Word) (s : State) : State :=
  let p := s.rf 0x37 Reg.TRC_SEL_PLAYER
  let t := s.rf (0x1000 + p) Reg.TRC_DBG_SEL_THREAD
  let r := s.rf (0x1000 + p) Reg.TRC_DBG_SEL_REG
  if 68 ≤ p then s
  else if !s.unlocked p then record 0x37 Code.E_DBG_LOCKED s
  else
    let x := s.thread p t
    if x.st ≠ 9 ∨ 32 < r then record 0x37 Code.E_CMD_INVALID s
    else
      let old := if r = 32 then x.pc else tget x.regs 0 r
      let v := if hi then old % 2 ^ 32 + w.toNat * 2 ^ 32 else old / 2 ^ 32 * 2 ^ 32 + w.toNat
      if r = 0 then s
      else if r = 32 then setThread p t { x with pc := v / 2 * 2 } s
      else setThread p t { x with regs := dput 0 x.regs r v } s

/-- DBG_HALT (R622). -/
def execDbgHalt (p : Fin 68) (t : Fin 8) (s : State) : Host.Outcome State Fault Refusal := hostWrite 1 (dbgHalt p.val t.val) s
/-- DBG_RESUME (R622). -/
def execDbgResume (p : Fin 68) (t : Fin 8) (s : State) : Host.Outcome State Fault Refusal := hostWrite 1 (dbgResume p.val t.val) s
/-- DBG_STEP (R622). -/
def execDbgStep (p : Fin 68) (t : Fin 8) (s : State) : Host.Outcome State Fault Refusal := hostWrite 1 (dbgStep p.val t.val) s
/-- DBG_DATA_WRITE (R624). -/
def execDbgDataWrite (hi : Bool) (w : Word) (s : State) : Host.Outcome State Fault Refusal := hostWrite 1 (dbgData hi w) s

end Sys2Proof.Machine
end

