-- ==== Sys2Proof/Machine/RiscV.lean ====
section
/-! DEFINITION. The control core: RV64IMC with Zicsr (spec/04, R125 to R128). -/

namespace Sys2Proof.Machine

/-! Encodings of the base formats -/

def encR (op f3 f7 rd rs1 rs2 : Nat) : Nat := op + rd * 2 ^ 7 + f3 * 2 ^ 12 + rs1 * 2 ^ 15 + rs2 * 2 ^ 20 + f7 * 2 ^ 25
def encI (op f3 rd rs1 imm : Nat) : Nat := op + rd * 2 ^ 7 + f3 * 2 ^ 12 + rs1 * 2 ^ 15 + imm % 4096 * 2 ^ 20
def encS (op f3 rs1 rs2 imm : Nat) : Nat :=
  op + bits imm 0 5 * 2 ^ 7 + f3 * 2 ^ 12 + rs1 * 2 ^ 15 + rs2 * 2 ^ 20 + bits imm 5 7 * 2 ^ 25
def encB (f3 rs1 rs2 imm : Nat) : Nat :=
  0x63 + bits imm 11 1 * 2 ^ 7 + bits imm 1 4 * 2 ^ 8 + f3 * 2 ^ 12 + rs1 * 2 ^ 15 + rs2 * 2 ^ 20 + bits imm 5 6 * 2 ^ 25 + bits imm 12 1 * 2 ^ 31
def encJ (rd imm : Nat) : Nat :=
  0x6F + rd * 2 ^ 7 + bits imm 12 8 * 2 ^ 12 + bits imm 11 1 * 2 ^ 20 + bits imm 1 10 * 2 ^ 21 + bits imm 20 1 * 2 ^ 31

/-- Sign-extend a field of `w` bits to `n` bits. -/
def sext (w n v : Nat) : Nat := if v / 2 ^ (w - 1) % 2 = 1 then 2 ^ n - (2 ^ w - v) else v

/-- The 32-bit instruction that a 16-bit one stands for (C extension); none where it is illegal. -/
def expandC (c : Nat) : Option Nat :=
  let f3 := bits c 13 3
  let rd' := 8 + bits c 2 3
  let rs' := 8 + bits c 7 3
  let rd := bits c 7 5
  let rs2 := bits c 2 5
  let imm6 := sext 6 12 (bits c 2 5 + bits c 12 1 * 32)
  let sh := bits c 2 5 + bits c 12 1 * 32
  match bits c 0 2, f3 with
  | 0, 0 =>
    let i := bits c 11 2 * 16 + bits c 7 4 * 64 + bits c 6 1 * 4 + bits c 5 1 * 8
    if i = 0 then none else some (encI 0x13 0 rd' 2 i)
  | 0, 2 => some (encI 0x03 2 rd' rs' (bits c 10 3 * 8 + bits c 6 1 * 4 + bits c 5 1 * 64))
  | 0, 3 => some (encI 0x03 3 rd' rs' (bits c 10 3 * 8 + bits c 5 2 * 64))
  | 0, 6 => some (encS 0x23 2 rs' rd' (bits c 10 3 * 8 + bits c 6 1 * 4 + bits c 5 1 * 64))
  | 0, 7 => some (encS 0x23 3 rs' rd' (bits c 10 3 * 8 + bits c 5 2 * 64))
  | 1, 0 => some (encI 0x13 0 rd rd imm6)
  | 1, 1 => if rd = 0 then none else some (encI 0x1B 0 rd rd imm6)
  | 1, 2 => some (encI 0x13 0 rd 0 imm6)
  | 1, 3 =>
    if rd = 2 then
      let i := bits c 12 1 * 512 + bits c 6 1 * 16 + bits c 5 1 * 64 + bits c 3 2 * 128 + bits c 2 1 * 32
      if i = 0 then none else some (encI 0x13 0 2 2 (sext 10 12 i))
    else
      let i := bits c 2 5 + bits c 12 1 * 32
      if i = 0 then none else some (0x37 + rd * 2 ^ 7 + sext 6 20 i * 2 ^ 12)
  | 1, 4 => match bits c 10 2 with
    | 0 => some (encI 0x13 5 rs' rs' sh)
    | 1 => some (encI 0x13 5 rs' rs' (sh + 1024))
    | 2 => some (encI 0x13 7 rs' rs' imm6)
    | _ => match bits c 12 1, bits c 5 2 with
      | 0, 0 => some (encR 0x33 0 32 rs' rs' rd')
      | 0, 1 => some (encR 0x33 4 0 rs' rs' rd')
      | 0, 2 => some (encR 0x33 6 0 rs' rs' rd')
      | 0, 3 => some (encR 0x33 7 0 rs' rs' rd')
      | 1, 0 => some (encR 0x3B 0 32 rs' rs' rd')
      | 1, 1 => some (encR 0x3B 0 0 rs' rs' rd')
      | _, _ => none
  | 1, 5 =>
    let i := bits c 12 1 * 2048 + bits c 11 1 * 16 + bits c 9 2 * 256 + bits c 8 1 * 1024 + bits c 7 1 * 64 + bits c 6 1 * 128 +
      bits c 3 3 * 2 + bits c 2 1 * 32
    some (encJ 0 (sext 12 21 i))
  | 1, _ =>
    let i := bits c 12 1 * 256 + bits c 10 2 * 8 + bits c 5 2 * 64 + bits c 3 2 * 2 + bits c 2 1 * 32
    some (encB (f3 - 6) rs' 0 (sext 9 13 i))
  | 2, 0 => some (encI 0x13 1 rd rd sh)
  | 2, 2 => if rd = 0 then none else some (encI 0x03 2 rd 2 (bits c 12 1 * 32 + bits c 4 3 * 4 + bits c 2 2 * 64))
  | 2, 3 => if rd = 0 then none else some (encI 0x03 3 rd 2 (bits c 12 1 * 32 + bits c 5 2 * 8 + bits c 2 3 * 64))
  | 2, 4 =>
    if bits c 12 1 = 0 then
      if rs2 = 0 then (if rd = 0 then none else some (encI 0x67 0 0 rd 0)) else some (encR 0x33 0 0 rd 0 rs2)
    else if rs2 = 0 then (if rd = 0 then some 0x00100073 else some (encI 0x67 0 1 rd 0))
    else some (encR 0x33 0 0 rd rd rs2)
  | 2, 6 => some (encS 0x23 2 2 rs2 (bits c 9 4 * 4 + bits c 7 2 * 64))
  | 2, 7 => some (encS 0x23 3 2 rs2 (bits c 10 3 * 8 + bits c 7 3 * 64))
  | _, _ => none

/-! Registers and memory of a thread -/

/-- A 64-bit value. -/
abbrev X64 := BitVec 64

/-- Read a register; x0 reads 0. -/
def Thread.x (t : Thread) (r : Nat) : X64 := if r = 0 then 0 else BitVec.ofNat 64 (tget t.regs 0 r)

/-- Write a register; a write of x0 is discarded. -/
def Thread.setX (t : Thread) (r : Nat) (v : X64) : Thread :=
  if r = 0 then t else { t with regs := dput 0 t.regs r v.toNat }

/-- A job is a tensor job: a TENSOR command's or a fine-tuning job (R353). -/
def Job.tensorJob (j : Job) : Bool := match j.work with | .tensor | .tune _ => true | _ => false

/-- The job on a player. -/
def State.jobOf (s : State) (p : Nat) : Option Job := (s.ply p).job.bind (tget? s.jobs)

/-- The cue sheet image a player runs (R149). -/
def State.code (s : State) (p : Nat) : List Byte :=
  match s.jobOf p with
  | some j => (match j.pkg with | some k => (match k.sheets.find? (·.1 == j.role) with | some x => x.2 | none => []) | none => [])
  | none => []

/-- A byte of the cue sheet window; beyond the image its content is not stated. -/
def codeByte (img : List Byte) (o : Nat) : Byte := if o < img.length then img.getD o 0 else Config.beyondCode o

/-- Device address of a local store byte (spec/13). -/
def lsAddr (p o : Nat) : Nat := 0x010100000000 + 0x400000 * p + o

/-- The kind of a core address for `n` bytes: 0 none, 1 local store, 2 thread data memory, 3 cue sheet code, 4 job block
(R126). -/
def coreRegion (a n : Nat) : Nat :=
  if a + n ≤ 0x300000 then 1
  else if 0x10000000 ≤ a ∧ a + n ≤ 0x10004000 then 2
  else if 0x20000000 ≤ a ∧ a + n ≤ 0x21000000 then 3
  else if 0x30000000 ≤ a ∧ a + n ≤ 0x30000100 then 4
  else 0

/-- Load `n` bytes: the cause of an exception, 0 for none, and the value (R126). -/
def coreLoad (s : State) (p a n : Nat) : Nat × Nat :=
  if a % n ≠ 0 then (4, 0)
  else match coreRegion a n with
    | 1 => (0, s.load (lsAddr p a) n)
    | 2 => (0, leNat ((List.range n).map (fun k => tget (s.ply p).tdm 0 (a % 0x10000 + k))))
    | 3 => let img := s.code p; (0, leNat ((List.range n).map (fun k => codeByte img (a % 0x1000000 + k))))
    | 4 => (0, match s.jobOf p with | some j => leAt j.block (a % 0x1000) n | none => 0)
    | _ => (5, 0)

/-- The bytes of the local store that an access of the control core moves (R161). -/
def lsBytes (a n : Nat) : Nat := if coreRegion a n = 1 then n else 0

/-- Store `n` bytes: the cause of an exception, 0 for none, and the state after it (R126). -/
def coreStore (s : State) (p a n v : Nat) : Nat × State :=
  if a % n ≠ 0 then (6, s)
  else match coreRegion a n with
    | 1 => (0, s.store (lsAddr p a) (leBytes n v))
    | 2 => (0, setPly p { s.ply p with tdm := (List.range n).foldl (fun m k => dput 0 m (a % 0x10000 + k) (BitVec.ofNat 8 (v / 256 ^ k))) (s.ply p).tdm } s)
    | _ => (7, s)

/-! Faults and retirement -/

/-- Whether a job runs for a player: nothing has stopped it, or what did happened at this PTP time on a player of a higher logical
index, so that a failure of this one still decides (R142). -/
def Job.runsFor (j : Job) (s : State) (p : Nat) : Bool :=
  j.st == .running && (match j.stop, j.stopAt with
    | none, _ => true
    | some _, some (t, n) => t == s.time && decide (s.logical p < n)
    | some _, none => false)

/-- Whether a player's job still runs. -/
def State.jobRuns (s : State) (p : Nat) : Bool := match s.jobOf p with | some j => j.runsFor s p | none => false

/-- The job on a player stops (R142): the failure of the lowest logical index among those at one PTP time decides. -/
def stopPlayerJob (p code : Nat) (s : State) : State :=
  match (s.ply p).job with
  | none => s
  | some id => match tget? s.jobs id with
    | none => s
    | some j => if j.runsFor s p then { s with jobs := tput s.jobs id { j with stop := some code, stopAt := some (s.time, s.logical p) } } else s

/-- PLY_FAULT with its address and value (R160), the player's code in its PG_ERR, the TRAP trigger, and the stop of the
job (R142). -/
def plyFault (p kind thread engine repeat_ cause detail addr value code : Nat) (s : State) : State :=
  let pg := 0x100 + p
  let s := holdRecord pg Reg.PLY_FAULT_VALID
    [(Reg.PLY_FAULT_KIND, kind), (Reg.PLY_FAULT_THREAD, thread), (Reg.PLY_FAULT_ENGINE, engine), (Reg.PLY_FAULT_REPEAT, repeat_),
     (Reg.PLY_FAULT_CAUSE, cause), (Reg.PLY_FAULT_DETAIL, detail), (Reg.PLY_FAULT_ADDR_ADDR, addr), (Reg.PLY_FAULT_VAL_VALUE, value)] s
  stopPlayerJob p code (fireTrap p thread (post pg code s))

/-- A synchronous exception (R128): the CSRs, PLY_FAULT, the trace EVENT (R614), and the end of the job. -/
def coreTrap (p t cause tval : Nat) (s : State) : State :=
  let x := s.thread p t
  let s := setThread p t { x with mepc := x.pc, mcause := cause, mtval := tval, mstatus := 0x1800 } s
  plyFault p 5 t 0 0 cause 0 (x.pc % 2 ^ 32) (tval % 2 ^ 32) Code.E_CORE_TRAP (traceEvent p t 4 cause s)

/-- Retire an instruction: the thread as it is after it, with its next program counter (R125, R622). -/
def retireAt (p t : Nat) (x : Thread) (npc : Nat) (s : State) : State :=
  let s := setThread p t { x with pc := npc % 2 ^ 64, instret := x.instret + 1 } s
  let s := touch p (bump (0x100 + p) Cnt.PLY_INSTRET 1 s)
  if x.stepping then dbgStop p t 2 s else s

/-- Whether a thread can issue: its player runs a job that nothing has stopped, it is ready, and no trace stall holds it
(R125, R146, R618). -/
def State.canIssue (s : State) (p t : Nat) : Bool :=
  let k := s.ply p
  (k.st == 2 || k.st == 3) && (s.thread p t).st == 1 && s.jobRuns p &&
    !(s.rf (0x1000 + p) Reg.TRC_CFG_ENABLE == 1 && s.rf (0x1000 + p) Reg.TRC_CFG_DRAIN == 1 && s.rf (0x1000 + p) Reg.TRC_CFG_STALL == 1 &&
      s.unlocked p && decide (4096 ≤ (s.trc p).buf.length) && s.rf (0x1000 + p) Reg.TRC_TRIG_TRIG_STATE != 3)

/-- The instruction at a thread's program counter: its length and its 32-bit form, or the cause of a fetch fault. -/
def fetch (s : State) (p t : Nat) : Nat × Nat × Option Nat :=
  let pc := (s.thread p t).pc
  if coreRegion pc 2 ≠ 3 then (1, 0, none)
  else
    let img := s.code p
    let o := pc % 0x1000000
    let lo := (codeByte img o).toNat + 256 * (codeByte img (o + 1)).toNat
    if lo % 4 ≠ 3 then (0, 2, expandC lo)
    else if coreRegion pc 4 ≠ 3 then (1, 0, none)
    else (0, 4, some (lo + 65536 * ((codeByte img (o + 2)).toNat + 256 * (codeByte img (o + 3)).toNat)))

/-- The PC source of the trigger (R620). -/
def pcTrigger (p t : Nat) (s : State) : State :=
  if s.rf (0x1000 + p) Reg.TRC_TRIG_PC_EN = 1 ∧ s.traced p t ∧ s.rf (0x1000 + p) Reg.TRC_TRIG_PC_PC = (s.thread p t).pc % 2 ^ 32 then fire p t 1 s else s

/-- Whether a word is one of the custom instructions of R129, which have rows of their own. -/
def isCustom (w : Nat) : Bool :=
  bits w 25 7 == 0 && ((bits w 0 7 == 0x0B && decide (bits w 12 3 ≤ 5)) || (bits w 0 7 == 0x2B && decide (bits w 12 3 ≤ 3)))

/-! Arithmetic -/

/-- Signed value of 64 bits. -/
def s64 (v : X64) : Int := v.toInt
/-- 32-bit result, sign-extended. -/
def sx32 (v : X64) : X64 := BitVec.ofInt 64 (v.truncate 32).toInt

/-- DIV and REM of two integers of `w` bits (M extension): by zero and on overflow as it defines. -/
def divS (w : Nat) (a b : Int) : Int := if b = 0 then -1 else if a = -(2 ^ (w - 1) : Nat) ∧ b = -1 then a else a.tdiv b
def remS (w : Nat) (a b : Int) : Int := if b = 0 then a else if a = -(2 ^ (w - 1) : Nat) ∧ b = -1 then 0 else a.tmod b
def divU (w a b : Nat) : Nat := if b = 0 then 2 ^ w - 1 else a / b
def remU (a b : Nat) : Nat := if b = 0 then a else a % b

/-- OP and OP-IMM on 64 bits: funct3, whether funct7 selects SUB or SRA, operands. -/
def alu (f3 : Nat) (alt : Bool) (a b : X64) : X64 :=
  match f3 with
  | 0 => if alt then a - b else a + b
  | 1 => a <<< (b.toNat % 64)
  | 2 => if s64 a < s64 b then 1 else 0
  | 3 => if a.toNat < b.toNat then 1 else 0
  | 4 => a ^^^ b
  | 5 => if alt then a.sshiftRight (b.toNat % 64) else a >>> (b.toNat % 64)
  | 6 => a ||| b
  | _ => a &&& b

/-- OP of the M extension. -/
def mulDiv (f3 : Nat) (a b : X64) : X64 :=
  match f3 with
  | 0 => a * b
  | 1 => BitVec.ofInt 64 (s64 a * s64 b / (2 ^ 64 : Nat))
  | 2 => BitVec.ofInt 64 (s64 a * (b.toNat : Int) / (2 ^ 64 : Nat))
  | 3 => BitVec.ofNat 64 (a.toNat * b.toNat / 2 ^ 64)
  | 4 => BitVec.ofInt 64 (divS 64 (s64 a) (s64 b))
  | 5 => BitVec.ofNat 64 (divU 64 a.toNat b.toNat)
  | 6 => BitVec.ofInt 64 (remS 64 (s64 a) (s64 b))
  | _ => BitVec.ofNat 64 (remU a.toNat b.toNat)

/-- OP-32 and OP-IMM-32; none where the encoding is reserved. -/
def alu32 (f3 f7 : Nat) (a b : X64) : Option X64 :=
  let a32 := a.truncate 32
  let b32 := b.truncate 32
  let sh := b.toNat % 32
  let up (v : BitVec 32) : X64 := BitVec.ofInt 64 v.toInt
  match f3, f7 with
  | 0, 0 => some (up (a32 + b32))
  | 0, 32 => some (up (a32 - b32))
  | 1, 0 => some (up (a32 <<< sh))
  | 5, 0 => some (up (a32 >>> sh))
  | 5, 32 => some (up (a32.sshiftRight sh))
  | 0, 1 => some (up (a32 * b32))
  | 4, 1 => some (up (BitVec.ofInt 32 (divS 32 a32.toInt b32.toInt)))
  | 5, 1 => some (up (BitVec.ofNat 32 (divU 32 a32.toNat b32.toNat)))
  | 6, 1 => some (up (BitVec.ofInt 32 (remS 32 a32.toInt b32.toInt)))
  | 7, 1 => some (up (BitVec.ofNat 32 (remU a32.toNat b32.toNat)))
  | _, _ => none

/-- The branch condition; none for a reserved funct3. -/
def branchTaken (f3 : Nat) (a b : X64) : Option Bool :=
  match f3 with
  | 0 => some (a == b) | 1 => some (a != b) | 4 => some (decide (s64 a < s64 b)) | 5 => some (decide (s64 b ≤ s64 a))
  | 6 => some (decide (a.toNat < b.toNat)) | 7 => some (decide (b.toNat ≤ a.toNat)) | _ => none

/-- Occupied entries of a queue. -/
def State.queueLen (s : State) (p cls : Nat) : Nat := (tget (s.ply p).queues [] cls).length

/-- The number of the CTL cycle in which thread t may issue next, counted from the job's start (R125, R127): a cycle takes 2/3 ns of
device time, the only time the model has (log entry 22). -/
def State.cycleOf (s : State) (p t : Nat) : Nat :=
  let c := 3 * (s.time - (s.ply p).started) / 2
  c + (t + 8 - c % 8) % 8

/-- The CSRs of R127. -/
def readCsr (s : State) (p t csr : Nat) : Option Nat :=
  let x := s.thread p t
  let k := s.ply p
  match csr with
  | 0xC00 => some (s.cycleOf p t % 2 ^ 64)
  | 0xC01 => some s.time
  | 0xC02 => some x.instret
  | 0xF14 => some t
  | 0xFC0 => some k.rank
  | 0xFC1 => some k.size
  | 0xFC2 => some k.ens
  | 0xFC3 => some (s.logical p % 64 + p * 256)
  | 0xFC4 => some (match s.jobOf p with | some j => handleOf j.chan (s.chan j.chan) | none => 0)
  | 0xFC5 => some (match s.jobOf p with | some j => j.seq | none => 0)
  | 0xFC6 => some ((List.range 6).foldl (fun a i => a + (16 - s.queueLen p (i + 1)) * 32 ^ i) 0)
  | 0xFC7 => some (s.rf (0x100 + p) Reg.PG_STAT_EPOCH)
  | 0x300 => some x.mstatus | 0x341 => some x.mepc | 0x342 => some x.mcause | 0x343 => some x.mtval
  | _ => none

/-- Sign-extended immediates. -/
def immI (w : Nat) : X64 := BitVec.ofInt 64 (signed 12 (bits w 20 12))
def immS (w : Nat) : X64 := BitVec.ofInt 64 (signed 12 (bits w 7 5 + bits w 25 7 * 32))
def immB (w : Nat) : X64 := BitVec.ofInt 64 (signed 13 (bits w 8 4 * 2 + bits w 25 6 * 32 + bits w 7 1 * 2048 + bits w 31 1 * 4096))
def immJ (w : Nat) : X64 := BitVec.ofInt 64 (signed 21 (bits w 21 10 * 2 + bits w 20 1 * 2048 + bits w 12 8 * 4096 + bits w 31 1 * 2 ^ 20))
def immU (w : Nat) : X64 := BitVec.ofInt 64 (signed 32 (bits w 12 20 * 4096))

/-- The effect of one RV64IM or Zicsr instruction of `len` bytes (R125 to R128). -/
def rvExec (p t w len : Nat) (s : State) : State :=
  let x := s.thread p t
  let rd := bits w 7 5
  let f3 := bits w 12 3
  let a := x.x (bits w 15 5)
  let b := x.x (bits w 20 5)
  let pc : X64 := BitVec.ofNat 64 x.pc
  let next := x.pc + len
  let ill := coreTrap p t 2 w s
  let put (v : X64) := retireAt p t (x.setX rd v) next s
  match bits w 0 7 with
  | 0x37 => put (immU w)
  | 0x17 => put (pc + immU w)
  | 0x6F => retireAt p t (x.setX rd (BitVec.ofNat 64 next)) (pc + immJ w).toNat s
  | 0x67 =>
    if f3 ≠ 0 then ill
    else
      let target := ((a + immI w) &&& ~~~1).toNat
      retireAt p t (x.setX rd (BitVec.ofNat 64 next)) target (traceIndirect p t target s)
  | 0x63 => match branchTaken f3 a b with
    | none => ill
    | some taken => retireAt p t x (if taken then (pc + immB w).toNat else next) (traceBranch p t taken s)
  | 0x03 =>
    if f3 = 7 then ill
    else
      let n := 2 ^ (f3 % 4)
      let ad := (a + immI w).toNat
      let r := coreLoad s p ad n
      if r.1 ≠ 0 then coreTrap p t r.1 ad s
      else retireAt p t (x.setX rd (if f3 < 4 then BitVec.ofInt 64 (signed (8 * n) r.2) else BitVec.ofNat 64 r.2)) next
        (bump (0x100 + p) Cnt.PLY_LS_READ_BYTES (lsBytes ad n) s)
  | 0x23 =>
    if 4 ≤ f3 then ill
    else
      let ad := (a + immS w).toNat
      let r := coreStore s p ad (2 ^ f3) (b.toNat % 2 ^ (8 * 2 ^ f3))
      if r.1 ≠ 0 then coreTrap p t r.1 ad s
      else retireAt p t x next (bump (0x100 + p) Cnt.PLY_LS_WRITE_BYTES (lsBytes ad (2 ^ f3)) r.2)
  | 0x13 =>
    if f3 = 1 ∧ bits w 26 6 ≠ 0 ∨ f3 = 5 ∧ bits w 26 6 ≠ 0 ∧ bits w 26 6 ≠ 16 then ill
    else if f3 = 1 ∨ f3 = 5 then put (alu f3 (bits w 30 1 = 1) a (BitVec.ofNat 64 (bits w 20 6)))
    else put (alu f3 false a (immI w))
  | 0x1B =>
    if f3 = 0 then put (sx32 (a + immI w))
    else if f3 = 1 ∨ f3 = 5 then
      match alu32 f3 (bits w 25 7) a (BitVec.ofNat 64 (bits w 20 5)) with
      | some v => if bits w 25 7 = 1 then ill else put v
      | none => ill
    else ill
  | 0x33 => match bits w 25 7 with
    | 0 => put (alu f3 false a b)
    | 32 => if f3 = 0 ∨ f3 = 5 then put (alu f3 true a b) else ill
    | 1 => put (mulDiv f3 a b)
    | _ => ill
  | 0x3B => match alu32 f3 (bits w 25 7) a b with
    | some v => put v
    | none => ill
  | 0x0F => if f3 = 0 then retireAt p t x next s else ill
  | 0x73 =>
    let csr := bits w 20 12
    if f3 = 0 then
      if w = 0x00000073 then coreTrap p t 11 0 s
      else if w = 0x00100073 then
        if s.unlocked p then dbgStop p t 0 (retireAt p t { x with stepping := false } next s) else coreTrap p t 3 x.pc s
      else ill
    else if f3 = 4 then ill
    else if f3 % 4 = 1 ∨ bits w 15 5 ≠ 0 then ill
    else match readCsr s p t csr with
      | some v => put (BitVec.ofNat 64 v)
      | none => ill
  | _ => ill

/-- Whether the fetch of an instruction meets an instruction cache miss, of a cache the spec does not describe, is a free value
(R161; log entry 5). -/
def fetchMiss (p : Nat) (s : State) : State := let r := drawBool s; bump (0x100 + p) Cnt.PLY_ICACHE_MISS (bit r.1) r.2

/-- INSTRUCTION_RETIRE (R125 to R128): the next instruction of a thread, unless it is one of the custom instructions,
whose events have rows of their own. -/
def execInstructionRetire (p : Fin 68) (t : Fin 8) (s : State) : Host.Outcome State Fault Refusal :=
  if !s.canIssue p.val t.val then .next s
  else match fetch s p.val t.val with
    | (0, len, some w) =>
      if isCustom w then .next s else .next (rvExec p.val t.val w len (fetchMiss p.val (pcTrigger p.val t.val s)))
    | (0, _, none) => .next (coreTrap p.val t.val 2 0 (pcTrigger p.val t.val s))
    | (cause, _, _) => .next (coreTrap p.val t.val cause (s.thread p.val t.val).pc s)

end Sys2Proof.Machine
end

