-- ==== Sys2Proof/Machine/Fp.lean ====
section
/-! DEFINITION. Floating formats, their exact values and the conversions between formats (spec/02, R39 to R58, R80). -/

namespace Sys2Proof.Machine

/-- A floating format: exponent and mantissa widths (spec/02, "Floating formats"). -/
structure FFmt where
  eb : Nat
  mb : Nat
deriving DecidableEq, Repr

def f32 : FFmt := ⟨8, 23⟩
def f16 : FFmt := ⟨5, 10⟩
def bf16 : FFmt := ⟨8, 7⟩
def e5m2 : FFmt := ⟨5, 2⟩
def e4m3i : FFmt := ⟨4, 3⟩

/-- The exact value of a code: `fin neg m e` is m x 2^e with its sign (R41). -/
inductive Fp where
  | nan
  | inf (neg : Bool)
  | fin (neg : Bool) (m : Nat) (e : Int)
deriving DecidableEq, Repr

/-- Exponent bias. -/
def FFmt.bias (f : FFmt) : Nat := 2 ^ (f.eb - 1) - 1
/-- Exponent of the lowest subnormal bit. -/
def FFmt.emin (f : FFmt) : Int := 1 - (f.bias : Int) - (f.mb : Int)
/-- Magnitude code of infinity. -/
def FFmt.infCode (f : FFmt) : Nat := (2 ^ f.eb - 1) * 2 ^ f.mb
/-- Canonical NaN (R47). -/
def FFmt.nanCode (f : FFmt) : Nat := f.infCode + 2 ^ (f.mb - 1)
/-- Weight of the sign bit. -/
def FFmt.sign (f : FFmt) : Nat := 2 ^ (f.eb + f.mb)

/-- The value of a code (R41). -/
def Fp.of (f : FFmt) (w : Nat) : Fp :=
  let neg := bits w (f.eb + f.mb) 1 = 1
  let e := bits w f.mb f.eb
  let m := bits w 0 f.mb
  if e = 2 ^ f.eb - 1 then (if m = 0 then .inf neg else .nan)
  else if e = 0 then .fin neg m f.emin
  else .fin neg (2 ^ f.mb + m) (f.emin + (e - 1 : Nat))

/-- An integer as an exact value. -/
def Fp.ofInt (i : Int) : Fp := .fin (decide (i < 0)) i.natAbs 0

/-- A fraction n / 2^d rounded to nearest, ties to even (R44). -/
def rne (n d : Nat) : Nat :=
  let q := n / 2 ^ d
  let r := n % 2 ^ d * 2
  if r > 2 ^ d ∨ (r = 2 ^ d ∧ q % 2 = 1) then q + 1 else q

/-- A fraction n / 2^d rounded half away from zero (R58), of a magnitude. -/
def rhaDiv (n d : Nat) : Nat := if d = 0 then n else (n + 2 ^ (d - 1)) / 2 ^ d

/-- The magnitude code of m x 2^e rounded to a format; codes from `infCode` up have overflowed (R44, R51, R52). -/
def roundCode (f : FFmt) (m : Nat) (e : Int) : Nat :=
  if m = 0 then 0
  else
    let len : Int := (Nat.log2 m : Int) + 1
    let q := max f.emin (e + len - (f.mb + 1))
    let n := if q ≤ e then m * 2 ^ (e - q).toNat else rne m (q - e).toNat
    (q - f.emin).toNat * 2 ^ f.mb + n

/-- The code of a value in a format (R44 to R47, R51). -/
def Fp.code (f : FFmt) : Fp → Nat
  | .nan => f.nanCode
  | .inf neg => f.infCode + bit neg * f.sign
  | .fin neg m e => min (roundCode f m e) f.infCode + bit neg * f.sign

/-- A code with -0 written as +0 (R48). -/
def posZero (f : FFmt) (c : Nat) : Nat := if c = f.sign then 0 else c

def Fp.neg : Fp → Fp
  | .nan => .nan
  | .inf n => .inf (!n)
  | .fin n m e => .fin (!n) m e

/-- The signed mantissa. -/
def signedMag (neg : Bool) (m : Nat) : Int := if neg then -(m : Int) else m

/-- Exact sum (R46, R48). -/
def Fp.add : Fp → Fp → Fp
  | .nan, _ | _, .nan => .nan
  | .inf a, .inf b => if a = b then .inf a else .nan
  | .inf a, .fin .. => .inf a
  | .fin .., .inf b => .inf b
  | .fin a m e, .fin b n k =>
    let l := min e k
    let v := signedMag a (m * 2 ^ (e - l).toNat) + signedMag b (n * 2 ^ (k - l).toNat)
    if v = 0 then .fin (a && b && m == 0) 0 l else .fin (decide (v < 0)) v.natAbs l

/-- Exact product (R46). -/
def Fp.mul : Fp → Fp → Fp
  | .nan, _ | _, .nan => .nan
  | .inf a, .inf b => .inf (a != b)
  | .inf a, .fin b n _ => if n = 0 then .nan else .inf (a != b)
  | .fin a m _, .inf b => if m = 0 then .nan else .inf (a != b)
  | .fin a m e, .fin b n k => .fin (a != b) (m * n) (e + k)

/-- Product with a power of two. -/
def Fp.scale (x : Fp) (k : Int) : Fp := match x with | .fin a m e => .fin a m (e + k) | y => y

/-- Quotient with a sticky bit far below any format's precision (R46). -/
def Fp.div : Fp → Fp → Fp
  | .nan, _ | _, .nan => .nan
  | .inf _, .inf _ => .nan
  | .inf a, .fin b _ _ => .inf (a != b)
  | .fin a _ _, .inf b => .fin (a != b) 0 0
  | .fin a m e, .fin b n k =>
    if n = 0 then (if m = 0 then .nan else .inf (a != b))
    else
      let sh := 64 + Nat.log2 n
      let t := m * 2 ^ sh
      .fin (a != b) (t / n * 2 + bit (t % n != 0)) (e - k - sh - 1)

/-- Integer square root, the bits from 2^b down still to be decided. -/
def isqrtFrom (n : Nat) : Nat → Nat → Nat
  | 0, r => r
  | b + 1, r => isqrtFrom n b (if (r + 2 ^ b) * (r + 2 ^ b) ≤ n then r + 2 ^ b else r)

/-- Integer square root. -/
def isqrt (n : Nat) : Nat := isqrtFrom n (Nat.log2 n / 2 + 1) 0

/-- Square root with a sticky bit (R46). -/
def Fp.sqrt : Fp → Fp
  | .nan => .nan
  | .inf neg => if neg then .nan else .inf false
  | .fin neg m e =>
    if m = 0 then .fin neg 0 0
    else if neg then .nan
    else
      let k : Nat := if e % 2 = 0 then 128 else 129
      let t := m * 2 ^ k
      let r := isqrt t
      .fin false (r * 2 + bit (r * r != t)) ((e - k) / 2 - 1)

/-- Whether the first value is below the second; false with a NaN. -/
def Fp.lt : Fp → Fp → Bool
  | .nan, _ | _, .nan => false
  | .inf a, .inf b => a && !b
  | .inf a, .fin .. => a
  | .fin .., .inf b => !b
  | .fin a m e, .fin b n k =>
    let l := min e k
    decide (signedMag a (m * 2 ^ (e - l).toNat) < signedMag b (n * 2 ^ (k - l).toNat))

/-- Maximum and minimum (R49). -/
def Fp.max (x y : Fp) : Fp := if x = .nan ∨ y = .nan then .nan else if x.lt y then y else x
def Fp.min (x y : Fp) : Fp := if x = .nan ∨ y = .nan then .nan else if y.lt x then y else x

/-- Magnitude. -/
def Fp.abs : Fp → Fp
  | .fin _ m e => .fin false m e
  | .inf _ => .inf false
  | .nan => .nan

/-- One rounding to FP32 (R80). -/
def Fp.r32 (x : Fp) : Fp := Fp.of f32 (x.code f32)

/-- The integer nearest to a finite value, half away from zero (R53, R58). -/
def Fp.rha : Fp → Int
  | .fin neg m e => signedMag neg (if 0 ≤ e then m * 2 ^ e.toNat else rhaDiv m (-e).toNat)
  | _ => 0

/-- The statistics a conversion counts in (R57). -/
inductive Cstat where
  | plain | clip | nonfinite | underflow
deriving DecidableEq, Repr

/-- Conversion to an integer format with a zero point (R53, R54, R57, R87, R88). -/
def toInteger (lo hi zp : Int) : Fp → Int × Cstat
  | .nan => (0, .nonfinite)
  | .inf neg => (if neg then lo else hi, .nonfinite)
  | .fin neg m e =>
    let r := Fp.rha (.fin neg m e)
    let y := r + zp
    if y < lo then (lo, .clip) else if hi < y then (hi, .clip)
    else (y, if r = 0 ∧ m ≠ 0 then .underflow else .plain)

/-- Conversion to a floating format, -0 written as +0 (R48, R51, R52, R54, R57). -/
def toFloat (f : FFmt) : Fp → Nat × Cstat
  | .nan => (f.nanCode, .nonfinite)
  | .inf neg => (f.infCode + bit neg * f.sign, .nonfinite)
  | .fin neg m e =>
    let c := roundCode f m e
    (posZero f (Fp.code f (.fin neg m e)),
      if f.infCode ≤ c then .clip else if m ≠ 0 ∧ c < 2 ^ f.mb then .underflow else .plain)

/-- Import of OCP E4M3: the codes 256 to 448 become infinity and count as clip, 0x7F and 0xFF become the canonical NaN
(R42). -/
def importE4m3 (c : Nat) : Nat × Cstat :=
  if bits c 3 4 = 15 then
    if c % 8 = 7 then (0x7C, .nonfinite) else (0x78 + bits c 7 1 * 128, .clip)
  else (c, .plain)

/-! FORMAT codes (spec/03, tensor scaling descriptor); 9 is INT32 (spec/04, MAC frame). -/

/-- Width in bits of a format's elements. -/
def fmtBits (fmt : Nat) : Nat := match fmt with | 0 => 4 | 1 | 3 | 4 => 8 | 2 | 5 | 6 => 16 | _ => 32

/-- The floating format of a code, if it is one. -/
def fmtFloat (fmt : Nat) : Option FFmt :=
  match fmt with | 3 => some e4m3i | 4 => some e5m2 | 5 => some f16 | 6 => some bf16 | 7 => some f32 | _ => none

/-- The largest target magnitude F of R87's table, as mantissa and exponent. -/
def fmtF (fmt : Nat) : Nat :=
  match fmt with | 0 => 7 | 1 => 127 | 2 => 32767 | 3 => 240 | 4 => 57344 | 5 => 65504 | _ => 0

/-- The exact value of an element's code. -/
def elemValue (fmt c : Nat) : Fp :=
  match fmtFloat fmt with
  | some f => Fp.of f c
  | none => Fp.ofInt (signed (fmtBits fmt) c)

/-- Convert a value to a format with exponent `e` and zero point (R87). -/
def convert (fmt : Nat) (e zp : Int) (x : Fp) : Nat × Cstat :=
  match fmtFloat fmt with
  | some f => toFloat f (x.scale (-e))
  | none =>
    let w := fmtBits fmt
    let r := toInteger (-(2 ^ (w - 1) : Nat)) ((2 ^ (w - 1) : Nat) - 1) zp (x.scale (-e))
    (wrapTo w r.1, r.2)

/-- scale_exponent (R94): the least exponent from EMIN up to EMAX that brings A x 2^MARGIN under F, EMAX if none does. -/
def scaleExpFrom (a : Fp) (margin : Nat) (f : Nat) : Nat → Int → Int
  | 0, e => e
  | fuel + 1, e =>
    if (Fp.fin false f e).lt (a.scale margin) then scaleExpFrom a margin f fuel (e + 1) else e

/-- scale_exponent of R94. -/
def scaleExponent (a : Fp) (margin f : Nat) (emin emax : Int) : Int :=
  match a with
  | .fin _ 0 _ => emin
  | _ => scaleExpFrom a margin f (emax - emin).toNat emin

end Sys2Proof.Machine
end

