-- ==== Sys2Proof/Machine/Script.lean ====
section
/-! DEFINITION. The Script profile's exact arithmetic (spec/02, R62 to R73) and the latent quantiser (spec/03, R92, R93). -/

namespace Sys2Proof.Machine

/-- The signed representative modulo 2^w (R65). -/
def wrapS (w : Nat) (v : Int) : Int := (v + (2 ^ (w - 1) : Nat)) % (2 ^ w : Nat) - (2 ^ (w - 1) : Nat)

/-- wrap40 and wrap64 of R65. -/
def wrap40 (v : Int) : Int := wrapS 40 v
def wrap64 (v : Int) : Int := wrapS 64 v

/-- The partial sum of one group (R65). -/
def groupSum (p : List (Int × Int)) : Int := p.foldl (fun a x => wrap40 (a + x.1 * x.2)) 0

/-- script_sum over groups given as products and multiplier (R65). -/
def scriptSum (b : Int) (groups : List (List (Int × Int) × Int)) : Int :=
  groups.foldl (fun a g => wrap64 (a + groupSum g.1 * g.2)) b

/-- A requantisation record (R66; spec/04, requantisation record). -/
structure Requant where
  m : Int
  zp : Int
  lo : Int
  hi : Int
  s : Nat
deriving DecidableEq, Repr

/-- A record of 32 bytes: M, ZP, LO, HI, S (spec/04, requantisation record). -/
def requantOf (l : List Byte) : Requant :=
  { m := signed 32 (leAt l 0 4), zp := signed 32 (leAt l 4 4), lo := signed 32 (leAt l 8 4), hi := signed 32 (leAt l 12 4), s := bits (leAt l 16 1) 0 6 }

/-- Division by 2^s rounded half away from zero (R66). -/
def shiftHalfAway (t : Int) (s : Nat) : Int :=
  if s = 0 then t
  else if 0 ≤ t then (t + (2 ^ (s - 1) : Nat)) / (2 ^ s : Nat) else -((-t + (2 ^ (s - 1) : Nat)) / (2 ^ s : Nat))

/-- requantise (R66) with its statistic (R57, R88). -/
def requantise (acc : Int) (r : Requant) : Int × Cstat :=
  let t := acc * r.m
  let q := shiftHalfAway t r.s
  let y := q + r.zp
  if y < r.lo then (r.lo, .clip) else if r.hi < y then (r.hi, .clip)
  else (y, if q = 0 ∧ t ≠ 0 then .underflow else .plain)

/-- Elementwise sum and product before requantisation (R67). -/
def scriptAdd (a b za zb ka kb : Int) : Int := wrap64 ((a - za) * ka + (b - zb) * kb)
def scriptMul (a b za zb : Int) : Int := wrap64 ((a - za) * (b - zb))

/-- Bucket: the count of thresholds at or below x (R69). -/
def bucket (t : List Int) (x : Int) : Nat := (t.filter (fun v => decide (v ≤ x))).length

/-- Thresholds in non-decreasing order (R69). -/
def ascending : List Int → Bool
  | a :: b :: t => decide (a ≤ b) && ascending (b :: t)
  | _ => true

/-- table_lookup (R70). -/
def tableLookup (t : Nat → Int) (x : Int) : Int :=
  let u := (x + 32768).toNat
  let i := u / 128
  t i + shiftHalfAway ((t (i + 1) - t i) * (u % 128 : Nat)) 7

/-- The weighting and rounding of a warp on its four taps, in the order of R72. -/
def warpTaps (ax ay : Nat) (p00 p01 p10 p11 : Int) : Int :=
  shiftHalfAway (((16 - ax) * (16 - ay) : Nat) * p00 + (ax * (16 - ay) : Nat) * p01 + ((16 - ax) * ay : Nat) * p10 + (ax * ay : Nat) * p11) 8

/-- Clamp of a coordinate (R72). -/
def clampInt (x lo hi : Int) : Int := if x < lo then lo else if hi < x then hi else x

/-- warp (R72): the plane as a function of row and column. -/
def warp (plane : Nat → Nat → Int) (w h : Nat) (fx fy : Int) (x y : Nat) : Int :=
  let xx := 16 * (x : Int) + fx
  let yy := 16 * (y : Int) + fy
  let c (v : Int) (n : Nat) : Nat := (clampInt v 0 (n - 1)).toNat
  warpTaps (xx % 16).toNat (yy % 16).toNat (plane (c (yy / 16) h) (c (xx / 16) w)) (plane (c (yy / 16) h) (c (xx / 16 + 1) w))
    (plane (c (yy / 16 + 1) h) (c (xx / 16) w)) (plane (c (yy / 16 + 1) h) (c (xx / 16 + 1) w))

/-- The latent quantiser: q, the reconstruction and the statistic (R56, R92, R93). -/
def qlat (y : Fp) (mu : Int) : Int × Int × Cstat :=
  let r := toInteger (-127) 127 0 (y.add (Fp.ofInt (-mu)))
  (r.1, mu + r.1, r.2)

end Sys2Proof.Machine
end

