-- ==== Sys2Proof/Machine/Scaling.lean ====
section
/-! DEFINITION. Tensor scaling descriptors, delayed scaling and statistics (spec/03, R83 to R107). -/

namespace Sys2Proof.Machine

/-- The descriptor of a tensor in a package (spec/03, tensor scaling descriptor). -/
def descOf (k : Package) (tid : Nat) : Option (List Byte) := k.tensors.find? (fun d => leAt d 0 2 == tid)

/-- Fields of a descriptor. -/
def dFormat (d : List Byte) : Nat := bits (leAt d 2 1) 0 4
def dGrain (d : List Byte) : Nat := bits (leAt d 2 1) 4 4
def dMode (d : List Byte) : Nat := bits (leAt d 3 1) 0 2
def dMargin (d : List Byte) : Nat := bits (leAt d 3 1) 2 3
def dEmin (d : List Byte) : Int := signed 8 (leAt d 4 1)
def dEmax (d : List Byte) : Int := signed 8 (leAt d 5 1)
def dShrink (d : List Byte) : Nat := bits (leAt d 6 1) 0 5
def dWatch (d : List Byte) : Bool := bits (leAt d 6 1) 5 1 == 1
def dStatic (d : List Byte) : Int := signed 8 (leAt d 7 1)
def dCal (d : List Byte) : Nat := leAt d 8 4
def dZp (d : List Byte) : Int := signed 16 (leAt d 12 2)

/-- The size G of a grain (spec/03, R83). -/
def grainG (g : Nat) : Nat := match g with | 1 => 32 | 2 => 64 | 3 => 128 | _ => 0

/-- The conditions of R101 on one descriptor. -/
def descOk (d : List Byte) : Bool :=
  let fmt := dFormat d; let mode := dMode d; let g := dGrain d; let zp := dZp d
  let isF := (fmtFloat fmt).isSome
  d.length == 16 && decide (leAt d 0 2 ≤ 0xFFFE) && decide (fmt ≤ 7) && decide (g ≤ 4) && bits (leAt d 3 1) 5 3 == 0 && bits (leAt d 6 1) 6 2 == 0 &&
    leAt d 14 2 == 0 && ((mode == 0) == (fmt == 6 || fmt == 7)) && (mode != 2 || g == 0) && (mode != 3 || decide (1 ≤ g)) &&
    decide (dEmin d ≤ dEmax d ∧ -126 ≤ dEmin d ∧ dEmax d ≤ 127) && decide (dCal d < f32.infCode) &&
    (if isF then decide (zp = 0) else decide (-(2 ^ (fmtBits fmt - 1) : Nat) ≤ zp ∧ zp < (2 ^ (fmtBits fmt - 1) : Nat)))

/-- R101 over a package. -/
def descsOk (k : Package) : Bool := k.tensors.all descOk && decide ((k.tensors.filter dWatch).length ≤ 32)

/-- The maximum of a history (R94). -/
def histMax (h : Hist) : Nat := h.h.foldl max 0

/-- The exponent that scale_exponent gives a delayed tensor from its history (R94). -/
def histExp (d : List Byte) (h : Hist) : Int := scaleExponent (Fp.of f32 (histMax h)) (dMargin d) (fmtF (dFormat d)) (dEmin d) (dEmax d)

/-- The exponent a tensor is written with: static, delayed or none (R87, R94); `ch` is the channel for grouped static scales. An exponent
byte of a package is used as it stands, those outside the range of R86 too, which no rule checks (DESIGN CHOICE, log entry 167). -/
def tensorExp (k : Package) (c : Codec) (tid ch : Nat) : Int :=
  match descOf k tid with
  | none => 0
  | some d => match dMode d with
    | 1 =>
      if dGrain d = 0 then dStatic d
      else
        let i := if dGrain d = 4 then ch else ch / grainG (dGrain d)
        match k.exps.find? (fun e => e.1 == tid) with
        | some e => signed 8 (e.2.getD i 0).toNat
        | none => dStatic d
    | 2 => match tget? c.hist tid with
      | some h => histExp d h
      | none => 0
    | _ => 0

/-- The zero point of a tensor. -/
def tensorZp (k : Package) (tid : Nat) : Int := match descOf k tid with | some d => dZp d | none => 0

/-- The end of a step of a delayed tensor (R94). -/
def histStep (d : List Byte) (h : Hist) : Hist :=
  let m := h.amax.getD 0
  let a := Fp.of f32 m
  if dShrink d ≠ 0 ∧ (a.scale (dShrink d)).lt (Fp.of f32 (histMax h)) then { h := List.replicate 16 m, n := h.n + 1, prev := histExp d h }
  else { h := h.h.set (h.n % 16) m, n := h.n + 1, prev := histExp d h }

/-- Every delayed tensor that the step has written ends it (R94, R95). -/
def endStep (k : Package) (c : Codec) : Codec :=
  { c with hist := c.hist.map (fun e => match descOf k e.1 with | some d => if e.2.amax.isSome then (e.1, histStep d e.2) else e | none => e) }

/-- The maxima of a step that a job ends by itself enter the histories (R95): a fine-tuning step or a rehearsal iteration. -/
def markStep (k : Package) (l : Tbl (Nat × Bool)) (c : Codec) : Codec :=
  { c with hist := c.hist.map (fun e => match descOf k e.1, tget? l e.1 with | some d, some t => (e.1, histStep d { e.2 with amax := some t.1 }) | _, _ => e) }

/-- The histories of a package at its load (R97). -/
def freshHist (k : Package) : Tbl Hist :=
  (k.tensors.filter (fun d => dMode d == 2)).foldl (fun t d => tput t (leAt d 0 2) { h := List.replicate 16 (dCal d) }) []

/-- A 32-bit count that stays at its maximum (R103). -/
def sat32 (n : Nat) : Nat := min n (2 ^ 32 - 1)

/-- The magnitude of a source value as an FP32 code, 0 for one that is not finite (R95). -/
def magCode (x : Fp) : Nat := match x with | .fin _ m e => min (roundCode f32 m e) (f32.infCode - 1) | _ => 0

/-- Count a converted element: its source value and what the conversion counts (R95, R102). TOTAL goes on from 0 past 2^64 - 1, which
R103 does not say (DESIGN CHOICE, log entry 168). -/
def TStat.add (t : TStat) (x : Fp) (st : Cstat) : TStat :=
  { t with total := (t.total + 1) % 2 ^ 64, clip := sat32 (t.clip + bit (st == .clip)), nonfin := sat32 (t.nonfin + bit (st == .nonfinite)), under := sat32 (t.under + bit (st == .underflow)), amax := max t.amax (magCode x) }

/-- Join two attempts' statistics, the later one second. -/
def TStat.join (a b : TStat) : TStat :=
  { total := (a.total + b.total) % 2 ^ 64, clip := sat32 (a.clip + b.clip), nonfin := sat32 (a.nonfin + b.nonfin), under := sat32 (a.under + b.under), amax := max a.amax b.amax, exp := b.exp.orElse (fun _ => a.exp) }

/-- Two tables of statistics joined. -/
def joinTables (a b : Tbl TStat) : Tbl TStat := b.foldl (fun t e => tput t e.1 ((tget t {} e.1).join e.2)) a

/-- Join what two parts of a step wrote of a tensor. -/
def joinMark (a b : Nat × Bool) : Nat × Bool := (max a.1 b.1, a.2 || b.2)

/-- What converted elements leave in the maxima of a step (R95, R110): an element is coded as infinite or NaN where its source is, or
where it overflows. -/
def markOf (l : List (Fp × Cstat)) : Nat × Bool :=
  l.foldl (fun a x => joinMark a (magCode x.1, x.2 == .nonfinite || x.2 == .clip)) (0, false)

/-- SCALE_EXP of a statistics record (spec/03, statistics records). -/
def statExp (k : Package) (c : Codec) (tid : Nat) : Nat :=
  match descOf k tid with
  | some d => if dMode d = 2 ∨ (dMode d = 1 ∧ dGrain d = 0) then wrapTo 8 (tensorExp k c tid 0) else 0x80
  | none => 0x80

/-- The coding state that a job computes with: one whose maxima have joined the channel's histories keeps those of its first dispatch
(R96, R98). -/
def State.codecFor (s : State) (j : Job) : Codec :=
  let c := (s.chan j.chan).codec
  if j.joined then { c with hist := (j.saved.getD c).hist } else c

/-- A job has written elements of a tensor (R95, R96). -/
def Job.mark (j : Job) (tid : Nat) (l : List (Fp × Cstat)) : Job :=
  if l.isEmpty then j else { j with marks := tput j.marks tid (joinMark (tget j.marks (0, false) tid) (markOf l)) }

/-- The statistics of a job with converted elements of a tensor counted. -/
def Job.count (j : Job) (tid e : Nat) (l : List (Fp × Cstat)) : Job :=
  { j with stats := tput j.stats tid { (l.foldl (fun a x => a.add x.1 x.2) (tget j.stats {} tid)) with exp := some e } }

/-- Converted elements of a tensor of a job: they enter its step's maxima, and its statistics where `count` says so. -/
def countJob (id tid : Nat) (count : Bool) (l : List (Fp × Cstat)) (s : State) : State :=
  match tget? s.jobs id with
  | none => s
  | some j =>
    let e := statExp (j.pkg.getD {}) (s.codecFor j) tid
    { s with jobs := tput s.jobs id (if count then (j.mark tid l).count tid e l else j.mark tid l) }

/-- The same for the job on a player. -/
def countStats (p tid : Nat) (count : Bool) (l : List (Fp × Cstat)) (s : State) : State :=
  match (s.ply p).job with | none => s | some id => countJob id tid count l s

/-- Converted elements that count with a tensor of the job on a player and are not of it. -/
def countOnly (p tid : Nat) (l : List (Fp × Cstat)) (s : State) : State :=
  match (s.ply p).job with
  | none => s
  | some id => match tget? s.jobs id with
    | none => s
    | some j => { s with jobs := tput s.jobs id (j.count tid (statExp (j.pkg.getD {}) (s.codecFor j) tid) l) }

/-- A step of a fine-tuning job or a rehearsal iteration ends (R95, R109, R110): its maxima enter the histories, and t advances unless its
update was suppressed. -/
def adamEnd (k : Package) (j : Job) (c : Codec) : Codec :=
  let d := markStep k j.marks c
  { d with adamT := if j.update = 1 then d.adamT + 1 else d.adamT }

/-- The job after such a step. -/
def Job.nextStep (j : Job) : Job := { j with marks := [], update := 0, updated := j.updated || j.update == 1 }

/-- A job's maxima join those of its channel's step (R95); a job that has joined before, and is retried, adds nothing. -/
def joinMarks (j : Job) (c : Codec) : Codec :=
  if j.joined then c
  else { c with hist := c.hist.map (fun e => match tget? j.marks e.1 with | some t => (e.1, { e.2 with amax := some (max (e.2.amax.getD 0) t.1) }) | none => e) }

/-- A completed unit's statistics join the channel's interval (R104). -/
def joinStats (j : Job) (c : Codec) : Codec :=
  { c with stats := joinTables c.stats j.stats, skipped := c.skipped || j.skipped }

/-! The statistics area (R104 to R107) -/

/-- Fields of a statistics control block. -/
def sbClip (b : List Byte) : Nat := leAt b 0 2
def sbUnder (b : List Byte) : Nat := leAt b 2 2
def sbNonfin (b : List Byte) : Nat := leAt b 4 4
def sbBase (b : List Byte) : Nat := leAt b 8 8
def sbSkip (b : List Byte) : Bool := bits (leAt b 0x10 1) 0 1 == 1

/-- The checks of R105 on one tensor: clip share, nonfinite, underflow share. -/
def statChecks (b : List Byte) (t : TStat) : Bool × Bool × Bool :=
  (sbClip b != 0 && decide (sbClip b * t.total < t.clip * 65536), decide (sbNonfin b < t.nonfin),
   sbUnder b != 0 && decide (sbUnder b * t.total < t.under * 65536))

/-- The rows of the statistics area: the watched tensors in ascending TENSOR_ID, then the aggregate of the others
(R105, R107). -/
def statRows (k : Package) (c : Codec) : List (Nat × TStat) :=
  let watched := ((k.tensors.filter dWatch).map (fun d => leAt d 0 2)).mergeSort (fun a b => decide (a ≤ b))
  let rest := { (c.stats.filter (fun e => !watched.contains e.1)).foldl (fun a e => a.join e.2) ({} : TStat) with exp := none }
  watched.map (fun w => (w, tget c.stats {} w)) ++ [(0xFFFF, rest)]

/-- The code the checks of an interval give, 0 for none (R106, R111). -/
def statCode (k : Package) (c : Codec) : Nat :=
  let l := (statRows k c).map (fun r => statChecks c.stat r.2)
  if l.any (·.2.1) then Code.W_NONFINITE else if l.any (·.1) then Code.W_CLIP_SHARE else if l.any (·.2.2) then Code.W_UNDERFLOW_SHARE
  else if c.skipped then Code.I_STEP_SKIPPED else 0

/-- A statistics record of 32 bytes (spec/03). -/
def statRecord (k : Package) (c : Codec) (seq : Nat) (r : Nat × TStat) : List Byte :=
  let x := statChecks c.stat r.2
  let t := r.2
  let top := 2 ^ 32 - 1
  leBytes 4 seq ++ leBytes 2 r.1 ++
    leBytes 1 (1 + bit x.1 * 2 + bit x.2.1 * 4 + bit x.2.2 * 8 + bit (t.clip == top || t.nonfin == top || t.under == top) * 16 + bit c.skipped * 32) ++
    leBytes 1 (t.exp.getD (statExp k c r.1)) ++ leBytes 8 t.total ++ leBytes 4 t.clip ++ leBytes 4 t.nonfin ++ leBytes 4 t.under ++ leBytes 4 t.amax

/-- The bank of the statistics area that the records of an interval go into (R107), none where the channel writes no records. -/
def State.statBank (s : State) (i seq : Nat) : Option (Package × Nat) :=
  match (s.chan i).pkg with
  | some k => let base := sbBase (s.chan i).codec.stat; if base = 0 then none else some (k, base + 1056 * (seq % 2))
  | none => none

/-- The first page of that bank that does not translate for a write (R671). -/
def State.statBad (s : State) (i seq : Nat) : Option (Nat × Walk) := (s.statBank i seq).bind (fun x => s.firstBad i x.2 1056 true)

/-- VALID clears in the whole bank (R107). -/
def clearValid (i bank : Nat) (s : State) : State :=
  (List.range 33).foldl (fun a n => writeVa i (bank + 32 * n + 6) (leBytes 1 (bits (leNat (readVa a i (bank + 32 * n + 6) 1 [])) 1 7 * 2)) .none 2 a) s

/-- The records of an interval written into bank SEQ mod 2: VALID clears in the whole bank, then the rows come, the watched tensors
at 0 up and the aggregate at 32 (R107); none is marked VALID where a page of the bank fails (R671). -/
def writeStats (i seq : Nat) (s : State) : State :=
  match s.statBank i seq with
  | none => s
  | some (k, bank) =>
    let t := clearValid i bank s
    if (s.statBad i seq).isSome then t
    else
      let c := (s.chan i).codec
      (statRows k c).zipIdx.foldl (fun a r => writeVa i (bank + 32 * (if r.1.1 = 0xFFFF then 32 else r.2)) (statRecord k c seq r.1) .none 3 a) t

/-- A statistics interval closes (R104): the block that STATS_SET left comes into force. -/
def closeInterval (i : Nat) (s : State) : State :=
  modChan i (fun x => { x with codec := { x.codec with stats := [], skipped := false, stat := x.codec.statNext.getD x.codec.stat, statNext := none } }) s

end Sys2Proof.Machine
end

