-- ==== Sys2Proof/Machine/Rans.lean ====
section
/-! DEFINITION. Coding tables, the rANS coder and CRC-32C (spec/07, R262; spec/08, R290 to R302). -/

namespace Sys2Proof.Machine

/-- One bit of CRC-32C, reflected (R262). -/
def crcBit (c : BitVec 32) : BitVec 32 := if c.toNat % 2 = 1 then (c >>> 1) ^^^ 0x82F63B78#32 else c >>> 1

/-- CRC-32C of a byte string (R262). -/
def crc32c (l : List Byte) : Nat :=
  ((l.foldl (fun (c : BitVec 32) b => (List.range 8).foldl (fun a _ => crcBit a) (c ^^^ b.setWidth 32)) 0xFFFFFFFF#32) ^^^ 0xFFFFFFFF#32).toNat

/-- Entry k of a coding table at an offset of a table block (R290); C[255] stands for 65,536. -/
def tabC (t : List Byte) (off k : Nat) : Nat := if k = 255 then 65536 else leAt t (off + 2 * k) 2

/-- The (start, freq) pair of symbol v (R290). -/
def tabPair (t : List Byte) (off : Nat) (v : Int) : Nat × Nat :=
  let k := (v + 127).toNat
  (tabC t off k, tabC t off (k + 1) - tabC t off k)

/-- The symbol of a table at a slot (R299). -/
def tabSym (t : List Byte) (off slot : Nat) : Int := (((List.range 254).filter (fun k => decide (tabC t off (k + 1) ≤ slot))).length : Int) - 127

/-- The check of R291 on one table: 0, or KIND and ENTRY of PTB_FAULT. -/
def tabCheck (t : List Byte) (off : Nat) : Option (Nat × Nat) :=
  if tabC t off 0 ≠ 0 then some (1, 0)
  else ((List.range 254).find? (fun k => decide (tabC t off (k + 1) ≤ tabC t off k))).map (fun k => (2, k + 1))

/-- The first table of a block that fails, of `n` tables (R291). -/
def blockCheck (t : List Byte) (n : Nat) : Option (Nat × Nat × Nat) :=
  (List.range n).findSome? (fun i => (tabCheck t (512 * i)).map (fun x => (i, x.1, x.2)))

/-- Offsets of the latent tables, the hyperlatent tables and QOFF of a coding table block (R291). -/
def latTab (g t : Nat) : Nat := 512 * (64 * g + t)
def hypTab (c : Nat) : Nat := 0x20000 + 512 * c
def qoff (t : List Byte) (g l : Nat) : Int := signed 8 (leAt t (0x30000 + 8 * g + l) 1)

/-- The table index of a latent element and whether it was clamped (R293). -/
def latIndex (t : List Byte) (g ql s : Nat) : Nat × Bool :=
  let v := (s : Int) + qoff t g ql
  ((clampInt v 0 63).toNat, decide (v ≠ clampInt v 0 63))

/-- The pair of a bypass symbol of n bits (R295). -/
def bypass (n v : Nat) : Nat × Nat := (v * 2 ^ (16 - n), 2 ^ (16 - n))

/-- One step of R298, from the last symbol to the first: lane states and words, front first. -/
def ransStep (a : List Nat × List Nat) (e : Nat × (Nat × Nat)) : List Nat × List Nat :=
  let j := e.1 % 8
  let x := a.1.getD j 0
  let f := e.2.2
  let y := if f * 65536 ≤ x then x / 65536 else x
  let w := if f * 65536 ≤ x then x % 65536 :: a.2 else a.2
  (a.1.set j (y / f * 65536 + y % f + e.2.1), w)

/-- The substream of a list of (start, freq) pairs (R298). -/
def ransEncode (l : List (Nat × Nat)) : List Byte :=
  let r := ((l.zipIdx.map (fun x => (x.2, x.1))).reverse).foldl ransStep (List.replicate 8 65536, [])
  r.1.flatMap (beBytes 4) ++ r.2.flatMap (beBytes 2)

/-- A decoder of one substream (R299, R302): lane states, the number of the next symbol, the bytes not yet read, the overrun
flag, the words read. -/
structure Rans where
  x : List Nat
  i : Nat := 0
  data : List Byte := []
  past : Bool := false
  words : Nat := 0
deriving DecidableEq, Repr

/-- Open a substream; none where R301 rejects it. -/
def ransOpen (l : List Byte) : Option Rans :=
  let x := (List.range 8).map (fun j => beNat ((l.drop (4 * j)).take 4))
  if l.length < 32 ∨ l.length % 2 = 1 ∨ x.any (fun v => decide (v < 65536)) then none else some { x, data := l.drop 32 }

/-- Take a symbol whose interval is known (R299, R302). -/
def Rans.take (r : Rans) (p : Nat × Nat) : Rans :=
  let j := r.i % 8
  let v := r.x.getD j 0
  let y := p.2 * (v / 65536) + v % 65536 - p.1
  if y < 65536 then
    match r.data with
    | a :: b :: t => { r with x := r.x.set j (y * 65536 + a.toNat * 256 + b.toNat), i := r.i + 1, data := t, words := r.words + 1 }
    | _ => { r with x := r.x.set j (y * 65536), i := r.i + 1, data := [], past := true }
  else { r with x := r.x.set j y, i := r.i + 1 }

/-- The slot of the next symbol. -/
def Rans.slot (r : Rans) : Nat := r.x.getD (r.i % 8) 0 % 65536

/-- The next symbol of a coding table. -/
def Rans.sym (r : Rans) (t : List Byte) (off : Nat) : Int × Rans := let v := tabSym t off r.slot; (v, r.take (tabPair t off v))

/-- The next bypass symbol of n bits. -/
def Rans.byp (r : Rans) (n : Nat) : Nat × Rans := let v := r.slot / 2 ^ (16 - n); (v, r.take (bypass n v))

/-- The end condition (R300). -/
def Rans.ended (r : Rans) : Bool := r.x.all (· == 65536) && r.data.isEmpty && !r.past

end Sys2Proof.Machine
end

