-- ==== Sys2Proof/Machine/Headers.lean ====
section
/-! DEFINITION. Segments, stuffing and headers of a Thardax stream (spec/07, R242 to R283), bind records and the geometry of
pictures (spec/09, spec/10). -/

namespace Sys2Proof.Machine

/-- Bits of a header, most significant first (R8, R249). -/
def hBits (l : List Byte) (pos w : Nat) : Nat := bits (beNat l) (8 * l.length - pos - w) w

/-- A header from fields of given widths, most significant first. -/
def hMake (f : List (Nat × Nat)) : List Byte :=
  let r := f.foldl (fun (a : Nat × Nat) x => (a.1 * 2 ^ x.1 + x.2 % 2 ^ x.1, a.2 + x.1)) (0, 0)
  beBytes (r.2 / 8) r.1

/-- Stuffing (R244). -/
def stuff : List Byte → List Byte
  | [] => []
  | b :: t => if b = 0xFF then b :: 0 :: stuff t else b :: stuff t

/-- The bytes of a body without its stuffing (R244). -/
def unstuff : List Byte → List Byte
  | [] => []
  | [b] => [b]
  | b :: c :: t => if b = 0xFF then b :: unstuff t else b :: unstuff (c :: t)

/-- A segment as it stands on the wire (R242 to R244). -/
def segment (code : Nat) (body : List Byte) : List Byte := [0xFF, BitVec.ofNat 8 code] ++ stuff body

/-! Sequence header (R254, R257) -/

def seqW (h : List Byte) : Nat := hBits h 152 16
def seqH (h : List Byte) : Nat := hBits h 168 16
def seqChroma (h : List Byte) : Nat := hBits h 184 2
def seqDepth (h : List Byte) : Nat := hBits h 186 2
def seqScale (h : List Byte) : Nat := hBits h 216 32
def seqDur (h : List Byte) : Nat := hBits h 248 32
def seqAud (h : List Byte) : Nat := hBits h 280 5
def seqModel (h : List Byte) : Nat := hBits h 24 128
def seqBC (h : List Byte) : Nat := (seqW h + 15) / 16
def seqBR (h : List Byte) : Nat := (seqH h + 15) / 16
def seqHC (h : List Byte) : Nat := (seqBC h + 3) / 4
/-- Bits and bytes of a sample (R369, R383). -/
def seqBitDepth (h : List Byte) : Nat := 8 + 2 * seqDepth h
def seqB (h : List Byte) : Nat := if seqDepth h = 0 then 1 else 2
def seqGrey (h : List Byte) : Nat := 2 ^ (seqBitDepth h - 1)

/-- The fields of R254 lie in their ranges. -/
def seqRanges (h : List Byte) : Bool :=
  hBits h 16 8 == 1 && decide (64 ≤ seqW h ∧ seqW h ≤ 8192) && decide (64 ≤ seqH h ∧ seqH h ≤ 4352) && decide (seqChroma h ≤ 2) && decide (seqDepth h ≤ 2) &&
    decide (1 ≤ seqScale h) && decide (seqAud h ≤ 16)

/-- The SEQ_HDR of CH_BIND (R320, R400, R455). -/
def bindSeqOk (h : List Byte) : Bool :=
  h.length == 36 && hBits h 0 16 == 36 && seqModel h == 0 && hBits h 189 3 == 0 && hBits h 285 3 == 0 && seqRanges h

/-- The fields of a sequence header that steer decoding (R247, R248, R254, R257): WIDTH, HEIGHT, CHROMA, BIT_DEPTH. -/
def seqGeo (h : List Byte) : Nat × Nat × Nat × Nat := (seqW h, seqH h, seqChroma h, seqDepth h)

/-- A sequence header with the model identity filled in. -/
def fillModel (h : List Byte) (id : Nat) : List Byte := h.take 3 ++ beBytes 16 id ++ h.drop 19

/-- Width and height of a plane (R369). -/
def planeW (h : List Byte) (p : Nat) : Nat := if p = 0 ∨ seqChroma h = 2 then seqW h else (seqW h + 1) / 2
def planeH (h : List Byte) (p : Nat) : Nat := if p = 0 ∨ seqChroma h ≠ 0 then seqH h else (seqH h + 1) / 2
/-- Pitch of a plane and bytes of a picture at a luma pitch (R369). -/
def planePitch (h : List Byte) (pitch p : Nat) : Nat := if p = 0 ∨ seqChroma h = 2 then pitch else pitch / 2
def picBytes (h : List Byte) (pitch : Nat) : Nat := upDiv (pitch * seqH h + 2 * planePitch h pitch 1 * planeH h 1) 4096 * 4096
/-- Where a plane begins in a buffer (R369). -/
def planeAt (h : List Byte) (pitch p : Nat) : Nat :=
  match p with | 0 => 0 | 1 => pitch * seqH h | _ => pitch * seqH h + planePitch h pitch 1 * planeH h 1
/-- Lines of a block row in a plane: their number and the first (R376, R423). -/
def rowLines (h : List Byte) (p x : Nat) : Nat :=
  let n := if planeH h p = seqH h then 16 else 8
  min (planeH h p) (n * (x + 1)) - min (planeH h p) (n * x)
def rowFirst (h : List Byte) (p x : Nat) : Nat := min (planeH h p) ((if planeH h p = seqH h then 16 else 8) * x)

/-- Whether a ring of pictures fits its bytes (R371, R670). -/
def ringFits (h : List Byte) (pitch slots bytes : Nat) : Bool :=
  decide (seqW h * seqB h ≤ pitch) && decide (planeW h 1 * seqB h ≤ planePitch h pitch 1) && decide (slots * picBytes h pitch ≤ bytes)

/-! Picture, slice, audio and adapter headers (R258, R262, R273, R276) -/

def picCount (h : List Byte) : Nat := hBits h 16 32
def picPts (h : List Byte) : Nat := hBits h 48 48
def picPred (h : List Byte) : Bool := hBits h 96 1 == 1
def picRefresh (h : List Byte) : Bool := hBits h 97 1 == 1
def picNref (h : List Byte) : Nat := hBits h 98 2
def picRefs (h : List Byte) : List Nat := ([hBits h 100 3, hBits h 103 3]).take (picNref h)
def picStore (h : List Byte) : Bool := hBits h 106 1 == 1
def picSlot (h : List Byte) : Nat := hBits h 107 3
def picQlRow (h : List Byte) : Bool := hBits h 110 1 == 1
def picQl (h : List Byte) : Nat := hBits h 111 3
def picSliceRows (h : List Byte) : Nat := hBits h 120 8
def picSlices (h : List Byte) : Nat := hBits h 128 16
def picAdp (h : List Byte) : Nat := hBits h 144 16

/-- The ranges and relations of R258. -/
def picOk (q h : List Byte) : Bool :=
  let pred := picPred h
  let n := picNref h
  (!pred || !picRefresh h) && (if pred then decide (1 ≤ n ∧ n ≤ 2) else n == 0) && (n != 0 || hBits h 100 3 == 0) &&
    (if n = 2 then hBits h 100 3 != hBits h 103 3 else hBits h 103 3 == 0) && (picStore h || picSlot h == 0) && decide (1 ≤ picSliceRows h) &&
    picSlices h == (seqBR q + picSliceRows h - 1) / picSliceRows h

/-- A PIC header (R258). -/
def mkPic (count pts : Nat) (pred : Bool) (refs : List Nat) (slot : Nat) (qlRow : Bool) (ql rows n adp : Nat) : List Byte :=
  hMake [(16, 20), (32, count), (48, pts), (1, bit pred), (1, bit (!pred)), (2, refs.length), (3, refs.getD 0 0), (3, refs.getD 1 0), (1, 1), (3, slot),
    (1, bit qlRow), (3, ql), (6, 0), (8, rows), (16, n), (16, adp)]

/-- An SLC body (R262). -/
def mkSlc (count index first rows : Nat) (side main : List Byte) : List Byte :=
  hMake [(16, 22), (16, count), (16, index), (16, first), (8, rows), (8, 0), (32, side.length), (32, main.length), (32, crc32c (side ++ main))] ++ side ++ main

/-- An AUD body (R273). -/
def mkAud (frame pts nch : Nat) (data : List Byte) : List Byte :=
  hMake [(16, 22), (32, frame), (48, pts), (5, nch), (11, 0), (32, data.length), (32, crc32c data)] ++ data

/-- An ADP body (R276). -/
def mkAdp (x : AdpSet) : List Byte :=
  hMake [(16, 26), (16, x.id), (8, x.nlayer), (8, 0), (32, x.pay.length), (128, beNat (Config.shake256 x.pay 16))] ++ x.pay

/-- The Script block of a package: every Script constant is in it (R61, R255). -/
def scriptBlock (k : Package) : List Byte := Config.scriptBytes (k.script, k.tables, k.audTables, k.requants, k.buckets, k.meanClamps, (k.meanRq, k.synRq, k.scaleBucket, k.audBucket))

/-- The identity of a package (R255). -/
def modelId (k : Package) : Nat := beNat (Config.shake256 (scriptBlock k) 16)

/-! Bind records (spec/09, spec/10) -/

/-- A byte and a little-endian field of a record. -/
def rec8 (r : List Byte) (off lo w : Nat) : Nat := bits (leAt r off 1) lo w

def enSliceRows (r : List Byte) : Nat := leAt r 0 1
def enRc (r : List Byte) : Nat := rec8 r 1 0 2
def enQlInit (r : List Byte) : Nat := rec8 r 1 2 3
def enQlMin (r : List Byte) : Nat := rec8 r 2 0 3
def enQlMax (r : List Byte) : Nat := rec8 r 2 3 3
def enReh (r : List Byte) : Nat := rec8 r 3 0 3
def enNref2 (r : List Byte) : Bool := rec8 r 3 3 1 == 1
def enRepeat (r : List Byte) : Bool := rec8 r 3 4 1 == 1
def enRate (r : List Byte) : Nat := leAt r 4 4
def enBuf (r : List Byte) : Nat := leAt r 8 4
def enInit (r : List Byte) : Nat := leAt r 0xC 4
def enTarget (r : List Byte) : Nat := leAt r 0x10 4
def enLambda (r : List Byte) : Nat := leAt r 0x14 4
def enPeriod (r : List Byte) : Nat := leAt r 0x18 2
def enRank (r : List Byte) : Nat := rec8 r 0x1A 0 5
def enSteps (r : List Byte) : Nat := rec8 r 0x1B 0 6
def enAdEns (r : List Byte) : Nat := leAt r 0x1C 1
/-- Slices of a picture (R258), SLICE_FIXED and PIC_MIN (R336), D_n (R334). -/
def enSlices (r h : List Byte) : Nat := (seqBR h + enSliceRows r - 1) / enSliceRows r
def sliceFixed : Nat := 1392
def picMin (r h : List Byte) : Nat := 928 + enSlices r h * sliceFixed + 48 * seqBR h
def houseD (r h : List Byte) (n : Nat) : Nat :=
  let x := enRate r * 1000 * seqDur h
  (n + 1) * x / seqScale h - n * x / seqScale h
/-- Largest symbols of a slice (R309): a row carries QL outside RC_MODE 2 alone (R330). -/
def sliceSyms (r h : List Byte) : Nat :=
  let n := min (enSliceRows r) (seqBR h)
  n * (2 + bit (enRc r != 2) + seqBC h * 192) + (n + 3) / 4 * (seqHC h * 128) + n * 2

def deConceal (r : List Byte) : Nat := rec8 r 0 0 2
def deMode (r : List Byte) : Nat := rec8 r 0 2 2
def deDeliver (r : List Byte) : Bool := rec8 r 0 4 1 == 1
def deSlots (r : List Byte) : Nat := leAt r 1 1
def dePitch (r : List Byte) : Nat := leAt r 4 4
def deBase (r : List Byte) : Nat := leAt r 8 8
def deInfo (r : List Byte) : Nat := leAt r 0x10 8
def deBytes (r : List Byte) : Nat := leAt r 0x18 8
def deMux (r : List Byte) : Nat := leAt r 0x20 4

def nhSr (r : List Byte) : Nat := rec8 r 0 0 3
def nhSharp (r : List Byte) : Bool := rec8 r 0 3 1 == 1
def nhInterp (r : List Byte) : Nat := rec8 r 0 4 3
def nhMode (r : List Byte) : Nat := rec8 r 1 0 2
def nhGain (r : List Byte) : Nat := leAt r 4 4
def nhCut (r : List Byte) : Nat := leAt r 8 4
def nhW (r : List Byte) : Nat := leAt r 0xC 2
def nhH (r : List Byte) : Nat := leAt r 0xE 2
def nhScale (r : List Byte) : Nat := leAt r 0x10 4
def nhPeriod (r : List Byte) : Nat := leAt r 0x14 4
def nhNext (r : List Byte) : Nat := leAt r 0x18 4

def auNch (r : List Byte) : Nat := rec8 r 0 0 5
def auSilence (r : List Byte) : Bool := rec8 r 0 5 1 == 1
def auIo (r : List Byte) : Nat := rec8 r 0 6 2
def auMux (r : List Byte) : Nat := leAt r 4 4
def auBase (r : List Byte) : Nat := leAt r 8 8
def auFrames (r : List Byte) : Nat := leAt r 0x10 2

end Sys2Proof.Machine
end

