-- ==== Sys2Proof/Machine/Fsc.lean ====
section
/-! DEFINITION. The frame store compressor's codes (spec/11, R406 to R418). -/

namespace Sys2Proof.Machine

/-- A failure: its code and FSC_ERR_POS. -/
abbrev FscFail := Nat × Nat

/-- An object's header (R406). -/
def fscHeader (mode elem width orig body crc : Nat) : List Byte :=
  leBytes 1 mode ++ leBytes 1 elem ++ leBytes 2 width ++ leBytes 4 orig ++ leBytes 4 body ++ leBytes 4 crc

/-! Lossless code -/

/-- Copy a match, byte by byte (R407). -/
def copyBack (d : Nat) : Nat → List Byte → List Byte
  | 0, out => out
  | n + 1, out => copyBack d n (out ++ [out.getD (out.length - d) 0])

/-- The tokens of a body (R407): the original, or the failure. -/
def fscTokens (n : Nat) (body : List Byte) : Nat → Nat → List Byte → Except FscFail (List Byte)
  | 0, pos, _ => .error (Code.E_FSC_LEN, pos)
  | fuel + 1, pos, out =>
    if n ≤ out.length then (if pos = body.length then .ok out else .error (Code.E_FSC_LEN, body.length))
    else if body.length ≤ pos then .error (Code.E_FSC_LEN, pos)
    else
      let t := (body.getD pos 0).toNat
      match t / 64 with
      | 0 =>
        let k := t + 1
        if body.length < pos + 1 + k then .error (Code.E_FSC_BAD_CODE, pos)
        else if n < out.length + k then .error (Code.E_FSC_LEN, pos)
        else fscTokens n body fuel (pos + 1 + k) (out ++ (body.drop (pos + 1)).take k)
      | 3 => .error (Code.E_FSC_BAD_CODE, pos)
      | kind =>
        let sz := if kind = 1 then 2 else 4
        let w := beNat ((body.drop pos).take sz)
        let l := if kind = 1 then bits w 11 3 + 4 else bits w 20 10 + 4
        let d := if kind = 1 then bits w 0 11 + 1 else bits w 0 15 + 1
        if body.length < pos + sz ∨ (kind = 2 ∧ bits w 15 5 ≠ 0) then .error (Code.E_FSC_BAD_CODE, pos)
        else if out.length < d then .error (Code.E_FSC_DIST, pos)
        else if n < out.length + l then .error (Code.E_FSC_LEN, pos)
        else fscTokens n body fuel (pos + sz) (copyBack d l out)

/-- Decode a lossless body of an original of n bytes. -/
def fscInflate (n : Nat) (body : List Byte) : Except FscFail (List Byte) := fscTokens n body (body.length + 1) 0 []

/-- What R408 forbids a compressor to write does not occur in a body: a short literal run stands last or before a match, a
long match has L of 5 or more. -/
def fscTidy (body : List Byte) : Nat → Nat → Bool
  | 0, _ => true
  | fuel + 1, pos =>
    if body.length ≤ pos then true
    else
      let t := (body.getD pos 0).toNat
      match t / 64 with
      | 0 => (t = 63 || decide (body.length ≤ pos + t + 2) || decide (64 ≤ (body.getD (pos + t + 2) 0).toNat)) && fscTidy body fuel (pos + t + 2)
      | 1 => fscTidy body fuel (pos + 2)
      | _ => decide (1 ≤ bits (beNat ((body.drop pos).take 4)) 20 10) && fscTidy body fuel (pos + 4)

/-- The body of literal runs alone. -/
def fscLiterals : Nat → List Byte → List Byte
  | 0, _ => []
  | fuel + 1, l => if l.isEmpty then [] else BitVec.ofNat 8 ((l.take 64).length - 1) :: l.take 64 ++ fscLiterals fuel (l.drop 64)

/-- The body of an original: the part's own choice of matches where it is one that R407 and R408 allow (R410). -/
def fscDeflate (l : List Byte) : List Byte :=
  let b := Config.fscBody l
  if (match fscInflate l.length b with | .ok x => x == l | .error _ => false) && fscTidy b b.length 0 then b else fscLiterals l.length l

/-- A lossless object (R406). -/
def fscObject (l : List Byte) : List Byte :=
  let b := fscDeflate l
  fscHeader 1 0 0 l.length b.length (crc32c l) ++ b

/-! Fixed-ratio code (R411 to R413) -/

/-- Bits of a unit, blocks of a unit, element bits (R411). -/
def fixUnit (mode : Nat) : Nat := match mode with | 2 => 128 | 3 => 256 | _ => 64
def fixBlocks (mode : Nat) : Nat := if mode = 3 then 3 else 1
def fixBits (mode : Nat) : Nat := match mode with | 2 => 7 | 3 => 4 | _ => 3

/-- The element format of a float ELEM. -/
def fixFmt (elem : Nat) : FFmt := if elem = 2 then f16 else bf16

/-- Length in bits of a number. -/
def bitlen (n : Nat) : Nat := if n = 0 then 0 else Nat.log2 n + 1

/-- floor(log2 |x|) of a finite non-zero value. -/
def fpLog : Fp → Option Int
  | .fin _ m e => if m = 0 then none else some (e + (Nat.log2 m : Int))
  | _ => none

/-- The header of a block of codes (R412). -/
def fixHead (elem m : Nat) (l : List Nat) : Nat :=
  if elem = 1 then
    let l := l.map (min 4095)
    let b := l.foldl min 4095
    b + (bitlen (l.foldl max 0 - b) - m) * 4096
  else
    match (l.filterMap (fun c => fpLog (Fp.of (fixFmt elem) c))).max? with
    | none => 0
    | some e => (max e (if elem = 2 then -14 else -126) + 128).toNat % 256

/-- The field of an element and what the conversion counts (R412). -/
def fixField (elem m head c : Nat) : Nat × Fp × Cstat :=
  if elem = 1 then
    let x := min c 4095
    (min (rhaDiv (x - head % 4096) (head / 4096)) (2 ^ m - 1), Fp.ofInt c, if 4095 < c then .clip else .plain)
  else
    let x := Fp.of (fixFmt elem) c
    if head = 0 then (0, x, (toInteger 0 0 0 x).2)
    else
      let top : Int := (2 ^ (m - 1) : Nat) - 1
      let r := toInteger (-top) top 0 (x.scale (-((head : Int) - 128 - m + 2)))
      (wrapTo m r.1, x, if r.2 = .clip then .plain else r.2)

/-- The reconstruction of an element (R412, R413). -/
def fixValue (elem m head v : Nat) : Nat :=
  if elem = 1 then min 4095 (head % 4096 + v * 2 ^ (head / 4096))
  else if head = 0 then 0
  else (toFloat (fixFmt elem) ((Fp.ofInt (signed m v)).scale ((head : Int) % 256 - 128 - m + 2))).1

/-- Index of element e of block b in an array of `width` elements a row (R411): blocks in raster order. -/
def fixIndex (width b e : Nat) : Nat := (4 * (b / (width / 4)) + e / 4) * width + 4 * (b % (width / 4)) + e % 4

/-- The codes of block b. -/
def fixBlock (width : Nat) (l : List Nat) (b : Nat) : List Nat := (List.range 16).map (fun e => l.getD (fixIndex width b e) 0)

/-- The 16-bit elements of an original. -/
def elems16 (l : List Byte) : List Nat := (List.range (l.length / 2)).map (fun k => leAt l (2 * k) 2)

/-- A unit as a number: its headers, then its elements (R411). -/
def fixPack (mode elem width : Nat) (l : List Nat) (u : Nat) : Nat :=
  let nb := fixBlocks mode
  let m := fixBits mode
  ((List.range nb).map (fun k =>
    let x := fixBlock width l (u * nb + k)
    let h := fixHead elem m x
    h * 2 ^ (16 * k) + ((x.zipIdx.map (fun c => (fixField elem m h c.1).1 * 2 ^ (m * c.2))).foldl (· + ·) 0) * 2 ^ (16 * nb + 16 * m * k))).foldl (· + ·) 0

/-- The body of a fixed-ratio object. -/
def fixBody (mode elem width : Nat) (orig : List Byte) : List Byte :=
  let l := elems16 orig
  (List.range (l.length / 16 / fixBlocks mode)).flatMap (fun u => leBytes (fixUnit mode / 8) (fixPack mode elem width l u))

/-- What a fixed-ratio compression counts (R412). -/
def fixStats (mode elem width : Nat) (orig : List Byte) : List (Fp × Cstat) :=
  let l := elems16 orig
  (List.range (l.length / 16)).flatMap (fun b =>
    let x := fixBlock width l b
    let h := fixHead elem (fixBits mode) x
    x.map (fun c => (fixField elem (fixBits mode) h c).2))

/-- The unit of a body. -/
def fixAt (mode : Nat) (body : List Byte) (u : Nat) : Nat := leAt body (fixUnit mode / 8 * u) (fixUnit mode / 8)

/-- Whether a unit breaks order 3 of R418: padding or, of a float object, reserved header bits. -/
def fixBad (mode elem n : Nat) : Bool :=
  (mode == 3 && bits n 240 16 != 0) || (elem != 1 && (List.range (fixBlocks mode)).any (fun k => bits n (16 * k + 8) 8 != 0))

/-- The originals' bytes of a fixed-ratio body. -/
def fixOrig (mode elem width orig : Nat) (body : List Byte) : List Byte :=
  let nb := fixBlocks mode
  let m := fixBits mode
  let val (i : Nat) : Nat :=
    let r := i / width
    let c := i % width
    let b := r / 4 * (width / 4) + c / 4
    let n := fixAt mode body (b / nb)
    fixValue elem m (bits n (16 * (b % nb)) 16) (bits n (16 * nb + 16 * m * (b % nb) + m * (r % 4 * 4 + c % 4)) m)
  (List.range (orig / 2)).flatMap (fun i => leBytes 2 (val i))

/-- A fixed-ratio object. -/
def fixObject (mode elem width : Nat) (orig : List Byte) : List Byte :=
  let b := fixBody mode elem width orig
  fscHeader mode elem width orig.length b.length (crc32c (fixOrig mode elem width orig.length b)) ++ b

/-! Decompression -/

/-- The first check of R418 on a header. -/
def fscHeadOk (h : List Byte) : Bool :=
  let mode := leAt h 0 1
  let elem := leAt h 1 1
  let w := leAt h 2 2
  let n := leAt h 4 4
  decide (1 ≤ mode ∧ mode ≤ 4) && (if mode = 1 then elem == 0 && w == 0 else decide (1 ≤ elem ∧ elem ≤ 3) && w != 0 && w % (if mode = 3 then 12 else 4) == 0 &&
    n % (8 * w) == 0) && decide (1 ≤ n)

/-- Bytes of the original over bytes of the body. -/
def fixRatio (mode : Nat) : Nat := mode

/-- The checks on a header before its body is read (R418, orders 1 and 2). -/
def fscHeadFail (h : List Byte) : Option Nat :=
  let mode := leAt h 0 1
  if !fscHeadOk h then some Code.E_FSC_BAD_CODE
  else if mode ≠ 1 ∧ leAt h 8 4 * fixRatio mode ≠ leAt h 4 4 then some Code.E_FSC_LEN
  else none

/-- Decompress an object: its header and its body (R407, R413, R418). -/
def fscOpen (h body : List Byte) : Except FscFail (List Byte) :=
  let mode := leAt h 0 1
  let elem := leAt h 1 1
  let n := leAt h 4 4
  match fscHeadFail h with
  | some c => .error (c, 0)
  | none =>
    let r : Except FscFail (List Byte) :=
      if mode = 1 then fscInflate n body
      else match (List.range (body.length / (fixUnit mode / 8))).find? (fun u => fixBad mode elem (fixAt mode body u)) with
        | some u => .error (Code.E_FSC_BAD_CODE, u * (fixUnit mode / 8))
        | none => .ok (fixOrig mode elem (leAt h 2 2) n body)
    match r with
    | .error e => .error e
    | .ok l => if crc32c l = leAt h 12 4 then .ok l else .error (Code.E_FSC_CHECK, body.length)

/-- FSC_ERR, FSC_ERR_POS and FSC_ERR_CHAN (R425), and the counter of the code (R426). Which instance it was is a free value. -/
def fscFail (code pos handle : Nat) (host : Bool) (s : State) : State :=
  let r := drawBelow 4 s
  let s := holdRecord 0x34 Reg.FSC_ERR_VALID
    [(Reg.FSC_ERR_CODE, code % 64), (Reg.FSC_ERR_INSTANCE, r.1), (Reg.FSC_ERR_HOST_OBJ, bit host), (Reg.FSC_ERR_POS_POS, pos), (Reg.FSC_ERR_CHAN_HANDLE, handle)] r.2
  let c := if code = Code.E_FSC_OUT_FULL then some Cnt.FSC_OUT_FULL else if code = Code.E_FSC_BAD_CODE then some Cnt.FSC_BAD_CODE
    else if code = Code.E_FSC_DIST then some Cnt.FSC_DIST else if code = Code.E_FSC_LEN then some Cnt.FSC_LEN
    else if code = Code.E_FSC_CHECK then some Cnt.FSC_CHECK else if code = Code.E_FSC_MODE then some Cnt.FSC_MODE_REJECTS
    else if code = Code.E_FSC_SELFCHECK then some Cnt.FSC_SELFCHECK_FAILS else none
  match c with | some c => bump 0x34 c 1 s | none => s

/-- The bytes a lossless body takes as literals. -/
def literalBytes (body : List Byte) : Nat → Nat → Nat
  | 0, _ => 0
  | fuel + 1, pos =>
    if body.length ≤ pos then 0
    else
      let t := (body.getD pos 0).toNat
      match t / 64 with
      | 0 => t + 1 + literalBytes body fuel (pos + t + 2)
      | 1 => literalBytes body fuel (pos + 2)
      | _ => literalBytes body fuel (pos + 4)

/-- Counting an object written (R426). -/
def countComp (orig body : List Byte) (mode : Nat) (s : State) : State :=
  let s := bump 0x34 Cnt.FSC_BODY_OUT body.length (bump 0x34 Cnt.FSC_ORIG_IN orig.length s)
  if mode = 1 then
    let n := literalBytes body body.length 0
    let s := bump 0x34 Cnt.FSC_MATCH_BYTES (orig.length - n) (bump 0x34 Cnt.FSC_LITERAL_BYTES n (bump 0x34 Cnt.FSC_OBJ_COMP 1 s))
    if s.rf 0x34 Reg.FSC_CTRL_SELFCHECK = 1 then bump 0x34 Cnt.FSC_SELFCHECKS 1 s else s
  else bump 0x34 Cnt.FSC_OBJ_FIXED 1 s

/-- Counting an object decompressed (R426). -/
def countDecomp (orig body : Nat) (s : State) : State :=
  bump 0x34 Cnt.FSC_ORIG_OUT orig (bump 0x34 Cnt.FSC_BODY_IN body (bump 0x34 Cnt.FSC_OBJ_DECOMP 1 s))

/-- The row objects of reference pictures that a synthesis decompresses, at most `top`: those that its taps reach (R423), which the flow
decides; their number and bytes are free values (log entry 192). -/
def countRefs (top : Nat) (s : State) : State :=
  if top = 0 then s
  else
    let n := drawBelow (top + 1) s
    let o := drawBelow (n.1 * 2 ^ 20 + 1) n.2
    let b := drawBelow (n.1 * 2 ^ 20 + 1) o.2
    bump 0x34 Cnt.FSC_ORIG_OUT o.1 (bump 0x34 Cnt.FSC_BODY_IN b.1 (bump 0x34 Cnt.FSC_OBJ_DECOMP n.1 b.2))

end Sys2Proof.Machine
end

