-- ==== Sys2Proof/Machine/Latents.lean ====
section
/-! DEFINITION. Rows of latents and their symbols, slices as substreams, synthesis and stored pictures (spec/07, R262 to R272;
spec/08, R290 to R306; spec/09, R329, R340, R346; spec/10, R376; spec/11, R422, R423). -/

namespace Sys2Proof.Machine

/-! Rows -/

/-- What a package's Script layers and tables give the rows of a picture: the package and its identity, its table block, block
columns, hyper columns. -/
structure RowCtx where
  k : Package
  id : Nat
  tables : List Byte
  bc : Nat
  hc : Nat
deriving DecidableEq, Repr

/-- The rows of a package and a sequence header. -/
def rowCtx (k : Package) (h : List Byte) : RowCtx := ⟨k, modelId k, k.tables.getD [], seqBC h, seqHC h⟩

/-- The latent channel of element x of a row, in the order of R266. -/
def latChan (bc x : Nat) : Nat := 48 * (x / (48 * bc)) + x % 48

/-- The record of a latent channel and a level, from those that begin at `at_` (R329). -/
def levelRq (k : Package) (at_ c l : Nat) : Requant := requantOf (k.requants.getD (at_ + 8 * c + l) (2, [])).2

/-- μ of an element (R91, R329): the sum of the mean layer requantised with the record of its channel and level. -/
def latMu (c : RowCtx) (ql x : Nat) (acc : Int) : Int := (requantise (wrap64 acc) (levelRq c.k c.k.meanRq (latChan c.bc x) ql)).1

/-- The synthesis input of a row's ŷ (R329). -/
def synthIn16 (k : Package) (bc ql : Nat) (y : List Int) : List Int := y.zipIdx.map (fun e => (requantise e.1 (levelRq k k.synRq (latChan bc e.2) ql)).1)

/-- The scale index of a scale value σ, an INT16 (R69, R292). -/
def scaleIndex (k : Package) (sigma : Int) : Nat := bucket (k.buckets.getD k.scaleBucket []) (wrapS 16 sigma)

/-- The elements of group g of a row: mean, offset of the table, whether its index was clamped (R292, R293, R329). `zs` are the
hyper rows read, `above` the ŷ of the rows above in the slice, `before` that of the groups before. -/
def groupCtx (c : RowCtx) (zs above : List (List Int)) (before : List Int) (ql g : Nat) : List (Int × Nat × Bool) :=
  (List.range (48 * c.bc)).map (fun e =>
    let x := 48 * c.bc * g + e
    let t := latIndex c.tables g ql (scaleIndex c.k (Config.latScale c.id zs above before x))
    (latMu c ql x (Config.latMean c.id zs above before x), latTab g t.1, t.2))

/-- A coded row: its ŷ, the (start, freq) pairs of its q, the indices clamped. -/
structure CodedRow where
  q : List Int := []
  yhat : List Int := []
  pairs : List (Nat × Nat) := []
  clamps : Nat := 0
deriving DecidableEq, Repr

/-- Code the groups of a row in turn (R292, R293): `f` gives q of an element from its index and its mean. -/
def codeGroups (c : RowCtx) (zs above : List (List Int)) (ql : Nat) (f : Nat → Int → Int) : CodedRow :=
  (List.range 4).foldl (fun a g =>
    let x := groupCtx c zs above a.yhat ql g
    let v := x.zipIdx.map (fun e => f (48 * c.bc * g + e.2) e.1.1)
    { q := a.q ++ v, yhat := a.yhat ++ List.zipWith (fun e n => e.1 + n) x v, pairs := a.pairs ++ List.zipWith (fun e n => tabPair c.tables e.2.1 n) x v, clamps := a.clamps + (x.filter (·.2.2)).length }) {}

/-- Code the given q of a row. -/
def codeRow (c : RowCtx) (zs above : List (List Int)) (ql : Nat) (q : List Int) : CodedRow := codeGroups c zs above ql (fun x _ => q.getD x 0)

/-- Form and code the q of a row from its FP32 latents (R92, R328, R329). -/
def formRow (c : RowCtx) (zs above : List (List Int)) (ql : Nat) (y : List Nat) : CodedRow :=
  codeGroups c zs above ql (fun x mu => (qlat (((Fp.of f32 (y.getD x 0)).mul (Fp.of f32 (c.k.gains.getD (192 * ql + latChan c.bc x) 0))).r32) mu).1)

/-- The pairs of the z of a hyper row (R294). -/
def hyperPairs (c : RowCtx) (z : List Int) : List (Nat × Nat) := z.zipIdx.map (fun x => tabPair c.tables (hypTab (x.2 % 128)) x.1)

/-- A row to be coded: whether it is a curtain row, its level, its symbols. -/
structure RowIn where
  curtain : Bool
  ql : Nat
  syms : RowSyms
deriving DecidableEq, Repr

/-- A slice as symbols: ŷ of its rows, side and main pairs, z of its hyper rows. -/
structure CodedSlice where
  yhat : List (List Int) := []
  zs : List (List Int) := []
  side : List (Nat × Nat) := []
  main : List (Nat × Nat) := []
deriving DecidableEq, Repr

/-- One more row section in each substream (R266 to R270, R295, R340). -/
def addRow (c : RowCtx) (qlRow : Bool) (first : Nat) (a : CodedSlice) (r : Nat) (x : RowIn) : CodedSlice :=
  let z := if x.curtain then List.replicate (128 * c.hc) 0 else x.syms.z
  let zs := if r % 4 = 0 then a.zs ++ [z] else a.zs
  let w := codeRow c zs a.yhat x.ql (if x.curtain then List.replicate (192 * c.bc) 0 else x.syms.q)
  let tag := bypass 6 ((first + r) % 64)
  let skip := bypass 1 (bit x.curtain)
  { yhat := a.yhat ++ [w.yhat], zs, side := a.side ++ [skip] ++ (if !x.curtain && r % 4 == 0 then hyperPairs c z else []) ++ [tag],
    main := a.main ++ [skip] ++ (if x.curtain then [] else (if qlRow then [bypass 3 x.ql] else []) ++ w.pairs) ++ [tag] }

/-- The symbols of a slice. -/
def codeSlice (c : RowCtx) (qlRow : Bool) (first : Nat) (rows : List RowIn) : CodedSlice :=
  rows.zipIdx.foldl (fun a x => addRow c qlRow first a x.2 x.1) {}

/-! Decoding a slice -/

/-- How the decoding of a slice ended: its good rows, their levels, the code (R306) and its counters; the last record of a
skew: expected, side tag, main tag, side SKIP, main SKIP, row. -/
structure Decoded where
  yhat : List (List Int) := []
  qls : List Nat := []
  code : Nat := 0
  kind : Nat := 0                    -- 1 state failure, 2 overrun, 3 skew, 4 end condition
  skew : Nat × Nat × Nat × Nat × Nat × Nat := (0, 0, 0, 0, 0, 0)
  curtains : Nat := 0
  lats : Nat := 0
  hyps : Nat := 0
  byps : Nat := 0
  clamps : Nat := 0
  words : Nat := 0
  ends : Nat := 0                    -- substreams that failed R300
deriving DecidableEq, Repr

/-- Take the symbols of a list of tables. -/
def ransRow (t : List Byte) : List Nat → Rans → List Int × Rans
  | [], r => ([], r)
  | o :: l, r => let a := r.sym t o; let b := ransRow t l a.2; (a.1 :: b.1, b.2)

/-- The q of a row, group by group (R292, R311): ŷ, the clamped indices. -/
def decodeRow (c : RowCtx) (zs above : List (List Int)) (ql : Nat) (r : Rans) : List Int × Nat × Rans :=
  (List.range 4).foldl (fun (a : List Int × Nat × Rans) g =>
    let x := groupCtx c zs above a.1 ql g
    let v := ransRow c.tables (x.map (·.2.1)) a.2.2
    (a.1 ++ List.zipWith (fun e n => e.1 + n) x v.1, a.2.1 + (x.filter (·.2.2)).length, v.2)) ([], 0, r)

/-- The rows of a slice from row r on (R266, R299, R302 to R306). -/
def decodeRows (c : RowCtx) (qlRow : Bool) (pql first : Nat) : Nat → Nat → List (List Int) → Rans → Rans → Decoded → Decoded
  | 0, _, _, side, main, d =>
    let n := bit (!side.ended) + bit (!main.ended)
    let d := { d with words := side.words + main.words, ends := n }
    if n = 0 then d else { d with yhat := d.yhat.dropLast, qls := d.qls.dropLast, code := Code.E_STREAM_SYNTAX, kind := 4 }
  | k + 1, r, zs, side, main, d =>
    let ss := side.byp 1
    let zr := if ss.1 = 0 ∧ r % 4 = 0 then ransRow c.tables ((List.range (128 * c.hc)).map (fun j => hypTab (j % 128))) ss.2
      else (List.replicate (128 * c.hc) 0, ss.2)
    let zs := if r % 4 = 0 then zs ++ [zr.1] else zs
    let st := zr.2.byp 6
    let ms := main.byp 1
    let ql := if ms.1 = 0 ∧ qlRow then ms.2.byp 3 else (pql, ms.2)
    let y := if ms.1 = 0 then decodeRow c zs d.yhat ql.1 ql.2
      else ((List.range 4).foldl (fun (a : List Int) g => a ++ (groupCtx c zs d.yhat a ql.1 g).map (·.1)) [], 0, ql.2)
    let mt := y.2.2.byp 6
    let tag := (first + r) % 64
    let d := { d with clamps := d.clamps + y.2.1, byps := d.byps + 4 + bit (ms.1 == 0 && qlRow), lats := d.lats + (if ms.1 = 0 then 192 * c.bc else 0), hyps := d.hyps + (if ss.1 = 0 ∧ r % 4 = 0 then 128 * c.hc else 0), curtains := d.curtains + bit (ss.1 == 1 && ms.1 == 1) }
    if st.2.past || mt.2.past then { d with code := Code.E_STREAM_SYNTAX, kind := 2, words := st.2.words + mt.2.words }
    else if st.1 ≠ tag ∨ mt.1 ≠ tag ∨ ss.1 ≠ ms.1 then
      { d with code := Code.E_SCALE_SKEW, kind := 3, skew := (tag, st.1, mt.1, ss.1, ms.1, r), words := st.2.words + mt.2.words }
    else decodeRows c qlRow pql first k (r + 1) zs st.2 mt.2 { d with yhat := d.yhat ++ [y.1], qls := d.qls ++ [ql.1] }

/-- Decode a slice whose CRC has matched (R301, R305, R306). -/
def decodeSlice (c : RowCtx) (qlRow : Bool) (pql first rows : Nat) (side main : List Byte) : Decoded :=
  match ransOpen side, ransOpen main with
  | some a, some b => decodeRows c qlRow pql first rows 0 [] a b {}
  | _, _ => { code := Code.E_STREAM_SYNTAX, kind := 1 }

/-! Samples -/

/-- Samples as bytes and back (R370). -/
def sampleBytes (b : Nat) (l : List Nat) : List Byte := l.flatMap (leBytes b)
def samplesOf (b : Nat) (l : List Byte) : List Nat := (List.range (l.length / b)).map (fun k => leAt l (b * k) b)

/-- A block row of a picture: the samples of each plane. -/
abbrev BlockRow := List (List Nat)

/-- A block row in mid-grey. -/
def greyRow (h : List Byte) (x : Nat) : BlockRow := (List.range 3).map (fun p => List.replicate (rowLines h p x * planeW h p) (seqGrey h))

/-- The block rows of a stored picture: each row object decompressed (R423). -/
def RefSlot.lines (r : RefSlot) : List (Nat × BlockRow) :=
  let o := tget r.areas [] r.cur
  (List.range (o.length / 3)).map (fun x => (x, (List.range 3).map (fun p =>
    let l := o.getD (3 * x + p) []
    match fscOpen (l.take 16) (l.drop 16) with | .ok y => samplesOf (seqB r.geom) y | .error _ => [])))

/-- The originals of the row objects of a picture, in the order of its directory (R423). -/
def rowOriginals (h : List Byte) (lines : Nat → BlockRow) : List (List Byte) :=
  (List.range (seqBR h)).flatMap (fun x => (List.range 3).map (fun p => sampleBytes (seqB h) ((lines x).getD p [])))

/-- What the synthesis of a block row reads (R346, R376, R359): model, the geometry, the synthesis inputs of rows x − SYN_LEAD to
x + SYN_LAG, what the adapters add to the sums of the eligible layers, the references. -/
abbrev SynthIn := Nat × (Nat × Nat × Nat × Nat) × List (List Int) × List (Nat × List (List Int)) × List (List (Nat × BlockRow))

/-! Adapters (R74, R277) -/

/-- A layer record of an adapter set without its reserved bytes (R277): the layer, the weights of each rank channel and of each output
channel, the requantisation of each rank channel, the multiplier of each output channel. -/
structure AdpRec where
  layer : Nat
  down : List (List Int)
  rq : List Requant
  up : List (List Int)
  um : List Int
deriving DecidableEq, Repr

/-- Signed bytes. -/
def int8s (l : List Byte) : List Int := l.map (fun b => signed 8 b.toNat)

/-- The requantisation record of a rank channel. -/
def downRq (q : List Byte) : Requant :=
  { m := signed 32 (hBits q 0 32), s := hBits q 32 8, zp := signed 16 (hBits q 48 16), lo := signed 16 (hBits q 64 16), hi := signed 16 (hBits q 80 16) }

/-- The record at the front of a payload, and its bytes. -/
def adpRec (l : List Byte) : AdpRec × Nat :=
  let rank := hBits l 16 8
  let k := hBits l 32 32
  let cout := hBits l 64 16
  let o := 12 + rank * k
  let u := o + 12 * rank
  let m := u + cout * rank
  ({ layer := hBits l 0 16, down := (List.range rank).map (fun r => int8s ((l.drop (12 + k * r)).take k)), rq := (List.range rank).map (fun r => downRq ((l.drop (o + 12 * r)).take 12)),
     up := (List.range cout).map (fun c => int8s ((l.drop (u + rank * c)).take rank)), um := (List.range cout).map (fun c => signed 32 (hBits (l.drop (m + 4 * c)) 0 32)) }, m + 4 * cout)

/-- The records of a set (R277). -/
def adpRecs : Nat → List Byte → List AdpRec
  | 0, _ => []
  | n + 1, l => let r := adpRec l; r.1 :: adpRecs n (l.drop r.2)

/-- What a set adds to the sum of each output channel of a layer at a window: the down product-sum over the window, one group with
multiplier 1 and bias 0, requantised to INT16; the up product-sum of one group of RANK elements with multiplier UP_M (R74, R277). -/
def AdpRec.adds (a : AdpRec) (window : List Int) : List Int :=
  let d := List.zipWith (fun w r => (requantise (scriptSum 0 [(w.zip window, 1)]) r).1) a.down a.rq
  List.zipWith (fun u m => wrap64 (groupSum (u.zip d) * m)) a.up a.um

/-- What a set adds in the synthesis of a block row, layer by layer: a window of a later layer sees what was added before it. -/
def adpAdds (set : Option AdpSet) (i : SynthIn) (x : Nat) : SynthIn :=
  match set with
  | none => i
  | some a => (adpRecs a.nlayer a.pay).foldl (fun (b : SynthIn) r =>
      (b.1, b.2.1, b.2.2.1, b.2.2.2.1 ++ [(r.layer, (List.range (Config.layerPlaces (b.1, b.2.1) x r.layer)).map (fun n => r.adds (Config.layerWindow b x r.layer n)))], b.2.2.2.2)) i

/-- The windows of a block row. -/
def synthIn (k : Package) (h : List Byte) (lat : Tbl (List Int)) (qls : Tbl Nat) (adp : Option AdpSet) (refs : List RefSlot) (x : Nat) : SynthIn :=
  let rows := (List.range (min (seqBR h) (x + k.synLag + 1) - (x - k.synLead))).map (fun j => let y := x - k.synLead + j; synthIn16 k (seqBC h) (tget qls 0 y) (tget lat [] y))
  adpAdds adp (modelId k, seqGeo h, rows, [], refs.map RefSlot.lines) x

/-- The synthesis of a block row (R346, R376). -/
def synthRow (h : List Byte) (i : SynthIn) (x : Nat) : BlockRow :=
  (List.range 3).map (fun p => (List.range (rowLines h p x * planeW h p)).map (fun k => Config.synth i x p k % 2 ^ seqBitDepth h))

end Sys2Proof.Machine
end

