-- ==== Sys2Proof/Machine/Cues.lean ====
section
/-! DEFINITION. Cues, their queues and semaphores, and the custom instructions of the control core (spec/04, R129 to R145,
R155 to R157). -/

namespace Sys2Proof.Machine

/-! Cue fields (R130) -/

def cClass (c : Nat) : Nat := bits c 0 4
def cOp (c : Nat) : Nat := bits c 4 4
def cWaitEn (c : Nat) : Bool := bits c 8 1 == 1
def cWait (c : Nat) : Nat := bits c 9 5
def cSigEn (c : Nat) : Bool := bits c 14 1 == 1
def cSig (c : Nat) : Nat := bits c 15 5
def cScript (c : Nat) : Bool := bits c 20 1 == 0

/-- Lines that one element vector or weight row of a format occupies (R114). -/
def fmtLines (fmt : Nat) : Nat := match fmt with | 2 | 5 | 6 => 2 | 7 | 9 => 4 | _ => 1

/-- Step depth of an operand pair (R113). -/
def stepDepth (w a : Nat) : Nat := if w = 0 ∧ a = 0 then 128 else 64

/-- The operand pairs of R113 and R60. -/
def macPair (script : Bool) (w a : Nat) : Bool :=
  if script then w == 1 && (a == 1 || a == 2)
  else (w == 1 && (a == 1 || a == 2 || a == 0)) || (w == 0 && (a == 0 || a == 1)) || ((w == 3 || w == 4) && (a == 3 || a == 4)) ||
    (w == 5 && a == 5) || (w == 6 && a == 6)

/-- Integer formats that Script cues move and compute, INT32 among them. -/
def scriptFmt (f : Nat) : Bool := f == 1 || f == 2 || f == 9

/-- The input and output formats a VEC operation allows (R55, R66, R100, R113, R120; log entry 10). -/
def vecFmtIn (op : Nat) (script : Bool) (f : Nat) : Bool :=
  match op with
  | 3 => if script then f == 9 else decide (f ≤ 7)
  | 6 => if script then f == 1 || f == 2 else decide (f ≤ 7)
  | 9 => f == 7
  | _ => if script then scriptFmt f else decide (f ≤ 7)
def vecFmtOut (op : Nat) (script : Bool) (fin f : Nat) : Bool :=
  match op with
  | 4 => decide (f ≤ 5)
  | 6 => if script then f == 1 || f == 2 else decide (f ≤ 7)
  | 8 => f == fin
  | 9 => f == 2
  | _ => if script then scriptFmt f else decide (f ≤ 7)

/-- Operations that R120 gives Ad-lib only. -/
def vecAdlibOnly (op sub : Nat) : Bool := op == 2 || op == 4 || op == 5 || (op == 1 && sub == 4)

/-- Sub-operations of R120. -/
def vecSubOk (op sub : Nat) : Bool :=
  match op with | 1 => decide (sub ≤ 4) | 2 => decide (sub ≤ 6) | 7 | 8 => decide (sub ≤ 3) | _ => sub == 0

/-- A region of lines lies in the local store. -/
def inLs (line n : Nat) : Bool := decide (line + n ≤ 49152)

/-- A region of bytes from a line on lies in the local store. -/
def inLsBytes (line n : Nat) : Bool := inLs line (upDiv n 64)

/-- Bytes of `n` elements of a format (R39). -/
def fmtBytes (fmt n : Nat) : Nat := upDiv (n * fmtBits fmt) 8

/-- Bytes of the second operand of a VEC operation on `n` elements, 0 where it has none: an operand of ELT and of division, the
exponents of SCALE (those of groups of 128 at least: the group size is the frame's), both moments and the group exponents of ADAM,
the flow of WARP, the means of QLAT. -/
def vecSrc1 (op sub f n : Nat) : Nat :=
  match op with
  | 1 => fmtBytes f n
  | 2 => if sub = 6 then fmtBytes f n else 0
  | 4 => upDiv n 128
  | 5 => 2 * n + n / 32
  | 6 => 4 * n
  | 9 => 2 * n
  | _ => 0

/-- Bytes of the first operand and of the output of a VEC operation on `n` elements. -/
def vecSrc0 (op f n : Nat) : Nat := if op = 6 then fmtBytes f (4 * n) else fmtBytes f n
def vecDst (op f n : Nat) : Nat := match op with | 7 => fmtBytes f (n / 64) | 9 => 3 * n | _ => fmtBytes f n

/-- The checks of R131 in ascending bit position: the position of a field and whether it passes. -/
def cueChecks (c : Nat) : List (Nat × Bool) :=
  let op := cOp c
  let s := cScript c
  let f2 := bits c 24 4
  let f3 := bits c 28 4
  let l (k : Nat) := bits c k 16
  let head := [(0, decide (1 ≤ cClass c ∧ cClass c ≤ 6)),
    (4, decide (op ≤ (match cClass c with | 1 => 1 | 2 => 9 | 3 => 2 | 4 => 3 | 5 => 4 | _ => 1)))]
  if op = 0 then head ++ [(20, s || (cClass c != 4 && cClass c != 6)), (21, bits c 21 3 == 0)]
  else match cClass c with
  | 1 =>
    let pos := bits c 96 6 + 1
    let steps := bits c 103 8 + 1
    head ++ [(21, bits c 21 3 == 0), (24, decide (f2 ≤ 6 ∧ f2 ≠ 2) && (!s || f2 == 1)), (28, macPair s f2 f3), (32, inLs (l 32) (steps * 64 * fmtLines f2)),
      (48, inLs (l 48) (steps * pos * fmtLines f3)), (64, bits c 112 1 == 0 || inLs (l 64) pos), (80, inLs (l 80) 1)]
  | 2 =>
    let n := 64 * (bits c 96 16 + 1)
    let sub := bits c 112 4
    let z := vecSrc1 op sub f2 n
    head ++ [(20, (!s || !vecAdlibOnly op sub) && (op != 9 || s)), (21, bits c 21 3 == 0), (24, vecFmtIn op s f2), (28, vecFmtOut op s f2 f3),
      (32, inLsBytes (l 32) (vecSrc0 op f2 n)), (48, if z = 0 then l 48 == 0 else inLsBytes (l 48) z), (64, inLsBytes (l 64) (vecDst op f3 n)), (80, inLs (l 80) 1), (112, vecSubOk op sub), (116, bits c 116 12 == 0)]
  | 3 =>
    let n := bits c 80 16 + 1
    head ++ [(20, s), (21, bits c 21 3 == 0), (24, f2 == 1 || f2 == 2), (28, f3 == 1 || f3 == 2), (32, inLs (l 32) (n * fmtLines f2)),
      (48, inLs (l 48) (n * fmtLines f3)), (64, inLs (l 64) (if op = 1 then 17 else 4)), (112, bits c 112 16 == 0)]
  | 4 =>
    head ++ [(20, s), (21, bits c 21 3 == 0), (24, decide (bits c 24 3 ≤ 5)), (27, bits c 27 5 == 0), (32, bits c 32 6 == 0),
      (64, op == 2 || bits c 64 64 == 0)]
  | 5 =>
    head ++ [(20, s == (op == 1)), (21, bits c 21 3 == 0), (24, bits c 24 8 == 0), (32, inLs (l 32) 1), (48, inLs (l 48) 1), (64, inLs (l 64) 1),
      (80, inLs (l 80) 1), (96, bits c 96 32 == 0)]
  | _ =>
    let n := 64 * (bits c 40 8 + 1)
    head ++ [(20, s), (21, bits c 21 3 == 0), (24, true), (40, true), (48, bits c 24 16 == 0xFFFF || inLs (l 48) n), (96, bits c 96 32 == 0)]

/-- The position of the first failing field of a cue, if one fails (R131). -/
def cueBad (c : Nat) : Option Nat := ((cueChecks c).find? (fun x => !x.2)).map (·.1)

/-! Threads -/

/-- The custom instruction at a thread's program counter, if it can issue and is the given one: opcode and funct3. -/
def customAt (s : State) (p t op f3 : Nat) : Option Nat :=
  if !s.canIssue p t then none
  else match fetch s p t with
    | (0, 4, some w) => if isCustom w && bits w 0 7 == op && bits w 12 3 == f3 then some w else none
    | _ => none

/-- The cue in two registers. -/
def cueOf (x : Thread) (w : Nat) : Nat := (x.x (bits w 20 5) ++ x.x (bits w 15 5)).toNat

/-- A cue that fails its checks ends the job (R131). -/
def cueIllegal (p t cls pos : Nat) (s : State) : State := plyFault p 4 t cls 0 0 pos 0 0 Code.E_CUE_ILLEGAL s

/-- Put a cue in its queue (R134). -/
def enqueue (p t cue : Nat) (s : State) : State :=
  let k := s.ply p
  let c := cClass cue
  let s := bump (0x100 + p) Cnt.PLY_CUES_ISSUED 1 (setPly p { k with queues := tput k.queues c (tget k.queues [] c ++ [{ cue, thread := t }]) } s)
  if c = 5 then repause p s else s

/-- CUE_ISSUE of a cue whose first bad field, if any, is `bad` (R129, R131). -/
def cueIssueOf (bad : Option Nat) (p t w : Nat) (x : Thread) (cue : Nat) (s : State) : State :=
  match bad with
  | some pos => cueIllegal p t (cClass cue % 8) pos s
  | none =>
    if 16 ≤ s.queueLen p (cClass cue) then setThread p t { x with st := 3, wait := cue, rd := bits w 7 5 } s
    else
      let s := enqueue p t cue s
      retireAt p t (x.setX (bits w 7 5) (BitVec.ofNat 64 (16 - s.queueLen p (cClass cue)))) (x.pc + 4) s

/-- CUE_ISSUE in a thread. -/
def cueIssueAt (p t w : Nat) (s : State) : State :=
  cueIssueOf (cueBad (cueOf (s.thread p t) w)) p t w (s.thread p t) (cueOf (s.thread p t) w) s

/-- CUE_ISSUE, after the trace trigger at its pc (R612). -/
def cueIssue (p t w : Nat) (s : State) : State := cueIssueAt p t w (pcTrigger p t s)

/-- CUE_ISSUE (R129, R131, R134). -/
def execCueIssue (p : Fin 68) (t : Fin 8) (s : State) : Host.Outcome State Fault Refusal :=
  .next (match customAt s p.val t.val 0x0B 0 with | some w => cueIssue p.val t.val w s | none => s)

/-- CUE_ISSUE_UNPARK (R129): room has appeared for the cue of a parked thread. -/
def execCueIssueUnpark (p : Fin 68) (t : Fin 8) (s : State) : Host.Outcome State Fault Refusal :=
  let x := s.thread p.val t.val
  if x.st ≠ 3 ∨ !s.jobRuns p.val ∨ 16 ≤ s.queueLen p.val (cClass x.wait) then .next s
  else
    let s := enqueue p.val t.val x.wait s
    .next (retireAt p.val t.val (({ x with st := 1 } : Thread).setX x.rd (BitVec.ofNat 64 (16 - s.queueLen p.val (cClass x.wait)))) (x.pc + 4) s)

/-- CUE_TRY of a cue whose first bad field, if any, is `bad` (R129, R131). -/
def cueTryOf (bad : Option Nat) (p t w : Nat) (x : Thread) (cue : Nat) (s : State) : State :=
  match bad with
  | some pos => cueIllegal p t (cClass cue % 8) pos s
  | none =>
    if 16 ≤ s.queueLen p (cClass cue) then retireAt p t (x.setX (bits w 7 5) 0) (x.pc + 4) s
    else retireAt p t (x.setX (bits w 7 5) 1) (x.pc + 4) (enqueue p t cue s)

/-- CUE_TRY in a thread. -/
def cueTryAt (p t w : Nat) (s : State) : State :=
  cueTryOf (cueBad (cueOf (s.thread p t) w)) p t w (s.thread p t) (cueOf (s.thread p t) w) s

/-- CUE_TRY, after the trace trigger at its pc (R612). -/
def cueTry (p t w : Nat) (s : State) : State := cueTryAt p t w (pcTrigger p t s)

/-- CUE_TRY (R129). -/
def execCueTry (p : Fin 68) (t : Fin 8) (s : State) : Host.Outcome State Fault Refusal :=
  .next (match customAt s p.val t.val 0x0B 1 with | some w => cueTry p.val t.val w s | none => s)

/-! Semaphores (R137, R138) -/

/-- The count of a semaphore. -/
def State.sem (s : State) (p i : Nat) : Nat := tget (s.ply p).sems 0 i

/-- Set a semaphore's count. -/
def setSem (p i n : Nat) (s : State) : State := setPly p { s.ply p with sems := dput 0 (s.ply p).sems i n } s

/-- Add to a semaphore; a count above 255 ends the job (R137). -/
def semAdd (p i n thread : Nat) (s : State) : State :=
  let v := s.sem p i + n
  if 255 < v then plyFault p 6 thread 0 0 0 i 0 0 Code.E_SEM_OVERFLOW (setSem p i 255 s) else setSem p i v s

/-- Whether the cue at the head of a queue would start but for its semaphore: a SHD START needs its slot free, a TRE cue its engine, a
KEEP the end of the one before it. -/
def State.headReady (s : State) (p cls : Nat) (c : QCue) : Bool :=
  !c.started && s.jobRuns p && (cOp c.cue == 0 || (match cls with
    | 4 => cOp c.cue != 1 || (tget? s.streams (8 * p + bits c.cue 24 3)).isNone
    | 5 => s.rf (s.trePage p) Reg.TRE_STATE_MODE == 0
    | 6 => (s.ply p).keep.isNone
    | _ => true))

/-- Counts of a semaphore that the engines of the classes below `top` take first (R138). -/
def State.engineTakes (s : State) (p i top : Nat) : Nat :=
  ((List.range 6).filter (fun k => decide (k + 1 < top) && (match tget (s.ply p).queues [] (k + 1) with
    | c :: _ => cWaitEn c.cue && cWait c.cue == i && s.headReady p (k + 1) c
    | [] => false))).length

/-- The count that a thread finds: what the waiting engines leave, which take theirs first (R138). -/
def State.semLeft (s : State) (p i : Nat) : Nat := s.sem p i - s.engineTakes p i 7

/-- Whether the operand of a semaphore instruction lies in the ranges of R129. -/
def semOperandOk (v top : Nat) : Bool := decide (v < 2 ^ top)

/-- SEM_WAIT (R129): takes a count or parks the thread. -/
def semWait (p t w : Nat) (s : State) : State :=
  let s := pcTrigger p t s
  let x := s.thread p t
  let v := (x.x (bits w 15 5)).toNat
  if !semOperandOk v 5 then coreTrap p t 24 v s
  else if 1 ≤ s.semLeft p v then let s := setSem p v (s.sem p v - 1) s; retireAt p t (s.thread p t) (x.pc + 4) s
  else setThread p t { x with st := 2, wait := v } s

/-- SEM_WAIT (R129, R138). -/
def execSemWait (p : Fin 68) (t : Fin 8) (s : State) : Host.Outcome State Fault Refusal :=
  .next (match customAt s p.val t.val 0x0B 2 with | some w => semWait p.val t.val w s | none => s)

/-- SEM_WAIT_TAKE (R138): a parked thread takes its count. -/
def execSemWaitTake (p : Fin 68) (t : Fin 8) (s : State) : Host.Outcome State Fault Refusal :=
  let x := s.thread p.val t.val
  if x.st ≠ 2 ∨ !s.jobRuns p.val ∨ s.semLeft p.val x.wait = 0 then .next s
  else
    let s := setSem p.val x.wait (s.sem p.val x.wait - 1) s
    .next (retireAt p.val t.val { x with st := 1 } (x.pc + 4) s)

/-- SEM_TRY (R129). -/
def semTry (p t w : Nat) (s : State) : State :=
  let s := pcTrigger p t s
  let x := s.thread p t
  let v := (x.x (bits w 15 5)).toNat
  if !semOperandOk v 5 then coreTrap p t 24 v s
  else if 1 ≤ s.semLeft p v then retireAt p t (x.setX (bits w 7 5) 1) (x.pc + 4) (setSem p v (s.sem p v - 1) s)
  else retireAt p t (x.setX (bits w 7 5) 0) (x.pc + 4) s

/-- SEM_TRY (R129). -/
def execSemTry (p : Fin 68) (t : Fin 8) (s : State) : Host.Outcome State Fault Refusal :=
  .next (match customAt s p.val t.val 0x0B 3 with | some w => semTry p.val t.val w s | none => s)

/-- SEM_READ (R129). -/
def semRead (p t w : Nat) (s : State) : State :=
  let s := pcTrigger p t s
  let x := s.thread p t
  let v := (x.x (bits w 15 5)).toNat
  if !semOperandOk v 5 then coreTrap p t 24 v s
  else retireAt p t (x.setX (bits w 7 5) (BitVec.ofNat 64 (s.semLeft p v))) (x.pc + 4) s

/-- SEM_READ (R129). -/
def execSemRead (p : Fin 68) (t : Fin 8) (s : State) : Host.Outcome State Fault Refusal :=
  .next (match customAt s p.val t.val 0x0B 5 with | some w => semRead p.val t.val w s | none => s)

/-- The player of a rank in the job on a player (R155). -/
def State.playerOfRank (s : State) (p rank : Nat) : Option Nat := (s.jobOf p).bind (fun j => j.players[rank]?)

/-- SEM_POST (R129, R137, R156): a local post acts at once, a remote one travels. -/
def semPost (p t w : Nat) (s : State) : State :=
  let s := pcTrigger p t s
  let x := s.thread p t
  let v := (x.x (bits w 15 5)).toNat
  let n := (x.x (bits w 20 5)).toNat
  if !semOperandOk v 12 || !semOperandOk n 8 then coreTrap p t 24 (if semOperandOk v 12 then n else v) s
  else if bits v 11 1 = 1 then
    match s.playerOfRank p (bits v 5 6) with
    | none => coreTrap p t 24 v s
    | some q =>
      let s := setPly q { s.ply q with posts := (s.ply q).posts ++ [(p, v % 32, n)] } s
      retireAt p t (s.thread p t) (x.pc + 4) s
  else
    let s := semAdd p (v % 32) n t s
    retireAt p t (s.thread p t) (x.pc + 4) s

/-- SEM_POST (R129, R137, R156). -/
def execSemPost (p : Fin 68) (t : Fin 8) (s : State) : Host.Outcome State Fault Refusal :=
  .next (match customAt s p.val t.val 0x0B 4 with | some w => semPost p.val t.val w s | none => s)

/-- REMOTE_POST_ARRIVE (R137, R156): the oldest post from a source arrives. -/
def execRemotePostArrive (p src : Fin 68) (s : State) : Host.Outcome State Fault Refusal :=
  let k := s.ply p.val
  match k.posts.find? (fun x => x.1 == src.val) with
  | none => .next s
  | some x => .next (semAdd p.val x.2.1 x.2.2 0 (touch p.val (setPly p.val { k with posts := k.posts.erase x } s)))

/-! Fence, barrier, yield and the end of a thread -/

/-- Whether a thread has a cue in one of the masked queues. -/
def State.fenced (s : State) (p t mask : Nat) : Bool :=
  (List.range 6).any (fun i => bits mask i 1 == 1 && (tget (s.ply p).queues [] (i + 1)).any (fun c => c.thread == t))

/-- FENCE_CUE (R129). -/
def fenceCue (p t w : Nat) (s : State) : State :=
  let s := pcTrigger p t s
  let x := s.thread p t
  let v := (x.x (bits w 15 5)).toNat
  if !semOperandOk v 6 then coreTrap p t 24 v s
  else if s.fenced p t v then setThread p t { x with st := 5, wait := v } s
  else retireAt p t x (x.pc + 4) s

/-- FENCE_CUE (R129). -/
def execFenceCue (p : Fin 68) (t : Fin 8) (s : State) : Host.Outcome State Fault Refusal :=
  .next (match customAt s p.val t.val 0x2B 0 with | some w => fenceCue p.val t.val w s | none => s)

/-- FENCE_CUE_RELEASE (R129). -/
def execFenceCueRelease (p : Fin 68) (t : Fin 8) (s : State) : Host.Outcome State Fault Refusal :=
  let x := s.thread p.val t.val
  if x.st ≠ 5 ∨ !s.jobRuns p.val ∨ s.fenced p.val t.val x.wait then .next s
  else .next (retireAt p.val t.val { x with st := 1 } (x.pc + 4) s)

/-- Release every thread waiting in the barrier of a job (R157). -/
def releaseBarrier (id : Nat) (j : Job) (s : State) : State :=
  let s := { s with jobs := tput s.jobs id { j with barrier := none } }
  j.players.foldl (fun a q =>
    let a := setPly q { a.ply q with barrier := none } a
    (List.range 8).foldl (fun b t =>
      let x := b.thread q t
      if x.st = 4 then retireAt q t { x with st := 1 } (x.pc + 4) b
      else if x.st = 9 ∧ x.held = 4 then setThread q t { x with held := 1, pc := x.pc + 4, instret := x.instret + 1 } b
      else b) a) s

/-- BAR (R157). -/
def bar (p t w : Nat) (s : State) : State :=
  let s := pcTrigger p t s
  let x := s.thread p t
  let v := (x.x (bits w 15 5)).toNat
  if !semOperandOk v 8 then coreTrap p t 24 v s
  else match (s.ply p).job with
    | none => s
    | some id => match tget? s.jobs id with
      | none => s
      | some j =>
        if (s.ply p).barrier.isSome ∨ (j.barrier.isSome ∧ j.barrier ≠ some v) then coreTrap p t 25 v s
        else
          let s := setThread p t { x with st := 4, wait := v } (setPly p { s.ply p with barrier := some v } s)
          let j := { j with barrier := some v }
          let s := { s with jobs := tput s.jobs id j }
          if j.players.all (fun q => (s.ply q).barrier.isSome) then releaseBarrier id j s else s

/-- BAR (R157). -/
def execBar (p : Fin 68) (t : Fin 8) (s : State) : Host.Outcome State Fault Refusal :=
  .next (match customAt s p.val t.val 0x2B 1 with | some w => bar p.val t.val w s | none => s)

/-- YIELD (R143 to R145): a yield point of a tensor job; an illegal instruction in a slice job. -/
def yieldCue (p t w : Nat) (s : State) : State :=
  let x := s.thread p t
  match s.jobOf p with
  | some j =>
    if !j.tensorJob then coreTrap p t 2 w s
    else
      retireAt p t { x with st := 8 } (x.pc + 4) (traceEvent p t 3 0 s)
  | none => s

/-- YIELD, after the trace trigger at its pc (R612). -/
def yieldAt (p t w : Nat) (s : State) : State := yieldCue p t w (pcTrigger p t s)

/-- YIELD (R143, R145). -/
def execYield (p : Fin 68) (t : Fin 8) (s : State) : Host.Outcome State Fault Refusal :=
  .next (match customAt s p.val t.val 0x2B 2 with | some w => yieldAt p.val t.val w s | none => s)

/-- JOB_END (R129, R142). -/
def jobEnd (p t w : Nat) (s : State) : State :=
  let s := pcTrigger p t s
  let x := s.thread p t
  let v := (x.x (bits w 15 5)).toNat
  if !semOperandOk v 32 then coreTrap p t 24 v s
  else
    let s := closeIdle p (retireAt p t { x with st := 6 } (x.pc + 4) (traceEvent p t 2 v s))
    if v = 0 then s else plyFault p 5 t 0 0 0 0 0 v Code.E_SHEET_ABORT s

/-- JOB_END (R142). -/
def execJobEnd (p : Fin 68) (t : Fin 8) (s : State) : Host.Outcome State Fault Refusal :=
  .next (match customAt s p.val t.val 0x2B 3 with | some w => jobEnd p.val t.val w s | none => s)

/-! Engines -/

/-- The cue at the head of a queue that its engine can start or is running, of an operation (R134, R135). -/
def headCue (s : State) (p cls op : Nat) : Option QCue :=
  match tget (s.ply p).queues [] cls with
  | c :: _ =>
    if cOp c.cue = op ∧ !c.started ∧ s.jobRuns p ∧ (!cWaitEn c.cue || decide (s.engineTakes p (cWait c.cue) cls < s.sem p (cWait c.cue))) then some c else none
  | [] => none

/-- Replace the head of a queue. -/
def setHead (p cls : Nat) (c : QCue) (s : State) : State :=
  let k := s.ply p
  setPly p { k with queues := tput k.queues cls (c :: (tget k.queues [] cls).tail) } s

/-- A cue starts: it takes its WAIT (R135). -/
def startCue (p cls : Nat) (c : QCue) (s : State) : State :=
  let s := if cWaitEn c.cue then setSem p (cWait c.cue) (s.sem p (cWait c.cue) - 1) s else s
  touch p (setHead p cls { c with started := true } s)

/-- A cue has written its outputs and can complete. -/
def ranCue (p cls : Nat) (c : QCue) (s : State) : State := setHead p cls { c with started := true, ran := true } s

/-- The head of a queue completes: its entry is freed and its SIG posted (R134, R136); the last one may leave the player idle (R194). -/
def completeHead (p cls : Nat) (s : State) : State :=
  let k := s.ply p
  match tget k.queues [] cls with
  | [] => s
  | c :: t =>
    let s := closeIdle p (touch p (bump (0x100 + p) Cnt.PLY_CUES_DONE 1 (setPly p { k with queues := tput k.queues cls t } s)))
    if cSigEn c.cue then semAdd p (cSig c.cue) 1 0 s else s

/-- CUE_NOP (R130): takes its WAIT, posts its SIG. -/
def execCueNop (p : Fin 68) (cls : Nat) (s : State) : Host.Outcome State Fault Refusal :=
  match headCue s p.val cls 0 with
  | some c => .next (completeHead p.val cls (startCue p.val cls c s))
  | none => .next s

end Sys2Proof.Machine
end

