-- ==== Sys2Proof/Machine/Trans.lean ====
section
/-! DEFINITION. Exponential, logarithm, hyperbolic tangent and logistic sigmoid of the vector unit (spec/02, R80): the
FP32 code just below the exact value, from fixed-point series with 200 fraction bits, and the choice of the part among the
codes within 2 units in the last place of it. -/

namespace Sys2Proof.Machine

/-- Fraction bits of the fixed-point numbers of this file. -/
def fracBits : Nat := 200

/-- 1 in fixed point. -/
def fixOne : Nat := 2 ^ fracBits

/-- ln 2 in fixed point. -/
def fixLn2 : Nat := 1113844574712631719546256151097547306333272293549090750737802

/-- m x 2^e in fixed point, cut. -/
def toFix (m : Nat) (e : Int) : Nat :=
  let k := e + fracBits
  if 0 ≤ k then m * 2 ^ k.toNat else m / 2 ^ (-k).toNat

/-- Sum of r^n / n! from a term on, `r` in fixed point. -/
def expSeries (r : Nat) : Nat → Nat → Nat → Nat
  | 0, _, _ => 0
  | fuel + 1, n, t => t + expSeries r fuel (n + 1) (t * r / fixOne / (n + 1))

/-- exp of a fixed-point number: a mantissa in fixed point, from 1 up to 2, and a power of two. -/
def fixExp (x : Nat) : Nat × Nat := (expSeries (x % fixLn2) 60 0 fixOne, x / fixLn2)

/-- Sum of z^(2n+1) / (2n+1) from a term on; `z2` is z squared. -/
def atanhSeries (z2 : Nat) : Nat → Nat → Nat → Nat
  | 0, _, _ => 0
  | fuel + 1, n, t => t / (2 * n + 1) + atanhSeries z2 fuel (n + 1) (t * z2 / fixOne)

/-- ln of m x 2^e for m above 0, in fixed point. -/
def fixLn (m : Nat) (e : Int) : Int :=
  let l := Nat.log2 m
  let y := toFix m (-(l : Int))
  let z := (y - fixOne) * fixOne / (y + fixOne)
  (e + l) * (fixLn2 : Int) + (2 * atanhSeries (z * z / fixOne) 70 0 z : Nat)

/-- The greatest FP32 code at or below m x 2^e, at most the largest finite one. -/
def floorCode (m : Nat) (e : Int) : Nat :=
  if m = 0 then 0
  else
    let q := max f32.emin (e + Nat.log2 m - f32.mb)
    let n := if q ≤ e then m * 2 ^ (e - q).toNat else m / 2 ^ (q - e).toNat
    min ((q - f32.emin).toNat * 2 ^ f32.mb + n) (f32.infCode - 1)

/-- FP32 codes in the order of their values: the code of a magnitude, its negative below 0. -/
def ordCode (neg : Bool) (c : Nat) : Int := if neg then -(c : Int) else c

/-- The FP32 code at a place of that order, at most infinity. -/
def codeAt (i : Int) : Nat := min i.natAbs f32.infCode + bit (decide (i < 0)) * f32.sign

/-- The place just below a value of magnitude m x 2^e that is no FP32 number. -/
def belowPlace (neg : Bool) (m : Nat) (e : Int) : Int := if neg then -(floorCode m e : Int) - 1 else floorCode m e

/-- Where the exact value of a function stands among the FP32 numbers. -/
inductive Near where
  | is (x : Fp)            -- a special value that the rules give
  | exact (i : Int)        -- the number at place i
  | above (i : Int)        -- between the places i and i + 1
deriving DecidableEq, Repr

/-- The result of R80: a code within 2 units in the last place, chosen by `u`, which is the part's own. -/
def Near.pick (n : Near) (u : Nat) : Fp :=
  match n with
  | .is x => x
  | .exact i => Fp.of f32 (codeAt (i - 2 + (u % 5 : Nat)))
  | .above i => Fp.of f32 (codeAt (i - 1 + (u % 4 : Nat)))

/-- exp; an exact result above the range is infinity (R46). 0x42B17217 is the last argument below ln of the range's end. -/
def nearExp : Fp → Near
  | .nan => .is .nan
  | .inf neg => .is (if neg then .fin false 0 0 else .inf false)
  | .fin neg m e =>
    if m = 0 then .exact 0x3F800000
    else if (Fp.of f32 0x43000000).lt (.fin false m e) then (if neg then .above 0 else .is (.inf false))
    else
      let r := fixExp (toFix m e)
      if neg then .above (belowPlace false (fixOne * fixOne / r.1) (-(fracBits : Int) - r.2))
      else if (Fp.of f32 0x42B17217).lt (.fin false m e) then .is (.inf false)
      else .above (belowPlace false r.1 ((r.2 : Int) - fracBits))

/-- Natural logarithm; of 0 the spec gives no result: `zero` (log entry 166). -/
def nearLn (zero : Fp) : Fp → Near
  | .nan => .is .nan
  | .inf neg => .is (if neg then .nan else .inf false)
  | .fin neg m e =>
    if m = 0 then .is zero
    else if neg then .is .nan
    else
      let v := fixLn m e
      if v = 0 then .exact 0 else .above (belowPlace (decide (v < 0)) v.natAbs (-(fracBits : Int)))

/-- The mantissa and power of two of exp of a magnitude below 2^8. -/
def expMag (m : Nat) (e : Int) : Nat := let r := fixExp (toFix m e); r.1 * 2 ^ r.2

/-- Hyperbolic tangent. A magnitude below 2^-12 has a result in the unit just below it; one above 64 in that below 1. -/
def nearTanh : Fp → Near
  | .nan => .is .nan
  | .inf neg => .exact (ordCode neg 0x3F800000)
  | .fin neg m e =>
    if m = 0 then .exact 0
    else if (Fp.fin false m e).lt (.fin false 1 (-12)) then
      let c := roundCode f32 m e
      .above (if neg then -(c : Int) else c - 1)
    else if (Fp.fin false 64 0).lt (.fin false m e) then .above (if neg then -0x3F800000 else 0x3F7FFFFF)
    else
      let x := expMag m (e + 1)
      .above (belowPlace neg (fixOne * (x - fixOne) / (x + fixOne)) (-(fracBits : Int)))

/-- Logistic sigmoid. -/
def nearSigmoid : Fp → Near
  | .nan => .is .nan
  | .inf neg => .exact (if neg then 0 else 0x3F800000)
  | .fin neg m e =>
    if m = 0 then .exact 0x3F000000
    else if (Fp.fin false 128 0).lt (.fin false m e) then .above (if neg then 0 else 0x3F7FFFFF)
    else
      let x := expMag m e
      if neg then .above (belowPlace false (2 ^ (2 * fracBits + 200) / (x + fixOne)) (-(fracBits : Int) - 200))
      else .above (belowPlace false (x * fixOne / (x + fixOne)) (-(fracBits : Int)))

/-- log2 of a number above 0, in fixed point over ln 2; exact at a power of two. -/
def nearLog2 (m : Nat) : Near :=
  let l := Nat.log2 m
  if m = 2 ^ l then .exact (roundCode f32 l 0)
  else .above (belowPlace false ((fixLn m 0).natAbs * fixOne / fixLn2) (-(fracBits : Int)))

/-- An FP32 division (R46, R80); of a dividend other than 0 by a zero the spec gives no result, and the value is the part's
(log entry 166). -/
def Fp.quot (a b : Fp) : Fp :=
  match a, b with
  | .nan, _ => .nan
  | .fin _ 0 _, _ => (a.div b).r32
  | _, .fin _ 0 _ => Fp.of f32 (Config.divZero (BitVec.ofNat 32 (a.code f32)) (BitVec.ofNat 32 (b.code f32))).toNat
  | _, _ => (a.div b).r32

end Sys2Proof.Machine
end

