-- ==== Sys2Proof/Machine/Engines.lean ====
section
/-! DEFINITION. The array, the vector unit and the table unit: what their cues compute (spec/04, R113 to R121; spec/02 and
spec/03). Operands are read from and results written to the local store of the player. -/

namespace Sys2Proof.Machine

/-! Elements of the local store -/

/-- The code of element i of a run that starts at a byte of a player's local store (R39). -/
def lsElem (s : State) (p base fmt i : Nat) : Nat :=
  if fmt = 0 then bits (memGet s.mem (lsAddr p (base + i / 2))).toNat (4 * (i % 2)) 4
  else s.load (lsAddr p (base + fmtBits fmt / 8 * i)) (fmtBits fmt / 8)

/-- The value of an element. -/
def lsVal (s : State) (p base fmt i : Nat) : Fp := elemValue fmt (lsElem s p base fmt i)

/-- The integer of an element. -/
def lsInt (s : State) (p base fmt i : Nat) : Int := signed (fmtBits fmt) (lsElem s p base fmt i)

/-- INT4 codes, two to a byte, the first in the low half. -/
def packPairs : List Nat → List Byte
  | [] => []
  | [a] => [BitVec.ofNat 8 (a % 16)]
  | a :: b :: t => BitVec.ofNat 8 (a % 16 + b % 16 * 16) :: packPairs t

/-- Codes as bytes, two INT4 codes to a byte (R39). -/
def packCodes (fmt : Nat) (l : List Nat) : List Byte :=
  if fmt = 0 then packPairs l else l.flatMap (leBytes (fmtBits fmt / 8))

/-- Write codes from a byte of a player's local store. -/
def lsStore (p base fmt : Nat) (l : List Nat) (s : State) : State := s.store (lsAddr p base) (packCodes fmt l)

/-- The cue's frame and engine fail its checks: the job ends (R132). -/
def frameIllegal (p t cls pos : Nat) (s : State) : State := plyFault p 4 t cls 0 0 pos 0 0 Code.E_CUE_ILLEGAL s

/-- The package and coding state behind a player's job. -/
def State.pkgOf (s : State) (p : Nat) : Package := match s.jobOf p with | some j => j.pkg.getD {} | none => {}
def State.codecOf (s : State) (p : Nat) : Codec := match s.jobOf p with | some j => s.codecFor j | none => {}

/-- The exponent and the zero point a player writes a tensor with (R87, R96). -/
def State.expOf (s : State) (p tid ch : Nat) : Int := tensorExp (s.pkgOf p) (s.codecOf p) tid ch
def State.zpOf (s : State) (p tid : Nat) : Int := tensorZp (s.pkgOf p) tid

/-- A cue reads bytes of the local store (R161). -/
def lsRead (p n : Nat) (s : State) : State := bump (0x100 + p) Cnt.PLY_LS_READ_BYTES n s
/-- A cue writes bytes of the local store (R161). -/
def lsWrote (p n : Nat) (s : State) : State := bump (0x100 + p) Cnt.PLY_LS_WRITE_BYTES n s

/-- The tensor that a cue reads whose frame names another: a second moment's gradient (R109), the input of a transform (R180). No field
gives its number; the package pairs the two (DESIGN CHOICE, log entry 175). -/
def inputTensor (k : Package) (tid : Nat) : Nat := match k.inputOf.find? (fun x => x.1 == tid) with | some x => x.2 | none => 0xFFFF

/-! The MAC frame (spec/04) -/

/-- A MAC frame. -/
structure MacFrame where
  outFmt : Nat
  grain : Nat
  bias : Bool
  stats : Bool
  tid : Nat
  k : Nat
  biasLine : Nat
  gmLine : Nat
  rqLine : Nat
  aexpLine : Nat
  coBase : Nat
  outCh : Nat
  groups : Nat
deriving DecidableEq, Repr

/-- The group size of a reduction (R63, R85). -/
def MacFrame.g (f : MacFrame) : Nat := if f.grain = 1 ∨ f.grain = 2 ∨ f.grain = 3 then grainG f.grain else f.k

/-- The constants of a MAC frame lie in the local store (R131, R132): biases, multipliers or exponents, records. -/
def MacFrame.regionsOk (f : MacFrame) (script : Bool) : Bool :=
  let n := f.coBase + f.outCh
  (!f.bias || inLsBytes f.biasLine (n * (if script then 8 else 4))) && inLsBytes f.gmLine (n * f.groups * (if script then 4 else 1)) &&
    (if script then inLsBytes f.rqLine (32 * n) else inLsBytes f.aexpLine f.groups)

/-- Read a MAC frame; the Boolean says that it passes the checks of its layout (R132). -/
def readMacFrame (s : State) (p line : Nat) (script : Bool) : MacFrame × Bool :=
  let b := s.bytes (lsAddr p (64 * line)) 64
  let f : MacFrame := { outFmt := bits (leAt b 0 1) 0 4, grain := bits (leAt b 0 1) 4 4, bias := bits (leAt b 1 1) 0 1 == 1, stats := bits (leAt b 1 1) 1 1 == 1, tid := leAt b 2 2, k := leAt b 4 4, biasLine := leAt b 8 2, gmLine := leAt b 10 2, rqLine := leAt b 12 2, aexpLine := leAt b 14 2, coBase := leAt b 16 2, outCh := bits (leAt b 18 2) 0 7, groups := leAt b 20 2 }
  (f, (if script then scriptFmt f.outFmt && decide (1 ≤ f.grain) && f.aexpLine == 0 else decide (f.outFmt ≤ 7) && f.rqLine == 0) &&
    decide (f.grain ≤ 4 ∧ bits (leAt b 1 1) 2 6 = 0 ∧ 1 ≤ f.k ∧ f.k ≤ 2 ^ 22 ∧ 1 ≤ f.outCh ∧ f.outCh ≤ 64 ∧ bits (leAt b 18 2) 7 9 = 0 ∧
      f.groups = (f.k + f.g - 1) / f.g) && (b.drop 0x16).all (· == 0) && f.regionsOk script)

/-- A requantisation record in the local store (spec/04). -/
def readRequant (s : State) (p base : Nat) : Requant := requantOf (s.bytes (lsAddr p base) 32)

/-! The array -/

/-- The accumulator entry of a column and a position. -/
def accKey (o pos : Nat) : Nat := 64 * o + pos

/-- Profiles of accumulation: Script, Ad-lib integer (INT32 partial sums), Ad-lib floating. -/
inductive MacKind where
  | script | adlibInt | adlibFp
deriving DecidableEq, Repr

/-- Close the open group of an entry (R65, R89, R90, R116). `p` is the partial sum, an FP32 code in floating Ad-lib. -/
def closeGroup (kind : MacKind) (acc p m : Int) : Int :=
  match kind with
  | .script => wrap64 (acc + p * m)
  | .adlibInt => ((Fp.of f32 acc.toNat).add (((Fp.ofInt p).r32).scale m)).code f32
  | .adlibFp => ((Fp.of f32 acc.toNat).add ((Fp.of f32 p.toNat).scale m)).code f32

/-- Add one product to a partial sum (R65, R78, R79). -/
def addProduct (kind : MacKind) (p : Int) (w a : Fp) (wi ai : Int) : Int :=
  match kind with
  | .script => wrap40 (p + wi * ai)
  | .adlibInt => wrapS 32 (p + wi * ai)
  | .adlibFp => ((Fp.of f32 p.toNat).add (w.mul a)).code f32

/-- Everything one MAC cue reads besides its operands. -/
structure MacJob where
  kind : MacKind
  fw : Nat
  fa : Nat
  wLine : Nat
  aLine : Nat
  pos : Nat
  steps : Nat
  koff : Nat
  frame : MacFrame
deriving DecidableEq, Repr

/-- The group multiplier of Script or the summed exponents of Ad-lib (R65, R89). -/
def groupScale (s : State) (p : Nat) (j : MacJob) (o g : Nat) : Int :=
  let idx := (j.frame.coBase + o) * j.frame.groups + g
  match j.kind with
  | .script => signed 32 (s.load (lsAddr p (64 * j.frame.gmLine + 4 * idx)) 4)
  | _ => signed 8 (s.load (lsAddr p (64 * j.frame.gmLine + idx)) 1) + signed 8 (s.load (lsAddr p (64 * j.frame.aexpLine + g)) 1)

/-- The steps of one accumulator entry: products k from `k` on, `n` of them, closing groups (R115, R116). R78 leaves open the order in
which floating products of one group are added: they are added in ascending k (DESIGN CHOICE, log entry 169). -/
def macEntry (s : State) (p : Nat) (j : MacJob) (o pos : Nat) : Nat → Nat → Int × Int → Int × Int
  | 0, _, x => x
  | n + 1, k, (acc, part) =>
    if j.frame.k ≤ k then (acc, part)
    else
      let d := stepDepth j.fw j.fa
      let st := k / d - j.koff
      let wb := 64 * (j.wLine + (st * 64 + o) * fmtLines j.fw)
      let ab := 64 * (j.aLine + (st * j.pos + pos) * fmtLines j.fa)
      let i := k % d
      let part := addProduct j.kind part (lsVal s p wb j.fw i) (lsVal s p ab j.fa i) (lsInt s p wb j.fw i) (lsInt s p ab j.fa i)
      if (k + 1) % j.frame.g = 0 ∨ k + 1 = j.frame.k then
        macEntry s p j o pos n (k + 1) (closeGroup j.kind acc part (groupScale s p j o (k / j.frame.g)), 0)
      else macEntry s p j o pos n (k + 1) (acc, part)

/-- The bias of an output channel (R117). -/
def biasOf (s : State) (p : Nat) (kind : MacKind) (f : MacFrame) (o : Nat) : Int :=
  if !f.bias then 0
  else match kind with
    | .script => signed 64 (s.load (lsAddr p (64 * f.biasLine + 8 * (f.coBase + o))) 8)
    | _ => s.load (lsAddr p (64 * f.biasLine + 4 * (f.coBase + o))) 4

/-- The steps of a MAC cue over one bank (R116, R117). -/
def macSteps (s : State) (p : Nat) (j : MacJob) (clr : Bool) (b : Acc) : Acc :=
  (List.range j.frame.outCh).foldl (fun b o =>
    (List.range j.pos).foldl (fun (b : Acc) pos =>
      let key := accKey o pos
      let x := if clr then (biasOf s p j.kind j.frame o, 0) else (tget b.acc 0 key, tget b.part 0 key)
      let d := stepDepth j.fw j.fa
      let r := macEntry s p j o pos (j.steps * d) (j.koff * d) x
      { acc := dput 0 b.acc key r.1, part := dput 0 b.part key r.2 }) b) (if clr then {} else b)

/-- The output of one entry: its code and what it counts (R66, R87, R117). A group still open is closed. -/
def macOut (s : State) (p : Nat) (j : MacJob) (b : Acc) (o pos : Nat) (e zp : Int) : Nat × Fp × Cstat :=
  let key := accKey o pos
  let part := tget b.part 0 key
  let acc0 := tget b.acc 0 key
  let last := min (j.koff + j.steps) ((j.frame.k + stepDepth j.fw j.fa - 1) / stepDepth j.fw j.fa) * stepDepth j.fw j.fa
  let acc := if part = 0 then acc0 else closeGroup j.kind acc0 part (groupScale s p j o ((last - 1) / j.frame.g))
  match j.kind with
  | .script =>
    let r := requantise acc (readRequant s p (64 * j.frame.rqLine + 32 * (j.frame.coBase + o)))
    (wrapTo (fmtBits j.frame.outFmt) r.1, Fp.ofInt acc, r.2)
  | _ =>
    let r := convert j.frame.outFmt e zp (Fp.of f32 acc.toNat)
    (r.1, Fp.of f32 acc.toNat, r.2)

/-- The drain of a bank: lines of each position, the maxima and the statistics (R95, R102, R117). The bytes of a line beyond OUT_CH keep
what they held (DESIGN CHOICE, log entry 170). -/
def macDrain (p oLine : Nat) (j : MacJob) (b : Acc) (s : State) : State :=
  let f := j.frame
  (List.range j.pos).foldl (fun a pos =>
    let outs := (List.range f.outCh).map (fun o => macOut s p j b o pos (s.expOf p f.tid (f.coBase + o)) (s.zpOf p f.tid))
    let a := lsStore p (64 * (oLine + pos * fmtLines f.outFmt)) f.outFmt (outs.map (·.1)) a
    countStats p f.tid f.stats (outs.map (·.2)) (lsWrote p (fmtBytes f.outFmt f.outCh) a)) s

/-- MAC_PSUM (R113 to R119, R132). -/
def execMacPsum (p : Fin 68) (s : State) : Host.Outcome State Fault Refusal :=
  match headCue s p.val 1 1 with
  | none => .next s
  | some c =>
    let q := c.cue
    let script := cScript q
    let fw := bits q 24 4
    let fa := bits q 28 4
    let fr := readMacFrame s p.val (bits q 80 16) script
    let s := startCue p.val 1 c s
    let pos := bits q 96 6 + 1
    let out := bits q 112 1 == 1
    if !fr.2 || (out && !inLs (bits q 64 16) (pos * fmtLines fr.1.outFmt)) then .next (frameIllegal p.val c.thread 1 80 s)
    else
      let kind := if script then MacKind.script else if fw ≤ 1 then .adlibInt else .adlibFp
      let j : MacJob := { kind, fw, fa, wLine := bits q 32 16, aLine := bits q 48 16, pos, steps := bits q 103 8 + 1, koff := bits q 113 15, frame := fr.1 }
      let bank := bits q 102 1
      let b := macSteps s p.val j (bits q 111 1 == 1) (tget (s.ply p.val).acc {} bank)
      let s := setPly p.val { s.ply p.val with acc := tput (s.ply p.val).acc bank b } s
      let s := bump (0x100 + p.val) Cnt.PLY_MACS (pos * 64 * j.steps * stepDepth fw fa) s
      let s := lsRead p.val (64 * (j.steps * (64 * fmtLines fw + pos * fmtLines fa) + 1)) s
      let s := if out then macDrain p.val (bits q 64 16) j b s else s
      .next (ranCue p.val 1 { c with started := true } s)

/-! The vector unit -/

/-- A VEC frame (spec/04). -/
structure VecFrame where
  tid : Nat
  group : Nat
  ka : Int
  kb : Int
  za : Int
  zb : Int
  rq : Requant
  adam : List Nat
  ok : Bool
deriving DecidableEq, Repr

/-- Read a VEC frame for an operation and a profile: reserved bits, ADAM for that operation alone, the group of SCALE, the record of
Script ELT and CONV (R132). -/
def readVecFrame (s : State) (p line op : Nat) (script : Bool) : VecFrame :=
  let base := 64 * line
  let b := s.bytes (lsAddr p base) 64
  let rq := readRequant s p (base + 16)
  { tid := leAt b 0 2, group := leAt b 2 1, ka := signed 32 (leAt b 4 4), kb := signed 32 (leAt b 8 4), za := signed 16 (leAt b 12 2), zb := signed 16 (leAt b 14 2), rq, adam := (List.range 4).map (fun i => leAt b (48 + 4 * i) 4),
    ok := leAt b 3 1 == 0 && decide (leAt b 32 1 < 64) && ((b.drop 33).take 15).all (· == 0) && (op == 5 || (b.drop 48).all (· == 0)) &&
      (op != 4 || leAt b 2 1 == 32 || leAt b 2 1 == 64 || leAt b 2 1 == 128) && (!(script && (op == 1 || op == 3)) || decide (rq.lo ≤ rq.hi)) }

/-- The parts of a VEC cue that its operation reads. -/
structure VecJob where
  script : Bool
  fin : Nat
  fout : Nat
  src0 : Nat
  src1 : Nat
  dst : Nat
  n : Nat            -- elements
  sub : Nat
  frame : VecFrame
deriving DecidableEq, Repr

/-- An output element: its code, its source value, what it counts. -/
abbrev VOut := Nat × Fp × Cstat

/-- A Script integer result through requantisation (R66). -/
def outRq (j : VecJob) (acc : Int) : VOut :=
  let r := requantise acc j.frame.rq
  (wrapTo (fmtBits j.fout) r.1, Fp.ofInt acc, r.2)

/-- An integer result saturated to the output format (R55). -/
def outSat (j : VecJob) (v : Int) : VOut :=
  let r := convert j.fout 0 0 (Fp.ofInt v)
  (r.1, Fp.ofInt v, match r.2 with | .underflow => .plain | x => x)

/-- An FP32 result converted with an exponent and a zero point (R87). -/
def outFp (j : VecJob) (e zp : Int) (x : Fp) : VOut :=
  let r := convert j.fout e zp x
  (r.1, x, r.2)

/-- ELT (R49, R67, R68, R80); every Script sub-operation with requantisation (R66, R120). The Ad-lib outputs of ELT, FUNC and REDUCE
are converted with exponent 0 and zero point 0: the spec names a tensor's own for the MAC drain and CONV alone (DESIGN CHOICE, log
entry 171). -/
def vecElt (s : State) (p : Nat) (j : VecJob) (e zp : Int) (i : Nat) : VOut :=
  if j.script then
    let a := lsInt s p j.src0 j.fin i
    let b := lsInt s p j.src1 j.fin i
    match j.sub with
    | 0 => outRq j (scriptAdd a b j.frame.za j.frame.zb j.frame.ka j.frame.kb)
    | 1 => outRq j (scriptMul a b j.frame.za j.frame.zb)
    | 2 => outRq j (max a b)
    | _ => outRq j (min a b)
  else
    let a := lsVal s p j.src0 j.fin i
    let b := lsVal s p j.src1 j.fin i
    outFp j e zp (match j.sub with
      | 0 => (a.add b).r32 | 1 => (a.mul b).r32 | 2 => a.max b | 3 => a.min b | _ => (a.add b.neg).r32)

/-- FUNC (R46, R80): exp, log, tanh and sigmoid within 2 units in the last place, the part's choice among those codes; square root,
reciprocal and quotient rounded once. -/
def vecFunc (s : State) (p : Nat) (j : VecJob) (i : Nat) : VOut :=
  let a := (lsVal s p j.src0 j.fin i).r32
  let w := BitVec.ofNat 32 (a.code f32)
  outFp j 0 0 (match j.sub with
    | 0 => (nearExp a).pick (Config.expUlp w)
    | 1 => (nearLn (Fp.of f32 (Config.lnZero w).toNat) a).pick (Config.lnUlp w)
    | 2 => (nearTanh a).pick (Config.tanhUlp w)
    | 3 => (nearSigmoid a).pick (Config.sigmoidUlp w)
    | 4 => a.sqrt.r32
    | 5 => Fp.quot (Fp.ofInt 1) a
    | _ => Fp.quot a (lsVal s p j.src1 j.fin i).r32)

/-- CONV (R66, R87); the index of the element stands for its channel where the scale is grouped (DESIGN CHOICE, log entry 172). -/
def vecConv (s : State) (p : Nat) (j : VecJob) (e zp : Int) (i : Nat) : VOut :=
  if j.script then outRq j (lsInt s p j.src0 j.fin i) else outFp j e zp (lsVal s p j.src0 j.fin i)

/-- WARP on four gathered taps (R72, R120). -/
def vecWarp (s : State) (p : Nat) (j : VecJob) (i : Nat) : VOut :=
  let fx := lsInt s p j.src1 2 (2 * i)
  let fy := lsInt s p j.src1 2 (2 * i + 1)
  let ax := (fx % 16).toNat
  let ay := (fy % 16).toNat
  if j.script then
    let t (k : Nat) := lsInt s p j.src0 j.fin (4 * i + k)
    outSat j (warpTaps ax ay (t 0) (t 1) (t 2) (t 3))
  else
    let taps := (List.range 4).map (fun k => BitVec.ofNat 32 ((lsVal s p j.src0 j.fin (4 * i + k)).code f32))
    outFp j 0 0 (Fp.of f32 (Config.bilinear ax ay taps).toNat)

/-- REDUCE over row i of 64 (R49, R68, R80, R168); the sum runs in ascending order. -/
def vecReduce (s : State) (p : Nat) (j : VecJob) (i : Nat) : VOut :=
  if j.script then
    let l := (List.range 64).map (fun k => lsInt s p j.src0 j.fin (64 * i + k))
    let h := l.headD 0
    outSat j (match j.sub with
      | 0 => l.foldl (fun a b => wrap64 (a + b)) 0
      | 1 => l.foldl (fun a b => max a (b.natAbs : Int)) 0
      | 2 => l.foldl max h
      | _ => l.foldl min h)
  else
    let l := (List.range 64).map (fun k => lsVal s p j.src0 j.fin (64 * i + k))
    let h := l.headD .nan
    outFp j 0 0 (match j.sub with
      | 0 => l.foldl (fun a b => (a.add b).r32) (Fp.ofInt 0)
      | 1 => l.foldl (fun a b => a.max b.abs) (Fp.ofInt 0)
      | 2 => l.foldl Fp.max h
      | _ => l.foldl Fp.min h)

/-- MOVE: the source index of element i (R68, R120). -/
def moveSrc (j : VecJob) (i : Nat) : Nat :=
  match j.sub with
  | 0 => i
  | 1 => i / 4096 * 4096 + i % 64 * 64 + i / 64 % 64
  | k => Config.moveIndex k j.n i % j.n

/-- Run a VEC cue: its operation on the frame and operands (R132). -/
def runVec (op : Nat) (body : Nat → VecJob → State → State) (p : Fin 68) (s : State) :
    Host.Outcome State Fault Refusal :=
  match headCue s p.val 2 op with
  | none => .next s
  | some c =>
    let q := c.cue
    let f := readVecFrame s p.val (bits q 80 16) op (cScript q)
    let j : VecJob := { script := cScript q, fin := bits q 24 4, fout := bits q 28 4, src0 := 64 * bits q 32 16, src1 := 64 * bits q 48 16, dst := 64 * bits q 64 16, n := 64 * (bits q 96 16 + 1), sub := bits q 112 4, frame := f }
    let s := startCue p.val 2 c s
    if !f.ok || (op == 4 && !inLsBytes (bits q 48 16) (upDiv j.n f.group)) then .next (frameIllegal p.val c.thread 2 80 s)
    else
      let s := lsRead p.val (vecSrc0 op j.fin j.n + (if op = 4 then 0 else vecSrc1 op j.sub j.fin j.n) + 64) s
      .next (ranCue p.val 2 { c with started := true } (body p.val j s))

/-- Write the elements of an operation and count those that a conversion wrote (R102). -/
def vecWrite (p : Nat) (j : VecJob) (n : Nat) (count : Bool) (f : Nat → VOut) (s : State) : State :=
  let outs := (List.range n).map f
  let s := lsWrote p (fmtBytes j.fout n) (lsStore p j.dst j.fout (outs.map (·.1)) s)
  if count then countStats p j.frame.tid true (outs.map (·.2)) s else s

/-- VEC_ELT (R67). -/
def execVecElt (p : Fin 68) (s : State) : Host.Outcome State Fault Refusal :=
  runVec 1 (fun p j s => vecWrite p j j.n true (vecElt s p j 0 0) s) p s

/-- VEC_FUNC (R80). -/
def execVecFunc (p : Fin 68) (s : State) : Host.Outcome State Fault Refusal :=
  runVec 2 (fun p j s => vecWrite p j j.n true (vecFunc s p j) s) p s

/-- VEC_CONV (R66, R87). -/
def execVecConv (p : Fin 68) (s : State) : Host.Outcome State Fault Refusal :=
  runVec 3 (fun p j s => vecWrite p j j.n true (fun i => vecConv s p j (s.expOf p j.frame.tid i) (s.zpOf p j.frame.tid) i) s) p s

/-- SCALE: codes with each group's own exponent, and the exponents in the companion tensor at SRC1 (R100). -/
def vecScale (p : Nat) (j : VecJob) (s : State) : State :=
  let d := (descOf (s.pkgOf p) j.frame.tid).getD []
  let g := j.frame.group
  let ex (n : Nat) : Int :=
    let a := (List.range (min g (j.n - n * g))).foldl (fun m k => match lsVal s p j.src0 j.fin (n * g + k) with | .fin _ x e => m.max (.fin false x e) | _ => m) (Fp.ofInt 0)
    scaleExponent a (dMargin d) (fmtF j.fout) (dEmin d) (dEmax d)
  let es := (List.range (upDiv j.n g)).map ex
  let s1 := vecWrite p j j.n true (fun i => outFp j (es.getD (i / g) 0) (s.zpOf p j.frame.tid) (lsVal s p j.src0 j.fin i)) s
  lsWrote p es.length (s1.store (lsAddr p j.src1) (es.map (fun e => BitVec.ofNat 8 (wrapTo 8 e))))

/-- VEC_SCALE (R100). -/
def execVecScale (p : Fin 68) (s : State) : Host.Outcome State Fault Refusal :=
  runVec 4 (fun p j s => vecScale p j s) p s

/-- An update of the step of the job on a player is suppressed (R110, R111). -/
def stepSkipped (p : Nat) (s : State) : State :=
  match (s.ply p).job with
  | none => s
  | some id => match tget? s.jobs id with | some j => { s with jobs := tput s.jobs id { j with skipped := true, update := 2 } } | none => s

/-- The job on a player has made an update of its step. -/
def stepUpdated (p : Nat) (s : State) : State :=
  match (s.ply p).job with
  | none => s
  | some id => match tget? s.jobs id with | some j => { s with jobs := tput s.jobs id { j with update := max 1 j.update } } | none => s

/-- The FP32 power b^t by repeated rounded products. -/
def powF (b : Fp) : Nat → Fp
  | 0 => Fp.ofInt 1
  | n + 1 => ((powF b n).mul b).r32

/-- One element of the Adam step in FP32 (R80, R109): new w, m, v. Each operation is rounded on its own, in the order of the formula's
brackets, and a power is a product of products (DESIGN CHOICE, log entry 173). -/
def adamStep (prm : List Nat) (t : Nat) (w m v g : Fp) : Fp × Fp × Fp :=
  let c (i : Nat) := Fp.of f32 (prm.getD i 0)
  let one := Fp.ofInt 1
  let sub (a b : Fp) := (a.add b.neg).r32
  let mul (a b : Fp) := (a.mul b).r32
  let m1 := ((mul (c 0) m).add (mul (sub one (c 0)) g)).r32
  let v1 := ((mul (c 1) v).add (mul (mul (sub one (c 1)) g) g)).r32
  let mh := Fp.quot m1 (sub one (powF (c 0) t))
  let vh := Fp.quot v1 (sub one (powF (c 1) t))
  let den := (vh.sqrt.r32.add (c 2)).r32
  (sub w (mul (c 3) (Fp.quot mh den)), m1, v1)

/-- Whether the update of the step is suppressed (R110): an element of the gradient tensor was coded as infinite or NaN in this step, or
one of this cue's is. -/
def adamSkips (s : State) (p : Nat) (j : VecJob) (jb : Job) : Bool :=
  sbSkip (s.codecOf p).stat && ((tget jb.marks (0, false) (inputTensor (s.pkgOf p) j.frame.tid)).2 ||
    (List.range j.n).any (fun i => match lsVal s p j.src0 j.fin i with | .fin .. => false | _ => true))

/-- Exponents of the groups of 32 of the first moments, in current mode under the descriptor of the cue's tensor (R100). -/
def momentExps (d : List Byte) (ms : List Fp) : List Int :=
  (List.range ((ms.length + 31) / 32)).map (fun n =>
    scaleExponent (((ms.drop (32 * n)).take 32).foldl (fun a x => match x with | .fin _ m e => a.max (.fin false m e) | _ => a) (Fp.ofInt 0))
      (dMargin d) 240 (dEmin d) (dEmax d))

/-- What ADAM computes: new parameters, first and second moments (R109). The stored second moments carry the exponent of the step that
wrote them. -/
def adamResults (s : State) (p : Nat) (j : VecJob) : List (Fp × Fp × Fp) :=
  let c := s.codecOf p
  let eg := s.expOf p (inputTensor (s.pkgOf p) j.frame.tid) 0
  let ev := (tget c.hist { h := [] } j.frame.tid).prev
  (List.range j.n).map (fun i => adamStep j.frame.adam c.adamT (lsVal s p j.dst j.fout i)
    ((lsVal s p j.src1 3 i).scale (lsInt s p (j.src1 + 2 * j.n) 1 (i / 32))) ((lsVal s p (j.src1 + j.n) 4 i).scale ev) ((lsVal s p j.src0 j.fin i).scale eg))

/-- ADAM (R109 to R112). The cue's tensor is the second moment; SRC0 holds the gradient codes, DST the parameters, SRC1 the E4M3i codes
of m, then the E5M2 codes of v, then m's group exponents: a layout the spec does not give (DESIGN CHOICE, log entry 175). The
conversions of m and w count with the cue's tensor, the only one a frame names (log entry 175). -/
def vecAdam (p : Nat) (j : VecJob) (s : State) : State :=
  match s.jobOf p with
  | none => s
  | some jb =>
    if adamSkips s p j jb then stepSkipped p s
    else
      let ev := s.expOf p j.frame.tid 0
      let res := adamResults s p j
      let ms := res.map (·.2.1)
      let es := momentExps ((descOf (s.pkgOf p) j.frame.tid).getD []) ms
      let cm := ms.zipIdx.map (fun x => (x.1, convert 3 (es.getD (x.2 / 32) 0) 0 x.1))
      let cv := res.map (fun r => (r.2.2, convert 4 ev 0 r.2.2))
      let cw := res.map (fun r => (r.1, convert j.fout 0 0 r.1))
      let s := s.store (lsAddr p j.src1) (packCodes 3 (cm.map (·.2.1)))
      let s := s.store (lsAddr p (j.src1 + j.n)) (packCodes 4 (cv.map (·.2.1)))
      let s := s.store (lsAddr p (j.src1 + 2 * j.n)) (es.map (fun e => BitVec.ofNat 8 (wrapTo 8 e)))
      let s := lsWrote p (vecSrc1 5 0 0 j.n + fmtBytes j.fout j.n) (lsStore p j.dst j.fout (cw.map (·.2.1)) s)
      stepUpdated p (countOnly p j.frame.tid ((cm ++ cw).map (fun x => (x.1, x.2.2))) (countStats p j.frame.tid true (cv.map (fun x => (x.1, x.2.2))) s))

/-- VEC_ADAM (R109 to R112). -/
def execVecAdam (p : Fin 68) (s : State) : Host.Outcome State Fault Refusal := runVec 5 (fun p j s => vecAdam p j s) p s

/-- VEC_WARP (R72): a conversion in Ad-lib, and in Script where the output is narrower than the plane (R55, R102). -/
def execVecWarp (p : Fin 68) (s : State) : Host.Outcome State Fault Refusal :=
  runVec 6 (fun p j s => vecWrite p j j.n (!j.script || j.fin != j.fout) (vecWarp s p j) s) p s

/-- VEC_REDUCE (R120, R168). -/
def execVecReduce (p : Fin 68) (s : State) : Host.Outcome State Fault Refusal :=
  runVec 7 (fun p j s => vecWrite p j (j.n / 64) true (vecReduce s p j) s) p s

/-- VEC_MOVE (R68). -/
def execVecMove (p : Fin 68) (s : State) : Host.Outcome State Fault Refusal :=
  runVec 8 (fun p j s =>
    vecWrite p j j.n false (fun i => (lsElem s p j.src0 j.fin (moveSrc j i), Fp.ofInt 0, .plain)) s) p s

/-- QLAT: q as INT8 from DST, then the reconstruction as INT16 (R92, R93). -/
def vecQlat (p : Nat) (j : VecJob) (s : State) : State :=
  let l := (List.range j.n).map (fun i =>
    let y := lsVal s p j.src0 7 i
    let mu := lsInt s p j.src1 2 i
    (qlat y mu, y.add (Fp.ofInt (-mu))))
  let s := s.store (lsAddr p j.dst) (l.map (fun x => BitVec.ofNat 8 (wrapTo 8 x.1.1)))
  let s := s.store (lsAddr p (j.dst + j.n)) (l.flatMap (fun x => leBytes 2 (wrapTo 16 x.1.2.1)))
  countStats p j.frame.tid true (l.map (fun x => (x.2, x.1.2.2))) (lsWrote p (3 * j.n) s)

/-- VEC_QLAT (R92, R93). -/
def execVecQlat (p : Fin 68) (s : State) : Host.Outcome State Fault Refusal := runVec 9 (fun p j s => vecQlat p j s) p s

/-! The table unit (R121) -/

/-- TAB cues: format pair, operands, count. An output of LOOKUP with INT8 output beyond its range, of a table that holds an entry not valid
for it (R71), saturates and counts as clip (DESIGN CHOICE, log entry 174). -/
def runTab (op : Nat) (f : State → Nat → Nat → Int → Int) (ok : State → Nat → Nat → Bool) (p : Fin 68) (s : State) : Host.Outcome State Fault Refusal :=
  match headCue s p.val 3 op with
  | none => .next s
  | some c =>
    let q := c.cue
    let fin := bits q 24 4
    let fout := bits q 28 4
    let tb := 64 * bits q 64 16
    let n := 64 * (bits q 80 16 + 1)
    let s := startCue p.val 3 c s
    if !ok s p.val tb then .next (frameIllegal p.val c.thread 3 64 s)
    else
      let outs := (List.range n).map (fun i =>
        let x := lsInt s p.val (64 * bits q 32 16) fin i
        f s p.val tb (if op = 1 ∧ fin = 1 then x * 256 else x))
      let cv := outs.map (fun v => convert fout 0 0 (Fp.ofInt v))
      let s := lsStore p.val (64 * bits q 48 16) fout (cv.map (·.1)) s
      let s := lsWrote p.val (fmtBytes fout n) (lsRead p.val (fmtBytes fin n + (if op = 1 then 1088 else 256)) s)
      let s := countStats p.val (bits q 96 16) true ((outs.map Fp.ofInt).zip (cv.map (fun r => if r.2 = .underflow then .plain else r.2))) s
      .next (ranCue p.val 3 { c with started := true } s)

/-- The thresholds of a bucket (R69). -/
def thresholds (s : State) (p tb : Nat) : List Int := (List.range 63).map (fun i => lsInt s p tb 9 i)

/-- TAB_LOOKUP (R70, R71). -/
def execTabLookup (p : Fin 68) (s : State) : Host.Outcome State Fault Refusal :=
  runTab 1 (fun s p tb x => tableLookup (fun i => lsInt s p tb 2 i) x) (fun _ _ _ => true) p s

/-- TAB_BUCKET (R69, R132). -/
def execTabBucket (p : Fin 68) (s : State) : Host.Outcome State Fault Refusal :=
  runTab 2 (fun s p tb x => (bucket (thresholds s p tb) x : Int)) (fun s p tb => ascending (thresholds s p tb)) p s

end Sys2Proof.Machine
end

