-- ==== Sys2Proof/Machine/Transform.lean ====
section
/-! DEFINITION. The transform engines (spec/05, R174 to R185). -/

namespace Sys2Proof.Machine

/-- A transform frame (R174). -/
structure TreFrame where
  n : Nat
  oneD : Bool
  fin : Nat
  fout : Nat
  depthwise : Bool
  pre : Bool
  bias : Bool
  stats : Bool
  kh : Nat
  kw : Nat
  dy : Nat
  dx : Nat
  cin : Nat
  outCh : Nat
  tid : Nat
  aBound : Nat
  wL1 : Nat
  biasLine : Nat
  gmLine : Nat
  rqLine : Nat
  coBase : Nat
  pitch : Nat
deriving DecidableEq, Repr

/-- Footprint of a kernel axis (spec/05, "The transform engines"). -/
def footprint (k d : Nat) : Nat := d * (k - 1) + 1

/-- Valid output rows and columns of a tile. -/
def TreFrame.vy (f : TreFrame) : Nat := f.n + 1 - footprint f.kh f.dy
def TreFrame.vx (f : TreFrame) : Nat := f.n + 1 - footprint f.kw f.dx

/-- Read a transform frame; the Boolean says that it passes R174 and R175. -/
def readTreFrame (s : State) (p line : Nat) (op : Nat) : TreFrame × Bool :=
  let b := s.bytes (lsAddr p (64 * line)) 64
  let ts := bits (leAt b 0 1) 0 2
  let lg := bits (leAt b 1 1) 0 4
  let fl := leAt b 3 1
  let f : TreFrame := { n := if ts = 0 then 64 else if ts = 1 then 128 else 2 ^ lg, oneD := ts == 2, fin := bits (leAt b 2 1) 0 4, fout := bits (leAt b 2 1) 4 4, depthwise := bits fl 0 1 == 1, pre := bits fl 1 1 == 1, bias := bits fl 2 1 == 1, stats := bits fl 3 1 == 1, kh := leAt b 4 1, kw := leAt b 5 1, dy := leAt b 6 1, dx := leAt b 7 1, cin := leAt b 8 2, outCh := bits (leAt b 10 2) 0 7, tid := leAt b 12 2, aBound := leAt b 14 2, wL1 := leAt b 16 8, biasLine := leAt b 24 2, gmLine := leAt b 26 2, rqLine := leAt b 28 2, coBase := leAt b 30 2, pitch := leAt b 32 2 }
  let script := op = 1
  let layout := ts ≠ 3 ∧ leAt b 0 1 < 4 ∧ leAt b 1 1 < 16 ∧ fl < 16 ∧ bits (leAt b 10 2) 7 9 = 0 ∧ (if ts = 2 then 6 ≤ lg ∧ lg ≤ 14 else lg = 0) ∧
    1 ≤ f.kh ∧ 1 ≤ f.kw ∧ 1 ≤ f.dy ∧ 1 ≤ f.dx ∧ 1 ≤ f.cin ∧ f.cin ≤ 1024 ∧ 1 ≤ f.outCh ∧ f.outCh ≤ (if ts = 1 then 16 else 64)
  let prof := if script then (f.fin = 1 ∨ f.fin = 2) ∧ scriptFmt f.fout = true ∧ 1 ≤ f.aBound ∧ f.aBound ≤ 32768
    else f.fin ≤ 7 ∧ f.fout ≤ 7 ∧ f.aBound = 0 ∧ f.wL1 = 0 ∧ f.rqLine = 0
  let shape := if op ≤ 2 then ts ≠ 2 ∧ footprint f.kh f.dy + 15 ≤ f.n ∧ footprint f.kw f.dx + 15 ≤ f.n else ts = 2
  (f, decide layout && decide prof && decide shape && (!f.depthwise || f.cin == f.outCh) && (b.drop 34).all (· == 0))

/-- The ensembles with a TRE cue that could start on the engine of a page. -/
def State.treWaiting (s : State) (pg : Nat) : List Nat :=
  ((s.players.filter (fun (x : Nat × Player) => s.trePage x.1 == pg && (List.range 5).any (fun k => (headCue s x.1 5 k).isSome && k != 0))).map
    (fun (x : Nat × Player) => x.2.ens)).eraseDups

/-- The ensemble whose turn it is: the first of those waiting after the last one served (R15, R182). -/
def State.treTurn (s : State) (pg : Nat) : Option Nat :=
  let l := s.treWaiting pg
  let after := match tget? s.treLast pg with | some last => l.filter (fun e => decide (last < e)) | none => l
  let least (x : List Nat) : Option Nat := x.foldl (fun b e => match b with | none => some e | some a => some (min a e)) none
  if after.isEmpty then least l else least after

/-- A range failure: TRE_RANGE (R185), the code on the engine's page, and the end of the job. -/
def treRange (p cause chan value : Nat) (s : State) : State :=
  let pg := s.trePage p
  let h := match s.jobOf p with | some j => handleOf j.chan (s.chan j.chan) | none => 0
  let s := holdRecord pg Reg.TRE_RANGE_VALID
    [(Reg.TRE_RANGE_CAUSE, cause), (Reg.TRE_RANGE_ENSEMBLE, (s.ply p).ens), (Reg.TRE_RANGE_CHANNEL, chan), (Reg.TRE_RANGE_VAL_VALUE, value),
     (Reg.TRE_RANGE_CHAN_HANDLE, h)] s
  let s := bump pg (if cause = 1 then Cnt.TRE_RANGE_DECL else if cause = 2 then Cnt.TRE_RANGE_KER else Cnt.TRE_RANGE_ACT) 1 s
  stopPlayerJob p Code.E_NTT_RANGE (post pg Code.E_NTT_RANGE s)

/-- Byte base of input channel c and of the kernel of a channel pair (R175). -/
def treSrc (q : Nat) (f : TreFrame) (c : Nat) : Nat := 64 * bits q 32 16 + c * f.n * f.n * fmtBits f.fin / 8
def treKer (q : Nat) (f : TreFrame) (o c : Nat) : Nat := 64 * (bits q 48 16 + (if f.depthwise then o else o * f.cin + c) * f.pitch)

/-- The input channels of an output channel. -/
def TreFrame.chans (f : TreFrame) (o : Nat) : List Nat := if f.depthwise then [o] else List.range f.cin

/-- A tap of the spatial kernel (R174, R176). -/
def treTap (s : State) (p q : Nat) (f : TreFrame) (o c t : Nat) : Int :=
  if f.pre then Config.kernelOf f.n (s.bytes (lsAddr p (treKer q f o c)) (64 * f.pitch)) t else lsInt s p (treKer q f o c) 1 t

/-- The exact sum of one output sample (R75, R176). -/
def treSum (s : State) (p q : Nat) (f : TreFrame) (o y x : Nat) : Int :=
  (f.chans o).foldl (fun a c =>
    (List.range (f.kh * f.kw)).foldl (fun a t =>
      a + treTap s p q f o c t * lsInt s p (treSrc q f c) f.fin ((y + f.dy * (t / f.kw)) * f.n + x + f.dx * (t % f.kw))) a) 0

/-- The prime of R176. -/
def nttPrime : Int := 0xFFFFFFFF00000001

/-- The representative that R179 takes of a sum modulo the prime. -/
def nttReduce (v : Int) : Int := let r := v % nttPrime; if r ≤ (nttPrime - 1) / 2 then r else r - nttPrime

/-- An output of NTTCONV (R179). -/
def nttOut (s : State) (p q : Nat) (f : TreFrame) (o i : Nat) : VOut :=
  let sum := nttReduce (treSum s p q f o (i / f.vx) (i % f.vx))
  let m := signed 32 (s.load (lsAddr p (64 * f.gmLine + 4 * (f.coBase + o))) 4)
  let b := if f.bias then signed 64 (s.load (lsAddr p (64 * f.biasLine + 8 * (f.coBase + o))) 8) else 0
  let acc := wrap64 (b + wrap40 sum * m)
  let r := requantise acc (readRequant s p (64 * f.rqLine + 32 * (f.coBase + o)))
  (wrapTo (fmtBits f.fout) r.1, Fp.ofInt acc, r.2)

/-- The first input channel with an activation above A_BOUND, and its magnitude (R178). -/
def actOver (s : State) (p q : Nat) (f : TreFrame) : Option (Nat × Nat) :=
  (List.range f.cin).findSome? (fun c =>
    (List.range (f.n * f.n)).findSome? (fun i =>
      let a := (lsInt s p (treSrc q f c) f.fin i).natAbs
      if f.aBound < a then some (c, a) else none))

/-- The first output channel whose kernel's sum of magnitudes exceeds W_L1, and that sum (R178). -/
def kerOver (s : State) (p q : Nat) (f : TreFrame) : Option (Nat × Nat) :=
  if f.pre then none
  else (List.range f.outCh).findSome? (fun o =>
    let a := (f.chans o).foldl (fun a c => (List.range (f.kh * f.kw)).foldl (fun a t => a + (treTap s p q f o c t).natAbs) a) 0
    if f.wL1 < a then some (o, a) else none)

/-- Bytes of the outputs of one channel (R175), and lines they take. -/
def TreFrame.outBytes (f : TreFrame) : Nat := fmtBytes f.fout (f.vy * f.vx)
def TreFrame.outLines (f : TreFrame) : Nat := upDiv f.outBytes 64

/-- Channel pairs of a frame: its kernels. -/
def TreFrame.pairs (f : TreFrame) : Nat := if f.depthwise then f.outCh else f.outCh * f.cin

/-- Bytes that a convolution reads: its tiles and its kernels (R175, R186). -/
def TreFrame.inBytes (f : TreFrame) : Nat := fmtBytes f.fin (f.cin * f.n * f.n) + 64 * f.pairs * f.pitch

/-- The regions of a cue and of its frame lie in the local store (R131, R132). -/
def treRegions (f : TreFrame) (q op : Nat) : Bool :=
  let n := f.coBase + f.outCh
  if 2 < op then inLsBytes (bits q 32 16) (fmtBytes f.fin (2 * f.n)) && inLsBytes (bits q 64 16) (8 * f.n)
  else
    inLsBytes (bits q 32 16) (fmtBytes f.fin (f.cin * f.n * f.n)) && inLs (bits q 48 16) (f.pairs * f.pitch) && inLs (bits q 64 16) (f.outCh * f.outLines) &&
      (!f.bias || inLsBytes f.biasLine (n * (if op = 1 then 8 else 4))) && inLsBytes f.gmLine (n * (if op = 1 then 4 else 1)) && (op != 1 || inLsBytes f.rqLine (32 * n))

/-- Write the outputs of a convolution: one channel after another from DST_LINE (R175). -/
def treWrite (p q : Nat) (f : TreFrame) (out : Nat → Nat → VOut) (s : State) : State :=
  let pg := s.trePage p
  let samples := f.vy * f.vx
  (List.range f.outCh).foldl (fun a o =>
    let outs := (List.range samples).map (out o)
    let a := lsWrote p f.outBytes (lsStore p (64 * (bits q 64 16 + o * f.outLines)) f.fout (outs.map (·.1)) a)
    let a := bump pg Cnt.TRE_OUT_SAMPLES samples (bump pg Cnt.TRE_WRAP_SAMPLES (f.n * f.n - samples) a)
    let a := bump pg Cnt.TRE_OUT_BYTES f.outBytes a
    let a := bump pg Cnt.TRE_CLIPPED ((outs.filter (fun x => x.2.2 == .clip)).length) a
    countStats p f.tid f.stats (outs.map (·.2)) a) s

/-- What a convolution counts of its transforms (R186): one of each tile, of each spatial kernel, and back of each output channel, of
N^2 log2 N butterflies each, and N^2 products for each kernel. -/
def treCount (p : Nat) (ntt : Bool) (f : TreFrame) (s : State) : State :=
  let pg := s.trePage p
  let one := f.n * f.n * Nat.log2 f.n
  let s := bump pg (if ntt then Cnt.TRE_NTT_BUTTERFLIES else Cnt.TRE_FFT_BUTTERFLIES) (one * (f.cin + (if f.pre then 0 else f.pairs) + f.outCh)) s
  let s := bump pg (if f.pre then Cnt.TRE_KER_PRE else Cnt.TRE_KER_XFORMS) f.pairs s
  lsRead p f.inBytes (bump pg Cnt.TRE_IN_BYTES f.inBytes (bump pg Cnt.TRE_POINTWISE (f.pairs * f.n * f.n) s))

/-- A TRE cue starts: the engine serves it (R15, R182, R186). -/
def treStart (p mode : Nat) (c : QCue) (s : State) : State :=
  let pg := s.trePage p
  let e := (s.ply p).ens
  let s := startCue p 5 c s
  let s := match tget? s.treLast pg with | some x => if x = e then s else bump pg Cnt.TRE_RR_SWITCHES 1 s | none => s
  let s := if c.waited then bump pg Cnt.TRE_WAIT_CUES 1 s else s
  let s := { s with treLast := tput s.treLast pg e }
  repauseAll (((s.wf pg Reg.TRE_STATE_MODE mode).wf pg Reg.TRE_STATE_ENSEMBLE e).wf pg Reg.TRE_STATE_PLAYER (s.logical p))

/-- The cues at the heads of the queues of an engine's other ensembles have waited for the cue that ends (R186). -/
def markWaited (pg : Nat) (s : State) : State :=
  { s with players := s.players.map (fun (x : Nat × Player) =>
      if s.trePage x.1 = pg ∧ s.waitsTre x.1 then
        (x.1, { x.2 with queues := x.2.queues.map (fun (q : Nat × List QCue) => if q.1 = 5 then (q.1, match q.2 with | c :: t => { c with waited := true } :: t | [] => []) else q) })
      else x) }

/-- The cue of an engine ends: the engine is idle. -/
def treIdle (pg : Nat) (s : State) : State := repauseAll ((markWaited pg s).wf pg Reg.TRE_STATE_MODE 0)

/-- Start a TRE cue when the engine is idle and it is the ensemble's turn; a frame that fails its checks ends the job (R132, R174 to
R176). `check` is what the engine checks of the operands; outputs are written when the cue completes (R183). -/
def runTre (op mode : Nat) (check : Nat → QCue → TreFrame → State → State) (p : Fin 68) (s : State) : Host.Outcome State Fault Refusal :=
  match headCue s p.val 5 op with
  | none => .next s
  | some c =>
    let pg := s.trePage p.val
    if s.refusing pg then .next (stopOf (s.ply p.val).job Code.E_PEER_ABSENT s)
    else if s.rf pg Reg.TRE_STATE_MODE ≠ 0 ∨ s.treTurn pg ≠ some (s.ply p.val).ens then .next s
    else
      let f := readTreFrame s p.val (bits c.cue 80 16) op
      let s := treStart p.val mode c s
      if !f.2 || !treRegions f.1 c.cue op then .next (treIdle pg (frameIllegal p.val c.thread 5 80 s))
      else
        let t := check p.val c f.1 s
        .next (if t.jobRuns p.val then ranCue p.val 5 { c with started := true } t else treIdle pg t)

/-- What NTTCONV checks (R177, R178): the declared bound, then the kernel and activation bounds (which is met first when both fail
the spec leaves open). -/
def nttCheck (p : Nat) (c : QCue) (f : TreFrame) (s : State) : State :=
  if 0x7FFFFFFF80000000 ≤ f.wL1 * f.aBound then treRange p 1 0 0 s
  else
    let q := c.cue
    let r := drawBool s
    let k := kerOver s p q f
    let a := actOver s p q f
    match (if r.1 ∨ a.isNone then k else none), a with
    | some x, _ => let d := drawBelow 1024 r.2; treRange p 2 (if f.depthwise then x.1 else d.1) (x.2 % 2 ^ 32) d.2
    | none, some x => treRange p 3 x.1 x.2 r.2
    | none, none => r.2

/-- NTTCONV (R175, R176, R179): the exact convolution. -/
def nttConv (p q : Nat) (f : TreFrame) (s : State) : State := bump (s.trePage p) Cnt.TRE_NTT_CUES 1 (treWrite p q f (nttOut s p q f) (treCount p true f s))

/-- TRE_NTTCONV (R176 to R179). -/
def execTreNttconv (p : Fin 68) (s : State) : Host.Outcome State Fault Refusal := runTre 1 1 nttCheck p s

/-- The exact value of a last butterfly, scaled by a power of two. -/
def lastValue (v : Nat × Bool × Nat × Int) (k : Int) : Fp :=
  match v with
  | (1, _) => .nan
  | (2, neg, _) => .inf neg
  | (_, neg, m, e) => .fin neg m (e + k)

/-- An input of a transform in FP32 with its tensor's exponent and zero point (R180). -/
def treInput (s : State) (p base fmt tid i : Nat) : BitVec 32 :=
  let v := match fmtFloat fmt with | some _ => lsVal s p base fmt i | none => Fp.ofInt (lsInt s p base fmt i - s.zpOf p tid)
  BitVec.ofNat 32 ((v.scale (s.expOf p tid 0)).code f32)

/-- The sum of an output channel in the transform domain, the input channels in ascending order (R180). -/
def fftSum (s : State) (p q : Nat) (f : TreFrame) (o : Nat) : List (BitVec 32 × BitVec 32) :=
  let tid := inputTensor (s.pkgOf p) f.tid
  let frame := s.bytes (lsAddr p (64 * bits q 80 16)) 64
  (f.chans o).foldl (fun acc c =>
    let ins := (List.range (f.n * f.n)).map (treInput s p (treSrc q f c) f.fin tid)
    let ker := s.bytes (lsAddr p (treKer q f o c)) (64 * f.pitch)
    acc.zipIdx.map (fun a => Config.complexMac a.1 (Config.tileWord f.n ins (2 * a.2), Config.tileWord f.n ins (2 * a.2 + 1))
      (Config.kernelWord frame ker (2 * a.2), Config.kernelWord frame ker (2 * a.2 + 1)))) (List.replicate (f.n * f.n) (0, 0))

/-- An output of FFTCONV (R180, R181): the inverse transform scales exactly by 1 / N^2 within its last butterfly, then the weight
exponent, the bias and the output conversion. -/
def fftOut (s : State) (p : Nat) (f : TreFrame) (sum : List (BitVec 32 × BitVec 32)) (o i : Nat) : VOut :=
  let at_ := i / f.vx * f.n + i % f.vx
  let x := ((lastValue (Config.tileLast f.n sum at_) (-(2 * Nat.log2 f.n : Nat))).r32).scale (signed 8 (s.load (lsAddr p (64 * f.gmLine + f.coBase + o)) 1))
  let y := if f.bias then (x.add (Fp.of f32 (s.load (lsAddr p (64 * f.biasLine + 4 * (f.coBase + o))) 4))).r32 else x
  let r := convert f.fout (s.expOf p f.tid (f.coBase + o)) (s.zpOf p f.tid) y
  (r.1, y, r.2)

/-- FFTCONV (R180, R181). -/
def fftConv (p q : Nat) (f : TreFrame) (s : State) : State :=
  bump (s.trePage p) Cnt.TRE_FFTCONV_CUES 1 (treWrite p q f (fun o => fftOut s p f (fftSum s p q f o) o) (treCount p false f s))

/-- TRE_FFTCONV (R180, R181). -/
def execTreFftconv (p : Fin 68) (s : State) : Host.Outcome State Fault Refusal := runTre 2 2 (fun _ _ _ s => s) p s

/-- A raw transform over N complex inputs: FP32 real and imaginary parts out, the real part first; the inverse scales by 1 / N within
its last butterfly (R47, R48, R180, R181). -/
def rawFft (inverse : Bool) (p q : Nat) (f : TreFrame) (s : State) : State :=
  let pg := s.trePage p
  let ins := (List.range (2 * f.n)).map (treInput s p (64 * bits q 32 16) f.fin (inputTensor (s.pkgOf p) f.tid))
  let word (i : Nat) : Nat := (toFloat f32 (lastValue (Config.fftLast inverse f.n ins (i / 2) (i % 2 == 1)) (if inverse then -(Nat.log2 f.n : Nat) else 0))).1
  let s := lsStore p (64 * bits q 64 16) 7 ((List.range (2 * f.n)).map word) s
  let s := lsRead p (fmtBytes f.fin (2 * f.n)) (lsWrote p (8 * f.n) s)
  let s := bump pg Cnt.TRE_IN_BYTES (fmtBytes f.fin (2 * f.n)) (bump pg Cnt.TRE_OUT_BYTES (8 * f.n) (bump pg Cnt.TRE_OUT_SAMPLES f.n s))
  bump pg Cnt.TRE_RAW_CUES 1 (bump pg Cnt.TRE_FFT_BUTTERFLIES (f.n / 2 * Nat.log2 f.n) s)

/-- TRE_FFT (R180, R181). -/
def execTreFft (p : Fin 68) (s : State) : Host.Outcome State Fault Refusal := runTre 3 3 (fun _ _ _ s => s) p s
/-- TRE_IFFT (R180, R181). -/
def execTreIfft (p : Fin 68) (s : State) : Host.Outcome State Fault Refusal := runTre 4 3 (fun _ _ _ s => s) p s

/-- A running TRE cue writes its outputs (R179, R181, R183). -/
def treFinish (p : Nat) (c : QCue) (s : State) : State :=
  let f := (readTreFrame s p (bits c.cue 80 16) (cOp c.cue)).1
  match cOp c.cue with
  | 1 => nttConv p c.cue f s
  | 2 => fftConv p c.cue f s
  | 3 => rawFft false p c.cue f s
  | _ => rawFft true p c.cue f s

/-- CUE_COMPLETE (R134, R136): a MAC, VEC or TAB cue whose outputs are written completes; a TRE cue writes its outputs, leaves its
engine, and completes. -/
def execCueComplete (p : Fin 68) (cls : Nat) (s : State) : Host.Outcome State Fault Refusal :=
  match tget (s.ply p.val).queues [] cls with
  | c :: _ =>
    if c.ran && s.jobRuns p.val then
      .next (completeHead p.val cls (if cls = 5 then treIdle (s.trePage p.val) (treFinish p.val c s) else s))
    else .next s
  | [] => .next s

/-! Window geometry records (R162 to R165) -/

/-- The fields of a window geometry record. -/
structure Geom where
  h : Nat
  w : Nat
  kh : Nat
  kw : Nat
  sy : Nat
  sx : Nat
  dy : Nat
  dx : Nat
  kind : Nat
  pad : Nat
  top : Nat
  bottom : Nat
  left : Nat
  right : Nat
  engine : Nat
  code : Nat
  outH : Nat
  outW : Nat
  tid : Nat
deriving DecidableEq, Repr

/-- Read a record of 32 bytes (R162). -/
def readGeom (b : List Byte) : Geom :=
  { h := leAt b 0 2, w := leAt b 2 2, kh := leAt b 4 1, kw := leAt b 5 1, sy := leAt b 6 1 % 16, sx := leAt b 6 1 / 16, dy := leAt b 7 1, dx := leAt b 8 1, kind := leAt b 9 1 % 16, pad := leAt b 9 1 / 16, top := leAt b 10 2, bottom := leAt b 12 2, left := leAt b 14 2, right := leAt b 16 2, engine := leAt b 18 1 % 16, code := leAt b 20 4, outH := leAt b 24 2, outW := leAt b 26 2, tid := leAt b 28 2 }

/-- The output size of an axis (R163). -/
def windowOut (h k dil stride lo hi : Nat) : Int := ((h : Int) + lo + hi - dil * ((k : Int) - 1) - 1) / stride + 1

/-- The output size of an axis of a record, its input expanded for KIND 1 (R164). -/
def Geom.out (g : Geom) (h k dil s lo hi : Nat) : Int :=
  if g.kind = 1 then windowOut ((h - 1) * s + 1) k dil 1 lo hi else windowOut h k dil s lo hi

/-- The code with which a record fails R165, 0 if it passes. -/
def geomCheck (b : List Byte) : Nat :=
  let g := readGeom b
  let oh := g.out g.h g.kh g.dy g.sy g.top g.bottom
  let ow := g.out g.w g.kw g.dx g.sx g.left g.right
  if g.h = 0 ∨ g.w = 0 ∨ g.kh = 0 ∨ g.kw = 0 ∨ g.sy = 0 ∨ g.sx = 0 ∨ g.dy = 0 ∨ g.dx = 0 ∨ 4 < g.kind ∨ 2 < g.pad ∨ 2 < g.engine ∨
      leAt b 18 1 / 16 ≠ 0 ∨ leAt b 19 1 ≠ 0 ∨ leAt b 30 2 ≠ 0 then Code.E_CUE_ILLEGAL
  else if oh < 1 ∨ ow < 1 then Code.E_WINDOW_EMPTY
  else if (g.outH : Int) ≠ oh ∨ (g.outW : Int) ≠ ow then Code.E_CUE_ILLEGAL
  else if (g.engine = 0 ∧ (9 ≤ g.kh ∨ 9 ≤ g.kw)) ∨ (g.engine = 1 ∧ (g.kind ≠ 0 ∨ g.sy ≠ 1 ∨ g.sx ≠ 1)) ∨ (g.engine = 2 ∧ g.kind ≠ 2 ∧ g.kind ≠ 3) then
    Code.E_CUE_ILLEGAL
  else 0

/-- The image sample of a tap at index i of an axis of h samples, if it is not PAD_CODE (R166). -/
def padTap (mode h : Nat) (i : Int) : Option Nat :=
  if 0 ≤ i ∧ i < h then some i.toNat
  else match mode with
    | 0 => none
    | 1 => some (clampInt i 0 (h - 1)).toNat
    | _ => if h = 1 then some 0 else
      let m := (i % (2 * ((h : Int) - 1))).toNat
      some (if m ≤ h - 1 then m else 2 * (h - 1) - m)

end Sys2Proof.Machine
end

