-- ==== Sys2Proof/Machine/Streams.lean ====
section
/-! DEFINITION. Stream descriptors, what a stream moves, and its conversion (spec/06, R196 to R208). -/

namespace Sys2Proof.Machine

/-! Fields of a stream descriptor (R196) -/

def sdKind (d : List Byte) : Nat := bits (leAt d 0 1) 0 4
def sdDir (d : List Byte) : Nat := bits (leAt d 0 1) 4 4
def sdFlag (d : List Byte) (i : Nat) : Bool := bits (leAt d 1 1) i 1 == 1
def sdPersist (d : List Byte) : Bool := sdFlag d 0
def sdStats (d : List Byte) : Bool := sdFlag d 1
def sdHandover (d : List Byte) : Bool := sdFlag d 2
def sdDataEn (d : List Byte) : Bool := sdFlag d 3
def sdFreeEn (d : List Byte) : Bool := sdFlag d 4
def sdSrc (d : List Byte) : Nat := bits (leAt d 2 1) 0 4
def sdDst (d : List Byte) : Nat := bits (leAt d 2 1) 4 4
def sdNdim (d : List Byte) : Nat := bits (leAt d 3 1) 0 3
def sdTileDim (d : List Byte) : Nat := bits (leAt d 3 1) 3 3
def sdTid (d : List Byte) : Nat := leAt d 4 2
def sdDataSem (d : List Byte) : Nat := bits (leAt d 6 2) 0 5
def sdFreeSem (d : List Byte) : Nat := bits (leAt d 6 2) 5 5
def sdBase (d : List Byte) : Nat := leAt d 8 8
def sdLine (d : List Byte) : Nat := leAt d 0x10 2
def sdTileLines (d : List Byte) : Nat := leAt d 0x12 2
def sdCount (d : List Byte) (i : Nat) : Nat := leAt d (0x14 + 2 * i) 2
def sdEdge (d : List Byte) : Nat := leAt d 0x1E 1
def sdStride (d : List Byte) (i : Nat) : Int := signed 32 (leAt d (0x1C + 4 * i) 4)
def sdRelayTag (d : List Byte) : Nat := leAt d 0x30 4
def sdSlices (d : List Byte) : Nat := leAt d 0x34 2

/-- Width of an element of a stream format; 10 is OCP E4M3 and 15 raw bytes. -/
def sdBits (fmt : Nat) : Nat := if fmt = 10 ∨ fmt = 15 then 8 else fmtBits fmt

/-- The memory-side and local-store formats (R197). -/
def sdMemFmt (d : List Byte) : Nat := if sdDir d = 1 then sdDst d else sdSrc d
def sdLsFmt (d : List Byte) : Nat := if sdDir d = 1 then sdSrc d else sdDst d

/-- The conversions of R207. -/
def sdPair (a b : Nat) : Bool :=
  a == b || (a == 10 && b == 3) || (a == 7 && decide (b ≤ 6)) || (decide (a ≤ 6) && b == 7) || (a == 1 && b == 2) || (a == 2 && b == 1)

/-- Convert an element's code under R207: the new code, its source value and what it counts in. `c` is the channel of a
grouped scale. -/
def sdConvert (k : Package) (x : Codec) (d : List Byte) (c code : Nat) : Nat × Fp × Cstat :=
  let a := sdSrc d
  let b := sdDst d
  let e := tensorExp k x (sdTid d) c
  let zp := tensorZp k (sdTid d)
  if a = b then (code, .nan, .plain)
  else if a = 10 then
    let r := importE4m3 code
    (r.1, (if bits code 3 4 = 15 ∧ code % 8 ≠ 7 then .fin (bits code 7 1 == 1) (8 + code % 8) 5 else elemValue 3 r.1), r.2)
  else if a = 7 then let v := elemValue 7 code; let r := convert b e zp v; (r.1, v, r.2)
  else if b = 7 then
    let v := if a = 5 ∨ a = 6 then elemValue a code else if (fmtFloat a).isSome then (elemValue a code).scale e else (Fp.ofInt (signed (fmtBits a) code - zp)).scale e
    let r := toFloat f32 v
    (r.1, v, r.2)
  else
    let v := signed (fmtBits a) code
    let r := toInteger (-(2 ^ (fmtBits b - 1) : Nat)) ((2 ^ (fmtBits b - 1) : Nat) - 1) 0 (Fp.ofInt v)
    (wrapTo (fmtBits b) r.1, Fp.ofInt v, r.2)

/-! What a stream moves -/

/-- Where an element comes from or goes to on the memory side: a bit address, a code that the stagehand generates, or nowhere: a place of a
halo or of a plane that no window touches, which is not fetched (R169). -/
inductive Tap where
  | mem (bit : Nat)
  | gen (code : Nat)
  | none
deriving DecidableEq, Repr

/-- The tiles of a stream: their number, and for each tile its elements, its size in bits, the memory side of element k,
its bit offset in the tile buffer and, for an INDEXED stream, where its index lies in memory. -/
structure Shape where
  tiles : Nat
  len : Nat → Nat
  size : Nat → Nat
  tap : Nat → Nat → Tap
  dst : Nat → Nat → Nat
  index : Nat → Nat → Option Nat := fun _ _ => Option.none

/-- Mixed-radix digits. -/
def digits : List Nat → Nat → List Nat
  | [], _ => []
  | c :: t, k => k % c :: digits t (k / c)

/-- A bit address modulo 2^64 bytes. -/
def bitAddr (a : Int) : Nat := (a % (2 ^ 67 : Nat)).toNat

/-- Counts of the dimensions in use, and the elements of a tile and of the stream (R197, R198). -/
def sdCounts (d : List Byte) : List Nat := (List.range (sdNdim d)).map (sdCount d)
def prodL (l : List Nat) : Nat := l.foldl (· * ·) 1

/-- Bit address of element k of an AFFINE stream (R197). -/
def affineAddr (d : List Byte) (base k : Nat) : Nat :=
  let l := digits (sdCounts d) k
  bitAddr ((base : Int) * 8 + (l.headD 0) * sdBits (sdMemFmt d) + 8 * (l.tail.zipIdx.map (fun x => (x.1 : Int) * sdStride d (x.2 + 1))).foldl (· + ·) 0)

/-- The shape of an AFFINE stream. -/
def affineShape (d : List Byte) (base : Nat) : Shape :=
  let n := prodL ((sdCounts d).take (sdTileDim d))
  let b := sdBits (sdLsFmt d)
  { tiles := prodL ((sdCounts d).drop (sdTileDim d)), len := fun _ => n, size := fun _ => n * b, tap := fun t k => .mem (affineAddr d base (t * n + k)), dst := fun _ k => k * b }

/-- Coordinates of a warp's taps (R72, R202). -/
def flowTap (d : List Byte) (base j idx q : Nat) : Nat :=
  let w := leAt d 0x3C 2
  let h := leAt d 0x3E 2
  let xx := 16 * (((leAt d 0x28 2) + j % sdCount d 0 : Nat) : Int) + signed 16 idx
  let yy := 16 * (((leAt d 0x2A 2) + j / sdCount d 0 % sdCount d 1 : Nat) : Int) + signed 16 (idx / 65536)
  let x := clampInt (xx / 16 + (q % 2 : Nat)) 0 ((w : Int) - 1)
  let y := clampInt (yy / 16 + (q / 2 : Nat)) 0 ((h : Int) - 1)
  bitAddr ((base : Int) * 8 + 8 * y * sdStride d 1 + x * sdBits (sdMemFmt d))

/-- The shape of an INDEXED stream (R201, R202): a tile holds so many indices, each moving RUN elements or four taps. -/
def indexedShape (index : Nat → Nat) (d : List Byte) (base : Nat) : Shape :=
  let n := prodL ((sdCounts d).take (sdTileDim d))
  let flow := bits (leAt d 0x38 1) 0 2 == 1
  let run := if flow then 4 else leAt d 0x2C 2
  let b := sdBits (sdLsFmt d)
  { tiles := prodL ((sdCounts d).drop (sdTileDim d)), len := fun _ => n * run, size := fun _ => n * run * b, index := fun t k => if bits (leAt d 0x38 1) 2 1 = 1 then Option.none else some (leAt d 0x30 8 + 4 * (t * n + k / run)), tap := fun t k => let j := t * n + k / run; if flow then .mem (flowTap d base j (index j) (k % run)) else .mem (bitAddr (((base : Int) + signed 32 (index j)) * 8 + (k % run : Nat) * sdBits (sdMemFmt d))), dst := fun _ k => k * b }

/-- The sample of an axis that a tap at index i takes: none is PAD_CODE (R164, R166). -/
def axisTap (g : Geom) (h s : Nat) (i : Int) : Option Nat :=
  if g.kind = 1 then
    match padTap g.pad ((h - 1) * s + 1) i with
    | some n => if n % s = 0 then some (n / s) else none
    | none => none
  else padTap g.pad h i

/-- Whether a tap of some window of an axis takes sample r (R169): `pad` is the leading padding, `step` the distance of windows. -/
def axisTouched (g : Geom) (h s step dil pad k out r : Nat) : Bool :=
  (List.range out).any (fun o => (List.range k).any (fun u => axisTap g h s (((o * step + dil * u : Nat) : Int) - (pad : Int)) == some r))

/-- A tap of a WINDOW stream at an input row, column and channel. -/
def windowTap (d : List Byte) (g : Geom) (base : Nat) (y x : Int) (c : Nat) : Tap :=
  match axisTap g g.h g.sy y, axisTap g g.w g.sx x with
  | some r, some q => .mem (bitAddr ((base : Int) * 8 + c * sdBits (sdMemFmt d) + 8 * ((q : Int) * sdStride d 1 + (r : Int) * sdStride d 2)))
  | _, _ => .gen g.code

/-- The distance of windows along an axis (R163, R164). -/
def Geom.step (g : Geom) (s : Nat) : Nat := if g.kind = 1 then 1 else s

/-- A place of a halo or of a plane: what a window touches is fetched or generated, and nothing else (R169, R206). -/
def haloTap (d : List Byte) (g : Geom) (base : Nat) (y x : Int) (c : Nat) : Tap :=
  let row := match axisTap g g.h g.sy y with | some r => axisTouched g g.h g.sy (g.step g.sy) g.dy g.top g.kh g.outH r | Option.none => true
  let col := match axisTap g g.w g.sx x with | some q => axisTouched g g.w g.sx (g.step g.sx) g.dx g.left g.kw g.outW q | Option.none => true
  if row && col then windowTap d g base y x c else .none

/-- The output rows a WINDOW stream covers, cut to the output extent (R203). -/
def windowRows (d : List Byte) (g : Geom) : Nat := min (leAt d 0x34 2) (g.outH - leAt d 0x32 2)

/-- An output tile of a WINDOW stream (R203): first row and column, rows and columns. -/
def windowTile (d : List Byte) (g : Geom) (t : Nat) : Nat × Nat × Nat × Nat :=
  let tt := leAt d 0x2E 2
  let tw := leAt d 0x30 2
  let nx := (g.outW + tw - 1) / tw
  let a := tt * (t / nx)
  let c := tw * (t % nx)
  (leAt d 0x32 2 + a, c, min tt (windowRows d g - a), min tw (g.outW - c))

/-- Transform size of an ENGINE 1 stream: the smaller of R174's that holds the tile's input. -/
def planeN (d : List Byte) (g : Geom) : Nat :=
  if max (leAt d 0x2E 2 + footprint g.kh g.dy) (leAt d 0x30 2 + footprint g.kw g.dx) ≤ 65 then 64 else 128

/-- The shape of a WINDOW stream (R203 to R206). -/
def windowShape (d : List Byte) (g : Geom) (base : Nat) : Shape :=
  let tt := leAt d 0x2E 2
  let tw := leAt d 0x30 2
  let cn := sdCount d 0
  let b := sdBits (sdLsFmt d)
  let tiles := ((windowRows d g + tt - 1) / tt) * ((g.outW + tw - 1) / tw)
  if leAt d 0x2C 1 % 2 = 1 then
    let sy := bits (leAt d 0x2D 1) 0 4
    let sx := bits (leAt d 0x2D 1) 4 4
    let ext (t : Nat) : Nat × Nat := let w := windowTile d g t; (w.2.2.1 * sy + leAt d 0x38 2, w.2.2.2 * sx + leAt d 0x3C 2)
    { tiles, len := fun t => (ext t).1 * (ext t).2 * cn, size := fun t => (ext t).1 * (ext t).2 * cn * b, tap := fun t k => let w := windowTile d g t; let q := k / cn; haloTap d g base ((w.1 * sy + q / (ext t).2 : Nat) - (leAt d 0x36 2 : Int)) ((w.2.1 * sx + q % (ext t).2 : Nat) - (leAt d 0x3A 2 : Int)) (k % cn), dst := fun _ k => k * b }
  else match g.engine with
  | 0 =>
    let kk := g.kh * g.kw * cn
    let l := fmtLines (sdLsFmt d)
    let dep := 512 * l / b
    let pos (t : Nat) : Nat := let w := windowTile d g t; w.2.2.1 * w.2.2.2
    let steps := (kk + dep - 1) / dep
    { tiles, len := fun t => pos t * kk, size := fun t => steps * pos t * l * 512, tap := fun t i => let w := windowTile d g t; let p := i / kk; let k := i % kk; let u := k / cn / g.kw; let v := k / cn % g.kw; windowTap d g base ((((w.1 + p / w.2.2.2) * g.step g.sy + g.dy * u : Nat) : Int) - g.top) ((((w.2.1 + p % w.2.2.2) * g.step g.sx + g.dx * v : Nat) : Int) - g.left) (k % cn), dst := fun t i => let p := i / kk; let k := i % kk; (k / dep * pos t + p) * l * 512 + k % dep * b }
  | 1 =>
    let n := planeN d g
    { tiles, len := fun _ => cn * n * n, size := fun _ => cn * n * n * b, tap := fun t i => let w := windowTile d g t; haloTap d g base ((w.1 + i / n % n : Nat) - (g.top : Int)) ((w.2.1 + i % n : Nat) - (g.left : Int)) (i / (n * n)), dst := fun _ i => i * b }
  | _ =>
    let rows := (g.kh * g.kw + 63) / 64
    let pos (t : Nat) : Nat := let w := windowTile d g t; w.2.2.1 * w.2.2.2
    { tiles, len := fun t => pos t * cn * rows * 64, size := fun t => pos t * cn * rows * 64 * b, tap := fun t i => let w := windowTile d g t; let j := i % (rows * 64); let c := i / (rows * 64) % cn; let p := i / (rows * 64) / cn; if g.kh * g.kw ≤ j then .gen g.code else windowTap d g base ((((w.1 + p / w.2.2.2) * g.sy + g.dy * (j / g.kw) : Nat) : Int) - g.top) ((((w.2.1 + p % w.2.2.2) * g.sx + g.dx * (j % g.kw) : Nat) : Int) - g.left) c, dst := fun _ i => i * b }

/-- The geometry record that a WINDOW descriptor names. -/
def sdGeom (k : Package) (d : List Byte) : Geom := readGeom ((k.descs.drop (leAt d 0x28 4)).take 32)

/-- Index j of an INDEXED stream: from the local store, from memory, or, behind a window, from the operand `far`, whose first
word is index `first` (log entry 7). -/
def indexAt (s : State) (p i : Nat) (d : List Byte) (first : Nat) (far : List Byte) (j : Nat) : Nat :=
  let b := leAt d 0x30 8
  if bits (leAt d 0x38 1) 2 1 = 1 then s.load (lsAddr p (64 * b + 4 * j)) 4
  else match s.translate i (b + 4 * j) false with
    | .ok a => if isRemote a then leAt far (4 * (j - first)) 4 else leNat (readVa s i (b + 4 * j) 4 [])
    | _ => 0

/-- The shape of a stream with descriptor `d` and base `base` on stagehand `p`. -/
def shapeOf (s : State) (k : Package) (p i : Nat) (d : List Byte) (base tile : Nat) (far : List Byte) : Shape :=
  match sdKind d with
  | 1 => indexedShape (indexAt s p i d (tile * prodL ((sdCounts d).take (sdTileDim d))) far) d base
  | 2 => windowShape d (sdGeom k d) base
  | _ => affineShape d base

/-! The checks of R208 -/

/-- Whether every field keeps its encoding and every reserved field is 0 (R196 to R206). -/
def sdLayoutOk (d : List Byte) : Bool :=
  let kind := sdKind d
  let dir := sdDir d
  let fmtOk (f : Nat) : Bool := decide (f ≤ 7) || f == 9 || f == 15
  d.length == 64 && decide (kind ≤ 3) && decide (dir ≤ 2) && (kind != 3 || dir == 0) && decide (leAt d 1 1 < 32) &&
    (fmtOk (sdSrc d) || (sdSrc d == 10 && dir == 0)) && fmtOk (sdDst d) && decide (1 ≤ sdNdim d ∧ sdNdim d ≤ 5) &&
    decide (1 ≤ sdTileDim d ∧ sdTileDim d ≤ sdNdim d) && decide (leAt d 3 1 < 64) && decide (leAt d 6 2 < 1024) && decide (sdBase d < 2 ^ 48) &&
    (!sdHandover d || sdBase d == 0) && decide (1 ≤ sdTileLines d ∧ sdTileLines d ≤ 12288) &&
    (List.range 5).all (fun i => decide (1 ≤ sdCount d i) && (decide (i < sdNdim d) || sdCount d i == 1)) && leAt d 0x1F 1 == 0 &&
    (match kind with
     | 0 => leAt d 0x30 16 == 0
     | 1 =>
       let m := bits (leAt d 0x38 1) 0 2
       decide (m ≤ 1) && decide (leAt d 0x38 4 < 8) && leAt d 0x2E 2 == 0 && leAt d 0x24 4 == 0 &&
         (if m = 0 then leAt d 0x20 4 == 0 && decide (1 ≤ leAt d 0x2C 2) else decide (1 ≤ leAt d 0x3C 2 ∧ 1 ≤ leAt d 0x3E 2))
     | 2 =>
       sdNdim d == 3 && leAt d 0x28 4 % 32 == 0 && decide (leAt d 0x2C 1 < 2) && leAt d 0x3E 2 == 0 &&
         (leAt d 0x2C 1 != 0 || leAt d 0x2D 1 == 0x11)
     | _ => leAt d 0x28 8 == 0 && leAt d 0x36 10 == 0 && decide (1 ≤ sdSlices d))

/-- The checks of R208; `edge` says whether the job's chain holds an edge. -/
def sdOk (s : State) (k : Package) (p i : Nat) (edge : Nat → Bool) (d : List Byte) : Bool :=
  sdLayoutOk d && sdPair (sdSrc d) (sdDst d) && (sdDir d != 2 || sdSrc d == sdDst d) && decide (sdLine d + 4 * sdTileLines d ≤ 49152) &&
    (let f := shapeOf s k p i d (sdBase d) 0 []
     (sdKind d == 3 || decide (f.size 0 ≤ sdTileLines d * 512)) && ((sdDataEn d && sdFreeEn d) || decide (f.tiles ≤ 4))) &&
    (sdKind d != 2 || (let g := sdGeom k d; sdCount d 1 == g.w && sdCount d 2 == g.h)) && (!sdHandover d || edge (sdEdge d))

/-! Moving elements -/

/-- Bits of a byte run that starts at a byte of memory. -/
def memBits (s : State) (bit n : Nat) : Nat := bits (s.load (bit / 8) ((bit % 8 + n + 7) / 8)) (bit % 8) n

/-- Store `n` bits at a bit offset of memory, keeping the bits beside them. -/
def storeBits (bit n v : Nat) (s : State) : State :=
  let len := (bit % 8 + n + 7) / 8
  let w := s.load (bit / 8) len
  s.store (bit / 8) (leBytes len (w - bits w (bit % 8) n * 2 ^ (bit % 8) + v % 2 ^ n * 2 ^ (bit % 8)))

/-- The code at a bit address of a channel, with what is left of the bytes that come from behind windows. -/
def readTap (s : State) (i bit n : Nat) (far : List Byte) : Nat × List Byte :=
  match s.translate i (bit / 8) false with
  | .ok a =>
    let len := (bit % 8 + n + 7) / 8
    if isRemote a then (bits (leNat (far.take len)) (bit % 8) n, far.drop len)
    else (bits (leNat (readVa s i (bit / 8) len far)) (bit % 8) n, far)
  | _ => (0, far)

/-- Join an element to the runs of bytes to be written, newest run first; `old` is the byte an address holds. -/
def joinRun (old : Nat → Byte) (runs : List (Nat × List Byte)) (bit n code : Nat) : List (Nat × List Byte) :=
  let v := bit / 8
  let bytes := if n = 4 then [BitVec.ofNat 8 (if bit % 8 = 0 then code % 16 + (old v).toNat / 16 * 16 else (old v).toNat % 16 + code % 16 * 16)] else leBytes (n / 8) code
  match runs with
  | (b, l) :: t =>
    if n = 4 ∧ bit % 8 = 4 ∧ b + l.length = v + 1 then (b, l.dropLast ++ [BitVec.ofNat 8 ((l.getLastD 0).toNat % 16 + code % 16 * 16)]) :: t
    else if b + l.length = v then (b, l ++ bytes) :: t
    else (v, bytes) :: runs
  | [] => [(v, bytes)]

/-- The first element from `from_` on whose index or memory side does not translate or is refused, with its address and walk (R219,
R578). -/
def firstTap (s : State) (i : Nat) (f : Shape) (t from_ bitsN : Nat) (write : Bool) : Option (Nat × Nat × Walk) :=
  (List.range (f.len t - from_)).findSome? (fun q =>
    let bad (va : Nat) (wr : Bool) : Option (Nat × Nat × Walk) := match s.access i va wr with | .ok _ => none | w => some (from_ + q, va, w)
    ((f.index t (from_ + q)).bind (fun a => bad a false)).orElse (fun _ =>
      match f.tap t (from_ + q) with
      | .gen _ | .none => none
      | .mem b => (bad (b / 8) write).orElse (fun _ => bad ((b + bitsN - 1) / 8) write)))

end Sys2Proof.Machine
end

