-- ==== Sys2Proof/Machine/Stagehands.lean ====
section
/-! DEFINITION. Stagehands: starting, moving, halting, resuming and draining streams; hand-over credits; page fetches
(spec/06, R187 to R230; spec/13, R495, R502 to R505; spec/18, R648). -/

namespace Sys2Proof.Machine

/-- A stagehand's state. -/
def State.shd (s : State) (sh : Nat) : Shd := tget s.shds {} sh

/-- The number of a job's unit, or the channel's last posted number (R471). -/
def State.unitSeq (s : State) (i : Nat) (job : Option Nat) : Nat :=
  match job.bind (tget? s.jobs) with | some j => j.seq | none => (s.chan i).last

/-- A stagehand fails a stream's job: the code on its page, and the stop (R208). -/
def shdFail (sh : Nat) (job : Option Nat) (code : Nat) (s : State) : State := stopOf job code (post (shdPage sh) code s)

/-! Hand-over edges -/

/-- Whether a chain serves a job of a channel (R462). -/
def ChainSt.serves (c : ChainSt) (s : State) (i : Nat) (job : Option Nat) : Bool :=
  match c.owner with | .job id => job == some id | .live e => (s.chan i).live == some e

/-- The granted edge of a number for a job: the place of its chain and the edge. -/
def State.edge (s : State) (i : Nat) (job : Option Nat) (num : Nat) : Option (Nat × Edge) :=
  s.chains.zipIdx.findSome? (fun c => if c.1.granted && c.1.serves s i job then (c.1.edges.find? (·.num == num)).map (fun e => (c.2, e)) else none)

/-- Write an edge back. -/
def setEdge (c : Nat) (e : Edge) (s : State) : State :=
  { s with chains := s.chains.zipIdx.map (fun x => if x.2 = c then { x.1 with edges := x.1.edges.map (fun y => if y.num = e.num then e else y) } else x.1) }

/-- Units of 16 KiB that an edge and a chain take (R210). -/
def Edge.units (e : Edge) : Nat := e.credits * upDiv e.tileBytes 16384
def ChainSt.units (c : ChainSt) : Nat := (c.edges.map Edge.units).foldl (· + ·) 0

/-- Units granted. -/
def State.grantedUnits (s : State) : Nat := ((s.chains.filter (·.granted)).map ChainSt.units).foldl (· + ·) 0

/-- The pool (SMV_HO_POOL). -/
def State.hoPool (s : State) : Nat := min 2048 (s.rf 0x280 Reg.SMV_HO_POOL_POOL)

/-- SMV_HO_FREE follows the grants. -/
def showPool (s : State) : State :=
  (s.wf 0x280 Reg.SMV_HO_FREE_FREE (s.hoPool - s.grantedUnits)).wf 0x280 Reg.SMV_HO_FREE_WAITING ((s.chains.filter (fun c => !c.granted)).length)

/-- The credits of an owner return (R214). -/
def dropChain (o : ChainOwner) (s : State) : State := showPool { s with chains := s.chains.filter (fun c => c.owner ≠ o) }

/-- CREDIT_GRANT (R212, R214): chain `n` of the admission order gets every credit at once, once no earlier chain that needs
credits still waits and the pool has room. -/
def execCreditGrant (n : Nat) (s : State) : Host.Outcome State Fault Refusal :=
  match s.chains[n]? with
  | none => .next s
  | some c =>
    if c.granted ∨ (c.units ≠ 0 ∧ ((s.chains.take n).any (fun x => !x.granted && x.units != 0) ∨ s.hoPool < s.grantedUnits + c.units)) then .next s
    else .next (showPool { s with chains := s.chains.set n { c with granted := true } })

/-- A credit passes on an edge of a chain: it resets the count of every job the chain serves (R215). -/
def creditMoved (c : ChainSt) (s : State) : State :=
  s.jobs.foldl (fun a (x : Nat × Job) => if c.serves s x.2.chan (some x.1) then moved (some x.1) a else a) s

/-- Whether a stage identity is a shared block (R461). -/
def isBlock (id : Nat) : Bool := decide (0x100 ≤ id ∧ id < 0x200)

/-- HANDOVER_TILE on edge `num` of chain `n` (R213): the tile that a stream has written, or one that a shared block has
written into a credit's buffer, goes to the consumer. -/
def execHandoverTile (n : Nat) (num : Fin 64) (bytes : List Byte) (s : State) : Host.Outcome State Fault Refusal :=
  match s.chains[n]? with
  | none => .next s
  | some c => match c.edges.find? (·.num == num.val) with
    | none => .next s
    | some e =>
      if !c.granted then .next s
      else match e.built with
        | some b => .next (creditMoved c (setEdge n { e with built := none, tiles := e.tiles ++ [b] } s))
        | none =>
          if isBlock e.prod ∧ e.free ≠ 0 then
            .next (creditMoved c (setEdge n { e with free := e.free - 1, tiles := e.tiles ++ [bytes.take e.tileBytes] } s))
          else .next s

/-- CREDIT_RETURN on edge `num` of chain `n` (R213): the consumer has read the oldest tile. -/
def execCreditReturn (n : Nat) (num : Fin 64) (s : State) : Host.Outcome State Fault Refusal :=
  match s.chains[n]? with
  | none => .next s
  | some c => match c.edges.find? (·.num == num.val) with
    | none => .next s
    | some e =>
      if e.tiles.isEmpty ∨ !(e.read || isBlock e.cons) then .next s
      else .next (creditMoved c (setEdge n { e with free := e.free + 1, tiles := e.tiles.tail, read := false } s))

/-- The flexible area of the Shared Store takes a pool and a GATHER, or keeps what it has (R648). -/
def flexArea (pool gather : Nat) (f : State → State) (s : State) : State :=
  if 2560 < pool + 4 * gather then bump 0x3A Cnt.SHS_SPACE_REJECTS 1 (record 0x3A Code.E_SHS_SPACE s)
  else showPool ((f s).wf 0x3A Reg.SHS_FLEX_USED (pool + 4 * gather))

/-- HO_POOL_WRITE (R214, R648): values above 2,048 read back as 2,048. -/
def hoPool (w : Word) (s : State) : State :=
  let n := min 2048 (bits w.toNat 0 12)
  flexArea n (s.rf 0x32 Reg.RCA_CTRL_GATHER) (fun a => a.wf 0x280 Reg.SMV_HO_POOL_POOL n) s

/-- HO_POOL_WRITE. -/
def execHoPoolWrite (w : Word) (s : State) : Host.Outcome State Fault Refusal := hostWrite 1 (hoPool w) s

/-- GATHER_WRITE (R309, R648): 0 reads back as 1. -/
def gatherWrite (w : Word) (s : State) : State :=
  let n := max 1 (bits w.toNat 0 8)
  flexArea (s.hoPool) n (fun a => a.wf 0x32 Reg.RCA_CTRL_GATHER n) s

/-- GATHER_WRITE. -/
def execGatherWrite (w : Word) (s : State) : Host.Outcome State Fault Refusal := hostWrite 1 (gatherWrite w) s

/-! Starting streams -/

/-- A SHD cue leaves its queue without posting its SIG, which its stream owes (R136, R189). -/
def leaveQueue (p : Nat) (s : State) : State :=
  let k := s.ply p
  closeIdle p (touch p (bump (0x100 + p) Cnt.PLY_CUES_DONE 1 (setPly p { k with queues := tput k.queues 4 (tget k.queues [] 4).tail } s)))

/-- The semaphore a cue signals. -/
def cSigOf (c : Nat) : Option Nat := if cSigEn c then some (cSig c) else none

/-- The descriptor cache meets a START: a hit, or a burst that replaces the older block (R209). -/
def descFetch (sh off : Nat) (s : State) : State :=
  let x := s.shd sh
  let b := off / 512
  if x.cache.contains b then bump (shdPage sh) Cnt.SMV_DESC_HITS 1 s
  else bump (shdPage sh) Cnt.SMV_DESC_BURSTS 1 { s with shds := tput s.shds sh { x with cache := b :: x.cache.take 1 } }

/-- The descriptor at an offset of a package's descriptor region; beyond its end it reads 0 and fails its checks. -/
def descAt (k : Package) (off : Nat) : List Byte := (List.range 64).map (fun n => k.descs.getD (off + n) 0)

/-- Whether a stagehand's slot holds a stream. -/
def State.slotFree (s : State) (sh slot : Nat) : Bool := (tget? s.streams (slotKey sh slot)).isNone

/-- The head of the SHD queue as a START that can run, with its descriptor. -/
def startHead (s : State) (p : Nat) : Option (QCue × Nat × List Byte) :=
  match headCue s p 4 1 with
  | some c => if s.slotFree p (bits c.cue 24 3) then some (c, bits c.cue 24 3, descAt (s.pkgOf p) (bits c.cue 32 32)) else none
  | none => none

/-- Arm a stream: its checks, its slot, and the cue leaves the queue (R189, R208, R209). `go` is what follows arming. -/
def armStream (p : Nat) (c : QCue) (slot : Nat) (d : List Byte) (go : State → State) (s : State) : State :=
  let job := (s.ply p).job
  let i := match s.jobOf p with | some j => j.chan | none => 0
  let s := descFetch p (bits c.cue 32 32) (startCue p 4 c s)
  if s.refusing (shdPage p) then stopOf job Code.E_PEER_ABSENT s
  else if !sdOk s (s.pkgOf p) p i (fun n => (s.edge i job n).isSome) d then shdFail p job Code.E_DESC_ILLEGAL s
  else
    let x : Stream := { chan := i, job, desc := d, base := sdBase d, sig := cSigOf c.cue }
    repauseJob job (go (leaveQueue p (bump (shdPage p) Cnt.SMV_STARTS 1 { s with streams := tput s.streams (slotKey p slot) x })))

/-- A player's START of a stream other than a relay stream, which RELAY_ACCEPT starts. -/
def startLocal (p : Nat) (s : State) : State :=
  match startHead s p with
  | some (c, slot, d) => if sdKind d = 3 ∧ sdLayoutOk d then s else armStream p c slot d id s
  | none => s

/-- The block that owns shared stagehand 0x80 + n starts a stream for a job, under the same rules (R188); a RELAY descriptor starts on a
player's queue only (R231). -/
def startShared (n slot id off : Nat) (s : State) : State :=
  match tget? s.jobs id with
  | none => s
  | some j =>
    let sh := 0x80 + n
    let k := j.pkg.getD {}
    let d := descAt k off
    if j.stop.isSome ∨ j.st = .ready ∨ j.st = .stopping ∨ !s.slotFree sh slot ∨ (sdKind d = 3 ∧ sdLayoutOk d) then s
    else
      let s := descFetch sh off s
      if s.refusing (shdPage sh) then stopJob id Code.E_PEER_ABSENT s
      else if !sdOk s k sh j.chan (fun e => (s.edge j.chan (some id) e).isSome) d then shdFail sh (some id) Code.E_DESC_ILLEGAL s
      else
        let x : Stream := { chan := j.chan, job := some id, desc := d, base := sdBase d }
        repauseJob (some id) (bump (shdPage sh) Cnt.SMV_STARTS 1 { s with streams := tput s.streams (slotKey sh slot) x })

/-- SHD_START (R188, R189, R208, R209). -/
def execShdStart (by_ : Starter) (s : State) : Host.Outcome State Fault Refusal :=
  match by_ with
  | .player p => .next (startLocal p.val s)
  | .block n slot id off => .next (startShared n.val slot.val id off s)

/-- SHD_REARM (R191, R193). `room` says whether a relay stream may run again, and `again` restarts it. -/
def shdRearm (room : Bool) (again : Nat → Stream → State → State) (p : Nat) (s : State) : State :=
  match headCue s p 4 2 with
  | none => s
  | some c =>
    let slot := bits c.cue 24 3
    let job := (s.ply p).job
    match tget? s.streams (slotKey p slot) with
    | none => shdFail p job Code.E_DESC_ILLEGAL (startCue p 4 c s)
    | some x =>
      if !sdPersist x.desc then shdFail p job Code.E_DESC_ILLEGAL (startCue p 4 c s)
      else if x.st ≠ 4 ∨ (sdKind x.desc = 3 ∧ !room) then s
      else
        let y := { x with st := 2, base := bits c.cue 64 64, tile := 0, off := 0, took := false, sig := cSigOf c.cue }
        let s := bump (shdPage p) Cnt.SMV_REARMS 1 (leaveQueue p (startCue p 4 c s))
        repauseJob job (again slot y { s with streams := tput s.streams (slotKey p slot) y })

/-- SHD_CLOSE of a stream that waits for a REARM, or of a free slot (R192, R193). -/
def shdClose (p : Nat) (s : State) : State :=
  match headCue s p 4 3 with
  | none => s
  | some c =>
    let key := slotKey p (bits c.cue 24 3)
    match tget? s.streams key with
    | none => shdFail p (s.ply p).job Code.E_DESC_ILLEGAL (startCue p 4 c s)
    | some x => if x.st ≠ 4 then s else completeHead p 4 (startCue p 4 c { s with streams := tdel s.streams key })

/-- SHD_CLOSE. -/
def execShdClose (p : Fin 68) (s : State) : Host.Outcome State Fault Refusal := .next (shdClose p.val s)

/-- The end of a pass (R189, R190, R192): the SIG that is owed, the slot, and a CLOSE that waits for it; a stream of an idle player closes
(R194). -/
def passEnd (sh slot : Nat) (x : Stream) (s : State) : State :=
  let key := slotKey sh slot
  let s := bump (shdPage sh) Cnt.SMV_PASSES 1 s
  let closing : Bool := decide (sh < 68) && (match headCue s sh 4 3 with | some c => bits c.cue 24 3 == slot | none => false)
  let s := if sdPersist x.desc then { s with streams := tput s.streams key { x with st := 4, sig := none } } else { s with streams := tdel s.streams key }
  let s := repauseJob x.job s
  let s := if sh < 68 then closeIdle sh (touch sh (match x.sig with | some n => semAdd sh n 1 0 s | none => s)) else s
  if closing then
    match headCue s sh 4 3 with
    | some c => completeHead sh 4 (startCue sh 4 c { s with streams := tdel s.streams key })
    | none => s
  else s

/-! Halting and resuming -/

/-- Cause PAGE of a channel goes once none of its streams is halted (R434). -/
def clearPage (i : Nat) (s : State) : State :=
  if s.streams.any (fun (x : Nat × Stream) => x.2.chan == i && x.2.halted) || !(s.chan i).page then s
  else setChan i ({ s.chan i with page := false } : Chan).settle s

/-- A stream enters HALTED or FETCHING (R219 to R222, R504): the halt record, the event with its token, cause PAGE; a
fetchable page joins the fetch of its entry or asks for one. `pos` is the linear position. -/
def haltStream (sh slot : Nat) (x : Stream) (va pos : Nat) (write fetch : Bool) (entry : Nat) (s : State) : State :=
  let pg := shdPage sh
  let d := s.shd sh
  let seq := (d.halts + 1) % 65536
  let s := { s with shds := tput s.shds sh { d with halts := seq } }
  let joined := s.fetches.find? (fun (f : Nat × Fetch) => f.2.entry == entry && f.2.chan == x.chan)
  let fid := if fetch then some (match joined with | some f => f.1 | none => s.nextFetch) else none
  let s := if fetch && joined.isNone then { s with fetches := tput s.fetches s.nextFetch { chan := x.chan, vpage := va / 65536, entry }, nextFetch := s.nextFetch + 1 } else s
  let y := { x with st := if fetch then 7 else 5, haltSeq := seq, haltAt := s.time, haltVa := va, haltWrite := write, fetch := fid }
  let s := { s with streams := tput s.streams (slotKey sh slot) y }
  let h := handleOf x.chan (s.chan x.chan)
  let s := bump 0x20 Cnt.XLT_HOLDS 1 (bump pg Cnt.SMV_HALTS 1 (bump pg Cnt.SMV_XLT_MISSES 1 s))
  let s := holdRecord pg Reg.SMV_HALT_VALID
    [(Reg.SMV_HALT_SLOT, slot), (Reg.SMV_HALT_FETCHING, bit fetch), (Reg.SMV_HALT_WRITE, bit write), (Reg.SMV_HALT_HALT_SEQ, seq),
     (Reg.SMV_HALT_VA_LO_VA, va % 2 ^ 32), (Reg.SMV_HALT_VA_HI_VA, va / 2 ^ 32), (Reg.SMV_HALT_POS_LO_POS, pos % 2 ^ 32), (Reg.SMV_HALT_POS_HI_POS, pos / 2 ^ 32),
     (Reg.SMV_HALT_HANDLE_HANDLE, h)] s
  let token := sh + slot * 256 + seq * 65536
  let s := repauseJob x.job (setChan x.chan ({ s.chan x.chan with page := true } : Chan).settle s)
  let q := s.unitSeq x.chan x.job
  chanEvent x.chan q Code.H_PAGE_ABSENT va token (bit fetch * 64) (postFull pg Code.H_PAGE_ABSENT h q va token s)

/-- The linear position of a stream: elements moved before the next one (R219). -/
def linearPos (f : Shape) (x : Stream) : Nat := ((List.range x.tile).map f.len).foldl (· + ·) 0 + x.off

/-- The package of a stream's job. -/
def State.streamPkg (s : State) (x : Stream) : Package := match x.job.bind (tget? s.jobs) with | some j => j.pkg.getD {} | none => {}

/-- The channel's coding state that a stream's job computes with (R96). -/
def State.streamCodec (s : State) (x : Stream) : Codec := match x.job.bind (tget? s.jobs) with | some j => s.codecFor j | none => (s.chan x.chan).codec

/-- The stream in a slot as its shape. -/
def State.shapeFor (s : State) (sh : Nat) (x : Stream) (far : List Byte) : Shape :=
  shapeOf s (s.streamPkg x) sh x.chan x.desc x.base x.tile far

/-- A halted stream re-translates its saved element and goes on, or halts again (R223). A halt of a shared stagehand
leaves its slot. -/
def resumeStream (key : Nat) (s : State) : State :=
  match tget? s.streams key with
  | none => s
  | some x =>
    let sh := key / 8
    let pos := if x.desc.isEmpty then x.off else linearPos (s.shapeFor sh x []) x
    match s.walk x.chan x.haltVa x.haltWrite with
    | .hold _ fetch entry => haltStream sh (key % 8) x x.haltVa pos x.haltWrite fetch entry s
    | _ =>
      let s := bump (shdPage sh) Cnt.SMV_RESUMES 1 s
      let s := if x.desc.isEmpty then { s with streams := tdel s.streams key } else { s with streams := tput s.streams key { x with st := 2, fetch := none } }
      repauseJob x.job (clearPage x.chan s)

/-! Moving tiles -/

/-- Whether the next tile may move (R199, R200, R213): its buffer is free or ready, and on an edge its tile or credit is
there. -/
def tileReady (s : State) (sh : Nat) (x : Stream) : Bool :=
  let d := x.desc
  let sem (n : Nat) : Bool := decide (68 ≤ sh) || decide (1 ≤ s.sem sh n)
  x.took ||
    ((if sdDir d = 0 then !(sdFreeEn d) || decide (x.tile < 4) || sem (sdFreeSem d) else if sdDir d = 1 then !(sdDataEn d) || sem (sdDataSem d) else true) &&
     (!sdHandover d || (match s.edge x.chan x.job (sdEdge d) with
       | some (_, e) => if sdDir d = 1 then decide (0 < e.free) && e.built.isNone else !e.tiles.isEmpty && !e.read
       | none => false)))

/-- A stream of a player's stagehand takes one from a semaphore of the player (R199). -/
def takeSem (sh n : Nat) (s : State) : State := if sh < 68 then setSem sh n (s.sem sh n - 1) s else s

/-- Take what the tile needs. -/
def takeTile (sh : Nat) (x : Stream) (s : State) : State :=
  let d := x.desc
  if x.took then s
  else
    let s := if sdDir d = 0 then (if sdFreeEn d && decide (4 ≤ x.tile) then takeSem sh (sdFreeSem d) s else s)
      else if sdDir d = 1 && sdDataEn d then takeSem sh (sdDataSem d) s else s
    if sdHandover d && sdDir d == 1 then
      match s.edge x.chan x.job (sdEdge d) with | some (c, e) => setEdge c { e with free := e.free - 1 } s | none => s
    else s

/-- The byte address of a tile's buffer (R198). -/
def tileBase (sh : Nat) (x : Stream) : Nat := lsAddr sh (64 * (sdLine x.desc + x.tile % 4 * sdTileLines x.desc))

/-- The channel of a grouped scale for element k: the innermost index. -/
def scaleChan (d : List Byte) (k : Nat) : Nat := k % sdCount d 0

/-- The code of the local side of an element: in the player's local store, or what the owning block of a shared stagehand gives, tile by
tile (`far`, log entry 183). -/
def localCode (sh : Nat) (x : Stream) (off n : Nat) (far : List Byte) (s : State) : Nat :=
  if sh < 68 then memBits s (8 * tileBase sh x + off) n else bits (leNat far) off n

/-- A code reaches the local side: the local store, or the owning block of a shared stagehand, whose buffers are no state of their own (log
entry 183). -/
def putLocal (sh : Nat) (x : Stream) (off n code : Nat) (s : State) : State :=
  if sh < 68 then storeBits (8 * tileBase sh x + off) n code s else s

/-- What a stream has brought in: the state with the store written, the far bytes left, the conversions made, the values generated and
those fetched. -/
structure Pulled where
  st : State
  far : List Byte
  conv : List (Fp × Cstat) := []
  made : Nat := 0
  got : Nat := 0

/-- One element comes in. -/
def pullOne (sh : Nat) (x : Stream) (f : Shape) (front : List Byte) (a : Pulled) (n : Nat) : Pulled :=
  let d := x.desc
  let mb := sdBits (sdMemFmt d)
  let lb := sdBits (sdLsFmt d)
  match f.tap x.tile n with
  | .none => a
  | .gen c => { a with st := putLocal sh x (f.dst x.tile n) lb c a.st, made := a.made + 1 }
  | .mem b =>
    let v := if sdHandover d then (bits (leNat front) (n * mb) mb, a.far) else readTap a.st x.chan b mb a.far
    let c := sdConvert (a.st.streamPkg x) (a.st.streamCodec x) d (scaleChan d n) v.1
    { a with st := putLocal sh x (f.dst x.tile n) lb c.1 a.st, far := v.2, conv := a.conv ++ [c.2], got := a.got + 1 }

/-- The values that a stream brings in up to a place of its tile. -/
def pullIn (sh : Nat) (x : Stream) (f : Shape) (upto : Nat) (far : List Byte) (s : State) : Pulled :=
  let front := match s.edge x.chan x.job (sdEdge x.desc) with | some (_, e) => e.tiles.headD [] | none => []
  (List.range (upto - x.off)).foldl (fun a q => pullOne sh x f front a (x.off + q)) { st := s, far }

/-- Lines asked for: those of a job with a deadline are granted in its order (R216, R239). -/
def lineReqs (sh n : Nat) (x : Stream) (s : State) : State :=
  let s := bump (shdPage sh) Cnt.SMV_LINE_REQS n s
  match x.job.bind (tget? s.jobs) with
  | some j => if j.deadline.isSome then bump (shdPage sh) Cnt.SMV_DEADLINE_GRANTS n s else s
  | none => s

/-- Lines of index that an INDEXED stream reads from memory for so many elements. -/
def indexLines (d : List Byte) (n : Nat) : Nat :=
  if sdKind d = 1 ∧ bits (leAt d 0x38 1) 2 1 = 0 then upDiv (4 * upDiv n (if bits (leAt d 0x38 1) 0 2 = 1 then 4 else leAt d 0x2C 2)) 64 else 0

/-- Converted elements of a stream count (R102, R207, R239). -/
def countMoved (sh : Nat) (x : Stream) (l : List (Fp × Cstat)) (s : State) : State :=
  if sdSrc x.desc = sdDst x.desc then s
  else
    let s := bump (shdPage sh) Cnt.SMV_CONVERTED l.length s
    match x.job with | some id => countJob id (sdTid x.desc) (sdStats x.desc) l s | none => s

/-- Elements of a tile, up to `upto`, to the local side (R197 to R207). -/
def moveIn (sh : Nat) (x : Stream) (f : Shape) (upto : Nat) (far : List Byte) (s : State) : State :=
  let d := x.desc
  let r := pullIn sh x f upto far s
  let s := bump (shdPage sh) Cnt.SMV_PAD_GEN r.made (bump (shdPage sh) Cnt.SMV_BYTES_IN ((r.got + r.made) * sdBits (sdLsFmt d) / 8) r.st)
  countMoved sh x r.conv (lineReqs sh (upDiv (r.got * sdBits (sdMemFmt d)) 512 + indexLines d (upto - x.off)) x s)

/-- Elements of a tile from the local side: their bit addresses and codes, oldest first, and what they count in. -/
def gatherOut (sh : Nat) (x : Stream) (f : Shape) (upto : Nat) (far : List Byte) (s : State) : List (Nat × Nat) × List (Fp × Cstat) :=
  let d := x.desc
  let l := (List.range (upto - x.off)).filterMap (fun q =>
    let n := x.off + q
    match f.tap x.tile n with
    | .mem b => some (b, sdConvert (s.streamPkg x) (s.streamCodec x) d (scaleChan d n) (localCode sh x (f.dst x.tile n) (sdBits (sdLsFmt d)) far s))
    | .gen _ | .none => none)
  (l.map (fun e => (e.1, e.2.1)), l.map (fun e => e.2.2))

/-- Write elements to a channel's memory, joined into runs (R197, R506). -/
def writeRuns (sh slot : Nat) (x : Stream) (mb : Nat) (l : List (Nat × Nat)) (s : State) : State :=
  let old (va : Nat) : Byte := (readVa s x.chan va 1 []).headD 0
  let runs := l.foldl (fun r e => joinRun old r e.1 mb e.2) []
  runs.reverse.foldl (fun a r => writeVa x.chan r.1 r.2 (.stream sh slot x.job) (r.2.length / 65536 + 2) a) s

/-- Elements of a tile out to memory or to an edge. -/
def moveOut (sh slot : Nat) (x : Stream) (f : Shape) (upto : Nat) (far : List Byte) (s : State) : State :=
  let d := x.desc
  let mb := sdBits (sdMemFmt d)
  let g := gatherOut sh x f upto far s
  let s := bump (shdPage sh) Cnt.SMV_BYTES_OUT ((upto - x.off) * sdBits (sdLsFmt d) / 8) s
  let s := countMoved sh x g.2 (lineReqs sh (upDiv (g.1.length * mb) 512 + indexLines d (upto - x.off)) x s)
  if sdHandover d then
    match s.edge x.chan x.job (sdEdge d) with
    | some (c, e) => setEdge c { e with built := some (leBytes ((g.1.length * mb + 7) / 8) ((g.1.zipIdx.map (fun y => y.1.2 % 2 ^ mb * 2 ^ (y.2 * mb))).foldl (· + ·) 0)) } s
    | none => s
  else writeRuns sh slot x mb g.1 s

/-- Elements of a tile from memory to memory (R196); the destination no field names (log entry 11). -/
def moveCopy (sh slot : Nat) (x : Stream) (f : Shape) (upto : Nat) (far : List Byte) (s : State) : State :=
  let d := x.desc
  let mb := sdBits (sdMemFmt d)
  let r := (List.range (upto - x.off)).foldl (fun (a : List (Nat × Nat) × List Byte × Nat) q =>
    let n := x.off + q
    let dst := 8 * Config.copyBase d + (x.tile * f.len 0 + n) * mb
    match f.tap x.tile n with
    | .none => a
    | .gen c => (a.1 ++ [(dst, c)], a.2.1, a.2.2 + 1)
    | .mem b => let v := readTap s x.chan b mb a.2.1; (a.1 ++ [(dst, v.1)], v.2, a.2.2)) ([], far, 0)
  let s := bump (shdPage sh) Cnt.SMV_PAD_GEN r.2.2 (bump (shdPage sh) Cnt.SMV_BYTES_IN (r.1.length * mb / 8) s)
  writeRuns sh slot x mb r.1 (lineReqs sh (upDiv ((r.1.length - r.2.2) * mb) 512 + upDiv (r.1.length * mb) 512 + indexLines d (upto - x.off)) x s)

/-- Move the elements of the tile in progress up to `upto`. -/
def moveTo (sh slot : Nat) (x : Stream) (f : Shape) (upto : Nat) (far : List Byte) (s : State) : State :=
  if sdDir x.desc = 0 then moveIn sh x f upto far s else if sdDir x.desc = 1 then moveOut sh slot x f upto far s else moveCopy sh slot x f upto far s

/-- The first element of the tile in progress that does not translate or is refused. -/
def State.badTap (s : State) (x : Stream) (f : Shape) : Option (Nat × Nat × Walk) :=
  if sdHandover x.desc then none else firstTap s x.chan f x.tile x.off (sdBits (sdMemFmt x.desc)) (sdDir x.desc == 1)

/-- Whether a stream's job goes on: on its player, or, on a shared stagehand, in its shared blocks. -/
def State.streamRuns (s : State) (sh : Nat) (x : Stream) : Bool :=
  if sh < 68 then s.jobRuns sh
  else match x.job.bind (tget? s.jobs) with
    | some j => j.stop.isNone && (j.st == .running || j.st == .offstage)
    | none => false

/-- Whether a stream can move: it runs, its job runs, its pass has a tile left, and the tile may move. -/
def State.canMove (s : State) (sh : Nat) (x : Stream) (f : Shape) : Bool :=
  x.st == 2 && sdKind x.desc != 3 && !x.desc.isEmpty && s.streamRuns sh x && decide (x.tile < f.tiles) && tileReady s sh x

/-- A translation of a stream fails, or the block it reaches refuses it: its job stops (R495, R496, R578). -/
def tileFail (sh : Nat) (x : Stream) (va : Nat) (w : Walk) (s : State) : State :=
  let r := walkFail x.chan va (sdDir x.desc == 1) w s
  let s := match w with | .refused _ => r.2 | _ => bump (shdPage sh) Cnt.SMV_XLT_MISSES 1 r.2
  stopOf x.job r.1 (postCode r.1 (handleOf x.chan (s.chan x.chan)) (s.unitSeq x.chan x.job) 0 0 s)

/-- An edge's tile is being read (R213). -/
def readEdge (x : Stream) (s : State) : State :=
  if sdHandover x.desc && sdDir x.desc == 0 then
    match s.edge x.chan x.job (sdEdge x.desc) with | some (c, e) => setEdge c { e with read := true } s | none => s
  else s

/-- The semaphore that a tile posts (R199). -/
def tileSem (sh : Nat) (x : Stream) (s : State) : State :=
  if 68 ≤ sh then s
  else if sdDir x.desc = 0 && sdDataEn x.desc then semAdd sh (sdDataSem x.desc) 1 0 s
  else if sdDir x.desc = 1 && sdFreeEn x.desc then semAdd sh (sdFreeSem x.desc) 1 0 s
  else s

/-- A stream moves data: progress of its player (R147). -/
def touchShd (sh : Nat) (s : State) : State := if sh < 68 then touch sh s else s

/-- A tile has moved: the next one, the count, the semaphore. -/
def tileEnd (sh slot : Nat) (x : Stream) (s : State) : State :=
  tileSem sh x (touchShd sh (moved x.job (bump (shdPage sh) Cnt.SMV_TILES 1
    (readEdge x { s with streams := tput s.streams (slotKey sh slot) { x with tile := x.tile + 1, off := 0, took := false } }))))

/-- STREAM_TILE_DONE (R198 to R207): the tile's elements move and its semaphore is posted; a translation that fails stops the
job after the elements before it. -/
def tileDone (sh slot : Nat) (far idx : List Byte) (s : State) : State :=
  match tget? s.streams (slotKey sh slot) with
  | none => s
  | some x =>
    let f := s.shapeFor sh x idx
    if !s.canMove sh x f then s
    else match s.badTap x f with
      | some (_, _, .hold ..) => s
      | some (n, va, w) => tileFail sh x va w (moveTo sh slot x f n far (takeTile sh x s))
      | none => tileEnd sh slot x (moveTo sh slot x f (f.len x.tile) far (takeTile sh x s))

/-- STREAM_TILE_DONE. -/
def execStreamTileDone (sh : Nat) (slot : Fin 6) (far idx : List Byte) (s : State) : Host.Outcome State Fault Refusal :=
  .next (tileDone sh slot.val far idx s)

/-- Whether requests of a slot are not acknowledged yet. -/
def State.slotWaits (s : State) (sh slot : Nat) : Bool :=
  s.qps.any (fun (q : Nat × Qp) => q.2.out.any (fun r => match r.owner with | .stream a b _ => a == sh && b == slot | _ => false))

/-- STREAM_PASS_END (R189, R190, R192): every tile of the pass has moved, and every write is acknowledged. -/
def execStreamPassEnd (sh : Nat) (slot : Fin 6) (s : State) : Host.Outcome State Fault Refusal :=
  match tget? s.streams (slotKey sh slot.val) with
  | none => .next s
  | some x =>
    if x.st ≠ 2 ∨ sdKind x.desc = 3 ∨ x.desc = [] ∨ !s.streamRuns sh x ∨ s.slotWaits sh slot.val ∨ x.tile < (s.shapeFor sh x []).tiles then .next s
    else .next (passEnd sh slot.val x s)

/-- A stream whose next element misses has moved those before it, and halts once every request it issued has completed (R219). -/
def haltTile (sh slot : Nat) (x : Stream) (f : Shape) (va : Nat) (fetch : Bool) (entry : Nat) (s : State) : State :=
  if s.slotWaits sh slot then { s with streams := tput s.streams (slotKey sh slot) x }
  else haltStream sh slot x va (linearPos f x) (sdDir x.desc == 1) fetch entry s

/-- STREAM_HALT (R219 to R222, R224): the elements before the absent page move, and the stream halts; on a shared stagehand
(sh from 0x80) whose slot is free `at_` says where its stream stands. -/
def streamHalt (sh slot : Nat) (far idx : List Byte) (at_ : SharedAt) (s : State) : State :=
  match tget? s.streams (slotKey sh slot) with
  | some x =>
    let f := s.shapeFor sh x idx
    if !s.canMove sh x f then s
    else match s.badTap x f with
      | some (n, va, .hold _ fetch entry) =>
        let t := moveTo sh slot x f n far (takeTile sh x s)
        haltTile sh slot { x with off := n, took := true } f va fetch entry (if x.off < n then moved x.job t else t)
      | _ => s
  | none =>
    if !(decide (0x80 ≤ sh) && decide (sh < 0x88) && decide ((s.chan at_.chan).st ≠ 0)) then s
    else if (match at_.job.bind (tget? s.jobs) with | some j => j.chan != at_.chan || j.stop.isSome | none => at_.job.isSome) then s
    else match s.walk at_.chan at_.va at_.write with
      | .hold _ fetch entry => haltStream sh slot { chan := at_.chan, job := at_.job, off := at_.pos } at_.va at_.pos at_.write fetch entry s
      | _ => s

/-- STREAM_HALT. -/
def execStreamHalt (sh : Nat) (slot : Fin 6) (far idx : List Byte) (at_ : SharedAt) (s : State) : Host.Outcome State Fault Refusal :=
  .next (streamHalt sh slot.val far idx at_ s)

/-- HALT_TIMEOUT (R225): the job of a stream halted longer than HALT_TO is cancelled. -/
def execHaltTimeout (sh : Nat) (slot : Fin 6) (s : State) : Host.Outcome State Fault Refusal :=
  match tget? s.streams (slotKey sh slot.val) with
  | none => .next s
  | some x =>
    let lim := s.rf (shdPage sh) Reg.SMV_CTRL_HALT_TO
    if !x.halted ∨ lim = 0 ∨ s.time ≤ x.haltAt + lim * 1000000 then .next s
    else .next (shdFail sh x.job Code.E_HALT_TIMEOUT s)

/-- RESUME (R223, R432): the token names a HALTED stream of the channel. -/
def resume (c : Ctx) (i : Nat) (e : Entry) (s : State) : State :=
  if !(s.chan i).page then fail c Code.E_CH_STATE s
  else
    let t := eGet e 0x10 0 32
    let key := slotKey (t % 256) (bits t 8 3)
    match tget? s.streams key with
    | some x =>
      if x.st = 5 ∧ x.chan = i ∧ x.haltSeq = t / 65536 ∧ bits t 11 5 = 0 then
        done c (bump 0x21 Cnt.HIF_RESUMES 1 (resumeStream key s))
      else fail c Code.E_RESUME_STALE (bump 0x21 Cnt.HIF_RESUME_STALE 1 s)
    | none => fail c Code.E_RESUME_STALE (bump 0x21 Cnt.HIF_RESUME_STALE 1 s)

/-- RESUME. -/
def execResume (q : Fin 256) (e : Entry) (s : State) : Host.Outcome State Fault Refusal := .next (admitCmd spResume q.val (eWithOp e 0x1F) resume s)

/-! Page fetches (R502 to R505) -/

/-- Every stream that waits for a fetch re-translates and goes on, in ascending order of stagehand and slot. -/
def resumeFetch (id : Nat) (s : State) : State :=
  let l := s.streams.filter (fun (x : Nat × Stream) => x.2.fetch == some id)
  l.foldl (fun a x => resumeStream x.1 a) { s with fetches := tdel s.fetches id }

/-- A fetch fails the jobs of its streams. -/
def failFetch (id code : Nat) (s : State) : State :=
  let l := s.streams.filter (fun (x : Nat × Stream) => x.2.fetch == some id)
  l.foldl (fun a x => stopOf x.2.job code (postCode code (handleOf x.2.chan (a.chan x.2.chan)) (a.unitSeq x.2.chan x.2.job) 0 0 a))
    { s with fetches := tdel s.fetches id }

/-- Whether an entry is still fetchable (R502). -/
def fetchable (e : Nat) : Bool := bits e 0 1 == 0 && bits e 3 1 == 1 && bits e 4 1 == 1

/-- A fetch starts: its 64 KB are read behind the window (R502, R504). -/
def issueFetch (id : Nat) (f : Fetch) (t : Nat × Nat × Nat) (s : State) : State :=
  issue t.1 (.rdmaRead t.1 t.2.1 t.2.2 65536) (.fetch id)
    (bump 0x20 Cnt.XLT_REMOTE_BYTES 65536 (bump 0x20 Cnt.XLT_REMOTE_REQS 1 { s with fetches := tput s.fetches id f }))

/-- FETCH_START (R502, R504, R505): the oldest waiting fetch starts, at most eight at once. -/
def execFetchStart (s : State) : Host.Outcome State Fault Refusal :=
  match s.fetches.find? (fun (f : Nat × Fetch) => !f.2.started) with
  | none => .next s
  | some (id, f) =>
    if 8 ≤ (s.fetches.filter (fun (x : Nat × Fetch) => x.2.started)).length then .next s
    else
      let e := s.load f.entry 8
      if !fetchable e then .next (resumeFetch id s)
      else
        let part := s.chanPart f.chan
        let dest := s.load (f.entry + 256) 8
        let src := entryAddr e
        if dest % 65536 ≠ 0 ∨ !s.inPart part dest 65536 ∨ !(s.winOk part src 65536).1 then
          .next (failFetch id Code.E_XLT_FAULT (bump 0x20 Cnt.XLT_FAULTS 1 (holdXlt 5 3 false (f.vpage * 65536) (handleOf f.chan (s.chan f.chan)) s)))
        else
          .next (issueFetch id { f with started := true, value := e, dest } (s.winTarget src) s)

/-- FETCH_COMPLETE (R502, R503, R505) of fetch `id`: the page is stored and mapped if the entry is unchanged; a transport
failure fails the jobs. -/
def execFetchComplete (id : Nat) (s : State) : Host.Outcome State Fault Refusal :=
  match tget? s.fetches id with
  | none => .next s
  | some f =>
    if f.failCode ≠ 0 then .next (failFetch id f.failCode s)
    else match f.data with
      | none => .next s
      | some b =>
        if s.load f.entry 8 = f.value then
          let s := (s.store f.dest (b.take 65536)).store f.entry (leBytes 8 (f.dest + 3))
          .next (resumeFetch id (bump 0x20 Cnt.XLT_FETCH_BYTES 65536 (bump 0x20 Cnt.XLT_FETCHES 1 s)))
        else .next (resumeFetch id (bump 0x20 Cnt.XLT_FETCH_RACES 1 s))

/-- Table entries that a walk of an address reads (R493). -/
def walkReads (s : State) (i va : Nat) : Nat := match s.walk i va false with | .ok _ | .perm _ | .refused _ => (s.leaf i va).1 + 1 | .hold l _ _ | .fault _ l _ => l + 1

/-- XLT_WALK (R493 to R496, R498, R511) for a channel's address: the walk is cached where it translates; one that fails stops
the job it was made for. `halts` says that the requester is a stream, whose halt is STREAM_HALT. -/
def execXltWalk (handle : Word) (va : Dword) (write halts : Bool) (job : Option Nat) (s : State) : Host.Outcome State Fault Refusal :=
  match s.chanOf handle.toNat with
  | none => .next s
  | some i =>
    let a := va.toNat
    let s := bump 0x20 Cnt.XLT_LOOKUPS 1 s
    let s :=
      if 2 ^ 48 ≤ a then s
      else if s.cached i a then bump 0x20 Cnt.XLT_HITS 1 s
      else bump 0x20 Cnt.XLT_WALK_READS (walkReads s i a) (bump 0x20 Cnt.XLT_WALKS 1 s)
    match s.access i a write with
    | .ok _ => .next (cacheWalk i a s)
    | w =>
      if halts && (match w with | .hold .. => true | _ => false) then .next s
      else
        let r := walkFail i a write w s
        .next (stopOf job r.1 (postCode r.1 handle.toNat (r.2.unitSeq i job) 0 0 r.2))

end Sys2Proof.Machine
end

