-- ==== Sys2Proof/Machine/Relays.lean ====
section
/-! DEFINITION. The relay (spec/06, R231 to R238): relay streams, slices on the ring, KEEP cues. -/

namespace Sys2Proof.Machine

/-- The page of a wing's relay, and its ring. -/
def wrlPage (w : Nat) : Nat := 0x290 + w
def State.ring (s : State) (w : Nat) : Ring4 := tget s.relays {} w
def setWing (w : Nat) (r : Ring4) (s : State) : State := { s with relays := tput s.relays w r }

/-- The relay stream of a tag in a job on a wing. -/
def State.relay (s : State) (w job tag : Nat) : Option Relay := (s.ring w).streams.find? (fun r => r.job == job && r.tag == tag)

/-- Write a relay stream back. -/
def setRelay (w : Nat) (r : Relay) (s : State) : State :=
  let x := s.ring w
  setWing w { x with streams := x.streams.map (fun y => if y.job = r.job ∧ y.tag = r.tag then r else y) } s

/-- The KEEP range of a player meets the relay stream of its tag: ranges ascend without overlap and lie below SLICES (R235). -/
def keepMeets (p : Nat) (s : State) : State :=
  match (s.ply p).job, (s.ply p).keep with
  | some id, some k =>
    (match s.relay (wingOf p) id k.tag with
     | none => s
     | some r =>
       if k.first = 0xFFFF then s
       else if k.first < tget r.ends 0 p ∨ r.slices < k.first + k.count then
         stopJob id Code.E_RELAY_ORDER (post (wrlPage (wingOf p)) Code.E_RELAY_ORDER s)
       else setRelay (wingOf p) { r with ends := tput r.ends p (k.first + k.count) } s)
  | _, _ => s

/-- Whether a stream has a slice to send. -/
def Relay.sends (r : Relay) : Bool := !r.stopped && decide (r.next < r.slices)

/-- WRL_TAG and WRL_SLICE show the stream the head sends or waits on: the first in turn. -/
def showRing (w : Nat) (s : State) : State :=
  match (s.ring w).streams.find? Relay.sends with
  | some r => (s.wf (wrlPage w) Reg.WRL_TAG_TAG r.tag).wf (wrlPage w) Reg.WRL_SLICE_NEXT r.next
  | none => s

/-- Whether a ring takes another stream (R232). -/
def State.relayRoom (s : State) (w : Nat) : Bool := decide ((s.ring w).streams.length < 8)

/-- A relay stream is on its ring, its turn the last. -/
def enterRelay (p slot : Nat) (x : Stream) (s : State) : State :=
  match x.job with
  | none => s
  | some id =>
    let w := wingOf p
    let parts := match tget? s.jobs id with | some j => j.players.filter (fun q => wingOf q == w) | none => []
    let r : Relay := { tag := sdRelayTag x.desc, job := id, player := p, slot, base := x.base, slices := sdSlices x.desc, parts }
    let g := s.ring w
    let s := showRing w (bump (wrlPage w) Cnt.WRL_STREAMS 1 (setWing w { g with streams := g.streams ++ [r] } s))
    parts.foldl (fun a q => keepMeets q a) s

/-- The job has started a relay stream of a tag on a wing. -/
def noteTag (id w tag : Nat) (s : State) : State :=
  match tget? s.jobs id with
  | some j => { s with jobs := tput s.jobs id { j with tags := (w, tag) :: j.tags } }
  | none => s

/-- RELAY_ACCEPT (R231, R232): a RELAY START at the head of a player's SHD queue passes to the head of its wing, which runs
up to eight streams. -/
def execRelayAccept (p : Fin 68) (s : State) : Host.Outcome State Fault Refusal :=
  match startHead s p.val with
  | none => .next s
  | some (c, slot, d) =>
    let w := wingOf p.val
    match (s.ply p.val).job with
    | none => .next s
    | some id =>
      if !(sdKind d == 3 && sdLayoutOk d) ∨ !s.relayRoom w then .next s
      else if (match tget? s.jobs id with | some j => j.tags.contains (w, sdRelayTag d) | none => false) then
        .next (stopJob id Code.E_RELAY_TAG (post (wrlPage w) Code.E_RELAY_TAG (descFetch p.val (bits c.cue 32 32) (startCue p.val 4 c s))))
      else if s.refusing (wrlPage w) then .next (stopJob id Code.E_PEER_ABSENT (startCue p.val 4 c s))
      else
        .next (armStream p.val c slot d (fun a => match tget? a.streams (slotKey p.val slot) with
          | some x => enterRelay p.val slot x (noteTag id w (sdRelayTag d) a)
          | none => a) s)

/-- SHD_REARM (R191, R193, R232): a RELAY stream enters its ring again once there is room. -/
def execShdRearm (p : Fin 68) (s : State) : Host.Outcome State Fault Refusal :=
  .next (shdRearm (s.relayRoom (wingOf p.val)) (fun slot x a => if sdKind x.desc = 3 then enterRelay p.val slot x a else a) p.val s)

/-- Whether a participant is ready for a slice of a tag (R233). -/
def State.keepReady (s : State) (q tag slice : Nat) : Bool :=
  match (s.ply q).keep with
  | some k => k.tag == tag && (k.first == 0xFFFF || decide (slice < k.first + k.count))
  | none => false

/-- The participants of a stream that are not ready for its next slice. -/
def State.unready (s : State) (r : Relay) : List Nat := r.parts.filter (fun q => !s.keepReady q r.tag r.next)

/-- A stream has sent: its next slice counts on, and every other stream comes before it (R232). -/
def Ring4.rotate (g : Ring4) (r : Relay) : List Relay :=
  g.streams.filter (fun x => !(x.job == r.job && x.tag == r.tag)) ++ [{ r with next := r.next + 1 }]

/-- RELAY_SLICE_SEND (R231 to R233, R578): the first stream in turn whose participants are all ready sends its next slice. -/
def execRelaySliceSend (w : Fin 4) (far : List Byte) (s : State) : Host.Outcome State Fault Refusal :=
  let g := s.ring w.val
  match g.streams.find? (fun r => r.sends && (s.unready r).isEmpty && (match tget? s.jobs r.job with | some j => j.stop.isNone && j.st == .running | none => false)) with
  | none => .next s
  | some r =>
    let i := match tget? s.jobs r.job with | some j => j.chan | none => 0
    let va := r.base + 4096 * r.next
    match s.firstMiss i va 4096 false with
    | some (a, k) =>
      let f := walkFail i a false k s
      .next (stopJob r.job f.1 (postCode f.1 (handleOf i (f.2.chan i)) (f.2.unitSeq i (some r.job)) 0 0 f.2))
    | none =>
      let pg := wrlPage w.val
      let s := if g.last = some (r.job, r.tag) ∨ g.last = none then s else bump pg Cnt.WRL_RR_SWITCHES 1 s
      let s := bump pg Cnt.WRL_BYTES_READ 4096 (bump pg Cnt.WRL_SLICES_SENT 1 s)
      let s := (s.wf pg Reg.WRL_TAG_TAG r.tag).wf pg Reg.WRL_SLICE_NEXT (r.next + 1)
      .next (moved (some r.job) (setWing w.val { streams := g.rotate r, last := some (r.job, r.tag), flying := g.flying ++ [{ tag := r.tag, job := r.job, slice := r.next, bytes := readVa s i va 4096 far }] } s))

/-- The KEEP at a player's queue head ends (R234, R235). -/
def keepDone (w q : Nat) (s : State) : State :=
  completeHead q 6 (bump (wrlPage w) Cnt.WRL_KEEPS_DONE 1 (setPly q { s.ply q with keep := none } s))

/-- A slice reaches a player (R234, R235). -/
def meetSlice (w q : Nat) (f : Fly) (s : State) : State :=
  let live : Bool := match tget? s.jobs f.job with | some j => j.stop.isNone && j.st == .running && (s.ply q).job == some f.job | none => false
  match (if live then (s.ply q).keep else none) with
  | some k =>
    if k.tag ≠ f.tag then bump (wrlPage w) Cnt.WRL_FORWARDS 1 s
    else if k.first = 0xFFFF then
      let s := bump (wrlPage w) Cnt.WRL_FORWARDS 1 s
      if (match s.relay w f.job f.tag with | some r => f.slice + 1 == r.slices | none => false) then keepDone w q s else s
    else if k.first ≤ f.slice ∧ f.slice < k.first + k.count then
      let s := s.store (lsAddr q (64 * k.dst + 4096 * (f.slice - k.first))) f.bytes
      let s := touch q (bump (wrlPage w) Cnt.WRL_SLICES_KEPT 1 s)
      if k.got + 1 = k.count then keepDone w q s else setPly q { s.ply q with keep := some { k with got := k.got + 1 } } s
    else bump (wrlPage w) Cnt.WRL_FORWARDS 1 s
  | none => bump (wrlPage w) Cnt.WRL_FORWARDS 1 s

/-- RELAY_SLICE_ARRIVE (R234, R235): slice `k` of those on the ring crosses a hop; slices keep their order. One that has
passed player 16 leaves the ring unless it is its stream's last. -/
def execRelaySliceArrive (w : Fin 4) (k : Nat) (s : State) : Host.Outcome State Fault Refusal :=
  let g := s.ring w.val
  match g.flying[k]? with
  | none => .next s
  | some f =>
    let ahead := if k = 0 then true else match g.flying[k - 1]? with | some x => decide (f.hop < x.hop) | none => true
    if 17 ≤ f.hop ∨ !ahead then .next s
    else
      let s := meetSlice w.val (17 * w.val + f.hop) f s
      let g := s.ring w.val
      let last := match s.relay w.val f.job f.tag with | some r => f.slice + 1 == r.next && (r.stopped || r.next == r.slices) | none => false
      if f.hop = 16 && !last then .next (setWing w.val { g with flying := g.flying.eraseIdx k } s)
      else .next (setWing w.val { g with flying := g.flying.set k { f with hop := f.hop + 1 } } s)

/-- RELAY_STREAM_END (R189, R237): the last slice of a stream is back at the head; a stopped stream ends too. -/
def execRelayStreamEnd (w : Fin 4) (s : State) : Host.Outcome State Fault Refusal :=
  let g := s.ring w.val
  let home (r : Relay) : Bool := g.flying.all (fun f => f.job != r.job || f.tag != r.tag || f.hop == 17)
  match g.streams.find? (fun r => (r.stopped || decide (r.slices ≤ r.next)) && home r) with
  | none => .next s
  | some r =>
    let s := setWing w.val { g with streams := g.streams.filter (fun x => x ≠ r), flying := g.flying.filter (fun f => f.job ≠ r.job ∨ f.tag ≠ r.tag) } s
    if r.stopped then .next (showRing w.val (bump (wrlPage w.val) Cnt.WRL_STOPPED 1 s))
    else match tget? s.streams (slotKey r.player r.slot) with
      | some x => .next (showRing w.val (passEnd r.player r.slot x s))
      | none => .next (showRing w.val s)

/-- RELAY_PARITY_ERROR (R238) on slice `k` of the ring. -/
def execRelayParityError (w : Fin 4) (k : Nat) (s : State) : Host.Outcome State Fault Refusal :=
  match (s.ring w.val).flying[k]? with
  | none => .next s
  | some f => .next (stopJob f.job Code.F_RELAY_PARITY (post (wrlPage w.val) Code.F_RELAY_PARITY (bump (wrlPage w.val) Cnt.WRL_UPSETS 1 s)))

/-- RLY_KEEP (R233 to R236): the KEEP at the head of a player's RLY queue takes its WAIT and is ready. -/
def execRlyKeep (p : Fin 68) (s : State) : Host.Outcome State Fault Refusal :=
  match headCue s p.val 6 1 with
  | none => .next s
  | some c =>
    let k : Keep := { tag := bits c.cue 64 32, first := bits c.cue 24 16, count := bits c.cue 40 8 + 1, dst := bits c.cue 48 16 }
    let s := startCue p.val 6 c s
    .next (keepMeets p.val (setPly p.val { s.ply p.val with keep := some k } s))

end Sys2Proof.Machine
end

