-- ==== Sys2Proof/Machine/Binds.lean ====
section
/-! DEFINITION. Loading a package, binding a channel and its I/O (spec/04, R148 to R150, R669; spec/09, R320, R321; spec/10, R369,
R390, R394, R400; spec/12, R455; spec/14, R528, R529). -/

namespace Sys2Proof.Machine

/-! Chains (R461, R462) -/

/-- The bytes of a chain block: its length from its header. -/
def chainLen (b : List Byte) : Nat := 4 + 2 * leAt b 0 1 + 8 * leAt b 1 1

/-- Stages and edges of a chain block. -/
def chainStages (b : List Byte) : List Nat := (List.range (leAt b 0 1)).map (fun k => leAt b (4 + 2 * k) 2)
def chainEdges (b : List Byte) : List Edge :=
  let z := chainStages b
  (List.range (leAt b 1 1)).map (fun k =>
    let o := 4 + 2 * z.length + 8 * k
    let n := leAt b (o + 3) 1 + 1
    { num := leAt b o 1, prod := z.getD (leAt b (o + 1) 1) 0, cons := z.getD (leAt b (o + 2) 1) 0, credits := n, tileBytes := bits (leAt b (o + 4) 4) 0 18 + 1, free := n })

/-- Whether a chain block keeps the layout of R461. -/
def chainFormOk (b : List Byte) : Bool :=
  let z := leAt b 0 1
  let n := leAt b 1 1
  let e (k o w : Nat) : Nat := leAt b (4 + 2 * z + 8 * k + o) w
  decide (1 ≤ z ∧ z ≤ 16) && decide (1 ≤ n ∧ n ≤ 64) && leAt b 2 2 == 0 && b.length == chainLen b &&
    (chainStages b).all (fun x => decide (x < 0x100) || [0x109, 0x10A, 0x10B, 0x10C, 0x10D, 0x115, 0x105].contains x || decide (0xFFFE ≤ x)) &&
    (List.range n).all (fun k => decide (e k 0 1 < 64) && decide (e k 1 1 < z) && decide (e k 2 1 < z) && decide (bits (e k 4 4) 18 14 = 0)) &&
    decide (((chainEdges b).map Edge.num).Nodup)

/-- The stages with the two names of R461 replaced by ensembles: `own` is the ensemble of the command's channel, `far` that of
the channel an edge's producer names. -/
def chainResolve (own far : Nat) (e : List Edge) : List Edge :=
  let f (x : Nat) : Nat := if x = 0xFFFE then own else if x = 0xFFFF then far else x
  e.map (fun x => { x with prod := f x.prod, cons := f x.cons })

/-- Stages reachable from those of a list in a number of steps. -/
def chainReach (e : List Edge) : Nat → List Nat → List Nat
  | 0, l => l
  | n + 1, l => chainReach e n (l ++ (e.filter (fun x => l.contains x.prod)).map Edge.cons).eraseDups

/-- The code of R211 for a chain, 0 if none. -/
def chainCheck (e : List Edge) (s : State) : Nat :=
  let z := ((e.map Edge.prod) ++ (e.map Edge.cons)).eraseDups
  let share (a b : Nat) : Bool := decide (a < 0x100) && decide (b < 0x100) && (s.ensPlayers a).any (fun n => (s.ensPlayers b).contains n)
  if e.any (fun x => (chainReach e z.length [x.cons]).contains x.prod) then Code.E_CHAIN_CYCLE
  else if z.any (fun a => z.any (fun b => a != b && share a b)) then Code.E_CHAIN_OVERLAP
  else if s.hoPool < (e.map Edge.units).foldl (· + ·) 0 then Code.E_HANDOVER_SIZE
  else 0

/-- The edges of a package's chain block for a channel (R462). -/
def pkgEdges (i : Nat) (k : Package) (s : State) : List Edge :=
  let e := (s.chan i).ens
  if k.chain.isEmpty then [] else chainResolve e e (chainEdges k.chain)

/-- The edges of the LIVE_BIND that holds a channel (R462). -/
def bindingEdges (i : Nat) (s : State) : List Edge :=
  match (s.chan i).live with
  | none => []
  | some e => s.chains.flatMap (fun c => if c.owner = .live e then c.edges else [])

/-! PKG_LOAD -/

/-- The checks of R148 on a cue sheet image. -/
def sheetOk (l : List Byte) : Bool :=
  let n := leAt l 0x0C 4
  let e := leAt l 8 4
  let k := leAt l 7 1
  leAt l 0 4 == 0x3153434B && leAt l 4 2 == 1 && leAt l 6 1 % 2 == 1 && decide (k ≤ 1) && e % 2 == 0 && decide (0x40 ≤ e ∧ e + 2 ≤ n) &&
    decide (64 ≤ n ∧ n ≤ 16777216) && l.length == n && decide (1 ≤ leAt l 0x10 1 ∧ leAt l 0x10 1 ≤ 64) && decide (leAt l 0x11 1 ≤ 16) &&
    decide (leAt l 0x12 2 ≤ 4096) && (k == 1 || leAt l 0x12 2 == 0) && decide (leAt l 0x18 2 ≤ 16384) && leAt l 0x1A 6 == 0 && leAt l 0x30 16 == 0 &&
    (l.drop 0x20).take 16 == Config.shake256 (l.drop 0x40) 16

/-- R672 on a requantisation record of an output format. -/
def requantOk (r : Nat × List Byte) : Bool :=
  let lo := signed 32 (leAt r.2 8 4)
  let hi := signed 32 (leAt r.2 12 4)
  let top : Int := 2 ^ (fmtBits r.1 - 1)
  decide (lo ≤ hi ∧ -top ≤ lo ∧ hi < top) && decide (leAt r.2 16 16 < 64)

/-- The coding table that fails, as TABLE, KIND and ENTRY of PTB_FAULT (R291, R397): of the block at the lower offset first (R669). -/
def tableFault (k : Package) : Option (Nat × Nat × Nat) :=
  let video := k.tables.bind (fun t => blockCheck t 384)
  let audio := (k.audTables.bind (fun t => blockCheck t 128)).map (fun x => (if x.1 < 64 then x.1 else 192 + x.1, x.2))
  if k.audFirst then audio.orElse (fun _ => video) else video.orElse (fun _ => audio)

/-- A list of offsets with one more, ascending. -/
def insertNat (n : Nat) : List Nat → List Nat
  | [] => [n]
  | a :: t => if n ≤ a then n :: a :: t else a :: insertNat n t

/-- The code of the first window geometry record that fails, by ascending offset (R165, R669), 0 for none. -/
def geomFault (k : Package) : Nat :=
  (((k.geoms.foldr insertNat []).map (fun o => geomCheck ((k.descs.drop o).take 32))).find? (· != 0)).getD 0

/-- R84 and R85 on a layer: its input channels are a multiple of the activations' group size, and two grouped grains are the same. A load
checks them with the descriptors (DEDUCED, log entry 177). -/
def layerOk (l : Nat × Nat × Nat) : Bool :=
  let gw := grainG l.2.1
  let ga := grainG l.2.2
  (ga == 0 || l.1 % ga == 0) && (gw == 0 || ga == 0 || gw == ga)

/-- The code of the first weight object that fails, with its position (R414, R418). -/
def weightFault (k : Package) : Option FscFail :=
  k.weights.findSome? (fun w => match fscOpen (w.take 16) (w.drop 16) with | .error e => some e | .ok _ => none)

/-- R91 on the records of the mean layer: clamp bounds within -32,640 to 32,640. -/
def meanOk (k : Package) : Bool :=
  let ok (lo hi : Int) : Bool := decide (-32640 ≤ lo ∧ lo ≤ 32640 ∧ -32640 ≤ hi ∧ hi ≤ 32640)
  k.meanClamps.all (fun c => ok c.1 c.2) && (k.tables.isNone || ((k.requants.drop k.meanRq).take 1536).all (fun r => let q := requantOf r.2; ok q.lo q.hi))

/-- The code with which a package fails its load, 0 if it does not (R669). -/
def pkgCheck (k : Package) : Nat :=
  if !k.structOk || (!k.chain.isEmpty && !chainFormOk k.chain) then Code.E_SHEET_BAD
  else if !k.sheets.all (fun x => sheetOk x.2) then Code.E_SHEET_BAD
  else if (tableFault k).isSome then Code.E_PTB_TABLE
  else if !(k.requants.all requantOk && k.buckets.all ascending && meanOk k) then Code.E_CUE_ILLEGAL
  else if !(descsOk k && k.grains.all layerOk) then Code.E_CUE_ILLEGAL
  else if geomFault k ≠ 0 then geomFault k
  else if k.modes.any (fun m => m.1 && decide (2 ≤ m.2)) then Code.E_FSC_MODE
  else if (match k.audSyms with | some (h, l) => !decide (1 ≤ h ∧ h ≤ 64 ∧ 1 ≤ l ∧ l ≤ 960 ∧ h + l ≤ 1024) | none => false) then Code.E_AUD_PARAMS
  else match weightFault k with | some e => e.1 | none => 0

/-- What a failed load records beside its code (R316, R425). -/
def pkgFault (k : Package) (code handle : Nat) (s : State) : State :=
  if code = Code.E_PTB_TABLE then
    match tableFault k with
    | some (t, kind, en) => bump 0x33 Cnt.PTB_TABLE_FAULTS 1 (holdRecord 0x33 Reg.PTB_FAULT_VALID
        [(Reg.PTB_FAULT_KIND, kind), (Reg.PTB_FAULT_TABLE, t), (Reg.PTB_FAULT_ENTRY, en)] s)
    | none => s
  else if code = Code.E_FSC_MODE then fscFail code 0 handle false s
  else if codeBlock code = 0x0D then fscFail code (match weightFault k with | some e => e.2 | none => 0) handle false s
  else s

/-- PKG_LOAD (R148, R211, R462, R496, R669): the pages, then the package's checks and those of its chain; a load that passes waits for the jobs before it. -/
def pkgLoad (k : Package) (c : Ctx) (i : Nat) (e : Entry) (s : State) : State :=
  let va := eGet e 0x10 0 64
  let n := eGet e 0x18 0 64
  match (if n = 0 then none else s.firstBad i va n false) with
  | some (a, w) => let r := walkFail i a false w s; finish c r.1 a 0 r.2
  | none =>
    let code := pkgCheck k
    let code := if code = 0 then chainCheck (pkgEdges i k s ++ bindingEdges i s) s else code
    if n = 0 ∨ code ≠ 0 then fail c (if n = 0 then Code.E_CMD_INVALID else code) (pkgFault k code c.handle s)
    else { s with opens := s.opens ++ [.pkgLoad c { k with va }] }

/-- PKG_LOAD. -/
def execPkgLoad (q : Fin 256) (e : Entry) (pkg : Package) (s : State) : Host.Outcome State Fault Refusal :=
  .next (admitCmd spPkgLoad q.val (eWithOp e 0x12) (pkgLoad pkg) s)

/-- A package comes into force (R97, R149, R150, R209, R414): its weight objects are decompressed, histories refill, caches of
descriptors empty, and an encode starts a new sequence. -/
def installPkg (i : Nat) (k : Package) (s : State) : State :=
  let s := k.weights.foldl (fun a w => countDecomp (leAt w 4 4) (leAt w 8 4) a) s
  let s := modChan i (fun x => { x with pkg := some k, codec := { x.codec with hist := freshHist k, enc := { x.codec.enc with need := true } } }) s
  { s with shds := s.shds.map (fun d => (d.1, { d.2 with cache := [] })) }

/-- PKG_LOAD_COMPLETE (R149): the oldest load of the channel, once every job admitted before its completion has ended, so that no job
runs the old sheets with the new histories (R97; DEDUCED, log entry 178). -/
def execPkgLoadComplete (handle : Word) (s : State) : Host.Outcome State Fault Refusal :=
  match s.chanOf handle.toNat with
  | none => .next s
  | some i =>
    let mine (o : OpenCmd) : Bool := match o with | .pkgLoad c _ => c.chan == some i | _ => false
    match s.opens.find? mine with
    | some (.pkgLoad c k) =>
      if s.jobs.any (fun j => j.2.chan == i) then .next s
      else
        let id := modelId k
        .next (finish c 0 (id % 2 ^ 64) (id / 2 ^ 64) (installPkg i k { s with opens := s.opens.erase (.pkgLoad c k) }))
    | _ => .next s

/-! Flows (R528, R529) -/

/-- A media flow; receive flows 0 to 255, transmit flows from 256. -/
def State.flow (s : State) (n : Nat) : Flow := tget s.flows {} n
/-- Write a flow back. -/
def setFlow (n : Nat) (f : Flow) (s : State) : State := { s with flows := tput s.flows n f }

/-- A multicast address. -/
def multicast (ip : Nat) : Bool := ip / 2 ^ 28 == 14

/-- Bind a flow to a channel, or release it (R529): a receive flow of a multicast address joins and leaves its group. -/
def bindFlow (n : Nat) (chan : Option Nat) (s : State) : State :=
  let f := s.flow n
  let s := setFlow n { f with bound := chan, seq := none, ts := none, closedTs := none, filled := [], skip := f.kind == 3, expect := 0, offset := none, units := [], sent := none } s
  let s := s.wf (0x4000 + n) Reg.MED_FLOW_CFG_BOUND (bit chan.isSome)
  if n < 256 ∧ multicast f.dest ∧ f.bound.isSome ≠ chan.isSome then
    bump 0x35 Cnt.MED_IGMP_TX 1 (emit (if chan.isSome then .igmpJoin f.port f.dest else .igmpLeave f.port f.dest) s)
  else s

/-- The KIND of flow that fits a channel's input or output; none where it has none. -/
def flowKind (ty : Nat) (out : Bool) : Option Nat :=
  match ty, out with
  | 0, false | 2, false | 1, true | 2, true => some 1
  | 3, false | 4, true => some 2
  | 1, false | 4, false | 0, true | 3, true => some 3
  | _, _ => none

/-- Whether a channel may take a flow (R528). -/
def State.flowOk (s : State) (i n : Nat) (out : Bool) : Bool :=
  let f := s.flow (if out then n + 256 else n)
  decide (n < 256) && f.kind != 0 && (f.bound == none || f.bound == some i) && flowKind (s.chan i).ty out == some f.kind

/-- The flows a CH_IO binds. -/
def Io.flows (x : Io) : List Nat := (if x.inKind = 1 then [x.inFlow] else []) ++ (if x.outKind = 1 then [x.outFlow + 256] else [])

/-- CH_IO (R453, R455, R528): the earlier flows are released, the new ones bound. -/
def chIo (c : Ctx) (i : Nat) (e : Entry) (s : State) : State :=
  let x := s.chan i
  let k := eGet e 0x10 0 8
  let io : Io := { inKind := k % 4, outKind := k / 4, inSlots := eGet e 0x11 0 8, inFlow := eGet e 0x12 0 16, outFlow := eGet e 0x14 0 16, inPitch := eGet e 0x18 0 32, outPitch := eGet e 0x1C 0 32, inBase := eGet e 0x20 0 64, inBytes := eGet e 0x28 0 64, outBase := eGet e 0x30 0 64, outBytes := eGet e 0x38 0 64 }
  let slotsOk : Bool := match x.ty with | 0 | 2 => io.inSlots != 0 | 1 | 4 => io.inSlots == 0 | _ => true
  if !slotsOk then fail c Code.E_CMD_INVALID s
  else if (io.inKind = 1 && !s.flowOk i io.inFlow false) || (io.outKind = 1 && !s.flowOk i io.outFlow true) then fail c Code.E_FLOW s
  else
    let old := match x.io with | some y => y.flows | none => []
    let s := (old.filter (fun n => !io.flows.contains n)).foldl (fun a n => bindFlow n none a) s
    let s := (io.flows.filter (fun n => !old.contains n)).foldl (fun a n => bindFlow n (some i) a) s
    done c (modChan i (fun y => { y with io := some io }) s)

/-- CH_IO. -/
def execChIo (q : Fin 256) (e : Entry) (s : State) : Host.Outcome State Fault Refusal := .next (admitCmd spChIo q.val (eWithOp e 0x14) chIo s)

/-! CH_BIND -/

/-- Bytes of the adapter set of the eligible layers at a rank (R276, R277). -/
def adpBytes (k : Package) (rank : Nat) : Nat :=
  26 + ((k.layers.map (fun l => 12 + rank * (l.k + l.cout + 12) + 4 * l.cout)).foldl (· + ·) 0)

/-- A finite FP32 value within 0 to an integer. -/
def f32Within (code top : Nat) : Bool :=
  match Fp.of f32 code with | .fin neg m e => (!neg || m == 0) && !(Fp.ofInt top).lt (.fin false m e) | _ => false

/-- Bytes of a record that are reserved. -/
def zeros (r : List Byte) (off n : Nat) : Bool := leAt r off n == 0

/-- What a bind record asks of the packages (R320, R369, R390, R400): RANK_MAX and the size of an adapter set, the partner's identity, the
stages. Where a package is not yet loaded at CH_BIND, the check is made at CH_PREPARE, CH_START or LIVE_BIND (log entry 150). -/
def Chan.pkgFits (x : Chan) (r : List Byte) (s : State) : Bool :=
  match x.pkg with
  | none => true
  | some k =>
    let same (mux : Nat) : Bool := match (s.chanOf mux).bind (fun i => (s.chan i).pkg) with | some b => modelId k == modelId b | none => true
    match x.ty with
    | 0 => enRank r == 0 || (decide (enRank r ≤ k.rankMax) && decide (adpBytes k (enRank r) ≤ 65536))
    | 1 => deMux r == 0 || same (deMux r)
    | 2 => (nhSr r == 1 || k.stages.contains 0) && (!nhSharp r || k.stages.contains 1) && (nhInterp r == 1 || k.stages.contains 2)
    | _ => auMux r == 0 || same (auMux r)

/-- R320. -/
def encParamsOk (x : Chan) (r h : List Byte) (s : State) : Bool :=
  let rank := enRank r
  zeros r 0x1D 35 && rec8 r 1 5 3 == 0 && rec8 r 2 6 2 == 0 && rec8 r 3 5 3 == 0 && rec8 r 0x1A 5 3 == 0 && rec8 r 0x1B 6 2 == 0 && enRc r != 3 &&
    decide (enQlMin r ≤ enQlInit r ∧ enQlInit r ≤ enQlMax r) && decide (enReh r ≤ 4) &&
    (enReh r == 0 || (match Fp.of f32 (enLambda r) with | .fin neg m _ => !neg && m != 0 | _ => false)) &&
    (rank == 0 || (decide (4 ≤ rank ∧ rank ≤ 16) && decide (1 ≤ enSteps r ∧ enSteps r ≤ 32) && s.ensExists (enAdEns r) &&
      !(s.ensPlayers (enAdEns r)).any (fun n => (s.ensPlayers x.ens).contains n))) && x.pkgFits r s &&
    bindSeqOk h && (seqDur h != 0 || enRc r == 2) && enSliceRows r != 0

/-- R321. -/
def rcParamsOk (r h : List Byte) : Bool :=
  enRc r == 2 || (enRate r != 0 && decide (enInit r ≤ enBuf r ∧ enTarget r ≤ enBuf r ∧ picMin r h ≤ enInit r) && decide (picMin r h ≤ houseD r h 0))

/-- R369. -/
def decParamsOk (x : Chan) (r : List Byte) (s : State) : Bool :=
  rec8 r 0 5 3 == 0 && zeros r 2 2 && zeros r 0x24 28 && deConceal r != 3 && deMode r != 3 && decide (2 ≤ deSlots r ∧ deSlots r ≤ 64) &&
    (deMode r != 0 || (dePitch r != 0 && dePitch r % 128 == 0 && deBase r % 4096 == 0 && deBytes r != 0)) && deInfo r % 64 == 0 &&
    (deMux r == 0 || (match s.chanOf (deMux r) with | some i => (s.chan i).ty == 4 | none => false)) && x.pkgFits r s

/-- The condition of R394 on the sequence header of the ENC_VIDEO channel behind an ENH channel. -/
def fuses (r h : List Byte) : Bool :=
  seqW h == nhW r * nhSr r && seqH h == nhH r * nhSr r && seqScale h == nhScale r * nhInterp r && seqDur h == nhPeriod r

/-- R390, R394. -/
def enhParamsOk (x : Chan) (r : List Byte) (s : State) : Bool :=
  rec8 r 0 7 1 == 0 && rec8 r 1 2 6 == 0 && zeros r 2 2 && zeros r 0x1C 36 && nhMode r != 3 && decide (1 ≤ nhSr r ∧ nhSr r ≤ 4) &&
    decide (1 ≤ nhInterp r ∧ nhInterp r ≤ 4) && !(nhSr r == 1 && !nhSharp r && nhInterp r == 1) && f32Within (nhGain r) 4 && f32Within (nhCut r) 1 &&
    x.pkgFits r s && decide (nhW r * nhSr r ≤ 8192 ∧ nhH r * nhSr r ≤ 4352) && decide (nhScale r * nhInterp r ≤ 240 * nhPeriod r) &&
    (nhNext r == 0 || (match s.chanOf (nhNext r) with | some i => (s.chan i).ty == 0 && fuses r (s.chan i).seqHdr | none => false))

/-- R400. -/
def audParamsOk (x : Chan) (r h : List Byte) (s : State) : Bool :=
  let enc := x.ty == 3
  zeros r 1 3 && zeros r 0x12 14 && decide (auIo r ≤ 1) && decide (1 ≤ auNch r ∧ auNch r ≤ 16) && (auIo r != 0 || decide (2 ≤ auFrames r ∧ auFrames r ≤ 4096)) &&
    (auMux r == 0 || (match s.chanOf (auMux r) with
      | some i =>
        let y := s.chan i
        y.ty == (if enc then 0 else 1) && (!enc || y.seqHdr.isEmpty || seqAud y.seqHdr == auNch r)
      | none => false)) && x.pkgFits r s &&
    (!enc || bindSeqOk h)

/-- The code of a channel's parameter checks. -/
def Chan.paramsCode (x : Chan) : Nat :=
  match x.ty with
  | 0 => Code.E_ENC_PARAMS
  | 1 => Code.E_DEC_PARAMS
  | 2 => Code.E_ENH_PARAMS
  | _ => Code.E_AUD_PARAMS

/-- The code with which CH_BIND fails, 0 if it does not. -/
def bindCheck (x : Chan) (r h : List Byte) (s : State) : Nat :=
  match x.ty with
  | 0 =>
    if !encParamsOk x r h s then Code.E_ENC_PARAMS else if !rcParamsOk r h then Code.E_RC_PARAMS
    else if s.rf 0x32 Reg.RCA_CTRL_GATHER * 16384 < sliceSyms r h then Code.E_RCA_SLICE_SIZE else 0
  | 1 => if decParamsOk x r s then 0 else Code.E_DEC_PARAMS
  | 2 => if enhParamsOk x r s then 0 else Code.E_ENH_PARAMS
  | _ => if audParamsOk x r h s then 0 else Code.E_AUD_PARAMS

/-- CH_BIND (R25, R309, R320, R321, R333, R369, R390, R400): a record that fails leaves the earlier one; the governor of an encode
channel starts again. The ensemble is held against the package after the record's own checks (DEDUCED, log entry 150). -/
def chBind (c : Ctx) (i : Nat) (e : Entry) (s : State) : State :=
  let x := s.chan i
  let r := eBytes e 0x10 64
  let h := eBytes e 0x50 36
  let audio := x.ty == 3 || x.ty == 4
  if (x.ty != 0 && x.ty != 3 && !h.all (· == 0)) || (audio && (!zeros r 32 32 || (auIo r == 0 && auBase r % 64 != 0))) then fail c Code.E_CMD_INVALID s
  else
    let code := bindCheck x r h s
    let code := if code = 0 ∧ x.pkg.isSome ∧ !s.ensFits x.ens x.pkg then Code.E_ENS_MEMBER else code
    if code ≠ 0 then fail c code (if code = Code.E_RCA_SLICE_SIZE then bump 0x32 Cnt.RCA_GATHER_REJECTS 1 s else s)
    else
      let enc := if x.ty = 0 then { x.codec.enc with n := 0, a := enInit r, ql := enQlInit r, need := true } else x.codec.enc
      done c (setChan i { x with bind := some r, seqHdr := if x.ty = 0 ∨ x.ty = 3 then h else [], codec := { x.codec with enc := enc } } s)

/-- CH_BIND. -/
def execChBind (q : Fin 256) (e : Entry) (s : State) : Host.Outcome State Fault Refusal := .next (admitCmd spChBind q.val (eWithOp e 0x13) chBind s)

end Sys2Proof.Machine
end

