-- ==== Sys2Proof/Machine/Governor.lean ====
section
/-! DEFINITION. The rate governor on the encoder's own quantities (spec/09, R334 to R345, R357, R358): the start and the end of a
picture, the commit of a row. `r` is the bind record, `h` the sequence header. -/

namespace Sys2Proof.Machine

/-- Bits of a list of segments. -/
def segBits (l : List (List Byte)) : Nat := 8 * (l.map List.length).foldl (· + ·) 0

/-- Whether a channel keeps a house model (R345). -/
def governed (r : List Byte) : Bool := enRc r != 2

/-- The SEQ, ADP and PIC segments of a picture that carries a set (R330, R348, R361, R596); `put` says that the set is written. -/
def headOf (r h : List Byte) (id : Nat) (p : EncPic) (set : Option AdpSet) (put : Bool) : List (List Byte) :=
  let ad := match set with | some x => x.id | none => 0
  (if p.intra || p.lead then [segment 0xA1 (fillModel h id)] else []) ++ (match set with | some x => if put then [segment 0xA5 (mkAdp x)] else [] | none => []) ++
    [segment 0xA2 (mkPic p.count p.pts (!p.intra) p.refs p.store (governed r) p.ql0 (enSliceRows r) (enSlices r h) ad)]

/-- Whether the budget of R357 lets a picture carry a set in an ADP segment. -/
def adpFits (r h : List Byte) (id a : Nat) (p : EncPic) (x : AdpSet) : Bool :=
  !governed r || decide (segBits (headOf r h id p (some x) true) + enSlices r h * sliceFixed + 48 * seqBR h ≤ a)

/-- The start of a picture (R338, R343, R357, R358): the set it carries, its header segments, C and T. -/
def govStart (r h : List Byte) (id : Nat) (e : Enc) (p : EncPic) : Enc × EncPic :=
  let p := { p with started := true, ql0 := if governed r then e.ql else enQlInit r, a := e.a }
  let again : Bool := match e.active with | some x => p.lead || enRepeat r && adpFits r h id e.a p x | none => false
  let z : Enc × EncPic × Option AdpSet × Bool :=
    if !p.intra then (e, p, e.active, p.lead && e.active.isSome)
    else match e.fresh with
      | some x => if adpFits r h id e.a p x then ({ e with active := some x, fresh := none }, p, some x, true) else (e, { p with deferred := true }, e.active, again)
      | none => (e, p, e.active, again)
  let hd := headOf r h id z.2.1 z.2.2.1 z.2.2.2
  let t : Int := max (picMin r h : Int) ((houseD r h p.n : Int) + ((e.a : Int) - enTarget r) / 4)
  (z.1, { z.2.1 with adp := z.2.2.1, head := hd, c := segBits hd, t := t.toNat })

/-- PAD of R342 for a picture whose bits are `b`: the bytes of the segment, 0 for none. -/
def padBytes (r h : List Byte) (p : EncPic) (b : Nat) : Nat :=
  let past := p.a - b + houseD r h p.n - enBuf r
  if enRc r = 0 ∧ 0 < past then max 2 ((past + 7) / 8) else 0

/-- The PAD segment of so many bytes. -/
def padSeg (n : Nat) : List Byte := [0xFF, 0xAF] ++ List.replicate (n - 2) 0

/-- The end of a picture (R334, R342): its PAD and the fullness before the next one. A picture of which nothing is emitted has no
bits, and a set it would have carried stays to be sent. -/
def govEnd (r h : List Byte) (e : Enc) (p : EncPic) : Enc × EncPic :=
  let none_ := p.slices.all (fun x => x.st == 6 || x.st == 7)
  if !governed r then (if none_ && p.intra then { e with fresh := e.fresh.orElse (fun _ => p.adp) } else e, { p with ended := true })
  else
    let b := if none_ then 0 else p.c
    let k := if none_ then 0 else padBytes r h p b
    let a := p.a - b - 8 * k + houseD r h p.n
    let e := if none_ && p.intra then { e with fresh := e.fresh.orElse (fun _ => p.adp) } else e
    ({ e with a := if enRc r = 1 then min (enBuf r) a else a }, { p with ended := true, pad := if k = 0 then [] else padSeg k })

/-- What a commit decides. -/
structure Commit where
  pic : EncPic
  slice : EncSlice
  ql : Nat
  up : Bool
  down : Bool
deriving DecidableEq, Repr

/-- The commit of the next row of slice `s` with estimate `est` (R338, R343). -/
def commitRow (r h : List Byte) (ql s est : Nat) (p : EncPic) (x : EncSlice) : Commit :=
  if !governed r then ⟨p, { x with begun := true, done := x.done ++ [{ k := est, ql := enQlInit r, curtain := false }] }, ql, false, false⟩
  else
    let c := if x.begun then p.c else p.c + sliceFixed
    let charged := if x.begun then x.charged else sliceFixed
    let row := x.first + x.done.length
    let k := max est 48
    let need := k + 48 * (seqBR h - row - 1) + sliceFixed * (enSlices r h - s - 1)
    let curt := p.curtain || decide (p.a < c + need)
    let cost := if curt then 48 else k
    let c := c + cost
    let goal := p.t * (row + 1) / seqBR h
    let down := decide (goal + goal / 16 < c)
    let up := !down && decide (c < goal - goal / 16)
    let q := if down then max (ql - 1) (enQlMin r) else if up then min (ql + 1) (enQlMax r) else ql
    ⟨{ p with c, curtain := curt }, { x with begun := true, charged := charged + cost, done := x.done ++ [{ k := cost, ql, curtain := curt }] }, q, decide (ql < q), decide (q < ql)⟩

end Sys2Proof.Machine
end

