-- ==== Sys2Proof/Machine/Posting.lean ====
section
/-! DEFINITION. The code a record carries and the statistics interval it closes (spec/12, R470 to R472; spec/03, R104 to
R107). -/

namespace Sys2Proof.Machine

/-- The orders of R472 within W and within I. -/
def codeOrder : List Nat :=
  [Code.W_DEADLINE_MISS, Code.W_INPUT_DROPPED, Code.W_LINES_MISSING, Code.W_REF_ABSENT, Code.W_PIC_ABSENT, Code.W_SLICE_ABSENT, Code.W_ADP_ABSENT,
   Code.W_AUD_GAP, Code.W_RC_CURTAIN, Code.W_NONFINITE, Code.W_CLIP_SHARE, Code.W_UNDERFLOW_SHARE, Code.I_INTRA_FORCED, Code.I_ADP_DEFERRED, Code.I_STEP_SKIPPED]

/-- The rank of a code under R472; `n` is its place among the codes, earliest first. -/
def codeRank (n c : Nat) : Nat :=
  let cls := match codeClass c with | 0xC => 0 | 8 => 1 | 4 => 2 | 3 => 3 | 2 => 4 | _ => 5
  (cls * 4096 + (if cls ≤ 3 then n else codeOrder.findIdx (· == c))) * 65536 + c

/-- The code that wins among several, 0 for none, and how many it suppresses (R472). -/
def pickCode (l : List Nat) : Nat × Nat :=
  let l := l.filter (· != 0)
  match l.zipIdx.foldl (fun (b : Option (Nat × Nat)) x =>
    let r := codeRank x.2 x.1
    match b with | some y => if r < y.2 then some (x.1, r) else b | none => some (x.1, r)) none with
  | some x => (x.1, l.length - 1)
  | none => (0, 0)

/-- A record with the code that wins among its unit's (R472). -/
def chooseCode (codes : List Nat) (b : Rec) (s : State) : Rec × State :=
  let r := pickCode codes
  ({ b with code := r.1, flags := if r.2 = 0 then b.flags else b.flags ||| 0x20 }, bump 0x21 Cnt.HIF_CODES_SUPPRESSED r.2 s)

/-- What the statistics area of a record's channel does at its posting (R671): the code of a page that fails, 0 for none. -/
def statsFail (i seq : Nat) (s : State) : Nat × State :=
  match s.statBad i seq with
  | some (_, .hold _ _ _) => (0, s)
  | some (a, w) => walkFail i a true w s
  | none => (0, s)

/-- What a channel's record takes at its posting: the codes its channel carries, the statistics of the interval it closes
(R104 to R107, R466, R472, R671). -/
def settleCode (d : Due) (s : State) : Due × State :=
  match d.chan with
  | none => (d, s)
  | some i =>
    if d.event then (d, s)
    else
      let c := (s.chan i).codec
      let st := match (s.chan i).pkg with | some k => statCode k c | none => 0
      let f := statsFail i d.body.seq s
      let r := chooseCode (d.body.code :: c.carry ++ [f.1, st]) d.body f.2
      let s := closeInterval i (writeStats i d.body.seq r.2)
      ({ d with body := r.1 }, modChan i (fun x => { x with codec := { x.codec with carry := [] } }) s)

end Sys2Proof.Machine
end

