-- ==== Sys2Proof/Machine/Units.lean ====
section
/-! DEFINITION. Units and their records, emission of stream bytes, the end of a job, of a stop and of a channel (spec/07, R286 to
R288; spec/09, R361; spec/12, R436, R466, R475). -/

namespace Sys2Proof.Machine

/-! Records of units -/

/-- A unit's record (R465, R466, R472): `codes` are its codes, earliest first. -/
def postUnit (i seq : Nat) (cmd : Option Ctx) (codes : List Nat) (b : Rec) (s : State) : State :=
  let c := s.chan i
  let tag := match cmd with | some x => x.tag | none => 0
  let r := chooseCode codes { b with handle := handleOf i c, seq := seq, tag := tag } s
  pushDue { ring := c.cq, body := r.1, chan := some i, queue := cmd.map Ctx.queue } r.2

/-- A unit's code with its page (R584, R636). -/
def unitCode (i seq code : Nat) (s : State) : State := postCode code (handleOf i (s.chan i)) seq 0 0 s

/-- Whether a channel admits jobs (R431, R436, R475). -/
def Chan.admits (c : Chan) : Bool := (c.st == 3 || c.st == 4) && c.stopping.isEmpty && c.dying.isNone

/-- The next number of a channel (R466). -/
def nextSeq (i : Nat) (s : State) : Nat × State :=
  let n := ((s.chan i).seq + 1) % 2 ^ 32
  (n, { s with chans := tput s.chans i { s.chan i with seq := n } })

/-! Admitting jobs -/

/-- Admit a job of a channel, ready now, with its chain (R149, R210, R462). -/
def addJob (j : Job) (s : State) : State :=
  let id := s.nextJob
  let k := (s.chan j.chan).pkg
  let e := match k with | some p => pkgEdges j.chan p s | none => []
  let s := { s with nextJob := id + 1, jobs := tput s.jobs id { j with pkg := k, readyAt := s.time } }
  if e.isEmpty then s else showPool { s with chains := s.chains ++ [{ owner := .job id, edges := e }] }

/-- The deadline of a unit whose reference time is `t` (R217). -/
def Chan.deadline (c : Chan) (t : Nat) : Option Nat := if setRt c.settings then some (t + 1000 * c.latency) else none

/-! Emission -/

/-- The transmit flow of a channel's output, as an index of `flows`. -/
def Chan.outFlow (c : Chan) : Option Nat := match c.io with | some x => if x.outKind = 1 then some (x.outFlow + 256) else none | none => none

/-- The payload header of a Thardax packet (R287). -/
def payHead (first last key : Bool) (seg tag off : Nat) : List Byte :=
  hMake [(2, 1), (1, bit first), (1, bit last), (1, bit key), (3, 0), (3, 0), (5, seg), (16, tag), (32, off)]

/-- Send a packet of a transmit flow with the next RTP sequence number (R534). -/
def sendRtp (n ts : Nat) (marker : Bool) (payload : List Byte) (s : State) : State :=
  let f := s.flow n
  let q := f.seq.getD (f.ssrc % 65536)
  let s := setFlow n { f with seq := some ((q + 1) % 65536) } s
  bump 0x35 Cnt.MED_TX_PKTS 1 (sendOn f.port f.pcp (.rtp n q ts f.ssrc marker payload) s)

/-- Send a segment on a transmit flow, in fragments of at most PAYLOAD bytes (R286 to R288); a run holds one segment. -/
def sendSegment (n : Nat) (seg : List Byte) (key marker : Bool) (tag ts : Nat) (s : State) : State :=
  let z := max 1 (s.flow n).payload
  let k := (seg.length + z - 1) / z
  (List.range k).foldl (fun a x =>
    let last := x + 1 == k
    sendRtp n ts (marker && last) (payHead (x == 0) last key ((seg.getD 1 0).toNat - 0xA0) tag (z * x) ++ (seg.drop (z * x)).take z) a) s

/-- Write bytes at a stream position of a byte ring at [base, base + size). -/
def ringOut (i base size pos : Nat) (l : List Byte) (s : State) : State :=
  let o := pos % max 1 size
  let n := min l.length (size - o)
  writeVa i base (l.drop n) .none (l.length / 65536 + 2) (writeVa i (base + o) (l.take n) .none (l.length / 65536 + 2) s)

/-- Emit stream bytes of a channel: to its ring or its flow (R459, R534). -/
def emitSeg (i : Nat) (seg : List Byte) (key marker : Bool) (tag ts : Nat) (s : State) : State :=
  let c := s.chan i
  let s := bump 0x30 Cnt.SEQ_BYTES_EMITTED seg.length s
  let s := match c.outFlow, c.io with
    | some n, _ => sendSegment n seg key marker tag ts s
    | none, some x => ringOut i x.outBase x.outBytes c.codec.made seg s
    | none, none => s
  modChan i (fun x => { x with codec := { x.codec with made := x.codec.made + seg.length } }) s

/-- Whether `n` more stream bytes have room (R459). -/
def Chan.room (c : Chan) (n : Nat) : Bool :=
  match c.outFlow, c.io with
  | some _, _ => true
  | none, some x => decide (c.codec.made + n ≤ c.codec.head + x.outBytes)
  | none, none => false

/-- The first page that `n` more stream bytes meet and that does not translate. -/
def State.outBad (s : State) (i n : Nat) : Option (Nat × Walk) :=
  let c := s.chan i
  match c.outFlow, c.io with
  | none, some x =>
    let o := c.codec.made % max 1 x.outBytes
    let k := min n (x.outBytes - o)
    (s.firstMiss i (x.outBase + o) k true).orElse (fun _ => if k < n then s.firstMiss i x.outBase (n - k) true else none)
  | _, _ => none

/-- The END segment (R282). -/
def endSeg : List Byte := [0xFF, 0xA6]

/-- Write END after the last byte emitted (R361): the sequence that a SEQ opened ends. -/
def writeEnd (i : Nat) (s : State) : State :=
  let c := s.chan i
  if c.ty = 0 ∧ c.codec.enc.seqOut then
    let s := emitSeg i endSeg false false c.codec.enc.picTag c.codec.enc.rtpTs (bump 0x30 Cnt.SEQ_END_WRITTEN 1 s)
    modChan i (fun x => { x with codec := { x.codec with ended := true, enc := { x.codec.enc with seqOut := false, need := true } } }) s
  else s

/-- Whether END still has to be written. -/
def Chan.endDue (c : Chan) : Bool := c.ty == 0 && c.codec.enc.seqOut

/-! Ends of jobs and channels -/

/-- The jobs of a channel. -/
def State.chanJobs (s : State) (i : Nat) : List (Nat × Job) := s.jobs.filter (fun (x : Nat × Job) => x.2.chan == i)

/-- Stop every job of a channel (R478). -/
def cancelJobs (i : Nat) (s : State) : State := (s.chanJobs i).foldl (fun a j => stopJob j.1 Code.E_CANCELLED a) s

/-- The binding that holds a channel ends (R195, R214, R460). -/
def endLive (i : Nat) (s : State) : State :=
  match (s.chan i).live with
  | none => s
  | some e =>
    let s := s.chans.foldl (fun a x => if x.2.live = some e then modChan x.1 (fun c => { c with live := none }) a else a) s
    dropChain (.live e) { s with lives := tdel s.lives e }

/-- LIVE_UNBIND completes once every channel of its binding has stopped (R454). -/
def settleUnbinds (s : State) : State :=
  let ready (o : OpenCmd) : Bool := match o with
    | .unbind _ l => l.all (fun i => (s.chan i).stopping.isEmpty)
    | _ => false
  (s.opens.filter ready).foldl (fun a o => match o with | .unbind c _ => done c a | _ => a) { s with opens := s.opens.filter (fun o => !ready o) }

/-- The records of a channel that are ready are settled in their order and leave it, and its numbers start again (R436, R466). -/
def renumber (i : Nat) (s : State) : State :=
  let mine := (s.due.filter (fun d => d.chan == some i)).mergeSort (fun a b => decide (a.body.seq ≤ b.body.seq))
  let s := { s with due := s.due.filter (fun d => d.chan ≠ some i), rings := s.rings.map (fun r => (r.1, { r.2 with cur := r.2.cur.map (fun x => ({ x.1 with chan := if x.1.chan = some i then none else x.1.chan }, x.2)) })) }
  let r := mine.foldl (fun (a : List Due × State) d => let y := settleCode d a.2; (a.1 ++ [{ y.1 with chan := none }], y.2)) ([], s)
  modChan i (fun c => { c with seq := 1, posted := 1 }) { r.2 with due := r.2.due ++ r.1 }

/-- The governor leaves the pictures that a stop cuts off, oldest first (R334, R344). -/
def leaveHouse (i : Nat) (s : State) : State :=
  let c := s.chan i
  if c.ty ≠ 0 ∨ c.bind.isNone then s
  else
    let e := (c.codec.enc.pics.filter (fun p => p.started && !p.ended)).foldl (fun e p => (govEnd (c.bind.getD []) c.seqHdr e p).1) c.codec.enc
    modChan i (fun x => { x with codec := { x.codec with enc := { x.codec.enc with a := e.a, fresh := e.fresh } } }) s

/-- A decoded picture whose number is taken and whose record is not posted ends with the channel's stop (R378, R466). -/
def cutPicture (i : Nat) (s : State) : State :=
  match (s.chan i).codec.dec.pic with
  | some p => match p.seq with
    | some n =>
      if p.gone then s
      else
        let s := postUnit i n none (p.codes ++ [Code.E_CANCELLED]) { flags := 4 * bit p.intra + 8, kind := 2, retries := p.retries, r0 := p.count + 0xFFFF * 2 ^ 32, r1 := p.pts, r2 := p.lost.min?.getD 0xFFFF + p.replaced.length * 65536 } (unitCode i n Code.E_CANCELLED s)
        modChan i (fun x => { x with codec := { x.codec with dec := { x.codec.dec with pic := some { p with gone := true } } } }) s
    | none => s
  | none => s

/-- The picture stores of a channel that goes stop (R421). -/
def dropStores (i : Nat) (s : State) : State :=
  bump 0x34 Cnt.FSC_STOPPED (s.stores.filter (fun p => p.chan == i)).length { s with stores := s.stores.filter (fun p => p.chan ≠ i) }

/-- A stop ends (R432, R436): END, the slot, the binding, the causes, and the records of its commands. `retired` says that the
channel was RETIRED. -/
def finishStop (i : Nat) (s : State) : State :=
  let c := s.chan i
  let abort := c.stopping.any (·.2)
  if !(s.chanJobs i).isEmpty || (!abort && s.stores.any (fun p => p.chan == i)) || (c.endDue && !c.room 2) then s
  else
    let retired := c.st == 5
    let s := endLive i (writeEnd i (cutPicture i (leaveHouse i (dropStores i s))))
    let s := swapOut i s
    let s := modChan i (fun x => { x with st := 1, page := false, size := false, susp := false, pinned := false, stopping := [], codec := { x.codec with started := false, persist := [], inputs := [], enc := { x.codec.enc with pics := [], auds := [] } } }) s
    let s := c.stopping.foldl (fun a x => match x.1 with | some ctx => done ctx a | none => a) s
    let s := if retired then
        let h := match c.pkg with | some k => freshHist k | none => []
        renumber i (modChan i (fun x => { x with dying := none, codec := { stat := x.codec.stat, statNext := x.codec.statNext, hist := h, enc := { a := enInit (c.bind.getD []), ql := enQlInit (c.bind.getD []) } } }) s)
      else s
    settleUnbinds s

/-- Stop a channel (R436): with ABORT every job of it is cancelled. -/
def stopChan (i : Nat) (ctx : Option Ctx) (abort : Bool) (s : State) : State :=
  let s := modChan i (fun c => { c with stopping := c.stopping ++ [(ctx, abort)] }) s
  let s := if abort then cancelJobs i s else s
  finishStop i s

/-- The members of a channel's binding other than itself. -/
def State.partners (s : State) (i : Nat) : List Nat :=
  match (s.chan i).live with
  | none => []
  | some e => ((s.chans.filter (fun (x : Nat × Chan) => x.2.live == some e)).map (·.1)).filter (· ≠ i)

/-- A channel whose last job has ended is retired (R475): END, its binding, its final record. Stops it was meant to make fail. -/
def finishRetire (i cause : Nat) (s : State) : State :=
  let c := s.chan i
  if !(s.chanJobs i).isEmpty || (c.endDue && !c.room 2) then s
  else
    let others := s.partners i
    let s := endLive i (writeEnd i (cutPicture i (dropStores i s)))
    let s := c.stopping.foldl (fun a x => match x.1 with | some ctx => fail ctx Code.E_CH_STATE a | none => a) s
    let s := swapOut i s
    let s := modChan i (fun x => { x with st := 5, page := false, size := false, susp := false, pinned := false, stopping := [], codec := { x.codec with persist := [] } }) s
    let r := nextSeq i s
    let s := unitCode i r.1 Code.X_CHANNEL_RETIRED (bump 0x21 Cnt.HIF_CH_RETIRED 1 r.2)
    let s := postUnit i r.1 none [Code.X_CHANNEL_RETIRED] { r0 := cause, flags := bit c.endDue * 16 } s
    settleUnbinds (others.foldl (fun a x => stopChan x none true a) s)

/-- A channel is to be retired (R475): its other jobs are cancelled. -/
def beginRetire (i cause : Nat) (s : State) : State :=
  let c := s.chan i
  if c.dying.isSome ∨ c.st = 5 then s
  else finishRetire i cause (cancelJobs i (modChan i (fun x => { x with dying := some cause }) s))

/-- What follows the end of a job of a channel: a retirement, a stop, or settings that wait for the job's end. -/
def settleChan (i : Nat) (s : State) : State :=
  let c := s.chan i
  match c.dying with
  | some cause => if c.st = 5 then s else finishRetire i cause s
  | none => if c.stopping.isEmpty then settleSettings i s else finishStop i s

/-- A job leaves: its chain's credits return (R214). -/
def dropJob (id : Nat) (s : State) : State :=
  match tget? s.jobs id with
  | none => s
  | some j => settleChan j.chan (dropChain (.job id) (modChan j.chan (fun c => { c with codec := joinStats j c.codec }) { s with jobs := tdel s.jobs id }))

/-- A ready record `d` is taken, the others being `rest`, and written to ring `r`. -/
def postRecord (r : Nat) (k : Ring) (d : Due) (rest : List Due) (s : State) : State :=
  let z := settleCode d s
  let a := k.base + 64 * (k.w % 2 ^ k.log2n)
  let t := { z.2 with due := rest, rings := tput z.2.rings r { k with cur := some (z.1, z.2.time, false) } }
  if (t.winOk 0 a 64).2 then ringWrite r a (recBytes z.1.body t.time) true t
  else { t with rings := tput t.rings r { k with cur := some (z.1, t.time, false), broken := true } }

/-- The channel whose unit's record this is, where a page of its statistics area does not translate (R671). -/
def State.dueBad (s : State) (d : Due) : Option (Nat × Nat × Walk) :=
  match d.chan with | some i => if d.event then none else (s.statBad i d.body.seq).map (fun x => (i, x)) | none => none

/-- A ready record is posted. While a page of its channel's statistics area holds, it waits (R107, R671); where a page fails, the
channel is retired with that code (R475). -/
def postDue (r : Nat) (k : Ring) (d : Due) (rest : List Due) (s : State) : State :=
  match s.dueBad d with
  | some (_, _, .hold _ _ _) => s
  | some (i, a, w) => beginRetire i (walkFail i a true w s).1 (postRecord r k d rest s)
  | none => postRecord r k d rest s

/-- The records due for a ring that is full or failed are held; each counts once (R470, R482). -/
def holdDue (r : Nat) (s : State) : State :=
  bump 0x21 Cnt.HIF_HELD_RECORDS (s.due.filter (fun d => d.ring == r && !d.held)).length
    { s with due := s.due.map (fun d => if d.ring = r then { d with held := true } else d) }

/-- RECORD_POST (R467, R468, R470, R472): the first ready record of the ring whose turn has come, once there is room and no
other record is being written. -/
def execRecordPost (r : Fin 256) (s : State) : Host.Outcome State Fault Refusal :=
  match tget? s.rings r.val with
  | none => .next s
  | some k =>
    if k.failed ∨ !s.ringRoom r.val k then .next (holdDue r.val s)
    else if k.cur.isSome ∨ s.refusing 8 then .next s
    else match takeDue s r.val s.due with
      | none => .next s
      | some (d, rest) => .next (postDue r.val k d rest s)

end Sys2Proof.Machine
end

