-- ==== Sys2Proof/Machine/Egress.lean ====
section
/-! DEFINITION. The output instants of ST 2110 transmit flows (spec/10, R380, R381, R389; spec/14, R532, R533). -/

namespace Sys2Proof.Machine

/-- Update the transmit flow of a channel's output, if it has one. -/
def modOut (i : Nat) (f : Flow → Flow) (s : State) : State :=
  match (s.chan i).outFlow with | some n => setFlow n (f (s.flow n)) s | none => s

/-- Ticks of a timescale as nanoseconds. -/
def ticksNs (pts scale : Nat) : Nat := pts * 1000000000 / max 1 scale

/-- The first boundary of a flow's unit period at or after a time: 10 ms for audio, DEN / NUM seconds for video (R532). -/
def Flow.boundary (f : Flow) (t : Nat) : Nat :=
  let num := if f.kind = 2 then 100 else max 1 f.num
  let den := if f.kind = 2 then 1 else max 1 f.den
  (t * num + den * 1000000000 - 1) / (den * 1000000000) * (den * 1000000000) / num

/-- A sequence begins: the offset is set anew at its first unit. -/
def egressBegin (i : Nat) (s : State) : State := modOut i (fun f => { f with offset := none }) s

/-- Announce a unit; its instant follows once the offset is set. -/
def egressAnnounce (i : Nat) (u : OutUnit) (s : State) : State :=
  modOut i (fun f => { f with units := f.units ++ [{ u with instant := f.offset.map (fun (o : Int) => ((u.pts : Int) + o).toNat) }] }) s

/-- A unit is complete: the first of a sequence sets O (R532). `send` is clear where it is withheld (R381). -/
def egressReady (i num : Nat) (send : Bool) (bytes : List Byte) (s : State) : State :=
  modOut i (fun f =>
    match f.units.find? (fun u => u.num == num) with
    | none => f
    | some u =>
      let o : Int := f.offset.getD ((f.boundary (s.time + 1000 * f.delay) : Int) - (u.pts : Int))
      let set (x : OutUnit) : OutUnit :=
        let x := if x.instant.isNone then { x with instant := some ((x.pts : Int) + o).toNat } else x
        if x.num = num then { x with whole := send, gone := x.gone || !send, bytes := if send then bytes else [] } else x
      { f with offset := some o, units := f.units.map set }) s

/-- Whether a channel's egress is silent (R389): a decode without an active sequence. -/
def State.mute (s : State) (i : Nat) : Bool := (s.chan i).ty == 1 && (s.chan i).codec.dec.seq.isEmpty

/-- Send a unit: one message stands for its packets, whose number ST 2110 gives and the spec does not; the RTP sequence number counts
them (R533). -/
def sendUnit (n instant : Nat) (bytes : List Byte) (s : State) : State :=
  let f := s.flow n
  let r := draw s
  let k := r.1 % 65536
  let q := f.seq.getD (f.ssrc % 65536)
  let ts := instant * (if f.kind = 2 then 48000 else 90000) / 1000000000 % 2 ^ 32
  let s := setFlow n { f with seq := some ((q + k + 1) % 65536), sent := some bytes } r.2
  bump 0x35 Cnt.MED_TX_PKTS (k + 1) (sendOn f.port f.pcp (.rtp n q ts f.ssrc (f.kind != 2) bytes) s)

/-- The instant of the oldest unit of a flow has come. -/
def egress (n : Nat) (s : State) : State :=
  let f := s.flow n
  match f.units with
  | [] => s
  | u :: t =>
    match u.instant with
    | none => s
    | some a =>
      if s.time < a then s
      else
        let s := setFlow n { f with units := t } s
        if (match f.bound with | some i => s.mute i | none => false) then s
        else if u.whole then sendUnit n a u.bytes s
        else
          let s := bump 0x35 Cnt.MED_EGRESS_LATE (bit (u.num != 0)) s
          match f.sent with
          | some b => bump 0x35 Cnt.MED_EGRESS_REPEATS 1 (sendUnit n a b s)
          | none => s

/-- EGRESS_INSTANT (R532): the oldest unit of a transmit flow. -/
def execEgressInstant (flow : Fin 256) (s : State) : Host.Outcome State Fault Refusal := .next (egress (flow.val + 256) s)

end Sys2Proof.Machine
end

