-- ==== Sys2Proof/Machine/Start.lean ====
section
/-! DEFINITION. Starting, stopping and destroying channels, their input and output counts, and the commands that start jobs
(spec/12, R428, R432 to R436, R441, R454 to R460; spec/13, R497). -/

namespace Sys2Proof.Machine

/-- A package load of the channel that still waits completes when the channel is destroyed (R428). -/
def dropLoad (i : Nat) (a : State) (o : OpenCmd) : State :=
  match o with
  | .pkgLoad d k => if d.chan = some i then finish d 0 (modelId k % 2 ^ 64) (modelId k / 2 ^ 64) { a with opens := a.opens.erase o } else a
  | _ => a

/-- CH_DESTROY (R428, R432, R501, R529): the channel's translations go with it, its flows serve no channel; a package load that still waits completes. -/
def chDestroy (c : Ctx) (i : Nat) (_ : Entry) (s : State) : State :=
  let x := s.chan i
  let s := s.opens.foldl (dropLoad i) s
  let s := dropTlb 1 0 i x.gen s
  let s := (match x.io with | some y => y.flows | none => []).foldl (fun a n => bindFlow n none a) s
  let s := setChan i { gen := nextGen x.gen, seq := x.seq, posted := x.posted, last := x.last } s
  done c (bump 0x21 Cnt.HIF_CH_DESTROYED 1 { s with freed := s.freed ++ [i] })

/-- CH_DESTROY. -/
def execChDestroy (q : Fin 256) (e : Entry) (s : State) : Host.Outcome State Fault Refusal := .next (admitCmd spChDestroy q.val (eWithOp e 0x11) chDestroy s)

/-! Start checks -/

/-- What R435 finds missing; `io` says that the command sets the I/O itself. -/
def Chan.missing (c : Chan) (io : Bool) : Nat :=
  bit c.pkg.isNone + 2 * bit (decide (c.ty ≤ 4) && c.bind.isNone) + 4 * bit (!io && c.io.isNone)

/-- The rings and record areas of a channel, with whether the part writes them (R497). -/
def Chan.areas (c : Chan) : List (Nat × Nat × Bool) :=
  let r := c.bind.getD []
  (match c.io with
   | some x => [(x.inBase, x.inBytes, false), (x.outBase, x.outBytes, true)]
   | none => []) ++
  (match c.ty with
   | 1 => (if deMode r = 0 then [(deBase r, deBytes r, true)] else []) ++ (if deInfo r = 0 then [] else [(deInfo r, 32 * deSlots r, true)])
   | 3 => if auIo r = 0 then [(auBase r, auFrames r * 1920 * auNch r, false)] else []
   | 4 => if auIo r = 0 then [(auBase r, auFrames r * 1920 * auNch r, true)] else []
   | _ => [])

/-- The first address of a channel's areas whose page does not translate with V = 1 (R497). -/
def State.areaBad (s : State) (i : Nat) : Option Nat :=
  (s.chan i).areas.findSome? (fun a =>
    if a.2.1 = 0 then none
    else ((List.range (upDiv (a.1 % 65536 + a.2.1) 65536)).map (fun k => if k = 0 then a.1 else (a.1 / 65536 + k) * 65536)).find? (fun v =>
      match s.translate i v a.2.2 with | .ok _ | .perm _ => false | _ => true))

/-- The checks of CH_START on a channel (R25, R211, R320, R369, R390, R400, R435, R497, R670): a code, 0 if none, and RESULT0. -/
def startCheck (i : Nat) (s : State) : Nat × Nat :=
  let c := s.chan i
  if c.missing false ≠ 0 then (Code.E_CH_STATE, c.missing false)
  else if c.ty ≠ 6 ∧ !(s.ensExists c.ens && s.ensFits c.ens c.pkg) then (Code.E_ENS_MEMBER, 0)
  else if (match c.pkg with | some k => chainCheck (pkgEdges i k s) s | none => 0) ≠ 0 then (chainCheck (pkgEdges i (c.pkg.getD {}) s) s, 0)
  else if c.ty ≤ 4 && !c.pkgFits (c.bind.getD []) s then (c.paramsCode, 0)
  else if c.ty == 0 && (match c.io with | some x => !ringFits c.seqHdr x.inPitch x.inSlots x.inBytes | none => false) then (Code.E_ENC_PARAMS, 0)
  else match s.areaBad i with
    | some a => (Code.E_XLT_FAULT, a)
    | none => (0, 0)

/-- A start that fails with a fault of a page records it (R511). -/
def startFail (c : Ctx) (i : Nat) (r : Nat × Nat) (s : State) : State :=
  finish c r.1 r.2 0 (if r.1 = Code.E_XLT_FAULT then (walkFail i r.2 false (s.translate i r.2 false) s).2 else s)

/-- A channel starts (R432, R455, R534): its counts begin at 0, an encode at a new sequence, a decode without one. -/
def startChan (i : Nat) (s : State) : State :=
  let c := s.chan i
  let x := c.codec
  let y := { x with started := true, persist := if c.ty ≤ 4 then [(false, 0), (true, 0)] else [], total := 0, used := 0, made := 0, head := 0, inputs := [], ended := false, enc := { x.enc with pics := [], auds := [], need := true, seqOut := false, rtpTs := 0, picTag := 0 }, dec := {}, aud := {}, slots := if c.ty = 1 then [] else x.slots }
  let s := setChan i ({ c with st := 3, pinned := false, codec := y } : Chan).settle s
  match c.io with
  | some x => x.flows.foldl (fun a n => setFlow n { a.flow n with seq := none, ts := none, closedTs := none, filled := [], skip := (a.flow n).kind == 3, expect := 0, offset := none, units := [], sent := none } a) s
  | none => s

/-- CH_PREPARE (R437, R441). -/
def chPrepare (c : Ctx) (i : Nat) (_ : Entry) (s : State) : State :=
  let r := startCheck i s
  if r.1 ≠ 0 then startFail c i r s
  else if (s.chan i).ty = 6 then done c (modChan i (fun x => { x with st := 2 }) s)
  else match takeSlot i (s.chan i).ens s with
    | some t => done c (modChan i (fun x => { x with st := 2, pinned := true }) t)
    | none => fail c Code.E_NO_SLOT s

/-- CH_START (R432, R435). -/
def chStart (c : Ctx) (i : Nat) (_ : Entry) (s : State) : State :=
  let r := startCheck i s
  if r.1 ≠ 0 then startFail c i r s else done c (startChan i s)

/-- CH_STOP (R436). -/
def chStop (c : Ctx) (i : Nat) (e : Entry) (s : State) : State := stopChan i (some c) (eGet e 0x10 0 1 == 1) s

/-- FORCE_INTRA (R454). -/
def forceIntra (c : Ctx) (i : Nat) (_ : Entry) (s : State) : State :=
  done c (modChan i (fun x => { x with codec := { x.codec with enc := { x.codec.enc with force := true } } }) s)

/-! Input and output counts (R455, R458, R459) -/

/-- A QUIET command that fails takes its number only now (R458). -/
def failLate (c : Ctx) (i : Nat) (e : Entry) (code : Nat) (s : State) : State :=
  if c.quiet then let r := channelCtx { queue := c.queue, ring := c.ring, fwd := c.fwd } i e s; fail r.1 code r.2 else fail c code s

/-- Ticks between the pictures or frames of an announcement. -/
def Chan.inStep (c : Chan) : Nat :=
  match c.ty with
  | 0 => seqDur c.seqHdr
  | 2 => nhPeriod (c.bind.getD [])
  | _ => 480

/-- What the input ring of a channel holds: bytes, buffers or frames. -/
def Chan.inCap (c : Chan) : Nat :=
  match c.ty with
  | 1 | 4 => match c.io with | some x => x.inBytes | none => 0
  | 3 => auFrames (c.bind.getD [])
  | _ => match c.io with | some x => x.inSlots | none => 0

/-- A unit's job takes the next number of its channel and is admitted (R466). -/
def addUnit (i : Nat) (j : Job) (s : State) : State :=
  let r := nextSeq i s
  addJob { j with chan := i, seq := r.1, ens := (s.chan i).ens } r.2

/-- A picture boundary of a codec channel (R195): the picture sequencer arms its persistent streams with the ring positions of the next
picture, those that a stop has closed among them. -/
def armPersistent (i at_ out : Nat) (s : State) : State :=
  let s := modChan i (fun c => { c with codec := { c.codec with persist := [(false, at_), (true, out)] } }) s
  [false, true].foldl (fun a d => bump (0x280 + Config.seqShared i d % 8) Cnt.SMV_REARMS 1 a) s

/-- Hold an input buffer for one more job. -/
def holdInput (i num : Nat) (s : State) : State :=
  modChan i (fun c => { c with codec := { c.codec with inputs := c.codec.inputs.map (fun p => if p.num = num then { p with hold := p.hold + 1 } else p) } }) s

/-- Input buffers whose last job has ended, oldest first, become free (R325). -/
def freeFront : List InPic → Nat → List InPic × Nat
  | [], n => ([], n)
  | p :: t, n => if p.hold = 0 ∧ p.closed then freeFront t (n + 1) else (p :: t, n)

/-- A job that read a buffer has ended. -/
def releaseInput (i num : Nat) (s : State) : State :=
  modChan i (fun c =>
    let l := c.codec.inputs.map (fun p => if p.num = num then { p with hold := p.hold - 1 } else p)
    let r := freeFront l c.codec.used
    { c with codec := { c.codec with inputs := r.1, used := r.2 } }) s

/-- One output picture of an ENH channel, between input pictures `a` and `num`, at a PTS: a unit (R392). -/
def enhUnit (i num : Nat) (dl : Option Nat) (tick a pts : Nat) (s : State) : State :=
  let s := addUnit i { chan := i, seq := 0, work := .enhance a num pts, role := 4, deadline := dl } (holdInput i num (if a = num then s else holdInput i a s))
  egressAnnounce i { num := (s.chan i).seq, pts := ticksNs pts tick } (armPersistent i num (s.chan i).codec.made s)

/-- The output pictures that an input picture of an ENH channel brings about, each a unit (R392): those between it and the
picture before it, then its own. -/
def enhAdmit (i num : Nat) (s : State) : State :=
  let c := s.chan i
  let r := c.bind.getD []
  let f := nhInterp r
  let prev := (c.codec.inputs.filter (fun p => p.num + 1 == num)).head?
  match c.codec.inputs.find? (fun p => p.num == num) with
  | none => s
  | some cur =>
    let dl := c.deadline cur.last
    let tick := nhScale r * f
    let s := match prev with
      | some p =>
        if f = 1 ∨ nhPeriod r = 0 then s
        else
          let n := (cur.pts * f - p.pts * f - 1) / nhPeriod r
          releaseInput i p.num ((List.range n).foldl (fun a j => enhUnit i num dl tick p.num (p.pts * f + (j + 1) * nhPeriod r) a) s)
      | none => s
    let s := enhUnit i num dl tick num (cur.pts * f) s
    if f = 1 then releaseInput i num s else s

/-- A picture or frame of a channel's input has arrived whole (R322, R459). An encode's slices are released by
SLICE_RELEASE. -/
def inputWhole (i num : Nat) (s : State) : State :=
  let c := s.chan i
  if s.standby then s
  else match c.ty with
  | 2 => enhAdmit i num s
  | 3 =>
    let p := (c.codec.inputs.find? (fun p => p.num == num)).getD { num, pts := 0, last := s.time }
    let codes := if p.filled.isEmpty then [] else [Code.W_MEDIA_LOSS]
    let s := addUnit i { chan := i, seq := 0, work := .audEnc num, role := 5, deadline := c.deadline p.last, codes } s
    codes.foldl (fun a x => unitCode i (a.chan i).seq x a) (armPersistent i num (s.chan i).codec.made s)
  | _ => s

/-- Pictures or frames up to `total` are announced (R459). -/
def announce (i total pts : Nat) (s : State) : State :=
  let c := s.chan i
  let n := total - c.codec.total
  (List.range n).foldl (fun a k =>
    let num := c.codec.total + k
    let p : InPic := { num, pts := (pts + 2 ^ 48 * n * c.inStep - (n - 1 - k) * c.inStep) % 2 ^ 48, whole := some s.time, last := s.time, closed := true }
    let a := modChan i (fun x => { x with codec := { x.codec with inputs := x.codec.inputs ++ [p] } }) a
    inputWhole i num (if c.ty = 3 then a else bump 0x30 Cnt.SEQ_PICS_IN 1 a)) s

/-- STREAM_IN (R433, R455, R458, R459). A total that a flow counts, or that a channel takes no part in, has no further effect. -/
def streamIn (c : Ctx) (i : Nat) (e : Entry) (s : State) : State :=
  let x := s.chan i
  let total := eGet e 0x10 0 64
  let pts := eGet e 0x18 0 48
  if 5 ≤ x.ty ∨ total < x.codec.total ∨ x.codec.used + x.inCap < total then failLate c i e Code.E_CMD_INVALID s
  else
    let flow : Bool := match x.io with | some y => y.inKind == 1 | none => true
    let s := if flow || !x.admits then s
      else if x.ty = 1 ∨ x.ty = 4 then modChan i (fun y => { y with codec := { y.codec with dec := { y.codec.dec with arrivals := y.codec.dec.arrivals ++ [(total, s.time)] } } }) s
      else announce i total pts s
    done c (modChan i (fun y => { y with codec := { y.codec with total } }) s)

/-- The bind record of a channel. -/
def Chan.rec_ (c : Chan) : List Byte := c.bind.getD []

/-- Geometry of the pictures of an ENH channel, as a sequence header: the sampling and depth of its input flow, or those of the
encode it feeds, else 4:2:0 at 8 bits (log entry 31). -/
def enhGeom (s : State) (i w hgt : Nat) : List Byte :=
  let c := s.chan i
  let f : Nat × Nat := match s.chanOf (nhNext c.rec_), c.io with
    | some n, _ => (seqChroma (s.chan n).seqHdr, seqDepth (s.chan n).seqHdr)
    | none, some x => if x.inKind = 1 then (if (s.flow x.inFlow).sampling = 0 then 1 else 2, (s.flow x.inFlow).depth) else (0, 0)
    | none, none => (0, 0)
  hMake [(16, 36), (8, 1), (128, 0), (16, w), (16, hgt), (2, f.1), (2, f.2), (4, 0), (24, 0), (32, nhScale c.rec_), (32, nhPeriod c.rec_), (8, 0)]

/-- The ranges of a channel's input ring that an announcement covers, as addresses and lengths (R459). -/
def Chan.inRange (c : Chan) (h : List Byte) (total : Nat) : List (Nat × Nat) :=
  let n := total - c.codec.total
  match c.io with
  | none => []
  | some y =>
    if y.inKind = 1 ∨ c.inCap < n then []
    else match c.ty with
    | 1 | 4 =>
      let o := c.codec.total % max 1 y.inBytes
      [(y.inBase + o, min n (y.inBytes - o)), (y.inBase, n - (y.inBytes - o))]
    | 3 => let z := 1920 * auNch (c.bind.getD []); (List.range n).map (fun k => (auBase (c.bind.getD []) + (c.codec.total + k) % max 1 (auFrames (c.bind.getD [])) * z, z))
    | _ => let z := picBytes h y.inPitch; (List.range n).map (fun k => (y.inBase + (c.codec.total + k) % max 1 y.inSlots * z, z))

/-- STREAM_IN, forwarded by a primary once the range it covers is with the peer (R591). -/
def streamInFwd (c : Ctx) (i : Nat) (e : Entry) (s : State) : State :=
  let x := s.chan i
  let h := if x.ty = 2 then enhGeom s i (nhW (x.bind.getD [])) (nhH (x.bind.getD [])) else x.seqHdr
  let s := if s.mirrors && c.fwd.isNone then
      sendEntry e ((x.inRange h (eGet e 0x10 0 64)).foldl (fun a r => mirrorVa i r.1 r.2 (r.2 / 65536 + 2) a) s)
    else s
  streamIn c i e s

/-- OUT_HEAD (R458, R459): a stop or a retirement that waits for room goes on. -/
def outHead (c : Ctx) (i : Nat) (e : Entry) (s : State) : State :=
  let x := s.chan i
  let h := eGet e 0x10 0 64
  if 5 ≤ x.ty ∨ h < x.codec.head ∨ x.codec.made < h then failLate c i e Code.E_CMD_INVALID s
  else
    let s := done c (modChan i (fun y => { y with codec := { y.codec with head := h } }) s)
    if x.stopping.isEmpty && x.dying.isNone then s else settleChan i s

/-! Jobs that commands start -/

/-- TENSOR (R457). -/
def tensor (c : Ctx) (i : Nat) (e : Entry) (s : State) : State :=
  let code := if eWindow e then geomCheck (eBytes e 0x10 32) else 0
  if !(s.chan i).admits then fail c Code.E_CH_STATE s
  else if code ≠ 0 then fail c code s
  else addJob { chan := i, seq := c.seq, cmd := some c, work := .tensor, role := 6, block := eBytes e 0x10 112, ens := (s.chan i).ens } s

/-- The condition of R456 on a fixed-ratio compression. -/
def compSizes (mode width n len : Nat) : Bool :=
  let last := if len % n = 0 then n else len % n
  if mode = 1 then width == 0 else width != 0 && width % (if mode = 3 then 12 else 4) == 0 && n % (8 * width) == 0 && last % (8 * width) == 0

/-- COMP (R414, R456): its checks, then its job. -/
def comp (c : Ctx) (i : Nat) (e : Entry) (s : State) : State :=
  let a : CompArgs := { op := eGet e 0x10 0 1, mode := eGet e 0x11 0 8, elem := eGet e 0x12 0 4, width := eGet e 0x14 0 16, count := eGet e 0x18 0 32, src := eGet e 0x20 0 64, srcLen := eGet e 0x28 0 64, dst := eGet e 0x30 0 64, dstLen := eGet e 0x38 0 64 }
  if !(s.chan i).admits then fail c Code.E_CH_STATE s
  else if a.count = 0 ∨ (a.op = 0 ∧ (a.mode = 0 ∨ 4 < a.mode ∨ 3 < a.elem)) then fail c Code.E_CMD_INVALID s
  else if a.op = 0 ∧ (a.mode == 1) ≠ (a.elem == 0) then fail c Code.E_FSC_MODE (fscFail Code.E_FSC_MODE 0 c.handle true s)
  else if a.op = 0 ∧ !compSizes a.mode a.width a.count a.srcLen then fail c Code.E_CMD_INVALID s
  else addJob { chan := i, seq := c.seq, cmd := some c, work := .comp a } s

/-! LIVE_BIND and LIVE_UNBIND (R460) -/

/-- The flows and channels a LIVE_BIND names. -/
def liveOf (e : Entry) (i : Nat) (s : State) : Live :=
  let f (o : Nat) : Option Nat := if eGet e o 0 32 = 0 then none else s.chanOf (eGet e o 0 32)
  { enc := i, enh := f 0x14, aud := f 0x18, vin := eGet e 0x1C 0 16, ain := eGet e 0x1E 0 16, outFlow := eGet e 0x20 0 16 }

/-- The channels of a binding. -/
def Live.members (l : Live) : List Nat := [l.enc] ++ l.enh.toList ++ l.aud.toList

/-- The CH_IO that a binding gives a member: its rings stay where they are. -/
def Live.io (l : Live) (i : Nat) (old : Option Io) : Io :=
  let o := old.getD {}
  if i = l.enc then { o with inKind := if l.enh.isSome then 0 else 1, inFlow := l.vin, outKind := 1, outFlow := l.outFlow }
  else if l.enh = some i then { o with inKind := 1, inFlow := l.vin, outKind := 0 }
  else { o with inKind := 1, inFlow := l.ain, outKind := 0 }

/-- Whether the receive flows carry what the first stage takes (R460). -/
def liveFormat (l : Live) (s : State) : Bool :=
  let h := (s.chan l.enc).seqHdr
  let v := s.flow l.vin
  let fmt := seqDepth h == v.depth && (if seqChroma h = 1 then v.sampling == 0 else seqChroma h == 2 && (v.sampling == 1 || v.sampling == 2))
  let vid := match l.enh with
    | some n => let r := (s.chan n).bind.getD []; v.width == nhW r && v.height == nhH r && v.num * nhPeriod r == nhScale r * v.den
    | none => v.width == seqW h && v.height == seqH h && v.num * seqDur h == seqScale h * v.den
  let aud := match l.aud with
    | some n => (s.flow l.ain).ch + 1 == auNch ((s.chan n).bind.getD [])
    | none => true
  fmt && vid && aud

/-- Whether a flow that a binding names may serve it (R528). -/
def liveFlow (l : Live) (n kind : Nat) (tx : Bool) (s : State) : Bool :=
  let f := s.flow (if tx then n + 256 else n)
  decide (n < 256) && f.kind == kind && (match f.bound with | some b => l.members.contains b | none => true)

/-- The edges of a binding (R462): the default edge, or those of the chain block; none where a page of it fails. -/
def liveEdges (l : Live) (va : Nat) (remote : List Byte) (s : State) : Except (Nat × Nat) (List Edge) :=
  let own := (s.chan l.enc).ens
  let up := match l.enh with | some n => (s.chan n).ens | none => own
  if va = 0 then
    match l.enh with
    | some n => let k := (s.chan n).pkg.getD {}
      .ok [{ num := 0, prod := up, cons := own, credits := k.enhCredits, tileBytes := k.enhTile, free := k.enhCredits }]
    | none => .ok []
  else
    let bad (n : Nat) : Option Nat := (s.firstBad l.enc va n false).map (·.1)
    match bad 4 with
    | some a => .error (Code.E_XLT_FAULT, a)
    | none =>
      let n := chainLen (readVa s l.enc va 4 remote)
      match bad n with
      | some a => .error (Code.E_XLT_FAULT, a)
      | none =>
        let b := readVa s l.enc va n remote
        if chainFormOk b then .ok (chainResolve own up (chainEdges b)) else .error (Code.E_CMD_INVALID, 0)

/-- The checks of LIVE_BIND on the channels it names: a code and RESULT0. -/
def liveCheck (e : Entry) (l : Live) (s : State) : Nat × Nat :=
  let h := handleOf l.enc (s.chan l.enc)
  let m := l.members
  let mask := m.foldl (fun a n => a ||| (s.chan n).missing true) 0
  if (eGet e 0x14 0 32 ≠ 0 ∧ l.enh.isNone) ∨ (eGet e 0x18 0 32 ≠ 0 ∧ l.aud.isNone) then (Code.E_HANDLE_STALE, 0)
  else if (match l.enh with | some n => (s.chan n).ty != 2 || nhNext ((s.chan n).bind.getD []) != h | none => false) ||
      (match l.aud with | some n => (s.chan n).ty != 3 || auMux ((s.chan n).bind.getD []) != h | none => false) then (Code.E_CMD_INVALID, 0)
  else if m.any (fun n => (s.chan n).st != 1 && (s.chan n).st != 2) then (Code.E_CH_STATE, 0)
  else if mask ≠ 0 then (Code.E_CH_STATE, mask)
  else if (match l.enh with | some n => !fuses ((s.chan n).bind.getD []) (s.chan l.enc).seqHdr | none => false) then (Code.E_ENH_PARAMS, 0)
  else if !(liveFlow l l.vin 1 false s && liveFlow l l.outFlow 3 true s && (l.aud.isNone || liveFlow l l.ain 2 false s)) then (Code.E_FLOW, 0)
  else if !liveFormat l s then (Code.E_LIVE_FORMAT, 0)
  else (0, 0)

/-- LIVE_BIND (R211, R435, R460, R462). -/
def liveBind (remote : List Byte) (c : Ctx) (i : Nat) (e : Entry) (s : State) : State :=
  let l := liveOf e i s
  let r := liveCheck e l s
  if r.1 ≠ 0 then finish c r.1 r.2 0 s
  else match liveEdges l (eGet e 0x28 0 64) remote s with
    | .error x => finish c x.1 x.2 0 s
    | .ok edges =>
      let code := chainCheck (edges ++ l.members.flatMap (fun n => match (s.chan n).pkg with | some k => pkgEdges n k s | none => [])) s
      let t := l.members.foldl (fun a n => modChan n (fun x => { x with io := some (l.io n x.io) }) a) s
      if code ≠ 0 then fail c code s
      else match l.members.findSome? (fun n => let z := startCheck n t; if z.1 = 0 then none else some (n, z)) with
        | some (n, z) => startFail c n z s
        | none =>
          let olds := l.members.flatMap (fun n => match (s.chan n).io with | some x => x.flows | none => [])
          let news := l.members.flatMap (fun n => (l.io n none).flows.map (fun f => (f, n)))
          let t := (olds.filter (fun f => !(news.map (·.1)).contains f)).foldl (fun a f => bindFlow f none a) t
          let t := news.foldl (fun a x => bindFlow x.1 (some x.2) a) t
          let t := l.members.foldl (fun a n => startChan n (modChan n (fun x => { x with live := some i }) a)) t
          let t := { t with lives := tput t.lives i l }
          done c (bump 0x21 Cnt.HIF_LIVE_BINDS 1 <| if edges.isEmpty then t else showPool { t with chains := t.chains ++ [{ owner := .live i, edges }] })

/-- LIVE_UNBIND (R436, R454). -/
def liveUnbind (c : Ctx) (i : Nat) (e : Entry) (s : State) : State :=
  if (s.chan i).live.isNone then fail c Code.E_CH_STATE s
  else
    let m := i :: s.partners i
    m.foldl (fun a n => stopChan n none (eGet e 0x10 0 1 == 1) a) { s with opens := s.opens ++ [.unbind c m] }

/-- CH_PREPARE. -/
def execChPrepare (q : Fin 256) (e : Entry) (s : State) : Host.Outcome State Fault Refusal := .next (admitCmd spChPrepare q.val (eWithOp e 0x15) chPrepare s)
/-- CH_START. -/
def execChStart (q : Fin 256) (e : Entry) (s : State) : Host.Outcome State Fault Refusal := .next (admitCmd spChStart q.val (eWithOp e 0x16) chStart s)
/-- CH_STOP. -/
def execChStop (q : Fin 256) (e : Entry) (s : State) : Host.Outcome State Fault Refusal := .next (admitCmd spChStop q.val (eWithOp e 0x17) chStop s)
/-- FORCE_INTRA. -/
def execForceIntra (q : Fin 256) (e : Entry) (s : State) : Host.Outcome State Fault Refusal := .next (admitCmd spForceIntra q.val (eWithOp e 0x1C) forceIntra s)
/-- STREAM_IN. -/
def execStreamIn (q : Fin 256) (e : Entry) (s : State) : Host.Outcome State Fault Refusal := .next (admitCmd spStreamIn q.val (eWithOp e 0x1D) streamInFwd s)
/-- OUT_HEAD. -/
def execOutHead (q : Fin 256) (e : Entry) (s : State) : Host.Outcome State Fault Refusal := .next (admitCmd spOutHead q.val (eWithOp e 0x1E) outHead s)
/-- TENSOR. -/
def execTensor (q : Fin 256) (e : Entry) (s : State) : Host.Outcome State Fault Refusal := .next (admitCmd spTensor q.val (eWithOp e 0x21) tensor s)
/-- COMP. -/
def execComp (q : Fin 256) (e : Entry) (s : State) : Host.Outcome State Fault Refusal := .next (admitCmd spComp q.val (eWithOp e 0x22) comp s)
/-- LIVE_BIND. -/
def execLiveBind (q : Fin 256) (e : Entry) (remote : List Byte) (s : State) : Host.Outcome State Fault Refusal :=
  .next (admitCmd spLiveBind q.val (eWithOp e 0x23) (liveBind remote) s)
/-- LIVE_UNBIND. -/
def execLiveUnbind (q : Fin 256) (e : Entry) (s : State) : Host.Outcome State Fault Refusal := .next (admitCmd spLiveUnbind q.val (eWithOp e 0x24) liveUnbind s)

end Sys2Proof.Machine
end

