-- ==== Sys2Proof/Machine/Rehearse.lean ====
section
/-! DEFINITION. What the players of coding and fine-tuning jobs compute: latents and their rehearsal (spec/09, R328, R350 to R352), the
rows' symbols and estimates (R294, R332), the steps of fine-tuning (R353, R354), with the optimiser of spec/03 (R109 to R112). -/

namespace Sys2Proof.Machine

/-! Source pictures -/

/-- The bytes of an input picture of a channel, in the layout of R369. -/
def inputBytes (s : State) (i num : Nat) (h : List Byte) : List Byte :=
  match (s.chan i).io with
  | some x => readVa s i (x.inBase + num % max 1 x.inSlots * picBytes h x.inPitch) (picBytes h x.inPitch) []
  | none => []

/-- Line y of a plane of a picture whose bytes lie at a luma pitch. -/
def srcLine (h : List Byte) (pitch p y : Nat) (l : List Byte) : List Byte := (l.drop (planeAt h pitch p + y * planePitch h pitch p)).take (planeW h p * seqB h)

/-- The lines of a picture above luma line `upto`, plane by plane. -/
def srcLines (h : List Byte) (pitch upto : Nat) (l : List Byte) : List Byte :=
  (List.range 3).flatMap (fun p =>
    let sub := if planeH h p = seqH h then 1 else 2
    ((List.range (planeH h p)).filter (fun y => decide (y * sub < upto))).flatMap (fun y => srcLine h pitch p y l))

/-- The samples of a run of block rows, plane by plane. -/
def tileSamples (h : List Byte) (pitch first rows : Nat) (l : List Byte) : List Nat :=
  (List.range 3).flatMap (fun p => (List.range rows).flatMap (fun r =>
    (List.range (rowLines h p (first + r))).flatMap (fun y => samplesOf (seqB h) (srcLine h pitch p (rowFirst h p (first + r) + y) l))))

/-! The optimiser of spec/03 on a whole gradient tensor -/

/-- Parameters at the start of a refinement: moments 0 (R351; of fine-tuning the spec does not say it: log entry 187). -/
def freshRefine (w : List Nat) : Refine := { w, m := w.map (fun _ => 0), me := List.replicate ((w.length + 31) / 32) 0, v := w.map (fun _ => 0) }

/-- The Adam step on parameters in a master format, the gradient codes as stored (R109): what it leaves, and the second moments as they
were converted. -/
def refineApply (f : FFmt) (k : Package) (c : Codec) (tid : Nat) (eg : Int) (g : List Nat) (r : Refine) : Refine × List (Fp × Cstat) :=
  let ev := tensorExp k c tid 0
  let res := (List.range r.w.length).map (fun i => adamStep k.adamPrm c.adamT (Fp.of f (r.w.getD i 0)) ((Fp.of e4m3i (r.m.getD i 0)).scale (r.me.getD (i / 32) 0))
    ((Fp.of e5m2 (r.v.getD i 0)).scale r.ve) ((Fp.of e5m2 (g.getD i 0)).scale eg))
  let ms := res.map (·.2.1)
  let es := momentExps ((descOf k tid).getD []) ms
  let cv := res.map (fun x => (x.2.2, convert 4 ev 0 x.2.2))
  ({ w := res.map (fun x => (toFloat f x.1).1), m := ms.zipIdx.map (fun x => (convert 3 (es.getD (x.2 / 32) 0) 0 x.1).1), me := es, v := cv.map (·.2.1), ve := ev }, cv.map (fun x => (x.1, x.2.2)))

/-- A step of refinement (R109 to R112): the gradients of the parts, which together are the gradient tensor, are stored in E5M2; the
update is suppressed where one is stored as infinite or NaN and SKIP_NONFINITE is set. Answers the parts, whether the update was
made, and the maxima of the step (R95). -/
def refineStep (f : FFmt) (k : Package) (c : Codec) (tid : Nat) (gs : List (List Fp)) (rs : List Refine) : List Refine × Bool × Tbl (Nat × Bool) :=
  let gt := inputTensor k tid
  let eg := tensorExp k c gt 0
  let cg := gs.map (fun l => l.map (fun x => (x, toFloat e5m2 (x.scale (-eg)))))
  let marks : Tbl (Nat × Bool) := tput [] gt (markOf (cg.flatten.map (fun y => (y.1, y.2.2))))
  if sbSkip c.stat && cg.any (fun l => l.any (fun y => match Fp.of e5m2 y.2.1 with | .fin .. => false | _ => true)) then (rs, false, marks)
  else
    let z := List.zipWith (fun l r => refineApply f k c tid eg (l.map (·.2.1)) r) cg rs
    (z.map (·.1), true, tput marks tid (markOf (z.flatMap (·.2))))

/-- Mean squared error in FP32, in the order of the samples (R350, R353). -/
def meanSquare (a b : List Fp) : Fp :=
  let sum := (List.zipWith (fun x y => let d := (x.add y.neg).r32; (d.mul d).r32) a b).foldl (fun t x => (t.add x).r32) (Fp.ofInt 0)
  (Fp.quot sum (Fp.ofInt (max 1 a.length))).r32

/-! Latents and rehearsal (R328, R350 to R352) -/

/-- A slice of an encode picture as its analysis sees it: model, geometry, the lines it may read, the references. -/
abbrev AnaIn := Nat × (Nat × Nat × Nat × Nat) × List Byte × List (List (Nat × BlockRow))

/-- The latents that the analysis gives a run of block rows. -/
def anaRows (h : List Byte) (a : AnaIn) (first rows : Nat) : List (List Nat) :=
  (List.range rows).map (fun r => (List.range (192 * seqBC h)).map (fun x => Config.analysis a (first + r) x))

/-- A slice under rehearsal: the package, LAMBDA, the level held (R352), the source tile, what the synthesis reads beside the latents:
those of the rows around the slice, held constant (R351), and the references. -/
structure RehEnv where
  k : Package
  lambda : Nat
  ql : Nat
  tile : List Fp
  key : Nat × (Nat × Nat × Nat × Nat) × List (List Nat) × List (List (Nat × List (List Nat)))

/-- The loss L = R̂ + LAMBDA x D̂ of a slice's latents, with the samples of the Ad-lib synthesis (R350). -/
def rehLoss (e : RehEnv) (y : List Nat) : List Nat × Nat :=
  let z := (List.range e.tile.length).map (Config.rehSample e.key e.ql y)
  let d := meanSquare (z.map (Fp.of f32)) e.tile
  (z, (((Fp.of f32 (Config.rateProxy e.key e.ql y)).add ((Fp.of f32 e.lambda).mul d).r32).r32).code f32)

/-- A rehearsal iteration (R350): the loss, its gradients with respect to the slice's latents, the Adam step. The channel's histories
and t follow (R95, R109); the Boolean says that an update was suppressed. -/
def rehIter (e : RehEnv) (a : Codec × Refine × Bool) : Codec × Refine × Bool :=
  let y := a.2.1.w
  let l := rehLoss e y
  let g := (List.range y.length).map (fun i => Fp.of f32 (Config.rehGrad e.key e.ql y l.1 l.2 e.lambda i))
  let z := refineStep f32 e.k a.1 e.k.rehTensor [g] [a.2.1]
  let c := markStep e.k z.2.2 a.1
  ({ c with adamT := if z.2.1 then c.adamT + 1 else c.adamT }, z.1.headD a.2.1, a.2.2 || !z.2.1)

/-- `n` iterations. -/
def rehIters (e : RehEnv) : Nat → Codec × Refine × Bool → Codec × Refine × Bool
  | 0, a => a
  | n + 1, a => rehIters e n (rehIter e a)

/-- A list cut into rows. -/
def rowsOf (n : Nat) : Nat → List Nat → List (List Nat)
  | 0, _ => []
  | r + 1, l => l.take n :: rowsOf n r (l.drop n)

/-- The latents of a slice, analysed and rehearsed (R350 to R352): the rows, the channel's coding state after, whether an update was
suppressed. Without rehearsal t stays. -/
def sliceLatents (k : Package) (r h : List Byte) (c : Codec) (refs : List RefSlot) (pitch : Nat) (pic : List Byte) (first rows : Nat) : List (List Nat) × Codec × Bool :=
  let lines := refs.map RefSlot.lines
  let a : AnaIn := (modelId k, seqGeo h, srcLines h pitch (min (16 * (first + rows) + k.lowerHalo) (seqH h)) pic, lines)
  let y := anaRows h a first rows
  if enReh r = 0 then (y, c, false)
  else
    let top := min first k.synLead
    let halo := anaRows h a (first - top) top ++ anaRows h a (first + rows) (min k.synLag (seqBR h - (first + rows)))
    let e : RehEnv := { k, lambda := enLambda r, ql := if enRc r = 2 then enQlInit r else c.enc.ql, tile := (tileSamples h pitch first rows pic).map (fun (v : Nat) => Fp.ofInt v), key := (modelId k, seqGeo h, halo, lines) }
    let z := rehIters e (enReh r) ({ c with adamT := 1 }, freshRefine y.flatten, false)
    (rowsOf (192 * seqBC h) rows z.2.1.w, z.1, z.2.2)

/-! Rows (R294, R332) -/

/-- z of a hyper row, and what the conversions count (R57, R294). -/
def hyperSyms (c : RowCtx) (h : List Byte) (lat : List (List Nat)) (j : Nat) : List (Fp × (Int × Cstat)) :=
  (List.range (128 * c.hc)).map (fun n => let x := Fp.of f32 (Config.hyperAnalysis (c.id, seqGeo h) lat j n); (x, toInteger (-127) 127 0 x))

/-- 16 - log2 freq in FP32 (R80, R332); a bypass symbol's bits are exact. -/
def symBits (p : Nat × Nat) : Fp :=
  ((Fp.ofInt 16).add (Near.pick (nearLog2 p.2) (Config.log2Ulp (BitVec.ofNat 32 ((Fp.ofInt p.2).code f32)))).neg).r32

/-- The least natural number at or above a value. -/
def Fp.ceilNat : Fp → Nat
  | .fin neg m e => if neg then 0 else if 0 ≤ e then m * 2 ^ e.toNat else upDiv m (2 ^ (-e).toNat)
  | _ => 0

/-- The estimate of a row (R332): the bits of its bypass symbols and of its coded ones, added in FP32 in that order, the main substream
first (DESIGN CHOICE, log entry 188). -/
def estimate (byp : Nat) (l : List (Nat × Nat)) : Nat := (l.foldl (fun a p => (a.add (symBits p)).r32) (Fp.ofInt byp)).ceilNat

/-! Fine-tuning (R353, R354, R356) -/

/-- The BF16 codes of ADP_INIT that a layer's down-projection starts from: the layers follow one another in the tensor, each with
RANK_MAX rank channels of K codes of two bytes, of which a job takes the first (R354; DESIGN CHOICE, log entry 189). -/
def initDown (k : Package) (rank n : Nat) (l : AdpLayer) : List Nat :=
  let off := ((k.layers.take n).map (fun y => k.rankMax * y.k)).foldl (· + ·) 0
  (List.range (rank * l.k)).map (fun i => leAt k.adpInit (2 * (off + i)) 2)

/-- The parameters of a fine-tuning job at its start (R354). -/
def tuneParts (k : Package) (rank : Nat) : List Refine :=
  k.layers.zipIdx.flatMap (fun x => [freshRefine (initDown k rank x.2 x.1), freshRefine (List.replicate (x.1.cout * rank) 0)])

/-- What the synthesis of a fine-tuning job reads. -/
def Tuning.key (t : Tuning) (k : Package) (h : List Byte) : Nat × (Nat × Nat × Nat × Nat) × List (List Int) × List (List Nat) := (modelId k, seqGeo h, t.lat, t.parts.map Refine.w)

/-- The mean squared error of a step, with the samples of its synthesis (R353). -/
def tuneLoss (k : Package) (h : List Byte) (src : List Fp) (t : Tuning) : List Nat × Nat :=
  let z := (List.range src.length).map (Config.tuneSample (t.key k h))
  (z, (meanSquare (z.map (Fp.of f32)) src).code f32)

/-- A step of a fine-tuning job (R109, R353) on the source's samples: the job after, with the step's maxima. -/
def tuneStep (k : Package) (h : List Byte) (c : Codec) (src : List Fp) (j : Job) (t : Tuning) : Job :=
  let l := tuneLoss k h src t
  let gs := t.parts.zipIdx.map (fun p => (List.range p.1.w.length).map (fun i => Fp.of f32 (Config.tuneGrad (t.key k h) l.1 l.2 p.2 i)))
  let z := refineStep bf16 k c k.tuneTensor gs t.parts
  { j with tuning := some { t with parts := z.1, steps := t.steps + 1 }, update := if z.2.1 then 1 else 2, skipped := j.skipped || !z.2.1,
           marks := z.2.2.foldl (fun m e => tput m e.1 (joinMark (tget m (0, false) e.1) e.2)) j.marks }

/-- The adapters of a fine-tuning job, layer by layer. -/
def Tuning.layers (t : Tuning) (k : Package) (h : List Byte) : List Tuned :=
  (List.range k.layers.length).map (fun n => { down := ((t.parts[2 * n]?).map Refine.w).getD [], up := ((t.parts[2 * n + 1]?).map Refine.w).getD [], mag := Config.downMag (t.key k h) n })

end Sys2Proof.Machine
end

