-- ==== Sys2Proof/Machine/Encoder.lean ====
section
/-! DEFINITION. The picture sequencer and the rate governor of an encode channel (spec/08, R11, R307 to R310; spec/09, R322 to R368;
spec/07, R286 to R288; spec/16, R593). -/

namespace Sys2Proof.Machine

/-! Pictures and slices of a channel -/

/-- Update an encoder. -/
def modEnc (i : Nat) (f : Enc → Enc) (s : State) : State := modChan i (fun c => { c with codec := { c.codec with enc := f c.codec.enc } }) s

/-- Picture n of a channel. -/
def State.encPic (s : State) (i n : Nat) : Option EncPic := (s.chan i).codec.enc.pics.find? (fun p => p.n == n)

/-- Update picture n of a channel. -/
def modPic (i n : Nat) (f : EncPic → EncPic) (s : State) : State := modEnc i (fun e => { e with pics := e.pics.map (fun p => if p.n = n then f p else p) }) s

/-- Update slice k of a picture. -/
def EncPic.upd (p : EncPic) (k : Nat) (f : EncSlice → EncSlice) : EncPic := { p with slices := p.slices.zipIdx.map (fun x => if x.2 = k then f x.1 else x.1) }

/-- A job with the picture and slice it codes. -/
structure Coding where
  job : Job
  n : Nat
  k : Nat
  pic : EncPic
  slice : EncSlice
deriving DecidableEq, Repr

/-- The slice that a coding job works on. -/
def State.coding (s : State) (id : Nat) : Option Coding :=
  (tget? s.jobs id).bind (fun j => match j.work with
    | .slice n k => (s.encPic j.chan n).bind (fun p => (p.slices[k]?).map (fun x => ⟨j, n, k, p, x⟩))
    | _ => none)

/-! Releasing slices (R322 to R324, R348, R353) -/

/-- Whether a line of an input picture is in its buffer. -/
def InPic.has (p : InPic) (l : Nat) : Bool := p.whole.isSome || (tget? p.got l).isSome || p.filled.contains l

/-- Lines of a run of block rows, and the end of those their slice needs (R322). -/
def ownLines (h : List Byte) (first rows : Nat) : List Nat := (List.range (min (16 * (first + rows)) (seqH h) - 16 * first)).map (· + 16 * first)
def needEnd (h : List Byte) (k : Package) (first rows : Nat) : Nat := min (16 * (first + rows) + k.lowerHalo) (seqH h)

/-- The time of a slice's last input line (R217). -/
def InPic.sliceTime (p : InPic) (h : List Byte) (first rows now : Nat) : Nat :=
  match p.whole with | some t => t | none => ((ownLines h first rows).filterMap (tget? p.got)).max?.getD now

/-- A new coded picture of input `num` begins (R325, R330, R348, R349). -/
def beginPic (i num : Nat) (s : State) : State :=
  let c := s.chan i
  let r := c.rec_
  let e := c.codec.enc
  match c.codec.inputs.find? (fun p => p.num == num) with
  | none => s
  | some inp =>
    let intra := e.need || e.force || e.owed || e.prev.isNone || (enPeriod r != 0 && decide (enPeriod r ≤ e.since))
    let refs : List Nat := if intra then [] else match e.prev with
      | some (wasIntra, slot) => if enNref2 r && !wasIntra then [slot, 7] else [slot]
      | none => []
    let store := if intra then 7 else e.count % 2
    let p : EncPic := { n := e.n, count := e.count, pts := inp.pts, input := num, intra, forced := e.owed, lead := e.lead, refs, store }
    let hold := enSlices r c.seqHdr + bit (intra && enRank r != 0)
    let e := { e with n := e.n + 1, count := (e.count + 1) % 2 ^ 32, since := if intra then 1 else e.since + 1, need := false, force := false, owed := false, lead := false, prev := some (intra, store), pics := e.pics ++ [p] }
    let s := setChan i { c with codec := { c.codec with enc := e, inputs := c.codec.inputs.map (fun q => if q.num = num then { q with taken := true, hold } else q) } } s
    bump 0x30 Cnt.SEQ_INTRA_FORCED (bit p.forced) (bump 0x30 Cnt.SEQ_INTRA_PICS (bit intra) (armPersistent i num c.codec.made s))

/-- Release slice k of picture n (R322, R466, R601). -/
def releaseSlice (i n k : Nat) (s : State) : State :=
  let c := s.chan i
  let r := c.rec_
  match s.encPic i n with
  | none => s
  | some p =>
    match c.codec.inputs.find? (fun q => q.num == p.input) with
    | none => s
    | some inp =>
      let first := k * enSliceRows r
      let rows := min (enSliceRows r) (seqBR c.seqHdr - first)
      let codes := (if (ownLines c.seqHdr first rows).any (fun l => inp.filled.contains l) then [Code.W_LINES_MISSING] else []) ++
        (if p.forced && k == 0 then [Code.I_INTRA_FORCED] else [])
      let d := c.deadline (inp.sliceTime c.seqHdr first rows s.time)
      let s := addUnit i { chan := i, seq := 0, work := .slice n k, role := 0, deadline := d } s
      let seq := (s.chan i).seq
      let s := modPic i n (fun p => { p with slices := p.slices ++ [{ first, rows, seq, deadline := d, codes }] }) (bump 0x30 Cnt.SEQ_SLICES_RELEASED 1 s)
      swapBanks [0x30, 0x31, 0x32, 0x33, 0x34] (handleOf i c) seq (codes.foldl (fun a x => unitCode i seq x a) s)

/-- Whether every reference a picture names holds its stored reconstruction (R323). -/
def State.refsStored (s : State) (i : Nat) (refs : List Nat) (before : List EncPic) : Bool :=
  refs.all (fun x => (tget (s.chan i).codec.slots {} x).full && !s.stores.any (fun q => q.chan == i && q.slot == x) && !before.any (fun q => q.store == x && !q.stored))

/-- SLICE_RELEASE: the next slice of the picture in progress, or slice 0 of the next input picture. -/
def sliceRelease (i : Nat) (s : State) : State :=
  let c := s.chan i
  let r := c.rec_
  let h := c.seqHdr
  let e := c.codec.enc
  if c.ty ≠ 0 ∨ !c.admits ∨ c.bind.isNone ∨ s.standby then s
  else match c.pkg with
    | none => s
    | some k =>
      let ready (num first : Nat) : Bool := match c.codec.inputs.find? (fun p => p.num == num) with
        | some p => (List.range (needEnd h k first (min (enSliceRows r) (seqBR h - first)))).all p.has
        | none => false
      match e.pics.find? (fun p => decide (p.slices.length < enSlices r h)) with
      | some p =>
        if !ready p.input (p.slices.length * enSliceRows r) then s
        else if p.slices.isEmpty && !s.refsStored i p.refs (e.pics.filter (fun q => decide (q.n < p.n))) then s
        else releaseSlice i p.n p.slices.length s
      | none => match c.codec.inputs.find? (fun p => !p.taken) with
        | none => s
        | some inp =>
          if !ready inp.num 0 then s
          else
            let t := beginPic i inp.num s
            match t.encPic i e.n with
            | some p => if t.refsStored i p.refs e.pics then releaseSlice i p.n 0 t else s
            | none => s

/-- SLICE_RELEASE (R322, R323). -/
def execSliceRelease (handle : Word) (s : State) : Host.Outcome State Fault Refusal :=
  match s.chanOf handle.toNat with | some i => .next (sliceRelease i s) | none => .next s

/-- Line `y` of plane `pl` of a picture takes the nearest earlier line of the plane that was written, or mid-grey; `gone` are the missing
lines of the picture, `base` its buffer. -/
def fillLine (i : Nat) (h : List Byte) (pitch base : Nat) (gone : List Nat) (pl y : Nat) (s : State) : State :=
  let line (y : Nat) : Nat := base + planeAt h pitch pl + y * planePitch h pitch pl
  let sub := if planeH h pl = seqH h then 1 else 2
  let n := planeW h pl * seqB h
  let b := match ((List.range (y * sub)).filter (fun m => !gone.contains m)).getLast? with
    | some m => readVa s i (line (m / sub)) n []
    | none => sampleBytes (seqB h) (List.replicate (planeW h pl) (seqGrey h))
  writeVa i (line y) b .none (n / 65536 + 2) s

/-- The lines of a picture that count as missing are filled (R324, R364, R370): each takes the nearest earlier written line, or
mid-grey. `to` is the picture whose buffer they lie in. -/
def fillLines (i num : Nat) (s : State) : State :=
  let c := s.chan i
  match c.codec.inputs.find? (fun p => p.num == num), c.io with
  | some p, some io =>
    let h := c.seqHdr
    let gone := (List.range (seqH h)).filter (fun l => !p.has l)
    let base := io.inBase + num % max 1 io.inSlots * picBytes h io.inPitch
    let sub (pl : Nat) : Nat := if planeH h pl = seqH h then 1 else 2
    let s := (List.range 3).foldl (fun a pl =>
      ((List.range (planeH h pl)).filter (fun y => gone.contains (y * sub pl))).foldl (fun a y => fillLine i h io.inPitch base gone pl y a) a) s
    let s := if gone.isEmpty then s else bump 0x30 Cnt.SEQ_LINES_MISSING gone.length (holdRecord 0x30 Reg.SEQ_INPUT_LOSS_VALID
      [(Reg.SEQ_INPUT_LOSS_FIRST_LINE, gone.headD 0), (Reg.SEQ_INPUT_LOSS_LINES, min 8191 gone.length), (Reg.SEQ_INPUT_LOSS_DROPPED, 0),
       (Reg.SEQ_INPUT_CHAN_HANDLE, handleOf i c)] s)
    modChan i (fun x => { x with codec := { x.codec with inputs := x.codec.inputs.map (fun q => if q.num = num then { q with filled := gone, closed := true } else q) } }) s
  | _, _ => s

/-- LINE_TIMEOUT (R324): LINE_TO microseconds have passed since the last line of the channel's open input picture. -/
def execLineTimeout (handle : Word) (s : State) : Host.Outcome State Fault Refusal :=
  match s.chanOf handle.toNat with
  | none => .next s
  | some i =>
    match (s.chan i).codec.inputs.find? (fun p => !p.closed) with
    | none => .next s
    | some p =>
      if (s.chan i).ty ≠ 0 ∨ s.time < p.last + 1000 * max 1 (s.rf 0x30 Reg.SEQ_CTRL_LINE_TO) then .next s
      else .next (fillLines i p.num s)

/-! The governor (R333 to R345, R366 to R368) -/

/-- The governor starts picture n, at the dispatch of its first coding job. -/
def startGovernor (i n : Nat) (s : State) : State :=
  let c := s.chan i
  match s.encPic i n, c.pkg with
  | some p, some k =>
    if p.started then s
    else
      let r := c.rec_
      let z := govStart r c.seqHdr (modelId k) c.codec.enc p
      let q := if z.2.deferred then z.2.upd 0 (fun x => { x with codes := x.codes ++ [Code.I_ADP_DEFERRED] }) else z.2
      let s := modPic i n (fun _ => q) (modEnc i (fun _ => z.1) s)
      let s := if q.deferred then unitCode i ((q.slices.map EncSlice.seq).headD 0) Code.I_ADP_DEFERRED (bump 0x30 Cnt.SEQ_ADP_DEFERRED 1 s) else s
      bump 0x31 Cnt.RGV_HEADER_BITS (segBits q.head) (bump 0x31 Cnt.RGV_PICS_GOVERNED (bit (governed r)) s)
  | _, _ => s

/-- A curtain row of a slice (R341, R366): its code once for the slice, the record and the count once for the picture. -/
def noteCurtain (i n k row cause : Nat) (firstOfSlice : Bool) (s : State) : State :=
  match s.encPic i n with
  | none => s
  | some p =>
    let s := if firstOfSlice then unitCode i ((p.slices[k]?).map EncSlice.seq |>.getD 0) Code.W_RC_CURTAIN s else s
    if p.curtained then s
    else
      let s := holdRecord 0x31 Reg.RGV_CURTAIN_VALID [(Reg.RGV_CURTAIN_FIRST_ROW, row), (Reg.RGV_CURTAIN_CAUSE, cause), (Reg.RGV_CURTAIN_SLICE_INDEX, k),
        (Reg.RGV_CURTAIN_PIC_PIC_COUNT, p.count), (Reg.RGV_CURTAIN_CHAN_HANDLE, handleOf i (s.chan i))] s
      modPic i n (fun q => { q with curtained := true }) (bump 0x31 Cnt.RGV_CURTAIN_PICS 1 s)

/-- The sample of the probed channel after a commit (R367). -/
def sampleRgv (i n : Nat) (s : State) : State :=
  let c := s.chan i
  if !governed c.rec_ ∨ s.rf 0x31 Reg.RGV_PROBE_HANDLE ≠ handleOf i c then s
  else match s.encPic i n with
    | none => s
    | some p =>
      let q := (s.rf 0x31 Reg.RGV_PROBE_STAT_SEQ + 1) % 2 ^ 15
      let w := c.codec.enc.ql % 8 + bit p.curtain * 8 + q * 65536 + 2 ^ 31
      ((s.setReg 0x31 0x114 (BitVec.ofNat 32 w)).setReg 0x31 0x118 (BitVec.ofNat 32 p.a)).setReg 0x31 0x11C (BitVec.ofNat 32 p.c)

/-- RGV_PROBE_WRITE (R367). -/
def rgvProbe (w : Word) (s : State) : State := (((s.setReg 0x31 0x110 w).wf 0x31 Reg.RGV_PROBE_STAT_VALID 0).setReg 0x31 0x118 0).setReg 0x31 0x11C 0
def execRgvProbeWrite (w : Word) (s : State) : Host.Outcome State Fault Refusal := hostWrite 1 (rgvProbe w) s

/-- z of the hyper rows of committed rows. -/
def hyperRows (l : List EncRow) : List (List Int) := (l.zipIdx.filter (fun (x : EncRow × Nat) => x.2 % 4 == 0)).map (fun (x : EncRow × Nat) => x.1.syms.z)

/-- The next row of a slice as the players form it at a level (R92, R294, R328, R329): z with what their conversions count, the row. -/
def Coding.form (g : Coding) (c : RowCtx) (h : List Byte) (ql : Nat) : List (Fp × (Int × Cstat)) × CodedRow :=
  let r := g.slice.done.length
  let z := if r % 4 = 0 then hyperSyms c h g.slice.lat (r / 4) else []
  (z, formRow c (hyperRows g.slice.done ++ (if r % 4 = 0 then [z.map (·.2.1)] else [])) (g.slice.done.map EncRow.yhat) ql (g.slice.lat.getD r []))

/-- What a committed row codes: the row as formed, or a curtain row, whose q and z are 0 and whose level is the picture's (R270, R340). -/
def Coding.settle (g : Coding) (c : RowCtx) (z : List Int) (y : CodedRow) (d : EncRow) : EncRow :=
  if !d.curtain then { d with syms := ⟨z, y.q⟩, yhat := y.yhat }
  else
    let r := g.slice.done.length
    let z := if r % 4 = 0 then List.replicate (128 * c.hc) 0 else []
    { d with ql := g.pic.ql0, syms := ⟨z, []⟩, yhat := (codeRow c (hyperRows g.slice.done ++ (if r % 4 = 0 then [z] else [])) (g.slice.done.map EncRow.yhat) g.pic.ql0 []).yhat }

/-- Commit the next row of a slice (R328, R332, R338, R343). -/
def rowCommit (id : Nat) (g : Coding) (k : Package) (s : State) : State :=
  let i := g.job.chan
  let ch := s.chan i
  let r := ch.rec_
  let ql := ch.codec.enc.ql
  let lvl := if governed r then ql else enQlInit r
  let c := rowCtx k ch.seqHdr
  let f := g.form c ch.seqHdr lvl
  let z := f.1.map (·.2.1)
  let est := estimate (14 + 3 * bit (governed r)) (f.2.pairs ++ hyperPairs c z)
  let x := commitRow r ch.seqHdr ql g.k est g.pic g.slice
  let slice := { x.slice with done := g.slice.done ++ (x.slice.done.drop g.slice.done.length).map (g.settle c z f.2) }
  let curt := slice.done.getLast?.any (·.curtain)
  let s := countJob id k.hyperTensor true (f.1.map (fun e => (e.1, e.2.2))) s
  let s := modEnc i (fun e => { e with ql := x.ql }) (modPic i g.n (fun _ => x.pic.upd g.k (fun _ => slice)) s)
  let s := bump 0x31 Cnt.RGV_ESTIMATE_BITS est (bump 0x31 Cnt.RGV_ROWS_DECIDED 1 s)
  let s := bump 0x31 Cnt.RGV_QL_UP (bit x.up) (bump 0x31 Cnt.RGV_QL_DOWN (bit x.down) s)
  let s := if curt then noteCurtain i g.n g.k (g.slice.first + g.slice.done.length) 0 (!g.slice.done.any (·.curtain)) (bump 0x31 Cnt.RGV_ROWS_CURTAIN_RESERVE 1 s)
    else bump 0x31 Cnt.RGV_ROWS_AT_QL_MIN (bit (lvl == enQlMin r)) (bump 0x31 Cnt.RGV_ROWS_AT_QL_MAX (bit (lvl == enQlMax r)) (bump 0x31 Cnt.RGV_ROWS_CODED 1 s))
  sampleRgv i g.n s

/-- ROW_COMMIT (R328, R332, R338, R343, R345): the next row of the slice of a running coding job. -/
def execRowCommit (id row : Nat) (s : State) : Host.Outcome State Fault Refusal :=
  match s.coding id with
  | none => .next s
  | some g => match g.job.pkg with
    | none => .next s
    | some k => if g.job.st ≠ .running ∨ g.job.stop.isSome ∨ g.slice.st ≠ 1 ∨ g.slice.rows ≤ g.slice.done.length ∨ row ≠ g.slice.done.length then .next s else .next (rowCommit id g k s)

/-! The end of a picture in the house model -/

/-- Latents and levels of a picture by block row: ŷ is 0 where a slice was lost. -/
def EncPic.latents (p : EncPic) (h : List Byte) : Tbl (List Int) × Tbl Nat :=
  let l := p.slices.flatMap (fun x => (List.range x.rows).map (fun r => match x.done[r]? with
    | some d => (x.first + r, (if d.yhat.isEmpty then List.replicate (192 * seqBC h) 0 else d.yhat), d.ql)
    | none => (x.first + r, List.replicate (192 * seqBC h) 0, p.ql0)))
  (l.map (fun y => (y.1, y.2.1)), l.map (fun y => (y.1, y.2.2)))

/-- The governor leaves a picture every slice of which is closed or lost (R334, R342, R344); one whose slices were all lost before any
was dispatched counts with no bits. -/
def endPicture (i n : Nat) (s : State) : State :=
  let c := s.chan i
  let r := c.rec_
  match s.encPic i n with
  | none => s
  | some q =>
    if q.ended then s
    else
      let p := if q.started then q else { q with a := c.codec.enc.a }
      let z := govEnd r c.seqHdr c.codec.enc p
      let k := z.2.pad.length
      let cap : Bool := enRc r == 1 && decide (enBuf r < p.a - p.c + houseD r c.seqHdr p.n)
      let s := modPic i n (fun _ => z.2) (modEnc i (fun e => { z.1 with pics := e.pics }) s)
      bump 0x31 Cnt.RGV_PAD_SEGMENTS (bit (k != 0)) (bump 0x31 Cnt.RGV_PAD_BITS (8 * k) (bump 0x31 Cnt.RGV_CAP_EVENTS (bit cap) s))

/-- The reconstruction jobs that may begin (R346): those of slices up to which every slice is closed or lost. -/
def admitRecons (i n : Nat) : Nat → State → State
  | 0, s => s
  | fuel + 1, s =>
    let c := s.chan i
    match s.encPic i n with
    | none => s
    | some p =>
      match p.slices[p.reconNext]? with
      | some x =>
        if x.st < 4 ∨ c.dying.isSome ∨ c.stopping.any (·.2) then s
        else
          let s := modPic i n (fun p => { p with reconNext := p.reconNext + 1 }) s
          admitRecons i n fuel (addJob { chan := i, seq := x.seq, work := .recon n p.reconNext, role := 1, ens := c.ens, unit := false } s)
      | none => s

/-- A fine-tuning job of the channel is in progress. -/
def State.tuning (s : State) (i : Nat) : Bool := (s.chanJobs i).any (fun j => match j.2.work with | .tune _ => true | _ => false)

/-- Whether a picture's coding is over: every slice is released and closed or lost. -/
def EncPic.coded (p : EncPic) (n : Nat) : Bool := decide (n ≤ p.slices.length) && p.slices.all (fun x => decide (4 ≤ x.st))

/-- A picture leaves once every slice has its record and it is stored; PAD that no range took waits for the next boundary. -/
def leavePic (i n : Nat) (s : State) : State :=
  let c := s.chan i
  match s.encPic i n with
  | none => s
  | some p =>
    if p.coded (enSlices c.rec_ c.seqHdr) && p.stored && p.slices.all (fun x => x.st == 5 || x.st == 6) then
      let s := modEnc i (fun e => { e with pics := e.pics.filter (fun q => q.n ≠ n), auds := (if p.headOut && !p.pad.isEmpty then [p.pad] else []) ++ e.auds }) s
      modChan i (fun x => { x with codec := { x.codec with lastUnit := some p.count } }) s
    else s

/-- A fine-tuning job starts on an intra picture whose coding is over, unless one of the channel runs (R353, R354). -/
def admitTune (i : Nat) (p : EncPic) (s : State) : State :=
  let c := s.chan i
  match c.pkg with
  | none => releaseInput i p.input s
  | some k =>
    if s.tuning i || !c.admits then releaseInput i p.input s
    else
      let h := c.seqHdr
      let y := p.latents h
      let t : Tuning := { rank := enRank c.rec_, lat := (List.range (seqBR h)).map (fun x => synthIn16 k (seqBC h) (tget y.2 0 x) (tget y.1 [] x)), parts := tuneParts k (enRank c.rec_) }
      addJob { chan := i, seq := (p.slices.map EncSlice.seq).headD 0, work := .tune p.input, role := 2, ens := enAdEns c.rec_, unit := false, tuning := some t } s

/-- The pictures whose coding is over leave the governor in their order. -/
def settlePics (i : Nat) : Nat → State → State
  | 0, s => s
  | fuel + 1, s =>
    let c := s.chan i
    match c.codec.enc.pics.find? (fun p => !p.ended) with
    | none => s
    | some p =>
      if !p.coded (enSlices c.rec_ c.seqHdr) then s
      else
        let s := endPicture i p.n s
        settlePics i fuel (if p.intra && enRank c.rec_ != 0 then admitTune i p s else s)

/-- What follows when a slice has closed or is lost. -/
def resolveSlice (i n : Nat) (s : State) : State :=
  match s.encPic i n with
  | none => s
  | some p => leavePic i n (admitRecons i n (p.slices.length + 1) (settlePics i (s.chan i).codec.enc.pics.length s))

/-- The bits of a slice leave the house model (R344); the picture may have ended before. Then a(n + 1) grows by them, and by the header
segments and PAD of a picture of which nothing is emitted; in RC_MODE 0 PAD keeps it within BUF_BITS (R335, R342). -/
def uncharge (i n bits : Nat) (s : State) : State :=
  let r := (s.chan i).rec_
  match s.encPic i n with
  | none => s
  | some p =>
    if !governed r then s
    else if !p.ended then modPic i n (fun p => { p with c := p.c - bits }) s
    else
      let gone := p.slices.all (fun x => x.st == 6 || x.st == 7)
      let a := (s.chan i).codec.enc.a + bits + (if gone then segBits p.head + 8 * p.pad.length else 0)
      let past := if enRc r = 0 ∧ enBuf r < a ∧ !gone then max 2 ((a - enBuf r + 7) / 8) else 0
      let gain := (if enRc r = 1 then min (enBuf r) a else a - 8 * past) - (s.chan i).codec.enc.a
      modEnc i (fun e => { e with a := e.a + gain, pics := e.pics.map (fun q => if q.n = n then { q with pad := if gone then [] else if past = 0 then q.pad else if q.pad.isEmpty then padSeg past else padSeg (q.pad.length + past) } else if n < q.n ∧ q.started then { q with a := q.a + gain } else q) }) s

/-- A slice is not emitted: by failure or cancellation (R344, R349). `st` is its state after. -/
def loseSlice (i n k st : Nat) (s : State) : State :=
  match (s.encPic i n).bind (fun p => p.slices[k]?) with
  | none => s
  | some x =>
    let s := modPic i n (fun p => p.upd k (fun y => { y with st, charged := 0, dropped := st = 7 })) s
    let s := uncharge i n x.charged s
    resolveSlice i n (modEnc i (fun e => { e with owed := true }) (bump 0x30 Cnt.SEQ_SLICES_DROPPED 1 s))

/-! Gather and code phases (R11, R307 to R310, R339) -/

/-- Whether the table bank of a model holds its block. -/
def State.banked (s : State) (id : Nat) : Bool := s.tableBanks.contains (some id)

/-- The gather entries of the next committed row (R266 to R270, R308, R317). -/
def gatherRow (id : Nat) (g : Coding) (k : Package) (s : State) : State :=
  let i := g.job.chan
  let c := rowCtx k (s.chan i).seqHdr
  let gov := governed (s.chan i).rec_
  let r := g.slice.done.findIdx (fun x => !x.gathered)
  match g.slice.done[r]? with
  | none => s
  | some d =>
    let prev := g.slice.done.take r
    let a : CodedSlice := { yhat := prev.map EncRow.yhat, zs := hyperRows prev, side := g.slice.side, main := g.slice.main }
    let b := addRow c gov g.slice.first a r ⟨d.curtain, d.ql, d.syms⟩
    let clamps := (codeRow c b.zs a.yhat d.ql d.syms.q).clamps
    let zn := if r % 4 = 0 ∧ !d.curtain then 128 * c.hc else 0
    let qn := if d.curtain then 0 else 192 * c.bc
    let byp := 4 + bit (!d.curtain && gov)
    let last := r + 1 == g.slice.rows
    let s := if r = 0 ∧ !g.job.loaded then bump 0x33 Cnt.PTB_BANK_HITS 1 s else s
    let s := bump 0x33 Cnt.PTB_LOOKUPS_LAT qn (bump 0x33 Cnt.PTB_LOOKUPS_HYP zn (bump 0x33 Cnt.PTB_LOOKUPS_BYP byp s))
    let s := bump 0x33 Cnt.PTB_GATHER_ENTRIES (qn + zn + byp) (bump 0x33 Cnt.PTB_OFFSET_CLAMPS (if d.curtain then 0 else clamps) s)
    let s := modPic i g.n (fun p => p.upd g.k (fun x => { x with done := x.done.set r { d with gathered := true }, side := b.side, main := b.main, st := if last then 2 else x.st, readyAt := if last then s.time else x.readyAt })) s
    { s with jobs := s.jobs.map (fun (e : Nat × Job) => if e.1 = id then (e.1, { e.2 with moved := s.time }) else e) }

/-- GATHER_ROW (R308, R312): the tables of the channel's package must be in a bank. -/
def execGatherRow (id row : Nat) (s : State) : Host.Outcome State Fault Refusal :=
  match s.coding id with
  | none => .next s
  | some g =>
    match g.job.pkg with
    | none => .next s
    | some k => if g.job.st ≠ .running ∨ g.job.stop.isSome ∨ g.slice.st ≠ 1 ∨ !s.banked (modelId k) ∨ row ≠ g.slice.done.findIdx (fun x => !x.gathered) then .next s else .next (gatherRow id g k s)

/-- The segment of a slice whose rows from `cut` on are curtain rows, its symbols and what R298 makes of them (R262, R339, R340): of the
gather area as it stands where no row changes, of its entries written anew in a further pass. -/
def sliceSegment (g : Coding) (k : Package) (h : List Byte) (qlRow : Bool) (cut : Nat) : List Byte × CodedSlice × Nat :=
  let x := g.slice
  let rows : List RowIn := x.done.zipIdx.map (fun e =>
    let c := decide (cut ≤ e.2)
    { curtain := c, ql := if c then g.pic.ql0 else e.1.ql, syms := e.1.syms })
  let y : CodedSlice := if cut = x.done.findIdx (·.curtain) then { yhat := x.done.map EncRow.yhat, zs := hyperRows x.done, side := x.side, main := x.main }
    else codeSlice (rowCtx k h) qlRow x.first rows
  let side := ransEncode y.side
  let main := ransEncode y.main
  (segment 0xA3 (mkSlc (g.pic.count % 65536) g.k x.first x.rows side main), y, (side.length + main.length - 64) / 2)

/-- The largest number of coded rows, at most `k`, whose segment is within the charge (R339). -/
def fitRows (size : Nat → Nat) (charged : Nat) : Nat → Nat
  | 0 => 0
  | k + 1 => if size (k + 1) ≤ charged then k + 1 else fitRows size charged k

/-- SLICE_CLOSE on the slice in its code phase (R218, R298, R338, R339, R341, R344, R349, R364). -/
def sliceClose (g : Coding) (k : Package) (s : State) : State :=
  let i := g.job.chan
  let c := s.chan i
  let r := c.rec_
  let gov := governed r
  let size (n : Nat) : Nat := 8 * (sliceSegment g k c.seqHdr gov n).1.length
  let k0 := (g.slice.done.findIdx (·.curtain))
  let cut := if gov then fitRows size g.slice.charged k0 else k0
  let z := sliceSegment g k c.seqHdr gov cut
  let curt := g.slice.rows - cut
  let late : Bool := match g.slice.deadline with | some d => decide (d < s.time) | none => false
  let s := { s with slice := none }
  let s := if cut < k0 then
      let s := bump 0x31 Cnt.RGV_ROWS_CURTAIN_SIZE (k0 - cut) (bump 0x31 Cnt.RGV_RECODE_PASSES (k0 - cut) (bump 0x31 Cnt.RGV_RECODED_SLICES 1 s))
      noteCurtain i g.n g.k (g.slice.first + k0 - 1) 1 (k0 == g.slice.rows) s
    else s
  let x := if gov then 8 * z.1.length else 0
  let s := modPic i g.n (fun p => { (p.upd g.k (fun y => { y with st := 4, seg := z.1, side := z.2.1.side, main := z.2.1.main, charged := x, codes := y.codes ++ (if curt = 0 then [] else [Code.W_RC_CURTAIN]) ++ (if late then [Code.W_DEADLINE_MISS] else []), done := y.done.zipIdx.map (fun w => { w.1 with curtain := decide (cut ≤ w.2), ql := if cut ≤ w.2 then p.ql0 else w.1.ql, syms := if cut ≤ w.2 then ⟨w.1.syms.z.map (fun _ => 0), []⟩ else w.1.syms, yhat := z.2.1.yhat.getD w.2 [] }) })) with c := if gov then p.c - g.slice.charged + x else p.c }) s
  let s := bump 0x31 Cnt.RGV_CHARGED_BITS g.slice.charged (bump 0x31 Cnt.RGV_EXACT_BITS (8 * z.1.length) s)
  let s := bump 0x32 Cnt.RCA_SLICES_ENC 1 (bump 0x32 Cnt.RCA_SYM_SIDE z.2.1.side.length (bump 0x32 Cnt.RCA_SYM_MAIN z.2.1.main.length s))
  let s := bump 0x32 Cnt.RCA_WORDS_OUT z.2.2 (bump 0x32 Cnt.RCA_CURTAIN_ROWS curt s)
  let s := if late then
      let us := min 65535 ((s.time - g.slice.deadline.getD 0) / 1000)
      unitCode i g.slice.seq Code.W_DEADLINE_MISS (bump 0x30 Cnt.SEQ_DEADLINE_MISSES 1 (holdRecord 0x30 Reg.SEQ_MISS_VALID
        [(Reg.SEQ_MISS_LATE_US, us), (Reg.SEQ_MISS_SLICE_INDEX, g.k), (Reg.SEQ_MISS_CHAN_HANDLE, handleOf i c)] s))
    else s
  if late && setDrop c.settings then loseSlice i g.n g.k 7 s else resolveSlice i g.n s

/-! Emission (R286 to R288, R361, R402, R459, R465, R593) -/

/-- R593: whether bytes of picture `count` may leave. -/
def State.mirrorGate (s : State) (i count : Nat) : Bool :=
  s.rf 0x38 Reg.PAIR_CFG_ROLE != 1 || s.rf 0x38 Reg.PAIR_STATE_STATE != 3 || s.pair.excluded.contains i || decide (count < 2) ||
    (match (s.chan i).mirAck with | some a => decide ((a + 2 ^ 32 + 2 - count) % 2 ^ 32 < 2 ^ 31) | none => false)

/-- RTP timestamp of a PTS in ticks of a timescale (R288). -/
def rtpTime (pts scale : Nat) : Nat := pts * 90000 / max 1 scale % 2 ^ 32

/-- Emit the AUD segments, and PAD that no range took, that wait for a boundary, as far as there is room (R402). -/
def flushAuds (i : Nat) : Nat → State → State
  | 0, s => s
  | fuel + 1, s =>
    let c := s.chan i
    match c.codec.enc.auds with
    | [] => s
    | a :: t =>
      if !c.codec.enc.seqOut || !c.room a.length || (s.outBad i a.length).isSome then s
      else
        let h := unstuff (a.drop 2)
        let ts := if a.getD 1 0 = 0xA4 then hBits h 48 48 * 15 / 8 % 2 ^ 32 else c.codec.enc.rtpTs
        flushAuds i fuel (modEnc i (fun e => { e with auds := t }) (emitSeg i a false false c.codec.enc.picTag ts s))

/-- Emit the header segments of a picture (R361). -/
def emitHead (i : Nat) (p : EncPic) (s : State) : State :=
  let c := s.chan i
  let ts := rtpTime p.pts (seqScale c.seqHdr)
  let s := p.head.foldl (fun a g =>
    let code := g.getD 1 0
    let pic := code == 0xA2
    let a := if code = 0xA1 then modEnc i (fun e => { e with seqOut := true }) (bump 0x30 Cnt.SEQ_SEQ_WRITTEN 1 a) else if code = 0xA5 then bump 0x30 Cnt.SEQ_ADP_WRITTEN 1 a else a
    emitSeg i g (!pic || p.intra) false (if pic then p.count % 65536 else (a.chan i).codec.enc.picTag) ts a) s
  modPic i p.n (fun q => { q with headOut := true }) (modEnc i (fun e => { e with picTag := p.count % 65536, rtpTs := ts }) s)

/-- The job of slice k of picture n. -/
def State.sliceJob (s : State) (i n k : Nat) : Option (Nat × Job) := s.jobs.find? (fun (x : Nat × Job) => x.2.chan == i && x.2.work == .slice n k)

/-- Emit slice k of a picture, or record that it is not emitted, with the segments its range takes. -/
def emitSlice (i id : Nat) (j : Job) (p : EncPic) (k : Nat) (x : EncSlice) (s : State) : State :=
  let c := s.chan i
  let n := enSlices c.rec_ c.seqHdr
  let lost := x.st == 7
  let others := decide (n ≤ p.slices.length) && (p.slices.zipIdx.all (fun y => y.2 == k || y.1.st == 5 || y.1.st == 6))
  let head := if lost || p.headOut then [] else p.head
  let pad := if others && (p.headOut || !lost) then p.pad else []
  let fin := !c.stopping.isEmpty && !c.stopping.any (·.2) && !(s.chanJobs i).any (fun (y : Nat × Job) => y.1 != id && y.2.unit) && (c.codec.enc.seqOut || head.any (fun g => g.getD 1 0 == 0xA1))
  let bytes := (head.map List.length).foldl (· + ·) 0 + (if lost then 0 else x.seg.length) + pad.length + (if fin then 2 else 0)
  if !c.room bytes then s
  else match s.outBad i bytes with
    | some (a, w) => (match w with
      | .hold _ _ _ => s
      | _ => let z := walkFail i a true w s; stopJob id z.1 z.2)
    | none =>
      let made := c.codec.made
      let s := if head.isEmpty then s else emitHead i p s
      let ts := rtpTime p.pts (seqScale c.seqHdr)
      let s := if lost then s else emitSeg i x.seg p.intra (k + 1 == n) (p.count % 65536) ts (bump 0x30 Cnt.SEQ_SLICES_EMITTED 1 s)
      let s := if pad.isEmpty then s else modPic i p.n (fun q => { q with pad := [] }) (emitSeg i pad false false (p.count % 65536) (s.chan i).codec.enc.rtpTs s)
      let s := if fin then writeEnd i s else s
      let s := flushAuds i (c.codec.enc.auds.length) s
      let curt := if lost then 0 else (x.done.filter (·.curtain)).length
      let flags := bit lost + 4 * bit p.intra + 8 * bit (k + 1 == n) + 16 * bit fin
      let s := postUnit i x.seq none x.codes { flags, kind := 1, retries := j.retries, r0 := p.count + k * 2 ^ 32, r1 := made, r2 := bytes, r3 := curt } s
      let s := modPic i p.n (fun q => q.upd k (fun y => { y with st := if lost then 6 else 5 })) s
      leavePic i p.n (dropJob id s)

/-- SLICE_EMIT: the first slice of the channel's oldest picture that has no record, once it is closed and its coding job has
ended. -/
def sliceEmit (i : Nat) (s : State) : State :=
  match (s.chan i).codec.enc.pics.find? (fun p => p.slices.any (fun x => decide (x.st < 5 ∨ x.st = 7))) with
  | none => s
  | some p =>
    let k := p.slices.findIdx (fun x => decide (x.st < 5 ∨ x.st = 7))
    match p.slices[k]?, s.sliceJob i p.n k with
    | some x, some (id, j) =>
      if (x.st ≠ 4 ∧ x.st ≠ 7) ∨ j.st ≠ .offstage ∨ j.stop.isSome ∨ (!s.mirrorGate i p.count) ∨ s.standby then s
      else emitSlice i id j p k x s
    | _, _ => s

/-- SLICE_EMIT (R361). -/
def execSliceEmit (handle : Word) (s : State) : Host.Outcome State Fault Refusal :=
  match s.chanOf handle.toNat with
  | some i => if (s.chan i).ty = 0 then .next (sliceEmit i s) else .next s
  | none => .next s

/-! Reconstruction (R346, R359, R376) -/

/-- The reconstruction job of slice k ends (R346, R376): the block rows it releases; a failed job leaves them mid-grey. After the last
one the picture goes to its slot through the frame store compressor. -/
def reconEnd (i n k : Nat) (pkg : Package) (ok : Bool) (s : State) : State :=
  let c := s.chan i
  let h := c.seqHdr
  match s.encPic i n with
  | none => s
  | some p =>
    match p.slices[k]? with
    | none => s
    | some x =>
      let last := k + 1 == enSlices c.rec_ h
      let l := max p.synth (if last then seqBR h else min (x.first + x.rows - pkg.synLag) (seqBR h))
      let lat := p.latents h
      let refs := p.refs.map (fun v => tget c.codec.slots {} v)
      let rows := (List.range (l - p.synth)).map (· + p.synth)
      let lines := rows.foldl (fun t y => tput t y (if ok then synthRow h (synthIn pkg h lat.1 lat.2 p.adp refs y) y else greyRow h y)) p.lines
      let q := { (p.upd k (fun y => { y with recon := true })) with lines, synth := l }
      let s := modPic i n (fun _ => q) (bump 0x30 Cnt.SEQ_RECON_JOBS (bit ok) (countRefs (if ok then 3 * seqBR h * refs.length else 0) s))
      if last && q.slices.all (·.recon) then { s with stores := s.stores ++ [{ chan := i, slot := p.store, rows := rowOriginals h (fun y => tget q.lines [] y), geom := h, pic := some n }] }
      else s

/-! Fine-tuning (R356, R357, R360) -/

/-- A number of n bytes in two's complement, most significant byte first. -/
def beInt (n : Nat) (v : Int) : List Byte := beBytes n (wrapTo (8 * n) v)

/-- The codes of one channel's weights (R87, R356): the exponent by scale_exponent with F = 127 and MARGIN 0, then INT8. -/
def quantW (l : List Nat) : Int × List (Int × Fp × Cstat) :=
  let v := l.map (fun c => Fp.of bf16 c)
  let m := v.foldl (fun (a : Fp) x => if a.lt x.abs then x.abs else a) (Fp.ofInt 0)
  let e := scaleExponent m 0 127 (-126) 127
  (e, v.map (fun x => let r := toInteger (-127) 127 0 (x.scale (-e)); (r.1, x, r.2)))

/-- 2^e over the value of an FP32 code, rounded half away from zero. -/
def powOver (e : Int) (u : Nat) : Int :=
  match Fp.of f32 u with
  | .fin neg m x =>
    if m = 0 then 0
    else
      let d := e - x
      let n := if 0 ≤ d then 2 ^ d.toNat else 1
      let k := if 0 ≤ d then m else m * 2 ^ (-d).toNat
      let q : Int := ((2 * n + k) / (2 * k) : Nat)
      if neg then -q else q
  | _ => 0

/-- The weights of a projection, channel by channel. -/
def weightRows (v : List Nat) (n : Nat) : List (Int × List (Int × Fp × Cstat)) :=
  (List.range (v.length / max 1 n)).map (fun j => quantW ((v.drop (n * j)).take n))

/-- The record of one layer (R277, R356) and what its conversions count. -/
def tuneLayer (id rank : Nat) (l : AdpLayer) (t : Tuned) : List Byte × TStat :=
  let down := weightRows t.down l.k
  let up := weightRows t.up rank
  let eu := scaleExponent (Fp.of f32 t.mag) 0 32767 (-126) 127
  let rq (e : Int) : List Byte :=
    let z := Config.downScale id l.layer (e - eu)
    beBytes 4 z.1 ++ beBytes 1 (z.2 % 64) ++ beBytes 1 0 ++ beBytes 2 0 ++ beInt 2 (-(l.bound : Int)) ++ beInt 2 l.bound
  let um := up.zipIdx.map (fun x => powOver (x.1.1 + eu) (l.accUnit.getD x.2 0))
  let cl (v : Int) : Int := clampInt v (-(l.upMax : Int)) l.upMax
  let st := (down ++ up).foldl (fun (a : TStat) x => x.2.foldl (fun a y => a.add y.2.1 y.2.2) a) {}
  let st := { st with total := st.total + um.length, clip := sat32 (st.clip + (um.filter (fun v => cl v != v)).length) }
  (beBytes 2 l.layer ++ beBytes 1 rank ++ beBytes 1 0 ++ beBytes 4 l.k ++ beBytes 2 l.cout ++ beBytes 2 0 ++ (down.flatMap (fun x => x.2.flatMap (fun y => beInt 1 y.1))) ++
    (down.flatMap (fun x => rq x.1)) ++ (up.flatMap (fun x => x.2.flatMap (fun y => beInt 1 y.1))) ++ um.flatMap (fun v => beInt 4 (cl v)), st)

/-- The set of a fine-tuning job is quantised and takes the next ADAPTER_ID (R356, R357), or is abandoned where every step was suppressed
(R360); the input it read is free of it. -/
def adapterSet (id : Nat) (j : Job) (n : Nat) (k : Package) (t : Tuning) (s : State) : State :=
  let i := j.chan
  let h := (s.chan i).seqHdr
  let s := releaseInput i n s
  let s := if !j.updated then bump 0x30 Cnt.SEQ_ADAPT_ABANDONED 1 s
    else
      let r := List.zipWith (tuneLayer (modelId k) t.rank) k.layers (t.layers k h)
      let pay := r.flatMap (·.1)
      let st := r.foldl (fun (a : TStat) x => a.join x.2) {}
      let s := modChan i (fun c => { c with codec := { c.codec with stats := tput c.codec.stats 0xFFFF ((tget c.codec.stats {} 0xFFFF).join st) } }) s
      modEnc i (fun e => { e with fresh := some ⟨e.nextAdp, k.layers.length, pay⟩, nextAdp := if e.nextAdp = 65535 then 1 else e.nextAdp + 1 }) s
  dropJob id (bump 0x30 Cnt.SEQ_ADAPT_JOBS (bit j.updated) s)

/-- ADAPTER_SET_COMPLETE (R356, R357, R360): a fine-tuning job whose last step has ended. -/
def execAdapterSetComplete (id : Nat) (handle seq : Word) (s : State) : Host.Outcome State Fault Refusal :=
  match tget? s.jobs id with
  | none => .next s
  | some j => match j.work, j.pkg, j.tuning with
    | .tune n, some k, some t => if j.st ≠ .offstage ∨ j.stop.isSome ∨ !s.names j handle seq then .next s else .next (adapterSet id j n k t s)
    | _, _, _ => .next s

/-! Table banks and parity (R312, R315) -/

/-- A dispatched decode slice of a model that has yet to be entropy decoded. -/
def Job.decodes (j : Job) (m : Nat) : Bool :=
  j.st == .running && !j.coded && (match j.work, j.pkg with | .decode _ _ _ _ _, some k => modelId k == m | _, _ => false)

/-- Whether a coder uses the tables of a model: a slice in its gather phase, a decode slice, an audio frame. -/
def State.bankUsed (s : State) (m : Nat) : Bool :=
  s.jobs.any (fun (x : Nat × Job) => (match x.2.pkg with | some k => modelId k == m | none => false) && x.2.stop.isNone && (match x.2.work with
    | .slice _ _ => (match s.coding x.1 with | some g => g.slice.st == 1 && g.slice.done.any (·.gathered) | none => false)
    | .decode _ _ _ _ _ => (match s.slice with | some (id, _) => id == x.1 | none => false)
    | _ => x.2.coder.isSome))

/-- The dispatched decode slices of a model become ready for the array, its tables being there, or wait for them again (R11). -/
def decodesReady (m : Nat) (t : Option Nat) (s : State) : State :=
  { s with jobs := s.jobs.map (fun (x : Nat × Job) => (x.1, if x.2.decodes m then { x.2 with codeAt := t } else x.2)) }

/-- TABLE_BANK_LOAD for a job (R312): a bank that no coder uses takes the block of the job's package, an empty one first; which of two
free ones is a free value. -/
def tableBankLoad (id : Nat) (j : Job) (k : Package) (s : State) : State :=
  let m := modelId k
  let free := (List.range 2).filter (fun b => match s.tableBanks.getD b none with | some x => !s.bankUsed x | none => true)
  let empty := free.filter (fun b => (s.tableBanks.getD b none).isNone)
  let pick := if empty.isEmpty then free else empty
  if s.banked m ∨ free.isEmpty then s
  else
    let r := drawBelow pick.length s
    let b := pick.getD r.1 0
    let s := { r.2 with tableBanks := r.2.tableBanks.set b (some m), jobs := tput r.2.jobs id { j with loaded := true } }
    let s := decodesReady m (some s.time) (match r.2.tableBanks.getD b none with | some x => decodesReady x none s | none => s)
    bump 0x33 Cnt.PTB_LOADS 1 (bump 0x33 Cnt.PTB_LOAD_BYTES (if k.tables.isSome then 196640 else 65536) s)

/-- TABLE_BANK_LOAD: the job of a slice or audio frame whose identity is in neither bank. -/
def execTableBankLoad (id : Nat) (s : State) : Host.Outcome State Fault Refusal :=
  match tget? s.jobs id with
  | none => .next s
  | some j => match j.pkg, j.work with
    | some k, .slice _ _ => if j.st = .running ∧ j.stop.isNone then .next (tableBankLoad id j k s) else .next s
    | some k, .decode _ _ _ _ _ => if j.st = .running ∧ j.stop.isNone ∧ !j.coded then .next (tableBankLoad id j k s) else .next s
    | some k, .audEnc _ => if j.st = .running ∧ j.stop.isNone then .next (tableBankLoad id j k s) else .next s
    | some k, .audDec _ => if j.st = .running ∧ j.stop.isNone then .next (tableBankLoad id j k s) else .next s
    | _, _ => .next s

/-- The jobs that a parity error stops. -/
def parityStop (l : List Nat) (s : State) : State := l.foldl (fun a id => stopJob id Code.F_RCA_PARITY a) s

/-- RCA_PARITY_ERROR (R315): in a lane of coder `at_` below 8, or in table bank `at_` − 8. The slice or frame on the coder, or those
that use the bank, stop for a retry; the bank is marked empty. -/
def rcaParity (at_ : Nat) (s : State) : State :=
  if at_ < 8 then
    let l := if at_ < 2 then (match s.slice with | some (id, _) => [id] | none => []) else (s.jobs.filter (fun (x : Nat × Job) => x.2.coder == some at_)).map (·.1)
    if l.isEmpty then s else parityStop l (post 0x32 Code.F_RCA_PARITY (bump 0x32 Cnt.RCA_UPSETS 1 s))
  else match s.tableBanks.getD (at_ - 8) none with
    | none => s
    | some m =>
      let uses (x : Nat × Job) : Bool := match x.2.pkg with | some k => modelId k == m && ({ s with jobs := [x] } : State).bankUsed m | none => false
      let l := (s.jobs.filter uses).map (·.1)
      parityStop l (post 0x32 Code.F_RCA_PARITY (bump 0x33 Cnt.PTB_UPSETS 1 (decodesReady m none { s with tableBanks := s.tableBanks.set (at_ - 8) none })))

/-- RCA_PARITY_ERROR. -/
def execRcaParityError (at_ : Nat) (s : State) : Host.Outcome State Fault Refusal := .next (rcaParity at_ s)

end Sys2Proof.Machine
end

