-- ==== Sys2Proof/Machine/Audio.lean ====
section
/-! DEFINITION. Audio frames: coding, decoding, concealment, their samples and their records (spec/07, R273 to R275; spec/08, R295,
R301, R307; spec/10, R381, R396 to R405). -/

namespace Sys2Proof.Machine

/-- Update a job. -/
def modJob (id : Nat) (f : Job → Job) (s : State) : State :=
  match tget? s.jobs id with | some j => { s with jobs := tput s.jobs id (f j) } | none => s

/-- A job carries a code of its unit once. -/
def addCode (id code : Nat) (s : State) : State := modJob id (fun y => { y with codes := if y.codes.contains code then y.codes else y.codes ++ [code] }) s

/-- A unit's last computation has ended (R381): in real-time mode its close is held against its deadline; `slice` is the slice index
of a video unit, whose miss is recorded (R364). -/
def closeUnit (id : Nat) (slice : Option Nat) (s : State) : State :=
  match tget? s.jobs id with
  | none => s
  | some j =>
    let c := s.chan j.chan
    match j.deadline with
    | none => modJob id (fun x => { x with st := .offstage }) s
    | some d =>
      if s.time ≤ d then modJob id (fun x => { x with st := .offstage }) s
      else
        let s := match slice with
          | some k => bump 0x30 Cnt.SEQ_DEADLINE_MISSES 1 (holdRecord 0x30 Reg.SEQ_MISS_VALID
              [(Reg.SEQ_MISS_LATE_US, min 65535 ((s.time - d) / 1000)), (Reg.SEQ_MISS_SLICE_INDEX, k), (Reg.SEQ_MISS_CHAN_HANDLE, handleOf j.chan c)] s)
          | none => s
        unitCode j.chan j.seq Code.W_DEADLINE_MISS (modJob id (fun x => { x with st := .offstage, late := setDrop c.settings, codes := x.codes ++ [Code.W_DEADLINE_MISS] }) s)

/-! Symbols (R274, R397) -/

/-- The table index of a latent (R69, R397): the bucket of its scale value σ, an INT16. -/
def audIndex (k : Package) (hyp : List Int) (x : Nat) : Nat := bucket (k.buckets.getD k.audBucket []) (wrapS 16 (Config.audScale (modelId k) hyp x)) % 64

/-- The mean μ of a latent, within the bounds of R91. -/
def audMu (k : Package) (hyp : List Int) (x : Nat) : Int := clampInt (Config.audMean (modelId k) hyp x) (-32640) 32640

/-- The hyper symbols of a channel of a frame (R294), from the samples in its slot. -/
def audHyp (k : Package) (pcm : List Byte) (c n : Nat) : List Int := (List.range n).map (fun j => (toInteger (-127) 127 0 (Fp.of f32 (Config.audHyper (modelId k, pcm) c j))).1)

/-- Its latent symbols (R92, R93). -/
def audLat (k : Package) (pcm : List Byte) (c n : Nat) (hyp : List Int) : List Int := (List.range n).map (fun x => (qlat (Fp.of f32 (Config.audLatent (modelId k, pcm) c x)) (audMu k hyp x)).1)

/-- The pairs of one channel of a frame. -/
def audPairs (k : Package) (t : List Byte) (hyp lat : List Int) : List (Nat × Nat) :=
  hyp.zipIdx.map (fun x => tabPair t (0x8000 + 512 * x.2) x.1) ++ lat.zipIdx.map (fun x => tabPair t (512 * audIndex k hyp x.2) x.1)

/-- ŷ of one channel of a frame (R92, R397). -/
def audYhat (k : Package) (hyp lat : List Int) : List Int := lat.zipIdx.map (fun x => audMu k hyp x.2 + x.1)

/-- An audio frame as a substream (R274). -/
def audEncode (k : Package) (frame : Nat) (hyp lat : List (List Int)) : List Byte :=
  ransEncode ((List.zipWith (audPairs k (k.audTables.getD [])) hyp lat).flatten ++ [bypass 6 (frame % 64)])

/-- One channel of a frame read from a substream. -/
def audChannel (k : Package) (nh nl : Nat) (r : Rans) : List Int × Rans :=
  let t := k.audTables.getD []
  let h := ransRow t ((List.range nh).map (fun j => 0x8000 + 512 * j)) r
  let l := ransRow t ((List.range nl).map (fun e => 512 * audIndex k h.1 e)) h.2
  (audYhat k h.1 l.1, l.2)

/-- Decode a frame (R274, R275, R300 to R302): ŷ by channel, or none where it is concealed; the words read, whether R301 rejected it,
whether the end condition failed. -/
def audDecode (k : Package) (frame nch : Nat) (data : List Byte) : Option (List (List Int)) × Nat × Bool × Bool :=
  match ransOpen data, k.audSyms with
  | some r, some (nh, nl) =>
    let x := (List.range nch).foldl (fun (a : List (List Int) × Rans) _ => let c := audChannel k nh nl a.2; (a.1 ++ [c.1], c.2)) ([], r)
    let t := x.2.byp 6
    (if t.1 = frame % 64 ∧ t.2.ended then some x.1 else none, t.2.words, false, !t.2.ended)
  | _, _ => (none, 0, true, false)

/-! Concealment and synthesis (R398, R399, R401, R405) -/

/-- round_half_away(3 v / 4). -/
def threeQuarters (v : Int) : Int := if v < 0 then -((6 * -v + 4) / 8) else (6 * v + 4) / 8

/-- ŷ of concealed frame `i` of a run (R405). -/
def audFade (silence : Bool) (i : Nat) (y : List Int) : List Int := if silence ∨ 9 ≤ i then y.map (fun _ => 0) else y.map threeQuarters

/-- Sample n of a channel (R399). -/
def audSample (id : Nat) (before y : List Int) (n : Nat) : Int := signed 16 (Config.audHi id before y n) * 256 + (Config.audLo id before y n % 256 : Nat)

/-- A frame slot (R401). -/
def audPcm (id : Nat) (before y : List (List Int)) : List Byte :=
  (List.range 480).flatMap (fun n => (List.zipWith (fun a b => audSample id a b n) before y).flatMap (fun v => leBytes 4 (wrapTo 32 v)))

/-- The frame number of a job's frame, and its presentation time. -/
def Job.frame (j : Job) : Nat := match j.work with | .audEnc n => n % 2 ^ 32 | .audDec a => a.frame | _ => 0

/-- ŷ 0 of every channel. -/
def audZero (k : Package) (nch : Nat) : List (List Int) := List.replicate nch (List.replicate (match k.audSyms with | some x => x.2 | none => 0) 0)

/-! AUDIO_FRAME_CODE (R307) -/

/-- The lowest free audio coder. -/
def State.freeCoder (s : State) : Option Nat := ((List.range 6).map (· + 2)).find? (fun n => !s.jobs.any (fun (x : Nat × Job) => x.2.coder == some n))

/-- A frame on a coder is counted, and its hit on a table bank. -/
def audHit (j : Job) (s : State) : State := bump 0x33 Cnt.PTB_BANK_HITS (bit !j.loaded) (bump 0x32 Cnt.RCA_AUD_FRAMES 1 s)

/-- The symbols of a frame of `nch` channels are counted, with their lookups (R317, R319). -/
def audCount (nch nh nl : Nat) (s : State) : State :=
  bump 0x32 Cnt.RCA_SYM_AUD (nch * (nh + nl) + 1) (bump 0x33 Cnt.PTB_LOOKUPS_LAT (nch * nl) (bump 0x33 Cnt.PTB_LOOKUPS_HYP (nch * nh) (bump 0x33 Cnt.PTB_LOOKUPS_BYP 1 s)))

/-- The samples in the slot of an input frame (R401). -/
def State.framePcm (s : State) (i n : Nat) : List Byte :=
  let r := (s.chan i).rec_
  let z := 1920 * auNch r
  readVa s i (auBase r + n % max 1 (auFrames r) * z) z []

/-- A running job of an audio frame takes the lowest free coder, its tables being in a bank, and is coded or decoded. -/
def audFrame (id : Nat) (j : Job) (k : Package) (s : State) : State :=
  let c := s.chan j.chan
  let nch := auNch c.rec_
  match s.freeCoder, k.audSyms, j.work with
  | some n, some (nh, nl), .audEnc f =>
    let pcm := s.framePcm j.chan f
    let hyp := (List.range nch).map (fun c => audHyp k pcm c nh)
    let lat := hyp.zipIdx.map (fun x => audLat k pcm x.2 nl x.1)
    let data := audEncode k f hyp lat
    let pts := match c.codec.inputs.find? (fun p => p.num == f) with | some p => p.pts | none => 0
    let x := { j with coder := some n, seg := segment 0xA4 (mkAud (f % 2 ^ 32) pts nch data), yhat := List.zipWith (audYhat k) hyp lat, moved := s.time }
    audHit j (audCount nch nh nl (bump 0x32 Cnt.RCA_WORDS_OUT ((data.length - 32) / 2) { s with jobs := tput s.jobs id x }))
  | some n, some (nh, nl), .audDec a =>
    match a.data with
    | none => s
    | some data =>
      let r := audDecode k a.frame nch data
      let x := { j with coder := some n, yhat := r.1.getD [], moved := s.time }
      let s := audHit j (bump 0x32 Cnt.RCA_STATE_FAILS (bit r.2.2.1) (bump 0x32 Cnt.RCA_END_FAILS (bit r.2.2.2) (bump 0x32 Cnt.RCA_WORDS_IN r.2.1 { s with jobs := tput s.jobs id x })))
      let s := if r.2.2.1 then s else audCount nch nh nl s
      if r.1.isSome then s else unitCode j.chan j.seq Code.E_STREAM_SYNTAX (addCode id Code.E_STREAM_SYNTAX s)
  | _, _, _ => s

/-- AUDIO_FRAME_CODE. -/
def execAudioFrameCode (id : Nat) (handle seq : Word) (s : State) : Host.Outcome State Fault Refusal :=
  match tget? s.jobs id with
  | none => .next s
  | some j => match j.pkg with
    | some k => if j.st ≠ .running ∨ j.stop.isSome ∨ j.coder.isSome ∨ !s.banked (modelId k) ∨ !s.names j handle seq then .next s else .next (audFrame id j k s)
    | none => .next s

/-- Whether the coding or decoding of an audio job has ended. -/
def Job.audDone (j : Job) : Bool := match j.work with | .audEnc _ => j.coder.isSome | .audDec a => j.coder.isSome || a.data.isNone | _ => true

/-- An audio job's computation ends: the history of its channel, its samples, its close (R381, R399, R404, R405). -/
def audFinish (id : Nat) (s : State) : State :=
  match tget? s.jobs id with
  | none => s
  | some j =>
    let i := j.chan
    let c := s.chan i
    let k := j.pkg.getD {}
    let x := c.codec.aud
    let zero := audZero k (auNch c.rec_)
    let before := if x.hist.isEmpty || (match j.work with | .audDec a => a.reset | _ => false) then zero else x.hist
    let good := !j.yhat.isEmpty
    let y := if good then j.yhat else before.map (audFade (auSilence c.rec_) (x.run + 1))
    let s := modChan i (fun c => { c with codec := { c.codec with aud := { x with hist := y, run := if good then 0 else x.run + 1 } } }) s
    let s := match j.work with
      | .audEnc n => releaseInput i n s
      | _ => modJob id (fun z => { z with seg := audPcm (modelId k) before y }) s
    closeUnit id none (modJob id (fun z => { z with coder := none }) s)

/-! Delivery -/

/-- The SEQ that an audio stream of its own opens with (R400). -/
def audSeq (c : Chan) (k : Package) : List Byte := segment 0xA1 (fillModel c.seqHdr (modelId k))

/-- The record of an audio frame (R465), and the end of its job. -/
def audRecord (id : Nat) (j : Job) (slot bytes : Nat) (s : State) : State :=
  let conc : Bool := match j.work with | .audDec _ => j.yhat.isEmpty | _ => false
  let s := postUnit j.chan j.seq none j.codes { flags := bit j.late + 2 * bit conc, kind := 4, retries := j.retries, r0 := j.frame, r1 := slot, r2 := bytes } s
  let s := modChan j.chan (fun c => { c with codec := { c.codec with lastUnit := some j.frame, aud := { c.codec.aud with made := c.codec.aud.made + 1 } } }) s
  dropJob id s

/-- A coded frame is emitted: through the video stream it is multiplexed into, or in a stream of its own. -/
def audEmit (id : Nat) (j : Job) (s : State) : State :=
  let i := j.chan
  let c := s.chan i
  let slot := j.frame % max 1 (auFrames c.rec_)
  if j.late then audRecord id j slot 0 s
  else if auMux c.rec_ ≠ 0 then
    let s := match s.chanOf (auMux c.rec_) with
      | some v => if (s.chan v).codec.started then flushAuds v (s.chan v).codec.enc.auds.length.succ (modEnc v (fun e => { e with auds := e.auds ++ [j.seg] }) s) else s
      | none => s
    audRecord id j slot j.seg.length s
  else
    let head := if c.codec.enc.seqOut then [] else audSeq c (j.pkg.getD {})
    let n := head.length + j.seg.length
    if !c.room n then s
    else match s.outBad i n with
      | some (_, .hold _ _ _) => s
      | some (a, w) => let z := walkFail i a true w s; stopJob id z.1 z.2
      | none =>
        let ts := hBits (unstuff (j.seg.drop 2)) 48 48 * 15 / 8 % 2 ^ 32
        let s := if head.isEmpty then s else modEnc i (fun e => { e with seqOut := true }) (emitSeg i head true false 0 ts s)
        audRecord id j slot j.seg.length (emitSeg i j.seg false false 0 ts s)

/-- A decoded frame is written to its slot, or goes to its flow. -/
def audWrite (id : Nat) (j : Job) (s : State) : State :=
  let i := j.chan
  let c := s.chan i
  let r := c.rec_
  if auIo r = 1 then audRecord id j 0 0 (egressReady i j.seq (!j.late) j.seg s)
  else
    let n := max 1 (auFrames r)
    let slot := c.codec.made % n
    let bytes := if j.late then List.replicate (1920 * auNch r) 0 else j.seg
    let va := auBase r + slot * 1920 * auNch r
    if n ≤ c.codec.made - c.codec.head then s
    else match s.firstMiss i va bytes.length true with
      | some (_, .hold _ _ _) => s
      | some (a, w) => let z := walkFail i a true w s; stopJob id z.1 z.2
      | none =>
        let s := writeVa i va bytes .none (bytes.length / 65536 + 2) s
        audRecord id j slot 0 (modChan i (fun c => { c with codec := { c.codec with made := c.codec.made + 1 } }) s)

end Sys2Proof.Machine
end

