-- ==== Sys2Proof/Machine/Decoder.lean ====
section
/-! DEFINITION. Decode jobs: entropy decoding, synthesis, concealment, stores and delivery (spec/07, R259 to R264; spec/08, R299 to
R306, R318; spec/10, R370 to R388). -/

namespace Sys2Proof.Machine

/-- Update the decoder of a channel, and the picture it has in progress. -/
def modDec (i : Nat) (f : Dec → Dec) (s : State) : State := modChan i (fun c => { c with codec := { c.codec with dec := f c.codec.dec } }) s
def modDecPic (i : Nat) (f : DecPic → DecPic) (s : State) : State := modDec i (fun d => { d with pic := d.pic.map f }) s

/-- Rows of slice n of a picture. -/
def DecPic.rows (p : DecPic) (h : List Byte) (n : Nat) : List Nat := (List.range (min (p.sliceRows * (n + 1)) (seqBR h) - p.sliceRows * n)).map (· + p.sliceRows * n)

/-- The rows that concealed rows replace (R382). -/
def replacedRows (h : List Byte) (k : Package) (lost : List Nat) : List Nat :=
  (List.range (seqBR h)).filter (fun x => lost.any (fun r => decide (r ≤ x + k.synLag ∧ x ≤ r + k.synLead)))

/-- CONCEALED (R387). -/
def DecPic.concealed (p : DecPic) : Bool := !p.lost.isEmpty || p.whole || p.refDoubt || p.adpAbsent

/-! Entropy decoding (R299 to R306, R311) -/

/-- The decode slice of a job on the array is decoded: what its rows become, its code, its counters. -/
def decodeJob (id : Nat) (j : Job) (k : Package) (index first rows : Nat) (side main : List Byte) (s : State) : State :=
  let i := j.chan
  let d := (s.chan i).codec.dec
  let s := modJob id (fun y => { y with coded := true, moved := s.time }) (bump 0x33 Cnt.PTB_BANK_HITS (bit !j.loaded) { s with slice := none })
  match d.pic with
  | none => s
  | some p =>
    let h := d.seq
    let x := decodeSlice (rowCtx k h) p.qlRow p.ql first rows side main
    let good := x.yhat.length
    let lost := (List.range (rows - good)).map (· + first + good)
    let s := modDecPic i (fun p => { p with latents := x.yhat.zipIdx.foldl (fun t y => tput t (first + y.2) y.1) p.latents, qls := x.qls.zipIdx.foldl (fun t y => tput t (first + y.2) y.1) p.qls, lost := (p.lost.filter (fun r => decide (r < first ∨ first + rows ≤ r))) ++ lost }) s
    let tried := x.qls.length + bit (decide (2 ≤ x.kind))
    let s := bump 0x32 Cnt.RCA_SLICES_DEC 1 (bump 0x32 Cnt.RCA_SYM_SIDE (x.hyps + 2 * tried) (bump 0x32 Cnt.RCA_SYM_MAIN (x.lats + x.byps - 2 * tried) s))
    let s := bump 0x32 Cnt.RCA_WORDS_IN x.words (bump 0x32 Cnt.RCA_ROWS_PASSED (good + bit (x.kind == 4)) (bump 0x32 Cnt.RCA_CURTAIN_ROWS x.curtains s))
    let s := bump 0x32 Cnt.RCA_SKEWS (bit (x.kind == 3)) (bump 0x32 Cnt.RCA_OVERRUNS (bit (x.kind == 2)) (bump 0x32 Cnt.RCA_END_FAILS x.ends (bump 0x32 Cnt.RCA_STATE_FAILS (bit (x.kind == 1)) s)))
    let s := bump 0x33 Cnt.PTB_LOOKUPS_LAT x.lats (bump 0x33 Cnt.PTB_LOOKUPS_HYP x.hyps (bump 0x33 Cnt.PTB_LOOKUPS_BYP x.byps (bump 0x33 Cnt.PTB_OFFSET_CLAMPS x.clamps s)))
    let s := bump 0x30 Cnt.SEQ_SLICES_DECODED 1 (bump 0x30 Cnt.SEQ_SLICES_CONCEALED (bit (x.code != 0)) s)
    let (e, st, mt, ss, ms, r) := x.skew
    let s := if x.kind = 3 then holdRecord 0x32 Reg.RCA_SKEW_VALID
        [(Reg.RCA_SKEW_EXPECTED, e), (Reg.RCA_SKEW_SIDE_TAG, st), (Reg.RCA_SKEW_MAIN_TAG, mt), (Reg.RCA_SKEW_SIDE_SKIP, ss), (Reg.RCA_SKEW_MAIN_SKIP, ms),
         (Reg.RCA_SKEW_ROW, r), (Reg.RCA_SKEW_POS_PIC_TAG, p.count % 65536), (Reg.RCA_SKEW_POS_SLICE_INDEX, index), (Reg.RCA_SKEW_CHAN_HANDLE, handleOf i (s.chan i))] s
      else s
    if x.code = 0 then s else unitCode i j.seq x.code (addCode id x.code s)

/-! The array takes slices one at a time (R11, R307 to R309)

JOB_DISPATCH puts a decode slice on its players; the array takes it in its turn among all slices at CODE_PHASE_START, and what it
decodes to stands when the slice closes (DEDUCED, log entry 190). -/

/-- A slice ready for the array: its job, when it became ready, its channel, the coding of an encode slice. -/
structure ReadySlice where
  id : Nat
  at_ : Nat
  chan : Nat
  coding : Option Coding

/-- The slices that are ready for the array (R11). -/
def State.readySlices (s : State) : List ReadySlice :=
  s.jobs.filterMap (fun (x : Nat × Job) =>
    if x.2.stop.isSome then none
    else match s.coding x.1, x.2.codeAt with
      | some g, _ => if g.slice.st = 2 then some ⟨x.1, g.slice.readyAt, x.2.chan, some g⟩ else none
      | none, some t => if x.2.st = .running ∧ !x.2.coded then some ⟨x.1, t, x.2.chan, none⟩ else none
      | none, none => none)

/-- Whether a ready slice is taken before another. -/
def ReadySlice.before (a b : ReadySlice) : Bool := decide (a.at_ < b.at_) || (a.at_ == b.at_ && decide (a.chan < b.chan))

/-- The one that is taken first. -/
def firstReady (l : List ReadySlice) : Option ReadySlice :=
  l.foldl (fun (b : Option ReadySlice) x => match b with | some y => if x.before y then some x else b | none => some x) none

/-- A ready slice goes on coders 0 and 1; an encode slice of more symbols than the gather area holds fails. -/
def takeSlice (x : ReadySlice) (s : State) : State :=
  let c := s.chan x.chan
  match x.coding with
  | none => ({ s with slice := some (x.id, 1) } : State).wf 0x32 Reg.RCA_SLICE_HANDLE (handleOf x.chan c)
  | some g =>
    if s.rf 0x32 Reg.RCA_CTRL_GATHER * 16384 < sliceSyms c.rec_ c.seqHdr then
      stopJob x.id Code.E_RCA_SLICE_SIZE (unitCode x.chan g.job.seq Code.E_RCA_SLICE_SIZE (bump 0x32 Cnt.RCA_GATHER_REJECTS 1 s))
    else
      (modPic x.chan g.n (fun p => p.upd g.k (fun y => { y with st := 3 })) { s with slice := some (x.id, 0) }).wf 0x32 Reg.RCA_SLICE_HANDLE (handleOf x.chan c)

/-- CODE_PHASE_START (R11, R308, R309). -/
def execCodePhaseStart (s : State) : Host.Outcome State Fault Refusal :=
  match s.slice, firstReady s.readySlices with
  | none, some x => .next (takeSlice x s)
  | _, _ => .next s

/-- SLICE_CLOSE (R11, R339): the slice on the array, encoded or decoded, closes. -/
def execSliceClose (s : State) : Host.Outcome State Fault Refusal :=
  match s.slice with
  | none => .next s
  | some (id, _) =>
    match tget? s.jobs id, s.coding id with
    | some j, none => (match j.work, j.pkg with
      | .decode index first rows side main, some k => if j.stop.isNone then .next (decodeJob id j k index first rows side main s) else .next s
      | _, _ => .next s)
    | _, some g => (match g.job.pkg with
      | some k => if g.slice.st = 3 ∧ g.job.stop.isNone then .next (sliceClose g k s) else .next s
      | none => .next s)
    | none, none => .next s

/-! Concealment and synthesis (R376, R382 to R388) -/

/-- A sample of a stored picture by row and column of a plane. -/
def lineSample (h : List Byte) (lines : List (Nat × BlockRow)) (p y x : Nat) : Int :=
  let n := if planeH h p = seqH h then 16 else 8
  ((((tget lines [] (y / n)).getD p []).getD ((y % n) * planeW h p + x) 0 : Nat) : Int)

/-- The hold picture of a channel where its geometry is that of the sequence (R383, R385). -/
def Codec.holdLines (c : Codec) (h : List Byte) : Option (List (Nat × BlockRow)) :=
  let r := tget c.slots {} 8
  if r.full && seqW r.geom == seqW h && seqH r.geom == seqH h && seqChroma r.geom == seqChroma h && seqDepth r.geom == seqDepth h then some r.lines else none

/-- A row under HOLD. -/
def holdRow (c : Codec) (h : List Byte) (x : Nat) : BlockRow := match c.holdLines h with | some l => tget l [] x | none => greyRow h x

/-- The row whose flow a replaced row takes (R384), among the rows released so far. -/
def flowRow (released : Nat) (replaced : List Nat) (x : Nat) : Option Nat :=
  ((List.range released).filter (fun y => !replaced.contains y)).foldl (fun (b : Option Nat) y => match b with
    | some z => if (if y < x then x - y else y - x) < (if z < x then x - z else z - x) then some y else b
    | none => some y) none

/-- A row warped from REF0 with the flow of row y (R72, R384). -/
def warpRow (h : List Byte) (input : SynthIn) (ref : List (Nat × BlockRow)) (x y : Nat) : BlockRow :=
  (List.range 3).map (fun p =>
    let w := planeW h p
    (List.range (rowLines h p x)).flatMap (fun l => (List.range w).map (fun c =>
      let f := Config.flow input y p (l * w + c)
      (warp (lineSample h ref p) w (planeH h p) f.1 f.2 c (rowFirst h p x + l)).toNat % 2 ^ seqBitDepth h)))

/-- A block row of the picture in progress as it is released (R376, R382 to R384). -/
def decRow (c : Codec) (k : Package) (conceal upto : Nat) (p : DecPic) (replaced : List Nat) (x : Nat) : BlockRow :=
  let h := c.dec.seq
  let refs := p.refs.map (fun v => tget c.slots {} v)
  let input (y : Nat) : SynthIn := synthIn k h p.latents p.qls p.adp refs y
  if !replaced.contains x then synthRow h (input x) x
  else match conceal with
    | 0 => holdRow c h x
    | 1 => match refs.head?, flowRow upto replaced x with
      | some r, some y => if p.intra || !r.full then holdRow c h x else warpRow h (input y) r.lines x y
      | _, _ => holdRow c h x
    | _ => greyRow h x

/-- The substitute of a whole picture (R388). -/
def substitute (c : Codec) (h : List Byte) (x : Nat) : BlockRow :=
  match ((List.range 8).map (fun n => tget c.slots {} n)).foldl (fun (b : Option RefSlot) r => if !r.full then b else match b with | some y => if y.order < r.order then some r else b | none => some r) none with
  | some r => tget r.lines [] x
  | none => greyRow h x

/-- The block rows that a decode job releases up to (R376). -/
def Job.upto (j : Job) (h : List Byte) (k : Package) (p : DecPic) : Nat :=
  match j.work with
  | .decode n first rows _ _ => if n + 1 = p.nslices then seqBR h else min (first + rows - k.synLag) (seqBR h)
  | _ => seqBR h

/-- Whether a decode job is the last of its picture. -/
def Job.picEnd (j : Job) (p : DecPic) : Bool := match j.work with | .decode n _ _ _ _ => n + 1 == p.nslices | _ => true

/-- A decode job's computation ends: its rows are released, and after the last of them the picture goes to its slot or to the hold
buffer, and its loss is reported (R259, R264, R376 to R388). -/
def decFinish (id : Nat) (s : State) : State :=
  match tget? s.jobs id with
  | none => s
  | some j =>
    let i := j.chan
    let c := s.chan i
    let k := j.pkg.getD {}
    let h := c.codec.dec.seq
    match c.codec.dec.pic with
    | none => modJob id (fun x => { x with st := .offstage }) s
    | some p =>
      let upto := max p.released (j.upto h k p)
      let rep := replacedRows h k p.lost
      let rows := (List.range (upto - p.released)).map (· + p.released)
      let row (x : Nat) : BlockRow := if p.whole then substitute c.codec h x else decRow c.codec k (deConceal c.rec_) upto p rep x
      let fin := j.picEnd p
      let q := { p with lines := rows.foldl (fun t x => tput t x (row x)) p.lines, released := upto, replaced := if p.whole then [] else rep.filter (fun x => decide (x < upto)), codes := if fin && p.missing then p.codes ++ [Code.W_SLICE_ABSENT] else p.codes }
      let s := modDecPic i (fun _ => q) (countRefs (if p.whole ∨ rows.isEmpty then 0 else 3 * seqBR h * p.refs.length) s)
      let s := if fin && p.missing then unitCode i j.seq Code.W_SLICE_ABSENT s else s
      let s := if fin then
          let s := bump 0x30 Cnt.SEQ_PICS_DECODED 1 s
          let orig := rowOriginals h (fun y => tget q.lines [] y)
          match p.store with
          | some n => { s with stores := s.stores ++ [{ chan := i, slot := n, rows := orig, doubt := q.concealed, geom := h }] }
          | none => if q.concealed then s else { s with stores := s.stores ++ [{ chan := i, slot := 8, rows := orig, geom := h }] }
        else s
      if j.unit || fin then
        let s := closeUnit id (match j.work with | .decode n _ _ _ _ => some n | _ => some 65535) s
        if deDeliver c.rec_ && (tget? s.jobs id).any Job.late then modDecPic i (fun p => { p with dropped := true }) s else s
      else modJob id (fun x => { x with st := .offstage }) s

/-! Delivery (R370, R372, R378, R379) -/

/-- The bytes of a block row of a plane. -/
def rowBytes (h : List Byte) (lines : Tbl (List (List Nat))) (p x : Nat) : List (List Byte) :=
  let w := planeW h p
  let l := (tget lines [] x).getD p []
  (List.range (rowLines h p x)).map (fun y => sampleBytes (seqB h) ((l.drop (w * y)).take w))

/-- The lines of block row x of a picture in a buffer at `base`: address and bytes of each. -/
def rowWrites (h : List Byte) (base pitch : Nat) (lines : Tbl (List (List Nat))) (x : Nat) : List (Nat × List Byte) :=
  (List.range 3).flatMap (fun p => (rowBytes h lines p x).zipIdx.map (fun y => (base + planeAt h pitch p + (rowFirst h p x + y.2) * planePitch h pitch p, y.1)))

/-- The first place of a list of writes that does not translate. -/
def State.writesBad (s : State) (i : Nat) (l : List (Nat × List Byte)) : Option (Nat × Walk) := l.findSome? (fun x => s.firstMiss i x.1 x.2.length true)

/-- Make a list of writes. -/
def writeAll (i : Nat) (l : List (Nat × List Byte)) (s : State) : State := l.foldl (fun a x => writeVa i x.1 x.2 .none (x.2.length / 65536 + 2) a) s

/-- FIRST_LOST (R378). -/
def DecPic.firstLost (p : DecPic) : Nat := p.lost.min?.getD 0xFFFF

/-- A decoded picture record (R378). -/
def picRecord (p : DecPic) (buf : Nat) (valid : Bool) (time : Nat) : List Byte :=
  let w := buf + bit valid * 2 ^ 6 + bit p.concealed * 2 ^ 7 + bit (!p.lost.isEmpty) * 2 ^ 8 + bit p.whole * 2 ^ 9 + bit p.refDoubt * 2 ^ 10 + bit p.adpAbsent * 2 ^ 11 + bit p.dropped * 2 ^ 14
  leBytes 4 p.count ++ leBytes 4 w ++ leBytes 6 p.pts ++ leBytes 2 (match p.adp with | some a => a.id | none => 0) ++ leBytes 2 p.firstLost ++ leBytes 2 p.replaced.length ++ leBytes 4 0 ++ leBytes 8 time

/-- The writes of a picture record (R379): VALID clear, every field, VALID set. -/
def recordWrites (base : Nat) (p : DecPic) (buf time : Nat) : List (Nat × List Byte) :=
  if base = 0 then []
  else
    let a := base + 32 * buf
    let off := picRecord p buf false time
    [(a + 4, leBytes 4 0), (a, off), (a + 4, ((picRecord p buf true time).drop 4).take 4)]

/-- A picture as one run of bytes, plane by plane, for an egress. -/
def picSamples (h : List Byte) (lines : Tbl (List (List Nat))) : List Byte :=
  (List.range 3).flatMap (fun p => (List.range (seqBR h)).flatMap (fun x => (rowBytes h lines p x).flatten))

/-- The record of a decode unit (R465), the end of its job, and of its picture. -/
def decRecord (id : Nat) (j : Job) (p : DecPic) (fin : Bool) (buf : Nat) (s : State) : State :=
  let i := j.chan
  let c := s.chan i
  let index : Nat := if deDeliver c.rec_ then 0xFFFF else match j.work with | .decode n _ _ _ _ => n | _ => 0xFFFF
  let post := j.unit || fin
  let s := modDecPic i (fun q => { q with wrote := p.wrote, dropped := p.dropped, codes := if post then [] else p.codes ++ j.codes, retries := q.retries + j.retries, gone := fin }) s
  let s := if post then
      let flags := bit j.late + 2 * bit p.concealed + 4 * bit p.intra + 8 * bit fin
      postUnit i (if deDeliver c.rec_ then p.seq.getD j.seq else j.seq) none (p.codes ++ j.codes)
        { flags, kind := 2, retries := if deDeliver c.rec_ then p.retries + j.retries else j.retries, r0 := p.count + index * 2 ^ 32 + buf * 2 ^ 48, r1 := p.pts, r2 := p.firstLost + p.replaced.length * 65536 } s
    else s
  let s := if fin then modChan i (fun c => { c with codec := { c.codec with lastUnit := some p.count, made := c.codec.made + bit (deMode c.rec_ == 0) } }) s else s
  dropJob id s

/-- Whether the lines of a job are not written (R381): its unit closed late under DROP. -/
def Job.withheld (j : Job) (r : List Byte) (p : DecPic) : Bool := j.late || (deDeliver r && p.dropped)

/-- Deliver what a decode job released. -/
def decWrite (id : Nat) (j : Job) (s : State) : State :=
  let i := j.chan
  let c := s.chan i
  let r := c.rec_
  let h := c.codec.dec.seq
  match c.codec.dec.pic with
  | none => dropJob id s
  | some p =>
    let k := j.pkg.getD {}
    let fin := j.picEnd p
    let upto := j.upto h k p
    let q := { p with wrote := max p.wrote upto, dropped := p.dropped || j.late }
    if deMode r = 0 then
      let slots := deSlots r
      let buf := c.codec.made % max 1 slots
      let base := deBase r + buf * picBytes h (dePitch r)
      let rows := (List.range (upto - p.wrote)).map (· + p.wrote)
      let l := (if j.withheld r p then [] else rows.flatMap (rowWrites h base (dePitch r) p.lines)) ++ (if fin then recordWrites (deInfo r) q buf s.time else [])
      if slots ≤ c.codec.made - c.codec.head then s
      else match s.writesBad i l with
        | some (_, .hold _ _ _) => s
        | some (a, w) => let z := walkFail i a true w s; stopJob id z.1 z.2
        | none => decRecord id j q fin buf (writeAll i l s)
    else
      let s := if deMode r = 1 ∧ fin then egressReady i p.num (!q.dropped) (picSamples h p.lines) s else s
      decRecord id j q fin 0 s

/-! Enhancement (R391 to R393, R395) -/

/-- A block row of a plane of an input picture, as the stages pass it on that are off (R391). -/
def inputRow (h : List Byte) (pitch p z : Nat) (l : List Byte) : List Nat :=
  (List.range (rowLines h p z)).flatMap (fun y => samplesOf (seqB h) (srcLine h pitch p (rowFirst h p z + y) l))

/-- An output picture of an ENH channel, by block row (R391 to R393): made of one input picture, interpolated between two, or a copy of
the earlier one where the scene-cut score is at least CUT_THR; an input picture as it is where no stage changes it. -/
def enhPicture (s : State) (j : Job) (a b pts : Nat) : Tbl (List (List Nat)) :=
  let i := j.chan
  let r := (s.chan i).rec_
  let hin := enhGeom s i (nhW r) (nhH r)
  let h := enhGeom s i (nhW r * nhSr r) (nhH r * nhSr r)
  let x := inputBytes s i a hin
  let y := inputBytes s i b hin
  let m := modelId (j.pkg.getD {})
  let cut := a != b && !(Fp.of f32 (Config.cutScore m x y)).lt (Fp.of f32 (nhCut r))
  let pa := match (s.chan i).codec.inputs.find? (fun p => p.num == a) with | some p => p.pts * nhInterp r | none => pts
  let key := (m, (s.sizes j.ens).1, r, (if cut then x else if a = b then y else x), (if cut then x else y), if cut then pa else pts)
  let pass := nhSr r == 1 && !nhSharp r && (a == b || cut)
  let pitch := match (s.chan i).io with | some x => x.inPitch | none => 0
  (List.range (seqBR h)).map (fun z => (z, (List.range 3).map (fun p =>
    if pass then inputRow hin pitch p z (if cut then x else y)
    else (List.range (rowLines h p z * planeW h p)).map (fun n => Config.enhSample key (p * 65536 + z) n % 2 ^ seqBitDepth h))))

/-- An enhancement job's computation ends: the input buffers it read are free of it (R325). -/
def enhFinish (id a b pts : Nat) (s : State) : State :=
  match tget? s.jobs id with
  | none => s
  | some j =>
    let r := (s.chan j.chan).rec_
    let h := enhGeom s j.chan (nhW r * nhSr r) (nhH r * nhSr r)
    let y := picSamples h (enhPicture s j a b pts)
    let s := releaseInput j.chan b (if a = b then s else releaseInput j.chan a s)
    closeUnit id none (modJob id (fun x => { x with seg := y }) s)

/-- The lines of a picture kept as one run of bytes, as writes into a buffer. -/
def sampleWrites (h : List Byte) (base pitch : Nat) (l : List Byte) : List (Nat × List Byte) :=
  ((List.range 3).foldl (fun (a : List (Nat × List Byte) × List Byte) p =>
    let n := planeW h p * seqB h
    (a.1 ++ (List.range (planeH h p)).map (fun y => (base + planeAt h pitch p + y * planePitch h pitch p, (a.2.drop (n * y)).take n)), a.2.drop (n * planeH h p))) ([], l)).1

/-! Input pictures that arrive line by line (R322, R324, R325) -/

/-- The first line of a new picture arrives: the one before it is closed, its missing lines filled; without a free buffer the new one
is discarded. Answers whether it was taken. -/
def openInput (i pts : Nat) (s : State) : Bool × State :=
  let c := s.chan i
  let s := match c.codec.inputs.find? (fun p => !p.closed) with
    | some p => if c.ty = 0 then fillLines i p.num s else modChan i (fun x => { x with codec := { x.codec with inputs := x.codec.inputs.map (fun q => if q.num = p.num then { q with closed := true } else q) } }) s
    | none => s
  let c := s.chan i
  let s := bump 0x30 Cnt.SEQ_PICS_IN 1 s
  if c.inCap ≤ c.codec.total - c.codec.used then
    let s := holdRecord 0x30 Reg.SEQ_INPUT_LOSS_VALID [(Reg.SEQ_INPUT_LOSS_FIRST_LINE, 0), (Reg.SEQ_INPUT_LOSS_LINES, 0), (Reg.SEQ_INPUT_LOSS_DROPPED, 1), (Reg.SEQ_INPUT_CHAN_HANDLE, handleOf i c)] s
    let s := bump 0x30 Cnt.SEQ_PICS_DROPPED_IN 1 (unitCode i c.seq Code.W_INPUT_DROPPED s)
    (false, modChan i (fun x => { x with codec := { x.codec with carry := x.codec.carry ++ [Code.W_INPUT_DROPPED] } }) s)
  else
    let s := modChan i (fun x => { x with codec := { x.codec with total := x.codec.total + 1, inputs := x.codec.inputs ++ [{ num := x.codec.total, pts, last := s.time }] } }) s
    (true, s)

/-- A whole picture is handed to the encode behind an ENH channel (R394, R395). -/
def fuseIn (v pts : Nat) (bytes : List Byte) (s : State) : State :=
  if !(s.chan v).admits || !(s.chan v).codec.started then s
  else
    let r := openInput v pts s
    if !r.1 then r.2
    else
      let s := r.2
      let c := s.chan v
      let num := c.codec.total - 1
      let s := match c.io with
        | some x => writeAll v (sampleWrites c.seqHdr (x.inBase + num % max 1 x.inSlots * picBytes c.seqHdr x.inPitch) x.inPitch bytes) s
        | none => s
      modChan v (fun x => { x with codec := { x.codec with inputs := x.codec.inputs.map (fun q => if q.num = num then { q with whole := some s.time, last := s.time, closed := true } else q) } }) s

/-- The record of an enhanced picture (R465), and the end of its job. -/
def enhRecord (id : Nat) (j : Job) (pts buf : Nat) (wrote : Bool) (s : State) : State :=
  let s := postUnit j.chan j.seq none j.codes { flags := bit j.late, kind := 3, retries := j.retries, r0 := pts, r1 := buf } s
  let s := modChan j.chan (fun c => { c with codec := { c.codec with lastUnit := some (pts % 2 ^ 32), made := c.codec.made + bit wrote } }) s
  dropJob id s

/-- Deliver an enhanced picture (R381, R395, R459). -/
def enhWrite (id : Nat) (j : Job) (pts : Nat) (s : State) : State :=
  let i := j.chan
  let c := s.chan i
  let r := c.rec_
  let h := enhGeom s i (nhW r * nhSr r) (nhH r * nhSr r)
  match nhMode r, c.io with
  | 0, some x =>
    let slots := max 1 x.inSlots
    let buf := c.codec.made % slots
    let l := (sampleWrites h (x.outBase + buf * picBytes h x.outPitch) x.outPitch j.seg).filter (fun y => decide (y.1 + y.2.length ≤ x.outBase + x.outBytes))
    if j.late then enhRecord id j pts buf false s
    else if slots ≤ c.codec.made - c.codec.head then s
    else match s.writesBad i l with
      | some (_, .hold _ _ _) => s
      | some (a, w) => let z := walkFail i a true w s; stopJob id z.1 z.2
      | none => enhRecord id j pts buf true (writeAll i l s)
  | 1, _ => enhRecord id j pts 0 false (egressReady i j.seq (!j.late) j.seg s)
  | _, _ => enhRecord id j pts 0 false (match s.chanOf (nhNext r) with | some v => fuseIn v pts j.seg s | none => s)

/-! DELIVERY_WRITE -/

/-- The oldest unit of a channel whose computation has ended is delivered: lines of a decoded or enhanced picture, an audio frame. -/
def deliver (id : Nat) (s : State) : State :=
  match tget? s.jobs id with
  | none => s
  | some j =>
    if j.st ≠ .offstage ∨ j.stop.isSome ∨ s.standby ∨ (s.chanJobs j.chan).any (fun (x : Nat × Job) => decide (x.1 < id)) then s
    else match j.work with
      | .decode _ _ _ _ _ | .decodeEnd => decWrite id j s
      | .enhance _ _ pts => enhWrite id j pts s
      | .audEnc _ => audEmit id j s
      | .audDec _ => audWrite id j s
      | _ => s

/-- DELIVERY_WRITE (R378, R401, R459). -/
def execDeliveryWrite (id : Nat) (s : State) : Host.Outcome State Fault Refusal := .next (deliver id s)

end Sys2Proof.Machine
end

