-- ==== Sys2Proof/Machine/Segments.lean ====
section
/-! DEFINITION. A decoder takes the segments of its stream (spec/07, R241 to R285; spec/10, R371, R375, R377, R380, R388, R389, R403,
R404). -/

namespace Sys2Proof.Machine

/-! Bytes of the stream -/

/-- Bytes [pos, pos + n) of the stream in the input ring of a channel; bytes behind a remote window come from `far` in order. -/
def streamBytes (s : State) (i pos n : Nat) (far : List Byte) : List Byte :=
  match (s.chan i).io with
  | none => []
  | some x =>
    let z := max 1 x.inBytes
    let o := pos % z
    let k := min n (z - o)
    let a := readVa s i (x.inBase + o) k far
    let b := match s.translate i (x.inBase + o) false with | .ok v => if isRemote v then far.drop k else far | _ => far
    a ++ readVa s i x.inBase (n - k) b

/-- Whether a byte is a marker's code (R242). -/
def isCode (b : Byte) : Bool := b.toNat / 32 == 5

/-- The offset of the first marker (R284), or how far there is none: a last byte 0xFF may open one. -/
def findMarker : List Byte → Nat → Option Nat × Nat
  | [], n => (none, n)
  | [b], n => (none, if b = 0xFF then n else n + 1)
  | b :: c :: t, n => if b = 0xFF && isCode c then (some n, n) else findMarker (c :: t) (n + 1)

/-- How the taking of body bytes ends: all of them, more to come, a marker before the content is complete, a byte that may not follow
0xFF (R244, R245, R249). -/
inductive Took where
  | all | short | marker | bad
deriving DecidableEq, Repr

/-- Take n bytes of a body without their stuffing: the bytes, those consumed, how it ended. -/
def takeRaw : Nat → List Byte → List Byte × Nat × Took
  | 0, _ => ([], 0, .all)
  | _ + 1, [] => ([], 0, .short)
  | n + 1, b :: t =>
    if b ≠ 0xFF then let r := takeRaw n t; (b :: r.1, r.2.1 + 1, r.2.2)
    else match t with
      | [] => ([], 0, .short)
      | c :: u => if c = 0 then (let r := takeRaw n u; (b :: r.1, r.2.1 + 2, r.2.2)) else if isCode c then ([], 0, .marker) else ([], 0, .bad)

/-- A segment's content after its marker (R247, R249): header and payload, the bytes consumed. `syntax` is an HLEN below the minimum, or
a payload length that `len` refuses. -/
structure Content where
  head : List Byte := []
  pay : List Byte := []
  used : Nat := 0
  took : Took := .all
  headOk : Bool := false             -- the header is complete
  bad : Bool := false                -- HLEN or a length breaks its range
deriving DecidableEq, Repr

/-- Read the content of a segment whose header has at least `low` bytes and whose payload `len` gives. -/
def content (low : Nat) (len : List Byte → Option Nat) (l : List Byte) : Content :=
  let a := takeRaw 2 l
  let n := beNat a.1
  if a.2.2 ≠ .all then { used := a.2.1, took := a.2.2 }
  else if n < low then { used := a.2.1, bad := true }
  else
    let b := takeRaw (n - 2) (l.drop a.2.1)
    let h := a.1 ++ b.1
    let u := a.2.1 + b.2.1
    if b.2.2 ≠ .all then { head := h, used := u, took := b.2.2 }
    else match len h with
      | none => { head := h, used := u, headOk := true, bad := true }
      | some k => let c := takeRaw k (l.drop u); { head := h, pay := c.1, used := u + c.2.1, took := c.2.2, headOk := true }

/-! Events, sequences and pictures -/

/-- A stream condition that no completion carries (R375): RESULT0 is the stream position of the segment concerned. -/
def streamEvent (i code pos : Nat) (s : State) : State := chanEvent i (s.chan i).last code pos 0 0 (unitCode i (s.chan i).last code s)

/-- Input consumed up to a position. -/
def consume (i pos : Nat) (after : Bool) (s : State) : State :=
  let s := modDec i (fun d => { d with rd := pos, after, arrivals := d.arrivals.filter (fun a => decide (pos < a.1)) }) s
  modChan i (fun c => { c with codec := { c.codec with used := pos } }) s

/-- The time at which the byte before a stream position arrived (R217). -/
def Dec.arrived (d : Dec) (pos now : Nat) : Nat := match d.arrivals.find? (fun a => decide (pos ≤ a.1)) with | some a => a.2 | none => now

/-- The audio channel that takes a decode's AUD segments (R403). -/
def State.audOf (s : State) (i : Nat) : Option Nat :=
  let c := s.chan i
  if c.ty = 4 then some i
  else if deMux c.rec_ = 0 then none
  else (s.chanOf (deMux c.rec_)).bind (fun n => if (s.chan n).ty = 4 ∧ (s.chan n).admits ∧ (s.chan n).codec.started then some n else none)

/-- The audio bound to a video channel begins anew (R253). -/
def endAudio (i : Nat) (s : State) : State :=
  match s.audOf i with
  | some n => egressBegin n (modChan n (fun c => { c with codec := { c.codec with aud := { c.codec.aud with last := none } } }) s)
  | none => s

/-- The active sequence ends (R253, R385). -/
def endSeq (i : Nat) (s : State) : State :=
  let s := modDec i (fun d => { d with seq := [], lastCount := none, lastPts := none, pending := none, active := none, taint := false, pic := none }) s
  let s := modChan i (fun c => { c with codec := { c.codec with slots := [] } }) s
  endAudio i (egressBegin i s)

/-- Whether the picture in progress has left its channel: no job, no store of it remains. -/
def State.picOver (s : State) (i : Nat) : Bool :=
  (match (s.chan i).codec.dec.pic with | some p => p.gone | none => true) && !(s.stores.any (fun x => x.chan == i))

/-- Admit a decode job: under DELIVER 0 each is a unit, under DELIVER 1 the picture is (R378, R466). -/
def addDecode (i : Nat) (w : Work) (deadline : Option Nat) (s : State) : State :=
  let c := s.chan i
  let j : Job := { chan := i, seq := 0, work := w, role := 3, deadline, ens := c.ens }
  if !deDeliver c.rec_ then addUnit i j s
  else match c.codec.dec.pic.bind DecPic.seq with
    | some n => addJob { j with seq := n, unit := false } s
    | none =>
      let r := nextSeq i s
      addJob { j with seq := r.1, unit := false } (modDecPic i (fun p => { p with seq := some r.1 }) r.2)

/-- The picture in progress ends with slices missing at its bottom (R264, R377): their rows are concealed at its end. -/
def endPic (i pos : Nat) (s : State) : State :=
  let d := (s.chan i).codec.dec
  match d.pic with
  | none => s
  | some p =>
    if p.ended then s
    else
      let gone := (List.range (p.nslices - p.next)).flatMap (fun n => p.rows d.seq (p.next + n))
      let s := modDecPic i (fun p => { p with ended := true, missing := true, lost := p.lost ++ gone }) s
      addDecode i .decodeEnd ((s.chan i).deadline (d.arrived pos s.time)) (bump 0x30 Cnt.SEQ_SLICES_CONCEALED (p.nslices - p.next) s)

/-- Set the doubt bit of every occupied slot (R261). -/
def doubtAll (i : Nat) (s : State) : State :=
  modChan i (fun c => { c with codec := { c.codec with slots := c.codec.slots.map (fun x => (x.1, if x.1 < 8 ∧ x.2.full then { x.2 with doubt := true } else x.2)) } }) s

/-- Empty the eight slots (R258, R259, R387); the hold buffer stays. -/
def emptySlots (i : Nat) (s : State) : State := modChan i (fun c => { c with codec := { c.codec with slots := c.codec.slots.filter (fun x => decide (8 ≤ x.1)) } }) s

/-- The PIC of a picture is discarded (R285): the picture is lost, and an egress repeats the one before it (R380). -/
def losePic (i : Nat) (s : State) : State :=
  let d := (s.chan i).codec.dec
  let s := modDec i (fun d => { d with pic := none }) s
  match d.lastPts with
  | some p =>
    if seqDur d.seq = 0 ∨ deMode (s.chan i).rec_ ≠ 1 then s
    else
      let t := p + seqDur d.seq
      egressAnnounce i { num := 0, pts := ticksNs t (seqScale d.seq), gone := true } (modDec i (fun d => { d with lastPts := some t }) s)
  | none => s

/-! The parser -/

/-- Bring the parser to the next marker (R245, R249, R284): its code, and the bytes behind it; none while there is none. -/
def toMarker (i : Nat) (far : List Byte) (s : State) : Option (Nat × List Byte) × State :=
  let c := s.chan i
  let d := c.codec.dec
  let l := streamBytes s i d.rd (c.codec.total - d.rd) far
  match d.after, l with
  | true, a :: b :: t =>
    if a = 0xFF && isCode b then (some (b.toNat, t), s)
    else
      let s := streamEvent i (if d.seq.isEmpty then Code.E_STREAM_SYNTAX else Code.E_MARKER_LOST) d.seg s
      let r := findMarker l 0
      (match r.1 with | some n => some ((l.getD (n + 1) 0).toNat, l.drop (n + 2)) | none => none, consume i (d.rd + r.2) r.1.isSome s)
  | true, _ => (none, s)
  | false, _ =>
    let r := findMarker l 0
    (match r.1 with | some n => some ((l.getD (n + 1) 0).toNat, l.drop (n + 2)) | none => none, consume i (d.rd + r.2) r.1.isSome s)

/-- The body of a *_SEGMENT event: on a running decode channel whose next segment has one of the codes, `take` gets what stands behind
the marker. -/
def onSegment (handle : Word) (far : List Byte) (codes : Nat → Bool) (take : Nat → List Byte → State → State) (s : State) : State :=
  match s.chanOf handle.toNat with
  | none => s
  | some i =>
    let c := s.chan i
    if (c.ty ≠ 1 ∧ c.ty ≠ 4) ∨ !c.admits ∨ !c.codec.started ∨ c.io.isNone ∨ c.pkg.isNone ∨ s.standby then s
    else
      let r := toMarker i far s
      match r.1 with
      | none => r.2
      | some (code, l) => if codes code then take i l r.2 else r.2

/-- Leave a segment: its marker stands at rd, `n` bytes of it behind the marker are consumed. -/
def leave (i n : Nat) (after : Bool) (s : State) : State :=
  let d := (s.chan i).codec.dec
  consume i (d.rd + 2 + n) after (modDec i (fun d => { d with seg := d.rd }) s)

/-- Skip a segment to the next marker. -/
def skipSegment (i : Nat) (s : State) : State := leave i 0 false s

/-- Leave a segment whose content ended as it did: at the marker that ended it, or in search of one. -/
def leaveBad (i : Nat) (x : Content) (s : State) : State := leave i x.used (x.took == .marker) s

/-! SEQ (R251 to R256, R371, R389) -/

/-- What R371 asks of the ring. -/
def decRingOk (c : Chan) (h : List Byte) : Bool :=
  c.ty != 1 || deMode c.rec_ != 0 || (seqW h * seqB h ≤ dePitch c.rec_ && ringFits h (dePitch c.rec_) (deSlots c.rec_) (deBytes c.rec_))

/-- A SEQ segment; one equal to the active header is held against the package too, which a load may have changed (R252, R389). -/
def takeSeq (i : Nat) (l : List Byte) (s : State) : State :=
  let x := content 36 (fun _ => some 0) l
  let c := s.chan i
  let d := c.codec.dec
  if x.took = .short then s
  else if x.took ≠ .all then leaveBad i x (streamEvent i Code.E_MARKER_LOST d.rd s)
  else if !x.bad && x.head == d.seq && seqModel x.head == modelId (c.pkg.getD {}) then leave i x.used true s
  else
    let s := endPic i (d.rd + 2 + x.used) s
    if !s.picOver i then s
    else
      let code := if x.bad || !seqRanges x.head then Code.E_STREAM_SYNTAX
        else if seqModel x.head ≠ modelId (c.pkg.getD {}) then Code.E_MODEL_MISMATCH
        else if !decRingOk c x.head then Code.E_DEC_PARAMS
        else 0
      let s := endSeq i s
      if code ≠ 0 then leave i x.used false (streamEvent i code d.rd s)
      else leave i x.used true (modDec i (fun d => { d with seq := x.head }) s)

/-- SEQ_SEGMENT (R252). -/
def execSeqSegment (handle : Word) (far : List Byte) (s : State) : Host.Outcome State Fault Refusal := .next (onSegment handle far (· == 0xA1) takeSeq s)

/-! PIC (R258 to R261, R280, R281, R387, R388) -/

/-- The adapter sets that a PIC header leaves (active, pending), and whether its set is absent (R280, R281). -/
def picAdapters (pred : Bool) (id : Nat) (d : Dec) : Option AdpSet × Option AdpSet × Bool :=
  if pred then (d.active, d.pending, (match d.active with | some a => a.id | none => 0) != id)
  else if id = 0 then (none, d.pending, false)
  else if d.pending.any (fun a => a.id == id) then (d.pending, none, false)
  else if d.active.any (fun a => a.id == id) then (d.active, d.pending, false)
  else (none, d.pending, true)

/-- The picture that a PIC header begins. -/
def beginDec (i : Nat) (h : List Byte) (s : State) : State :=
  let d := (s.chan i).codec.dec
  let pred := picPred h
  let id := picAdp h
  let gap : Bool := match d.lastCount with | some n => picCount h != (n + 1) % 2 ^ 32 | none => false
  let s := if gap then doubtAll i s else s
  let s := if picRefresh h then emptySlots i s else s
  let slots := (s.chan i).codec.slots
  let sets := picAdapters pred id d
  let absent := sets.2.2
  let taint := if pred then d.taint else absent
  let whole := pred && (picRefs h).any (fun n => !(tget slots {} n).full)
  let codes := (if whole then [Code.W_REF_ABSENT] else []) ++ (if gap then [Code.W_PIC_ABSENT] else []) ++ (if absent then [Code.W_ADP_ABSENT] else [])
  let p : DecPic :=
    { num := d.pics + 1, count := picCount h, pts := picPts h, intra := !pred, refs := picRefs h, store := if picStore h then some (picSlot h) else none, qlRow := picQlRow h, ql := picQl h, sliceRows := picSliceRows h, nslices := picSlices h, adp := sets.1, whole, ended := whole, refDoubt := !whole && (picRefs h).any (fun n => (tget slots {} n).doubt), adpAbsent := absent || taint, codes }
  let s := modDec i (fun d => { d with pics := d.pics + 1, lastCount := some p.count, lastPts := some p.pts, active := sets.1, pending := sets.2.1, taint, pic := some p }) s
  let s := codes.foldl (fun a x => unitCode i (a.chan i).seq x a) (armPersistent i d.rd (s.chan i).codec.made s)
  let s := if deMode (s.chan i).rec_ = 1 then egressAnnounce i { num := p.num, pts := ticksNs p.pts (seqScale d.seq) } s else s
  if whole then addDecode i .decodeEnd ((s.chan i).deadline (d.arrived d.rd s.time)) s else s

/-- A PIC segment; without an active sequence it is discarded. -/
def takePic (i : Nat) (l : List Byte) (s : State) : State :=
  let x := content 20 (fun _ => some 0) l
  let d := (s.chan i).codec.dec
  if d.seq.isEmpty ∨ (s.chan i).ty = 4 then skipSegment i s
  else if x.took = .short then s
  else
    let s := endPic i (d.rd + 2 + x.used) s
    if !s.picOver i then s
    else if x.took ≠ .all then leaveBad i x (losePic i (streamEvent i Code.E_MARKER_LOST d.rd s))
    else if x.bad || !picOk d.seq x.head then leave i x.used false (losePic i (streamEvent i Code.E_STREAM_SYNTAX d.rd s))
    else leave i x.used true (beginDec i x.head s)

/-- PIC_SEGMENT (R258). -/
def execPicSegment (handle : Word) (far : List Byte) (s : State) : Host.Outcome State Fault Refusal := .next (onSegment handle far (· == 0xA2) takePic s)

/-! SLC (R262, R263, R373, R377) -/

/-- Payload bytes of a slice. -/
def slcLen (h : List Byte) : Option Nat :=
  let a := hBits h 80 32
  let b := hBits h 112 32
  if 1 ≤ a ∧ a ≤ 16777216 ∧ 1 ≤ b ∧ b ≤ 16777216 then some (a + b) else none

/-- A code of a slice that does not count as received: the picture's next record carries it, or an event. -/
def sliceCode (i code pos : Nat) (p : DecPic) (s : State) : State :=
  if p.ended then streamEvent i code pos s else unitCode i (s.chan i).seq code (modDecPic i (fun p => { p with codes := p.codes ++ [code] }) s)

/-- Slice `n` of the picture in progress is received (R263, R377): the rows of skipped slices are concealed; `code` says that its own
are, too, and that nothing of it is entropy decoded (R305). -/
def receiveSlice (i n code : Nat) (side main : List Byte) (pos : Nat) (p : DecPic) (s : State) : State :=
  let d := (s.chan i).codec.dec
  let own := p.rows d.seq n
  let skipped := (List.range (n - p.next)).flatMap (fun k => p.rows d.seq (p.next + k))
  let s := modDecPic i (fun p => { p with next := n + 1, ended := n + 1 = p.nslices, missing := p.missing || p.next != n, lost := p.lost ++ skipped ++ (if code = 0 then [] else own) }) s
  let s := addDecode i (.decode n (own.headD 0) own.length side main) ((s.chan i).deadline (d.arrived pos s.time)) s
  let s := bump 0x30 Cnt.SEQ_SLICES_CONCEALED (n - p.next + bit (code != 0)) s
  if code = 0 then s
  else
    let id := s.nextJob - 1
    unitCode i ((tget? s.jobs id).map Job.seq |>.getD 0) code (modJob id (fun j => { j with codes := j.codes ++ [code], coded := true }) s)

/-- An SLC segment; without a picture in progress, or in a picture concealed whole, it is skipped (R251, R388). -/
def takeSlc (i : Nat) (l : List Byte) (s : State) : State :=
  let d := (s.chan i).codec.dec
  match d.pic with
  | none => skipSegment i s
  | some p =>
    let x := content 22 slcLen l
    let h := x.head
    let n := hBits h 32 16
    let known := x.headOk && hBits h 16 16 == p.count % 65536 && decide (p.next ≤ n ∧ n < p.nslices)
    let pos := d.rd + 2 + x.used
    if d.seq.isEmpty ∨ (s.chan i).ty = 4 ∨ p.whole then skipSegment i s
    else if x.took = .short then s
    else if x.took ≠ .all then
      leaveBad i x (if known then receiveSlice i n Code.E_MARKER_LOST [] [] pos p s else sliceCode i Code.E_MARKER_LOST d.rd p s)
    else if x.bad || !known then leave i x.used false (sliceCode i Code.E_STREAM_SYNTAX d.rd p s)
    else
      let own := p.rows d.seq n
      let ok := hBits h 48 16 == n * p.sliceRows && hBits h 64 8 == own.length && crc32c x.pay == hBits h 144 32
      let k := hBits h 80 32
      if ok then leave i x.used true (receiveSlice i n 0 (x.pay.take k) (x.pay.drop k) pos p s)
      else leave i x.used false (receiveSlice i n Code.E_STREAM_SYNTAX [] [] pos p s)

/-- SLC_SEGMENT (R263). -/
def execSlcSegment (handle : Word) (far : List Byte) (s : State) : Host.Outcome State Fault Refusal := .next (onSegment handle far (· == 0xA3) takeSlc s)

/-! AUD (R273 to R275, R403, R404) -/

/-- Payload bytes of an audio frame. -/
def audLen (h : List Byte) : Option Nat := let n := hBits h 112 32; if 1 ≤ n ∧ n ≤ 65536 then some n else none

/-- Admit the unit of an audio frame, whose PTS is in periods of 1 / 48,000 s. -/
def addAudio (n : Nat) (a : AudIn) (pts : Nat) (codes : List Nat) (deadline : Option Nat) (s : State) : State :=
  let s := addUnit n { chan := n, seq := 0, work := .audDec a, role := 5, deadline, codes } s
  let s := modChan n (fun c => { c with codec := { c.codec with aud := { c.codec.aud with last := some a.frame, pts } } }) s
  let q := (s.chan n).seq
  let s := armPersistent n a.frame (s.chan n).codec.made s
  egressAnnounce n { num := q, pts := ticksNs pts 48000 } (codes.foldl (fun a x => unitCode n q x a) s)

/-- An audio channel takes an AUD segment of a sequence (R275, R404): the frames of a gap, then the frame; one rejected with a code is
concealed and takes the next number. -/
def audArrive (n : Nat) (seq : List Byte) (x : Content) (code : Nat) (deadline : Option Nat) (s : State) : State :=
  let c := s.chan n
  let h := x.head
  let nch := hBits h 96 5
  let bad := code ≠ 0 ∨ x.bad ∨ seqAud seq = 0 ∨ nch ≠ seqAud seq ∨ nch ≠ auNch c.rec_ ∨ crc32c x.pay ≠ hBits h 144 32
  let last := c.codec.aud.last
  let next := c.codec.aud.pts + 480
  if bad then
    addAudio n { frame := match last with | some f => (f + 1) % 2 ^ 32 | none => 0, reset := last.isNone } next [if code = 0 then Code.E_STREAM_SYNTAX else code] deadline s
  else
    let f := hBits h 16 32
    let d := match last with | some p => ahead 32 f p | none => 1
    let gap := if 2 ≤ d ∧ d < 2 ^ 31 then d - 1 else 0
    let k := min gap 100
    let s := (List.range k).foldl (fun a m => addAudio n { frame := ((last.getD 0) + m + 1) % 2 ^ 32 } (next + 480 * m) [] deadline a) s
    addAudio n { frame := f, data := some x.pay, reset := last.isNone || decide (100 < gap) } (hBits h 48 48) (if gap = 0 then [] else [Code.W_AUD_GAP]) deadline s

/-- An AUD segment: it goes to the channel that takes the stream's audio, which checks it (R403); where none does it is discarded, and
a segment that does not end at its marker is reported on the stream's channel (R245, R249, R375). -/
def takeAud (i : Nat) (l : List Byte) (s : State) : State :=
  let d := (s.chan i).codec.dec
  let x := content 22 audLen l
  if d.seq.isEmpty then skipSegment i s
  else if x.took = .short then s
  else
    let code := if x.took = .all then 0 else Code.E_MARKER_LOST
    let s := match s.audOf i with
      | some n => audArrive n d.seq x code ((s.chan n).deadline (d.arrived (d.rd + 2 + x.used) s.time)) s
      | none => if code = 0 then s else streamEvent i code d.rd s
    if code = 0 then leave i x.used (!x.bad) s else leaveBad i x s

/-- AUD_SEGMENT (R275). -/
def execAudSegment (handle : Word) (far : List Byte) (s : State) : Host.Outcome State Fault Refusal := .next (onSegment handle far (· == 0xA4) takeAud s)

/-! ADP (R276 to R279) -/

/-- Payload bytes of an adapter segment within the limit of R276. -/
def adpLen (h : List Byte) : Option Nat := let n := hBits h 48 32; if h.length + n ≤ 65536 then some n else none

/-- Bytes of the record at the front of a payload. -/
def adpRecLen (l : List Byte) : Nat := 12 + hBits l 16 8 * (hBits l 32 32 + hBits l 64 16 + 12) + 4 * hBits l 64 16

/-- A record agrees with the package's layer and its fields lie in their ranges (R277, R278). -/
def adpRecOk (k : Package) (l : List Byte) : Bool :=
  let rank := hBits l 16 8
  let o := 12 + rank * hBits l 32 32
  decide (12 ≤ l.length) && k.layers.any (fun y => y.layer == hBits l 0 16 && y.k == hBits l 32 32 && y.cout == hBits l 64 16) && decide (4 ≤ rank ∧ rank ≤ 16) &&
    (List.range rank).all (fun r => let q := (l.drop (o + 12 * r)).take 12; decide (hBits q 32 8 ≤ 63) && decide (signed 16 (hBits q 64 16) ≤ signed 16 (hBits q 80 16)))

/-- The layer records of a payload fill it exactly, ascending (R278). -/
def adpRecsOk (k : Package) : Nat → Option Nat → List Byte → Bool
  | 0, _, l => l.isEmpty
  | n + 1, prev, l =>
    let z := adpRecLen l
    adpRecOk k l && decide (z ≤ l.length) && (match prev with | some p => decide (p < hBits l 0 16) | none => true) && adpRecsOk k n (some (hBits l 0 16)) (l.drop z)

/-- An ADP segment. -/
def takeAdp (i : Nat) (l : List Byte) (s : State) : State :=
  let d := (s.chan i).codec.dec
  let x := content 26 adpLen l
  let h := x.head
  let k := (s.chan i).pkg.getD {}
  if d.seq.isEmpty then skipSegment i s
  else if x.took = .short then s
  else if x.took ≠ .all then leaveBad i x (streamEvent i Code.E_MARKER_LOST d.rd s)
  else if x.bad ∧ !x.headOk then leave i x.used false (streamEvent i Code.E_STREAM_SYNTAX d.rd s)
  else if x.bad || hBits h 16 16 == 0 || beNat (Config.shake256 x.pay 16) != hBits h 80 128 || !adpRecsOk k (hBits h 32 8) none x.pay then
    leave i x.used false (streamEvent i Code.E_ADP_CHECK d.rd s)
  else leave i x.used true (modDec i (fun d => { d with pending := some ⟨hBits h 16 16, hBits h 32 8, x.pay⟩ }) s)

/-- ADP_SEGMENT (R278). -/
def execAdpSegment (handle : Word) (far : List Byte) (s : State) : Host.Outcome State Fault Refusal := .next (onSegment handle far (· == 0xA5) takeAdp s)

/-! END, PAD and reserved codes (R246, R249, R251, R282, R283) -/

/-- An END segment; without an active sequence it is discarded. -/
def takeEnd (i : Nat) (_ : List Byte) (s : State) : State :=
  let d := (s.chan i).codec.dec
  if d.seq.isEmpty then skipSegment i s
  else
    let s := endPic i (d.rd + 2) s
    if !s.picOver i then s else leave i 0 true (endSeq i s)

/-- END_SEGMENT (R282). -/
def execEndSegment (handle : Word) (far : List Byte) (s : State) : Host.Outcome State Fault Refusal := .next (onSegment handle far (· == 0xA6) takeEnd s)

/-- PAD_SEGMENT (R283). -/
def execPadSegment (handle : Word) (far : List Byte) (s : State) : Host.Outcome State Fault Refusal :=
  .next (onSegment handle far (· == 0xAF) (fun i _ s => skipSegment i s) s)

/-- RESERVED_SEGMENT (R246). -/
def execReservedSegment (handle : Word) (far : List Byte) (s : State) : Host.Outcome State Fault Refusal :=
  .next (onSegment handle far (fun c => c == 0xA0 || (decide (0xA7 ≤ c) && c != 0xAF)) (fun i _ s => skipSegment i s) s)

end Sys2Proof.Machine
end

