-- ==== Sys2Proof/Machine/Store.lean ====
section
/-! DEFINITION. The frame store compressor at work: pictures on their way into slots, and COMP jobs (spec/11, R415 to R426; spec/12,
R456; spec/10, R385). -/

namespace Sys2Proof.Machine

/-! Picture stores (R259, R385, R387, R415, R416, R420, R422) -/

/-- A slot takes the picture whose last row object has been written. -/
def RefSlot.take (r : RefSlot) (p : PicStore) (objs : List (List Byte)) (order : Nat) : RefSlot :=
  { full := true, cur := 1 - r.cur, areas := tput r.areas (1 - r.cur) objs, doubt := p.doubt, order, geom := p.geom }

/-- The last row object of a store has been written. -/
def commitStore (n : Nat) (p : PicStore) (objs : List (List Byte)) (s : State) : State :=
  let i := p.chan
  let c := s.chan i
  let r := (tget c.codec.slots {} p.slot).take p objs (c.codec.stores + 1)
  let slots := tput c.codec.slots p.slot r
  let slots := if c.ty = 1 ∧ p.slot < 8 ∧ !p.doubt then tput slots 8 r else slots
  let s := modChan i (fun c => { c with codec := { c.codec with slots, stores := c.codec.stores + 1 } }) { s with stores := s.stores.eraseIdx n }
  let s := match p.pic with | some m => leavePic i m (modPic i m (fun q => { q with stored := true }) s) | none => s
  if (s.chan i).stopping.isEmpty then s else settleChan i s

/-- A self-check mismatch on a store of the part's own: it is retried, and its channel retired once no retry is left (R416, R420,
R473, R475). -/
def storeRetry (n : Nat) (p : PicStore) (pos : Nat) (s : State) : State :=
  let i := p.chan
  let c := s.chan i
  let s := fscFail Code.E_FSC_SELFCHECK pos (handleOf i c) false s
  if p.tries < setRetries c.settings then
    let s := { s with stores := s.stores.set n { p with tries := p.tries + 1 } }
    chanEvent i c.last Code.I_RETRY (Code.E_FSC_SELFCHECK + (p.tries + 1) * 65536) 0 0 (unitCode i c.last Code.I_RETRY (bump 0x21 Cnt.HIF_RETRIES 1 s))
  else
    let s := modChan i (fun x => { x with codec := { x.codec with carry := x.codec.carry ++ [Code.E_FSC_SELFCHECK] } }) { s with stores := s.stores.eraseIdx n }
    beginRetire i Code.E_FSC_SELFCHECK (unitCode i c.last Code.E_FSC_SELFCHECK s)

/-- The next row object of picture store n; one that is not the oldest is taken ahead of it (R424). -/
def storeRow (n : Nat) (mismatch : Bool) (s : State) : State :=
  match s.stores[n]? with
  | none => s
  | some p =>
    match p.rows[p.objs.length]? with
    | none => s
    | some orig =>
      let obj := fscObject orig
      let s := bump 0x34 Cnt.FSC_DEADLINE_FIRST (bit (n != 0)) (countComp orig (obj.drop 16) 1 s)
      if mismatch ∧ s.rf 0x34 Reg.FSC_CTRL_SELFCHECK = 1 then storeRetry n p (obj.length - 16) s
      else
        let objs := p.objs ++ [obj]
        if objs.length = p.rows.length then commitStore n p objs s else { s with stores := s.stores.set n { p with objs } }

/-! COMP jobs (R415 to R421, R456) -/

/-- A multiple of 64 at or above n. -/
def up64 (n : Nat) : Nat := (n + 63) / 64 * 64

/-- A COMP job has done its last object: its record and its end. -/
def compEnd (id : Nat) (s : State) : State :=
  match tget? s.jobs id with
  | none => s
  | some j =>
    let i := j.chan
    let s := postUnit i j.seq j.cmd j.codes { retries := j.retries, r0 := j.comp.bytes, r1 := j.comp.objs } s
    dropJob id s

/-- The page of [va, va + len) that stops a COMP job: unchanged while it is held, a stop otherwise. -/
def compBad (id i va len : Nat) (write : Bool) (s : State) : Option State :=
  match s.firstMiss i va len write with
  | none => none
  | some (_, .hold _ _ _) => some s
  | some (a, w) => let z := walkFail i a write w s; some (stopJob id z.1 z.2)

/-- MODE 0 in the headers of a COMP job's objects (R415, R417). -/
def zeroHeads (i : Nat) (l : List Nat) (s : State) : State := l.foldl (fun a v => writeVa i v [0] .none 1 a) s

/-- A COMP job fails on an object or region (R417, R418, R425). -/
def compFail (id code pos handle : Nat) (host : Bool) (s : State) : State := stopJob id code (fscFail code pos handle host s)

/-- The bytes of a COMP job's object go to its destination. -/
def compPut (i : Nat) (a : CompArgs) (x : CompSt) (l : List Byte) (s : State) : State := writeVa i (a.dst + x.dst) l .none (l.length / 65536 + 2) s

/-- Compress the next object of a COMP job. -/
def compStore (id : Nat) (j : Job) (a : CompArgs) (mismatch : Bool) (far : List Byte) (s : State) : State :=
  let i := j.chan
  let h := handleOf i (s.chan i)
  let x := j.comp
  let n := min a.count (a.srcLen - x.src)
  match compBad id i (a.src + x.src) n false s with
  | some t => t
  | none =>
    let orig := readVa s i (a.src + x.src) n far
    let obj := if a.mode = 1 then fscObject orig else fixObject a.mode a.elem a.width orig
    let check := a.mode == 1 && mismatch && s.rf 0x34 Reg.FSC_CTRL_SELFCHECK == 1
    let room := min obj.length (a.dstLen - x.dst)
    match compBad id i (a.dst + x.dst) room true s with
    | some t => t
    | none =>
      let off := 0 :: obj.tail
      if a.dstLen < x.dst + obj.length then
        compFail id Code.E_FSC_OUT_FULL 0 h true (zeroHeads i x.heads (compPut i a x (off.take room) s))
      else
        let s := countComp orig (obj.drop 16) a.mode s
        if check then compFail id Code.E_FSC_SELFCHECK (obj.length - 16) h true (compPut i a x off s)
        else
          let s := compPut i a x (obj.take 16) (compPut i a x off s)
          let s := if a.mode = 1 then s else countJob id 0xFFFF true (fixStats a.mode a.elem a.width orig) s
          let y : CompSt := { objs := x.objs + 1, src := x.src + n, dst := up64 (x.dst + obj.length), heads := x.heads ++ [a.dst + x.dst], bytes := x.bytes + obj.length }
          let s := modJob id (fun j => { j with comp := y, moved := s.time }) s
          if a.srcLen ≤ y.src then compEnd id s else s

/-- What a decompressed object's bytes do in a COMP job. -/
def compOut (id i : Nat) (a : CompArgs) (x : CompSt) (body : Nat) (l : List Byte) (s : State) : State :=
    let s := countDecomp l.length body (compPut i a x l s)
    let y : CompSt := { objs := x.objs + 1, src := up64 (x.src + 16 + body), dst := x.dst + l.length, bytes := x.bytes + l.length }
    let s := modJob id (fun j => { j with comp := y, moved := s.time }) s
    if a.count ≤ y.objs then compEnd id s else s

/-- A body fails (R418, R419): what the destination of its object then holds is unspecified. -/
def compSpoil (id i : Nat) (a : CompArgs) (x : CompSt) (n : Nat) (e : FscFail) (s : State) : State :=
  let r := drawBytes n s
  compFail id e.1 e.2 (handleOf i (s.chan i)) true (compPut i a x r.1 r.2)

/-- The body of the next object of a COMP job, whose header is `hd`; one whose original would pass the end of the destination is not
begun (R417). -/
def compBody (id i : Nat) (a : CompArgs) (x : CompSt) (hd far : List Byte) (s : State) : State :=
  if a.srcLen < x.src + 16 + leAt hd 8 4 then compFail id Code.E_FSC_LEN (a.srcLen - x.src - 16) (handleOf i (s.chan i)) true s
  else if a.dstLen < x.dst + leAt hd 4 4 then compFail id Code.E_FSC_OUT_FULL 0 (handleOf i (s.chan i)) true s
  else match (compBad id i (a.src + x.src + 16) (leAt hd 8 4) false s).orElse (fun _ => compBad id i (a.dst + x.dst) (leAt hd 4 4) true s) with
  | some t => t
  | none => match fscOpen hd (readVa s i (a.src + x.src + 16) (leAt hd 8 4) far) with
    | .error e => compSpoil id i a x (leAt hd 4 4) e s
    | .ok l => compOut id i a x (leAt hd 8 4) l s

/-- The far bytes left once an object's header has been read. -/
def pastHead (s : State) (i va : Nat) (far : List Byte) : List Byte :=
  match s.translate i va false with | .ok v => if isRemote v then far.drop 16 else far | _ => far

/-- Decompress the next object of a COMP job. -/
def compLoad (id : Nat) (j : Job) (a : CompArgs) (far : List Byte) (s : State) : State :=
  let i := j.chan
  let x := j.comp
  if a.srcLen < x.src + 16 then compFail id Code.E_FSC_LEN 0 (handleOf i (s.chan i)) true s
  else match compBad id i (a.src + x.src) 16 false s with
  | some t => t
  | none =>
    let hd := readVa s i (a.src + x.src) 16 far
    match fscHeadFail hd with
    | some c => compFail id c 0 (handleOf i (s.chan i)) true s
    | none => compBody id i a x hd (pastHead s i (a.src + x.src) far) s

/-- A running COMP job of an operation. -/
def State.compJob (s : State) (id op : Nat) : Option (Job × CompArgs) :=
  (tget? s.jobs id).bind (fun j => match j.work with | .comp a => if a.op = op ∧ j.st = .running ∧ j.stop.isNone then some (j, a) else none | _ => none)

/-- FSC_STORE (R415): the next object of a COMP job, or the next row object of picture store `n`. -/
def fscStore (job : Option Nat) (n : Nat) (mismatch : Bool) (far : List Byte) (s : State) : State :=
  match job with
  | none => storeRow n mismatch s
  | some id => match s.compJob id 0 with | some (j, a) => compStore id j a mismatch far s | none => s

/-- FSC_STORE. -/
def execFscStore (job : Option Nat) (n : Nat) (mismatch : Bool) (far : List Byte) (s : State) : Host.Outcome State Fault Refusal :=
  .next (fscStore job n mismatch far s)

/-- FSC_LOAD (R418). -/
def execFscLoad (id : Nat) (far : List Byte) (s : State) : Host.Outcome State Fault Refusal :=
  match s.compJob id 1 with | some (j, a) => .next (compLoad id j a far s) | none => .next s

end Sys2Proof.Machine
end

