-- ==== Sys2Proof/Machine/Jobs.lean ====
section
/-! DEFINITION. Dispatch, yield points and the end of jobs (spec/01, R22, R25, R30; spec/04, R123, R126, R140 to R145; spec/06, R194,
R209, R226; spec/09, R326, R346, R355; spec/12, R434, R442, R470). -/

namespace Sys2Proof.Machine

/-! Which jobs may be dispatched -/

/-- The sequence of its channel that a job keeps: each is dispatched after the one before it has left its players (R96, R326, R346,
R378). -/
def Work.line : Work → Nat
  | .slice _ _ => 0
  | .recon _ _ => 1
  | .tune _ => 2
  | _ => 3

/-- Whether a job is one of coding or reconstruction (R355). -/
def Work.codes : Work → Bool
  | .slice _ _ | .recon _ _ => true
  | _ => false

/-- The ensemble a job runs on (R353, R362): ADAPT_ENS, or the channel's. -/
def State.ensOf (s : State) (j : Job) : Nat := match j.work with | .tune _ => j.ens | _ => (s.chan j.chan).ens

/-- A COMP job holds no player. -/
def Job.bare (j : Job) : Bool := match j.work with | .comp _ => true | _ => false

/-- The turn of a job within its channel has come. -/
def State.turnOf (s : State) (id : Nat) (j : Job) : Bool :=
  !(s.chanJobs j.chan).any (fun (x : Nat × Job) => decide (x.1 < id) && x.2.work.line == j.work.line && x.2.st != .offstage)

/-- What a job's own unit waits for: a slice is released, and its governed picture waits for the end of those before it (R338). -/
def State.unitReady (s : State) (j : Job) : Bool :=
  match j.work with
  | .slice n k => (match s.encPic j.chan n with
    | some p => (match p.slices[k]? with | some x => x.st == 0 | none => false) &&
        (p.started || !governed (s.chan j.chan).rec_ || (s.chan j.chan).codec.enc.pics.all (fun q => decide (n ≤ q.n) || q.ended))
    | none => false)
  | _ => true

/-- A ready job that waits for players alone. -/
def State.dispatchable (s : State) (id : Nat) (j : Job) : Bool :=
  j.st == .ready && j.stop.isNone && !j.suspHeld && (s.chan j.chan).st == 3 && !s.holds j.chan && s.turnOf id j && s.unitReady j &&
    (j.bare || (s.chan j.chan).slot.isSome) && (s.chains.filter (fun c => c.serves s j.chan (some id))).all (·.granted)

/-- Whether two ensembles share a player. -/
def State.overlap (s : State) (e f : Nat) : Bool := let l := s.ensPlayers f; (s.ensPlayers e).any (fun n => l.contains n)

/-- Whether a player of an ensemble is not free, one that is SUSPECT and drains included (R22). -/
def State.ensBusy (s : State) (e : Nat) : Bool :=
  ((s.ensPlayers e).filterMap s.physOf).any (fun p => (s.ply p).job.isSome || (s.ply p).st != 0)

/-- Whether job `a` comes before job `b` (R22, R442). -/
def State.ahead (s : State) (a b : Nat × Job) : Bool :=
  let pa := setPrio (s.chan a.2.chan).settings
  let pb := setPrio (s.chan b.2.chan).settings
  decide (pb < pa) || (pa == pb && (decide (a.2.readyAt < b.2.readyAt) || (a.2.readyAt == b.2.readyAt &&
    (decide (a.2.chan < b.2.chan) || (a.2.chan == b.2.chan && decide (a.1 < b.1))))))

/-- Whether a job must wait for another one that is ready (R355, R442). -/
def State.outranked (s : State) (id : Nat) (j : Job) : Bool :=
  let e := s.ensOf j
  s.jobs.any (fun (x : Nat × Job) => x.1 != id && !x.2.bare && s.dispatchable x.1 x.2 && s.overlap e (s.ensOf x.2) &&
    (s.ahead x (id, j) || ((match j.work with | .tune _ => true | _ => false) && x.2.work.codes)))

/-- The pages a job's work needs beside its players (R578). -/
def Work.pages : Work → List Nat
  | .slice _ _ => [0x30, 0x31, 0x32, 0x33, 0x34]
  | .recon _ _ => [0x30, 0x34]
  | .decode _ _ _ _ _ => [0x30, 0x32, 0x33, 0x34]
  | .decodeEnd => [0x30, 0x34]
  | .audEnc _ | .audDec _ => [0x30, 0x32, 0x33]
  | .enhance _ _ _ => [0x30]
  | .comp _ => [0x34]
  | .tensor | .tune _ => []

/-- Whether a block that a job needs takes no new work (R153, R578). -/
def State.blocked (s : State) (j : Job) : Bool :=
  (!j.bare && ((s.ensPlayers (s.ensOf j)).filterMap s.physOf).any (fun p => s.refusing (0x100 + p))) || j.work.pages.any s.refusing

/-! Dispatch (R123, R126, R140) -/

/-- The local store of a player reads 0 (R123). -/
def clearStore (p : Nat) (s : State) : State := { s with mem := s.mem.filter (fun c => decide (c.1 < lsAddr p 0 ∨ lsAddr p 0x300000 ≤ c.1)) }

/-- The picture or frame count of a job's channel, and its slice index (R126). -/
def State.jobCount (s : State) (j : Job) : Nat × Nat :=
  let pic (n : Nat) : Nat := match s.encPic j.chan n with | some p => p.count | none => 0
  let dec : Nat := match (s.chan j.chan).codec.dec.pic with | some p => p.count | none => 0
  match j.work with
  | .slice n k | .recon n k => (pic n, k)
  | .decode k _ _ _ _ => (dec, k)
  | .decodeEnd => (dec, 0)
  | .enhance _ n _ => (n % 2 ^ 32, 0)
  | .audEnc _ | .audDec _ => (j.frame, 0)
  | _ => (0, 0)

/-- The job block (R126) with its argument area. -/
def jobBlock (j : Job) (e : Nat) (args : List Byte) (s : State) : List Byte :=
  let x := s.jobCount j
  leBytes 4 (handleOf j.chan (s.chan j.chan)) ++ leBytes 4 j.seq ++ leBytes 1 (bit j.tensorJob) ++ leBytes 1 e ++ leBytes 2 0 ++ leBytes 4 x.1 ++ leBytes 4 x.2 ++
    leBytes 4 0 ++ leBytes 8 (j.deadline.getD 0) ++ leBytes 8 (j.pkg.getD {}).va ++ leBytes 8 0 ++ leBytes 8 0 ++ leBytes 8 0 ++ args

/-- A job gets its block: a TENSOR command's arguments, or those the picture sequencer writes, which the spec does not give (log
entry 5). A later dispatch of it writes the block anew, with the argument area of the first. -/
def writeBlock (j : Job) (e : Nat) (s : State) : List Byte × State :=
  if j.block.length = 256 then (jobBlock j e (j.block.drop 64) s, s)
  else match j.work with
    | .tensor => (jobBlock j e (j.block ++ List.replicate (192 - j.block.length) 0) s, s)
    | .tune _ => (jobBlock j e (List.replicate 192 0) s, s)
    | _ => let r := drawBytes 192 s; (jobBlock j e r.1 s, r.2)

/-- A thread at its start: a0 points at the job block; the spec gives the other registers no value, and whatever ran before does not
reach them (R81, R140; log entry 26). -/
def freshThread (t entry : Nat) : Thread :=
  { st := 1, pc := 0x20000000 + entry, regs := ((List.range 31).map (fun r => (r + 1, if r = 9 then 0x30000000 else Config.freshReg t (r + 1) % 2 ^ 64))).filter (fun r => r.2 != 0) }

/-- Thread t of a player starts: its EVENT and SYNC (R610, R613). -/
def traceStart (p seq t : Nat) (s : State) : State := traceSync p t (traceEvent p t 1 seq s)

/-- What a yield saved of a player comes back (R140, R144). -/
def restorePlayer (p : Nat) (k : Player) (v : Save) (s : State) : State :=
  let r := drawBelow 294913 s
  let k := { k with threads := v.threads.map (fun (x : Nat × Thread) => (x.1, if x.2.st = 8 then { x.2 with st := 1 } else x.2)), sems := v.sems, tdm := v.tdm }
  setPly p k (bump (0x100 + p) Cnt.PLY_SAVE_BYTES r.1 (r.2.store (lsAddr p 0) v.keep))

/-- A player starts its part of a job (R123, R140, R209, R226). Its accumulator banks start empty, which the spec does not say (DESIGN
CHOICE, log entry 176). -/
def startPlayer (id : Nat) (j : Job) (e size p rank : Nat) (s : State) : State :=
  let s := { clearStore p s with shds := tput s.shds p { s.shd p with cache := [] } }
  let s := (s.wf (0x200 + p) Reg.SMV_JOB_JOB_EPOCH (s.rf (0x200 + p) Reg.SMV_JOB_JOB_EPOCH + 1)).wf (0x200 + p) Reg.SMV_JOB_DEAD 0
  let s := bump (0x100 + p) Cnt.PLY_JOBS 1 s
  let k : Player := { st := 2, job := some id, ens := e, rank, size, active := s.time, started := s.time }
  match j.saves.find? (fun (x : Nat × Save) => x.1 == rank) with
  | some x =>
    let s := restorePlayer p k x.2 s
    (s.startedThreads p).foldl (fun a t => traceStart p j.seq t a) s
  | none =>
    let s := setPly p k s
    let img := s.code p
    let on := (List.range 8).filter (fun t => bits (leAt img 6 1) t 1 == 1)
    on.foldl (fun a t => traceStart p j.seq t (setThread p t (freshThread t (leAt img 8 4)) a)) s

/-- The counter pages that a dispatch on an ensemble swaps (R601). -/
def dispatchPages (e : Nat) (ps : List Nat) (s : State) : List Nat :=
  let q := s.ensPlayers e
  ps.map (· + 0x100) ++ ps.map (· + 0x200) ++ [0x300 + e] ++ ((q.map (· / 4)).eraseDups).map (· + 0x40) ++ ((q.map (· / 16)).eraseDups).map (· + 0x290)

/-- The pages of the coding pipeline swap at the first dispatch of a unit; an encode slice's swap at its release (R601). -/
def unitPages (j : Job) : List Nat :=
  match j.work with
  | .slice _ _ | .recon _ _ | .tune _ | .tensor => []
  | _ => if j.saved.isSome then [] else [0x30, 0x31, 0x32, 0x33, 0x34]

/-- The coding job of a slice starts: its latents are formed and rehearsed (R350 to R352). -/
def startSlice (id i n k : Nat) (pkg : Package) (s : State) : State :=
  let c := s.chan i
  match (s.encPic i n).bind (fun p => (p.slices[k]?).map (fun x => (p, x))) with
  | none => s
  | some (p, x) =>
    let z := sliceLatents pkg c.rec_ c.seqHdr c.codec (p.refs.map (fun v => tget c.codec.slots {} v)) (match c.io with | some y => y.inPitch | none => 0) (inputBytes s i p.input c.seqHdr) x.first x.rows
    let s := modPic i n (fun p => p.upd k (fun x => { x with st := 1, lat := z.1 })) (modChan i (fun c => { c with codec := z.2.1 }) s)
    modJob id (fun j => { j with skipped := z.2.2 }) (bump 0x30 Cnt.SEQ_REH_ITERATIONS (enReh c.rec_) s)

/-- A fine-tuning job makes its next step (R353). -/
def startTune (id i n : Nat) (pkg : Package) (t : Tuning) (s : State) : State :=
  let c := s.chan i
  if enSteps c.rec_ ≤ t.steps then s
  else
    let h := c.seqHdr
    let src := (tileSamples h (match c.io with | some y => y.inPitch | none => 0) 0 (seqBR h) (inputBytes s i n h)).map (fun (v : Nat) => Fp.ofInt v)
    modJob id (fun j => tuneStep pkg h c.codec src j t) s

/-- What a job does of itself as it starts: a slice's latents, a step of fine-tuning; a decode slice is ready for the array once its
tables are in a bank (R11). -/
def beginWork (id : Nat) (j : Job) (s : State) : State :=
  match j.work, j.pkg with
  | .slice n k, some pkg => startSlice id j.chan n k pkg s
  | .tune n, some pkg => (match j.tuning with | some t => startTune id j.chan n pkg t s | none => s)
  | .decode _ _ _ _ _, some k => if s.banked (modelId k) then modJob id (fun y => { y with codeAt := some s.time }) s else s
  | _, _ => s

/-- A job is dispatched. -/
def startJob (id : Nat) (j : Job) (s : State) : State :=
  let i := j.chan
  let e := s.ensOf j
  let ps := if j.bare then [] else (s.physLive e).take (s.sizes e).1
  let h := handleOf i (s.chan i)
  let s := swapBanks ((if j.bare then [] else dispatchPages e ps s) ++ unitPages j) h j.seq s
  let s := match j.work with | .slice n _ => startGovernor i n s | _ => s
  let r := writeBlock j e s
  let s := modChan i (fun c => { c with lastDispatch := s.time, codec := { c.codec with retry := j.retries } }) r.2
  let j := { j with st := .running, ens := e, players := ps, block := r.1, startedAt := s.time, moved := s.time, stallHeld := some 0, saved := j.saved.orElse (fun _ => some (s.chan i).codec) }
  let s := { s with jobs := tput s.jobs id j }
  let s := ps.zipIdx.foldl (fun a x => startPlayer id j e ps.length x.1 x.2 a) s
  beginWork id j { s with jobs := tput s.jobs id { j with saves := [] } }

/-- Cause SIZE: the ensemble is too small for the channel's package (R30, R434). -/
def haltSize (i : Nat) (s : State) : State := setChan i ({ s.chan i with size := true } : Chan).settle s

/-- A job that is ready on an empty ensemble is refused once (R30). -/
def refuseEmpty (id : Nat) (j : Job) (s : State) : State :=
  let s := if j.refused then s else bump 0x39 Cnt.ENS_EMPTY_REJECTS 1 (record 0x39 Code.E_ENS_MEMBER { s with jobs := tput s.jobs id { j with refused := true } })
  match j.work with | .tune _ => s | _ => haltSize j.chan s

/-- JOB_DISPATCH on a job (R22, R30, R153, R355, R434, R442). -/
def jobDispatch (id : Nat) (s : State) : State :=
  match tget? s.jobs id with
  | none => s
  | some j =>
    let c := s.chan j.chan
    let e := s.ensOf j
    if j.st ≠ .ready ∨ j.stop.isSome ∨ j.suspHeld then s
    else if (c.st = 3 ∨ (c.st = 4 ∧ c.size)) ∧ !j.bare ∧ (s.sizes e).1 = 0 then refuseEmpty id j s
    else if !s.dispatchable id j then s
    else if !j.bare && !s.ensFits e j.pkg then (match j.work with | .tune _ => s | _ => haltSize j.chan s)
    else if s.blocked j then stopJob id Code.E_PEER_ABSENT s
    else if !j.bare && (s.ensBusy e || s.outranked id j) then s
    else startJob id j s

/-- JOB_DISPATCH (R140). -/
def execJobDispatch (id : Nat) (s : State) : Host.Outcome State Fault Refusal := .next (jobDispatch id s)

/-! Yield points (R143, R144) -/

/-- The players of a job become free. -/
def freePlayers (ps : List Nat) (s : State) : State := ps.foldl (fun a p => setPly p {} (freezeAtEnd p a)) s

/-- What a yield saves of a player (R143): the keep region is the first KEEP_LINES lines of its sheet. -/
def State.saveOf (s : State) (p : Nat) : Save :=
  let k := s.ply p
  { threads := k.threads, sems := k.sems, tdm := k.tdm, keep := s.bytes (lsAddr p 0) (64 * leAt (s.code p) 0x12 2) }

/-- One player's save at a yield: its length and its bytes are free values (log entry 8); `x` is the player and its place. -/
def savePlayer (tensor : Bool) (base : Nat) (s : State) (x : Nat × Nat) : State :=
  let n := drawBelow 294913 s
  let s := bump (0x100 + x.1) Cnt.PLY_SAVE_BYTES n.1 (bump (0x100 + x.1) Cnt.PLY_YIELDS 1 n.2)
  if tensor then
    let b := drawBytes n.1 s
    writeOut (base + 294912 * x.2) b.1 .none b.2
  else s

/-- A yield point: what it saves, and the players free; the layout of the save area is not given (log entry 8). -/
def yieldPoint (id : Nat) (j : Job) (s : State) : State :=
  let saves := j.players.zipIdx.map (fun (x : Nat × Nat) => (x.2, s.saveOf x.1))
  let base := (s.chan j.chan).saveBase
  let s := j.players.zipIdx.foldl (fun a x => savePlayer (match j.work with | .tensor => true | _ => false) base a x) s
  let s := { s with streams := s.streams.filter (fun (x : Nat × Stream) => x.2.job ≠ some id) }
  let s := freePlayers j.players s
  let j := { j with st := .ready, readyAt := s.time, players := [], saves }
  match j.work with
  | .tune _ => { modChan j.chan (fun c => { c with codec := adamEnd (j.pkg.getD {}) j c.codec }) s with jobs := tput s.jobs id j.nextStep }
  | _ => { s with jobs := tput s.jobs id j }

/-- YIELD_POINT (R143): every started thread has retired YIELD or JOB_END, every queue is empty, no remote post is on its way (R156), no
stream is in a pass or halted. -/
def execYieldPoint (id : Nat) (s : State) : Host.Outcome State Fault Refusal :=
  match tget? s.jobs id with
  | none => .next s
  | some j =>
    let at_ := j.players.all (fun p => s.idleQueues p && (s.ply p).posts.isEmpty && (s.threadStates p).all (fun n => n == 6 || n == 8))
    let some_ := j.players.any (fun p => (s.threadStates p).any (· == 8))
    if j.tensorJob && j.st == .running && j.stop.isNone && at_ && some_ && (s.jobStreams id).all (fun (x : Nat × Stream) => x.2.st == 4) then .next (yieldPoint id j s)
    else .next s

/-! The end of a job (R141, R194) -/

/-- Whether every player of a running job has finished its part. -/
def State.finished (s : State) (id : Nat) (j : Job) : Bool :=
  j.st == .running && j.stop.isNone && !j.bare && j.players.all (fun p => s.idleQueues p && (s.threadStates p).all (· == 6)) &&
    (s.jobStreams id).all (fun (x : Nat × Stream) => x.2.st == 4) && !s.relays.any (fun (x : Nat × Ring4) => x.2.streams.any (fun r => r.job == id)) &&
    (match j.work with
      | .slice n k => ((s.encPic j.chan n).bind (fun p => p.slices[k]?)).all (fun x => decide (2 ≤ x.st))
      | .decode _ _ _ _ _ => j.coded
      | .tune _ => (match j.tuning with | some t => decide (enSteps (s.chan j.chan).rec_ ≤ t.steps) | none => true)
      | _ => j.audDone)

/-- Whether the step of the channel's tensors ends with a job (R95). -/
def State.stepEnds (s : State) (j : Job) : Bool :=
  match j.work with
  | .tensor | .enhance _ _ _ | .audEnc _ | .audDec _ | .decodeEnd => true
  | .slice n k => (match s.encPic j.chan n with | some _ => k + 1 == enSlices (s.chan j.chan).rec_ (s.chan j.chan).seqHdr | none => true)
  | .decode _ _ _ _ _ => (match (s.chan j.chan).codec.dec.pic with | some p => j.picEnd p | none => true)
  | _ => false

/-- The input buffers that a job reads. -/
def Work.inputs : Work → List Nat
  | .enhance a b _ => if a = b then [a] else [a, b]
  | .audEnc n | .tune n => [n]
  | _ => []

/-- The slice's coding job, or the job of another unit, has ended on its players; the shared blocks go on (R141, R327). -/
def jobFinish (id : Nat) (j : Job) (s : State) : State :=
  let i := j.chan
  let ends := s.stepEnds j
  let s := { s with streams := s.streams.filter (fun (x : Nat × Stream) => x.2.job ≠ some id) }
  let s := dropChain (.job id) (freePlayers j.players s)
  let k := j.pkg.getD {}
  let s := modChan i (fun c => { c with codec := match j.work with
    | .tune _ => adamEnd k j c.codec
    | _ => let d := joinMarks j c.codec; if ends && !j.joined then endStep k d else d }) s
  let s := { s with jobs := tput s.jobs id { j.nextStep with players := [], joined := true } }
  match j.work with
  | .tensor =>
    let r := draw s
    dropJob id (postUnit i j.seq j.cmd j.codes { kind := 5, retries := j.retries, r0 := r.1 % 2 ^ 64 } r.2)
  | .slice n _ =>
    let s := modJob id (fun x => { x with st := .offstage }) s
    (match s.encPic i n with | some p => releaseInput i p.input s | none => s)
  | .recon n k => dropJob id (reconEnd i n k (j.pkg.getD {}) true s)
  | .tune _ => modJob id (fun x => { x with st := .offstage }) s
  | .decode _ _ _ _ _ | .decodeEnd => decFinish id s
  | .enhance a b pts => enhFinish id a b pts s
  | .audEnc _ | .audDec _ => audFinish id s
  | .comp _ => s

/-- JOB_FINISH. -/
def execJobFinish (id : Nat) (s : State) : Host.Outcome State Fault Refusal :=
  match tget? s.jobs id with
  | none => .next s
  | some j => if s.finished id j then .next (jobFinish id j s) else .next s

end Sys2Proof.Machine
end

