-- ==== Sys2Proof/Machine/Stops.lean ====
section
/-! DEFINITION. Faults that stop jobs, the stop of a job, its drain, and what follows: a retry, a held job, a failed unit, a retired
channel (spec/04, R146, R147, R151, R152; spec/05, R183, R184; spec/06, R215, R227, R228, R237; spec/08, R314; spec/11, R421; spec/12,
R473 to R478; spec/18, R649). -/

namespace Sys2Proof.Machine

/-! Detections and watchdogs -/

/-- The second detection at one place (R152, R575): the player becomes SUSPECT and the job stops for it; REPEAT is set, in the record
of the first detection where that is still held. -/
def suspectPlayer (p thread id : Nat) (j : Job) (rec_ : List (Fld × Nat)) (s : State) : State :=
  let h := handleOf j.chan (s.chan j.chan)
  let s := fireTrap p thread ((holdRecord (0x100 + p) Reg.PLY_FAULT_VALID rec_ s).wf (0x100 + p) Reg.PLY_FAULT_REPEAT 1)
  let s := makeSuspect p h j.seq (stopJob id Code.F_PLAYER_SUSPECT s)
  chanEvent j.chan j.seq Code.F_PLAYER_SUSPECT p 0 0 s

/-- DETAIL of PLY_FAULT for an upset (R155, R160). -/
def upsetDetail (kind place : Nat) : Nat := if kind = 1 then place / 8 % 32 else if kind = 2 then place else 0

/-- PLY_FAULT_ADDR of an upset (R160): the byte address of the word, the column, the program counter of the thread. -/
def State.upsetAddr (s : State) (p kind place : Nat) : Nat :=
  if kind = 1 then 8 * place else if kind = 2 then place else (s.thread p place).pc % 2 ^ 32

/-- A detection of R151 on a player that runs a job: kind 1 in the local store (`place` is the word), kind 2 in the engine of class
`cls` (a column, or the transform engine of R184), kind 3 in a thread's registers (`place` is the thread). -/
def upset (p kind cls place id : Nat) (j : Job) (s : State) : State :=
  let key := (p, kind + 8 * (if kind = 2 then cls else 0), place)
  let again := j.detections.contains key && (kind != 2 || cls == 1)
  let s := modJob id (fun x => { x with detections := key :: x.detections }) (bump (0x100 + p) Cnt.PLY_UPSETS 1 s)
  let s := if kind = 2 ∧ cls = 5 then bump (s.trePage p) Cnt.TRE_UPSETS 1 s else s
  let engine := if kind = 2 then cls else 0
  let thread := if kind = 3 then place else 0
  let detail := upsetDetail kind place
  let addr := s.upsetAddr p kind place
  if again then
    suspectPlayer p thread id j [(Reg.PLY_FAULT_KIND, kind), (Reg.PLY_FAULT_THREAD, thread), (Reg.PLY_FAULT_ENGINE, engine), (Reg.PLY_FAULT_CAUSE, 0), (Reg.PLY_FAULT_DETAIL, detail),
      (Reg.PLY_FAULT_ADDR_ADDR, addr), (Reg.PLY_FAULT_VAL_VALUE, 0)] s
  else plyFault p kind thread engine 0 0 detail addr 0 Code.F_PLY_UPSET s

/-- PLAYER_UPSET (R122, R151, R152, R184); kind 0 is a single-bit error of a local store word, which is corrected and counted. -/
def execPlayerUpset (p : Fin 68) (kind cls place : Nat) (s : State) : Host.Outcome State Fault Refusal :=
  match (s.ply p.val).job with
  | none => .next s
  | some id => match tget? s.jobs id with
    | none => .next s
    | some j =>
      if kind = 0 then .next (bump (0x100 + p.val) Cnt.PLY_LS_ECC_CORRECTED 1 s)
      else if !j.runsFor s p.val ∨ 3 < kind ∨ (kind = 2 ∧ (cls = 0 ∨ cls = 4 ∨ 5 < cls)) ∨ (kind = 3 ∧ 7 < place) then .next s
      else .next (upset p.val kind cls place id j s)

/-- PLAYER_WATCHDOG (R147): no progress for 2^(18 + WDOG_EXP) cycles of 2/3 ns. -/
def execPlayerWatchdog (p : Fin 68) (s : State) : Host.Outcome State Fault Refusal :=
  let k := s.ply p.val
  if !s.jobRuns p.val ∨ k.paused.isSome ∨ 3 * (s.time - k.active) < 2 * 2 ^ (18 + s.rf (0x100 + p.val) Reg.PLY_CTRL_WDOG_EXP) then .next s
  else .next (plyFault p.val 7 0 0 0 0 0 0 0 Code.E_PLY_STALL s)

/-- STREAM_STALL (R215): 524,288 ns without a byte or a credit while a stream of the job is in a pass. -/
def execStreamStall (id : Nat) (s : State) : Host.Outcome State Fault Refusal :=
  match tget? s.jobs id with
  | none => .next s
  | some j =>
    match (s.jobStreams id).find? (fun (x : Nat × Stream) => x.2.inPass) with
    | none => .next s
    | some x =>
      if j.st ≠ .running ∨ j.stop.isSome ∨ j.stallHeld.isSome ∨ s.time < j.moved + 524288 then .next s
      else .next (shdFail (x.1 / 8) (some id) Code.E_STALL (bump (shdPage (x.1 / 8)) Cnt.SMV_STALLS 1 s))

/-! The stop of a job: what it holds drains (R146, R183, R227, R237, R314, R421) -/

/-- A player of a stopped job drains: its queues drop their cues, a transform cue of it stops. -/
def stopPlayer (p : Nat) (s : State) : State :=
  let pg := s.trePage p
  let runs := s.rf pg Reg.TRE_STATE_MODE != 0 && s.rf pg Reg.TRE_STATE_PLAYER == s.logical p && (match tget (s.ply p).queues [] 5 with | c :: _ => c.ran | [] => false)
  let s := if runs then treIdle pg (bump pg Cnt.TRE_STOPPED 1 s) else s
  setPly p { s.ply p with st := 4, queues := [], keep := none, posts := [] } s

/-- The token of a halted stream (R221). -/
def haltToken (key : Nat) (x : Stream) : Nat := key / 8 + key % 8 * 256 + x.haltSeq * 65536

/-- The streams of a stopped job drain, and its stagehands mark its epoch dead; events of their halts that are not posted go; the persistent streams of its channel close (R195,
R227). -/
def stopStreams (id : Nat) (j : Job) (s : State) : State :=
  let l := s.jobStreams id
  let tokens := (l.filter (fun (x : Nat × Stream) => x.2.halted)).map (fun (x : Nat × Stream) => haltToken x.1 x.2)
  let s := { s with due := s.due.filter (fun d => !(d.event && d.chan == some j.chan && d.body.code == Code.H_PAGE_ABSENT && tokens.contains d.body.r3)) }
  let s := l.foldl (fun a (x : Nat × Stream) => ({ a with streams := tput a.streams x.1 { x.2 with st := 6, sig := none, fetch := none } }).wf (shdPage (x.1 / 8)) Reg.SMV_JOB_DEAD 1) s
  let s := modChan j.chan (fun c => { c with codec := { c.codec with persist := [] } }) s
  clearPage j.chan (j.players.foldl (fun a p => a.wf (shdPage p) Reg.SMV_JOB_DEAD 1) s)

/-- The relay streams of a stopped job send no more (R237). -/
def stopRelays (id : Nat) (s : State) : State :=
  { s with relays := s.relays.map (fun (x : Nat × Ring4) => (x.1, { x.2 with streams := x.2.streams.map (fun r => if r.job = id then { r with stopped := true } else r) })) }

/-- The coders of a stopped job let go of it (R314). -/
def stopCoder (id : Nat) (j : Job) (s : State) : State :=
  let held := j.coder.isSome || (match s.slice with | some (k, _) => k == id | none => false) || (match s.coding id with | some g => decide (g.slice.st = 1 ∨ g.slice.st = 2) && g.slice.done.any (·.gathered) | none => false)
  let s := if held then bump 0x32 Cnt.RCA_STOPPED 1 s else s
  modJob id (fun x => { x with coder := none }) { s with slice := match s.slice with | some (k, ph) => if k = id then none else some (k, ph) | none => none }

/-- The first part of a stop. -/
def stopBegin (id : Nat) (j : Job) (s : State) : State :=
  let s := if j.bare && j.st == .running then bump 0x34 Cnt.FSC_STOPPED 1 s else s
  let s := stopCoder id j (stopRelays id (stopStreams id j (j.players.foldl (fun a p => stopPlayer p a) s)))
  modJob id (fun x => { x with st := .stopping, stallHeld := none }) s

/-- Whether a request of a stagehand, or of one that serves a job, is not acknowledged. -/
def State.shdWaits (s : State) (f : Nat → Option Nat → Bool) : Bool :=
  s.qps.any (fun (q : Nat × Qp) => q.2.out.any (fun r => match r.owner with | .stream sh _ job => f sh job | _ => false))

/-- Whether nothing of a job drains any more (R228). -/
def State.drained (s : State) (id : Nat) (j : Job) : Bool :=
  (s.jobStreams id).isEmpty && !s.shdWaits (fun _ job => job == some id) && j.players.all (fun p => s.rf (shdPage p) Reg.SMV_JOB_DEAD == 0) && !s.relays.any (fun (x : Nat × Ring4) => x.2.streams.any (fun r => r.job == id))

/-! What follows -/

/-- Whether a stop's cause is one that R473 retries; a COMP job's failures on what its command supplies are not (R420). -/
def Job.mayRetry (j : Job) (code : Nat) (c : Chan) : Bool :=
  [Code.F_PLY_UPSET, Code.F_RELAY_PARITY, Code.F_RCA_PARITY, Code.E_STALL].contains code || (code == Code.F_PLAYER_SUSPECT && !setSuspHalt c.settings) ||
    (codeBlock code == 0x0D && (!j.bare || code == Code.E_FSC_SELFCHECK))

/-- Whether a cause leaves its channel in its state (R475). -/
def Job.spares (j : Job) (code : Nat) : Bool :=
  [Code.E_CANCELLED, Code.E_PEER_ABSENT, Code.F_MEM_UNCORRECTABLE, Code.F_SHS_UNCORRECTABLE].contains code || (j.bare && code != Code.E_FSC_SELFCHECK)

/-- What a retry restores of slice k of picture n, p as it stands, from the encoder's state at the first dispatch: C, charged(s), QL and
the curtain flag (R344). -/
def restoreFrom (i n k : Nat) (j : Job) (old : Enc) (p : EncPic) (x : EncSlice) (s : State) : State :=
    let q := (old.pics.find? (fun q => q.n == n)).getD p
    let s := if j.st = .offstage ∨ (j.players.isEmpty ∧ 2 ≤ x.st) then holdInput i p.input s else s
    let s := if p.ended then uncharge i n x.charged s
      else modEnc i (fun e => { e with ql := old.ql }) (modPic i n (fun r => { r with c := q.c, curtain := q.curtain, slices := r.slices.zipIdx.map (fun y => { y.1 with charged := ((q.slices[y.2]?).map EncSlice.charged).getD 0 }) }) s)
    modPic i n (fun r => r.upd k (fun y => { y with st := 0, begun := false, lat := [], done := [], charged := 0, side := [], main := [], seg := [], codes := y.codes.filter (fun c => c != Code.W_RC_CURTAIN && c != Code.W_DEADLINE_MISS), retries := y.retries + 1 })) s

/-- What a retry restores of an encode slice: the governor's state (R344), what the attempt coded. -/
def restoreSlice (i n k : Nat) (j : Job) (s : State) : State :=
  match (s.encPic i n).bind (fun p => (p.slices[k]?).map (fun x => (p, x))) with
  | none => s
  | some x => bump 0x31 Cnt.RGV_RESTORES (bit j.saved.isSome) (restoreFrom i n k j (match j.saved with | some c => c.enc | none => (s.chan i).codec.enc) x.1 x.2 s)

/-- The earlier of two states of a history: the one with fewer steps, or with the smaller maximum of the step in progress. -/
def Hist.earlier (a b : Hist) : Hist :=
  if a.n < b.n then a else if b.n < a.n then b else { a with amax := match a.amax, b.amax with | some x, some y => some (min x y) | _, _ => none }

/-- The histories of a job's channel as they stood at its start (R98); where a job before it has been cancelled too, as they stood then. -/
def oldHist (j : Job) (c : Codec) : Codec :=
  { c with hist := c.hist.map (fun (e : Nat × Hist) => match tget? (j.saved.getD c).hist e.1 with | some h => (e.1, h.earlier e.2) | none => e) }

/-- A cancelled job's histories come back (R98). -/
def cancelHist (j : Job) (s : State) : State :=
  if j.saved.isNone then s else modChan j.chan (fun c => { c with codec := { oldHist j c.codec with adamT := if j.tensorJob then (j.saved.getD c.codec).adamT else c.codec.adamT } }) s

/-- The histories that the rehearsal of a coding job has changed come back (R98). -/
def cancelReh (j : Job) (s : State) : State :=
  match j.saved, j.pkg with
  | some v, some k =>
    if enReh (s.chan j.chan).rec_ = 0 then s
    else modChan j.chan (fun c => { c with codec := { c.codec with adamT := v.adamT, hist := c.codec.hist.map (fun (e : Nat × Hist) =>
      if e.1 = k.rehTensor ∨ e.1 = inputTensor k k.rehTensor then (match tget? v.hist e.1 with | some h => (e.1, h.earlier e.2) | none => e) else e) } }) s
  | _, _ => s

/-- The channel's state at the first dispatch of a job comes back (R98, R474). A tensor job's steps have entered the histories; any
other job's maxima have entered them only once it has left its players, and its next attempt computes with those of its start and
adds nothing to them (`Job.joined`). -/
def restoreState (j : Job) (s : State) : State :=
  let s := if j.tensorJob then cancelHist j s else s
  match j.work with
  | .slice n k => restoreSlice j.chan n k j (cancelReh j s)
  | _ => s

/-- The credits of a job's chain return, and its next attempt waits for a new grant (R214, R228). -/
def resetChain (id : Nat) (s : State) : State :=
  showPool { s with chains := s.chains.map (fun c => if c.owner = .job id then { c with granted := false, edges := c.edges.map (fun e => { e with free := e.credits, built := none, tiles := [], read := false }) } else c) }

/-- A job as it stands before another attempt. -/
def Job.again (j : Job) (now : Nat) : Job :=
  { j with st := .ready, players := [], stop := none, stopAt := none, readyAt := now, stats := [], marks := [], update := 0, updated := false, skipped := false, saves := [], barrier := none, tags := [], stallHeld := none, coder := none, seg := [], yhat := [], comp := {}, late := false, loaded := false, codeAt := none, coded := j.coded && (match j.work with | .decode _ _ _ side _ => side.isEmpty | _ => false),
           tuning := j.tuning.map (fun t => { t with parts := tuneParts (j.pkg.getD {}) t.rank, steps := 0 }) }

/-- A job is attempted again (R473, R474). -/
def retryJob (id code : Nat) (j : Job) (s : State) : State :=
  let i := j.chan
  let n := j.retries + 1
  let s := resetChain id (restoreState j s)
  let s := { s with jobs := tput s.jobs id { j.again s.time with retries := n } }
  let s := modChan i (fun x => { x with codec := { x.codec with retry := n } }) (bump 0x21 Cnt.HIF_RETRIES 1 s)
  chanEvent i j.seq Code.I_RETRY (code + n % 256 * 65536) 0 0 (postCode Code.I_RETRY (handleOf i (s.chan i)) j.seq code 0 s)

/-- A job is held for cause SUSPECT (R476). -/
def holdJob (id : Nat) (j : Job) (s : State) : State :=
  let i := j.chan
  let s := resetChain id (restoreState j s)
  let s := { s with jobs := tput s.jobs id { j.again s.time with suspHeld := true } }
  setChan i ({ s.chan i with susp := true } : Chan).settle s

/-- Input buffers that a job still holds are free of it. -/
def releaseInputs (j : Job) (s : State) : State := if j.st = .offstage then s else j.work.inputs.foldl (fun a n => releaseInput j.chan n a) s

/-- The record of a decoded picture under DELIVER 1 whose jobs were stopped before it was posted; its number is taken once. -/
def cancelPicture (i code retries : Nat) (s : State) : State :=
  match (s.chan i).codec.dec.pic with
  | some p => match p.seq with
    | some n =>
      if p.gone then s
      else modDecPic i (fun q => { q with gone := true }) (postUnit i n none (p.codes ++ [code]) { flags := 4 * bit p.intra + 8, kind := 2, retries := p.retries + retries, r0 := p.count + 0xFFFF * 2 ^ 32, r1 := p.pts, r2 := p.firstLost + p.replaced.length * 65536 } s)
    | none => s
  | none => s

/-- A decode job of a channel that goes on: its rows are lost, and what follows computes with them concealed (R377, R382). -/
def concealJob (id code : Nat) (j : Job) (s : State) : State :=
  let s := match j.work with
    | .decode _ first rows _ _ => modDecPic j.chan (fun p => { p with lost := (p.lost.filter (fun r => decide (r < first ∨ first + rows ≤ r))) ++ (List.range rows).map (· + first) }) s
    | _ => s
  let s := modJob id (fun x => { x with stop := none, players := [], codes := x.codes ++ [code] }) s
  if j.st = .offstage then modJob id (fun x => { x with st := .offstage }) s else decFinish id s

/-- The record of a decode job whose channel stops. -/
def dropDecode (id code : Nat) (j : Job) (s : State) : State :=
  let i := j.chan
  if !j.unit then dropJob id (cancelPicture i code j.retries s)
  else match (s.chan i).codec.dec.pic with
    | some p =>
      let index : Nat := match j.work with | .decode n _ _ _ _ => n | _ => 0xFFFF
      let s := if j.picEnd p then modDecPic i (fun q => { q with gone := true }) s else s
      dropJob id (postUnit i j.seq none (p.codes ++ j.codes ++ [code]) { flags := 4 * bit p.intra + 8 * bit (j.picEnd p), kind := 2, retries := j.retries, r0 := p.count + index * 2 ^ 32, r1 := p.pts, r2 := p.firstLost + p.replaced.length * 65536 } s)
    | none => dropJob id (postUnit i j.seq none (j.codes ++ [code]) { kind := 2, retries := j.retries } s)

/-- A code that the next unit's record of a channel carries. -/
def carryCode (i code : Nat) (s : State) : State := modChan i (fun c => { c with codec := { c.codec with carry := c.codec.carry ++ [code] } }) s

/-- The unit of a stopped job ends (R465, R466, R475); `goes` says that its channel stops with it. -/
def failUnit (id code : Nat) (j : Job) (goes : Bool) (s : State) : State :=
  let i := j.chan
  let codes := j.codes ++ [code]
  match j.work with
  | .tensor => let r := draw s; dropJob id (postUnit i j.seq j.cmd codes { kind := 5, retries := j.retries, r0 := r.1 % 2 ^ 64 } r.2)
  | .comp _ => dropJob id (postUnit i j.seq j.cmd codes { retries := j.retries, r0 := j.comp.bytes, r1 := j.comp.objs } s)
  | .slice n k =>
    (match (s.encPic i n).bind (fun p => (p.slices[k]?).map (fun x => (p, x))) with
    | none => dropJob id s
    | some (p, x) =>
      let s := if x.st = 7 then leavePic i n (modPic i n (fun q => q.upd k (fun y => { y with st := 6 })) s) else loseSlice i n k 6 s
      let s := if j.st = .offstage then s else releaseInput i p.input s
      let flags := 4 * bit p.intra + 8 * bit (k + 1 == enSlices (s.chan i).rec_ (s.chan i).seqHdr)
      let s := postUnit i j.seq none (x.codes ++ [code]) { flags, kind := 1, retries := j.retries, r0 := p.count + k * 2 ^ 32, r1 := (s.chan i).codec.made } s
      dropJob id (leavePic i n s))
  | .recon n k => dropJob id (modEnc i (fun e => { e with owed := true }) (carryCode i code (reconEnd i n k (j.pkg.getD {}) false s)))
  | .tune n => dropJob id (bump 0x30 Cnt.SEQ_ADAPT_ABANDONED 1 (carryCode i code (releaseInput i n s)))
  | .decode _ _ _ _ _ | .decodeEnd => if goes then dropDecode id code j s else concealJob id code j s
  | .enhance _ _ pts => dropJob id (postUnit i j.seq none codes { kind := 3, retries := j.retries, r0 := pts } (releaseInputs j s))
  | .audEnc _ => dropJob id (postUnit i j.seq none codes { kind := 4, retries := j.retries, r0 := j.frame } (releaseInputs j s))
  | .audDec _ =>
    if goes then dropJob id (postUnit i j.seq none codes { flags := 2, kind := 4, retries := j.retries, r0 := j.frame } s)
    else
      let s := modJob id (fun x => { x with stop := none, players := [], codes := codes, yhat := if x.st = .offstage then x.yhat else [] }) s
      if j.st = .offstage then s else audFinish id s

/-- The outcome of a stop once everything has drained (R473 to R478). `was` says where the job stood before it. -/
def stopEnd (id : Nat) (j : Job) (code : Nat) (s : State) : State :=
  let i := j.chan
  let c := s.chan i
  let going := c.dying.isSome || c.stopping.any (·.2)
  let retry := j.mayRetry code c
  let s := modJob id (fun x => { x with players := [], stats := [], marks := [], skipped := false }) (freePlayers j.players s)
  if !going && retry && decide (j.retries < setRetries c.settings) then retryJob id code j s
  else if !going && code == Code.F_PLAYER_SUSPECT && setSuspHalt c.settings then holdJob id j s
  else
    let code := if going && retry then Code.E_CANCELLED else code
    let s := cancelHist j s
    let s := if s.stepEnds j && !j.tensorJob then modChan i (fun x => { x with codec := endStep (x.pkg.getD {}) x.codec }) s else s
    let s := if code = Code.E_CANCELLED then bump 0x21 Cnt.HIF_JOBS_CANCELLED 1 s else s
    let s := if code = Code.E_CANCELLED ∨ code = Code.E_PEER_ABSENT then unitCode i j.seq code s else s
    if j.spares code then failUnit id code j going s
    else failUnit id code j true (beginRetire i code s)

/-- JOB_STOP on a job that something has stopped (R146, R227, R228). A job that holds nothing ends at once. -/
def jobStop (id : Nat) (s : State) : State :=
  match tget? s.jobs id with
  | none => s
  | some j => match j.stop with
    | none => s
    | some code => match j.st with
      | .ready => stopEnd id j code s
      | .offstage =>
        let t := stopCoder id j (stopStreams id j s)
        if t.drained id j then stopEnd id j code t else t
      | .running =>
        let t := stopBegin id j s
        if t.drained id j then stopEnd id j code t else t
      | .stopping => if s.drained id j then stopEnd id j code s else s

/-- JOB_STOP. -/
def execJobStop (id : Nat) (s : State) : Host.Outcome State Fault Refusal := .next (jobStop id s)

/-- The drain of a stagehand ends (R228): no request of it that a dead epoch tags is outstanding; its stopped streams leave, a relay
stream's slot once the stream has left its ring. -/
def drainEnd (sh : Nat) (s : State) : State :=
  let onRing (x : Nat × Stream) : Bool := s.relays.any (fun (y : Nat × Ring4) => y.2.streams.any (fun r => slotKey r.player r.slot == x.1 && some r.job == x.2.job))
  if s.rf (shdPage sh) Reg.SMV_JOB_DEAD = 0 ∨ s.shdWaits (fun a _ => a == sh) then s
  else
    let s := { s with streams := s.streams.filter (fun (x : Nat × Stream) => !(x.1 / 8 == sh && x.2.st == 6 && !onRing x)) }
    if s.streams.any (fun (x : Nat × Stream) => x.1 / 8 == sh && x.2.st == 6) then s
    else bump (shdPage sh) Cnt.SMV_DRAINS 1 (s.wf (shdPage sh) Reg.SMV_JOB_DEAD 0)

/-- STAGEHAND_DRAIN_END. -/
def execStagehandDrainEnd (sh : Nat) (s : State) : Host.Outcome State Fault Refusal := .next (drainEnd sh s)

/-! The Shared Store (R649, R650) -/

/-- The channel whose context a word of the Shared Store belongs to. -/
def State.wordOwner (s : State) (offset : Nat) : Option Nat :=
  if 0x400000 ≤ offset ∧ offset < 0x1400000 then s.slotOwner (offset / 0x40000 - 16) else none

/-- A double-bit error: the record, the stop of the job that met it, the end of the channel whose context it hits. -/
def shsDouble (offset : Nat) (job : Option Nat) (s : State) : State :=
  let owner := s.wordOwner offset
  let h := match owner, job.bind (tget? s.jobs) with
    | some i, _ => handleOf i (s.chan i)
    | none, some j => handleOf j.chan (s.chan j.chan)
    | none, none => 0
  let r := drawBelow 32 s
  let s := holdRecord 0x3A Reg.SHS_UE_VALID [(Reg.SHS_UE_BANK, r.1), (Reg.SHS_UE_ADDR_OFFSET, offset / 8 * 8), (Reg.SHS_UE_CHAN_HANDLE, h)] r.2
  let s := postFull 0x3A Code.F_SHS_UNCORRECTABLE h 0 0 0 (bump 0x3A Cnt.SHS_UNCORRECTABLE 1 s)
  let s := stopOf job Code.F_SHS_UNCORRECTABLE s
  match owner with
  | some i => beginRetire i Code.F_SHS_UNCORRECTABLE s
  | none => s

/-- SHS_ECC_ERROR (R649, R650): a single-bit error is corrected. Which bank holds a word the spec leaves open (log entry 5). The Shared
Store has no word at a higher offset, so no error is found there. -/
def execShsEccError (offset : Nat) (double : Bool) (job : Option Nat) (s : State) : Host.Outcome State Fault Refusal :=
  if 0x4000000 ≤ offset then .next s
  else if double then .next (shsDouble offset job s)
  else .next (post 0x3A Code.I_SHS_CORRECTED (bump 0x3A Cnt.SHS_CORRECTED 1 s))

end Sys2Proof.Machine
end

