-- ==== Sys2Proof/Machine/Media.lean ====
section
/-! DEFINITION. Media flows: configuration, ST 2110-20, ST 2110-30 and Thardax reception (spec/07, R286 to R289; spec/14, R528 to
R535). -/

namespace Sys2Proof.Machine

/-! Configuration (R528, R534) -/

/-- The page that holds the staged registers of a flow. -/
def flowPage (n : Nat) : Nat := 0x4000 + n

/-- The flow that the staged registers describe. -/
def State.staged (s : State) (n : Nat) : Flow :=
  let f (x : Fld) : Nat := s.rf (flowPage n) x
  { kind := f Reg.MED_FLOW_CFG_KIND, port := f Reg.MED_FLOW_CFG_PORT, pt := f Reg.MED_FLOW_CFG_PT, bpm := f Reg.MED_FLOW_CFG_BPM = 1, sampling := f Reg.MED_FLOW_CFG_SAMPLING, depth := f Reg.MED_FLOW_CFG_DEPTH, dscp := f Reg.MED_FLOW_CFG_DSCP, pcp := f Reg.MED_FLOW_CFG_PCP, ch := f Reg.MED_FLOW_CFG_CH, ptime := f Reg.MED_FLOW_CFG_PTIME = 1, dest := f Reg.MED_FLOW_ADDR_DEST, src := f Reg.MED_FLOW_SRC_SRC, dport := f Reg.MED_FLOW_PORTS_DPORT, sport := f Reg.MED_FLOW_PORTS_SPORT, ssrc := f Reg.MED_FLOW_SSRC_SSRC, width := f Reg.MED_FLOW_GEOM_WIDTH, height := f Reg.MED_FLOW_GEOM_HEIGHT, num := f Reg.MED_FLOW_RATE_NUM, den := f Reg.MED_FLOW_RATE_DEN, payload := f Reg.MED_FLOW_PAY_PAYLOAD, delay := f Reg.MED_FLOW_PAY_DELAY_US }

/-- Bytes of a Thardax frame (R516, R534): Ethernet with FCS and tag, IPv4, UDP, RTP, payload header and payload. -/
def State.thardaxFrame (s : State) (f : Flow) : Nat := 18 + 4 * s.rf (4 + f.port) Reg.ETH_CTRL_TAGGED + 20 + 8 + 12 + 8 + f.payload

/-- A write of MED_FLOW_CFG for flow `n` of `flows` (R528): the staged word, and APPLY. -/
def flowCfg (n : Nat) (w : Word) (s : State) : State :=
  let bound := (s.flow n).bound.isSome
  let s := (((s.setReg (flowPage n) 0x104 w).wf (flowPage n) Reg.MED_FLOW_CFG_APPLY 0)).wf (flowPage n) Reg.MED_FLOW_CFG_BOUND (bit bound)
  if bits w.toNat 31 1 = 0 then s
  else if bound then record 0x35 Code.E_CMD_INVALID s
  else
    let f := s.staged n
    if f.kind = 3 ∧ 256 ≤ n ∧ 9216 < s.thardaxFrame f then s else setFlow n f s

/-- FLOW_APPLY. -/
def execFlowApply (tx : Bool) (flow : Fin 256) (w : Word) (s : State) : Host.Outcome State Fault Refusal :=
  hostWrite 1 (fun s => flowCfg (flow.val + 256 * bit tx) (w ||| 0x80000000) ((s.wf 0x35 Reg.MED_FLOW_SEL_FLOW flow.val).wf 0x35 Reg.MED_FLOW_SEL_TX (bit tx))) s

/-! Reception (R529) -/

/-- Whether a receive flow accepts a packet. -/
def Flow.accepts (f : Flow) (h : RtpHdr) : Bool :=
  h.dest == f.dest && h.dport == f.dport && (f.src == 0 || h.src == f.src) && (f.ssrc == 0 || h.ssrc == f.ssrc)

/-- Whether a packet follows a gap in a flow's sequence numbers. -/
def Flow.gap (f : Flow) (h : RtpHdr) : Bool := match f.seq with | some q => q != h.seq % 65536 | none => false

/-- The channel of a flow, where it takes packets. -/
def State.flowChan (s : State) (f : Flow) : Option Nat := f.bound.bind (fun i => if (s.chan i).admits && (s.chan i).codec.started && (s.chan i).io.isSome then some i else none)

/-- A packet reaches a receive flow of a kind: what it does on a channel that runs; `go` learns whether the sequence has a gap. Where
`hold` answers a state, the channel cannot take the packet yet: it stays in the port's buffer, whose row comes again (R10). -/
def rtpIn (n kind : Nat) (h : RtpHdr) (hold : Nat → Bool → State → Option State) (go : Nat → Bool → State → State) (s : State) : State :=
  let f := s.flow n
  if !s.up ∨ f.kind ≠ kind then s
  else if !f.accepts h then bump 0x35 Cnt.MED_FILTERED 1 s
  else match (s.flowChan f).bind (fun i => hold i (f.gap h) s) with
    | some t => t
    | none =>
      let s := bump 0x35 Cnt.MED_SEQ_GAPS (bit (f.gap h)) (bump 0x35 Cnt.MED_RX_PKTS 1 (setFlow n { f with seq := some ((h.seq + 1) % 65536) } s))
      match s.flowChan f with
      | some i => go i (f.gap h) s
      | none => s

/-- Whether RTP timestamp `a` is not after `b`, modulo 2^32. -/
def notAfter (a b : Nat) : Bool := decide (ahead 32 b a < 2 ^ 31)

/-! ST 2110-20 (R530) -/

/-- The geometry of a channel's input pictures. -/
def State.inGeom (s : State) (i : Nat) : List Byte :=
  let c := s.chan i
  if c.ty = 2 then enhGeom s i (nhW c.rec_) (nhH c.rec_) else c.seqHdr

/-- The plane and column of sample k of a row segment; RGB takes the planes in its order (log entry 32). -/
def pgPlace (f : Flow) (g : RowSeg) (k : Nat) : Nat × Nat :=
  match f.sampling with
  | 0 => let q := g.offset + k / 4; (match k % 4 with | 0 => (1, q) | 1 => (0, 2 * q) | 2 => (2, q) | _ => (0, 2 * q + 1))
  | 1 => let q := g.offset + k / 3; (match k % 3 with | 0 => (1, q) | 1 => (0, q) | _ => (2, q))
  | _ => (k % 3, g.offset + k / 3)

/-- No more lines of an input picture come (R324, R530). -/
def closeInput (i num : Nat) (s : State) : State :=
  if (s.chan i).ty = 0 then fillLines i num s
  else
    let s := modChan i (fun x => { x with codec := { x.codec with inputs := x.codec.inputs.map (fun q => if q.num = num then { q with closed := true } else q) } }) s
    inputWhole i num s

/-- The open picture of a receive flow closes. -/
def closeFlow (n i : Nat) (s : State) : State :=
  let f := s.flow n
  match f.ts with
  | none => s
  | some t =>
    let s := setFlow n { f with ts := none, closedTs := some t, filled := [], skip := false } s
    match (s.chan i).codec.inputs.find? (fun p => !p.closed) with
    | some p => if f.skip then s else closeInput i p.num s
    | none => s

/-- A picture of a new RTP timestamp opens; without a free buffer it is discarded (R325). -/
def openFlow (n i ts : Nat) (s : State) : State :=
  let s := closeFlow n i s
  let c := s.chan i
  let scale := if c.ty = 2 then nhScale c.rec_ else seqScale c.seqHdr
  let r := openInput i (Config.flowPts (ts, scale, s.time) % 2 ^ 48) s
  let s := bump 0x35 Cnt.MED_RING_FULL (bit (!r.1)) r.2
  setFlow n { s.flow n with ts := some ts, filled := [], skip := !r.1 } s

/-- One sample of a row segment is written. -/
def putSample (f : Flow) (i : Nat) (h : List Byte) (base pitch : Nat) (g : RowSeg) (s : State) (x : Nat × Nat) : State :=
  let p := pgPlace f g x.2
  let y := if planeH h p.1 = seqH h then g.line else g.line / 2
  if planeW h p.1 ≤ p.2 ∨ planeH h p.1 ≤ y then s
  else writeVa i (base + planeAt h pitch p.1 + y * planePitch h pitch p.1 + p.2 * seqB h) (leBytes (seqB h) x.1) .none 2 s

/-- The samples of a row segment are written; a line whose last sample has been written has arrived. -/
def putSegment (n i num : Nat) (io : Io) (g : RowSeg) (s : State) : State :=
  let f := s.flow n
  let h := s.inGeom i
  let base := io.inBase + num % max 1 io.inSlots * picBytes h io.inPitch
  if seqH h ≤ g.line then s
  else
    let s := g.samples.zipIdx.foldl (fun a x => putSample f i h base io.inPitch g a x) s
    let got := tget f.filled 0 g.line + g.samples.length
    let s := setFlow n { f with filled := tput f.filled g.line got } s
    if got < planeW h 0 + planeW h 1 + planeW h 2 then s
    else modChan i (fun x => { x with codec := { x.codec with inputs := x.codec.inputs.map (fun q => if q.num = num then { q with got := tput q.got g.line s.time, last := s.time } else q) } }) s

/-- An ST 2110-20 packet on a running channel. -/
def videoIn (n : Nat) (h : RtpHdr) (segs : List RowSeg) (i : Nat) (s : State) : State :=
  let f := s.flow n
  let ts := h.timestamp % 2 ^ 32
  let late : Bool := (match f.closedTs with | some t => notAfter ts t | none => false) || (match f.ts with | some t => t != ts && notAfter ts t | none => false)
  if late then bump 0x35 Cnt.MED_LATE_PKTS 1 s
  else
    let s := if f.ts = some ts then s else openFlow n i ts s
    let s := if (s.flow n).skip then s
      else match (s.chan i).codec.inputs.find? (fun p => !p.closed), (s.chan i).io with
        | some p, some io => segs.foldl (fun a g => putSegment n i p.num io g a) s
        | _, _ => s
    if h.marker then closeFlow n i s else s

/-- ST2110_20_PACKET. -/
def execSt211020Packet (flow : Fin 256) (h : RtpHdr) (segs : List RowSeg) (s : State) : Host.Outcome State Fault Refusal :=
  .next (rtpIn flow.val 1 h (fun _ _ _ => none) (fun i _ a => videoIn flow.val h segs i a) s)

/-! ST 2110-30 (R531) -/

/-- The position in the frame a flow assembles. -/
def Flow.pos (f : Flow) : Nat := tget f.filled 0 0

/-- A frame opens in the next slot. -/
def openFrame (n i : Nat) (s : State) : State :=
  let c := s.chan i
  let p : InPic := { num := c.codec.total, pts := Config.flowPts ((s.flow n).ts.getD 0, 48000, s.time) % 2 ^ 48, last := s.time }
  modChan i (fun x => { x with codec := { x.codec with total := x.codec.total + 1, inputs := x.codec.inputs ++ [p] } }) s

/-- The sampling instants for which the slots have room: those of the open frame and of the free slots. -/
def State.instantRoom (s : State) (n i : Nat) : Nat :=
  let c := s.chan i
  let p := (s.flow n).pos
  (if p = 0 then 0 else 480 - p) + 480 * (c.inCap - (c.codec.total - c.codec.used))

/-- One sampling instant: its samples, or none where it was lost. -/
def putInstant (n i : Nat) (v : Option (List Nat)) (s : State) : State :=
  let s := if (s.flow n).pos = 0 then openFrame n i s else s
  let f := s.flow n
  let c := s.chan i
  let r := c.rec_
  let nch := auNch r
  let s := match v with
    | some _ => s
    | none =>
      let s := bump 0x35 Cnt.MED_AUD_LOST (f.ch + 1) s
      modChan i (fun x => { x with codec := { x.codec with inputs := x.codec.inputs.map (fun q => if q.closed then q else { q with filled := [0] }) } }) s
  let bytes := ((v.getD (List.replicate nch 0)).take nch).flatMap (fun x => leBytes 4 (wrapTo 32 (signed 24 x)))
  let s := writeVa i (auBase r + (c.codec.total - 1) % max 1 (auFrames r) * 1920 * nch + f.pos * 4 * nch) bytes .none 2 s
  if f.pos + 1 < 480 then setFlow n { f with filled := [(0, f.pos + 1)] } s
  else
    let s := setFlow n { f with filled := [], ts := f.ts.map (fun t => (t + 480) % 2 ^ 32) } s
    let num := c.codec.total - 1
    inputWhole i num (modChan i (fun x => { x with codec := { x.codec with inputs := x.codec.inputs.map (fun q => if q.num = num then { q with whole := some s.time, last := s.time, closed := true } else q) } }) s)

/-- Groups of n. -/
def chunks {α : Type} (n : Nat) (l : List α) : List (List α) := (List.range (l.length / max 1 n)).map (fun k => (l.drop (n * k)).take n)

/-- The first packet of a flow gives its timestamps their start. -/
def audioOpen (n : Nat) (h : RtpHdr) (s : State) : State :=
  let f := s.flow n
  if f.ts.isNone then setFlow n { f with ts := some (h.timestamp % 2 ^ 32), filled := [] } s else s

/-- The instants that a packet's timestamp skips; 2^31 and more say that it lies before the flow's place. -/
def Flow.lostBefore (f : Flow) (h : RtpHdr) : Nat := ahead 32 (h.timestamp % 2 ^ 32) ((f.ts.getD 0 + f.pos) % 2 ^ 32)

/-- Lost instants. -/
def lostInstants (n i k : Nat) (s : State) : State := (List.range k).foldl (fun a _ => putInstant n i none a) s

/-- An ST 2110-30 packet waits while the frame slots have no room for what it skips, which is written as far as they have, and for its
samples (R10; log entry 111). -/
def audioHold (n : Nat) (h : RtpHdr) (samples : List Nat) (i : Nat) (s : State) : Option State :=
  let t := audioOpen n h s
  let d := (t.flow n).lostBefore h
  let room := t.instantRoom n i
  if 2 ^ 31 ≤ d ∨ d + (chunks ((s.flow n).ch + 1) samples).length ≤ room then none
  else some (lostInstants n i (min d room) t)

/-- An ST 2110-30 packet on a running channel: samples that its timestamp skips are lost; one that lies before them is not used. -/
def audioIn (n : Nat) (h : RtpHdr) (samples : List Nat) (i : Nat) (s : State) : State :=
  let s := audioOpen n h s
  let f := s.flow n
  let d := f.lostBefore h
  if 2 ^ 31 ≤ d then s
  else (chunks (f.ch + 1) samples).foldl (fun a x => putInstant n i (some x) a) (lostInstants n i d s)

/-- ST2110_30_PACKET. -/
def execSt211030Packet (flow : Fin 256) (h : RtpHdr) (samples : List Nat) (s : State) : Host.Outcome State Fault Refusal :=
  .next (rtpIn flow.val 2 h (fun i _ a => audioHold flow.val h samples i a) (fun i _ a => audioIn flow.val h samples i a) s)

/-! Thardax by RTP (R286 to R289) -/

/-- Write bytes at a stream position of a channel's input ring. -/
def ringIn (i pos : Nat) (l : List Byte) (s : State) : State :=
  match (s.chan i).io with
  | some x => ringOut i x.inBase x.inBytes pos l s
  | none => s

/-- The bytes of a run join the stream. -/
def takeRun (i : Nat) (l : List Byte) (s : State) : State :=
  let total := (s.chan i).codec.total
  let s := ringIn i total l s
  modChan i (fun c => { c with codec := { c.codec with total := total + l.length, dec := { c.codec.dec with arrivals := c.codec.dec.arrivals ++ [(total + l.length, s.time)] } } }) s

/-- A Thardax payload header as far as R289 reads it, and the run behind it. -/
structure Run where
  ok : Bool
  first : Bool
  last : Bool
  off : Nat
  bytes : List Byte

/-- Read a payload (R286, R287). -/
def thardaxRun (payload : List Byte) : Run :=
  let hd := payload.take 8
  { ok := decide (8 ≤ payload.length) && hBits hd 0 2 == 1, first := hBits hd 2 1 == 1, last := hBits hd 3 1 == 1, off := hBits hd 32 32, bytes := payload.drop 8 }

/-- Whether bytes of a segment have come and its last run has not. -/
def Flow.inSegment (f : Flow) : Bool := !f.skip && f.expect != 0 && decide (f.expect < 2 ^ 32)

/-- Whether a run breaks the stream: a gap in the sequence numbers, or an OFFSET that does not continue the segment in progress. -/
def Flow.breaks (f : Flow) (gap : Bool) (r : Run) : Bool := gap || (r.ok && !r.first && (!f.inSegment || r.off != f.expect))

/-- What the parser does of a segment that was cut: its handling of a segment that a marker ends early; of one that it would skip, the
report alone. -/
def cutTake (code i : Nat) (l : List Byte) (s : State) : State :=
  let body := l ++ [0xFF, 0xAF]
  match code with
  | 0xA1 => takeSeq i body s
  | 0xA2 => takePic i body s
  | 0xA3 => takeSlc i body s
  | 0xA4 => takeAud i body s
  | 0xA5 => takeAdp i body s
  | _ => skipSegment i (if (s.chan i).codec.dec.seq.isEmpty then s else streamEvent i Code.E_MARKER_LOST (s.chan i).codec.dec.rd s)

/-- The segment in progress of a receive flow is cut (R289): once the parser has come to it, it is reported, and its bytes leave the ring.
Answers whether that is done. -/
def cutSegment (n i : Nat) (s : State) : Bool × State :=
  let f := s.flow n
  let c := s.chan i
  let start := c.codec.total - f.expect
  let rd := c.codec.dec.rd
  if !f.inSegment then (true, setFlow n { f with skip := true } s)
  else if rd < start then (false, s)
  else
    let l := streamBytes s i start (c.codec.total - start) []
    let t := if start < rd then s else cutTake (l.getD 1 0).toNat i (l.drop 2) s
    if rd = start ∧ (t.chan i).codec.dec.rd = start then (false, t)
    else
      let u := consume i rd (rd == start) (modChan i (fun c => { c with codec := { c.codec with total := rd } }) t)
      (true, setFlow n { u.flow n with skip := true, expect := 0 } u)

/-- A Thardax packet waits for the parser to come to a segment that it cuts, and for room in the ring (R10, R289). -/
def thardaxHold (n : Nat) (payload : List Byte) (i : Nat) (gap : Bool) (s : State) : Option State :=
  let r := thardaxRun payload
  let x := if (s.flow n).breaks gap r then cutSegment n i s else (true, s)
  let c := x.2.chan i
  if !x.1 then some x.2
  else if r.ok && (r.first || !(x.2.flow n).skip) && decide (c.inCap - (c.codec.total - c.codec.used) < r.bytes.length) then some x.2
  else none

/-- A Thardax packet on a running channel (R289): after a gap nothing passes until a run begins with a marker. -/
def thardaxIn (n : Nat) (payload : List Byte) (i : Nat) (gap : Bool) (s : State) : State :=
  let r := thardaxRun payload
  let s := if (s.flow n).breaks gap r then (cutSegment n i s).2 else s
  let f := s.flow n
  if !r.ok then bump 0x35 Cnt.MED_BAD_VER 1 s
  else if f.skip && !r.first then s
  else takeRun i r.bytes (setFlow n { f with skip := false, expect := if r.last then 2 ^ 32 else (if r.first then 0 else r.off) + r.bytes.length } s)

/-- THARDAX_PACKET_RECEIVE. -/
def execThardaxPacketReceive (flow : Fin 256) (h : RtpHdr) (payload : List Byte) (s : State) : Host.Outcome State Fault Refusal :=
  .next (rtpIn flow.val 3 h (fun i gap a => thardaxHold flow.val payload i gap a) (fun i gap a => thardaxIn flow.val payload i gap a) s)

end Sys2Proof.Machine
end

