-- ==== Sys2Proof/Machine/Clock.lean ====
section
/-! DEFINITION. Device time: its tick, its sources, steps and the servo (spec/14, R536 to R540, R544). -/

namespace Sys2Proof.Machine

/-! Steps (R540, R544) -/

/-- A time that a step moves. -/
def shiftT (d : Int) (t : Nat) : Nat := ((t : Int) + d).toNat

/-- A step moves every pending deadline, limit, timer and egress instant, so that every remaining interval is unchanged (R540); what
the model times otherwise than by device time moves with it (log entry 34). -/
def shiftJob (d : Int) (j : Job) : Job :=
  { j with deadline := j.deadline.map (shiftT d), readyAt := shiftT d j.readyAt, startedAt := shiftT d j.startedAt, moved := shiftT d j.moved, codeAt := j.codeAt.map (shiftT d), stopAt := j.stopAt.map (fun x => (shiftT d x.1, x.2)) }
def shiftSlice (d : Int) (x : EncSlice) : EncSlice := { x with deadline := x.deadline.map (shiftT d), readyAt := shiftT d x.readyAt }
def shiftInput (d : Int) (p : InPic) : InPic := { p with last := shiftT d p.last, whole := p.whole.map (shiftT d), got := p.got.map (fun x => (x.1, shiftT d x.2)) }
def shiftCodec (d : Int) (c : Codec) : Codec :=
  { c with inputs := c.inputs.map (shiftInput d), enc := { c.enc with pics := c.enc.pics.map (fun p => { p with slices := p.slices.map (shiftSlice d) }) }, dec := { c.dec with arrivals := c.dec.arrivals.map (fun a => (a.1, shiftT d a.2)) } }
def shiftFlow (d : Int) (f : Flow) : Flow := { f with offset := f.offset.map (· + d), units := f.units.map (fun u => { u with instant := u.instant.map (shiftT d) }) }
def shiftPlayer (d : Int) (k : Player) : Player := { k with active := shiftT d k.active, started := shiftT d k.started }
def shiftQp (d : Int) (q : Qp) : Qp := { q with lastCut := shiftT d q.lastCut, lastCnpTx := q.lastCnpTx.map (shiftT d) }

/-- Device time steps by d nanoseconds. -/
def stepTime (d : Int) (s : State) : State :=
  bump 0x35 Cnt.MED_TIME_STEPS 1
    { s with time := wrapTo 64 ((s.time : Int) + d), jobs := s.jobs.map (fun x => (x.1, shiftJob d x.2)), chans := s.chans.map (fun x => (x.1, { x.2 with codec := shiftCodec d x.2.codec, lastDispatch := shiftT d x.2.lastDispatch })), flows := s.flows.map (fun x => (x.1, shiftFlow d x.2)), players := s.players.map (fun x => (x.1, shiftPlayer d x.2)), streams := s.streams.map (fun x => (x.1, { x.2 with haltAt := shiftT d x.2.haltAt })), qps := s.qps.map (fun x => (x.1, shiftQp d x.2)), ports := s.ports.map (fun x => (x.1, { x.2 with since := x.2.since.map (shiftT d) })), servo := { s.servo with lastMeas := shiftT d s.servo.lastMeas }, boot := { s.boot with session := s.boot.session.map (fun x => { x with lastTime := shiftT d x.lastTime }) } }

/-- TIME_STEP: a write of MED_TIME_STEP. -/
def execTimeStep (w : Word) (s : State) : Host.Outcome State Fault Refusal := hostWrite 1 (stepTime (signed 32 w.toNat)) s

/-- A write of MED_TIME_SET_HI (R544). -/
def timeSet (w : Word) (s : State) : State := stepTime (((w.toNat * 2 ^ 32 + s.rf 0x35 Reg.MED_TIME_SET_LO_TIME : Nat) : Int) - (s.time : Int)) s

/-- TIME_SET. -/
def execTimeSet (w : Word) (s : State) : Host.Outcome State Fault Refusal := hostWrite 1 (timeSet w) s

/-! The tick -/

/-- A second without an edge of PPS_IN while it is the source ends half a second after the edge was due (R537, R668; log entry 202). -/
def ppsMissing (s : State) : State :=
  let due (t : Nat) : Nat := (t - s.servo.lastMeas - 500000000) / 1000000000
  if s.rf 0x35 Reg.MED_TIME_CTRL_SOURCE = 2 ∧ due s.time < due (s.time + 2) then bump 3 Cnt.PWR_PPS_MISSING 1 s else s

/-- A PTP cycle: 2 ns, with at most 100 ppm of slewing, 2 ns in 10,000 cycles (R536, R539). -/
def tick (s : State) : State :=
  if !s.boot.running then s
  else
    let v := s.servo
    let s := ppsMissing s
    if v.slew = 0 then { s with time := (s.time + 2) % 2 ^ 64 }
    else if v.frac + 1 < 10000 then { s with time := (s.time + 2) % 2 ^ 64, servo := { v with frac := v.frac + 1 } }
    else
      let n := clampInt v.slew (-2) 2
      { s with time := wrapTo 64 ((s.time : Int) + 2 + n), servo := { v with slew := v.slew - n, frac := 0 } }

/-! Sources (R537 to R539) -/

/-- Enter a time state; each change posts I_TIME_STATE (R538). -/
def setTimeState (n : Nat) (s : State) : State :=
  if s.rf 0x35 Reg.MED_TIME_STAT_STATE = n then s
  else postFull 0x35 Code.I_TIME_STATE 0 0 n 0 (s.wf 0x35 Reg.MED_TIME_STAT_STATE n)

/-- A message or an edge of the selected source arrives (R538). -/
def sourceSeen (s : State) : State := if s.rf 0x35 Reg.MED_TIME_STAT_STATE = 0 then setTimeState 1 s else s

/-- A measurement of the offset, device time minus source time (R538, R539). -/
def measured (off : Int) (s : State) : State :=
  let sat := clampInt off (-(2 ^ 31 : Nat)) ((2 ^ 31 : Nat) - 1)
  let s := s.wf 0x35 Reg.MED_TIME_OFFSET_OFFSET (wrapTo 32 sat)
  let big := decide (1000000 < off.natAbs)
  let good : Nat := if off.natAbs < 1000 then min 16 (s.servo.good + 1) else 0
  let s := { s with servo := { s.servo with good, lastMeas := s.time } }
  let locking : Bool := s.rf 0x35 Reg.MED_TIME_STAT_STATE == 1
  let s : State := if locking && big && !s.servo.stepped && !s.servo.everLocked then
      let t := stepTime (-off) s
      { t with servo := { t.servo with stepped := true, slew := 0 } }
    else { s with servo := { s.servo with slew := -off } }
  let s : State := if good = 16 ∧ s.rf 0x35 Reg.MED_TIME_STAT_STATE ≠ 2 then setTimeState 2 { s with servo := { s.servo with everLocked := true } } else s
  s.wf 0x35 Reg.MED_TIME_STAT_STEP_NEEDED (bit (s.servo.everLocked && big))

/-- The path delay and the offset once both exchanges are there. -/
def ptpOffset (s : State) : State :=
  match s.servo.t1 with
  | some t1 => measured ((s.servo.t2 : Int) - (t1 : Int) - s.servo.delay) s
  | none => s

/-- PTP_MESSAGE (R537): a message of the selected domain on the selected port. -/
def ptpMessage (port domain : Nat) (m : PtpMsg) (s : State) : State :=
  let s := match m with | .sync _ _ => bump 0x35 Cnt.MED_PTP_RX 1 s | _ => s
  if s.rf 0x35 Reg.MED_TIME_CTRL_SOURCE ≠ 1 ∨ s.rf 0x35 Reg.MED_TIME_CTRL_PTP_PORT ≠ port ∨ s.rf 0x35 Reg.MED_TIME_CTRL_DOMAIN ≠ domain then s
  else
    let s := sourceSeen s
    match m with
    | .announce => s
    | .sync origin two =>
      let s := { s with servo := { s.servo with t1 := if two then none else some origin, t2 := s.time } }
      if two then s else ptpOffset s
    | .followUp origin => ptpOffset { s with servo := { s.servo with t1 := some origin } }
    | .delayResp t4 =>
      match s.servo.t1, s.servo.t3 with
      | some t1, some t3 => { s with servo := { s.servo with t4 := some t4, t3 := none, delay := (((s.servo.t2 : Int) - (t1 : Int)) + ((t4 : Int) - (t3 : Int))) / 2 } }
      | _, _ => s

/-- PTP_MESSAGE. -/
def execPtpMessage (port : Fin 4) (domain : Nat) (m : PtpMsg) (s : State) : Host.Outcome State Fault Refusal :=
  .next (if s.up then ptpMessage port.val domain m s else s)

/-- PTP_DELAY_REQ (R537): the time receiver sends a delay request. -/
def execPtpDelayReq (s : State) : Host.Outcome State Fault Refusal :=
  if !s.up ∨ s.rf 0x35 Reg.MED_TIME_CTRL_SOURCE ≠ 1 ∨ s.servo.t1.isNone then .next s
  else
    let n := s.rf 0x35 Reg.MED_TIME_CTRL_PTP_PORT
    .next (sendOn n 0 (.delayReq n) (bump 0x35 Cnt.MED_PTP_TX 1 { s with servo := { s.servo with t3 := some s.time } }))

/-- Time since the nearest second boundary (MED_PPS). -/
def secondOff (t : Nat) : Int := let r := t % 1000000000; if r < 500000000 then (r : Int) else (r : Int) - 1000000000

/-- PPS_EDGE (R537): every edge is timed; under source PPS it is a measurement. -/
def execPpsEdge (s : State) : Host.Outcome State Fault Refusal :=
  if !s.up then .next s
  else
    let off := secondOff s.time
    let s := holdRecord 0x35 Reg.MED_PPS_VALID [(Reg.MED_PPS_ERR, wrapTo 31 off)] (bump 0x35 Cnt.MED_PPS_EDGES 1 s)
    if s.rf 0x35 Reg.MED_TIME_CTRL_SOURCE = 2 then .next (measured off (sourceSeen s)) else .next s

/-- TIME_HOLDOVER (R538): no measurement for 3 s while LOCKED. -/
def execTimeHoldover (s : State) : Host.Outcome State Fault Refusal :=
  if s.rf 0x35 Reg.MED_TIME_STAT_STATE ≠ 2 ∨ s.time < s.servo.lastMeas + 3000000000 then .next s
  else .next (setTimeState 3 { s with servo := { s.servo with good := 0 } })

/-- A write of MED_TIME_CTRL: another source starts in FREERUN (R538); the value 3 keeps the source. -/
def timeCtrl (w : Word) (s : State) : State :=
  let old := s.rf 0x35 Reg.MED_TIME_CTRL_SOURCE
  let new := if bits w.toNat 0 2 = 3 then old else bits w.toNat 0 2
  let s := (s.setReg 0x35 0x148 (w &&& 0xFFF)).wf 0x35 Reg.MED_TIME_CTRL_SOURCE new
  if new = old then s
  else setTimeState 0 ({ s with servo := { lastMeas := s.time, everLocked := s.servo.everLocked } }.wf 0x35 Reg.MED_TIME_STAT_STEP_NEEDED 0)

end Sys2Proof.Machine
end

