-- ==== Sys2Proof/Machine/Blocks.lean ====
section
/-! DEFINITION. PG_CTRL: quiesce, reset, power-down and enable of a block's page, and of the members of an ensemble view (spec/04, R154,
R158, R159; spec/13, R492; spec/16, R578 to R582; spec/17, R603; spec/18, R632, R635). -/

namespace Sys2Proof.Machine

/-- Whether a running job needs the block of a page (R579). -/
def State.worksOn (s : State) (page : Nat) : Bool :=
  s.jobs.any (fun (j : Nat × Job) => j.2.st != .ready && j.2.work.pages.contains page)

/-- Whether the block of a page holds a request in either direction (R579). -/
def State.holdsRequest (s : State) (page : Nat) : Bool :=
  match pageBlk page with
  | some .ply => (s.ply (page - 0x100)).job.isSome
  | some .smv => s.streams.any (fun (x : Nat × Stream) => x.1 / 8 == page - 0x200) ||
      s.qps.any (fun (q : Nat × Qp) => q.2.out.any (fun r => match r.owner with | .stream sh _ _ => shdPage sh == page | _ => false))
  | some .wrl => !(s.ring (page - 0x290)).streams.isEmpty || !(s.ring (page - 0x290)).flying.isEmpty
  | some .tre => s.rf page Reg.TRE_STATE_MODE != 0
  | some .rdm => s.qps.any (fun (q : Nat × Qp) => !q.2.out.isEmpty)
  | some .pair => !(s.qp 4095).out.isEmpty
  | some .eth => !(tget s.ports {} (page - 4)).held.isEmpty
  | some .seq | some .rgv | some .rca | some .ptb | some .fsc => s.worksOn page
  | _ => false

/-- The state that the chapter of a block says its reset clears (R154, R632): a player's queues, semaphores, local store and thread
data memory. -/
def resetBlock (page : Nat) (s : State) : State :=
  match pageBlk page with
  | some .ply => setPly (page - 0x100) {} (clearStore (page - 0x100) s)
  | _ => s

/-- The state that a power-down loses (R581): what a reset clears, cached descriptors, table banks, traces, the turn of a transform engine. LPDDR6 keeps its contents
(R492). -/
def loseBlock (page : Nat) (s : State) : State :=
  match pageBlk page with
  | some .smv => { s with shds := tput s.shds (page - 0x200) { tget s.shds {} (page - 0x200) with cache := [] } }
  | some .ptb => { s with tableBanks := [none, none] }
  | some .tre => { s with treLast := tdel s.treLast page }
  | some .trc => (List.range 68).foldl (fun a p => emptyTrace p a) s
  | _ => resetBlock page s

/-- Requests held until QUIESCED reads 1 take effect (R154, R581): a reset first. -/
def takeRequests (page : Nat) (s : State) : State :=
  if s.rf page Reg.PG_STAT_QUIESCED = 0 ∨ s.rf page Reg.PG_STAT_IN_RESET = 1 ∨ s.rf page Reg.PG_STAT_POWERED_DOWN = 1 then s
  else if s.rf page Reg.PG_CTRL_RESET_REQ = 1 then setStat page Reg.PG_STAT_IN_RESET 1 s
  else if s.rf page Reg.PG_CTRL_POWER_DOWN_REQ = 1 then loseBlock page (setStat page Reg.PG_STAT_POWERED_DOWN 1 s)
  else s

/-- QUIESCE_REQ is set (R578). -/
def quiesceSet (page : Nat) (s : State) : State := s.wf page Reg.PG_CTRL_QUIESCE_REQ 1

/-- QUIESCE_REQ is cleared (R580, R635): service returns unless ENABLE is 0; a request not yet in effect is withdrawn; while powered
down the write is ignored. -/
def quiesceClear (page : Nat) (s : State) : State :=
  if s.rf page Reg.PG_CTRL_QUIESCE_REQ = 0 then s
  else if s.rf page Reg.PG_STAT_POWERED_DOWN = 1 then record page Code.E_CMD_INVALID s
  else
    let s := s.wf page Reg.PG_CTRL_QUIESCE_REQ 0
    let s := if s.rf page Reg.PG_STAT_IN_RESET = 1 then s else s.wf page Reg.PG_CTRL_RESET_REQ 0
    let s := s.wf page Reg.PG_CTRL_POWER_DOWN_REQ 0
    if s.rf page Reg.PG_CTRL_ENABLE = 1 then setStat page Reg.PG_STAT_QUIESCED 0 s else s

/-- RESET_REQ is set (R581); ignored while the block is powered down. -/
def resetReq (page : Nat) (s : State) : State :=
  if s.rf page Reg.PG_STAT_POWERED_DOWN = 1 then s else takeRequests page (s.wf page Reg.PG_CTRL_RESET_REQ 1)

/-- POWER_DOWN_REQ is set (R581). -/
def powerReq (page : Nat) (s : State) : State := takeRequests page (s.wf page Reg.PG_CTRL_POWER_DOWN_REQ 1)

/-- POWER_DOWN_REQ is cleared (R581): a powered-down block powers up through a reset. -/
def powerClear (page : Nat) (s : State) : State :=
  if s.rf page Reg.PG_CTRL_POWER_DOWN_REQ = 0 then s
  else
    let s := s.wf page Reg.PG_CTRL_POWER_DOWN_REQ 0
    if s.rf page Reg.PG_STAT_POWERED_DOWN = 1 then setStat page Reg.PG_STAT_IN_RESET 1 s else s

/-- ENABLE is cleared (R26, R29, R635): only while QUIESCED. -/
def enableClear (page : Nat) (s : State) : State :=
  if s.rf page Reg.PG_CTRL_ENABLE = 0 then s
  else if s.rf page Reg.PG_STAT_QUIESCED = 0 then record page Code.E_CMD_INVALID s
  else if pageBlk page = some .ply then resizing (fun a => a.wf page Reg.PG_CTRL_ENABLE 0) s
  else s.wf page Reg.PG_CTRL_ENABLE 0

/-- ENABLE is set (R26, R29, R635); ignored for a player that is a spare or RETIRED. -/
def enableSet (page : Nat) (s : State) : State :=
  if s.rf page Reg.PG_CTRL_ENABLE = 1 then s
  else if pageBlk page = some .ply then
    if s.rf page Reg.PLY_IDX_LOGICAL = 0xFF ∨ s.rf page Reg.PG_STAT_RETIRED = 1 then s
    else resizing (fun a => a.wf page Reg.PG_CTRL_ENABLE 1) s
  else s.wf page Reg.PG_CTRL_ENABLE 1

/-- A write to an ensemble view that is ignored (R24, R159). -/
def viewReject (s : State) : State := bump 0x39 Cnt.ENS_VIEW_WRITES 1 (record 0x39 Code.E_CMD_INVALID s)

/-- The pages of the players of a view's ensemble, in rank order. -/
def State.viewPages (s : State) (page : Nat) : List Nat := ((s.ensPlayers (page - 0x300)).filterMap s.physOf).map (0x100 + ·)

/-- A change of PG_CTRL where a page takes it: on its block, on each member of a view (R159); on a page without it the write is ignored
(spec/16, "Quiesce, reset and power-down"; R630). `all` says that every page has the bit. -/
def onPage (page : Nat) (all view : Bool) (f : Nat → State → State) (s : State) : State :=
  match pageBlk page with
  | none => bump 0 Cnt.GLB_UNMAPPED_WRITES 1 s
  | some .board => s
  | some .view => if view && s.ensExists (page - 0x300) then (s.viewPages page).foldl (fun a p => f p a) s else viewReject s
  | some b => if all || b.quiesces then f page s else record page Code.E_CMD_INVALID s

/-- QUIESCE_REQ_SET (R159, R578). -/
def execQuiesceReqSet (page : Fin 4096) (s : State) : Host.Outcome State Fault Refusal := hostWrite 1 (onPage page.val false true quiesceSet) s

/-- QUIESCE_REQ_CLEAR (R159, R580). -/
def execQuiesceReqClear (page : Fin 4096) (s : State) : Host.Outcome State Fault Refusal := hostWrite 1 (onPage page.val true true quiesceClear) s

/-- RESET_REQ (R159, R581). -/
def execResetReq (page : Fin 4096) (s : State) : Host.Outcome State Fault Refusal := hostWrite 1 (onPage page.val false false resetReq) s

/-- POWER_DOWN_REQ (R159, R581). -/
def execPowerDownReq (page : Fin 4096) (s : State) : Host.Outcome State Fault Refusal := hostWrite 1 (onPage page.val false false powerReq) s

/-- POWER_UP_REQ (R581). -/
def execPowerUpReq (page : Fin 4096) (s : State) : Host.Outcome State Fault Refusal := hostWrite 1 (onPage page.val true false powerClear) s

/-- ENABLE_CLEAR (R159, R635). -/
def execEnableClear (page : Fin 4096) (s : State) : Host.Outcome State Fault Refusal := hostWrite 1 (onPage page.val true true enableClear) s

/-- ENABLE_SET (R159, R635). -/
def execEnableSet (page : Fin 4096) (s : State) : Host.Outcome State Fault Refusal := hostWrite 1 (onPage page.val true true enableSet) s

/-- QUIESCE_DONE (R579, R581): a block that holds no request any more becomes QUIESCED. -/
def execQuiesceDone (page : Fin 4096) (s : State) : Host.Outcome State Fault Refusal :=
  let p := page.val
  if 0x300 ≤ p ∨ s.rf p Reg.PG_CTRL_QUIESCE_REQ = 0 ∨ s.rf p Reg.PG_STAT_QUIESCED = 1 ∨ s.holdsRequest p then .next s
  else .next (takeRequests p (setStat p Reg.PG_STAT_QUIESCED 1 s))

/-- The running bank of a page starts again at zero; the closed bank and the tags stay (R603). -/
def clearBank (page : Nat) (s : State) : State :=
  let b := tget s.banks {} page
  { s with banks := tput s.banks page { b with base := s.counters page } }

/-- BLOCK_RESET_DONE (R154, R492, R581, R603): the block's state is cleared, EPOCH increments and IN_RESET, RESET_REQ and POWERED_DOWN
clear together; a power-down requested meanwhile takes effect. -/
def execBlockResetDone (page : Fin 4096) (s : State) : Host.Outcome State Fault Refusal :=
  let p := page.val
  if 0x300 ≤ p ∨ s.rf p Reg.PG_STAT_IN_RESET = 0 then .next s
  else
    let s := clearBank p (resetBlock p s)
    let s := s.wf p Reg.PG_STAT_EPOCH (s.rf p Reg.PG_STAT_EPOCH + 1)
    .next (takeRequests p (setStat p Reg.PG_STAT_IN_RESET 0 ((s.wf p Reg.PG_CTRL_RESET_REQ 0).wf p Reg.PG_STAT_POWERED_DOWN 0)))

/-- A write of a whole PG_CTRL word on a block's page: each bit that it changes (R635 before R580). -/
def ctrlWord (w : Word) (page : Nat) (s : State) : State :=
  let n := w.toNat
  let s := if bits n 0 1 = 1 then enableSet page s else enableClear page s
  let s := if bits n 1 1 = 1 then quiesceSet page s else quiesceClear page s
  let s := if bits n 2 1 = 1 then resetReq page s else if s.rf page Reg.PG_STAT_IN_RESET = 1 then s else s.wf page Reg.PG_CTRL_RESET_REQ 0
  if bits n 3 1 = 1 then powerReq page s else powerClear page s

/-- A write of PG_CTRL (R159, R578 to R581, R635). -/
def pgCtrl (page : Nat) (w : Word) (s : State) : State :=
  let n := w.toNat
  match pageBlk page with
  | none | some .board => s
  | some .view =>
    if !s.ensExists (page - 0x300) then viewReject s
    else
      let s := (s.viewPages page).foldl (fun a p =>
        let a := if bits n 0 1 = 1 then enableSet p a else enableClear p a
        if bits n 1 1 = 1 then quiesceSet p a else quiesceClear p a) s
      if bits n 2 2 = 0 then s else viewReject s
  | some b => if !b.quiesces ∧ bits n 1 3 ≠ 0 then record page Code.E_CMD_INVALID s else ctrlWord w page s

end Sys2Proof.Machine
end

