-- ==== Sys2Proof/Machine/Pair.lean ====
section
/-! DEFINITION. The understudy pair (spec/16, R587 to R598): joining, mirroring, heartbeat, promotion, fencing. The context that a
mirror point carries is the operand of COMMIT; the bytes the primary writes for it are free values (log entry 9). -/

namespace Sys2Proof.Machine

/-- A change of the pair state, posted on the callboard and on ring 0 (PAIR_CTRL, "A state change"). -/
def setPairState (n : Nat) (s : State) : State :=
  if s.pairState = n then s
  else deviceEvent 0 Code.I_PAIR_STATE n (postFull 0x38 Code.I_PAIR_STATE 0 0 n 0 (s.wf 0x38 Reg.PAIR_STATE_STATE n))

/-- SHAKE256 of an identity public key, 32 bytes (R561, R589). -/
def keyDigest (k : List Byte) : List Byte := Config.shake256 k 32

/-- PAIR_PEERID as bytes. -/
def State.peerId (s : State) : List Byte := (List.range 8).flatMap (fun w => leBytes 4 (s.reg 0x38 (0x110 + 4 * w)).toNat)

/-- Queue pair 4,095 as the pair engine sets it at a JOIN (R587). -/
def pairQp (s : State) : Qp :=
  let port := s.rf 0x38 Reg.PAIR_CFG_PORT
  { st := 1, port, mtu := 2, retry := 7, timeout := 0x0A, prio := s.rf 0x38 Reg.PAIR_CFG_PRIO, wrOk := true, dest := 4095,
    ip := s.rf 0x38 Reg.PAIR_PEER_IP_PEER_IP, key := leAt (keyDigest s.identityKey) 0 4, rate := s.portRate port }

/-- The JOIN payload (R588, R589): the sizes of ensemble 0 are those before pairing. -/
def joinPayload (nonce : List Byte) (s : State) : List Byte :=
  let x := sizesOf (s.liveOf 0)
  leBytes 4 s.role ++ leBytes 4 (x.1 + x.1 * 256 + x.2.1 * 65536 + x.2.2 * 2 ^ 24) ++ leBytes 4 (6 * x.1 + x.1 * 65536) ++ leBytes 4 (3145728 * x.1) ++
    leBytes 4 (s.reg 0x300 Reg.ENS_SIZE_SEQ_SEQ.off).toNat ++ nonce ++ s.identityKey

/-- A write of JOIN (R587, R589, R590). -/
def pairJoin (s : State) : State :=
  if (s.role ≠ 1 ∧ s.role ≠ 2) ∨ (s.pairState ≠ 0 ∧ s.pairState ≠ 4) then s
  else if s.role = 2 ∧ s.chans.any (fun (c : Nat × Chan) => c.2.st != 0) then post 0x38 Code.E_PAIR_STATE s
  else
    let r := drawBytes 32 s
    let s := r.2
    let p := joinPayload r.1 s
    let s := setBitOf (4 + s.rf 0x38 Reg.PAIR_CFG_PORT) Reg.ETH_CTRL_LOSSLESS (s.rf 0x38 Reg.PAIR_CFG_PRIO) true (setQp 4095 (pairQp s) s)
    sendPair 1 p (setPairState 1 { s with pair := { s.pair with nonce := r.1, myJoin := p, peerJoin := none } })

/-- PAIR_JOIN (R589). -/
def execPairJoin (s : State) : Host.Outcome State Fault Refusal := hostWrite 1 pairJoin s

/-- Whether the pair engine is there to receive: queue pair 4,095 READY (R587). -/
def State.pairOpen (s : State) : Bool := s.up && (s.qp 4095).st == 1

/-- A pair message that is discarded and counted (R588). -/
def discardPair (s : State) : State := bump 0x38 Cnt.PAIR_DISCARDED 1 s

/-- JOIN_RECEIVE (R589): the peer's JOIN is kept and JOIN_SIG goes out. -/
def execJoinReceive (h : PairHdr) (payload : List Byte) (s : State) : Host.Outcome State Fault Refusal :=
  if !s.pairOpen then .next s
  else if !h.fits 1 116 ∨ payload.length ≠ 116 then .next (discardPair s)
  else if s.pairState ≠ 1 then .next s
  else
    let s := bump 2 Cnt.SEC_SIGNS 1 { s with pair := { s.pair with peerJoin := some payload, peerEpoch := h.epoch } }
    .next (sendPair 2 (s.sign (s.pair.myJoin ++ payload)) s)

/-- A channel whose state is mirrored (R591, R592). -/
def State.mirrored (s : State) (c : Nat × Chan) : Bool := c.2.st != 0 && decide (c.2.ty ≤ 4) && !s.pair.excluded.contains c.1

/-- The mirrored channels that run. -/
def State.followed (s : State) : List (Nat × Chan) := s.chans.filter (fun (c : Nat × Chan) => s.mirrored c && (c.2.st == 3 || c.2.st == 4))

/-- The pair is PAIRED once every followed channel has an acknowledged point (R590). -/
def settlePair (s : State) : State :=
  if s.role = 1 ∧ s.pairState = 2 ∧ s.followed.all (fun (c : Nat × Chan) => c.2.mirAck.isSome) then setPairState 3 s else s

/-- PAIR_BEAT.LAGGING. -/
def showLag (s : State) : State :=
  s.wf 0x38 Reg.PAIR_BEAT_LAGGING (min 255 (s.chans.filter (fun (c : Nat × Chan) => s.mirrored c && c.2.mirSent.isSome && c.2.mirSent != c.2.mirAck)).length)

/-- The join succeeds (R31, R589, R590). -/
def joined (peer : List Byte) (s : State) : State :=
  let s := s.wf 0x38 Reg.PAIR_STATE_PAIR_EPOCH (max s.pairEpoch s.pair.peerEpoch + 1)
  let a := leAt peer 4 4
  let s := resizing (fun t => { t with pair := { t.pair with peerSizes := some [bits a 0 8, bits a 16 8, bits a 24 8], excluded := [], commits := 0, beatSeen := false } }) s
  let s := { s with points := [], chans := s.chans.map (fun (c : Nat × Chan) => (c.1, { c.2 with mirSent := none, mirAck := none, mirStores := 0 })) }
  settlePair (setPairState 2 (bump 0x38 Cnt.PAIR_JOINS 1 (s.wf 0x38 Reg.PAIR_BEAT_MISSED 0)))

/-- JOIN_SIG_RECEIVE (R589). -/
def execJoinSigReceive (h : PairHdr) (sig : List Byte) (s : State) : Host.Outcome State Fault Refusal :=
  if !s.pairOpen then .next s
  else if !h.fits 2 49856 ∨ sig.length ≠ 49856 then .next (discardPair s)
  else match s.pair.peerJoin with
    | none => .next s
    | some p =>
      if s.pairState ≠ 1 then .next s
      else
        let s := bump 2 Cnt.SEC_VERIFIES 1 s
        let k := p.drop 52
        if keyDigest k = s.peerId ∧ Config.slhVerify k true (p ++ s.pair.myJoin) sig = true ∧ leAt p 0 1 ≠ s.role then .next (joined p s)
        else .next (setPairState 4 (bump 0x38 Cnt.PAIR_JOIN_FAILS 1 (post 0x38 Code.E_PAIR_JOIN s)))

/-- Whether beats are sent and awaited (R594). -/
def State.beats (s : State) : Bool := s.pairState == 2 || s.pairState == 3 || s.pairState == 5

/-- BEAT_SEND (R594). -/
def execBeatSend (s : State) : Host.Outcome State Fault Refusal :=
  if !s.pairOpen ∨ !s.beats then .next s
  else
    let s := settlePair s
    .next (bump 0x38 Cnt.PAIR_BEATS_TX 1 (sendPair 3 (leBytes 4 s.pairState ++ leBytes 4 s.pair.commits) s))

/-- A superseded primary is fenced (R597): its mirrored channels are retired and emit nothing more, END and queued units included. -/
def fence (s : State) : State :=
  let l := (s.chans.filter (fun (c : Nat × Chan) => s.mirrored c && c.2.st != 5)).map (·.1)
  let s := bump 0x38 Cnt.PAIR_FENCES 1 (setPairState 6 s)
  l.foldl (fun a i =>
    let a := match (a.chan i).outFlow with | some n => setFlow n { a.flow n with units := [] } a | none => a
    beginRetire i Code.E_PAIR_EPOCH (modChan i (fun c => { c with codec := { c.codec with enc := { c.codec.enc with seqOut := false, auds := [] } } }) a)) s

/-- BEAT_RECEIVE (R588, R590, R594, R597). -/
def execBeatReceive (h : PairHdr) (st : Nat) (_commits : Nat) (s : State) : Host.Outcome State Fault Refusal :=
  if !s.pairOpen then .next s
  else if !h.fits 3 8 ∨ h.epoch < s.pairEpoch then .next (discardPair s)
  else
    let s := bump 0x38 Cnt.PAIR_BEATS_RX 1 s
    if s.role = 1 ∧ s.pairEpoch < h.epoch then .next (if s.pairState = 6 then s else fence s)
    else if h.epoch = s.pairEpoch then
      let s := { s with pair := { s.pair with beatSeen := true } }.wf 0x38 Reg.PAIR_BEAT_MISSED 0
      .next (if s.role = 2 ∧ s.pairState = 2 ∧ st = 3 then setPairState 3 s else s)
    else .next s

/-- BEAT_PERIOD_MISSED (R594): the end of a period of 1 ms. A promoted module keeps serving. -/
def execBeatPeriodMissed (s : State) : Host.Outcome State Fault Refusal :=
  if !s.up ∨ !s.beats then .next s
  else if s.pair.beatSeen then .next { s with pair := { s.pair with beatSeen := false } }
  else
    let n := s.rf 0x38 Reg.PAIR_BEAT_MISSED
    let s := bump 0x38 Cnt.PAIR_MISSED 1 (s.wf 0x38 Reg.PAIR_BEAT_MISSED (min 255 (n + 1)))
    if n = 4 then
      let s := deviceEvent 0 Code.W_PAIR_HEARTBEAT 0 (post 0x38 Code.W_PAIR_HEARTBEAT s)
      .next (if s.pairState = 5 then s else setPairState 4 s)
    else .next s

/-! Mirroring (R592, R593) -/

/-- A picture area as R423 lays it out: directory, then row objects. -/
def areaBytes (objs : List (List Byte)) : List Byte :=
  (objs.foldl (fun (a : Nat × List Byte) o => (a.1 + o.length, a.2 ++ leBytes 4 a.1 ++ leBytes 4 o.length)) (8 * objs.length, [])).2 ++ objs.flatten

/-- A mirror point of a channel whose unit `n` has ended: the context into the half that does not hold the last good copy, the picture
areas stored since the last point, COMMIT. The areas' places are free values. -/
def mirrorPoint (i n : Nat) (s : State) : State :=
  let c := s.chan i
  let b := contextObject s
  let s := mirrorWrite (c.ctxBase + (1 - c.ctxHalf) * 294912) b.1 b.2
  let areas := (c.codec.slots.filter (fun (x : Nat × RefSlot) => x.2.full && decide (c.mirStores < x.2.order))).map (fun (x : Nat × RefSlot) => areaBytes (tget x.2.areas [] x.2.cur))
  let s := areas.foldl (fun a l => let d := drawBelow (2 ^ 48) a; mirrorWrite d.1 l d.2) s
  let bytes := b.1.length + (areas.map List.length).foldl (· + ·) 0
  let s := modChan i (fun x => { x with mirSent := some n, mirStores := x.codec.stores }) s
  showLag (sendPair 5 (leBytes 4 (handleOf i c) ++ leBytes 4 n ++ leBytes 8 bytes) s)

/-- MIRROR_POINT (R592). -/
def execMirrorPoint (handle : Word) (s : State) : Host.Outcome State Fault Refusal :=
  match s.chanOf handle.toNat with
  | none => .next s
  | some i =>
    let c := s.chan i
    match c.codec.lastUnit with
    | none => .next s
    | some n =>
      if !s.mirrors ∨ !s.pairOpen ∨ !s.mirrored (i, c) ∨ c.mirSent = some n then .next s else .next (mirrorPoint i n s)

/-- The understudy's channel of a mirror point; one it has not seen is made (R598). -/
def pointChan (i : Nat) (pt : Chan) (s : State) : State :=
  if (s.chan i).st ≠ 0 then s
  else { s with chans := tput s.chans i { pt with slot := none, pinned := false, stopping := [], dying := none }, nextIndex := max s.nextIndex (i + 1) }

/-- COMMIT (R592): the point becomes current, input buffers its unit has used are free, ACK. -/
def execCommit (h : PairHdr) (handle pic : Word) (_bytes : Dword) (pt : Chan) (s : State) : Host.Outcome State Fault Refusal :=
  if !s.pairOpen then .next s
  else if !h.fits 5 16 ∨ h.epoch < s.pairEpoch then .next (discardPair s)
  else
    let i := handle.toNat % 2 ^ 18
    if s.role ≠ 2 ∨ (s.pairState ≠ 2 ∧ s.pairState ≠ 3) ∨ s.pair.excluded.contains i then .next s
    else
      let s := pointChan i { pt with gen := handle.toNat / 2 ^ 18 } s
      let s := { s with points := tput s.points i { pt with mirAck := some pic.toNat }, pair := { s.pair with commits := s.pair.commits + 1 } }
      let used := pt.codec.used
      let s := modChan i (fun c => { c with codec := { c.codec with used := max c.codec.used used, total := max c.codec.total used, inputs := c.codec.inputs.filter (fun p => decide (used ≤ p.num)) } }) s
      .next (sendPair 6 (leBytes 4 handle.toNat ++ leBytes 4 pic.toNat) (bump 0x38 Cnt.PAIR_COMMITS 1 s))

/-- ACK (R590, R593). -/
def execAck (h : PairHdr) (handle pic : Word) (s : State) : Host.Outcome State Fault Refusal :=
  if !s.pairOpen then .next s
  else if !h.fits 6 8 ∨ h.epoch < s.pairEpoch then .next (discardPair s)
  else match s.chanOf handle.toNat with
    | none => .next s
    | some i =>
      if !s.mirrors then .next s
      else
        let s := modChan i (fun c => { c with mirAck := some pic.toNat }) { s with pair := { s.pair with commits := s.pair.commits + 1 } }
        .next (settlePair (showLag (bump 0x38 Cnt.PAIR_ACKS 1 s)))

/-! Promotion (R595, R596) -/

/-- The encoder after promotion at point n (R596): the next picture is n + 2, led by SEQ and the active set, with a = D of picture n + 1. -/
def resumeEnc (r h : List Byte) (n : Nat) (e : Enc) : Enc :=
  let k := ahead 32 (n + 2) e.count
  let k := if 2 ^ 31 ≤ k then 0 else k
  { e with n := e.n + k, count := (n + 2) % 2 ^ 32, since := e.since + k, a := houseD r h (e.n + k - 1), pics := [], auds := [], lead := true, seqOut := false }

/-- A mirrored channel resumes from its point (R596): video takes the next picture to arrive, audio the next frame it holds. -/
def resumeChan (i : Nat) (pt : Chan) (s : State) : State :=
  let c := s.chan i
  let x := pt.codec
  let o := c.codec
  let video : Bool := pt.ty == 0 || pt.ty == 2
  let enc := if pt.ty = 0 then resumeEnc (c.bind.getD []) c.seqHdr (pt.mirAck.getD 0) x.enc else x.enc
  let y := { x with started := true, ended := false, retry := 0, total := o.total, head := o.head, used := if video then o.total else o.used, inputs := if video then [] else o.inputs, enc, dec := { x.dec with arrivals := o.dec.arrivals } }
  let k := c.pkg.orElse (fun _ => pt.pkg)
  let s := setChan i { c with st := 3, page := false, size := false, susp := false, stopping := [], dying := none, pkg := k, codec := y } s
  match c.io with
  | none => s
  | some io =>
    let s := if video then io.flows.foldl (fun a n => setFlow n { a.flow n with skip := (a.flow n).ts.isSome } a) s else s
    if pt.ty = 3 then (o.inputs.filter (·.closed)).foldl (fun a p => inputWhole i p.num a) s else s

/-- A channel without a point becomes COLD. -/
def coldChan (i : Nat) (s : State) : State :=
  modChan i (fun c => { c with st := 1, page := false, size := false, susp := false, pinned := false, stopping := [], codec := { c.codec with started := false, persist := [], inputs := [] } }) s

/-- PROMOTE (R595, R596). -/
def promote (c : Ctx) (_ : Nat) (e : Entry) (s : State) : State :=
  if s.role ≠ 2 ∨ (s.pairState ≠ 3 ∧ s.pairState ≠ 4) then fail c Code.E_PAIR_STATE s
  else if eGet e 0x10 0 16 ≠ s.pairEpoch then fail c Code.E_PAIR_EPOCH s
  else
    let s := setPairState 5 (bump 0x38 Cnt.PAIR_PROMOTES 1 (s.wf 0x38 Reg.PAIR_STATE_PAIR_EPOCH (s.pairEpoch + 1)))
    let pts := s.points.filter (fun (p : Nat × Chan) => s.mirrored (p.1, s.chan p.1))
    let s := s.chans.foldl (fun a (x : Nat × Chan) =>
      if x.2.st = 0 then a
      else match tget? pts x.1 with
        | some pt => resumeChan x.1 pt a
        | none =>
          if 5 ≤ x.2.ty ∧ (x.2.st = 3 ∨ x.2.st = 4) then modChan x.1 (fun y => { y with st := 3, page := false, size := false, susp := false }) a
          else coldChan x.1 a) s
    finish c 0 pts.length 0 { s with points := [] }

/-- PROMOTE. -/
def execPromote (q : Fin 256) (e : Entry) (s : State) : Host.Outcome State Fault Refusal := .next (admitCmd spPromote q.val (eWithOp e 0x0B) promote s)

/-- A countersigned change of a PAIR field (R587, R598): SINGLE, whatever the state was. -/
def pairSingle (s : State) : State :=
  let s := if s.pairState = 0 then deviceEvent 0 Code.I_PAIR_STATE 0 (postFull 0x38 Code.I_PAIR_STATE 0 0 0 0 s) else setPairState 0 s
  let s := resizing (fun t => { t with pair := { t.pair with peerSizes := none, peerJoin := none, excluded := [] } }) s
  setQp 4095 {} { s with points := [] }

end Sys2Proof.Machine
end

