-- ==== Sys2Proof/Machine/Csw.lean ====
section
/-! DEFINITION. Countersigned change records and attestation (spec/15, R553, R561 to R569; spec/13, R509, R510): CSW_APPLY, REPAIR,
ATTEST. -/

namespace Sys2Proof.Machine

/-! The record (R561) -/

/-- An item of a record: KIND 1 a field change, KIND 2 a key, KIND 3 a repair. -/
inductive CswItem where
  | field (page off mask value : Nat)
  | key (index alg : Nat) (key : List Byte)
  | repair (phys spare : Nat)
deriving DecidableEq, Repr

/-- A signature block. -/
structure CswBlock where
  index : Nat
  alg : Nat
  sig : List Byte
deriving DecidableEq, Repr

/-- A record as it is laid out. -/
structure CswRec where
  kind : Nat
  persist : Bool
  nonce : List Byte
  ident : List Byte
  items : List CswItem
  body : List Byte
  blocks : List CswBlock
deriving DecidableEq, Repr

/-- One item, none if a reserved field or a value is outside its range. -/
def cswItem (kind : Nat) (b : List Byte) : Option CswItem :=
  match kind with
  | 1 => if zeros b 2 2 && zeros b 6 2 && leAt b 4 2 % 4 == 0 then some (.field (leAt b 0 2) (leAt b 4 2) (leAt b 8 4) (leAt b 12 4)) else none
  | 2 => if decide (leAt b 0 1 < 8) && decide (leAt b 1 1 < 2) && zeros b 2 6 then some (.key (leAt b 0 1) (leAt b 1 1) (b.drop 8)) else none
  | _ => if decide (leAt b 0 1 < 68) && decide (leAt b 1 1 < 68) && zeros b 2 14 then some (.repair (leAt b 0 1) (leAt b 1 1)) else none

/-- Bytes of a signature of an algorithm. -/
def sigLen (alg : Nat) : Nat := if alg = 0 then 29792 else 49856

/-- One signature block at an offset. -/
def cswBlock (b : List Byte) : Option CswBlock :=
  let alg := leAt b 1 1
  if decide (leAt b 0 1 < 8) && decide (alg < 2) && zeros b 2 2 && leAt b 4 4 == sigLen alg then some ⟨leAt b 0 1, alg, (b.drop 8).take (sigLen alg)⟩ else none

/-- The record in `b`, none for E_CSW_FORMAT (R561, R562 order 1), with the item that fails. -/
def cswParse (b : List Byte) : Except Nat CswRec :=
  let kind := leAt b 5 1
  let n := leAt b 7 1
  let size := if kind = 2 then 72 else 16
  let body := 0x48 + n * size
  let headOk := leAt b 0 4 == 0x4353524B && leAt b 4 1 == 1 && decide (1 ≤ kind ∧ kind ≤ 3) && decide (leAt b 6 1 < 2) &&
    (match kind with | 1 => decide (1 ≤ n ∧ n ≤ 64) | 2 => decide (2 ≤ n ∧ n ≤ 8) | _ => n == 1)
  if !headOk then .error 0
  else
    let items := (List.range n).map (fun k => cswItem kind ((b.drop (0x48 + k * size)).take size))
    match items.findIdx? (·.isNone) with
    | some k => .error k
    | none => match cswBlock (b.drop body) with
      | none => .error 0
      | some x =>
        let at1 := body + 8 + sigLen x.alg
        match cswBlock (b.drop at1) with
        | none => .error 0
        | some y =>
          if b.length ≠ at1 + 8 + sigLen y.alg then .error 0
          else .ok ⟨kind, leAt b 6 1 == 1, (b.drop 8).take 32, (b.drop 0x28).take 32, items.filterMap id, b.take body, [x, y]⟩

/-! The checks of R562 -/

/-- A failure: its code, item and block. -/
structure CswFail where
  code : Nat
  item : Nat := 0
  block : Nat := 0
deriving DecidableEq, Repr

/-- The keys a record's signatures verify against: POLICY's, or in factory state those that a KIND 2 record installs (R565). -/
def cswKeys (r : CswRec) (s : State) : List OpKey :=
  let ks := s.ids.policy.cur.keys
  if ks.isEmpty && r.kind == 2 then r.items.filterMap (fun i => match i with | .key n a k => some ⟨n, a == 1, k⟩ | _ => none) else ks

/-- Whether a block's signature verifies against its key. -/
def blockOk (r : CswRec) (ks : List OpKey) (x : CswBlock) : Bool :=
  match ks.find? (fun k => k.index == x.index) with
  | some k => k.f == (x.alg == 1) && Config.slhVerify k.key k.f r.body x.sig
  | none => false

/-- The CSW bits of a register. -/
def cswMask (page off : Nat) : Nat :=
  if page = 2 ∧ off = 0x138 then 15
  else match regAt page off with
    | some d => d.fields.foldl (fun a f => if f.acc = .csw then a ||| f.mask.toNat else a) 0
    | none => 0

/-- The state with a list of items applied, in their order (R563). -/
def applyFields (l : List CswItem) (s : State) : State :=
  l.foldl (fun a i => match i with
    | .field p o m v => a.setReg p o ((a.reg p o &&& ~~~(BitVec.ofNat 32 m)) ||| (BitVec.ofNat 32 v &&& BitVec.ofNat 32 m))
    | _ => a) s

/-- The CSW fields of a register that a mask touches, as masks. -/
def touched (page off mask : Nat) : List Nat :=
  match regAt page off with
  | some d => (d.fields.filter (fun f => f.acc == .csw && f.mask.toNat &&& mask != 0)).map (fun f => f.mask.toNat)
  | none => []

/-- POLICY's values after a record with PERSIST (R563): each field's resulting value replaces an earlier one. -/
def persisted (l : List CswItem) (t : State) (old : List (Nat × Nat × Nat × Nat)) : List (Nat × Nat × Nat × Nat) :=
  l.foldl (fun a i => match i with
    | .field p o m _ => (touched p o m).foldl (fun a f => a.filter (fun v => !(v.1 == p && v.2.1 == o && v.2.2.1 == f)) ++ [(p, o, f, (t.reg p o).toNat &&& f)]) a
    | _ => a) old

/-- Partition n as a register word: BASE, LIMIT, EN. -/
def partBase (w : Nat) : Nat := bits w 0 8
def partLimit (w : Nat) : Nat := bits w 8 8
def partEn (w : Nat) : Bool := bits w 31 1 == 1

/-- No two enabled partitions overlap and none reaches beyond GiB 246 (R510). -/
def partsOk (l : List Nat) : Bool :=
  l.all (fun w => decide (partLimit w ≤ 246)) &&
    (List.range l.length).all (fun i => (List.range i).all (fun j =>
      let a := l.getD i 0
      let b := l.getD j 0
      !(partEn a && partEn b && decide (partBase a ≤ partLimit b ∧ partBase b ≤ partLimit a))))

/-- The partition map. -/
def State.parts (s : State) : List Nat := (List.range 16).map (fun n => (s.reg 0x20 (0x140 + 4 * n)).toNat)

/-- The partition map that a start would give from POLICY's values (R510). -/
def startParts (vals : List (Nat × Nat × Nat × Nat)) : List Nat :=
  (List.range 16).map (fun n => (vals.filter (fun v => v.1 == 0x20 && v.2.1 == 0x140 + 4 * n)).foldl (fun a v => a - (a &&& v.2.2.1) + (v.2.2.2 &&& v.2.2.1))
    (if n = 0 then 246 * 256 + 2 ^ 31 else 0))

/-- Whether a partition that holds the context of a channel is moved, shrunk or disabled (R510). -/
def partsBusy (s : State) (new : List Nat) : Bool :=
  (List.range 16).any (fun n =>
    let a := s.parts.getD n 0
    let b := new.getD n 0
    partEn a && (!partEn b || partBase a != partBase b || decide (partLimit b < partLimit a)) &&
      s.chans.any (fun (c : Nat × Chan) => c.2.st != 0 && decide (partBase a ≤ c.2.ctxBase / 2 ^ 30 ∧ c.2.ctxBase / 2 ^ 30 ≤ partLimit a)))

/-- The orders 1 to 4 of R562 that concern the items, and R563's limit of 256 values: the first that fails. -/
def itemCheck (r : CswRec) (s : State) : Option CswFail :=
  let t := applyFields r.items s
  match r.items.findIdx? (fun i => match i with | .field p o m _ => !(m &&& cswMask p o == m) || (r.persist && p == 2) | _ => false) with
  | some k => some ⟨Code.E_CSW_TARGET, k, 0⟩
  | none =>
    let keys := r.items.filterMap (fun i => match i with | .key n _ _ => some n | _ => none)
    match (List.range keys.length).find? (fun k => (keys.take k).contains (keys.getD k 0)) with
    | some k => some ⟨Code.E_CSW_TARGET, k, 0⟩
    | none => if r.kind = 1 ∧ r.persist ∧ 256 < (persisted r.items t s.ids.policy.cur.values).length then some ⟨Code.E_CSW_TARGET, 0, 0⟩ else none

/-- The item that sets ROLE to its reserved value (R562 order 1). -/
def roleItem (r : CswRec) (s : State) : Option Nat :=
  (List.range r.items.length).find? (fun k => (applyFields (r.items.take (k + 1)) s).role == 3)

/-- Orders 1 to 4 of R562. -/
def cswCheck (b : List Byte) (s : State) : Except CswFail CswRec :=
  match cswParse b with
  | .error k => .error ⟨Code.E_CSW_FORMAT, k, 0⟩
  | .ok r =>
    match roleItem r s with
    | some k => .error ⟨Code.E_CSW_FORMAT, k, 0⟩
    | none =>
      if r.ident ≠ keyDigest s.identityKey ∨ r.nonce ≠ s.nonce then .error ⟨Code.E_NONCE_STALE, 0, 0⟩
      else
        let ks := cswKeys r s
        let same := (r.blocks.map CswBlock.index).eraseDups.length < r.blocks.length
        match (if same then some 1 else r.blocks.findIdx? (fun x => !blockOk r ks x)) with
        | some k => .error ⟨Code.E_COUNTERSIGN, 0, k⟩
        | none => match itemCheck r s with
          | some f => .error f
          | none => .ok r

/-- Order 5 for a KIND 1 record (R510). -/
def partCheck (r : CswRec) (s : State) : Option CswFail :=
  let t := applyFields r.items s
  let item := (r.items.findIdx? (fun i => match i with | .field p o _ _ => p == 0x20 && decide (0x140 ≤ o ∧ o < 0x180) | _ => false))
  match item with
  | none => none
  | some k =>
    if !partsOk t.parts then some ⟨Code.E_XLT_PART, k, 0⟩
    else if r.persist && !partsOk (startParts (persisted r.items t s.ids.policy.cur.values)) then some ⟨Code.E_XLT_PART, k, 0⟩
    else if partsBusy s t.parts then some ⟨Code.E_RESOURCE_BUSY, k, 0⟩
    else none

/-! What a record does (R563) -/

/-- Threads that the debugger halted on players no longer unlocked go on (R625). -/
def relock (was s : State) : State :=
  (List.range 68).foldl (fun a p =>
    if was.unlocked p && !a.unlocked p then (List.range 8).foldl (fun a t => dbgContinue p t a) a else a) s

/-- The pages of which a record altered a field. -/
def alteredPages (l : List CswItem) (s t : State) : List Nat :=
  (l.filterMap (fun i => match i with | .field p o _ _ => if s.reg p o ≠ t.reg p o then some p else none | _ => none)).eraseDups

/-- Write POLICY (R550). -/
def setPolicy (p : Policy) (s : State) : State :=
  bump 2 Cnt.SEC_STORE_WRITES 1 { s with ids := { s.ids with policy := s.ids.policy.write p } }

/-- A KIND 1 record takes effect: its items together, CHANGES, the debug locks, the pair (R563, R598, R625). -/
def applyKind1 (r : CswRec) (s : State) : State :=
  let t := applyFields r.items s
  let ps := alteredPages r.items s t
  let u := ps.foldl (fun a p => a.wf p Reg.PG_PROT_CHANGES (a.rf p Reg.PG_PROT_CHANGES + 1)) t
  let u := relock s u
  let u := if ps.contains 0x38 then pairSingle u else u
  if r.persist then setPolicy { s.ids.policy.cur with values := persisted r.items t s.ids.policy.cur.values } u else u

/-- A KIND 2 record replaces the operator keys. -/
def applyKind2 (r : CswRec) (s : State) : State :=
  showKeys (setPolicy { s.ids.policy.cur with keys := r.items.filterMap (fun i => match i with | .key n a k => some ⟨n, a == 1, k⟩ | _ => none) } s)

/-- The places R509 allows for REC_ADDR: reads. -/
def State.recPlace (s : State) (a len : Nat) : Bool := s.devicePlace a len || (isRemote a && (s.winOk 0 a len).1)

/-- The places R509 allows for OUT_ADDR: writes. -/
def State.outPlace (s : State) (a len : Nat) : Bool := s.devicePlace a len || (isRemote a && (s.winOk 0 a len).2)

/-- The record's bytes; a length that no record has is not read. -/
def State.record (s : State) (a len : Nat) (remote : List Byte) : List Byte :=
  if 102400 < len then [] else if isRemote a then remote.take len else s.bytes a len

/-- A record fails (R569). -/
def cswFail (c : Ctx) (f : CswFail) (s : State) : State :=
  let s := holdRecord 2 Reg.SEC_CSW_ERR_VALID [(Reg.SEC_CSW_ERR_CODE, f.code), (Reg.SEC_CSW_ERR_ITEM, f.item), (Reg.SEC_CSW_ERR_BLOCK, f.block)] s
  freshNonce (fail c f.code (bump 2 Cnt.SEC_CSW_FAILED 1 s))

/-- A record has been applied. -/
def cswDone (c : Ctx) (s : State) : State := freshNonce (done c (bump 2 Cnt.SEC_CSW_APPLIED 1 s))

/-- The signatures a check got to. -/
def countVerify (x : Except CswFail CswRec) (s : State) : State :=
  match x with
  | .ok _ => hashed (bump 2 Cnt.SEC_VERIFIES 2 s)
  | .error f => if f.code = Code.E_CSW_FORMAT then s else if f.code = Code.E_CSW_TARGET then hashed (bump 2 Cnt.SEC_VERIFIES 2 s) else hashed (bump 2 Cnt.SEC_VERIFIES f.block s)

/-- CSW_APPLY (R509, R562 to R565). -/
def cswApply (remote : List Byte) (c : Ctx) (_ : Nat) (e : Entry) (s : State) : State :=
  let a := eGet e 0x18 0 64
  let len := eGet e 0x20 0 64
  if !s.recPlace a len then freshNonce (fail c Code.E_XLT_FAULT (placeFault a false s))
  else
    let x := cswCheck (s.record a len remote) s
    let s := countVerify x s
    match x with
    | .error f => cswFail c f s
    | .ok r =>
      if r.kind = 3 then cswFail c ⟨Code.E_CSW_FORMAT, 0, 0⟩ s
      else if r.kind = 2 then cswDone c (applyKind2 r s)
      else match partCheck r s with
        | some f => cswFail c f s
        | none => cswDone c (applyKind1 r s)

/-- The conditions of R553 on the players and the log; a spare already in service replaces no second player. -/
def repairOk (phys spare : Nat) (s : State) : Bool :=
  s.rf (0x100 + phys) Reg.PG_STAT_RETIRED == 1 && s.logical phys != 0xFF && s.ids.map.cur.spares.getD (wingOf phys) 68 == spare &&
    s.rf (0x100 + spare) Reg.PG_STAT_SUSPECT == 0 && s.logical spare == 0xFF && decide (s.ids.repairLog.cur.length < 16)

/-- REPAIR (R13, R29, R509, R553). -/
def repair (remote : List Byte) (c : Ctx) (_ : Nat) (e : Entry) (s : State) : State :=
  let phys := eGet e 0x10 0 7
  let spare := eGet e 0x11 0 7
  let a := eGet e 0x18 0 64
  let len := eGet e 0x20 0 64
  if !s.recPlace a len then freshNonce (fail c Code.E_XLT_FAULT (placeFault a false s))
  else
    let x := cswCheck (s.record a len remote) s
    let s := countVerify x s
    match x with
    | .error f => cswFail c f s
    | .ok r =>
      if r.kind ≠ 3 ∨ r.items ≠ [.repair phys spare] ∨ !repairOk phys spare s then cswFail c ⟨Code.E_REPAIR_STATE, 0, 0⟩ s
      else
        let log := s.ids.repairLog.write (s.ids.repairLog.cur ++ [(phys, spare)])
        let s := bump 1 Cnt.SMG_REPAIRS 1 (bump 2 Cnt.SEC_STORE_WRITES 1 { s with ids := { s.ids with repairLog := log } })
        cswDone c (resizing (applyRepair phys spare) s)

/-! Attestation (R567) -/

/-- A bit for each physical player, as 16 bytes. -/
def playerBits (f : Nat → Bool) : List Byte := leBytes 16 ((List.range 68).foldl (fun a p => if f p then a + 2 ^ p else a) 0)

/-- The registers that hold CSW fields, in ascending page and offset order. -/
def cswRegs : List (Nat × Nat) :=
  [(2, 0x130), (2, 0x134), (2, 0x138)] ++ (List.range 16).map (fun n => (0x20, 0x140 + 4 * n)) ++ (List.range 64).map (fun w => (0x20, 0x410 + 32 * w)) ++
    [(0x38, 0x100), (0x38, 0x104)] ++ (List.range 8).map (fun w => (0x38, 0x110 + 4 * w))

/-- Bytes of a report. -/
def reportLen (s : State) : Nat := 336 + s.ids.chain.cur.length + 49856

/-- The attestation report up to the digest of the image (R566). -/
def reportHead (nonce : List Byte) (s : State) : List Byte :=
  leBytes 4 0x5441514B ++ leBytes 2 1 ++ leBytes 2 (s.rf 0 Reg.GLB_START_RESET_CAUSE) ++ leBytes 4 (reportLen s) ++ leBytes 4 s.ids.chain.cur.length ++ nonce ++
    leBytes 8 s.time ++ leBytes 8 s.ids.macs.cur.2 ++ leBytes 2 (s.rf 1 Reg.SMG_ROM_ROM_VER) ++ leBytes 2 0 ++ leBytes 4 (s.rf 1 Reg.SMG_FW_SVN_SVN) ++
    (List.range 8).flatMap (fun w => leBytes 4 (s.reg 1 (0x110 + 4 * w)).toNat)

/-- The identity key and the digests of the repair map, the policy and the locked registers (R566). -/
def reportDigests (s : State) : List Byte :=
  s.identityKey.take 64 ++
    Config.shake256 (Config.mapBytes (s.ids.map.cur.spares, s.ids.map.cur.disabled, s.ids.repairLog.cur)) 32 ++
    Config.shake256 (Config.policyBytes (s.ids.policy.cur.keys.map (fun k => (k.index, k.f, k.key)), s.ids.policy.cur.values, s.ids.policy.cur.bootIp,
      s.ids.policy.cur.bootEth)) 32 ++
    Config.shake256 (cswRegs.flatMap (fun x => leBytes 4 ((s.reg x.1 x.2).toNat &&& cswMask x.1 x.2))) 32

/-- The maps of players in service, suspect, retired and unlocked (R566). -/
def reportPlayers (s : State) : List Byte :=
  playerBits (fun k => s.rf (0x100 + k) Reg.PG_CTRL_ENABLE == 1 && !(s.rf (0x100 + k) Reg.PG_STAT_QUIESCED == 1) &&
      !(s.rf (0x100 + k) Reg.PG_STAT_POWERED_DOWN == 1)) ++
    playerBits (fun k => s.rf (0x100 + k) Reg.PG_STAT_SUSPECT == 1) ++ playerBits (fun k => s.rf (0x100 + k) Reg.PG_STAT_RETIRED == 1) ++ playerBits s.unlocked

/-- The report before its signature. -/
def reportBody (nonce : List Byte) (s : State) : List Byte :=
  reportHead nonce s ++ reportDigests s ++ reportPlayers s ++ leBytes 4 (s.count 2 Cnt.SEC_CSW_APPLIED) ++ leBytes 4 0 ++ s.ids.chain.cur

/-- ATTEST (R509, R567). -/
def attest (c : Ctx) (_ : Nat) (e : Entry) (s : State) : State :=
  let a := eGet e 0x18 0 64
  let len := eGet e 0x20 0 64
  if !s.outPlace a len then fail c Code.E_XLT_FAULT (placeFault a true s)
  else if len < reportLen s then fail c Code.E_ATTEST_SPACE s
  else
    let b := reportBody (eBytes e 0x40 32) s
    let s := hashed (bump 2 Cnt.SEC_ATTESTS 1 (bump 2 Cnt.SEC_SIGNS 1 (writeOut a (b ++ s.sign b) .none s)))
    finish c 0 (reportLen s) 0 s

/-- CSW_APPLY. -/
def execCswApply (q : Fin 256) (e : Entry) (remote : List Byte) (s : State) : Host.Outcome State Fault Refusal :=
  .next (admitCmd spCswApply q.val (eWithOp e 0x0C) (cswApply remote) s)

/-- REPAIR. -/
def execRepair (q : Fin 256) (e : Entry) (remote : List Byte) (s : State) : Host.Outcome State Fault Refusal :=
  .next (admitCmd spRepair q.val (eWithOp e 0x0A) (repair remote) s)

/-- ATTEST. -/
def execAttest (q : Fin 256) (e : Entry) (s : State) : Host.Outcome State Fault Refusal := .next (admitCmd spAttest q.val (eWithOp e 0x0D) attest s)

end Sys2Proof.Machine
end

