-- ==== Sys2Proof/Machine/RegRead.lean ====
section
/-! DEFINITION. What a read of the register window returns: the fields that show the state of a block, the common layout, the 64-bit
latches, the callboard (spec/01, R24, R26; spec/04, R158; spec/16, R583; spec/17, R602; spec/18, R627 to R641). -/

namespace Sys2Proof.Machine

/-- A number as a register word. -/
def wordOf (n : Nat) : Word := BitVec.ofNat 32 n

/-! The common layout -/

/-- The blocks whose pages hold CSW fields. -/
def Blk.hasCsw : Blk → Bool
  | .sec | .xlt | .pair => true
  | _ => false

/-- PG_ID. -/
def pgId (page : Nat) (b : Blk) : Nat := 1 + pageInst page * 2 ^ 16 + b.id * 2 ^ 24

/-- PG_CAP: an ensemble view reads as a player page, with QUIESCE only of the three requests (R159, R638). -/
def pgCap (b : Blk) : Nat :=
  b.counters + bit (b.quiesces || b == .view) * 32 + bit b.quiesces * 64 + bit b.quiesces * 128 + bit b.hasCsw * 256 + b.pages * 2 ^ 16

/-- PG_STAT of a block's page: ENABLED follows the other bits. -/
def State.pgStat (s : State) (page : Nat) : Nat :=
  let w := (s.reg page 0x00C).toNat
  let on := s.rf page Reg.PG_CTRL_ENABLE == 1 && s.rf page Reg.PG_STAT_QUIESCED == 0 && s.rf page Reg.PG_STAT_POWERED_DOWN == 0
  w / 2 * 2 + bit on

/-- The member pages of a view with their field. -/
def State.memberFields (s : State) (page : Nat) (f : Fld) : List Nat := (s.viewPages page).map (fun p => s.rf p f)

/-- PG_STAT of an ensemble view (R24, R158). -/
def State.viewStat (s : State) (page : Nat) : Nat :=
  let any (f : Fld) : Nat := bit ((s.memberFields page f).any (· == 1))
  1 + bit ((s.memberFields page Reg.PG_STAT_QUIESCED).all (· == 1)) * 2 + any Reg.PG_STAT_SUSPECT * 16 + any Reg.PG_STAT_RETIRED * 32

/-- PG_ERR_TIME of a page. -/
def State.errTime (s : State) (page : Nat) : Nat := s.rf page Reg.PG_ERR_TIME_LO_TIME + s.rf page Reg.PG_ERR_TIME_HI_TIME * 2 ^ 32

/-- The member of a view with the earliest recorded time, or on equal times the lowest logical index (R638). -/
def State.firstMember (s : State) (page : Nat) : Option Nat :=
  let l := (((s.ensPlayers (page - 0x300)).filterMap (fun n => (s.physOf n).map (fun p => (n, 0x100 + p)))).filter
    (fun (x : Nat × Nat) => s.rf x.2 ⟨0x010, 0, 6⟩ != 0))
  (l.foldl (fun (b : Option (Nat × Nat)) x => match b with
    | some y => if s.errTime x.2 < s.errTime y.2 ∨ (s.errTime x.2 = s.errTime y.2 ∧ x.1 < y.1) then some x else b
    | none => some x) none).map (·.2)

/-- PG_PROT: HAS_CSW and DEBUG beside what is held. -/
def State.pgProt (s : State) (page : Nat) (b : Blk) : Nat :=
  let debug : Bool := match b with
    | .ply => s.unlocked (page - 0x100)
    | .view => (s.viewPages page).any (fun p => s.unlocked (p - 0x100))
    | _ => false
  ((s.reg page 0x028).toNat / 8 * 8) + s.rf page Reg.PG_PROT_PERSISTED * 2 + bit b.hasCsw + bit debug * 4

/-- A word of counter i of a page (R601, R602, R633). -/
def State.counterWord (s : State) (page off : Nat) : Nat :=
  let v := tget (s.counters page) 0 ((off - 0x040) / 8)
  if off % 8 = 0 then v % 2 ^ 32 else v / 2 ^ 32

/-- The common layout of a view's page (R638). -/
def State.viewCommon (s : State) (page off : Nat) : Nat :=
  let first (o : Nat) : Nat := match s.firstMember page with | some p => (s.reg p o).toNat | none => 0
  let rank0 (o : Nat) : Nat := match s.physLive (page - 0x300) with | p :: _ => (s.reg (0x100 + p) o).toNat | [] => 0
  if off = 0x008 then rank0 off
  else if off = 0x00C then s.viewStat page
  else if off = 0x010 then (s.viewPages page).foldl (fun a p => a ||| (s.reg p 0x010).toNat) 0
  else if off = 0x014 then rank0 off
  else if off = 0x018 ∨ off = 0x020 ∨ off = 0x024 then first off
  else 0

/-- Offsets 0x000 to 0x0FF of an assigned page. -/
def State.showCommon (s : State) (page : Nat) (b : Blk) (off : Nat) : Nat :=
  if off = 0x000 then pgId page b
  else if off = 0x004 then pgCap b
  else if off = 0x028 then s.pgProt page b
  else if 0x040 ≤ off then s.counterWord page off
  else if b = .view then s.viewCommon page off
  else if off = 0x00C then s.pgStat page
  else if (regAt page off).isSome then (s.reg page off).toNat else 0

/-! Blocks whose registers show their state -/

/-- A player's registers 0x110 to 0x157 (spec/04, "The player register page"). -/
def State.showPly (s : State) (p off : Nat) : Nat :=
  let pg := 0x100 + p
  let k := s.ply p
  let job := k.job.bind (tget? s.jobs)
  let queue (c : Nat) : Nat := (tget k.queues [] c).length
  if off = 0x110 then
    let n := s.logical p
    p + n * 2 ^ 8 + wingOf p * 2 ^ 16 + (if n = 0xFF then 0 else n % 16 / 4) * 2 ^ 18
  else if off = 0x114 then k.st % 8 + k.ens % 256 * 2 ^ 8 + k.rank % 64 * 2 ^ 16 + k.size % 128 * 2 ^ 24
  else if off = 0x118 then (match job with | some j => handleOf j.chan (s.chan j.chan) | none => 0)
  else if off = 0x11C then (match job with | some j => j.seq | none => 0)
  else if off = 0x120 then (List.range 8).foldl (fun a t => a + (s.thread p t).st % 16 * 2 ^ (4 * t)) 0
  else if off = 0x124 then (List.range 6).foldl (fun a c => a + queue (c + 1) % 32 * 2 ^ (5 * c)) 0
  else if 0x128 ≤ off ∧ off < 0x148 then (List.range 4).foldl (fun a i => a + s.sem p (off - 0x128 + i) % 256 * 2 ^ (8 * i)) 0
  else (s.reg pg off).toNat

/-- The sizes table (R26, R27): a consistent table at all times. `live` says that it has players. -/
def State.showSizes (s : State) (page e off : Nat) (live : Bool) : Nat :=
  let w := if live then s.sizeWords e else (0, 0, 0)
  if off = 0x100 then w.1 else if off = 0x104 then w.2.1 else if off = 0x108 then w.2.2
  else s.rf page Reg.ENS_SIZE_SEQ_SEQ + 2 ^ 31

/-- Whether a stream waits for a semaphore (R199). -/
def State.waitsSem (s : State) (sh : Nat) (x : Stream) : Bool :=
  let d := x.desc
  !x.took && decide (sh < 68) &&
    (if sdDir d = 0 then sdFreeEn d && decide (4 ≤ x.tile) && s.sem sh (sdFreeSem d) == 0
     else sdDir d == 1 && sdDataEn d && s.sem sh (sdDataSem d) == 0)

/-- SMV_SLOTS. -/
def State.showSlots (s : State) (sh : Nat) : Nat :=
  (List.range 6).foldl (fun a k => a + (match tget? s.streams (slotKey sh k) with
    | some x => if x.st = 2 ∧ s.waitsSem sh x = true then 3 else x.st % 16
    | none => 0) * 2 ^ (4 * k)) 0

/-- WRL_STATE (R232, R233). -/
def State.showRing (s : State) (w : Nat) : Nat :=
  let g := s.ring w
  let ready := g.streams.any (fun r => r.sends && (s.unready r).isEmpty)
  let wait : Option Relay := if ready then none else g.streams.find? Relay.sends
  let low : Nat := match wait with
    | some r => ((s.unready r).map s.logical).foldl min 63
    | none => 0
  min 8 g.streams.length + bit (g.flying.any (·.hop == 0)) * 16 + bit wait.isSome * 32 + low % 64 * 256

/-- The job on the video coders and its phase: 1 gather, 2 encoding, 3 decoding (R307, R308). -/
def State.videoCoder (s : State) : Nat × Option Job :=
  match s.slice with
  | some (id, ph) => (if (match tget? s.jobs id with | some j => j.stop.isSome | none => false) then 5 else if ph = 1 then 3 else 2, tget? s.jobs id)
  | none =>
    match s.jobs.find? (fun (x : Nat × Job) => match s.coding x.1 with | some g => g.slice.st == 1 && g.slice.done.any (·.gathered) | none => false) with
    | some x => (1, some x.2)
    | none => (0, none)

/-- RCA_STATE. -/
def State.showCoders (s : State) : Nat :=
  let v := s.videoCoder.1
  (List.range 6).foldl (fun a k => a + (match s.jobs.find? (fun (x : Nat × Job) => x.2.coder == some (k + 2)) with
    | some x => if x.2.stop.isSome then 5 else (match x.2.work with | .audEnc _ => 2 | _ => 3)
    | none => 0) * 2 ^ (3 * (k + 2))) (v + v * 8)

/-- FSC_STATE: running COMP jobs, in the order of admission, on instances 0 to 3 (log entry 54). -/
def State.showFsc (s : State) : Nat :=
  let l := s.jobs.filterMap (fun (x : Nat × Job) => match x.2.work with
    | .comp a => if x.2.st = .ready then none else some (if x.2.stop.isSome then 3 else if a.op = 0 then 1 else 2)
    | _ => none)
  (List.range 4).foldl (fun a k => a + l.getD k 0 * 2 ^ (4 * k)) 0

/-- PTB_STATE (R312). -/
def State.showBanks (s : State) : Nat :=
  (List.range 2).foldl (fun a b => match s.tableBanks.getD b none with
    | some m => a + 2 ^ b + bit (s.bankUsed m) * 2 ^ (4 + b)
    | none => a) 0

/-- A queue pair's registers, as RDM_QP_SEL shows them (R525); those of queue pair 4,095 are the pair engine's (R587). -/
def State.showQp (s : State) (q off : Nat) : Nat :=
  let x := s.qp q
  if off = 0x104 then
    x.port % 4 + x.st % 4 * 4 + x.mtu % 4 * 16 + x.retry % 8 * 64 + x.timeout % 32 * 512 + x.prio % 8 * 2 ^ 14 + bit x.rdOk * 2 ^ 17 + bit x.wrOk * 2 ^ 18 +
      bit x.notify * 2 ^ 19
  else if q = 4095 then (if off = 0x108 then x.dest else if off = 0x10C then x.ip else x.key)
  else (s.reg (0x2000 + q) off).toNat

/-- The flow that MED_FLOW_SEL names; transmit flows follow the 256 receive flows. -/
def State.flowSel (s : State) : Nat := s.rf 0x35 Reg.MED_FLOW_SEL_FLOW + 256 * s.rf 0x35 Reg.MED_FLOW_SEL_TX

/-- The value TRC_DBG_DATA shows: a register of a halted thread of an unlocked player, otherwise 0 (R624). -/
def State.dbgValue (s : State) (p : Nat) : Nat :=
  let x := s.thread p (s.rf (0x1000 + p) Reg.TRC_DBG_SEL_THREAD)
  let r := s.rf (0x1000 + p) Reg.TRC_DBG_SEL_REG
  if !s.unlocked p ∨ x.st ≠ 9 then 0 else if r = 32 then x.pc else if r < 32 then tget x.regs 0 r else 0

/-- The registers of the traced player that TRC_SEL names. -/
def State.showTrc (s : State) (p off : Nat) : Nat :=
  if 68 ≤ p then 0
  else if off = 0x130 then (List.range 8).foldl (fun a t => a + bit ((s.thread p t).st == 9) * 2 ^ (24 + t)) 0
  else if off = 0x138 then s.dbgValue p % 2 ^ 32
  else if off = 0x13C then s.dbgValue p / 2 ^ 32
  else (s.reg (0x1000 + p) off).toNat

/-- GLB_ERR_SCAN: the lowest page from START to 0x2FF with a class that its mask lets through (R639). -/
def State.errScan (s : State) : Nat :=
  let start := s.rf 0 Reg.GLB_ERR_SCAN_START
  let found := s.regs.find? (fun (e : Nat × Word) => e.1 % 4096 == 0x010 && decide (start ≤ e.1 / 4096 ∧ e.1 / 4096 < 0x300) &&
    ((e.2.toNat % 64) &&& (63 - s.rf (e.1 / 4096) Reg.PG_ERR_MASK_MASK)) != 0)
  match found with
  | some e => start + e.1 / 4096 * 2 ^ 16
  | none => start + 2 ^ 31

/-- Channels that hold persistent streams (R195). -/
def State.persistent (s : State) : Nat := (s.chans.filter (fun (x : Nat × Chan) => !x.2.codec.persist.isEmpty)).length

/-- The value of a register beyond the common layout, before its write-only fields are masked. -/
def State.showReg (s : State) (page : Nat) (b : Blk) (off : Nat) : Nat :=
  let held := (s.reg page off).toNat
  match b with
  | .glb => if off = 0x110 then s.errSum else if off = 0x114 then s.errScan else held
  | .rdm => if 0x104 ≤ off ∧ off ≤ 0x110 then s.showQp (s.rf 8 Reg.RDM_QP_SEL_QP) off else held
  | .med =>
    if 0x104 ≤ off ∧ off ≤ 0x120 then (s.reg (0x4000 + s.flowSel) off).toNat
    else if off = 0x140 then s.time % 2 ^ 32 else if off = 0x144 then s.time / 2 ^ 32 % 2 ^ 32 else held
  | .trc => if 0x104 ≤ off ∧ off ≤ 0x13C then s.showTrc (s.rf 0x37 Reg.TRC_SEL_PLAYER) off else held
  | .ply => if off < 0x110 then s.showSizes page (21 + s.logical (page - 0x100)) off (s.counts (page - 0x100)) else s.showPly (page - 0x100) off
  | .view => if off < 0x110 then s.showSizes page (page - 0x300) off true else held
  | .tre => if off = 0x100 then held % 2 ^ 24 + min 7 (s.treWaiting page).length * 2 ^ 24 else held
  | .smv => if off = 0x100 then s.showSlots (page - 0x200) else held
  | .wrl => if off = 0x100 then s.showRing (page - 0x290) else held
  | .rca =>
    if off = 0x100 then s.showCoders
    else if off = 0x104 then (match s.videoCoder.2 with | some j => handleOf j.chan (s.chan j.chan) | none => 0) else held
  | .fsc => if off = 0x100 then s.showFsc else held
  | .ptb =>
    if off = 0x100 then s.showBanks
    else if 0x110 ≤ off ∧ off < 0x130 then (s.tableBanks.getD ((off - 0x110) / 16) none).getD 0 / 2 ^ (32 * ((off - 0x110) / 4 % 4)) % 2 ^ 32 else held
  | .seq => if off = 0x100 then s.persistent else held
  | .hif =>
    if off = 0x130 then
      let l := s.chans.filter (fun (x : Nat × Chan) => x.2.slot.isSome)
      l.length + (l.filter (fun (x : Nat × Chan) => x.2.pinned)).length * 256
    else if off = 0x134 then (s.chans.filter (fun (x : Nat × Chan) => x.2.st != 0)).length else held
  | .hqd => if 0x100 ≤ off ∧ off < 0x900 ∧ off % 8 = 0 then held % 2 ^ 16 + (off - 0x100) / 8 * 2 ^ 16 else held
  | .ens => if off = 0x100 then s.ens.length else held
  | .log =>
    if off = 0x100 then s.logWr % 2 ^ 32
    else if off = 0x108 then (match s.log.getLast? with | some r => r.recno % 2 ^ 32 | none => 0) else held
  | _ => held

/-- The bits of a register that a read shows: all but write-only fields. -/
def RegDesc.readMask (d : RegDesc) : Word := d.fields.foldl (fun a f => if f.acc = .wo then a else a ||| f.mask) 0

/-- The 32 bytes of a callboard record (R583). -/
def logBytes (r : LogRec) : List Byte :=
  leBytes 8 r.time ++ leBytes 2 r.code ++ leBytes 1 r.inst ++ leBytes 1 0 ++ leBytes 4 r.handle ++ leBytes 4 r.seq ++ leBytes 4 r.d0 ++ leBytes 4 r.d1 ++ leBytes 4 r.recno

/-- A word of the callboard (R583): 0 where no record has been written. -/
def State.boardWord (s : State) (page off : Nat) : Nat :=
  let o := (page - 0x800) * 4096 + off
  match s.log.find? (fun r => (r.recno + 2047) % 2048 == o / 32) with
  | some r => leAt (logBytes r) (o % 32) 4
  | none => 0

/-- What a word of the register window holds now (R24, R627, R630). -/
def regShow (page off : Nat) (s : State) : Word :=
  match pageBlk page with
  | none => 0
  | some .board => wordOf (s.boardWord page off)
  | some b =>
    if b = .view ∧ !s.ensExists (page - 0x300) then (if off = 0 then wordOf (pgId page b) else 0)
    else if off < 0x100 then wordOf (s.showCommon page b off)
    else if b = .view ∧ 0x110 ≤ off ∧ off < 0x158 then
      match s.physLive (page - 0x300) with
      | p :: _ => wordOf (s.showPly p off)
      | [] => 0
    else match regAt page off with
      | some d => wordOf (s.showReg page b off) &&& d.readMask
      | none => 0

/-! Latches -/

/-- The offset of the high word of a 64-bit value, from that of its low word (R633). -/
def hiOf (page off : Nat) : Option Nat :=
  match pageBlk page with
  | none | some .board => none
  | some b =>
    if off = 0x020 then some 0x024
    else if 0x040 ≤ off ∧ off < 0x100 then (if off % 8 = 0 then some (off + 4) else none)
    else match b with
      | .glb => if off = 0x104 then some 0x108 else none
      | .smv => if off = 0x11C then some 0x120 else none
      | .med => if off = 0x140 then some 0x144 else none
      | .trc => if off = 0x138 then some 0x13C else none
      | .ctr => if 0x200 ≤ off ∧ off < 0x2C0 ∧ off % 8 = 0 then some (off + 4) else none
      | .xlt => if 0x400 ≤ off ∧ off < 0xC00 ∧ off % 32 = 0 then some (off + 4) else none
      | _ => none

/-- Whether an offset is that of a latched high word. -/
def isHi (page off : Nat) : Bool := decide (4 ≤ off) && hiOf page (off - 4) == some off

/-- A read of one word (R629, R630, R633, R641, R646): the word and the state after. -/
def regRead (page off : Nat) (s : State) : Word × State :=
  let v := if isHi page off then tget s.latch 0 (page * 4096 + off) else regShow page off s
  let t := match hiOf page off with
    | some h => { s with latch := dput 0 s.latch (page * 4096 + h) (regShow page h s) }
    | none => s
  let t := if pageBlk page = some .board then bump 0x3B Cnt.LOG_READ_BYTES 4 t else t
  (v, bump 0 Cnt.GLB_REG_READS 1 t)

/-- A read of `n` words from device address `a` of the window (R628, R629). -/
def windowRead (a : Nat) : Nat → State → List Byte × State
  | 0, s => ([], s)
  | n + 1, s =>
    let o := a % 0x1000000
    let r := regRead (o / 4096) (o % 4096) s
    let t := windowRead (a + 4) n r.2
    (leBytes 4 r.1.toNat ++ t.1, t.2)

end Sys2Proof.Machine
end

