-- ==== Sys2Proof/Machine/RegWrite.lean ====
section
/-! DEFINITION. What a write of the register window does: field by field, the registers whose writes act, ensemble views (spec/01, R24;
spec/17, "Debugger access"; spec/18, R630, R631, R634, R637 to R640, R645). -/

namespace Sys2Proof.Machine

/-- The bits of a register of one access type. -/
def RegDesc.mask (d : RegDesc) (a : Access) : Word := d.fields.foldl (fun m f => if f.acc = a then m ||| f.mask else m) 0

/-- A word after a plain write: RW fields take the written value, W1C bits written as 1 clear, the rest stays (R630). -/
def RegDesc.merge (d : RegDesc) (old w : Word) : Word :=
  let rw := d.mask .rw
  (old &&& ~~~rw &&& ~~~(d.mask .w1c &&& w)) ||| (w &&& rw)

/-- The value a register takes for a written one (spec/09, LINE_TO; spec/13, LOG2_LEN; spec/19, WARN_C, LIMIT). -/
def adjusted (page off : Nat) (w : Word) : Word :=
  let n := w.toNat
  let clip (lo width a b : Nat) : Word := putField w lo width (max a (min b (bits n lo width)))
  match pageBlk page with
  | some .seq => if off = 0x104 then clip 0 16 1 65535 else w
  | some .xlt => if 0x400 ≤ off ∧ off % 32 = 0xC then clip 12 6 16 34 else w
  | some .pwr => if off = 0x110 then clip 0 8 60 110 else if off = 0x114 then clip 0 10 200 600 else w
  | _ => w

/-- A plain write of a register (R630, R631). -/
def plainWrite (page off : Nat) (w : Word) (s : State) : State :=
  match regAt page off with
  | none => bump 0 Cnt.GLB_UNMAPPED_WRITES 1 s
  | some d =>
    let old := s.reg page off
    let s := if (old ^^^ w) &&& d.mask .csw ≠ 0 then bump 0 Cnt.GLB_CSW_PLAIN 1 (record page Code.E_CMD_INVALID s) else s
    s.setReg page off (d.merge old (adjusted page off w))

/-- A write of PG_ERR on a block's page: a write that leaves it at 0 clears PG_ERR_FIRST and PG_ERR_TIME (R637). -/
def errClear (page : Nat) (w : Word) (s : State) : State :=
  let e := s.reg page 0x010 &&& ~~~w
  let s := s.setReg page 0x010 e
  alertUpdate (if e = 0 then ((s.setReg page 0x018 0).setReg page 0x020 0).setReg page 0x024 0 else s)

/-- A write of PG_ERR_MASK on a block's page. -/
def maskWrite (page : Nat) (w : Word) (s : State) : State := alertUpdate (s.setReg page 0x014 (w &&& 0x3F))

/-- A write of PG_ERR on any page (R638). -/
def pgErr (page : Nat) (w : Word) (s : State) : State :=
  match pageBlk page with
  | none => bump 0 Cnt.GLB_UNMAPPED_WRITES 1 s
  | some .board => s
  | some .view => if s.ensExists (page - 0x300) then (s.viewPages page).foldl (fun a p => errClear p w a) s else viewReject s
  | some _ => errClear page w s

/-- PG_ERR_CLEAR (R637, R638). -/
def execPgErrClear (page : Fin 4096) (w : Word) (s : State) : Host.Outcome State Fault Refusal := hostWrite 1 (pgErr page.val w) s

/-- A write of LOG_RD (R585, R645). -/
def logRd (w : Word) (s : State) : State :=
  let old := s.rf 0x3B Reg.LOG_RD_RD
  if ahead 32 w.toNat old ≤ ahead 32 (s.logWr % 2 ^ 32) old then alertUpdate (logGap (s.wf 0x3B Reg.LOG_RD_RD w.toNat))
  else record 0x3B Code.E_CMD_INVALID s

/-- LOG_RD_WRITE (R585, R645). -/
def execLogRdWrite (w : Word) (s : State) : Host.Outcome State Fault Refusal := hostWrite 1 (logRd w) s

/-- A write of TRC_DBG_CTRL: HALT, RESUME and STEP of each thread (R622). -/
def dbgCtrl (p : Nat) (w : Word) (s : State) : State :=
  if !s.unlocked p then record 0x37 Code.E_DBG_LOCKED s
  else
    (List.range 8).foldl (fun a t =>
      let a := if bits w.toNat t 1 = 1 then dbgHalt p t a else a
      let a := if bits w.toNat (8 + t) 1 = 1 then dbgResume p t a else a
      if bits w.toNat (16 + t) 1 = 1 then dbgStep p t a else a) s

/-- A write of a register of the traced player. -/
def trcWrite (p off : Nat) (w : Word) (s : State) : State :=
  if 68 ≤ p then s
  else if off = 0x104 then (if bits w.toNat 0 1 = 1 then trcEnable p w s else plainWrite (0x1000 + p) off w s)
  else if off = 0x118 then trcTrig p w s
  else if off = 0x130 then dbgCtrl p w s
  else if off = 0x134 then (if s.unlocked p then plainWrite (0x1000 + p) off w s else record 0x37 Code.E_DBG_LOCKED s)
  else if off = 0x138 then dbgData false w s
  else if off = 0x13C then dbgData true w s
  else plainWrite (0x1000 + p) off w s

/-- A write of a register beyond the common layout. -/
def ownWrite (page : Nat) (b : Blk) (off : Nat) (w : Word) (s : State) : State :=
  let plain := plainWrite page off w s
  match b with
  | .glb => if off = 0x118 then alertUpdate plain else plain
  | .eth => if off = 0x100 then ethCtrl (page - 4) w s else plain
  | .rdm =>
    let q := s.rf 8 Reg.RDM_QP_SEL_QP
    if off = 0x104 then qpCfg q w s
    else if 0x108 ≤ off ∧ off ≤ 0x110 then (if q = 4095 then s else plainWrite (0x2000 + q) off w s) else plain
  | .xlt => if off = 0x10C then xltInval w s else plain
  | .hif =>
    if off = 0x100 then (if bits w.toNat 0 1 = 1 then q0Set s else q0Clear s)
    else if off = 0x120 then chProbe w s else plain
  | .hqd =>
    if 0x100 ≤ off ∧ off < 0x900 then bump 0x22 Cnt.HQD_DB_FORM 1 (bump 0x22 Cnt.HQD_DB_WRITES 1 s)
    else if 0x900 ≤ off ∧ off < 0xD00 then cqHead ((off - 0x900) / 4) w s else plain
  | .rgv => if off = 0x110 then rgvProbe w s else plain
  | .rca => if off = 0x108 then gatherWrite w s else plain
  | .smv => if page = 0x280 ∧ off = 0x140 then hoPool w s else plain
  | .ctr => if off = 0x100 then ctrGo w s else plain
  | .trc => if 0x104 ≤ off ∧ off ≤ 0x13C ∧ (regAt page off).isSome then trcWrite (s.rf 0x37 Reg.TRC_SEL_PLAYER) off w s else plain
  | .pair => if off = 0x138 then (if bits w.toNat 0 1 = 1 then pairJoin s else s) else plain
  | .log => if off = 0x104 then logRd w s else plain
  | .med =>
    if off = 0x104 then flowCfg s.flowSel w s
    else if 0x108 ≤ off ∧ off ≤ 0x120 then plainWrite (0x4000 + s.flowSel) off w s
    else if off = 0x148 then timeCtrl w s
    else if off = 0x154 then stepTime (signed 32 w.toNat) s
    else if off = 0x160 then timeSet w s else plain
  | _ => plain

/-- A write of a word of an ensemble view beyond PG_CTRL and PG_ERR (R24, R158, R638): PG_ERR_MASK goes to every member, the rest is read
only. -/
def viewWrite (page off : Nat) (w : Word) (s : State) : State :=
  if off = 0x014 then (s.viewPages page).foldl (fun a p => maskWrite p w a) s
  else if off < 0x100 then (if 0x040 ≤ off ∨ (regAt page off).isSome then s else bump 0 Cnt.GLB_UNMAPPED_WRITES 1 s)
  else if off < 0x158 then s
  else bump 0 Cnt.GLB_UNMAPPED_WRITES 1 s

/-- A write of one word of the register window (R630). -/
def regWrite (page off : Nat) (w : Word) (s : State) : State :=
  match pageBlk page with
  | none => bump 0 Cnt.GLB_UNMAPPED_WRITES 1 s
  | some .board => s
  | some b =>
    if b = .view ∧ !s.ensExists (page - 0x300) then viewReject s
    else if off = 0x008 then pgCtrl page w s
    else if off = 0x010 then pgErr page w s
    else if b = .view then viewWrite page off w s
    else if off = 0x014 then maskWrite page w s
    else if 0x040 ≤ off ∧ off < 0x100 then s
    else if off < 0x100 then plainWrite page off w s
    else ownWrite page b off w s

/-- REGISTER_WRITE (R630, R631). -/
def execRegisterWrite (page : Fin 4096) (word : Fin 1024) (w : Word) (s : State) : Host.Outcome State Fault Refusal :=
  hostWrite 1 (regWrite page.val (4 * word.val) w) s

/-- Whether a device address is that of a doorbell (HQD_DBq, of queue q). -/
def doorbellAt (a : Nat) : Option Nat :=
  if 0x020000022100 ≤ a ∧ a < 0x020000022900 ∧ a % 8 = 0 then some (a / 8 % 512 - 32) else none

/-- A write of words at device address `a` of the window, in ascending order (R629); a doorbell acts only where the request covers its
whole 8-byte word (R634). -/
def windowWrite (a : Nat) : List Word → State → State
  | [], s => s
  | [w], s => regWrite ((a % 0x1000000) / 4096) ((a % 0x1000000) % 4096) w (wrote 1 s)
  | w :: v :: t, s =>
    match doorbellAt a with
    | some q => windowWrite (a + 8) t (doorbell q (v ++ w) (wrote 2 s))
    | none => windowWrite (a + 4) (v :: t) (regWrite ((a % 0x1000000) / 4096) ((a % 0x1000000) % 4096) w (wrote 1 s))

/-- The words of a payload, a multiple of 4 bytes long. -/
def wordsOf : List Byte → List Word
  | b0 :: b1 :: b2 :: b3 :: t => wordOf (leNat [b0, b1, b2, b3]) :: wordsOf t
  | _ => []

end Sys2Proof.Machine
end

