-- ==== Sys2Proof/Machine/Responder.lean ====
section
/-! DEFINITION. The RDMA responder (spec/04, R124; spec/13, R484, R490; spec/14, R520 to R522; spec/16, R587; spec/18, R628, R629). -/

namespace Sys2Proof.Machine

/-- Where a host may reach: LPDDR6 below the device-private range, the host area of the Shared Store, an unlocked player's local store,
the register window (R124, R484). The pair engine's queue pair reaches LPDDR6 alone (R587). -/
def State.reachable (s : State) (q a len : Nat) : Bool :=
  let e := a + (len - 1)
  if q = 4095 then isHostLpddr e
  else isHostLpddr e || (isHostShared a && isHostShared e) || (isWindow a && isWindow e) ||
    (isLocal a && isLocal e && a / 0x400000 == e / 0x400000 && decide (e % 0x400000 < 0x300000) && s.unlocked (a / 0x400000 % 1024))

/-- Whether R522 serves a request of `len` bytes. -/
def State.serves (s : State) (q key a len : Nat) (write : Bool) : Bool :=
  let x := s.qp q
  key == x.key && (if write then x.wrOk else x.rdOk) && (len == 0 || s.reachable q a len)

/-- A request that is refused (R522). -/
def refuse (q : Nat) (m : Msg) (s : State) : State := bump 8 Cnt.RDM_NAK_TX 1 (sendOn (s.qp q).port (s.qp q).prio m s)

/-- Lines of LPDDR6 that a write covers whole lose their poison (R490). -/
def cleanLines (a len : Nat) (s : State) : State :=
  { s with poison := s.poison.filter (fun l => ¬(a ≤ 64 * l ∧ 64 * l + 64 ≤ a + len)) }

/-- A reply on a queue pair. -/
def respond (q : Nat) (m : Msg) (s : State) : State := sendOn (s.qp q).port (s.qp q).prio m s

/-- RDMA READ (R520, R522, R628). -/
def serveRead (q key a len : Nat) (s : State) : State :=
  if !s.serves q key a len false then refuse q (.nakAccess q) s
  else if isWindow a ∧ (a % 4 ≠ 0 ∨ len % 4 ≠ 0) then refuse q (.nakAccess q) (bump 0 Cnt.GLB_NAKS 1 s)
  else
    let s := bump 0x3A Cnt.SHS_RD_BYTES (bit (isHostShared a) * len) (bump 8 Cnt.RDM_BYTES_TX len (bump 8 Cnt.RDM_RSP_READS 1 s))
    if isWindow a then
      let r := windowRead a (len / 4) s
      respond q (.readResponse q r.1) r.2
    else respond q (.readResponse q (s.bytes a len)) s

/-- RDMA WRITE, with or without an immediate, which is discarded (R520, R522, R628, R634). -/
def serveWrite (q key a : Nat) (l : List Byte) (s : State) : State :=
  if !s.serves q key a l.length true then refuse q (.nakAccess q) s
  else if isWindow a ∧ (a % 4 ≠ 0 ∨ l.length % 4 ≠ 0) then refuse q (.nakAccess q) (bump 0 Cnt.GLB_NAKS 1 s)
  else
    let s := bump 0x3A Cnt.SHS_WR_BYTES (bit (isHostShared a) * l.length) (bump 8 Cnt.RDM_BYTES_RX l.length (bump 8 Cnt.RDM_RSP_WRITES 1 s))
    if isWindow a then respond q (.ack q) (windowWrite a (wordsOf l) s)
    else respond q (.ack q) (cleanLines a l.length (s.store a l))

/-- RDMA_REQUEST_RECEIVE (R520 to R522, R526): in RESET or ERROR nothing is served. A SEND on the pair engine's queue pair is a pair
message, whose effect its own command gives. -/
def rdmaRequest (q : Nat) (op : RdmaOp) (key a : Nat) (ce : Bool) (s : State) : State :=
  if !s.up ∨ (s.qp q).st ≠ 1 then s
  else
    let s := cnpFor q ce s
    match op with
    | .read len => serveRead q key a len s
    | .write l => serveWrite q key a l s
    | .send l => if q = 4095 ∧ (s.role = 1 ∨ s.role = 2) then respond q (.ack q) (bump 8 Cnt.RDM_BYTES_RX l.length s) else refuse q (.nakInvalid q) s
    | .other => refuse q (.nakInvalid q) s

/-- RDMA_REQUEST_RECEIVE. -/
def execRdmaRequestReceive (qp : Fin 4096) (op : RdmaOp) (rkey : Word) (addr : Dword) (ce : Bool) (s : State) : Host.Outcome State Fault Refusal :=
  .next (rdmaRequest qp.val op rkey.toNat addr.toNat ce s)

end Sys2Proof.Machine
end

