-- ==== Sys2Proof/Machine/Fetch.lean ====
section
/-! DEFINITION. Fetching entries and admitting them in turns, fences, and the commands that the peer forwards (spec/12, R444, R446, R448,
R449, R451; spec/16, R588, R591). -/

namespace Sys2Proof.Machine

/-- The command of an entry, by its OPCODE (R454): `adm` admits it with its checks and its body. `pkg` and `remote` are the package's
content and the bytes behind windows that the command reads. -/
def runEntry (adm : CmdSpec → (Ctx → Nat → Entry → State → State) → State → State) (e : Entry) (pkg : Package) (remote : List Byte) (s : State) : State :=
  match eOp e with
  | 0x01 => adm spNop nop s
  | 0x02 => adm spSqCreate sqCreate s
  | 0x03 => adm spSqDelete sqDelete s
  | 0x04 => adm spCqCreate cqCreate s
  | 0x05 => adm spCqDelete cqDelete s
  | 0x06 => adm spEnsForm ensForm s
  | 0x07 => adm spEnsDissolve ensDissolve s
  | 0x08 => adm spRetire retire s
  | 0x09 => adm spReadmit readmit s
  | 0x0A => adm spRepair (repair remote) s
  | 0x0B => adm spPromote promote s
  | 0x0C => adm spCswApply (cswApply remote) s
  | 0x0D => adm spAttest attest s
  | 0x10 => adm spChCreate chCreate s
  | 0x11 => adm spChDestroy chDestroy s
  | 0x12 => adm spPkgLoad (pkgLoad pkg) s
  | 0x13 => adm spChBind chBind s
  | 0x14 => adm spChIo chIo s
  | 0x15 => adm spChPrepare chPrepare s
  | 0x16 => adm spChStart chStart s
  | 0x17 => adm spChStop chStop s
  | 0x18 => adm spChSet chSet s
  | 0x19 => adm spStatsSet statsSet s
  | 0x1A => adm spChEnsemble chEnsemble s
  | 0x1B => adm spChContinue chContinue s
  | 0x1C => adm spForceIntra forceIntra s
  | 0x1D => adm spStreamIn streamInFwd s
  | 0x1E => adm spOutHead outHead s
  | 0x1F => adm spResume resume s
  | 0x20 => adm spCancel cancel s
  | 0x21 => adm spTensor tensor s
  | 0x22 => adm spComp comp s
  | 0x23 => adm spLiveBind (liveBind remote) s
  | 0x24 => adm spLiveUnbind liveUnbind s
  | _ => adm spNone nop s

/-- Admit an entry that queue `q` has fetched; a queue under SQ_DELETE is freed after its last one (R451). -/
def admitEntry (q : Nat) (e : Entry) (pkg : Package) (remote : List Byte) (s : State) : State :=
  trySqDelete q (runEntry (fun sp body a => admitCmd sp q e body a) e pkg remote s)

/-- What the fetched entries bring: the packages of their PKG_LOADs and the bytes of the commands that read behind windows, in order. -/
abbrev Feed : Type := List Package × List (List Byte)

/-- The feed after an entry. -/
def Feed.after (f : Feed) (e : Entry) : Feed :=
  (if eOp e = 0x12 then f.1.tail else f.1, if eOp e = 0x0A ∨ eOp e = 0x0C ∨ eOp e = 0x23 then f.2.tail else f.2)

/-- Entries covered by a doorbell and not fetched. -/
def Queue.covered (k : Queue) : Nat := ahead 16 k.t (k.h % 2 ^ 16)

/-- Fetch up to `n` entries of a queue and admit them (R444, R448, R449): an entry with FENCE waits while an earlier one of its queue has
its record open, and those behind it wait with it. -/
def fetchQueue (q : Nat) : Nat → Feed × State → Feed × State
  | 0, x => x
  | n + 1, (f, s) =>
    match tget? s.queues q with
    | none => (f, s)
    | some k =>
      if k.stopped ∨ !k.waiting.isEmpty ∨ k.covered = 0 then (f, s)
      else
        let e : Entry := BitVec.ofNat 1024 (s.load (k.base + 128 * (k.h % 2 ^ k.log2n)) 128)
        let held := eFence e && decide (0 < k.openRecs)
        let s := { s with queues := tput s.queues q { k with h := k.h + 1, waiting := if held then [e] else [] } }.wf 0x22 (Reg.HQD_DBH_FETCHED.nth 8 q) (k.h + 1)
        if held then (f, s) else fetchQueue q n (f.after e, admitEntry q e (f.1.headD {}) (f.2.headD []) s)

/-- One turn over the queues in service, in ascending order, each with up to WEIGHT entries (R448). -/
def fetchTurn (f : Feed) (s : State) : State :=
  (s.queues.foldl (fun x q => fetchQueue q.1 q.2.weight x) (f, s)).2

/-- ENTRY_FETCH (R448). -/
def execEntryFetch (pkgs : List Package) (remote : List (List Byte)) (s : State) : Host.Outcome State Fault Refusal := .next (fetchTurn (pkgs, remote) s)

/-- FENCE_RELEASE (R449): the waiting entry of a queue is admitted once no earlier entry has its record open. -/
def execFenceRelease (q : Fin 256) (pkg : Package) (remote : List Byte) (s : State) : Host.Outcome State Fault Refusal :=
  match tget? s.queues q.val with
  | none => .next s
  | some k => match k.waiting with
    | [] => .next s
    | e :: t =>
      if 0 < k.openRecs then .next s
      else .next (admitEntry q.val e pkg remote { s with queues := tput s.queues q.val { k with waiting := t } })

/-- FORWARD (R588, R591): the understudy admits the entry with the handle it has there and posts no record for it. `ok` says that the
command succeeded on the primary. -/
def execForward (h : PairHdr) (e : Entry) (pkg : Package) (remote : List Byte) (ok : Bool) (s : State) : Host.Outcome State Fault Refusal :=
  if !s.pairOpen then .next s
  else if !h.fits 4 128 ∨ h.epoch < s.pairEpoch then .next (discardPair s)
  else if s.role ≠ 2 ∨ (s.pairState ≠ 2 ∧ s.pairState ≠ 3) then .next s
  else
    .next (runEntry (fun sp body a => admitFrom sp { queue := 0, ring := 0, fwd := some ok } e body a) e pkg remote (bump 0x38 Cnt.PAIR_FORWARDS 1 s))

end Sys2Proof.Machine
end

