-- ==== Sys2Proof/Machine/Dispatch.lean ====
section
/-! DEFINITION. The dispatch: one arm for every command. -/

namespace Sys2Proof.Machine

/-- The effect of a command on everything but the queue (spec/95). -/
def exec (i : Instr) (s : State) : Host.Outcome State Fault Refusal :=
  match i with
  | .inputApply cv => Sys2Proof.Machine.execInputApply cv s
  | .inputRemoval => Sys2Proof.Machine.execInputRemoval s
  | .pwrEnRise => Sys2Proof.Machine.execPwrEnRise s
  | .railsInRegulation obs => Sys2Proof.Machine.execRailsInRegulation obs s
  | .railTimeout => Sys2Proof.Machine.execRailTimeout s
  | .pwrEnFall => Sys2Proof.Machine.execPwrEnFall s
  | .modResetNAssert ns => Sys2Proof.Machine.execModResetNAssert ns s
  | .modResetNRelease obs => Sys2Proof.Machine.execModResetNRelease obs s
  | .undervoltageStop => Sys2Proof.Machine.execUndervoltageStop s
  | .overvoltageStop => Sys2Proof.Machine.execOvervoltageStop s
  | .overcurrentStop => Sys2Proof.Machine.execOvercurrentStop s
  | .powerSample cv ma => Sys2Proof.Machine.execPowerSample cv ma s
  | .tempSample die plate => Sys2Proof.Machine.execTempSample die plate s
  | .pllLockLoss memory => Sys2Proof.Machine.execPllLockLoss memory s
  | .ethPllLockLoss => Sys2Proof.Machine.execEthPllLockLoss s
  | .hello h imageLen qp psn key => Sys2Proof.Machine.execHello h imageLen qp psn key s
  | .data h offset bytes => Sys2Proof.Machine.execData h offset bytes s
  | .endImage h => Sys2Proof.Machine.execEndImage h s
  | .abortLoad h => Sys2Proof.Machine.execAbortLoad h s
  | .imageVerifyDone => Sys2Proof.Machine.execImageVerifyDone s
  | .operational ms => Sys2Proof.Machine.execOperational ms s
  | .linkChange port up => Sys2Proof.Machine.execLinkChange port up s
  | .frameReceive port pcp dscp len rtcp ce drained => Sys2Proof.Machine.execFrameReceive port pcp dscp len rtcp ce drained s
  | .pfcRefresh => Sys2Proof.Machine.execPfcRefresh s
  | .pfcResume port prio drained => Sys2Proof.Machine.execPfcResume port prio drained s
  | .pauseReceive port prio quanta => Sys2Proof.Machine.execPauseReceive port prio quanta s
  | .pfcWatchdog port prio => Sys2Proof.Machine.execPfcWatchdog port prio s
  | .rdmaRequestReceive qp op rkey addr ce => Sys2Proof.Machine.execRdmaRequestReceive qp op rkey addr ce s
  | .rdmaAckReceive qp n bytes ce => Sys2Proof.Machine.execRdmaAckReceive qp n bytes ce s
  | .rdmaNakReceive qp kind => Sys2Proof.Machine.execRdmaNakReceive qp kind s
  | .rdmaRetransmit qp => Sys2Proof.Machine.execRdmaRetransmit qp s
  | .cnpReceive qp => Sys2Proof.Machine.execCnpReceive qp s
  | .ccRateRise qp => Sys2Proof.Machine.execCcRateRise qp s
  | .qpReset qp w => Sys2Proof.Machine.execQpReset qp w s
  | .qpReady qp w => Sys2Proof.Machine.execQpReady qp w s
  | .qpCfgWrite qp w => Sys2Proof.Machine.execQpCfgWrite qp w s
  | .ethCtrlWrite port w => Sys2Proof.Machine.execEthCtrlWrite port w s
  | .flowApply tx flow w => Sys2Proof.Machine.execFlowApply tx flow w s
  | .st211020Packet flow h segs => Sys2Proof.Machine.execSt211020Packet flow h segs s
  | .st211030Packet flow h samples => Sys2Proof.Machine.execSt211030Packet flow h samples s
  | .thardaxPacketReceive flow h payload => Sys2Proof.Machine.execThardaxPacketReceive flow h payload s
  | .egressInstant flow => Sys2Proof.Machine.execEgressInstant flow s
  | .ptpMessage port domain m => Sys2Proof.Machine.execPtpMessage port domain m s
  | .ptpDelayReq => Sys2Proof.Machine.execPtpDelayReq s
  | .ppsEdge => Sys2Proof.Machine.execPpsEdge s
  | .timeHoldover => Sys2Proof.Machine.execTimeHoldover s
  | .timeStep w => Sys2Proof.Machine.execTimeStep w s
  | .timeSet w => Sys2Proof.Machine.execTimeSet w s
  | .registerWrite page word w => Sys2Proof.Machine.execRegisterWrite page word w s
  | .pgErrClear page w => Sys2Proof.Machine.execPgErrClear page w s
  | .quiesceReqSet page => Sys2Proof.Machine.execQuiesceReqSet page s
  | .quiesceDone page => Sys2Proof.Machine.execQuiesceDone page s
  | .quiesceReqClear page => Sys2Proof.Machine.execQuiesceReqClear page s
  | .resetReq page => Sys2Proof.Machine.execResetReq page s
  | .powerDownReq page => Sys2Proof.Machine.execPowerDownReq page s
  | .powerUpReq page => Sys2Proof.Machine.execPowerUpReq page s
  | .enableClear page => Sys2Proof.Machine.execEnableClear page s
  | .enableSet page => Sys2Proof.Machine.execEnableSet page s
  | .doorbell q d => Sys2Proof.Machine.execDoorbell q d s
  | .cqHeadWrite r w => Sys2Proof.Machine.execCqHeadWrite r w s
  | .q0EnSet => Sys2Proof.Machine.execQ0EnSet s
  | .q0EnTakeEffect => Sys2Proof.Machine.execQ0EnTakeEffect s
  | .q0EnClear => Sys2Proof.Machine.execQ0EnClear s
  | .entryFetch pkgs remote => Sys2Proof.Machine.execEntryFetch pkgs remote s
  | .fenceRelease q pkg remote => Sys2Proof.Machine.execFenceRelease q pkg remote s
  | .nop q e => Sys2Proof.Machine.execNop q e s
  | .sqCreate q e => Sys2Proof.Machine.execSqCreate q e s
  | .sqDelete q e => Sys2Proof.Machine.execSqDelete q e s
  | .cqCreate q e => Sys2Proof.Machine.execCqCreate q e s
  | .cqDelete q e => Sys2Proof.Machine.execCqDelete q e s
  | .ensForm q e => Sys2Proof.Machine.execEnsForm q e s
  | .ensDissolve q e => Sys2Proof.Machine.execEnsDissolve q e s
  | .retire q e => Sys2Proof.Machine.execRetire q e s
  | .readmit q e => Sys2Proof.Machine.execReadmit q e s
  | .repair q e remote => Sys2Proof.Machine.execRepair q e remote s
  | .promote q e => Sys2Proof.Machine.execPromote q e s
  | .cswApply q e remote => Sys2Proof.Machine.execCswApply q e remote s
  | .attest q e => Sys2Proof.Machine.execAttest q e s
  | .chCreate q e => Sys2Proof.Machine.execChCreate q e s
  | .chDestroy q e => Sys2Proof.Machine.execChDestroy q e s
  | .pkgLoad q e pkg => Sys2Proof.Machine.execPkgLoad q e pkg s
  | .pkgLoadComplete handle => Sys2Proof.Machine.execPkgLoadComplete handle s
  | .chBind q e => Sys2Proof.Machine.execChBind q e s
  | .chIo q e => Sys2Proof.Machine.execChIo q e s
  | .chPrepare q e => Sys2Proof.Machine.execChPrepare q e s
  | .chStart q e => Sys2Proof.Machine.execChStart q e s
  | .chStop q e => Sys2Proof.Machine.execChStop q e s
  | .chSet q e => Sys2Proof.Machine.execChSet q e s
  | .statsSet q e => Sys2Proof.Machine.execStatsSet q e s
  | .chEnsemble q e => Sys2Proof.Machine.execChEnsemble q e s
  | .chContinue q e => Sys2Proof.Machine.execChContinue q e s
  | .forceIntra q e => Sys2Proof.Machine.execForceIntra q e s
  | .streamIn q e => Sys2Proof.Machine.execStreamIn q e s
  | .outHead q e => Sys2Proof.Machine.execOutHead q e s
  | .resume q e => Sys2Proof.Machine.execResume q e s
  | .cancel q e => Sys2Proof.Machine.execCancel q e s
  | .tensor q e => Sys2Proof.Machine.execTensor q e s
  | .comp q e => Sys2Proof.Machine.execComp q e s
  | .liveBind q e remote => Sys2Proof.Machine.execLiveBind q e remote s
  | .liveUnbind q e => Sys2Proof.Machine.execLiveUnbind q e s
  | .recordPost r => Sys2Proof.Machine.execRecordPost r s
  | .completionWordWrite r => Sys2Proof.Machine.execCompletionWordWrite r s
  | .completionWriteFail r => Sys2Proof.Machine.execCompletionWriteFail r s
  | .hifChProbeWrite w => Sys2Proof.Machine.execHifChProbeWrite w s
  | .rgvProbeWrite w => Sys2Proof.Machine.execRgvProbeWrite w s
  | .xltInvalidate w => Sys2Proof.Machine.execXltInvalidate w s
  | .xltInvalDone => Sys2Proof.Machine.execXltInvalDone s
  | .hoPoolWrite w => Sys2Proof.Machine.execHoPoolWrite w s
  | .gatherWrite w => Sys2Proof.Machine.execGatherWrite w s
  | .logRdWrite w => Sys2Proof.Machine.execLogRdWrite w s
  | .ctrSampleGo w => Sys2Proof.Machine.execCtrSampleGo w s
  | .ctrSampleDone coincident => Sys2Proof.Machine.execCtrSampleDone coincident s
  | .trcEnable p w => Sys2Proof.Machine.execTrcEnable p w s
  | .trcArm p w => Sys2Proof.Machine.execTrcArm p w s
  | .trcNow p w => Sys2Proof.Machine.execTrcNow p w s
  | .traceDrain p => Sys2Proof.Machine.execTraceDrain p s
  | .dbgHalt p t => Sys2Proof.Machine.execDbgHalt p t s
  | .dbgResume p t => Sys2Proof.Machine.execDbgResume p t s
  | .dbgStep p t => Sys2Proof.Machine.execDbgStep p t s
  | .dbgDataWrite hi w => Sys2Proof.Machine.execDbgDataWrite hi w s
  | .pairJoin => Sys2Proof.Machine.execPairJoin s
  | .joinReceive h payload => Sys2Proof.Machine.execJoinReceive h payload s
  | .joinSigReceive h sig => Sys2Proof.Machine.execJoinSigReceive h sig s
  | .beatSend => Sys2Proof.Machine.execBeatSend s
  | .beatReceive h st commits => Sys2Proof.Machine.execBeatReceive h st commits s
  | .beatPeriodMissed => Sys2Proof.Machine.execBeatPeriodMissed s
  | .forward h e pkg remote ok => Sys2Proof.Machine.execForward h e pkg remote ok s
  | .mirrorPoint handle => Sys2Proof.Machine.execMirrorPoint handle s
  | .commit h handle pic bytes pt => Sys2Proof.Machine.execCommit h handle pic bytes pt s
  | .ack h handle pic => Sys2Proof.Machine.execAck h handle pic s
  | .jobDispatch id => Sys2Proof.Machine.execJobDispatch id s
  | .contextSwap handle => Sys2Proof.Machine.execContextSwap handle s
  | .instructionRetire p t => Sys2Proof.Machine.execInstructionRetire p t s
  | .cueIssue p t => Sys2Proof.Machine.execCueIssue p t s
  | .cueIssueUnpark p t => Sys2Proof.Machine.execCueIssueUnpark p t s
  | .cueTry p t => Sys2Proof.Machine.execCueTry p t s
  | .semWait p t => Sys2Proof.Machine.execSemWait p t s
  | .semWaitTake p t => Sys2Proof.Machine.execSemWaitTake p t s
  | .semTry p t => Sys2Proof.Machine.execSemTry p t s
  | .semPost p t => Sys2Proof.Machine.execSemPost p t s
  | .remotePostArrive p src => Sys2Proof.Machine.execRemotePostArrive p src s
  | .semRead p t => Sys2Proof.Machine.execSemRead p t s
  | .fenceCue p t => Sys2Proof.Machine.execFenceCue p t s
  | .fenceCueRelease p t => Sys2Proof.Machine.execFenceCueRelease p t s
  | .bar p t => Sys2Proof.Machine.execBar p t s
  | .yield p t => Sys2Proof.Machine.execYield p t s
  | .yieldPoint id => Sys2Proof.Machine.execYieldPoint id s
  | .jobEnd p t => Sys2Proof.Machine.execJobEnd p t s
  | .jobFinish id => Sys2Proof.Machine.execJobFinish id s
  | .cueNop p cls => Sys2Proof.Machine.execCueNop p cls s
  | .macPsum p => Sys2Proof.Machine.execMacPsum p s
  | .vecElt p => Sys2Proof.Machine.execVecElt p s
  | .vecFunc p => Sys2Proof.Machine.execVecFunc p s
  | .vecConv p => Sys2Proof.Machine.execVecConv p s
  | .vecScale p => Sys2Proof.Machine.execVecScale p s
  | .vecAdam p => Sys2Proof.Machine.execVecAdam p s
  | .vecWarp p => Sys2Proof.Machine.execVecWarp p s
  | .vecReduce p => Sys2Proof.Machine.execVecReduce p s
  | .vecMove p => Sys2Proof.Machine.execVecMove p s
  | .vecQlat p => Sys2Proof.Machine.execVecQlat p s
  | .tabLookup p => Sys2Proof.Machine.execTabLookup p s
  | .tabBucket p => Sys2Proof.Machine.execTabBucket p s
  | .shdStart by_ => Sys2Proof.Machine.execShdStart by_ s
  | .shdRearm p => Sys2Proof.Machine.execShdRearm p s
  | .shdClose p => Sys2Proof.Machine.execShdClose p s
  | .treNttconv p => Sys2Proof.Machine.execTreNttconv p s
  | .treFftconv p => Sys2Proof.Machine.execTreFftconv p s
  | .treFft p => Sys2Proof.Machine.execTreFft p s
  | .treIfft p => Sys2Proof.Machine.execTreIfft p s
  | .rlyKeep p => Sys2Proof.Machine.execRlyKeep p s
  | .cueComplete p cls => Sys2Proof.Machine.execCueComplete p cls s
  | .playerUpset p kind cls place => Sys2Proof.Machine.execPlayerUpset p kind cls place s
  | .playerWatchdog p => Sys2Proof.Machine.execPlayerWatchdog p s
  | .streamStall id => Sys2Proof.Machine.execStreamStall id s
  | .jobStop id => Sys2Proof.Machine.execJobStop id s
  | .stagehandDrainEnd sh => Sys2Proof.Machine.execStagehandDrainEnd sh s
  | .streamTileDone sh slot far idx => Sys2Proof.Machine.execStreamTileDone sh slot far idx s
  | .streamPassEnd sh slot => Sys2Proof.Machine.execStreamPassEnd sh slot s
  | .streamHalt sh slot far idx at_ => Sys2Proof.Machine.execStreamHalt sh slot far idx at_ s
  | .haltTimeout sh slot => Sys2Proof.Machine.execHaltTimeout sh slot s
  | .fetchStart => Sys2Proof.Machine.execFetchStart s
  | .fetchComplete id => Sys2Proof.Machine.execFetchComplete id s
  | .xltWalk handle va write halts job => Sys2Proof.Machine.execXltWalk handle va write halts job s
  | .lpddrRead a job ecc => Sys2Proof.Machine.execLpddrRead a job ecc s
  | .lpddrWrite a off bytes job ecc => Sys2Proof.Machine.execLpddrWrite a off bytes job ecc s
  | .scrubLine a ecc raced => Sys2Proof.Machine.execScrubLine a ecc raced s
  | .shsEccError offset double job => Sys2Proof.Machine.execShsEccError offset double job s
  | .creditGrant n => Sys2Proof.Machine.execCreditGrant n s
  | .handoverTile n num bytes => Sys2Proof.Machine.execHandoverTile n num bytes s
  | .creditReturn n num => Sys2Proof.Machine.execCreditReturn n num s
  | .relayAccept p => Sys2Proof.Machine.execRelayAccept p s
  | .relaySliceSend w far => Sys2Proof.Machine.execRelaySliceSend w far s
  | .relaySliceArrive w k => Sys2Proof.Machine.execRelaySliceArrive w k s
  | .relayStreamEnd w => Sys2Proof.Machine.execRelayStreamEnd w s
  | .relayParityError w k => Sys2Proof.Machine.execRelayParityError w k s
  | .lineTimeout handle => Sys2Proof.Machine.execLineTimeout handle s
  | .sliceRelease handle => Sys2Proof.Machine.execSliceRelease handle s
  | .rowCommit id row => Sys2Proof.Machine.execRowCommit id row s
  | .gatherRow id row => Sys2Proof.Machine.execGatherRow id row s
  | .codePhaseStart => Sys2Proof.Machine.execCodePhaseStart s
  | .sliceClose => Sys2Proof.Machine.execSliceClose s
  | .sliceEmit handle => Sys2Proof.Machine.execSliceEmit handle s
  | .audioFrameCode id handle seq => Sys2Proof.Machine.execAudioFrameCode id handle seq s
  | .tableBankLoad id => Sys2Proof.Machine.execTableBankLoad id s
  | .rcaParityError at_ => Sys2Proof.Machine.execRcaParityError at_ s
  | .adapterSetComplete id handle seq => Sys2Proof.Machine.execAdapterSetComplete id handle seq s
  | .seqSegment handle far => Sys2Proof.Machine.execSeqSegment handle far s
  | .picSegment handle far => Sys2Proof.Machine.execPicSegment handle far s
  | .slcSegment handle far => Sys2Proof.Machine.execSlcSegment handle far s
  | .audSegment handle far => Sys2Proof.Machine.execAudSegment handle far s
  | .adpSegment handle far => Sys2Proof.Machine.execAdpSegment handle far s
  | .endSegment handle far => Sys2Proof.Machine.execEndSegment handle far s
  | .padSegment handle far => Sys2Proof.Machine.execPadSegment handle far s
  | .reservedSegment handle far => Sys2Proof.Machine.execReservedSegment handle far s
  | .deliveryWrite id => Sys2Proof.Machine.execDeliveryWrite id s
  | .fscStore job n mismatch far => Sys2Proof.Machine.execFscStore job n mismatch far s
  | .fscLoad id far => Sys2Proof.Machine.execFscLoad id far s
  | .blockResetDone page => Sys2Proof.Machine.execBlockResetDone page s
  | .traceSyncPeriod p => Sys2Proof.Machine.execTraceSyncPeriod p s

end Sys2Proof.Machine
end

