-- ==== Sys2Proof/Safety.lean ====
section
/-! DEFINITION. What a safe run is, and how a statement says what a step leaves alone: steps, the invariants that every step keeps, the
parts of the state, registers and counters that read as before. -/

namespace Sys2Proof.Machine

/-- A step that answers a next state. -/
def Steps (s t : State) : Prop := step s = .next t

/-- The states that some number of steps reaches. -/
inductive Reaches (s : State) : State → Prop where
  | here : Reaches s s
  | step {t u : State} : Reaches s t → Steps t u → Reaches s u

/-- Registers, counters and memory in their canonical forms: keys rise, and no entry holds what an unlisted key reads as. -/
def Canonical (s : State) : Prop :=
  Memory.wf s.mem = true ∧ (rising s.regs = true ∧ ∀ e ∈ s.regs, e.2 ≠ regReset e.1) ∧
    (rising s.ctr = true ∧ ∀ e ∈ s.ctr, e.2 ≠ 0)

/-- The callboard in order: each record is numbered one above the record before it (newest first). -/
def Numbered : List LogRec → Prop
  | [] => True
  | [_] => True
  | a :: b :: t => a.recno = b.recno + 1 ∧ Numbered (b :: t)

/-- What holds of the next state, where an outcome has one. -/
def Ends (P : State → Prop) : Host.Outcome State Fault Refusal → Prop
  | .next t => P t
  | .fault _ => True
  | .refused _ => True

/-- The parts of the state, one for each field of State. -/
inductive Part where
  | pending | free | time | regs | latch | ctr | banks | sample | mem | poison | out | log
  | logLost | pins | ids | boot | ports | qps | flows | servo | traces | pair | queues | rings
  | q0Wanted | due | devSeq | chans | points | nextIndex | freed | opens | jobs | nextJob | tlb | inval
  | fetches | nextFetch | players | treLast | streams | shds | chains | relays | stores | slice | tableBanks | lives | ens
deriving DecidableEq, Repr

/-- A part holds the same in both states. -/
def Part.same (s t : State) : Part → Prop
  | .pending => t.pending = s.pending
  | .free => t.free = s.free
  | .time => t.time = s.time
  | .regs => t.regs = s.regs
  | .latch => t.latch = s.latch
  | .ctr => t.ctr = s.ctr
  | .banks => t.banks = s.banks
  | .sample => t.sample = s.sample
  | .mem => t.mem = s.mem
  | .poison => t.poison = s.poison
  | .out => t.out = s.out
  | .log => t.log = s.log
  | .logLost => t.logLost = s.logLost
  | .pins => t.pins = s.pins
  | .ids => t.ids = s.ids
  | .boot => t.boot = s.boot
  | .ports => t.ports = s.ports
  | .qps => t.qps = s.qps
  | .flows => t.flows = s.flows
  | .servo => t.servo = s.servo
  | .traces => t.traces = s.traces
  | .pair => t.pair = s.pair
  | .queues => t.queues = s.queues
  | .rings => t.rings = s.rings
  | .q0Wanted => t.q0Wanted = s.q0Wanted
  | .due => t.due = s.due
  | .devSeq => t.devSeq = s.devSeq
  | .chans => t.chans = s.chans
  | .points => t.points = s.points
  | .nextIndex => t.nextIndex = s.nextIndex
  | .freed => t.freed = s.freed
  | .opens => t.opens = s.opens
  | .jobs => t.jobs = s.jobs
  | .nextJob => t.nextJob = s.nextJob
  | .tlb => t.tlb = s.tlb
  | .inval => t.inval = s.inval
  | .fetches => t.fetches = s.fetches
  | .nextFetch => t.nextFetch = s.nextFetch
  | .players => t.players = s.players
  | .treLast => t.treLast = s.treLast
  | .streams => t.streams = s.streams
  | .shds => t.shds = s.shds
  | .chains => t.chains = s.chains
  | .relays => t.relays = s.relays
  | .stores => t.stores = s.stores
  | .slice => t.slice = s.slice
  | .tableBanks => t.tableBanks = s.tableBanks
  | .lives => t.lives = s.lives
  | .ens => t.ens = s.ens

/-- Between `s` and `t` nothing changes but the parts in `l`. -/
structure Only (l : List Part) (s t : State) : Prop where
  same : ∀ p, p ∉ l → Part.same s t p

/-- The key of a register of a page, and of a counter of a page. -/
def regKey (page off : Nat) : Nat := page * 4096 + off
def ctrKey (page i : Nat) : Nat := page * 32 + i

/-- Every register but those at the keys `l` reads as before. -/
structure KeepsRegs (l : List Nat) (s t : State) : Prop where
  same : ∀ k, k ∉ l → tget t.regs (regReset k) k = tget s.regs (regReset k) k

/-- Every counter but those at the keys `l` reads as before. -/
structure KeepsCtrs (l : List Nat) (s t : State) : Prop where
  same : ∀ k, k ∉ l → tget t.ctr 0 k = tget s.ctr 0 k

/-- The registers that recording a code on a page may write: the page's PG_ERR registers, GLB_ALERT and LOG_DROPPED. -/
def noteRegs (page : Nat) : List Nat :=
  [regKey page 0x010, regKey page Reg.PG_ERR_FIRST_COUNT.off, regKey page Reg.PG_ERR_TIME_LO_TIME.off,
    regKey page Reg.PG_ERR_TIME_HI_TIME.off, regKey 0 Reg.GLB_ALERT_ASSERTED.off, regKey 0x3B Reg.LOG_DROPPED_DROPPED.off]

/-- The counters that recording a code may move: GLB_ALERTS, LOG_RECORDS and LOG_DROPPED. -/
def noteCtrs : List Nat :=
  [ctrKey 0 Cnt.GLB_ALERTS, ctrKey 0x3B Cnt.LOG_RECORDS, ctrKey 0x3B Cnt.LOG_DROPPED]

/-- The parts that recording a code may change. -/
def noteParts : List Part := [.regs, .ctr, .log, .logLost, .pins]

/-- The parts of the state that a command may change; every other part is the same after it. -/
def writes : Instr → List Part
  | .inputApply .. | .powerSample .. | .quiesceReqClear .. | .powerUpReq .. | .logRdWrite .. =>
    noteParts
  | .inputRemoval | .pgErrClear .. | .quiesceReqSet .. | .hoPoolWrite .. | .gatherWrite .. =>
    [.regs, .ctr, .pins]
  | .pwrEnRise =>
    [.pins]
  | .railsInRegulation .. | .modResetNRelease .. =>
    noteParts ++ [.free, .boot]
  | .railTimeout | .pwrEnFall | .undervoltageStop | .overvoltageStop | .overcurrentStop | .tempSample .. | .pllLockLoss .. =>
    noteParts ++ [.time, .latch, .banks, .sample, .mem, .poison, .boot, .ports, .qps, .flows, .servo, .traces, .pair, .queues, .rings,
      .q0Wanted, .due, .devSeq, .chans, .points, .nextIndex, .freed, .opens, .jobs, .nextJob, .tlb, .inval, .fetches, .nextFetch,
      .players, .treLast, .streams, .shds, .chains, .relays, .stores, .slice, .tableBanks, .lives, .ens]
  | .modResetNAssert .. =>
    noteParts ++ [.free, .time, .latch, .banks, .sample, .mem, .poison, .boot, .ports, .qps, .flows, .servo, .traces, .pair, .queues,
      .rings, .q0Wanted, .due, .devSeq, .chans, .points, .nextIndex, .freed, .opens, .jobs, .nextJob, .tlb, .inval, .fetches, .nextFetch,
      .players, .treLast, .streams, .shds, .chains, .relays, .stores, .slice, .tableBanks, .lives, .ens]
  | .ethPllLockLoss | .linkChange .. | .ethCtrlWrite .. | .cqHeadWrite .. | .hifChProbeWrite .. | .rgvProbeWrite .. =>
    [.regs, .ctr]
  | .hello .. | .endImage .. =>
    noteParts ++ [.out, .boot]
  | .data .. =>
    [.ctr, .out, .boot]
  | .abortLoad .. =>
    [.regs, .ctr, .boot]
  | .imageVerifyDone =>
    noteParts ++ [.free, .out, .boot]
  | .operational .. =>
    noteParts ++ [.out, .boot, .qps]
  | .frameReceive .. | .pfcResume .. | .pauseReceive .. =>
    [.regs, .ctr, .out, .ports]
  | .pfcRefresh =>
    [.ctr, .out]
  | .pfcWatchdog .. =>
    [.regs, .ctr, .ports]
  | .rdmaRequestReceive .. =>
    noteParts ++ [.free, .time, .latch, .sample, .mem, .poison, .out, .boot, .ports, .qps, .flows, .servo, .traces, .pair, .queues, .rings,
      .q0Wanted, .due, .chans, .jobs, .inval, .fetches, .players, .treLast, .streams, .shds, .tableBanks]
  | .rdmaAckReceive .. =>
    [.ctr, .out, .ports, .qps, .rings, .jobs, .fetches]
  | .rdmaNakReceive .. | .rdmaRetransmit .. =>
    [.regs, .ctr, .out, .ports, .qps, .rings, .jobs, .fetches]
  | .cnpReceive .. =>
    [.ctr, .qps]
  | .ccRateRise .. =>
    [.qps]
  | .qpReset .. | .qpReady .. | .qpCfgWrite .. =>
    [.regs, .ctr, .qps, .rings, .jobs, .fetches]
  | .flowApply .. =>
    [.regs, .ctr, .pins, .flows]
  | .st211020Packet .. | .st211030Packet .. =>
    noteParts ++ [.mem, .out, .ports, .qps, .flows, .rings, .chans, .jobs, .nextJob, .fetches, .chains]
  | .thardaxPacketReceive .. =>
    noteParts ++ [.mem, .out, .ports, .qps, .flows, .rings, .due, .chans, .jobs, .nextJob, .fetches, .chains]
  | .egressInstant .. =>
    [.free, .ctr, .out, .ports, .flows]
  | .ptpMessage .. | .ppsEdge =>
    noteParts ++ [.time, .boot, .ports, .qps, .flows, .servo, .chans, .jobs, .players, .streams]
  | .ptpDelayReq =>
    [.ctr, .out, .ports, .servo]
  | .timeHoldover =>
    noteParts ++ [.servo]
  | .timeStep .. | .timeSet .. =>
    [.time, .ctr, .boot, .ports, .qps, .flows, .servo, .chans, .jobs, .players, .streams]
  | .registerWrite .. =>
    noteParts ++ [.free, .time, .sample, .mem, .out, .boot, .ports, .qps, .flows, .servo, .traces, .pair, .queues, .rings, .q0Wanted, .due,
      .chans, .jobs, .inval, .fetches, .players, .treLast, .streams, .shds, .tableBanks]
  | .quiesceDone .. | .resetReq .. | .powerDownReq .. =>
    noteParts ++ [.mem, .traces, .players, .treLast, .shds, .tableBanks]
  | .enableClear .. | .enableSet .. | .adpSegment .. | .padSegment .. | .reservedSegment .. =>
    noteParts ++ [.due, .chans]
  | .doorbell .. =>
    noteParts ++ [.queues, .due]
  | .q0EnSet =>
    [.ctr, .q0Wanted]
  | .q0EnTakeEffect =>
    [.regs, .ctr, .pins, .queues, .rings, .q0Wanted]
  | .q0EnClear =>
    [.regs, .ctr, .queues, .rings, .q0Wanted, .due, .chans]
  | .entryFetch .. | .fenceRelease .. | .forward .. =>
    noteParts ++ [.free, .banks, .mem, .out, .ids, .ports, .qps, .flows, .traces, .pair, .queues, .rings, .due, .devSeq, .chans, .points,
      .nextIndex, .freed, .opens, .jobs, .nextJob, .tlb, .fetches, .nextFetch, .players, .streams, .shds, .chains, .stores, .lives, .ens]
  | .nop .. | .sqCreate .. | .sqDelete .. | .cqCreate .. | .cqDelete .. | .retire .. | .readmit .. | .chBind .. | .statsSet ..
  | .chContinue .. | .forceIntra .. | .cancel .. =>
    noteParts ++ [.free, .banks, .out, .ports, .qps, .pair, .queues, .rings, .due, .devSeq, .chans, .jobs, .fetches]
  | .ensForm .. | .ensDissolve .. =>
    noteParts ++ [.free, .banks, .out, .ports, .qps, .pair, .queues, .rings, .due, .devSeq, .chans, .jobs, .fetches, .ens]
  | .repair .. =>
    noteParts ++ [.free, .banks, .out, .ids, .ports, .qps, .pair, .queues, .rings, .due, .devSeq, .chans, .jobs, .fetches]
  | .promote .. =>
    noteParts ++ [.free, .banks, .out, .ports, .qps, .flows, .pair, .queues, .rings, .due, .devSeq, .chans, .points, .jobs, .nextJob,
      .fetches, .chains]
  | .cswApply .. =>
    noteParts ++ [.free, .banks, .out, .ids, .ports, .qps, .traces, .pair, .queues, .rings, .due, .devSeq, .chans, .points, .jobs,
      .fetches, .players]
  | .attest .. | .chPrepare .. | .chEnsemble .. =>
    noteParts ++ [.free, .banks, .mem, .out, .ports, .qps, .pair, .queues, .rings, .due, .devSeq, .chans, .jobs, .fetches]
  | .chCreate .. =>
    noteParts ++ [.free, .banks, .out, .ports, .qps, .pair, .queues, .rings, .due, .devSeq, .chans, .nextIndex, .freed, .jobs, .fetches]
  | .chDestroy .. =>
    noteParts ++ [.free, .banks, .out, .ports, .qps, .flows, .pair, .queues, .rings, .due, .devSeq, .chans, .freed, .opens, .jobs, .tlb,
      .fetches]
  | .pkgLoad .. | .chSet .. =>
    noteParts ++ [.free, .banks, .out, .ports, .qps, .pair, .queues, .rings, .due, .devSeq, .chans, .opens, .jobs, .fetches]
  | .pkgLoadComplete .. =>
    noteParts ++ [.pair, .queues, .due, .chans, .opens, .shds]
  | .chIo .. | .chStart .. =>
    noteParts ++ [.free, .banks, .out, .ports, .qps, .flows, .pair, .queues, .rings, .due, .devSeq, .chans, .jobs, .fetches]
  | .chStop .. | .outHead .. | .liveUnbind .. =>
    noteParts ++ [.free, .banks, .mem, .out, .ports, .qps, .flows, .pair, .queues, .rings, .due, .devSeq, .chans, .opens, .jobs, .fetches,
      .chains, .stores, .lives]
  | .streamIn .. =>
    noteParts ++ [.free, .banks, .out, .ports, .qps, .flows, .pair, .queues, .rings, .due, .devSeq, .chans, .jobs, .nextJob, .fetches,
      .chains]
  | .resume .. =>
    noteParts ++ [.free, .banks, .out, .ports, .qps, .pair, .queues, .rings, .due, .devSeq, .chans, .jobs, .fetches, .nextFetch, .players,
      .streams, .shds]
  | .tensor .. | .comp .. =>
    noteParts ++ [.free, .banks, .out, .ports, .qps, .pair, .queues, .rings, .due, .devSeq, .chans, .jobs, .nextJob, .fetches, .chains]
  | .liveBind .. =>
    noteParts ++ [.free, .banks, .out, .ports, .qps, .flows, .pair, .queues, .rings, .due, .devSeq, .chans, .jobs, .fetches, .chains,
      .lives]
  | .recordPost .. | .beatReceive .. | .shsEccError .. | .sliceEmit .. | .adapterSetComplete .. | .deliveryWrite .. | .fscStore ..
  | .fscLoad .. =>
    noteParts ++ [.free, .mem, .out, .ports, .qps, .flows, .pair, .queues, .rings, .due, .chans, .opens, .jobs, .fetches, .chains, .stores,
      .lives]
  | .completionWordWrite .. =>
    [.regs, .ctr, .out, .ports, .qps, .queues, .rings, .chans, .jobs, .fetches]
  | .completionWriteFail .. =>
    [.regs, .rings]
  | .xltInvalidate .. =>
    [.regs, .ctr, .pins, .inval]
  | .xltInvalDone =>
    [.regs, .ctr, .tlb, .inval]
  | .ctrSampleGo .. =>
    [.regs, .ctr, .sample, .pins]
  | .ctrSampleDone .. =>
    [.regs, .ctr, .sample]
  | .trcEnable .. =>
    [.regs, .ctr, .pins, .traces]
  | .trcArm .. | .trcNow .. | .traceSyncPeriod .. =>
    [.regs, .ctr, .traces]
  | .traceDrain .. =>
    noteParts ++ [.mem, .traces]
  | .dbgHalt .. | .dbgResume .. =>
    [.regs, .ctr, .pins, .traces, .jobs, .players]
  | .dbgStep .. =>
    [.regs, .ctr, .pins, .jobs, .players]
  | .dbgDataWrite .. =>
    [.regs, .ctr, .pins, .players]
  | .pairJoin =>
    noteParts ++ [.free, .out, .ports, .qps, .pair, .rings, .due, .jobs, .fetches]
  | .joinReceive .. =>
    [.regs, .ctr, .out, .ports, .qps, .pair, .rings, .jobs, .fetches]
  | .joinSigReceive .. =>
    noteParts ++ [.pair, .due, .chans, .points]
  | .beatSend =>
    noteParts ++ [.out, .ports, .qps, .pair, .rings, .due, .jobs, .fetches]
  | .beatPeriodMissed =>
    noteParts ++ [.pair, .due]
  | .mirrorPoint .. =>
    [.free, .regs, .ctr, .out, .ports, .qps, .pair, .rings, .chans, .jobs, .fetches]
  | .commit .. =>
    [.regs, .ctr, .out, .ports, .qps, .pair, .rings, .chans, .points, .nextIndex, .jobs, .fetches]
  | .ack .. =>
    noteParts ++ [.pair, .due, .chans]
  | .jobDispatch .. =>
    noteParts ++ [.free, .banks, .mem, .traces, .chans, .jobs, .players, .shds]
  | .contextSwap .. =>
    [.free, .regs, .ctr, .mem, .chans]
  | .instructionRetire .. =>
    noteParts ++ [.free, .mem, .traces, .jobs, .players]
  | .cueIssue .. | .cueTry .. | .semWait .. | .semTry .. | .semPost .. | .remotePostArrive .. | .semRead .. | .fenceCue .. | .bar ..
  | .yield .. =>
    noteParts ++ [.traces, .jobs, .players]
  | .cueIssueUnpark .. | .semWaitTake .. | .fenceCueRelease .. =>
    [.regs, .ctr, .traces, .jobs, .players]
  | .yieldPoint .. =>
    [.free, .regs, .ctr, .mem, .out, .ports, .qps, .rings, .chans, .jobs, .fetches, .players, .streams]
  | .jobEnd .. | .cueNop .. | .shdClose .. | .streamPassEnd .. =>
    noteParts ++ [.traces, .jobs, .players, .streams]
  | .jobFinish .. =>
    noteParts ++ [.free, .mem, .out, .ports, .qps, .flows, .pair, .queues, .rings, .due, .chans, .opens, .jobs, .fetches, .players,
      .streams, .chains, .stores, .lives]
  | .macPsum .. | .vecElt .. | .vecFunc .. | .vecConv .. | .vecScale .. | .vecAdam .. | .vecWarp .. | .vecReduce .. | .vecMove ..
  | .vecQlat .. | .tabLookup .. | .tabBucket .. =>
    noteParts ++ [.mem, .traces, .jobs, .players]
  | .shdStart .. =>
    noteParts ++ [.jobs, .players, .streams, .shds]
  | .shdRearm .. =>
    noteParts ++ [.jobs, .players, .streams, .relays]
  | .treNttconv .. =>
    noteParts ++ [.free, .traces, .jobs, .players, .treLast]
  | .treFftconv .. | .treFft .. | .treIfft .. =>
    noteParts ++ [.traces, .jobs, .players, .treLast]
  | .rlyKeep .. =>
    noteParts ++ [.jobs, .players, .relays]
  | .cueComplete .. =>
    noteParts ++ [.mem, .traces, .jobs, .players, .streams]
  | .playerUpset .. =>
    noteParts ++ [.free, .mem, .traces, .due, .chans, .jobs]
  | .playerWatchdog .. =>
    noteParts ++ [.traces, .jobs]
  | .streamStall .. | .haltTimeout .. | .relayParityError .. | .audioFrameCode .. =>
    noteParts ++ [.jobs]
  | .jobStop .. =>
    noteParts ++ [.free, .mem, .out, .ports, .qps, .flows, .pair, .queues, .rings, .due, .chans, .opens, .jobs, .nextJob, .fetches,
      .players, .streams, .chains, .relays, .stores, .slice, .lives]
  | .stagehandDrainEnd .. =>
    [.regs, .ctr, .streams]
  | .streamTileDone .. =>
    noteParts ++ [.mem, .out, .ports, .qps, .traces, .rings, .jobs, .fetches, .players, .streams, .chains]
  | .streamHalt .. =>
    noteParts ++ [.mem, .out, .ports, .qps, .rings, .due, .chans, .jobs, .fetches, .nextFetch, .players, .streams, .shds, .chains]
  | .fetchStart =>
    noteParts ++ [.out, .ports, .qps, .rings, .due, .chans, .jobs, .fetches, .nextFetch, .players, .streams, .shds]
  | .fetchComplete .. =>
    noteParts ++ [.mem, .due, .chans, .jobs, .fetches, .nextFetch, .players, .streams, .shds]
  | .xltWalk .. =>
    noteParts ++ [.jobs, .tlb]
  | .lpddrRead .. =>
    noteParts ++ [.poison, .jobs]
  | .lpddrWrite .. =>
    noteParts ++ [.mem, .poison, .jobs]
  | .scrubLine .. =>
    noteParts ++ [.poison]
  | .creditGrant .. =>
    [.regs, .chains]
  | .handoverTile .. | .creditReturn .. =>
    [.jobs, .chains]
  | .relayAccept .. =>
    noteParts ++ [.jobs, .players, .streams, .shds, .relays]
  | .relaySliceSend .. =>
    noteParts ++ [.jobs, .relays]
  | .relaySliceArrive .. =>
    noteParts ++ [.mem, .traces, .jobs, .players, .streams, .relays]
  | .relayStreamEnd .. =>
    noteParts ++ [.traces, .jobs, .players, .streams, .relays]
  | .lineTimeout .. =>
    [.regs, .ctr, .mem, .out, .ports, .qps, .rings, .chans, .jobs, .fetches]
  | .sliceRelease .. =>
    noteParts ++ [.free, .banks, .chans, .jobs, .nextJob, .chains]
  | .rowCommit .. =>
    noteParts ++ [.chans, .jobs]
  | .gatherRow .. =>
    [.regs, .ctr, .chans, .jobs]
  | .codePhaseStart =>
    noteParts ++ [.chans, .jobs, .slice]
  | .sliceClose =>
    noteParts ++ [.chans, .jobs, .nextJob, .chains, .slice]
  | .tableBankLoad .. =>
    [.free, .ctr, .jobs, .tableBanks]
  | .rcaParityError .. =>
    noteParts ++ [.jobs, .tableBanks]
  | .seqSegment .. | .picSegment .. | .audSegment .. | .endSegment .. =>
    noteParts ++ [.flows, .due, .chans, .jobs, .nextJob, .chains]
  | .slcSegment .. =>
    noteParts ++ [.due, .chans, .jobs, .nextJob, .chains]
  | .blockResetDone .. =>
    noteParts ++ [.banks, .mem, .traces, .players, .treLast, .shds, .tableBanks]

/-- A power-down at the pins with cause `c` (spec/19, R665 to R667): the converters are off and PWR_GOOD is low, the cause is recorded,
every volatile part is as State.reset has it, and outside the standby domain's page every register and counter too. -/
structure PoweredDown (c : Nat) (s t : State) : Prop where
  conv : t.pins.conv = .off
  pwrGood : t.pins.pwrGood = false
  cause : t.rf 3 Reg.PWR_LAST_OFF_CAUSE = c
  rails : t.rf 3 Reg.PWR_STAT_RAILS_OK = 0 ∧ t.rf 3 Reg.PWR_STAT_ROOT_LOCK = 0 ∧ t.rf 3 Reg.PWR_STAT_MEM_LOCK = 0 ∧ t.rf 3 Reg.PWR_STAT_ETH_LOCK = 0
  stops : t.count 3 Cnt.PWR_STOPS = if c = 1 then s.count 3 Cnt.PWR_STOPS else (s.count 3 Cnt.PWR_STOPS + 1) % 2 ^ 64
  lost : Only [.pending, .free, .regs, .ctr, .out, .pins, .ids] State.reset t
  kept : t.ids = s.ids ∧ t.pending = s.pending
  registers : ∀ p o, p ≠ 3 → o < 4096 → t.reg p o = regReset (regKey p o)
  counters : ∀ p i, p ≠ 3 → i < 32 → t.count p i = 0

/-- A message of a priority is handed to a port (spec/14, R518, R519): it goes out, or, while the peer holds the priority paused and the
watchdog is not in force, it is held back behind the port's other held messages. -/
def Sent (port prio : Nat) (m : Msg) (s t : State) : Prop :=
  if bits (s.rf (4 + port) Reg.ETH_STAT_PEER_PAUSED) prio 1 = 1 ∧ bits (s.rf (4 + port) Reg.ETH_STAT_WD_ACTIVE) prio 1 = 0 then
    t.out = s.out ∧ (tget t.ports {} port).held = (tget s.ports {} port).held ++ [(prio, m)]
  else t.out = m :: s.out ∧ t.ports = s.ports

/-- An entry of queue `q` that asks for a command of the device and passes the checks of admission (spec/12, R433, R450, R453), with the
ring of its queue in service. -/
structure Admits (sp : CmdSpec) (q : Nat) (k : Queue) (e : Entry) (s : State) : Prop where
  queue : tget? s.queues q = some k
  form : entryFormOk sp e = true
  ring : ringFieldOk sp.op e s = true
  admin : sp.admin = true → q = 0
  up : (tget? s.rings k.ring).isSome = true

/-- The command's record, with a code and two results, falls due on its queue's ring under the next device number (spec/12, R464 to R466). -/
structure Answers (q : Nat) (k : Queue) (e : Entry) (code r0 r1 : Nat) (s t : State) : Prop where
  number : t.devSeq = (s.devSeq + 1) % 2 ^ 32
  due : t.due = s.due ++ [{ ring := k.ring, body := { seq := (s.devSeq + 1) % 2 ^ 32, tag := eTag e, code, r0, r1 }, queue := some q }]

/-- An entry of queue `q` that asks for a command of channel `i` and passes the checks of admission (spec/12, R429, R432, R433, R453), with
the channel's ring in service. -/
structure AdmitsFor (sp : CmdSpec) (q : Nat) (k : Queue) (e : Entry) (i : Nat) (s : State) : Prop where
  queue : tget? s.queues q = some k
  form : entryFormOk sp e = true
  admin : sp.admin = true → q = 0
  chan : s.chanOf (eHandle e) = some i
  type : (s.chan i).ty ∈ sp.types
  state : (s.chan i).st ∈ sp.states
  up : (tget? s.rings (s.chan i).cq).isSome = true

/-- The command's record, with a code and two results, falls due on the channel's ring under the channel's next number (spec/12, R464 to
R466). -/
structure AnswersFor (q : Nat) (e : Entry) (i code r0 r1 : Nat) (s t : State) : Prop where
  number : (t.chan i).seq = ((s.chan i).seq + 1) % 2 ^ 32
  due : t.due = s.due ++ [{ ring := (s.chan i).cq, chan := some i, queue := some q,
                            body := { handle := eHandle e, seq := ((s.chan i).seq + 1) % 2 ^ 32, tag := eTag e, code, r0, r1 } }]

/-- The newest record due is that of a device command with code 0, under the next device number: a command that changes the ensembles may
post events before it (spec/01, R29). -/
structure AnswersLast (q : Nat) (k : Queue) (e : Entry) (s t : State) : Prop where
  number : t.devSeq = (s.devSeq + 1) % 2 ^ 32
  due : t.due.getLast? = some { ring := k.ring, body := { seq := (s.devSeq + 1) % 2 ^ 32, tag := eTag e }, queue := some q }

/-- The newest record due is that of a channel's command with code 0, under the channel's next number. -/
structure AnswersLastFor (q : Nat) (e : Entry) (i : Nat) (s t : State) : Prop where
  number : (t.chan i).seq = ((s.chan i).seq + 1) % 2 ^ 32
  due : t.due.getLast? = some { ring := (s.chan i).cq, chan := some i, queue := some q,
                                body := { handle := eHandle e, seq := ((s.chan i).seq + 1) % 2 ^ 32, tag := eTag e } }

/-- A thread retires an instruction (spec/04, R125; spec/17, R622): it goes on as `x` at `npc` with one instruction more, or, where it was
single-stepped, halts there; no other thread changes. -/
structure Retired (p t : Nat) (x : Thread) (npc : Nat) (s u : State) : Prop where
  thread : u.thread p t = if x.stepping then { x with pc := npc % 2 ^ 64, instret := x.instret + 1, st := 9, held := x.st, stepping := false }
    else { x with pc := npc % 2 ^ 64, instret := x.instret + 1 }
  count : u.count (0x100 + p) Cnt.PLY_INSTRET = (s.count (0x100 + p) Cnt.PLY_INSTRET + 1) % 2 ^ 64
  others : ∀ q r, q ≠ p ∨ r ≠ t → u.thread q r = s.thread q r
  active : (u.ply p).active = s.time

/-- A thread takes an exception (spec/04, R128, R160): its CSRs name it, PLY_FAULT holds it unless it held an earlier fault, and the player's
job is to stop with E_CORE_TRAP. -/
structure Trapped (p t cause tval : Nat) (s u : State) : Prop where
  thread : u.thread p t = { s.thread p t with mepc := (s.thread p t).pc, mcause := cause, mtval := tval, mstatus := 0x1800 }
  record : s.rf (0x100 + p) Reg.PLY_FAULT_VALID = 0 → u.rf (0x100 + p) Reg.PLY_FAULT_VALID = 1 ∧ u.rf (0x100 + p) Reg.PLY_FAULT_KIND = 5 ∧
    u.rf (0x100 + p) Reg.PLY_FAULT_THREAD = t % 8 ∧ u.rf (0x100 + p) Reg.PLY_FAULT_CAUSE = cause % 64 ∧ u.rf (0x100 + p) Reg.PLY_FAULT_VAL_VALUE = tval % 2 ^ 32
  stop : ∀ id j, (s.ply p).job = some id → tget? s.jobs id = some j → tget? u.jobs id =
    some (if j.runsFor s p then { j with stop := some Code.E_CORE_TRAP, stopAt := some (s.time, s.logical p) } else j)
  others : ∀ q r, q ≠ p ∨ r ≠ t → u.thread q r = s.thread q r

/-- The job on a player is to stop with a code, unless something has stopped it already (spec/04, R142: of failures at one time, that of
the lowest logical index decides). -/
def JobStops (p code : Nat) (s u : State) : Prop :=
  ∀ id j, (s.ply p).job = some id → tget? s.jobs id = some j → tget? u.jobs id =
    some (if j.runsFor s p then { j with stop := some code, stopAt := some (s.time, s.logical p) } else j)

/-- The instruction that a thread retires next, none of R129 (spec/04, R125): its length and its word. -/
structure Fetches (s : State) (p t len w : Nat) : Prop where
  issues : s.canIssue p t = true
  word : fetch s p t = (0, len, some w)
  plain : isCustom w = false

/-- The cue at the head of a queue has started and its engine has worked on it (spec/04, R134, R135): its WAIT is taken, the cues behind
it, the other queues, the other semaphores and the threads are as before. -/
structure Ran (p cls : Nat) (c : QCue) (s t : State) : Prop where
  head : tget (t.ply p).queues [] cls = { c with started := true, ran := true } :: (tget (s.ply p).queues [] cls).tail
  queues : ∀ k, k ≠ cls → tget (t.ply p).queues [] k = tget (s.ply p).queues [] k
  sems : ∀ m, t.sem p m = if cWaitEn c.cue = true ∧ cWait c.cue = m then s.sem p m - 1 else s.sem p m
  threads : ∀ q r, t.thread q r = s.thread q r

/-- What a MAC cue reads besides its operands (spec/04, R113 to R118). -/
def macJobOf (s : State) (p q : Nat) : MacJob where
  kind := if cScript q then .script else if bits q 24 4 ≤ 1 then .adlibInt else .adlibFp
  fw := bits q 24 4
  fa := bits q 28 4
  wLine := bits q 32 16
  aLine := bits q 48 16
  pos := bits q 96 6 + 1
  steps := bits q 103 8 + 1
  koff := bits q 113 15
  frame := (readMacFrame s p (bits q 80 16) (cScript q)).1

/-- What a VEC cue of an operation reads (spec/04, R119, R120). -/
def vecJobOf (s : State) (p op q : Nat) : VecJob where
  script := cScript q
  fin := bits q 24 4
  fout := bits q 28 4
  src0 := 64 * bits q 32 16
  src1 := 64 * bits q 48 16
  dst := 64 * bits q 64 16
  n := 64 * (bits q 96 16 + 1)
  sub := bits q 112 4
  frame := readVecFrame s p (bits q 80 16) op (cScript q)

/-- A VEC cue of an operation is at the head of its queue, can start, and its frame passes its checks (spec/04, R132, R134, R135). -/
structure VecRuns (s : State) (p op : Nat) (c : QCue) (j : VecJob) : Prop where
  head : headCue s p 2 op = some c
  job : j = vecJobOf s p op c.cue
  frame : j.frame.ok = true

/-- A VEC cue has run, and the local store holds its outputs; no other job changes. -/
structure VecRan (p : Nat) (c : QCue) (mem : List Host.Cell) (s t : State) : Prop where
  ran : Ran p 2 c s t
  outputs : t.mem = mem
  jobs : ∀ id, (s.ply p).job ≠ some id → tget? t.jobs id = tget? s.jobs id
  only : Only [.ctr, .mem, .jobs, .players] s t

/-- A TRE cue starts on its engine: it is at the head of its queue, the engine is idle, it is its ensemble's turn, and its frame and regions
pass their checks (spec/04, R132; spec/05, R174 to R176, R182). -/
structure TreStarts (s : State) (p op : Nat) (c : QCue) : Prop where
  head : headCue s p 5 op = some c
  takes : s.refusing (s.trePage p) = false
  idle : s.rf (s.trePage p) Reg.TRE_STATE_MODE = 0
  turn : s.treTurn (s.trePage p) = some (s.ply p).ens
  frame : (readTreFrame s p (bits c.cue 80 16) op).2 = true
  regions : treRegions (readTreFrame s p (bits c.cue 80 16) op).1 c.cue op = true

/-- A TRE cue runs: its engine shows it, and no output is written before it completes (spec/05, R182, R183). -/
structure TreRuns (p mode : Nat) (c : QCue) (s t : State) : Prop where
  ran : Ran p 5 c s t
  mode : t.rf (s.trePage p) Reg.TRE_STATE_MODE = mode
  ensemble : t.rf (s.trePage p) Reg.TRE_STATE_ENSEMBLE = (s.ply p).ens % 2 ^ Reg.TRE_STATE_ENSEMBLE.width
  last : tget? t.treLast (s.trePage p) = some (s.ply p).ens
  mem : t.mem = s.mem

/-- The commands that are a host's writes in the register window (spec/18, R630). -/
def hostWrites : Instr → Bool
  | .qpReset .. | .qpReady .. | .qpCfgWrite .. | .ethCtrlWrite .. | .flowApply .. | .timeStep .. | .timeSet .. | .registerWrite .. | .pgErrClear ..
  | .quiesceReqSet .. | .quiesceReqClear .. | .resetReq .. | .powerDownReq .. | .powerUpReq .. | .enableClear .. | .enableSet .. | .doorbell ..
  | .cqHeadWrite .. | .q0EnSet | .q0EnClear | .hifChProbeWrite .. | .rgvProbeWrite .. | .xltInvalidate .. | .hoPoolWrite .. | .gatherWrite ..
  | .logRdWrite .. | .ctrSampleGo .. | .trcEnable .. | .trcArm .. | .trcNow .. | .dbgHalt .. | .dbgResume .. | .dbgStep .. | .dbgDataWrite ..
  | .pairJoin => true
  | _ => false

/-- A *_SEGMENT event comes to a running decode channel whose parser stands, in `u`, on a marker of that code with `l` behind it
(spec/07, R245, R249, R284). -/
structure AtSegment (s : State) (handle : Word) (i code : Nat) (far l : List Byte) (u : State) : Prop where
  chan : s.chanOf handle.toNat = some i
  type : (s.chan i).ty = 1 ∨ (s.chan i).ty = 4
  admits : (s.chan i).admits = true
  started : (s.chan i).codec.started = true
  io : (s.chan i).io.isSome = true
  pkg : (s.chan i).pkg.isSome = true
  active : s.standby = false
  stands : toMarker i far s = (some (code, l), u)

/-- The computation of a job has ended, it is the oldest of its channel, and neither a stop of it nor of its channel is in progress
(spec/10, R378; spec/12, R459). -/
structure Delivers (s : State) (id : Nat) (j : Job) : Prop where
  job : tget? s.jobs id = some j
  ended : j.st = .offstage
  runs : j.stop = none
  active : s.standby = false
  oldest : (s.chanJobs j.chan).any (fun (x : Nat × Job) => decide (x.1 < id)) = false
  stopping : (s.chan j.chan).stopping = []
  dying : (s.chan j.chan).dying = none

end Sys2Proof.Machine
end

