-- ==== Sys2Proof/Certificates/Slice0/Obligations.lean ====
section
/-! DEFINITION. The statements for the provers, from the rules of the spec. -/


open Sys2Proof Sys2Proof.Machine

/-- The queue is the model's own form of a block's commands; that an empty queue lets the PTP clock tick is log entry 3. -/
def Obligations.StepRunsTheFrontCommand : Prop :=
  (∀ (c : Instr) (rest : List Instr) (s : State), step { s with pending := c :: rest } = exec c { s with pending := rest }) ∧
  (∀ s : State, s.pending = [] → step s = .next (tick s))

/-- The queue and the record of sent messages are the model's own (log entries 3, 5, 6). -/
def Obligations.StepKeepsTheQueueAndWhatWasSent : Prop :=
  ∀ s t : State, Steps s t → t.pending = s.pending.tail ∧ s.out <:+ t.out ∧ s.free ≤ t.free

/-- The canonical form of log entry 1, for every command and for the tick of an empty queue. -/
def Obligations.StepKeepsCanonicalForm : Prop :=
  ∀ s t : State, Steps s t → Canonical s → Canonical t

/-- The callboard (R583). -/
def Obligations.StepKeepsTheCallboardInOrder : Prop :=
  ∀ s t : State, Steps s t → Numbered s.log → s.log.length ≤ 2048 → Numbered t.log ∧ t.log.length ≤ 2048

/-- The frame of all 219 commands: for a part not in `writes c`, nothing changes; a command without `.mem` in its list leaves every
byte of memory as it was. -/
def Obligations.CommandsChangeOnlyTheirParts : Prop :=
  (∀ (c : Instr) (s t : State), exec c s = .next t → Only (writes c) s t) ∧
  (∀ (c : Instr) (s t : State), exec c s = .next t → Part.mem ∉ writes c → ∀ a, memGet t.mem a = memGet s.mem a)

/-- The addresses of R483, a request outside which fails its job (R483, R494); that an event which cannot happen leaves the state as it is, is
the model's choice (log entries 4, 194). -/
def Obligations.EveryWellFormedCommandAnswersANextState : Prop :=
  (∀ (c : Instr) (s : State) (r : Refusal), exec c s ≠ .refused r) ∧
  (∀ (c : Instr) (s : State), ∃ t, exec c s = .next t) ∧
  (∀ (a id : Nat) (j : Job) (ecc : Ecc) (s : State), isLpddr a = false → isShared a = false → isLocal a = false → isWindow a = false → isRemote a = false →
    tget? s.jobs id = some j → j.stop = none →
    ∃ t, exec (.lpddrRead a (some id) ecc) s = .next t ∧ tget? t.jobs id = some { j with stop := some Code.E_XLT_FAULT } ∧
      t.count 0x20 Cnt.XLT_FAULTS = (s.count 0x20 Cnt.XLT_FAULTS + 1) % 2 ^ 64 ∧ Only (.jobs :: noteParts) s t) ∧
  (∀ (a off id : Nat) (b : List Byte) (j : Job) (ecc : Ecc) (s : State), isLpddr a = false → isShared a = false → isLocal a = false → isWindow a = false →
    isRemote a = false → tget? s.jobs id = some j → j.stop = none →
    ∃ t, exec (.lpddrWrite a off b (some id) ecc) s = .next t ∧ tget? t.jobs id = some { j with stop := some Code.E_XLT_FAULT } ∧
      t.count 0x20 Cnt.XLT_FAULTS = (s.count 0x20 Cnt.XLT_FAULTS + 1) % 2 ^ 64 ∧ Only (.jobs :: noteParts) s t) ∧
  (∀ (a : Nat) (ecc : Ecc) (raced : Bool) (s : State), isLpddr a = false → exec (.scrubLine a ecc raced) s = .next s) ∧
  (∀ (o : Nat) (double : Bool) (job : Option Nat) (s : State), 0x4000000 ≤ o → exec (.shsEccError o double job) s = .next s)

/-- The state of R659 and R665 before any input; memory and registers without a reset value are log entries 1 and 2. -/
def Obligations.ResetIsCanonical : Prop :=
  Canonical State.reset ∧ Numbered State.reset.log ∧ State.reset.log = [] ∧ State.reset.pending = [] ∧ State.reset.pins.conv = .off ∧
  State.reset.pins.armed = true ∧ State.reset.pins.input = false ∧ State.reset.boot.running = false ∧
  (∀ p i, State.reset.count p i = 0) ∧ (∀ p o, State.reset.reg p o = regReset (p * 4096 + o)) ∧ (∀ a, memGet State.reset.mem a = 0)

/-- INPUT_APPLY (R653, R659), INPUT_REMOVAL (R657, R667), PWR_EN_RISE (R663, R665). -/
def Obligations.InputAndPowerEnableDriveThePins : Prop :=
  (∀ (cv : Nat) (s : State), s.pins.input = false → 3800 ≤ cv →
    ∃ t, exec (.inputApply cv) s = .next t ∧ t.pins.input = true ∧ t.pins.thermTripN = true ∧
      t.pins = { s.pins with input := true, thermTripN := true, alertN := t.pins.alertN } ∧
      t.rf 3 Reg.PWR_STAT_VIN_OK = bit (decide (4000 ≤ cv ∧ cv ≤ 6000)) ∧
      t.rf 3 Reg.PWR_STAT_VIN_WARN = bit (decide ((3800 ≤ cv ∧ cv < 4000) ∨ (6000 < cv ∧ cv ≤ 6200))) ∧
      Only noteParts s t ∧ KeepsRegs (regKey 3 0x100 :: noteRegs 3) s t ∧ KeepsCtrs (ctrKey 3 Cnt.PWR_VIN_WARNS :: noteCtrs) s t) ∧
  (∀ s : State, s.pins.input = true →
    ∃ t, exec .inputRemoval s = .next t ∧ t.pins.input = false ∧ t.pins.thermTripN = true ∧ t.pins.armed = true ∧
      t.pins.samples = [] ∧ t.pins.energy = 0 ∧ (s.pins.conv = Conv.off → t.pins.pwrEn = false) ∧
      t.rf 3 Reg.PWR_STAT_VIN_OK = 0 ∧ t.rf 3 Reg.PWR_STAT_VIN_WARN = 0 ∧ t.reg 3 0x118 = 0 ∧
      (∀ i, i < 32 → t.count 3 i = 0) ∧ (∀ p i, p ≠ 3 → i < 32 → t.count p i = s.count p i) ∧
      Only [.regs, .ctr, .pins] s t ∧ KeepsRegs [regKey 3 0x100, regKey 3 0x118] s t) ∧
  (∀ s : State, s.pins.input = true → s.pins.pwrEn = false →
    exec .pwrEnRise s = .next { s with pins := { s.pins with pwrEn := true, conv := if s.pins.armed ∧ s.pins.conv = Conv.off then .starting else s.pins.conv } })

/-- RAIL_TIMEOUT (R663), PWR_EN_FALL, UNDERVOLTAGE_STOP and OVERVOLTAGE_STOP (R665, R666), PLL_LOCK_LOSS (R661), TEMP_SAMPLE over the
limits (R657). -/
def Obligations.StopsPowerTheModuleDown : Prop :=
  (∀ s : State, s.pins.conv = .starting → ∃ t, exec .railTimeout s = .next t ∧ PoweredDown 7 s t) ∧
  (∀ s : State, s.pins.pwrEn = true → s.pins.conv ≠ .off →
    ∃ t, exec .pwrEnFall s = .next t ∧ PoweredDown 1 s t ∧ t.pins.pwrEn = false ∧ t.pins.armed = true ∧ t.pins.thermTripN = true) ∧
  (∀ s : State, s.pins.pwrEn = true → s.pins.conv = .off →
    exec .pwrEnFall s = .next { s with pins := { s.pins with pwrEn := false, thermTripN := true, armed := true } }) ∧
  (∀ s : State, s.pins.input = false → s.pins.conv ≠ .off →
    ∃ t, exec .undervoltageStop s = .next t ∧ PoweredDown 2 s t ∧ t.pins.pwrEn = false) ∧
  (∀ s : State, s.pins.conv ≠ .off → ∃ t, exec .overvoltageStop s = .next t ∧ PoweredDown 3 s t) ∧
  (∀ (memory : Bool) (s : State), s.pins.conv ≠ .off → ∃ t, exec (.pllLockLoss memory) s = .next t ∧ PoweredDown 5 s t) ∧
  (∀ (die : List Nat) (plate : Nat) (s : State), s.pins.input = true → s.pins.conv ≠ .off → (115 ≤ (hottest die).1 ∨ 75 ≤ plate) →
    ∃ t, exec (.tempSample die plate) s = .next t ∧ t.pins.conv = .off ∧ t.rf 3 Reg.PWR_LAST_OFF_CAUSE = 4 ∧
      t.pins.thermTripN = !s.pins.pwrEn ∧ Only [.pending, .free, .regs, .ctr, .out, .pins, .ids] State.reset t)

/-- OVERCURRENT_STOP (R655). -/
def Obligations.OvercurrentStopsTheConverters : Prop :=
  (∀ s : State, s.pins.conv ≠ .off → ∃ t, exec .overcurrentStop s = .next t ∧ PoweredDown 6 s t) ∧
  (∀ s : State, s.pins.conv = .off → exec .overcurrentStop s = .next s)

/-- MOD_RESET_N_ASSERT (R546, R658), MOD_RESET_N_RELEASE and RAILS_IN_REGULATION (R546, R549, R663, R664). -/
def Obligations.ResetPinAndRailsStartTheDie : Prop :=
  (∀ (ns : Nat) (s : State), ns < 1000 → exec (.modResetNAssert ns) s = .next s) ∧
  (∀ (ns : Nat) (s : State), 10000 ≤ ns → s.pins.modResetN = true →
    ∃ t, exec (.modResetNAssert ns) s = .next t ∧ t.pins.modResetN = false ∧ t.boot.running = false ∧ (s.pins.pwrGood = true → t.pins.nextCause = 1) ∧
      t.count 3 Cnt.PWR_RESETS = (s.count 3 Cnt.PWR_RESETS + 1) % 2 ^ 64 ∧ Only [.pending, .free, .regs, .ctr, .out, .pins, .ids] State.reset t) ∧
  (∀ (obs : BootObs) (s : State), s.pins.modResetN = false → s.pins.pwrGood = true → obs.refclk = true → s.boot.running = false →
    ∃ t, exec (.modResetNRelease obs) s = .next t ∧ t.pins.modResetN = true ∧ t.boot.running = true ∧ t.rf 1 Reg.SMG_BOOT_STAGE = 5 ∧
      t.boot.fault = bootFault obs s.ids ∧ t.pins.nextCause = 0 ∧ t.ids = s.ids ∧ t.mem = s.mem) ∧
  (∀ (obs : BootObs) (s : State), s.pins.modResetN = false → (s.pins.pwrGood = false ∨ obs.refclk = false ∨ s.boot.running = true) →
    exec (.modResetNRelease obs) s = .next { s with pins := { s.pins with modResetN := true, refclk := obs.refclk } }) ∧
  (∀ (obs : BootObs) (s : State), s.pins.conv = .starting →
    ∃ t, exec (.railsInRegulation obs) s = .next t ∧ t.pins.conv = .on ∧ t.pins.pwrGood = true ∧ t.pins.refclk = obs.refclk ∧
      t.count 3 Cnt.PWR_POWER_UPS = (s.count 3 Cnt.PWR_POWER_UPS + 1) % 2 ^ 64 ∧
      (t.boot.running = true ↔ s.boot.running = true ∨ (s.pins.modResetN = true ∧ obs.refclk = true)))

/-- POWER_SAMPLE (R653, R654, R668), TEMP_SAMPLE below the limits (R656), ETH_PLL_LOCK_LOSS (R661). -/
def Obligations.MeasurementsAreShown : Prop :=
  (∀ (cv ma : Nat) (s : State), s.pins.input = true →
    ∃ t, exec (.powerSample cv ma) s = .next t ∧ t.pins.samples = (cv * ma :: s.pins.samples).take 1000000 ∧
      t.pins.energy = (s.pins.energy + cv * ma) % 10 ^ 11 ∧ t.pins.conv = s.pins.conv ∧
      t.count 3 Cnt.PWR_ENERGY_J = (s.count 3 Cnt.PWR_ENERGY_J + (s.pins.energy + cv * ma) / 10 ^ 11) % 2 ^ 64 ∧
      t.rf 3 Reg.PWR_STAT_VIN_OK = bit (decide (4000 ≤ cv ∧ cv ≤ 6000)) ∧ Only noteParts s t) ∧
  (∀ (die : List Nat) (plate : Nat) (s : State), s.pins.input = true → (hottest die).1 < 115 → plate < 75 →
    ∃ t, exec (.tempSample die plate) s = .next t ∧ t.rf 3 Reg.PWR_TEMP_DIE_MAX = (hottest die).1 ∧ t.rf 3 Reg.PWR_TEMP_PLATE = plate ∧
      t.rf 3 Reg.PWR_STAT_THERM_WARN = bit (decide (s.rf 3 Reg.PWR_THERM_WARN_C ≤ (hottest die).1)) ∧
      t.pins.thermTripN = s.pins.thermTripN ∧ Only noteParts s t) ∧
  (∀ s : State, s.boot.running = true →
    ∃ t, exec .ethPllLockLoss s = .next t ∧ t.rf 3 Reg.PWR_STAT_ETH_LOCK = 0 ∧
      (∀ n, n < 4 → t.rf (4 + n) Reg.ETH_STAT_LINK = 0 ∧ t.rf (4 + n) Reg.ETH_STAT_FEC_LOCK = 0 ∧ t.rf (4 + n) Reg.ETH_STAT_AN_DONE = 0) ∧
      Only [.regs, .ctr] s t ∧ KeepsRegs [regKey 3 0x100, regKey 4 0x104, regKey 5 0x104, regKey 6 0x104, regKey 7 0x104] s t)

/-- HELLO, DATA, END, ABORT (R555 to R558), IMAGE_VERIFY_DONE (R558, R559), OPERATIONAL (R546, R547, R560). -/
def Obligations.LoadProtocolBringsTheModuleUp : Prop :=
  (∀ (h : LoadHdr) (len qp psn key : Nat) (s : State), s.hears h = true → h.fits 1 16 = true → h.session ≠ 0 → s.boot.session = none →
    ∃ t x, exec (.hello h len qp psn key) s = .next t ∧ t.boot.session = some x ∧ x.id = h.session ∧ x.imageLen = len ∧ x.next = 0 ∧ x.chunks = [] ∧
      x.lastTime = s.time ∧ t.rf 1 Reg.SMG_BOOT_STAGE = 6 ∧ t.count 1 Cnt.SMG_HELLOS = (s.count 1 Cnt.SMG_HELLOS + 1) % 2 ^ 64 ∧
      (∃ p, t.out = .load s.bootAddr h.ip h.port (loadBytes 2 h.session h.mseq s.boot.fault p) :: s.out) ∧ Only [.regs, .ctr, .out, .boot] s t) ∧
  (∀ (h : LoadHdr) (off : Nat) (bytes : List Byte) (x : Session) (s : State), s.hears h = true → h.fits 3 (4 + bytes.length) = true → s.boot.session = some x → x.id = h.session → x.verifying = false →
    s.boot.fault = 0 → off % 8192 = 0 → off < x.imageLen → bytes.length = min 8192 (x.imageLen - off) → off + bytes.length ≤ x.next + 2097152 → x.next ≤ off →
    tget? x.chunks off = none →
    ∃ t y, exec (.data h off bytes) s = .next t ∧ t.boot.session = some y ∧ y.chunks = tput x.chunks off bytes ∧
      y.next = advanceNext x.imageLen y.chunks y.chunks.length x.next ∧ t.count 1 Cnt.SMG_DATA_RX = (s.count 1 Cnt.SMG_DATA_RX + 1) % 2 ^ 64 ∧
      Only [.ctr, .out, .boot] s t) ∧
  (∀ (h : LoadHdr) (x : Session) (s : State), s.hears h = true → h.fits 5 0 = true → s.boot.session = some x → x.id = h.session → x.verifying = false →
    x.imageLen ≤ x.next →
    imageOk x.imageLen (x.chunks.flatMap (·.2)) = true →
    ∃ t, exec (.endImage h) s = .next t ∧ t.boot.image = x.chunks.flatMap (·.2) ∧ t.rf 1 Reg.SMG_BOOT_STAGE = 7 ∧
      (∃ y, t.boot.session = some y ∧ y.verifying = true) ∧ Only [.regs, .boot] s t) ∧
  (∀ (h : LoadHdr) (x : Session) (s : State), s.hears h = true → h.fits 7 0 = true → s.boot.session = some x → x.id = h.session → x.verifying = false →
    ∃ t, exec (.abortLoad h) s = .next t ∧ t.boot.session = none ∧ t.rf 1 Reg.SMG_BOOT_STAGE = 5 ∧ Only [.regs, .boot] s t) ∧
  (∀ (x : Session) (s : State), s.boot.session = some x → s.rf 1 Reg.SMG_BOOT_STAGE = 7 → imageSigned s.boot.image = true →
    ∃ t, exec .imageVerifyDone s = .next t ∧ t.rf 1 Reg.SMG_BOOT_STAGE = 8 ∧ t.boot.bootQp = (x.ip, x.port, x.hostQp, x.hostPsn, x.devKey) ∧
      t.count 2 Cnt.SEC_VERIFIES = (s.count 2 Cnt.SEC_VERIFIES + 1) % 2 ^ 64) ∧
  (∀ (x : Session) (s : State), s.boot.session = some x → s.rf 1 Reg.SMG_BOOT_STAGE = 7 → imageSigned s.boot.image = false →
    ∃ t, exec .imageVerifyDone s = .next t ∧ t.rf 1 Reg.SMG_BOOT_STAGE = 5 ∧ t.boot.session = none ∧ t.boot.image = []) ∧
  (∀ (ms : Nat) (x : Session) (s : State), s.boot.session = some x → s.rf 1 Reg.SMG_BOOT_STAGE = 8 →
    ∃ t, exec (.operational ms) s = .next t ∧ t.rf 1 Reg.SMG_BOOT_STAGE = 9 ∧ t.boot.session = none ∧ t.rf 0 Reg.GLB_START_START_MS = min 0xFFFF ms ∧
      t.qp 0 = bootQp s.boot ∧ t.out = .load s.bootAddr x.ip x.port (loadBytes 6 x.id x.endMseq 0 (Config.shake256 s.boot.image 32)) :: s.out)

/-- LINK_CHANGE, ETH_CTRL_WRITE (R515), FRAME_RECEIVE (R516 to R518), PFC_REFRESH, PFC_RESUME, PAUSE_RECEIVE (R518), PFC_WATCHDOG (R519). -/
def Obligations.PortsFollowTheFlowControlRules : Prop :=
  (∀ (port : Fin 4) (s : State), s.boot.running = true →
    ∃ t, exec (.linkChange port true) s = .next t ∧ t.rf (4 + port.val) Reg.ETH_STAT_LINK = 1 ∧ t.rf (4 + port.val) Reg.ETH_STAT_FEC_LOCK = 1 ∧
      t.rf 3 Reg.PWR_STAT_ETH_LOCK = 1 ∧ Only [.regs] s t ∧ KeepsRegs [regKey (4 + port.val) 0x104, regKey 3 0x100] s t) ∧
  (∀ (port : Fin 4) (s : State), s.boot.running = true →
    ∃ t, exec (.linkChange port false) s = .next t ∧ t.rf (4 + port.val) Reg.ETH_STAT_LINK = 0 ∧
      t.count (4 + port.val) Cnt.ETH_LINK_DOWNS = (s.count (4 + port.val) Cnt.ETH_LINK_DOWNS + if s.rf (4 + port.val) Reg.ETH_STAT_LINK = 1 then 1 else 0) % 2 ^ 64 ∧
      Only [.regs, .ctr] s t ∧ KeepsRegs [regKey (4 + port.val) 0x104] s t) ∧
  (∀ (port : Fin 4) (pcp : Option (Fin 8)) (dscp : Fin 64) (len : Nat) (s : State), s.up = true → len ≤ 9216 →
    bits (s.rf (4 + port.val) Reg.ETH_CTRL_LOSSLESS) (framePrio pcp dscp) 1 = 0 →
    ((tget s.ports {} port.val).occ.getD (framePrio pcp dscp) 0) + len ≤ 524288 →
    ∃ t, exec (.frameReceive port pcp dscp len false false 0) s = .next t ∧
      (tget t.ports {} port.val).occ = (tget s.ports {} port.val).occ.set (framePrio pcp dscp) ((tget s.ports {} port.val).occ.getD (framePrio pcp dscp) 0 + len) ∧
      t.count (4 + port.val) Cnt.ETH_RX_FRAMES = (s.count (4 + port.val) Cnt.ETH_RX_FRAMES + 1) % 2 ^ 64 ∧
      t.count (4 + port.val) Cnt.ETH_RX_BYTES = (s.count (4 + port.val) Cnt.ETH_RX_BYTES + len) % 2 ^ 64 ∧ Only [.ctr, .ports] s t) ∧
  (∀ (port : Fin 4) (pcp : Option (Fin 8)) (dscp : Fin 64) (len : Nat) (s : State), s.up = true → len ≤ 9216 →
    bits (s.rf (4 + port.val) Reg.ETH_CTRL_LOSSLESS) (framePrio pcp dscp) 1 = 1 →
    bits (s.rf (4 + port.val) Reg.ETH_STAT_PAUSING) (framePrio pcp dscp) 1 = 0 →
    262144 ≤ ((tget s.ports {} port.val).occ.getD (framePrio pcp dscp) 0) + len →
    ∃ t, exec (.frameReceive port pcp dscp len false false 0) s = .next t ∧ t.out = .pause port.val (framePrio pcp dscp) 0xFFFF :: s.out ∧
      Only [.regs, .ctr, .ports, .out] s t ∧ KeepsRegs [regKey (4 + port.val) 0x104] s t) ∧
  (∀ s : State, ∃ t, exec .pfcRefresh s = .next t ∧
    t.out = ((List.range 32).filter (fun k => bits (s.rf (4 + k / 8) Reg.ETH_STAT_PAUSING) (k % 8) 1 = 1)).reverse.map (fun k => .pause (k / 8) (k % 8) 0xFFFF) ++ s.out ∧
      Only [.ctr, .out] s t) ∧
  (∀ (port : Fin 4) (prio : Fin 8) (s : State), bits (s.rf (4 + port.val) Reg.ETH_STAT_PAUSING) prio.val 1 = 1 →
    (tget s.ports {} port.val).occ.getD prio.val 0 < 131072 →
    ∃ t, exec (.pfcResume port prio 0) s = .next t ∧ t.out = .pause port.val prio.val 0 :: s.out ∧ Only [.regs, .ctr, .ports, .out] s t ∧
      KeepsRegs [regKey (4 + port.val) 0x104] s t) ∧
  (∀ (port : Fin 4) (prio : Fin 8) (quanta : BitVec 16) (s : State), s.up = true → quanta ≠ 0 →
    bits (s.rf (4 + port.val) Reg.ETH_STAT_WD_ACTIVE) prio.val 1 = 0 → bits (s.rf (4 + port.val) Reg.ETH_STAT_PEER_PAUSED) prio.val 1 = 0 →
    ∃ t, exec (.pauseReceive port prio quanta) s = .next t ∧ (tget t.ports {} port.val).since = (tget s.ports {} port.val).since.set prio.val s.time ∧
      t.count (4 + port.val) Cnt.ETH_PFC_RX = (s.count (4 + port.val) Cnt.ETH_PFC_RX + 1) % 2 ^ 64 ∧ Only [.regs, .ctr, .ports] s t ∧
      KeepsRegs [regKey (4 + port.val) 0x104] s t) ∧
  (∀ (port : Fin 4) (prio : Fin 8) (s : State), s.up = true →
    ∃ t, exec (.pauseReceive port prio 0) s = .next t ∧ (tget t.ports {} port.val).held = (tget s.ports {} port.val).held.filter (fun m => m.1 ≠ prio.val) ∧
      t.out = ((tget s.ports {} port.val).held.filter (fun m => m.1 = prio.val)).reverse.map (·.2) ++ s.out ∧ Only [.regs, .ctr, .ports, .out] s t ∧
      KeepsRegs [regKey (4 + port.val) 0x104] s t) ∧
  (∀ (port : Fin 4) (prio : Fin 8) (s : State), bits (s.rf (4 + port.val) Reg.ETH_STAT_PEER_PAUSED) prio.val 1 = 1 →
    s.rf (4 + port.val) Reg.ETH_CTRL_PFC_WD ≠ 0 → (tget s.ports {} port.val).since.getD prio.val 0 + 2 ^ s.rf (4 + port.val) Reg.ETH_CTRL_PFC_WD * 1000000 ≤ s.time →
    ∃ t, exec (.pfcWatchdog port prio) s = .next t ∧ (tget t.ports {} port.val).held = (tget s.ports {} port.val).held.filter (fun m => m.1 ≠ prio.val) ∧
      t.count (4 + port.val) Cnt.ETH_PFC_WD_DROPS =
        (s.count (4 + port.val) Cnt.ETH_PFC_WD_DROPS + ((tget s.ports {} port.val).held.filter (fun m => m.1 = prio.val)).length) % 2 ^ 64 ∧
      Only [.regs, .ctr, .ports] s t ∧ KeepsRegs [regKey (4 + port.val) 0x104] s t) ∧
  (∀ (port : Fin 4) (w : Word) (s : State), s.hostUp = true →
    ∃ t, exec (.ethCtrlWrite port w) s = .next t ∧ t.reg (4 + port.val) 0x100 = w &&& 0x0FFFFFFF ∧
      ((s.reg (4 + port.val) 0x100).toNat % 8 ≠ (w &&& 0x0FFFFFFF).toNat % 8 → t.rf (4 + port.val) Reg.ETH_STAT_LINK = 0) ∧
      t.count 0 Cnt.GLB_REG_WRITES = (s.count 0 Cnt.GLB_REG_WRITES + 1) % 2 ^ 64 ∧ Only [.regs, .ctr] s t ∧
      KeepsRegs [regKey (4 + port.val) 0x100, regKey (4 + port.val) 0x104] s t)

/-- FRAME_RECEIVE (R516): the frame is taken, or dropped for the reason of another rule, when it is no longer than 9,216 bytes. -/
def Obligations.LongFramesAreDropped : Prop :=
  (∀ (port : Fin 4) (pcp : Option (Fin 8)) (dscp : Fin 64) (len drained : Nat) (rtcp ce : Bool) (s : State), s.up = true → 9216 < len →
    exec (.frameReceive port pcp dscp len rtcp ce drained) s =
      .next (bump (4 + port.val) Cnt.ETH_RX_OVERSIZE 1 (drain port.val (framePrio pcp dscp) drained s))) ∧
  (∀ (port : Fin 4) (pcp : Option (Fin 8)) (dscp : Fin 64) (len drained : Nat) (rtcp ce : Bool) (s : State), s.up = true → len ≤ 9216 →
    ∃ t, exec (.frameReceive port pcp dscp len rtcp ce drained) s = .next t ∧
      t.count (4 + port.val) Cnt.ETH_RX_OVERSIZE = s.count (4 + port.val) Cnt.ETH_RX_OVERSIZE ∧
      (t.count (4 + port.val) Cnt.ETH_RX_FRAMES = (s.count (4 + port.val) Cnt.ETH_RX_FRAMES + 1) % 2 ^ 64 ∨
        t.count (4 + port.val) Cnt.ETH_RX_DROP_CLASS = (s.count (4 + port.val) Cnt.ETH_RX_DROP_CLASS + 1) % 2 ^ 64))

/-- RDMA_REQUEST_RECEIVE (R484, R490, R520 to R522). -/
def Obligations.RdmaRequestsAreServedOrRefused : Prop :=
  (∀ (q : Fin 4096) (l : List Byte) (key : Word) (a : Dword) (s : State), s.up = true → (s.qp q.val).st = 1 → key.toNat = (s.qp q.val).key →
    (s.qp q.val).wrOk = true → l ≠ [] → a.toNat + l.length ≤ 0x003DC0000000 →
    ∃ t, exec (.rdmaRequestReceive q (.write l) key a false) s = .next t ∧
      (∀ i, i < l.length → memGet t.mem (a.toNat + i) = l.getD i 0) ∧
      (∀ b, b < a.toNat ∨ a.toNat + l.length ≤ b → memGet t.mem b = memGet s.mem b) ∧
      Sent (s.qp q.val).port (s.qp q.val).prio (.ack q.val) s t ∧ Only [.mem, .poison, .ctr, .out, .ports] s t) ∧
  (∀ (q : Fin 4096) (len : Nat) (key : Word) (a : Dword) (s : State), s.up = true → (s.qp q.val).st = 1 → key.toNat = (s.qp q.val).key →
    (s.qp q.val).rdOk = true → 0 < len → a.toNat + len ≤ 0x003DC0000000 →
    ∃ t, exec (.rdmaRequestReceive q (.read len) key a false) s = .next t ∧
      Sent (s.qp q.val).port (s.qp q.val).prio (.readResponse q.val (s.bytes a.toNat len)) s t ∧ Only [.ctr, .out, .ports] s t) ∧
  (∀ (q : Fin 4096) (l : List Byte) (key : Word) (a : Dword) (s : State), s.up = true → (s.qp q.val).st = 1 →
    (key.toNat ≠ (s.qp q.val).key ∨ (s.qp q.val).wrOk = false) →
    ∃ t, exec (.rdmaRequestReceive q (.write l) key a false) s = .next t ∧
      Sent (s.qp q.val).port (s.qp q.val).prio (.nakAccess q.val) s t ∧ Only [.ctr, .out, .ports] s t) ∧
  (∀ (q : Fin 4096) (op : RdmaOp) (key : Word) (a : Dword) (s : State), s.up = true → (s.qp q.val).st = 1 → q.val ≠ 4095 →
    (op = .other ∨ ∃ l, op = .send l) →
    ∃ t, exec (.rdmaRequestReceive q op key a false) s = .next t ∧
      Sent (s.qp q.val).port (s.qp q.val).prio (.nakInvalid q.val) s t ∧ Only [.ctr, .out, .ports] s t) ∧
  (∀ (q : Fin 4096) (op : RdmaOp) (key : Word) (a : Dword) (ce : Bool) (s : State), (s.up = false ∨ (s.qp q.val).st ≠ 1) →
    exec (.rdmaRequestReceive q op key a ce) s = .next s)

/-- RDMA_ACK_RECEIVE, RDMA_NAK_RECEIVE, RDMA_RETRANSMIT (R523, R525). -/
def Obligations.OutstandingRequestsEnd : Prop :=
  (∀ (q : Fin 4096) (bytes : List Byte) (r : Req) (rest : List Req) (s : State), (s.qp q.val).st = 1 → (s.qp q.val).out = r :: rest → s.current r = true →
    ∃ t, exec (.rdmaAckReceive q 1 bytes false) s = .next t ∧ t.qp q.val = { s.qp q.val with out := rest, tries := 0 } ∧
      (∀ p, p ≠ q.val → t.qp p = s.qp p) ∧ Only [.ctr, .qps, .rings, .fetches] s t ∧
      (∀ k f, r.owner = .fetch k → tget? s.fetches k = some f → tget? t.fetches k = some { f with data := some bytes })) ∧
  (∀ (q : Fin 4096) (bytes : List Byte) (j sh slot : Nat) (r : Req) (rest : List Req) (x : Job) (s : State), (s.qp q.val).st = 1 → (s.qp q.val).out = r :: rest →
    r.owner = .stream sh slot (some j) → s.current r = false → tget? s.jobs j = some x → x.stop = none →
    ∃ t, exec (.rdmaAckReceive q 1 bytes false) s = .next t ∧ tget? t.jobs j = some { x with stop := some Code.E_PEER_ABSENT } ∧
      t.count (shdPage sh) Cnt.SMV_DISCARDED = (s.count (shdPage sh) Cnt.SMV_DISCARDED + 1) % 2 ^ 64 ∧ Only [.ctr, .qps, .jobs] s t) ∧
  (∀ (q : Fin 4096) (kind : Nak) (j sh slot : Nat) (r : Req) (rest : List Req) (x : Job) (s : State), (s.qp q.val).st = 1 → (s.qp q.val).out = r :: rest →
    r.owner = .stream sh slot (some j) → (kind = .access ∨ kind = .invalid) → tget? s.jobs j = some x → x.stop = none →
    ∃ t, exec (.rdmaNakReceive q kind) s = .next t ∧ t.qp q.val = { s.qp q.val with out := rest, tries := 0 } ∧
      tget? t.jobs j = some { x with stop := some Code.E_RDMA_REMOTE } ∧ Only [.regs, .qps, .jobs] s t) ∧
  (∀ (q : Fin 4096) (r : Req) (rest : List Req) (s : State), (s.qp q.val).st = 1 → (s.qp q.val).out = r :: rest → (s.qp q.val).tries < (s.qp q.val).retry →
    ∃ t, exec (.rdmaRetransmit q) s = .next t ∧ t.qp q.val = { s.qp q.val with tries := (s.qp q.val).tries + 1 } ∧
      Sent (s.qp q.val).port (s.qp q.val).prio r.msg s t ∧ exec (.rdmaNakReceive q .rnr) s = .next t ∧ Only [.ctr, .qps, .out, .ports] s t) ∧
  (∀ (q : Fin 4096) (r : Req) (rest : List Req) (s : State), q.val ≠ 4095 → (s.qp q.val).st = 1 → (s.qp q.val).out = r :: rest →
    (s.qp q.val).retry ≤ (s.qp q.val).tries →
    ∃ t, exec (.rdmaRetransmit q) s = .next t ∧ t.qp q.val = { s.qp q.val with st := 2, out := [], tries := 0 } ∧
      Only [.regs, .ctr, .qps, .rings, .jobs, .fetches] s t)

/-- QP_RESET, QP_READY, QP_CFG_WRITE (R525), CNP_RECEIVE, CC_RATE_RISE (R527). -/
def Obligations.QueuePairsFollowTheirRegisters : Prop :=
  (∀ (q : Fin 4096) (w : Word) (s : State), s.hostUp = true → q.val ≠ 4095 → (s.qp q.val).out = [] →
    exec (.qpReset q w) s = .next (setQp q.val { (s.qp q.val).apply q.val w (wrote 1 s) with st := 0, tries := 0 } (wrote 1 s))) ∧
  (∀ (q : Fin 4096) (w : Word) (s : State), s.hostUp = true → q.val ≠ 4095 →
    ∃ t, exec (.qpReset q w) s = .next t ∧ (t.qp q.val).st = 0 ∧ (t.qp q.val).tries = 0 ∧ (t.qp q.val).port = bits w.toNat 0 2 ∧
      (t.qp q.val).prio = bits w.toNat 14 3 ∧ Only [.regs, .ctr, .qps, .rings, .jobs, .fetches] s t) ∧
  (∀ (q : Fin 4096) (w : Word) (s : State), s.hostUp = true → q.val ≠ 4095 → (s.qp q.val).st = 0 →
    exec (.qpReady q w) s =
      .next (setQp q.val { (s.qp q.val).apply q.val w (wrote 1 s) with st := 1, rate := (wrote 1 s).portRate (bits w.toNat 0 2) } (wrote 1 s))) ∧
  (∀ (q : Fin 4096) (w : Word) (s : State), s.hostUp = true → q.val ≠ 4095 → bits w.toNat 2 2 = 0 → exec (.qpCfgWrite q w) s = exec (.qpReset q w) s) ∧
  (∀ (q : Fin 4096) (w : Word) (s : State), s.hostUp = true → q.val ≠ 4095 → (s.qp q.val).st = 1 → bits w.toNat 2 2 ≠ 0 →
    exec (.qpCfgWrite q w) s = .next (setQp q.val { s.qp q.val with
      prio := bits w.toNat 14 3, rdOk := bits w.toNat 17 1 = 1, wrOk := bits w.toNat 18 1 = 1, notify := bits w.toNat 19 1 = 1 } (wrote 1 s))) ∧
  (∀ (q : Fin 4096) (w : Word) (s : State), s.hostUp = true → q.val = 4095 → exec (.qpReset q w) s = .next (wrote 1 s) ∧
    exec (.qpReady q w) s = .next (wrote 1 s) ∧ exec (.qpCfgWrite q w) s = .next (wrote 1 s)) ∧
  (∀ (q : Fin 4096) (s : State), s.rf 8 Reg.RDM_CC_CC_EN = 1 →
    ∃ t r, exec (.cnpReceive q) s = .next t ∧ r = min (s.qp q.val).rate (s.portRate (s.qp q.val).port) ∧
      t.qp q.val = { s.qp q.val with rate := max 100 (r - r / 2 ^ s.rf 8 Reg.RDM_CC_CUT), lastCut := s.time } ∧
      t.count 8 Cnt.RDM_CNP_RX = (s.count 8 Cnt.RDM_CNP_RX + 1) % 2 ^ 64 ∧ Only [.ctr, .qps] s t) ∧
  (∀ (q : Fin 4096) (s : State), s.rf 8 Reg.RDM_CC_CC_EN = 0 → exec (.cnpReceive q) s = .next (bump 8 Cnt.RDM_CNP_RX 1 s)) ∧
  (∀ (q : Fin 4096) (s : State), s.rf 8 Reg.RDM_CC_CC_EN = 1 → (s.qp q.val).lastCut + s.rf 8 Reg.RDM_CC_RISE_US * 1000 ≤ s.time →
    exec (.ccRateRise q) s = .next (setQp q.val { s.qp q.val with
      rate := min (s.portRate (s.qp q.val).port) ((s.qp q.val).rate + s.rf 8 Reg.RDM_CC_STEP), lastCut := s.time } s))

/-- FLOW_APPLY (R528), ST2110_20_PACKET, ST2110_30_PACKET, THARDAX_PACKET_RECEIVE (R289, R529 to R531), EGRESS_INSTANT (R532, R533). -/
def Obligations.FlowsFollowTheirSettings : Prop :=
  (∀ (tx : Bool) (flow : Fin 256) (w : Word) (s : State), s.hostUp = true → (s.flow (flow.val + 256 * bit tx)).bound = none →
    ∃ t, exec (.flowApply tx flow w) s = .next t ∧ t.count 0 Cnt.GLB_REG_WRITES = (s.count 0 Cnt.GLB_REG_WRITES + 1) % 2 ^ 64 ∧
      (¬((t.staged (flow.val + 256 * bit tx)).kind = 3 ∧ tx = true ∧ 9216 < t.thardaxFrame (t.staged (flow.val + 256 * bit tx))) →
        t.flow (flow.val + 256 * bit tx) = t.staged (flow.val + 256 * bit tx)) ∧
      (t.staged (flow.val + 256 * bit tx)).kind = bits w.toNat Reg.MED_FLOW_CFG_KIND.lo Reg.MED_FLOW_CFG_KIND.width ∧
      Only [.regs, .ctr, .flows] s t) ∧
  (∀ (tx : Bool) (flow : Fin 256) (w : Word) (s : State), s.hostUp = true → (s.flow (flow.val + 256 * bit tx)).bound ≠ none →
    ∃ t, exec (.flowApply tx flow w) s = .next t ∧ Only [.regs, .ctr, .pins] s t) ∧
  (∀ (flow : Fin 256) (h : RtpHdr) (segs : List RowSeg) (s : State), s.up = true → (s.flow flow.val).kind = 1 → (s.flow flow.val).accepts h = false →
    exec (.st211020Packet flow h segs) s = .next (bump 0x35 Cnt.MED_FILTERED 1 s)) ∧
  (∀ (flow : Fin 256) (h : RtpHdr) (segs : List RowSeg) (s : State), s.up = true → (s.flow flow.val).kind = 1 → (s.flow flow.val).accepts h = true →
    (s.flow flow.val).bound = none →
    ∃ t, exec (.st211020Packet flow h segs) s = .next t ∧ t.flow flow.val = { s.flow flow.val with seq := some ((h.seq + 1) % 65536) } ∧
      t.count 0x35 Cnt.MED_RX_PKTS = (s.count 0x35 Cnt.MED_RX_PKTS + 1) % 2 ^ 64 ∧ Only [.ctr, .flows] s t) ∧
  (∀ (flow : Fin 256) (h : RtpHdr) (samples : List Nat) (s : State), s.up = true → (s.flow flow.val).kind = 2 → (s.flow flow.val).accepts h = true →
    (s.flow flow.val).bound = none →
    ∃ t, exec (.st211030Packet flow h samples) s = .next t ∧ t.flow flow.val = { s.flow flow.val with seq := some ((h.seq + 1) % 65536) } ∧
      t.count 0x35 Cnt.MED_RX_PKTS = (s.count 0x35 Cnt.MED_RX_PKTS + 1) % 2 ^ 64 ∧ Only [.ctr, .flows] s t) ∧
  (∀ (flow : Fin 256) (h : RtpHdr) (payload : List Byte) (i : Nat) (s : State), s.up = true → (s.flow flow.val).kind = 3 → (s.flow flow.val).accepts h = true →
    (s.flow flow.val).bound = some i → (s.chan i).admits = true → (s.chan i).codec.started = true → (s.chan i).io.isSome = true →
    (s.flow flow.val).seq = some (h.seq % 65536) → payload.length < 8 →
    ∃ t, exec (.thardaxPacketReceive flow h payload) s = .next t ∧ t.count 0x35 Cnt.MED_BAD_VER = (s.count 0x35 Cnt.MED_BAD_VER + 1) % 2 ^ 64 ∧
      t.flow flow.val = { s.flow flow.val with seq := some ((h.seq + 1) % 65536) } ∧ Only [.ctr, .flows] s t) ∧
  (∀ (flow : Fin 256) (h : RtpHdr) (payload : List Byte) (i : Nat) (s : State), s.up = true → (s.flow flow.val).kind = 3 → (s.flow flow.val).accepts h = true →
    (s.flow flow.val).bound = some i → (s.chan i).admits = true → (s.chan i).codec.started = true → (s.chan i).io.isSome = true →
    (s.flow flow.val).gap h = false → 8 ≤ payload.length → hBits (payload.take 8) 0 2 = 1 → hBits (payload.take 8) 2 1 = 1 →
    payload.length - 8 ≤ (s.chan i).inCap - ((s.chan i).codec.total - (s.chan i).codec.used) →
    ∃ t, exec (.thardaxPacketReceive flow h payload) s = .next t ∧
      (t.chan i).codec.total = (s.chan i).codec.total + (payload.length - 8) ∧ (t.flow flow.val).skip = false ∧
      (t.chan i).codec.dec.arrivals = (s.chan i).codec.dec.arrivals ++ [((s.chan i).codec.total + (payload.length - 8), s.time)]) ∧
  (∀ (flow : Fin 256) (h : RtpHdr) (payload : List Byte) (i : Nat) (s : State), s.up = true → (s.flow flow.val).kind = 3 → (s.flow flow.val).accepts h = true →
    s.flowChan (s.flow flow.val) = some i → (s.flow flow.val).gap h = true → (s.flow flow.val).inSegment = false →
    8 ≤ payload.length → hBits (payload.take 8) 0 2 = 1 → hBits (payload.take 8) 2 1 = 0 →
    ∃ t, exec (.thardaxPacketReceive flow h payload) s = .next t ∧ (t.flow flow.val).skip = true ∧ t.chans = s.chans ∧ t.mem = s.mem ∧
      t.count 0x35 Cnt.MED_SEQ_GAPS = (s.count 0x35 Cnt.MED_SEQ_GAPS + 1) % 2 ^ 64) ∧
  (∀ (flow : Fin 256) (h : RtpHdr) (g : RowSeg) (i : Nat) (p : InPic) (io : Io) (q : List Byte) (f : Flow) (s : State), s.up = true → f = s.flow flow.val → f.kind = 1 →
    f.accepts h = true → s.flowChan f = some i → f.ts = some (h.timestamp % 2 ^ 32) → f.closedTs = none → f.skip = false → h.marker = false →
    (s.chan i).codec.inputs.find? (fun y => !y.closed) = some p → (s.chan i).io = some io → q = s.inGeom i → g.line < seqH q →
    tget f.filled 0 g.line + g.samples.length < planeW q 0 + planeW q 1 + planeW q 2 →
    ∃ t, exec (.st211020Packet flow h [g]) s = .next t ∧
      t.mem = (g.samples.zipIdx.foldl (fun a x => putSample f i q (io.inBase + p.num % max 1 io.inSlots * picBytes q io.inPitch) io.inPitch g a x) s).mem ∧
      (t.flow flow.val).filled = tput f.filled g.line (tget f.filled 0 g.line + g.samples.length) ∧ t.chans = s.chans ∧
      t.count 0x35 Cnt.MED_RX_PKTS = (s.count 0x35 Cnt.MED_RX_PKTS + 1) % 2 ^ 64) ∧
  (∀ (flow : Fin 256) (h : RtpHdr) (segs : List RowSeg) (i : Nat) (s : State), s.up = true → (s.flow flow.val).kind = 1 → (s.flow flow.val).accepts h = true →
    s.flowChan (s.flow flow.val) = some i → (s.flow flow.val).closedTs = some (h.timestamp % 2 ^ 32) →
    ∃ t, exec (.st211020Packet flow h segs) s = .next t ∧ t.count 0x35 Cnt.MED_LATE_PKTS = (s.count 0x35 Cnt.MED_LATE_PKTS + 1) % 2 ^ 64 ∧ t.mem = s.mem ∧ t.chans = s.chans) ∧
  (∀ (flow : Fin 256) (h : RtpHdr) (l : List Nat) (i v n : Nat) (f : Flow) (s : State), s.up = true → f = s.flow flow.val → f.kind = 2 → f.accepts h = true →
    s.flowChan f = some i → f.ts = some v → h.timestamp % 2 ^ 32 = (v + f.pos) % 2 ^ 32 → l.length = f.ch + 1 → n = auNch (s.chan i).rec_ → 0 < f.pos → f.pos < 479 →
    ∃ t, exec (.st211030Packet flow h l) s = .next t ∧ (t.flow flow.val).pos = f.pos + 1 ∧ t.chans = s.chans ∧
      t.mem = (writeVa i (auBase (s.chan i).rec_ + ((s.chan i).codec.total - 1) % max 1 (auFrames (s.chan i).rec_) * 1920 * n + f.pos * 4 * n)
        ((l.take n).flatMap (fun x => leBytes 4 (wrapTo 32 (signed 24 x)))) .none 2 s).mem) ∧
  (∀ (flow : Fin 256) (u : OutUnit) (rest : List OutUnit) (a : Nat) (b : List Byte) (s : State), (s.flow (flow.val + 256)).units = u :: rest → u.instant = some a →
    a ≤ s.time → u.whole = false → (s.flow (flow.val + 256)).sent = some b → (∀ i, (s.flow (flow.val + 256)).bound = some i → s.mute i = false) →
    ∃ t, exec (.egressInstant flow) s = .next t ∧ (t.flow (flow.val + 256)).units = rest ∧ (t.flow (flow.val + 256)).sent = some b ∧
      t.count 0x35 Cnt.MED_EGRESS_REPEATS = (s.count 0x35 Cnt.MED_EGRESS_REPEATS + 1) % 2 ^ 64) ∧
  (∀ (flow : Fin 256) (u : OutUnit) (rest : List OutUnit) (a : Nat) (s : State), (s.flow (flow.val + 256)).units = u :: rest → u.instant = some a → a ≤ s.time →
    u.whole = true → (∀ i, (s.flow (flow.val + 256)).bound = some i → s.mute i = false) →
    ∃ t, exec (.egressInstant flow) s = .next t ∧ (t.flow (flow.val + 256)).units = rest ∧ (t.flow (flow.val + 256)).sent = some u.bytes ∧
      t.free = s.free + 1 ∧ Only [.free, .ctr, .out, .ports, .flows] s t)

/-- PTP_MESSAGE, PTP_DELAY_REQ, PPS_EDGE (R537), TIME_HOLDOVER (R538), TIME_STEP (R540), TIME_SET (R544); what a step moves besides device time is
log entry 34. -/
def Obligations.DeviceTimeFollowsItsSource : Prop :=
  (∀ (port : Fin 4) (d origin : Nat) (s : State), s.up = true → s.rf 0x35 Reg.MED_TIME_CTRL_SOURCE = 1 → s.rf 0x35 Reg.MED_TIME_CTRL_PTP_PORT = port.val →
    s.rf 0x35 Reg.MED_TIME_CTRL_DOMAIN = d → s.rf 0x35 Reg.MED_TIME_STAT_STATE ≠ 0 →
    ∃ t, exec (.ptpMessage port d (.sync origin true)) s = .next t ∧ t.servo = { s.servo with t1 := none, t2 := s.time } ∧
      t.count 0x35 Cnt.MED_PTP_RX = (s.count 0x35 Cnt.MED_PTP_RX + 1) % 2 ^ 64 ∧ Only [.ctr, .servo] s t) ∧
  (∀ (port : Fin 4) (d t4 t1 t3 : Nat) (s : State), s.up = true → s.rf 0x35 Reg.MED_TIME_CTRL_SOURCE = 1 → s.rf 0x35 Reg.MED_TIME_CTRL_PTP_PORT = port.val →
    s.rf 0x35 Reg.MED_TIME_CTRL_DOMAIN = d → s.rf 0x35 Reg.MED_TIME_STAT_STATE ≠ 0 → s.servo.t1 = some t1 → s.servo.t3 = some t3 →
    exec (.ptpMessage port d (.delayResp t4)) s = .next { s with servo := { s.servo with
      t4 := some t4, t3 := none, delay := (((s.servo.t2 : Int) - (t1 : Int)) + ((t4 : Int) - (t3 : Int))) / 2 } }) ∧
  (∀ (port : Fin 4) (d : Nat) (m : PtpMsg) (s : State), s.up = true → (∀ o b, m ≠ .sync o b) →
    (s.rf 0x35 Reg.MED_TIME_CTRL_SOURCE ≠ 1 ∨ s.rf 0x35 Reg.MED_TIME_CTRL_PTP_PORT ≠ port.val ∨ s.rf 0x35 Reg.MED_TIME_CTRL_DOMAIN ≠ d) →
    exec (.ptpMessage port d m) s = .next s) ∧
  (∀ (t1 : Nat) (s : State), s.up = true → s.rf 0x35 Reg.MED_TIME_CTRL_SOURCE = 1 → s.servo.t1 = some t1 →
    ∃ t, exec .ptpDelayReq s = .next t ∧ t.servo = { s.servo with t3 := some s.time } ∧
      Sent (s.rf 0x35 Reg.MED_TIME_CTRL_PTP_PORT) 0 (.delayReq (s.rf 0x35 Reg.MED_TIME_CTRL_PTP_PORT)) s t ∧ Only [.ctr, .servo, .out, .ports] s t) ∧
  (∀ s : State, s.up = true → s.rf 0x35 Reg.MED_TIME_CTRL_SOURCE ≠ 2 →
    ∃ t, exec .ppsEdge s = .next t ∧ t.count 0x35 Cnt.MED_PPS_EDGES = (s.count 0x35 Cnt.MED_PPS_EDGES + 1) % 2 ^ 64 ∧ t.rf 0x35 Reg.MED_PPS_VALID = 1 ∧
      (s.rf 0x35 Reg.MED_PPS_VALID = 0 → t.rf 0x35 Reg.MED_PPS_ERR = wrapTo 31 (secondOff s.time)) ∧ Only [.regs, .ctr] s t) ∧
  (∀ s : State, s.rf 0x35 Reg.MED_TIME_STAT_STATE = 2 → s.servo.lastMeas + 3000000000 ≤ s.time →
    ∃ t, exec .timeHoldover s = .next t ∧ t.rf 0x35 Reg.MED_TIME_STAT_STATE = 3 ∧ t.servo = { s.servo with good := 0 } ∧
      Only (.servo :: noteParts) s t) ∧
  (∀ (w : Word) (s : State), s.hostUp = true →
    ∃ t, exec (.timeStep w) s = .next t ∧ t.time = wrapTo 64 ((s.time : Int) + signed 32 w.toNat) ∧
      t.count 0x35 Cnt.MED_TIME_STEPS = (s.count 0x35 Cnt.MED_TIME_STEPS + 1) % 2 ^ 64 ∧
      t.jobs = s.jobs.map (fun x => (x.1, shiftJob (signed 32 w.toNat) x.2))) ∧
  (∀ (w : Word) (s : State), s.hostUp = true → s.rf 0x35 Reg.MED_TIME_SET_LO_TIME < 2 ^ 32 →
    ∃ t, exec (.timeSet w) s = .next t ∧ t.time = w.toNat * 2 ^ 32 + s.rf 0x35 Reg.MED_TIME_SET_LO_TIME)

/-- REGISTER_WRITE (R630, R631, R641), PG_ERR_CLEAR (R637), LOG_RD_WRITE (R645), GATHER_WRITE, HO_POOL_WRITE (R648), HIF_CH_PROBE_WRITE (R480),
RGV_PROBE_WRITE (R367). -/
def Obligations.RegisterWritesFollowTheFields : Prop :=
  (∀ (page : Fin 4096) (word : Fin 1024) (w : Word) (s : State), s.hostUp = true → pageBlk page.val = none →
    exec (.registerWrite page word w) s = .next (bump 0 Cnt.GLB_UNMAPPED_WRITES 1 (wrote 1 s))) ∧
  (∀ (page : Fin 4096) (word : Fin 1024) (w : Word) (d : RegDesc) (s : State), s.hostUp = true → pageBlk page.val = some .sec → 256 ≤ 4 * word.val →
    regAt page.val (4 * word.val) = some d → d.mask .csw = 0 →
    ∃ t, exec (.registerWrite page word w) s = .next t ∧ t.reg page.val (4 * word.val) = d.merge (s.reg page.val (4 * word.val)) w ∧
      (∀ p o, (p, o) ≠ (page.val, 4 * word.val) → o < 4096 → t.reg p o = s.reg p o) ∧
      t.count 0 Cnt.GLB_REG_WRITES = (s.count 0 Cnt.GLB_REG_WRITES + 1) % 2 ^ 64 ∧ Only [.regs, .ctr] s t) ∧
  (∀ (page : Fin 4096) (w : Word) (b : Blk) (s : State), s.hostUp = true → 0 < page.val → pageBlk page.val = some b → b ≠ .view → b ≠ .board →
    ∃ t, exec (.pgErrClear page w) s = .next t ∧ t.reg page.val 0x010 = s.reg page.val 0x010 &&& ~~~w ∧
      (s.reg page.val 0x010 &&& ~~~w = 0 → t.reg page.val 0x018 = 0 ∧ t.reg page.val 0x020 = 0 ∧ t.reg page.val 0x024 = 0) ∧
      Only [.regs, .ctr, .pins] s t) ∧
  (∀ (w : Word) (s : State), s.hostUp = true → s.logLost = 0 → ahead 32 w.toNat (s.rf 0x3B Reg.LOG_RD_RD) ≤ ahead 32 (s.logWr % 2 ^ 32) (s.rf 0x3B Reg.LOG_RD_RD) →
    ∃ t, exec (.logRdWrite w) s = .next t ∧ t.rf 0x3B Reg.LOG_RD_RD = w.toNat ∧ t.log = s.log ∧ Only [.regs, .ctr, .pins] s t) ∧
  (∀ (w : Word) (s : State), s.hostUp = true → ahead 32 (s.logWr % 2 ^ 32) (s.rf 0x3B Reg.LOG_RD_RD) < ahead 32 w.toNat (s.rf 0x3B Reg.LOG_RD_RD) →
    exec (.logRdWrite w) s = .next (record 0x3B Code.E_CMD_INVALID (wrote 1 s))) ∧
  (∀ (w : Word) (s : State), s.hostUp = true → exec (.hifChProbeWrite w) s = .next (probe ((wrote 1 s).setReg 0x21 0x120 w))) ∧
  (∀ (w : Word) (s : State), s.hostUp = true → (∀ i, (s.chan i).st < 8) → ∃ t, exec (.hifChProbeWrite w) s = .next t ∧ t.reg 0x21 0x120 = w ∧
      t.rf 0x21 Reg.HIF_CH_STAT_SEQ = (s.rf 0x21 Reg.HIF_CH_STAT_SEQ + 1) % 2 ^ 15 ∧ t.rf 0x21 Reg.HIF_CH_STAT_VALID = 1 ∧ Only [.regs, .ctr] s t) ∧
  (∀ (w : Word) (s : State), s.hostUp = true → ∃ t, exec (.rgvProbeWrite w) s = .next t ∧ t.reg 0x31 0x110 = w ∧ t.rf 0x31 Reg.RGV_PROBE_STAT_VALID = 0 ∧
      t.reg 0x31 0x118 = 0 ∧ t.reg 0x31 0x11C = 0 ∧ Only [.regs, .ctr] s t ∧ KeepsCtrs [ctrKey 0 Cnt.GLB_REG_WRITES] s t) ∧
  (∀ (w : Word) (s : State), s.hostUp = true → s.hoPool + 4 * max 1 (bits w.toNat 0 8) ≤ 2560 →
    ∃ t, exec (.gatherWrite w) s = .next t ∧ t.rf 0x32 Reg.RCA_CTRL_GATHER = max 1 (bits w.toNat 0 8) ∧
      t.rf 0x3A Reg.SHS_FLEX_USED = s.hoPool + 4 * max 1 (bits w.toNat 0 8) ∧ Only [.regs, .ctr] s t) ∧
  (∀ (w : Word) (s : State), s.hostUp = true → min 2048 (bits w.toNat 0 12) + 4 * s.rf 0x32 Reg.RCA_CTRL_GATHER ≤ 2560 →
    ∃ t, exec (.hoPoolWrite w) s = .next t ∧ t.rf 0x280 Reg.SMV_HO_POOL_POOL = min 2048 (bits w.toNat 0 12) ∧ Only [.regs, .ctr] s t) ∧
  (∀ (w : Word) (s : State), s.hostUp = true → 2560 < min 2048 (bits w.toNat 0 12) + 4 * s.rf 0x32 Reg.RCA_CTRL_GATHER →
    ∃ t, exec (.hoPoolWrite w) s = .next t ∧ t.rf 0x280 Reg.SMV_HO_POOL_POOL = s.rf 0x280 Reg.SMV_HO_POOL_POOL ∧
      t.count 0x3A Cnt.SHS_SPACE_REJECTS = (s.count 0x3A Cnt.SHS_SPACE_REJECTS + 1) % 2 ^ 64 ∧ Only [.regs, .ctr, .pins] s t)

/-- QUIESCE_REQ_SET (R578), QUIESCE_DONE (R579), QUIESCE_REQ_CLEAR (R580), RESET_REQ, POWER_DOWN_REQ, POWER_UP_REQ, BLOCK_RESET_DONE (R581). The pages of
local stagehands stand for the blocks that hold streams. -/
def Obligations.BlocksQuiesceBeforeTheyStop : Prop :=
  (∀ (page : Fin 4096) (b : Blk) (s : State), s.hostUp = true → pageBlk page.val = some b → b.quiesces = true →
    ∃ t, exec (.quiesceReqSet page) s = .next t ∧ t.rf page.val Reg.PG_CTRL_QUIESCE_REQ = 1 ∧ Only [.regs, .ctr] s t ∧
      KeepsRegs [regKey page.val 0x008] s t ∧ KeepsCtrs [ctrKey 0 Cnt.GLB_REG_WRITES] s t) ∧
  (∀ (page : Fin 4096) (s : State), 0x200 ≤ page.val → page.val < 0x244 → s.rf page.val Reg.PG_CTRL_QUIESCE_REQ = 1 →
    s.rf page.val Reg.PG_STAT_QUIESCED = 0 → s.holdsRequest page.val = false → s.rf page.val Reg.PG_CTRL_RESET_REQ = 0 →
    s.rf page.val Reg.PG_CTRL_POWER_DOWN_REQ = 0 →
    ∃ t, exec (.quiesceDone page) s = .next t ∧ t.rf page.val Reg.PG_STAT_QUIESCED = 1 ∧ t.rf page.val Reg.PG_STAT_IN_RESET = s.rf page.val Reg.PG_STAT_IN_RESET ∧
      Only noteParts s t) ∧
  (∀ (page : Fin 4096) (s : State), s.hostUp = true → 0x200 ≤ page.val → page.val < 0x244 → s.rf page.val Reg.PG_CTRL_QUIESCE_REQ = 1 →
    s.rf page.val Reg.PG_STAT_POWERED_DOWN = 0 → s.rf page.val Reg.PG_STAT_IN_RESET = 0 →
    ∃ t, exec (.quiesceReqClear page) s = .next t ∧ t.rf page.val Reg.PG_CTRL_QUIESCE_REQ = 0 ∧ t.rf page.val Reg.PG_CTRL_RESET_REQ = 0 ∧
      t.rf page.val Reg.PG_CTRL_POWER_DOWN_REQ = 0 ∧ (s.rf page.val Reg.PG_CTRL_ENABLE = 1 → t.rf page.val Reg.PG_STAT_QUIESCED = 0) ∧ Only noteParts s t) ∧
  (∀ (page : Fin 4096) (s : State), s.hostUp = true → 0x200 ≤ page.val → page.val < 0x244 → s.rf page.val Reg.PG_CTRL_QUIESCE_REQ = 1 →
    s.rf page.val Reg.PG_STAT_POWERED_DOWN = 1 →
    exec (.quiesceReqClear page) s = .next (record page.val Code.E_CMD_INVALID (wrote 1 s))) ∧
  (∀ (page : Fin 4096) (s : State), s.hostUp = true → 0x200 ≤ page.val → page.val < 0x244 → s.rf page.val Reg.PG_STAT_POWERED_DOWN = 0 →
    s.rf page.val Reg.PG_STAT_QUIESCED = 0 →
    exec (.resetReq page) s = .next ((wrote 1 s).wf page.val Reg.PG_CTRL_RESET_REQ 1) ∧
    exec (.powerDownReq page) s = .next ((wrote 1 s).wf page.val Reg.PG_CTRL_POWER_DOWN_REQ 1)) ∧
  (∀ (page : Fin 4096) (s : State), s.hostUp = true → 0x200 ≤ page.val → page.val < 0x244 → s.rf page.val Reg.PG_STAT_POWERED_DOWN = 0 →
    s.rf page.val Reg.PG_STAT_QUIESCED = 1 → s.rf page.val Reg.PG_STAT_IN_RESET = 0 →
    (∃ t, exec (.resetReq page) s = .next t ∧ t.rf page.val Reg.PG_STAT_IN_RESET = 1 ∧ t.rf page.val Reg.PG_CTRL_RESET_REQ = 1 ∧ Only noteParts s t) ∧
    (s.rf page.val Reg.PG_CTRL_RESET_REQ = 0 → ∃ t, exec (.powerDownReq page) s = .next t ∧ t.rf page.val Reg.PG_STAT_POWERED_DOWN = 1 ∧
      (tget t.shds {} (page.val - 0x200)).cache = [] ∧ Only (.shds :: noteParts) s t)) ∧
  (∀ (page : Fin 4096) (s : State), s.hostUp = true → 0x200 ≤ page.val → page.val < 0x244 → s.rf page.val Reg.PG_STAT_POWERED_DOWN = 1 →
    s.rf page.val Reg.PG_CTRL_POWER_DOWN_REQ = 1 →
    ∃ t, exec (.powerUpReq page) s = .next t ∧ t.rf page.val Reg.PG_CTRL_POWER_DOWN_REQ = 0 ∧ t.rf page.val Reg.PG_STAT_IN_RESET = 1 ∧ Only noteParts s t) ∧
  (∀ (page : Fin 4096) (s : State), 0x200 ≤ page.val → page.val < 0x244 → s.rf page.val Reg.PG_STAT_IN_RESET = 1 →
    s.rf page.val Reg.PG_CTRL_POWER_DOWN_REQ = 0 →
    ∃ t, exec (.blockResetDone page) s = .next t ∧ t.rf page.val Reg.PG_STAT_EPOCH = (s.rf page.val Reg.PG_STAT_EPOCH + 1) % 2 ^ Reg.PG_STAT_EPOCH.width ∧
      t.rf page.val Reg.PG_STAT_IN_RESET = 0 ∧ t.rf page.val Reg.PG_CTRL_RESET_REQ = 0 ∧ t.rf page.val Reg.PG_STAT_POWERED_DOWN = 0 ∧
      t.mem = s.mem ∧ Only (.banks :: noteParts) s t)

/-- ENABLE_CLEAR, ENABLE_SET (R635). -/
def Obligations.EnableClearsOnlyWhileQuiesced : Prop :=
  ∀ (page : Fin 4096) (b : Blk) (s : State), s.hostUp = true → pageBlk page.val = some b → b ≠ .view → b ≠ .board → b ≠ .ply →
    (s.rf page.val Reg.PG_CTRL_ENABLE = 1 → s.rf page.val Reg.PG_STAT_QUIESCED = 1 →
      exec (.enableClear page) s = .next ((wrote 1 s).wf page.val Reg.PG_CTRL_ENABLE 0)) ∧
    (s.rf page.val Reg.PG_CTRL_ENABLE = 1 → s.rf page.val Reg.PG_STAT_QUIESCED = 0 →
      exec (.enableClear page) s = .next (record page.val Code.E_CMD_INVALID (wrote 1 s))) ∧
    (s.rf page.val Reg.PG_CTRL_ENABLE = 0 → exec (.enableSet page) s = .next ((wrote 1 s).wf page.val Reg.PG_CTRL_ENABLE 1)) ∧
    (s.rf page.val Reg.PG_CTRL_ENABLE = 1 → exec (.enableSet page) s = .next (wrote 1 s))

/-- DOORBELL (R445, R446, R642), CQ_HEAD_WRITE (R468, R643), Q0_EN_SET, Q0_EN_TAKE_EFFECT, Q0_EN_CLEAR (R447). What a doorbell of queue 0 counts
while Q0_EN reads 0 is log entry 197. -/
def Obligations.DoorbellsAndHeadsKeepTheirBounds : Prop :=
  (∀ (q : Fin 256) (d : Dword) (s : State), s.hostUp = true → tget? s.queues q.val = none →
    exec (.doorbell q d) s = .next (bump 0x22 Cnt.HQD_DB_NOQUEUE 1 (bump 0x22 Cnt.HQD_DB_WRITES 1 (wrote 2 s)))) ∧
  (∀ (q : Fin 256) (d : Dword) (s : State), s.hostUp = true → q.val = 0 → s.rf 0x21 Reg.HIF_CTRL_Q0_EN = 0 →
    exec (.doorbell q d) s = .next (bump 0x22 Cnt.HQD_DB_NOQUEUE 1 (bump 0x22 Cnt.HQD_DB_WRITES 1 (wrote 2 s)))) ∧
  (∀ (q : Fin 256) (d : Dword) (k : Queue) (s : State), s.hostUp = true → tget? s.queues q.val = some k → k.deleting = none → k.stopped = false → (q.val = 0 → s.rf 0x21 Reg.HIF_CTRL_Q0_EN = 1) →
    bits d.toNat 16 8 = q.val → d.toNat < 2 ^ 24 → ahead 16 k.t (k.h % 2 ^ 16) ≤ ahead 16 (d.toNat % 2 ^ 16) (k.h % 2 ^ 16) →
    ahead 16 (d.toNat % 2 ^ 16) (k.h % 2 ^ 16) ≤ 2 ^ k.log2n →
    ∃ t, exec (.doorbell q d) s = .next t ∧ tget? t.queues q.val = some { k with t := d.toNat % 2 ^ 16 } ∧
      t.rf 0x22 (Reg.HQD_DB_TAIL.nth 8 q.val) = d.toNat % 2 ^ 16 ∧
      t.count 0x22 Cnt.HQD_DB_ACCEPTED = (s.count 0x22 Cnt.HQD_DB_ACCEPTED + 1) % 2 ^ 64 ∧ Only [.regs, .ctr, .queues] s t) ∧
  (∀ (q : Fin 256) (d : Dword) (k : Queue) (s : State), s.hostUp = true → tget? s.queues q.val = some k → k.deleting = none → k.stopped = false → (q.val = 0 → s.rf 0x21 Reg.HIF_CTRL_Q0_EN = 1) →
    (bits d.toNat 16 8 ≠ q.val ∨ 2 ^ 24 ≤ d.toNat ∨ 2 ^ k.log2n < ahead 16 (d.toNat % 2 ^ 16) (k.h % 2 ^ 16)) →
    ∃ t, exec (.doorbell q d) s = .next t ∧ tget? t.queues q.val = some { k with stopped := true } ∧ Only (.queues :: .due :: noteParts) s t) ∧
  (∀ (r : Fin 256) (w : Word) (k : Ring) (s : State), s.hostUp = true → tget? s.rings r.val = some k →
    ahead 16 (w.toNat % 2 ^ 16) (s.rf 0x22 (Reg.HQD_CQH_HEAD.nth 4 r.val)) ≤ ahead 16 (k.w % 2 ^ 16) (s.rf 0x22 (Reg.HQD_CQH_HEAD.nth 4 r.val)) →
    ∃ t, exec (.cqHeadWrite r w) s = .next t ∧ t.rf 0x22 (Reg.HQD_CQH_HEAD.nth 4 r.val) = w.toNat % 2 ^ 16 ∧
      t.count 0x22 Cnt.HQD_HEAD_WRITES = (s.count 0x22 Cnt.HQD_HEAD_WRITES + 1) % 2 ^ 64 ∧ Only [.regs, .ctr] s t) ∧
  (∀ (r : Fin 256) (w : Word) (k : Ring) (s : State), s.hostUp = true → tget? s.rings r.val = some k →
    ahead 16 (k.w % 2 ^ 16) (s.rf 0x22 (Reg.HQD_CQH_HEAD.nth 4 r.val)) < ahead 16 (w.toNat % 2 ^ 16) (s.rf 0x22 (Reg.HQD_CQH_HEAD.nth 4 r.val)) →
    exec (.cqHeadWrite r w) s = .next (bump 0x22 Cnt.HQD_HEAD_REJECTS 1 (wrote 1 s))) ∧
  (∀ s : State, s.hostUp = true → s.rf 0x21 Reg.HIF_CTRL_Q0_EN = 0 → exec .q0EnSet s = .next { wrote 1 s with q0Wanted := true }) ∧
  (∀ (a b : Nat) (s : State), s.q0Wanted = true → tget? s.queues 0 = none → tget? s.rings 0 = none → s.ringBusy 0 = false →
    s.rf 0x21 Reg.HIF_Q0_SIZE_SQ_LOG2 = a → s.rf 0x21 Reg.HIF_Q0_SIZE_CQ_LOG2 = b → 4 ≤ a → a ≤ 12 → 4 ≤ b →
    s.base0 Reg.HIF_SQ0_LO_BASE Reg.HIF_SQ0_HI_BASE % 4096 = 0 → s.base0 Reg.HIF_CQ0_LO_BASE Reg.HIF_CQ0_HI_BASE % 4096 = 0 →
    s.devicePlace (s.base0 Reg.HIF_SQ0_LO_BASE Reg.HIF_SQ0_HI_BASE) (128 * 2 ^ a) = true →
    s.ringPlace (s.base0 Reg.HIF_CQ0_LO_BASE Reg.HIF_CQ0_HI_BASE) (64 * 2 ^ b) = true →
    ∃ t, exec .q0EnTakeEffect s = .next t ∧ t.q0Wanted = false ∧ t.rf 0x21 Reg.HIF_CTRL_Q0_EN = 1 ∧
      tget? t.queues 0 = some { base := s.base0 Reg.HIF_SQ0_LO_BASE Reg.HIF_SQ0_HI_BASE, log2n := a, ring := 0, weight := 8 } ∧
      tget? t.rings 0 = some { base := s.base0 Reg.HIF_CQ0_LO_BASE Reg.HIF_CQ0_HI_BASE, log2n := b } ∧ Only [.regs, .queues, .rings, .q0Wanted] s t) ∧
  (∀ (k : Queue) (s : State), s.hostUp = true → tget? s.queues 0 = some k → tget? s.rings 0 = none →
    ∃ t, exec .q0EnClear s = .next t ∧ t.q0Wanted = false ∧ t.rf 0x21 Reg.HIF_CTRL_Q0_EN = 0 ∧ tget? t.queues 0 = some { k with t := k.h, stopped := true } ∧
      Only [.regs, .ctr, .queues, .q0Wanted] s t)

/-- NOP, SQ_CREATE, SQ_DELETE, CQ_CREATE, CQ_DELETE (R443, R447, R451, R453, R454, R463, R470, R509). -/
def Obligations.QueueCommandsOpenAndCloseQueues : Prop :=
  (∀ (q : Fin 256) (e : Entry) (k : Queue) (s : State), Admits spNop q.val k (eWithOp e 0x01) s → eHandle (eWithOp e 0x01) = 0 →
    ∃ t, exec (.nop q e) s = .next t ∧ Answers q.val k (eWithOp e 0x01) 0 0 0 s t ∧
      t.queues = tput s.queues q.val { k with openRecs := k.openRecs + 1 } ∧ t.rings = s.rings ∧ t.chans = s.chans ∧ t.mem = s.mem) ∧
  (∀ (q : Fin 256) (e : Entry) (k : Queue) (i : Nat) (s : State), AdmitsFor spNop q.val k (eWithOp e 0x01) i s → eHandle (eWithOp e 0x01) ≠ 0 →
    ∃ t, exec (.nop q e) s = .next t ∧ AnswersFor q.val (eWithOp e 0x01) i 0 0 0 s t ∧
      t.chan i = { s.chan i with seq := ((s.chan i).seq + 1) % 2 ^ 32 } ∧ t.devSeq = s.devSeq ∧ t.mem = s.mem) ∧
  (∀ (q : Fin 256) (e x : Entry) (k : Queue) (n : Nat) (s : State), x = eWithOp e 0x02 → Admits spSqCreate q.val k x s → n = eGet x 0x10 0 8 →
    tget? s.queues n = none → s.devicePlace (eGet x 0x18 0 64) (128 * 2 ^ eGet x 0x11 0 4) = true →
    ∃ t, exec (.sqCreate q e) s = .next t ∧ Answers q.val k x 0 0 0 s t ∧
      tget? t.queues n = some { base := eGet x 0x18 0 64, log2n := eGet x 0x11 0 4, ring := eGet x 0x12 0 8, weight := eGet x 0x13 0 4 } ∧
      t.reg 0x22 (0x100 + 8 * n) = 0 ∧ t.reg 0x22 (0x104 + 8 * n) = 0 ∧ (∀ m, m ≠ n → m ≠ q.val → tget? t.queues m = tget? s.queues m) ∧ t.mem = s.mem) ∧
  (∀ (q : Fin 256) (e x : Entry) (k d : Queue) (s : State), x = eWithOp e 0x02 → Admits spSqCreate q.val k x s → tget? s.queues (eGet x 0x10 0 8) = some d →
    ∃ t, exec (.sqCreate q e) s = .next t ∧ Answers q.val k x Code.E_RESOURCE_BUSY 0 0 s t ∧
      t.queues = tput s.queues q.val { k with openRecs := k.openRecs + 1 }) ∧
  (∀ (q : Fin 256) (e x : Entry) (k d : Queue) (n : Nat) (s : State), x = eWithOp e 0x03 → Admits spSqDelete q.val k x s → n = eGet x 0x10 0 8 →
    n ≠ q.val → tget? s.queues n = some d → d.waiting = [] →
    ∃ t, exec (.sqDelete q e) s = .next t ∧ Answers q.val k x 0 0 0 s t ∧ tget? t.queues n = none ∧ t.rings = s.rings ∧ t.mem = s.mem) ∧
  (∀ (q : Fin 256) (e x : Entry) (k d : Queue) (n : Nat) (s : State), x = eWithOp e 0x03 → Admits spSqDelete q.val k x s → n = eGet x 0x10 0 8 →
    n ≠ q.val → tget? s.queues n = some d → d.waiting ≠ [] →
    ∃ t c, exec (.sqDelete q e) s = .next t ∧ t.due = s.due ∧
      tget? t.queues n = some { d with t := d.h, stopped := true, deleting := some c } ∧ c.tag = eTag x ∧ c.seq = (s.devSeq + 1) % 2 ^ 32) ∧
  (∀ (q : Fin 256) (e x : Entry) (k : Queue) (n : Nat) (s : State), x = eWithOp e 0x04 → Admits spCqCreate q.val k x s → n = eGet x 0x10 0 8 →
    tget? s.rings n = none → s.ringPlace (eGet x 0x18 0 64) (64 * 2 ^ eGet x 0x11 0 4) = true →
    ∃ t, exec (.cqCreate q e) s = .next t ∧ Answers q.val k x 0 0 0 s t ∧
      tget? t.rings n = some { base := eGet x 0x18 0 64, log2n := eGet x 0x11 0 4 } ∧ t.reg 0x22 (0x900 + 4 * n) = 0 ∧
      (∀ m, m ≠ n → tget? t.rings m = tget? s.rings m) ∧ t.mem = s.mem) ∧
  (∀ (q : Fin 256) (e x : Entry) (k : Queue) (r : Ring) (s : State), x = eWithOp e 0x04 → Admits spCqCreate q.val k x s → tget? s.rings (eGet x 0x10 0 8) = some r →
    ∃ t, exec (.cqCreate q e) s = .next t ∧ Answers q.val k x Code.E_RESOURCE_BUSY 0 0 s t ∧ t.rings = s.rings) ∧
  (∀ (q : Fin 256) (e x : Entry) (k : Queue) (r : Ring) (n : Nat) (s : State), x = eWithOp e 0x05 → Admits spCqDelete q.val k x s → n = eGet x 0x10 0 8 →
    tget? s.rings n = some r → r.failed = false → r.cur = none → s.due.any (fun d => d.ring == n) = false →
    s.queues.all (fun y => y.2.ring != n) = true → k.ring ≠ n → s.chans.any (fun y => y.2.st != 0 && y.2.cq == n) = false →
    ∃ t, exec (.cqDelete q e) s = .next t ∧ Answers q.val k x 0 0 0 s t ∧ tget? t.rings n = none ∧ (∀ m, m ≠ n → tget? t.rings m = tget? s.rings m) ∧ t.mem = s.mem) ∧
  (∀ (q : Fin 256) (e x : Entry) (k : Queue) (r : Ring) (s : State), x = eWithOp e 0x05 → Admits spCqDelete q.val k x s → tget? s.rings (eGet x 0x10 0 8) = some r →
    s.chans.any (fun y => y.2.st != 0 && y.2.cq == eGet x 0x10 0 8) = true →
    ∃ t, exec (.cqDelete q e) s = .next t ∧ Answers q.val k x Code.E_RESOURCE_BUSY 0 0 s t ∧ t.rings = s.rings)

/-- ENS_FORM, ENS_DISSOLVE (R17 to R21), RETIRE, READMIT (R576), CONTEXT_SWAP (R35, R437 to R440). -/
def Obligations.EnsemblesAndSlotsFollowTheCommands : Prop :=
  (∀ (q : Fin 256) (e x : Entry) (k : Queue) (n : Nat) (ms : List Nat) (s : State), x = eWithOp e 0x06 → Admits spEnsForm q.val k x s →
    n = eGet x 0x10 0 8 → ms = eMembers x → tget? s.ens n = none → (∀ m ∈ ms, s.ensExists m = true) → (ms.map s.ensDepth).foldl max 0 < 4 →
    s.unionPlayers ms ≠ [] → (∀ l ∈ s.unionPlayers ms, ∃ p, s.physOf l = some p ∧ s.outOf p = false) →
    ∃ t, exec (.ensForm q e) s = .next t ∧
      tget? t.ens n = some { members := ms, players := s.unionPlayers ms, depth := 1 + (ms.map s.ensDepth).foldl max 0 } ∧
      (∀ m, m ≠ n → tget? t.ens m = tget? s.ens m) ∧ AnswersLast q.val k x s t ∧ t.mem = s.mem) ∧
  (∀ (q : Fin 256) (e x : Entry) (k : Queue) (d : Ens) (s : State), x = eWithOp e 0x06 → Admits spEnsForm q.val k x s →
    tget? s.ens (eGet x 0x10 0 8) = some d →
    ∃ t, exec (.ensForm q e) s = .next t ∧ t.ens = s.ens ∧ Answers q.val k x Code.E_ENS_BUSY 0 0 s t) ∧
  (∀ (q : Fin 256) (e x : Entry) (k : Queue) (n : Nat) (d : Ens) (s : State), x = eWithOp e 0x07 → Admits spEnsDissolve q.val k x s →
    n = eGet x 0x10 0 8 → tget? s.ens n = some d → s.chans.any (fun c => c.2.st != 0 && c.2.ty != 6 && c.2.ens == n) = false →
    s.ens.any (fun y => y.2.members.contains n) = false →
    ∃ t, exec (.ensDissolve q e) s = .next t ∧ tget? t.ens n = none ∧ (∀ m, m ≠ n → tget? t.ens m = tget? s.ens m) ∧ AnswersLast q.val k x s t ∧ t.mem = s.mem) ∧
  (∀ (q : Fin 256) (e x : Entry) (k : Queue) (d : Ens) (s : State), x = eWithOp e 0x07 → Admits spEnsDissolve q.val k x s →
    tget? s.ens (eGet x 0x10 0 8) = some d → s.chans.any (fun c => c.2.st != 0 && c.2.ty != 6 && c.2.ens == eGet x 0x10 0 8) = true →
    ∃ t, exec (.ensDissolve q e) s = .next t ∧ t.ens = s.ens ∧ Answers q.val k x Code.E_ENS_BUSY 0 0 s t) ∧
  (∀ (q : Fin 256) (e x : Entry) (k : Queue) (pg : Nat) (s : State), x = eWithOp e 0x08 → Admits spRetire q.val k x s → pg = 0x100 + eGet x 0x10 0 7 →
    s.rf pg Reg.PG_STAT_SUSPECT = 1 →
    ∃ t, exec (.retire q e) s = .next t ∧ t.rf pg Reg.PG_STAT_RETIRED = 1 ∧ t.rf pg Reg.PG_STAT_SUSPECT = 0 ∧ AnswersLast q.val k x s t ∧ t.mem = s.mem) ∧
  (∀ (q : Fin 256) (e x : Entry) (k : Queue) (s : State), x = eWithOp e 0x08 → Admits spRetire q.val k x s →
    s.rf (0x100 + eGet x 0x10 0 7) Reg.PG_STAT_SUSPECT = 0 →
    ∃ t, exec (.retire q e) s = .next t ∧ Answers q.val k x Code.E_CMD_INVALID 0 0 s t ∧ t.jobs = s.jobs) ∧
  (∀ (q : Fin 256) (e x : Entry) (k : Queue) (p : Nat) (s : State), x = eWithOp e 0x09 → Admits spReadmit q.val k x s → p = eGet x 0x10 0 7 →
    s.rf (0x100 + p) Reg.PG_STAT_SUSPECT = 1 →
    ∃ t, exec (.readmit q e) s = .next t ∧ t.rf (0x100 + p) Reg.PG_STAT_SUSPECT = 0 ∧
      t.jobs = s.jobs.map (fun j => (j.1, { j.2 with detections := j.2.detections.filter (fun d => d.1 ≠ p) })) ∧ AnswersLast q.val k x s t ∧ t.mem = s.mem) ∧
  (∀ (handle : Word) (i n : Nat) (s : State), s.chanOf handle.toNat = some i → (s.chan i).ty ≠ 6 → (s.chan i).st = 3 → (s.chan i).slot = none →
    s.jobs.any (fun j => j.2.chan == i && j.2.st == .ready) = true → n ∈ s.liveOf (s.chan i).ens → s.slotOwner n = none →
    ∃ t m, exec (.contextSwap handle) s = .next t ∧ m ∈ s.liveOf (s.chan i).ens ∧ s.slotOwner m = none ∧ t.chan i = { s.chan i with slot := some m } ∧
      (∀ j, j ≠ i → t.chan j = s.chan j) ∧ t.jobs = s.jobs ∧ t.mem = s.mem) ∧
  (∀ (handle : Word) (i v n : Nat) (s : State), s.chanOf handle.toNat = some i → (s.chan i).ty ≠ 6 → (s.chan i).st = 3 → (s.chan i).slot = none →
    s.jobs.any (fun j => j.2.chan == i && j.2.st == .ready) = true → (∀ m ∈ s.liveOf (s.chan i).ens, s.slotOwner m ≠ none) →
    s.victim (s.liveOf (s.chan i).ens) = some v → (s.chan v).slot = some n → v ≠ i →
    ∃ t, exec (.contextSwap handle) s = .next t ∧ (t.chan i).slot = some n ∧ (t.chan v).slot = none ∧ (t.chan v).ctxHalf = 1 - (s.chan v).ctxHalf ∧
      (∀ j, j ≠ i → j ≠ v → t.chan j = s.chan j) ∧ t.jobs = s.jobs) ∧
  (∀ (handle : Word) (i : Nat) (s : State), s.chanOf handle.toNat = some i → (s.chan i).ty ≠ 6 → (s.chan i).st = 3 → (s.chan i).slot = none →
    s.jobs.any (fun j => j.2.chan == i && j.2.st == .ready) = true → (∀ m ∈ s.liveOf (s.chan i).ens, s.slotOwner m ≠ none) →
    s.victim (s.liveOf (s.chan i).ens) = none →
    exec (.contextSwap handle) s = .next (bump 0x21 Cnt.HIF_SWAP_DEFERRED 1 s))

/-- CSW_APPLY (R562 to R565, R569), REPAIR (R13, R553), ATTEST (R566, R567), PROMOTE (R595, R596). -/
def Obligations.CountersignedCommandsNeedTheirRecords : Prop :=
  (∀ (q : Fin 256) (e x : Entry) (remote : List Byte) (k : Queue) (r : CswRec) (o m v : Nat) (s : State), x = eWithOp e 0x0C →
    Admits spCswApply q.val k x s → s.recPlace (eGet x 0x18 0 64) (eGet x 0x20 0 64) = true →
    cswCheck (s.record (eGet x 0x18 0 64) (eGet x 0x20 0 64) remote) s = .ok r → r.kind = 1 → r.persist = false → r.items = [.field 0x20 o m v] → o < 4096 →
    partCheck r s = none →
    ∃ t, exec (.cswApply q e remote) s = .next t ∧ Answers q.val k x 0 0 0 s t ∧
      t.reg 0x20 o = (s.reg 0x20 o &&& ~~~(BitVec.ofNat 32 m)) ||| (BitVec.ofNat 32 v &&& BitVec.ofNat 32 m) ∧
      t.count 2 Cnt.SEC_CSW_APPLIED = (s.count 2 Cnt.SEC_CSW_APPLIED + 1) % 2 ^ 64 ∧ t.ids = s.ids ∧ t.mem = s.mem) ∧
  (∀ (q : Fin 256) (e x : Entry) (remote : List Byte) (k : Queue) (r : CswRec) (s : State), x = eWithOp e 0x0C →
    Admits spCswApply q.val k x s → s.recPlace (eGet x 0x18 0 64) (eGet x 0x20 0 64) = true →
    cswCheck (s.record (eGet x 0x18 0 64) (eGet x 0x20 0 64) remote) s = .ok r → r.kind = 2 →
    ∃ t, exec (.cswApply q e remote) s = .next t ∧ Answers q.val k x 0 0 0 s t ∧
      t.ids.policy.cur.keys = r.items.filterMap (fun i => match i with | .key n a b => some ⟨n, a == 1, b⟩ | _ => none) ∧
      t.ids.policy.cur.values = s.ids.policy.cur.values ∧ t.mem = s.mem) ∧
  (∀ (q : Fin 256) (e x : Entry) (remote : List Byte) (k : Queue) (f : CswFail) (s : State), x = eWithOp e 0x0C →
    Admits spCswApply q.val k x s → s.recPlace (eGet x 0x18 0 64) (eGet x 0x20 0 64) = true →
    cswCheck (s.record (eGet x 0x18 0 64) (eGet x 0x20 0 64) remote) s = .error f →
    ∃ t, exec (.cswApply q e remote) s = .next t ∧ Answers q.val k x f.code 0 0 s t ∧ t.ids = s.ids ∧ (∀ o, 0x140 ≤ o → o < 4096 → t.reg 0x20 o = s.reg 0x20 o) ∧
      t.count 2 Cnt.SEC_CSW_FAILED = (s.count 2 Cnt.SEC_CSW_FAILED + 1) % 2 ^ 64 ∧ t.mem = s.mem) ∧
  (∀ (q : Fin 256) (e x : Entry) (remote : List Byte) (k : Queue) (r : CswRec) (p sp : Nat) (s : State), x = eWithOp e 0x0A →
    Admits spRepair q.val k x s → p = eGet x 0x10 0 7 → sp = eGet x 0x11 0 7 → s.recPlace (eGet x 0x18 0 64) (eGet x 0x20 0 64) = true →
    cswCheck (s.record (eGet x 0x18 0 64) (eGet x 0x20 0 64) remote) s = .ok r → r.kind = 3 → r.items = [.repair p sp] → repairOk p sp s = true →
    ∃ t, exec (.repair q e remote) s = .next t ∧ AnswersLast q.val k x s t ∧ t.ids.repairLog.cur = s.ids.repairLog.cur ++ [(p, sp)] ∧
      t.logical sp = s.logical p ∧ t.logical p = 0xFF ∧ t.mem = s.mem) ∧
  (∀ (q : Fin 256) (e x : Entry) (k : Queue) (s : State), x = eWithOp e 0x0D → Admits spAttest q.val k x s →
    s.outPlace (eGet x 0x18 0 64) (eGet x 0x20 0 64) = true → reportLen s ≤ eGet x 0x20 0 64 → isRemote (eGet x 0x18 0 64) = false →
    ∃ t, exec (.attest q e) s = .next t ∧ Answers q.val k x 0 (reportLen s) 0 s t ∧
      t.mem = (s.store (eGet x 0x18 0 64) (reportBody (eBytes x 0x40 32) s ++ s.sign (reportBody (eBytes x 0x40 32) s))).mem ∧ t.ids = s.ids) ∧
  (∀ (q : Fin 256) (e x : Entry) (k : Queue) (s : State), x = eWithOp e 0x0D → Admits spAttest q.val k x s →
    s.outPlace (eGet x 0x18 0 64) (eGet x 0x20 0 64) = true → eGet x 0x20 0 64 < reportLen s →
    ∃ t, exec (.attest q e) s = .next t ∧ Answers q.val k x Code.E_ATTEST_SPACE 0 0 s t ∧ t.mem = s.mem) ∧
  (∀ (q : Fin 256) (e x : Entry) (k : Queue) (s : State), x = eWithOp e 0x0B → Admits spPromote q.val k x s → s.role = 2 →
    (s.pairState = 3 ∨ s.pairState = 4) → eGet x 0x10 0 16 = s.pairEpoch → s.chans = [] →
    ∃ t, exec (.promote q e) s = .next t ∧ t.pairState = 5 ∧ t.points = [] ∧ AnswersLast q.val k x s t ∧
      t.count 0x38 Cnt.PAIR_PROMOTES = (s.count 0x38 Cnt.PAIR_PROMOTES + 1) % 2 ^ 64 ∧ t.mem = s.mem) ∧
  (∀ (q : Fin 256) (e x : Entry) (k : Queue) (s : State), x = eWithOp e 0x0B → Admits spPromote q.val k x s →
    (s.role ≠ 2 ∨ (s.pairState ≠ 3 ∧ s.pairState ≠ 4)) →
    ∃ t, exec (.promote q e) s = .next t ∧ t.pairState = s.pairState ∧ t.points = s.points ∧ t.chans = s.chans ∧ Answers q.val k x Code.E_PAIR_STATE 0 0 s t) ∧
  (∀ (q : Fin 256) (e x : Entry) (k : Queue) (s : State), x = eWithOp e 0x0B → Admits spPromote q.val k x s → s.role = 2 →
    (s.pairState = 3 ∨ s.pairState = 4) → eGet x 0x10 0 16 ≠ s.pairEpoch →
    ∃ t, exec (.promote q e) s = .next t ∧ t.pairState = s.pairState ∧ t.points = s.points ∧ t.chans = s.chans ∧ Answers q.val k x Code.E_PAIR_EPOCH 0 0 s t)

/-- CH_CREATE, CH_PREPARE, CH_START, CH_STOP, CH_DESTROY (R427, R428, R432, R435 to R437, R441, R454, R466). -/
def Obligations.ChannelsAreCreatedStartedStoppedDestroyed : Prop :=
  (∀ (q : Fin 256) (e x : Entry) (k : Queue) (i : Nat) (s : State), x = eWithOp e 0x10 → Admits spChCreate q.val k x s → chCreateCheck x s = 0 →
    i = s.nextIndex → i < 2 ^ 18 → s.devSeq < 2 ^ 32 →
    ∃ t, exec (.chCreate q e) s = .next t ∧
      t.chan i = { gen := (s.chan i).gen, st := 1, ty := eGet x 0x10 0 4, ens := eGet x 0x11 0 8, cq := eGet x 0x12 0 8, settings := eGet x 0x14 0 16,
                   latency := eGet x 0x18 0 32, ctxBase := eGet x 0x20 0 64, xltRoot := eGet x 0x28 0 64, saveBase := eGet x 0x30 0 64, seq := 1 } ∧
      t.nextIndex = i + 1 ∧ t.devSeq = s.devSeq ∧ (∀ j, j ≠ i → t.chan j = s.chan j) ∧
      t.due.getLast? = some { ring := eGet x 0x12 0 8, chan := some i, queue := some q.val,
                              body := { handle := handleOf i (t.chan i), seq := 1, tag := eTag x, r0 := handleOf i (t.chan i) } } ∧ t.mem = s.mem) ∧
  (∀ (q : Fin 256) (e x : Entry) (k : Queue) (s : State), x = eWithOp e 0x10 → Admits spChCreate q.val k x s → s.ensExists (eGet x 0x11 0 8) = false →
    ∃ t, exec (.chCreate q e) s = .next t ∧ t.chans = s.chans ∧ t.nextIndex = s.nextIndex ∧ Answers q.val k x Code.E_ENS_MEMBER 0 0 s t) ∧
  (∀ (q : Fin 256) (e x : Entry) (k : Queue) (i n : Nat) (s : State), x = eWithOp e 0x15 → AdmitsFor spChPrepare q.val k x i s → startCheck i s = (0, 0) →
    (s.chan i).ty ≠ 6 → (s.chan i).slot = none → n ∈ s.liveOf (s.chan i).ens → s.slotOwner n = none →
    ∃ t m, exec (.chPrepare q e) s = .next t ∧ AnswersFor q.val x i 0 0 0 s t ∧ m ∈ s.liveOf (s.chan i).ens ∧ s.slotOwner m = none ∧
      t.chan i = { s.chan i with st := 2, pinned := true, slot := some m, seq := ((s.chan i).seq + 1) % 2 ^ 32 } ∧ (∀ j, j ≠ i → t.chan j = s.chan j) ∧ t.jobs = s.jobs) ∧
  (∀ (q : Fin 256) (e x : Entry) (k : Queue) (i : Nat) (s : State), x = eWithOp e 0x15 → AdmitsFor spChPrepare q.val k x i s →
    (s.chan i).missing false ≠ 0 →
    ∃ t, exec (.chPrepare q e) s = .next t ∧ AnswersFor q.val x i Code.E_CH_STATE ((s.chan i).missing false) 0 s t ∧
      t.chan i = { s.chan i with seq := ((s.chan i).seq + 1) % 2 ^ 32 }) ∧
  (∀ (q : Fin 256) (e x : Entry) (k : Queue) (i : Nat) (s : State), x = eWithOp e 0x16 → AdmitsFor spChStart q.val k x i s → startCheck i s = (0, 0) →
    (s.chan i).page = false → (s.chan i).size = false → (s.chan i).susp = false →
    ∃ t, exec (.chStart q e) s = .next t ∧ AnswersFor q.val x i 0 0 0 s t ∧ (t.chan i).st = 3 ∧ (t.chan i).pinned = false ∧ (t.chan i).codec.started = true ∧
      (t.chan i).codec.total = 0 ∧ (t.chan i).codec.used = 0 ∧ (t.chan i).codec.made = 0 ∧ (t.chan i).codec.head = 0 ∧ (t.chan i).codec.inputs = [] ∧
      (t.chan i).slot = (s.chan i).slot ∧ (∀ j, j ≠ i → t.chan j = s.chan j) ∧ t.jobs = s.jobs ∧ t.mem = s.mem) ∧
  (∀ (q : Fin 256) (e x : Entry) (k : Queue) (i : Nat) (s : State), x = eWithOp e 0x16 → AdmitsFor spChStart q.val k x i s →
    (s.chan i).missing false ≠ 0 →
    ∃ t, exec (.chStart q e) s = .next t ∧ AnswersFor q.val x i Code.E_CH_STATE ((s.chan i).missing false) 0 s t ∧
      t.chan i = { s.chan i with seq := ((s.chan i).seq + 1) % 2 ^ 32 }) ∧
  (∀ (q : Fin 256) (e x : Entry) (k : Queue) (i : Nat) (s : State), x = eWithOp e 0x17 → AdmitsFor spChStop q.val k x i s → (s.chan i).st ≠ 5 →
    s.chanJobs i = [] → s.stores = [] → (s.chan i).endDue = false → (s.chan i).live = none → (s.chan i).stopping = [] → (s.chan i).codec.dec.pic = none →
    s.opens = [] →
    ∃ t, exec (.chStop q e) s = .next t ∧ AnswersFor q.val x i 0 0 0 s t ∧ (t.chan i).st = 1 ∧ (t.chan i).slot = none ∧ (t.chan i).pinned = false ∧
      (t.chan i).page = false ∧ (t.chan i).size = false ∧ (t.chan i).susp = false ∧ (t.chan i).stopping = [] ∧ (t.chan i).codec.started = false ∧
      (∀ j, j ≠ i → t.chan j = s.chan j) ∧ t.jobs = s.jobs) ∧
  (∀ (q : Fin 256) (e x : Entry) (k : Queue) (i : Nat) (s : State), x = eWithOp e 0x17 → AdmitsFor spChStop q.val k x i s → s.chanJobs i ≠ [] →
    ∃ t, exec (.chStop q e) s = .next t ∧ t.due = s.due ∧ (t.chan i).st = (s.chan i).st ∧ (t.chan i).stopping.length = (s.chan i).stopping.length + 1 ∧
      (eGet x 0x10 0 1 = 0 → t.jobs = s.jobs) ∧
      (eGet x 0x10 0 1 = 1 → ∀ id j, tget? s.jobs id = some j → j.chan = i → j.stop = none → tget? t.jobs id = some { j with stop := some Code.E_CANCELLED })) ∧
  (∀ (q : Fin 256) (e x : Entry) (k : Queue) (i : Nat) (s : State), x = eWithOp e 0x11 → AdmitsFor spChDestroy q.val k x i s → s.opens = [] →
    ∃ t, exec (.chDestroy q e) s = .next t ∧ AnswersFor q.val x i 0 0 0 s t ∧ t.chanOf (eHandle x) = none ∧ (t.chan i).st = 0 ∧
      (t.chan i).gen = nextGen (s.chan i).gen ∧ t.freed = s.freed ++ [i] ∧
      t.tlb = s.tlb.filter (fun y => !(y.index == i && y.gen == (s.chan i).gen)) ∧ (∀ j, j ≠ i → t.chan j = s.chan j) ∧ t.mem = s.mem)

/-- CH_SET (R454, R455), STATS_SET (R671), CH_ENSEMBLE (R25, R434, R441), CH_CONTINUE (R476), FORCE_INTRA, CANCEL (R478). -/
def Obligations.ChannelSettingsTakeEffect : Prop :=
  (∀ (q : Fin 256) (e x : Entry) (k : Queue) (i : Nat) (s : State), x = eWithOp e 0x18 → AdmitsFor spChSet q.val k x i s → s.dispatched i = false → s.opens = [] →
    ∃ t, exec (.chSet q e) s = .next t ∧ AnswersFor q.val x i 0 0 0 s t ∧
      t.chan i = { s.chan i with settings := eGet x 0x10 0 16, latency := eGet x 0x14 0 32, seq := ((s.chan i).seq + 1) % 2 ^ 32 } ∧ t.opens = [] ∧
      (∀ j, j ≠ i → t.chan j = s.chan j) ∧ t.jobs = s.jobs ∧ t.mem = s.mem) ∧
  (∀ (q : Fin 256) (e x : Entry) (k : Queue) (i : Nat) (s : State), x = eWithOp e 0x18 → AdmitsFor spChSet q.val k x i s → s.dispatched i = true →
    ∃ t c, exec (.chSet q e) s = .next t ∧ t.due = s.due ∧ t.opens = s.opens ++ [.setNow c (eGet x 0x10 0 16) (eGet x 0x14 0 32)] ∧ c.chan = some i ∧ c.tag = eTag x ∧
      (t.chan i).settings = (s.chan i).settings) ∧
  (∀ (q : Fin 256) (e x : Entry) (k : Queue) (i : Nat) (s : State), x = eWithOp e 0x19 → AdmitsFor spStatsSet q.val k x i s → statBlockOk (eBytes x 0x10 24) = true →
    leAt (eBytes x 0x10 24) 8 8 = 0 →
    ∃ t, exec (.statsSet q e) s = .next t ∧ AnswersFor q.val x i 0 0 0 s t ∧
      t.chan i = { s.chan i with seq := ((s.chan i).seq + 1) % 2 ^ 32, codec := { (s.chan i).codec with statNext := some (eBytes x 0x10 24) } } ∧
      (∀ j, j ≠ i → t.chan j = s.chan j) ∧ t.mem = s.mem) ∧
  (∀ (q : Fin 256) (e x : Entry) (k : Queue) (i : Nat) (s : State), x = eWithOp e 0x19 → AdmitsFor spStatsSet q.val k x i s → statBlockOk (eBytes x 0x10 24) = false →
    ∃ t, exec (.statsSet q e) s = .next t ∧ AnswersFor q.val x i Code.E_CMD_INVALID 0 0 s t ∧ (t.chan i).codec = (s.chan i).codec) ∧
  (∀ (q : Fin 256) (e x : Entry) (k : Queue) (i n : Nat) (s : State), x = eWithOp e 0x1A → AdmitsFor spChEnsemble q.val k x i s → n = eGet x 0x10 0 8 →
    (s.chan i).ty ≠ 6 → s.ensExists n = true → ((s.chan i).pkg = none ∨ s.ensFits n (s.chan i).pkg = true) → (s.chan i).st = 1 →
    ∃ t, exec (.chEnsemble q e) s = .next t ∧ AnswersLastFor q.val x i s t ∧ (t.chan i).ens = n ∧ (t.chan i).st = 1) ∧
  (∀ (q : Fin 256) (e x : Entry) (k : Queue) (i n : Nat) (s : State), x = eWithOp e 0x1A → AdmitsFor spChEnsemble q.val k x i s → n = eGet x 0x10 0 8 →
    (s.chan i).ty ≠ 6 → s.ensExists n = true → ((s.chan i).pkg = none ∨ s.ensFits n (s.chan i).pkg = true) → (s.chan i).st = 4 → (s.chan i).page = false →
    ((s.chan i).size = true ∨ (s.chan i).susp = true) →
    ∃ t, exec (.chEnsemble q e) s = .next t ∧ AnswersLastFor q.val x i s t ∧ (t.chan i).ens = n ∧ (t.chan i).st = 3 ∧ (t.chan i).size = false ∧ (t.chan i).susp = false) ∧
  (∀ (q : Fin 256) (e x : Entry) (k : Queue) (i : Nat) (s : State), x = eWithOp e 0x1A → AdmitsFor spChEnsemble q.val k x i s → (s.chan i).st = 4 →
    (s.chan i).size = false → (s.chan i).susp = false →
    ∃ t, exec (.chEnsemble q e) s = .next t ∧ AnswersFor q.val x i Code.E_CH_STATE 0 0 s t ∧ (t.chan i).ens = (s.chan i).ens) ∧
  (∀ (q : Fin 256) (e x : Entry) (k : Queue) (i : Nat) (s : State), x = eWithOp e 0x1B → AdmitsFor spChContinue q.val k x i s → (s.chan i).susp = true →
    ∃ t, exec (.chContinue q e) s = .next t ∧ AnswersLastFor q.val x i s t ∧ (t.chan i).susp = false ∧ (t.chan i).page = (s.chan i).page ∧
      (t.chan i).size = (s.chan i).size ∧ (t.chan i).st = (if (s.chan i).page || (s.chan i).size then 4 else 3)) ∧
  (∀ (q : Fin 256) (e x : Entry) (k : Queue) (i : Nat) (s : State), x = eWithOp e 0x1B → AdmitsFor spChContinue q.val k x i s → (s.chan i).susp = false →
    ∃ t, exec (.chContinue q e) s = .next t ∧ AnswersFor q.val x i Code.E_CH_STATE 0 0 s t ∧ (t.chan i).st = (s.chan i).st) ∧
  (∀ (q : Fin 256) (e x : Entry) (k : Queue) (i : Nat) (s : State), x = eWithOp e 0x1C → AdmitsFor spForceIntra q.val k x i s →
    ∃ t, exec (.forceIntra q e) s = .next t ∧ AnswersFor q.val x i 0 0 0 s t ∧
      t.chan i = { s.chan i with seq := ((s.chan i).seq + 1) % 2 ^ 32,
                                 codec := { (s.chan i).codec with enc := { (s.chan i).codec.enc with force := true } } } ∧
      (∀ j, j ≠ i → t.chan j = s.chan j) ∧ t.mem = s.mem) ∧
  (∀ (q : Fin 256) (e x : Entry) (k : Queue) (i : Nat) (s : State), x = eWithOp e 0x20 → AdmitsFor spCancel q.val k x i s →
    ∃ t, exec (.cancel q e) s = .next t ∧
      AnswersFor q.val x i 0 (s.jobs.filter (fun j => j.2.chan == i && j.2.stop.isNone && (eGet x 0x14 0 1 == 1 || j.2.seq == eGet x 0x10 0 32))).length 0 s t ∧
      (∀ id j, tget? s.jobs id = some j → j.chan = i → j.stop = none → (eGet x 0x14 0 1 = 1 ∨ j.seq = eGet x 0x10 0 32) →
        tget? t.jobs id = some { j with stop := some Code.E_CANCELLED }) ∧
      (∀ id j, tget? s.jobs id = some j → (j.chan ≠ i ∨ j.stop ≠ none) → tget? t.jobs id = some j) ∧ t.mem = s.mem)

/-- PKG_LOAD, PKG_LOAD_COMPLETE (R148, R149, R669), CH_BIND (R320, R321, R369, R390, R400), CH_IO (R455, R528). -/
def Obligations.ChannelsTakePackagesRecordsAndFlows : Prop :=
  (∀ (q : Fin 256) (e x : Entry) (p : Package) (k : Queue) (i : Nat) (s : State), x = eWithOp e 0x12 → AdmitsFor spPkgLoad q.val k x i s →
    eGet x 0x18 0 64 ≠ 0 → s.firstBad i (eGet x 0x10 0 64) (eGet x 0x18 0 64) false = none → pkgCheck p = 0 →
    chainCheck (pkgEdges i p s ++ bindingEdges i s) s = 0 →
    ∃ t c, exec (.pkgLoad q e p) s = .next t ∧ t.opens = s.opens ++ [.pkgLoad c { p with va := eGet x 0x10 0 64 }] ∧ c.chan = some i ∧ c.tag = eTag x ∧
      c.seq = ((s.chan i).seq + 1) % 2 ^ 32 ∧ t.due = s.due ∧ (t.chan i).pkg = (s.chan i).pkg) ∧
  (∀ (q : Fin 256) (e x : Entry) (p : Package) (k : Queue) (i : Nat) (s : State), x = eWithOp e 0x12 → AdmitsFor spPkgLoad q.val k x i s →
    eGet x 0x18 0 64 ≠ 0 → s.firstBad i (eGet x 0x10 0 64) (eGet x 0x18 0 64) false = none → pkgCheck p ≠ 0 →
    ∃ t, exec (.pkgLoad q e p) s = .next t ∧ t.opens = s.opens ∧ (t.chan i).pkg = (s.chan i).pkg ∧ AnswersFor q.val x i (pkgCheck p) 0 0 s t) ∧
  (∀ (handle : Word) (i : Nat) (c : Ctx) (p : Package) (rest : List OpenCmd) (s : State), s.chanOf handle.toNat = some i → s.opens = .pkgLoad c p :: rest →
    c.chan = some i → c.fwd = none → c.quiet = false → (tget? s.rings c.ring).isSome = true →
    s.jobs.any (fun j => j.2.chan == i) = false →
    ∃ t, exec (.pkgLoadComplete handle) s = .next t ∧ t.opens = rest ∧ (t.chan i).pkg = some p ∧
      t.due = s.due ++ [{ ring := c.ring, chan := some i, queue := some c.queue,
                          body := { handle := c.handle, seq := c.seq, tag := c.tag, r0 := modelId p % 2 ^ 64, r1 := modelId p / 2 ^ 64 } }] ∧
      (∀ j, j ≠ i → t.chan j = s.chan j) ∧ t.jobs = s.jobs ∧ t.mem = s.mem) ∧
  (∀ (handle : Word) (i : Nat) (c : Ctx) (p : Package) (rest : List OpenCmd) (s : State), s.chanOf handle.toNat = some i → s.opens = .pkgLoad c p :: rest →
    c.chan = some i → s.jobs.any (fun j => j.2.chan == i) = true → exec (.pkgLoadComplete handle) s = .next s) ∧
  (∀ (q : Fin 256) (e x : Entry) (k : Queue) (i : Nat) (r h : List Byte) (s : State), x = eWithOp e 0x13 → AdmitsFor spChBind q.val k x i s →
    r = eBytes x 0x10 64 → h = eBytes x 0x50 36 → ((s.chan i).ty ≠ 0 → (s.chan i).ty ≠ 3 → h.all (· == 0) = true) →
    (((s.chan i).ty = 3 ∨ (s.chan i).ty = 4) → zeros r 32 32 = true ∧ (auIo r = 0 → auBase r % 64 = 0)) → bindCheck (s.chan i) r h s = 0 →
    ((s.chan i).pkg = none ∨ s.ensFits (s.chan i).ens (s.chan i).pkg = true) →
    ∃ t, exec (.chBind q e) s = .next t ∧ AnswersFor q.val x i 0 0 0 s t ∧ (t.chan i).bind = some r ∧
      (t.chan i).seqHdr = (if (s.chan i).ty = 0 ∨ (s.chan i).ty = 3 then h else []) ∧
      ((s.chan i).ty = 0 → (t.chan i).codec.enc.a = enInit r ∧ (t.chan i).codec.enc.ql = enQlInit r ∧ (t.chan i).codec.enc.n = 0) ∧
      (t.chan i).st = (s.chan i).st ∧ (∀ j, j ≠ i → t.chan j = s.chan j) ∧ t.mem = s.mem) ∧
  (∀ (q : Fin 256) (e x : Entry) (k : Queue) (i : Nat) (r h : List Byte) (s : State), x = eWithOp e 0x13 → AdmitsFor spChBind q.val k x i s →
    r = eBytes x 0x10 64 → h = eBytes x 0x50 36 → ((s.chan i).ty ≠ 0 → (s.chan i).ty ≠ 3 → h.all (· == 0) = true) →
    (((s.chan i).ty = 3 ∨ (s.chan i).ty = 4) → zeros r 32 32 = true ∧ (auIo r = 0 → auBase r % 64 = 0)) → bindCheck (s.chan i) r h s ≠ 0 →
    ∃ t, exec (.chBind q e) s = .next t ∧ AnswersFor q.val x i (bindCheck (s.chan i) r h s) 0 0 s t ∧ (t.chan i).bind = (s.chan i).bind) ∧
  (∀ (q : Fin 256) (e x : Entry) (k : Queue) (i : Nat) (r h : List Byte) (s : State), x = eWithOp e 0x13 → AdmitsFor spChBind q.val k x i s →
    r = eBytes x 0x10 64 → h = eBytes x 0x50 36 → ((s.chan i).ty ≠ 0 → (s.chan i).ty ≠ 3 → h.all (· == 0) = true) →
    (((s.chan i).ty = 3 ∨ (s.chan i).ty = 4) → zeros r 32 32 = true ∧ (auIo r = 0 → auBase r % 64 = 0)) → bindCheck (s.chan i) r h s = 0 →
    (s.chan i).pkg.isSome = true → s.ensFits (s.chan i).ens (s.chan i).pkg = false →
    ∃ t, exec (.chBind q e) s = .next t ∧ AnswersFor q.val x i Code.E_ENS_MEMBER 0 0 s t ∧ (t.chan i).bind = (s.chan i).bind) ∧
  (∀ (q : Fin 256) (e x : Entry) (k : Queue) (i : Nat) (s : State), x = eWithOp e 0x14 → AdmitsFor spChIo q.val k x i s → (s.chan i).io = none →
    eGet x 0x10 0 8 = 0 → ((s.chan i).ty = 0 ∨ (s.chan i).ty = 2 → eGet x 0x11 0 8 ≠ 0) → ((s.chan i).ty = 1 ∨ (s.chan i).ty = 4 → eGet x 0x11 0 8 = 0) →
    ∃ t, exec (.chIo q e) s = .next t ∧ AnswersFor q.val x i 0 0 0 s t ∧ t.flows = s.flows ∧
      (t.chan i).io = some { inSlots := eGet x 0x11 0 8, inFlow := eGet x 0x12 0 16, outFlow := eGet x 0x14 0 16, inPitch := eGet x 0x18 0 32,
                             outPitch := eGet x 0x1C 0 32, inBase := eGet x 0x20 0 64, inBytes := eGet x 0x28 0 64, outBase := eGet x 0x30 0 64,
                             outBytes := eGet x 0x38 0 64 } ∧ t.mem = s.mem) ∧
  (∀ (q : Fin 256) (e x : Entry) (k : Queue) (i n : Nat) (s : State), x = eWithOp e 0x14 → AdmitsFor spChIo q.val k x i s → (s.chan i).io = none →
    eGet x 0x10 0 8 = 1 → n = eGet x 0x12 0 16 → s.flowOk i n false = true → ((s.chan i).ty = 0 ∨ (s.chan i).ty = 2 → eGet x 0x11 0 8 ≠ 0) →
    ((s.chan i).ty = 1 ∨ (s.chan i).ty = 4 → eGet x 0x11 0 8 = 0) →
    ∃ t y, exec (.chIo q e) s = .next t ∧ AnswersFor q.val x i 0 0 0 s t ∧ (t.flow n).bound = some i ∧ (t.chan i).io = some y ∧ y.inKind = 1 ∧ y.inFlow = n ∧
      (∀ m, m ≠ n → t.flow m = s.flow m) ∧ t.rf (0x4000 + n) Reg.MED_FLOW_CFG_BOUND = 1) ∧
  (∀ (q : Fin 256) (e x : Entry) (k : Queue) (i : Nat) (s : State), x = eWithOp e 0x14 → AdmitsFor spChIo q.val k x i s → eGet x 0x10 0 8 = 1 →
    s.flowOk i (eGet x 0x12 0 16) false = false → ((s.chan i).ty = 0 ∨ (s.chan i).ty = 2 → eGet x 0x11 0 8 ≠ 0) →
    ((s.chan i).ty = 1 ∨ (s.chan i).ty = 4 → eGet x 0x11 0 8 = 0) →
    ∃ t, exec (.chIo q e) s = .next t ∧ AnswersFor q.val x i Code.E_FLOW 0 0 s t ∧ (t.chan i).io = (s.chan i).io ∧ t.flows = s.flows)

/-- STREAM_IN, OUT_HEAD (R455, R458, R459), TENSOR (R457), COMP (R456), RESUME (R223), LIVE_BIND, LIVE_UNBIND (R460). -/
def Obligations.CountsMoveAndWorkStarts : Prop :=
  (∀ (q : Fin 256) (e x : Entry) (k : Queue) (i n : Nat) (s : State), x = eWithOp e 0x1D → AdmitsFor spStreamIn q.val k x i s → eQuiet x = false →
    n = eGet x 0x10 0 64 → ((s.chan i).ty = 0 ∨ (s.chan i).ty = 1 ∨ (s.chan i).ty = 4) → (s.chan i).codec.total ≤ n →
    n ≤ (s.chan i).codec.used + (s.chan i).inCap →
    ∃ t, exec (.streamIn q e) s = .next t ∧ AnswersFor q.val x i 0 0 0 s t ∧ (t.chan i).codec.total = n ∧ (t.chan i).codec.used = (s.chan i).codec.used ∧
      (∀ j, j ≠ i → t.chan j = s.chan j)) ∧
  (∀ (q : Fin 256) (e x : Entry) (k : Queue) (i n : Nat) (s : State), x = eWithOp e 0x1D → AdmitsFor spStreamIn q.val k x i s → eQuiet x = true →
    n = eGet x 0x10 0 64 → ((s.chan i).ty = 0 ∨ (s.chan i).ty = 1 ∨ (s.chan i).ty = 4) → (s.chan i).codec.total ≤ n →
    n ≤ (s.chan i).codec.used + (s.chan i).inCap →
    ∃ t, exec (.streamIn q e) s = .next t ∧ t.due = s.due ∧ (t.chan i).seq = (s.chan i).seq ∧ (t.chan i).codec.total = n ∧
      tget? t.queues q.val = some k) ∧
  (∀ (q : Fin 256) (e x : Entry) (k : Queue) (i n : Nat) (s : State), x = eWithOp e 0x1D → AdmitsFor spStreamIn q.val k x i s → eQuiet x = false →
    n = eGet x 0x10 0 64 → ((s.chan i).ty = 2 ∨ (s.chan i).ty = 3) → s.standby = true → (s.chan i).codec.total ≤ n →
    n ≤ (s.chan i).codec.used + (s.chan i).inCap →
    ∃ t, exec (.streamIn q e) s = .next t ∧ AnswersFor q.val x i 0 0 0 s t ∧ (t.chan i).codec.total = n ∧ t.jobs = s.jobs) ∧
  (∀ (q : Fin 256) (e x : Entry) (k : Queue) (i n : Nat) (s : State), x = eWithOp e 0x1D → AdmitsFor spStreamIn q.val k x i s → eQuiet x = false →
    n = eGet x 0x10 0 64 → (5 ≤ (s.chan i).ty ∨ n < (s.chan i).codec.total ∨ (s.chan i).codec.used + (s.chan i).inCap < n) →
    ∃ t, exec (.streamIn q e) s = .next t ∧ AnswersFor q.val x i Code.E_CMD_INVALID 0 0 s t ∧ (t.chan i).codec = (s.chan i).codec) ∧
  (∀ (q : Fin 256) (e x : Entry) (k : Queue) (i n : Nat) (s : State), x = eWithOp e 0x1E → AdmitsFor spOutHead q.val k x i s → eQuiet x = false →
    n = eGet x 0x10 0 64 → (s.chan i).ty < 5 → (s.chan i).codec.head ≤ n → n ≤ (s.chan i).codec.made → (s.chan i).stopping = [] → (s.chan i).dying = none →
    ∃ t, exec (.outHead q e) s = .next t ∧ AnswersFor q.val x i 0 0 0 s t ∧
      t.chan i = { s.chan i with seq := ((s.chan i).seq + 1) % 2 ^ 32, codec := { (s.chan i).codec with head := n } } ∧
      (∀ j, j ≠ i → t.chan j = s.chan j) ∧ t.mem = s.mem) ∧
  (∀ (q : Fin 256) (e x : Entry) (k : Queue) (i n : Nat) (s : State), x = eWithOp e 0x1E → AdmitsFor spOutHead q.val k x i s → eQuiet x = true →
    n = eGet x 0x10 0 64 → (s.chan i).ty < 5 → (s.chan i).codec.head ≤ n → n ≤ (s.chan i).codec.made → (s.chan i).stopping = [] → (s.chan i).dying = none →
    ∃ t, exec (.outHead q e) s = .next t ∧ t.due = s.due ∧ tget? t.queues q.val = some k ∧
      t.chan i = { s.chan i with codec := { (s.chan i).codec with head := n } }) ∧
  (∀ (q : Fin 256) (e x : Entry) (k : Queue) (i n : Nat) (s : State), x = eWithOp e 0x1E → AdmitsFor spOutHead q.val k x i s → eQuiet x = false →
    n = eGet x 0x10 0 64 → (5 ≤ (s.chan i).ty ∨ n < (s.chan i).codec.head ∨ (s.chan i).codec.made < n) →
    ∃ t, exec (.outHead q e) s = .next t ∧ AnswersFor q.val x i Code.E_CMD_INVALID 0 0 s t ∧ (t.chan i).codec = (s.chan i).codec) ∧
  (∀ (q : Fin 256) (e x : Entry) (k : Queue) (i : Nat) (s : State), x = eWithOp e 0x21 → AdmitsFor spTensor q.val k x i s → (s.chan i).admits = true →
    (eWindow x = true → geomCheck (eBytes x 0x10 32) = 0) →
    ∃ t j c, exec (.tensor q e) s = .next t ∧ tget? t.jobs s.nextJob = some j ∧ t.nextJob = s.nextJob + 1 ∧ t.due = s.due ∧
      j.chan = i ∧ j.seq = ((s.chan i).seq + 1) % 2 ^ 32 ∧ j.cmd = some c ∧ c.tag = eTag x ∧ j.work = .tensor ∧ j.role = 6 ∧ j.block = eBytes x 0x10 112 ∧
      j.pkg = (s.chan i).pkg ∧ j.st = .ready ∧ (∀ n, n ≠ s.nextJob → tget? t.jobs n = tget? s.jobs n) ∧ t.mem = s.mem) ∧
  (∀ (q : Fin 256) (e x : Entry) (k : Queue) (i : Nat) (s : State), x = eWithOp e 0x21 → AdmitsFor spTensor q.val k x i s → (s.chan i).admits = true →
    eWindow x = true → geomCheck (eBytes x 0x10 32) ≠ 0 →
    ∃ t, exec (.tensor q e) s = .next t ∧ AnswersFor q.val x i (geomCheck (eBytes x 0x10 32)) 0 0 s t ∧ t.jobs = s.jobs) ∧
  (∀ (q : Fin 256) (e x : Entry) (k : Queue) (i : Nat) (a : CompArgs) (s : State), x = eWithOp e 0x22 → AdmitsFor spComp q.val k x i s →
    a = { op := eGet x 0x10 0 1, mode := eGet x 0x11 0 8, elem := eGet x 0x12 0 4, width := eGet x 0x14 0 16, count := eGet x 0x18 0 32,
          src := eGet x 0x20 0 64, srcLen := eGet x 0x28 0 64, dst := eGet x 0x30 0 64, dstLen := eGet x 0x38 0 64 } →
    (s.chan i).admits = true → a.count ≠ 0 → (a.op = 0 → 1 ≤ a.mode ∧ a.mode ≤ 4 ∧ a.elem ≤ 3 ∧ (a.mode = 1 ↔ a.elem = 0) ∧
      compSizes a.mode a.width a.count a.srcLen = true) →
    ∃ t j c, exec (.comp q e) s = .next t ∧ tget? t.jobs s.nextJob = some j ∧ t.nextJob = s.nextJob + 1 ∧ t.due = s.due ∧
      j.chan = i ∧ j.seq = ((s.chan i).seq + 1) % 2 ^ 32 ∧ j.cmd = some c ∧ c.tag = eTag x ∧ j.work = .comp a ∧ j.st = .ready ∧
      (∀ n, n ≠ s.nextJob → tget? t.jobs n = tget? s.jobs n) ∧ t.mem = s.mem) ∧
  (∀ (q : Fin 256) (e x : Entry) (k : Queue) (i n m : Nat) (y : Stream) (s : State), x = eWithOp e 0x1F → AdmitsFor spResume q.val k x i s →
    (s.chan i).page = true → n = eGet x 0x10 0 32 → m = slotKey (n % 256) (bits n 8 3) → tget? s.streams m = some y → y.st = 5 → y.chan = i →
    y.haltSeq = n / 65536 → bits n 11 5 = 0 → y.desc ≠ [] → (∃ a, s.walk i y.haltVa y.haltWrite = .ok a) →
    ∃ t, exec (.resume q e) s = .next t ∧ tget? t.streams m = some { y with st := 2, fetch := none } ∧ AnswersFor q.val x i 0 0 0 s t ∧
      t.count 0x21 Cnt.HIF_RESUMES = (s.count 0x21 Cnt.HIF_RESUMES + 1) % 2 ^ 64 ∧ t.mem = s.mem) ∧
  (∀ (q : Fin 256) (e x : Entry) (k : Queue) (i n : Nat) (s : State), x = eWithOp e 0x1F → AdmitsFor spResume q.val k x i s → (s.chan i).page = true →
    n = eGet x 0x10 0 32 → tget? s.streams (slotKey (n % 256) (bits n 8 3)) = none →
    ∃ t, exec (.resume q e) s = .next t ∧ AnswersFor q.val x i Code.E_RESUME_STALE 0 0 s t ∧ t.streams = s.streams) ∧
  (∀ (q : Fin 256) (e x : Entry) (remote : List Byte) (k : Queue) (i : Nat) (l : Live) (s : State), x = eWithOp e 0x23 → AdmitsFor spLiveBind q.val k x i s →
    l = liveOf x i s → l.enh = none → l.aud = none → eGet x 0x28 0 64 = 0 → liveCheck x l s = (0, 0) →
    chainCheck (match (s.chan i).pkg with | some p => pkgEdges i p s | none => []) s = 0 →
    startCheck i (modChan i (fun y => { y with io := some (l.io i y.io) }) s) = (0, 0) →
    (s.chan i).page = false → (s.chan i).size = false → (s.chan i).susp = false →
    ∃ t, exec (.liveBind q e remote) s = .next t ∧ AnswersFor q.val x i 0 0 0 s t ∧ tget? t.lives i = some l ∧ (t.chan i).live = some i ∧ (t.chan i).st = 3 ∧
      t.count 0x21 Cnt.HIF_LIVE_BINDS = (s.count 0x21 Cnt.HIF_LIVE_BINDS + 1) % 2 ^ 64 ∧ (t.chan i).io = some (l.io i (s.chan i).io) ∧ t.jobs = s.jobs) ∧
  (∀ (q : Fin 256) (e x : Entry) (remote : List Byte) (k : Queue) (i : Nat) (s : State), x = eWithOp e 0x23 → AdmitsFor spLiveBind q.val k x i s →
    (liveCheck x (liveOf x i s) s).1 ≠ 0 →
    ∃ t, exec (.liveBind q e remote) s = .next t ∧ AnswersFor q.val x i (liveCheck x (liveOf x i s) s).1 (liveCheck x (liveOf x i s) s).2 0 s t ∧
      t.lives = s.lives ∧ (t.chan i).live = (s.chan i).live) ∧
  (∀ (q : Fin 256) (e x : Entry) (k : Queue) (i n : Nat) (s : State), x = eWithOp e 0x24 → AdmitsFor spLiveUnbind q.val k x i s → (s.chan i).live = some n →
    s.partners i = [] → s.chanJobs i ≠ [] →
    ∃ t c, exec (.liveUnbind q e) s = .next t ∧ t.opens = s.opens ++ [.unbind c [i]] ∧ c.tag = eTag x ∧ t.due = s.due ∧
      (t.chan i).stopping = (s.chan i).stopping ++ [(none, eGet x 0x10 0 1 == 1)] ∧ (t.chan i).st = (s.chan i).st) ∧
  (∀ (q : Fin 256) (e x : Entry) (k : Queue) (i : Nat) (s : State), x = eWithOp e 0x24 → AdmitsFor spLiveUnbind q.val k x i s → (s.chan i).live = none →
    ∃ t, exec (.liveUnbind q e) s = .next t ∧ AnswersFor q.val x i Code.E_CH_STATE 0 0 s t ∧ t.opens = s.opens)

/-- RECORD_POST, COMPLETION_WORD_WRITE, COMPLETION_WRITE_FAIL (R465, R467, R468, R470, R481). -/
def Obligations.RecordsAreWrittenInTwoSteps : Prop :=
  (∀ (r : Fin 256) (k : Ring) (d : Due) (rest : List Due) (s : State), tget? s.rings r.val = some k → k.failed = false → k.cur = none →
    s.ringRoom r.val k = true → s.refusing 8 = false → s.due = d :: rest → d.ring = r.val → d.chan = none → (s.winOk 0 (k.base + 64 * (k.w % 2 ^ k.log2n)) 64).2 = true →
    (s.qp (s.winTarget (k.base + 64 * (k.w % 2 ^ k.log2n))).1).st = 1 →
    ∃ t z, exec (.recordPost r) s = .next t ∧ t.due = rest ∧ tget? t.rings r.val = some { k with cur := some (d, s.time, false) } ∧
      (t.qp (s.winTarget (k.base + 64 * (k.w % 2 ^ k.log2n))).1).out = (s.qp (s.winTarget (k.base + 64 * (k.w % 2 ^ k.log2n))).1).out ++ [z] ∧ z.owner = .ringBody r.val ∧
      z.msg = .rdmaWrite (s.winTarget (k.base + 64 * (k.w % 2 ^ k.log2n))).1 (s.winTarget (k.base + 64 * (k.w % 2 ^ k.log2n))).2.1
        (s.winTarget (k.base + 64 * (k.w % 2 ^ k.log2n))).2.2 (recBytes d.body s.time) ∧ (∀ m, m ≠ r.val → tget? t.rings m = tget? s.rings m)) ∧
  (∀ (r : Fin 256) (k : Ring) (s : State), tget? s.rings r.val = some k → (k.failed = true ∨ s.ringRoom r.val k = false) →
    ∃ t, exec (.recordPost r) s = .next t ∧ t.due = s.due.map (fun d => if d.ring = r.val then { d with held := true } else d) ∧ t.rings = s.rings ∧
      t.count 0x21 Cnt.HIF_HELD_RECORDS =
        (s.count 0x21 Cnt.HIF_HELD_RECORDS + (s.due.filter (fun d => d.ring == r.val && !d.held)).length) % 2 ^ 64 ∧ Only [.ctr, .due] s t) ∧
  (∀ (r : Fin 256) (k : Ring) (s : State), tget? s.rings r.val = some k → k.failed = false → s.ringRoom r.val k = true →
    (k.cur ≠ none ∨ s.refusing 8 = true) → exec (.recordPost r) s = .next s) ∧
  (∀ (r : Fin 256) (k : Ring) (d : Due) (i n : Nat) (u : Bool) (s : State), tget? s.rings r.val = some k → k.failed = false → k.broken = false → s.refusing 8 = false →
    k.cur = some (d, n, true) → d.chan = some i →
    d.event = u → (s.winOk 0 (k.base + 64 * (k.w % 2 ^ k.log2n) + 0x3C) 4).2 = true →
    (s.qp (s.winTarget (k.base + 64 * (k.w % 2 ^ k.log2n) + 0x3C)).1).st = 1 →
    ∃ t, exec (.completionWordWrite r) s = .next t ∧ tget? t.rings r.val = some { k with cur := none, w := k.w + 1 } ∧
      t.rf 0x22 (Reg.HQD_CQH_WRITTEN.nth 4 r.val) = (k.w + 1) % 2 ^ 16 ∧ (u = false → (t.chan i).posted = d.body.seq ∧ (t.chan i).last = d.body.seq) ∧
      (u = true → t.chan i = s.chan i) ∧ t.due = s.due) ∧
  (∀ (r : Fin 256) (k : Ring) (d : Due) (n : Nat) (s : State), tget? s.rings r.val = some k → k.cur = some (d, n, false) →
    exec (.completionWordWrite r) s = .next s) ∧
  (∀ (r : Fin 256) (k : Ring) (s : State), tget? s.rings r.val = some k → k.broken = true → k.failed = false → s.rf 0x21 Reg.HIF_QERR_VALID = 0 →
    ∃ t, exec (.completionWriteFail r) s = .next t ∧ tget? t.rings r.val = some { k with failed := true, broken := false } ∧
      t.rf 0x21 Reg.HIF_QERR_VALID = 1 ∧ t.rf 0x21 Reg.HIF_QERR_NUMBER = r.val ∧ t.rf 0x21 Reg.HIF_QERR_RING = 1 ∧ t.rf 0x21 Reg.HIF_QERR_KIND = 2 ∧
      t.due = s.due ∧ Only [.regs, .rings] s t) ∧
  (∀ (r : Fin 256) (k : Ring) (s : State), tget? s.rings r.val = some k → k.broken = true → k.failed = false → s.rf 0x21 Reg.HIF_QERR_VALID = 1 →
    exec (.completionWriteFail r) s = .next { s with rings := tput s.rings r.val { k with failed := true, broken := false } })

/-- XLT_INVALIDATE, XLT_INVAL_DONE (R500), XLT_WALK (R493 to R498), FETCH_START, FETCH_COMPLETE (R502 to R505). -/
def Obligations.TranslationsAreCachedDroppedAndFetched : Prop :=
  (∀ (sc va h : Nat) (s : State), s.inval = some (sc, va, h) → s.inFlight (h % 2 ^ 18) = true → exec .xltInvalDone s = .next s) ∧
  (∀ (sc va h : Nat) (s : State), s.inval = some (sc, va, h) → s.inFlight (h % 2 ^ 18) = false →
    ∃ t, exec .xltInvalDone s = .next t ∧ t.inval = none ∧
      t.tlb = s.tlb.filter (fun y => !(y.index == h % 2 ^ 18 && y.gen == h / 2 ^ 18 && (sc == 1 || y.vpage / 32 == va / 2 ^ 21))) ∧
      t.rf 0x20 Reg.XLT_INVAL_CTRL_BUSY = 0 ∧ t.count 0x20 Cnt.XLT_INVALS = (s.count 0x20 Cnt.XLT_INVALS + 1) % 2 ^ 64 ∧
      Only [.regs, .ctr, .tlb, .inval] s t) ∧
  (∀ s : State, s.inval = none → exec .xltInvalDone s = .next s) ∧
  (∀ (w : Word) (s : State), s.hostUp = true → bits w.toNat 1 1 = 1 → s.inval = none →
    ∃ t, exec (.xltInvalidate w) s = .next t ∧
      t.inval = some (bits w.toNat 0 1, s.rf 0x20 Reg.XLT_INVAL_VA_LO_VA + s.rf 0x20 Reg.XLT_INVAL_VA_HI_VA * 2 ^ 32, s.rf 0x20 Reg.XLT_INVAL_HANDLE_HANDLE) ∧
      t.rf 0x20 Reg.XLT_INVAL_CTRL_BUSY = 1 ∧ t.tlb = s.tlb ∧ Only [.regs, .ctr, .inval] s t) ∧
  (∀ (w : Word) (s : State), s.hostUp = true → s.inval ≠ none → ∃ t, exec (.xltInvalidate w) s = .next t ∧ t.inval = s.inval ∧ t.tlb = s.tlb) ∧
  (∀ (handle : Word) (va : Dword) (write halts : Bool) (job : Option Nat) (i a : Nat) (s : State), s.chanOf handle.toNat = some i →
    s.tlb.any (fun t => t.index == i && t.gen == (s.chan i).gen && t.vpage == va.toNat / 2 ^ 16) = true → va.toNat < 2 ^ 48 →
    s.access i va.toNat write = .ok a →
    exec (.xltWalk handle va write halts job) s = .next (bump 0x20 Cnt.XLT_HITS 1 (bump 0x20 Cnt.XLT_LOOKUPS 1 s))) ∧
  (∀ (handle : Word) (va : Dword) (write halts : Bool) (job : Option Nat) (i a : Nat) (s : State), s.chanOf handle.toNat = some i →
    s.tlb.any (fun t => t.index == i && t.gen == (s.chan i).gen && t.vpage == va.toNat / 2 ^ 16) = false → s.access i va.toNat write = .ok a →
    ∃ t, exec (.xltWalk handle va write halts job) s = .next t ∧ t.count 0x20 Cnt.XLT_LOOKUPS = (s.count 0x20 Cnt.XLT_LOOKUPS + 1) % 2 ^ 64 ∧
      t.count 0x20 Cnt.XLT_WALKS = (s.count 0x20 Cnt.XLT_WALKS + 1) % 2 ^ 64 ∧ t.count 0x20 Cnt.XLT_HITS = s.count 0x20 Cnt.XLT_HITS ∧
      (∀ b, s.walk i va.toNat false = .ok b → ∃ w level,
        t.tlb = ({ index := i, gen := (s.chan i).gen, vpage := va.toNat / 2 ^ 16, base := b - va.toNat % 2 ^ 16, w, level } :: s.tlb).take 4096) ∧
      Only [.ctr, .tlb] s t) ∧
  (∀ (id : Nat) (f : Fetch) (rest : Tbl Fetch) (e : Nat) (s : State), s.fetches = (id, f) :: rest → f.started = false → rest.all (fun x => !x.2.started) = true →
    e = s.load f.entry 8 → fetchable e = true → s.load (f.entry + 256) 8 % 65536 = 0 → s.inPart (s.chanPart f.chan) (s.load (f.entry + 256) 8) 65536 = true →
    (s.winOk (s.chanPart f.chan) (entryAddr e) 65536).1 = true → (s.qp (s.winTarget (entryAddr e)).1).st = 1 → s.refusing 8 = false →
    ∃ t z, exec .fetchStart s = .next t ∧ tget? t.fetches id = some { f with started := true, value := e, dest := s.load (f.entry + 256) 8 } ∧
      (t.qp (s.winTarget (entryAddr e)).1).out = (s.qp (s.winTarget (entryAddr e)).1).out ++
        [z] ∧ z.msg = .rdmaRead (s.winTarget (entryAddr e)).1 (s.winTarget (entryAddr e)).2.1 (s.winTarget (entryAddr e)).2.2 65536 ∧ z.owner = .fetch id ∧
      t.count 0x20 Cnt.XLT_REMOTE_BYTES = (s.count 0x20 Cnt.XLT_REMOTE_BYTES + 65536) % 2 ^ 64 ∧ t.mem = s.mem) ∧
  (∀ (id : Nat) (f : Fetch) (rest : Tbl Fetch) (s : State), s.fetches = (id, f) :: rest → f.started = false →
    8 ≤ (s.fetches.filter (fun x => x.2.started)).length → exec .fetchStart s = .next s) ∧
  (∀ (id : Nat) (f : Fetch) (b : List Byte) (s : State), tget? s.fetches id = some f → f.failCode = 0 → f.data = some b → s.load f.entry 8 = f.value →
    s.streams.all (fun y => y.2.fetch != some id) = true →
    ∃ t, exec (.fetchComplete id) s = .next t ∧ t.mem = ((s.store f.dest (b.take 65536)).store f.entry (leBytes 8 (f.dest + 3))).mem ∧ tget? t.fetches id = none ∧
      t.count 0x20 Cnt.XLT_FETCHES = (s.count 0x20 Cnt.XLT_FETCHES + 1) % 2 ^ 64 ∧ t.streams = s.streams ∧ Only [.ctr, .mem, .fetches] s t) ∧
  (∀ (id : Nat) (f : Fetch) (b : List Byte) (s : State), tget? s.fetches id = some f → f.failCode = 0 → f.data = some b → s.load f.entry 8 ≠ f.value →
    s.streams.all (fun y => y.2.fetch != some id) = true →
    ∃ t, exec (.fetchComplete id) s = .next t ∧ t.mem = s.mem ∧ tget? t.fetches id = none ∧
      t.count 0x20 Cnt.XLT_FETCH_RACES = (s.count 0x20 Cnt.XLT_FETCH_RACES + 1) % 2 ^ 64 ∧ Only [.ctr, .fetches] s t) ∧
  (∀ (id : Nat) (s : State), tget? s.fetches id = none → exec (.fetchComplete id) s = .next s)

/-- CTR_SAMPLE_GO, CTR_SAMPLE_DONE (R601, R604 to R608). -/
def Obligations.SamplesHoldTheCountsOfAnInterval : Prop :=
  (∀ (w : Word) (s : State), s.hostUp = true → bits w.toNat 31 1 = 1 → s.sample = none →
    ∃ t, exec (.ctrSampleGo w) s = .next t ∧
      t.sample = some (bits w.toNat 0 10, bits w.toNat 10 1, (tget s.banks {} (bits w.toNat 0 10)).swaps) ∧
      t.rf 0x36 Reg.CTR_STAT_VALID = 0 ∧ t.rf 0x36 Reg.CTR_STAT_BUSY = 1 ∧ t.rf 0x36 Reg.CTR_SAMPLE_PAGE = bits w.toNat 0 10 ∧
      (∀ i, i < 48 → t.reg 0x36 (0x200 + 4 * i) = 0) ∧ Only [.regs, .ctr, .sample] s t) ∧
  (∀ (w : Word) (s : State), s.hostUp = true → bits w.toNat 31 1 = 1 → s.sample ≠ none →
    ∃ t, exec (.ctrSampleGo w) s = .next t ∧ t.sample = s.sample ∧ t.count 0x36 Cnt.CTR_GO_IGNORED = (s.count 0x36 Cnt.CTR_GO_IGNORED + 1) % 2 ^ 64 ∧
      (∀ i, i < 48 → t.reg 0x36 (0x200 + 4 * i) = s.reg 0x36 (0x200 + 4 * i)) ∧ Only [.regs, .ctr, .pins] s t) ∧
  (∀ (w : Word) (s : State), s.hostUp = true → bits w.toNat 31 1 = 0 →
    ∃ t, exec (.ctrSampleGo w) s = .next t ∧ t.rf 0x36 Reg.CTR_SAMPLE_PAGE = bits w.toNat 0 10 ∧ t.sample = s.sample ∧ Only [.regs, .ctr] s t) ∧
  (∀ (coin : Bool) (page mode n : Nat) (b : Bank) (vals : List Nat) (s : State), s.sample = some (page, mode, n) → (pageBlk page).isSome = true →
    s.rf page Reg.PG_STAT_POWERED_DOWN = 0 → b = tget s.banks {} page → b.swaps ≠ 0 →
    vals = (if mode = 0 then since b.cEnd b.cBase else since (s.counters page) []) →
    ∃ t, exec (.ctrSampleDone coin) s = .next t ∧ t.sample = none ∧ t.rf 0x36 Reg.CTR_STAT_VALID = 1 ∧ t.rf 0x36 Reg.CTR_STAT_BUSY = 0 ∧
      t.rf 0x36 Reg.CTR_STAT_ABSENT = 0 ∧ t.rf 0x36 Reg.CTR_STAT_COINCIDENT = bit (coin && decide (n < b.swaps)) ∧
      (∀ i, i < 24 → t.reg 0x36 (0x200 + 8 * i) = BitVec.ofNat 32 (vals.getD i 0) ∧ t.reg 0x36 (0x204 + 8 * i) = BitVec.ofNat 32 (vals.getD i 0 / 2 ^ 32)) ∧
      t.reg 0x36 0x108 = BitVec.ofNat 32 (if mode = 0 then b.cHandle else b.handle) ∧ t.reg 0x36 0x10C = BitVec.ofNat 32 (if mode = 0 then b.cSeq else b.seq) ∧
      Only [.regs, .ctr, .sample] s t) ∧
  (∀ (coin : Bool) (page mode n : Nat) (s : State), s.sample = some (page, mode, n) →
    ((pageBlk page).isNone = true ∨ s.rf page Reg.PG_STAT_POWERED_DOWN = 1 ∨ (tget s.banks {} page).swaps = 0) →
    ∃ t, exec (.ctrSampleDone coin) s = .next t ∧ t.sample = none ∧ t.rf 0x36 Reg.CTR_STAT_VALID = 1 ∧ t.rf 0x36 Reg.CTR_STAT_BUSY = 0 ∧
      t.rf 0x36 Reg.CTR_STAT_ABSENT = 1 ∧ t.rf 0x36 Reg.CTR_STAT_COINCIDENT = 0 ∧ (∀ i, i < 48 → t.reg 0x36 (0x200 + 4 * i) = 0) ∧ Only [.regs, .ctr, .sample] s t) ∧
  (∀ (coin : Bool) (s : State), s.sample = none → exec (.ctrSampleDone coin) s = .next s)

/-- TRC_ENABLE (R619), TRC_ARM, TRC_NOW (R620, R621), TRACE_DRAIN (R615 to R617), TRACE_SYNC_PERIOD (R613). -/
def Obligations.TraceFollowsItsRegisters : Prop :=
  (∀ (p : Fin 68) (w : Word) (base n : Nat) (s : State), s.hostUp = true → base = s.rf (0x1000 + p.val) Reg.TRC_RING_LO_BASE + s.rf (0x1000 + p.val) Reg.TRC_RING_HI_BASE * 2 ^ 32 →
    n = s.rf (0x1000 + p.val) Reg.TRC_RING_HI_LOG2 → 16 ≤ n → n ≤ 30 → base % 2 ^ n = 0 → s.inPart 0 base (2 ^ n) = true →
    s.rf (0x1000 + p.val) Reg.TRC_CFG_ENABLE = 0 → s.startedThreads p.val = [] →
    ∃ t, exec (.trcEnable p w) s = .next t ∧ t.reg (0x1000 + p.val) 0x104 = (w ||| 1) &&& 0xFFFF ∧ t.trc p.val = {} ∧
      t.reg (0x1000 + p.val) 0x110 = 0 ∧ t.reg (0x1000 + p.val) 0x114 = 0 ∧ t.reg (0x1000 + p.val) 0x120 = 0 ∧ Only [.regs, .ctr, .traces] s t) ∧
  (∀ (p : Fin 68) (w : Word) (base n : Nat) (s : State), s.hostUp = true → base = s.rf (0x1000 + p.val) Reg.TRC_RING_LO_BASE + s.rf (0x1000 + p.val) Reg.TRC_RING_HI_BASE * 2 ^ 32 →
    n = s.rf (0x1000 + p.val) Reg.TRC_RING_HI_LOG2 → (n < 16 ∨ 30 < n ∨ base % 2 ^ n ≠ 0 ∨ s.inPart 0 base (2 ^ n) = false) →
    exec (.trcEnable p w) s = .next (record 0x37 Code.E_TRC_RING (wrote 1 s))) ∧
  (∀ (p : Fin 68) (w : Word) (s : State), s.hostUp = true → bits (w ||| 1).toNat 4 1 = 0 →
    ∃ t, exec (.trcArm p w) s = .next t ∧ t.rf (0x1000 + p.val) Reg.TRC_TRIG_TRIG_STATE = 1 ∧ t.trc p.val = {} ∧
      t.reg (0x1000 + p.val) 0x110 = 0 ∧ t.reg (0x1000 + p.val) 0x114 = 0 ∧ Only [.regs, .ctr, .traces] s t) ∧
  (∀ (p : Fin 68) (w : Word) (s : State), s.hostUp = true → bits (w ||| 1).toNat 4 1 = 1 →
    ∃ t, exec (.trcArm p w) s = .next t ∧ (t.trc p.val).job = (s.ply p.val).job ∧
      t.rf (0x1000 + p.val) Reg.TRC_TRIG_TRIG_STATE = (if t.rf (0x1000 + p.val) Reg.TRC_TRIG_POST = 0 then 3 else 2)) ∧
  (∀ (p : Fin 68) (w : Word) (s : State), s.hostUp = true → bits (w ||| 16).toNat 0 1 = 0 → s.rf (0x1000 + p.val) Reg.TRC_TRIG_TRIG_STATE = 1 →
    ∃ t, exec (.trcNow p w) s = .next t ∧ (t.trc p.val).job = (s.ply p.val).job ∧
      t.rf (0x1000 + p.val) Reg.TRC_TRIG_TRIG_STATE = (if t.rf (0x1000 + p.val) Reg.TRC_TRIG_POST = 0 then 3 else 2)) ∧
  (∀ (p : Fin 68) (w : Word) (s : State), s.hostUp = true → bits (w ||| 16).toNat 0 1 = 0 → s.rf (0x1000 + p.val) Reg.TRC_TRIG_TRIG_STATE ≠ 1 →
    ∃ t, exec (.trcNow p w) s = .next t ∧ t.traces = s.traces ∧ t.rf (0x1000 + p.val) Reg.TRC_TRIG_TRIG_STATE = s.rf (0x1000 + p.val) Reg.TRC_TRIG_TRIG_STATE ∧
      Only [.regs, .ctr] s t) ∧
  (∀ (p : Fin 68) (x : Packet) (l : List Packet) (pg n wr base : Nat) (s : State), pg = 0x1000 + p.val → (s.trc p.val).buf = x :: l → (s.trc p.val).lostSince = 0 →
    s.rf pg Reg.TRC_CFG_ENABLE = 1 → (s.rf pg Reg.TRC_CFG_DRAIN = 1 ∨ s.rf pg Reg.TRC_TRIG_TRIG_STATE = 3) → n = s.rf pg Reg.TRC_RING_HI_LOG2 →
    wr = s.rf pg Reg.TRC_WR_WR → ahead 32 wr (s.rf pg Reg.TRC_RD_RD) < 2 ^ (n - 4) →
    base = s.rf pg Reg.TRC_RING_LO_BASE + s.rf pg Reg.TRC_RING_HI_BASE * 2 ^ 32 →
    ∃ t, exec (.traceDrain p) s = .next t ∧ t.mem = (s.store (base + 16 * (wr % 2 ^ (n - 4))) (packetBytes x)).mem ∧ (t.trc p.val).buf = l ∧
      t.rf pg Reg.TRC_WR_WR = (wr + 1) % 2 ^ 32 ∧ t.count 0x37 Cnt.TRC_DRAIN_BYTES = (s.count 0x37 Cnt.TRC_DRAIN_BYTES + 16) % 2 ^ 64 ∧
      Only [.regs, .ctr, .mem, .traces] s t) ∧
  (∀ (p : Fin 68) (s : State), ((s.trc p.val).buf = [] ∨ s.rf (0x1000 + p.val) Reg.TRC_CFG_ENABLE = 0 ∨
    2 ^ (s.rf (0x1000 + p.val) Reg.TRC_RING_HI_LOG2 - 4) ≤ ahead 32 (s.rf (0x1000 + p.val) Reg.TRC_WR_WR) (s.rf (0x1000 + p.val) Reg.TRC_RD_RD)) →
    exec (.traceDrain p) s = .next s) ∧
  (∀ (p : Fin 68) (n : Nat) (s : State), s.rf (0x1000 + p.val) Reg.TRC_CFG_TS_EXP ≠ 0 → (s.ply p.val).st = 2 → s.startedThreads p.val = [n] → s.traced p.val n = true →
    (((s.trc p.val).nextSync + 1) * 2 ^ s.rf (0x1000 + p.val) Reg.TRC_CFG_TS_EXP) * 2 ≤ (s.time - (s.ply p.val).started) * 3 →
    ((s.trc p.val).bits.getD n (0, 0)).1 = 0 → s.rf (0x1000 + p.val) Reg.TRC_TRIG_TRIG_STATE < 2 → (s.trc p.val).buf.length < 4096 →
    ∃ t, exec (.traceSyncPeriod p) s = .next t ∧
      t.trc p.val = { s.trc p.val with nextSync := (s.trc p.val).nextSync + 1,
                                       buf := (s.trc p.val).buf ++ [.sync n ((s.thread p.val n).pc % 2 ^ 32) s.time] } ∧ Only [.ctr, .traces] s t) ∧
  (∀ (p : Fin 68) (s : State), (s.rf (0x1000 + p.val) Reg.TRC_CFG_TS_EXP = 0 ∨ (s.ply p.val).st ≠ 2) → exec (.traceSyncPeriod p) s = .next s)

/-- DBG_HALT, DBG_RESUME, DBG_STEP (R622), DBG_DATA_WRITE (R624), R625. -/
def Obligations.DebuggerNeedsTheUnlock : Prop :=
  (∀ (p : Fin 68) (t : Fin 8) (s : State), s.hostUp = true → s.unlocked p.val = false →
    exec (.dbgHalt p t) s = .next (record 0x37 Code.E_DBG_LOCKED (wrote 1 s)) ∧ exec (.dbgResume p t) s = .next (record 0x37 Code.E_DBG_LOCKED (wrote 1 s)) ∧
    exec (.dbgStep p t) s = .next (record 0x37 Code.E_DBG_LOCKED (wrote 1 s))) ∧
  (∀ (p : Fin 68) (t : Fin 8) (s : State), s.hostUp = true → s.unlocked p.val = true → (s.thread p.val t.val).st ≠ 0 → (s.thread p.val t.val).st ≠ 6 → (s.thread p.val t.val).st ≠ 9 →
    ∃ u, exec (.dbgHalt p t) s = .next u ∧ u.thread p.val t.val = { s.thread p.val t.val with st := 9, held := (s.thread p.val t.val).st, stepping := false } ∧
      (∀ m n, m ≠ p.val ∨ n ≠ t.val → u.thread m n = s.thread m n) ∧ u.count 0x37 Cnt.TRC_DBG_HALTS = (s.count 0x37 Cnt.TRC_DBG_HALTS + 1) % 2 ^ 64 ∧
      Only [.regs, .ctr, .traces, .jobs, .players] s u) ∧
  (∀ (p : Fin 68) (t : Fin 8) (s : State), s.hostUp = true → s.unlocked p.val = true → ((s.thread p.val t.val).st = 0 ∨ (s.thread p.val t.val).st = 6 ∨ (s.thread p.val t.val).st = 9) →
    exec (.dbgHalt p t) s = .next (wrote 1 s)) ∧
  (∀ (p : Fin 68) (t : Fin 8) (s : State), s.hostUp = true → s.unlocked p.val = true → (s.thread p.val t.val).st = 9 →
    ∃ u, exec (.dbgResume p t) s = .next u ∧ u.thread p.val t.val = { s.thread p.val t.val with st := (s.thread p.val t.val).held } ∧
      (∀ m n, m ≠ p.val ∨ n ≠ t.val → u.thread m n = s.thread m n) ∧ Only [.regs, .ctr, .traces, .jobs, .players] s u) ∧
  (∀ (p : Fin 68) (t : Fin 8) (s : State), s.hostUp = true → s.unlocked p.val = true → (s.thread p.val t.val).st = 9 →
    ∃ u, exec (.dbgStep p t) s = .next u ∧ u.thread p.val t.val = { s.thread p.val t.val with st := (s.thread p.val t.val).held, stepping := true } ∧
      (∀ m n, m ≠ p.val ∨ n ≠ t.val → u.thread m n = s.thread m n) ∧ Only [.ctr, .jobs, .players] s u) ∧
  (∀ (p : Fin 68) (t : Fin 8) (s : State), s.hostUp = true → s.unlocked p.val = true → (s.thread p.val t.val).st ≠ 9 →
    exec (.dbgResume p t) s = .next (wrote 1 s) ∧ exec (.dbgStep p t) s = .next (wrote 1 s)) ∧
  (∀ (hi : Bool) (w : Word) (p t r old : Nat) (s : State), s.hostUp = true → p = s.rf 0x37 Reg.TRC_SEL_PLAYER → t = s.rf (0x1000 + p) Reg.TRC_DBG_SEL_THREAD →
    r = s.rf (0x1000 + p) Reg.TRC_DBG_SEL_REG → s.unlocked p = true → (s.thread p t).st = 9 → 1 ≤ r → r ≤ 31 → old = tget (s.thread p t).regs 0 r →
    ∃ u, exec (.dbgDataWrite hi w) s = .next u ∧
      tget (u.thread p t).regs 0 r = (if hi then old % 2 ^ 32 + w.toNat * 2 ^ 32 else old / 2 ^ 32 * 2 ^ 32 + w.toNat) ∧
      (∀ n, n ≠ r → tget (u.thread p t).regs 0 n = tget (s.thread p t).regs 0 n) ∧ (u.thread p t).pc = (s.thread p t).pc ∧
      (∀ n, n ≠ t → u.thread p n = s.thread p n) ∧ Only [.ctr, .players] s u) ∧
  (∀ (hi : Bool) (w : Word) (p t : Nat) (s : State), s.hostUp = true → p = s.rf 0x37 Reg.TRC_SEL_PLAYER → t = s.rf (0x1000 + p) Reg.TRC_DBG_SEL_THREAD →
    s.rf (0x1000 + p) Reg.TRC_DBG_SEL_REG = 0 → s.unlocked p = true → (s.thread p t).st = 9 → exec (.dbgDataWrite hi w) s = .next (wrote 1 s)) ∧
  (∀ (hi : Bool) (w : Word) (p t old : Nat) (s : State), s.hostUp = true → p = s.rf 0x37 Reg.TRC_SEL_PLAYER → t = s.rf (0x1000 + p) Reg.TRC_DBG_SEL_THREAD →
    s.rf (0x1000 + p) Reg.TRC_DBG_SEL_REG = 32 → s.unlocked p = true → (s.thread p t).st = 9 → old = (s.thread p t).pc →
    exec (.dbgDataWrite hi w) s = .next (setThread p t
      { s.thread p t with pc := (if hi then old % 2 ^ 32 + w.toNat * 2 ^ 32 else old / 2 ^ 32 * 2 ^ 32 + w.toNat) / 2 * 2 } (wrote 1 s))) ∧
  (∀ (hi : Bool) (w : Word) (s : State), s.hostUp = true → 68 ≤ s.rf 0x37 Reg.TRC_SEL_PLAYER → exec (.dbgDataWrite hi w) s = .next (wrote 1 s)) ∧
  (∀ (hi : Bool) (w : Word) (s : State), s.hostUp = true → s.rf 0x37 Reg.TRC_SEL_PLAYER < 68 → s.unlocked (s.rf 0x37 Reg.TRC_SEL_PLAYER) = false → exec (.dbgDataWrite hi w) s = .next (record 0x37 Code.E_DBG_LOCKED (wrote 1 s)))

/-- PAIR_JOIN, JOIN_RECEIVE, JOIN_SIG_RECEIVE (R587 to R590), BEAT_SEND, BEAT_RECEIVE, BEAT_PERIOD_MISSED (R594, R597). -/
def Obligations.PairsJoinAndMissBeats : Prop :=
  (∀ s : State, s.refusing 8 = false → s.hostUp = true → (s.role = 1 ∨ s.role = 2) → (s.pairState = 0 ∨ s.pairState = 4) → (s.role = 2 → s.chans.all (fun c => c.2.st == 0) = true) →
    ∃ t z m, exec .pairJoin s = .next t ∧ t.pairState = 1 ∧ (t.qp 4095).st = 1 ∧ (t.qp 4095).port = s.rf 0x38 Reg.PAIR_CFG_PORT ∧
      (t.qp 4095).out = [z] ∧ z.owner = .pair ∧ z.msg = .pair (pairBytes 1 s.pairEpoch m s.time t.pair.myJoin) ∧ t.pair.peerJoin = none ∧ t.chans = s.chans) ∧
  (∀ s : State, s.hostUp = true → (s.role ≠ 1 ∧ s.role ≠ 2 ∨ s.pairState ≠ 0 ∧ s.pairState ≠ 4) → exec .pairJoin s = .next (wrote 1 s)) ∧
  (∀ (h : PairHdr) (b : List Byte) (s : State), s.refusing 8 = false → s.pairOpen = true → h.fits 1 116 = true → b.length = 116 → s.pairState = 1 →
    ∃ t z m, exec (.joinReceive h b) s = .next t ∧ t.pair.peerJoin = some b ∧ t.pair.peerEpoch = h.epoch ∧ t.pairState = 1 ∧
      (t.qp 4095).out = (s.qp 4095).out ++ [z] ∧ z.msg = .pair (pairBytes 2 s.pairEpoch m s.time (s.sign (s.pair.myJoin ++ b))) ∧ z.owner = .pair ∧
      t.count 2 Cnt.SEC_SIGNS = (s.count 2 Cnt.SEC_SIGNS + 1) % 2 ^ 64) ∧
  (∀ (h : PairHdr) (b : List Byte) (s : State), s.pairOpen = true → (h.fits 1 116 = false ∨ b.length ≠ 116) →
    exec (.joinReceive h b) s = .next (bump 0x38 Cnt.PAIR_DISCARDED 1 s)) ∧
  (∀ (h : PairHdr) (sig p : List Byte) (s : State), s.pairOpen = true → h.fits 2 49856 = true → sig.length = 49856 → s.pair.peerJoin = some p → s.pairState = 1 →
    s.role = 2 → keyDigest (p.drop 52) = s.peerId → Config.slhVerify (p.drop 52) true (p ++ s.pair.myJoin) sig = true → leAt p 0 1 ≠ s.role →
    ∃ t, exec (.joinSigReceive h sig) s = .next t ∧ t.pairState = 2 ∧ t.pairEpoch = (max s.pairEpoch s.pair.peerEpoch + 1) % 2 ^ 16 ∧
      t.points = [] ∧ t.rf 0x38 Reg.PAIR_BEAT_MISSED = 0 ∧ t.mem = s.mem) ∧
  (∀ (h : PairHdr) (sig p : List Byte) (s : State), s.pairOpen = true → h.fits 2 49856 = true → sig.length = 49856 → s.pair.peerJoin = some p → s.pairState = 1 →
    ¬(keyDigest (p.drop 52) = s.peerId ∧ Config.slhVerify (p.drop 52) true (p ++ s.pair.myJoin) sig = true ∧ leAt p 0 1 ≠ s.role) →
    ∃ t, exec (.joinSigReceive h sig) s = .next t ∧ t.pairState = 4 ∧ t.pairEpoch = s.pairEpoch ∧
      t.count 0x38 Cnt.PAIR_JOIN_FAILS = (s.count 0x38 Cnt.PAIR_JOIN_FAILS + 1) % 2 ^ 64 ∧ t.chans = s.chans) ∧
  (∀ s : State, s.refusing 8 = false → s.pairOpen = true → s.beats = true → s.role ≠ 1 →
    ∃ t z m, exec .beatSend s = .next t ∧ (t.qp 4095).out = (s.qp 4095).out ++ [z] ∧ z.msg = .pair (pairBytes 3 s.pairEpoch m s.time (leBytes 4 s.pairState ++ leBytes 4 s.pair.commits)) ∧ z.owner = .pair ∧
      t.count 0x38 Cnt.PAIR_BEATS_TX = (s.count 0x38 Cnt.PAIR_BEATS_TX + 1) % 2 ^ 64 ∧ t.pairState = s.pairState) ∧
  (∀ (h : PairHdr) (st n : Nat) (s : State), s.pairOpen = true → h.fits 3 8 = true → h.epoch = s.pairEpoch →
    ∃ t, exec (.beatReceive h st n) s = .next t ∧ t.pair.beatSeen = true ∧ t.rf 0x38 Reg.PAIR_BEAT_MISSED = 0 ∧
      t.pairState = (if s.role = 2 ∧ s.pairState = 2 ∧ st = 3 then 3 else s.pairState) ∧
      t.count 0x38 Cnt.PAIR_BEATS_RX = (s.count 0x38 Cnt.PAIR_BEATS_RX + 1) % 2 ^ 64 ∧ t.chans = s.chans) ∧
  (∀ (h : PairHdr) (st n : Nat) (s : State), s.pairOpen = true → (h.fits 3 8 = false ∨ h.epoch < s.pairEpoch) →
    exec (.beatReceive h st n) s = .next (bump 0x38 Cnt.PAIR_DISCARDED 1 s)) ∧
  (∀ (h : PairHdr) (st n : Nat) (s : State), s.pairOpen = true → h.fits 3 8 = true → s.pairEpoch < h.epoch → s.role = 1 → s.pairState ≠ 6 → s.chans = [] →
    ∃ t, exec (.beatReceive h st n) s = .next t ∧ t.pairState = 6 ∧ t.count 0x38 Cnt.PAIR_FENCES = (s.count 0x38 Cnt.PAIR_FENCES + 1) % 2 ^ 64) ∧
  (∀ s : State, s.up = true → s.beats = true → s.pair.beatSeen = true →
    exec .beatPeriodMissed s = .next { s with pair := { s.pair with beatSeen := false } }) ∧
  (∀ (n : Nat) (s : State), s.up = true → s.beats = true → s.pair.beatSeen = false → n = s.rf 0x38 Reg.PAIR_BEAT_MISSED → n ≠ 4 →
    exec .beatPeriodMissed s = .next (bump 0x38 Cnt.PAIR_MISSED 1 (s.wf 0x38 Reg.PAIR_BEAT_MISSED (min 255 (n + 1))))) ∧
  (∀ s : State, s.up = true → s.beats = true → s.pair.beatSeen = false → s.rf 0x38 Reg.PAIR_BEAT_MISSED = 4 →
    ∃ t, exec .beatPeriodMissed s = .next t ∧ t.rf 0x38 Reg.PAIR_BEAT_MISSED = 5 ∧ t.pairState = (if s.pairState = 5 then 5 else 4) ∧ t.chans = s.chans)

/-- FORWARD (R591), MIRROR_POINT, COMMIT (R592), ACK (R590, R593), and the discard of R588. -/
def Obligations.UnderstudyFollowsThePrimary : Prop :=
  (∀ (h : PairHdr) (e : Entry) (p : Package) (r : List Byte) (ok : Bool) (i : Nat) (s : State), s.pairOpen = true → h.fits 4 128 = true → s.pairEpoch ≤ h.epoch → s.role = 2 →
    (s.pairState = 2 ∨ s.pairState = 3) → eOp e = 0x18 → entryFormOk spChSet e = true → s.chanOf (eHandle e) = some i → (s.chan i).st ∈ spChSet.states → (s.chan i).ty ≤ 6 →
    s.dispatched i = false → s.opens = [] →
    ∃ t, exec (.forward h e p r ok) s = .next t ∧ t.due = s.due ∧ (t.chan i).settings = eGet e 0x10 0 16 ∧ (t.chan i).latency = eGet e 0x14 0 32 ∧
      (t.chan i).seq = ((s.chan i).seq + 1) % 2 ^ 32 ∧ (t.chan i).posted = ((s.chan i).seq + 1) % 2 ^ 32 ∧
      t.count 0x38 Cnt.PAIR_FORWARDS = (s.count 0x38 Cnt.PAIR_FORWARDS + 1) % 2 ^ 64 ∧ t.queues = s.queues ∧ t.out = s.out ∧ t.mem = s.mem) ∧
  (∀ (h : PairHdr) (e : Entry) (p : Package) (r : List Byte) (ok : Bool) (s : State), s.pairOpen = true → (h.fits 4 128 = false ∨ h.epoch < s.pairEpoch) →
    exec (.forward h e p r ok) s = .next (bump 0x38 Cnt.PAIR_DISCARDED 1 s)) ∧
  (∀ (handle : Word) (i n : Nat) (s : State), s.refusing 8 = false → s.chanOf handle.toNat = some i → (s.chan i).codec.lastUnit = some n → s.mirrors = true → s.pairOpen = true →
    s.mirrored (i, s.chan i) = true → (s.chan i).mirSent ≠ some n →
    ∃ t z m b, exec (.mirrorPoint handle) s = .next t ∧ (t.chan i).mirSent = some n ∧ (t.chan i).mirStores = (s.chan i).codec.stores ∧
      (t.qp 4095).out.getLast? = some z ∧ z.msg = .pair (pairBytes 5 s.pairEpoch m s.time (leBytes 4 handle.toNat ++ leBytes 4 n ++ leBytes 8 b)) ∧ z.owner = .pair ∧
      (∀ j, j ≠ i → t.chan j = s.chan j) ∧ t.mem = s.mem) ∧
  (∀ (handle : Word) (i n : Nat) (s : State), s.chanOf handle.toNat = some i → (s.chan i).codec.lastUnit = some n → (s.chan i).mirSent = some n →
    exec (.mirrorPoint handle) s = .next s) ∧
  (∀ (h : PairHdr) (handle pic : Word) (n : Dword) (pt : Chan) (i : Nat) (s : State), s.refusing 8 = false → s.pairOpen = true → h.fits 5 16 = true → s.pairEpoch ≤ h.epoch → s.role = 2 →
    (s.pairState = 2 ∨ s.pairState = 3) → i = handle.toNat % 2 ^ 18 → i ∉ s.pair.excluded →
    ∃ t z m, exec (.commit h handle pic n pt) s = .next t ∧ tget? t.points i = some { pt with mirAck := some pic.toNat } ∧ t.pair.commits = s.pair.commits + 1 ∧
      (t.qp 4095).out = (s.qp 4095).out ++ [z] ∧ z.msg = .pair (pairBytes 6 s.pairEpoch m s.time (leBytes 4 handle.toNat ++ leBytes 4 pic.toNat)) ∧ z.owner = .pair ∧
      (∀ j, j ≠ i → tget? t.points j = tget? s.points j) ∧ (∀ j, j ≠ i → t.chan j = s.chan j) ∧
      (∀ y ∈ (t.chan i).codec.inputs, pt.codec.used ≤ y.num) ∧ t.count 0x38 Cnt.PAIR_COMMITS = (s.count 0x38 Cnt.PAIR_COMMITS + 1) % 2 ^ 64 ∧ t.mem = s.mem) ∧
  (∀ (h : PairHdr) (handle pic : Word) (n : Dword) (pt : Chan) (s : State), s.pairOpen = true → (h.fits 5 16 = false ∨ h.epoch < s.pairEpoch) →
    exec (.commit h handle pic n pt) s = .next (bump 0x38 Cnt.PAIR_DISCARDED 1 s)) ∧
  (∀ (h : PairHdr) (handle pic : Word) (i : Nat) (s : State), s.pairOpen = true → h.fits 6 8 = true → s.pairEpoch ≤ h.epoch → s.chanOf handle.toNat = some i → s.mirrors = true →
    ∃ t, exec (.ack h handle pic) s = .next t ∧ (t.chan i).mirAck = some pic.toNat ∧ t.pair.commits = s.pair.commits + 1 ∧ (∀ j, j ≠ i → t.chan j = s.chan j) ∧
      t.count 0x38 Cnt.PAIR_ACKS = (s.count 0x38 Cnt.PAIR_ACKS + 1) % 2 ^ 64 ∧ t.mem = s.mem) ∧
  (∀ (h : PairHdr) (handle pic : Word) (s : State), s.pairOpen = true → (h.fits 6 8 = false ∨ h.epoch < s.pairEpoch) →
    exec (.ack h handle pic) s = .next (bump 0x38 Cnt.PAIR_DISCARDED 1 s))

/-- What R1 leaves the host: a register is written by an RDMA write through a READY queue pair of an operational module, or not at all
(DEDUCED, log entry 198). -/
def Obligations.HostWritesNeedAWayIn : Prop :=
  ∀ (c : Instr) (s : State), hostWrites c = true → s.hostUp = false → exec c s = .next s

/-- INSTRUCTION_RETIRE (R125 to R128): the integer operations, jumps, branches, loads, stores and CSR reads of RV64IMC, and the exceptions. -/
def Obligations.InstructionsRetireOrTrap : Prop :=
  (∀ (p : Fin 68) (t : Fin 8) (len w : Nat) (s : State), Fetches s p.val t.val len w → bits w 0 7 = 0x33 → bits w 25 7 = 0 →
    ∃ u, exec (.instructionRetire p t) s = .next u ∧ Retired p.val t.val ((s.thread p.val t.val).setX (bits w 7 5)
        (alu (bits w 12 3) false ((s.thread p.val t.val).x (bits w 15 5)) ((s.thread p.val t.val).x (bits w 20 5)))) ((s.thread p.val t.val).pc + len) s u ∧
      Only [.free, .regs, .ctr, .traces, .jobs, .players] s u) ∧
  (∀ (p : Fin 68) (t : Fin 8) (len w : Nat) (s : State), Fetches s p.val t.val len w → bits w 0 7 = 0x33 → bits w 25 7 = 1 →
    ∃ u, exec (.instructionRetire p t) s = .next u ∧ Retired p.val t.val ((s.thread p.val t.val).setX (bits w 7 5)
        (mulDiv (bits w 12 3) ((s.thread p.val t.val).x (bits w 15 5)) ((s.thread p.val t.val).x (bits w 20 5)))) ((s.thread p.val t.val).pc + len) s u ∧
      Only [.free, .regs, .ctr, .traces, .jobs, .players] s u) ∧
  (∀ (p : Fin 68) (t : Fin 8) (len w : Nat) (s : State), Fetches s p.val t.val len w → bits w 0 7 = 0x33 → bits w 25 7 = 32 →
    (bits w 12 3 = 0 ∨ bits w 12 3 = 5) →
    ∃ u, exec (.instructionRetire p t) s = .next u ∧ Retired p.val t.val ((s.thread p.val t.val).setX (bits w 7 5)
        (alu (bits w 12 3) true ((s.thread p.val t.val).x (bits w 15 5)) ((s.thread p.val t.val).x (bits w 20 5)))) ((s.thread p.val t.val).pc + len) s u ∧
      Only [.free, .regs, .ctr, .traces, .jobs, .players] s u) ∧
  (∀ (p : Fin 68) (t : Fin 8) (len w : Nat) (v : BitVec 64) (s : State), Fetches s p.val t.val len w → bits w 0 7 = 0x3B →
    alu32 (bits w 12 3) (bits w 25 7) ((s.thread p.val t.val).x (bits w 15 5)) ((s.thread p.val t.val).x (bits w 20 5)) = some v →
    ∃ u, exec (.instructionRetire p t) s = .next u ∧
      Retired p.val t.val ((s.thread p.val t.val).setX (bits w 7 5) v) ((s.thread p.val t.val).pc + len) s u ∧ u.mem = s.mem) ∧
  (∀ (p : Fin 68) (t : Fin 8) (len w : Nat) (s : State), Fetches s p.val t.val len w → bits w 0 7 = 0x13 → bits w 12 3 ≠ 1 → bits w 12 3 ≠ 5 →
    ∃ u, exec (.instructionRetire p t) s = .next u ∧ Retired p.val t.val ((s.thread p.val t.val).setX (bits w 7 5)
        (alu (bits w 12 3) false ((s.thread p.val t.val).x (bits w 15 5)) (immI w))) ((s.thread p.val t.val).pc + len) s u ∧ u.mem = s.mem) ∧
  (∀ (p : Fin 68) (t : Fin 8) (len w : Nat) (s : State), Fetches s p.val t.val len w → bits w 0 7 = 0x13 →
    (bits w 12 3 = 1 ∧ bits w 26 6 = 0 ∨ bits w 12 3 = 5 ∧ (bits w 26 6 = 0 ∨ bits w 26 6 = 16)) →
    ∃ u, exec (.instructionRetire p t) s = .next u ∧ Retired p.val t.val ((s.thread p.val t.val).setX (bits w 7 5)
        (alu (bits w 12 3) (bits w 30 1 = 1) ((s.thread p.val t.val).x (bits w 15 5)) (BitVec.ofNat 64 (bits w 20 6)))) ((s.thread p.val t.val).pc + len) s u ∧
      u.mem = s.mem) ∧
  (∀ (p : Fin 68) (t : Fin 8) (len w : Nat) (s : State), Fetches s p.val t.val len w → bits w 0 7 = 0x37 →
    ∃ u, exec (.instructionRetire p t) s = .next u ∧
      Retired p.val t.val ((s.thread p.val t.val).setX (bits w 7 5) (immU w)) ((s.thread p.val t.val).pc + len) s u ∧ u.mem = s.mem) ∧
  (∀ (p : Fin 68) (t : Fin 8) (len w : Nat) (s : State), Fetches s p.val t.val len w → bits w 0 7 = 0x17 →
    ∃ u, exec (.instructionRetire p t) s = .next u ∧ Retired p.val t.val ((s.thread p.val t.val).setX (bits w 7 5)
        (BitVec.ofNat 64 (s.thread p.val t.val).pc + immU w)) ((s.thread p.val t.val).pc + len) s u ∧ u.mem = s.mem) ∧
  (∀ (p : Fin 68) (t : Fin 8) (len w : Nat) (s : State), Fetches s p.val t.val len w → bits w 0 7 = 0x6F →
    ∃ u, exec (.instructionRetire p t) s = .next u ∧ Retired p.val t.val ((s.thread p.val t.val).setX (bits w 7 5)
        (BitVec.ofNat 64 ((s.thread p.val t.val).pc + len))) (BitVec.ofNat 64 (s.thread p.val t.val).pc + immJ w).toNat s u ∧ u.mem = s.mem) ∧
  (∀ (p : Fin 68) (t : Fin 8) (len w : Nat) (s : State), Fetches s p.val t.val len w → bits w 0 7 = 0x67 → bits w 12 3 = 0 →
    ∃ u, exec (.instructionRetire p t) s = .next u ∧ Retired p.val t.val ((s.thread p.val t.val).setX (bits w 7 5)
        (BitVec.ofNat 64 ((s.thread p.val t.val).pc + len))) (((s.thread p.val t.val).x (bits w 15 5) + immI w) &&& ~~~1).toNat s u ∧ u.mem = s.mem) ∧
  (∀ (p : Fin 68) (t : Fin 8) (len w : Nat) (b : Bool) (s : State), Fetches s p.val t.val len w → bits w 0 7 = 0x63 →
    branchTaken (bits w 12 3) ((s.thread p.val t.val).x (bits w 15 5)) ((s.thread p.val t.val).x (bits w 20 5)) = some b →
    ∃ u, exec (.instructionRetire p t) s = .next u ∧ Retired p.val t.val (s.thread p.val t.val)
        (if b then (BitVec.ofNat 64 (s.thread p.val t.val).pc + immB w).toNat else (s.thread p.val t.val).pc + len) s u ∧ u.mem = s.mem) ∧
  (∀ (p : Fin 68) (t : Fin 8) (len w a v : Nat) (s : State), Fetches s p.val t.val len w → bits w 0 7 = 0x03 → bits w 12 3 ≠ 7 →
    a = ((s.thread p.val t.val).x (bits w 15 5) + immI w).toNat → coreLoad s p.val a (2 ^ (bits w 12 3 % 4)) = (0, v) →
    ∃ u, exec (.instructionRetire p t) s = .next u ∧ Retired p.val t.val ((s.thread p.val t.val).setX (bits w 7 5)
        (if bits w 12 3 < 4 then BitVec.ofInt 64 (signed (8 * 2 ^ (bits w 12 3 % 4)) v) else BitVec.ofNat 64 v)) ((s.thread p.val t.val).pc + len) s u ∧
      u.mem = s.mem) ∧
  (∀ (p : Fin 68) (t : Fin 8) (len w a n : Nat) (s : State), Fetches s p.val t.val len w → bits w 0 7 = 0x23 → bits w 12 3 < 4 →
    a = ((s.thread p.val t.val).x (bits w 15 5) + immS w).toNat → n = 2 ^ bits w 12 3 → a % n = 0 → a + n ≤ 0x300000 →
    ∃ u, exec (.instructionRetire p t) s = .next u ∧ Retired p.val t.val (s.thread p.val t.val) ((s.thread p.val t.val).pc + len) s u ∧
      u.mem = (s.store (lsAddr p.val a) (leBytes n ((s.thread p.val t.val).x (bits w 20 5)).toNat)).mem) ∧
  (∀ (p : Fin 68) (t : Fin 8) (len w a n : Nat) (s : State), Fetches s p.val t.val len w → bits w 0 7 = 0x23 → bits w 12 3 < 4 →
    a = ((s.thread p.val t.val).x (bits w 15 5) + immS w).toNat → n = 2 ^ bits w 12 3 → a % n = 0 → coreRegion a n = 2 →
    ∃ u, exec (.instructionRetire p t) s = .next u ∧ Retired p.val t.val (s.thread p.val t.val) ((s.thread p.val t.val).pc + len) s u ∧ u.mem = s.mem ∧
      (∀ k, k < n → tget (u.ply p.val).tdm 0 (a % 0x10000 + k) = BitVec.ofNat 8 (((s.thread p.val t.val).x (bits w 20 5)).toNat % 2 ^ (8 * n) / 256 ^ k)) ∧
      (∀ o, o < a % 0x10000 ∨ a % 0x10000 + n ≤ o → tget (u.ply p.val).tdm 0 o = tget (s.ply p.val).tdm 0 o)) ∧
  (∀ (p : Fin 68) (t : Fin 8) (len w v : Nat) (s : State), Fetches s p.val t.val len w → bits w 0 7 = 0x73 → (bits w 12 3 = 2 ∨ bits w 12 3 = 3 ∨ bits w 12 3 = 6 ∨ bits w 12 3 = 7) →
    bits w 15 5 = 0 → readCsr s p.val t.val (bits w 20 12) = some v →
    ∃ u, exec (.instructionRetire p t) s = .next u ∧
      Retired p.val t.val ((s.thread p.val t.val).setX (bits w 7 5) (BitVec.ofNat 64 v)) ((s.thread p.val t.val).pc + len) s u ∧ u.mem = s.mem) ∧
  (∀ (p : Fin 68) (t : Fin 8) (len w : Nat) (s : State), Fetches s p.val t.val len w → w = 0x00000073 →
    ∃ u, exec (.instructionRetire p t) s = .next u ∧ Trapped p.val t.val 11 0 s u ∧ u.mem = s.mem) ∧
  (∀ (p : Fin 68) (t : Fin 8) (len w a : Nat) (s : State), Fetches s p.val t.val len w → bits w 0 7 = 0x03 → bits w 12 3 ≠ 7 →
    a = ((s.thread p.val t.val).x (bits w 15 5) + immI w).toNat → a % 2 ^ (bits w 12 3 % 4) ≠ 0 →
    ∃ u, exec (.instructionRetire p t) s = .next u ∧ Trapped p.val t.val 4 a s u ∧ u.mem = s.mem) ∧
  (∀ (p : Fin 68) (t : Fin 8) (len : Nat) (s : State), s.canIssue p.val t.val = true → fetch s p.val t.val = (0, len, none) →
    ∃ u, exec (.instructionRetire p t) s = .next u ∧ Trapped p.val t.val 2 0 s u ∧ u.mem = s.mem) ∧
  (∀ (p : Fin 68) (t : Fin 8) (s : State), s.canIssue p.val t.val = true → coreRegion (s.thread p.val t.val).pc 2 ≠ 3 →
    ∃ u, exec (.instructionRetire p t) s = .next u ∧ Trapped p.val t.val 1 (s.thread p.val t.val).pc s u ∧ u.mem = s.mem)

/-- CUE_ISSUE, CUE_TRY, CUE_ISSUE_UNPARK (R129, R131, R134). -/
def Obligations.ThreadsIssueCues : Prop :=
  (∀ (p : Fin 68) (t : Fin 8) (w q : Nat) (s : State), customAt s p.val t.val 0x0B 0 = some w → q = cueOf (s.thread p.val t.val) w → cueBad q = none →
    s.queueLen p.val (cClass q) < 16 →
    ∃ u, exec (.cueIssue p t) s = .next u ∧ tget (u.ply p.val).queues [] (cClass q) = tget (s.ply p.val).queues [] (cClass q) ++ [{ cue := q, thread := t.val }] ∧
      (∀ k, k ≠ cClass q → tget (u.ply p.val).queues [] k = tget (s.ply p.val).queues [] k) ∧
      Retired p.val t.val ((s.thread p.val t.val).setX (bits w 7 5) (BitVec.ofNat 64 (15 - s.queueLen p.val (cClass q)))) ((s.thread p.val t.val).pc + 4) s u ∧
      u.count (0x100 + p.val) Cnt.PLY_CUES_ISSUED = (s.count (0x100 + p.val) Cnt.PLY_CUES_ISSUED + 1) % 2 ^ 64 ∧
      Only [.regs, .ctr, .traces, .jobs, .players] s u) ∧
  (∀ (p : Fin 68) (t : Fin 8) (w q : Nat) (s : State), customAt s p.val t.val 0x0B 0 = some w → q = cueOf (s.thread p.val t.val) w → cueBad q = none →
    16 ≤ s.queueLen p.val (cClass q) →
    ∃ u, exec (.cueIssue p t) s = .next u ∧ u.thread p.val t.val = { s.thread p.val t.val with st := 3, wait := q, rd := bits w 7 5 } ∧
      (u.ply p.val).queues = (s.ply p.val).queues ∧ Only [.regs, .ctr, .traces, .players] s u) ∧
  (∀ (p : Fin 68) (t : Fin 8) (w q n : Nat) (s : State), customAt s p.val t.val 0x0B 0 = some w → q = cueOf (s.thread p.val t.val) w → cueBad q = some n →
    ∃ u, exec (.cueIssue p t) s = .next u ∧ JobStops p.val Code.E_CUE_ILLEGAL s u ∧ (u.ply p.val).queues = (s.ply p.val).queues ∧
      u.thread p.val t.val = s.thread p.val t.val ∧
      (s.rf (0x100 + p.val) Reg.PLY_FAULT_VALID = 0 → u.rf (0x100 + p.val) Reg.PLY_FAULT_KIND = 4 ∧
        u.rf (0x100 + p.val) Reg.PLY_FAULT_DETAIL = n % 2 ^ Reg.PLY_FAULT_DETAIL.width)) ∧
  (∀ (p : Fin 68) (t : Fin 8) (w q : Nat) (s : State), customAt s p.val t.val 0x0B 1 = some w → q = cueOf (s.thread p.val t.val) w → cueBad q = none →
    s.queueLen p.val (cClass q) < 16 →
    ∃ u, exec (.cueTry p t) s = .next u ∧ tget (u.ply p.val).queues [] (cClass q) = tget (s.ply p.val).queues [] (cClass q) ++ [{ cue := q, thread := t.val }] ∧
      Retired p.val t.val ((s.thread p.val t.val).setX (bits w 7 5) 1) ((s.thread p.val t.val).pc + 4) s u ∧ Only [.regs, .ctr, .traces, .jobs, .players] s u) ∧
  (∀ (p : Fin 68) (t : Fin 8) (w q : Nat) (s : State), customAt s p.val t.val 0x0B 1 = some w → q = cueOf (s.thread p.val t.val) w → cueBad q = none →
    16 ≤ s.queueLen p.val (cClass q) →
    ∃ u, exec (.cueTry p t) s = .next u ∧ (u.ply p.val).queues = (s.ply p.val).queues ∧
      Retired p.val t.val ((s.thread p.val t.val).setX (bits w 7 5) 0) ((s.thread p.val t.val).pc + 4) s u ∧ Only [.regs, .ctr, .traces, .jobs, .players] s u) ∧
  (∀ (p : Fin 68) (t : Fin 8) (x : Thread) (s : State), x = s.thread p.val t.val → x.st = 3 → s.jobRuns p.val = true → s.queueLen p.val (cClass x.wait) < 16 →
    ∃ u, exec (.cueIssueUnpark p t) s = .next u ∧
      tget (u.ply p.val).queues [] (cClass x.wait) = tget (s.ply p.val).queues [] (cClass x.wait) ++ [{ cue := x.wait, thread := t.val }] ∧
      Retired p.val t.val (({ x with st := 1 } : Thread).setX x.rd (BitVec.ofNat 64 (15 - s.queueLen p.val (cClass x.wait)))) (x.pc + 4) s u ∧
      Only [.regs, .ctr, .traces, .jobs, .players] s u)

/-- SEM_WAIT, SEM_WAIT_TAKE, SEM_TRY, SEM_READ, SEM_POST, REMOTE_POST_ARRIVE (R129, R137, R138, R156). -/
def Obligations.SemaphoresCountAndPark : Prop :=
  (∀ (p : Fin 68) (t : Fin 8) (w v : Nat) (s : State), customAt s p.val t.val 0x0B 2 = some w → v = ((s.thread p.val t.val).x (bits w 15 5)).toNat → v < 32 →
    1 ≤ s.semLeft p.val v →
    ∃ u, exec (.semWait p t) s = .next u ∧ (∀ m, u.sem p.val m = if m = v then s.sem p.val v - 1 else s.sem p.val m) ∧
      Retired p.val t.val (s.thread p.val t.val) ((s.thread p.val t.val).pc + 4) s u ∧ Only [.regs, .ctr, .traces, .jobs, .players] s u) ∧
  (∀ (p : Fin 68) (t : Fin 8) (w v : Nat) (s : State), customAt s p.val t.val 0x0B 2 = some w → v = ((s.thread p.val t.val).x (bits w 15 5)).toNat → v < 32 →
    s.semLeft p.val v = 0 →
    ∃ u, exec (.semWait p t) s = .next u ∧ u.thread p.val t.val = { s.thread p.val t.val with st := 2, wait := v } ∧ (u.ply p.val).sems = (s.ply p.val).sems ∧
      Only [.regs, .ctr, .traces, .players] s u) ∧
  (∀ (p : Fin 68) (t : Fin 8) (w v : Nat) (s : State), customAt s p.val t.val 0x0B 2 = some w → v = ((s.thread p.val t.val).x (bits w 15 5)).toNat → 32 ≤ v →
    ∃ u, exec (.semWait p t) s = .next u ∧ Trapped p.val t.val 24 v s u ∧ (u.ply p.val).sems = (s.ply p.val).sems) ∧
  (∀ (p : Fin 68) (t : Fin 8) (x : Thread) (s : State), x = s.thread p.val t.val → x.st = 2 → s.jobRuns p.val = true → s.semLeft p.val x.wait ≠ 0 →
    ∃ u, exec (.semWaitTake p t) s = .next u ∧ (∀ m, u.sem p.val m = if m = x.wait then s.sem p.val m - 1 else s.sem p.val m) ∧
      Retired p.val t.val { x with st := 1 } (x.pc + 4) s u ∧ Only [.regs, .ctr, .traces, .jobs, .players] s u) ∧
  (∀ (p : Fin 68) (t : Fin 8) (w v : Nat) (s : State), customAt s p.val t.val 0x0B 3 = some w → v = ((s.thread p.val t.val).x (bits w 15 5)).toNat → v < 32 →
    ∃ u, exec (.semTry p t) s = .next u ∧
      (∀ m, u.sem p.val m = if m = v ∧ 1 ≤ s.semLeft p.val v then s.sem p.val v - 1 else s.sem p.val m) ∧
      Retired p.val t.val ((s.thread p.val t.val).setX (bits w 7 5) (if 1 ≤ s.semLeft p.val v then 1 else 0)) ((s.thread p.val t.val).pc + 4) s u ∧
      Only [.regs, .ctr, .traces, .jobs, .players] s u) ∧
  (∀ (p : Fin 68) (t : Fin 8) (w v : Nat) (s : State), customAt s p.val t.val 0x0B 5 = some w → v = ((s.thread p.val t.val).x (bits w 15 5)).toNat → v < 32 →
    ∃ u, exec (.semRead p t) s = .next u ∧ (u.ply p.val).sems = (s.ply p.val).sems ∧
      Retired p.val t.val ((s.thread p.val t.val).setX (bits w 7 5) (BitVec.ofNat 64 (s.semLeft p.val v))) ((s.thread p.val t.val).pc + 4) s u ∧
      Only [.regs, .ctr, .traces, .jobs, .players] s u) ∧
  (∀ (p : Fin 68) (t : Fin 8) (w v n : Nat) (s : State), customAt s p.val t.val 0x0B 4 = some w → v = ((s.thread p.val t.val).x (bits w 15 5)).toNat → v < 4096 →
    n = ((s.thread p.val t.val).x (bits w 20 5)).toNat → n < 256 → bits v 11 1 = 0 → s.sem p.val (v % 32) + n ≤ 255 →
    ∃ u, exec (.semPost p t) s = .next u ∧ (∀ m, u.sem p.val m = if m = v % 32 then s.sem p.val m + n else s.sem p.val m) ∧
      Retired p.val t.val (s.thread p.val t.val) ((s.thread p.val t.val).pc + 4) s u ∧ Only [.regs, .ctr, .traces, .jobs, .players] s u) ∧
  (∀ (p : Fin 68) (t : Fin 8) (w v n : Nat) (s : State), customAt s p.val t.val 0x0B 4 = some w → v = ((s.thread p.val t.val).x (bits w 15 5)).toNat → v < 4096 →
    n = ((s.thread p.val t.val).x (bits w 20 5)).toNat → n < 256 → bits v 11 1 = 0 → 255 < s.sem p.val (v % 32) + n →
    ∃ u, exec (.semPost p t) s = .next u ∧ u.sem p.val (v % 32) = 255 ∧ (u.jobOf p.val).bind Job.stop = some Code.E_SEM_OVERFLOW) ∧
  (∀ (p : Fin 68) (t : Fin 8) (w v n q : Nat) (s : State), customAt s p.val t.val 0x0B 4 = some w → v = ((s.thread p.val t.val).x (bits w 15 5)).toNat → v < 4096 →
    n = ((s.thread p.val t.val).x (bits w 20 5)).toNat → n < 256 → bits v 11 1 = 1 → s.playerOfRank p.val (bits v 5 6) = some q →
    ∃ u, exec (.semPost p t) s = .next u ∧ (u.ply q).posts = (s.ply q).posts ++ [(p.val, v % 32, n)] ∧ (∀ m, u.sem p.val m = s.sem p.val m) ∧
      Retired p.val t.val (s.thread p.val t.val) ((s.thread p.val t.val).pc + 4) s u ∧ Only [.regs, .ctr, .traces, .jobs, .players] s u) ∧
  (∀ (p : Fin 68) (t : Fin 8) (w v : Nat) (s : State), customAt s p.val t.val 0x0B 4 = some w → v = ((s.thread p.val t.val).x (bits w 15 5)).toNat → v < 4096 →
    ((s.thread p.val t.val).x (bits w 20 5)).toNat < 256 → bits v 11 1 = 1 → s.playerOfRank p.val (bits v 5 6) = none →
    ∃ u, exec (.semPost p t) s = .next u ∧ Trapped p.val t.val 24 v s u ∧ (u.ply p.val).sems = (s.ply p.val).sems) ∧
  (∀ (p src : Fin 68) (x : Nat × Nat × Nat) (s : State), (s.ply p.val).posts.find? (fun y => y.1 == src.val) = some x → s.sem p.val x.2.1 + x.2.2 ≤ 255 →
    ∃ u, exec (.remotePostArrive p src) s = .next u ∧ (∀ m, u.sem p.val m = if m = x.2.1 then s.sem p.val m + x.2.2 else s.sem p.val m) ∧
      (u.ply p.val).posts = (s.ply p.val).posts.erase x ∧ (u.ply p.val).active = s.time ∧ (∀ q r, u.thread q r = s.thread q r) ∧ Only [.players] s u) ∧
  (∀ (p src : Fin 68) (x : Nat × Nat × Nat) (s : State), (s.ply p.val).posts.find? (fun y => y.1 == src.val) = some x → 255 < s.sem p.val x.2.1 + x.2.2 →
    ∃ u, exec (.remotePostArrive p src) s = .next u ∧ u.sem p.val x.2.1 = 255 ∧ JobStops p.val Code.E_SEM_OVERFLOW s u)

/-- FENCE_CUE, FENCE_CUE_RELEASE (R129), BAR (R157), YIELD (R143, R145), JOB_END (R129, R142). -/
def Obligations.ThreadsFenceMeetYieldAndEnd : Prop :=
  (∀ (p : Fin 68) (t : Fin 8) (w v : Nat) (s : State), customAt s p.val t.val 0x2B 0 = some w → v = ((s.thread p.val t.val).x (bits w 15 5)).toNat → v < 64 →
    s.fenced p.val t.val v = false →
    ∃ u, exec (.fenceCue p t) s = .next u ∧ Retired p.val t.val (s.thread p.val t.val) ((s.thread p.val t.val).pc + 4) s u ∧
      Only [.regs, .ctr, .traces, .jobs, .players] s u) ∧
  (∀ (p : Fin 68) (t : Fin 8) (w v : Nat) (s : State), customAt s p.val t.val 0x2B 0 = some w → v = ((s.thread p.val t.val).x (bits w 15 5)).toNat → v < 64 →
    s.fenced p.val t.val v = true →
    ∃ u, exec (.fenceCue p t) s = .next u ∧ u.thread p.val t.val = { s.thread p.val t.val with st := 5, wait := v } ∧ Only [.regs, .ctr, .traces, .players] s u) ∧
  (∀ (p : Fin 68) (t : Fin 8) (x : Thread) (s : State), x = s.thread p.val t.val → x.st = 5 → s.jobRuns p.val = true → s.fenced p.val t.val x.wait = false →
    ∃ u, exec (.fenceCueRelease p t) s = .next u ∧ Retired p.val t.val { x with st := 1 } (x.pc + 4) s u ∧ Only [.regs, .ctr, .traces, .jobs, .players] s u) ∧
  (∀ (p : Fin 68) (t : Fin 8) (w v id : Nat) (j : Job) (s : State), customAt s p.val t.val 0x2B 1 = some w → v = ((s.thread p.val t.val).x (bits w 15 5)).toNat →
    v < 256 → (s.ply p.val).job = some id → tget? s.jobs id = some j → (s.ply p.val).barrier = none → (j.barrier = none ∨ j.barrier = some v) →
    (∃ q ∈ j.players, q ≠ p.val ∧ (s.ply q).barrier = none) →
    ∃ u, exec (.bar p t) s = .next u ∧ u.thread p.val t.val = { s.thread p.val t.val with st := 4, wait := v } ∧ (u.ply p.val).barrier = some v ∧
      tget? u.jobs id = some { j with barrier := some v } ∧ (∀ q r, q ≠ p.val ∨ r ≠ t.val → u.thread q r = s.thread q r)) ∧
  (∀ (p : Fin 68) (t : Fin 8) (w v id : Nat) (j : Job) (s : State), customAt s p.val t.val 0x2B 1 = some w → v = ((s.thread p.val t.val).x (bits w 15 5)).toNat →
    v < 256 → (s.ply p.val).job = some id → tget? s.jobs id = some j → (s.ply p.val).barrier = none → (j.barrier = none ∨ j.barrier = some v) →
    (∀ q ∈ j.players, q ≠ p.val → (s.ply q).barrier.isSome = true) →
    ∃ u, exec (.bar p t) s = .next u ∧ (u.jobOf p.val).bind Job.barrier = none ∧
      (∀ q ∈ j.players, (u.ply q).barrier = none ∧ ∀ n, n < 8 → (s.thread q n).st = 4 ∨ (q = p.val ∧ n = t.val) →
        (u.thread q n).pc = ((s.thread q n).pc + 4) % 2 ^ 64 ∧ (u.thread q n).instret = (s.thread q n).instret + 1)) ∧
  (∀ (p : Fin 68) (t : Fin 8) (w v id : Nat) (j : Job) (s : State), customAt s p.val t.val 0x2B 1 = some w → v = ((s.thread p.val t.val).x (bits w 15 5)).toNat →
    v < 256 → (s.ply p.val).job = some id → tget? s.jobs id = some j → ((s.ply p.val).barrier.isSome = true ∨ (j.barrier.isSome = true ∧ j.barrier ≠ some v)) →
    ∃ u, exec (.bar p t) s = .next u ∧ Trapped p.val t.val 25 v s u) ∧
  (∀ (p : Fin 68) (t : Fin 8) (w : Nat) (j : Job) (s : State), customAt s p.val t.val 0x2B 2 = some w → s.jobOf p.val = some j → j.tensorJob = true →
    ∃ u, exec (.yield p t) s = .next u ∧ Retired p.val t.val { s.thread p.val t.val with st := 8 } ((s.thread p.val t.val).pc + 4) s u ∧
      Only [.regs, .ctr, .traces, .jobs, .players] s u) ∧
  (∀ (p : Fin 68) (t : Fin 8) (w : Nat) (j : Job) (s : State), customAt s p.val t.val 0x2B 2 = some w → s.jobOf p.val = some j → j.tensorJob = false →
    ∃ u, exec (.yield p t) s = .next u ∧ Trapped p.val t.val 2 w s u) ∧
  (∀ (p : Fin 68) (t : Fin 8) (w : Nat) (s : State), customAt s p.val t.val 0x2B 3 = some w → (s.thread p.val t.val).x (bits w 15 5) = 0 →
    ∃ u, exec (.jobEnd p t) s = .next u ∧ Retired p.val t.val { s.thread p.val t.val with st := 6 } ((s.thread p.val t.val).pc + 4) s u ∧
      Only [.regs, .ctr, .traces, .jobs, .players, .streams] s u) ∧
  (∀ (p : Fin 68) (t : Fin 8) (w v : Nat) (s : State), customAt s p.val t.val 0x2B 3 = some w → v = ((s.thread p.val t.val).x (bits w 15 5)).toNat → 0 < v →
    v < 2 ^ 32 →
    ∃ u, exec (.jobEnd p t) s = .next u ∧ Retired p.val t.val { s.thread p.val t.val with st := 6 } ((s.thread p.val t.val).pc + 4) s u ∧
      (u.jobOf p.val).bind Job.stop = some Code.E_SHEET_ABORT ∧
      (s.rf (0x100 + p.val) Reg.PLY_FAULT_VALID = 0 → u.rf (0x100 + p.val) Reg.PLY_FAULT_VAL_VALUE = v))

/-- JOB_DISPATCH (R22, R30, R123, R140, R153), YIELD_POINT (R143, R144), JOB_FINISH (R141, R194, R327). -/
def Obligations.JobsComeAndGo : Prop :=
  (∀ (id e : Nat) (j : Job) (s : State), tget? s.jobs id = some j → e = s.ensOf j → s.dispatchable id j = true → j.bare = false → (s.sizes e).1 ≠ 0 →
    s.ensFits e j.pkg = true → s.blocked j = false → s.ensBusy e = false → s.outranked id j = false →
    ∃ t, exec (.jobDispatch id) s = .next t ∧
      (∃ y, tget? t.jobs id = some y ∧ y.st = .running ∧ y.players = (s.physLive e).take (s.sizes e).1 ∧ y.ens = e ∧ y.startedAt = s.time) ∧
      (∀ p ∈ (s.physLive e).take (s.sizes e).1, (t.ply p).st = 2 ∧ (t.ply p).job = some id ∧ (t.ply p).ens = e) ∧
      (j.saves = [] → ∀ p ∈ (s.physLive e).take (s.sizes e).1, (∀ o, o < 0x300000 → memGet t.mem (lsAddr p o) = 0) ∧
        ∀ n, n < 8 → bits (leAt (t.code p) 6 1) n 1 = 1 → t.thread p n = freshThread n (leAt (t.code p) 8 4))) ∧
  (∀ (id : Nat) (j : Job) (s : State), tget? s.jobs id = some j → s.dispatchable id j = true → j.bare = true → s.blocked j = false →
    ∃ t, exec (.jobDispatch id) s = .next t ∧ t.players = s.players ∧
      (∃ y, tget? t.jobs id = some y ∧ y.st = .running ∧ y.players = [] ∧ y.startedAt = s.time)) ∧
  (∀ (id : Nat) (j : Job) (s : State), tget? s.jobs id = some j → s.dispatchable id j = true → j.bare = false → (s.sizes (s.ensOf j)).1 ≠ 0 →
    s.ensFits (s.ensOf j) j.pkg = true → s.blocked j = true →
    ∃ t, exec (.jobDispatch id) s = .next t ∧ tget? t.jobs id = some { j with stop := some Code.E_PEER_ABSENT } ∧ Only [.jobs] s t) ∧
  (∀ (id : Nat) (j : Job) (s : State), tget? s.jobs id = some j → j.tensorJob = true → j.st = .running → j.stop = none →
    (∀ p ∈ j.players, s.idleQueues p = true ∧ (s.ply p).posts = [] ∧ ∀ n ∈ s.threadStates p, n = 6 ∨ n = 8) → (∃ p ∈ j.players, 8 ∈ s.threadStates p) →
    (∀ y ∈ s.jobStreams id, y.2.st = 4) →
    ∃ t, exec (.yieldPoint id) s = .next t ∧
      (∃ y, tget? t.jobs id = some y ∧ y.st = .ready ∧ y.players = [] ∧ (j.work = .tensor → y.saves = j.players.zipIdx.map (fun x => (x.2, s.saveOf x.1)))) ∧
      (∀ p ∈ j.players, t.ply p = {}) ∧ t.streams = s.streams.filter (fun x => x.2.job ≠ some id)) ∧
  (∀ (id : Nat) (j : Job) (s : State), tget? s.jobs id = some j → s.finished id j = true → j.work = .tensor → (tget? s.rings (s.chan j.chan).cq).isSome = true →
    (s.chan j.chan).dying = none → (s.chan j.chan).stopping = [] →
    ∃ t, exec (.jobFinish id) s = .next t ∧ tget? t.jobs id = none ∧ (∀ p ∈ j.players, t.ply p = {}) ∧
      t.streams = s.streams.filter (fun x => x.2.job ≠ some id) ∧
      (∃ d ∈ t.due, d.chan = some j.chan ∧ d.body.seq = j.seq ∧ d.body.kind = 5 ∧ d.queue = j.cmd.map Ctx.queue)) ∧
  (∀ (id n k : Nat) (j : Job) (s : State), tget? s.jobs id = some j → s.finished id j = true → j.work = .slice n k →
    ∃ t, exec (.jobFinish id) s = .next t ∧ (∃ y, tget? t.jobs id = some y ∧ y.st = .offstage ∧ y.players = []) ∧ (∀ p ∈ j.players, t.ply p = {}) ∧
      t.streams = s.streams.filter (fun x => x.2.job ≠ some id)) ∧
  (∀ (id : Nat) (j : Job) (s : State), tget? s.jobs id = some j → s.finished id j = true →
    ∃ t, exec (.jobFinish id) s = .next t ∧ (∀ p ∈ j.players, t.ply p = {}) ∧ t.streams = s.streams.filter (fun x => x.2.job ≠ some id))

/-- JOB_STOP (R146, R183, R227, R228, R473 to R475, R478), STAGEHAND_DRAIN_END (R228). -/
def Obligations.StoppedJobsDrainAndEnd : Prop :=
  (∀ (id code : Nat) (j : Job) (s : State), tget? s.jobs id = some j → j.stop = some code → j.st = .running → rising s.streams = true → s.jobStreams id ≠ [] →
    ∃ t, exec (.jobStop id) s = .next t ∧ (∃ y, tget? t.jobs id = some y ∧ y.st = .stopping ∧ y.stop = some code) ∧
      (∀ p ∈ j.players, (t.ply p).st = 4 ∧ (t.ply p).queues = [] ∧ (t.ply p).posts = [] ∧ (t.ply p).keep = none) ∧
      (∀ k x, tget? s.streams k = some x → x.job = some id → tget? t.streams k = some { x with st := 6, sig := none, fetch := none }) ∧
      (∀ k x, tget? s.streams k = some x → x.job ≠ some id → tget? t.streams k = some x)) ∧
  (∀ (id : Nat) (j : Job) (s : State), tget? s.jobs id = some j → j.stop = some Code.E_CANCELLED → (j.st = .ready ∨ j.st = .stopping ∧ s.drained id j = true) →
    j.work = .tensor → (tget? s.rings (s.chan j.chan).cq).isSome = true → (s.chan j.chan).dying = none → (s.chan j.chan).stopping = [] →
    ∃ t, exec (.jobStop id) s = .next t ∧ tget? t.jobs id = none ∧ (∀ p ∈ j.players, t.ply p = {}) ∧
      (∃ d ∈ t.due, d.chan = some j.chan ∧ d.body.seq = j.seq ∧ d.body.kind = 5 ∧ d.queue = j.cmd.map Ctx.queue) ∧
      t.count 0x21 Cnt.HIF_JOBS_CANCELLED = (s.count 0x21 Cnt.HIF_JOBS_CANCELLED + 1) % 2 ^ 64) ∧
  (∀ (id : Nat) (j : Job) (s : State), tget? s.jobs id = some j → j.stop = some Code.F_PLY_UPSET → j.st = .stopping → s.drained id j = true →
    (s.chan j.chan).dying = none → (s.chan j.chan).stopping = [] → j.retries < setRetries (s.chan j.chan).settings →
    ∃ t, exec (.jobStop id) s = .next t ∧
      (∃ y, tget? t.jobs id = some y ∧ y.st = .ready ∧ y.stop = none ∧ y.players = [] ∧ y.retries = j.retries + 1 ∧ y.seq = j.seq) ∧
      (∀ p ∈ j.players, t.ply p = {}) ∧ t.count 0x21 Cnt.HIF_RETRIES = (s.count 0x21 Cnt.HIF_RETRIES + 1) % 2 ^ 64) ∧
  (∀ (id : Nat) (j : Job) (s : State), tget? s.jobs id = some j → (j.stop = none ∨ j.st = .stopping ∧ s.drained id j = false) → exec (.jobStop id) s = .next s) ∧
  (∀ (sh : Nat) (s : State), s.rf (shdPage sh) Reg.SMV_JOB_DEAD = 1 → s.shdWaits (fun a _ => a == sh) = false →
    (∀ y ∈ s.relays, ∀ r ∈ y.2.streams, slotKey r.player r.slot / 8 ≠ sh) →
    ∃ t, exec (.stagehandDrainEnd sh) s = .next t ∧ t.rf (shdPage sh) Reg.SMV_JOB_DEAD = 0 ∧
      t.streams = s.streams.filter (fun x => !(x.1 / 8 == sh && x.2.st == 6)) ∧
      t.count (shdPage sh) Cnt.SMV_DRAINS = (s.count (shdPage sh) Cnt.SMV_DRAINS + 1) % 2 ^ 64 ∧ Only [.regs, .ctr, .streams] s t) ∧
  (∀ (sh : Nat) (s : State), (s.rf (shdPage sh) Reg.SMV_JOB_DEAD = 0 ∨ s.shdWaits (fun a _ => a == sh) = true) → exec (.stagehandDrainEnd sh) s = .next s)

/-- PLAYER_UPSET (R122, R151, R152, R160), PLAYER_WATCHDOG (R147), STREAM_STALL (R215), HALT_TIMEOUT (R225), RELAY_PARITY_ERROR (R238). -/
def Obligations.DetectionsStopTheJob : Prop :=
  (∀ (p : Fin 68) (cls place id : Nat) (j : Job) (s : State), (s.ply p.val).job = some id → tget? s.jobs id = some j →
    exec (.playerUpset p 0 cls place) s = .next (bump (0x100 + p.val) Cnt.PLY_LS_ECC_CORRECTED 1 s)) ∧
  (∀ (p : Fin 68) (kind cls place id : Nat) (j : Job) (s : State), (s.ply p.val).job = some id → tget? s.jobs id = some j → j.st = .running → j.stop = none →
    1 ≤ kind → kind ≤ 3 → (kind = 2 → cls = 1 ∨ cls = 2 ∨ cls = 3 ∨ cls = 5) → (kind = 3 → place ≤ 7) →
    (p.val, kind + 8 * (if kind = 2 then cls else 0), place) ∉ j.detections →
    ∃ t, exec (.playerUpset p kind cls place) s = .next t ∧ (t.jobOf p.val).bind Job.stop = some Code.F_PLY_UPSET ∧
      t.count (0x100 + p.val) Cnt.PLY_UPSETS = (s.count (0x100 + p.val) Cnt.PLY_UPSETS + 1) % 2 ^ 64 ∧
      (s.rf (0x100 + p.val) Reg.PLY_FAULT_VALID = 0 → t.rf (0x100 + p.val) Reg.PLY_FAULT_VALID = 1 ∧ t.rf (0x100 + p.val) Reg.PLY_FAULT_KIND = kind ∧
        t.rf (0x100 + p.val) Reg.PLY_FAULT_ADDR_ADDR = s.upsetAddr p.val kind place % 2 ^ 32)) ∧
  (∀ (p : Fin 68) (kind cls place id : Nat) (j : Job) (s : State), (s.ply p.val).job = some id → tget? s.jobs id = some j → j.st = .running → j.stop = none →
    1 ≤ kind → kind ≤ 3 → (kind = 2 → cls = 1) → (kind = 3 → place ≤ 7) → (p.val, kind + 8 * (if kind = 2 then cls else 0), place) ∈ j.detections →
    ∃ t, exec (.playerUpset p kind cls place) s = .next t ∧ (t.jobOf p.val).bind Job.stop = some Code.F_PLAYER_SUSPECT ∧
      t.rf (0x100 + p.val) Reg.PLY_FAULT_REPEAT = 1) ∧
  (∀ (p : Fin 68) (s : State), s.jobRuns p.val = true → (s.ply p.val).paused = none →
    2 * 2 ^ (18 + s.rf (0x100 + p.val) Reg.PLY_CTRL_WDOG_EXP) ≤ 3 * (s.time - (s.ply p.val).active) →
    ∃ t, exec (.playerWatchdog p) s = .next t ∧ JobStops p.val Code.E_PLY_STALL s t ∧
      (s.rf (0x100 + p.val) Reg.PLY_FAULT_VALID = 0 → t.rf (0x100 + p.val) Reg.PLY_FAULT_KIND = 7) ∧ Only (noteParts ++ [.traces, .jobs]) s t) ∧
  (∀ (p : Fin 68) (s : State), (s.jobRuns p.val = false ∨ (s.ply p.val).paused.isSome = true) → exec (.playerWatchdog p) s = .next s) ∧
  (∀ (id : Nat) (j : Job) (x : Nat × Stream) (s : State), tget? s.jobs id = some j → (s.jobStreams id).find? (fun y => y.2.inPass) = some x → j.st = .running →
    j.stop = none → j.stallHeld = none → j.moved + 524288 ≤ s.time →
    ∃ t, exec (.streamStall id) s = .next t ∧ tget? t.jobs id = some { j with stop := some Code.E_STALL } ∧
      t.count (shdPage (x.1 / 8)) Cnt.SMV_STALLS = (s.count (shdPage (x.1 / 8)) Cnt.SMV_STALLS + 1) % 2 ^ 64 ∧ Only (noteParts ++ [.jobs]) s t) ∧
  (∀ (sh id : Nat) (slot : Fin 6) (x : Stream) (j : Job) (s : State), tget? s.streams (slotKey sh slot.val) = some x → x.halted = true → x.job = some id →
    tget? s.jobs id = some j → j.stop = none → s.rf (shdPage sh) Reg.SMV_CTRL_HALT_TO ≠ 0 →
    x.haltAt + s.rf (shdPage sh) Reg.SMV_CTRL_HALT_TO * 1000000 < s.time →
    ∃ t, exec (.haltTimeout sh slot) s = .next t ∧ tget? t.jobs id = some { j with stop := some Code.E_HALT_TIMEOUT } ∧ Only (noteParts ++ [.jobs]) s t) ∧
  (∀ (w : Fin 4) (k : Nat) (f : Fly) (j : Job) (s : State), (s.ring w.val).flying[k]? = some f → tget? s.jobs f.job = some j → j.stop = none →
    ∃ t, exec (.relayParityError w k) s = .next t ∧ tget? t.jobs f.job = some { j with stop := some Code.F_RELAY_PARITY } ∧
      t.count (wrlPage w.val) Cnt.WRL_UPSETS = (s.count (wrlPage w.val) Cnt.WRL_UPSETS + 1) % 2 ^ 64 ∧ Only (noteParts ++ [.jobs]) s t)

/-- CUE_NOP (R130), MAC_PSUM (R113 to R118), TAB_LOOKUP (R70), TAB_BUCKET (R69), CUE_COMPLETE (R134, R136), and the frames of R132. -/
def Obligations.CuesRunAndComplete : Prop :=
  (∀ (p : Fin 68) (cls : Nat) (c : QCue) (s : State), headCue s p.val cls 0 = some c → (cSigEn c.cue = true → s.sem p.val (cSig c.cue) < 255) →
    ∃ t, exec (.cueNop p cls) s = .next t ∧ tget (t.ply p.val).queues [] cls = (tget (s.ply p.val).queues [] cls).tail ∧
      (∀ m, t.sem p.val m = (s.sem p.val m - bit (cWaitEn c.cue && cWait c.cue == m)) + bit (cSigEn c.cue && cSig c.cue == m)) ∧
      (∀ q r, t.thread q r = s.thread q r) ∧ Only [.ctr, .players, .streams] s t) ∧
  (∀ (p : Fin 68) (c : QCue) (j : MacJob) (s : State), headCue s p.val 1 1 = some c → j = macJobOf s p.val c.cue →
    (readMacFrame s p.val (bits c.cue 80 16) (cScript c.cue)).2 = true → bits c.cue 112 1 = 0 →
    ∃ t, exec (.macPsum p) s = .next t ∧ Ran p.val 1 c s t ∧
      tget (t.ply p.val).acc {} (bits c.cue 102 1) = macSteps s p.val j (bits c.cue 111 1 == 1) (tget (s.ply p.val).acc {} (bits c.cue 102 1)) ∧
      (∀ b, b ≠ bits c.cue 102 1 → tget (t.ply p.val).acc {} b = tget (s.ply p.val).acc {} b) ∧ Only [.ctr, .players] s t) ∧
  (∀ (p : Fin 68) (c : QCue) (j : MacJob) (b : Acc) (s : State), headCue s p.val 1 1 = some c → j = macJobOf s p.val c.cue →
    (readMacFrame s p.val (bits c.cue 80 16) (cScript c.cue)).2 = true → bits c.cue 112 1 = 1 → inLs (bits c.cue 64 16) (j.pos * fmtLines j.frame.outFmt) = true →
    b = macSteps s p.val j (bits c.cue 111 1 == 1) (tget (s.ply p.val).acc {} (bits c.cue 102 1)) →
    ∃ t, exec (.macPsum p) s = .next t ∧ Ran p.val 1 c s t ∧ tget (t.ply p.val).acc {} (bits c.cue 102 1) = b ∧
      t.mem = (macDrain p.val (bits c.cue 64 16) j b s).mem ∧ Only [.ctr, .mem, .jobs, .players] s t) ∧
  (∀ (p : Fin 68) (c : QCue) (s : State), headCue s p.val 1 1 = some c → (readMacFrame s p.val (bits c.cue 80 16) (cScript c.cue)).2 = false →
    ∃ t, exec (.macPsum p) s = .next t ∧ JobStops p.val Code.E_CUE_ILLEGAL s t ∧ t.mem = s.mem ∧ (t.ply p.val).acc = (s.ply p.val).acc) ∧
  (∀ (p : Fin 68) (c : QCue) (n tb : Nat) (s : State), headCue s p.val 3 1 = some c → n = 64 * (bits c.cue 80 16 + 1) → tb = 64 * bits c.cue 64 16 →
    ∃ t, exec (.tabLookup p) s = .next t ∧ Ran p.val 3 c s t ∧
      t.mem = (lsStore p.val (64 * bits c.cue 48 16) (bits c.cue 28 4) ((List.range n).map (fun i =>
        (convert (bits c.cue 28 4) 0 0 (Fp.ofInt (tableLookup (fun k => lsInt s p.val tb 2 k)
          (if bits c.cue 24 4 = 1 then lsInt s p.val (64 * bits c.cue 32 16) 1 i * 256 else lsInt s p.val (64 * bits c.cue 32 16) (bits c.cue 24 4) i)))).1)) s).mem ∧
      Only [.ctr, .mem, .jobs, .players] s t) ∧
  (∀ (p : Fin 68) (c : QCue) (n tb : Nat) (s : State), headCue s p.val 3 2 = some c → n = 64 * (bits c.cue 80 16 + 1) → tb = 64 * bits c.cue 64 16 →
    ascending (thresholds s p.val tb) = true →
    ∃ t, exec (.tabBucket p) s = .next t ∧ Ran p.val 3 c s t ∧
      t.mem = (lsStore p.val (64 * bits c.cue 48 16) (bits c.cue 28 4) ((List.range n).map (fun i =>
        (convert (bits c.cue 28 4) 0 0 (Fp.ofInt (bucket (thresholds s p.val tb) (lsInt s p.val (64 * bits c.cue 32 16) (bits c.cue 24 4) i)))).1)) s).mem ∧
      Only [.ctr, .mem, .jobs, .players] s t) ∧
  (∀ (p : Fin 68) (c : QCue) (s : State), headCue s p.val 3 2 = some c → ascending (thresholds s p.val (64 * bits c.cue 64 16)) = false →
    ∃ t, exec (.tabBucket p) s = .next t ∧ JobStops p.val Code.E_CUE_ILLEGAL s t ∧ t.mem = s.mem) ∧
  (∀ (p : Fin 68) (cls : Nat) (c : QCue) (rest : List QCue) (s : State), tget (s.ply p.val).queues [] cls = c :: rest → c.ran = true → s.jobRuns p.val = true →
    cls ≠ 5 → (cSigEn c.cue = true → s.sem p.val (cSig c.cue) < 255) →
    ∃ t, exec (.cueComplete p cls) s = .next t ∧ tget (t.ply p.val).queues [] cls = rest ∧
      (∀ m, t.sem p.val m = s.sem p.val m + bit (cSigEn c.cue && cSig c.cue == m)) ∧ (t.ply p.val).active = s.time ∧
      t.count (0x100 + p.val) Cnt.PLY_CUES_DONE = (s.count (0x100 + p.val) Cnt.PLY_CUES_DONE + 1) % 2 ^ 64 ∧ Only [.ctr, .players, .streams] s t) ∧
  (∀ (p : Fin 68) (c : QCue) (rest : List QCue) (s : State), tget (s.ply p.val).queues [] 5 = c :: rest → c.ran = true → s.jobRuns p.val = true →
    ∃ t, exec (.cueComplete p 5) s = .next t ∧ tget (t.ply p.val).queues [] 5 = rest ∧ t.mem = (treFinish p.val c s).mem ∧
      t.rf (s.trePage p.val) Reg.TRE_STATE_MODE = 0) ∧
  (∀ (p : Fin 68) (cls : Nat) (s : State), (tget (s.ply p.val).queues [] cls).head?.any QCue.ran = false → exec (.cueComplete p cls) s = .next s)

/-- VEC_ELT (R67, R68), VEC_FUNC (R80), VEC_CONV (R66, R87), VEC_SCALE (R100), VEC_ADAM (R109, R110), VEC_WARP (R72), VEC_REDUCE (R120), VEC_MOVE
(R68), VEC_QLAT (R92), and the frame that fails (R132). -/
def Obligations.VectorCuesWriteTheirOutputs : Prop :=
  (∀ (p : Fin 68) (c : QCue) (j : VecJob) (s : State), VecRuns s p.val 1 c j →
    ∃ t, exec (.vecElt p) s = .next t ∧
      VecRan p.val c (lsStore p.val j.dst j.fout ((List.range j.n).map (fun i => (vecElt s p.val j 0 0 i).1)) s).mem s t) ∧
  (∀ (p : Fin 68) (c : QCue) (j : VecJob) (s : State), VecRuns s p.val 2 c j →
    ∃ t, exec (.vecFunc p) s = .next t ∧
      VecRan p.val c (lsStore p.val j.dst j.fout ((List.range j.n).map (fun i => (vecFunc s p.val j i).1)) s).mem s t) ∧
  (∀ (p : Fin 68) (c : QCue) (j : VecJob) (s : State), VecRuns s p.val 3 c j →
    ∃ t, exec (.vecConv p) s = .next t ∧ VecRan p.val c (lsStore p.val j.dst j.fout ((List.range j.n).map (fun i =>
      (vecConv s p.val j (s.expOf p.val j.frame.tid i) (s.zpOf p.val j.frame.tid) i).1)) s).mem s t) ∧
  (∀ (p : Fin 68) (c : QCue) (j : VecJob) (s : State), VecRuns s p.val 4 c j → inLsBytes (bits c.cue 48 16) (upDiv j.n j.frame.group) = true →
    ∃ t, exec (.vecScale p) s = .next t ∧ VecRan p.val c (vecScale p.val j s).mem s t) ∧
  (∀ (p : Fin 68) (c : QCue) (j : VecJob) (y : Job) (s : State), VecRuns s p.val 5 c j → s.jobOf p.val = some y → adamSkips s p.val j y = false →
    ∃ t, exec (.vecAdam p) s = .next t ∧ VecRan p.val c (vecAdam p.val j s).mem s t ∧
      (t.jobOf p.val).map Job.update = some (max 1 y.update)) ∧
  (∀ (p : Fin 68) (c : QCue) (j : VecJob) (y : Job) (s : State), VecRuns s p.val 5 c j → s.jobOf p.val = some y → adamSkips s p.val j y = true →
    ∃ t, exec (.vecAdam p) s = .next t ∧ VecRan p.val c s.mem s t ∧ (t.jobOf p.val).map Job.update = some 2 ∧ (t.jobOf p.val).map Job.skipped = some true) ∧
  (∀ (p : Fin 68) (c : QCue) (j : VecJob) (s : State), VecRuns s p.val 6 c j →
    ∃ t, exec (.vecWarp p) s = .next t ∧
      VecRan p.val c (lsStore p.val j.dst j.fout ((List.range j.n).map (fun i => (vecWarp s p.val j i).1)) s).mem s t) ∧
  (∀ (p : Fin 68) (c : QCue) (j : VecJob) (s : State), VecRuns s p.val 7 c j →
    ∃ t, exec (.vecReduce p) s = .next t ∧
      VecRan p.val c (lsStore p.val j.dst j.fout ((List.range (j.n / 64)).map (fun i => (vecReduce s p.val j i).1)) s).mem s t) ∧
  (∀ (p : Fin 68) (c : QCue) (j : VecJob) (s : State), VecRuns s p.val 8 c j →
    ∃ t, exec (.vecMove p) s = .next t ∧ VecRan p.val c (lsStore p.val j.dst j.fout ((List.range j.n).map (fun i => lsElem s p.val j.src0 j.fin (moveSrc j i))) s).mem s t ∧
      t.jobs = s.jobs) ∧
  (∀ (p : Fin 68) (c : QCue) (j : VecJob) (s : State), VecRuns s p.val 9 c j →
    ∃ t, exec (.vecQlat p) s = .next t ∧ VecRan p.val c (vecQlat p.val j s).mem s t) ∧
  (∀ (p : Fin 68) (c : QCue) (s : State), headCue s p.val 2 1 = some c → (vecJobOf s p.val 1 c.cue).frame.ok = false →
    ∃ t, exec (.vecElt p) s = .next t ∧ JobStops p.val Code.E_CUE_ILLEGAL s t ∧ t.mem = s.mem)

/-- TRE_NTTCONV (R177 to R179), TRE_FFTCONV, TRE_FFT, TRE_IFFT (R180, R181), and their turns (R182). -/
def Obligations.TransformCuesTakeTheirEngine : Prop :=
  (∀ (p : Fin 68) (c : QCue) (f : TreFrame) (s : State), TreStarts s p.val 1 c → f = (readTreFrame s p.val (bits c.cue 80 16) 1).1 →
    f.wL1 * f.aBound < 0x7FFFFFFF80000000 → kerOver s p.val c.cue f = none → actOver s p.val c.cue f = none →
    ∃ t, exec (.treNttconv p) s = .next t ∧ TreRuns p.val 1 c s t ∧ t.jobs = s.jobs) ∧
  (∀ (p : Fin 68) (c : QCue) (f : TreFrame) (s : State), TreStarts s p.val 1 c → f = (readTreFrame s p.val (bits c.cue 80 16) 1).1 →
    0x7FFFFFFF80000000 ≤ f.wL1 * f.aBound →
    ∃ t, exec (.treNttconv p) s = .next t ∧ t.rf (s.trePage p.val) Reg.TRE_STATE_MODE = 0 ∧ (t.jobOf p.val).bind Job.stop = some Code.E_NTT_RANGE ∧ t.mem = s.mem) ∧
  (∀ (p : Fin 68) (c : QCue) (s : State), TreStarts s p.val 2 c → ∃ t, exec (.treFftconv p) s = .next t ∧ TreRuns p.val 2 c s t ∧ t.jobs = s.jobs) ∧
  (∀ (p : Fin 68) (c : QCue) (s : State), TreStarts s p.val 3 c → ∃ t, exec (.treFft p) s = .next t ∧ TreRuns p.val 3 c s t ∧ t.jobs = s.jobs) ∧
  (∀ (p : Fin 68) (c : QCue) (s : State), TreStarts s p.val 4 c → ∃ t, exec (.treIfft p) s = .next t ∧ TreRuns p.val 3 c s t ∧ t.jobs = s.jobs) ∧
  (∀ (p : Fin 68) (c : QCue) (s : State), headCue s p.val 5 3 = some c → s.refusing (s.trePage p.val) = false →
    (s.rf (s.trePage p.val) Reg.TRE_STATE_MODE ≠ 0 ∨ s.treTurn (s.trePage p.val) ≠ some (s.ply p.val).ens) → exec (.treFft p) s = .next s)

/-- SHD_START (R188, R189, R208, R209), SHD_REARM (R191, R193), SHD_CLOSE (R192, R193), STREAM_PASS_END (R189, R190). -/
def Obligations.StreamsStartAndClose : Prop :=
  (∀ (p : Fin 68) (c : QCue) (slot id : Nat) (d : List Byte) (j : Job) (s : State), startHead s p.val = some (c, slot, d) → ¬(sdKind d = 3 ∧ sdLayoutOk d = true) →
    (s.ply p.val).job = some id → tget? s.jobs id = some j → s.refusing (shdPage p.val) = false →
    sdOk s (s.pkgOf p.val) p.val j.chan (fun n => (s.edge j.chan (some id) n).isSome) d = true →
    ∃ t, exec (.shdStart (.player p)) s = .next t ∧
      tget? t.streams (slotKey p.val slot) = some { chan := j.chan, job := some id, desc := d, base := sdBase d, sig := cSigOf c.cue } ∧
      (∀ k x, tget? s.streams k = some x → k / 8 ≠ p.val → k ≠ slotKey p.val slot → tget? t.streams k = some x) ∧
      tget (t.ply p.val).queues [] 4 = (tget (s.ply p.val).queues [] 4).tail ∧
      (∀ m, t.sem p.val m = s.sem p.val m - bit (cWaitEn c.cue && cWait c.cue == m)) ∧
      t.count (shdPage p.val) Cnt.SMV_STARTS = (s.count (shdPage p.val) Cnt.SMV_STARTS + 1) % 2 ^ 64 ∧ Only [.ctr, .shds, .players, .jobs, .streams] s t) ∧
  (∀ (p : Fin 68) (c : QCue) (slot id : Nat) (d : List Byte) (j : Job) (s : State), startHead s p.val = some (c, slot, d) → ¬(sdKind d = 3 ∧ sdLayoutOk d = true) →
    (s.ply p.val).job = some id → tget? s.jobs id = some j → j.stop = none → s.refusing (shdPage p.val) = false →
    sdOk s (s.pkgOf p.val) p.val j.chan (fun n => (s.edge j.chan (some id) n).isSome) d = false →
    ∃ t, exec (.shdStart (.player p)) s = .next t ∧ tget? t.jobs id = some { j with stop := some Code.E_DESC_ILLEGAL } ∧ t.streams = s.streams ∧ t.mem = s.mem) ∧
  (∀ (n : Fin 8) (slot : Fin 6) (id off : Nat) (d : List Byte) (j : Job) (s : State), tget? s.jobs id = some j → d = descAt (j.pkg.getD {}) off → j.stop = none →
    (j.st = .running ∨ j.st = .offstage) → tget? s.streams (slotKey (0x80 + n.val) slot.val) = none → ¬(sdKind d = 3 ∧ sdLayoutOk d = true) →
    s.refusing (shdPage (0x80 + n.val)) = false → sdOk s (j.pkg.getD {}) (0x80 + n.val) j.chan (fun e => (s.edge j.chan (some id) e).isSome) d = true →
    ∃ t, exec (.shdStart (.block n slot id off)) s = .next t ∧
      tget? t.streams (slotKey (0x80 + n.val) slot.val) = some { chan := j.chan, job := some id, desc := d, base := sdBase d } ∧
      (∀ k x, tget? s.streams k = some x → tget? t.streams k = some x) ∧
      t.count (shdPage (0x80 + n.val)) Cnt.SMV_STARTS = (s.count (shdPage (0x80 + n.val)) Cnt.SMV_STARTS + 1) % 2 ^ 64 ∧
      Only [.ctr, .shds, .players, .jobs, .streams] s t) ∧
  (∀ (p : Fin 68) (c : QCue) (k : Nat) (x : Stream) (s : State), headCue s p.val 4 2 = some c → k = slotKey p.val (bits c.cue 24 3) → tget? s.streams k = some x →
    sdPersist x.desc = true → x.st = 4 → sdKind x.desc ≠ 3 →
    ∃ t, exec (.shdRearm p) s = .next t ∧
      tget? t.streams k = some { x with st := 2, base := bits c.cue 64 64, tile := 0, off := 0, took := false, sig := cSigOf c.cue } ∧
      tget (t.ply p.val).queues [] 4 = (tget (s.ply p.val).queues [] 4).tail ∧
      (∀ m, t.sem p.val m = s.sem p.val m - bit (cWaitEn c.cue && cWait c.cue == m)) ∧
      t.count (shdPage p.val) Cnt.SMV_REARMS = (s.count (shdPage p.val) Cnt.SMV_REARMS + 1) % 2 ^ 64 ∧ Only [.ctr, .players, .jobs, .streams] s t) ∧
  (∀ (p : Fin 68) (c : QCue) (x : Stream) (s : State), headCue s p.val 4 2 = some c → tget? s.streams (slotKey p.val (bits c.cue 24 3)) = some x →
    sdPersist x.desc = true → x.st ≠ 4 → exec (.shdRearm p) s = .next s) ∧
  (∀ (p : Fin 68) (c : QCue) (id : Nat) (j : Job) (s : State), headCue s p.val 4 2 = some c → tget? s.streams (slotKey p.val (bits c.cue 24 3)) = none →
    (s.ply p.val).job = some id → tget? s.jobs id = some j → j.stop = none →
    ∃ t, exec (.shdRearm p) s = .next t ∧ tget? t.jobs id = some { j with stop := some Code.E_DESC_ILLEGAL } ∧ t.streams = s.streams) ∧
  (∀ (p : Fin 68) (c : QCue) (k : Nat) (x : Stream) (s : State), headCue s p.val 4 3 = some c → k = slotKey p.val (bits c.cue 24 3) → tget? s.streams k = some x →
    x.st = 4 → (cSigEn c.cue = true → s.sem p.val (cSig c.cue) < 255) →
    ∃ t, exec (.shdClose p) s = .next t ∧ tget? t.streams k = none ∧ tget (t.ply p.val).queues [] 4 = (tget (s.ply p.val).queues [] 4).tail ∧
      (∀ m, t.sem p.val m = (s.sem p.val m - bit (cWaitEn c.cue && cWait c.cue == m)) + bit (cSigEn c.cue && cSig c.cue == m)) ∧
      Only [.ctr, .players, .streams] s t) ∧
  (∀ (p : Fin 68) (c : QCue) (id : Nat) (j : Job) (s : State), headCue s p.val 4 3 = some c → tget? s.streams (slotKey p.val (bits c.cue 24 3)) = none →
    (s.ply p.val).job = some id → tget? s.jobs id = some j → j.stop = none →
    ∃ t, exec (.shdClose p) s = .next t ∧ tget? t.jobs id = some { j with stop := some Code.E_DESC_ILLEGAL } ∧ t.streams = s.streams) ∧
  (∀ (sh : Nat) (slot : Fin 6) (x : Stream) (s : State), tget? s.streams (slotKey sh slot.val) = some x → x.st = 2 → sdKind x.desc ≠ 3 → x.desc ≠ [] →
    s.streamRuns sh x = true → s.slotWaits sh slot.val = false → (s.shapeFor sh x []).tiles ≤ x.tile → sdPersist x.desc = false →
    (sh < 68 → headCue s sh 4 3 = none ∧ ∀ n, x.sig = some n → s.sem sh n < 255) →
    ∃ t, exec (.streamPassEnd sh slot) s = .next t ∧ tget? t.streams (slotKey sh slot.val) = none ∧
      (sh < 68 → ∀ m, t.sem sh m = s.sem sh m + bit (x.sig == some m)) ∧
      (∀ k y, tget? s.streams k = some y → k / 8 ≠ sh → k ≠ slotKey sh slot.val → tget? t.streams k = some y) ∧
      t.count (shdPage sh) Cnt.SMV_PASSES = (s.count (shdPage sh) Cnt.SMV_PASSES + 1) % 2 ^ 64 ∧ Only [.ctr, .players, .jobs, .streams] s t) ∧
  (∀ (sh : Nat) (slot : Fin 6) (x : Stream) (s : State), tget? s.streams (slotKey sh slot.val) = some x → x.st = 2 → sdKind x.desc ≠ 3 → x.desc ≠ [] →
    s.streamRuns sh x = true → s.slotWaits sh slot.val = false → (s.shapeFor sh x []).tiles ≤ x.tile → sdPersist x.desc = true →
    (sh < 68 → headCue s sh 4 3 = none ∧ (s.threadStates sh).any (fun n => n != 6) = true ∧ ∀ n, x.sig = some n → s.sem sh n < 255) →
    ∃ t, exec (.streamPassEnd sh slot) s = .next t ∧ tget? t.streams (slotKey sh slot.val) = some { x with st := 4, sig := none } ∧
      (sh < 68 → ∀ m, t.sem sh m = s.sem sh m + bit (x.sig == some m)) ∧ Only [.ctr, .players, .jobs, .streams] s t) ∧
  (∀ (sh : Nat) (slot : Fin 6) (x : Stream) (c : QCue) (s : State), tget? s.streams (slotKey sh slot.val) = some x → x.st = 2 → sdKind x.desc ≠ 3 → x.desc ≠ [] →
    s.streamRuns sh x = true → s.slotWaits sh slot.val = false → (s.shapeFor sh x []).tiles ≤ x.tile → sh < 68 → headCue s sh 4 3 = some c →
    bits c.cue 24 3 = slot.val → cWaitEn c.cue = false → (∀ n, x.sig = some n → s.sem sh n < 255) →
    ∃ t, exec (.streamPassEnd sh slot) s = .next t ∧ tget? t.streams (slotKey sh slot.val) = none ∧
      tget (t.ply sh).queues [] 4 = (tget (s.ply sh).queues [] 4).tail) ∧
  (∀ (sh : Nat) (slot : Fin 6) (x : Stream) (s : State), tget? s.streams (slotKey sh slot.val) = some x →
    (s.slotWaits sh slot.val = true ∨ x.tile < (s.shapeFor sh x []).tiles) → exec (.streamPassEnd sh slot) s = .next s)

/-- STREAM_TILE_DONE (R198 to R207, R495), STREAM_HALT (R219 to R222), CREDIT_GRANT (R212, R214), HANDOVER_TILE and CREDIT_RETURN (R213). -/
def Obligations.StreamsMoveAndHalt : Prop :=
  (∀ (sh : Nat) (slot : Fin 6) (far idx : List Byte) (x : Stream) (f : Shape) (s : State), tget? s.streams (slotKey sh slot.val) = some x →
    f = s.shapeFor sh x idx → s.canMove sh x f = true → (s.badTap x f).isNone = true →
    ∃ t, exec (.streamTileDone sh slot far idx) s = .next t ∧ t.mem = (moveTo sh slot.val x f (f.len x.tile) far (takeTile sh x s)).mem ∧
      tget? t.streams (slotKey sh slot.val) = some { x with tile := x.tile + 1, off := 0, took := false } ∧
      (∀ k y, tget? s.streams k = some y → k ≠ slotKey sh slot.val → tget? t.streams k = some y) ∧
      (∀ id, x.job = some id → (tget? s.jobs id).isSome = true → (tget? t.jobs id).map Job.moved = some s.time) ∧
      t.count (shdPage sh) Cnt.SMV_TILES = (s.count (shdPage sh) Cnt.SMV_TILES + 1) % 2 ^ 64) ∧
  (∀ (sh : Nat) (slot : Fin 6) (far idx : List Byte) (x : Stream) (f : Shape) (s : State), tget? s.streams (slotKey sh slot.val) = some x →
    f = s.shapeFor sh x idx → s.canMove sh x f = true → (s.badTap x f).isNone = true → sh < 68 → sdDir x.desc = 0 → sdDataEn x.desc = true →
    (x.took = true ∨ sdFreeEn x.desc = false ∨ x.tile < 4) → s.sem sh (sdDataSem x.desc) < 255 →
    ∃ t, exec (.streamTileDone sh slot far idx) s = .next t ∧
      ∀ m, t.sem sh m = s.sem sh m + bit (sdDataSem x.desc == m)) ∧
  (∀ (sh : Nat) (slot : Fin 6) (far idx : List Byte) (x : Stream) (f : Shape) (n va kind level id : Nat) (w : Bool) (j : Job) (s : State),
    tget? s.streams (slotKey sh slot.val) = some x → f = s.shapeFor sh x idx → s.canMove sh x f = true → s.badTap x f = some (n, va, .fault kind level w) →
    x.job = some id → tget? s.jobs id = some j → j.stop = none →
    ∃ t, exec (.streamTileDone sh slot far idx) s = .next t ∧ t.mem = (moveTo sh slot.val x f n far (takeTile sh x s)).mem ∧
      ((tget? t.jobs id).bind Job.stop).isSome = true ∧ (sdDir x.desc = 0 → (tget? t.jobs id).bind Job.stop = some Code.E_XLT_FAULT) ∧
      t.streams = s.streams) ∧
  (∀ (sh : Nat) (slot : Fin 6) (far idx : List Byte) (x : Stream) (s : State), tget? s.streams (slotKey sh slot.val) = some x →
    s.canMove sh x (s.shapeFor sh x idx) = false → exec (.streamTileDone sh slot far idx) s = .next s) ∧
  (∀ (sh : Nat) (slot : Fin 6) (far idx : List Byte) (a : SharedAt) (x : Stream) (f : Shape) (n va level entry : Nat) (fetch : Bool) (u s : State),
    tget? s.streams (slotKey sh slot.val) = some x → f = s.shapeFor sh x idx → s.canMove sh x f = true → s.badTap x f = some (n, va, .hold level fetch entry) →
    u = moveTo sh slot.val x f n far (takeTile sh x s) → u.slotWaits sh slot.val = false →
    ∃ t, exec (.streamHalt sh slot far idx a) s = .next t ∧ t.mem = u.mem ∧ (t.chan x.chan).page = true ∧
      (∃ y, tget? t.streams (slotKey sh slot.val) = some y ∧ y.st = (if fetch then 7 else 5) ∧ y.off = n ∧ y.took = true ∧ y.haltVa = va ∧
        y.haltWrite = (sdDir x.desc == 1) ∧ y.haltAt = s.time ∧ y.haltSeq = ((s.shd sh).halts + 1) % 65536 ∧ y.fetch.isSome = fetch) ∧
      t.count (shdPage sh) Cnt.SMV_HALTS = (s.count (shdPage sh) Cnt.SMV_HALTS + 1) % 2 ^ 64 ∧
      (s.rf (shdPage sh) Reg.SMV_HALT_VALID = 0 → t.rf (shdPage sh) Reg.SMV_HALT_VALID = 1 ∧ t.rf (shdPage sh) Reg.SMV_HALT_VA_LO_VA = va % 2 ^ 32)) ∧
  (∀ (sh : Nat) (slot : Fin 6) (far idx : List Byte) (a : SharedAt) (x : Stream) (f : Shape) (n va level entry : Nat) (fetch : Bool) (u s : State),
    tget? s.streams (slotKey sh slot.val) = some x → f = s.shapeFor sh x idx → s.canMove sh x f = true → s.badTap x f = some (n, va, .hold level fetch entry) →
    u = moveTo sh slot.val x f n far (takeTile sh x s) → u.slotWaits sh slot.val = true →
    ∃ t, exec (.streamHalt sh slot far idx a) s = .next t ∧ t.mem = u.mem ∧
      tget? t.streams (slotKey sh slot.val) = some { x with off := n, took := true }) ∧
  (∀ (sh : Nat) (slot : Fin 6) (far idx : List Byte) (a : SharedAt) (level entry : Nat) (fetch : Bool) (s : State), tget? s.streams (slotKey sh slot.val) = none →
    0x80 ≤ sh → sh < 0x88 → (s.chan a.chan).st ≠ 0 → a.job = none → s.walk a.chan a.va a.write = .hold level fetch entry →
    ∃ t, exec (.streamHalt sh slot far idx a) s = .next t ∧ (t.chan a.chan).page = true ∧ t.mem = s.mem ∧
      (∃ y, tget? t.streams (slotKey sh slot.val) = some y ∧ y.st = (if fetch then 7 else 5) ∧ y.chan = a.chan ∧ y.haltVa = a.va ∧ y.off = a.pos)) ∧
  (∀ (n : Nat) (c : ChainSt) (s : State), s.chains[n]? = some c → c.granted = false →
    (c.units = 0 ∨ (s.chains.take n).any (fun x => !x.granted && x.units != 0) = false ∧ s.grantedUnits + c.units ≤ s.hoPool) →
    ∃ t, exec (.creditGrant n) s = .next t ∧ t.chains = s.chains.set n { c with granted := true } ∧
      t.rf 0x280 Reg.SMV_HO_FREE_FREE = s.hoPool - (s.grantedUnits + c.units) ∧ KeepsRegs [regKey 0x280 0x144] s t ∧ Only [.regs, .chains] s t) ∧
  (∀ (n : Nat) (c : ChainSt) (s : State), s.chains[n]? = some c → c.granted = false → c.units ≠ 0 →
    ((s.chains.take n).any (fun x => !x.granted && x.units != 0) = true ∨ s.hoPool < s.grantedUnits + c.units) → exec (.creditGrant n) s = .next s) ∧
  (∀ (n : Nat) (num : Fin 64) (bytes b : List Byte) (c : ChainSt) (e : Edge) (s : State), s.chains[n]? = some c → c.edges.find? (fun y => y.num == num.val) = some e →
    c.granted = true → e.built = some b →
    ∃ t, exec (.handoverTile n num bytes) s = .next t ∧ t.chains = (setEdge n { e with built := none, tiles := e.tiles ++ [b] } s).chains ∧ Only [.chains, .jobs] s t) ∧
  (∀ (n : Nat) (num : Fin 64) (bytes : List Byte) (c : ChainSt) (e : Edge) (s : State), s.chains[n]? = some c → c.edges.find? (fun y => y.num == num.val) = some e →
    c.granted = true → e.built = none → isBlock e.prod = true → e.free ≠ 0 →
    ∃ t, exec (.handoverTile n num bytes) s = .next t ∧
      t.chains = (setEdge n { e with free := e.free - 1, tiles := e.tiles ++ [bytes.take e.tileBytes] } s).chains ∧ Only [.chains, .jobs] s t) ∧
  (∀ (n : Nat) (num : Fin 64) (bytes : List Byte) (c : ChainSt) (e : Edge) (s : State), s.chains[n]? = some c → c.edges.find? (fun y => y.num == num.val) = some e →
    e.built = none → (isBlock e.prod = false ∨ e.free = 0) → exec (.handoverTile n num bytes) s = .next s) ∧
  (∀ (n : Nat) (num : Fin 64) (c : ChainSt) (e : Edge) (s : State), s.chains[n]? = some c → c.edges.find? (fun y => y.num == num.val) = some e →
    e.tiles ≠ [] → (e.read = true ∨ isBlock e.cons = true) →
    ∃ t, exec (.creditReturn n num) s = .next t ∧ t.chains = (setEdge n { e with free := e.free + 1, tiles := e.tiles.tail, read := false } s).chains ∧
      Only [.chains, .jobs] s t)

/-- RELAY_ACCEPT (R231, R232), RELAY_SLICE_SEND (R231 to R233), RELAY_SLICE_ARRIVE (R234, R235), RELAY_STREAM_END (R189, R237), RLY_KEEP (R233
to R236). -/
def Obligations.RelayStreamsReachTheirPlayers : Prop :=
  (∀ (p : Fin 68) (c : QCue) (slot id w : Nat) (d : List Byte) (j : Job) (s : State), startHead s p.val = some (c, slot, d) → w = wingOf p.val → sdKind d = 3 →
    sdLayoutOk d = true → (s.ply p.val).job = some id → tget? s.jobs id = some j → s.relayRoom w = true → j.tags.contains (w, sdRelayTag d) = false →
    s.relay w id (sdRelayTag d) = none → s.refusing (wrlPage w) = false → s.refusing (shdPage p.val) = false →
    sdOk s (s.pkgOf p.val) p.val j.chan (fun n => (s.edge j.chan (some id) n).isSome) d = true →
    ∃ t, exec (.relayAccept p) s = .next t ∧
      (∃ r, t.relay w id (sdRelayTag d) = some r ∧ r.player = p.val ∧ r.slot = slot ∧ r.base = sdBase d ∧ r.slices = sdSlices d ∧ r.next = 0 ∧
        r.parts = j.players.filter (fun q => wingOf q == w)) ∧
      (t.ring w).streams.length = (s.ring w).streams.length + 1 ∧ (t.ring w).flying = (s.ring w).flying ∧
      tget? t.streams (slotKey p.val slot) = some { chan := j.chan, job := some id, desc := d, base := sdBase d, sig := cSigOf c.cue } ∧
      tget (t.ply p.val).queues [] 4 = (tget (s.ply p.val).queues [] 4).tail ∧
      t.count (wrlPage w) Cnt.WRL_STREAMS = (s.count (wrlPage w) Cnt.WRL_STREAMS + 1) % 2 ^ 64) ∧
  (∀ (p : Fin 68) (s : State), s.relayRoom (wingOf p.val) = false → exec (.relayAccept p) s = .next s) ∧
  (∀ (p : Fin 68) (c : QCue) (slot id : Nat) (d : List Byte) (j : Job) (s : State), startHead s p.val = some (c, slot, d) → sdKind d = 3 → sdLayoutOk d = true →
    (s.ply p.val).job = some id → tget? s.jobs id = some j → j.stop = none → s.relayRoom (wingOf p.val) = true →
    j.tags.contains (wingOf p.val, sdRelayTag d) = true →
    ∃ t, exec (.relayAccept p) s = .next t ∧ tget? t.jobs id = some { j with stop := some Code.E_RELAY_TAG } ∧ t.relays = s.relays ∧ t.streams = s.streams) ∧
  (∀ (w : Fin 4) (far : List Byte) (r : Relay) (j : Job) (s : State),
    (s.ring w.val).streams.find? (fun r => r.sends && (s.unready r).isEmpty && (match tget? s.jobs r.job with | some j => j.stop.isNone && j.st == .running | none => false)) = some r →
    tget? s.jobs r.job = some j → (s.firstMiss j.chan (r.base + 4096 * r.next) 4096 false).isNone = true →
    ∃ t, exec (.relaySliceSend w far) s = .next t ∧ (t.ring w.val).streams = (s.ring w.val).rotate r ∧ (t.ring w.val).last = some (r.job, r.tag) ∧
      (t.ring w.val).flying = (s.ring w.val).flying ++ [{ tag := r.tag, job := r.job, slice := r.next, bytes := readVa s j.chan (r.base + 4096 * r.next) 4096 far }] ∧
      t.count (wrlPage w.val) Cnt.WRL_SLICES_SENT = (s.count (wrlPage w.val) Cnt.WRL_SLICES_SENT + 1) % 2 ^ 64 ∧
      t.rf (wrlPage w.val) Reg.WRL_SLICE_NEXT = (r.next + 1) % 2 ^ Reg.WRL_SLICE_NEXT.width ∧ Only [.regs, .ctr, .jobs, .relays] s t) ∧
  (∀ (w : Fin 4) (far : List Byte) (s : State), (∀ r, r ∈ (s.ring w.val).streams → (r.sends && (s.unready r).isEmpty) = false) →
    exec (.relaySliceSend w far) s = .next s) ∧
  (∀ (w : Fin 4) (k q : Nat) (f : Fly) (kp : Keep) (j : Job) (s : State), (s.ring w.val).flying[k]? = some f → f.hop < 17 → q = 17 * w.val + f.hop →
    (k = 0 ∨ ∃ x, (s.ring w.val).flying[k - 1]? = some x ∧ f.hop < x.hop) → tget? s.jobs f.job = some j → j.stop = none → j.st = .running →
    (s.ply q).job = some f.job → (s.ply q).keep = some kp → kp.tag = f.tag → kp.first ≠ 0xFFFF → kp.first ≤ f.slice → f.slice < kp.first + kp.count →
    ∃ t, exec (.relaySliceArrive w k) s = .next t ∧ t.mem = (s.store (lsAddr q (64 * kp.dst + 4096 * (f.slice - kp.first))) f.bytes).mem ∧
      (t.ply q).keep = (if kp.got + 1 = kp.count then none else some { kp with got := kp.got + 1 }) ∧ (t.ring w.val).streams = (s.ring w.val).streams ∧
      t.count (wrlPage w.val) Cnt.WRL_SLICES_KEPT = (s.count (wrlPage w.val) Cnt.WRL_SLICES_KEPT + 1) % 2 ^ 64) ∧
  (∀ (w : Fin 4) (k q : Nat) (f : Fly) (s : State), (s.ring w.val).flying[k]? = some f → f.hop < 16 → q = 17 * w.val + f.hop →
    (k = 0 ∨ ∃ x, (s.ring w.val).flying[k - 1]? = some x ∧ f.hop < x.hop) → (s.ply q).keep = none →
    ∃ t, exec (.relaySliceArrive w k) s = .next t ∧ (t.ring w.val).flying = (s.ring w.val).flying.set k { f with hop := f.hop + 1 } ∧
      t.count (wrlPage w.val) Cnt.WRL_FORWARDS = (s.count (wrlPage w.val) Cnt.WRL_FORWARDS + 1) % 2 ^ 64 ∧ Only [.ctr, .relays] s t) ∧
  (∀ (w : Fin 4) (k : Nat) (f x : Fly) (s : State), (s.ring w.val).flying[k]? = some f → 0 < k → (s.ring w.val).flying[k - 1]? = some x → x.hop ≤ f.hop →
    exec (.relaySliceArrive w k) s = .next s) ∧
  (∀ (w : Fin 4) (r : Relay) (s : State),
    (s.ring w.val).streams.find? (fun r => (r.stopped || decide (r.slices ≤ r.next)) && (s.ring w.val).flying.all (fun f => f.job != r.job || f.tag != r.tag || f.hop == 17)) = some r →
    ∃ t, exec (.relayStreamEnd w) s = .next t ∧ (t.ring w.val).streams = (s.ring w.val).streams.filter (fun x => x ≠ r) ∧
      (t.ring w.val).flying = (s.ring w.val).flying.filter (fun f => f.job ≠ r.job ∨ f.tag ≠ r.tag) ∧
      (r.stopped = true → t.count (wrlPage w.val) Cnt.WRL_STOPPED = (s.count (wrlPage w.val) Cnt.WRL_STOPPED + 1) % 2 ^ 64 ∧ t.streams = s.streams) ∧
      (r.stopped = false → ∀ x, tget? s.streams (slotKey r.player r.slot) = some x → sdPersist x.desc = false → tget? t.streams (slotKey r.player r.slot) = none)) ∧
  (∀ (w : Fin 4) (s : State), (∀ r, r ∈ (s.ring w.val).streams → r.stopped = false ∧ r.next < r.slices) → exec (.relayStreamEnd w) s = .next s) ∧
  (∀ (p : Fin 68) (c : QCue) (s : State), headCue s p.val 6 1 = some c →
    ∃ t, exec (.rlyKeep p) s = .next t ∧
      (t.ply p.val).keep = some { tag := bits c.cue 64 32, first := bits c.cue 24 16, count := bits c.cue 40 8 + 1, dst := bits c.cue 48 16 } ∧
      tget (t.ply p.val).queues [] 6 = { c with started := true } :: (tget (s.ply p.val).queues [] 6).tail ∧
      (∀ m, t.sem p.val m = s.sem p.val m - bit (cWaitEn c.cue && cWait c.cue == m)) ∧ t.mem = s.mem ∧ t.streams = s.streams) ∧
  (∀ (p : Fin 68) (c : QCue) (id : Nat) (j : Job) (r : Relay) (s : State), headCue s p.val 6 1 = some c → (s.ply p.val).job = some id → tget? s.jobs id = some j →
    j.stop = none → s.relay (wingOf p.val) id (bits c.cue 64 32) = some r → bits c.cue 24 16 ≠ 0xFFFF →
    (bits c.cue 24 16 < tget r.ends 0 p.val ∨ r.slices < bits c.cue 24 16 + (bits c.cue 40 8 + 1)) →
    ∃ t, exec (.rlyKeep p) s = .next t ∧ tget? t.jobs id = some { j with stop := some Code.E_RELAY_ORDER } ∧ t.relays = s.relays)

/-- LINE_TIMEOUT (R324), SLICE_RELEASE (R322, R323, R325, R330, R349). -/
def Obligations.InputsFillAndSlicesAreReleased : Prop :=
  (∀ (handle : Word) (i : Nat) (p : InPic) (io : Io) (gone : List Nat) (s : State), s.chanOf handle.toNat = some i → (s.chan i).ty = 0 → (s.chan i).io = some io →
    (s.chan i).codec.inputs.find? (fun q => !q.closed) = some p → (s.chan i).codec.inputs.find? (fun q => q.num == p.num) = some p →
    p.last + 1000 * max 1 (s.rf 0x30 Reg.SEQ_CTRL_LINE_TO) ≤ s.time → gone = (List.range (seqH (s.chan i).seqHdr)).filter (fun l => !p.has l) → gone ≠ [] →
    ∃ t, exec (.lineTimeout handle) s = .next t ∧
      (t.chan i).codec.inputs = (s.chan i).codec.inputs.map (fun q => if q.num = p.num then { q with filled := gone, closed := true } else q) ∧
      t.count 0x30 Cnt.SEQ_LINES_MISSING = (s.count 0x30 Cnt.SEQ_LINES_MISSING + gone.length) % 2 ^ 64 ∧
      (s.rf 0x30 Reg.SEQ_INPUT_LOSS_VALID = 0 → t.rf 0x30 Reg.SEQ_INPUT_LOSS_VALID = 1 ∧ t.rf 0x30 Reg.SEQ_INPUT_LOSS_DROPPED = 0) ∧ t.jobs = s.jobs) ∧
  (∀ (handle : Word) (i : Nat) (p : InPic) (s : State), s.chanOf handle.toNat = some i → (s.chan i).codec.inputs.find? (fun q => !q.closed) = some p →
    s.time < p.last + 1000 * max 1 (s.rf 0x30 Reg.SEQ_CTRL_LINE_TO) → exec (.lineTimeout handle) s = .next s) ∧
  (∀ (handle : Word) (i k first : Nat) (p : EncPic) (inp : InPic) (pkg : Package) (s : State), s.chanOf handle.toNat = some i → (s.chan i).ty = 0 →
    (s.chan i).admits = true → (s.chan i).bind.isSome = true → s.standby = false → (s.chan i).pkg = some pkg →
    (s.chan i).codec.enc.pics.find? (fun q => decide (q.slices.length < enSlices (s.chan i).rec_ (s.chan i).seqHdr)) = some p → s.encPic i p.n = some p →
    k = p.slices.length → 0 < k → first = k * enSliceRows (s.chan i).rec_ → (s.chan i).codec.inputs.find? (fun q => q.num == p.input) = some inp →
    (∀ l, l ∈ List.range (needEnd (s.chan i).seqHdr pkg first (min (enSliceRows (s.chan i).rec_) (seqBR (s.chan i).seqHdr - first))) → inp.has l = true) →
    ∃ t, exec (.sliceRelease handle) s = .next t ∧
      (∃ y, tget? t.jobs s.nextJob = some y ∧ y.work = .slice p.n k ∧ y.chan = i ∧ y.st = .ready ∧ y.seq = ((s.chan i).seq + 1) % 2 ^ 32 ∧ y.ens = (s.chan i).ens) ∧
      (∃ q, t.encPic i p.n = some q ∧ q.slices.length = k + 1 ∧
        (∃ x, q.slices[k]? = some x ∧ x.first = first ∧ x.rows = min (enSliceRows (s.chan i).rec_) (seqBR (s.chan i).seqHdr - first) ∧ x.st = 0 ∧
          x.seq = ((s.chan i).seq + 1) % 2 ^ 32)) ∧
      t.count 0x30 Cnt.SEQ_SLICES_RELEASED = (s.count 0x30 Cnt.SEQ_SLICES_RELEASED + 1) % 2 ^ 64) ∧
  (∀ (handle : Word) (i : Nat) (inp : InPic) (pkg : Package) (e : Enc) (s : State), s.chanOf handle.toNat = some i → (s.chan i).ty = 0 → (s.chan i).admits = true →
    (s.chan i).bind.isSome = true → s.standby = false → (s.chan i).pkg = some pkg → e = (s.chan i).codec.enc →
    e.pics.find? (fun q => decide (q.slices.length < enSlices (s.chan i).rec_ (s.chan i).seqHdr)) = none → s.encPic i e.n = none →
    (s.chan i).codec.inputs.find? (fun q => !q.taken) = some inp → (s.chan i).codec.inputs.find? (fun q => q.num == inp.num) = some inp →
    (∀ l, l ∈ List.range (needEnd (s.chan i).seqHdr pkg 0 (min (enSliceRows (s.chan i).rec_) (seqBR (s.chan i).seqHdr))) → inp.has l = true) →
    (e.need = true ∨ e.force = true ∨ e.owed = true ∨ e.prev = none ∨ (enPeriod (s.chan i).rec_ ≠ 0 ∧ enPeriod (s.chan i).rec_ ≤ e.since)) →
    ∃ t, exec (.sliceRelease handle) s = .next t ∧
      (∃ q, t.encPic i e.n = some q ∧ q.intra = true ∧ q.forced = e.owed ∧ q.count = e.count ∧ q.pts = inp.pts ∧ q.input = inp.num ∧ q.refs = [] ∧ q.slices.length = 1) ∧
      (t.chan i).codec.enc.n = e.n + 1 ∧ (t.chan i).codec.enc.count = (e.count + 1) % 2 ^ 32 ∧ (t.chan i).codec.enc.since = 1 ∧
      (∃ y, tget? t.jobs s.nextJob = some y ∧ y.work = .slice e.n 0 ∧ y.chan = i) ∧
      t.count 0x30 Cnt.SEQ_INTRA_PICS = (s.count 0x30 Cnt.SEQ_INTRA_PICS + 1) % 2 ^ 64) ∧
  (∀ (handle : Word) (i l : Nat) (inp : InPic) (pkg : Package) (s : State), s.chanOf handle.toNat = some i → (s.chan i).pkg = some pkg →
    (s.chan i).codec.enc.pics.find? (fun q => decide (q.slices.length < enSlices (s.chan i).rec_ (s.chan i).seqHdr)) = none →
    (s.chan i).codec.inputs.find? (fun q => !q.taken) = some inp → (s.chan i).codec.inputs.find? (fun q => q.num == inp.num) = some inp →
    l < needEnd (s.chan i).seqHdr pkg 0 (min (enSliceRows (s.chan i).rec_) (seqBR (s.chan i).seqHdr)) → inp.has l = false →
    exec (.sliceRelease handle) s = .next s)

/-- ROW_COMMIT (R328, R332, R338, R343), GATHER_ROW (R308), TABLE_BANK_LOAD (R312), RCA_PARITY_ERROR (R315). -/
def Obligations.RowsAreCommittedAndGathered : Prop :=
  (∀ (id lvl est : Nat) (g : Coding) (k : Package) (ch : Chan) (c : RowCtx) (f : List (Fp × (Int × Cstat)) × CodedRow) (z : List Int) (x : Commit) (s : State),
    s.coding id = some g → g.job.pkg = some k → g.job.st = .running → g.job.stop = none → g.slice.st = 1 → g.slice.done.length < g.slice.rows →
    ch = s.chan g.job.chan → c = rowCtx k ch.seqHdr → lvl = (if governed ch.rec_ then ch.codec.enc.ql else enQlInit ch.rec_) → f = g.form c ch.seqHdr lvl →
    z = f.1.map (fun y => y.2.1) → est = estimate (14 + 3 * bit (governed ch.rec_)) (f.2.pairs ++ hyperPairs c z) →
    x = commitRow ch.rec_ ch.seqHdr ch.codec.enc.ql g.k est g.pic g.slice →
    ∃ t, exec (.rowCommit id g.slice.done.length) s = .next t ∧ (t.chan g.job.chan).codec.enc.ql = x.ql ∧
      (∃ q, t.encPic g.job.chan g.n = some q ∧ q.c = x.pic.c ∧ q.curtain = x.pic.curtain ∧
        (∃ y, q.slices[g.k]? = some y ∧ y.charged = x.slice.charged ∧
          y.done = g.slice.done ++ (x.slice.done.drop g.slice.done.length).map (g.settle c z f.2))) ∧
      t.count 0x31 Cnt.RGV_ROWS_DECIDED = (s.count 0x31 Cnt.RGV_ROWS_DECIDED + 1) % 2 ^ 64 ∧
      t.count 0x31 Cnt.RGV_ESTIMATE_BITS = (s.count 0x31 Cnt.RGV_ESTIMATE_BITS + est) % 2 ^ 64) ∧
  (∀ (id row : Nat) (g : Coding) (s : State), s.coding id = some g → (g.slice.st ≠ 1 ∨ g.slice.rows ≤ g.slice.done.length ∨ row ≠ g.slice.done.length) →
    exec (.rowCommit id row) s = .next s) ∧
  (∀ (id r : Nat) (g : Coding) (k : Package) (d : EncRow) (a b : CodedSlice) (c : RowCtx) (s : State), s.coding id = some g → g.job.pkg = some k →
    g.job.st = .running → g.job.stop = none → g.slice.st = 1 → s.banked (modelId k) = true → r = g.slice.done.findIdx (fun x => !x.gathered) →
    g.slice.done[r]? = some d → c = rowCtx k (s.chan g.job.chan).seqHdr →
    a = { yhat := (g.slice.done.take r).map EncRow.yhat, zs := hyperRows (g.slice.done.take r), side := g.slice.side, main := g.slice.main } →
    b = addRow c (governed (s.chan g.job.chan).rec_) g.slice.first a r ⟨d.curtain, d.ql, d.syms⟩ →
    ∃ t, exec (.gatherRow id r) s = .next t ∧
      (∃ q, t.encPic g.job.chan g.n = some q ∧
        (∃ y, q.slices[g.k]? = some y ∧ y.done = g.slice.done.set r { d with gathered := true } ∧ y.side = b.side ∧ y.main = b.main ∧
          y.st = (if r + 1 = g.slice.rows then 2 else 1))) ∧
      (tget? t.jobs id).map Job.moved = some s.time) ∧
  (∀ (id row : Nat) (g : Coding) (k : Package) (s : State), s.coding id = some g → g.job.pkg = some k →
    (s.banked (modelId k) = false ∨ row ≠ g.slice.done.findIdx (fun x => !x.gathered)) → exec (.gatherRow id row) s = .next s) ∧
  (∀ (id n m : Nat) (j : Job) (k : Package) (s : State), tget? s.jobs id = some j → j.pkg = some k → j.work = .slice n m → j.st = .running → j.stop = none →
    s.tableBanks = [none, none] →
    ∃ t, exec (.tableBankLoad id) s = .next t ∧ t.banked (modelId k) = true ∧ (t.tableBanks = [some (modelId k), none] ∨ t.tableBanks = [none, some (modelId k)]) ∧
      (tget? t.jobs id).map Job.loaded = some true ∧
      t.count 0x33 Cnt.PTB_LOADS = (s.count 0x33 Cnt.PTB_LOADS + 1) % 2 ^ 64 ∧
      t.count 0x33 Cnt.PTB_LOAD_BYTES = (s.count 0x33 Cnt.PTB_LOAD_BYTES + (if k.tables.isSome then 196640 else 65536)) % 2 ^ 64) ∧
  (∀ (id : Nat) (j : Job) (k : Package) (s : State), tget? s.jobs id = some j → j.pkg = some k → s.banked (modelId k) = true →
    exec (.tableBankLoad id) s = .next s) ∧
  (∀ (at_ id ph : Nat) (j : Job) (s : State), at_ < 2 → s.slice = some (id, ph) → tget? s.jobs id = some j → j.stop = none →
    ∃ t, exec (.rcaParityError at_) s = .next t ∧ tget? t.jobs id = some { j with stop := some Code.F_RCA_PARITY } ∧
      t.count 0x32 Cnt.RCA_UPSETS = (s.count 0x32 Cnt.RCA_UPSETS + 1) % 2 ^ 64 ∧ Only (noteParts ++ [.jobs]) s t) ∧
  (∀ (at_ id : Nat) (j : Job) (s : State), 2 ≤ at_ → at_ < 8 → tget? s.jobs id = some j → j.stop = none → j.coder = some at_ →
    ∃ t, exec (.rcaParityError at_) s = .next t ∧ tget? t.jobs id = some { j with stop := some Code.F_RCA_PARITY } ∧
      t.count 0x32 Cnt.RCA_UPSETS = (s.count 0x32 Cnt.RCA_UPSETS + 1) % 2 ^ 64 ∧ Only (noteParts ++ [.jobs]) s t) ∧
  (∀ (at_ m : Nat) (s : State), 8 ≤ at_ → s.tableBanks.getD (at_ - 8) none = some m →
    ∃ t, exec (.rcaParityError at_) s = .next t ∧ t.tableBanks = s.tableBanks.set (at_ - 8) none ∧
      t.count 0x33 Cnt.PTB_UPSETS = (s.count 0x33 Cnt.PTB_UPSETS + 1) % 2 ^ 64 ∧ Only (noteParts ++ [.jobs, .tableBanks]) s t) ∧
  (∀ (at_ : Nat) (s : State), (at_ < 2 ∧ s.slice = none ∨ 8 ≤ at_ ∧ s.tableBanks.getD (at_ - 8) none = none) → exec (.rcaParityError at_) s = .next s)

/-- CODE_PHASE_START (R11, R307 to R309), SLICE_CLOSE (R11, R298, R299, R339), SLICE_EMIT (R361, R459, R465), AUDIO_FRAME_CODE (R307, R400,
R404), ADAPTER_SET_COMPLETE (R356, R357, R360). -/
def Obligations.CodingUnitsCloseAndLeave : Prop :=
  (∀ (id at_ i : Nat) (s : State), s.slice = none → firstReady s.readySlices = some ⟨id, at_, i, none⟩ →
    ∃ t, exec .codePhaseStart s = .next t ∧ t.slice = some (id, 1) ∧
      t.rf 0x32 Reg.RCA_SLICE_HANDLE = handleOf i (s.chan i) % 2 ^ Reg.RCA_SLICE_HANDLE.width ∧ Only [.regs, .slice] s t) ∧
  (∀ (id at_ i : Nat) (g : Coding) (s : State), s.slice = none → firstReady s.readySlices = some ⟨id, at_, i, some g⟩ → s.encPic i g.n = some g.pic →
    g.pic.slices[g.k]? = some g.slice → sliceSyms (s.chan i).rec_ (s.chan i).seqHdr ≤ s.rf 0x32 Reg.RCA_CTRL_GATHER * 16384 →
    ∃ t, exec .codePhaseStart s = .next t ∧ t.slice = some (id, 0) ∧
      (∃ q, t.encPic i g.n = some q ∧ q.slices[g.k]? = some { g.slice with st := 3 }) ∧ t.jobs = s.jobs) ∧
  (∀ (id at_ i : Nat) (g : Coding) (j : Job) (s : State), s.slice = none → firstReady s.readySlices = some ⟨id, at_, i, some g⟩ → tget? s.jobs id = some j →
    j.stop = none → s.rf 0x32 Reg.RCA_CTRL_GATHER * 16384 < sliceSyms (s.chan i).rec_ (s.chan i).seqHdr →
    ∃ t, exec .codePhaseStart s = .next t ∧ t.slice = none ∧ tget? t.jobs id = some { j with stop := some Code.E_RCA_SLICE_SIZE } ∧
      t.count 0x32 Cnt.RCA_GATHER_REJECTS = (s.count 0x32 Cnt.RCA_GATHER_REJECTS + 1) % 2 ^ 64) ∧
  (∀ (s : State), (s.slice.isSome = true ∨ s.readySlices.isEmpty = true) → exec .codePhaseStart s = .next s) ∧
  (∀ (id ph index first rows : Nat) (side main : List Byte) (j : Job) (k : Package) (p : DecPic) (x : Decoded) (s : State), s.slice = some (id, ph) →
    tget? s.jobs id = some j → j.work = .decode index first rows side main → j.pkg = some k → j.stop = none → (s.chan j.chan).codec.dec.pic = some p →
    x = decodeSlice (rowCtx k (s.chan j.chan).codec.dec.seq) p.qlRow p.ql first rows side main →
    ∃ t, exec .sliceClose s = .next t ∧ t.slice = none ∧ (tget? t.jobs id).map Job.coded = some true ∧
      (∃ q, (t.chan j.chan).codec.dec.pic = some q ∧ q.latents = x.yhat.zipIdx.foldl (fun m y => tput m (first + y.2) y.1) p.latents ∧
        q.lost = p.lost.filter (fun r => decide (r < first ∨ first + rows ≤ r)) ++ (List.range (rows - x.yhat.length)).map (· + first + x.yhat.length)) ∧
      (x.code ≠ 0 → (tget? t.jobs id).any (fun y => y.codes.contains x.code) = true) ∧
      t.count 0x32 Cnt.RCA_SLICES_DEC = (s.count 0x32 Cnt.RCA_SLICES_DEC + 1) % 2 ^ 64) ∧
  (∀ (id ph : Nat) (g : Coding) (k : Package) (z : List Byte × CodedSlice × Nat) (s : State), s.slice = some (id, ph) → s.coding id = some g → g.job.pkg = some k →
    g.slice.st = 3 → g.job.stop = none → g.slice.deadline = none → governed (s.chan g.job.chan).rec_ = false →
    z = sliceSegment g k (s.chan g.job.chan).seqHdr false (g.slice.done.findIdx (fun y => y.curtain)) →
    ∃ t, exec .sliceClose s = .next t ∧ t.slice = none ∧
      (∃ q, t.encPic g.job.chan g.n = some q ∧ (∃ y, q.slices[g.k]? = some y ∧ y.st = 4 ∧ y.seg = z.1)) ∧
      t.count 0x32 Cnt.RCA_SLICES_ENC = (s.count 0x32 Cnt.RCA_SLICES_ENC + 1) % 2 ^ 64 ∧
      t.count 0x31 Cnt.RGV_EXACT_BITS = (s.count 0x31 Cnt.RGV_EXACT_BITS + 8 * z.1.length) % 2 ^ 64) ∧
  (∀ (id ph k0 cut : Nat) (g : Coding) (k : Package) (z : List Byte × CodedSlice × Nat) (s : State), s.slice = some (id, ph) → s.coding id = some g →
    g.job.pkg = some k → g.slice.st = 3 → g.job.stop = none → g.slice.deadline = none → governed (s.chan g.job.chan).rec_ = true →
    k0 = g.slice.done.findIdx (fun y => y.curtain) →
    cut = fitRows (fun n => 8 * (sliceSegment g k (s.chan g.job.chan).seqHdr true n).1.length) g.slice.charged k0 →
    z = sliceSegment g k (s.chan g.job.chan).seqHdr true cut →
    ∃ t, exec .sliceClose s = .next t ∧ t.slice = none ∧
      (∃ q, t.encPic g.job.chan g.n = some q ∧ (∃ y, q.slices[g.k]? = some y ∧ y.st = 4 ∧ y.seg = z.1 ∧ y.charged = 8 * z.1.length)) ∧
      t.count 0x31 Cnt.RGV_ROWS_CURTAIN_SIZE = (if cut < k0 then (s.count 0x31 Cnt.RGV_ROWS_CURTAIN_SIZE + (k0 - cut)) % 2 ^ 64 else s.count 0x31 Cnt.RGV_ROWS_CURTAIN_SIZE)) ∧
  (∀ (s : State), s.slice = none → exec .sliceClose s = .next s) ∧
  (∀ (handle : Word) (i k id n : Nat) (p : EncPic) (x : EncSlice) (j : Job) (s : State), s.chanOf handle.toNat = some i → (s.chan i).ty = 0 →
    (s.chan i).codec.enc.pics.find? (fun q => q.slices.any (fun y => decide (y.st < 5 ∨ y.st = 7))) = some p → s.encPic i p.n = some p →
    k = p.slices.findIdx (fun y => decide (y.st < 5 ∨ y.st = 7)) → p.slices[k]? = some x → x.st = 4 → s.sliceJob i p.n k = some (id, j) →
    tget? s.jobs id = some j → j.st = .offstage → j.stop = none → s.mirrorGate i p.count = true → s.standby = false → (s.chan i).stopping = [] →
    (s.chan i).dying = none → p.pad = [] → (s.chan i).codec.enc.auds = [] →
    n = (if p.headOut then 0 else (p.head.map List.length).foldl (· + ·) 0) + x.seg.length →
    (s.chan i).room n = true → s.outBad i n = none → (tget? s.rings (s.chan i).cq).isSome = true →
    ∃ t, exec (.sliceEmit handle) s = .next t ∧ tget? t.jobs id = none ∧ (t.chan i).codec.made = (s.chan i).codec.made + n ∧
      (p.stored = false → ∃ q, t.encPic i p.n = some q ∧ (∃ y, q.slices[k]? = some y ∧ y.st = 5)) ∧
      (∃ d ∈ t.due, d.chan = some i ∧ d.body.seq = x.seq ∧ d.body.kind = 1 ∧ d.body.r0 = p.count + k * 2 ^ 32 ∧ d.body.r1 = (s.chan i).codec.made ∧ d.body.r2 = n) ∧
      t.count 0x30 Cnt.SEQ_SLICES_EMITTED = (s.count 0x30 Cnt.SEQ_SLICES_EMITTED + 1) % 2 ^ 64) ∧
  (∀ (handle : Word) (i k : Nat) (p : EncPic) (x : EncSlice) (s : State), s.chanOf handle.toNat = some i →
    (s.chan i).codec.enc.pics.find? (fun q => q.slices.any (fun y => decide (y.st < 5 ∨ y.st = 7))) = some p →
    k = p.slices.findIdx (fun y => decide (y.st < 5 ∨ y.st = 7)) → p.slices[k]? = some x → x.st < 4 → exec (.sliceEmit handle) s = .next s) ∧
  (∀ (id f n nh nl pts : Nat) (j : Job) (k : Package) (hyp lat : List (List Int)) (handle seq : Word) (s : State), s.names j handle seq = true → tget? s.jobs id = some j → j.pkg = some k → j.work = .audEnc f →
    j.st = .running → j.stop = none → j.coder = none → s.banked (modelId k) = true → s.freeCoder = some n → k.audSyms = some (nh, nl) →
    hyp = (List.range (auNch (s.chan j.chan).rec_)).map (fun c => audHyp k (s.framePcm j.chan f) c nh) →
    lat = hyp.zipIdx.map (fun x => audLat k (s.framePcm j.chan f) x.2 nl x.1) →
    pts = (match (s.chan j.chan).codec.inputs.find? (fun p => p.num == f) with | some p => p.pts | none => 0) →
    ∃ t, exec (.audioFrameCode id handle seq) s = .next t ∧
      tget? t.jobs id = some { j with coder := some n, yhat := List.zipWith (audYhat k) hyp lat, moved := s.time, seg := segment 0xA4 (mkAud (f % 2 ^ 32) pts (auNch (s.chan j.chan).rec_) (audEncode k f hyp lat)) } ∧
      t.count 0x32 Cnt.RCA_AUD_FRAMES = (s.count 0x32 Cnt.RCA_AUD_FRAMES + 1) % 2 ^ 64 ∧ Only [.ctr, .jobs] s t) ∧
  (∀ (id n nh nl : Nat) (j : Job) (k : Package) (a : AudIn) (data : List Byte) (y : List (List Int)) (handle seq : Word) (s : State), s.names j handle seq = true → tget? s.jobs id = some j → j.pkg = some k →
    j.work = .audDec a → a.data = some data → j.st = .running → j.stop = none → j.coder = none → s.banked (modelId k) = true → s.freeCoder = some n →
    k.audSyms = some (nh, nl) → (audDecode k a.frame (auNch (s.chan j.chan).rec_) data).1 = some y →
    (audDecode k a.frame (auNch (s.chan j.chan).rec_) data).2.2.1 = false →
    ∃ t, exec (.audioFrameCode id handle seq) s = .next t ∧ tget? t.jobs id = some { j with coder := some n, yhat := y, moved := s.time } ∧
      t.count 0x32 Cnt.RCA_AUD_FRAMES = (s.count 0x32 Cnt.RCA_AUD_FRAMES + 1) % 2 ^ 64 ∧ Only [.ctr, .jobs] s t) ∧
  (∀ (id n : Nat) (j : Job) (k : Package) (t : Tuning) (handle seq : Word) (s : State), s.names j handle seq = true → tget? s.jobs id = some j → j.pkg = some k → j.work = .tune n → j.tuning = some t →
    j.st = .offstage → j.stop = none → j.updated = false → (s.chan j.chan).dying = none → (s.chan j.chan).stopping = [] →
    ∃ u, exec (.adapterSetComplete id handle seq) s = .next u ∧ tget? u.jobs id = none ∧ (u.chan j.chan).codec.enc.fresh = (s.chan j.chan).codec.enc.fresh ∧
      u.count 0x30 Cnt.SEQ_ADAPT_ABANDONED = (s.count 0x30 Cnt.SEQ_ADAPT_ABANDONED + 1) % 2 ^ 64) ∧
  (∀ (id n : Nat) (j : Job) (k : Package) (t : Tuning) (handle seq : Word) (s : State), s.names j handle seq = true → tget? s.jobs id = some j → j.pkg = some k → j.work = .tune n → j.tuning = some t →
    j.st = .offstage → j.stop = none → j.updated = true → (s.chan j.chan).dying = none → (s.chan j.chan).stopping = [] →
    ∃ u, exec (.adapterSetComplete id handle seq) s = .next u ∧ tget? u.jobs id = none ∧
      (u.chan j.chan).codec.enc.fresh = some ⟨(s.chan j.chan).codec.enc.nextAdp, k.layers.length,
        (List.zipWith (tuneLayer (modelId k) t.rank) k.layers (t.layers k (s.chan j.chan).seqHdr)).flatMap (fun x => x.1)⟩ ∧
      (u.chan j.chan).codec.enc.nextAdp = (if (s.chan j.chan).codec.enc.nextAdp = 65535 then 1 else (s.chan j.chan).codec.enc.nextAdp + 1) ∧
      u.count 0x30 Cnt.SEQ_ADAPT_JOBS = (s.count 0x30 Cnt.SEQ_ADAPT_JOBS + 1) % 2 ^ 64) ∧
  (∀ (id : Nat) (handle seq : Word) (j : Job) (s : State), tget? s.jobs id = some j → (j.st ≠ .offstage ∨ s.names j handle seq = false) →
    exec (.adapterSetComplete id handle seq) s = .next s)

/-- SEQ_SEGMENT (R252 to R256, R371, R389), PIC_SEGMENT (R258, R387, R388), SLC_SEGMENT (R263, R305), AUD_SEGMENT (R403), ADP_SEGMENT
(R278, R279), END_SEGMENT (R282), PAD_SEGMENT (R283), RESERVED_SEGMENT (R246). `u` is the state in which the parser stands on the marker. -/
def Obligations.SegmentsAreTaken : Prop :=
  (∀ (handle : Word) (i : Nat) (far l : List Byte) (x : Content) (d : Dec) (s u : State), AtSegment s handle i 0xA1 far l u → x = content 36 (fun _ => some 0) l →
    d = (u.chan i).codec.dec → x.took = .all → x.bad = false → seqRanges x.head = true → seqModel x.head = modelId ((u.chan i).pkg.getD {}) →
    decRingOk (u.chan i) x.head = true → x.head ≠ d.seq → (∀ p, d.pic = some p → p.ended = true ∧ p.gone = true) → u.stores.any (fun y => y.chan == i) = false →
    ∃ t, exec (.seqSegment handle far) s = .next t ∧ (t.chan i).codec.dec.seq = x.head ∧ (t.chan i).codec.dec.rd = d.rd + 2 + x.used ∧
      (t.chan i).codec.dec.after = true ∧ (t.chan i).codec.dec.pic = none ∧ (t.chan i).codec.dec.active = none ∧ (t.chan i).codec.dec.pending = none ∧
      (t.chan i).codec.dec.lastCount = none ∧ (t.chan i).codec.slots = [] ∧ t.jobs = u.jobs ∧ t.due = u.due) ∧
  (∀ (handle : Word) (i : Nat) (far l : List Byte) (x : Content) (d : Dec) (s u : State), AtSegment s handle i 0xA1 far l u → x = content 36 (fun _ => some 0) l →
    d = (u.chan i).codec.dec → x.took = .all → x.bad = false → x.head = d.seq → seqModel x.head = modelId ((u.chan i).pkg.getD {}) →
    ∃ t, exec (.seqSegment handle far) s = .next t ∧ (t.chan i).codec.dec.seq = d.seq ∧ (t.chan i).codec.dec.rd = d.rd + 2 + x.used ∧
      (t.chan i).codec.dec.after = true ∧ (t.chan i).codec.dec.pic = d.pic ∧ (t.chan i).codec.dec.active = d.active ∧ Only [.chans] u t) ∧
  (∀ (handle : Word) (i code : Nat) (far l : List Byte) (x : Content) (d : Dec) (s u : State), AtSegment s handle i 0xA1 far l u → x = content 36 (fun _ => some 0) l →
    d = (u.chan i).codec.dec → x.took = .all →
    (x.bad = true ∧ code = Code.E_STREAM_SYNTAX ∨ x.bad = false ∧ seqRanges x.head = false ∧ x.head ≠ d.seq ∧ code = Code.E_STREAM_SYNTAX ∨
      x.bad = false ∧ seqRanges x.head = true ∧ seqModel x.head ≠ modelId ((u.chan i).pkg.getD {}) ∧ code = Code.E_MODEL_MISMATCH) →
    (∀ p, d.pic = some p → p.ended = true ∧ p.gone = true) → u.stores.any (fun y => y.chan == i) = false → (tget? u.rings (u.chan i).cq).isSome = true →
    ∃ t, exec (.seqSegment handle far) s = .next t ∧ (t.chan i).codec.dec.seq = [] ∧ (t.chan i).codec.dec.rd = d.rd + 2 + x.used ∧
      (t.chan i).codec.dec.after = false ∧ (t.chan i).codec.slots = [] ∧ t.jobs = u.jobs ∧
      (∃ e, e ∈ t.due ∧ e.event = true ∧ e.chan = some i ∧ e.body.code = code ∧ e.body.r0 = d.rd)) ∧
  (∀ (handle : Word) (i : Nat) (far l : List Byte) (x : Content) (d : Dec) (s u : State), AtSegment s handle i 0xA2 far l u → (u.chan i).ty = 1 →
    x = content 20 (fun _ => some 0) l → d = (u.chan i).codec.dec → d.seq ≠ [] → x.took = .all → x.bad = false → picOk d.seq x.head = true →
    (∀ p, d.pic = some p → p.ended = true ∧ p.gone = true) → u.stores.any (fun y => y.chan == i) = false →
    ∃ t, exec (.picSegment handle far) s = .next t ∧ (t.chan i).codec.dec.lastCount = some (picCount x.head) ∧ (t.chan i).codec.dec.pics = d.pics + 1 ∧
      (t.chan i).codec.dec.rd = d.rd + 2 + x.used ∧ (t.chan i).codec.dec.after = true ∧
      (∃ p, (t.chan i).codec.dec.pic = some p ∧ p.count = picCount x.head ∧ p.pts = picPts x.head ∧ p.intra = !picPred x.head ∧ p.refs = picRefs x.head ∧
        p.store = (if picStore x.head then some (picSlot x.head) else none) ∧ p.ql = picQl x.head ∧ p.nslices = picSlices x.head ∧ p.next = 0 ∧
        p.whole = (picPred x.head && (picRefs x.head).any (fun n => !(tget (u.chan i).codec.slots {} n).full)) ∧ p.ended = p.whole)) ∧
  (∀ (handle : Word) (i n k : Nat) (far l : List Byte) (x : Content) (d : Dec) (p : DecPic) (s u : State), AtSegment s handle i 0xA3 far l u → (u.chan i).ty = 1 →
    x = content 22 slcLen l → d = (u.chan i).codec.dec → d.seq ≠ [] → d.pic = some p → p.whole = false → x.took = .all → x.bad = false → x.headOk = true →
    n = hBits x.head 32 16 → k = hBits x.head 80 32 → hBits x.head 16 16 = p.count % 65536 → p.next ≤ n → n < p.nslices → hBits x.head 48 16 = n * p.sliceRows →
    hBits x.head 64 8 = (p.rows d.seq n).length → crc32c x.pay = hBits x.head 144 32 →
    ∃ t, exec (.slcSegment handle far) s = .next t ∧ (t.chan i).codec.dec.rd = d.rd + 2 + x.used ∧ (t.chan i).codec.dec.after = true ∧
      (∃ j, tget? t.jobs u.nextJob = some j ∧ j.chan = i ∧ j.st = .ready ∧ j.coded = false ∧
        j.work = .decode n ((p.rows d.seq n).headD 0) (p.rows d.seq n).length (x.pay.take k) (x.pay.drop k)) ∧
      (∃ q, (t.chan i).codec.dec.pic = some q ∧ q.next = n + 1 ∧ q.ended = decide (n + 1 = p.nslices) ∧
        q.lost = p.lost ++ (List.range (n - p.next)).flatMap (fun m => p.rows d.seq (p.next + m)))) ∧
  (∀ (handle : Word) (i n : Nat) (far l : List Byte) (x : Content) (d : Dec) (p : DecPic) (s u : State), AtSegment s handle i 0xA3 far l u → (u.chan i).ty = 1 →
    x = content 22 slcLen l → d = (u.chan i).codec.dec → d.seq ≠ [] → d.pic = some p → p.whole = false → x.took = .all → x.bad = false → x.headOk = true →
    n = hBits x.head 32 16 → hBits x.head 16 16 = p.count % 65536 → p.next ≤ n → n < p.nslices → crc32c x.pay ≠ hBits x.head 144 32 →
    ∃ t, exec (.slcSegment handle far) s = .next t ∧ (t.chan i).codec.dec.rd = d.rd + 2 + x.used ∧ (t.chan i).codec.dec.after = false ∧
      (∃ j, tget? t.jobs u.nextJob = some j ∧ j.chan = i ∧ j.coded = true ∧ j.codes.contains Code.E_STREAM_SYNTAX = true) ∧
      (∃ q, (t.chan i).codec.dec.pic = some q ∧ q.next = n + 1 ∧
        q.lost = p.lost ++ (List.range (n - p.next)).flatMap (fun m => p.rows d.seq (p.next + m)) ++ p.rows d.seq n)) ∧
  (∀ (handle : Word) (i n f : Nat) (far l : List Byte) (x : Content) (d : Dec) (s u : State), AtSegment s handle i 0xA4 far l u → x = content 22 audLen l →
    d = (u.chan i).codec.dec → d.seq ≠ [] → x.took = .all → x.bad = false → u.audOf i = some n → seqAud d.seq ≠ 0 → hBits x.head 96 5 = seqAud d.seq →
    hBits x.head 96 5 = auNch (u.chan n).rec_ → crc32c x.pay = hBits x.head 144 32 → f = hBits x.head 16 32 →
    ((u.chan n).codec.aud.last = none ∨ ∃ p, (u.chan n).codec.aud.last = some p ∧ ahead 32 f p = 1) →
    ∃ t, exec (.audSegment handle far) s = .next t ∧ (t.chan i).codec.dec.rd = d.rd + 2 + x.used ∧ (t.chan i).codec.dec.after = true ∧
      (∃ j, tget? t.jobs u.nextJob = some j ∧ j.chan = n ∧ j.st = .ready ∧ j.codes = [] ∧ j.work = .audDec ⟨f, some x.pay, (u.chan n).codec.aud.last.isNone⟩) ∧
      (t.chan n).codec.aud.last = some f ∧ (t.chan n).codec.aud.pts = hBits x.head 48 48) ∧
  (∀ (handle : Word) (i : Nat) (far l : List Byte) (x : Content) (d : Dec) (s u : State), AtSegment s handle i 0xA4 far l u → x = content 22 audLen l →
    d = (u.chan i).codec.dec → d.seq ≠ [] → x.took = .all → x.bad = false → u.audOf i = none →
    ∃ t, exec (.audSegment handle far) s = .next t ∧ (t.chan i).codec.dec.rd = d.rd + 2 + x.used ∧ (t.chan i).codec.dec.after = true ∧ Only [.chans] u t) ∧
  (∀ (handle : Word) (i : Nat) (far l : List Byte) (x : Content) (d : Dec) (s u : State), AtSegment s handle i 0xA5 far l u → x = content 26 adpLen l →
    d = (u.chan i).codec.dec → d.seq ≠ [] → x.took = .all → x.bad = false → hBits x.head 16 16 ≠ 0 →
    beNat (Config.shake256 x.pay 16) = hBits x.head 80 128 → adpRecsOk ((u.chan i).pkg.getD {}) (hBits x.head 32 8) none x.pay = true →
    ∃ t, exec (.adpSegment handle far) s = .next t ∧ (t.chan i).codec.dec.rd = d.rd + 2 + x.used ∧ (t.chan i).codec.dec.after = true ∧
      (t.chan i).codec.dec.pending = some ⟨hBits x.head 16 16, hBits x.head 32 8, x.pay⟩ ∧ (t.chan i).codec.dec.active = d.active ∧ Only [.chans] u t) ∧
  (∀ (handle : Word) (i : Nat) (far l : List Byte) (x : Content) (d : Dec) (s u : State), AtSegment s handle i 0xA5 far l u → x = content 26 adpLen l →
    d = (u.chan i).codec.dec → d.seq ≠ [] → x.took = .all → x.bad = false →
    (hBits x.head 16 16 = 0 ∨ beNat (Config.shake256 x.pay 16) ≠ hBits x.head 80 128 ∨ adpRecsOk ((u.chan i).pkg.getD {}) (hBits x.head 32 8) none x.pay = false) →
    (tget? u.rings (u.chan i).cq).isSome = true →
    ∃ t, exec (.adpSegment handle far) s = .next t ∧ (t.chan i).codec.dec.pending = d.pending ∧ (t.chan i).codec.dec.active = d.active ∧
      (t.chan i).codec.dec.after = false ∧ (∃ e, e ∈ t.due ∧ e.event = true ∧ e.chan = some i ∧ e.body.code = Code.E_ADP_CHECK ∧ e.body.r0 = d.rd)) ∧
  (∀ (handle : Word) (i : Nat) (far l : List Byte) (d : Dec) (s u : State), AtSegment s handle i 0xA6 far l u → d = (u.chan i).codec.dec → d.seq ≠ [] →
    (∀ p, d.pic = some p → p.ended = true ∧ p.gone = true) → u.stores.any (fun y => y.chan == i) = false →
    ∃ t, exec (.endSegment handle far) s = .next t ∧ (t.chan i).codec.dec.seq = [] ∧ (t.chan i).codec.dec.pic = none ∧ (t.chan i).codec.dec.active = none ∧
      (t.chan i).codec.slots = [] ∧ (t.chan i).codec.dec.rd = d.rd + 2 ∧ (t.chan i).codec.dec.after = true ∧ t.jobs = u.jobs) ∧
  (∀ (handle : Word) (i : Nat) (far l : List Byte) (d : Dec) (s u : State), AtSegment s handle i 0xAF far l u → d = (u.chan i).codec.dec →
    ∃ t, exec (.padSegment handle far) s = .next t ∧ (t.chan i).codec.dec.rd = d.rd + 2 ∧ (t.chan i).codec.dec.after = false ∧
      (t.chan i).codec.dec.seq = d.seq ∧ (t.chan i).codec.dec.pic = d.pic ∧ Only [.chans] u t) ∧
  (∀ (handle : Word) (i code : Nat) (far l : List Byte) (d : Dec) (s u : State), AtSegment s handle i code far l u → (code = 0xA0 ∨ 0xA7 ≤ code ∧ code ≠ 0xAF) →
    d = (u.chan i).codec.dec →
    ∃ t, exec (.reservedSegment handle far) s = .next t ∧ (t.chan i).codec.dec.rd = d.rd + 2 ∧ (t.chan i).codec.dec.after = false ∧
      (t.chan i).codec.dec.seq = d.seq ∧ (t.chan i).codec.dec.pic = d.pic ∧ Only [.chans] u t) ∧
  (∀ (handle : Word) (i code : Nat) (far l : List Byte) (s u : State), AtSegment s handle i code far l u → code ≠ 0xA1 → exec (.seqSegment handle far) s = .next u)

/-- DELIVERY_WRITE (R370, R372, R378, R379, R395, R401, R459): the lines and the record of a decoded picture, an enhanced picture, an audio
frame coded or decoded. -/
def Obligations.UnitsAreDelivered : Prop :=
  (∀ (id n first rows upto buf base : Nat) (side main : List Byte) (fin : Bool) (j : Job) (c : Chan) (h : List Byte) (p q : DecPic) (l : List (Nat × List Byte)) (s : State),
    Delivers s id j → j.work = .decode n first rows side main → c = s.chan j.chan → h = c.codec.dec.seq → c.codec.dec.pic = some p → deMode c.rec_ = 0 →
    upto = j.upto h (j.pkg.getD {}) p → fin = decide (n + 1 = p.nslices) → q = { p with wrote := max p.wrote upto, dropped := p.dropped || j.late } →
    buf = c.codec.made % max 1 (deSlots c.rec_) → base = deBase c.rec_ + buf * picBytes h (dePitch c.rec_) →
    l = (if j.withheld c.rec_ p then [] else ((List.range (upto - p.wrote)).map (· + p.wrote)).flatMap (rowWrites h base (dePitch c.rec_) p.lines)) ++
      (if fin then recordWrites (deInfo c.rec_) q buf s.time else []) →
    c.codec.made - c.codec.head < deSlots c.rec_ → s.writesBad j.chan l = none →
    ∃ t, exec (.deliveryWrite id) s = .next t ∧ tget? t.jobs id = none ∧ t.mem = (writeAll j.chan l s).mem ∧
      (t.chan j.chan).codec.made = c.codec.made + bit fin ∧
      (∃ z, (t.chan j.chan).codec.dec.pic = some z ∧ z.wrote = q.wrote ∧ z.gone = fin)) ∧
  (∀ (id n first rows : Nat) (side main : List Byte) (j : Job) (c : Chan) (p : DecPic) (s : State), Delivers s id j → j.work = .decode n first rows side main →
    c = s.chan j.chan → c.codec.dec.pic = some p → deMode c.rec_ = 0 → deSlots c.rec_ ≤ c.codec.made - c.codec.head → exec (.deliveryWrite id) s = .next s) ∧
  (∀ (id slots buf pts a b : Nat) (j : Job) (c : Chan) (h : List Byte) (x : Io) (l : List (Nat × List Byte)) (s : State), Delivers s id j → j.work = .enhance a b pts →
    c = s.chan j.chan → c.io = some x → nhMode c.rec_ = 0 → j.late = false → h = enhGeom s j.chan (nhW c.rec_ * nhSr c.rec_) (nhH c.rec_ * nhSr c.rec_) →
    slots = max 1 x.inSlots → buf = c.codec.made % slots →
    l = (sampleWrites h (x.outBase + buf * picBytes h x.outPitch) x.outPitch j.seg).filter (fun y => decide (y.1 + y.2.length ≤ x.outBase + x.outBytes)) →
    c.codec.made - c.codec.head < slots → s.writesBad j.chan l = none → (tget? s.rings c.cq).isSome = true →
    ∃ t, exec (.deliveryWrite id) s = .next t ∧ tget? t.jobs id = none ∧ t.mem = (writeAll j.chan l s).mem ∧ (t.chan j.chan).codec.made = c.codec.made + 1 ∧
      (∃ d, d ∈ t.due ∧ d.chan = some j.chan ∧ d.body.seq = j.seq ∧ d.body.kind = 3 ∧ d.body.r0 = pts ∧ d.body.r1 = buf)) ∧
  (∀ (id n slot va : Nat) (bytes : List Byte) (a : AudIn) (j : Job) (c : Chan) (s : State), Delivers s id j → j.work = .audDec a → c = s.chan j.chan →
    auIo c.rec_ ≠ 1 → n = max 1 (auFrames c.rec_) → slot = c.codec.made % n → va = auBase c.rec_ + slot * 1920 * auNch c.rec_ →
    bytes = (if j.late then List.replicate (1920 * auNch c.rec_) 0 else j.seg) → c.codec.made - c.codec.head < n → s.firstMiss j.chan va bytes.length true = none →
    (tget? s.rings c.cq).isSome = true →
    ∃ t, exec (.deliveryWrite id) s = .next t ∧ tget? t.jobs id = none ∧ t.mem = (writeVa j.chan va bytes .none (bytes.length / 65536 + 2) s).mem ∧
      (t.chan j.chan).codec.made = c.codec.made + 1 ∧
      (∃ d, d ∈ t.due ∧ d.chan = some j.chan ∧ d.body.seq = j.seq ∧ d.body.kind = 4 ∧ d.body.r0 = a.frame ∧ d.body.r1 = slot)) ∧
  (∀ (id n f : Nat) (head : List Byte) (j : Job) (c : Chan) (s : State), Delivers s id j → j.work = .audEnc f → c = s.chan j.chan → j.late = false →
    auMux c.rec_ = 0 → head = (if c.codec.enc.seqOut then [] else audSeq c (j.pkg.getD {})) → n = head.length + j.seg.length → c.room n = true →
    s.outBad j.chan n = none → (tget? s.rings c.cq).isSome = true →
    ∃ t, exec (.deliveryWrite id) s = .next t ∧ tget? t.jobs id = none ∧ (t.chan j.chan).codec.made = c.codec.made + n ∧
      (∃ d, d ∈ t.due ∧ d.chan = some j.chan ∧ d.body.seq = j.seq ∧ d.body.kind = 4 ∧ d.body.r0 = f ∧ d.body.r2 = j.seg.length)) ∧
  (∀ (id : Nat) (j : Job) (s : State), tget? s.jobs id = some j → (j.st ≠ .offstage ∨ (s.chanJobs j.chan).any (fun (x : Nat × Job) => decide (x.1 < id)) = true) →
    exec (.deliveryWrite id) s = .next s)

/-- FSC_STORE (R415 to R417, R420, R422, R424) and FSC_LOAD (R417, R418). -/
def Obligations.FrameStoreWorks : Prop :=
  (∀ (n : Nat) (mismatch : Bool) (far orig : List Byte) (p : PicStore) (s : State), s.stores[n]? = some p → p.rows[p.objs.length]? = some orig →
    (mismatch = false ∨ s.rf 0x34 Reg.FSC_CTRL_SELFCHECK = 0) → p.objs.length + 1 < p.rows.length →
    ∃ t, exec (.fscStore none n mismatch far) s = .next t ∧ t.stores = s.stores.set n { p with objs := p.objs ++ [fscObject orig] } ∧ Only [.ctr, .stores] s t) ∧
  (∀ (n : Nat) (mismatch : Bool) (far orig : List Byte) (p : PicStore) (s : State), s.stores[n]? = some p → p.rows[p.objs.length]? = some orig →
    (mismatch = false ∨ s.rf 0x34 Reg.FSC_CTRL_SELFCHECK = 0) → p.objs.length + 1 = p.rows.length → p.pic = none → (s.chan p.chan).stopping = [] →
    ∃ t, exec (.fscStore none n mismatch far) s = .next t ∧ t.stores = s.stores.eraseIdx n ∧ (t.chan p.chan).codec.stores = (s.chan p.chan).codec.stores + 1 ∧
      tget (t.chan p.chan).codec.slots {} p.slot =
        (tget (s.chan p.chan).codec.slots {} p.slot).take p (p.objs ++ [fscObject orig]) ((s.chan p.chan).codec.stores + 1) ∧ Only [.ctr, .stores, .chans] s t) ∧
  (∀ (n : Nat) (far orig : List Byte) (p : PicStore) (s : State), s.stores[n]? = some p → p.rows[p.objs.length]? = some orig →
    s.rf 0x34 Reg.FSC_CTRL_SELFCHECK = 1 → p.tries < setRetries (s.chan p.chan).settings →
    ∃ t, exec (.fscStore none n true far) s = .next t ∧ t.stores = s.stores.set n { p with tries := p.tries + 1 } ∧
      t.count 0x34 Cnt.FSC_SELFCHECK_FAILS = (s.count 0x34 Cnt.FSC_SELFCHECK_FAILS + 1) % 2 ^ 64 ∧ t.chans = s.chans ∧ t.mem = s.mem) ∧
  (∀ (id n k i : Nat) (mismatch : Bool) (far orig obj : List Byte) (j : Job) (a : CompArgs) (x : CompSt) (s : State), s.compJob id 0 = some (j, a) → i = j.chan →
    x = j.comp → k = min a.count (a.srcLen - x.src) → s.firstMiss i (a.src + x.src) k false = none → orig = readVa s i (a.src + x.src) k far →
    obj = (if a.mode = 1 then fscObject orig else fixObject a.mode a.elem a.width orig) → x.dst + obj.length ≤ a.dstLen →
    s.firstMiss i (a.dst + x.dst) obj.length true = none → (mismatch = false ∨ s.rf 0x34 Reg.FSC_CTRL_SELFCHECK = 0) → x.src + k < a.srcLen →
    ∃ t, exec (.fscStore (some id) n mismatch far) s = .next t ∧ t.mem = (compPut i a x (obj.take 16) (compPut i a x (0 :: obj.tail) s)).mem ∧
      (tget? t.jobs id).map Job.comp = some ⟨x.objs + 1, x.src + k, up64 (x.dst + obj.length), x.heads ++ [a.dst + x.dst], x.bytes + obj.length⟩ ∧ t.stores = s.stores) ∧
  (∀ (id n k i : Nat) (mismatch : Bool) (far orig obj : List Byte) (j : Job) (a : CompArgs) (x : CompSt) (s : State), s.compJob id 0 = some (j, a) → i = j.chan →
    x = j.comp → k = min a.count (a.srcLen - x.src) → s.firstMiss i (a.src + x.src) k false = none → orig = readVa s i (a.src + x.src) k far →
    obj = (if a.mode = 1 then fscObject orig else fixObject a.mode a.elem a.width orig) → x.dst + obj.length ≤ a.dstLen →
    s.firstMiss i (a.dst + x.dst) obj.length true = none → (mismatch = false ∨ s.rf 0x34 Reg.FSC_CTRL_SELFCHECK = 0) → a.srcLen ≤ x.src + k →
    (s.chan i).stopping = [] → (s.chan i).dying = none → (tget? s.rings (s.chan i).cq).isSome = true →
    ∃ t, exec (.fscStore (some id) n mismatch far) s = .next t ∧ t.mem = (compPut i a x (obj.take 16) (compPut i a x (0 :: obj.tail) s)).mem ∧ tget? t.jobs id = none ∧
      (∃ d, d ∈ t.due ∧ d.chan = some i ∧ d.body.seq = j.seq ∧ d.body.r0 = x.bytes + obj.length ∧ d.body.r1 = x.objs + 1)) ∧
  (∀ (id i : Nat) (far hd l : List Byte) (j : Job) (a : CompArgs) (x : CompSt) (s : State), s.compJob id 1 = some (j, a) → i = j.chan → x = j.comp →
    x.src + 16 ≤ a.srcLen → s.firstMiss i (a.src + x.src) 16 false = none → hd = readVa s i (a.src + x.src) 16 far → fscHeadFail hd = none →
    x.src + 16 + leAt hd 8 4 ≤ a.srcLen → x.dst + leAt hd 4 4 ≤ a.dstLen → s.firstMiss i (a.src + x.src + 16) (leAt hd 8 4) false = none →
    s.firstMiss i (a.dst + x.dst) (leAt hd 4 4) true = none →
    (fscOpen hd (readVa s i (a.src + x.src + 16) (leAt hd 8 4) (pastHead s i (a.src + x.src) far))).toOption = some l → x.objs + 1 < a.count →
    ∃ t, exec (.fscLoad id far) s = .next t ∧ t.mem = (compPut i a x l s).mem ∧
      (tget? t.jobs id).map Job.comp = some { x with objs := x.objs + 1, src := up64 (x.src + 16 + leAt hd 8 4), dst := x.dst + l.length, bytes := x.bytes + l.length } ∧
      t.count 0x34 Cnt.FSC_OBJ_DECOMP = (s.count 0x34 Cnt.FSC_OBJ_DECOMP + 1) % 2 ^ 64) ∧
  (∀ (id i code : Nat) (far hd : List Byte) (j : Job) (a : CompArgs) (x : CompSt) (s : State), s.compJob id 1 = some (j, a) → i = j.chan → x = j.comp →
    x.src + 16 ≤ a.srcLen → s.firstMiss i (a.src + x.src) 16 false = none → hd = readVa s i (a.src + x.src) 16 far → fscHeadFail hd = some code →
    ∃ t, exec (.fscLoad id far) s = .next t ∧ tget? t.jobs id = some { j with stop := some code } ∧ t.mem = s.mem) ∧
  (∀ (id : Nat) (far : List Byte) (s : State), s.compJob id 1 = none → exec (.fscLoad id far) s = .next s)

/-- ENTRY_FETCH (R444, R448, R449) and FENCE_RELEASE (R449). -/
def Obligations.EntriesAreFetched : Prop :=
  (∀ (q : Nat) (k : Queue) (e : Entry) (pkgs : List Package) (remote : List (List Byte)) (s : State), s.queues = [(q, k)] → k.weight = 1 → k.stopped = false →
    k.waiting = [] → k.covered ≠ 0 → e = BitVec.ofNat 1024 (s.load (k.base + 128 * (k.h % 2 ^ k.log2n)) 128) → (eFence e = false ∨ k.openRecs = 0) →
    exec (.entryFetch pkgs remote) s = .next (admitEntry q e (pkgs.headD {}) (remote.headD [])
      (({ s with queues := tput s.queues q { k with h := k.h + 1, waiting := [] } } : State).wf 0x22 (Reg.HQD_DBH_FETCHED.nth 8 q) (k.h + 1)))) ∧
  (∀ (q : Nat) (k : Queue) (e : Entry) (pkgs : List Package) (remote : List (List Byte)) (s : State), s.queues = [(q, k)] → 0 < k.weight → k.stopped = false →
    k.waiting = [] → k.covered ≠ 0 → e = BitVec.ofNat 1024 (s.load (k.base + 128 * (k.h % 2 ^ k.log2n)) 128) → eFence e = true → 0 < k.openRecs →
    ∃ t, exec (.entryFetch pkgs remote) s = .next t ∧ tget? t.queues q = some { k with h := k.h + 1, waiting := [e] } ∧ Only [.regs, .queues] s t) ∧
  (∀ (pkgs : List Package) (remote : List (List Byte)) (s : State),
    (∀ q k, tget? s.queues q = some k → k.stopped = true ∨ k.waiting.isEmpty = false ∨ k.covered = 0) → exec (.entryFetch pkgs remote) s = .next s) ∧
  (∀ (q : Fin 256) (k : Queue) (e : Entry) (w : List Entry) (pkg : Package) (remote : List Byte) (s : State), tget? s.queues q.val = some k → k.waiting = e :: w →
    k.openRecs = 0 →
    exec (.fenceRelease q pkg remote) s = .next (admitEntry q.val e pkg remote { s with queues := tput s.queues q.val { k with waiting := w } })) ∧
  (∀ (q : Fin 256) (k : Queue) (pkg : Package) (remote : List Byte) (s : State), tget? s.queues q.val = some k → (0 < k.openRecs ∨ k.waiting = []) →
    exec (.fenceRelease q pkg remote) s = .next s)

/-- LPDDR_READ, LPDDR_WRITE, SCRUB_LINE (R483, R487 to R492, R514), SHS_ECC_ERROR (R649, R650): lines of LPDDR6 and words of the Shared Store. -/
def Obligations.MemoryLinesAreReadWrittenAndScrubbed : Prop :=
  (∀ (a : Nat) (job : Option Nat) (s : State), isLpddr a = true → s.refusing (memPage a) = false → s.poison.contains (a / 64) = false →
    ∃ t, exec (.lpddrRead a job .clean) s = .next t ∧ t.count (memPage a) Cnt.MEM_RD_REQS = (s.count (memPage a) Cnt.MEM_RD_REQS + 1) % 2 ^ 64 ∧
      t.count (memPage a) Cnt.MEM_RD_BYTES = (s.count (memPage a) Cnt.MEM_RD_BYTES + 64) % 2 ^ 64 ∧ Only [.ctr] s t) ∧
  (∀ (a : Nat) (job : Option Nat) (s : State), isLpddr a = true → s.refusing (memPage a) = false → s.poison.contains (a / 64) = false →
    ∃ t, exec (.lpddrRead a job .corrected) s = .next t ∧ t.count (memPage a) Cnt.MEM_CORRECTED = (s.count (memPage a) Cnt.MEM_CORRECTED + 1) % 2 ^ 64 ∧
      t.jobs = s.jobs ∧ t.poison = s.poison ∧ Only noteParts s t) ∧
  (∀ (a id : Nat) (j : Job) (s : State), isLpddr a = true → s.refusing (memPage a) = false → s.poison.contains (a / 64) = false → tget? s.jobs id = some j →
    j.stop = none →
    ∃ t, exec (.lpddrRead a (some id) .uncorrectable) s = .next t ∧ t.poison = a / 64 :: s.poison ∧ tget? t.jobs id = some { j with stop := some Code.F_MEM_UNCORRECTABLE } ∧
      t.count (memPage a) Cnt.MEM_UNCORRECTABLE = (s.count (memPage a) Cnt.MEM_UNCORRECTABLE + 1) % 2 ^ 64 ∧ t.mem = s.mem) ∧
  (∀ (a id : Nat) (j : Job) (ecc : Ecc) (s : State), isLpddr a = true → s.refusing (memPage a) = false → s.poison.contains (a / 64) = true →
    tget? s.jobs id = some j → j.stop = none →
    ∃ t, exec (.lpddrRead a (some id) ecc) s = .next t ∧ tget? t.jobs id = some { j with stop := some Code.F_MEM_UNCORRECTABLE } ∧
      t.count (memPage a) Cnt.MEM_POISON_RD = (s.count (memPage a) Cnt.MEM_POISON_RD + 1) % 2 ^ 64 ∧ Only [.ctr, .jobs] s t) ∧
  (∀ (a id : Nat) (j : Job) (ecc : Ecc) (s : State), isLpddr a = true → s.refusing (memPage a) = true → tget? s.jobs id = some j → j.stop = none →
    ∃ t, exec (.lpddrRead a (some id) ecc) s = .next t ∧ tget? t.jobs id = some { j with stop := some Code.E_PEER_ABSENT } ∧ Only [.ctr, .jobs] s t) ∧
  (∀ (a : Nat) (b : List Byte) (job : Option Nat) (ecc : Ecc) (s : State), isLpddr a = true → s.refusing (memPage a) = false → b.length = 64 →
    ∃ t, exec (.lpddrWrite a 0 b job ecc) s = .next t ∧ t.poison = s.poison.filter (· ≠ a / 64) ∧ t.mem = (s.store (a / 64 * 64) b).mem ∧ Only [.ctr, .mem, .poison] s t) ∧
  (∀ (a off : Nat) (b : List Byte) (job : Option Nat) (s : State), isLpddr a = true → s.refusing (memPage a) = false → off < 64 → off + b.length ≤ 64 → b.length < 64 →
    s.poison.contains (a / 64) = false →
    ∃ t, exec (.lpddrWrite a off b job .clean) s = .next t ∧ t.mem = (s.store (a / 64 * 64 + off) b).mem ∧
      t.count (memPage a) Cnt.MEM_PARTIAL_WR = (s.count (memPage a) Cnt.MEM_PARTIAL_WR + 1) % 2 ^ 64 ∧ t.jobs = s.jobs ∧ t.poison = s.poison) ∧
  (∀ (a : Nat) (raced : Bool) (s : State), isLpddr a = true → s.rf (memPage a) Reg.MEM_SCRUB_PERIOD ≠ 0 → s.rf (memPage a) Reg.PG_STAT_POWERED_DOWN = 0 →
    ∃ t, exec (.scrubLine a .clean raced) s = .next t ∧ t.count (memPage a) Cnt.MEM_SCRUB_LINES = (s.count (memPage a) Cnt.MEM_SCRUB_LINES + 1) % 2 ^ 64 ∧ Only [.ctr] s t) ∧
  (∀ (a : Nat) (raced : Bool) (s : State), isLpddr a = true → s.rf (memPage a) Reg.MEM_SCRUB_PERIOD ≠ 0 → s.rf (memPage a) Reg.PG_STAT_POWERED_DOWN = 0 →
    s.poison.contains (a / 64) = false →
    ∃ t, exec (.scrubLine a .uncorrectable raced) s = .next t ∧ t.poison = a / 64 :: s.poison ∧
      t.count (memPage a) Cnt.MEM_UNCORRECTABLE = (s.count (memPage a) Cnt.MEM_UNCORRECTABLE + 1) % 2 ^ 64 ∧ t.jobs = s.jobs) ∧
  (∀ (a : Nat) (ecc : Ecc) (raced : Bool) (s : State), s.rf (memPage a) Reg.MEM_SCRUB_PERIOD = 0 → exec (.scrubLine a ecc raced) s = .next s) ∧
  (∀ (o : Nat) (job : Option Nat) (s : State), o < 0x4000000 →
    ∃ t, exec (.shsEccError o false job) s = .next t ∧ t.count 0x3A Cnt.SHS_CORRECTED = (s.count 0x3A Cnt.SHS_CORRECTED + 1) % 2 ^ 64 ∧ t.jobs = s.jobs ∧
      Only noteParts s t) ∧
  (∀ (o id : Nat) (j : Job) (s : State), o < 0x4000000 → s.wordOwner o = none → tget? s.jobs id = some j → j.stop = none → s.rf 0x3A Reg.SHS_UE_VALID = 0 →
    ∃ t, exec (.shsEccError o true (some id)) s = .next t ∧ tget? t.jobs id = some { j with stop := some Code.F_SHS_UNCORRECTABLE } ∧
      t.rf 0x3A Reg.SHS_UE_VALID = 1 ∧ t.rf 0x3A Reg.SHS_UE_ADDR_OFFSET = o / 8 * 8 % 2 ^ Reg.SHS_UE_ADDR_OFFSET.width ∧
      t.count 0x3A Cnt.SHS_UNCORRECTABLE = (s.count 0x3A Cnt.SHS_UNCORRECTABLE + 1) % 2 ^ 64 ∧ t.chans = s.chans) ∧
  (∀ (o i : Nat) (job : Option Nat) (s : State), o < 0x4000000 → s.wordOwner o = some i → (s.chan i).dying = none → (s.chan i).st ≠ 5 → s.chanJobs i = [] →
    (s.chan i).endDue = false → (s.chan i).live = none →
    ∃ t, exec (.shsEccError o true job) s = .next t ∧ (t.chan i).st = 5)
end

