-- ==== Sys2Proof/Laws/Ends.lean ====
section
/-! SUPPORT. `Ends P` (Safety.lean) by the form of an outcome, and the same for a step that may answer nothing. -/

namespace Sys2Proof.Machine

@[simp] theorem ends_next {P : State → Prop} (t : State) : Ends P (.next t) = P t := rfl

@[simp] theorem ends_fault {P : State → Prop} (f : Fault) : Ends P (.fault f) = True := rfl

@[simp] theorem ends_refused {P : State → Prop} (f : Refusal) : Ends P (.refused f) = True := rfl

@[simp] theorem ends_ite {P : State → Prop} {c : Prop} [Decidable c] {a b : Host.Outcome State Fault Refusal} (h : c → Ends P a) (g : ¬c → Ends P b) :
    Ends P (if c then a else b) := by
  split
  · exact h ‹_›
  · exact g ‹_›

/-- What holds of the state an optional step answers, where it answers one. -/
def Kept (P : State → Prop) (o : Option State) : Prop := ∀ t, o = some t → P t

@[simp] theorem kept_none {P : State → Prop} : Kept P none := fun _ h => by cases h

@[simp] theorem kept_some {P : State → Prop} (t : State) : Kept P (some t) = P t := by simp [Kept]

end Sys2Proof.Machine
end

