-- ==== Sys2Proof/Laws/Tables.lean ====
section
/-! SUPPORT. Sparse tables: what a look-up gives after a change, and that every change keeps the keys rising; the memory built on
them. -/

namespace Sys2Proof.Machine

variable {α : Type}

@[simp] theorem tget?_tput_same (t : Tbl α) (i : Nat) (x : α) : tget? (tput t i x) i = some x := by
  induction t with
  | nil => simp [tput, tget?]
  | cons e t ih =>
    obtain ⟨k, v⟩ := e
    simp only [tput]
    split
    · simp [tget?]
    · split
      · simp [tget?]
      · rename_i h1 h2
        simp only [tget?, ih]
        rw [if_neg (fun h => h2 h.symm)]

theorem tget?_tput_other (t : Tbl α) {i j : Nat} (x : α) (h : j ≠ i) : tget? (tput t i x) j = tget? t j := by
  have hij : i ≠ j := fun e => h e.symm
  induction t with
  | nil => simp [tput, tget?, hij]
  | cons e t ih =>
    obtain ⟨k, v⟩ := e
    simp only [tput]
    split
    · simp [tget?, hij]
    · split
      · rename_i h2
        simp [tget?, hij, ← h2]
      · simp [tget?, ih]

@[simp] theorem tget?_tdel_same (t : Tbl α) (i : Nat) : tget? (tdel t i) i = none := by
  induction t with
  | nil => rfl
  | cons e t ih =>
    obtain ⟨k, v⟩ := e
    simp only [tdel, List.filter_cons] at ih ⊢
    split
    · rename_i h
      rw [tget?, if_neg (by simpa using h)]
      exact ih
    · exact ih

theorem tget?_tdel_other (t : Tbl α) {i j : Nat} (h : j ≠ i) : tget? (tdel t i) j = tget? t j := by
  induction t with
  | nil => rfl
  | cons e t ih =>
    obtain ⟨k, v⟩ := e
    simp only [tdel, List.filter_cons] at ih ⊢
    split
    · simp only [tget?, ih]
    · rename_i hk
      have : k ≠ j := by intro e; apply h; rw [← e]; simpa using hk
      rw [ih, tget?, if_neg this]

@[simp] theorem tget_tput_same (t : Tbl α) (d : α) (i : Nat) (x : α) : tget (tput t i x) d i = x := by simp [tget]

theorem tget_tput_other (t : Tbl α) (d : α) {i j : Nat} (x : α) (h : j ≠ i) : tget (tput t i x) d j = tget t d j := by
  simp [tget, tget?_tput_other t x h]

@[simp] theorem tget_dput_same [DecidableEq α] (d : α) (t : Tbl α) (i : Nat) (x : α) : tget (dput d t i x) d i = x := by
  simp only [dput]
  split
  · rename_i h; simp [tget, h]
  · simp

theorem tget_dput_other [DecidableEq α] (d e : α) (t : Tbl α) {i j : Nat} (x : α) (h : j ≠ i) : tget (dput d t i x) e j = tget t e j := by
  simp only [dput]
  split
  · simp [tget, tget?_tdel_other t h]
  · exact tget_tput_other t e x h

/-! Rising keys -/

theorem rising_iff (t : Tbl α) : rising t = true ↔ (t.map Prod.fst).Pairwise (· < ·) := by
  induction t with
  | nil => simp [rising]
  | cons a t ih =>
    obtain ⟨k, v⟩ := a
    cases t with
    | nil => simp [rising]
    | cons b t =>
      obtain ⟨k', v'⟩ := b
      simp only [rising, Bool.and_eq_true, decide_eq_true_eq, ih, List.map_cons, List.pairwise_cons, List.mem_cons]
      constructor
      · rintro ⟨h, h1, h2⟩
        refine ⟨?_, h1, h2⟩
        rintro x (rfl | hx)
        · exact h
        · exact lt_trans h (h1 x hx)
      · rintro ⟨h, h1, h2⟩
        exact ⟨h k' (Or.inl rfl), h1, h2⟩

theorem rising_filter (t : Tbl α) (p : Nat × α → Bool) (h : rising t = true) : rising (t.filter p) = true := by
  rw [rising_iff] at h ⊢
  exact h.sublist (List.filter_sublist.map _)

theorem rising_tdel (t : Tbl α) (i : Nat) (h : rising t = true) : rising (tdel t i) = true := rising_filter t _ h

theorem mem_tput_key (t : Tbl α) (i : Nat) (x : α) (k : Nat) (h : k ∈ (tput t i x).map Prod.fst) : k = i ∨ k ∈ t.map Prod.fst := by
  induction t with
  | nil => simpa [tput] using h
  | cons e t ih =>
    obtain ⟨a, v⟩ := e
    simp only [tput] at h
    split at h
    · simpa using h
    · split at h
      · simp only [List.map_cons, List.mem_cons] at h ⊢
        tauto
      · simp only [List.map_cons, List.mem_cons] at h ⊢
        rcases h with h | h
        · exact Or.inr (Or.inl h)
        · rcases ih h with h | h
          · exact Or.inl h
          · exact Or.inr (Or.inr h)

theorem mem_tput (t : Tbl α) (i : Nat) (x : α) (e : Nat × α) (h : e ∈ tput t i x) : e = (i, x) ∨ e ∈ t := by
  induction t with
  | nil => simpa [tput] using h
  | cons a t ih =>
    obtain ⟨k, v⟩ := a
    simp only [tput] at h
    split at h
    · simpa using h
    · split at h
      · simp only [List.mem_cons] at h ⊢
        tauto
      · simp only [List.mem_cons] at h ⊢
        rcases h with h | h
        · exact Or.inr (Or.inl h)
        · exact (ih h).imp id Or.inr

theorem rising_tput (t : Tbl α) (i : Nat) (x : α) (h : rising t = true) : rising (tput t i x) = true := by
  rw [rising_iff] at h ⊢
  induction t with
  | nil => simp [tput]
  | cons e t ih =>
    obtain ⟨k, v⟩ := e
    simp only [List.map_cons, List.pairwise_cons] at h
    simp only [tput]
    split
    · rename_i hik
      simp only [List.map_cons, List.pairwise_cons, List.mem_cons]
      refine ⟨?_, h.1, h.2⟩
      rintro y (rfl | hy)
      · exact hik
      · exact lt_trans hik (h.1 y hy)
    · split
      · rename_i hik
        simp only [List.map_cons, List.pairwise_cons]
        exact ⟨fun y hy => hik ▸ h.1 y hy, h.2⟩
      · rename_i h1 h2
        simp only [List.map_cons, List.pairwise_cons]
        refine ⟨fun y hy => ?_, ih h.2⟩
        rcases mem_tput_key t i x y hy with rfl | hy
        · omega
        · exact h.1 y hy

theorem rising_dput [DecidableEq α] (d : α) (t : Tbl α) (i : Nat) (x : α) (h : rising t = true) : rising (dput d t i x) = true := by
  simp only [dput]
  split
  · exact rising_tdel t i h
  · exact rising_tput t i x h

/-! Memory (spec/13, R483; log entry 1) -/

theorem all_tput (t : Tbl α) (i : Nat) (x : α) (p : α → Bool) (ht : t.all (fun c => p c.2) = true) (hx : p x = true) :
    (tput t i x).all (fun c => p c.2) = true := by
  induction t with
  | nil => simpa [tput] using hx
  | cons e t ih =>
    obtain ⟨k, v⟩ := e
    simp only [List.all_cons, Bool.and_eq_true] at ht
    simp only [tput]
    split
    · simp only [List.all_cons, Bool.and_eq_true]; exact ⟨hx, ht.1, ht.2⟩
    · split
      · simp only [List.all_cons, Bool.and_eq_true]; exact ⟨hx, ht.2⟩
      · simp only [List.all_cons, Bool.and_eq_true]; exact ⟨ht.1, ih ht.2⟩

theorem memGet_memPut_same (m : List Host.Cell) (a : Nat) (b : Byte) : memGet (memPut m a b) a = b := by simp [memGet, memPut]

theorem memGet_memPut_other (m : List Host.Cell) {a c : Nat} (b : Byte) (h : c ≠ a) : memGet (memPut m a b) c = memGet m c := by
  simp [memGet, memPut, tget_dput_other _ _ _ _ h]

/-- Writing a run of bytes leaves every other byte alone. -/
theorem memGet_memWrite_other (m : List Host.Cell) (a : Nat) (l : List Byte) (c : Nat) (h : c < a ∨ a + l.length ≤ c) :
    memGet (memWrite m a l) c = memGet m c := by
  induction l generalizing m a with
  | nil => rfl
  | cons b t ih =>
    simp only [List.length_cons] at h
    rw [memWrite, ih (memPut m a b) (a + 1) (by omega), memGet_memPut_other m b (by omega)]

/-- A byte of a written run reads as it was written. -/
theorem memGet_memWrite_same (m : List Host.Cell) (a : Nat) (l : List Byte) (i : Nat) (h : i < l.length) :
    memGet (memWrite m a l) (a + i) = l[i] := by
  induction l generalizing m a i with
  | nil => simp at h
  | cons b t ih =>
    cases i with
    | zero => rw [memWrite, memGet_memWrite_other _ _ _ _ (Or.inl (by omega))]; simpa using memGet_memPut_same m a b
    | succ i =>
      simp only [List.length_cons, Nat.add_lt_add_iff_right] at h
      rw [memWrite, show a + (i + 1) = a + 1 + i by omega, ih (memPut m a b) (a + 1) i h]
      simp

theorem memPut_wf (m : List Host.Cell) (a : Nat) (b : Byte) (h : Memory.wf m = true) : Memory.wf (memPut m a b) = true := by
  simp only [Memory.wf, Bool.and_eq_true] at h ⊢
  refine ⟨rising_dput _ _ _ _ h.1, ?_⟩
  simp only [memPut, dput]
  split
  · rw [List.all_eq_true] at h ⊢
    intro c hc
    exact h.2 c (List.mem_of_mem_filter hc)
  · rename_i hb
    exact all_tput m a b (fun x => decide (x ≠ emptyByte)) h.2 (by simpa using hb)

theorem memWrite_wf (m : List Host.Cell) (a : Nat) (l : List Byte) (h : Memory.wf m = true) : Memory.wf (memWrite m a l) = true := by
  induction l generalizing m a with
  | nil => exact h
  | cons b t ih => exact ih _ _ (memPut_wf m a b h)

theorem memFilter_wf (m : List Host.Cell) (p : Host.Cell → Bool) (h : Memory.wf m = true) : Memory.wf (m.filter p) = true := by
  simp only [Memory.wf, Bool.and_eq_true] at h ⊢
  refine ⟨rising_filter m p h.1, ?_⟩
  rw [List.all_eq_true] at h ⊢
  exact fun c hc => h.2 c (List.mem_of_mem_filter hc)

@[simp] theorem length_memRead (m : List Host.Cell) (a n : Nat) : (memRead m a n).length = n := by
  induction n generalizing a with
  | zero => rfl
  | succ n ih => simp [memRead, ih]

end Sys2Proof.Machine
end

