-- ==== Sys2Proof/Laws/Only.lean ====
section
/-! SUPPORT. What each operation can change: `Only l` (Safety.lean) is kept by every operation whose parts are in `L`, in one lemma for each. -/

namespace Sys2Proof.Machine

variable {w0 s t : State} {L : List Part}

theorem Only.refl (L : List Part) (s : State) : Only L s s := ⟨fun p _ => by cases p <;> rfl⟩

theorem Only.trans (h : Only L w0 s) (g : Only L s t) : Only L w0 t := ⟨fun p hp => by
  have a := h.same p hp
  have b := g.same p hp
  cases p <;> exact b.trans a⟩

theorem Only.mono {m : List Part} (h : Only L s t) (hm : ∀ p ∈ L, p ∈ m) : Only m s t :=
  ⟨fun p hp => h.same p (fun x => hp (hm p x))⟩

@[simp] theorem Only.mk_of (h : Only L w0 s) {x_free : Nat} {x_time : Nat} {x_regs : Tbl Word} {x_latch : Tbl Word} {x_ctr : Tbl Nat} {x_banks : Tbl Bank} {x_sample : Option (Nat × Nat × Nat)} {x_mem : List Host.Cell} {x_poison : List Nat} {x_out : List Msg} {x_log : List LogRec} {x_logLost : Nat} {x_pins : Pins} {x_ids : IdStore} {x_boot : BootSt} {x_ports : Tbl Port} {x_qps : Tbl Qp} {x_flows : Tbl Flow} {x_servo : Servo} {x_traces : Tbl Trace} {x_pair : PairSt} {x_queues : Tbl Queue} {x_rings : Tbl Ring} {x_q0Wanted : Bool} {x_due : List Due} {x_devSeq : Nat} {x_chans : Tbl Chan} {x_points : Tbl Chan} {x_nextIndex : Nat} {x_freed : List Nat} {x_opens : List OpenCmd} {x_jobs : Tbl Job} {x_nextJob : Nat} {x_tlb : List Tlb} {x_inval : Option (Nat × Nat × Nat)} {x_fetches : Tbl Fetch} {x_nextFetch : Nat} {x_players : Tbl Player} {x_treLast : Tbl Nat} {x_streams : Tbl Stream} {x_shds : Tbl Shd} {x_chains : List ChainSt} {x_relays : Tbl Ring4} {x_stores : List PicStore} {x_slice : Option (Nat × Nat)} {x_tableBanks : List (Option Nat)} {x_lives : Tbl Live} {x_ens : Tbl Ens}
    (h_free : Part.free ∈ L ∨ x_free = s.free) (h_time : Part.time ∈ L ∨ x_time = s.time) (h_regs : Part.regs ∈ L ∨ x_regs = s.regs) (h_latch : Part.latch ∈ L ∨ x_latch = s.latch) (h_ctr : Part.ctr ∈ L ∨ x_ctr = s.ctr) (h_banks : Part.banks ∈ L ∨ x_banks = s.banks) (h_sample : Part.sample ∈ L ∨ x_sample = s.sample) (h_mem : Part.mem ∈ L ∨ x_mem = s.mem) (h_poison : Part.poison ∈ L ∨ x_poison = s.poison) (h_out : Part.out ∈ L ∨ x_out = s.out) (h_log : Part.log ∈ L ∨ x_log = s.log) (h_logLost : Part.logLost ∈ L ∨ x_logLost = s.logLost) (h_pins : Part.pins ∈ L ∨ x_pins = s.pins) (h_ids : Part.ids ∈ L ∨ x_ids = s.ids) (h_boot : Part.boot ∈ L ∨ x_boot = s.boot) (h_ports : Part.ports ∈ L ∨ x_ports = s.ports) (h_qps : Part.qps ∈ L ∨ x_qps = s.qps) (h_flows : Part.flows ∈ L ∨ x_flows = s.flows) (h_servo : Part.servo ∈ L ∨ x_servo = s.servo) (h_traces : Part.traces ∈ L ∨ x_traces = s.traces) (h_pair : Part.pair ∈ L ∨ x_pair = s.pair) (h_queues : Part.queues ∈ L ∨ x_queues = s.queues) (h_rings : Part.rings ∈ L ∨ x_rings = s.rings) (h_q0Wanted : Part.q0Wanted ∈ L ∨ x_q0Wanted = s.q0Wanted) (h_due : Part.due ∈ L ∨ x_due = s.due) (h_devSeq : Part.devSeq ∈ L ∨ x_devSeq = s.devSeq) (h_chans : Part.chans ∈ L ∨ x_chans = s.chans) (h_points : Part.points ∈ L ∨ x_points = s.points) (h_nextIndex : Part.nextIndex ∈ L ∨ x_nextIndex = s.nextIndex) (h_freed : Part.freed ∈ L ∨ x_freed = s.freed) (h_opens : Part.opens ∈ L ∨ x_opens = s.opens) (h_jobs : Part.jobs ∈ L ∨ x_jobs = s.jobs) (h_nextJob : Part.nextJob ∈ L ∨ x_nextJob = s.nextJob) (h_tlb : Part.tlb ∈ L ∨ x_tlb = s.tlb) (h_inval : Part.inval ∈ L ∨ x_inval = s.inval) (h_fetches : Part.fetches ∈ L ∨ x_fetches = s.fetches) (h_nextFetch : Part.nextFetch ∈ L ∨ x_nextFetch = s.nextFetch) (h_players : Part.players ∈ L ∨ x_players = s.players) (h_treLast : Part.treLast ∈ L ∨ x_treLast = s.treLast) (h_streams : Part.streams ∈ L ∨ x_streams = s.streams) (h_shds : Part.shds ∈ L ∨ x_shds = s.shds) (h_chains : Part.chains ∈ L ∨ x_chains = s.chains) (h_relays : Part.relays ∈ L ∨ x_relays = s.relays) (h_stores : Part.stores ∈ L ∨ x_stores = s.stores) (h_slice : Part.slice ∈ L ∨ x_slice = s.slice) (h_tableBanks : Part.tableBanks ∈ L ∨ x_tableBanks = s.tableBanks) (h_lives : Part.lives ∈ L ∨ x_lives = s.lives) (h_ens : Part.ens ∈ L ∨ x_ens = s.ens) :
    Only L w0 (State.mk s.pending x_free x_time x_regs x_latch x_ctr x_banks x_sample x_mem x_poison x_out x_log x_logLost x_pins x_ids x_boot x_ports x_qps x_flows x_servo x_traces x_pair x_queues x_rings x_q0Wanted x_due x_devSeq x_chans x_points x_nextIndex x_freed x_opens x_jobs x_nextJob x_tlb x_inval x_fetches x_nextFetch x_players x_treLast x_streams x_shds x_chains x_relays x_stores x_slice x_tableBanks x_lives x_ens) := by
  refine ⟨fun p hp => ?_⟩
  have g := h.same p hp
  cases p
  · exact g
  · exact (h_free.resolve_left hp).trans g
  · exact (h_time.resolve_left hp).trans g
  · exact (h_regs.resolve_left hp).trans g
  · exact (h_latch.resolve_left hp).trans g
  · exact (h_ctr.resolve_left hp).trans g
  · exact (h_banks.resolve_left hp).trans g
  · exact (h_sample.resolve_left hp).trans g
  · exact (h_mem.resolve_left hp).trans g
  · exact (h_poison.resolve_left hp).trans g
  · exact (h_out.resolve_left hp).trans g
  · exact (h_log.resolve_left hp).trans g
  · exact (h_logLost.resolve_left hp).trans g
  · exact (h_pins.resolve_left hp).trans g
  · exact (h_ids.resolve_left hp).trans g
  · exact (h_boot.resolve_left hp).trans g
  · exact (h_ports.resolve_left hp).trans g
  · exact (h_qps.resolve_left hp).trans g
  · exact (h_flows.resolve_left hp).trans g
  · exact (h_servo.resolve_left hp).trans g
  · exact (h_traces.resolve_left hp).trans g
  · exact (h_pair.resolve_left hp).trans g
  · exact (h_queues.resolve_left hp).trans g
  · exact (h_rings.resolve_left hp).trans g
  · exact (h_q0Wanted.resolve_left hp).trans g
  · exact (h_due.resolve_left hp).trans g
  · exact (h_devSeq.resolve_left hp).trans g
  · exact (h_chans.resolve_left hp).trans g
  · exact (h_points.resolve_left hp).trans g
  · exact (h_nextIndex.resolve_left hp).trans g
  · exact (h_freed.resolve_left hp).trans g
  · exact (h_opens.resolve_left hp).trans g
  · exact (h_jobs.resolve_left hp).trans g
  · exact (h_nextJob.resolve_left hp).trans g
  · exact (h_tlb.resolve_left hp).trans g
  · exact (h_inval.resolve_left hp).trans g
  · exact (h_fetches.resolve_left hp).trans g
  · exact (h_nextFetch.resolve_left hp).trans g
  · exact (h_players.resolve_left hp).trans g
  · exact (h_treLast.resolve_left hp).trans g
  · exact (h_streams.resolve_left hp).trans g
  · exact (h_shds.resolve_left hp).trans g
  · exact (h_chains.resolve_left hp).trans g
  · exact (h_relays.resolve_left hp).trans g
  · exact (h_stores.resolve_left hp).trans g
  · exact (h_slice.resolve_left hp).trans g
  · exact (h_tableBanks.resolve_left hp).trans g
  · exact (h_lives.resolve_left hp).trans g
  · exact (h_ens.resolve_left hp).trans g

@[simp] theorem Only.ite {c : Prop} [Decidable c] (h : c → Only L w0 s) (g : ¬c → Only L w0 t) : Only L w0 (if c then s else t) := by
  split
  · exact h ‹_›
  · exact g ‹_›

@[simp] theorem Only.foldl {β : Type} {f : State → β → State} (l : List β) (hf : ∀ a x, Only L w0 a → Only L w0 (f a x)) (h : Only L w0 s) :
    Only L w0 (l.foldl f s) := by
  induction l generalizing s with
  | nil => exact h
  | cons x l ih => exact ih (hf _ _ h)

@[simp] theorem Only.foldr {β : Type} {f : β → State → State} (l : List β) (hf : ∀ a x, Only L w0 a → Only L w0 (f x a)) (h : Only L w0 s) :
    Only L w0 (l.foldr f s) := by
  induction l with
  | nil => exact h
  | cons x l ih => exact hf _ _ ih

@[simp] theorem Only.foldl_pair {β γ : Type} {f : γ × State → β → γ × State} (l : List β) (c : γ × State)
    (hf : ∀ a x, Only L w0 a.2 → Only L w0 (f a x).2) (h : Only L w0 c.2) : Only L w0 (l.foldl f c).2 := by
  induction l generalizing c with
  | nil => exact h
  | cons x l ih => exact ih _ (hf _ _ h)

@[simp] theorem Only.foldl_fst {β γ : Type} {f : State × γ → β → State × γ} (l : List β) (c : State × γ)
    (hf : ∀ a x, Only L w0 a.1 → Only L w0 (f a x).1) (h : Only L w0 c.1) : Only L w0 (l.foldl f c).1 := by
  induction l generalizing c with
  | nil => exact h
  | cons x l ih => exact ih _ (hf _ _ h)

/-! The writers of single fields -/

@[simp] theorem setReg_only (page off : Nat) (w : Word) (hl : Part.regs ∈ L) (hok : Only L w0 s) : Only L w0 (s.setReg page off w) := by
  unfold State.setReg
  simp [hl, hok]

@[simp] theorem State.clearPage_only (page : Nat) (hl : Part.regs ∈ L) (hok : Only L w0 s) : Only L w0 (s.clearPage page) := by
  unfold State.clearPage
  simp [hl, hok]

@[simp] theorem store_only (a : Nat) (b : List Byte) (hl : Part.mem ∈ L) (hok : Only L w0 s) : Only L w0 (s.store a b) := by
  unfold State.store
  simp [hl, hok]

@[simp] theorem bump_only (page i n : Nat) (hl : Part.ctr ∈ L) (hok : Only L w0 s) : Only L w0 (bump page i n s) := by
  unfold bump
  simp [hl, hok]

@[simp] theorem peak_only (page i n : Nat) (hl : Part.ctr ∈ L) (hok : Only L w0 s) : Only L w0 (peak page i n s) := by
  unfold peak
  simp [hl, hok]

@[simp] theorem emit_only (m : Msg) (hl : Part.out ∈ L) (hok : Only L w0 s) : Only L w0 (emit m s) := by
  unfold emit
  simp [hl, hok]

@[simp] theorem drawBytes_only (n : Nat) (hl : Part.free ∈ L) (hok : Only L w0 s) : Only L w0 (drawBytes n s).2 := by
  induction n generalizing s with
  | zero => exact hok
  | succ n ih => exact ih (by simp [hl, hok])

@[simp] theorem logPush_only (r : LogRec) (hl : Part.ctr ∈ L ∧ Part.log ∈ L) (hok : Only L w0 s) : Only L w0 (logPush r s) := by
  unfold logPush
  simp [hl, hok]

@[simp] theorem dieReset_only (hl : Part.time ∈ L ∧ Part.regs ∈ L ∧ Part.latch ∈ L ∧ Part.ctr ∈ L ∧ Part.banks ∈ L ∧ Part.sample ∈ L ∧ Part.mem ∈ L ∧ Part.poison ∈ L ∧ Part.log ∈ L ∧ Part.logLost ∈ L ∧ Part.pins ∈ L ∧ Part.boot ∈ L ∧ Part.ports ∈ L ∧ Part.qps ∈ L ∧ Part.flows ∈ L ∧ Part.servo ∈ L ∧ Part.traces ∈ L ∧ Part.pair ∈ L ∧ Part.queues ∈ L ∧ Part.rings ∈ L ∧ Part.q0Wanted ∈ L ∧ Part.due ∈ L ∧ Part.devSeq ∈ L ∧ Part.chans ∈ L ∧ Part.points ∈ L ∧ Part.nextIndex ∈ L ∧ Part.freed ∈ L ∧ Part.opens ∈ L ∧ Part.jobs ∈ L ∧ Part.nextJob ∈ L ∧ Part.tlb ∈ L ∧ Part.inval ∈ L ∧ Part.fetches ∈ L ∧ Part.nextFetch ∈ L ∧ Part.players ∈ L ∧ Part.treLast ∈ L ∧ Part.streams ∈ L ∧ Part.shds ∈ L ∧ Part.chains ∈ L ∧ Part.relays ∈ L ∧ Part.stores ∈ L ∧ Part.slice ∈ L ∧ Part.tableBanks ∈ L ∧ Part.lives ∈ L ∧ Part.ens ∈ L) (hok : Only L w0 s) : Only L w0 (dieReset s) := by
  unfold dieReset
  simp [hl, hok]

end Sys2Proof.Machine
end

