-- ==== Sys2Proof/Laws/OnlyBase.lean ====
section
/-! SUPPORT. What each operation can change (Laws/Only.lean): registers, counters, the callboard, records, the start. One lemma for each operation. -/

namespace Sys2Proof.Machine

variable {w0 s : State} {L : List Part}

/-! Machine/Ops.lean -/

@[simp] theorem wf_only (page : Nat) (f : Fld) (v : Nat) (hl : Part.regs ∈ L) (hok : Only L w0 s) : Only L w0 (State.wf s page f v) := by
  unfold State.wf
  simp (maxDischargeDepth := 60) +contextual [hl, hok]

@[simp] theorem wrote_only (n : Nat) (hl : Part.ctr ∈ L) (hok : Only L w0 s) : Only L w0 (wrote n s) := by
  unfold wrote
  simp (maxDischargeDepth := 60) +contextual [hl, hok]

@[simp] theorem draw_only (hl : Part.free ∈ L) (hok : Only L w0 s) : Only L w0 (draw s).2 := by
  unfold draw
  simp (maxDischargeDepth := 60) +contextual [hl, hok]

@[simp] theorem drawBelow_only (n : Nat) (hl : Part.free ∈ L) (hok : Only L w0 s) : Only L w0 (drawBelow n s).2 := by
  unfold drawBelow
  simp (maxDischargeDepth := 60) +contextual [hl, hok]

@[simp] theorem drawBool_only (hl : Part.free ∈ L) (hok : Only L w0 s) : Only L w0 (drawBool s).2 := by
  unfold drawBool
  simp (maxDischargeDepth := 60) +contextual [hl, hok]

@[simp] theorem sendOn_only (port prio : Nat) (m : Msg) (hl : Part.ctr ∈ L ∧ Part.out ∈ L ∧ Part.ports ∈ L) (hok : Only L w0 s) : Only L w0 (sendOn port prio m s) := by
  unfold sendOn
  simp (maxDischargeDepth := 60) +contextual [hl, hok]

/-! Machine/Flags.lean -/

@[simp] theorem alertUpdate_only (hl : Part.regs ∈ L ∧ Part.ctr ∈ L ∧ Part.pins ∈ L) (hok : Only L w0 s) : Only L w0 (alertUpdate s) := by
  unfold alertUpdate
  simp (maxDischargeDepth := 60) +contextual [hl, hok]

@[simp] theorem record_only (page code : Nat) (hl : Part.regs ∈ L ∧ Part.ctr ∈ L ∧ Part.pins ∈ L) (hok : Only L w0 s) : Only L w0 (record page code s) := by
  unfold record
  simp (maxDischargeDepth := 60) +contextual [hl, hok]

@[simp] theorem board_only (code inst handle seq d0 d1 : Nat) (hl : Part.regs ∈ L ∧ Part.ctr ∈ L ∧ Part.log ∈ L ∧ Part.logLost ∈ L ∧ Part.pins ∈ L) (hok : Only L w0 s) : Only L w0 (board code inst handle seq d0 d1 s) := by
  unfold board
  simp (maxDischargeDepth := 60) only [and_self, true_and, and_true, true_or, or_true, Only.ite, Only.mk_of, Only.foldl, implies_true, bump_only, logPush_only, wf_only, alertUpdate_only, hl, hok]

@[simp] theorem logGap_only (hl : Part.regs ∈ L ∧ Part.ctr ∈ L ∧ Part.log ∈ L ∧ Part.logLost ∈ L ∧ Part.pins ∈ L) (hok : Only L w0 s) : Only L w0 (logGap s) := by
  unfold logGap
  split
  · (first | (simp (maxDischargeDepth := 60) [*]; done) | (exact record_only _ _ (by simp [hl]) (bump_only _ _ _ (by simp [hl]) (logPush_only _ rfl (by simp [hl]) (by simp [hl, hok])))))
  · exact hok

@[simp] theorem postFull_only (page code handle seq d0 d1 : Nat) (hl : Part.regs ∈ L ∧ Part.ctr ∈ L ∧ Part.log ∈ L ∧ Part.logLost ∈ L ∧ Part.pins ∈ L) (hok : Only L w0 s) : Only L w0 (postFull page code handle seq d0 d1 s) := by
  unfold postFull
  simp (maxDischargeDepth := 60) +contextual [hl, hok]

@[simp] theorem post_only (page code : Nat) (hl : Part.regs ∈ L ∧ Part.ctr ∈ L ∧ Part.log ∈ L ∧ Part.logLost ∈ L ∧ Part.pins ∈ L) (hok : Only L w0 s) : Only L w0 (post page code s) := by
  unfold post
  simp (maxDischargeDepth := 60) +contextual [hl, hok]

@[simp] theorem holdRecord_only (page : Nat) (valid : Fld) (w : List (Fld × Nat)) (hl : Part.regs ∈ L) (hok : Only L w0 s) : Only L w0 (holdRecord page valid w s) := by
  unfold holdRecord
  simp (maxDischargeDepth := 60) +contextual [hl, hok]

@[simp] theorem setStat_only (page : Nat) (f : Fld) (v : Nat) (hl : Part.regs ∈ L ∧ Part.ctr ∈ L ∧ Part.log ∈ L ∧ Part.logLost ∈ L ∧ Part.pins ∈ L) (hok : Only L w0 s) : Only L w0 (setStat page f v s) := by
  unfold setStat
  simp (maxDischargeDepth := 60) +contextual [hl, hok]

/-! Machine/Records.lean -/

@[simp] theorem probe_only (hl : Part.regs ∈ L) (hok : Only L w0 s) : Only L w0 (probe s) := by
  unfold probe
  simp (maxDischargeDepth := 60) +contextual [hl, hok]

@[simp] theorem setChan_only (i : Nat) (c : Chan) (hl : Part.regs ∈ L ∧ Part.chans ∈ L) (hok : Only L w0 s) : Only L w0 (setChan i c s) := by
  unfold setChan
  simp (maxDischargeDepth := 60) +contextual [hl, hok]

@[simp] theorem modChan_only (i : Nat) (f : Chan → Chan) (hl : Part.regs ∈ L ∧ Part.chans ∈ L) (hok : Only L w0 s) : Only L w0 (modChan i f s) := by
  unfold modChan
  simp (maxDischargeDepth := 60) +contextual [hl, hok]

@[simp] theorem pushDue_only (d : Due) (hl : Part.due ∈ L) (hok : Only L w0 s) : Only L w0 (pushDue d s) := by
  unfold pushDue
  simp (maxDischargeDepth := 60) +contextual [hl, hok]

@[simp] theorem chanEvent_only (i seq code r0 r3 flags : Nat) (hl : Part.due ∈ L) (hok : Only L w0 s) : Only L w0 (chanEvent i seq code r0 r3 flags s) := by
  unfold chanEvent
  simp (maxDischargeDepth := 60) +contextual [hl, hok]

@[simp] theorem deviceEvent_only (ring code r0 : Nat) (hl : Part.due ∈ L) (hok : Only L w0 s) : Only L w0 (deviceEvent ring code r0 s) := by
  unfold deviceEvent
  simp (maxDischargeDepth := 60) +contextual [hl, hok]

@[simp] theorem nextDevSeq_only (hl : Part.devSeq ∈ L) (hok : Only L w0 s) : Only L w0 (nextDevSeq s).2 := by
  unfold nextDevSeq
  simp (maxDischargeDepth := 60) +contextual [hl, hok]

@[simp] theorem postCode_only (code handle seq d0 d1 : Nat) (hl : Part.regs ∈ L ∧ Part.ctr ∈ L ∧ Part.log ∈ L ∧ Part.logLost ∈ L ∧ Part.pins ∈ L) (hok : Only L w0 s) : Only L w0 (postCode code handle seq d0 d1 s) := by
  unfold postCode
  repeat' split
  all_goals simp (maxDischargeDepth := 60) +contextual [hl, hok]

@[simp] theorem markPosted_only (d : Due) (hl : Part.queues ∈ L ∧ Part.chans ∈ L) (hok : Only L w0 s) : Only L w0 (markPosted d s) := by
  unfold markPosted
  repeat' split
  all_goals simp (maxDischargeDepth := 60) +contextual [hl, hok]

@[simp] theorem stopJob_only (id code : Nat) (hl : Part.jobs ∈ L) (hok : Only L w0 s) : Only L w0 (stopJob id code s) := by
  unfold stopJob
  repeat' split
  all_goals simp (maxDischargeDepth := 60) +contextual [hl, hok]

/-! Machine/Counting.lean -/

@[simp] theorem postResized_only (e : Nat) (hl : Part.regs ∈ L ∧ Part.ctr ∈ L ∧ Part.log ∈ L ∧ Part.logLost ∈ L ∧ Part.pins ∈ L ∧ Part.due ∈ L) (hok : Only L w0 s) : Only L w0 (postResized e s) := by
  unfold postResized
  simp (maxDischargeDepth := 60) +contextual [hl, hok]

@[simp] theorem regrow_only (hl : Part.regs ∈ L ∧ Part.chans ∈ L) (hok : Only L w0 s) : Only L w0 (regrow s) := by
  unfold regrow
  simp (maxDischargeDepth := 60) +contextual [hl, hok]

@[simp] theorem resizing_only (f : State → State) (ok_f : ∀ u, Only L w0 u → Only L w0 (f u)) (hl : Part.regs ∈ L ∧ Part.ctr ∈ L ∧ Part.log ∈ L ∧ Part.logLost ∈ L ∧ Part.pins ∈ L ∧ Part.due ∈ L ∧ Part.chans ∈ L) (hok : Only L w0 s) : Only L w0 (resizing f s) := by
  unfold resizing
  simp (maxDischargeDepth := 60) +contextual [hl, hok, ok_f]

@[simp] theorem swapBank_only (page handle seq : Nat) (hl : Part.free ∈ L ∧ Part.banks ∈ L) (hok : Only L w0 s) : Only L w0 (swapBank page handle seq s) := by
  unfold swapBank
  simp (maxDischargeDepth := 60) +contextual [hl, hok]

@[simp] theorem swapBanks_only (pages : List Nat) (handle seq : Nat) (hl : Part.free ∈ L ∧ Part.banks ∈ L) (hok : Only L w0 s) : Only L w0 (swapBanks pages handle seq s) := by
  unfold swapBanks
  simp (maxDischargeDepth := 60) +contextual [hl, hok]

@[simp] theorem ctrGo_only (w : Word) (hl : Part.regs ∈ L ∧ Part.ctr ∈ L ∧ Part.sample ∈ L ∧ Part.pins ∈ L) (hok : Only L w0 s) : Only L w0 (ctrGo w s) := by
  unfold ctrGo
  simp (maxDischargeDepth := 60) +contextual [hl, hok]

/-! Machine/Startup.lean -/

@[simp] theorem freshNonce_only (hl : Part.free ∈ L ∧ Part.regs ∈ L ∧ Part.ctr ∈ L) (hok : Only L w0 s) : Only L w0 (freshNonce s) := by
  unfold freshNonce
  simp (maxDischargeDepth := 60) +contextual [hl, hok]

@[simp] theorem hashed_only (hl : Part.free ∈ L ∧ Part.ctr ∈ L) (hok : Only L w0 s) : Only L w0 (hashed s) := by
  unfold hashed
  simp (maxDischargeDepth := 60) +contextual [hl, hok]

@[simp] theorem showKeys_only (hl : Part.regs ∈ L) (hok : Only L w0 s) : Only L w0 (showKeys s) := by
  unfold showKeys
  simp (maxDischargeDepth := 60) +contextual [hl, hok]

@[simp] theorem applyMap_only (m : RepairMap) (hl : Part.regs ∈ L) (hok : Only L w0 s) : Only L w0 (applyMap m s) := by
  refine Only.foldl_fst _ _ (fun a x ha => ?_) hok
  dsimp only
  split <;> simp (maxDischargeDepth := 60) +contextual [*]

@[simp] theorem applyRepair_only (phys spare : Nat) (hl : Part.regs ∈ L) (hok : Only L w0 s) : Only L w0 (applyRepair phys spare s) := by
  unfold applyRepair
  simp (maxDischargeDepth := 60) +contextual [hl, hok]

@[simp] theorem applyPolicy_only (hl : Part.regs ∈ L) (hok : Only L w0 s) : Only L w0 (applyPolicy s) := by
  unfold applyPolicy
  simp (maxDischargeDepth := 60) +contextual [hl, hok]

@[simp] theorem boot_only (o : BootObs) (hl : Part.free ∈ L ∧ Part.regs ∈ L ∧ Part.ctr ∈ L ∧ Part.log ∈ L ∧ Part.logLost ∈ L ∧ Part.pins ∈ L ∧ Part.boot ∈ L) (hok : Only L w0 s) : Only L w0 (boot o s) := by
  unfold boot
  simp (maxDischargeDepth := 60) +contextual [hl, hok]

@[simp] theorem tryBoot_only (o : BootObs) (hl : Part.free ∈ L ∧ Part.regs ∈ L ∧ Part.ctr ∈ L ∧ Part.log ∈ L ∧ Part.logLost ∈ L ∧ Part.pins ∈ L ∧ Part.boot ∈ L) (hok : Only L w0 s) : Only L w0 (tryBoot o s) := by
  unfold tryBoot
  simp (maxDischargeDepth := 60) +contextual [hl, hok]

end Sys2Proof.Machine
end

