-- ==== Sys2Proof/Laws/OnlyPorts.lean ====
section
/-! SUPPORT. What each operation can change (Laws/Only.lean): power, boot, Ethernet, RDMA, translation, memory lines, the pair link. One lemma for each operation. -/

namespace Sys2Proof.Machine

variable {w0 s : State} {L : List Part}

/-! Machine/Power.lean -/

@[simp] theorem powerDown_only (cause : Nat) (hl : Part.time ∈ L ∧ Part.regs ∈ L ∧ Part.latch ∈ L ∧ Part.ctr ∈ L ∧ Part.banks ∈ L ∧ Part.sample ∈ L ∧ Part.mem ∈ L ∧ Part.poison ∈ L ∧ Part.log ∈ L ∧ Part.logLost ∈ L ∧ Part.pins ∈ L ∧ Part.boot ∈ L ∧ Part.ports ∈ L ∧ Part.qps ∈ L ∧ Part.flows ∈ L ∧ Part.servo ∈ L ∧ Part.traces ∈ L ∧ Part.pair ∈ L ∧ Part.queues ∈ L ∧ Part.rings ∈ L ∧ Part.q0Wanted ∈ L ∧ Part.due ∈ L ∧ Part.devSeq ∈ L ∧ Part.chans ∈ L ∧ Part.points ∈ L ∧ Part.nextIndex ∈ L ∧ Part.freed ∈ L ∧ Part.opens ∈ L ∧ Part.jobs ∈ L ∧ Part.nextJob ∈ L ∧ Part.tlb ∈ L ∧ Part.inval ∈ L ∧ Part.fetches ∈ L ∧ Part.nextFetch ∈ L ∧ Part.players ∈ L ∧ Part.treLast ∈ L ∧ Part.streams ∈ L ∧ Part.shds ∈ L ∧ Part.chains ∈ L ∧ Part.relays ∈ L ∧ Part.stores ∈ L ∧ Part.slice ∈ L ∧ Part.tableBanks ∈ L ∧ Part.lives ∈ L ∧ Part.ens ∈ L) (hok : Only L w0 s) : Only L w0 (powerDown cause s) := by
  unfold powerDown
  simp (maxDischargeDepth := 60) +contextual [hl, hok]

@[simp] theorem showVin_only (cv : Nat) (hl : Part.regs ∈ L ∧ Part.ctr ∈ L ∧ Part.log ∈ L ∧ Part.logLost ∈ L ∧ Part.pins ∈ L) (hok : Only L w0 s) : Only L w0 (showVin cv s) := by
  unfold showVin
  simp (maxDischargeDepth := 60) +contextual [hl, hok]

@[simp] theorem gate_only (p10 p1 : Nat) (hl : Part.regs ∈ L ∧ Part.ctr ∈ L ∧ Part.log ∈ L ∧ Part.logLost ∈ L ∧ Part.pins ∈ L) (hok : Only L w0 s) : Only L w0 (gate p10 p1 s) := by
  unfold gate
  simp (maxDischargeDepth := 60) +contextual [hl, hok]

@[simp] theorem linkDown_only (n : Nat) (hl : Part.regs ∈ L ∧ Part.ctr ∈ L) (hok : Only L w0 s) : Only L w0 (linkDown n s) := by
  unfold linkDown
  simp (maxDischargeDepth := 60) +contextual [hl, hok]

/-! Machine/Boot.lean -/

@[simp] theorem reply_only (ip port type session mseq status : Nat) (payload : List Byte) (hl : Part.ctr ∈ L ∧ Part.out ∈ L) (hok : Only L w0 s) : Only L w0 (reply ip port type session mseq status payload s) := by
  unfold reply
  simp (maxDischargeDepth := 60) +contextual [hl, hok]

@[simp] theorem sendResult_only (ip port session mseq code : Nat) (digest : List Byte) (hl : Part.regs ∈ L ∧ Part.ctr ∈ L ∧ Part.out ∈ L ∧ Part.log ∈ L ∧ Part.logLost ∈ L ∧ Part.pins ∈ L) (hok : Only L w0 s) : Only L w0 (sendResult ip port session mseq code digest s) := by
  unfold sendResult
  simp (maxDischargeDepth := 60) +contextual [hl, hok]

@[simp] theorem sendAck_only (h : LoadHdr) (next status : Nat) (hl : Part.ctr ∈ L ∧ Part.out ∈ L) (hok : Only L w0 s) : Only L w0 (sendAck h next status s) := by
  unfold sendAck
  simp (maxDischargeDepth := 60) +contextual [hl, hok]

@[simp] theorem sendIdent_only (h : LoadHdr) (hl : Part.ctr ∈ L ∧ Part.out ∈ L) (hok : Only L w0 s) : Only L w0 (sendIdent h s) := by
  unfold sendIdent
  simp (maxDischargeDepth := 60) +contextual [hl, hok]

@[simp] theorem setSession_only (x : Option Session) (hl : Part.boot ∈ L) (hok : Only L w0 s) : Only L w0 (setSession x s) := by
  unfold setSession
  simp (maxDischargeDepth := 60) +contextual [hl, hok]

@[simp] theorem dropSession_only (hl : Part.regs ∈ L ∧ Part.boot ∈ L) (hok : Only L w0 s) : Only L w0 (dropSession s) := by
  unfold dropSession
  simp (maxDischargeDepth := 60) +contextual [hl, hok]

@[simp] theorem openSession_only (h : LoadHdr) (imageLen qp psn key : Nat) (hl : Part.regs ∈ L ∧ Part.ctr ∈ L ∧ Part.out ∈ L ∧ Part.boot ∈ L) (hok : Only L w0 s) : Only L w0 (openSession h imageLen qp psn key s) := by
  unfold openSession
  simp (maxDischargeDepth := 60) +contextual [hl, hok]

@[simp] theorem badMsg_only (hl : Part.ctr ∈ L) (hok : Only L w0 s) : Only L w0 (badMsg s) := by
  unfold badMsg
  simp (maxDischargeDepth := 60) +contextual [hl, hok]

/-! Machine/Eth.lean -/

@[simp] theorem sendPause_only (n prio quanta : Nat) (hl : Part.ctr ∈ L ∧ Part.out ∈ L) (hok : Only L w0 s) : Only L w0 (sendPause n prio quanta s) := by
  unfold sendPause
  simp (maxDischargeDepth := 60) +contextual [hl, hok]

@[simp] theorem setBitOf_only (page : Nat) (f : Fld) (i : Nat) (b : Bool) (hl : Part.regs ∈ L) (hok : Only L w0 s) : Only L w0 (setBitOf page f i b s) := by
  unfold setBitOf
  simp (maxDischargeDepth := 60) +contextual [hl, hok]

@[simp] theorem drain_only (n prio bytes : Nat) (hl : Part.ports ∈ L) (hok : Only L w0 s) : Only L w0 (drain n prio bytes s) := by
  unfold drain
  simp (maxDischargeDepth := 60) +contextual [hl, hok]

@[simp] theorem releaseHeld_only (n prio : Nat) (hl : Part.out ∈ L ∧ Part.ports ∈ L) (hok : Only L w0 s) : Only L w0 (releaseHeld n prio s) := by
  unfold releaseHeld
  simp (maxDischargeDepth := 60) +contextual [hl, hok]

@[simp] theorem ethCtrl_only (n : Nat) (w : Word) (hl : Part.regs ∈ L ∧ Part.ctr ∈ L) (hok : Only L w0 s) : Only L w0 (ethCtrl n w s) := by
  unfold ethCtrl
  simp (maxDischargeDepth := 60) +contextual [hl, hok]

/-! Machine/Rdma.lean -/

@[simp] theorem setQp_only (q : Nat) (x : Qp) (hl : Part.qps ∈ L) (hok : Only L w0 s) : Only L w0 (setQp q x s) := by
  unfold setQp
  simp (maxDischargeDepth := 60) +contextual [hl, hok]

@[simp] theorem ownerFail_only (o : Owner) (code : Nat) (hl : Part.qps ∈ L ∧ Part.rings ∈ L ∧ Part.jobs ∈ L ∧ Part.fetches ∈ L) (hok : Only L w0 s) : Only L w0 (ownerFail o code s) := by
  unfold ownerFail
  repeat' split
  all_goals simp (maxDischargeDepth := 60) +contextual [hl, hok]

@[simp] theorem holdRdmErr_only (q kind : Nat) (hl : Part.regs ∈ L) (hok : Only L w0 s) : Only L w0 (holdRdmErr q kind s) := by
  unfold holdRdmErr
  simp (maxDischargeDepth := 60) +contextual [hl, hok]

@[simp] theorem issue_only (q : Nat) (m : Msg) (o : Owner) (hl : Part.regs ∈ L ∧ Part.ctr ∈ L ∧ Part.out ∈ L ∧ Part.ports ∈ L ∧ Part.qps ∈ L ∧ Part.rings ∈ L ∧ Part.jobs ∈ L ∧ Part.fetches ∈ L) (hok : Only L w0 s) : Only L w0 (issue q m o s) := by
  unfold issue
  repeat' split
  all_goals simp (maxDischargeDepth := 60) +contextual [hl, hok]

@[simp] theorem failAll_only (q code : Nat) (hl : Part.qps ∈ L ∧ Part.rings ∈ L ∧ Part.jobs ∈ L ∧ Part.fetches ∈ L) (hok : Only L w0 s) : Only L w0 (failAll q code s) := by
  unfold failAll
  simp (maxDischargeDepth := 60) +contextual [hl, hok]

@[simp] theorem ownerDone_only (o : Owner) (bytes : List Byte) (hl : Part.rings ∈ L ∧ Part.fetches ∈ L) (hok : Only L w0 s) : Only L w0 (ownerDone o bytes s) := by
  unfold ownerDone
  repeat' split
  all_goals simp (maxDischargeDepth := 60) +contextual [hl, hok]

@[simp] theorem discardReply_only (o : Owner) (hl : Part.ctr ∈ L ∧ Part.qps ∈ L ∧ Part.rings ∈ L ∧ Part.jobs ∈ L ∧ Part.fetches ∈ L) (hok : Only L w0 s) : Only L w0 (discardReply o s) := by
  unfold discardReply
  repeat' split
  all_goals simp (maxDischargeDepth := 60) +contextual [hl, hok]

@[simp] theorem requestReply_only (r : Req) (bytes : List Byte) (hl : Part.ctr ∈ L ∧ Part.qps ∈ L ∧ Part.rings ∈ L ∧ Part.jobs ∈ L ∧ Part.fetches ∈ L) (hok : Only L w0 s) : Only L w0 (requestReply r bytes s) := by
  unfold requestReply
  simp (maxDischargeDepth := 60) +contextual [hl, hok]

@[simp] theorem cnpFor_only (q : Nat) (ce : Bool) (hl : Part.ctr ∈ L ∧ Part.out ∈ L ∧ Part.ports ∈ L ∧ Part.qps ∈ L) (hok : Only L w0 s) : Only L w0 (cnpFor q ce s) := by
  unfold cnpFor
  dsimp only
  repeat' split
  all_goals simp (maxDischargeDepth := 60) +contextual [hl, hok]

@[simp] theorem timeout_only (q : Nat) (hl : Part.regs ∈ L ∧ Part.ctr ∈ L ∧ Part.out ∈ L ∧ Part.ports ∈ L ∧ Part.qps ∈ L ∧ Part.rings ∈ L ∧ Part.jobs ∈ L ∧ Part.fetches ∈ L) (hok : Only L w0 s) : Only L w0 (timeout q s) := by
  unfold timeout
  dsimp only
  repeat' split
  all_goals simp (maxDischargeDepth := 60) +contextual [hl, hok]

@[simp] theorem qpReset_only (q : Nat) (w : Word) (hl : Part.regs ∈ L ∧ Part.qps ∈ L ∧ Part.rings ∈ L ∧ Part.jobs ∈ L ∧ Part.fetches ∈ L) (hok : Only L w0 s) : Only L w0 (qpReset q w s) := by
  unfold qpReset
  simp (maxDischargeDepth := 60) +contextual [hl, hok]

@[simp] theorem qpReady_only (q : Nat) (w : Word) (hl : Part.qps ∈ L) (hok : Only L w0 s) : Only L w0 (qpReady q w s) := by
  unfold qpReady
  simp (maxDischargeDepth := 60) +contextual [hl, hok]

@[simp] theorem qpTouch_only (q : Nat) (w : Word) (hl : Part.qps ∈ L) (hok : Only L w0 s) : Only L w0 (qpTouch q w s) := by
  unfold qpTouch
  simp (maxDischargeDepth := 60) +contextual [hl, hok]

@[simp] theorem qpCfg_only (q : Nat) (w : Word) (hl : Part.regs ∈ L ∧ Part.qps ∈ L ∧ Part.rings ∈ L ∧ Part.jobs ∈ L ∧ Part.fetches ∈ L) (hok : Only L w0 s) : Only L w0 (qpCfg q w s) := by
  unfold qpCfg
  simp (maxDischargeDepth := 60) +contextual [hl, hok]

/-! Machine/Xlt.lean -/

@[simp] theorem writeOut_only (a : Nat) (l : List Byte) (o : Owner) (hl : Part.regs ∈ L ∧ Part.ctr ∈ L ∧ Part.mem ∈ L ∧ Part.out ∈ L ∧ Part.ports ∈ L ∧ Part.qps ∈ L ∧ Part.rings ∈ L ∧ Part.jobs ∈ L ∧ Part.fetches ∈ L) (hok : Only L w0 s) : Only L w0 (writeOut a l o s) := by
  unfold writeOut
  simp (maxDischargeDepth := 60) +contextual [hl, hok]

@[simp] theorem cacheWalk_only (i va : Nat) (hl : Part.tlb ∈ L) (hok : Only L w0 s) : Only L w0 (cacheWalk i va s) := by
  unfold cacheWalk
  repeat' split
  all_goals simp (maxDischargeDepth := 60) +contextual [hl, hok]

@[simp] theorem holdXlt_only (kind level : Nat) (write : Bool) (va handle : Nat) (hl : Part.regs ∈ L) (hok : Only L w0 s) : Only L w0 (holdXlt kind level write va handle s) := by
  unfold holdXlt
  simp (maxDischargeDepth := 60) +contextual [hl, hok]

@[simp] theorem placeFault_only (a : Nat) (write : Bool) (hl : Part.regs ∈ L ∧ Part.ctr ∈ L) (hok : Only L w0 s) : Only L w0 (placeFault a write s) := by
  unfold placeFault
  simp (maxDischargeDepth := 60) +contextual [hl, hok]

@[simp] theorem walkFail_only (i va : Nat) (write : Bool) (w : Walk) (hl : Part.regs ∈ L ∧ Part.ctr ∈ L) (hok : Only L w0 s) : Only L w0 (walkFail i va write w s).2 := by
  unfold walkFail
  repeat' split
  all_goals simp (maxDischargeDepth := 60) +contextual [hl, hok]

@[simp] theorem writeVa_only (i va : Nat) (l : List Byte) (o : Owner) (fuel : Nat) (hl : Part.regs ∈ L ∧ Part.ctr ∈ L ∧ Part.mem ∈ L ∧ Part.out ∈ L ∧ Part.ports ∈ L ∧ Part.qps ∈ L ∧ Part.rings ∈ L ∧ Part.jobs ∈ L ∧ Part.fetches ∈ L) (hok : Only L w0 s) : Only L w0 (writeVa i va l o fuel s) := by
  induction fuel generalizing va l s with
  | zero => exact hok
  | succ n ih =>
    rw [writeVa]
    split
    · exact hok
    · refine ih _ _ ?_
      split
      · (first | (simp (maxDischargeDepth := 60) [*]; done) | (exact writeOut_only _ _ _ (by simp [hl]) hok))
      · exact hok

@[simp] theorem xltInval_only (w : Word) (hl : Part.regs ∈ L ∧ Part.ctr ∈ L ∧ Part.pins ∈ L ∧ Part.inval ∈ L) (hok : Only L w0 s) : Only L w0 (xltInval w s) := by
  unfold xltInval
  simp (maxDischargeDepth := 60) +contextual [hl, hok]

@[simp] theorem dropTlb_only (scope va index gen : Nat) (hl : Part.tlb ∈ L) (hok : Only L w0 s) : Only L w0 (dropTlb scope va index gen s) := by
  unfold dropTlb
  simp (maxDischargeDepth := 60) +contextual [hl, hok]

/-! Machine/Mem.lean -/

@[simp] theorem uncorrectable_only (a : Nat) (scrub : Bool) (hl : Part.regs ∈ L ∧ Part.ctr ∈ L ∧ Part.log ∈ L ∧ Part.logLost ∈ L ∧ Part.pins ∈ L) (hok : Only L w0 s) : Only L w0 (uncorrectable a scrub s) := by
  unfold uncorrectable
  simp (maxDischargeDepth := 60) +contextual [hl, hok]

@[simp] theorem poisonLine_only (a : Nat) (hl : Part.poison ∈ L) (hok : Only L w0 s) : Only L w0 (poisonLine a s) := by
  unfold poisonLine
  simp (maxDischargeDepth := 60) +contextual [hl, hok]

@[simp] theorem stopOf_only (job : Option Nat) (code : Nat) (hl : Part.jobs ∈ L) (hok : Only L w0 s) : Only L w0 (stopOf job code s) := by
  unfold stopOf
  repeat' split
  all_goals simp (maxDischargeDepth := 60) +contextual [hl, hok]

@[simp] theorem offLpddr_only (a : Nat) (write : Bool) (job : Option Nat) (hl : Part.regs ∈ L ∧ Part.ctr ∈ L ∧ Part.log ∈ L ∧ Part.logLost ∈ L ∧ Part.pins ∈ L ∧ Part.jobs ∈ L) (hok : Only L w0 s) : Only L w0 (offLpddr a write job s) := by
  unfold offLpddr
  simp (maxDischargeDepth := 60) +contextual [hl, hok]

/-! Machine/Link.lean -/

@[simp] theorem sendPair_only (type : Nat) (payload : List Byte) (hl : Part.regs ∈ L ∧ Part.ctr ∈ L ∧ Part.out ∈ L ∧ Part.ports ∈ L ∧ Part.qps ∈ L ∧ Part.pair ∈ L ∧ Part.rings ∈ L ∧ Part.jobs ∈ L ∧ Part.fetches ∈ L) (hok : Only L w0 s) : Only L w0 (sendPair type payload s) := by
  unfold sendPair
  simp (maxDischargeDepth := 60) +contextual [hl, hok]

@[simp] theorem mirrorWrite_only (a : Nat) (l : List Byte) (hl : Part.regs ∈ L ∧ Part.ctr ∈ L ∧ Part.out ∈ L ∧ Part.ports ∈ L ∧ Part.qps ∈ L ∧ Part.rings ∈ L ∧ Part.jobs ∈ L ∧ Part.fetches ∈ L) (hok : Only L w0 s) : Only L w0 (mirrorWrite a l s) := by
  unfold mirrorWrite
  simp (maxDischargeDepth := 60) +contextual [hl, hok]

@[simp] theorem mirrorVa_only (i va len fuel : Nat) (hl : Part.regs ∈ L ∧ Part.ctr ∈ L ∧ Part.out ∈ L ∧ Part.ports ∈ L ∧ Part.qps ∈ L ∧ Part.rings ∈ L ∧ Part.jobs ∈ L ∧ Part.fetches ∈ L) (hok : Only L w0 s) : Only L w0 (mirrorVa i va len fuel s) := by
  induction fuel generalizing va len s with
  | zero => exact hok
  | succ n ih =>
    rw [mirrorVa]
    split
    · exact hok
    · refine ih _ _ ?_
      split
      · split
        · exact hok
        · (first | (simp (maxDischargeDepth := 60) [*]; done) | (exact mirrorWrite_only _ _ (by simp [hl]) hok))
      · exact hok

@[simp] theorem sendEntry_only (e : Entry) (hl : Part.regs ∈ L ∧ Part.ctr ∈ L ∧ Part.out ∈ L ∧ Part.ports ∈ L ∧ Part.qps ∈ L ∧ Part.pair ∈ L ∧ Part.rings ∈ L ∧ Part.jobs ∈ L ∧ Part.fetches ∈ L) (hok : Only L w0 s) : Only L w0 (sendEntry e s) := by
  unfold sendEntry
  simp (maxDischargeDepth := 60) +contextual [hl, hok]

@[simp] theorem forwardEntry_only (sp : CmdSpec) (e : Entry) (hl : Part.regs ∈ L ∧ Part.ctr ∈ L ∧ Part.out ∈ L ∧ Part.ports ∈ L ∧ Part.qps ∈ L ∧ Part.pair ∈ L ∧ Part.rings ∈ L ∧ Part.jobs ∈ L ∧ Part.fetches ∈ L) (hok : Only L w0 s) : Only L w0 (forwardEntry sp e s) := by
  unfold forwardEntry
  repeat' split
  all_goals simp (maxDischargeDepth := 60) +contextual [hl, hok]

@[simp] theorem exclude_only (handle : Nat) (hl : Part.ctr ∈ L ∧ Part.pair ∈ L) (hok : Only L w0 s) : Only L w0 (exclude handle s) := by
  unfold exclude
  repeat' split
  all_goals simp (maxDischargeDepth := 60) +contextual [hl, hok]

@[simp] theorem diverge_only (handle seq : Nat) (hl : Part.regs ∈ L ∧ Part.ctr ∈ L ∧ Part.log ∈ L ∧ Part.logLost ∈ L ∧ Part.pins ∈ L ∧ Part.pair ∈ L) (hok : Only L w0 s) : Only L w0 (diverge handle seq s) := by
  unfold diverge
  simp (maxDischargeDepth := 60) +contextual [hl, hok]

@[simp] theorem finishFwd_only (ok : Bool) (c : Ctx) (code : Nat) (hl : Part.regs ∈ L ∧ Part.ctr ∈ L ∧ Part.log ∈ L ∧ Part.logLost ∈ L ∧ Part.pins ∈ L ∧ Part.pair ∈ L ∧ Part.chans ∈ L) (hok : Only L w0 s) : Only L w0 (finishFwd ok c code s) := by
  unfold finishFwd
  repeat' split
  all_goals simp (maxDischargeDepth := 60) +contextual [hl, hok]

end Sys2Proof.Machine
end

