-- ==== Sys2Proof/Laws/OnlyHost.lean ====
section
/-! SUPPORT. What each operation can change (Laws/Only.lean): queues, admission, ensembles, channels. One lemma for each operation. -/

namespace Sys2Proof.Machine

variable {w0 s : State} {L : List Part}

/-! Machine/Admit.lean -/

@[simp] theorem passQuiet_only (q : Nat) (hl : Part.queues ∈ L) (hok : Only L w0 s) : Only L w0 (passQuiet q s) := by
  unfold passQuiet
  repeat' split
  all_goals simp (maxDischargeDepth := 60) +contextual [hl, hok]

@[simp] theorem finish_only (c : Ctx) (code r0 r1 : Nat) (hl : Part.regs ∈ L ∧ Part.ctr ∈ L ∧ Part.log ∈ L ∧ Part.logLost ∈ L ∧ Part.pins ∈ L ∧ Part.pair ∈ L ∧ Part.queues ∈ L ∧ Part.due ∈ L ∧ Part.chans ∈ L) (hok : Only L w0 s) : Only L w0 (finish c code r0 r1 s) := by
  unfold finish
  repeat' split
  all_goals simp (maxDischargeDepth := 60) +contextual [hl, hok]

@[simp] theorem fail_only (c : Ctx) (code : Nat) (hl : Part.regs ∈ L ∧ Part.ctr ∈ L ∧ Part.log ∈ L ∧ Part.logLost ∈ L ∧ Part.pins ∈ L ∧ Part.pair ∈ L ∧ Part.queues ∈ L ∧ Part.due ∈ L ∧ Part.chans ∈ L) (hok : Only L w0 s) : Only L w0 (fail c code s) := by
  unfold fail
  simp (maxDischargeDepth := 60) +contextual [hl, hok]

@[simp] theorem done_only (c : Ctx) (hl : Part.regs ∈ L ∧ Part.ctr ∈ L ∧ Part.log ∈ L ∧ Part.logLost ∈ L ∧ Part.pins ∈ L ∧ Part.pair ∈ L ∧ Part.queues ∈ L ∧ Part.due ∈ L ∧ Part.chans ∈ L) (hok : Only L w0 s) : Only L w0 (done c s) := by
  unfold done
  simp (maxDischargeDepth := 60) +contextual [hl, hok]

@[simp] theorem deviceCtx_only (q : Source) (e : Entry) (handle : Nat) (hl : Part.devSeq ∈ L) (hok : Only L w0 s) : Only L w0 (deviceCtx q e handle s).2 := by
  unfold deviceCtx
  repeat' split
  all_goals simp (maxDischargeDepth := 60) +contextual [hl, hok]

@[simp] theorem channelCtx_only (q : Source) (i : Nat) (e : Entry) (hl : Part.chans ∈ L) (hok : Only L w0 s) : Only L w0 (channelCtx q i e s).2 := by
  unfold channelCtx
  simp (maxDischargeDepth := 60) +contextual [hl, hok]

@[simp] theorem admitFrom_only (sp : CmdSpec) (q : Source) (e : Entry) (body : Ctx → Nat → Entry → State → State) (ok_body : ∀ x0 x1 x2 u, Only L w0 u → Only L w0 (body x0 x1 x2 u)) (hl : Part.free ∈ L ∧ Part.regs ∈ L ∧ Part.ctr ∈ L ∧ Part.banks ∈ L ∧ Part.log ∈ L ∧ Part.logLost ∈ L ∧ Part.pins ∈ L ∧ Part.pair ∈ L ∧ Part.queues ∈ L ∧ Part.due ∈ L ∧ Part.devSeq ∈ L ∧ Part.chans ∈ L) (hok : Only L w0 s) : Only L w0 (admitFrom sp q e body s) := by
  unfold admitFrom
  repeat' split
  all_goals simp (maxDischargeDepth := 60) +contextual [hl, hok, ok_body]

@[simp] theorem admitCmd_only (sp : CmdSpec) (q : Nat) (e : Entry) (body : Ctx → Nat → Entry → State → State) (ok_body : ∀ x0 x1 x2 u, Only L w0 u → Only L w0 (body x0 x1 x2 u)) (hl : Part.free ∈ L ∧ Part.regs ∈ L ∧ Part.ctr ∈ L ∧ Part.banks ∈ L ∧ Part.out ∈ L ∧ Part.log ∈ L ∧ Part.logLost ∈ L ∧ Part.pins ∈ L ∧ Part.ports ∈ L ∧ Part.qps ∈ L ∧ Part.pair ∈ L ∧ Part.queues ∈ L ∧ Part.rings ∈ L ∧ Part.due ∈ L ∧ Part.devSeq ∈ L ∧ Part.chans ∈ L ∧ Part.jobs ∈ L ∧ Part.fetches ∈ L) (hok : Only L w0 s) : Only L w0 (admitCmd sp q e body s) := by
  unfold admitCmd
  repeat' split
  all_goals simp (maxDischargeDepth := 60) +contextual [hl, hok, ok_body]

@[simp] theorem noteDevSeq_only (d : Due) (hl : Part.regs ∈ L) (hok : Only L w0 s) : Only L w0 (noteDevSeq d s) := by
  unfold noteDevSeq
  simp (maxDischargeDepth := 60) +contextual [hl, hok]

/-! Machine/Queues.lean -/

@[simp] theorem holdQerr_only (number : Nat) (ring : Bool) (kind : Nat) (hl : Part.regs ∈ L) (hok : Only L w0 s) : Only L w0 (holdQerr number ring kind s) := by
  unfold holdQerr
  simp (maxDischargeDepth := 60) +contextual [hl, hok]

@[simp] theorem startQueue_only (q : Nat) (k : Queue) (hl : Part.regs ∈ L ∧ Part.queues ∈ L) (hok : Only L w0 s) : Only L w0 (startQueue q k s) := by
  unfold startQueue
  simp (maxDischargeDepth := 60) +contextual [hl, hok]

@[simp] theorem startRing_only (r : Nat) (k : Ring) (hl : Part.regs ∈ L ∧ Part.rings ∈ L) (hok : Only L w0 s) : Only L w0 (startRing r k s) := by
  unfold startRing
  simp (maxDischargeDepth := 60) +contextual [hl, hok]

@[simp] theorem sqCreate_only (c : Ctx) (x1 : Nat) (e : Entry) (hl : Part.regs ∈ L ∧ Part.ctr ∈ L ∧ Part.log ∈ L ∧ Part.logLost ∈ L ∧ Part.pins ∈ L ∧ Part.pair ∈ L ∧ Part.queues ∈ L ∧ Part.due ∈ L ∧ Part.chans ∈ L) (hok : Only L w0 s) : Only L w0 (sqCreate c x1 e s) := by
  unfold sqCreate
  simp (maxDischargeDepth := 60) +contextual [hl, hok]

@[simp] theorem nop_only (c : Ctx) (x1 : Nat) (x2 : Entry) (hl : Part.regs ∈ L ∧ Part.ctr ∈ L ∧ Part.log ∈ L ∧ Part.logLost ∈ L ∧ Part.pins ∈ L ∧ Part.pair ∈ L ∧ Part.queues ∈ L ∧ Part.due ∈ L ∧ Part.chans ∈ L) (hok : Only L w0 s) : Only L w0 (nop c x1 x2 s) := by
  unfold nop
  simp (maxDischargeDepth := 60) +contextual [hl, hok]

@[simp] theorem trySqDelete_only (q : Nat) (hl : Part.regs ∈ L ∧ Part.ctr ∈ L ∧ Part.log ∈ L ∧ Part.logLost ∈ L ∧ Part.pins ∈ L ∧ Part.pair ∈ L ∧ Part.queues ∈ L ∧ Part.due ∈ L ∧ Part.chans ∈ L) (hok : Only L w0 s) : Only L w0 (trySqDelete q s) := by
  unfold trySqDelete
  repeat' split
  all_goals simp (maxDischargeDepth := 60) +contextual [hl, hok]

@[simp] theorem sqDelete_only (c : Ctx) (x1 : Nat) (e : Entry) (hl : Part.regs ∈ L ∧ Part.ctr ∈ L ∧ Part.log ∈ L ∧ Part.logLost ∈ L ∧ Part.pins ∈ L ∧ Part.pair ∈ L ∧ Part.queues ∈ L ∧ Part.due ∈ L ∧ Part.chans ∈ L) (hok : Only L w0 s) : Only L w0 (sqDelete c x1 e s) := by
  unfold sqDelete
  dsimp only
  repeat' split
  all_goals simp (maxDischargeDepth := 60) +contextual [hl, hok]

@[simp] theorem cqCreate_only (c : Ctx) (x1 : Nat) (e : Entry) (hl : Part.regs ∈ L ∧ Part.ctr ∈ L ∧ Part.log ∈ L ∧ Part.logLost ∈ L ∧ Part.pins ∈ L ∧ Part.pair ∈ L ∧ Part.queues ∈ L ∧ Part.rings ∈ L ∧ Part.due ∈ L ∧ Part.chans ∈ L) (hok : Only L w0 s) : Only L w0 (cqCreate c x1 e s) := by
  unfold cqCreate
  simp (maxDischargeDepth := 60) +contextual [hl, hok]

@[simp] theorem discardRing_only (r : Nat) (hl : Part.queues ∈ L ∧ Part.rings ∈ L ∧ Part.due ∈ L ∧ Part.chans ∈ L) (hok : Only L w0 s) : Only L w0 (discardRing r s) := by
  unfold discardRing
  simp (maxDischargeDepth := 60) +contextual [hl, hok]

@[simp] theorem cqDelete_only (c : Ctx) (x1 : Nat) (e : Entry) (hl : Part.regs ∈ L ∧ Part.ctr ∈ L ∧ Part.log ∈ L ∧ Part.logLost ∈ L ∧ Part.pins ∈ L ∧ Part.pair ∈ L ∧ Part.queues ∈ L ∧ Part.rings ∈ L ∧ Part.due ∈ L ∧ Part.chans ∈ L) (hok : Only L w0 s) : Only L w0 (cqDelete c x1 e s) := by
  unfold cqDelete
  dsimp only
  repeat' split
  all_goals simp (maxDischargeDepth := 60) +contextual [hl, hok]

@[simp] theorem doorbellOn_only (q : Nat) (d : Dword) (hl : Part.regs ∈ L ∧ Part.ctr ∈ L ∧ Part.log ∈ L ∧ Part.logLost ∈ L ∧ Part.pins ∈ L ∧ Part.queues ∈ L ∧ Part.due ∈ L) (hok : Only L w0 s) : Only L w0 (doorbellOn q d s) := by
  unfold doorbellOn
  repeat' split
  all_goals simp (maxDischargeDepth := 60) +contextual [hl, hok]

@[simp] theorem doorbell_only (q : Nat) (d : Dword) (hl : Part.regs ∈ L ∧ Part.ctr ∈ L ∧ Part.log ∈ L ∧ Part.logLost ∈ L ∧ Part.pins ∈ L ∧ Part.queues ∈ L ∧ Part.due ∈ L) (hok : Only L w0 s) : Only L w0 (doorbell q d s) := by
  unfold doorbell
  simp (maxDischargeDepth := 60) +contextual [hl, hok]

@[simp] theorem cqHead_only (r : Nat) (w : Word) (hl : Part.regs ∈ L ∧ Part.ctr ∈ L) (hok : Only L w0 s) : Only L w0 (cqHead r w s) := by
  unfold cqHead
  repeat' split
  all_goals simp (maxDischargeDepth := 60) +contextual [hl, hok]

@[simp] theorem q0Set_only (hl : Part.q0Wanted ∈ L) (hok : Only L w0 s) : Only L w0 (q0Set s) := by
  unfold q0Set
  simp (maxDischargeDepth := 60) +contextual [hl, hok]

@[simp] theorem stopQueue0_only (hl : Part.queues ∈ L) (hok : Only L w0 s) : Only L w0 (stopQueue0 s) := by
  unfold stopQueue0
  repeat' split
  all_goals simp (maxDischargeDepth := 60) +contextual [hl, hok]

@[simp] theorem dropFailed0_only (hl : Part.queues ∈ L ∧ Part.rings ∈ L ∧ Part.due ∈ L ∧ Part.chans ∈ L) (hok : Only L w0 s) : Only L w0 (dropFailed0 s) := by
  unfold dropFailed0
  repeat' split
  all_goals simp (maxDischargeDepth := 60) +contextual [hl, hok]

@[simp] theorem q0Clear_only (hl : Part.regs ∈ L ∧ Part.queues ∈ L ∧ Part.rings ∈ L ∧ Part.q0Wanted ∈ L ∧ Part.due ∈ L ∧ Part.chans ∈ L) (hok : Only L w0 s) : Only L w0 (q0Clear s) := by
  unfold q0Clear
  simp (maxDischargeDepth := 60) +contextual [hl, hok]

@[simp] theorem ringWrite_only (r a : Nat) (l : List Byte) (body : Bool) (hl : Part.regs ∈ L ∧ Part.ctr ∈ L ∧ Part.out ∈ L ∧ Part.ports ∈ L ∧ Part.qps ∈ L ∧ Part.rings ∈ L ∧ Part.jobs ∈ L ∧ Part.fetches ∈ L) (hok : Only L w0 s) : Only L w0 (ringWrite r a l body s) := by
  unfold ringWrite
  simp (maxDischargeDepth := 60) +contextual [hl, hok]

@[simp] theorem chProbe_only (w : Word) (hl : Part.regs ∈ L) (hok : Only L w0 s) : Only L w0 (chProbe w s) := by
  unfold chProbe
  simp (maxDischargeDepth := 60) +contextual [hl, hok]

/-! Machine/Ensembles.lean -/

@[simp] theorem ensForm_only (c : Ctx) (x1 : Nat) (e : Entry) (hl : Part.regs ∈ L ∧ Part.ctr ∈ L ∧ Part.log ∈ L ∧ Part.logLost ∈ L ∧ Part.pins ∈ L ∧ Part.pair ∈ L ∧ Part.queues ∈ L ∧ Part.due ∈ L ∧ Part.chans ∈ L ∧ Part.ens ∈ L) (hok : Only L w0 s) : Only L w0 (ensForm c x1 e s) := by
  unfold ensForm
  simp (maxDischargeDepth := 60) +contextual [hl, hok]

@[simp] theorem ensDissolve_only (c : Ctx) (x1 : Nat) (e : Entry) (hl : Part.regs ∈ L ∧ Part.ctr ∈ L ∧ Part.log ∈ L ∧ Part.logLost ∈ L ∧ Part.pins ∈ L ∧ Part.pair ∈ L ∧ Part.queues ∈ L ∧ Part.due ∈ L ∧ Part.chans ∈ L ∧ Part.ens ∈ L) (hok : Only L w0 s) : Only L w0 (ensDissolve c x1 e s) := by
  unfold ensDissolve
  simp (maxDischargeDepth := 60) +contextual [hl, hok]

@[simp] theorem contextObject_only (hl : Part.free ∈ L ∧ Part.ctr ∈ L) (hok : Only L w0 s) : Only L w0 (contextObject s).2 := by
  simp (maxDischargeDepth := 60) +contextual [contextObject, hl, hok]

@[simp] theorem swapOut_only (i : Nat) (hl : Part.free ∈ L ∧ Part.regs ∈ L ∧ Part.ctr ∈ L ∧ Part.mem ∈ L ∧ Part.chans ∈ L) (hok : Only L w0 s) : Only L w0 (swapOut i s) := by
  unfold swapOut
  dsimp only
  repeat' split
  all_goals simp (maxDischargeDepth := 60) +contextual [hl, hok]

@[simp] theorem swapIn_only (i n : Nat) (hl : Part.free ∈ L ∧ Part.regs ∈ L ∧ Part.ctr ∈ L ∧ Part.chans ∈ L) (hok : Only L w0 s) : Only L w0 (swapIn i n s) := by
  unfold swapIn
  simp (maxDischargeDepth := 60) +contextual [hl, hok]

theorem takeSlot_only {i e : Nat} {t : State} (h : takeSlot i e s = some t) (hl : Part.free ∈ L ∧ Part.regs ∈ L ∧ Part.ctr ∈ L ∧ Part.mem ∈ L ∧ Part.chans ∈ L) (hok : Only L w0 s) : Only L w0 t := by
  unfold takeSlot at h
  dsimp only at h
  repeat' split at h
  all_goals try cases h
  all_goals simp (maxDischargeDepth := 60) [hl, hok]

@[simp] theorem evict_only (n : Nat) (hl : Part.free ∈ L ∧ Part.regs ∈ L ∧ Part.ctr ∈ L ∧ Part.mem ∈ L ∧ Part.chans ∈ L) (hok : Only L w0 s) : Only L w0 (evict n s) := by
  unfold evict
  repeat' split
  all_goals simp (maxDischargeDepth := 60) +contextual [hl, hok]

@[simp] theorem makeSuspect_only (p handle seq : Nat) (hl : Part.free ∈ L ∧ Part.regs ∈ L ∧ Part.ctr ∈ L ∧ Part.mem ∈ L ∧ Part.log ∈ L ∧ Part.logLost ∈ L ∧ Part.pins ∈ L ∧ Part.due ∈ L ∧ Part.chans ∈ L) (hok : Only L w0 s) : Only L w0 (makeSuspect p handle seq s) := by
  unfold makeSuspect
  simp (maxDischargeDepth := 60) +contextual [hl, hok]

@[simp] theorem retire_only (c : Ctx) (x1 : Nat) (e : Entry) (hl : Part.regs ∈ L ∧ Part.ctr ∈ L ∧ Part.log ∈ L ∧ Part.logLost ∈ L ∧ Part.pins ∈ L ∧ Part.pair ∈ L ∧ Part.queues ∈ L ∧ Part.due ∈ L ∧ Part.chans ∈ L) (hok : Only L w0 s) : Only L w0 (retire c x1 e s) := by
  unfold retire
  simp (maxDischargeDepth := 60) +contextual [hl, hok]

@[simp] theorem forget_only (p : Nat) (hl : Part.jobs ∈ L) (hok : Only L w0 s) : Only L w0 (forget p s) := by
  unfold forget
  simp (maxDischargeDepth := 60) +contextual [hl, hok]

@[simp] theorem readmit_only (c : Ctx) (x1 : Nat) (e : Entry) (hl : Part.regs ∈ L ∧ Part.ctr ∈ L ∧ Part.log ∈ L ∧ Part.logLost ∈ L ∧ Part.pins ∈ L ∧ Part.pair ∈ L ∧ Part.queues ∈ L ∧ Part.due ∈ L ∧ Part.chans ∈ L ∧ Part.jobs ∈ L) (hok : Only L w0 s) : Only L w0 (readmit c x1 e s) := by
  unfold readmit
  simp (maxDischargeDepth := 60) +contextual [hl, hok]

/-! Machine/ChanCmds.lean -/

@[simp] theorem takeIndex_only (hl : Part.due ∈ L ∧ Part.devSeq ∈ L ∧ Part.nextIndex ∈ L ∧ Part.freed ∈ L) (hok : Only L w0 s) : Only L w0 (takeIndex s) := by
  unfold takeIndex
  apply Only.mk_of hok <;> first | (simp only [hl, true_or]; done) | exact Or.inr rfl

@[simp] theorem notePlace_only (code a : Nat) (hl : Part.regs ∈ L ∧ Part.ctr ∈ L) (hok : Only L w0 s) : Only L w0 (notePlace code a s) := by
  unfold notePlace
  simp (maxDischargeDepth := 60) +contextual [hl, hok]

@[simp] theorem chCreate_only (c : Ctx) (x1 : Nat) (e : Entry) (hl : Part.regs ∈ L ∧ Part.ctr ∈ L ∧ Part.log ∈ L ∧ Part.logLost ∈ L ∧ Part.pins ∈ L ∧ Part.pair ∈ L ∧ Part.queues ∈ L ∧ Part.due ∈ L ∧ Part.devSeq ∈ L ∧ Part.chans ∈ L ∧ Part.nextIndex ∈ L ∧ Part.freed ∈ L) (hok : Only L w0 s) : Only L w0 (chCreate c x1 e s) := by
  unfold chCreate
  dsimp only
  split
  · simp (maxDischargeDepth := 60) [hl, hok]
  · exact finish_only _ _ _ _ (by simp [hl]) (bump_only _ _ _ (by simp [hl]) (setChan_only _ _ (by simp [hl]) (takeIndex_only (by simp [hl]) hok)))

@[simp] theorem settleSettings_only (i : Nat) (hl : Part.regs ∈ L ∧ Part.ctr ∈ L ∧ Part.log ∈ L ∧ Part.logLost ∈ L ∧ Part.pins ∈ L ∧ Part.pair ∈ L ∧ Part.queues ∈ L ∧ Part.due ∈ L ∧ Part.chans ∈ L ∧ Part.opens ∈ L) (hok : Only L w0 s) : Only L w0 (settleSettings i s) := by
  unfold settleSettings
  split
  · exact hok
  · refine Only.foldl _ (fun a x ha => ?_) (by simp [hl, hok])
    split <;> simp (maxDischargeDepth := 60) +contextual [*]

@[simp] theorem chSet_only (c : Ctx) (i : Nat) (e : Entry) (hl : Part.regs ∈ L ∧ Part.ctr ∈ L ∧ Part.log ∈ L ∧ Part.logLost ∈ L ∧ Part.pins ∈ L ∧ Part.pair ∈ L ∧ Part.queues ∈ L ∧ Part.due ∈ L ∧ Part.chans ∈ L ∧ Part.opens ∈ L) (hok : Only L w0 s) : Only L w0 (chSet c i e s) := by
  unfold chSet
  simp (maxDischargeDepth := 60) +contextual [hl, hok]

@[simp] theorem statsSet_only (c : Ctx) (i : Nat) (e : Entry) (hl : Part.regs ∈ L ∧ Part.ctr ∈ L ∧ Part.log ∈ L ∧ Part.logLost ∈ L ∧ Part.pins ∈ L ∧ Part.pair ∈ L ∧ Part.queues ∈ L ∧ Part.due ∈ L ∧ Part.chans ∈ L) (hok : Only L w0 s) : Only L w0 (statsSet c i e s) := by
  unfold statsSet
  dsimp only
  repeat' split
  all_goals simp (maxDischargeDepth := 60) +contextual [hl, hok]

@[simp] theorem restartHeld_only (i : Nat) (hl : Part.regs ∈ L ∧ Part.ctr ∈ L ∧ Part.log ∈ L ∧ Part.logLost ∈ L ∧ Part.pins ∈ L ∧ Part.due ∈ L ∧ Part.chans ∈ L ∧ Part.jobs ∈ L) (hok : Only L w0 s) : Only L w0 (restartHeld i s) := by
  unfold restartHeld
  simp (maxDischargeDepth := 60) +contextual [hl, hok]

@[simp] theorem chContinue_only (c : Ctx) (i : Nat) (x2 : Entry) (hl : Part.regs ∈ L ∧ Part.ctr ∈ L ∧ Part.log ∈ L ∧ Part.logLost ∈ L ∧ Part.pins ∈ L ∧ Part.pair ∈ L ∧ Part.queues ∈ L ∧ Part.due ∈ L ∧ Part.chans ∈ L ∧ Part.jobs ∈ L) (hok : Only L w0 s) : Only L w0 (chContinue c i x2 s) := by
  unfold chContinue
  simp (maxDischargeDepth := 60) +contextual [hl, hok]

@[simp] theorem chEnsemble_only (c : Ctx) (i : Nat) (e : Entry) (hl : Part.free ∈ L ∧ Part.regs ∈ L ∧ Part.ctr ∈ L ∧ Part.mem ∈ L ∧ Part.log ∈ L ∧ Part.logLost ∈ L ∧ Part.pins ∈ L ∧ Part.pair ∈ L ∧ Part.queues ∈ L ∧ Part.due ∈ L ∧ Part.chans ∈ L ∧ Part.jobs ∈ L) (hok : Only L w0 s) : Only L w0 (chEnsemble c i e s) := by
  unfold chEnsemble
  dsimp only
  repeat' split
  any_goals simp (maxDischargeDepth := 60) +contextual [*]
  (first | (simp (maxDischargeDepth := 60) [*]; done) | (exact done_only _ (by simp [hl]) (modChan_only _ _ (by simp [hl]) (takeSlot_only ‹_› (by simp [hl]) (setChan_only _ _ (by simp [hl]) hok)))))

@[simp] theorem cancel_only (c : Ctx) (i : Nat) (e : Entry) (hl : Part.regs ∈ L ∧ Part.ctr ∈ L ∧ Part.log ∈ L ∧ Part.logLost ∈ L ∧ Part.pins ∈ L ∧ Part.pair ∈ L ∧ Part.queues ∈ L ∧ Part.due ∈ L ∧ Part.chans ∈ L ∧ Part.jobs ∈ L) (hok : Only L w0 s) : Only L w0 (cancel c i e s) := by
  unfold cancel
  simp (maxDischargeDepth := 60) +contextual [hl, hok]

end Sys2Proof.Machine
end

