-- ==== Sys2Proof/Laws/OnlyCore.lean ====
section
/-! SUPPORT. What each operation can change (Laws/Only.lean): players, trace, the control core, cues and their engines. One lemma for each operation. -/

namespace Sys2Proof.Machine

variable {w0 s : State} {L : List Part}

/-! Machine/Players.lean -/

@[simp] theorem setPly_only (p : Nat) (x : Player) (hl : Part.players ∈ L) (hok : Only L w0 s) : Only L w0 (setPly p x s) := by
  unfold setPly
  simp (maxDischargeDepth := 60) +contextual [hl, hok]

@[simp] theorem setThread_only (p t : Nat) (x : Thread) (hl : Part.players ∈ L) (hok : Only L w0 s) : Only L w0 (setThread p t x s) := by
  unfold setThread
  simp (maxDischargeDepth := 60) +contextual [hl, hok]

@[simp] theorem repause_only (p : Nat) (hl : Part.players ∈ L) (hok : Only L w0 s) : Only L w0 (repause p s) := by
  unfold repause
  dsimp only
  repeat' split
  all_goals simp (maxDischargeDepth := 60) +contextual [hl, hok]

@[simp] theorem repauseAll_only (hl : Part.players ∈ L) (hok : Only L w0 s) : Only L w0 (repauseAll s) := by
  unfold repauseAll
  simp (maxDischargeDepth := 60) +contextual [hl, hok]

@[simp] theorem restall_only (id : Nat) (hl : Part.jobs ∈ L) (hok : Only L w0 s) : Only L w0 (restall id s) := by
  unfold restall
  repeat' split
  all_goals simp (maxDischargeDepth := 60) +contextual [hl, hok]

@[simp] theorem repauseJob_only (job : Option Nat) (hl : Part.jobs ∈ L ∧ Part.players ∈ L) (hok : Only L w0 s) : Only L w0 (repauseJob job s) := by
  unfold repauseJob
  repeat' split
  all_goals simp (maxDischargeDepth := 60) +contextual [hl, hok]

@[simp] theorem touch_only (p : Nat) (hl : Part.players ∈ L) (hok : Only L w0 s) : Only L w0 (touch p s) := by
  unfold touch
  simp (maxDischargeDepth := 60) +contextual [hl, hok]

@[simp] theorem moved_only (job : Option Nat) (hl : Part.jobs ∈ L) (hok : Only L w0 s) : Only L w0 (moved job s) := by
  unfold moved
  repeat' split
  all_goals simp (maxDischargeDepth := 60) +contextual [hl, hok]

@[simp] theorem closeIdle_only (p : Nat) (hl : Part.streams ∈ L) (hok : Only L w0 s) : Only L w0 (closeIdle p s) := by
  unfold closeIdle
  simp (maxDischargeDepth := 60) +contextual [hl, hok]

/-! Machine/Trace.lean -/

@[simp] theorem setTrc_only (p : Nat) (x : Trace) (hl : Part.traces ∈ L) (hok : Only L w0 s) : Only L w0 (setTrc p x s) := by
  unfold setTrc
  simp (maxDischargeDepth := 60) +contextual [hl, hok]

@[simp] theorem freeze_only (p : Nat) (hl : Part.regs ∈ L ∧ Part.ctr ∈ L) (hok : Only L w0 s) : Only L w0 (freeze p s) := by
  unfold freeze
  simp (maxDischargeDepth := 60) +contextual [hl, hok]

@[simp] theorem enterPacket_only (p : Nat) (k : Packet) (hl : Part.regs ∈ L ∧ Part.ctr ∈ L ∧ Part.traces ∈ L) (hok : Only L w0 s) : Only L w0 (enterPacket p k s) := by
  unfold enterPacket
  simp (maxDischargeDepth := 60) +contextual [hl, hok]

@[simp] theorem packet_only (p : Nat) (k : Packet) (hl : Part.regs ∈ L ∧ Part.ctr ∈ L ∧ Part.traces ∈ L) (hok : Only L w0 s) : Only L w0 (packet p k s) := by
  unfold packet
  simp (maxDischargeDepth := 60) only [and_self, true_and, and_true, true_or, or_true, Only.ite, Only.mk_of, Only.foldl, implies_true, bump_only, wf_only, setTrc_only, enterPacket_only, hl, hok]

@[simp] theorem flushBits_only (p t : Nat) (hl : Part.regs ∈ L ∧ Part.ctr ∈ L ∧ Part.traces ∈ L) (hok : Only L w0 s) : Only L w0 (flushBits p t s) := by
  unfold flushBits
  simp (maxDischargeDepth := 60) +contextual [hl, hok]

@[simp] theorem traceSync_only (p t : Nat) (hl : Part.regs ∈ L ∧ Part.ctr ∈ L ∧ Part.traces ∈ L) (hok : Only L w0 s) : Only L w0 (traceSync p t s) := by
  unfold traceSync
  simp (maxDischargeDepth := 60) +contextual [hl, hok]

@[simp] theorem traceEvent_only (p t kind value : Nat) (hl : Part.regs ∈ L ∧ Part.ctr ∈ L ∧ Part.traces ∈ L) (hok : Only L w0 s) : Only L w0 (traceEvent p t kind value s) := by
  unfold traceEvent
  simp (maxDischargeDepth := 60) +contextual [hl, hok]

@[simp] theorem traceIndirect_only (p t target : Nat) (hl : Part.regs ∈ L ∧ Part.ctr ∈ L ∧ Part.traces ∈ L) (hok : Only L w0 s) : Only L w0 (traceIndirect p t target s) := by
  unfold traceIndirect
  simp (maxDischargeDepth := 60) +contextual [hl, hok]

@[simp] theorem traceBranch_only (p t : Nat) (taken : Bool) (hl : Part.regs ∈ L ∧ Part.ctr ∈ L ∧ Part.traces ∈ L) (hok : Only L w0 s) : Only L w0 (traceBranch p t taken s) := by
  unfold traceBranch
  simp (maxDischargeDepth := 60) +contextual [hl, hok]

@[simp] theorem fireOne_only (p t src : Nat) (hl : Part.regs ∈ L ∧ Part.ctr ∈ L ∧ Part.traces ∈ L) (hok : Only L w0 s) : Only L w0 (fireOne p t src s) := by
  unfold fireOne
  simp (maxDischargeDepth := 60) +contextual [hl, hok]

@[simp] theorem fire_only (p t src : Nat) (hl : Part.regs ∈ L ∧ Part.ctr ∈ L ∧ Part.traces ∈ L) (hok : Only L w0 s) : Only L w0 (fire p t src s) := by
  unfold fire
  simp (maxDischargeDepth := 60) +contextual [hl, hok]

@[simp] theorem fireTrap_only (p t : Nat) (hl : Part.regs ∈ L ∧ Part.ctr ∈ L ∧ Part.traces ∈ L) (hok : Only L w0 s) : Only L w0 (fireTrap p t s) := by
  unfold fireTrap
  simp (maxDischargeDepth := 60) +contextual [hl, hok]

@[simp] theorem freezeAtEnd_only (p : Nat) (hl : Part.regs ∈ L ∧ Part.ctr ∈ L) (hok : Only L w0 s) : Only L w0 (freezeAtEnd p s) := by
  unfold freezeAtEnd
  simp (maxDischargeDepth := 60) +contextual [hl, hok]

@[simp] theorem emptyTrace_only (p : Nat) (hl : Part.regs ∈ L ∧ Part.traces ∈ L) (hok : Only L w0 s) : Only L w0 (emptyTrace p s) := by
  unfold emptyTrace
  simp (maxDischargeDepth := 60) +contextual [hl, hok]

@[simp] theorem trcEnable_only (p : Nat) (w : Word) (hl : Part.regs ∈ L ∧ Part.ctr ∈ L ∧ Part.pins ∈ L ∧ Part.traces ∈ L) (hok : Only L w0 s) : Only L w0 (trcEnable p w s) := by
  unfold trcEnable
  simp (maxDischargeDepth := 60) +contextual [hl, hok]

@[simp] theorem trcTrig_only (p : Nat) (w : Word) (hl : Part.regs ∈ L ∧ Part.ctr ∈ L ∧ Part.traces ∈ L) (hok : Only L w0 s) : Only L w0 (trcTrig p w s) := by
  unfold trcTrig
  simp (maxDischargeDepth := 60) +contextual [hl, hok]

@[simp] theorem traceGap_only (p : Nat) (hl : Part.regs ∈ L ∧ Part.ctr ∈ L ∧ Part.log ∈ L ∧ Part.logLost ∈ L ∧ Part.pins ∈ L ∧ Part.traces ∈ L) (hok : Only L w0 s) : Only L w0 (traceGap p s) := by
  unfold traceGap
  simp (maxDischargeDepth := 60) +contextual [hl, hok]

@[simp] theorem dbgStop_only (p t value : Nat) (hl : Part.regs ∈ L ∧ Part.ctr ∈ L ∧ Part.traces ∈ L ∧ Part.jobs ∈ L ∧ Part.players ∈ L) (hok : Only L w0 s) : Only L w0 (dbgStop p t value s) := by
  unfold dbgStop
  simp (maxDischargeDepth := 60) +contextual [hl, hok]

@[simp] theorem dbgHalt_only (p t : Nat) (hl : Part.regs ∈ L ∧ Part.ctr ∈ L ∧ Part.pins ∈ L ∧ Part.traces ∈ L ∧ Part.jobs ∈ L ∧ Part.players ∈ L) (hok : Only L w0 s) : Only L w0 (dbgHalt p t s) := by
  unfold dbgHalt
  simp (maxDischargeDepth := 60) +contextual [hl, hok]

@[simp] theorem dbgContinue_only (p t : Nat) (hl : Part.regs ∈ L ∧ Part.ctr ∈ L ∧ Part.traces ∈ L ∧ Part.jobs ∈ L ∧ Part.players ∈ L) (hok : Only L w0 s) : Only L w0 (dbgContinue p t s) := by
  unfold dbgContinue
  simp (maxDischargeDepth := 60) +contextual [hl, hok]

@[simp] theorem dbgResume_only (p t : Nat) (hl : Part.regs ∈ L ∧ Part.ctr ∈ L ∧ Part.pins ∈ L ∧ Part.traces ∈ L ∧ Part.jobs ∈ L ∧ Part.players ∈ L) (hok : Only L w0 s) : Only L w0 (dbgResume p t s) := by
  unfold dbgResume
  simp (maxDischargeDepth := 60) +contextual [hl, hok]

@[simp] theorem dbgStep_only (p t : Nat) (hl : Part.regs ∈ L ∧ Part.ctr ∈ L ∧ Part.pins ∈ L ∧ Part.jobs ∈ L ∧ Part.players ∈ L) (hok : Only L w0 s) : Only L w0 (dbgStep p t s) := by
  unfold dbgStep
  simp (maxDischargeDepth := 60) +contextual [hl, hok]

@[simp] theorem dbgData_only (hi : Bool) (w : Word) (hl : Part.regs ∈ L ∧ Part.ctr ∈ L ∧ Part.pins ∈ L ∧ Part.players ∈ L) (hok : Only L w0 s) : Only L w0 (dbgData hi w s) := by
  unfold dbgData
  simp (maxDischargeDepth := 60) only [and_self, true_and, and_true, true_or, or_true, Only.ite, Only.mk_of, Only.foldl, implies_true, record_only, setThread_only, hl, hok]

/-! Machine/RiscV.lean -/

@[simp] theorem coreStore_only (p a n v : Nat) (hl : Part.mem ∈ L ∧ Part.players ∈ L) (hok : Only L w0 s) : Only L w0 (coreStore s p a n v).2 := by
  unfold coreStore
  repeat' split
  all_goals simp (maxDischargeDepth := 60) +contextual [hl, hok]

@[simp] theorem stopPlayerJob_only (p code : Nat) (hl : Part.jobs ∈ L) (hok : Only L w0 s) : Only L w0 (stopPlayerJob p code s) := by
  unfold stopPlayerJob
  repeat' split
  all_goals simp (maxDischargeDepth := 60) +contextual [hl, hok]

@[simp] theorem plyFault_only (p kind thread engine repeat_ cause detail addr value code : Nat) (hl : Part.regs ∈ L ∧ Part.ctr ∈ L ∧ Part.log ∈ L ∧ Part.logLost ∈ L ∧ Part.pins ∈ L ∧ Part.traces ∈ L ∧ Part.jobs ∈ L) (hok : Only L w0 s) : Only L w0 (plyFault p kind thread engine repeat_ cause detail addr value code s) := by
  unfold plyFault
  simp (maxDischargeDepth := 60) +contextual [hl, hok]

@[simp] theorem coreTrap_only (p t cause tval : Nat) (hl : Part.regs ∈ L ∧ Part.ctr ∈ L ∧ Part.log ∈ L ∧ Part.logLost ∈ L ∧ Part.pins ∈ L ∧ Part.traces ∈ L ∧ Part.jobs ∈ L ∧ Part.players ∈ L) (hok : Only L w0 s) : Only L w0 (coreTrap p t cause tval s) := by
  unfold coreTrap
  simp (maxDischargeDepth := 60) +contextual [hl, hok]

@[simp] theorem retireAt_only (p t : Nat) (x : Thread) (npc : Nat) (hl : Part.regs ∈ L ∧ Part.ctr ∈ L ∧ Part.traces ∈ L ∧ Part.jobs ∈ L ∧ Part.players ∈ L) (hok : Only L w0 s) : Only L w0 (retireAt p t x npc s) := by
  unfold retireAt
  simp (maxDischargeDepth := 60) +contextual [hl, hok]

@[simp] theorem pcTrigger_only (p t : Nat) (hl : Part.regs ∈ L ∧ Part.ctr ∈ L ∧ Part.traces ∈ L) (hok : Only L w0 s) : Only L w0 (pcTrigger p t s) := by
  unfold pcTrigger
  simp (maxDischargeDepth := 60) +contextual [hl, hok]

@[simp] theorem rvExec_only (p t w len : Nat) (hl : Part.regs ∈ L ∧ Part.ctr ∈ L ∧ Part.mem ∈ L ∧ Part.log ∈ L ∧ Part.logLost ∈ L ∧ Part.pins ∈ L ∧ Part.traces ∈ L ∧ Part.jobs ∈ L ∧ Part.players ∈ L) (hok : Only L w0 s) : Only L w0 (rvExec p t w len s) := by
  unfold rvExec
  dsimp only
  repeat' first
    | with_reducible assumption | with_reducible apply traceIndirect_only | with_reducible apply traceBranch_only | with_reducible apply dbgStop_only | with_reducible apply coreStore_only | with_reducible apply coreTrap_only | with_reducible apply retireAt_only | with_reducible apply bump_only | split
  all_goals simp (maxDischargeDepth := 60) [hl, hok]

@[simp] theorem fetchMiss_only (p : Nat) (hl : Part.free ∈ L ∧ Part.ctr ∈ L) (hok : Only L w0 s) : Only L w0 (fetchMiss p s) := by
  unfold fetchMiss
  simp (maxDischargeDepth := 60) +contextual [hl, hok]

/-! Machine/Scaling.lean -/

@[simp] theorem countJob_only (id tid : Nat) (count : Bool) (l : List (Fp × Cstat)) (hl : Part.jobs ∈ L) (hok : Only L w0 s) : Only L w0 (countJob id tid count l s) := by
  unfold countJob
  repeat' split
  all_goals simp (maxDischargeDepth := 60) +contextual [hl, hok]

@[simp] theorem countStats_only (p tid : Nat) (count : Bool) (l : List (Fp × Cstat)) (hl : Part.jobs ∈ L) (hok : Only L w0 s) : Only L w0 (countStats p tid count l s) := by
  unfold countStats
  repeat' split
  all_goals simp (maxDischargeDepth := 60) +contextual [hl, hok]

@[simp] theorem countOnly_only (p tid : Nat) (l : List (Fp × Cstat)) (hl : Part.jobs ∈ L) (hok : Only L w0 s) : Only L w0 (countOnly p tid l s) := by
  unfold countOnly
  repeat' split
  all_goals simp (maxDischargeDepth := 60) +contextual [hl, hok]

@[simp] theorem clearValid_only (i bank : Nat) (hl : Part.regs ∈ L ∧ Part.ctr ∈ L ∧ Part.mem ∈ L ∧ Part.out ∈ L ∧ Part.ports ∈ L ∧ Part.qps ∈ L ∧ Part.rings ∈ L ∧ Part.jobs ∈ L ∧ Part.fetches ∈ L) (hok : Only L w0 s) : Only L w0 (clearValid i bank s) := by
  unfold clearValid
  simp (maxDischargeDepth := 60) +contextual [hl, hok]

@[simp] theorem writeStats_only (i seq : Nat) (hl : Part.regs ∈ L ∧ Part.ctr ∈ L ∧ Part.mem ∈ L ∧ Part.out ∈ L ∧ Part.ports ∈ L ∧ Part.qps ∈ L ∧ Part.rings ∈ L ∧ Part.jobs ∈ L ∧ Part.fetches ∈ L) (hok : Only L w0 s) : Only L w0 (writeStats i seq s) := by
  unfold writeStats
  dsimp only
  repeat' split
  all_goals simp (maxDischargeDepth := 60) +contextual [hl, hok]

@[simp] theorem closeInterval_only (i : Nat) (hl : Part.regs ∈ L ∧ Part.chans ∈ L) (hok : Only L w0 s) : Only L w0 (closeInterval i s) := by
  unfold closeInterval
  simp (maxDischargeDepth := 60) +contextual [hl, hok]

/-! Machine/Fsc.lean -/

@[simp] theorem fscFail_only (code pos handle : Nat) (host : Bool) (hl : Part.free ∈ L ∧ Part.regs ∈ L ∧ Part.ctr ∈ L) (hok : Only L w0 s) : Only L w0 (fscFail code pos handle host s) := by
  unfold fscFail
  repeat' split
  all_goals simp (maxDischargeDepth := 60) +contextual [hl, hok]

@[simp] theorem countComp_only (orig body : List Byte) (mode : Nat) (hl : Part.ctr ∈ L) (hok : Only L w0 s) : Only L w0 (countComp orig body mode s) := by
  unfold countComp
  simp (maxDischargeDepth := 60) +contextual [hl, hok]

@[simp] theorem countDecomp_only (orig body : Nat) (hl : Part.ctr ∈ L) (hok : Only L w0 s) : Only L w0 (countDecomp orig body s) := by
  unfold countDecomp
  simp (maxDischargeDepth := 60) +contextual [hl, hok]

@[simp] theorem countRefs_only (top : Nat) (hl : Part.free ∈ L ∧ Part.ctr ∈ L) (hok : Only L w0 s) : Only L w0 (countRefs top s) := by
  unfold countRefs
  simp (maxDischargeDepth := 60) +contextual [hl, hok]

/-! Machine/Cues.lean -/

@[simp] theorem cueIllegal_only (p t cls pos : Nat) (hl : Part.regs ∈ L ∧ Part.ctr ∈ L ∧ Part.log ∈ L ∧ Part.logLost ∈ L ∧ Part.pins ∈ L ∧ Part.traces ∈ L ∧ Part.jobs ∈ L) (hok : Only L w0 s) : Only L w0 (cueIllegal p t cls pos s) := by
  unfold cueIllegal
  simp (maxDischargeDepth := 60) +contextual [hl, hok]

@[simp] theorem enqueue_only (p t cue : Nat) (hl : Part.ctr ∈ L ∧ Part.players ∈ L) (hok : Only L w0 s) : Only L w0 (enqueue p t cue s) := by
  unfold enqueue
  simp (maxDischargeDepth := 60) +contextual [hl, hok]

@[simp] theorem cueIssueOf_only (bad : Option Nat) (p t w : Nat) (x : Thread) (cue : Nat) (hl : Part.regs ∈ L ∧ Part.ctr ∈ L ∧ Part.log ∈ L ∧ Part.logLost ∈ L ∧ Part.pins ∈ L ∧ Part.traces ∈ L ∧ Part.jobs ∈ L ∧ Part.players ∈ L) (hok : Only L w0 s) : Only L w0 (cueIssueOf bad p t w x cue s) := by
  unfold cueIssueOf
  repeat' split
  all_goals simp (maxDischargeDepth := 60) +contextual [hl, hok]

@[simp] theorem cueIssueAt_only (p t w : Nat) (hl : Part.regs ∈ L ∧ Part.ctr ∈ L ∧ Part.log ∈ L ∧ Part.logLost ∈ L ∧ Part.pins ∈ L ∧ Part.traces ∈ L ∧ Part.jobs ∈ L ∧ Part.players ∈ L) (hok : Only L w0 s) : Only L w0 (cueIssueAt p t w s) := by
  unfold cueIssueAt
  simp (maxDischargeDepth := 60) +contextual [hl, hok]

@[simp] theorem cueIssue_only (p t w : Nat) (hl : Part.regs ∈ L ∧ Part.ctr ∈ L ∧ Part.log ∈ L ∧ Part.logLost ∈ L ∧ Part.pins ∈ L ∧ Part.traces ∈ L ∧ Part.jobs ∈ L ∧ Part.players ∈ L) (hok : Only L w0 s) : Only L w0 (cueIssue p t w s) := by
  unfold cueIssue
  simp (maxDischargeDepth := 60) +contextual [hl, hok]

@[simp] theorem cueTryOf_only (bad : Option Nat) (p t w : Nat) (x : Thread) (cue : Nat) (hl : Part.regs ∈ L ∧ Part.ctr ∈ L ∧ Part.log ∈ L ∧ Part.logLost ∈ L ∧ Part.pins ∈ L ∧ Part.traces ∈ L ∧ Part.jobs ∈ L ∧ Part.players ∈ L) (hok : Only L w0 s) : Only L w0 (cueTryOf bad p t w x cue s) := by
  unfold cueTryOf
  repeat' split
  all_goals simp (maxDischargeDepth := 60) +contextual [hl, hok]

@[simp] theorem cueTryAt_only (p t w : Nat) (hl : Part.regs ∈ L ∧ Part.ctr ∈ L ∧ Part.log ∈ L ∧ Part.logLost ∈ L ∧ Part.pins ∈ L ∧ Part.traces ∈ L ∧ Part.jobs ∈ L ∧ Part.players ∈ L) (hok : Only L w0 s) : Only L w0 (cueTryAt p t w s) := by
  unfold cueTryAt
  simp (maxDischargeDepth := 60) +contextual [hl, hok]

@[simp] theorem cueTry_only (p t w : Nat) (hl : Part.regs ∈ L ∧ Part.ctr ∈ L ∧ Part.log ∈ L ∧ Part.logLost ∈ L ∧ Part.pins ∈ L ∧ Part.traces ∈ L ∧ Part.jobs ∈ L ∧ Part.players ∈ L) (hok : Only L w0 s) : Only L w0 (cueTry p t w s) := by
  unfold cueTry
  simp (maxDischargeDepth := 60) +contextual [hl, hok]

@[simp] theorem setSem_only (p i n : Nat) (hl : Part.players ∈ L) (hok : Only L w0 s) : Only L w0 (setSem p i n s) := by
  unfold setSem
  simp (maxDischargeDepth := 60) +contextual [hl, hok]

@[simp] theorem semAdd_only (p i n thread : Nat) (hl : Part.regs ∈ L ∧ Part.ctr ∈ L ∧ Part.log ∈ L ∧ Part.logLost ∈ L ∧ Part.pins ∈ L ∧ Part.traces ∈ L ∧ Part.jobs ∈ L ∧ Part.players ∈ L) (hok : Only L w0 s) : Only L w0 (semAdd p i n thread s) := by
  unfold semAdd
  simp (maxDischargeDepth := 60) +contextual [hl, hok]

@[simp] theorem semWait_only (p t w : Nat) (hl : Part.regs ∈ L ∧ Part.ctr ∈ L ∧ Part.log ∈ L ∧ Part.logLost ∈ L ∧ Part.pins ∈ L ∧ Part.traces ∈ L ∧ Part.jobs ∈ L ∧ Part.players ∈ L) (hok : Only L w0 s) : Only L w0 (semWait p t w s) := by
  unfold semWait
  simp (maxDischargeDepth := 60) +contextual [hl, hok]

@[simp] theorem semTry_only (p t w : Nat) (hl : Part.regs ∈ L ∧ Part.ctr ∈ L ∧ Part.log ∈ L ∧ Part.logLost ∈ L ∧ Part.pins ∈ L ∧ Part.traces ∈ L ∧ Part.jobs ∈ L ∧ Part.players ∈ L) (hok : Only L w0 s) : Only L w0 (semTry p t w s) := by
  unfold semTry
  simp (maxDischargeDepth := 60) +contextual [hl, hok]

@[simp] theorem semRead_only (p t w : Nat) (hl : Part.regs ∈ L ∧ Part.ctr ∈ L ∧ Part.log ∈ L ∧ Part.logLost ∈ L ∧ Part.pins ∈ L ∧ Part.traces ∈ L ∧ Part.jobs ∈ L ∧ Part.players ∈ L) (hok : Only L w0 s) : Only L w0 (semRead p t w s) := by
  unfold semRead
  simp (maxDischargeDepth := 60) +contextual [hl, hok]

@[simp] theorem semPost_only (p t w : Nat) (hl : Part.regs ∈ L ∧ Part.ctr ∈ L ∧ Part.log ∈ L ∧ Part.logLost ∈ L ∧ Part.pins ∈ L ∧ Part.traces ∈ L ∧ Part.jobs ∈ L ∧ Part.players ∈ L) (hok : Only L w0 s) : Only L w0 (semPost p t w s) := by
  unfold semPost
  dsimp only
  repeat' split
  all_goals simp (maxDischargeDepth := 60) +contextual [hl, hok]

@[simp] theorem fenceCue_only (p t w : Nat) (hl : Part.regs ∈ L ∧ Part.ctr ∈ L ∧ Part.log ∈ L ∧ Part.logLost ∈ L ∧ Part.pins ∈ L ∧ Part.traces ∈ L ∧ Part.jobs ∈ L ∧ Part.players ∈ L) (hok : Only L w0 s) : Only L w0 (fenceCue p t w s) := by
  unfold fenceCue
  simp (maxDischargeDepth := 60) +contextual [hl, hok]

@[simp] theorem releaseBarrier_only (id : Nat) (j : Job) (hl : Part.regs ∈ L ∧ Part.ctr ∈ L ∧ Part.traces ∈ L ∧ Part.jobs ∈ L ∧ Part.players ∈ L) (hok : Only L w0 s) : Only L w0 (releaseBarrier id j s) := by
  unfold releaseBarrier
  simp (maxDischargeDepth := 60) +contextual [hl, hok]

@[simp] theorem bar_only (p t w : Nat) (hl : Part.regs ∈ L ∧ Part.ctr ∈ L ∧ Part.log ∈ L ∧ Part.logLost ∈ L ∧ Part.pins ∈ L ∧ Part.traces ∈ L ∧ Part.jobs ∈ L ∧ Part.players ∈ L) (hok : Only L w0 s) : Only L w0 (bar p t w s) := by
  unfold bar
  dsimp only
  repeat' split
  all_goals simp (maxDischargeDepth := 60) +contextual [hl, hok]

@[simp] theorem yieldCue_only (p t w : Nat) (hl : Part.regs ∈ L ∧ Part.ctr ∈ L ∧ Part.log ∈ L ∧ Part.logLost ∈ L ∧ Part.pins ∈ L ∧ Part.traces ∈ L ∧ Part.jobs ∈ L ∧ Part.players ∈ L) (hok : Only L w0 s) : Only L w0 (yieldCue p t w s) := by
  unfold yieldCue
  repeat' split
  all_goals simp (maxDischargeDepth := 60) +contextual [hl, hok]

@[simp] theorem yieldAt_only (p t w : Nat) (hl : Part.regs ∈ L ∧ Part.ctr ∈ L ∧ Part.log ∈ L ∧ Part.logLost ∈ L ∧ Part.pins ∈ L ∧ Part.traces ∈ L ∧ Part.jobs ∈ L ∧ Part.players ∈ L) (hok : Only L w0 s) : Only L w0 (yieldAt p t w s) := by
  unfold yieldAt
  simp (maxDischargeDepth := 60) +contextual [hl, hok]

@[simp] theorem jobEnd_only (p t w : Nat) (hl : Part.regs ∈ L ∧ Part.ctr ∈ L ∧ Part.log ∈ L ∧ Part.logLost ∈ L ∧ Part.pins ∈ L ∧ Part.traces ∈ L ∧ Part.jobs ∈ L ∧ Part.players ∈ L ∧ Part.streams ∈ L) (hok : Only L w0 s) : Only L w0 (jobEnd p t w s) := by
  unfold jobEnd
  simp (maxDischargeDepth := 60) +contextual [hl, hok]

@[simp] theorem setHead_only (p cls : Nat) (c : QCue) (hl : Part.players ∈ L) (hok : Only L w0 s) : Only L w0 (setHead p cls c s) := by
  unfold setHead
  simp (maxDischargeDepth := 60) +contextual [hl, hok]

@[simp] theorem startCue_only (p cls : Nat) (c : QCue) (hl : Part.players ∈ L) (hok : Only L w0 s) : Only L w0 (startCue p cls c s) := by
  unfold startCue
  simp (maxDischargeDepth := 60) +contextual [hl, hok]

@[simp] theorem ranCue_only (p cls : Nat) (c : QCue) (hl : Part.players ∈ L) (hok : Only L w0 s) : Only L w0 (ranCue p cls c s) := by
  unfold ranCue
  simp (maxDischargeDepth := 60) +contextual [hl, hok]

@[simp] theorem completeHead_only (p cls : Nat) (hl : Part.regs ∈ L ∧ Part.ctr ∈ L ∧ Part.log ∈ L ∧ Part.logLost ∈ L ∧ Part.pins ∈ L ∧ Part.traces ∈ L ∧ Part.jobs ∈ L ∧ Part.players ∈ L ∧ Part.streams ∈ L) (hok : Only L w0 s) : Only L w0 (completeHead p cls s) := by
  unfold completeHead
  dsimp only
  repeat' split
  all_goals simp (maxDischargeDepth := 60) +contextual [hl, hok]

/-! Machine/Engines.lean -/

@[simp] theorem lsStore_only (p base fmt : Nat) (l : List Nat) (hl : Part.mem ∈ L) (hok : Only L w0 s) : Only L w0 (lsStore p base fmt l s) := by
  unfold lsStore
  simp (maxDischargeDepth := 60) +contextual [hl, hok]

@[simp] theorem frameIllegal_only (p t cls pos : Nat) (hl : Part.regs ∈ L ∧ Part.ctr ∈ L ∧ Part.log ∈ L ∧ Part.logLost ∈ L ∧ Part.pins ∈ L ∧ Part.traces ∈ L ∧ Part.jobs ∈ L) (hok : Only L w0 s) : Only L w0 (frameIllegal p t cls pos s) := by
  unfold frameIllegal
  simp (maxDischargeDepth := 60) +contextual [hl, hok]

@[simp] theorem lsRead_only (p n : Nat) (hl : Part.ctr ∈ L) (hok : Only L w0 s) : Only L w0 (lsRead p n s) := by
  unfold lsRead
  simp (maxDischargeDepth := 60) +contextual [hl, hok]

@[simp] theorem lsWrote_only (p n : Nat) (hl : Part.ctr ∈ L) (hok : Only L w0 s) : Only L w0 (lsWrote p n s) := by
  unfold lsWrote
  simp (maxDischargeDepth := 60) +contextual [hl, hok]

@[simp] theorem macDrain_only (p oLine : Nat) (j : MacJob) (b : Acc) (hl : Part.ctr ∈ L ∧ Part.mem ∈ L ∧ Part.jobs ∈ L) (hok : Only L w0 s) : Only L w0 (macDrain p oLine j b s) := by
  unfold macDrain
  simp (maxDischargeDepth := 60) +contextual [hl, hok]

@[simp] theorem vecWrite_only (p : Nat) (j : VecJob) (n : Nat) (count : Bool) (f : Nat → VOut) (hl : Part.ctr ∈ L ∧ Part.mem ∈ L ∧ Part.jobs ∈ L) (hok : Only L w0 s) : Only L w0 (vecWrite p j n count f s) := by
  unfold vecWrite
  simp (maxDischargeDepth := 60) +contextual [hl, hok]

@[simp] theorem vecScale_only (p : Nat) (j : VecJob) (hl : Part.ctr ∈ L ∧ Part.mem ∈ L ∧ Part.jobs ∈ L) (hok : Only L w0 s) : Only L w0 (vecScale p j s) := by
  unfold vecScale
  simp (maxDischargeDepth := 60) +contextual [hl, hok]

@[simp] theorem stepSkipped_only (p : Nat) (hl : Part.jobs ∈ L) (hok : Only L w0 s) : Only L w0 (stepSkipped p s) := by
  unfold stepSkipped
  repeat' split
  all_goals simp (maxDischargeDepth := 60) +contextual [hl, hok]

@[simp] theorem stepUpdated_only (p : Nat) (hl : Part.jobs ∈ L) (hok : Only L w0 s) : Only L w0 (stepUpdated p s) := by
  unfold stepUpdated
  repeat' split
  all_goals simp (maxDischargeDepth := 60) +contextual [hl, hok]

@[simp] theorem vecAdam_only (p : Nat) (j : VecJob) (hl : Part.ctr ∈ L ∧ Part.mem ∈ L ∧ Part.jobs ∈ L) (hok : Only L w0 s) : Only L w0 (vecAdam p j s) := by
  unfold vecAdam
  repeat' split
  all_goals simp (maxDischargeDepth := 60) +contextual [hl, hok]

@[simp] theorem vecQlat_only (p : Nat) (j : VecJob) (hl : Part.ctr ∈ L ∧ Part.mem ∈ L ∧ Part.jobs ∈ L) (hok : Only L w0 s) : Only L w0 (vecQlat p j s) := by
  unfold vecQlat
  simp (maxDischargeDepth := 60) +contextual [hl, hok]

/-! Machine/Transform.lean -/

@[simp] theorem treRange_only (p cause chan value : Nat) (hl : Part.regs ∈ L ∧ Part.ctr ∈ L ∧ Part.log ∈ L ∧ Part.logLost ∈ L ∧ Part.pins ∈ L ∧ Part.jobs ∈ L) (hok : Only L w0 s) : Only L w0 (treRange p cause chan value s) := by
  unfold treRange
  simp (maxDischargeDepth := 60) +contextual [hl, hok]

@[simp] theorem treWrite_only (p q : Nat) (f : TreFrame) (out : Nat → Nat → VOut) (hl : Part.ctr ∈ L ∧ Part.mem ∈ L ∧ Part.jobs ∈ L) (hok : Only L w0 s) : Only L w0 (treWrite p q f out s) := by
  unfold treWrite
  simp (maxDischargeDepth := 60) +contextual [hl, hok]

@[simp] theorem treCount_only (p : Nat) (ntt : Bool) (f : TreFrame) (hl : Part.ctr ∈ L) (hok : Only L w0 s) : Only L w0 (treCount p ntt f s) := by
  unfold treCount
  simp (maxDischargeDepth := 60) +contextual [hl, hok]

@[simp] theorem treStart_only (p mode : Nat) (c : QCue) (hl : Part.regs ∈ L ∧ Part.ctr ∈ L ∧ Part.players ∈ L ∧ Part.treLast ∈ L) (hok : Only L w0 s) : Only L w0 (treStart p mode c s) := by
  unfold treStart
  dsimp only
  repeat' split
  all_goals simp (maxDischargeDepth := 60) +contextual [hl, hok]

@[simp] theorem markWaited_only (pg : Nat) (hl : Part.players ∈ L) (hok : Only L w0 s) : Only L w0 (markWaited pg s) := by
  unfold markWaited
  simp (maxDischargeDepth := 60) +contextual [hl, hok]

@[simp] theorem treIdle_only (pg : Nat) (hl : Part.regs ∈ L ∧ Part.players ∈ L) (hok : Only L w0 s) : Only L w0 (treIdle pg s) := by
  unfold treIdle
  simp (maxDischargeDepth := 60) +contextual [hl, hok]

@[simp] theorem nttCheck_only (p : Nat) (c : QCue) (f : TreFrame) (hl : Part.free ∈ L ∧ Part.regs ∈ L ∧ Part.ctr ∈ L ∧ Part.log ∈ L ∧ Part.logLost ∈ L ∧ Part.pins ∈ L ∧ Part.jobs ∈ L) (hok : Only L w0 s) : Only L w0 (nttCheck p c f s) := by
  unfold nttCheck
  dsimp only
  repeat' split
  all_goals simp (maxDischargeDepth := 60) +contextual [hl, hok]

@[simp] theorem nttConv_only (p q : Nat) (f : TreFrame) (hl : Part.ctr ∈ L ∧ Part.mem ∈ L ∧ Part.jobs ∈ L) (hok : Only L w0 s) : Only L w0 (nttConv p q f s) := by
  unfold nttConv
  simp (maxDischargeDepth := 60) +contextual [hl, hok]

@[simp] theorem fftConv_only (p q : Nat) (f : TreFrame) (hl : Part.ctr ∈ L ∧ Part.mem ∈ L ∧ Part.jobs ∈ L) (hok : Only L w0 s) : Only L w0 (fftConv p q f s) := by
  unfold fftConv
  simp (maxDischargeDepth := 60) +contextual [hl, hok]

@[simp] theorem rawFft_only (inverse : Bool) (p q : Nat) (f : TreFrame) (hl : Part.ctr ∈ L ∧ Part.mem ∈ L) (hok : Only L w0 s) : Only L w0 (rawFft inverse p q f s) := by
  unfold rawFft
  simp (maxDischargeDepth := 60) +contextual [hl, hok]

@[simp] theorem treFinish_only (p : Nat) (c : QCue) (hl : Part.ctr ∈ L ∧ Part.mem ∈ L ∧ Part.jobs ∈ L) (hok : Only L w0 s) : Only L w0 (treFinish p c s) := by
  unfold treFinish
  repeat' split
  all_goals simp (maxDischargeDepth := 60) +contextual [hl, hok]

end Sys2Proof.Machine
end

