-- ==== Sys2Proof/Laws/OnlyStage.lean ====
section
/-! SUPPORT. What each operation can change (Laws/Only.lean): streams, stagehands, relays, binds. One lemma for each operation. -/

namespace Sys2Proof.Machine

variable {w0 s : State} {L : List Part}

/-! Machine/Streams.lean -/

@[simp] theorem storeBits_only (bit n v : Nat) (hl : Part.mem ∈ L) (hok : Only L w0 s) : Only L w0 (storeBits bit n v s) := by
  unfold storeBits
  simp (maxDischargeDepth := 60) +contextual [hl, hok]

/-! Machine/Stagehands.lean -/

@[simp] theorem shdFail_only (sh : Nat) (job : Option Nat) (code : Nat) (hl : Part.regs ∈ L ∧ Part.ctr ∈ L ∧ Part.log ∈ L ∧ Part.logLost ∈ L ∧ Part.pins ∈ L ∧ Part.jobs ∈ L) (hok : Only L w0 s) : Only L w0 (shdFail sh job code s) := by
  unfold shdFail
  simp (maxDischargeDepth := 60) +contextual [hl, hok]

@[simp] theorem setEdge_only (c : Nat) (e : Edge) (hl : Part.chains ∈ L) (hok : Only L w0 s) : Only L w0 (setEdge c e s) := by
  unfold setEdge
  simp (maxDischargeDepth := 60) +contextual [hl, hok]

@[simp] theorem showPool_only (hl : Part.regs ∈ L) (hok : Only L w0 s) : Only L w0 (showPool s) := by
  unfold showPool
  simp (maxDischargeDepth := 60) +contextual [hl, hok]

@[simp] theorem dropChain_only (o : ChainOwner) (hl : Part.regs ∈ L ∧ Part.chains ∈ L) (hok : Only L w0 s) : Only L w0 (dropChain o s) := by
  unfold dropChain
  simp (maxDischargeDepth := 60) +contextual [hl, hok]

@[simp] theorem creditMoved_only (c : ChainSt) (hl : Part.jobs ∈ L) (hok : Only L w0 s) : Only L w0 (creditMoved c s) := by
  unfold creditMoved
  simp (maxDischargeDepth := 60) +contextual [hl, hok]

@[simp] theorem flexArea_only (pool gather : Nat) (f : State → State) (ok_f : ∀ u, Only L w0 u → Only L w0 (f u)) (hl : Part.regs ∈ L ∧ Part.ctr ∈ L ∧ Part.pins ∈ L) (hok : Only L w0 s) : Only L w0 (flexArea pool gather f s) := by
  unfold flexArea
  simp (maxDischargeDepth := 60) +contextual [hl, hok, ok_f]

@[simp] theorem hoPool_only (w : Word) (hl : Part.regs ∈ L ∧ Part.ctr ∈ L ∧ Part.pins ∈ L) (hok : Only L w0 s) : Only L w0 (hoPool w s) := by
  unfold hoPool
  simp (maxDischargeDepth := 60) +contextual [hl, hok]

@[simp] theorem gatherWrite_only (w : Word) (hl : Part.regs ∈ L ∧ Part.ctr ∈ L ∧ Part.pins ∈ L) (hok : Only L w0 s) : Only L w0 (gatherWrite w s) := by
  unfold gatherWrite
  simp (maxDischargeDepth := 60) +contextual [hl, hok]

@[simp] theorem leaveQueue_only (p : Nat) (hl : Part.ctr ∈ L ∧ Part.players ∈ L ∧ Part.streams ∈ L) (hok : Only L w0 s) : Only L w0 (leaveQueue p s) := by
  unfold leaveQueue
  simp (maxDischargeDepth := 60) +contextual [hl, hok]

@[simp] theorem descFetch_only (sh off : Nat) (hl : Part.ctr ∈ L ∧ Part.shds ∈ L) (hok : Only L w0 s) : Only L w0 (descFetch sh off s) := by
  unfold descFetch
  simp (maxDischargeDepth := 60) +contextual [hl, hok]

@[simp] theorem armStream_only (p : Nat) (c : QCue) (slot : Nat) (d : List Byte) (go : State → State) (ok_go : ∀ u, Only L w0 u → Only L w0 (go u)) (hl : Part.regs ∈ L ∧ Part.ctr ∈ L ∧ Part.log ∈ L ∧ Part.logLost ∈ L ∧ Part.pins ∈ L ∧ Part.jobs ∈ L ∧ Part.players ∈ L ∧ Part.streams ∈ L ∧ Part.shds ∈ L) (hok : Only L w0 s) : Only L w0 (armStream p c slot d go s) := by
  unfold armStream
  simp (maxDischargeDepth := 60) +contextual [hl, hok, ok_go]

@[simp] theorem startLocal_only (p : Nat) (hl : Part.regs ∈ L ∧ Part.ctr ∈ L ∧ Part.log ∈ L ∧ Part.logLost ∈ L ∧ Part.pins ∈ L ∧ Part.jobs ∈ L ∧ Part.players ∈ L ∧ Part.streams ∈ L ∧ Part.shds ∈ L) (hok : Only L w0 s) : Only L w0 (startLocal p s) := by
  unfold startLocal
  repeat' split
  all_goals simp (maxDischargeDepth := 60) +contextual [hl, hok]

@[simp] theorem startShared_only (n slot id off : Nat) (hl : Part.regs ∈ L ∧ Part.ctr ∈ L ∧ Part.log ∈ L ∧ Part.logLost ∈ L ∧ Part.pins ∈ L ∧ Part.jobs ∈ L ∧ Part.players ∈ L ∧ Part.streams ∈ L ∧ Part.shds ∈ L) (hok : Only L w0 s) : Only L w0 (startShared n slot id off s) := by
  unfold startShared
  repeat' split
  all_goals simp (maxDischargeDepth := 60) +contextual [hl, hok]

@[simp] theorem shdRearm_only (room : Bool) (again : Nat → Stream → State → State) (p : Nat) (ok_again : ∀ x0 x1 u, Only L w0 u → Only L w0 (again x0 x1 u)) (hl : Part.regs ∈ L ∧ Part.ctr ∈ L ∧ Part.log ∈ L ∧ Part.logLost ∈ L ∧ Part.pins ∈ L ∧ Part.jobs ∈ L ∧ Part.players ∈ L ∧ Part.streams ∈ L) (hok : Only L w0 s) : Only L w0 (shdRearm room again p s) := by
  unfold shdRearm
  dsimp only
  repeat' split
  all_goals simp (maxDischargeDepth := 60) +contextual [hl, hok, ok_again]

@[simp] theorem shdClose_only (p : Nat) (hl : Part.regs ∈ L ∧ Part.ctr ∈ L ∧ Part.log ∈ L ∧ Part.logLost ∈ L ∧ Part.pins ∈ L ∧ Part.traces ∈ L ∧ Part.jobs ∈ L ∧ Part.players ∈ L ∧ Part.streams ∈ L) (hok : Only L w0 s) : Only L w0 (shdClose p s) := by
  unfold shdClose
  dsimp only
  repeat' split
  all_goals simp (maxDischargeDepth := 60) +contextual [hl, hok]

@[simp] theorem passEnd_only (sh slot : Nat) (x : Stream) (hl : Part.regs ∈ L ∧ Part.ctr ∈ L ∧ Part.log ∈ L ∧ Part.logLost ∈ L ∧ Part.pins ∈ L ∧ Part.traces ∈ L ∧ Part.jobs ∈ L ∧ Part.players ∈ L ∧ Part.streams ∈ L) (hok : Only L w0 s) : Only L w0 (passEnd sh slot x s) := by
  unfold passEnd
  dsimp only
  repeat' split
  all_goals simp (maxDischargeDepth := 60) +contextual [hl, hok]

@[simp] theorem clearPage_only (i : Nat) (hl : Part.regs ∈ L ∧ Part.chans ∈ L) (hok : Only L w0 s) : Only L w0 (clearPage i s) := by
  unfold clearPage
  simp (maxDischargeDepth := 60) +contextual [hl, hok]

@[simp] theorem haltStream_only (sh slot : Nat) (x : Stream) (va pos : Nat) (write fetch : Bool) (entry : Nat) (hl : Part.regs ∈ L ∧ Part.ctr ∈ L ∧ Part.log ∈ L ∧ Part.logLost ∈ L ∧ Part.pins ∈ L ∧ Part.due ∈ L ∧ Part.chans ∈ L ∧ Part.jobs ∈ L ∧ Part.fetches ∈ L ∧ Part.nextFetch ∈ L ∧ Part.players ∈ L ∧ Part.streams ∈ L ∧ Part.shds ∈ L) (hok : Only L w0 s) : Only L w0 (haltStream sh slot x va pos write fetch entry s) := by
  unfold haltStream
  simp (maxDischargeDepth := 60) +contextual [hl, hok]

@[simp] theorem resumeStream_only (key : Nat) (hl : Part.regs ∈ L ∧ Part.ctr ∈ L ∧ Part.log ∈ L ∧ Part.logLost ∈ L ∧ Part.pins ∈ L ∧ Part.due ∈ L ∧ Part.chans ∈ L ∧ Part.jobs ∈ L ∧ Part.fetches ∈ L ∧ Part.nextFetch ∈ L ∧ Part.players ∈ L ∧ Part.streams ∈ L ∧ Part.shds ∈ L) (hok : Only L w0 s) : Only L w0 (resumeStream key s) := by
  unfold resumeStream
  repeat' split
  all_goals simp (maxDischargeDepth := 60) +contextual [hl, hok]

@[simp] theorem takeSem_only (sh n : Nat) (hl : Part.players ∈ L) (hok : Only L w0 s) : Only L w0 (takeSem sh n s) := by
  unfold takeSem
  simp (maxDischargeDepth := 60) +contextual [hl, hok]

@[simp] theorem takeTile_only (sh : Nat) (x : Stream) (hl : Part.players ∈ L ∧ Part.chains ∈ L) (hok : Only L w0 s) : Only L w0 (takeTile sh x s) := by
  unfold takeTile
  dsimp only
  repeat' split
  all_goals simp (maxDischargeDepth := 60) +contextual [hl, hok]

@[simp] theorem putLocal_only (sh : Nat) (x : Stream) (off n code : Nat) (hl : Part.mem ∈ L) (hok : Only L w0 s) : Only L w0 (putLocal sh x off n code s) := by
  unfold putLocal
  simp (maxDischargeDepth := 60) +contextual [hl, hok]

@[simp] theorem Only.foldl_pulled {β : Type} {g : Pulled → β → Pulled} (l : List β) (c : Pulled) (hf : ∀ a x, Only L w0 a.st → Only L w0 (g a x).st) (h : Only L w0 c.st) :
    Only L w0 (l.foldl g c).st := by
  induction l generalizing c with
  | nil => exact h
  | cons x l ih => exact ih _ (hf _ _ h)

@[simp] theorem pullOne_only (sh : Nat) (x : Stream) (f : Shape) (front : List Byte) (a : Pulled) (n : Nat) (hl : Part.mem ∈ L) (hok : Only L w0 a.st) : Only L w0 (pullOne sh x f front a n).st := by
  unfold pullOne
  dsimp only
  split <;> simp (maxDischargeDepth := 60) +contextual [hl, hok]

@[simp] theorem pullIn_only (sh : Nat) (x : Stream) (f : Shape) (upto : Nat) (far : List Byte) (hl : Part.mem ∈ L) (hok : Only L w0 s) : Only L w0 (pullIn sh x f upto far s).st := by
  unfold pullIn
  exact Only.foldl_pulled _ _ (fun a q ha => pullOne_only _ _ _ _ _ _ hl ha) hok

@[simp] theorem lineReqs_only (sh n : Nat) (x : Stream) (hl : Part.ctr ∈ L) (hok : Only L w0 s) : Only L w0 (lineReqs sh n x s) := by
  unfold lineReqs
  dsimp only
  repeat' split
  all_goals simp (maxDischargeDepth := 60) +contextual [hl, hok]

@[simp] theorem countMoved_only (sh : Nat) (x : Stream) (l : List (Fp × Cstat)) (hl : Part.ctr ∈ L ∧ Part.jobs ∈ L) (hok : Only L w0 s) : Only L w0 (countMoved sh x l s) := by
  unfold countMoved
  repeat' split
  all_goals simp (maxDischargeDepth := 60) +contextual [hl, hok]

@[simp] theorem moveIn_only (sh : Nat) (x : Stream) (f : Shape) (upto : Nat) (far : List Byte) (hl : Part.ctr ∈ L ∧ Part.mem ∈ L ∧ Part.jobs ∈ L) (hok : Only L w0 s) : Only L w0 (moveIn sh x f upto far s) := by
  unfold moveIn
  simp (maxDischargeDepth := 60) +contextual [hl, hok]

@[simp] theorem writeRuns_only (sh slot : Nat) (x : Stream) (mb : Nat) (l : List (Nat × Nat)) (hl : Part.regs ∈ L ∧ Part.ctr ∈ L ∧ Part.mem ∈ L ∧ Part.out ∈ L ∧ Part.ports ∈ L ∧ Part.qps ∈ L ∧ Part.rings ∈ L ∧ Part.jobs ∈ L ∧ Part.fetches ∈ L) (hok : Only L w0 s) : Only L w0 (writeRuns sh slot x mb l s) := by
  unfold writeRuns
  simp (maxDischargeDepth := 60) +contextual [hl, hok]

@[simp] theorem moveOut_only (sh slot : Nat) (x : Stream) (f : Shape) (upto : Nat) (far : List Byte) (hl : Part.regs ∈ L ∧ Part.ctr ∈ L ∧ Part.mem ∈ L ∧ Part.out ∈ L ∧ Part.ports ∈ L ∧ Part.qps ∈ L ∧ Part.rings ∈ L ∧ Part.jobs ∈ L ∧ Part.fetches ∈ L ∧ Part.chains ∈ L) (hok : Only L w0 s) : Only L w0 (moveOut sh slot x f upto far s) := by
  unfold moveOut
  dsimp only
  repeat' split
  all_goals simp (maxDischargeDepth := 60) +contextual [hl, hok]

@[simp] theorem moveCopy_only (sh slot : Nat) (x : Stream) (f : Shape) (upto : Nat) (far : List Byte) (hl : Part.regs ∈ L ∧ Part.ctr ∈ L ∧ Part.mem ∈ L ∧ Part.out ∈ L ∧ Part.ports ∈ L ∧ Part.qps ∈ L ∧ Part.rings ∈ L ∧ Part.jobs ∈ L ∧ Part.fetches ∈ L) (hok : Only L w0 s) : Only L w0 (moveCopy sh slot x f upto far s) := by
  unfold moveCopy
  simp (maxDischargeDepth := 60) +contextual [hl, hok]

@[simp] theorem moveTo_only (sh slot : Nat) (x : Stream) (f : Shape) (upto : Nat) (far : List Byte) (hl : Part.regs ∈ L ∧ Part.ctr ∈ L ∧ Part.mem ∈ L ∧ Part.out ∈ L ∧ Part.ports ∈ L ∧ Part.qps ∈ L ∧ Part.rings ∈ L ∧ Part.jobs ∈ L ∧ Part.fetches ∈ L ∧ Part.chains ∈ L) (hok : Only L w0 s) : Only L w0 (moveTo sh slot x f upto far s) := by
  unfold moveTo
  simp (maxDischargeDepth := 60) +contextual [hl, hok]

@[simp] theorem tileFail_only (sh : Nat) (x : Stream) (va : Nat) (w : Walk) (hl : Part.regs ∈ L ∧ Part.ctr ∈ L ∧ Part.log ∈ L ∧ Part.logLost ∈ L ∧ Part.pins ∈ L ∧ Part.jobs ∈ L) (hok : Only L w0 s) : Only L w0 (tileFail sh x va w s) := by
  unfold tileFail
  repeat' split
  all_goals simp (maxDischargeDepth := 60) +contextual [hl, hok]

@[simp] theorem readEdge_only (x : Stream) (hl : Part.chains ∈ L) (hok : Only L w0 s) : Only L w0 (readEdge x s) := by
  unfold readEdge
  repeat' split
  all_goals simp (maxDischargeDepth := 60) +contextual [hl, hok]

@[simp] theorem tileSem_only (sh : Nat) (x : Stream) (hl : Part.regs ∈ L ∧ Part.ctr ∈ L ∧ Part.log ∈ L ∧ Part.logLost ∈ L ∧ Part.pins ∈ L ∧ Part.traces ∈ L ∧ Part.jobs ∈ L ∧ Part.players ∈ L) (hok : Only L w0 s) : Only L w0 (tileSem sh x s) := by
  unfold tileSem
  simp (maxDischargeDepth := 60) +contextual [hl, hok]

@[simp] theorem touchShd_only (sh : Nat) (hl : Part.players ∈ L) (hok : Only L w0 s) : Only L w0 (touchShd sh s) := by
  unfold touchShd
  simp (maxDischargeDepth := 60) +contextual [hl, hok]

@[simp] theorem tileEnd_only (sh slot : Nat) (x : Stream) (hl : Part.regs ∈ L ∧ Part.ctr ∈ L ∧ Part.log ∈ L ∧ Part.logLost ∈ L ∧ Part.pins ∈ L ∧ Part.traces ∈ L ∧ Part.jobs ∈ L ∧ Part.players ∈ L ∧ Part.streams ∈ L ∧ Part.chains ∈ L) (hok : Only L w0 s) : Only L w0 (tileEnd sh slot x s) := by
  unfold tileEnd
  simp (maxDischargeDepth := 60) +contextual [hl, hok]

@[simp] theorem tileDone_only (sh slot : Nat) (far idx : List Byte) (hl : Part.regs ∈ L ∧ Part.ctr ∈ L ∧ Part.mem ∈ L ∧ Part.out ∈ L ∧ Part.log ∈ L ∧ Part.logLost ∈ L ∧ Part.pins ∈ L ∧ Part.ports ∈ L ∧ Part.qps ∈ L ∧ Part.traces ∈ L ∧ Part.rings ∈ L ∧ Part.jobs ∈ L ∧ Part.fetches ∈ L ∧ Part.players ∈ L ∧ Part.streams ∈ L ∧ Part.chains ∈ L) (hok : Only L w0 s) : Only L w0 (tileDone sh slot far idx s) := by
  unfold tileDone
  dsimp only
  repeat' split
  all_goals simp (maxDischargeDepth := 60) +contextual [hl, hok]

@[simp] theorem haltTile_only (sh slot : Nat) (x : Stream) (f : Shape) (va : Nat) (fetch : Bool) (entry : Nat) (hl : Part.regs ∈ L ∧ Part.ctr ∈ L ∧ Part.log ∈ L ∧ Part.logLost ∈ L ∧ Part.pins ∈ L ∧ Part.due ∈ L ∧ Part.chans ∈ L ∧ Part.jobs ∈ L ∧ Part.fetches ∈ L ∧ Part.nextFetch ∈ L ∧ Part.players ∈ L ∧ Part.streams ∈ L ∧ Part.shds ∈ L) (hok : Only L w0 s) : Only L w0 (haltTile sh slot x f va fetch entry s) := by
  unfold haltTile
  simp (maxDischargeDepth := 60) +contextual [hl, hok]

@[simp] theorem streamHalt_only (sh slot : Nat) (far idx : List Byte) (at_ : SharedAt) (hl : Part.regs ∈ L ∧ Part.ctr ∈ L ∧ Part.mem ∈ L ∧ Part.out ∈ L ∧ Part.log ∈ L ∧ Part.logLost ∈ L ∧ Part.pins ∈ L ∧ Part.ports ∈ L ∧ Part.qps ∈ L ∧ Part.rings ∈ L ∧ Part.due ∈ L ∧ Part.chans ∈ L ∧ Part.jobs ∈ L ∧ Part.fetches ∈ L ∧ Part.nextFetch ∈ L ∧ Part.players ∈ L ∧ Part.streams ∈ L ∧ Part.shds ∈ L ∧ Part.chains ∈ L) (hok : Only L w0 s) : Only L w0 (streamHalt sh slot far idx at_ s) := by
  unfold streamHalt
  dsimp only
  repeat' split
  all_goals simp (maxDischargeDepth := 60) +contextual [hl, hok]

@[simp] theorem resume_only (c : Ctx) (i : Nat) (e : Entry) (hl : Part.regs ∈ L ∧ Part.ctr ∈ L ∧ Part.log ∈ L ∧ Part.logLost ∈ L ∧ Part.pins ∈ L ∧ Part.pair ∈ L ∧ Part.queues ∈ L ∧ Part.due ∈ L ∧ Part.chans ∈ L ∧ Part.jobs ∈ L ∧ Part.fetches ∈ L ∧ Part.nextFetch ∈ L ∧ Part.players ∈ L ∧ Part.streams ∈ L ∧ Part.shds ∈ L) (hok : Only L w0 s) : Only L w0 (resume c i e s) := by
  unfold resume
  dsimp only
  repeat' split
  all_goals simp (maxDischargeDepth := 60) +contextual [hl, hok]

@[simp] theorem resumeFetch_only (id : Nat) (hl : Part.regs ∈ L ∧ Part.ctr ∈ L ∧ Part.log ∈ L ∧ Part.logLost ∈ L ∧ Part.pins ∈ L ∧ Part.due ∈ L ∧ Part.chans ∈ L ∧ Part.jobs ∈ L ∧ Part.fetches ∈ L ∧ Part.nextFetch ∈ L ∧ Part.players ∈ L ∧ Part.streams ∈ L ∧ Part.shds ∈ L) (hok : Only L w0 s) : Only L w0 (resumeFetch id s) := by
  unfold resumeFetch
  simp (maxDischargeDepth := 60) +contextual [hl, hok]

@[simp] theorem failFetch_only (id code : Nat) (hl : Part.regs ∈ L ∧ Part.ctr ∈ L ∧ Part.log ∈ L ∧ Part.logLost ∈ L ∧ Part.pins ∈ L ∧ Part.jobs ∈ L ∧ Part.fetches ∈ L) (hok : Only L w0 s) : Only L w0 (failFetch id code s) := by
  unfold failFetch
  simp (maxDischargeDepth := 60) +contextual [hl, hok]

@[simp] theorem issueFetch_only (id : Nat) (f : Fetch) (t : Nat × Nat × Nat) (hl : Part.regs ∈ L ∧ Part.ctr ∈ L ∧ Part.out ∈ L ∧ Part.ports ∈ L ∧ Part.qps ∈ L ∧ Part.rings ∈ L ∧ Part.jobs ∈ L ∧ Part.fetches ∈ L) (hok : Only L w0 s) : Only L w0 (issueFetch id f t s) := by
  unfold issueFetch
  simp (maxDischargeDepth := 60) +contextual [hl, hok]

/-! Machine/Relays.lean -/

@[simp] theorem setWing_only (w : Nat) (r : Ring4) (hl : Part.relays ∈ L) (hok : Only L w0 s) : Only L w0 (setWing w r s) := by
  unfold setWing
  simp (maxDischargeDepth := 60) +contextual [hl, hok]

@[simp] theorem setRelay_only (w : Nat) (r : Relay) (hl : Part.relays ∈ L) (hok : Only L w0 s) : Only L w0 (setRelay w r s) := by
  unfold setRelay
  simp (maxDischargeDepth := 60) +contextual [hl, hok]

@[simp] theorem keepMeets_only (p : Nat) (hl : Part.regs ∈ L ∧ Part.ctr ∈ L ∧ Part.log ∈ L ∧ Part.logLost ∈ L ∧ Part.pins ∈ L ∧ Part.jobs ∈ L ∧ Part.relays ∈ L) (hok : Only L w0 s) : Only L w0 (keepMeets p s) := by
  unfold keepMeets
  repeat' split
  all_goals simp (maxDischargeDepth := 60) +contextual [hl, hok]

@[simp] theorem showRing_only (w : Nat) (hl : Part.regs ∈ L) (hok : Only L w0 s) : Only L w0 (showRing w s) := by
  unfold showRing
  repeat' split
  all_goals simp (maxDischargeDepth := 60) +contextual [hl, hok]

@[simp] theorem enterRelay_only (p slot : Nat) (x : Stream) (hl : Part.regs ∈ L ∧ Part.ctr ∈ L ∧ Part.log ∈ L ∧ Part.logLost ∈ L ∧ Part.pins ∈ L ∧ Part.jobs ∈ L ∧ Part.relays ∈ L) (hok : Only L w0 s) : Only L w0 (enterRelay p slot x s) := by
  unfold enterRelay
  repeat' split
  all_goals simp (maxDischargeDepth := 60) +contextual [hl, hok]

@[simp] theorem noteTag_only (id w tag : Nat) (hl : Part.jobs ∈ L) (hok : Only L w0 s) : Only L w0 (noteTag id w tag s) := by
  unfold noteTag
  repeat' split
  all_goals simp (maxDischargeDepth := 60) +contextual [hl, hok]

@[simp] theorem keepDone_only (w q : Nat) (hl : Part.regs ∈ L ∧ Part.ctr ∈ L ∧ Part.log ∈ L ∧ Part.logLost ∈ L ∧ Part.pins ∈ L ∧ Part.traces ∈ L ∧ Part.jobs ∈ L ∧ Part.players ∈ L ∧ Part.streams ∈ L) (hok : Only L w0 s) : Only L w0 (keepDone w q s) := by
  unfold keepDone
  simp (maxDischargeDepth := 60) +contextual [hl, hok]

@[simp] theorem meetSlice_only (w q : Nat) (f : Fly) (hl : Part.regs ∈ L ∧ Part.ctr ∈ L ∧ Part.mem ∈ L ∧ Part.log ∈ L ∧ Part.logLost ∈ L ∧ Part.pins ∈ L ∧ Part.traces ∈ L ∧ Part.jobs ∈ L ∧ Part.players ∈ L ∧ Part.streams ∈ L) (hok : Only L w0 s) : Only L w0 (meetSlice w q f s) := by
  unfold meetSlice
  dsimp only
  repeat' split
  all_goals simp (maxDischargeDepth := 60) +contextual [hl, hok]

/-! Machine/Binds.lean -/

@[simp] theorem pkgFault_only (k : Package) (code handle : Nat) (hl : Part.free ∈ L ∧ Part.regs ∈ L ∧ Part.ctr ∈ L) (hok : Only L w0 s) : Only L w0 (pkgFault k code handle s) := by
  unfold pkgFault
  repeat' split
  all_goals simp (maxDischargeDepth := 60) +contextual [hl, hok]

@[simp] theorem pkgLoad_only (k : Package) (c : Ctx) (i : Nat) (e : Entry) (hl : Part.free ∈ L ∧ Part.regs ∈ L ∧ Part.ctr ∈ L ∧ Part.log ∈ L ∧ Part.logLost ∈ L ∧ Part.pins ∈ L ∧ Part.pair ∈ L ∧ Part.queues ∈ L ∧ Part.due ∈ L ∧ Part.chans ∈ L ∧ Part.opens ∈ L) (hok : Only L w0 s) : Only L w0 (pkgLoad k c i e s) := by
  unfold pkgLoad
  dsimp only
  repeat' split
  all_goals simp (maxDischargeDepth := 60) +contextual [hl, hok]

@[simp] theorem installPkg_only (i : Nat) (k : Package) (hl : Part.regs ∈ L ∧ Part.ctr ∈ L ∧ Part.chans ∈ L ∧ Part.shds ∈ L) (hok : Only L w0 s) : Only L w0 (installPkg i k s) := by
  unfold installPkg
  simp (maxDischargeDepth := 60) +contextual [hl, hok]

@[simp] theorem setFlow_only (n : Nat) (f : Flow) (hl : Part.flows ∈ L) (hok : Only L w0 s) : Only L w0 (setFlow n f s) := by
  unfold setFlow
  simp (maxDischargeDepth := 60) +contextual [hl, hok]

@[simp] theorem bindFlow_only (n : Nat) (chan : Option Nat) (hl : Part.regs ∈ L ∧ Part.ctr ∈ L ∧ Part.out ∈ L ∧ Part.flows ∈ L) (hok : Only L w0 s) : Only L w0 (bindFlow n chan s) := by
  unfold bindFlow
  simp (maxDischargeDepth := 60) +contextual [hl, hok]

@[simp] theorem chIo_only (c : Ctx) (i : Nat) (e : Entry) (hl : Part.regs ∈ L ∧ Part.ctr ∈ L ∧ Part.out ∈ L ∧ Part.log ∈ L ∧ Part.logLost ∈ L ∧ Part.pins ∈ L ∧ Part.flows ∈ L ∧ Part.pair ∈ L ∧ Part.queues ∈ L ∧ Part.due ∈ L ∧ Part.chans ∈ L) (hok : Only L w0 s) : Only L w0 (chIo c i e s) := by
  unfold chIo
  simp (maxDischargeDepth := 60) +contextual [hl, hok]

@[simp] theorem chBind_only (c : Ctx) (i : Nat) (e : Entry) (hl : Part.regs ∈ L ∧ Part.ctr ∈ L ∧ Part.log ∈ L ∧ Part.logLost ∈ L ∧ Part.pins ∈ L ∧ Part.pair ∈ L ∧ Part.queues ∈ L ∧ Part.due ∈ L ∧ Part.chans ∈ L) (hok : Only L w0 s) : Only L w0 (chBind c i e s) := by
  unfold chBind
  simp (maxDischargeDepth := 60) +contextual [hl, hok]

end Sys2Proof.Machine
end

