-- ==== Sys2Proof/Laws/OnlyUnits.lean ====
section
/-! SUPPORT. What each operation can change (Laws/Only.lean): records posted, units, egress, rehearsal, the encoder, audio. One lemma for each operation. -/

namespace Sys2Proof.Machine

variable {w0 s : State} {L : List Part}

/-! Machine/Posting.lean -/

@[simp] theorem chooseCode_only (codes : List Nat) (b : Rec) (hl : Part.ctr ∈ L) (hok : Only L w0 s) : Only L w0 (chooseCode codes b s).2 := by
  unfold chooseCode
  simp (maxDischargeDepth := 60) +contextual [hl, hok]

@[simp] theorem statsFail_only (i seq : Nat) (hl : Part.regs ∈ L ∧ Part.ctr ∈ L) (hok : Only L w0 s) : Only L w0 (statsFail i seq s).2 := by
  unfold statsFail
  repeat' split
  all_goals simp (maxDischargeDepth := 60) +contextual [hl, hok]

@[simp] theorem settleCode_only (d : Due) (hl : Part.regs ∈ L ∧ Part.ctr ∈ L ∧ Part.mem ∈ L ∧ Part.out ∈ L ∧ Part.ports ∈ L ∧ Part.qps ∈ L ∧ Part.rings ∈ L ∧ Part.chans ∈ L ∧ Part.jobs ∈ L ∧ Part.fetches ∈ L) (hok : Only L w0 s) : Only L w0 (settleCode d s).2 := by
  unfold settleCode
  repeat' split
  all_goals simp (maxDischargeDepth := 60) +contextual [hl, hok]

/-! Machine/Units.lean -/

@[simp] theorem postUnit_only (i seq : Nat) (cmd : Option Ctx) (codes : List Nat) (b : Rec) (hl : Part.ctr ∈ L ∧ Part.due ∈ L) (hok : Only L w0 s) : Only L w0 (postUnit i seq cmd codes b s) := by
  unfold postUnit
  simp (maxDischargeDepth := 60) +contextual [hl, hok]

@[simp] theorem unitCode_only (i seq code : Nat) (hl : Part.regs ∈ L ∧ Part.ctr ∈ L ∧ Part.log ∈ L ∧ Part.logLost ∈ L ∧ Part.pins ∈ L) (hok : Only L w0 s) : Only L w0 (unitCode i seq code s) := by
  unfold unitCode
  simp (maxDischargeDepth := 60) +contextual [hl, hok]

@[simp] theorem nextSeq_only (i : Nat) (hl : Part.chans ∈ L) (hok : Only L w0 s) : Only L w0 (nextSeq i s).2 := by
  unfold nextSeq
  simp (maxDischargeDepth := 60) +contextual [hl, hok]

@[simp] theorem addJob_only (j : Job) (hl : Part.regs ∈ L ∧ Part.jobs ∈ L ∧ Part.nextJob ∈ L ∧ Part.chains ∈ L) (hok : Only L w0 s) : Only L w0 (addJob j s) := by
  unfold addJob
  simp (maxDischargeDepth := 60) +contextual [hl, hok]

@[simp] theorem sendRtp_only (n ts : Nat) (marker : Bool) (payload : List Byte) (hl : Part.ctr ∈ L ∧ Part.out ∈ L ∧ Part.ports ∈ L ∧ Part.flows ∈ L) (hok : Only L w0 s) : Only L w0 (sendRtp n ts marker payload s) := by
  unfold sendRtp
  simp (maxDischargeDepth := 60) +contextual [hl, hok]

@[simp] theorem sendSegment_only (n : Nat) (seg : List Byte) (key marker : Bool) (tag ts : Nat) (hl : Part.ctr ∈ L ∧ Part.out ∈ L ∧ Part.ports ∈ L ∧ Part.flows ∈ L) (hok : Only L w0 s) : Only L w0 (sendSegment n seg key marker tag ts s) := by
  unfold sendSegment
  simp (maxDischargeDepth := 60) +contextual [hl, hok]

@[simp] theorem ringOut_only (i base size pos : Nat) (l : List Byte) (hl : Part.regs ∈ L ∧ Part.ctr ∈ L ∧ Part.mem ∈ L ∧ Part.out ∈ L ∧ Part.ports ∈ L ∧ Part.qps ∈ L ∧ Part.rings ∈ L ∧ Part.jobs ∈ L ∧ Part.fetches ∈ L) (hok : Only L w0 s) : Only L w0 (ringOut i base size pos l s) := by
  unfold ringOut
  simp (maxDischargeDepth := 60) +contextual [hl, hok]

@[simp] theorem emitSeg_only (i : Nat) (seg : List Byte) (key marker : Bool) (tag ts : Nat) (hl : Part.regs ∈ L ∧ Part.ctr ∈ L ∧ Part.mem ∈ L ∧ Part.out ∈ L ∧ Part.ports ∈ L ∧ Part.qps ∈ L ∧ Part.flows ∈ L ∧ Part.rings ∈ L ∧ Part.chans ∈ L ∧ Part.jobs ∈ L ∧ Part.fetches ∈ L) (hok : Only L w0 s) : Only L w0 (emitSeg i seg key marker tag ts s) := by
  unfold emitSeg
  dsimp only
  repeat' split
  all_goals simp (maxDischargeDepth := 60) +contextual [hl, hok]

@[simp] theorem writeEnd_only (i : Nat) (hl : Part.regs ∈ L ∧ Part.ctr ∈ L ∧ Part.mem ∈ L ∧ Part.out ∈ L ∧ Part.ports ∈ L ∧ Part.qps ∈ L ∧ Part.flows ∈ L ∧ Part.rings ∈ L ∧ Part.chans ∈ L ∧ Part.jobs ∈ L ∧ Part.fetches ∈ L) (hok : Only L w0 s) : Only L w0 (writeEnd i s) := by
  unfold writeEnd
  simp (maxDischargeDepth := 60) +contextual [hl, hok]

@[simp] theorem cancelJobs_only (i : Nat) (hl : Part.jobs ∈ L) (hok : Only L w0 s) : Only L w0 (cancelJobs i s) := by
  unfold cancelJobs
  simp (maxDischargeDepth := 60) +contextual [hl, hok]

@[simp] theorem endLive_only (i : Nat) (hl : Part.regs ∈ L ∧ Part.chans ∈ L ∧ Part.chains ∈ L ∧ Part.lives ∈ L) (hok : Only L w0 s) : Only L w0 (endLive i s) := by
  unfold endLive
  repeat' split
  all_goals simp (maxDischargeDepth := 60) +contextual [hl, hok]

@[simp] theorem settleUnbinds_only (hl : Part.regs ∈ L ∧ Part.ctr ∈ L ∧ Part.log ∈ L ∧ Part.logLost ∈ L ∧ Part.pins ∈ L ∧ Part.pair ∈ L ∧ Part.queues ∈ L ∧ Part.due ∈ L ∧ Part.chans ∈ L ∧ Part.opens ∈ L) (hok : Only L w0 s) : Only L w0 (settleUnbinds s) := by
  refine Only.foldl _ (fun a x ha => ?_) (by simp [hl, hok])
  split <;> simp (maxDischargeDepth := 60) +contextual [*]

@[simp] theorem renumber_only (i : Nat) (hl : Part.regs ∈ L ∧ Part.ctr ∈ L ∧ Part.mem ∈ L ∧ Part.out ∈ L ∧ Part.ports ∈ L ∧ Part.qps ∈ L ∧ Part.rings ∈ L ∧ Part.due ∈ L ∧ Part.chans ∈ L ∧ Part.jobs ∈ L ∧ Part.fetches ∈ L) (hok : Only L w0 s) : Only L w0 (renumber i s) := by
  unfold renumber
  simp (maxDischargeDepth := 60) +contextual [hl, hok]

@[simp] theorem leaveHouse_only (i : Nat) (hl : Part.regs ∈ L ∧ Part.chans ∈ L) (hok : Only L w0 s) : Only L w0 (leaveHouse i s) := by
  unfold leaveHouse
  simp (maxDischargeDepth := 60) +contextual [hl, hok]

@[simp] theorem cutPicture_only (i : Nat) (hl : Part.regs ∈ L ∧ Part.ctr ∈ L ∧ Part.log ∈ L ∧ Part.logLost ∈ L ∧ Part.pins ∈ L ∧ Part.due ∈ L ∧ Part.chans ∈ L) (hok : Only L w0 s) : Only L w0 (cutPicture i s) := by
  unfold cutPicture
  repeat' split
  all_goals simp (maxDischargeDepth := 60) +contextual [hl, hok]

@[simp] theorem dropStores_only (i : Nat) (hl : Part.ctr ∈ L ∧ Part.stores ∈ L) (hok : Only L w0 s) : Only L w0 (dropStores i s) := by
  unfold dropStores
  simp (maxDischargeDepth := 60) +contextual [hl, hok]

@[simp] theorem finishStop_only (i : Nat) (hl : Part.free ∈ L ∧ Part.regs ∈ L ∧ Part.ctr ∈ L ∧ Part.mem ∈ L ∧ Part.out ∈ L ∧ Part.log ∈ L ∧ Part.logLost ∈ L ∧ Part.pins ∈ L ∧ Part.ports ∈ L ∧ Part.qps ∈ L ∧ Part.flows ∈ L ∧ Part.pair ∈ L ∧ Part.queues ∈ L ∧ Part.rings ∈ L ∧ Part.due ∈ L ∧ Part.chans ∈ L ∧ Part.opens ∈ L ∧ Part.jobs ∈ L ∧ Part.fetches ∈ L ∧ Part.chains ∈ L ∧ Part.stores ∈ L ∧ Part.lives ∈ L) (hok : Only L w0 s) : Only L w0 (finishStop i s) := by
  have hf : ∀ t, Only L w0 t → Only L w0 ((s.chan i).stopping.foldl (fun a x => match x.1 with | some ctx => done ctx a | none => a) t) := by
    intro t ht
    refine Only.foldl _ (fun a x ha => ?_) ht
    split <;> simp (maxDischargeDepth := 60) +contextual [*]
  unfold finishStop
  dsimp only
  split
  · exact hok
  · refine settleUnbinds_only (by simp [hl]) ?_
    split
    · refine renumber_only _ (by simp [hl]) (modChan_only _ _ (by simp [hl]) (hf _ ?_))
      simp (maxDischargeDepth := 60) +contextual [*]
    · refine hf _ ?_
      simp (maxDischargeDepth := 60) +contextual [*]

@[simp] theorem stopChan_only (i : Nat) (ctx : Option Ctx) (abort : Bool) (hl : Part.free ∈ L ∧ Part.regs ∈ L ∧ Part.ctr ∈ L ∧ Part.mem ∈ L ∧ Part.out ∈ L ∧ Part.log ∈ L ∧ Part.logLost ∈ L ∧ Part.pins ∈ L ∧ Part.ports ∈ L ∧ Part.qps ∈ L ∧ Part.flows ∈ L ∧ Part.pair ∈ L ∧ Part.queues ∈ L ∧ Part.rings ∈ L ∧ Part.due ∈ L ∧ Part.chans ∈ L ∧ Part.opens ∈ L ∧ Part.jobs ∈ L ∧ Part.fetches ∈ L ∧ Part.chains ∈ L ∧ Part.stores ∈ L ∧ Part.lives ∈ L) (hok : Only L w0 s) : Only L w0 (stopChan i ctx abort s) := by
  unfold stopChan
  simp (maxDischargeDepth := 60) +contextual [hl, hok]

@[simp] theorem finishRetire_only (i cause : Nat) (hl : Part.free ∈ L ∧ Part.regs ∈ L ∧ Part.ctr ∈ L ∧ Part.mem ∈ L ∧ Part.out ∈ L ∧ Part.log ∈ L ∧ Part.logLost ∈ L ∧ Part.pins ∈ L ∧ Part.ports ∈ L ∧ Part.qps ∈ L ∧ Part.flows ∈ L ∧ Part.pair ∈ L ∧ Part.queues ∈ L ∧ Part.rings ∈ L ∧ Part.due ∈ L ∧ Part.chans ∈ L ∧ Part.opens ∈ L ∧ Part.jobs ∈ L ∧ Part.fetches ∈ L ∧ Part.chains ∈ L ∧ Part.stores ∈ L ∧ Part.lives ∈ L) (hok : Only L w0 s) : Only L w0 (finishRetire i cause s) := by
  unfold finishRetire
  dsimp only
  split
  · exact hok
  · refine settleUnbinds_only (by simp [hl]) (Only.foldl _ (fun a x ha => stopChan_only _ _ _ (by simp [hl]) ha) ?_)
    refine postUnit_only _ _ _ _ _ (by simp [hl]) (unitCode_only _ _ _ (by simp [hl]) (bump_only _ _ _ (by simp [hl]) (nextSeq_only _ (by simp [hl]) (modChan_only _ _ (by simp [hl]) (swapOut_only _ (by simp [hl]) ?_)))))
    refine Only.foldl _ (fun a x ha => ?_) ?_
    · split <;> simp (maxDischargeDepth := 60) +contextual [*]
    · simp (maxDischargeDepth := 60) +contextual [*]

@[simp] theorem beginRetire_only (i cause : Nat) (hl : Part.free ∈ L ∧ Part.regs ∈ L ∧ Part.ctr ∈ L ∧ Part.mem ∈ L ∧ Part.out ∈ L ∧ Part.log ∈ L ∧ Part.logLost ∈ L ∧ Part.pins ∈ L ∧ Part.ports ∈ L ∧ Part.qps ∈ L ∧ Part.flows ∈ L ∧ Part.pair ∈ L ∧ Part.queues ∈ L ∧ Part.rings ∈ L ∧ Part.due ∈ L ∧ Part.chans ∈ L ∧ Part.opens ∈ L ∧ Part.jobs ∈ L ∧ Part.fetches ∈ L ∧ Part.chains ∈ L ∧ Part.stores ∈ L ∧ Part.lives ∈ L) (hok : Only L w0 s) : Only L w0 (beginRetire i cause s) := by
  unfold beginRetire
  simp (maxDischargeDepth := 60) +contextual [hl, hok]

@[simp] theorem settleChan_only (i : Nat) (hl : Part.free ∈ L ∧ Part.regs ∈ L ∧ Part.ctr ∈ L ∧ Part.mem ∈ L ∧ Part.out ∈ L ∧ Part.log ∈ L ∧ Part.logLost ∈ L ∧ Part.pins ∈ L ∧ Part.ports ∈ L ∧ Part.qps ∈ L ∧ Part.flows ∈ L ∧ Part.pair ∈ L ∧ Part.queues ∈ L ∧ Part.rings ∈ L ∧ Part.due ∈ L ∧ Part.chans ∈ L ∧ Part.opens ∈ L ∧ Part.jobs ∈ L ∧ Part.fetches ∈ L ∧ Part.chains ∈ L ∧ Part.stores ∈ L ∧ Part.lives ∈ L) (hok : Only L w0 s) : Only L w0 (settleChan i s) := by
  unfold settleChan
  dsimp only
  repeat' split
  all_goals simp (maxDischargeDepth := 60) +contextual [hl, hok]

@[simp] theorem dropJob_only (id : Nat) (hl : Part.free ∈ L ∧ Part.regs ∈ L ∧ Part.ctr ∈ L ∧ Part.mem ∈ L ∧ Part.out ∈ L ∧ Part.log ∈ L ∧ Part.logLost ∈ L ∧ Part.pins ∈ L ∧ Part.ports ∈ L ∧ Part.qps ∈ L ∧ Part.flows ∈ L ∧ Part.pair ∈ L ∧ Part.queues ∈ L ∧ Part.rings ∈ L ∧ Part.due ∈ L ∧ Part.chans ∈ L ∧ Part.opens ∈ L ∧ Part.jobs ∈ L ∧ Part.fetches ∈ L ∧ Part.chains ∈ L ∧ Part.stores ∈ L ∧ Part.lives ∈ L) (hok : Only L w0 s) : Only L w0 (dropJob id s) := by
  unfold dropJob
  repeat' split
  all_goals simp (maxDischargeDepth := 60) +contextual [hl, hok]

@[simp] theorem postRecord_only (r : Nat) (k : Ring) (d : Due) (rest : List Due) (hl : Part.regs ∈ L ∧ Part.ctr ∈ L ∧ Part.mem ∈ L ∧ Part.out ∈ L ∧ Part.ports ∈ L ∧ Part.qps ∈ L ∧ Part.rings ∈ L ∧ Part.due ∈ L ∧ Part.chans ∈ L ∧ Part.jobs ∈ L ∧ Part.fetches ∈ L) (hok : Only L w0 s) : Only L w0 (postRecord r k d rest s) := by
  unfold postRecord
  simp (maxDischargeDepth := 60) +contextual [hl, hok]

@[simp] theorem postDue_only (r : Nat) (k : Ring) (d : Due) (rest : List Due) (hl : Part.free ∈ L ∧ Part.regs ∈ L ∧ Part.ctr ∈ L ∧ Part.mem ∈ L ∧ Part.out ∈ L ∧ Part.log ∈ L ∧ Part.logLost ∈ L ∧ Part.pins ∈ L ∧ Part.ports ∈ L ∧ Part.qps ∈ L ∧ Part.flows ∈ L ∧ Part.pair ∈ L ∧ Part.queues ∈ L ∧ Part.rings ∈ L ∧ Part.due ∈ L ∧ Part.chans ∈ L ∧ Part.opens ∈ L ∧ Part.jobs ∈ L ∧ Part.fetches ∈ L ∧ Part.chains ∈ L ∧ Part.stores ∈ L ∧ Part.lives ∈ L) (hok : Only L w0 s) : Only L w0 (postDue r k d rest s) := by
  unfold postDue
  repeat' split
  all_goals simp (maxDischargeDepth := 60) +contextual [hl, hok]

@[simp] theorem holdDue_only (r : Nat) (hl : Part.ctr ∈ L ∧ Part.due ∈ L) (hok : Only L w0 s) : Only L w0 (holdDue r s) := by
  unfold holdDue
  simp (maxDischargeDepth := 60) +contextual [hl, hok]

/-! Machine/Egress.lean -/

@[simp] theorem modOut_only (i : Nat) (f : Flow → Flow) (hl : Part.flows ∈ L) (hok : Only L w0 s) : Only L w0 (modOut i f s) := by
  unfold modOut
  repeat' split
  all_goals simp (maxDischargeDepth := 60) +contextual [hl, hok]

@[simp] theorem egressBegin_only (i : Nat) (hl : Part.flows ∈ L) (hok : Only L w0 s) : Only L w0 (egressBegin i s) := by
  unfold egressBegin
  simp (maxDischargeDepth := 60) +contextual [hl, hok]

@[simp] theorem egressAnnounce_only (i : Nat) (u : OutUnit) (hl : Part.flows ∈ L) (hok : Only L w0 s) : Only L w0 (egressAnnounce i u s) := by
  unfold egressAnnounce
  simp (maxDischargeDepth := 60) +contextual [hl, hok]

@[simp] theorem egressReady_only (i num : Nat) (send : Bool) (bytes : List Byte) (hl : Part.flows ∈ L) (hok : Only L w0 s) : Only L w0 (egressReady i num send bytes s) := by
  unfold egressReady
  simp (maxDischargeDepth := 60) +contextual [hl, hok]

@[simp] theorem sendUnit_only (n instant : Nat) (bytes : List Byte) (hl : Part.free ∈ L ∧ Part.ctr ∈ L ∧ Part.out ∈ L ∧ Part.ports ∈ L ∧ Part.flows ∈ L) (hok : Only L w0 s) : Only L w0 (sendUnit n instant bytes s) := by
  unfold sendUnit
  simp (maxDischargeDepth := 60) +contextual [hl, hok]

@[simp] theorem egress_only (n : Nat) (hl : Part.free ∈ L ∧ Part.ctr ∈ L ∧ Part.out ∈ L ∧ Part.ports ∈ L ∧ Part.flows ∈ L) (hok : Only L w0 s) : Only L w0 (egress n s) := by
  unfold egress
  dsimp only
  repeat' split
  all_goals simp (maxDischargeDepth := 60) +contextual [hl, hok]

/-! Machine/Start.lean -/

@[simp] theorem dropLoad_only (i : Nat) (o : OpenCmd) (hl : Part.regs ∈ L ∧ Part.ctr ∈ L ∧ Part.log ∈ L ∧ Part.logLost ∈ L ∧ Part.pins ∈ L ∧ Part.pair ∈ L ∧ Part.queues ∈ L ∧ Part.due ∈ L ∧ Part.chans ∈ L ∧ Part.opens ∈ L) (hok : Only L w0 s) : Only L w0 (dropLoad i s o) := by
  unfold dropLoad
  repeat' split
  all_goals simp (maxDischargeDepth := 60) +contextual [hl, hok]

@[simp] theorem chDestroy_only (c : Ctx) (i : Nat) (x2 : Entry) (hl : Part.regs ∈ L ∧ Part.ctr ∈ L ∧ Part.out ∈ L ∧ Part.log ∈ L ∧ Part.logLost ∈ L ∧ Part.pins ∈ L ∧ Part.flows ∈ L ∧ Part.pair ∈ L ∧ Part.queues ∈ L ∧ Part.due ∈ L ∧ Part.chans ∈ L ∧ Part.freed ∈ L ∧ Part.opens ∈ L ∧ Part.tlb ∈ L) (hok : Only L w0 s) : Only L w0 (chDestroy c i x2 s) := by
  unfold chDestroy
  simp (maxDischargeDepth := 60) +contextual [hl, hok]

@[simp] theorem startFail_only (c : Ctx) (i : Nat) (r : Nat × Nat) (hl : Part.regs ∈ L ∧ Part.ctr ∈ L ∧ Part.log ∈ L ∧ Part.logLost ∈ L ∧ Part.pins ∈ L ∧ Part.pair ∈ L ∧ Part.queues ∈ L ∧ Part.due ∈ L ∧ Part.chans ∈ L) (hok : Only L w0 s) : Only L w0 (startFail c i r s) := by
  unfold startFail
  simp (maxDischargeDepth := 60) +contextual [hl, hok]

@[simp] theorem startChan_only (i : Nat) (hl : Part.regs ∈ L ∧ Part.flows ∈ L ∧ Part.chans ∈ L) (hok : Only L w0 s) : Only L w0 (startChan i s) := by
  unfold startChan
  dsimp only
  repeat' split
  all_goals simp (maxDischargeDepth := 60) +contextual [hl, hok]

@[simp] theorem chPrepare_only (c : Ctx) (i : Nat) (x2 : Entry) (hl : Part.free ∈ L ∧ Part.regs ∈ L ∧ Part.ctr ∈ L ∧ Part.mem ∈ L ∧ Part.log ∈ L ∧ Part.logLost ∈ L ∧ Part.pins ∈ L ∧ Part.pair ∈ L ∧ Part.queues ∈ L ∧ Part.due ∈ L ∧ Part.chans ∈ L) (hok : Only L w0 s) : Only L w0 (chPrepare c i x2 s) := by
  unfold chPrepare
  dsimp only
  repeat' split
  any_goals simp (maxDischargeDepth := 60) +contextual [*]
  (first | (simp (maxDischargeDepth := 60) [*]; done) | (exact done_only _ (by simp [hl]) (modChan_only _ _ (by simp [hl]) (takeSlot_only ‹_› (by simp [hl]) hok))))

@[simp] theorem chStart_only (c : Ctx) (i : Nat) (x2 : Entry) (hl : Part.regs ∈ L ∧ Part.ctr ∈ L ∧ Part.log ∈ L ∧ Part.logLost ∈ L ∧ Part.pins ∈ L ∧ Part.flows ∈ L ∧ Part.pair ∈ L ∧ Part.queues ∈ L ∧ Part.due ∈ L ∧ Part.chans ∈ L) (hok : Only L w0 s) : Only L w0 (chStart c i x2 s) := by
  unfold chStart
  simp (maxDischargeDepth := 60) +contextual [hl, hok]

@[simp] theorem chStop_only (c : Ctx) (i : Nat) (e : Entry) (hl : Part.free ∈ L ∧ Part.regs ∈ L ∧ Part.ctr ∈ L ∧ Part.mem ∈ L ∧ Part.out ∈ L ∧ Part.log ∈ L ∧ Part.logLost ∈ L ∧ Part.pins ∈ L ∧ Part.ports ∈ L ∧ Part.qps ∈ L ∧ Part.flows ∈ L ∧ Part.pair ∈ L ∧ Part.queues ∈ L ∧ Part.rings ∈ L ∧ Part.due ∈ L ∧ Part.chans ∈ L ∧ Part.opens ∈ L ∧ Part.jobs ∈ L ∧ Part.fetches ∈ L ∧ Part.chains ∈ L ∧ Part.stores ∈ L ∧ Part.lives ∈ L) (hok : Only L w0 s) : Only L w0 (chStop c i e s) := by
  unfold chStop
  simp (maxDischargeDepth := 60) +contextual [hl, hok]

@[simp] theorem forceIntra_only (c : Ctx) (i : Nat) (x2 : Entry) (hl : Part.regs ∈ L ∧ Part.ctr ∈ L ∧ Part.log ∈ L ∧ Part.logLost ∈ L ∧ Part.pins ∈ L ∧ Part.pair ∈ L ∧ Part.queues ∈ L ∧ Part.due ∈ L ∧ Part.chans ∈ L) (hok : Only L w0 s) : Only L w0 (forceIntra c i x2 s) := by
  unfold forceIntra
  simp (maxDischargeDepth := 60) +contextual [hl, hok]

@[simp] theorem failLate_only (c : Ctx) (i : Nat) (e : Entry) (code : Nat) (hl : Part.regs ∈ L ∧ Part.ctr ∈ L ∧ Part.log ∈ L ∧ Part.logLost ∈ L ∧ Part.pins ∈ L ∧ Part.pair ∈ L ∧ Part.queues ∈ L ∧ Part.due ∈ L ∧ Part.chans ∈ L) (hok : Only L w0 s) : Only L w0 (failLate c i e code s) := by
  unfold failLate
  simp (maxDischargeDepth := 60) +contextual [hl, hok]

@[simp] theorem addUnit_only (i : Nat) (j : Job) (hl : Part.regs ∈ L ∧ Part.chans ∈ L ∧ Part.jobs ∈ L ∧ Part.nextJob ∈ L ∧ Part.chains ∈ L) (hok : Only L w0 s) : Only L w0 (addUnit i j s) := by
  unfold addUnit
  simp (maxDischargeDepth := 60) +contextual [hl, hok]

@[simp] theorem armPersistent_only (i at_ out : Nat) (hl : Part.regs ∈ L ∧ Part.ctr ∈ L ∧ Part.chans ∈ L) (hok : Only L w0 s) : Only L w0 (armPersistent i at_ out s) := by
  unfold armPersistent
  simp (maxDischargeDepth := 60) +contextual [hl, hok]

@[simp] theorem holdInput_only (i num : Nat) (hl : Part.regs ∈ L ∧ Part.chans ∈ L) (hok : Only L w0 s) : Only L w0 (holdInput i num s) := by
  unfold holdInput
  simp (maxDischargeDepth := 60) +contextual [hl, hok]

@[simp] theorem releaseInput_only (i num : Nat) (hl : Part.regs ∈ L ∧ Part.chans ∈ L) (hok : Only L w0 s) : Only L w0 (releaseInput i num s) := by
  unfold releaseInput
  simp (maxDischargeDepth := 60) +contextual [hl, hok]

@[simp] theorem enhUnit_only (i num : Nat) (dl : Option Nat) (tick a pts : Nat) (hl : Part.regs ∈ L ∧ Part.ctr ∈ L ∧ Part.flows ∈ L ∧ Part.chans ∈ L ∧ Part.jobs ∈ L ∧ Part.nextJob ∈ L ∧ Part.chains ∈ L) (hok : Only L w0 s) : Only L w0 (enhUnit i num dl tick a pts s) := by
  unfold enhUnit
  simp (maxDischargeDepth := 60) +contextual [hl, hok]

@[simp] theorem enhAdmit_only (i num : Nat) (hl : Part.regs ∈ L ∧ Part.ctr ∈ L ∧ Part.flows ∈ L ∧ Part.chans ∈ L ∧ Part.jobs ∈ L ∧ Part.nextJob ∈ L ∧ Part.chains ∈ L) (hok : Only L w0 s) : Only L w0 (enhAdmit i num s) := by
  unfold enhAdmit
  dsimp only
  repeat' split
  all_goals simp (maxDischargeDepth := 60) +contextual [hl, hok]

@[simp] theorem inputWhole_only (i num : Nat) (hl : Part.regs ∈ L ∧ Part.ctr ∈ L ∧ Part.log ∈ L ∧ Part.logLost ∈ L ∧ Part.pins ∈ L ∧ Part.flows ∈ L ∧ Part.chans ∈ L ∧ Part.jobs ∈ L ∧ Part.nextJob ∈ L ∧ Part.chains ∈ L) (hok : Only L w0 s) : Only L w0 (inputWhole i num s) := by
  unfold inputWhole
  dsimp only
  repeat' split
  all_goals simp (maxDischargeDepth := 60) +contextual [hl, hok]

@[simp] theorem announce_only (i total pts : Nat) (hl : Part.regs ∈ L ∧ Part.ctr ∈ L ∧ Part.log ∈ L ∧ Part.logLost ∈ L ∧ Part.pins ∈ L ∧ Part.flows ∈ L ∧ Part.chans ∈ L ∧ Part.jobs ∈ L ∧ Part.nextJob ∈ L ∧ Part.chains ∈ L) (hok : Only L w0 s) : Only L w0 (announce i total pts s) := by
  unfold announce
  simp (maxDischargeDepth := 60) +contextual [hl, hok]

@[simp] theorem streamIn_only (c : Ctx) (i : Nat) (e : Entry) (hl : Part.regs ∈ L ∧ Part.ctr ∈ L ∧ Part.log ∈ L ∧ Part.logLost ∈ L ∧ Part.pins ∈ L ∧ Part.flows ∈ L ∧ Part.pair ∈ L ∧ Part.queues ∈ L ∧ Part.due ∈ L ∧ Part.chans ∈ L ∧ Part.jobs ∈ L ∧ Part.nextJob ∈ L ∧ Part.chains ∈ L) (hok : Only L w0 s) : Only L w0 (streamIn c i e s) := by
  unfold streamIn
  simp (maxDischargeDepth := 60) +contextual [hl, hok]

@[simp] theorem streamInFwd_only (c : Ctx) (i : Nat) (e : Entry) (hl : Part.regs ∈ L ∧ Part.ctr ∈ L ∧ Part.out ∈ L ∧ Part.log ∈ L ∧ Part.logLost ∈ L ∧ Part.pins ∈ L ∧ Part.ports ∈ L ∧ Part.qps ∈ L ∧ Part.flows ∈ L ∧ Part.pair ∈ L ∧ Part.queues ∈ L ∧ Part.rings ∈ L ∧ Part.due ∈ L ∧ Part.chans ∈ L ∧ Part.jobs ∈ L ∧ Part.nextJob ∈ L ∧ Part.fetches ∈ L ∧ Part.chains ∈ L) (hok : Only L w0 s) : Only L w0 (streamInFwd c i e s) := by
  unfold streamInFwd
  simp (maxDischargeDepth := 60) +contextual [hl, hok]

@[simp] theorem outHead_only (c : Ctx) (i : Nat) (e : Entry) (hl : Part.free ∈ L ∧ Part.regs ∈ L ∧ Part.ctr ∈ L ∧ Part.mem ∈ L ∧ Part.out ∈ L ∧ Part.log ∈ L ∧ Part.logLost ∈ L ∧ Part.pins ∈ L ∧ Part.ports ∈ L ∧ Part.qps ∈ L ∧ Part.flows ∈ L ∧ Part.pair ∈ L ∧ Part.queues ∈ L ∧ Part.rings ∈ L ∧ Part.due ∈ L ∧ Part.chans ∈ L ∧ Part.opens ∈ L ∧ Part.jobs ∈ L ∧ Part.fetches ∈ L ∧ Part.chains ∈ L ∧ Part.stores ∈ L ∧ Part.lives ∈ L) (hok : Only L w0 s) : Only L w0 (outHead c i e s) := by
  unfold outHead
  simp (maxDischargeDepth := 60) +contextual [hl, hok]

@[simp] theorem tensor_only (c : Ctx) (i : Nat) (e : Entry) (hl : Part.regs ∈ L ∧ Part.ctr ∈ L ∧ Part.log ∈ L ∧ Part.logLost ∈ L ∧ Part.pins ∈ L ∧ Part.pair ∈ L ∧ Part.queues ∈ L ∧ Part.due ∈ L ∧ Part.chans ∈ L ∧ Part.jobs ∈ L ∧ Part.nextJob ∈ L ∧ Part.chains ∈ L) (hok : Only L w0 s) : Only L w0 (tensor c i e s) := by
  unfold tensor
  simp (maxDischargeDepth := 60) +contextual [hl, hok]

@[simp] theorem comp_only (c : Ctx) (i : Nat) (e : Entry) (hl : Part.free ∈ L ∧ Part.regs ∈ L ∧ Part.ctr ∈ L ∧ Part.log ∈ L ∧ Part.logLost ∈ L ∧ Part.pins ∈ L ∧ Part.pair ∈ L ∧ Part.queues ∈ L ∧ Part.due ∈ L ∧ Part.chans ∈ L ∧ Part.jobs ∈ L ∧ Part.nextJob ∈ L ∧ Part.chains ∈ L) (hok : Only L w0 s) : Only L w0 (comp c i e s) := by
  unfold comp
  simp (maxDischargeDepth := 60) +contextual [hl, hok]

@[simp] theorem liveBind_only (remote : List Byte) (c : Ctx) (i : Nat) (e : Entry) (hl : Part.regs ∈ L ∧ Part.ctr ∈ L ∧ Part.out ∈ L ∧ Part.log ∈ L ∧ Part.logLost ∈ L ∧ Part.pins ∈ L ∧ Part.flows ∈ L ∧ Part.pair ∈ L ∧ Part.queues ∈ L ∧ Part.due ∈ L ∧ Part.chans ∈ L ∧ Part.chains ∈ L ∧ Part.lives ∈ L) (hok : Only L w0 s) : Only L w0 (liveBind remote c i e s) := by
  unfold liveBind
  dsimp only
  repeat' split
  all_goals simp (maxDischargeDepth := 60) +contextual [hl, hok]

@[simp] theorem liveUnbind_only (c : Ctx) (i : Nat) (e : Entry) (hl : Part.free ∈ L ∧ Part.regs ∈ L ∧ Part.ctr ∈ L ∧ Part.mem ∈ L ∧ Part.out ∈ L ∧ Part.log ∈ L ∧ Part.logLost ∈ L ∧ Part.pins ∈ L ∧ Part.ports ∈ L ∧ Part.qps ∈ L ∧ Part.flows ∈ L ∧ Part.pair ∈ L ∧ Part.queues ∈ L ∧ Part.rings ∈ L ∧ Part.due ∈ L ∧ Part.chans ∈ L ∧ Part.opens ∈ L ∧ Part.jobs ∈ L ∧ Part.fetches ∈ L ∧ Part.chains ∈ L ∧ Part.stores ∈ L ∧ Part.lives ∈ L) (hok : Only L w0 s) : Only L w0 (liveUnbind c i e s) := by
  unfold liveUnbind
  simp (maxDischargeDepth := 60) +contextual [hl, hok]

/-! Machine/Encoder.lean -/

@[simp] theorem modEnc_only (i : Nat) (f : Enc → Enc) (hl : Part.regs ∈ L ∧ Part.chans ∈ L) (hok : Only L w0 s) : Only L w0 (modEnc i f s) := by
  unfold modEnc
  simp (maxDischargeDepth := 60) +contextual [hl, hok]

@[simp] theorem modPic_only (i n : Nat) (f : EncPic → EncPic) (hl : Part.regs ∈ L ∧ Part.chans ∈ L) (hok : Only L w0 s) : Only L w0 (modPic i n f s) := by
  unfold modPic
  simp (maxDischargeDepth := 60) +contextual [hl, hok]

@[simp] theorem beginPic_only (i num : Nat) (hl : Part.regs ∈ L ∧ Part.ctr ∈ L ∧ Part.chans ∈ L) (hok : Only L w0 s) : Only L w0 (beginPic i num s) := by
  unfold beginPic
  dsimp only
  repeat' split
  all_goals simp (maxDischargeDepth := 60) +contextual [hl, hok]

@[simp] theorem releaseSlice_only (i n k : Nat) (hl : Part.free ∈ L ∧ Part.regs ∈ L ∧ Part.ctr ∈ L ∧ Part.banks ∈ L ∧ Part.log ∈ L ∧ Part.logLost ∈ L ∧ Part.pins ∈ L ∧ Part.chans ∈ L ∧ Part.jobs ∈ L ∧ Part.nextJob ∈ L ∧ Part.chains ∈ L) (hok : Only L w0 s) : Only L w0 (releaseSlice i n k s) := by
  unfold releaseSlice
  repeat' first
    | (try lift_lets
       intro x
       first
         | (have hx : Only L w0 x := by
              simp only [and_self, true_and, and_true, true_or, or_true, x]
              all_goals simp (maxDischargeDepth := 60) +contextual [*]
            try clear_value x)
         | (have hq : State := x; clear hq)
         | clear_value x
         | skip)
    | split
  all_goals simp (maxDischargeDepth := 60) +contextual [*]

@[simp] theorem sliceRelease_only (i : Nat) (hl : Part.free ∈ L ∧ Part.regs ∈ L ∧ Part.ctr ∈ L ∧ Part.banks ∈ L ∧ Part.log ∈ L ∧ Part.logLost ∈ L ∧ Part.pins ∈ L ∧ Part.chans ∈ L ∧ Part.jobs ∈ L ∧ Part.nextJob ∈ L ∧ Part.chains ∈ L) (hok : Only L w0 s) : Only L w0 (sliceRelease i s) := by
  unfold sliceRelease
  dsimp only
  repeat' split
  all_goals simp (maxDischargeDepth := 60) +contextual [hl, hok]

@[simp] theorem fillLine_only (i : Nat) (h : List Byte) (pitch base : Nat) (gone : List Nat) (pl y : Nat) (hl : Part.regs ∈ L ∧ Part.ctr ∈ L ∧ Part.mem ∈ L ∧ Part.out ∈ L ∧ Part.ports ∈ L ∧ Part.qps ∈ L ∧ Part.rings ∈ L ∧ Part.jobs ∈ L ∧ Part.fetches ∈ L) (hok : Only L w0 s) : Only L w0 (fillLine i h pitch base gone pl y s) := by
  unfold fillLine
  simp (maxDischargeDepth := 60) +contextual [hl, hok]

@[simp] theorem fillLines_only (i num : Nat) (hl : Part.regs ∈ L ∧ Part.ctr ∈ L ∧ Part.mem ∈ L ∧ Part.out ∈ L ∧ Part.ports ∈ L ∧ Part.qps ∈ L ∧ Part.rings ∈ L ∧ Part.chans ∈ L ∧ Part.jobs ∈ L ∧ Part.fetches ∈ L) (hok : Only L w0 s) : Only L w0 (fillLines i num s) := by
  unfold fillLines
  dsimp only
  repeat' split
  all_goals simp (maxDischargeDepth := 60) +contextual [hl, hok]

@[simp] theorem startGovernor_only (i n : Nat) (hl : Part.regs ∈ L ∧ Part.ctr ∈ L ∧ Part.log ∈ L ∧ Part.logLost ∈ L ∧ Part.pins ∈ L ∧ Part.chans ∈ L) (hok : Only L w0 s) : Only L w0 (startGovernor i n s) := by
  unfold startGovernor
  dsimp only
  repeat' split
  all_goals simp (maxDischargeDepth := 60) +contextual [hl, hok]

@[simp] theorem noteCurtain_only (i n k row cause : Nat) (firstOfSlice : Bool) (hl : Part.regs ∈ L ∧ Part.ctr ∈ L ∧ Part.log ∈ L ∧ Part.logLost ∈ L ∧ Part.pins ∈ L ∧ Part.chans ∈ L) (hok : Only L w0 s) : Only L w0 (noteCurtain i n k row cause firstOfSlice s) := by
  unfold noteCurtain
  repeat' split
  all_goals simp (maxDischargeDepth := 60) +contextual [hl, hok]

@[simp] theorem sampleRgv_only (i n : Nat) (hl : Part.regs ∈ L) (hok : Only L w0 s) : Only L w0 (sampleRgv i n s) := by
  unfold sampleRgv
  repeat' split
  all_goals simp (maxDischargeDepth := 60) +contextual [hl, hok]

@[simp] theorem rgvProbe_only (w : Word) (hl : Part.regs ∈ L) (hok : Only L w0 s) : Only L w0 (rgvProbe w s) := by
  unfold rgvProbe
  simp (maxDischargeDepth := 60) +contextual [hl, hok]

@[simp] theorem rowCommit_only (id : Nat) (g : Coding) (k : Package) (hl : Part.regs ∈ L ∧ Part.ctr ∈ L ∧ Part.log ∈ L ∧ Part.logLost ∈ L ∧ Part.pins ∈ L ∧ Part.chans ∈ L ∧ Part.jobs ∈ L) (hok : Only L w0 s) : Only L w0 (rowCommit id g k s) := by
  unfold rowCommit
  simp (maxDischargeDepth := 60) +contextual [hl, hok]

@[simp] theorem endPicture_only (i n : Nat) (hl : Part.regs ∈ L ∧ Part.ctr ∈ L ∧ Part.chans ∈ L) (hok : Only L w0 s) : Only L w0 (endPicture i n s) := by
  unfold endPicture
  repeat' split
  all_goals simp (maxDischargeDepth := 60) +contextual [hl, hok]

@[simp] theorem admitRecons_only (i n fuel : Nat) (hl : Part.regs ∈ L ∧ Part.chans ∈ L ∧ Part.jobs ∈ L ∧ Part.nextJob ∈ L ∧ Part.chains ∈ L) (hok : Only L w0 s) : Only L w0 (admitRecons i n fuel s) := by
  induction fuel generalizing s with
  | zero => exact hok
  | succ k ih =>
    rw [admitRecons]
    dsimp only
    repeat' first
      | with_reducible assumption | with_reducible apply ih | with_reducible apply addJob_only | with_reducible apply modPic_only | split
    all_goals simp (maxDischargeDepth := 60) [hl, hok]

@[simp] theorem leavePic_only (i n : Nat) (hl : Part.regs ∈ L ∧ Part.chans ∈ L) (hok : Only L w0 s) : Only L w0 (leavePic i n s) := by
  unfold leavePic
  repeat' split
  all_goals simp (maxDischargeDepth := 60) +contextual [hl, hok]

@[simp] theorem admitTune_only (i : Nat) (p : EncPic) (hl : Part.regs ∈ L ∧ Part.chans ∈ L ∧ Part.jobs ∈ L ∧ Part.nextJob ∈ L ∧ Part.chains ∈ L) (hok : Only L w0 s) : Only L w0 (admitTune i p s) := by
  unfold admitTune
  dsimp only
  repeat' split
  all_goals simp (maxDischargeDepth := 60) +contextual [hl, hok]

@[simp] theorem settlePics_only (i fuel : Nat) (hl : Part.regs ∈ L ∧ Part.ctr ∈ L ∧ Part.chans ∈ L ∧ Part.jobs ∈ L ∧ Part.nextJob ∈ L ∧ Part.chains ∈ L) (hok : Only L w0 s) : Only L w0 (settlePics i fuel s) := by
  induction fuel generalizing s with
  | zero => exact hok
  | succ n ih =>
    unfold settlePics
    dsimp only
    repeat' split
    all_goals simp (maxDischargeDepth := 60) [hl, hok, ih]

@[simp] theorem resolveSlice_only (i n : Nat) (hl : Part.regs ∈ L ∧ Part.ctr ∈ L ∧ Part.chans ∈ L ∧ Part.jobs ∈ L ∧ Part.nextJob ∈ L ∧ Part.chains ∈ L) (hok : Only L w0 s) : Only L w0 (resolveSlice i n s) := by
  unfold resolveSlice
  repeat' split
  all_goals simp (maxDischargeDepth := 60) +contextual [hl, hok]

@[simp] theorem uncharge_only (i n bits : Nat) (hl : Part.regs ∈ L ∧ Part.chans ∈ L) (hok : Only L w0 s) : Only L w0 (uncharge i n bits s) := by
  unfold uncharge
  repeat' split
  all_goals simp (maxDischargeDepth := 60) only [and_self, true_and, and_true, true_or, or_true, Only.ite, Only.mk_of, Only.foldl, implies_true, modEnc_only, modPic_only, hl, hok]

@[simp] theorem loseSlice_only (i n k st : Nat) (hl : Part.regs ∈ L ∧ Part.ctr ∈ L ∧ Part.chans ∈ L ∧ Part.jobs ∈ L ∧ Part.nextJob ∈ L ∧ Part.chains ∈ L) (hok : Only L w0 s) : Only L w0 (loseSlice i n k st s) := by
  unfold loseSlice
  repeat' split
  all_goals simp (maxDischargeDepth := 60) +contextual [hl, hok]

@[simp] theorem gatherRow_only (id : Nat) (g : Coding) (k : Package) (hl : Part.regs ∈ L ∧ Part.ctr ∈ L ∧ Part.chans ∈ L ∧ Part.jobs ∈ L) (hok : Only L w0 s) : Only L w0 (gatherRow id g k s) := by
  unfold gatherRow
  repeat' first
    | (try lift_lets
       intro x
       first
         | (have hx : Only L w0 x := by
              simp only [and_self, true_and, and_true, true_or, or_true, x]
              repeat' split
              all_goals simp (maxDischargeDepth := 60) [*]
            try clear_value x)
         | (have hq : State := x; clear hq)
         | clear_value x
         | skip)
    | split
  all_goals simp (maxDischargeDepth := 60) [*]

@[simp] theorem sliceClose_only (g : Coding) (k : Package) (hl : Part.regs ∈ L ∧ Part.ctr ∈ L ∧ Part.log ∈ L ∧ Part.logLost ∈ L ∧ Part.pins ∈ L ∧ Part.chans ∈ L ∧ Part.jobs ∈ L ∧ Part.nextJob ∈ L ∧ Part.chains ∈ L ∧ Part.slice ∈ L) (hok : Only L w0 s) : Only L w0 (sliceClose g k s) := by
  unfold sliceClose
  simp (maxDischargeDepth := 60) only [and_self, true_and, and_true, true_or, or_true, Only.ite, Only.mk_of, Only.foldl, implies_true, bump_only, holdRecord_only, done_only, unitCode_only, modPic_only, noteCurtain_only, resolveSlice_only, loseSlice_only, hl, hok]

@[simp] theorem flushAuds_only (i fuel : Nat) (hl : Part.regs ∈ L ∧ Part.ctr ∈ L ∧ Part.mem ∈ L ∧ Part.out ∈ L ∧ Part.ports ∈ L ∧ Part.qps ∈ L ∧ Part.flows ∈ L ∧ Part.rings ∈ L ∧ Part.chans ∈ L ∧ Part.jobs ∈ L ∧ Part.fetches ∈ L) (hok : Only L w0 s) : Only L w0 (flushAuds i fuel s) := by
  induction fuel generalizing s with
  | zero => exact hok
  | succ k ih =>
    rw [flushAuds]
    dsimp only
    repeat' first
      | with_reducible assumption | with_reducible apply ih | with_reducible apply modEnc_only | with_reducible apply emitSeg_only | split
    all_goals simp (maxDischargeDepth := 60) [hl, hok]

@[simp] theorem emitHead_only (i : Nat) (p : EncPic) (hl : Part.regs ∈ L ∧ Part.ctr ∈ L ∧ Part.mem ∈ L ∧ Part.out ∈ L ∧ Part.ports ∈ L ∧ Part.qps ∈ L ∧ Part.flows ∈ L ∧ Part.rings ∈ L ∧ Part.chans ∈ L ∧ Part.jobs ∈ L ∧ Part.fetches ∈ L) (hok : Only L w0 s) : Only L w0 (emitHead i p s) := by
  unfold emitHead
  simp (maxDischargeDepth := 60) +contextual [hl, hok]

@[simp] theorem emitSlice_only (i id : Nat) (j : Job) (p : EncPic) (k : Nat) (x : EncSlice) (hl : Part.free ∈ L ∧ Part.regs ∈ L ∧ Part.ctr ∈ L ∧ Part.mem ∈ L ∧ Part.out ∈ L ∧ Part.log ∈ L ∧ Part.logLost ∈ L ∧ Part.pins ∈ L ∧ Part.ports ∈ L ∧ Part.qps ∈ L ∧ Part.flows ∈ L ∧ Part.pair ∈ L ∧ Part.queues ∈ L ∧ Part.rings ∈ L ∧ Part.due ∈ L ∧ Part.chans ∈ L ∧ Part.opens ∈ L ∧ Part.jobs ∈ L ∧ Part.fetches ∈ L ∧ Part.chains ∈ L ∧ Part.stores ∈ L ∧ Part.lives ∈ L) (hok : Only L w0 s) : Only L w0 (emitSlice i id j p k x s) := by
  unfold emitSlice
  repeat' first
    | (try lift_lets
       intro x
       first
         | (have hx : Only L w0 x := by
              simp only [and_self, true_and, and_true, true_or, or_true, x]
              repeat' split
              all_goals simp (maxDischargeDepth := 60) [*]
            try clear_value x)
         | (have hx : Only L w0 x.2 := by
              simp only [and_self, true_and, and_true, true_or, or_true, x]
              all_goals simp (maxDischargeDepth := 60) [*]
            try clear_value x)
         | (have hq : State := x; clear hq)
         | clear_value x
         | skip)
    | split
  all_goals simp (maxDischargeDepth := 60) [*]

@[simp] theorem sliceEmit_only (i : Nat) (hl : Part.free ∈ L ∧ Part.regs ∈ L ∧ Part.ctr ∈ L ∧ Part.mem ∈ L ∧ Part.out ∈ L ∧ Part.log ∈ L ∧ Part.logLost ∈ L ∧ Part.pins ∈ L ∧ Part.ports ∈ L ∧ Part.qps ∈ L ∧ Part.flows ∈ L ∧ Part.pair ∈ L ∧ Part.queues ∈ L ∧ Part.rings ∈ L ∧ Part.due ∈ L ∧ Part.chans ∈ L ∧ Part.opens ∈ L ∧ Part.jobs ∈ L ∧ Part.fetches ∈ L ∧ Part.chains ∈ L ∧ Part.stores ∈ L ∧ Part.lives ∈ L) (hok : Only L w0 s) : Only L w0 (sliceEmit i s) := by
  unfold sliceEmit
  dsimp only
  repeat' split
  all_goals simp (maxDischargeDepth := 60) +contextual [hl, hok]

@[simp] theorem reconEnd_only (i n k : Nat) (pkg : Package) (ok : Bool) (hl : Part.free ∈ L ∧ Part.regs ∈ L ∧ Part.ctr ∈ L ∧ Part.chans ∈ L ∧ Part.stores ∈ L) (hok : Only L w0 s) : Only L w0 (reconEnd i n k pkg ok s) := by
  unfold reconEnd
  repeat' split
  all_goals simp (maxDischargeDepth := 60) +contextual [hl, hok]

@[simp] theorem adapterSet_only (id : Nat) (j : Job) (n : Nat) (k : Package) (t : Tuning) (hl : Part.free ∈ L ∧ Part.regs ∈ L ∧ Part.ctr ∈ L ∧ Part.mem ∈ L ∧ Part.out ∈ L ∧ Part.log ∈ L ∧ Part.logLost ∈ L ∧ Part.pins ∈ L ∧ Part.ports ∈ L ∧ Part.qps ∈ L ∧ Part.flows ∈ L ∧ Part.pair ∈ L ∧ Part.queues ∈ L ∧ Part.rings ∈ L ∧ Part.due ∈ L ∧ Part.chans ∈ L ∧ Part.opens ∈ L ∧ Part.jobs ∈ L ∧ Part.fetches ∈ L ∧ Part.chains ∈ L ∧ Part.stores ∈ L ∧ Part.lives ∈ L) (hok : Only L w0 s) : Only L w0 (adapterSet id j n k t s) := by
  unfold adapterSet
  simp (maxDischargeDepth := 60) +contextual [hl, hok]

@[simp] theorem decodesReady_only (m : Nat) (t : Option Nat) (hl : Part.jobs ∈ L) (hok : Only L w0 s) : Only L w0 (decodesReady m t s) := by
  unfold decodesReady
  simp (maxDischargeDepth := 60) +contextual [hl, hok]

@[simp] theorem tableBankLoad_only (id : Nat) (j : Job) (k : Package) (hl : Part.free ∈ L ∧ Part.ctr ∈ L ∧ Part.jobs ∈ L ∧ Part.tableBanks ∈ L) (hok : Only L w0 s) : Only L w0 (tableBankLoad id j k s) := by
  unfold tableBankLoad
  dsimp only
  repeat' split
  all_goals simp (maxDischargeDepth := 60) +contextual [hl, hok]

@[simp] theorem parityStop_only (l : List Nat) (hl : Part.jobs ∈ L) (hok : Only L w0 s) : Only L w0 (parityStop l s) := by
  unfold parityStop
  simp (maxDischargeDepth := 60) +contextual [hl, hok]

@[simp] theorem rcaParity_only (at_ : Nat) (hl : Part.regs ∈ L ∧ Part.ctr ∈ L ∧ Part.log ∈ L ∧ Part.logLost ∈ L ∧ Part.pins ∈ L ∧ Part.jobs ∈ L ∧ Part.tableBanks ∈ L) (hok : Only L w0 s) : Only L w0 (rcaParity at_ s) := by
  unfold rcaParity
  repeat' split
  all_goals simp (maxDischargeDepth := 60) +contextual [hl, hok]

/-! Machine/Audio.lean -/

@[simp] theorem modJob_only (id : Nat) (f : Job → Job) (hl : Part.jobs ∈ L) (hok : Only L w0 s) : Only L w0 (modJob id f s) := by
  unfold modJob
  repeat' split
  all_goals simp (maxDischargeDepth := 60) +contextual [hl, hok]

@[simp] theorem addCode_only (id code : Nat) (hl : Part.jobs ∈ L) (hok : Only L w0 s) : Only L w0 (addCode id code s) := by
  unfold addCode
  simp (maxDischargeDepth := 60) +contextual [hl, hok]

@[simp] theorem closeUnit_only (id : Nat) (slice : Option Nat) (hl : Part.regs ∈ L ∧ Part.ctr ∈ L ∧ Part.log ∈ L ∧ Part.logLost ∈ L ∧ Part.pins ∈ L ∧ Part.jobs ∈ L) (hok : Only L w0 s) : Only L w0 (closeUnit id slice s) := by
  unfold closeUnit
  repeat' split
  all_goals simp (maxDischargeDepth := 60) +contextual [hl, hok]

@[simp] theorem audHit_only (j : Job) (hl : Part.ctr ∈ L) (hok : Only L w0 s) : Only L w0 (audHit j s) := by
  unfold audHit
  simp (maxDischargeDepth := 60) +contextual [hl, hok]

@[simp] theorem audCount_only (nch nh nl : Nat) (hl : Part.ctr ∈ L) (hok : Only L w0 s) : Only L w0 (audCount nch nh nl s) := by
  unfold audCount
  simp (maxDischargeDepth := 60) +contextual [hl, hok]

@[simp] theorem audFrame_only (id : Nat) (j : Job) (k : Package) (hl : Part.regs ∈ L ∧ Part.ctr ∈ L ∧ Part.log ∈ L ∧ Part.logLost ∈ L ∧ Part.pins ∈ L ∧ Part.jobs ∈ L) (hok : Only L w0 s) : Only L w0 (audFrame id j k s) := by
  unfold audFrame
  repeat' split
  all_goals simp (maxDischargeDepth := 60) +contextual [hl, hok]

@[simp] theorem audFinish_only (id : Nat) (hl : Part.regs ∈ L ∧ Part.ctr ∈ L ∧ Part.log ∈ L ∧ Part.logLost ∈ L ∧ Part.pins ∈ L ∧ Part.chans ∈ L ∧ Part.jobs ∈ L) (hok : Only L w0 s) : Only L w0 (audFinish id s) := by
  unfold audFinish
  repeat' split
  all_goals simp (maxDischargeDepth := 60) +contextual [hl, hok]

@[simp] theorem audRecord_only (id : Nat) (j : Job) (slot bytes : Nat) (hl : Part.free ∈ L ∧ Part.regs ∈ L ∧ Part.ctr ∈ L ∧ Part.mem ∈ L ∧ Part.out ∈ L ∧ Part.log ∈ L ∧ Part.logLost ∈ L ∧ Part.pins ∈ L ∧ Part.ports ∈ L ∧ Part.qps ∈ L ∧ Part.flows ∈ L ∧ Part.pair ∈ L ∧ Part.queues ∈ L ∧ Part.rings ∈ L ∧ Part.due ∈ L ∧ Part.chans ∈ L ∧ Part.opens ∈ L ∧ Part.jobs ∈ L ∧ Part.fetches ∈ L ∧ Part.chains ∈ L ∧ Part.stores ∈ L ∧ Part.lives ∈ L) (hok : Only L w0 s) : Only L w0 (audRecord id j slot bytes s) := by
  unfold audRecord
  simp (maxDischargeDepth := 60) +contextual [hl, hok]

@[simp] theorem audEmit_only (id : Nat) (j : Job) (hl : Part.free ∈ L ∧ Part.regs ∈ L ∧ Part.ctr ∈ L ∧ Part.mem ∈ L ∧ Part.out ∈ L ∧ Part.log ∈ L ∧ Part.logLost ∈ L ∧ Part.pins ∈ L ∧ Part.ports ∈ L ∧ Part.qps ∈ L ∧ Part.flows ∈ L ∧ Part.pair ∈ L ∧ Part.queues ∈ L ∧ Part.rings ∈ L ∧ Part.due ∈ L ∧ Part.chans ∈ L ∧ Part.opens ∈ L ∧ Part.jobs ∈ L ∧ Part.fetches ∈ L ∧ Part.chains ∈ L ∧ Part.stores ∈ L ∧ Part.lives ∈ L) (hok : Only L w0 s) : Only L w0 (audEmit id j s) := by
  unfold audEmit
  dsimp only
  repeat' split
  all_goals simp (maxDischargeDepth := 60) +contextual [hl, hok]

@[simp] theorem audWrite_only (id : Nat) (j : Job) (hl : Part.free ∈ L ∧ Part.regs ∈ L ∧ Part.ctr ∈ L ∧ Part.mem ∈ L ∧ Part.out ∈ L ∧ Part.log ∈ L ∧ Part.logLost ∈ L ∧ Part.pins ∈ L ∧ Part.ports ∈ L ∧ Part.qps ∈ L ∧ Part.flows ∈ L ∧ Part.pair ∈ L ∧ Part.queues ∈ L ∧ Part.rings ∈ L ∧ Part.due ∈ L ∧ Part.chans ∈ L ∧ Part.opens ∈ L ∧ Part.jobs ∈ L ∧ Part.fetches ∈ L ∧ Part.chains ∈ L ∧ Part.stores ∈ L ∧ Part.lives ∈ L) (hok : Only L w0 s) : Only L w0 (audWrite id j s) := by
  unfold audWrite
  dsimp only
  repeat' split
  all_goals simp (maxDischargeDepth := 60) +contextual [hl, hok]

end Sys2Proof.Machine
end

