-- ==== Sys2Proof/Laws/OnlyDecode.lean ====
section
/-! SUPPORT. What each operation can change (Laws/Only.lean): the decoder, segments, picture stores. One lemma for each operation. -/

namespace Sys2Proof.Machine

variable {w0 s : State} {L : List Part}

/-! Machine/Decoder.lean -/

@[simp] theorem modDec_only (i : Nat) (f : Dec → Dec) (hl : Part.regs ∈ L ∧ Part.chans ∈ L) (hok : Only L w0 s) : Only L w0 (modDec i f s) := by
  unfold modDec
  simp (maxDischargeDepth := 60) +contextual [hl, hok]

@[simp] theorem modDecPic_only (i : Nat) (f : DecPic → DecPic) (hl : Part.regs ∈ L ∧ Part.chans ∈ L) (hok : Only L w0 s) : Only L w0 (modDecPic i f s) := by
  unfold modDecPic
  simp (maxDischargeDepth := 60) +contextual [hl, hok]

@[simp] theorem decodeJob_only (id : Nat) (j : Job) (k : Package) (index first rows : Nat) (side main : List Byte) (hl : Part.regs ∈ L ∧ Part.ctr ∈ L ∧ Part.log ∈ L ∧ Part.logLost ∈ L ∧ Part.pins ∈ L ∧ Part.chans ∈ L ∧ Part.jobs ∈ L ∧ Part.slice ∈ L) (hok : Only L w0 s) : Only L w0 (decodeJob id j k index first rows side main s) := by
  unfold decodeJob
  dsimp only
  repeat' split
  all_goals simp (maxDischargeDepth := 60) +contextual [hl, hok]

@[simp] theorem takeSlice_only (x : ReadySlice) (hl : Part.regs ∈ L ∧ Part.ctr ∈ L ∧ Part.log ∈ L ∧ Part.logLost ∈ L ∧ Part.pins ∈ L ∧ Part.chans ∈ L ∧ Part.jobs ∈ L ∧ Part.slice ∈ L) (hok : Only L w0 s) : Only L w0 (takeSlice x s) := by
  unfold takeSlice
  repeat' split
  all_goals simp (maxDischargeDepth := 60) +contextual [hl, hok]

@[simp] theorem decFinish_only (id : Nat) (hl : Part.free ∈ L ∧ Part.regs ∈ L ∧ Part.ctr ∈ L ∧ Part.log ∈ L ∧ Part.logLost ∈ L ∧ Part.pins ∈ L ∧ Part.chans ∈ L ∧ Part.jobs ∈ L ∧ Part.stores ∈ L) (hok : Only L w0 s) : Only L w0 (decFinish id s) := by
  unfold decFinish
  repeat' first
    | (try lift_lets
       intro x
       first
         | (have hx : Only L w0 x := by
              simp only [and_self, true_and, and_true, true_or, or_true, x]
              repeat' split
              all_goals simp (maxDischargeDepth := 60) [*]
            try clear_value x)
         | (have hq : State := x; clear hq)
         | clear_value x
         | skip)
    | split
  all_goals simp (maxDischargeDepth := 60) [*]

@[simp] theorem writeAll_only (i : Nat) (l : List (Nat × List Byte)) (hl : Part.regs ∈ L ∧ Part.ctr ∈ L ∧ Part.mem ∈ L ∧ Part.out ∈ L ∧ Part.ports ∈ L ∧ Part.qps ∈ L ∧ Part.rings ∈ L ∧ Part.jobs ∈ L ∧ Part.fetches ∈ L) (hok : Only L w0 s) : Only L w0 (writeAll i l s) := by
  unfold writeAll
  simp (maxDischargeDepth := 60) +contextual [hl, hok]

@[simp] theorem decRecord_only (id : Nat) (j : Job) (p : DecPic) (fin : Bool) (buf : Nat) (hl : Part.free ∈ L ∧ Part.regs ∈ L ∧ Part.ctr ∈ L ∧ Part.mem ∈ L ∧ Part.out ∈ L ∧ Part.log ∈ L ∧ Part.logLost ∈ L ∧ Part.pins ∈ L ∧ Part.ports ∈ L ∧ Part.qps ∈ L ∧ Part.flows ∈ L ∧ Part.pair ∈ L ∧ Part.queues ∈ L ∧ Part.rings ∈ L ∧ Part.due ∈ L ∧ Part.chans ∈ L ∧ Part.opens ∈ L ∧ Part.jobs ∈ L ∧ Part.fetches ∈ L ∧ Part.chains ∈ L ∧ Part.stores ∈ L ∧ Part.lives ∈ L) (hok : Only L w0 s) : Only L w0 (decRecord id j p fin buf s) := by
  unfold decRecord
  simp (maxDischargeDepth := 60) only [and_self, true_and, and_true, true_or, or_true, Only.ite, Only.mk_of, Only.foldl, implies_true, wrote_only, post_only, modChan_only, postUnit_only, dropJob_only, modDecPic_only, hl, hok]

@[simp] theorem decWrite_only (id : Nat) (j : Job) (hl : Part.free ∈ L ∧ Part.regs ∈ L ∧ Part.ctr ∈ L ∧ Part.mem ∈ L ∧ Part.out ∈ L ∧ Part.log ∈ L ∧ Part.logLost ∈ L ∧ Part.pins ∈ L ∧ Part.ports ∈ L ∧ Part.qps ∈ L ∧ Part.flows ∈ L ∧ Part.pair ∈ L ∧ Part.queues ∈ L ∧ Part.rings ∈ L ∧ Part.due ∈ L ∧ Part.chans ∈ L ∧ Part.opens ∈ L ∧ Part.jobs ∈ L ∧ Part.fetches ∈ L ∧ Part.chains ∈ L ∧ Part.stores ∈ L ∧ Part.lives ∈ L) (hok : Only L w0 s) : Only L w0 (decWrite id j s) := by
  unfold decWrite
  dsimp only
  repeat' split
  all_goals simp (maxDischargeDepth := 60) +contextual [hl, hok]

@[simp] theorem enhFinish_only (id a b pts : Nat) (hl : Part.regs ∈ L ∧ Part.ctr ∈ L ∧ Part.log ∈ L ∧ Part.logLost ∈ L ∧ Part.pins ∈ L ∧ Part.chans ∈ L ∧ Part.jobs ∈ L) (hok : Only L w0 s) : Only L w0 (enhFinish id a b pts s) := by
  unfold enhFinish
  repeat' split
  all_goals simp (maxDischargeDepth := 60) +contextual [hl, hok]

@[simp] theorem openInput_only (i pts : Nat) (hl : Part.regs ∈ L ∧ Part.ctr ∈ L ∧ Part.mem ∈ L ∧ Part.out ∈ L ∧ Part.log ∈ L ∧ Part.logLost ∈ L ∧ Part.pins ∈ L ∧ Part.ports ∈ L ∧ Part.qps ∈ L ∧ Part.rings ∈ L ∧ Part.chans ∈ L ∧ Part.jobs ∈ L ∧ Part.fetches ∈ L) (hok : Only L w0 s) : Only L w0 (openInput i pts s).2 := by
  unfold openInput
  dsimp only
  repeat' split
  all_goals simp (maxDischargeDepth := 60) +contextual [hl, hok]

@[simp] theorem fuseIn_only (v pts : Nat) (bytes : List Byte) (hl : Part.regs ∈ L ∧ Part.ctr ∈ L ∧ Part.mem ∈ L ∧ Part.out ∈ L ∧ Part.log ∈ L ∧ Part.logLost ∈ L ∧ Part.pins ∈ L ∧ Part.ports ∈ L ∧ Part.qps ∈ L ∧ Part.rings ∈ L ∧ Part.chans ∈ L ∧ Part.jobs ∈ L ∧ Part.fetches ∈ L) (hok : Only L w0 s) : Only L w0 (fuseIn v pts bytes s) := by
  unfold fuseIn
  dsimp only
  repeat' split
  all_goals simp (maxDischargeDepth := 60) only [and_self, true_and, and_true, true_or, or_true, Only.ite, Only.mk_of, Only.foldl, implies_true, modChan_only, writeAll_only, openInput_only, hl, hok]

@[simp] theorem enhRecord_only (id : Nat) (j : Job) (pts buf : Nat) (wrote : Bool) (hl : Part.free ∈ L ∧ Part.regs ∈ L ∧ Part.ctr ∈ L ∧ Part.mem ∈ L ∧ Part.out ∈ L ∧ Part.log ∈ L ∧ Part.logLost ∈ L ∧ Part.pins ∈ L ∧ Part.ports ∈ L ∧ Part.qps ∈ L ∧ Part.flows ∈ L ∧ Part.pair ∈ L ∧ Part.queues ∈ L ∧ Part.rings ∈ L ∧ Part.due ∈ L ∧ Part.chans ∈ L ∧ Part.opens ∈ L ∧ Part.jobs ∈ L ∧ Part.fetches ∈ L ∧ Part.chains ∈ L ∧ Part.stores ∈ L ∧ Part.lives ∈ L) (hok : Only L w0 s) : Only L w0 (enhRecord id j pts buf wrote s) := by
  unfold enhRecord
  simp (maxDischargeDepth := 60) +contextual [hl, hok]

@[simp] theorem enhWrite_only (id : Nat) (j : Job) (pts : Nat) (hl : Part.free ∈ L ∧ Part.regs ∈ L ∧ Part.ctr ∈ L ∧ Part.mem ∈ L ∧ Part.out ∈ L ∧ Part.log ∈ L ∧ Part.logLost ∈ L ∧ Part.pins ∈ L ∧ Part.ports ∈ L ∧ Part.qps ∈ L ∧ Part.flows ∈ L ∧ Part.pair ∈ L ∧ Part.queues ∈ L ∧ Part.rings ∈ L ∧ Part.due ∈ L ∧ Part.chans ∈ L ∧ Part.opens ∈ L ∧ Part.jobs ∈ L ∧ Part.fetches ∈ L ∧ Part.chains ∈ L ∧ Part.stores ∈ L ∧ Part.lives ∈ L) (hok : Only L w0 s) : Only L w0 (enhWrite id j pts s) := by
  unfold enhWrite
  repeat' first
    | (try lift_lets
       intro x
       first
         | (have hx : Only L w0 x := by
              simp only [and_self, true_and, and_true, true_or, or_true, x]
              repeat' split
              all_goals simp (maxDischargeDepth := 60) [*]
            try clear_value x)
         | (have hx : Only L w0 x.2 := by
              simp only [and_self, true_and, and_true, true_or, or_true, x]
              all_goals simp (maxDischargeDepth := 60) [*]
            try clear_value x)
         | (have hq : State := x; clear hq)
         | clear_value x
         | skip)
    | split
  all_goals simp (maxDischargeDepth := 60) [*]

@[simp] theorem deliver_only (id : Nat) (hl : Part.free ∈ L ∧ Part.regs ∈ L ∧ Part.ctr ∈ L ∧ Part.mem ∈ L ∧ Part.out ∈ L ∧ Part.log ∈ L ∧ Part.logLost ∈ L ∧ Part.pins ∈ L ∧ Part.ports ∈ L ∧ Part.qps ∈ L ∧ Part.flows ∈ L ∧ Part.pair ∈ L ∧ Part.queues ∈ L ∧ Part.rings ∈ L ∧ Part.due ∈ L ∧ Part.chans ∈ L ∧ Part.opens ∈ L ∧ Part.jobs ∈ L ∧ Part.fetches ∈ L ∧ Part.chains ∈ L ∧ Part.stores ∈ L ∧ Part.lives ∈ L) (hok : Only L w0 s) : Only L w0 (deliver id s) := by
  unfold deliver
  repeat' split
  all_goals simp (maxDischargeDepth := 60) +contextual [hl, hok]

/-! Machine/Segments.lean -/

@[simp] theorem streamEvent_only (i code pos : Nat) (hl : Part.regs ∈ L ∧ Part.ctr ∈ L ∧ Part.log ∈ L ∧ Part.logLost ∈ L ∧ Part.pins ∈ L ∧ Part.due ∈ L) (hok : Only L w0 s) : Only L w0 (streamEvent i code pos s) := by
  unfold streamEvent
  simp (maxDischargeDepth := 60) +contextual [hl, hok]

@[simp] theorem consume_only (i pos : Nat) (after : Bool) (hl : Part.regs ∈ L ∧ Part.chans ∈ L) (hok : Only L w0 s) : Only L w0 (consume i pos after s) := by
  unfold consume
  simp (maxDischargeDepth := 60) +contextual [hl, hok]

@[simp] theorem endAudio_only (i : Nat) (hl : Part.regs ∈ L ∧ Part.flows ∈ L ∧ Part.chans ∈ L) (hok : Only L w0 s) : Only L w0 (endAudio i s) := by
  unfold endAudio
  repeat' split
  all_goals simp (maxDischargeDepth := 60) +contextual [hl, hok]

@[simp] theorem endSeq_only (i : Nat) (hl : Part.regs ∈ L ∧ Part.flows ∈ L ∧ Part.chans ∈ L) (hok : Only L w0 s) : Only L w0 (endSeq i s) := by
  unfold endSeq
  simp (maxDischargeDepth := 60) +contextual [hl, hok]

@[simp] theorem addDecode_only (i : Nat) (w : Work) (deadline : Option Nat) (hl : Part.regs ∈ L ∧ Part.chans ∈ L ∧ Part.jobs ∈ L ∧ Part.nextJob ∈ L ∧ Part.chains ∈ L) (hok : Only L w0 s) : Only L w0 (addDecode i w deadline s) := by
  unfold addDecode
  dsimp only
  repeat' split
  all_goals simp (maxDischargeDepth := 60) +contextual [hl, hok]

@[simp] theorem endPic_only (i pos : Nat) (hl : Part.regs ∈ L ∧ Part.ctr ∈ L ∧ Part.chans ∈ L ∧ Part.jobs ∈ L ∧ Part.nextJob ∈ L ∧ Part.chains ∈ L) (hok : Only L w0 s) : Only L w0 (endPic i pos s) := by
  unfold endPic
  dsimp only
  repeat' split
  all_goals simp (maxDischargeDepth := 60) +contextual [hl, hok]

@[simp] theorem doubtAll_only (i : Nat) (hl : Part.regs ∈ L ∧ Part.chans ∈ L) (hok : Only L w0 s) : Only L w0 (doubtAll i s) := by
  unfold doubtAll
  simp (maxDischargeDepth := 60) +contextual [hl, hok]

@[simp] theorem emptySlots_only (i : Nat) (hl : Part.regs ∈ L ∧ Part.chans ∈ L) (hok : Only L w0 s) : Only L w0 (emptySlots i s) := by
  unfold emptySlots
  simp (maxDischargeDepth := 60) +contextual [hl, hok]

@[simp] theorem losePic_only (i : Nat) (hl : Part.regs ∈ L ∧ Part.flows ∈ L ∧ Part.chans ∈ L) (hok : Only L w0 s) : Only L w0 (losePic i s) := by
  unfold losePic
  dsimp only
  repeat' split
  all_goals simp (maxDischargeDepth := 60) +contextual [hl, hok]

@[simp] theorem toMarker_only (i : Nat) (far : List Byte) (hl : Part.regs ∈ L ∧ Part.ctr ∈ L ∧ Part.log ∈ L ∧ Part.logLost ∈ L ∧ Part.pins ∈ L ∧ Part.due ∈ L ∧ Part.chans ∈ L) (hok : Only L w0 s) : Only L w0 (toMarker i far s).2 := by
  unfold toMarker
  dsimp only
  repeat' split
  all_goals simp (maxDischargeDepth := 60) +contextual [hl, hok]

@[simp] theorem onSegment_only (handle : Word) (far : List Byte) (codes : Nat → Bool) (take : Nat → List Byte → State → State) (ok_take : ∀ x0 x1 u, Only L w0 u → Only L w0 (take x0 x1 u)) (hl : Part.regs ∈ L ∧ Part.ctr ∈ L ∧ Part.log ∈ L ∧ Part.logLost ∈ L ∧ Part.pins ∈ L ∧ Part.due ∈ L ∧ Part.chans ∈ L) (hok : Only L w0 s) : Only L w0 (onSegment handle far codes take s) := by
  unfold onSegment
  dsimp only
  repeat' split
  all_goals simp (maxDischargeDepth := 60) +contextual [hl, hok, ok_take]

@[simp] theorem leave_only (i n : Nat) (after : Bool) (hl : Part.regs ∈ L ∧ Part.chans ∈ L) (hok : Only L w0 s) : Only L w0 (leave i n after s) := by
  unfold leave
  simp (maxDischargeDepth := 60) +contextual [hl, hok]

@[simp] theorem skipSegment_only (i : Nat) (hl : Part.regs ∈ L ∧ Part.chans ∈ L) (hok : Only L w0 s) : Only L w0 (skipSegment i s) := by
  unfold skipSegment
  simp (maxDischargeDepth := 60) +contextual [hl, hok]

@[simp] theorem leaveBad_only (i : Nat) (x : Content) (hl : Part.regs ∈ L ∧ Part.chans ∈ L) (hok : Only L w0 s) : Only L w0 (leaveBad i x s) := by
  unfold leaveBad
  simp (maxDischargeDepth := 60) +contextual [hl, hok]

@[simp] theorem takeSeq_only (i : Nat) (l : List Byte) (hl : Part.regs ∈ L ∧ Part.ctr ∈ L ∧ Part.log ∈ L ∧ Part.logLost ∈ L ∧ Part.pins ∈ L ∧ Part.flows ∈ L ∧ Part.due ∈ L ∧ Part.chans ∈ L ∧ Part.jobs ∈ L ∧ Part.nextJob ∈ L ∧ Part.chains ∈ L) (hok : Only L w0 s) : Only L w0 (takeSeq i l s) := by
  unfold takeSeq
  simp (maxDischargeDepth := 60) only [and_self, true_and, and_true, true_or, or_true, Only.ite, Only.mk_of, Only.foldl, implies_true, modDec_only, streamEvent_only, endSeq_only, endPic_only, leave_only, leaveBad_only, hl, hok]

@[simp] theorem beginDec_only (i : Nat) (h : List Byte) (hl : Part.regs ∈ L ∧ Part.ctr ∈ L ∧ Part.log ∈ L ∧ Part.logLost ∈ L ∧ Part.pins ∈ L ∧ Part.flows ∈ L ∧ Part.chans ∈ L ∧ Part.jobs ∈ L ∧ Part.nextJob ∈ L ∧ Part.chains ∈ L) (hok : Only L w0 s) : Only L w0 (beginDec i h s) := by
  unfold beginDec
  repeat' first
    | (try lift_lets
       intro x
       first
         | (have hx : Only L w0 x := by
              simp only [and_self, true_and, and_true, true_or, or_true, x]
              repeat' split
              all_goals simp (maxDischargeDepth := 60) +contextual [*]
            try clear_value x)
         | (have hq : State := x; clear hq)
         | clear_value x
         | skip)
    | split
  all_goals simp (maxDischargeDepth := 60) +contextual [*]

@[simp] theorem takePic_only (i : Nat) (l : List Byte) (hl : Part.regs ∈ L ∧ Part.ctr ∈ L ∧ Part.log ∈ L ∧ Part.logLost ∈ L ∧ Part.pins ∈ L ∧ Part.flows ∈ L ∧ Part.due ∈ L ∧ Part.chans ∈ L ∧ Part.jobs ∈ L ∧ Part.nextJob ∈ L ∧ Part.chains ∈ L) (hok : Only L w0 s) : Only L w0 (takePic i l s) := by
  unfold takePic
  simp (maxDischargeDepth := 60) +contextual [hl, hok]

@[simp] theorem sliceCode_only (i code pos : Nat) (p : DecPic) (hl : Part.regs ∈ L ∧ Part.ctr ∈ L ∧ Part.log ∈ L ∧ Part.logLost ∈ L ∧ Part.pins ∈ L ∧ Part.due ∈ L ∧ Part.chans ∈ L) (hok : Only L w0 s) : Only L w0 (sliceCode i code pos p s) := by
  unfold sliceCode
  simp (maxDischargeDepth := 60) +contextual [hl, hok]

@[simp] theorem receiveSlice_only (i n code : Nat) (side main : List Byte) (pos : Nat) (p : DecPic) (hl : Part.regs ∈ L ∧ Part.ctr ∈ L ∧ Part.log ∈ L ∧ Part.logLost ∈ L ∧ Part.pins ∈ L ∧ Part.chans ∈ L ∧ Part.jobs ∈ L ∧ Part.nextJob ∈ L ∧ Part.chains ∈ L) (hok : Only L w0 s) : Only L w0 (receiveSlice i n code side main pos p s) := by
  unfold receiveSlice
  simp (maxDischargeDepth := 60) +contextual [hl, hok]

@[simp] theorem takeSlc_only (i : Nat) (l : List Byte) (hl : Part.regs ∈ L ∧ Part.ctr ∈ L ∧ Part.log ∈ L ∧ Part.logLost ∈ L ∧ Part.pins ∈ L ∧ Part.due ∈ L ∧ Part.chans ∈ L ∧ Part.jobs ∈ L ∧ Part.nextJob ∈ L ∧ Part.chains ∈ L) (hok : Only L w0 s) : Only L w0 (takeSlc i l s) := by
  unfold takeSlc
  dsimp only
  repeat' split
  all_goals simp (maxDischargeDepth := 60) +contextual [hl, hok]

@[simp] theorem addAudio_only (n : Nat) (a : AudIn) (pts : Nat) (codes : List Nat) (deadline : Option Nat) (hl : Part.regs ∈ L ∧ Part.ctr ∈ L ∧ Part.log ∈ L ∧ Part.logLost ∈ L ∧ Part.pins ∈ L ∧ Part.flows ∈ L ∧ Part.chans ∈ L ∧ Part.jobs ∈ L ∧ Part.nextJob ∈ L ∧ Part.chains ∈ L) (hok : Only L w0 s) : Only L w0 (addAudio n a pts codes deadline s) := by
  unfold addAudio
  simp (maxDischargeDepth := 60) +contextual [hl, hok]

@[simp] theorem audArrive_only (n : Nat) (seq : List Byte) (x : Content) (code : Nat) (deadline : Option Nat) (hl : Part.regs ∈ L ∧ Part.ctr ∈ L ∧ Part.log ∈ L ∧ Part.logLost ∈ L ∧ Part.pins ∈ L ∧ Part.flows ∈ L ∧ Part.chans ∈ L ∧ Part.jobs ∈ L ∧ Part.nextJob ∈ L ∧ Part.chains ∈ L) (hok : Only L w0 s) : Only L w0 (audArrive n seq x code deadline s) := by
  unfold audArrive
  simp (maxDischargeDepth := 60) +contextual [hl, hok]

@[simp] theorem takeAud_only (i : Nat) (l : List Byte) (hl : Part.regs ∈ L ∧ Part.ctr ∈ L ∧ Part.log ∈ L ∧ Part.logLost ∈ L ∧ Part.pins ∈ L ∧ Part.flows ∈ L ∧ Part.due ∈ L ∧ Part.chans ∈ L ∧ Part.jobs ∈ L ∧ Part.nextJob ∈ L ∧ Part.chains ∈ L) (hok : Only L w0 s) : Only L w0 (takeAud i l s) := by
  unfold takeAud
  repeat' split
  all_goals simp (maxDischargeDepth := 60) +contextual [hl, hok]

@[simp] theorem takeAdp_only (i : Nat) (l : List Byte) (hl : Part.regs ∈ L ∧ Part.ctr ∈ L ∧ Part.log ∈ L ∧ Part.logLost ∈ L ∧ Part.pins ∈ L ∧ Part.due ∈ L ∧ Part.chans ∈ L) (hok : Only L w0 s) : Only L w0 (takeAdp i l s) := by
  unfold takeAdp
  simp (maxDischargeDepth := 60) +contextual [hl, hok]

@[simp] theorem takeEnd_only (i : Nat) (x1 : List Byte) (hl : Part.regs ∈ L ∧ Part.ctr ∈ L ∧ Part.flows ∈ L ∧ Part.chans ∈ L ∧ Part.jobs ∈ L ∧ Part.nextJob ∈ L ∧ Part.chains ∈ L) (hok : Only L w0 s) : Only L w0 (takeEnd i x1 s) := by
  unfold takeEnd
  simp (maxDischargeDepth := 60) +contextual [hl, hok]

/-! Machine/Store.lean -/

@[simp] theorem commitStore_only (n : Nat) (p : PicStore) (objs : List (List Byte)) (hl : Part.free ∈ L ∧ Part.regs ∈ L ∧ Part.ctr ∈ L ∧ Part.mem ∈ L ∧ Part.out ∈ L ∧ Part.log ∈ L ∧ Part.logLost ∈ L ∧ Part.pins ∈ L ∧ Part.ports ∈ L ∧ Part.qps ∈ L ∧ Part.flows ∈ L ∧ Part.pair ∈ L ∧ Part.queues ∈ L ∧ Part.rings ∈ L ∧ Part.due ∈ L ∧ Part.chans ∈ L ∧ Part.opens ∈ L ∧ Part.jobs ∈ L ∧ Part.fetches ∈ L ∧ Part.chains ∈ L ∧ Part.stores ∈ L ∧ Part.lives ∈ L) (hok : Only L w0 s) : Only L w0 (commitStore n p objs s) := by
  unfold commitStore
  repeat' split
  all_goals simp (maxDischargeDepth := 60) +contextual [hl, hok]

@[simp] theorem storeRetry_only (n : Nat) (p : PicStore) (pos : Nat) (hl : Part.free ∈ L ∧ Part.regs ∈ L ∧ Part.ctr ∈ L ∧ Part.mem ∈ L ∧ Part.out ∈ L ∧ Part.log ∈ L ∧ Part.logLost ∈ L ∧ Part.pins ∈ L ∧ Part.ports ∈ L ∧ Part.qps ∈ L ∧ Part.flows ∈ L ∧ Part.pair ∈ L ∧ Part.queues ∈ L ∧ Part.rings ∈ L ∧ Part.due ∈ L ∧ Part.chans ∈ L ∧ Part.opens ∈ L ∧ Part.jobs ∈ L ∧ Part.fetches ∈ L ∧ Part.chains ∈ L ∧ Part.stores ∈ L ∧ Part.lives ∈ L) (hok : Only L w0 s) : Only L w0 (storeRetry n p pos s) := by
  unfold storeRetry
  simp (maxDischargeDepth := 60) +contextual [hl, hok]

@[simp] theorem storeRow_only (n : Nat) (mismatch : Bool) (hl : Part.free ∈ L ∧ Part.regs ∈ L ∧ Part.ctr ∈ L ∧ Part.mem ∈ L ∧ Part.out ∈ L ∧ Part.log ∈ L ∧ Part.logLost ∈ L ∧ Part.pins ∈ L ∧ Part.ports ∈ L ∧ Part.qps ∈ L ∧ Part.flows ∈ L ∧ Part.pair ∈ L ∧ Part.queues ∈ L ∧ Part.rings ∈ L ∧ Part.due ∈ L ∧ Part.chans ∈ L ∧ Part.opens ∈ L ∧ Part.jobs ∈ L ∧ Part.fetches ∈ L ∧ Part.chains ∈ L ∧ Part.stores ∈ L ∧ Part.lives ∈ L) (hok : Only L w0 s) : Only L w0 (storeRow n mismatch s) := by
  unfold storeRow
  repeat' split
  all_goals simp (maxDischargeDepth := 60) +contextual [hl, hok]

@[simp] theorem compEnd_only (id : Nat) (hl : Part.free ∈ L ∧ Part.regs ∈ L ∧ Part.ctr ∈ L ∧ Part.mem ∈ L ∧ Part.out ∈ L ∧ Part.log ∈ L ∧ Part.logLost ∈ L ∧ Part.pins ∈ L ∧ Part.ports ∈ L ∧ Part.qps ∈ L ∧ Part.flows ∈ L ∧ Part.pair ∈ L ∧ Part.queues ∈ L ∧ Part.rings ∈ L ∧ Part.due ∈ L ∧ Part.chans ∈ L ∧ Part.opens ∈ L ∧ Part.jobs ∈ L ∧ Part.fetches ∈ L ∧ Part.chains ∈ L ∧ Part.stores ∈ L ∧ Part.lives ∈ L) (hok : Only L w0 s) : Only L w0 (compEnd id s) := by
  unfold compEnd
  repeat' split
  all_goals simp (maxDischargeDepth := 60) +contextual [hl, hok]

theorem compBad_only {id i va len : Nat} {write : Bool} {t : State} (h : compBad id i va len write s = some t) (hl : Part.regs ∈ L ∧ Part.ctr ∈ L ∧ Part.jobs ∈ L) (hok : Only L w0 s) : Only L w0 t := by
  unfold compBad at h
  repeat' split at h
  all_goals try cases h
  all_goals simp (maxDischargeDepth := 60) [hl, hok]

theorem compBad_orElse_only {id i va len va2 len2 : Nat} {w w2 : Bool} {t : State} (h : ((compBad id i va len w s).orElse fun _ => compBad id i va2 len2 w2 s) = some t) (hl : Part.regs ∈ L ∧ Part.ctr ∈ L ∧ Part.jobs ∈ L) (hok : Only L w0 s) : Only L w0 t := by
  cases hc : compBad id i va len w s with
  | none => exact compBad_only (by simpa [hc] using h) hl hok
  | some u => exact (by simpa [hc] using h : u = t) ▸ compBad_only hc hl hok

@[simp] theorem zeroHeads_only (i : Nat) (l : List Nat) (hl : Part.regs ∈ L ∧ Part.ctr ∈ L ∧ Part.mem ∈ L ∧ Part.out ∈ L ∧ Part.ports ∈ L ∧ Part.qps ∈ L ∧ Part.rings ∈ L ∧ Part.jobs ∈ L ∧ Part.fetches ∈ L) (hok : Only L w0 s) : Only L w0 (zeroHeads i l s) := by
  unfold zeroHeads
  simp (maxDischargeDepth := 60) +contextual [hl, hok]

@[simp] theorem compFail_only (id code pos handle : Nat) (host : Bool) (hl : Part.free ∈ L ∧ Part.regs ∈ L ∧ Part.ctr ∈ L ∧ Part.jobs ∈ L) (hok : Only L w0 s) : Only L w0 (compFail id code pos handle host s) := by
  unfold compFail
  simp (maxDischargeDepth := 60) +contextual [hl, hok]

@[simp] theorem compPut_only (i : Nat) (a : CompArgs) (x : CompSt) (l : List Byte) (hl : Part.regs ∈ L ∧ Part.ctr ∈ L ∧ Part.mem ∈ L ∧ Part.out ∈ L ∧ Part.ports ∈ L ∧ Part.qps ∈ L ∧ Part.rings ∈ L ∧ Part.jobs ∈ L ∧ Part.fetches ∈ L) (hok : Only L w0 s) : Only L w0 (compPut i a x l s) := by
  unfold compPut
  simp (maxDischargeDepth := 60) +contextual [hl, hok]

@[simp] theorem compStore_only (id : Nat) (j : Job) (a : CompArgs) (mismatch : Bool) (far : List Byte) (hl : Part.free ∈ L ∧ Part.regs ∈ L ∧ Part.ctr ∈ L ∧ Part.mem ∈ L ∧ Part.out ∈ L ∧ Part.log ∈ L ∧ Part.logLost ∈ L ∧ Part.pins ∈ L ∧ Part.ports ∈ L ∧ Part.qps ∈ L ∧ Part.flows ∈ L ∧ Part.pair ∈ L ∧ Part.queues ∈ L ∧ Part.rings ∈ L ∧ Part.due ∈ L ∧ Part.chans ∈ L ∧ Part.opens ∈ L ∧ Part.jobs ∈ L ∧ Part.fetches ∈ L ∧ Part.chains ∈ L ∧ Part.stores ∈ L ∧ Part.lives ∈ L) (hok : Only L w0 s) : Only L w0 (compStore id j a mismatch far s) := by
  unfold compStore
  dsimp only
  repeat' split
  all_goals first | simp (maxDischargeDepth := 60) [*] | (first | (simp (maxDischargeDepth := 60) [*]; done) | (exact compBad_only ‹_› (by simp [hl]) (by simp (maxDischargeDepth := 60) [*])))

@[simp] theorem compOut_only (id i : Nat) (a : CompArgs) (x : CompSt) (body : Nat) (l : List Byte) (hl : Part.free ∈ L ∧ Part.regs ∈ L ∧ Part.ctr ∈ L ∧ Part.mem ∈ L ∧ Part.out ∈ L ∧ Part.log ∈ L ∧ Part.logLost ∈ L ∧ Part.pins ∈ L ∧ Part.ports ∈ L ∧ Part.qps ∈ L ∧ Part.flows ∈ L ∧ Part.pair ∈ L ∧ Part.queues ∈ L ∧ Part.rings ∈ L ∧ Part.due ∈ L ∧ Part.chans ∈ L ∧ Part.opens ∈ L ∧ Part.jobs ∈ L ∧ Part.fetches ∈ L ∧ Part.chains ∈ L ∧ Part.stores ∈ L ∧ Part.lives ∈ L) (hok : Only L w0 s) : Only L w0 (compOut id i a x body l s) := by
  unfold compOut
  dsimp only
  repeat' split
  all_goals first | simp (maxDischargeDepth := 60) [*] | (first | (simp (maxDischargeDepth := 60) [*]; done) | (exact compBad_only ‹_› (by simp [hl]) (by simp (maxDischargeDepth := 60) [*])))

@[simp] theorem compSpoil_only (id i : Nat) (a : CompArgs) (x : CompSt) (n : Nat) (e : FscFail) (hl : Part.free ∈ L ∧ Part.regs ∈ L ∧ Part.ctr ∈ L ∧ Part.mem ∈ L ∧ Part.out ∈ L ∧ Part.ports ∈ L ∧ Part.qps ∈ L ∧ Part.rings ∈ L ∧ Part.jobs ∈ L ∧ Part.fetches ∈ L) (hok : Only L w0 s) : Only L w0 (compSpoil id i a x n e s) := by
  unfold compSpoil
  simp (maxDischargeDepth := 60) +contextual [hl, hok]

@[simp] theorem compBody_only (id i : Nat) (a : CompArgs) (x : CompSt) (hd far : List Byte) (hl : Part.free ∈ L ∧ Part.regs ∈ L ∧ Part.ctr ∈ L ∧ Part.mem ∈ L ∧ Part.out ∈ L ∧ Part.log ∈ L ∧ Part.logLost ∈ L ∧ Part.pins ∈ L ∧ Part.ports ∈ L ∧ Part.qps ∈ L ∧ Part.flows ∈ L ∧ Part.pair ∈ L ∧ Part.queues ∈ L ∧ Part.rings ∈ L ∧ Part.due ∈ L ∧ Part.chans ∈ L ∧ Part.opens ∈ L ∧ Part.jobs ∈ L ∧ Part.fetches ∈ L ∧ Part.chains ∈ L ∧ Part.stores ∈ L ∧ Part.lives ∈ L) (hok : Only L w0 s) : Only L w0 (compBody id i a x hd far s) := by
  unfold compBody
  repeat' first
    | (try lift_lets
       intro x
       first
         | (have hx : Only L w0 x := by
              simp only [and_self, true_and, and_true, true_or, or_true, x]
              repeat' split
              all_goals first | simp (maxDischargeDepth := 60) [*] | (first | (simp (maxDischargeDepth := 60) [*]; done) | (exact compBad_orElse_only ‹_› (by simp [hl]) (by simp (maxDischargeDepth := 60) [*])))
            try clear_value x)
         | (have hq : State := x; clear hq)
         | clear_value x
         | skip)
    | split
  all_goals first | simp (maxDischargeDepth := 60) [*] | (first | (simp (maxDischargeDepth := 60) [*]; done) | (exact compBad_orElse_only ‹_› (by simp [hl]) (by simp (maxDischargeDepth := 60) [*])))

@[simp] theorem compLoad_only (id : Nat) (j : Job) (a : CompArgs) (far : List Byte) (hl : Part.free ∈ L ∧ Part.regs ∈ L ∧ Part.ctr ∈ L ∧ Part.mem ∈ L ∧ Part.out ∈ L ∧ Part.log ∈ L ∧ Part.logLost ∈ L ∧ Part.pins ∈ L ∧ Part.ports ∈ L ∧ Part.qps ∈ L ∧ Part.flows ∈ L ∧ Part.pair ∈ L ∧ Part.queues ∈ L ∧ Part.rings ∈ L ∧ Part.due ∈ L ∧ Part.chans ∈ L ∧ Part.opens ∈ L ∧ Part.jobs ∈ L ∧ Part.fetches ∈ L ∧ Part.chains ∈ L ∧ Part.stores ∈ L ∧ Part.lives ∈ L) (hok : Only L w0 s) : Only L w0 (compLoad id j a far s) := by
  unfold compLoad
  dsimp only
  repeat' split
  all_goals first | simp (maxDischargeDepth := 60) [*] | (first | (simp (maxDischargeDepth := 60) [*]; done) | (exact compBad_only ‹_› (by simp [hl]) (by simp (maxDischargeDepth := 60) [*])))

@[simp] theorem fscStore_only (job : Option Nat) (n : Nat) (mismatch : Bool) (far : List Byte) (hl : Part.free ∈ L ∧ Part.regs ∈ L ∧ Part.ctr ∈ L ∧ Part.mem ∈ L ∧ Part.out ∈ L ∧ Part.log ∈ L ∧ Part.logLost ∈ L ∧ Part.pins ∈ L ∧ Part.ports ∈ L ∧ Part.qps ∈ L ∧ Part.flows ∈ L ∧ Part.pair ∈ L ∧ Part.queues ∈ L ∧ Part.rings ∈ L ∧ Part.due ∈ L ∧ Part.chans ∈ L ∧ Part.opens ∈ L ∧ Part.jobs ∈ L ∧ Part.fetches ∈ L ∧ Part.chains ∈ L ∧ Part.stores ∈ L ∧ Part.lives ∈ L) (hok : Only L w0 s) : Only L w0 (fscStore job n mismatch far s) := by
  unfold fscStore
  repeat' split
  all_goals simp (maxDischargeDepth := 60) +contextual [hl, hok]

end Sys2Proof.Machine
end

