-- ==== Sys2Proof/Laws/OnlyEnds.lean ====
section
/-! SUPPORT. What each operation can change (Laws/Only.lean): jobs, stops, media, the clock. One lemma for each operation. -/

namespace Sys2Proof.Machine

variable {w0 s : State} {L : List Part}

/-! Machine/Jobs.lean -/

@[simp] theorem clearStore_only (p : Nat) (hl : Part.mem ∈ L) (hok : Only L w0 s) : Only L w0 (clearStore p s) := by
  unfold clearStore
  simp (maxDischargeDepth := 60) +contextual [hl, hok]

@[simp] theorem writeBlock_only (j : Job) (e : Nat) (hl : Part.free ∈ L) (hok : Only L w0 s) : Only L w0 (writeBlock j e s).2 := by
  unfold writeBlock
  repeat' split
  all_goals simp (maxDischargeDepth := 60) +contextual [hl, hok]

@[simp] theorem traceStart_only (p seq t : Nat) (hl : Part.regs ∈ L ∧ Part.ctr ∈ L ∧ Part.traces ∈ L) (hok : Only L w0 s) : Only L w0 (traceStart p seq t s) := by
  unfold traceStart
  simp (maxDischargeDepth := 60) +contextual [hl, hok]

@[simp] theorem restorePlayer_only (p : Nat) (k : Player) (v : Save) (hl : Part.free ∈ L ∧ Part.ctr ∈ L ∧ Part.mem ∈ L ∧ Part.players ∈ L) (hok : Only L w0 s) : Only L w0 (restorePlayer p k v s) := by
  unfold restorePlayer
  simp (maxDischargeDepth := 60) +contextual [hl, hok]

@[simp] theorem startPlayer_only (id : Nat) (j : Job) (e size p rank : Nat) (hl : Part.free ∈ L ∧ Part.regs ∈ L ∧ Part.ctr ∈ L ∧ Part.mem ∈ L ∧ Part.traces ∈ L ∧ Part.players ∈ L ∧ Part.shds ∈ L) (hok : Only L w0 s) : Only L w0 (startPlayer id j e size p rank s) := by
  unfold startPlayer
  repeat' split
  all_goals simp (maxDischargeDepth := 60) +contextual [hl, hok]

@[simp] theorem startSlice_only (id i n k : Nat) (pkg : Package) (hl : Part.regs ∈ L ∧ Part.ctr ∈ L ∧ Part.chans ∈ L ∧ Part.jobs ∈ L) (hok : Only L w0 s) : Only L w0 (startSlice id i n k pkg s) := by
  unfold startSlice
  repeat' split
  all_goals simp (maxDischargeDepth := 60) +contextual [hl, hok]

@[simp] theorem startTune_only (id i n : Nat) (pkg : Package) (t : Tuning) (hl : Part.jobs ∈ L) (hok : Only L w0 s) : Only L w0 (startTune id i n pkg t s) := by
  unfold startTune
  simp (maxDischargeDepth := 60) +contextual [hl, hok]

@[simp] theorem beginWork_only (id : Nat) (j : Job) (hl : Part.regs ∈ L ∧ Part.ctr ∈ L ∧ Part.chans ∈ L ∧ Part.jobs ∈ L) (hok : Only L w0 s) : Only L w0 (beginWork id j s) := by
  unfold beginWork
  repeat' split
  all_goals simp (maxDischargeDepth := 60) +contextual [hl, hok]

@[simp] theorem startJob_only (id : Nat) (j : Job) (hl : Part.free ∈ L ∧ Part.regs ∈ L ∧ Part.ctr ∈ L ∧ Part.banks ∈ L ∧ Part.mem ∈ L ∧ Part.log ∈ L ∧ Part.logLost ∈ L ∧ Part.pins ∈ L ∧ Part.traces ∈ L ∧ Part.chans ∈ L ∧ Part.jobs ∈ L ∧ Part.players ∈ L ∧ Part.shds ∈ L) (hok : Only L w0 s) : Only L w0 (startJob id j s) := by
  unfold startJob
  repeat' split
  all_goals simp (maxDischargeDepth := 60) +contextual [hl, hok]

@[simp] theorem haltSize_only (i : Nat) (hl : Part.regs ∈ L ∧ Part.chans ∈ L) (hok : Only L w0 s) : Only L w0 (haltSize i s) := by
  unfold haltSize
  simp (maxDischargeDepth := 60) +contextual [hl, hok]

@[simp] theorem refuseEmpty_only (id : Nat) (j : Job) (hl : Part.regs ∈ L ∧ Part.ctr ∈ L ∧ Part.pins ∈ L ∧ Part.chans ∈ L ∧ Part.jobs ∈ L) (hok : Only L w0 s) : Only L w0 (refuseEmpty id j s) := by
  unfold refuseEmpty
  repeat' split
  all_goals simp (maxDischargeDepth := 60) +contextual [hl, hok]

@[simp] theorem jobDispatch_only (id : Nat) (hl : Part.free ∈ L ∧ Part.regs ∈ L ∧ Part.ctr ∈ L ∧ Part.banks ∈ L ∧ Part.mem ∈ L ∧ Part.log ∈ L ∧ Part.logLost ∈ L ∧ Part.pins ∈ L ∧ Part.traces ∈ L ∧ Part.chans ∈ L ∧ Part.jobs ∈ L ∧ Part.players ∈ L ∧ Part.shds ∈ L) (hok : Only L w0 s) : Only L w0 (jobDispatch id s) := by
  unfold jobDispatch
  repeat' split
  all_goals simp (maxDischargeDepth := 60) +contextual [hl, hok]

@[simp] theorem freePlayers_only (ps : List Nat) (hl : Part.regs ∈ L ∧ Part.ctr ∈ L ∧ Part.players ∈ L) (hok : Only L w0 s) : Only L w0 (freePlayers ps s) := by
  unfold freePlayers
  simp (maxDischargeDepth := 60) +contextual [hl, hok]

@[simp] theorem savePlayer_only (tensor : Bool) (base : Nat) (x : Nat × Nat) (hl : Part.free ∈ L ∧ Part.regs ∈ L ∧ Part.ctr ∈ L ∧ Part.mem ∈ L ∧ Part.out ∈ L ∧ Part.ports ∈ L ∧ Part.qps ∈ L ∧ Part.rings ∈ L ∧ Part.jobs ∈ L ∧ Part.fetches ∈ L) (hok : Only L w0 s) : Only L w0 (savePlayer tensor base s x) := by
  unfold savePlayer
  simp (maxDischargeDepth := 60) +contextual [hl, hok]

@[simp] theorem yieldPoint_only (id : Nat) (j : Job) (hl : Part.free ∈ L ∧ Part.regs ∈ L ∧ Part.ctr ∈ L ∧ Part.mem ∈ L ∧ Part.out ∈ L ∧ Part.ports ∈ L ∧ Part.qps ∈ L ∧ Part.rings ∈ L ∧ Part.chans ∈ L ∧ Part.jobs ∈ L ∧ Part.fetches ∈ L ∧ Part.players ∈ L ∧ Part.streams ∈ L) (hok : Only L w0 s) : Only L w0 (yieldPoint id j s) := by
  unfold yieldPoint
  dsimp only
  repeat' split
  all_goals simp (maxDischargeDepth := 60) +contextual [hl, hok]

@[simp] theorem jobFinish_only (id : Nat) (j : Job) (hl : Part.free ∈ L ∧ Part.regs ∈ L ∧ Part.ctr ∈ L ∧ Part.mem ∈ L ∧ Part.out ∈ L ∧ Part.log ∈ L ∧ Part.logLost ∈ L ∧ Part.pins ∈ L ∧ Part.ports ∈ L ∧ Part.qps ∈ L ∧ Part.flows ∈ L ∧ Part.pair ∈ L ∧ Part.queues ∈ L ∧ Part.rings ∈ L ∧ Part.due ∈ L ∧ Part.chans ∈ L ∧ Part.opens ∈ L ∧ Part.jobs ∈ L ∧ Part.fetches ∈ L ∧ Part.players ∈ L ∧ Part.streams ∈ L ∧ Part.chains ∈ L ∧ Part.stores ∈ L ∧ Part.lives ∈ L) (hok : Only L w0 s) : Only L w0 (jobFinish id j s) := by
  unfold jobFinish
  dsimp only
  repeat' split
  all_goals simp (maxDischargeDepth := 60) [*]

/-! Machine/Stops.lean -/

@[simp] theorem suspectPlayer_only (p thread id : Nat) (j : Job) (rec_ : List (Fld × Nat)) (hl : Part.free ∈ L ∧ Part.regs ∈ L ∧ Part.ctr ∈ L ∧ Part.mem ∈ L ∧ Part.log ∈ L ∧ Part.logLost ∈ L ∧ Part.pins ∈ L ∧ Part.traces ∈ L ∧ Part.due ∈ L ∧ Part.chans ∈ L ∧ Part.jobs ∈ L) (hok : Only L w0 s) : Only L w0 (suspectPlayer p thread id j rec_ s) := by
  unfold suspectPlayer
  simp (maxDischargeDepth := 60) +contextual [hl, hok]

@[simp] theorem upset_only (p kind cls place id : Nat) (j : Job) (hl : Part.free ∈ L ∧ Part.regs ∈ L ∧ Part.ctr ∈ L ∧ Part.mem ∈ L ∧ Part.log ∈ L ∧ Part.logLost ∈ L ∧ Part.pins ∈ L ∧ Part.traces ∈ L ∧ Part.due ∈ L ∧ Part.chans ∈ L ∧ Part.jobs ∈ L) (hok : Only L w0 s) : Only L w0 (upset p kind cls place id j s) := by
  unfold upset
  dsimp only
  repeat' split
  all_goals simp (maxDischargeDepth := 60) +contextual [hl, hok]

@[simp] theorem stopPlayer_only (p : Nat) (hl : Part.regs ∈ L ∧ Part.ctr ∈ L ∧ Part.players ∈ L) (hok : Only L w0 s) : Only L w0 (stopPlayer p s) := by
  unfold stopPlayer
  simp (maxDischargeDepth := 60) +contextual [hl, hok]

@[simp] theorem stopStreams_only (id : Nat) (j : Job) (hl : Part.regs ∈ L ∧ Part.due ∈ L ∧ Part.chans ∈ L ∧ Part.streams ∈ L) (hok : Only L w0 s) : Only L w0 (stopStreams id j s) := by
  unfold stopStreams
  simp (maxDischargeDepth := 60) +contextual [hl, hok]

@[simp] theorem stopRelays_only (id : Nat) (hl : Part.relays ∈ L) (hok : Only L w0 s) : Only L w0 (stopRelays id s) := by
  unfold stopRelays
  simp (maxDischargeDepth := 60) +contextual [hl, hok]

@[simp] theorem stopCoder_only (id : Nat) (j : Job) (hl : Part.ctr ∈ L ∧ Part.jobs ∈ L ∧ Part.slice ∈ L) (hok : Only L w0 s) : Only L w0 (stopCoder id j s) := by
  unfold stopCoder
  simp (maxDischargeDepth := 60) +contextual [hl, hok]

@[simp] theorem stopBegin_only (id : Nat) (j : Job) (hl : Part.regs ∈ L ∧ Part.ctr ∈ L ∧ Part.due ∈ L ∧ Part.chans ∈ L ∧ Part.jobs ∈ L ∧ Part.players ∈ L ∧ Part.streams ∈ L ∧ Part.relays ∈ L ∧ Part.slice ∈ L) (hok : Only L w0 s) : Only L w0 (stopBegin id j s) := by
  unfold stopBegin
  simp (maxDischargeDepth := 60) +contextual [hl, hok]

@[simp] theorem restoreFrom_only (i n k : Nat) (j : Job) (old : Enc) (p : EncPic) (x : EncSlice) (hl : Part.regs ∈ L ∧ Part.chans ∈ L) (hok : Only L w0 s) : Only L w0 (restoreFrom i n k j old p x s) := by
  unfold restoreFrom
  simp (maxDischargeDepth := 60) only [and_self, true_and, and_true, true_or, or_true, Only.ite, Only.mk_of, Only.foldl, implies_true, done_only, holdInput_only, modEnc_only, modPic_only, uncharge_only, hl, hok]

@[simp] theorem restoreSlice_only (i n k : Nat) (j : Job) (hl : Part.regs ∈ L ∧ Part.ctr ∈ L ∧ Part.chans ∈ L) (hok : Only L w0 s) : Only L w0 (restoreSlice i n k j s) := by
  unfold restoreSlice
  repeat' split
  all_goals simp (maxDischargeDepth := 60) +contextual [hl, hok]

@[simp] theorem cancelHist_only (j : Job) (hl : Part.regs ∈ L ∧ Part.chans ∈ L) (hok : Only L w0 s) : Only L w0 (cancelHist j s) := by
  unfold cancelHist
  simp (maxDischargeDepth := 60) +contextual [hl, hok]

@[simp] theorem cancelReh_only (j : Job) (hl : Part.regs ∈ L ∧ Part.chans ∈ L) (hok : Only L w0 s) : Only L w0 (cancelReh j s) := by
  unfold cancelReh
  repeat' split
  all_goals simp (maxDischargeDepth := 60) +contextual [hl, hok]

@[simp] theorem restoreState_only (j : Job) (hl : Part.regs ∈ L ∧ Part.ctr ∈ L ∧ Part.chans ∈ L) (hok : Only L w0 s) : Only L w0 (restoreState j s) := by
  unfold restoreState
  repeat' split
  all_goals simp (maxDischargeDepth := 60) +contextual [hl, hok]

@[simp] theorem resetChain_only (id : Nat) (hl : Part.regs ∈ L ∧ Part.chains ∈ L) (hok : Only L w0 s) : Only L w0 (resetChain id s) := by
  unfold resetChain
  simp (maxDischargeDepth := 60) +contextual [hl, hok]

@[simp] theorem retryJob_only (id code : Nat) (j : Job) (hl : Part.regs ∈ L ∧ Part.ctr ∈ L ∧ Part.log ∈ L ∧ Part.logLost ∈ L ∧ Part.pins ∈ L ∧ Part.due ∈ L ∧ Part.chans ∈ L ∧ Part.jobs ∈ L ∧ Part.chains ∈ L) (hok : Only L w0 s) : Only L w0 (retryJob id code j s) := by
  unfold retryJob
  simp (maxDischargeDepth := 60) +contextual [hl, hok]

@[simp] theorem holdJob_only (id : Nat) (j : Job) (hl : Part.regs ∈ L ∧ Part.ctr ∈ L ∧ Part.chans ∈ L ∧ Part.jobs ∈ L ∧ Part.chains ∈ L) (hok : Only L w0 s) : Only L w0 (holdJob id j s) := by
  unfold holdJob
  simp (maxDischargeDepth := 60) +contextual [hl, hok]

@[simp] theorem releaseInputs_only (j : Job) (hl : Part.regs ∈ L ∧ Part.chans ∈ L) (hok : Only L w0 s) : Only L w0 (releaseInputs j s) := by
  unfold releaseInputs
  simp (maxDischargeDepth := 60) +contextual [hl, hok]

@[simp] theorem cancelPicture_only (i code retries : Nat) (hl : Part.regs ∈ L ∧ Part.ctr ∈ L ∧ Part.due ∈ L ∧ Part.chans ∈ L) (hok : Only L w0 s) : Only L w0 (cancelPicture i code retries s) := by
  unfold cancelPicture
  repeat' split
  all_goals simp (maxDischargeDepth := 60) +contextual [hl, hok]

@[simp] theorem concealJob_only (id code : Nat) (j : Job) (hl : Part.free ∈ L ∧ Part.regs ∈ L ∧ Part.ctr ∈ L ∧ Part.log ∈ L ∧ Part.logLost ∈ L ∧ Part.pins ∈ L ∧ Part.chans ∈ L ∧ Part.jobs ∈ L ∧ Part.stores ∈ L) (hok : Only L w0 s) : Only L w0 (concealJob id code j s) := by
  unfold concealJob
  repeat' split
  all_goals simp (maxDischargeDepth := 60) +contextual [hl, hok]

@[simp] theorem dropDecode_only (id code : Nat) (j : Job) (hl : Part.free ∈ L ∧ Part.regs ∈ L ∧ Part.ctr ∈ L ∧ Part.mem ∈ L ∧ Part.out ∈ L ∧ Part.log ∈ L ∧ Part.logLost ∈ L ∧ Part.pins ∈ L ∧ Part.ports ∈ L ∧ Part.qps ∈ L ∧ Part.flows ∈ L ∧ Part.pair ∈ L ∧ Part.queues ∈ L ∧ Part.rings ∈ L ∧ Part.due ∈ L ∧ Part.chans ∈ L ∧ Part.opens ∈ L ∧ Part.jobs ∈ L ∧ Part.fetches ∈ L ∧ Part.chains ∈ L ∧ Part.stores ∈ L ∧ Part.lives ∈ L) (hok : Only L w0 s) : Only L w0 (dropDecode id code j s) := by
  unfold dropDecode
  dsimp only
  repeat' split
  all_goals simp (maxDischargeDepth := 60) +contextual [hl, hok]

@[simp] theorem carryCode_only (i code : Nat) (hl : Part.regs ∈ L ∧ Part.chans ∈ L) (hok : Only L w0 s) : Only L w0 (carryCode i code s) := by
  unfold carryCode
  simp (maxDischargeDepth := 60) +contextual [hl, hok]

@[simp] theorem failUnit_only (id code : Nat) (j : Job) (goes : Bool) (hl : Part.free ∈ L ∧ Part.regs ∈ L ∧ Part.ctr ∈ L ∧ Part.mem ∈ L ∧ Part.out ∈ L ∧ Part.log ∈ L ∧ Part.logLost ∈ L ∧ Part.pins ∈ L ∧ Part.ports ∈ L ∧ Part.qps ∈ L ∧ Part.flows ∈ L ∧ Part.pair ∈ L ∧ Part.queues ∈ L ∧ Part.rings ∈ L ∧ Part.due ∈ L ∧ Part.chans ∈ L ∧ Part.opens ∈ L ∧ Part.jobs ∈ L ∧ Part.nextJob ∈ L ∧ Part.fetches ∈ L ∧ Part.chains ∈ L ∧ Part.stores ∈ L ∧ Part.lives ∈ L) (hok : Only L w0 s) : Only L w0 (failUnit id code j goes s) := by
  unfold failUnit
  dsimp only
  repeat' split
  all_goals simp (maxDischargeDepth := 60) +contextual [hl, hok]

@[simp] theorem stopEnd_only (id : Nat) (j : Job) (code : Nat) (hl : Part.free ∈ L ∧ Part.regs ∈ L ∧ Part.ctr ∈ L ∧ Part.mem ∈ L ∧ Part.out ∈ L ∧ Part.log ∈ L ∧ Part.logLost ∈ L ∧ Part.pins ∈ L ∧ Part.ports ∈ L ∧ Part.qps ∈ L ∧ Part.flows ∈ L ∧ Part.pair ∈ L ∧ Part.queues ∈ L ∧ Part.rings ∈ L ∧ Part.due ∈ L ∧ Part.chans ∈ L ∧ Part.opens ∈ L ∧ Part.jobs ∈ L ∧ Part.nextJob ∈ L ∧ Part.fetches ∈ L ∧ Part.players ∈ L ∧ Part.chains ∈ L ∧ Part.stores ∈ L ∧ Part.lives ∈ L) (hok : Only L w0 s) : Only L w0 (stopEnd id j code s) := by
  unfold stopEnd
  dsimp only
  repeat' split
  all_goals simp (maxDischargeDepth := 60) +contextual [hl, hok]

@[simp] theorem jobStop_only (id : Nat) (hl : Part.free ∈ L ∧ Part.regs ∈ L ∧ Part.ctr ∈ L ∧ Part.mem ∈ L ∧ Part.out ∈ L ∧ Part.log ∈ L ∧ Part.logLost ∈ L ∧ Part.pins ∈ L ∧ Part.ports ∈ L ∧ Part.qps ∈ L ∧ Part.flows ∈ L ∧ Part.pair ∈ L ∧ Part.queues ∈ L ∧ Part.rings ∈ L ∧ Part.due ∈ L ∧ Part.chans ∈ L ∧ Part.opens ∈ L ∧ Part.jobs ∈ L ∧ Part.nextJob ∈ L ∧ Part.fetches ∈ L ∧ Part.players ∈ L ∧ Part.streams ∈ L ∧ Part.chains ∈ L ∧ Part.relays ∈ L ∧ Part.stores ∈ L ∧ Part.slice ∈ L ∧ Part.lives ∈ L) (hok : Only L w0 s) : Only L w0 (jobStop id s) := by
  unfold jobStop
  repeat' split
  all_goals simp (maxDischargeDepth := 60) +contextual [hl, hok]

@[simp] theorem drainEnd_only (sh : Nat) (hl : Part.regs ∈ L ∧ Part.ctr ∈ L ∧ Part.streams ∈ L) (hok : Only L w0 s) : Only L w0 (drainEnd sh s) := by
  unfold drainEnd
  repeat' first
    | (try lift_lets
       intro x
       first
         | (have hx : Only L w0 x := by
              simp only [and_self, true_and, and_true, true_or, or_true, x]
              all_goals simp (maxDischargeDepth := 60) +contextual [*]
            try clear_value x)
         | (have hq : State := x; clear hq)
         | clear_value x
         | skip)
    | split
  all_goals simp (maxDischargeDepth := 60) +contextual [*]

@[simp] theorem shsDouble_only (offset : Nat) (job : Option Nat) (hl : Part.free ∈ L ∧ Part.regs ∈ L ∧ Part.ctr ∈ L ∧ Part.mem ∈ L ∧ Part.out ∈ L ∧ Part.log ∈ L ∧ Part.logLost ∈ L ∧ Part.pins ∈ L ∧ Part.ports ∈ L ∧ Part.qps ∈ L ∧ Part.flows ∈ L ∧ Part.pair ∈ L ∧ Part.queues ∈ L ∧ Part.rings ∈ L ∧ Part.due ∈ L ∧ Part.chans ∈ L ∧ Part.opens ∈ L ∧ Part.jobs ∈ L ∧ Part.fetches ∈ L ∧ Part.chains ∈ L ∧ Part.stores ∈ L ∧ Part.lives ∈ L) (hok : Only L w0 s) : Only L w0 (shsDouble offset job s) := by
  unfold shsDouble
  dsimp only
  repeat' split
  all_goals simp (maxDischargeDepth := 60) +contextual [hl, hok]

/-! Machine/Media.lean -/

@[simp] theorem flowCfg_only (n : Nat) (w : Word) (hl : Part.regs ∈ L ∧ Part.ctr ∈ L ∧ Part.pins ∈ L ∧ Part.flows ∈ L) (hok : Only L w0 s) : Only L w0 (flowCfg n w s) := by
  unfold flowCfg
  simp (maxDischargeDepth := 60) +contextual [hl, hok]

@[simp] theorem rtpIn_only (n kind : Nat) (h : RtpHdr) (hold : Nat → Bool → State → Option State) (go : Nat → Bool → State → State) (ok_hold : ∀ x0 x1 u, Only L w0 u → Kept (Only L w0) (hold x0 x1 u)) (ok_go : ∀ x0 x1 u, Only L w0 u → Only L w0 (go x0 x1 u)) (hl : Part.ctr ∈ L ∧ Part.flows ∈ L) (hok : Only L w0 s) : Only L w0 (rtpIn n kind h hold go s) := by
  unfold rtpIn
  dsimp only
  split
  · exact hok
  split
  · simp (maxDischargeDepth := 60) [hl, hok]
  split
  · rename_i t ht
    cases hf : s.flowChan (s.flow n) with
    | none => simp [hf] at ht
    | some i => exact ok_hold i _ s hok t (by simpa [hf] using ht)
  · split <;> simp (maxDischargeDepth := 60) [hl, hok, ok_go]

@[simp] theorem closeInput_only (i num : Nat) (hl : Part.regs ∈ L ∧ Part.ctr ∈ L ∧ Part.mem ∈ L ∧ Part.out ∈ L ∧ Part.log ∈ L ∧ Part.logLost ∈ L ∧ Part.pins ∈ L ∧ Part.ports ∈ L ∧ Part.qps ∈ L ∧ Part.flows ∈ L ∧ Part.rings ∈ L ∧ Part.chans ∈ L ∧ Part.jobs ∈ L ∧ Part.nextJob ∈ L ∧ Part.fetches ∈ L ∧ Part.chains ∈ L) (hok : Only L w0 s) : Only L w0 (closeInput i num s) := by
  unfold closeInput
  simp (maxDischargeDepth := 60) +contextual [hl, hok]

@[simp] theorem closeFlow_only (n i : Nat) (hl : Part.regs ∈ L ∧ Part.ctr ∈ L ∧ Part.mem ∈ L ∧ Part.out ∈ L ∧ Part.log ∈ L ∧ Part.logLost ∈ L ∧ Part.pins ∈ L ∧ Part.ports ∈ L ∧ Part.qps ∈ L ∧ Part.flows ∈ L ∧ Part.rings ∈ L ∧ Part.chans ∈ L ∧ Part.jobs ∈ L ∧ Part.nextJob ∈ L ∧ Part.fetches ∈ L ∧ Part.chains ∈ L) (hok : Only L w0 s) : Only L w0 (closeFlow n i s) := by
  unfold closeFlow
  dsimp only
  repeat' split
  all_goals simp (maxDischargeDepth := 60) +contextual [hl, hok]

@[simp] theorem openFlow_only (n i ts : Nat) (hl : Part.regs ∈ L ∧ Part.ctr ∈ L ∧ Part.mem ∈ L ∧ Part.out ∈ L ∧ Part.log ∈ L ∧ Part.logLost ∈ L ∧ Part.pins ∈ L ∧ Part.ports ∈ L ∧ Part.qps ∈ L ∧ Part.flows ∈ L ∧ Part.rings ∈ L ∧ Part.chans ∈ L ∧ Part.jobs ∈ L ∧ Part.nextJob ∈ L ∧ Part.fetches ∈ L ∧ Part.chains ∈ L) (hok : Only L w0 s) : Only L w0 (openFlow n i ts s) := by
  unfold openFlow
  simp (maxDischargeDepth := 60) +contextual [hl, hok]

@[simp] theorem putSample_only (f : Flow) (i : Nat) (h : List Byte) (base pitch : Nat) (g : RowSeg) (x : Nat × Nat) (hl : Part.regs ∈ L ∧ Part.ctr ∈ L ∧ Part.mem ∈ L ∧ Part.out ∈ L ∧ Part.ports ∈ L ∧ Part.qps ∈ L ∧ Part.rings ∈ L ∧ Part.jobs ∈ L ∧ Part.fetches ∈ L) (hok : Only L w0 s) : Only L w0 (putSample f i h base pitch g s x) := by
  unfold putSample
  simp (maxDischargeDepth := 60) +contextual [hl, hok]

@[simp] theorem putSegment_only (n i num : Nat) (io : Io) (g : RowSeg) (hl : Part.regs ∈ L ∧ Part.ctr ∈ L ∧ Part.mem ∈ L ∧ Part.out ∈ L ∧ Part.ports ∈ L ∧ Part.qps ∈ L ∧ Part.flows ∈ L ∧ Part.rings ∈ L ∧ Part.chans ∈ L ∧ Part.jobs ∈ L ∧ Part.fetches ∈ L) (hok : Only L w0 s) : Only L w0 (putSegment n i num io g s) := by
  unfold putSegment
  repeat' first
    | (try lift_lets
       intro x
       first
         | (have hx : Only L w0 x := by
              simp only [and_self, true_and, and_true, true_or, or_true, x]
              all_goals simp (maxDischargeDepth := 60) +contextual [*]
            try clear_value x)
         | (have hq : State := x; clear hq)
         | clear_value x
         | skip)
    | split
  all_goals simp (maxDischargeDepth := 60) +contextual [*]

@[simp] theorem videoIn_only (n : Nat) (h : RtpHdr) (segs : List RowSeg) (i : Nat) (hl : Part.regs ∈ L ∧ Part.ctr ∈ L ∧ Part.mem ∈ L ∧ Part.out ∈ L ∧ Part.log ∈ L ∧ Part.logLost ∈ L ∧ Part.pins ∈ L ∧ Part.ports ∈ L ∧ Part.qps ∈ L ∧ Part.flows ∈ L ∧ Part.rings ∈ L ∧ Part.chans ∈ L ∧ Part.jobs ∈ L ∧ Part.nextJob ∈ L ∧ Part.fetches ∈ L ∧ Part.chains ∈ L) (hok : Only L w0 s) : Only L w0 (videoIn n h segs i s) := by
  unfold videoIn
  repeat' first
    | (try lift_lets
       intro x
       first
         | (have hx : Only L w0 x := by
              simp only [and_self, true_and, and_true, true_or, or_true, x]
              repeat' split
              all_goals simp (maxDischargeDepth := 60) +contextual [*]
            try clear_value x)
         | (have hq : State := x; clear hq)
         | clear_value x
         | skip)
    | split
  all_goals simp (maxDischargeDepth := 60) +contextual [*]

@[simp] theorem openFrame_only (n i : Nat) (hl : Part.regs ∈ L ∧ Part.chans ∈ L) (hok : Only L w0 s) : Only L w0 (openFrame n i s) := by
  unfold openFrame
  simp (maxDischargeDepth := 60) +contextual [hl, hok]

@[simp] theorem putInstant_only (n i : Nat) (v : Option (List Nat)) (hl : Part.regs ∈ L ∧ Part.ctr ∈ L ∧ Part.mem ∈ L ∧ Part.out ∈ L ∧ Part.log ∈ L ∧ Part.logLost ∈ L ∧ Part.pins ∈ L ∧ Part.ports ∈ L ∧ Part.qps ∈ L ∧ Part.flows ∈ L ∧ Part.rings ∈ L ∧ Part.chans ∈ L ∧ Part.jobs ∈ L ∧ Part.nextJob ∈ L ∧ Part.fetches ∈ L ∧ Part.chains ∈ L) (hok : Only L w0 s) : Only L w0 (putInstant n i v s) := by
  unfold putInstant
  repeat' split
  all_goals simp (maxDischargeDepth := 60) only [and_self, true_and, and_true, true_or, or_true, Only.ite, Only.mk_of, Only.foldl, implies_true, bump_only, modChan_only, writeVa_only, setFlow_only, inputWhole_only, openFrame_only, hl, hok]

@[simp] theorem audioOpen_only (n : Nat) (h : RtpHdr) (hl : Part.flows ∈ L) (hok : Only L w0 s) : Only L w0 (audioOpen n h s) := by
  unfold audioOpen
  simp (maxDischargeDepth := 60) +contextual [hl, hok]

@[simp] theorem lostInstants_only (n i k : Nat) (hl : Part.regs ∈ L ∧ Part.ctr ∈ L ∧ Part.mem ∈ L ∧ Part.out ∈ L ∧ Part.log ∈ L ∧ Part.logLost ∈ L ∧ Part.pins ∈ L ∧ Part.ports ∈ L ∧ Part.qps ∈ L ∧ Part.flows ∈ L ∧ Part.rings ∈ L ∧ Part.chans ∈ L ∧ Part.jobs ∈ L ∧ Part.nextJob ∈ L ∧ Part.fetches ∈ L ∧ Part.chains ∈ L) (hok : Only L w0 s) : Only L w0 (lostInstants n i k s) := by
  unfold lostInstants
  simp (maxDischargeDepth := 60) +contextual [hl, hok]

@[simp] theorem audioHold_only (n : Nat) (h : RtpHdr) (samples : List Nat) (i : Nat) (hl : Part.regs ∈ L ∧ Part.ctr ∈ L ∧ Part.mem ∈ L ∧ Part.out ∈ L ∧ Part.log ∈ L ∧ Part.logLost ∈ L ∧ Part.pins ∈ L ∧ Part.ports ∈ L ∧ Part.qps ∈ L ∧ Part.flows ∈ L ∧ Part.rings ∈ L ∧ Part.chans ∈ L ∧ Part.jobs ∈ L ∧ Part.nextJob ∈ L ∧ Part.fetches ∈ L ∧ Part.chains ∈ L) (hok : Only L w0 s) : Kept (Only L w0) (audioHold n h samples i s) := by
  unfold audioHold
  dsimp only
  repeat' split
  all_goals simp (maxDischargeDepth := 60) +contextual [hl, hok]

@[simp] theorem audioIn_only (n : Nat) (h : RtpHdr) (samples : List Nat) (i : Nat) (hl : Part.regs ∈ L ∧ Part.ctr ∈ L ∧ Part.mem ∈ L ∧ Part.out ∈ L ∧ Part.log ∈ L ∧ Part.logLost ∈ L ∧ Part.pins ∈ L ∧ Part.ports ∈ L ∧ Part.qps ∈ L ∧ Part.flows ∈ L ∧ Part.rings ∈ L ∧ Part.chans ∈ L ∧ Part.jobs ∈ L ∧ Part.nextJob ∈ L ∧ Part.fetches ∈ L ∧ Part.chains ∈ L) (hok : Only L w0 s) : Only L w0 (audioIn n h samples i s) := by
  unfold audioIn
  simp (maxDischargeDepth := 60) +contextual [hl, hok]

@[simp] theorem ringIn_only (i pos : Nat) (l : List Byte) (hl : Part.regs ∈ L ∧ Part.ctr ∈ L ∧ Part.mem ∈ L ∧ Part.out ∈ L ∧ Part.ports ∈ L ∧ Part.qps ∈ L ∧ Part.rings ∈ L ∧ Part.jobs ∈ L ∧ Part.fetches ∈ L) (hok : Only L w0 s) : Only L w0 (ringIn i pos l s) := by
  unfold ringIn
  repeat' split
  all_goals simp (maxDischargeDepth := 60) +contextual [hl, hok]

@[simp] theorem takeRun_only (i : Nat) (l : List Byte) (hl : Part.regs ∈ L ∧ Part.ctr ∈ L ∧ Part.mem ∈ L ∧ Part.out ∈ L ∧ Part.ports ∈ L ∧ Part.qps ∈ L ∧ Part.rings ∈ L ∧ Part.chans ∈ L ∧ Part.jobs ∈ L ∧ Part.fetches ∈ L) (hok : Only L w0 s) : Only L w0 (takeRun i l s) := by
  unfold takeRun
  simp (maxDischargeDepth := 60) +contextual [hl, hok]

@[simp] theorem cutTake_only (code i : Nat) (l : List Byte) (hl : Part.regs ∈ L ∧ Part.ctr ∈ L ∧ Part.log ∈ L ∧ Part.logLost ∈ L ∧ Part.pins ∈ L ∧ Part.flows ∈ L ∧ Part.due ∈ L ∧ Part.chans ∈ L ∧ Part.jobs ∈ L ∧ Part.nextJob ∈ L ∧ Part.chains ∈ L) (hok : Only L w0 s) : Only L w0 (cutTake code i l s) := by
  unfold cutTake
  repeat' split
  all_goals simp (maxDischargeDepth := 60) +contextual [hl, hok]

@[simp] theorem cutSegment_only (n i : Nat) (hl : Part.regs ∈ L ∧ Part.ctr ∈ L ∧ Part.log ∈ L ∧ Part.logLost ∈ L ∧ Part.pins ∈ L ∧ Part.flows ∈ L ∧ Part.due ∈ L ∧ Part.chans ∈ L ∧ Part.jobs ∈ L ∧ Part.nextJob ∈ L ∧ Part.chains ∈ L) (hok : Only L w0 s) : Only L w0 (cutSegment n i s).2 := by
  unfold cutSegment
  dsimp only
  repeat' split
  all_goals simp (maxDischargeDepth := 60) +contextual [hl, hok]

@[simp] theorem thardaxHold_only (n : Nat) (payload : List Byte) (i : Nat) (gap : Bool) (hl : Part.regs ∈ L ∧ Part.ctr ∈ L ∧ Part.log ∈ L ∧ Part.logLost ∈ L ∧ Part.pins ∈ L ∧ Part.flows ∈ L ∧ Part.due ∈ L ∧ Part.chans ∈ L ∧ Part.jobs ∈ L ∧ Part.nextJob ∈ L ∧ Part.chains ∈ L) (hok : Only L w0 s) : Kept (Only L w0) (thardaxHold n payload i gap s) := by
  unfold thardaxHold
  dsimp only
  repeat' split
  all_goals simp (maxDischargeDepth := 60) +contextual [hl, hok]

@[simp] theorem thardaxIn_only (n : Nat) (payload : List Byte) (i : Nat) (gap : Bool) (hl : Part.regs ∈ L ∧ Part.ctr ∈ L ∧ Part.mem ∈ L ∧ Part.out ∈ L ∧ Part.log ∈ L ∧ Part.logLost ∈ L ∧ Part.pins ∈ L ∧ Part.ports ∈ L ∧ Part.qps ∈ L ∧ Part.flows ∈ L ∧ Part.rings ∈ L ∧ Part.due ∈ L ∧ Part.chans ∈ L ∧ Part.jobs ∈ L ∧ Part.nextJob ∈ L ∧ Part.fetches ∈ L ∧ Part.chains ∈ L) (hok : Only L w0 s) : Only L w0 (thardaxIn n payload i gap s) := by
  unfold thardaxIn
  dsimp only
  repeat' split
  all_goals simp (maxDischargeDepth := 60) +contextual [hl, hok]

/-! Machine/Clock.lean -/

@[simp] theorem stepTime_only (d : Int) (hl : Part.time ∈ L ∧ Part.ctr ∈ L ∧ Part.boot ∈ L ∧ Part.ports ∈ L ∧ Part.qps ∈ L ∧ Part.flows ∈ L ∧ Part.servo ∈ L ∧ Part.chans ∈ L ∧ Part.jobs ∈ L ∧ Part.players ∈ L ∧ Part.streams ∈ L) (hok : Only L w0 s) : Only L w0 (stepTime d s) := by
  unfold stepTime
  simp (maxDischargeDepth := 60) +contextual [hl, hok]

@[simp] theorem timeSet_only (w : Word) (hl : Part.time ∈ L ∧ Part.ctr ∈ L ∧ Part.boot ∈ L ∧ Part.ports ∈ L ∧ Part.qps ∈ L ∧ Part.flows ∈ L ∧ Part.servo ∈ L ∧ Part.chans ∈ L ∧ Part.jobs ∈ L ∧ Part.players ∈ L ∧ Part.streams ∈ L) (hok : Only L w0 s) : Only L w0 (timeSet w s) := by
  unfold timeSet
  simp (maxDischargeDepth := 60) +contextual [hl, hok]

@[simp] theorem tick_only (hl : Part.time ∈ L ∧ Part.ctr ∈ L ∧ Part.servo ∈ L) (hok : Only L w0 s) : Only L w0 (tick s) := by
  unfold tick ppsMissing
  simp (maxDischargeDepth := 60) +contextual [hl, hok]

@[simp] theorem setTimeState_only (n : Nat) (hl : Part.regs ∈ L ∧ Part.ctr ∈ L ∧ Part.log ∈ L ∧ Part.logLost ∈ L ∧ Part.pins ∈ L) (hok : Only L w0 s) : Only L w0 (setTimeState n s) := by
  unfold setTimeState
  simp (maxDischargeDepth := 60) +contextual [hl, hok]

@[simp] theorem sourceSeen_only (hl : Part.regs ∈ L ∧ Part.ctr ∈ L ∧ Part.log ∈ L ∧ Part.logLost ∈ L ∧ Part.pins ∈ L) (hok : Only L w0 s) : Only L w0 (sourceSeen s) := by
  unfold sourceSeen
  simp (maxDischargeDepth := 60) +contextual [hl, hok]

@[simp] theorem measured_only (off : Int) (hl : Part.time ∈ L ∧ Part.regs ∈ L ∧ Part.ctr ∈ L ∧ Part.log ∈ L ∧ Part.logLost ∈ L ∧ Part.pins ∈ L ∧ Part.boot ∈ L ∧ Part.ports ∈ L ∧ Part.qps ∈ L ∧ Part.flows ∈ L ∧ Part.servo ∈ L ∧ Part.chans ∈ L ∧ Part.jobs ∈ L ∧ Part.players ∈ L ∧ Part.streams ∈ L) (hok : Only L w0 s) : Only L w0 (measured off s) := by
  unfold measured
  dsimp only
  repeat' split
  all_goals simp (maxDischargeDepth := 60) +contextual [hl, hok]

@[simp] theorem ptpOffset_only (hl : Part.time ∈ L ∧ Part.regs ∈ L ∧ Part.ctr ∈ L ∧ Part.log ∈ L ∧ Part.logLost ∈ L ∧ Part.pins ∈ L ∧ Part.boot ∈ L ∧ Part.ports ∈ L ∧ Part.qps ∈ L ∧ Part.flows ∈ L ∧ Part.servo ∈ L ∧ Part.chans ∈ L ∧ Part.jobs ∈ L ∧ Part.players ∈ L ∧ Part.streams ∈ L) (hok : Only L w0 s) : Only L w0 (ptpOffset s) := by
  unfold ptpOffset
  repeat' split
  all_goals simp (maxDischargeDepth := 60) +contextual [hl, hok]

@[simp] theorem ptpMessage_only (port domain : Nat) (m : PtpMsg) (hl : Part.time ∈ L ∧ Part.regs ∈ L ∧ Part.ctr ∈ L ∧ Part.log ∈ L ∧ Part.logLost ∈ L ∧ Part.pins ∈ L ∧ Part.boot ∈ L ∧ Part.ports ∈ L ∧ Part.qps ∈ L ∧ Part.flows ∈ L ∧ Part.servo ∈ L ∧ Part.chans ∈ L ∧ Part.jobs ∈ L ∧ Part.players ∈ L ∧ Part.streams ∈ L) (hok : Only L w0 s) : Only L w0 (ptpMessage port domain m s) := by
  unfold ptpMessage
  dsimp only
  repeat' split
  all_goals simp (maxDischargeDepth := 60) +contextual [hl, hok]

@[simp] theorem timeCtrl_only (w : Word) (hl : Part.regs ∈ L ∧ Part.ctr ∈ L ∧ Part.log ∈ L ∧ Part.logLost ∈ L ∧ Part.pins ∈ L ∧ Part.servo ∈ L) (hok : Only L w0 s) : Only L w0 (timeCtrl w s) := by
  unfold timeCtrl
  simp (maxDischargeDepth := 60) +contextual [hl, hok]

end Sys2Proof.Machine
end

