-- ==== Sys2Proof/Laws/OnlyChip.lean ====
section
/-! SUPPORT. What each operation can change (Laws/Only.lean): blocks, the pair, countersigned records, register accesses, fetch. One lemma for each operation. -/

namespace Sys2Proof.Machine

variable {w0 s : State} {L : List Part}

/-! Machine/Blocks.lean -/

@[simp] theorem resetBlock_only (page : Nat) (hl : Part.mem ∈ L ∧ Part.players ∈ L) (hok : Only L w0 s) : Only L w0 (resetBlock page s) := by
  unfold resetBlock
  repeat' split
  all_goals simp (maxDischargeDepth := 60) +contextual [hl, hok]

@[simp] theorem loseBlock_only (page : Nat) (hl : Part.regs ∈ L ∧ Part.mem ∈ L ∧ Part.traces ∈ L ∧ Part.players ∈ L ∧ Part.treLast ∈ L ∧ Part.shds ∈ L ∧ Part.tableBanks ∈ L) (hok : Only L w0 s) : Only L w0 (loseBlock page s) := by
  unfold loseBlock
  repeat' split
  all_goals simp (maxDischargeDepth := 60) +contextual [hl, hok]

@[simp] theorem takeRequests_only (page : Nat) (hl : Part.regs ∈ L ∧ Part.ctr ∈ L ∧ Part.mem ∈ L ∧ Part.log ∈ L ∧ Part.logLost ∈ L ∧ Part.pins ∈ L ∧ Part.traces ∈ L ∧ Part.players ∈ L ∧ Part.treLast ∈ L ∧ Part.shds ∈ L ∧ Part.tableBanks ∈ L) (hok : Only L w0 s) : Only L w0 (takeRequests page s) := by
  unfold takeRequests
  simp (maxDischargeDepth := 60) +contextual [hl, hok]

@[simp] theorem quiesceSet_only (page : Nat) (hl : Part.regs ∈ L) (hok : Only L w0 s) : Only L w0 (quiesceSet page s) := by
  unfold quiesceSet
  simp (maxDischargeDepth := 60) +contextual [hl, hok]

@[simp] theorem quiesceClear_only (page : Nat) (hl : Part.regs ∈ L ∧ Part.ctr ∈ L ∧ Part.log ∈ L ∧ Part.logLost ∈ L ∧ Part.pins ∈ L) (hok : Only L w0 s) : Only L w0 (quiesceClear page s) := by
  unfold quiesceClear
  simp (maxDischargeDepth := 60) +contextual [hl, hok]

@[simp] theorem resetReq_only (page : Nat) (hl : Part.regs ∈ L ∧ Part.ctr ∈ L ∧ Part.mem ∈ L ∧ Part.log ∈ L ∧ Part.logLost ∈ L ∧ Part.pins ∈ L ∧ Part.traces ∈ L ∧ Part.players ∈ L ∧ Part.treLast ∈ L ∧ Part.shds ∈ L ∧ Part.tableBanks ∈ L) (hok : Only L w0 s) : Only L w0 (resetReq page s) := by
  unfold resetReq
  simp (maxDischargeDepth := 60) +contextual [hl, hok]

@[simp] theorem powerReq_only (page : Nat) (hl : Part.regs ∈ L ∧ Part.ctr ∈ L ∧ Part.mem ∈ L ∧ Part.log ∈ L ∧ Part.logLost ∈ L ∧ Part.pins ∈ L ∧ Part.traces ∈ L ∧ Part.players ∈ L ∧ Part.treLast ∈ L ∧ Part.shds ∈ L ∧ Part.tableBanks ∈ L) (hok : Only L w0 s) : Only L w0 (powerReq page s) := by
  unfold powerReq
  simp (maxDischargeDepth := 60) +contextual [hl, hok]

@[simp] theorem powerClear_only (page : Nat) (hl : Part.regs ∈ L ∧ Part.ctr ∈ L ∧ Part.log ∈ L ∧ Part.logLost ∈ L ∧ Part.pins ∈ L) (hok : Only L w0 s) : Only L w0 (powerClear page s) := by
  unfold powerClear
  simp (maxDischargeDepth := 60) +contextual [hl, hok]

@[simp] theorem enableClear_only (page : Nat) (hl : Part.regs ∈ L ∧ Part.ctr ∈ L ∧ Part.log ∈ L ∧ Part.logLost ∈ L ∧ Part.pins ∈ L ∧ Part.due ∈ L ∧ Part.chans ∈ L) (hok : Only L w0 s) : Only L w0 (enableClear page s) := by
  unfold enableClear
  simp (maxDischargeDepth := 60) +contextual [hl, hok]

@[simp] theorem enableSet_only (page : Nat) (hl : Part.regs ∈ L ∧ Part.ctr ∈ L ∧ Part.log ∈ L ∧ Part.logLost ∈ L ∧ Part.pins ∈ L ∧ Part.due ∈ L ∧ Part.chans ∈ L) (hok : Only L w0 s) : Only L w0 (enableSet page s) := by
  unfold enableSet
  simp (maxDischargeDepth := 60) +contextual [hl, hok]

@[simp] theorem viewReject_only (hl : Part.regs ∈ L ∧ Part.ctr ∈ L ∧ Part.pins ∈ L) (hok : Only L w0 s) : Only L w0 (viewReject s) := by
  unfold viewReject
  simp (maxDischargeDepth := 60) +contextual [hl, hok]

@[simp] theorem onPage_only (page : Nat) (all view : Bool) (f : Nat → State → State) (ok_f : ∀ x0 u, Only L w0 u → Only L w0 (f x0 u)) (hl : Part.regs ∈ L ∧ Part.ctr ∈ L ∧ Part.pins ∈ L) (hok : Only L w0 s) : Only L w0 (onPage page all view f s) := by
  unfold onPage
  repeat' split
  all_goals simp (maxDischargeDepth := 60) +contextual [hl, hok, ok_f]

@[simp] theorem clearBank_only (page : Nat) (hl : Part.banks ∈ L) (hok : Only L w0 s) : Only L w0 (clearBank page s) := by
  unfold clearBank
  simp (maxDischargeDepth := 60) +contextual [hl, hok]

@[simp] theorem ctrlWord_only (w : Word) (page : Nat) (hl : Part.regs ∈ L ∧ Part.ctr ∈ L ∧ Part.mem ∈ L ∧ Part.log ∈ L ∧ Part.logLost ∈ L ∧ Part.pins ∈ L ∧ Part.traces ∈ L ∧ Part.due ∈ L ∧ Part.chans ∈ L ∧ Part.players ∈ L ∧ Part.treLast ∈ L ∧ Part.shds ∈ L ∧ Part.tableBanks ∈ L) (hok : Only L w0 s) : Only L w0 (ctrlWord w page s) := by
  unfold ctrlWord
  simp (maxDischargeDepth := 60) +contextual [hl, hok]

@[simp] theorem pgCtrl_only (page : Nat) (w : Word) (hl : Part.regs ∈ L ∧ Part.ctr ∈ L ∧ Part.mem ∈ L ∧ Part.log ∈ L ∧ Part.logLost ∈ L ∧ Part.pins ∈ L ∧ Part.traces ∈ L ∧ Part.due ∈ L ∧ Part.chans ∈ L ∧ Part.players ∈ L ∧ Part.treLast ∈ L ∧ Part.shds ∈ L ∧ Part.tableBanks ∈ L) (hok : Only L w0 s) : Only L w0 (pgCtrl page w s) := by
  unfold pgCtrl
  repeat' split
  all_goals simp (maxDischargeDepth := 60) +contextual [hl, hok]

/-! Machine/Pair.lean -/

@[simp] theorem setPairState_only (n : Nat) (hl : Part.regs ∈ L ∧ Part.ctr ∈ L ∧ Part.log ∈ L ∧ Part.logLost ∈ L ∧ Part.pins ∈ L ∧ Part.due ∈ L) (hok : Only L w0 s) : Only L w0 (setPairState n s) := by
  unfold setPairState
  simp (maxDischargeDepth := 60) +contextual [hl, hok]

@[simp] theorem pairJoin_only (hl : Part.free ∈ L ∧ Part.regs ∈ L ∧ Part.ctr ∈ L ∧ Part.out ∈ L ∧ Part.log ∈ L ∧ Part.logLost ∈ L ∧ Part.pins ∈ L ∧ Part.ports ∈ L ∧ Part.qps ∈ L ∧ Part.pair ∈ L ∧ Part.rings ∈ L ∧ Part.due ∈ L ∧ Part.jobs ∈ L ∧ Part.fetches ∈ L) (hok : Only L w0 s) : Only L w0 (pairJoin s) := by
  unfold pairJoin
  simp (maxDischargeDepth := 60) +contextual [hl, hok]

@[simp] theorem discardPair_only (hl : Part.ctr ∈ L) (hok : Only L w0 s) : Only L w0 (discardPair s) := by
  unfold discardPair
  simp (maxDischargeDepth := 60) +contextual [hl, hok]

@[simp] theorem settlePair_only (hl : Part.regs ∈ L ∧ Part.ctr ∈ L ∧ Part.log ∈ L ∧ Part.logLost ∈ L ∧ Part.pins ∈ L ∧ Part.due ∈ L) (hok : Only L w0 s) : Only L w0 (settlePair s) := by
  unfold settlePair
  simp (maxDischargeDepth := 60) +contextual [hl, hok]

@[simp] theorem showLag_only (hl : Part.regs ∈ L) (hok : Only L w0 s) : Only L w0 (showLag s) := by
  unfold showLag
  simp (maxDischargeDepth := 60) +contextual [hl, hok]

@[simp] theorem joined_only (peer : List Byte) (hl : Part.regs ∈ L ∧ Part.ctr ∈ L ∧ Part.log ∈ L ∧ Part.logLost ∈ L ∧ Part.pins ∈ L ∧ Part.pair ∈ L ∧ Part.due ∈ L ∧ Part.chans ∈ L ∧ Part.points ∈ L) (hok : Only L w0 s) : Only L w0 (joined peer s) := by
  unfold joined
  simp (maxDischargeDepth := 60) +contextual [hl, hok]

@[simp] theorem fence_only (hl : Part.free ∈ L ∧ Part.regs ∈ L ∧ Part.ctr ∈ L ∧ Part.mem ∈ L ∧ Part.out ∈ L ∧ Part.log ∈ L ∧ Part.logLost ∈ L ∧ Part.pins ∈ L ∧ Part.ports ∈ L ∧ Part.qps ∈ L ∧ Part.flows ∈ L ∧ Part.pair ∈ L ∧ Part.queues ∈ L ∧ Part.rings ∈ L ∧ Part.due ∈ L ∧ Part.chans ∈ L ∧ Part.opens ∈ L ∧ Part.jobs ∈ L ∧ Part.fetches ∈ L ∧ Part.chains ∈ L ∧ Part.stores ∈ L ∧ Part.lives ∈ L) (hok : Only L w0 s) : Only L w0 (fence s) := by
  refine Only.foldl _ (fun a x ha => ?_) (bump_only _ _ _ (by simp [hl]) (setPairState_only _ (by simp [hl]) hok))
  dsimp only
  split <;> simp (maxDischargeDepth := 60) +contextual [*]

@[simp] theorem mirrorPoint_only (i n : Nat) (hl : Part.free ∈ L ∧ Part.regs ∈ L ∧ Part.ctr ∈ L ∧ Part.out ∈ L ∧ Part.ports ∈ L ∧ Part.qps ∈ L ∧ Part.pair ∈ L ∧ Part.rings ∈ L ∧ Part.chans ∈ L ∧ Part.jobs ∈ L ∧ Part.fetches ∈ L) (hok : Only L w0 s) : Only L w0 (mirrorPoint i n s) := by
  unfold mirrorPoint
  simp (maxDischargeDepth := 60) +contextual [hl, hok]

@[simp] theorem pointChan_only (i : Nat) (pt : Chan) (hl : Part.chans ∈ L ∧ Part.nextIndex ∈ L) (hok : Only L w0 s) : Only L w0 (pointChan i pt s) := by
  unfold pointChan
  simp (maxDischargeDepth := 60) +contextual [hl, hok]

@[simp] theorem resumeChan_only (i : Nat) (pt : Chan) (hl : Part.regs ∈ L ∧ Part.ctr ∈ L ∧ Part.log ∈ L ∧ Part.logLost ∈ L ∧ Part.pins ∈ L ∧ Part.flows ∈ L ∧ Part.chans ∈ L ∧ Part.jobs ∈ L ∧ Part.nextJob ∈ L ∧ Part.chains ∈ L) (hok : Only L w0 s) : Only L w0 (resumeChan i pt s) := by
  unfold resumeChan
  dsimp only
  repeat' split
  all_goals simp (maxDischargeDepth := 60) +contextual [hl, hok]

@[simp] theorem coldChan_only (i : Nat) (hl : Part.regs ∈ L ∧ Part.chans ∈ L) (hok : Only L w0 s) : Only L w0 (coldChan i s) := by
  unfold coldChan
  simp (maxDischargeDepth := 60) +contextual [hl, hok]

@[simp] theorem promote_only (c : Ctx) (x1 : Nat) (e : Entry) (hl : Part.regs ∈ L ∧ Part.ctr ∈ L ∧ Part.log ∈ L ∧ Part.logLost ∈ L ∧ Part.pins ∈ L ∧ Part.flows ∈ L ∧ Part.pair ∈ L ∧ Part.queues ∈ L ∧ Part.due ∈ L ∧ Part.chans ∈ L ∧ Part.points ∈ L ∧ Part.jobs ∈ L ∧ Part.nextJob ∈ L ∧ Part.chains ∈ L) (hok : Only L w0 s) : Only L w0 (promote c x1 e s) := by
  unfold promote
  split
  · simp (maxDischargeDepth := 60) [*]
  · split
    · simp (maxDischargeDepth := 60) [*]
    · refine finish_only _ _ _ _ (by simp [hl]) ?_
      apply Only.mk_of (Only.foldl _ (fun a x ha => ?_) ?_)
      any_goals first | exact Or.inr rfl | exact Or.inl (by simp [hl])
      all_goals repeat' split
      all_goals first | assumption | simp (maxDischargeDepth := 60) +contextual [*]

@[simp] theorem pairSingle_only (hl : Part.regs ∈ L ∧ Part.ctr ∈ L ∧ Part.log ∈ L ∧ Part.logLost ∈ L ∧ Part.pins ∈ L ∧ Part.qps ∈ L ∧ Part.pair ∈ L ∧ Part.due ∈ L ∧ Part.chans ∈ L ∧ Part.points ∈ L) (hok : Only L w0 s) : Only L w0 (pairSingle s) := by
  unfold pairSingle
  simp (maxDischargeDepth := 60) +contextual [hl, hok]

/-! Machine/Csw.lean -/

@[simp] theorem applyFields_only (l : List CswItem) (hl : Part.regs ∈ L) (hok : Only L w0 s) : Only L w0 (applyFields l s) := by
  refine Only.foldl _ (fun a x ha => ?_) hok
  split <;> simp (maxDischargeDepth := 60) +contextual [*]

@[simp] theorem relock_only (was : State) (hl : Part.regs ∈ L ∧ Part.ctr ∈ L ∧ Part.traces ∈ L ∧ Part.jobs ∈ L ∧ Part.players ∈ L) (hok : Only L w0 s) : Only L w0 (relock was s) := by
  unfold relock
  simp (maxDischargeDepth := 60) +contextual [hl, hok]

@[simp] theorem setPolicy_only (p : Policy) (hl : Part.ctr ∈ L ∧ Part.ids ∈ L) (hok : Only L w0 s) : Only L w0 (setPolicy p s) := by
  unfold setPolicy
  simp (maxDischargeDepth := 60) +contextual [hl, hok]

@[simp] theorem applyKind1_only (r : CswRec) (hl : Part.regs ∈ L ∧ Part.ctr ∈ L ∧ Part.log ∈ L ∧ Part.logLost ∈ L ∧ Part.pins ∈ L ∧ Part.ids ∈ L ∧ Part.qps ∈ L ∧ Part.traces ∈ L ∧ Part.pair ∈ L ∧ Part.due ∈ L ∧ Part.chans ∈ L ∧ Part.points ∈ L ∧ Part.jobs ∈ L ∧ Part.players ∈ L) (hok : Only L w0 s) : Only L w0 (applyKind1 r s) := by
  unfold applyKind1
  simp (maxDischargeDepth := 60) +contextual [hl, hok]

@[simp] theorem applyKind2_only (r : CswRec) (hl : Part.regs ∈ L ∧ Part.ctr ∈ L ∧ Part.ids ∈ L) (hok : Only L w0 s) : Only L w0 (applyKind2 r s) := by
  unfold applyKind2
  simp (maxDischargeDepth := 60) +contextual [hl, hok]

@[simp] theorem cswFail_only (c : Ctx) (f : CswFail) (hl : Part.free ∈ L ∧ Part.regs ∈ L ∧ Part.ctr ∈ L ∧ Part.log ∈ L ∧ Part.logLost ∈ L ∧ Part.pins ∈ L ∧ Part.pair ∈ L ∧ Part.queues ∈ L ∧ Part.due ∈ L ∧ Part.chans ∈ L) (hok : Only L w0 s) : Only L w0 (cswFail c f s) := by
  unfold cswFail
  simp (maxDischargeDepth := 60) +contextual [hl, hok]

@[simp] theorem cswDone_only (c : Ctx) (hl : Part.free ∈ L ∧ Part.regs ∈ L ∧ Part.ctr ∈ L ∧ Part.log ∈ L ∧ Part.logLost ∈ L ∧ Part.pins ∈ L ∧ Part.pair ∈ L ∧ Part.queues ∈ L ∧ Part.due ∈ L ∧ Part.chans ∈ L) (hok : Only L w0 s) : Only L w0 (cswDone c s) := by
  unfold cswDone
  simp (maxDischargeDepth := 60) +contextual [hl, hok]

@[simp] theorem countVerify_only (x : Except CswFail CswRec) (hl : Part.free ∈ L ∧ Part.ctr ∈ L) (hok : Only L w0 s) : Only L w0 (countVerify x s) := by
  unfold countVerify
  repeat' split
  all_goals simp (maxDischargeDepth := 60) +contextual [hl, hok]

@[simp] theorem cswApply_only (remote : List Byte) (c : Ctx) (x2 : Nat) (e : Entry) (hl : Part.free ∈ L ∧ Part.regs ∈ L ∧ Part.ctr ∈ L ∧ Part.log ∈ L ∧ Part.logLost ∈ L ∧ Part.pins ∈ L ∧ Part.ids ∈ L ∧ Part.qps ∈ L ∧ Part.traces ∈ L ∧ Part.pair ∈ L ∧ Part.queues ∈ L ∧ Part.due ∈ L ∧ Part.chans ∈ L ∧ Part.points ∈ L ∧ Part.jobs ∈ L ∧ Part.players ∈ L) (hok : Only L w0 s) : Only L w0 (cswApply remote c x2 e s) := by
  unfold cswApply
  dsimp only
  repeat' split
  all_goals simp (maxDischargeDepth := 60) +contextual [hl, hok]

@[simp] theorem repair_only (remote : List Byte) (c : Ctx) (x2 : Nat) (e : Entry) (hl : Part.free ∈ L ∧ Part.regs ∈ L ∧ Part.ctr ∈ L ∧ Part.log ∈ L ∧ Part.logLost ∈ L ∧ Part.pins ∈ L ∧ Part.ids ∈ L ∧ Part.pair ∈ L ∧ Part.queues ∈ L ∧ Part.due ∈ L ∧ Part.chans ∈ L) (hok : Only L w0 s) : Only L w0 (repair remote c x2 e s) := by
  unfold repair
  dsimp only
  repeat' split
  all_goals simp (maxDischargeDepth := 60) +contextual [hl, hok]

@[simp] theorem attest_only (c : Ctx) (x1 : Nat) (e : Entry) (hl : Part.free ∈ L ∧ Part.regs ∈ L ∧ Part.ctr ∈ L ∧ Part.mem ∈ L ∧ Part.out ∈ L ∧ Part.log ∈ L ∧ Part.logLost ∈ L ∧ Part.pins ∈ L ∧ Part.ports ∈ L ∧ Part.qps ∈ L ∧ Part.pair ∈ L ∧ Part.queues ∈ L ∧ Part.rings ∈ L ∧ Part.due ∈ L ∧ Part.chans ∈ L ∧ Part.jobs ∈ L ∧ Part.fetches ∈ L) (hok : Only L w0 s) : Only L w0 (attest c x1 e s) := by
  unfold attest
  simp (maxDischargeDepth := 60) +contextual [hl, hok]

/-! Machine/RegRead.lean -/

@[simp] theorem regRead_only (page off : Nat) (hl : Part.latch ∈ L ∧ Part.ctr ∈ L) (hok : Only L w0 s) : Only L w0 (regRead page off s).2 := by
  unfold regRead
  repeat' split
  all_goals simp (maxDischargeDepth := 60) +contextual [hl, hok]

@[simp] theorem windowRead_only (a n : Nat) (hl : Part.latch ∈ L ∧ Part.ctr ∈ L) (hok : Only L w0 s) : Only L w0 (windowRead a n s).2 := by
  induction n generalizing a s with
  | zero => exact hok
  | succ n ih => (first | (simp (maxDischargeDepth := 60) [*]; done) | (exact ih _ (regRead_only _ _ (by simp [hl]) hok)))

/-! Machine/RegWrite.lean -/

@[simp] theorem plainWrite_only (page off : Nat) (w : Word) (hl : Part.regs ∈ L ∧ Part.ctr ∈ L ∧ Part.pins ∈ L) (hok : Only L w0 s) : Only L w0 (plainWrite page off w s) := by
  unfold plainWrite
  repeat' split
  all_goals simp (maxDischargeDepth := 60) +contextual [hl, hok]

@[simp] theorem errClear_only (page : Nat) (w : Word) (hl : Part.regs ∈ L ∧ Part.ctr ∈ L ∧ Part.pins ∈ L) (hok : Only L w0 s) : Only L w0 (errClear page w s) := by
  unfold errClear
  simp (maxDischargeDepth := 60) +contextual [hl, hok]

@[simp] theorem maskWrite_only (page : Nat) (w : Word) (hl : Part.regs ∈ L ∧ Part.ctr ∈ L ∧ Part.pins ∈ L) (hok : Only L w0 s) : Only L w0 (maskWrite page w s) := by
  unfold maskWrite
  simp (maxDischargeDepth := 60) +contextual [hl, hok]

@[simp] theorem pgErr_only (page : Nat) (w : Word) (hl : Part.regs ∈ L ∧ Part.ctr ∈ L ∧ Part.pins ∈ L) (hok : Only L w0 s) : Only L w0 (pgErr page w s) := by
  unfold pgErr
  repeat' split
  all_goals simp (maxDischargeDepth := 60) +contextual [hl, hok]

@[simp] theorem logRd_only (w : Word) (hl : Part.regs ∈ L ∧ Part.ctr ∈ L ∧ Part.log ∈ L ∧ Part.logLost ∈ L ∧ Part.pins ∈ L) (hok : Only L w0 s) : Only L w0 (logRd w s) := by
  unfold logRd
  simp (maxDischargeDepth := 60) +contextual [hl, hok]

@[simp] theorem dbgCtrl_only (p : Nat) (w : Word) (hl : Part.regs ∈ L ∧ Part.ctr ∈ L ∧ Part.pins ∈ L ∧ Part.traces ∈ L ∧ Part.jobs ∈ L ∧ Part.players ∈ L) (hok : Only L w0 s) : Only L w0 (dbgCtrl p w s) := by
  unfold dbgCtrl
  simp (maxDischargeDepth := 60) +contextual [hl, hok]

@[simp] theorem trcWrite_only (p off : Nat) (w : Word) (hl : Part.regs ∈ L ∧ Part.ctr ∈ L ∧ Part.pins ∈ L ∧ Part.traces ∈ L ∧ Part.jobs ∈ L ∧ Part.players ∈ L) (hok : Only L w0 s) : Only L w0 (trcWrite p off w s) := by
  unfold trcWrite
  simp (maxDischargeDepth := 60) +contextual [hl, hok]

@[simp] theorem ownWrite_only (page : Nat) (b : Blk) (off : Nat) (w : Word) (hl : Part.free ∈ L ∧ Part.time ∈ L ∧ Part.regs ∈ L ∧ Part.ctr ∈ L ∧ Part.sample ∈ L ∧ Part.out ∈ L ∧ Part.log ∈ L ∧ Part.logLost ∈ L ∧ Part.pins ∈ L ∧ Part.boot ∈ L ∧ Part.ports ∈ L ∧ Part.qps ∈ L ∧ Part.flows ∈ L ∧ Part.servo ∈ L ∧ Part.traces ∈ L ∧ Part.pair ∈ L ∧ Part.queues ∈ L ∧ Part.rings ∈ L ∧ Part.q0Wanted ∈ L ∧ Part.due ∈ L ∧ Part.chans ∈ L ∧ Part.jobs ∈ L ∧ Part.inval ∈ L ∧ Part.fetches ∈ L ∧ Part.players ∈ L ∧ Part.streams ∈ L) (hok : Only L w0 s) : Only L w0 (ownWrite page b off w s) := by
  unfold ownWrite
  repeat' split
  all_goals simp (maxDischargeDepth := 60) +contextual [hl, hok]

@[simp] theorem viewWrite_only (page off : Nat) (w : Word) (hl : Part.regs ∈ L ∧ Part.ctr ∈ L ∧ Part.pins ∈ L) (hok : Only L w0 s) : Only L w0 (viewWrite page off w s) := by
  unfold viewWrite
  simp (maxDischargeDepth := 60) +contextual [hl, hok]

@[simp] theorem regWrite_only (page off : Nat) (w : Word) (hl : Part.free ∈ L ∧ Part.time ∈ L ∧ Part.regs ∈ L ∧ Part.ctr ∈ L ∧ Part.sample ∈ L ∧ Part.mem ∈ L ∧ Part.out ∈ L ∧ Part.log ∈ L ∧ Part.logLost ∈ L ∧ Part.pins ∈ L ∧ Part.boot ∈ L ∧ Part.ports ∈ L ∧ Part.qps ∈ L ∧ Part.flows ∈ L ∧ Part.servo ∈ L ∧ Part.traces ∈ L ∧ Part.pair ∈ L ∧ Part.queues ∈ L ∧ Part.rings ∈ L ∧ Part.q0Wanted ∈ L ∧ Part.due ∈ L ∧ Part.chans ∈ L ∧ Part.jobs ∈ L ∧ Part.inval ∈ L ∧ Part.fetches ∈ L ∧ Part.players ∈ L ∧ Part.treLast ∈ L ∧ Part.streams ∈ L ∧ Part.shds ∈ L ∧ Part.tableBanks ∈ L) (hok : Only L w0 s) : Only L w0 (regWrite page off w s) := by
  unfold regWrite
  repeat' split
  all_goals simp (maxDischargeDepth := 60) +contextual [hl, hok]

@[simp] theorem windowWrite_only (a : Nat) (l : List Word) (hl : Part.free ∈ L ∧ Part.time ∈ L ∧ Part.regs ∈ L ∧ Part.ctr ∈ L ∧ Part.sample ∈ L ∧ Part.mem ∈ L ∧ Part.out ∈ L ∧ Part.log ∈ L ∧ Part.logLost ∈ L ∧ Part.pins ∈ L ∧ Part.boot ∈ L ∧ Part.ports ∈ L ∧ Part.qps ∈ L ∧ Part.flows ∈ L ∧ Part.servo ∈ L ∧ Part.traces ∈ L ∧ Part.pair ∈ L ∧ Part.queues ∈ L ∧ Part.rings ∈ L ∧ Part.q0Wanted ∈ L ∧ Part.due ∈ L ∧ Part.chans ∈ L ∧ Part.jobs ∈ L ∧ Part.inval ∈ L ∧ Part.fetches ∈ L ∧ Part.players ∈ L ∧ Part.treLast ∈ L ∧ Part.streams ∈ L ∧ Part.shds ∈ L ∧ Part.tableBanks ∈ L) (hok : Only L w0 s) : Only L w0 (windowWrite a l s) := by
  fun_induction windowWrite a l s with
  | case1 => exact hok
  | case2 => (first | (simp (maxDischargeDepth := 60) [*]; done) | (exact regWrite_only _ _ _ (by simp [hl]) (wrote_only _ (by simp [hl]) hok)))
  | case3 a s w v t q h ih => (first | (simp (maxDischargeDepth := 60) [*]; done) | (exact ih (doorbell_only _ _ (by simp [hl]) (wrote_only _ (by simp [hl]) hok))))
  | case4 a s w v t h ih => (first | (simp (maxDischargeDepth := 60) [*]; done) | (exact ih (regWrite_only _ _ _ (by simp [hl]) (wrote_only _ (by simp [hl]) hok))))

/-! Machine/Responder.lean -/

@[simp] theorem refuse_only (q : Nat) (m : Msg) (hl : Part.ctr ∈ L ∧ Part.out ∈ L ∧ Part.ports ∈ L) (hok : Only L w0 s) : Only L w0 (refuse q m s) := by
  unfold refuse
  simp (maxDischargeDepth := 60) +contextual [hl, hok]

@[simp] theorem cleanLines_only (a len : Nat) (hl : Part.poison ∈ L) (hok : Only L w0 s) : Only L w0 (cleanLines a len s) := by
  unfold cleanLines
  simp (maxDischargeDepth := 60) +contextual [hl, hok]

@[simp] theorem respond_only (q : Nat) (m : Msg) (hl : Part.ctr ∈ L ∧ Part.out ∈ L ∧ Part.ports ∈ L) (hok : Only L w0 s) : Only L w0 (respond q m s) := by
  unfold respond
  simp (maxDischargeDepth := 60) +contextual [hl, hok]

@[simp] theorem serveRead_only (q key a len : Nat) (hl : Part.latch ∈ L ∧ Part.ctr ∈ L ∧ Part.out ∈ L ∧ Part.ports ∈ L) (hok : Only L w0 s) : Only L w0 (serveRead q key a len s) := by
  unfold serveRead
  simp (maxDischargeDepth := 60) +contextual [hl, hok]

@[simp] theorem serveWrite_only (q key a : Nat) (l : List Byte) (hl : Part.free ∈ L ∧ Part.time ∈ L ∧ Part.regs ∈ L ∧ Part.ctr ∈ L ∧ Part.sample ∈ L ∧ Part.mem ∈ L ∧ Part.poison ∈ L ∧ Part.out ∈ L ∧ Part.log ∈ L ∧ Part.logLost ∈ L ∧ Part.pins ∈ L ∧ Part.boot ∈ L ∧ Part.ports ∈ L ∧ Part.qps ∈ L ∧ Part.flows ∈ L ∧ Part.servo ∈ L ∧ Part.traces ∈ L ∧ Part.pair ∈ L ∧ Part.queues ∈ L ∧ Part.rings ∈ L ∧ Part.q0Wanted ∈ L ∧ Part.due ∈ L ∧ Part.chans ∈ L ∧ Part.jobs ∈ L ∧ Part.inval ∈ L ∧ Part.fetches ∈ L ∧ Part.players ∈ L ∧ Part.treLast ∈ L ∧ Part.streams ∈ L ∧ Part.shds ∈ L ∧ Part.tableBanks ∈ L) (hok : Only L w0 s) : Only L w0 (serveWrite q key a l s) := by
  unfold serveWrite
  simp (maxDischargeDepth := 60) +contextual [hl, hok]

@[simp] theorem rdmaRequest_only (q : Nat) (op : RdmaOp) (key a : Nat) (ce : Bool) (hl : Part.free ∈ L ∧ Part.time ∈ L ∧ Part.regs ∈ L ∧ Part.latch ∈ L ∧ Part.ctr ∈ L ∧ Part.sample ∈ L ∧ Part.mem ∈ L ∧ Part.poison ∈ L ∧ Part.out ∈ L ∧ Part.log ∈ L ∧ Part.logLost ∈ L ∧ Part.pins ∈ L ∧ Part.boot ∈ L ∧ Part.ports ∈ L ∧ Part.qps ∈ L ∧ Part.flows ∈ L ∧ Part.servo ∈ L ∧ Part.traces ∈ L ∧ Part.pair ∈ L ∧ Part.queues ∈ L ∧ Part.rings ∈ L ∧ Part.q0Wanted ∈ L ∧ Part.due ∈ L ∧ Part.chans ∈ L ∧ Part.jobs ∈ L ∧ Part.inval ∈ L ∧ Part.fetches ∈ L ∧ Part.players ∈ L ∧ Part.treLast ∈ L ∧ Part.streams ∈ L ∧ Part.shds ∈ L ∧ Part.tableBanks ∈ L) (hok : Only L w0 s) : Only L w0 (rdmaRequest q op key a ce s) := by
  unfold rdmaRequest
  repeat' split
  all_goals simp (maxDischargeDepth := 60) +contextual [hl, hok]

/-! Machine/Fetch.lean -/

@[simp] theorem runEntry_only (adm : CmdSpec → (Ctx → Nat → Entry → State → State) → State → State) (e : Entry) (pkg : Package)
    (remote : List Byte) (hadm : ∀ sp body t, (∀ c n e u, Only L w0 u → Only L w0 (body c n e u)) → Only L w0 t → Only L w0 (adm sp body t))
    (hl : Part.free ∈ L ∧ Part.regs ∈ L ∧ Part.ctr ∈ L ∧ Part.mem ∈ L ∧ Part.out ∈ L ∧ Part.log ∈ L ∧ Part.logLost ∈ L ∧ Part.pins ∈ L ∧ Part.ids ∈ L ∧ Part.ports ∈ L ∧ Part.qps ∈ L ∧ Part.flows ∈ L ∧ Part.traces ∈ L ∧ Part.pair ∈ L ∧ Part.queues ∈ L ∧ Part.rings ∈ L ∧ Part.due ∈ L ∧ Part.devSeq ∈ L ∧ Part.chans ∈ L ∧ Part.points ∈ L ∧ Part.nextIndex ∈ L ∧ Part.freed ∈ L ∧ Part.opens ∈ L ∧ Part.jobs ∈ L ∧ Part.nextJob ∈ L ∧ Part.tlb ∈ L ∧ Part.fetches ∈ L ∧ Part.nextFetch ∈ L ∧ Part.players ∈ L ∧ Part.streams ∈ L ∧ Part.shds ∈ L ∧ Part.chains ∈ L ∧ Part.stores ∈ L ∧ Part.lives ∈ L ∧ Part.ens ∈ L) (hok : Only L w0 s) : Only L w0 (runEntry adm e pkg remote s) := by
  unfold runEntry
  repeat' first
    | (try lift_lets
       intro x
       first
         | (have hx : Only L w0 x := by
              simp only [x]
              repeat' split
              all_goals simp (maxDischargeDepth := 60) +contextual [*]
            try clear_value x)
         | (have hq : State := x; clear hq)
         | clear_value x
         | skip)
    | split
  all_goals simp (maxDischargeDepth := 60) +contextual [*]

@[simp] theorem admitEntry_only (q : Nat) (e : Entry) (pkg : Package) (remote : List Byte) (hl : Part.free ∈ L ∧ Part.regs ∈ L ∧ Part.ctr ∈ L ∧ Part.banks ∈ L ∧ Part.mem ∈ L ∧ Part.out ∈ L ∧ Part.log ∈ L ∧ Part.logLost ∈ L ∧ Part.pins ∈ L ∧ Part.ids ∈ L ∧ Part.ports ∈ L ∧ Part.qps ∈ L ∧ Part.flows ∈ L ∧ Part.traces ∈ L ∧ Part.pair ∈ L ∧ Part.queues ∈ L ∧ Part.rings ∈ L ∧ Part.due ∈ L ∧ Part.devSeq ∈ L ∧ Part.chans ∈ L ∧ Part.points ∈ L ∧ Part.nextIndex ∈ L ∧ Part.freed ∈ L ∧ Part.opens ∈ L ∧ Part.jobs ∈ L ∧ Part.nextJob ∈ L ∧ Part.tlb ∈ L ∧ Part.fetches ∈ L ∧ Part.nextFetch ∈ L ∧ Part.players ∈ L ∧ Part.streams ∈ L ∧ Part.shds ∈ L ∧ Part.chains ∈ L ∧ Part.stores ∈ L ∧ Part.lives ∈ L ∧ Part.ens ∈ L) (hok : Only L w0 s) : Only L w0 (admitEntry q e pkg remote s) := by
  unfold admitEntry
  simp (maxDischargeDepth := 60) +contextual [hl, hok]

@[simp] theorem fetchQueue_only (q n : Nat) (x : Feed × State) (hl : Part.free ∈ L ∧ Part.regs ∈ L ∧ Part.ctr ∈ L ∧ Part.banks ∈ L ∧ Part.mem ∈ L ∧ Part.out ∈ L ∧ Part.log ∈ L ∧ Part.logLost ∈ L ∧ Part.pins ∈ L ∧ Part.ids ∈ L ∧ Part.ports ∈ L ∧ Part.qps ∈ L ∧ Part.flows ∈ L ∧ Part.traces ∈ L ∧ Part.pair ∈ L ∧ Part.queues ∈ L ∧ Part.rings ∈ L ∧ Part.due ∈ L ∧ Part.devSeq ∈ L ∧ Part.chans ∈ L ∧ Part.points ∈ L ∧ Part.nextIndex ∈ L ∧ Part.freed ∈ L ∧ Part.opens ∈ L ∧ Part.jobs ∈ L ∧ Part.nextJob ∈ L ∧ Part.tlb ∈ L ∧ Part.fetches ∈ L ∧ Part.nextFetch ∈ L ∧ Part.players ∈ L ∧ Part.streams ∈ L ∧ Part.shds ∈ L ∧ Part.chains ∈ L ∧ Part.stores ∈ L ∧ Part.lives ∈ L ∧ Part.ens ∈ L) (hok : Only L w0 x.2) : Only L w0 (fetchQueue q n x).2 := by
  induction n generalizing x with
  | zero => exact hok
  | succ n ih =>
    obtain ⟨f, s⟩ := x
    rw [fetchQueue]
    dsimp only at hok ⊢
    split
    · exact hok
    · split
      · exact hok
      · split
        · (first | (simp (maxDischargeDepth := 60) [*]; done) | (exact wf_only _ _ _ (by simp [hl]) (by simp [hl, hok])))
        · (first | (simp (maxDischargeDepth := 60) [*]; done) | (exact ih _ (admitEntry_only _ _ _ _ (by simp [hl]) (wf_only _ _ _ (by simp [hl]) (by simp [hl, hok])))))

@[simp] theorem fetchTurn_only (f : Feed) (hl : Part.free ∈ L ∧ Part.regs ∈ L ∧ Part.ctr ∈ L ∧ Part.banks ∈ L ∧ Part.mem ∈ L ∧ Part.out ∈ L ∧ Part.log ∈ L ∧ Part.logLost ∈ L ∧ Part.pins ∈ L ∧ Part.ids ∈ L ∧ Part.ports ∈ L ∧ Part.qps ∈ L ∧ Part.flows ∈ L ∧ Part.traces ∈ L ∧ Part.pair ∈ L ∧ Part.queues ∈ L ∧ Part.rings ∈ L ∧ Part.due ∈ L ∧ Part.devSeq ∈ L ∧ Part.chans ∈ L ∧ Part.points ∈ L ∧ Part.nextIndex ∈ L ∧ Part.freed ∈ L ∧ Part.opens ∈ L ∧ Part.jobs ∈ L ∧ Part.nextJob ∈ L ∧ Part.tlb ∈ L ∧ Part.fetches ∈ L ∧ Part.nextFetch ∈ L ∧ Part.players ∈ L ∧ Part.streams ∈ L ∧ Part.shds ∈ L ∧ Part.chains ∈ L ∧ Part.stores ∈ L ∧ Part.lives ∈ L ∧ Part.ens ∈ L) (hok : Only L w0 s) : Only L w0 (fetchTurn f s) := by
  unfold fetchTurn
  simp (maxDischargeDepth := 60) +contextual [hl, hok]

end Sys2Proof.Machine
end

