-- ==== Sys2Proof/Laws/ExecOnly.lean ====
section
/-! SUPPORT. What each command can change (Laws/Only.lean). -/

namespace Sys2Proof.Machine

variable {w0 s : State} {L : List Part}

@[simp] theorem hostWrite_only (n : Nat) (f : State → State) (ok_f : ∀ u, Only L w0 u → Only L w0 (f u)) (hl : Part.ctr ∈ L) (hok : Only L w0 s) : Ends (Only L w0) (hostWrite n f s) := by
  unfold hostWrite
  simp (maxDischargeDepth := 60) +contextual [hl, hok, ok_f]

theorem execCtrSampleGo_only (w : Word) (hl : Part.regs ∈ L ∧ Part.ctr ∈ L ∧ Part.sample ∈ L ∧ Part.pins ∈ L) (hok : Only L w0 s) : Ends (Only L w0) (execCtrSampleGo w s) := by
  unfold execCtrSampleGo
  all_goals simp (maxDischargeDepth := 60) +contextual [hl, hok]

theorem execCtrSampleDone_only (coincident : Bool) (hl : Part.regs ∈ L ∧ Part.ctr ∈ L ∧ Part.sample ∈ L) (hok : Only L w0 s) : Ends (Only L w0) (execCtrSampleDone coincident s) := by
  unfold execCtrSampleDone
  repeat' split
  all_goals simp (maxDischargeDepth := 60) +contextual [hl, hok]

theorem execInputApply_only (cv : Nat) (hl : Part.regs ∈ L ∧ Part.ctr ∈ L ∧ Part.log ∈ L ∧ Part.logLost ∈ L ∧ Part.pins ∈ L) (hok : Only L w0 s) : Ends (Only L w0) (execInputApply cv s) := by
  unfold execInputApply
  repeat' split
  all_goals simp (maxDischargeDepth := 60) +contextual [hl, hok]

theorem execInputRemoval_only (hl : Part.regs ∈ L ∧ Part.ctr ∈ L ∧ Part.pins ∈ L) (hok : Only L w0 s) : Ends (Only L w0) (execInputRemoval s) := by
  unfold execInputRemoval
  repeat' split
  all_goals simp (maxDischargeDepth := 60) +contextual [hl, hok]

theorem execPwrEnRise_only (hl : Part.pins ∈ L) (hok : Only L w0 s) : Ends (Only L w0) (execPwrEnRise s) := by
  unfold execPwrEnRise
  repeat' split
  all_goals simp (maxDischargeDepth := 60) +contextual [hl, hok]

theorem execRailsInRegulation_only (obs : BootObs) (hl : Part.free ∈ L ∧ Part.regs ∈ L ∧ Part.ctr ∈ L ∧ Part.log ∈ L ∧ Part.logLost ∈ L ∧ Part.pins ∈ L ∧ Part.boot ∈ L) (hok : Only L w0 s) : Ends (Only L w0) (execRailsInRegulation obs s) := by
  unfold execRailsInRegulation
  repeat' split
  all_goals simp (maxDischargeDepth := 60) +contextual [hl, hok]

theorem execRailTimeout_only (hl : Part.time ∈ L ∧ Part.regs ∈ L ∧ Part.latch ∈ L ∧ Part.ctr ∈ L ∧ Part.banks ∈ L ∧ Part.sample ∈ L ∧ Part.mem ∈ L ∧ Part.poison ∈ L ∧ Part.log ∈ L ∧ Part.logLost ∈ L ∧ Part.pins ∈ L ∧ Part.boot ∈ L ∧ Part.ports ∈ L ∧ Part.qps ∈ L ∧ Part.flows ∈ L ∧ Part.servo ∈ L ∧ Part.traces ∈ L ∧ Part.pair ∈ L ∧ Part.queues ∈ L ∧ Part.rings ∈ L ∧ Part.q0Wanted ∈ L ∧ Part.due ∈ L ∧ Part.devSeq ∈ L ∧ Part.chans ∈ L ∧ Part.points ∈ L ∧ Part.nextIndex ∈ L ∧ Part.freed ∈ L ∧ Part.opens ∈ L ∧ Part.jobs ∈ L ∧ Part.nextJob ∈ L ∧ Part.tlb ∈ L ∧ Part.inval ∈ L ∧ Part.fetches ∈ L ∧ Part.nextFetch ∈ L ∧ Part.players ∈ L ∧ Part.treLast ∈ L ∧ Part.streams ∈ L ∧ Part.shds ∈ L ∧ Part.chains ∈ L ∧ Part.relays ∈ L ∧ Part.stores ∈ L ∧ Part.slice ∈ L ∧ Part.tableBanks ∈ L ∧ Part.lives ∈ L ∧ Part.ens ∈ L) (hok : Only L w0 s) : Ends (Only L w0) (execRailTimeout s) := by
  unfold execRailTimeout
  repeat' split
  all_goals simp (maxDischargeDepth := 60) +contextual [hl, hok]

theorem execPwrEnFall_only (hl : Part.time ∈ L ∧ Part.regs ∈ L ∧ Part.latch ∈ L ∧ Part.ctr ∈ L ∧ Part.banks ∈ L ∧ Part.sample ∈ L ∧ Part.mem ∈ L ∧ Part.poison ∈ L ∧ Part.log ∈ L ∧ Part.logLost ∈ L ∧ Part.pins ∈ L ∧ Part.boot ∈ L ∧ Part.ports ∈ L ∧ Part.qps ∈ L ∧ Part.flows ∈ L ∧ Part.servo ∈ L ∧ Part.traces ∈ L ∧ Part.pair ∈ L ∧ Part.queues ∈ L ∧ Part.rings ∈ L ∧ Part.q0Wanted ∈ L ∧ Part.due ∈ L ∧ Part.devSeq ∈ L ∧ Part.chans ∈ L ∧ Part.points ∈ L ∧ Part.nextIndex ∈ L ∧ Part.freed ∈ L ∧ Part.opens ∈ L ∧ Part.jobs ∈ L ∧ Part.nextJob ∈ L ∧ Part.tlb ∈ L ∧ Part.inval ∈ L ∧ Part.fetches ∈ L ∧ Part.nextFetch ∈ L ∧ Part.players ∈ L ∧ Part.treLast ∈ L ∧ Part.streams ∈ L ∧ Part.shds ∈ L ∧ Part.chains ∈ L ∧ Part.relays ∈ L ∧ Part.stores ∈ L ∧ Part.slice ∈ L ∧ Part.tableBanks ∈ L ∧ Part.lives ∈ L ∧ Part.ens ∈ L) (hok : Only L w0 s) : Ends (Only L w0) (execPwrEnFall s) := by
  unfold execPwrEnFall
  repeat' split
  all_goals simp (maxDischargeDepth := 60) +contextual [hl, hok]

theorem execModResetNAssert_only (ns : Nat) (hl : Part.free ∈ L ∧ Part.time ∈ L ∧ Part.regs ∈ L ∧ Part.latch ∈ L ∧ Part.ctr ∈ L ∧ Part.banks ∈ L ∧ Part.sample ∈ L ∧ Part.mem ∈ L ∧ Part.poison ∈ L ∧ Part.log ∈ L ∧ Part.logLost ∈ L ∧ Part.pins ∈ L ∧ Part.boot ∈ L ∧ Part.ports ∈ L ∧ Part.qps ∈ L ∧ Part.flows ∈ L ∧ Part.servo ∈ L ∧ Part.traces ∈ L ∧ Part.pair ∈ L ∧ Part.queues ∈ L ∧ Part.rings ∈ L ∧ Part.q0Wanted ∈ L ∧ Part.due ∈ L ∧ Part.devSeq ∈ L ∧ Part.chans ∈ L ∧ Part.points ∈ L ∧ Part.nextIndex ∈ L ∧ Part.freed ∈ L ∧ Part.opens ∈ L ∧ Part.jobs ∈ L ∧ Part.nextJob ∈ L ∧ Part.tlb ∈ L ∧ Part.inval ∈ L ∧ Part.fetches ∈ L ∧ Part.nextFetch ∈ L ∧ Part.players ∈ L ∧ Part.treLast ∈ L ∧ Part.streams ∈ L ∧ Part.shds ∈ L ∧ Part.chains ∈ L ∧ Part.relays ∈ L ∧ Part.stores ∈ L ∧ Part.slice ∈ L ∧ Part.tableBanks ∈ L ∧ Part.lives ∈ L ∧ Part.ens ∈ L) (hok : Only L w0 s) : Ends (Only L w0) (execModResetNAssert ns s) := by
  unfold execModResetNAssert
  dsimp only
  repeat' split
  all_goals simp (maxDischargeDepth := 60) +contextual [hl, hok]

theorem execModResetNRelease_only (obs : BootObs) (hl : Part.free ∈ L ∧ Part.regs ∈ L ∧ Part.ctr ∈ L ∧ Part.log ∈ L ∧ Part.logLost ∈ L ∧ Part.pins ∈ L ∧ Part.boot ∈ L) (hok : Only L w0 s) : Ends (Only L w0) (execModResetNRelease obs s) := by
  unfold execModResetNRelease
  repeat' split
  all_goals simp (maxDischargeDepth := 60) +contextual [hl, hok]

theorem execUndervoltageStop_only (hl : Part.time ∈ L ∧ Part.regs ∈ L ∧ Part.latch ∈ L ∧ Part.ctr ∈ L ∧ Part.banks ∈ L ∧ Part.sample ∈ L ∧ Part.mem ∈ L ∧ Part.poison ∈ L ∧ Part.log ∈ L ∧ Part.logLost ∈ L ∧ Part.pins ∈ L ∧ Part.boot ∈ L ∧ Part.ports ∈ L ∧ Part.qps ∈ L ∧ Part.flows ∈ L ∧ Part.servo ∈ L ∧ Part.traces ∈ L ∧ Part.pair ∈ L ∧ Part.queues ∈ L ∧ Part.rings ∈ L ∧ Part.q0Wanted ∈ L ∧ Part.due ∈ L ∧ Part.devSeq ∈ L ∧ Part.chans ∈ L ∧ Part.points ∈ L ∧ Part.nextIndex ∈ L ∧ Part.freed ∈ L ∧ Part.opens ∈ L ∧ Part.jobs ∈ L ∧ Part.nextJob ∈ L ∧ Part.tlb ∈ L ∧ Part.inval ∈ L ∧ Part.fetches ∈ L ∧ Part.nextFetch ∈ L ∧ Part.players ∈ L ∧ Part.treLast ∈ L ∧ Part.streams ∈ L ∧ Part.shds ∈ L ∧ Part.chains ∈ L ∧ Part.relays ∈ L ∧ Part.stores ∈ L ∧ Part.slice ∈ L ∧ Part.tableBanks ∈ L ∧ Part.lives ∈ L ∧ Part.ens ∈ L) (hok : Only L w0 s) : Ends (Only L w0) (execUndervoltageStop s) := by
  unfold execUndervoltageStop
  repeat' split
  all_goals simp (maxDischargeDepth := 60) +contextual [hl, hok]

theorem execOvervoltageStop_only (hl : Part.time ∈ L ∧ Part.regs ∈ L ∧ Part.latch ∈ L ∧ Part.ctr ∈ L ∧ Part.banks ∈ L ∧ Part.sample ∈ L ∧ Part.mem ∈ L ∧ Part.poison ∈ L ∧ Part.log ∈ L ∧ Part.logLost ∈ L ∧ Part.pins ∈ L ∧ Part.boot ∈ L ∧ Part.ports ∈ L ∧ Part.qps ∈ L ∧ Part.flows ∈ L ∧ Part.servo ∈ L ∧ Part.traces ∈ L ∧ Part.pair ∈ L ∧ Part.queues ∈ L ∧ Part.rings ∈ L ∧ Part.q0Wanted ∈ L ∧ Part.due ∈ L ∧ Part.devSeq ∈ L ∧ Part.chans ∈ L ∧ Part.points ∈ L ∧ Part.nextIndex ∈ L ∧ Part.freed ∈ L ∧ Part.opens ∈ L ∧ Part.jobs ∈ L ∧ Part.nextJob ∈ L ∧ Part.tlb ∈ L ∧ Part.inval ∈ L ∧ Part.fetches ∈ L ∧ Part.nextFetch ∈ L ∧ Part.players ∈ L ∧ Part.treLast ∈ L ∧ Part.streams ∈ L ∧ Part.shds ∈ L ∧ Part.chains ∈ L ∧ Part.relays ∈ L ∧ Part.stores ∈ L ∧ Part.slice ∈ L ∧ Part.tableBanks ∈ L ∧ Part.lives ∈ L ∧ Part.ens ∈ L) (hok : Only L w0 s) : Ends (Only L w0) (execOvervoltageStop s) := by
  unfold execOvervoltageStop
  repeat' split
  all_goals simp (maxDischargeDepth := 60) +contextual [hl, hok]

theorem execOvercurrentStop_only (hl : Part.time ∈ L ∧ Part.regs ∈ L ∧ Part.latch ∈ L ∧ Part.ctr ∈ L ∧ Part.banks ∈ L ∧ Part.sample ∈ L ∧ Part.mem ∈ L ∧ Part.poison ∈ L ∧ Part.log ∈ L ∧ Part.logLost ∈ L ∧ Part.pins ∈ L ∧ Part.boot ∈ L ∧ Part.ports ∈ L ∧ Part.qps ∈ L ∧ Part.flows ∈ L ∧ Part.servo ∈ L ∧ Part.traces ∈ L ∧ Part.pair ∈ L ∧ Part.queues ∈ L ∧ Part.rings ∈ L ∧ Part.q0Wanted ∈ L ∧ Part.due ∈ L ∧ Part.devSeq ∈ L ∧ Part.chans ∈ L ∧ Part.points ∈ L ∧ Part.nextIndex ∈ L ∧ Part.freed ∈ L ∧ Part.opens ∈ L ∧ Part.jobs ∈ L ∧ Part.nextJob ∈ L ∧ Part.tlb ∈ L ∧ Part.inval ∈ L ∧ Part.fetches ∈ L ∧ Part.nextFetch ∈ L ∧ Part.players ∈ L ∧ Part.treLast ∈ L ∧ Part.streams ∈ L ∧ Part.shds ∈ L ∧ Part.chains ∈ L ∧ Part.relays ∈ L ∧ Part.stores ∈ L ∧ Part.slice ∈ L ∧ Part.tableBanks ∈ L ∧ Part.lives ∈ L ∧ Part.ens ∈ L) (hok : Only L w0 s) : Ends (Only L w0) (execOvercurrentStop s) := by
  unfold execOvercurrentStop
  repeat' split
  all_goals simp (maxDischargeDepth := 60) +contextual [hl, hok]

theorem execPowerSample_only (cv ma : Nat) (hl : Part.regs ∈ L ∧ Part.ctr ∈ L ∧ Part.log ∈ L ∧ Part.logLost ∈ L ∧ Part.pins ∈ L) (hok : Only L w0 s) : Ends (Only L w0) (execPowerSample cv ma s) := by
  unfold execPowerSample
  dsimp only
  repeat' split
  all_goals simp (maxDischargeDepth := 60) +contextual [hl, hok]

theorem execTempSample_only (die : List Nat) (plate : Nat) (hl : Part.time ∈ L ∧ Part.regs ∈ L ∧ Part.latch ∈ L ∧ Part.ctr ∈ L ∧ Part.banks ∈ L ∧ Part.sample ∈ L ∧ Part.mem ∈ L ∧ Part.poison ∈ L ∧ Part.log ∈ L ∧ Part.logLost ∈ L ∧ Part.pins ∈ L ∧ Part.boot ∈ L ∧ Part.ports ∈ L ∧ Part.qps ∈ L ∧ Part.flows ∈ L ∧ Part.servo ∈ L ∧ Part.traces ∈ L ∧ Part.pair ∈ L ∧ Part.queues ∈ L ∧ Part.rings ∈ L ∧ Part.q0Wanted ∈ L ∧ Part.due ∈ L ∧ Part.devSeq ∈ L ∧ Part.chans ∈ L ∧ Part.points ∈ L ∧ Part.nextIndex ∈ L ∧ Part.freed ∈ L ∧ Part.opens ∈ L ∧ Part.jobs ∈ L ∧ Part.nextJob ∈ L ∧ Part.tlb ∈ L ∧ Part.inval ∈ L ∧ Part.fetches ∈ L ∧ Part.nextFetch ∈ L ∧ Part.players ∈ L ∧ Part.treLast ∈ L ∧ Part.streams ∈ L ∧ Part.shds ∈ L ∧ Part.chains ∈ L ∧ Part.relays ∈ L ∧ Part.stores ∈ L ∧ Part.slice ∈ L ∧ Part.tableBanks ∈ L ∧ Part.lives ∈ L ∧ Part.ens ∈ L) (hok : Only L w0 s) : Ends (Only L w0) (execTempSample die plate s) := by
  unfold execTempSample
  dsimp only
  repeat' split
  all_goals simp (maxDischargeDepth := 60) +contextual [hl, hok]

theorem execPllLockLoss_only (memory : Bool) (hl : Part.time ∈ L ∧ Part.regs ∈ L ∧ Part.latch ∈ L ∧ Part.ctr ∈ L ∧ Part.banks ∈ L ∧ Part.sample ∈ L ∧ Part.mem ∈ L ∧ Part.poison ∈ L ∧ Part.log ∈ L ∧ Part.logLost ∈ L ∧ Part.pins ∈ L ∧ Part.boot ∈ L ∧ Part.ports ∈ L ∧ Part.qps ∈ L ∧ Part.flows ∈ L ∧ Part.servo ∈ L ∧ Part.traces ∈ L ∧ Part.pair ∈ L ∧ Part.queues ∈ L ∧ Part.rings ∈ L ∧ Part.q0Wanted ∈ L ∧ Part.due ∈ L ∧ Part.devSeq ∈ L ∧ Part.chans ∈ L ∧ Part.points ∈ L ∧ Part.nextIndex ∈ L ∧ Part.freed ∈ L ∧ Part.opens ∈ L ∧ Part.jobs ∈ L ∧ Part.nextJob ∈ L ∧ Part.tlb ∈ L ∧ Part.inval ∈ L ∧ Part.fetches ∈ L ∧ Part.nextFetch ∈ L ∧ Part.players ∈ L ∧ Part.treLast ∈ L ∧ Part.streams ∈ L ∧ Part.shds ∈ L ∧ Part.chains ∈ L ∧ Part.relays ∈ L ∧ Part.stores ∈ L ∧ Part.slice ∈ L ∧ Part.tableBanks ∈ L ∧ Part.lives ∈ L ∧ Part.ens ∈ L) (hok : Only L w0 s) : Ends (Only L w0) (execPllLockLoss memory s) := by
  unfold execPllLockLoss
  repeat' split
  all_goals simp (maxDischargeDepth := 60) +contextual [hl, hok]

theorem execEthPllLockLoss_only (hl : Part.regs ∈ L ∧ Part.ctr ∈ L) (hok : Only L w0 s) : Ends (Only L w0) (execEthPllLockLoss s) := by
  unfold execEthPllLockLoss
  repeat' split
  all_goals simp (maxDischargeDepth := 60) +contextual [hl, hok]

theorem execHello_only (h : LoadHdr) (imageLen qp psn key : Nat) (hl : Part.regs ∈ L ∧ Part.ctr ∈ L ∧ Part.out ∈ L ∧ Part.log ∈ L ∧ Part.logLost ∈ L ∧ Part.pins ∈ L ∧ Part.boot ∈ L) (hok : Only L w0 s) : Ends (Only L w0) (execHello h imageLen qp psn key s) := by
  unfold execHello
  repeat' split
  all_goals simp (maxDischargeDepth := 60) +contextual [hl, hok]

theorem execData_only (h : LoadHdr) (offset : Nat) (bytes : List Byte) (hl : Part.ctr ∈ L ∧ Part.out ∈ L ∧ Part.boot ∈ L) (hok : Only L w0 s) : Ends (Only L w0) (execData h offset bytes s) := by
  unfold execData
  dsimp only
  repeat' split
  all_goals simp (maxDischargeDepth := 60) +contextual [hl, hok]

theorem execEndImage_only (h : LoadHdr) (hl : Part.regs ∈ L ∧ Part.ctr ∈ L ∧ Part.out ∈ L ∧ Part.log ∈ L ∧ Part.logLost ∈ L ∧ Part.pins ∈ L ∧ Part.boot ∈ L) (hok : Only L w0 s) : Ends (Only L w0) (execEndImage h s) := by
  unfold execEndImage
  dsimp only
  repeat' split
  all_goals simp (maxDischargeDepth := 60) +contextual [hl, hok]

theorem execAbortLoad_only (h : LoadHdr) (hl : Part.regs ∈ L ∧ Part.ctr ∈ L ∧ Part.boot ∈ L) (hok : Only L w0 s) : Ends (Only L w0) (execAbortLoad h s) := by
  unfold execAbortLoad
  repeat' split
  all_goals simp (maxDischargeDepth := 60) +contextual [hl, hok]

theorem execImageVerifyDone_only (hl : Part.free ∈ L ∧ Part.regs ∈ L ∧ Part.ctr ∈ L ∧ Part.out ∈ L ∧ Part.log ∈ L ∧ Part.logLost ∈ L ∧ Part.pins ∈ L ∧ Part.boot ∈ L) (hok : Only L w0 s) : Ends (Only L w0) (execImageVerifyDone s) := by
  unfold execImageVerifyDone
  dsimp only
  repeat' split
  all_goals simp (maxDischargeDepth := 60) +contextual [hl, hok]

theorem execOperational_only (ms : Nat) (hl : Part.regs ∈ L ∧ Part.ctr ∈ L ∧ Part.out ∈ L ∧ Part.log ∈ L ∧ Part.logLost ∈ L ∧ Part.pins ∈ L ∧ Part.boot ∈ L ∧ Part.qps ∈ L) (hok : Only L w0 s) : Ends (Only L w0) (execOperational ms s) := by
  unfold execOperational
  repeat' split
  all_goals simp (maxDischargeDepth := 60) +contextual [hl, hok]

theorem execFrameReceive_only (port : Fin 4) (pcp : Option (Fin 8)) (dscp : Fin 64) (len : Nat) (rtcp ce : Bool) (drained : Nat) (hl : Part.regs ∈ L ∧ Part.ctr ∈ L ∧ Part.out ∈ L ∧ Part.ports ∈ L) (hok : Only L w0 s) : Ends (Only L w0) (execFrameReceive port pcp dscp len rtcp ce drained s) := by
  unfold execFrameReceive
  dsimp only
  repeat' split
  all_goals simp (maxDischargeDepth := 60) +contextual [hl, hok]

theorem execPfcRefresh_only (hl : Part.ctr ∈ L ∧ Part.out ∈ L) (hok : Only L w0 s) : Ends (Only L w0) (execPfcRefresh s) := by
  unfold execPfcRefresh
  all_goals simp (maxDischargeDepth := 60) +contextual [hl, hok]

theorem execPfcResume_only (port : Fin 4) (prio : Fin 8) (drained : Nat) (hl : Part.regs ∈ L ∧ Part.ctr ∈ L ∧ Part.out ∈ L ∧ Part.ports ∈ L) (hok : Only L w0 s) : Ends (Only L w0) (execPfcResume port prio drained s) := by
  unfold execPfcResume
  dsimp only
  repeat' split
  all_goals simp (maxDischargeDepth := 60) +contextual [hl, hok]

theorem execPauseReceive_only (port : Fin 4) (prio : Fin 8) (quanta : BitVec 16) (hl : Part.regs ∈ L ∧ Part.ctr ∈ L ∧ Part.out ∈ L ∧ Part.ports ∈ L) (hok : Only L w0 s) : Ends (Only L w0) (execPauseReceive port prio quanta s) := by
  unfold execPauseReceive
  dsimp only
  repeat' split
  all_goals simp (maxDischargeDepth := 60) +contextual [hl, hok]

theorem execPfcWatchdog_only (port : Fin 4) (prio : Fin 8) (hl : Part.regs ∈ L ∧ Part.ctr ∈ L ∧ Part.ports ∈ L) (hok : Only L w0 s) : Ends (Only L w0) (execPfcWatchdog port prio s) := by
  unfold execPfcWatchdog
  dsimp only
  repeat' split
  all_goals simp (maxDischargeDepth := 60) +contextual [hl, hok]

theorem execLinkChange_only (port : Fin 4) (up : Bool) (hl : Part.regs ∈ L ∧ Part.ctr ∈ L) (hok : Only L w0 s) : Ends (Only L w0) (execLinkChange port up s) := by
  unfold execLinkChange
  repeat' split
  all_goals simp (maxDischargeDepth := 60) +contextual [hl, hok]

theorem execEthCtrlWrite_only (port : Fin 4) (w : Word) (hl : Part.regs ∈ L ∧ Part.ctr ∈ L) (hok : Only L w0 s) : Ends (Only L w0) (execEthCtrlWrite port w s) := by
  unfold execEthCtrlWrite
  all_goals simp (maxDischargeDepth := 60) +contextual [hl, hok]

theorem execRdmaAckReceive_only (qp : Fin 4096) (n : Nat) (bytes : List Byte) (ce : Bool) (hl : Part.ctr ∈ L ∧ Part.out ∈ L ∧ Part.ports ∈ L ∧ Part.qps ∈ L ∧ Part.rings ∈ L ∧ Part.jobs ∈ L ∧ Part.fetches ∈ L) (hok : Only L w0 s) : Ends (Only L w0) (execRdmaAckReceive qp n bytes ce s) := by
  unfold execRdmaAckReceive
  dsimp only
  repeat' split
  all_goals simp (maxDischargeDepth := 60) +contextual [hl, hok]

theorem execRdmaRetransmit_only (qp : Fin 4096) (hl : Part.regs ∈ L ∧ Part.ctr ∈ L ∧ Part.out ∈ L ∧ Part.ports ∈ L ∧ Part.qps ∈ L ∧ Part.rings ∈ L ∧ Part.jobs ∈ L ∧ Part.fetches ∈ L) (hok : Only L w0 s) : Ends (Only L w0) (execRdmaRetransmit qp s) := by
  unfold execRdmaRetransmit
  all_goals simp (maxDischargeDepth := 60) +contextual [hl, hok]

theorem execRdmaNakReceive_only (qp : Fin 4096) (kind : Nak) (hl : Part.regs ∈ L ∧ Part.ctr ∈ L ∧ Part.out ∈ L ∧ Part.ports ∈ L ∧ Part.qps ∈ L ∧ Part.rings ∈ L ∧ Part.jobs ∈ L ∧ Part.fetches ∈ L) (hok : Only L w0 s) : Ends (Only L w0) (execRdmaNakReceive qp kind s) := by
  unfold execRdmaNakReceive
  dsimp only
  repeat' split
  all_goals simp (maxDischargeDepth := 60) +contextual [hl, hok]

theorem execCnpReceive_only (qp : Fin 4096) (hl : Part.ctr ∈ L ∧ Part.qps ∈ L) (hok : Only L w0 s) : Ends (Only L w0) (execCnpReceive qp s) := by
  unfold execCnpReceive
  dsimp only
  repeat' split
  all_goals simp (maxDischargeDepth := 60) +contextual [hl, hok]

theorem execCcRateRise_only (qp : Fin 4096) (hl : Part.qps ∈ L) (hok : Only L w0 s) : Ends (Only L w0) (execCcRateRise qp s) := by
  unfold execCcRateRise
  dsimp only
  repeat' split
  all_goals simp (maxDischargeDepth := 60) +contextual [hl, hok]

theorem execQpReset_only (qp : Fin 4096) (w : Word) (hl : Part.regs ∈ L ∧ Part.ctr ∈ L ∧ Part.qps ∈ L ∧ Part.rings ∈ L ∧ Part.jobs ∈ L ∧ Part.fetches ∈ L) (hok : Only L w0 s) : Ends (Only L w0) (execQpReset qp w s) := by
  unfold execQpReset
  all_goals simp (maxDischargeDepth := 60) +contextual [hl, hok]

theorem execQpReady_only (qp : Fin 4096) (w : Word) (hl : Part.regs ∈ L ∧ Part.ctr ∈ L ∧ Part.qps ∈ L ∧ Part.rings ∈ L ∧ Part.jobs ∈ L ∧ Part.fetches ∈ L) (hok : Only L w0 s) : Ends (Only L w0) (execQpReady qp w s) := by
  unfold execQpReady
  all_goals simp (maxDischargeDepth := 60) +contextual [hl, hok]

theorem execQpCfgWrite_only (qp : Fin 4096) (w : Word) (hl : Part.regs ∈ L ∧ Part.ctr ∈ L ∧ Part.qps ∈ L ∧ Part.rings ∈ L ∧ Part.jobs ∈ L ∧ Part.fetches ∈ L) (hok : Only L w0 s) : Ends (Only L w0) (execQpCfgWrite qp w s) := by
  unfold execQpCfgWrite
  all_goals simp (maxDischargeDepth := 60) +contextual [hl, hok]

theorem execXltInvalidate_only (w : Word) (hl : Part.regs ∈ L ∧ Part.ctr ∈ L ∧ Part.pins ∈ L ∧ Part.inval ∈ L) (hok : Only L w0 s) : Ends (Only L w0) (execXltInvalidate w s) := by
  unfold execXltInvalidate
  all_goals simp (maxDischargeDepth := 60) +contextual [hl, hok]

theorem execXltInvalDone_only (hl : Part.regs ∈ L ∧ Part.ctr ∈ L ∧ Part.tlb ∈ L ∧ Part.inval ∈ L) (hok : Only L w0 s) : Ends (Only L w0) (execXltInvalDone s) := by
  unfold execXltInvalDone
  repeat' split
  all_goals simp (maxDischargeDepth := 60) +contextual [hl, hok]

theorem execLpddrRead_only (a : Nat) (job : Option Nat) (ecc : Ecc) (hl : Part.regs ∈ L ∧ Part.ctr ∈ L ∧ Part.poison ∈ L ∧ Part.log ∈ L ∧ Part.logLost ∈ L ∧ Part.pins ∈ L ∧ Part.jobs ∈ L) (hok : Only L w0 s) : Ends (Only L w0) (execLpddrRead a job ecc s) := by
  unfold execLpddrRead
  dsimp only
  repeat' split
  all_goals simp (maxDischargeDepth := 60) +contextual [hl, hok]

theorem execLpddrWrite_only (a off : Nat) (bytes : List Byte) (job : Option Nat) (ecc : Ecc) (hl : Part.regs ∈ L ∧ Part.ctr ∈ L ∧ Part.mem ∈ L ∧ Part.poison ∈ L ∧ Part.log ∈ L ∧ Part.logLost ∈ L ∧ Part.pins ∈ L ∧ Part.jobs ∈ L) (hok : Only L w0 s) : Ends (Only L w0) (execLpddrWrite a off bytes job ecc s) := by
  unfold execLpddrWrite
  dsimp only
  repeat' split
  all_goals simp (maxDischargeDepth := 60) +contextual [hl, hok]

theorem execScrubLine_only (a : Nat) (ecc : Ecc) (raced : Bool) (hl : Part.regs ∈ L ∧ Part.ctr ∈ L ∧ Part.poison ∈ L ∧ Part.log ∈ L ∧ Part.logLost ∈ L ∧ Part.pins ∈ L) (hok : Only L w0 s) : Ends (Only L w0) (execScrubLine a ecc raced s) := by
  unfold execScrubLine
  dsimp only
  repeat' split
  all_goals simp (maxDischargeDepth := 60) +contextual [hl, hok]

theorem execNop_only (q : Fin 256) (e : Entry) (hl : Part.free ∈ L ∧ Part.regs ∈ L ∧ Part.ctr ∈ L ∧ Part.banks ∈ L ∧ Part.out ∈ L ∧ Part.log ∈ L ∧ Part.logLost ∈ L ∧ Part.pins ∈ L ∧ Part.ports ∈ L ∧ Part.qps ∈ L ∧ Part.pair ∈ L ∧ Part.queues ∈ L ∧ Part.rings ∈ L ∧ Part.due ∈ L ∧ Part.devSeq ∈ L ∧ Part.chans ∈ L ∧ Part.jobs ∈ L ∧ Part.fetches ∈ L) (hok : Only L w0 s) : Ends (Only L w0) (execNop q e s) := by
  unfold execNop
  all_goals simp (maxDischargeDepth := 60) +contextual [hl, hok]

theorem execSqCreate_only (q : Fin 256) (e : Entry) (hl : Part.free ∈ L ∧ Part.regs ∈ L ∧ Part.ctr ∈ L ∧ Part.banks ∈ L ∧ Part.out ∈ L ∧ Part.log ∈ L ∧ Part.logLost ∈ L ∧ Part.pins ∈ L ∧ Part.ports ∈ L ∧ Part.qps ∈ L ∧ Part.pair ∈ L ∧ Part.queues ∈ L ∧ Part.rings ∈ L ∧ Part.due ∈ L ∧ Part.devSeq ∈ L ∧ Part.chans ∈ L ∧ Part.jobs ∈ L ∧ Part.fetches ∈ L) (hok : Only L w0 s) : Ends (Only L w0) (execSqCreate q e s) := by
  unfold execSqCreate
  all_goals simp (maxDischargeDepth := 60) +contextual [hl, hok]

theorem execSqDelete_only (q : Fin 256) (e : Entry) (hl : Part.free ∈ L ∧ Part.regs ∈ L ∧ Part.ctr ∈ L ∧ Part.banks ∈ L ∧ Part.out ∈ L ∧ Part.log ∈ L ∧ Part.logLost ∈ L ∧ Part.pins ∈ L ∧ Part.ports ∈ L ∧ Part.qps ∈ L ∧ Part.pair ∈ L ∧ Part.queues ∈ L ∧ Part.rings ∈ L ∧ Part.due ∈ L ∧ Part.devSeq ∈ L ∧ Part.chans ∈ L ∧ Part.jobs ∈ L ∧ Part.fetches ∈ L) (hok : Only L w0 s) : Ends (Only L w0) (execSqDelete q e s) := by
  unfold execSqDelete
  all_goals simp (maxDischargeDepth := 60) +contextual [hl, hok]

theorem execCqCreate_only (q : Fin 256) (e : Entry) (hl : Part.free ∈ L ∧ Part.regs ∈ L ∧ Part.ctr ∈ L ∧ Part.banks ∈ L ∧ Part.out ∈ L ∧ Part.log ∈ L ∧ Part.logLost ∈ L ∧ Part.pins ∈ L ∧ Part.ports ∈ L ∧ Part.qps ∈ L ∧ Part.pair ∈ L ∧ Part.queues ∈ L ∧ Part.rings ∈ L ∧ Part.due ∈ L ∧ Part.devSeq ∈ L ∧ Part.chans ∈ L ∧ Part.jobs ∈ L ∧ Part.fetches ∈ L) (hok : Only L w0 s) : Ends (Only L w0) (execCqCreate q e s) := by
  unfold execCqCreate
  all_goals simp (maxDischargeDepth := 60) +contextual [hl, hok]

theorem execCqDelete_only (q : Fin 256) (e : Entry) (hl : Part.free ∈ L ∧ Part.regs ∈ L ∧ Part.ctr ∈ L ∧ Part.banks ∈ L ∧ Part.out ∈ L ∧ Part.log ∈ L ∧ Part.logLost ∈ L ∧ Part.pins ∈ L ∧ Part.ports ∈ L ∧ Part.qps ∈ L ∧ Part.pair ∈ L ∧ Part.queues ∈ L ∧ Part.rings ∈ L ∧ Part.due ∈ L ∧ Part.devSeq ∈ L ∧ Part.chans ∈ L ∧ Part.jobs ∈ L ∧ Part.fetches ∈ L) (hok : Only L w0 s) : Ends (Only L w0) (execCqDelete q e s) := by
  unfold execCqDelete
  all_goals simp (maxDischargeDepth := 60) +contextual [hl, hok]

theorem execDoorbell_only (q : Fin 256) (d : Dword) (hl : Part.regs ∈ L ∧ Part.ctr ∈ L ∧ Part.log ∈ L ∧ Part.logLost ∈ L ∧ Part.pins ∈ L ∧ Part.queues ∈ L ∧ Part.due ∈ L) (hok : Only L w0 s) : Ends (Only L w0) (execDoorbell q d s) := by
  unfold execDoorbell
  all_goals simp (maxDischargeDepth := 60) +contextual [hl, hok]

theorem execCqHeadWrite_only (r : Fin 256) (w : Word) (hl : Part.regs ∈ L ∧ Part.ctr ∈ L) (hok : Only L w0 s) : Ends (Only L w0) (execCqHeadWrite r w s) := by
  unfold execCqHeadWrite
  all_goals simp (maxDischargeDepth := 60) +contextual [hl, hok]

theorem execQ0EnSet_only (hl : Part.ctr ∈ L ∧ Part.q0Wanted ∈ L) (hok : Only L w0 s) : Ends (Only L w0) (execQ0EnSet s) := by
  unfold execQ0EnSet
  all_goals simp (maxDischargeDepth := 60) +contextual [hl, hok]

theorem execQ0EnTakeEffect_only (hl : Part.regs ∈ L ∧ Part.ctr ∈ L ∧ Part.pins ∈ L ∧ Part.queues ∈ L ∧ Part.rings ∈ L ∧ Part.q0Wanted ∈ L) (hok : Only L w0 s) : Ends (Only L w0) (execQ0EnTakeEffect s) := by
  unfold execQ0EnTakeEffect
  dsimp only
  repeat' split
  all_goals simp (maxDischargeDepth := 60) +contextual [hl, hok]

theorem execQ0EnClear_only (hl : Part.regs ∈ L ∧ Part.ctr ∈ L ∧ Part.queues ∈ L ∧ Part.rings ∈ L ∧ Part.q0Wanted ∈ L ∧ Part.due ∈ L ∧ Part.chans ∈ L) (hok : Only L w0 s) : Ends (Only L w0) (execQ0EnClear s) := by
  unfold execQ0EnClear
  all_goals simp (maxDischargeDepth := 60) +contextual [hl, hok]

theorem execCompletionWordWrite_only (r : Fin 256) (hl : Part.regs ∈ L ∧ Part.ctr ∈ L ∧ Part.out ∈ L ∧ Part.ports ∈ L ∧ Part.qps ∈ L ∧ Part.queues ∈ L ∧ Part.rings ∈ L ∧ Part.chans ∈ L ∧ Part.jobs ∈ L ∧ Part.fetches ∈ L) (hok : Only L w0 s) : Ends (Only L w0) (execCompletionWordWrite r s) := by
  unfold execCompletionWordWrite
  dsimp only
  repeat' split
  all_goals simp (maxDischargeDepth := 60) +contextual [hl, hok]

theorem execCompletionWriteFail_only (r : Fin 256) (hl : Part.regs ∈ L ∧ Part.rings ∈ L) (hok : Only L w0 s) : Ends (Only L w0) (execCompletionWriteFail r s) := by
  unfold execCompletionWriteFail
  repeat' split
  all_goals simp (maxDischargeDepth := 60) +contextual [hl, hok]

theorem execHifChProbeWrite_only (w : Word) (hl : Part.regs ∈ L ∧ Part.ctr ∈ L) (hok : Only L w0 s) : Ends (Only L w0) (execHifChProbeWrite w s) := by
  unfold execHifChProbeWrite
  all_goals simp (maxDischargeDepth := 60) +contextual [hl, hok]

theorem execContextSwap_only (handle : Word) (hl : Part.free ∈ L ∧ Part.regs ∈ L ∧ Part.ctr ∈ L ∧ Part.mem ∈ L ∧ Part.chans ∈ L) (hok : Only L w0 s) : Ends (Only L w0) (execContextSwap handle s) := by
  unfold execContextSwap
  split
  · exact hok
  · dsimp only
    split
    · exact hok
    · split
      · exact takeSlot_only ‹_› (by simp [hl]) hok
      · simp [hl, hok]

theorem execEnsForm_only (q : Fin 256) (e : Entry) (hl : Part.free ∈ L ∧ Part.regs ∈ L ∧ Part.ctr ∈ L ∧ Part.banks ∈ L ∧ Part.out ∈ L ∧ Part.log ∈ L ∧ Part.logLost ∈ L ∧ Part.pins ∈ L ∧ Part.ports ∈ L ∧ Part.qps ∈ L ∧ Part.pair ∈ L ∧ Part.queues ∈ L ∧ Part.rings ∈ L ∧ Part.due ∈ L ∧ Part.devSeq ∈ L ∧ Part.chans ∈ L ∧ Part.jobs ∈ L ∧ Part.fetches ∈ L ∧ Part.ens ∈ L) (hok : Only L w0 s) : Ends (Only L w0) (execEnsForm q e s) := by
  unfold execEnsForm
  all_goals simp (maxDischargeDepth := 60) +contextual [hl, hok]

theorem execEnsDissolve_only (q : Fin 256) (e : Entry) (hl : Part.free ∈ L ∧ Part.regs ∈ L ∧ Part.ctr ∈ L ∧ Part.banks ∈ L ∧ Part.out ∈ L ∧ Part.log ∈ L ∧ Part.logLost ∈ L ∧ Part.pins ∈ L ∧ Part.ports ∈ L ∧ Part.qps ∈ L ∧ Part.pair ∈ L ∧ Part.queues ∈ L ∧ Part.rings ∈ L ∧ Part.due ∈ L ∧ Part.devSeq ∈ L ∧ Part.chans ∈ L ∧ Part.jobs ∈ L ∧ Part.fetches ∈ L ∧ Part.ens ∈ L) (hok : Only L w0 s) : Ends (Only L w0) (execEnsDissolve q e s) := by
  unfold execEnsDissolve
  all_goals simp (maxDischargeDepth := 60) +contextual [hl, hok]

theorem execRetire_only (q : Fin 256) (e : Entry) (hl : Part.free ∈ L ∧ Part.regs ∈ L ∧ Part.ctr ∈ L ∧ Part.banks ∈ L ∧ Part.out ∈ L ∧ Part.log ∈ L ∧ Part.logLost ∈ L ∧ Part.pins ∈ L ∧ Part.ports ∈ L ∧ Part.qps ∈ L ∧ Part.pair ∈ L ∧ Part.queues ∈ L ∧ Part.rings ∈ L ∧ Part.due ∈ L ∧ Part.devSeq ∈ L ∧ Part.chans ∈ L ∧ Part.jobs ∈ L ∧ Part.fetches ∈ L) (hok : Only L w0 s) : Ends (Only L w0) (execRetire q e s) := by
  unfold execRetire
  all_goals simp (maxDischargeDepth := 60) +contextual [hl, hok]

theorem execReadmit_only (q : Fin 256) (e : Entry) (hl : Part.free ∈ L ∧ Part.regs ∈ L ∧ Part.ctr ∈ L ∧ Part.banks ∈ L ∧ Part.out ∈ L ∧ Part.log ∈ L ∧ Part.logLost ∈ L ∧ Part.pins ∈ L ∧ Part.ports ∈ L ∧ Part.qps ∈ L ∧ Part.pair ∈ L ∧ Part.queues ∈ L ∧ Part.rings ∈ L ∧ Part.due ∈ L ∧ Part.devSeq ∈ L ∧ Part.chans ∈ L ∧ Part.jobs ∈ L ∧ Part.fetches ∈ L) (hok : Only L w0 s) : Ends (Only L w0) (execReadmit q e s) := by
  unfold execReadmit
  all_goals simp (maxDischargeDepth := 60) +contextual [hl, hok]

theorem execChCreate_only (q : Fin 256) (e : Entry) (hl : Part.free ∈ L ∧ Part.regs ∈ L ∧ Part.ctr ∈ L ∧ Part.banks ∈ L ∧ Part.out ∈ L ∧ Part.log ∈ L ∧ Part.logLost ∈ L ∧ Part.pins ∈ L ∧ Part.ports ∈ L ∧ Part.qps ∈ L ∧ Part.pair ∈ L ∧ Part.queues ∈ L ∧ Part.rings ∈ L ∧ Part.due ∈ L ∧ Part.devSeq ∈ L ∧ Part.chans ∈ L ∧ Part.nextIndex ∈ L ∧ Part.freed ∈ L ∧ Part.jobs ∈ L ∧ Part.fetches ∈ L) (hok : Only L w0 s) : Ends (Only L w0) (execChCreate q e s) := by
  unfold execChCreate
  all_goals simp (maxDischargeDepth := 60) +contextual [hl, hok]

theorem execChSet_only (q : Fin 256) (e : Entry) (hl : Part.free ∈ L ∧ Part.regs ∈ L ∧ Part.ctr ∈ L ∧ Part.banks ∈ L ∧ Part.out ∈ L ∧ Part.log ∈ L ∧ Part.logLost ∈ L ∧ Part.pins ∈ L ∧ Part.ports ∈ L ∧ Part.qps ∈ L ∧ Part.pair ∈ L ∧ Part.queues ∈ L ∧ Part.rings ∈ L ∧ Part.due ∈ L ∧ Part.devSeq ∈ L ∧ Part.chans ∈ L ∧ Part.opens ∈ L ∧ Part.jobs ∈ L ∧ Part.fetches ∈ L) (hok : Only L w0 s) : Ends (Only L w0) (execChSet q e s) := by
  unfold execChSet
  all_goals simp (maxDischargeDepth := 60) +contextual [hl, hok]

theorem execStatsSet_only (q : Fin 256) (e : Entry) (hl : Part.free ∈ L ∧ Part.regs ∈ L ∧ Part.ctr ∈ L ∧ Part.banks ∈ L ∧ Part.out ∈ L ∧ Part.log ∈ L ∧ Part.logLost ∈ L ∧ Part.pins ∈ L ∧ Part.ports ∈ L ∧ Part.qps ∈ L ∧ Part.pair ∈ L ∧ Part.queues ∈ L ∧ Part.rings ∈ L ∧ Part.due ∈ L ∧ Part.devSeq ∈ L ∧ Part.chans ∈ L ∧ Part.jobs ∈ L ∧ Part.fetches ∈ L) (hok : Only L w0 s) : Ends (Only L w0) (execStatsSet q e s) := by
  unfold execStatsSet
  all_goals simp (maxDischargeDepth := 60) +contextual [hl, hok]

theorem execChEnsemble_only (q : Fin 256) (e : Entry) (hl : Part.free ∈ L ∧ Part.regs ∈ L ∧ Part.ctr ∈ L ∧ Part.banks ∈ L ∧ Part.mem ∈ L ∧ Part.out ∈ L ∧ Part.log ∈ L ∧ Part.logLost ∈ L ∧ Part.pins ∈ L ∧ Part.ports ∈ L ∧ Part.qps ∈ L ∧ Part.pair ∈ L ∧ Part.queues ∈ L ∧ Part.rings ∈ L ∧ Part.due ∈ L ∧ Part.devSeq ∈ L ∧ Part.chans ∈ L ∧ Part.jobs ∈ L ∧ Part.fetches ∈ L) (hok : Only L w0 s) : Ends (Only L w0) (execChEnsemble q e s) := by
  unfold execChEnsemble
  all_goals simp (maxDischargeDepth := 60) +contextual [hl, hok]

theorem execChContinue_only (q : Fin 256) (e : Entry) (hl : Part.free ∈ L ∧ Part.regs ∈ L ∧ Part.ctr ∈ L ∧ Part.banks ∈ L ∧ Part.out ∈ L ∧ Part.log ∈ L ∧ Part.logLost ∈ L ∧ Part.pins ∈ L ∧ Part.ports ∈ L ∧ Part.qps ∈ L ∧ Part.pair ∈ L ∧ Part.queues ∈ L ∧ Part.rings ∈ L ∧ Part.due ∈ L ∧ Part.devSeq ∈ L ∧ Part.chans ∈ L ∧ Part.jobs ∈ L ∧ Part.fetches ∈ L) (hok : Only L w0 s) : Ends (Only L w0) (execChContinue q e s) := by
  unfold execChContinue
  all_goals simp (maxDischargeDepth := 60) +contextual [hl, hok]

theorem execCancel_only (q : Fin 256) (e : Entry) (hl : Part.free ∈ L ∧ Part.regs ∈ L ∧ Part.ctr ∈ L ∧ Part.banks ∈ L ∧ Part.out ∈ L ∧ Part.log ∈ L ∧ Part.logLost ∈ L ∧ Part.pins ∈ L ∧ Part.ports ∈ L ∧ Part.qps ∈ L ∧ Part.pair ∈ L ∧ Part.queues ∈ L ∧ Part.rings ∈ L ∧ Part.due ∈ L ∧ Part.devSeq ∈ L ∧ Part.chans ∈ L ∧ Part.jobs ∈ L ∧ Part.fetches ∈ L) (hok : Only L w0 s) : Ends (Only L w0) (execCancel q e s) := by
  unfold execCancel
  all_goals simp (maxDischargeDepth := 60) +contextual [hl, hok]

theorem execTrcEnable_only (p : Fin 68) (w : Word) (hl : Part.regs ∈ L ∧ Part.ctr ∈ L ∧ Part.pins ∈ L ∧ Part.traces ∈ L) (hok : Only L w0 s) : Ends (Only L w0) (execTrcEnable p w s) := by
  unfold execTrcEnable
  all_goals simp (maxDischargeDepth := 60) +contextual [hl, hok]

theorem execTrcArm_only (p : Fin 68) (w : Word) (hl : Part.regs ∈ L ∧ Part.ctr ∈ L ∧ Part.traces ∈ L) (hok : Only L w0 s) : Ends (Only L w0) (execTrcArm p w s) := by
  unfold execTrcArm
  all_goals simp (maxDischargeDepth := 60) +contextual [hl, hok]

theorem execTrcNow_only (p : Fin 68) (w : Word) (hl : Part.regs ∈ L ∧ Part.ctr ∈ L ∧ Part.traces ∈ L) (hok : Only L w0 s) : Ends (Only L w0) (execTrcNow p w s) := by
  unfold execTrcNow
  all_goals simp (maxDischargeDepth := 60) +contextual [hl, hok]

theorem execTraceDrain_only (p : Fin 68) (hl : Part.regs ∈ L ∧ Part.ctr ∈ L ∧ Part.mem ∈ L ∧ Part.log ∈ L ∧ Part.logLost ∈ L ∧ Part.pins ∈ L ∧ Part.traces ∈ L) (hok : Only L w0 s) : Ends (Only L w0) (execTraceDrain p s) := by
  unfold execTraceDrain
  dsimp only
  repeat' split
  all_goals simp (maxDischargeDepth := 60) +contextual [hl, hok]

theorem execTraceSyncPeriod_only (p : Fin 68) (hl : Part.regs ∈ L ∧ Part.ctr ∈ L ∧ Part.traces ∈ L) (hok : Only L w0 s) : Ends (Only L w0) (execTraceSyncPeriod p s) := by
  unfold execTraceSyncPeriod
  dsimp only
  repeat' split
  all_goals simp (maxDischargeDepth := 60) +contextual [hl, hok]

theorem execDbgHalt_only (p : Fin 68) (t : Fin 8) (hl : Part.regs ∈ L ∧ Part.ctr ∈ L ∧ Part.pins ∈ L ∧ Part.traces ∈ L ∧ Part.jobs ∈ L ∧ Part.players ∈ L) (hok : Only L w0 s) : Ends (Only L w0) (execDbgHalt p t s) := by
  unfold execDbgHalt
  all_goals simp (maxDischargeDepth := 60) +contextual [hl, hok]

theorem execDbgResume_only (p : Fin 68) (t : Fin 8) (hl : Part.regs ∈ L ∧ Part.ctr ∈ L ∧ Part.pins ∈ L ∧ Part.traces ∈ L ∧ Part.jobs ∈ L ∧ Part.players ∈ L) (hok : Only L w0 s) : Ends (Only L w0) (execDbgResume p t s) := by
  unfold execDbgResume
  all_goals simp (maxDischargeDepth := 60) +contextual [hl, hok]

theorem execDbgStep_only (p : Fin 68) (t : Fin 8) (hl : Part.regs ∈ L ∧ Part.ctr ∈ L ∧ Part.pins ∈ L ∧ Part.jobs ∈ L ∧ Part.players ∈ L) (hok : Only L w0 s) : Ends (Only L w0) (execDbgStep p t s) := by
  unfold execDbgStep
  all_goals simp (maxDischargeDepth := 60) +contextual [hl, hok]

theorem execDbgDataWrite_only (hi : Bool) (w : Word) (hl : Part.regs ∈ L ∧ Part.ctr ∈ L ∧ Part.pins ∈ L ∧ Part.players ∈ L) (hok : Only L w0 s) : Ends (Only L w0) (execDbgDataWrite hi w s) := by
  unfold execDbgDataWrite
  all_goals simp (maxDischargeDepth := 60) +contextual [hl, hok]

theorem execInstructionRetire_only (p : Fin 68) (t : Fin 8) (hl : Part.free ∈ L ∧ Part.regs ∈ L ∧ Part.ctr ∈ L ∧ Part.mem ∈ L ∧ Part.log ∈ L ∧ Part.logLost ∈ L ∧ Part.pins ∈ L ∧ Part.traces ∈ L ∧ Part.jobs ∈ L ∧ Part.players ∈ L) (hok : Only L w0 s) : Ends (Only L w0) (execInstructionRetire p t s) := by
  unfold execInstructionRetire
  repeat' split
  all_goals simp (maxDischargeDepth := 60) +contextual [hl, hok]

theorem execCueIssue_only (p : Fin 68) (t : Fin 8) (hl : Part.regs ∈ L ∧ Part.ctr ∈ L ∧ Part.log ∈ L ∧ Part.logLost ∈ L ∧ Part.pins ∈ L ∧ Part.traces ∈ L ∧ Part.jobs ∈ L ∧ Part.players ∈ L) (hok : Only L w0 s) : Ends (Only L w0) (execCueIssue p t s) := by
  unfold execCueIssue
  repeat' split
  all_goals simp (maxDischargeDepth := 60) +contextual [hl, hok]

theorem execCueIssueUnpark_only (p : Fin 68) (t : Fin 8) (hl : Part.regs ∈ L ∧ Part.ctr ∈ L ∧ Part.traces ∈ L ∧ Part.jobs ∈ L ∧ Part.players ∈ L) (hok : Only L w0 s) : Ends (Only L w0) (execCueIssueUnpark p t s) := by
  unfold execCueIssueUnpark
  dsimp only
  repeat' split
  all_goals simp (maxDischargeDepth := 60) +contextual [hl, hok]

theorem execCueTry_only (p : Fin 68) (t : Fin 8) (hl : Part.regs ∈ L ∧ Part.ctr ∈ L ∧ Part.log ∈ L ∧ Part.logLost ∈ L ∧ Part.pins ∈ L ∧ Part.traces ∈ L ∧ Part.jobs ∈ L ∧ Part.players ∈ L) (hok : Only L w0 s) : Ends (Only L w0) (execCueTry p t s) := by
  unfold execCueTry
  repeat' split
  all_goals simp (maxDischargeDepth := 60) +contextual [hl, hok]

theorem execSemWait_only (p : Fin 68) (t : Fin 8) (hl : Part.regs ∈ L ∧ Part.ctr ∈ L ∧ Part.log ∈ L ∧ Part.logLost ∈ L ∧ Part.pins ∈ L ∧ Part.traces ∈ L ∧ Part.jobs ∈ L ∧ Part.players ∈ L) (hok : Only L w0 s) : Ends (Only L w0) (execSemWait p t s) := by
  unfold execSemWait
  repeat' split
  all_goals simp (maxDischargeDepth := 60) +contextual [hl, hok]

theorem execSemWaitTake_only (p : Fin 68) (t : Fin 8) (hl : Part.regs ∈ L ∧ Part.ctr ∈ L ∧ Part.traces ∈ L ∧ Part.jobs ∈ L ∧ Part.players ∈ L) (hok : Only L w0 s) : Ends (Only L w0) (execSemWaitTake p t s) := by
  unfold execSemWaitTake
  dsimp only
  repeat' split
  all_goals simp (maxDischargeDepth := 60) +contextual [hl, hok]

theorem execSemTry_only (p : Fin 68) (t : Fin 8) (hl : Part.regs ∈ L ∧ Part.ctr ∈ L ∧ Part.log ∈ L ∧ Part.logLost ∈ L ∧ Part.pins ∈ L ∧ Part.traces ∈ L ∧ Part.jobs ∈ L ∧ Part.players ∈ L) (hok : Only L w0 s) : Ends (Only L w0) (execSemTry p t s) := by
  unfold execSemTry
  repeat' split
  all_goals simp (maxDischargeDepth := 60) +contextual [hl, hok]

theorem execSemRead_only (p : Fin 68) (t : Fin 8) (hl : Part.regs ∈ L ∧ Part.ctr ∈ L ∧ Part.log ∈ L ∧ Part.logLost ∈ L ∧ Part.pins ∈ L ∧ Part.traces ∈ L ∧ Part.jobs ∈ L ∧ Part.players ∈ L) (hok : Only L w0 s) : Ends (Only L w0) (execSemRead p t s) := by
  unfold execSemRead
  repeat' split
  all_goals simp (maxDischargeDepth := 60) +contextual [hl, hok]

theorem execSemPost_only (p : Fin 68) (t : Fin 8) (hl : Part.regs ∈ L ∧ Part.ctr ∈ L ∧ Part.log ∈ L ∧ Part.logLost ∈ L ∧ Part.pins ∈ L ∧ Part.traces ∈ L ∧ Part.jobs ∈ L ∧ Part.players ∈ L) (hok : Only L w0 s) : Ends (Only L w0) (execSemPost p t s) := by
  unfold execSemPost
  repeat' split
  all_goals simp (maxDischargeDepth := 60) +contextual [hl, hok]

theorem execRemotePostArrive_only (p src : Fin 68) (hl : Part.regs ∈ L ∧ Part.ctr ∈ L ∧ Part.log ∈ L ∧ Part.logLost ∈ L ∧ Part.pins ∈ L ∧ Part.traces ∈ L ∧ Part.jobs ∈ L ∧ Part.players ∈ L) (hok : Only L w0 s) : Ends (Only L w0) (execRemotePostArrive p src s) := by
  unfold execRemotePostArrive
  dsimp only
  repeat' split
  all_goals simp (maxDischargeDepth := 60) +contextual [hl, hok]

theorem execFenceCue_only (p : Fin 68) (t : Fin 8) (hl : Part.regs ∈ L ∧ Part.ctr ∈ L ∧ Part.log ∈ L ∧ Part.logLost ∈ L ∧ Part.pins ∈ L ∧ Part.traces ∈ L ∧ Part.jobs ∈ L ∧ Part.players ∈ L) (hok : Only L w0 s) : Ends (Only L w0) (execFenceCue p t s) := by
  unfold execFenceCue
  repeat' split
  all_goals simp (maxDischargeDepth := 60) +contextual [hl, hok]

theorem execFenceCueRelease_only (p : Fin 68) (t : Fin 8) (hl : Part.regs ∈ L ∧ Part.ctr ∈ L ∧ Part.traces ∈ L ∧ Part.jobs ∈ L ∧ Part.players ∈ L) (hok : Only L w0 s) : Ends (Only L w0) (execFenceCueRelease p t s) := by
  unfold execFenceCueRelease
  dsimp only
  repeat' split
  all_goals simp (maxDischargeDepth := 60) +contextual [hl, hok]

theorem execBar_only (p : Fin 68) (t : Fin 8) (hl : Part.regs ∈ L ∧ Part.ctr ∈ L ∧ Part.log ∈ L ∧ Part.logLost ∈ L ∧ Part.pins ∈ L ∧ Part.traces ∈ L ∧ Part.jobs ∈ L ∧ Part.players ∈ L) (hok : Only L w0 s) : Ends (Only L w0) (execBar p t s) := by
  unfold execBar
  repeat' split
  all_goals simp (maxDischargeDepth := 60) +contextual [hl, hok]

theorem execYield_only (p : Fin 68) (t : Fin 8) (hl : Part.regs ∈ L ∧ Part.ctr ∈ L ∧ Part.log ∈ L ∧ Part.logLost ∈ L ∧ Part.pins ∈ L ∧ Part.traces ∈ L ∧ Part.jobs ∈ L ∧ Part.players ∈ L) (hok : Only L w0 s) : Ends (Only L w0) (execYield p t s) := by
  unfold execYield
  repeat' split
  all_goals simp (maxDischargeDepth := 60) +contextual [hl, hok]

theorem execJobEnd_only (p : Fin 68) (t : Fin 8) (hl : Part.regs ∈ L ∧ Part.ctr ∈ L ∧ Part.log ∈ L ∧ Part.logLost ∈ L ∧ Part.pins ∈ L ∧ Part.traces ∈ L ∧ Part.jobs ∈ L ∧ Part.players ∈ L ∧ Part.streams ∈ L) (hok : Only L w0 s) : Ends (Only L w0) (execJobEnd p t s) := by
  unfold execJobEnd
  repeat' split
  all_goals simp (maxDischargeDepth := 60) +contextual [hl, hok]

theorem execCueNop_only (p : Fin 68) (cls : Nat) (hl : Part.regs ∈ L ∧ Part.ctr ∈ L ∧ Part.log ∈ L ∧ Part.logLost ∈ L ∧ Part.pins ∈ L ∧ Part.traces ∈ L ∧ Part.jobs ∈ L ∧ Part.players ∈ L ∧ Part.streams ∈ L) (hok : Only L w0 s) : Ends (Only L w0) (execCueNop p cls s) := by
  unfold execCueNop
  repeat' split
  all_goals simp (maxDischargeDepth := 60) +contextual [hl, hok]

theorem execMacPsum_only (p : Fin 68) (hl : Part.regs ∈ L ∧ Part.ctr ∈ L ∧ Part.mem ∈ L ∧ Part.log ∈ L ∧ Part.logLost ∈ L ∧ Part.pins ∈ L ∧ Part.traces ∈ L ∧ Part.jobs ∈ L ∧ Part.players ∈ L) (hok : Only L w0 s) : Ends (Only L w0) (execMacPsum p s) := by
  unfold execMacPsum
  dsimp only
  repeat' split
  all_goals simp (maxDischargeDepth := 60) +contextual [hl, hok]

@[simp] theorem runVec_only (op : Nat) (body : Nat → VecJob → State → State) (p : Fin 68) (ok_body : ∀ x0 x1 u, Only L w0 u → Only L w0 (body x0 x1 u)) (hl : Part.regs ∈ L ∧ Part.ctr ∈ L ∧ Part.log ∈ L ∧ Part.logLost ∈ L ∧ Part.pins ∈ L ∧ Part.traces ∈ L ∧ Part.jobs ∈ L ∧ Part.players ∈ L) (hok : Only L w0 s) : Ends (Only L w0) (runVec op body p s) := by
  unfold runVec
  dsimp only
  repeat' split
  all_goals simp (maxDischargeDepth := 60) +contextual [hl, hok, ok_body]

theorem execVecElt_only (p : Fin 68) (hl : Part.regs ∈ L ∧ Part.ctr ∈ L ∧ Part.mem ∈ L ∧ Part.log ∈ L ∧ Part.logLost ∈ L ∧ Part.pins ∈ L ∧ Part.traces ∈ L ∧ Part.jobs ∈ L ∧ Part.players ∈ L) (hok : Only L w0 s) : Ends (Only L w0) (execVecElt p s) := by
  unfold execVecElt
  simp (maxDischargeDepth := 60) +contextual [hl, hok]

theorem execVecFunc_only (p : Fin 68) (hl : Part.regs ∈ L ∧ Part.ctr ∈ L ∧ Part.mem ∈ L ∧ Part.log ∈ L ∧ Part.logLost ∈ L ∧ Part.pins ∈ L ∧ Part.traces ∈ L ∧ Part.jobs ∈ L ∧ Part.players ∈ L) (hok : Only L w0 s) : Ends (Only L w0) (execVecFunc p s) := by
  unfold execVecFunc
  simp (maxDischargeDepth := 60) +contextual [hl, hok]

theorem execVecConv_only (p : Fin 68) (hl : Part.regs ∈ L ∧ Part.ctr ∈ L ∧ Part.mem ∈ L ∧ Part.log ∈ L ∧ Part.logLost ∈ L ∧ Part.pins ∈ L ∧ Part.traces ∈ L ∧ Part.jobs ∈ L ∧ Part.players ∈ L) (hok : Only L w0 s) : Ends (Only L w0) (execVecConv p s) := by
  unfold execVecConv
  simp (maxDischargeDepth := 60) +contextual [hl, hok]

theorem execVecScale_only (p : Fin 68) (hl : Part.regs ∈ L ∧ Part.ctr ∈ L ∧ Part.mem ∈ L ∧ Part.log ∈ L ∧ Part.logLost ∈ L ∧ Part.pins ∈ L ∧ Part.traces ∈ L ∧ Part.jobs ∈ L ∧ Part.players ∈ L) (hok : Only L w0 s) : Ends (Only L w0) (execVecScale p s) := by
  unfold execVecScale
  simp (maxDischargeDepth := 60) +contextual [hl, hok]

theorem execVecAdam_only (p : Fin 68) (hl : Part.regs ∈ L ∧ Part.ctr ∈ L ∧ Part.mem ∈ L ∧ Part.log ∈ L ∧ Part.logLost ∈ L ∧ Part.pins ∈ L ∧ Part.traces ∈ L ∧ Part.jobs ∈ L ∧ Part.players ∈ L) (hok : Only L w0 s) : Ends (Only L w0) (execVecAdam p s) := by
  unfold execVecAdam
  simp (maxDischargeDepth := 60) +contextual [hl, hok]

theorem execVecWarp_only (p : Fin 68) (hl : Part.regs ∈ L ∧ Part.ctr ∈ L ∧ Part.mem ∈ L ∧ Part.log ∈ L ∧ Part.logLost ∈ L ∧ Part.pins ∈ L ∧ Part.traces ∈ L ∧ Part.jobs ∈ L ∧ Part.players ∈ L) (hok : Only L w0 s) : Ends (Only L w0) (execVecWarp p s) := by
  unfold execVecWarp
  simp (maxDischargeDepth := 60) +contextual [hl, hok]

theorem execVecReduce_only (p : Fin 68) (hl : Part.regs ∈ L ∧ Part.ctr ∈ L ∧ Part.mem ∈ L ∧ Part.log ∈ L ∧ Part.logLost ∈ L ∧ Part.pins ∈ L ∧ Part.traces ∈ L ∧ Part.jobs ∈ L ∧ Part.players ∈ L) (hok : Only L w0 s) : Ends (Only L w0) (execVecReduce p s) := by
  unfold execVecReduce
  simp (maxDischargeDepth := 60) +contextual [hl, hok]

theorem execVecMove_only (p : Fin 68) (hl : Part.regs ∈ L ∧ Part.ctr ∈ L ∧ Part.mem ∈ L ∧ Part.log ∈ L ∧ Part.logLost ∈ L ∧ Part.pins ∈ L ∧ Part.traces ∈ L ∧ Part.jobs ∈ L ∧ Part.players ∈ L) (hok : Only L w0 s) : Ends (Only L w0) (execVecMove p s) := by
  unfold execVecMove
  simp (maxDischargeDepth := 60) +contextual [hl, hok]

theorem execVecQlat_only (p : Fin 68) (hl : Part.regs ∈ L ∧ Part.ctr ∈ L ∧ Part.mem ∈ L ∧ Part.log ∈ L ∧ Part.logLost ∈ L ∧ Part.pins ∈ L ∧ Part.traces ∈ L ∧ Part.jobs ∈ L ∧ Part.players ∈ L) (hok : Only L w0 s) : Ends (Only L w0) (execVecQlat p s) := by
  unfold execVecQlat
  simp (maxDischargeDepth := 60) +contextual [hl, hok]

@[simp] theorem runTab_only (op : Nat) (f : State → Nat → Nat → Int → Int) (ok : State → Nat → Nat → Bool) (p : Fin 68) (hl : Part.regs ∈ L ∧ Part.ctr ∈ L ∧ Part.mem ∈ L ∧ Part.log ∈ L ∧ Part.logLost ∈ L ∧ Part.pins ∈ L ∧ Part.traces ∈ L ∧ Part.jobs ∈ L ∧ Part.players ∈ L) (hok : Only L w0 s) : Ends (Only L w0) (runTab op f ok p s) := by
  unfold runTab
  dsimp only
  repeat' split
  all_goals simp (maxDischargeDepth := 60) +contextual [hl, hok]

theorem execTabLookup_only (p : Fin 68) (hl : Part.regs ∈ L ∧ Part.ctr ∈ L ∧ Part.mem ∈ L ∧ Part.log ∈ L ∧ Part.logLost ∈ L ∧ Part.pins ∈ L ∧ Part.traces ∈ L ∧ Part.jobs ∈ L ∧ Part.players ∈ L) (hok : Only L w0 s) : Ends (Only L w0) (execTabLookup p s) :=
  runTab_only _ _ _ _ (by simp [hl]) hok

theorem execTabBucket_only (p : Fin 68) (hl : Part.regs ∈ L ∧ Part.ctr ∈ L ∧ Part.mem ∈ L ∧ Part.log ∈ L ∧ Part.logLost ∈ L ∧ Part.pins ∈ L ∧ Part.traces ∈ L ∧ Part.jobs ∈ L ∧ Part.players ∈ L) (hok : Only L w0 s) : Ends (Only L w0) (execTabBucket p s) :=
  runTab_only _ _ _ _ (by simp [hl]) hok

@[simp] theorem runTre_only (op mode : Nat) (check : Nat → QCue → TreFrame → State → State) (p : Fin 68) (ok_check : ∀ x0 x1 x2 u, Only L w0 u → Only L w0 (check x0 x1 x2 u)) (hl : Part.regs ∈ L ∧ Part.ctr ∈ L ∧ Part.log ∈ L ∧ Part.logLost ∈ L ∧ Part.pins ∈ L ∧ Part.traces ∈ L ∧ Part.jobs ∈ L ∧ Part.players ∈ L ∧ Part.treLast ∈ L) (hok : Only L w0 s) : Ends (Only L w0) (runTre op mode check p s) := by
  unfold runTre
  dsimp only
  repeat' split
  all_goals simp (maxDischargeDepth := 60) +contextual [hl, hok, ok_check]

theorem execTreNttconv_only (p : Fin 68) (hl : Part.free ∈ L ∧ Part.regs ∈ L ∧ Part.ctr ∈ L ∧ Part.log ∈ L ∧ Part.logLost ∈ L ∧ Part.pins ∈ L ∧ Part.traces ∈ L ∧ Part.jobs ∈ L ∧ Part.players ∈ L ∧ Part.treLast ∈ L) (hok : Only L w0 s) : Ends (Only L w0) (execTreNttconv p s) := by
  unfold execTreNttconv
  simp (maxDischargeDepth := 60) +contextual [hl, hok]

theorem execTreFftconv_only (p : Fin 68) (hl : Part.regs ∈ L ∧ Part.ctr ∈ L ∧ Part.log ∈ L ∧ Part.logLost ∈ L ∧ Part.pins ∈ L ∧ Part.traces ∈ L ∧ Part.jobs ∈ L ∧ Part.players ∈ L ∧ Part.treLast ∈ L) (hok : Only L w0 s) : Ends (Only L w0) (execTreFftconv p s) := by
  unfold execTreFftconv
  simp (maxDischargeDepth := 60) +contextual [hl, hok]

theorem execTreFft_only (p : Fin 68) (hl : Part.regs ∈ L ∧ Part.ctr ∈ L ∧ Part.log ∈ L ∧ Part.logLost ∈ L ∧ Part.pins ∈ L ∧ Part.traces ∈ L ∧ Part.jobs ∈ L ∧ Part.players ∈ L ∧ Part.treLast ∈ L) (hok : Only L w0 s) : Ends (Only L w0) (execTreFft p s) := by
  unfold execTreFft
  simp (maxDischargeDepth := 60) +contextual [hl, hok]

theorem execTreIfft_only (p : Fin 68) (hl : Part.regs ∈ L ∧ Part.ctr ∈ L ∧ Part.log ∈ L ∧ Part.logLost ∈ L ∧ Part.pins ∈ L ∧ Part.traces ∈ L ∧ Part.jobs ∈ L ∧ Part.players ∈ L ∧ Part.treLast ∈ L) (hok : Only L w0 s) : Ends (Only L w0) (execTreIfft p s) := by
  unfold execTreIfft
  simp (maxDischargeDepth := 60) +contextual [hl, hok]

theorem execCueComplete_only (p : Fin 68) (cls : Nat) (hl : Part.regs ∈ L ∧ Part.ctr ∈ L ∧ Part.mem ∈ L ∧ Part.log ∈ L ∧ Part.logLost ∈ L ∧ Part.pins ∈ L ∧ Part.traces ∈ L ∧ Part.jobs ∈ L ∧ Part.players ∈ L ∧ Part.streams ∈ L) (hok : Only L w0 s) : Ends (Only L w0) (execCueComplete p cls s) := by
  unfold execCueComplete
  repeat' split
  all_goals simp (maxDischargeDepth := 60) +contextual [hl, hok]

theorem execCreditGrant_only (n : Nat) (hl : Part.regs ∈ L ∧ Part.chains ∈ L) (hok : Only L w0 s) : Ends (Only L w0) (execCreditGrant n s) := by
  unfold execCreditGrant
  repeat' split
  all_goals simp (maxDischargeDepth := 60) +contextual [hl, hok]

theorem execHandoverTile_only (n : Nat) (num : Fin 64) (bytes : List Byte) (hl : Part.jobs ∈ L ∧ Part.chains ∈ L) (hok : Only L w0 s) : Ends (Only L w0) (execHandoverTile n num bytes s) := by
  unfold execHandoverTile
  repeat' split
  all_goals simp (maxDischargeDepth := 60) +contextual [hl, hok]

theorem execCreditReturn_only (n : Nat) (num : Fin 64) (hl : Part.jobs ∈ L ∧ Part.chains ∈ L) (hok : Only L w0 s) : Ends (Only L w0) (execCreditReturn n num s) := by
  unfold execCreditReturn
  repeat' split
  all_goals simp (maxDischargeDepth := 60) +contextual [hl, hok]

theorem execHoPoolWrite_only (w : Word) (hl : Part.regs ∈ L ∧ Part.ctr ∈ L ∧ Part.pins ∈ L) (hok : Only L w0 s) : Ends (Only L w0) (execHoPoolWrite w s) := by
  unfold execHoPoolWrite
  all_goals simp (maxDischargeDepth := 60) +contextual [hl, hok]

theorem execGatherWrite_only (w : Word) (hl : Part.regs ∈ L ∧ Part.ctr ∈ L ∧ Part.pins ∈ L) (hok : Only L w0 s) : Ends (Only L w0) (execGatherWrite w s) := by
  unfold execGatherWrite
  all_goals simp (maxDischargeDepth := 60) +contextual [hl, hok]

theorem execShdStart_only (by_ : Starter) (hl : Part.regs ∈ L ∧ Part.ctr ∈ L ∧ Part.log ∈ L ∧ Part.logLost ∈ L ∧ Part.pins ∈ L ∧ Part.jobs ∈ L ∧ Part.players ∈ L ∧ Part.streams ∈ L ∧ Part.shds ∈ L) (hok : Only L w0 s) : Ends (Only L w0) (execShdStart by_ s) := by
  unfold execShdStart
  repeat' split
  all_goals simp (maxDischargeDepth := 60) +contextual [hl, hok]

theorem execShdClose_only (p : Fin 68) (hl : Part.regs ∈ L ∧ Part.ctr ∈ L ∧ Part.log ∈ L ∧ Part.logLost ∈ L ∧ Part.pins ∈ L ∧ Part.traces ∈ L ∧ Part.jobs ∈ L ∧ Part.players ∈ L ∧ Part.streams ∈ L) (hok : Only L w0 s) : Ends (Only L w0) (execShdClose p s) := by
  unfold execShdClose
  all_goals simp (maxDischargeDepth := 60) +contextual [hl, hok]

theorem execStreamTileDone_only (sh : Nat) (slot : Fin 6) (far idx : List Byte) (hl : Part.regs ∈ L ∧ Part.ctr ∈ L ∧ Part.mem ∈ L ∧ Part.out ∈ L ∧ Part.log ∈ L ∧ Part.logLost ∈ L ∧ Part.pins ∈ L ∧ Part.ports ∈ L ∧ Part.qps ∈ L ∧ Part.traces ∈ L ∧ Part.rings ∈ L ∧ Part.jobs ∈ L ∧ Part.fetches ∈ L ∧ Part.players ∈ L ∧ Part.streams ∈ L ∧ Part.chains ∈ L) (hok : Only L w0 s) : Ends (Only L w0) (execStreamTileDone sh slot far idx s) := by
  unfold execStreamTileDone
  all_goals simp (maxDischargeDepth := 60) +contextual [hl, hok]

theorem execStreamPassEnd_only (sh : Nat) (slot : Fin 6) (hl : Part.regs ∈ L ∧ Part.ctr ∈ L ∧ Part.log ∈ L ∧ Part.logLost ∈ L ∧ Part.pins ∈ L ∧ Part.traces ∈ L ∧ Part.jobs ∈ L ∧ Part.players ∈ L ∧ Part.streams ∈ L) (hok : Only L w0 s) : Ends (Only L w0) (execStreamPassEnd sh slot s) := by
  unfold execStreamPassEnd
  repeat' split
  all_goals simp (maxDischargeDepth := 60) +contextual [hl, hok]

theorem execStreamHalt_only (sh : Nat) (slot : Fin 6) (far idx : List Byte) (at_ : SharedAt) (hl : Part.regs ∈ L ∧ Part.ctr ∈ L ∧ Part.mem ∈ L ∧ Part.out ∈ L ∧ Part.log ∈ L ∧ Part.logLost ∈ L ∧ Part.pins ∈ L ∧ Part.ports ∈ L ∧ Part.qps ∈ L ∧ Part.rings ∈ L ∧ Part.due ∈ L ∧ Part.chans ∈ L ∧ Part.jobs ∈ L ∧ Part.fetches ∈ L ∧ Part.nextFetch ∈ L ∧ Part.players ∈ L ∧ Part.streams ∈ L ∧ Part.shds ∈ L ∧ Part.chains ∈ L) (hok : Only L w0 s) : Ends (Only L w0) (execStreamHalt sh slot far idx at_ s) := by
  unfold execStreamHalt
  all_goals simp (maxDischargeDepth := 60) +contextual [hl, hok]

theorem execHaltTimeout_only (sh : Nat) (slot : Fin 6) (hl : Part.regs ∈ L ∧ Part.ctr ∈ L ∧ Part.log ∈ L ∧ Part.logLost ∈ L ∧ Part.pins ∈ L ∧ Part.jobs ∈ L) (hok : Only L w0 s) : Ends (Only L w0) (execHaltTimeout sh slot s) := by
  unfold execHaltTimeout
  dsimp only
  repeat' split
  all_goals simp (maxDischargeDepth := 60) +contextual [hl, hok]

theorem execResume_only (q : Fin 256) (e : Entry) (hl : Part.free ∈ L ∧ Part.regs ∈ L ∧ Part.ctr ∈ L ∧ Part.banks ∈ L ∧ Part.out ∈ L ∧ Part.log ∈ L ∧ Part.logLost ∈ L ∧ Part.pins ∈ L ∧ Part.ports ∈ L ∧ Part.qps ∈ L ∧ Part.pair ∈ L ∧ Part.queues ∈ L ∧ Part.rings ∈ L ∧ Part.due ∈ L ∧ Part.devSeq ∈ L ∧ Part.chans ∈ L ∧ Part.jobs ∈ L ∧ Part.fetches ∈ L ∧ Part.nextFetch ∈ L ∧ Part.players ∈ L ∧ Part.streams ∈ L ∧ Part.shds ∈ L) (hok : Only L w0 s) : Ends (Only L w0) (execResume q e s) := by
  unfold execResume
  simp (maxDischargeDepth := 60) +contextual [hl, hok]

theorem execFetchStart_only (hl : Part.regs ∈ L ∧ Part.ctr ∈ L ∧ Part.out ∈ L ∧ Part.log ∈ L ∧ Part.logLost ∈ L ∧ Part.pins ∈ L ∧ Part.ports ∈ L ∧ Part.qps ∈ L ∧ Part.rings ∈ L ∧ Part.due ∈ L ∧ Part.chans ∈ L ∧ Part.jobs ∈ L ∧ Part.fetches ∈ L ∧ Part.nextFetch ∈ L ∧ Part.players ∈ L ∧ Part.streams ∈ L ∧ Part.shds ∈ L) (hok : Only L w0 s) : Ends (Only L w0) (execFetchStart s) := by
  unfold execFetchStart
  dsimp only
  repeat' split
  all_goals simp (maxDischargeDepth := 60) +contextual [hl, hok]

theorem execFetchComplete_only (id : Nat) (hl : Part.regs ∈ L ∧ Part.ctr ∈ L ∧ Part.mem ∈ L ∧ Part.log ∈ L ∧ Part.logLost ∈ L ∧ Part.pins ∈ L ∧ Part.due ∈ L ∧ Part.chans ∈ L ∧ Part.jobs ∈ L ∧ Part.fetches ∈ L ∧ Part.nextFetch ∈ L ∧ Part.players ∈ L ∧ Part.streams ∈ L ∧ Part.shds ∈ L) (hok : Only L w0 s) : Ends (Only L w0) (execFetchComplete id s) := by
  unfold execFetchComplete
  repeat' split
  all_goals simp (maxDischargeDepth := 60) +contextual [hl, hok]

theorem execXltWalk_only (handle : Word) (va : Dword) (write halts : Bool) (job : Option Nat) (hl : Part.regs ∈ L ∧ Part.ctr ∈ L ∧ Part.log ∈ L ∧ Part.logLost ∈ L ∧ Part.pins ∈ L ∧ Part.jobs ∈ L ∧ Part.tlb ∈ L) (hok : Only L w0 s) : Ends (Only L w0) (execXltWalk handle va write halts job s) := by
  unfold execXltWalk
  dsimp only
  repeat' split
  all_goals simp (maxDischargeDepth := 60) +contextual [hl, hok]

theorem execRelayAccept_only (p : Fin 68) (hl : Part.regs ∈ L ∧ Part.ctr ∈ L ∧ Part.log ∈ L ∧ Part.logLost ∈ L ∧ Part.pins ∈ L ∧ Part.jobs ∈ L ∧ Part.players ∈ L ∧ Part.streams ∈ L ∧ Part.shds ∈ L ∧ Part.relays ∈ L) (hok : Only L w0 s) : Ends (Only L w0) (execRelayAccept p s) := by
  unfold execRelayAccept
  dsimp only
  repeat' split
  all_goals first
    | (simp (maxDischargeDepth := 60) [hl, hok]; done)
    | (refine armStream_only _ _ _ _ _ (fun u hu => ?_) (by simp [hl]) hok
       split <;> simp (maxDischargeDepth := 60) [hl, hok, hu])

theorem execShdRearm_only (p : Fin 68) (hl : Part.regs ∈ L ∧ Part.ctr ∈ L ∧ Part.log ∈ L ∧ Part.logLost ∈ L ∧ Part.pins ∈ L ∧ Part.jobs ∈ L ∧ Part.players ∈ L ∧ Part.streams ∈ L ∧ Part.relays ∈ L) (hok : Only L w0 s) : Ends (Only L w0) (execShdRearm p s) := by
  unfold execShdRearm
  all_goals simp (maxDischargeDepth := 60) +contextual [hl, hok]

theorem execRelaySliceSend_only (w : Fin 4) (far : List Byte) (hl : Part.regs ∈ L ∧ Part.ctr ∈ L ∧ Part.log ∈ L ∧ Part.logLost ∈ L ∧ Part.pins ∈ L ∧ Part.jobs ∈ L ∧ Part.relays ∈ L) (hok : Only L w0 s) : Ends (Only L w0) (execRelaySliceSend w far s) := by
  unfold execRelaySliceSend
  dsimp only
  repeat' split
  all_goals simp (maxDischargeDepth := 60) +contextual [hl, hok]

theorem execRelaySliceArrive_only (w : Fin 4) (k : Nat) (hl : Part.regs ∈ L ∧ Part.ctr ∈ L ∧ Part.mem ∈ L ∧ Part.log ∈ L ∧ Part.logLost ∈ L ∧ Part.pins ∈ L ∧ Part.traces ∈ L ∧ Part.jobs ∈ L ∧ Part.players ∈ L ∧ Part.streams ∈ L ∧ Part.relays ∈ L) (hok : Only L w0 s) : Ends (Only L w0) (execRelaySliceArrive w k s) := by
  unfold execRelaySliceArrive
  dsimp only
  repeat' split
  all_goals simp (maxDischargeDepth := 60) +contextual [hl, hok]

theorem execRelayStreamEnd_only (w : Fin 4) (hl : Part.regs ∈ L ∧ Part.ctr ∈ L ∧ Part.log ∈ L ∧ Part.logLost ∈ L ∧ Part.pins ∈ L ∧ Part.traces ∈ L ∧ Part.jobs ∈ L ∧ Part.players ∈ L ∧ Part.streams ∈ L ∧ Part.relays ∈ L) (hok : Only L w0 s) : Ends (Only L w0) (execRelayStreamEnd w s) := by
  unfold execRelayStreamEnd
  dsimp only
  repeat' split
  all_goals simp (maxDischargeDepth := 60) +contextual [hl, hok]

theorem execRelayParityError_only (w : Fin 4) (k : Nat) (hl : Part.regs ∈ L ∧ Part.ctr ∈ L ∧ Part.log ∈ L ∧ Part.logLost ∈ L ∧ Part.pins ∈ L ∧ Part.jobs ∈ L) (hok : Only L w0 s) : Ends (Only L w0) (execRelayParityError w k s) := by
  unfold execRelayParityError
  repeat' split
  all_goals simp (maxDischargeDepth := 60) +contextual [hl, hok]

theorem execRlyKeep_only (p : Fin 68) (hl : Part.regs ∈ L ∧ Part.ctr ∈ L ∧ Part.log ∈ L ∧ Part.logLost ∈ L ∧ Part.pins ∈ L ∧ Part.jobs ∈ L ∧ Part.players ∈ L ∧ Part.relays ∈ L) (hok : Only L w0 s) : Ends (Only L w0) (execRlyKeep p s) := by
  unfold execRlyKeep
  repeat' split
  all_goals simp (maxDischargeDepth := 60) +contextual [hl, hok]

theorem execPkgLoad_only (q : Fin 256) (e : Entry) (pkg : Package) (hl : Part.free ∈ L ∧ Part.regs ∈ L ∧ Part.ctr ∈ L ∧ Part.banks ∈ L ∧ Part.out ∈ L ∧ Part.log ∈ L ∧ Part.logLost ∈ L ∧ Part.pins ∈ L ∧ Part.ports ∈ L ∧ Part.qps ∈ L ∧ Part.pair ∈ L ∧ Part.queues ∈ L ∧ Part.rings ∈ L ∧ Part.due ∈ L ∧ Part.devSeq ∈ L ∧ Part.chans ∈ L ∧ Part.opens ∈ L ∧ Part.jobs ∈ L ∧ Part.fetches ∈ L) (hok : Only L w0 s) : Ends (Only L w0) (execPkgLoad q e pkg s) := by
  unfold execPkgLoad
  all_goals simp (maxDischargeDepth := 60) +contextual [hl, hok]

theorem execPkgLoadComplete_only (handle : Word) (hl : Part.regs ∈ L ∧ Part.ctr ∈ L ∧ Part.log ∈ L ∧ Part.logLost ∈ L ∧ Part.pins ∈ L ∧ Part.pair ∈ L ∧ Part.queues ∈ L ∧ Part.due ∈ L ∧ Part.chans ∈ L ∧ Part.opens ∈ L ∧ Part.shds ∈ L) (hok : Only L w0 s) : Ends (Only L w0) (execPkgLoadComplete handle s) := by
  unfold execPkgLoadComplete
  dsimp only
  repeat' split
  all_goals simp (maxDischargeDepth := 60) +contextual [hl, hok]

theorem execChIo_only (q : Fin 256) (e : Entry) (hl : Part.free ∈ L ∧ Part.regs ∈ L ∧ Part.ctr ∈ L ∧ Part.banks ∈ L ∧ Part.out ∈ L ∧ Part.log ∈ L ∧ Part.logLost ∈ L ∧ Part.pins ∈ L ∧ Part.ports ∈ L ∧ Part.qps ∈ L ∧ Part.flows ∈ L ∧ Part.pair ∈ L ∧ Part.queues ∈ L ∧ Part.rings ∈ L ∧ Part.due ∈ L ∧ Part.devSeq ∈ L ∧ Part.chans ∈ L ∧ Part.jobs ∈ L ∧ Part.fetches ∈ L) (hok : Only L w0 s) : Ends (Only L w0) (execChIo q e s) := by
  unfold execChIo
  all_goals simp (maxDischargeDepth := 60) +contextual [hl, hok]

theorem execChBind_only (q : Fin 256) (e : Entry) (hl : Part.free ∈ L ∧ Part.regs ∈ L ∧ Part.ctr ∈ L ∧ Part.banks ∈ L ∧ Part.out ∈ L ∧ Part.log ∈ L ∧ Part.logLost ∈ L ∧ Part.pins ∈ L ∧ Part.ports ∈ L ∧ Part.qps ∈ L ∧ Part.pair ∈ L ∧ Part.queues ∈ L ∧ Part.rings ∈ L ∧ Part.due ∈ L ∧ Part.devSeq ∈ L ∧ Part.chans ∈ L ∧ Part.jobs ∈ L ∧ Part.fetches ∈ L) (hok : Only L w0 s) : Ends (Only L w0) (execChBind q e s) := by
  unfold execChBind
  all_goals simp (maxDischargeDepth := 60) +contextual [hl, hok]

theorem execRecordPost_only (r : Fin 256) (hl : Part.free ∈ L ∧ Part.regs ∈ L ∧ Part.ctr ∈ L ∧ Part.mem ∈ L ∧ Part.out ∈ L ∧ Part.log ∈ L ∧ Part.logLost ∈ L ∧ Part.pins ∈ L ∧ Part.ports ∈ L ∧ Part.qps ∈ L ∧ Part.flows ∈ L ∧ Part.pair ∈ L ∧ Part.queues ∈ L ∧ Part.rings ∈ L ∧ Part.due ∈ L ∧ Part.chans ∈ L ∧ Part.opens ∈ L ∧ Part.jobs ∈ L ∧ Part.fetches ∈ L ∧ Part.chains ∈ L ∧ Part.stores ∈ L ∧ Part.lives ∈ L) (hok : Only L w0 s) : Ends (Only L w0) (execRecordPost r s) := by
  unfold execRecordPost
  repeat' split
  all_goals simp (maxDischargeDepth := 60) +contextual [hl, hok]

theorem execEgressInstant_only (flow : Fin 256) (hl : Part.free ∈ L ∧ Part.ctr ∈ L ∧ Part.out ∈ L ∧ Part.ports ∈ L ∧ Part.flows ∈ L) (hok : Only L w0 s) : Ends (Only L w0) (execEgressInstant flow s) := by
  unfold execEgressInstant
  all_goals simp (maxDischargeDepth := 60) +contextual [hl, hok]

theorem execChDestroy_only (q : Fin 256) (e : Entry) (hl : Part.free ∈ L ∧ Part.regs ∈ L ∧ Part.ctr ∈ L ∧ Part.banks ∈ L ∧ Part.out ∈ L ∧ Part.log ∈ L ∧ Part.logLost ∈ L ∧ Part.pins ∈ L ∧ Part.ports ∈ L ∧ Part.qps ∈ L ∧ Part.flows ∈ L ∧ Part.pair ∈ L ∧ Part.queues ∈ L ∧ Part.rings ∈ L ∧ Part.due ∈ L ∧ Part.devSeq ∈ L ∧ Part.chans ∈ L ∧ Part.freed ∈ L ∧ Part.opens ∈ L ∧ Part.jobs ∈ L ∧ Part.tlb ∈ L ∧ Part.fetches ∈ L) (hok : Only L w0 s) : Ends (Only L w0) (execChDestroy q e s) := by
  unfold execChDestroy
  all_goals simp (maxDischargeDepth := 60) +contextual [hl, hok]

theorem execChPrepare_only (q : Fin 256) (e : Entry) (hl : Part.free ∈ L ∧ Part.regs ∈ L ∧ Part.ctr ∈ L ∧ Part.banks ∈ L ∧ Part.mem ∈ L ∧ Part.out ∈ L ∧ Part.log ∈ L ∧ Part.logLost ∈ L ∧ Part.pins ∈ L ∧ Part.ports ∈ L ∧ Part.qps ∈ L ∧ Part.pair ∈ L ∧ Part.queues ∈ L ∧ Part.rings ∈ L ∧ Part.due ∈ L ∧ Part.devSeq ∈ L ∧ Part.chans ∈ L ∧ Part.jobs ∈ L ∧ Part.fetches ∈ L) (hok : Only L w0 s) : Ends (Only L w0) (execChPrepare q e s) := by
  unfold execChPrepare
  all_goals simp (maxDischargeDepth := 60) +contextual [hl, hok]

theorem execChStart_only (q : Fin 256) (e : Entry) (hl : Part.free ∈ L ∧ Part.regs ∈ L ∧ Part.ctr ∈ L ∧ Part.banks ∈ L ∧ Part.out ∈ L ∧ Part.log ∈ L ∧ Part.logLost ∈ L ∧ Part.pins ∈ L ∧ Part.ports ∈ L ∧ Part.qps ∈ L ∧ Part.flows ∈ L ∧ Part.pair ∈ L ∧ Part.queues ∈ L ∧ Part.rings ∈ L ∧ Part.due ∈ L ∧ Part.devSeq ∈ L ∧ Part.chans ∈ L ∧ Part.jobs ∈ L ∧ Part.fetches ∈ L) (hok : Only L w0 s) : Ends (Only L w0) (execChStart q e s) := by
  unfold execChStart
  all_goals simp (maxDischargeDepth := 60) +contextual [hl, hok]

theorem execChStop_only (q : Fin 256) (e : Entry) (hl : Part.free ∈ L ∧ Part.regs ∈ L ∧ Part.ctr ∈ L ∧ Part.banks ∈ L ∧ Part.mem ∈ L ∧ Part.out ∈ L ∧ Part.log ∈ L ∧ Part.logLost ∈ L ∧ Part.pins ∈ L ∧ Part.ports ∈ L ∧ Part.qps ∈ L ∧ Part.flows ∈ L ∧ Part.pair ∈ L ∧ Part.queues ∈ L ∧ Part.rings ∈ L ∧ Part.due ∈ L ∧ Part.devSeq ∈ L ∧ Part.chans ∈ L ∧ Part.opens ∈ L ∧ Part.jobs ∈ L ∧ Part.fetches ∈ L ∧ Part.chains ∈ L ∧ Part.stores ∈ L ∧ Part.lives ∈ L) (hok : Only L w0 s) : Ends (Only L w0) (execChStop q e s) := by
  unfold execChStop
  all_goals simp (maxDischargeDepth := 60) +contextual [hl, hok]

theorem execForceIntra_only (q : Fin 256) (e : Entry) (hl : Part.free ∈ L ∧ Part.regs ∈ L ∧ Part.ctr ∈ L ∧ Part.banks ∈ L ∧ Part.out ∈ L ∧ Part.log ∈ L ∧ Part.logLost ∈ L ∧ Part.pins ∈ L ∧ Part.ports ∈ L ∧ Part.qps ∈ L ∧ Part.pair ∈ L ∧ Part.queues ∈ L ∧ Part.rings ∈ L ∧ Part.due ∈ L ∧ Part.devSeq ∈ L ∧ Part.chans ∈ L ∧ Part.jobs ∈ L ∧ Part.fetches ∈ L) (hok : Only L w0 s) : Ends (Only L w0) (execForceIntra q e s) := by
  unfold execForceIntra
  all_goals simp (maxDischargeDepth := 60) +contextual [hl, hok]

theorem execStreamIn_only (q : Fin 256) (e : Entry) (hl : Part.free ∈ L ∧ Part.regs ∈ L ∧ Part.ctr ∈ L ∧ Part.banks ∈ L ∧ Part.out ∈ L ∧ Part.log ∈ L ∧ Part.logLost ∈ L ∧ Part.pins ∈ L ∧ Part.ports ∈ L ∧ Part.qps ∈ L ∧ Part.flows ∈ L ∧ Part.pair ∈ L ∧ Part.queues ∈ L ∧ Part.rings ∈ L ∧ Part.due ∈ L ∧ Part.devSeq ∈ L ∧ Part.chans ∈ L ∧ Part.jobs ∈ L ∧ Part.nextJob ∈ L ∧ Part.fetches ∈ L ∧ Part.chains ∈ L) (hok : Only L w0 s) : Ends (Only L w0) (execStreamIn q e s) := by
  unfold execStreamIn
  all_goals simp (maxDischargeDepth := 60) +contextual [hl, hok]

theorem execOutHead_only (q : Fin 256) (e : Entry) (hl : Part.free ∈ L ∧ Part.regs ∈ L ∧ Part.ctr ∈ L ∧ Part.banks ∈ L ∧ Part.mem ∈ L ∧ Part.out ∈ L ∧ Part.log ∈ L ∧ Part.logLost ∈ L ∧ Part.pins ∈ L ∧ Part.ports ∈ L ∧ Part.qps ∈ L ∧ Part.flows ∈ L ∧ Part.pair ∈ L ∧ Part.queues ∈ L ∧ Part.rings ∈ L ∧ Part.due ∈ L ∧ Part.devSeq ∈ L ∧ Part.chans ∈ L ∧ Part.opens ∈ L ∧ Part.jobs ∈ L ∧ Part.fetches ∈ L ∧ Part.chains ∈ L ∧ Part.stores ∈ L ∧ Part.lives ∈ L) (hok : Only L w0 s) : Ends (Only L w0) (execOutHead q e s) := by
  unfold execOutHead
  all_goals simp (maxDischargeDepth := 60) +contextual [hl, hok]

theorem execTensor_only (q : Fin 256) (e : Entry) (hl : Part.free ∈ L ∧ Part.regs ∈ L ∧ Part.ctr ∈ L ∧ Part.banks ∈ L ∧ Part.out ∈ L ∧ Part.log ∈ L ∧ Part.logLost ∈ L ∧ Part.pins ∈ L ∧ Part.ports ∈ L ∧ Part.qps ∈ L ∧ Part.pair ∈ L ∧ Part.queues ∈ L ∧ Part.rings ∈ L ∧ Part.due ∈ L ∧ Part.devSeq ∈ L ∧ Part.chans ∈ L ∧ Part.jobs ∈ L ∧ Part.nextJob ∈ L ∧ Part.fetches ∈ L ∧ Part.chains ∈ L) (hok : Only L w0 s) : Ends (Only L w0) (execTensor q e s) := by
  unfold execTensor
  all_goals simp (maxDischargeDepth := 60) +contextual [hl, hok]

theorem execComp_only (q : Fin 256) (e : Entry) (hl : Part.free ∈ L ∧ Part.regs ∈ L ∧ Part.ctr ∈ L ∧ Part.banks ∈ L ∧ Part.out ∈ L ∧ Part.log ∈ L ∧ Part.logLost ∈ L ∧ Part.pins ∈ L ∧ Part.ports ∈ L ∧ Part.qps ∈ L ∧ Part.pair ∈ L ∧ Part.queues ∈ L ∧ Part.rings ∈ L ∧ Part.due ∈ L ∧ Part.devSeq ∈ L ∧ Part.chans ∈ L ∧ Part.jobs ∈ L ∧ Part.nextJob ∈ L ∧ Part.fetches ∈ L ∧ Part.chains ∈ L) (hok : Only L w0 s) : Ends (Only L w0) (execComp q e s) := by
  unfold execComp
  all_goals simp (maxDischargeDepth := 60) +contextual [hl, hok]

theorem execLiveBind_only (q : Fin 256) (e : Entry) (remote : List Byte) (hl : Part.free ∈ L ∧ Part.regs ∈ L ∧ Part.ctr ∈ L ∧ Part.banks ∈ L ∧ Part.out ∈ L ∧ Part.log ∈ L ∧ Part.logLost ∈ L ∧ Part.pins ∈ L ∧ Part.ports ∈ L ∧ Part.qps ∈ L ∧ Part.flows ∈ L ∧ Part.pair ∈ L ∧ Part.queues ∈ L ∧ Part.rings ∈ L ∧ Part.due ∈ L ∧ Part.devSeq ∈ L ∧ Part.chans ∈ L ∧ Part.jobs ∈ L ∧ Part.fetches ∈ L ∧ Part.chains ∈ L ∧ Part.lives ∈ L) (hok : Only L w0 s) : Ends (Only L w0) (execLiveBind q e remote s) := by
  unfold execLiveBind
  all_goals simp (maxDischargeDepth := 60) +contextual [hl, hok]

theorem execLiveUnbind_only (q : Fin 256) (e : Entry) (hl : Part.free ∈ L ∧ Part.regs ∈ L ∧ Part.ctr ∈ L ∧ Part.banks ∈ L ∧ Part.mem ∈ L ∧ Part.out ∈ L ∧ Part.log ∈ L ∧ Part.logLost ∈ L ∧ Part.pins ∈ L ∧ Part.ports ∈ L ∧ Part.qps ∈ L ∧ Part.flows ∈ L ∧ Part.pair ∈ L ∧ Part.queues ∈ L ∧ Part.rings ∈ L ∧ Part.due ∈ L ∧ Part.devSeq ∈ L ∧ Part.chans ∈ L ∧ Part.opens ∈ L ∧ Part.jobs ∈ L ∧ Part.fetches ∈ L ∧ Part.chains ∈ L ∧ Part.stores ∈ L ∧ Part.lives ∈ L) (hok : Only L w0 s) : Ends (Only L w0) (execLiveUnbind q e s) := by
  unfold execLiveUnbind
  all_goals simp (maxDischargeDepth := 60) +contextual [hl, hok]

theorem execSliceRelease_only (handle : Word) (hl : Part.free ∈ L ∧ Part.regs ∈ L ∧ Part.ctr ∈ L ∧ Part.banks ∈ L ∧ Part.log ∈ L ∧ Part.logLost ∈ L ∧ Part.pins ∈ L ∧ Part.chans ∈ L ∧ Part.jobs ∈ L ∧ Part.nextJob ∈ L ∧ Part.chains ∈ L) (hok : Only L w0 s) : Ends (Only L w0) (execSliceRelease handle s) := by
  unfold execSliceRelease
  repeat' split
  all_goals simp (maxDischargeDepth := 60) +contextual [hl, hok]

theorem execLineTimeout_only (handle : Word) (hl : Part.regs ∈ L ∧ Part.ctr ∈ L ∧ Part.mem ∈ L ∧ Part.out ∈ L ∧ Part.ports ∈ L ∧ Part.qps ∈ L ∧ Part.rings ∈ L ∧ Part.chans ∈ L ∧ Part.jobs ∈ L ∧ Part.fetches ∈ L) (hok : Only L w0 s) : Ends (Only L w0) (execLineTimeout handle s) := by
  unfold execLineTimeout
  repeat' split
  all_goals simp (maxDischargeDepth := 60) +contextual [hl, hok]

theorem execRgvProbeWrite_only (w : Word) (hl : Part.regs ∈ L ∧ Part.ctr ∈ L) (hok : Only L w0 s) : Ends (Only L w0) (execRgvProbeWrite w s) := by
  unfold execRgvProbeWrite
  all_goals simp (maxDischargeDepth := 60) +contextual [hl, hok]

theorem execRowCommit_only (id row : Nat) (hl : Part.regs ∈ L ∧ Part.ctr ∈ L ∧ Part.log ∈ L ∧ Part.logLost ∈ L ∧ Part.pins ∈ L ∧ Part.chans ∈ L ∧ Part.jobs ∈ L) (hok : Only L w0 s) : Ends (Only L w0) (execRowCommit id row s) := by
  unfold execRowCommit
  repeat' split
  all_goals simp (maxDischargeDepth := 60) +contextual [hl, hok]

theorem execGatherRow_only (id row : Nat) (hl : Part.regs ∈ L ∧ Part.ctr ∈ L ∧ Part.chans ∈ L ∧ Part.jobs ∈ L) (hok : Only L w0 s) : Ends (Only L w0) (execGatherRow id row s) := by
  unfold execGatherRow
  repeat' split
  all_goals simp (maxDischargeDepth := 60) +contextual [hl, hok]

theorem execSliceEmit_only (handle : Word) (hl : Part.free ∈ L ∧ Part.regs ∈ L ∧ Part.ctr ∈ L ∧ Part.mem ∈ L ∧ Part.out ∈ L ∧ Part.log ∈ L ∧ Part.logLost ∈ L ∧ Part.pins ∈ L ∧ Part.ports ∈ L ∧ Part.qps ∈ L ∧ Part.flows ∈ L ∧ Part.pair ∈ L ∧ Part.queues ∈ L ∧ Part.rings ∈ L ∧ Part.due ∈ L ∧ Part.chans ∈ L ∧ Part.opens ∈ L ∧ Part.jobs ∈ L ∧ Part.fetches ∈ L ∧ Part.chains ∈ L ∧ Part.stores ∈ L ∧ Part.lives ∈ L) (hok : Only L w0 s) : Ends (Only L w0) (execSliceEmit handle s) := by
  unfold execSliceEmit
  repeat' split
  all_goals simp (maxDischargeDepth := 60) +contextual [hl, hok]

theorem execAdapterSetComplete_only (id : Nat) (handle seq : Word) (hl : Part.free ∈ L ∧ Part.regs ∈ L ∧ Part.ctr ∈ L ∧ Part.mem ∈ L ∧ Part.out ∈ L ∧ Part.log ∈ L ∧ Part.logLost ∈ L ∧ Part.pins ∈ L ∧ Part.ports ∈ L ∧ Part.qps ∈ L ∧ Part.flows ∈ L ∧ Part.pair ∈ L ∧ Part.queues ∈ L ∧ Part.rings ∈ L ∧ Part.due ∈ L ∧ Part.chans ∈ L ∧ Part.opens ∈ L ∧ Part.jobs ∈ L ∧ Part.fetches ∈ L ∧ Part.chains ∈ L ∧ Part.stores ∈ L ∧ Part.lives ∈ L) (hok : Only L w0 s) : Ends (Only L w0) (execAdapterSetComplete id handle seq s) := by
  unfold execAdapterSetComplete
  repeat' split
  all_goals simp (maxDischargeDepth := 60) +contextual [hl, hok]

theorem execTableBankLoad_only (id : Nat) (hl : Part.free ∈ L ∧ Part.ctr ∈ L ∧ Part.jobs ∈ L ∧ Part.tableBanks ∈ L) (hok : Only L w0 s) : Ends (Only L w0) (execTableBankLoad id s) := by
  unfold execTableBankLoad
  repeat' split
  all_goals simp (maxDischargeDepth := 60) +contextual [hl, hok]

theorem execRcaParityError_only (at_ : Nat) (hl : Part.regs ∈ L ∧ Part.ctr ∈ L ∧ Part.log ∈ L ∧ Part.logLost ∈ L ∧ Part.pins ∈ L ∧ Part.jobs ∈ L ∧ Part.tableBanks ∈ L) (hok : Only L w0 s) : Ends (Only L w0) (execRcaParityError at_ s) := by
  unfold execRcaParityError
  all_goals simp (maxDischargeDepth := 60) +contextual [hl, hok]

theorem execAudioFrameCode_only (id : Nat) (handle seq : Word) (hl : Part.regs ∈ L ∧ Part.ctr ∈ L ∧ Part.log ∈ L ∧ Part.logLost ∈ L ∧ Part.pins ∈ L ∧ Part.jobs ∈ L) (hok : Only L w0 s) : Ends (Only L w0) (execAudioFrameCode id handle seq s) := by
  unfold execAudioFrameCode
  repeat' split
  all_goals simp (maxDischargeDepth := 60) +contextual [hl, hok]

theorem execCodePhaseStart_only (hl : Part.regs ∈ L ∧ Part.ctr ∈ L ∧ Part.log ∈ L ∧ Part.logLost ∈ L ∧ Part.pins ∈ L ∧ Part.chans ∈ L ∧ Part.jobs ∈ L ∧ Part.slice ∈ L) (hok : Only L w0 s) : Ends (Only L w0) (execCodePhaseStart s) := by
  unfold execCodePhaseStart
  repeat' split
  all_goals simp (maxDischargeDepth := 60) +contextual [hl, hok]

theorem execSliceClose_only (hl : Part.regs ∈ L ∧ Part.ctr ∈ L ∧ Part.log ∈ L ∧ Part.logLost ∈ L ∧ Part.pins ∈ L ∧ Part.chans ∈ L ∧ Part.jobs ∈ L ∧ Part.nextJob ∈ L ∧ Part.chains ∈ L ∧ Part.slice ∈ L) (hok : Only L w0 s) : Ends (Only L w0) (execSliceClose s) := by
  unfold execSliceClose
  repeat' split
  all_goals simp (maxDischargeDepth := 60) +contextual [hl, hok]

theorem execDeliveryWrite_only (id : Nat) (hl : Part.free ∈ L ∧ Part.regs ∈ L ∧ Part.ctr ∈ L ∧ Part.mem ∈ L ∧ Part.out ∈ L ∧ Part.log ∈ L ∧ Part.logLost ∈ L ∧ Part.pins ∈ L ∧ Part.ports ∈ L ∧ Part.qps ∈ L ∧ Part.flows ∈ L ∧ Part.pair ∈ L ∧ Part.queues ∈ L ∧ Part.rings ∈ L ∧ Part.due ∈ L ∧ Part.chans ∈ L ∧ Part.opens ∈ L ∧ Part.jobs ∈ L ∧ Part.fetches ∈ L ∧ Part.chains ∈ L ∧ Part.stores ∈ L ∧ Part.lives ∈ L) (hok : Only L w0 s) : Ends (Only L w0) (execDeliveryWrite id s) := by
  unfold execDeliveryWrite
  all_goals simp (maxDischargeDepth := 60) +contextual [hl, hok]

theorem execSeqSegment_only (handle : Word) (far : List Byte) (hl : Part.regs ∈ L ∧ Part.ctr ∈ L ∧ Part.log ∈ L ∧ Part.logLost ∈ L ∧ Part.pins ∈ L ∧ Part.flows ∈ L ∧ Part.due ∈ L ∧ Part.chans ∈ L ∧ Part.jobs ∈ L ∧ Part.nextJob ∈ L ∧ Part.chains ∈ L) (hok : Only L w0 s) : Ends (Only L w0) (execSeqSegment handle far s) := by
  unfold execSeqSegment
  all_goals simp (maxDischargeDepth := 60) +contextual [hl, hok]

theorem execPicSegment_only (handle : Word) (far : List Byte) (hl : Part.regs ∈ L ∧ Part.ctr ∈ L ∧ Part.log ∈ L ∧ Part.logLost ∈ L ∧ Part.pins ∈ L ∧ Part.flows ∈ L ∧ Part.due ∈ L ∧ Part.chans ∈ L ∧ Part.jobs ∈ L ∧ Part.nextJob ∈ L ∧ Part.chains ∈ L) (hok : Only L w0 s) : Ends (Only L w0) (execPicSegment handle far s) := by
  unfold execPicSegment
  all_goals simp (maxDischargeDepth := 60) +contextual [hl, hok]

theorem execSlcSegment_only (handle : Word) (far : List Byte) (hl : Part.regs ∈ L ∧ Part.ctr ∈ L ∧ Part.log ∈ L ∧ Part.logLost ∈ L ∧ Part.pins ∈ L ∧ Part.due ∈ L ∧ Part.chans ∈ L ∧ Part.jobs ∈ L ∧ Part.nextJob ∈ L ∧ Part.chains ∈ L) (hok : Only L w0 s) : Ends (Only L w0) (execSlcSegment handle far s) := by
  unfold execSlcSegment
  all_goals simp (maxDischargeDepth := 60) +contextual [hl, hok]

theorem execAudSegment_only (handle : Word) (far : List Byte) (hl : Part.regs ∈ L ∧ Part.ctr ∈ L ∧ Part.log ∈ L ∧ Part.logLost ∈ L ∧ Part.pins ∈ L ∧ Part.flows ∈ L ∧ Part.due ∈ L ∧ Part.chans ∈ L ∧ Part.jobs ∈ L ∧ Part.nextJob ∈ L ∧ Part.chains ∈ L) (hok : Only L w0 s) : Ends (Only L w0) (execAudSegment handle far s) := by
  unfold execAudSegment
  all_goals simp (maxDischargeDepth := 60) +contextual [hl, hok]

theorem execAdpSegment_only (handle : Word) (far : List Byte) (hl : Part.regs ∈ L ∧ Part.ctr ∈ L ∧ Part.log ∈ L ∧ Part.logLost ∈ L ∧ Part.pins ∈ L ∧ Part.due ∈ L ∧ Part.chans ∈ L) (hok : Only L w0 s) : Ends (Only L w0) (execAdpSegment handle far s) := by
  unfold execAdpSegment
  all_goals simp (maxDischargeDepth := 60) +contextual [hl, hok]

theorem execEndSegment_only (handle : Word) (far : List Byte) (hl : Part.regs ∈ L ∧ Part.ctr ∈ L ∧ Part.log ∈ L ∧ Part.logLost ∈ L ∧ Part.pins ∈ L ∧ Part.flows ∈ L ∧ Part.due ∈ L ∧ Part.chans ∈ L ∧ Part.jobs ∈ L ∧ Part.nextJob ∈ L ∧ Part.chains ∈ L) (hok : Only L w0 s) : Ends (Only L w0) (execEndSegment handle far s) := by
  unfold execEndSegment
  all_goals simp (maxDischargeDepth := 60) +contextual [hl, hok]

theorem execPadSegment_only (handle : Word) (far : List Byte) (hl : Part.regs ∈ L ∧ Part.ctr ∈ L ∧ Part.log ∈ L ∧ Part.logLost ∈ L ∧ Part.pins ∈ L ∧ Part.due ∈ L ∧ Part.chans ∈ L) (hok : Only L w0 s) : Ends (Only L w0) (execPadSegment handle far s) := by
  unfold execPadSegment
  all_goals simp (maxDischargeDepth := 60) +contextual [hl, hok]

theorem execReservedSegment_only (handle : Word) (far : List Byte) (hl : Part.regs ∈ L ∧ Part.ctr ∈ L ∧ Part.log ∈ L ∧ Part.logLost ∈ L ∧ Part.pins ∈ L ∧ Part.due ∈ L ∧ Part.chans ∈ L) (hok : Only L w0 s) : Ends (Only L w0) (execReservedSegment handle far s) := by
  unfold execReservedSegment
  all_goals simp (maxDischargeDepth := 60) +contextual [hl, hok]

theorem execFscStore_only (job : Option Nat) (n : Nat) (mismatch : Bool) (far : List Byte) (hl : Part.free ∈ L ∧ Part.regs ∈ L ∧ Part.ctr ∈ L ∧ Part.mem ∈ L ∧ Part.out ∈ L ∧ Part.log ∈ L ∧ Part.logLost ∈ L ∧ Part.pins ∈ L ∧ Part.ports ∈ L ∧ Part.qps ∈ L ∧ Part.flows ∈ L ∧ Part.pair ∈ L ∧ Part.queues ∈ L ∧ Part.rings ∈ L ∧ Part.due ∈ L ∧ Part.chans ∈ L ∧ Part.opens ∈ L ∧ Part.jobs ∈ L ∧ Part.fetches ∈ L ∧ Part.chains ∈ L ∧ Part.stores ∈ L ∧ Part.lives ∈ L) (hok : Only L w0 s) : Ends (Only L w0) (execFscStore job n mismatch far s) := by
  unfold execFscStore
  all_goals simp (maxDischargeDepth := 60) +contextual [hl, hok]

theorem execFscLoad_only (id : Nat) (far : List Byte) (hl : Part.free ∈ L ∧ Part.regs ∈ L ∧ Part.ctr ∈ L ∧ Part.mem ∈ L ∧ Part.out ∈ L ∧ Part.log ∈ L ∧ Part.logLost ∈ L ∧ Part.pins ∈ L ∧ Part.ports ∈ L ∧ Part.qps ∈ L ∧ Part.flows ∈ L ∧ Part.pair ∈ L ∧ Part.queues ∈ L ∧ Part.rings ∈ L ∧ Part.due ∈ L ∧ Part.chans ∈ L ∧ Part.opens ∈ L ∧ Part.jobs ∈ L ∧ Part.fetches ∈ L ∧ Part.chains ∈ L ∧ Part.stores ∈ L ∧ Part.lives ∈ L) (hok : Only L w0 s) : Ends (Only L w0) (execFscLoad id far s) := by
  unfold execFscLoad
  repeat' split
  all_goals simp (maxDischargeDepth := 60) +contextual [hl, hok]

theorem execJobDispatch_only (id : Nat) (hl : Part.free ∈ L ∧ Part.regs ∈ L ∧ Part.ctr ∈ L ∧ Part.banks ∈ L ∧ Part.mem ∈ L ∧ Part.log ∈ L ∧ Part.logLost ∈ L ∧ Part.pins ∈ L ∧ Part.traces ∈ L ∧ Part.chans ∈ L ∧ Part.jobs ∈ L ∧ Part.players ∈ L ∧ Part.shds ∈ L) (hok : Only L w0 s) : Ends (Only L w0) (execJobDispatch id s) := by
  unfold execJobDispatch
  all_goals simp (maxDischargeDepth := 60) +contextual [hl, hok]

theorem execYieldPoint_only (id : Nat) (hl : Part.free ∈ L ∧ Part.regs ∈ L ∧ Part.ctr ∈ L ∧ Part.mem ∈ L ∧ Part.out ∈ L ∧ Part.ports ∈ L ∧ Part.qps ∈ L ∧ Part.rings ∈ L ∧ Part.chans ∈ L ∧ Part.jobs ∈ L ∧ Part.fetches ∈ L ∧ Part.players ∈ L ∧ Part.streams ∈ L) (hok : Only L w0 s) : Ends (Only L w0) (execYieldPoint id s) := by
  unfold execYieldPoint
  dsimp only
  repeat' split
  all_goals simp (maxDischargeDepth := 60) +contextual [hl, hok]

theorem execJobFinish_only (id : Nat) (hl : Part.free ∈ L ∧ Part.regs ∈ L ∧ Part.ctr ∈ L ∧ Part.mem ∈ L ∧ Part.out ∈ L ∧ Part.log ∈ L ∧ Part.logLost ∈ L ∧ Part.pins ∈ L ∧ Part.ports ∈ L ∧ Part.qps ∈ L ∧ Part.flows ∈ L ∧ Part.pair ∈ L ∧ Part.queues ∈ L ∧ Part.rings ∈ L ∧ Part.due ∈ L ∧ Part.chans ∈ L ∧ Part.opens ∈ L ∧ Part.jobs ∈ L ∧ Part.fetches ∈ L ∧ Part.players ∈ L ∧ Part.streams ∈ L ∧ Part.chains ∈ L ∧ Part.stores ∈ L ∧ Part.lives ∈ L) (hok : Only L w0 s) : Ends (Only L w0) (execJobFinish id s) := by
  unfold execJobFinish
  repeat' split
  all_goals simp (maxDischargeDepth := 60) +contextual [hl, hok]

theorem execPlayerUpset_only (p : Fin 68) (kind cls place : Nat) (hl : Part.free ∈ L ∧ Part.regs ∈ L ∧ Part.ctr ∈ L ∧ Part.mem ∈ L ∧ Part.log ∈ L ∧ Part.logLost ∈ L ∧ Part.pins ∈ L ∧ Part.traces ∈ L ∧ Part.due ∈ L ∧ Part.chans ∈ L ∧ Part.jobs ∈ L) (hok : Only L w0 s) : Ends (Only L w0) (execPlayerUpset p kind cls place s) := by
  unfold execPlayerUpset
  repeat' split
  all_goals simp (maxDischargeDepth := 60) +contextual [hl, hok]

theorem execPlayerWatchdog_only (p : Fin 68) (hl : Part.regs ∈ L ∧ Part.ctr ∈ L ∧ Part.log ∈ L ∧ Part.logLost ∈ L ∧ Part.pins ∈ L ∧ Part.traces ∈ L ∧ Part.jobs ∈ L) (hok : Only L w0 s) : Ends (Only L w0) (execPlayerWatchdog p s) := by
  unfold execPlayerWatchdog
  dsimp only
  repeat' split
  all_goals simp (maxDischargeDepth := 60) +contextual [hl, hok]

theorem execStreamStall_only (id : Nat) (hl : Part.regs ∈ L ∧ Part.ctr ∈ L ∧ Part.log ∈ L ∧ Part.logLost ∈ L ∧ Part.pins ∈ L ∧ Part.jobs ∈ L) (hok : Only L w0 s) : Ends (Only L w0) (execStreamStall id s) := by
  unfold execStreamStall
  repeat' split
  all_goals simp (maxDischargeDepth := 60) +contextual [hl, hok]

theorem execJobStop_only (id : Nat) (hl : Part.free ∈ L ∧ Part.regs ∈ L ∧ Part.ctr ∈ L ∧ Part.mem ∈ L ∧ Part.out ∈ L ∧ Part.log ∈ L ∧ Part.logLost ∈ L ∧ Part.pins ∈ L ∧ Part.ports ∈ L ∧ Part.qps ∈ L ∧ Part.flows ∈ L ∧ Part.pair ∈ L ∧ Part.queues ∈ L ∧ Part.rings ∈ L ∧ Part.due ∈ L ∧ Part.chans ∈ L ∧ Part.opens ∈ L ∧ Part.jobs ∈ L ∧ Part.nextJob ∈ L ∧ Part.fetches ∈ L ∧ Part.players ∈ L ∧ Part.streams ∈ L ∧ Part.chains ∈ L ∧ Part.relays ∈ L ∧ Part.stores ∈ L ∧ Part.slice ∈ L ∧ Part.lives ∈ L) (hok : Only L w0 s) : Ends (Only L w0) (execJobStop id s) := by
  unfold execJobStop
  all_goals simp (maxDischargeDepth := 60) +contextual [hl, hok]

theorem execStagehandDrainEnd_only (sh : Nat) (hl : Part.regs ∈ L ∧ Part.ctr ∈ L ∧ Part.streams ∈ L) (hok : Only L w0 s) : Ends (Only L w0) (execStagehandDrainEnd sh s) := by
  unfold execStagehandDrainEnd
  all_goals simp (maxDischargeDepth := 60) +contextual [hl, hok]

theorem execShsEccError_only (offset : Nat) (double : Bool) (job : Option Nat) (hl : Part.free ∈ L ∧ Part.regs ∈ L ∧ Part.ctr ∈ L ∧ Part.mem ∈ L ∧ Part.out ∈ L ∧ Part.log ∈ L ∧ Part.logLost ∈ L ∧ Part.pins ∈ L ∧ Part.ports ∈ L ∧ Part.qps ∈ L ∧ Part.flows ∈ L ∧ Part.pair ∈ L ∧ Part.queues ∈ L ∧ Part.rings ∈ L ∧ Part.due ∈ L ∧ Part.chans ∈ L ∧ Part.opens ∈ L ∧ Part.jobs ∈ L ∧ Part.fetches ∈ L ∧ Part.chains ∈ L ∧ Part.stores ∈ L ∧ Part.lives ∈ L) (hok : Only L w0 s) : Ends (Only L w0) (execShsEccError offset double job s) := by
  unfold execShsEccError
  repeat' split
  all_goals simp (maxDischargeDepth := 60) +contextual [hl, hok]

theorem execFlowApply_only (tx : Bool) (flow : Fin 256) (w : Word) (hl : Part.regs ∈ L ∧ Part.ctr ∈ L ∧ Part.pins ∈ L ∧ Part.flows ∈ L) (hok : Only L w0 s) : Ends (Only L w0) (execFlowApply tx flow w s) := by
  unfold execFlowApply
  all_goals simp (maxDischargeDepth := 60) +contextual [hl, hok]

theorem execSt211020Packet_only (flow : Fin 256) (h : RtpHdr) (segs : List RowSeg) (hl : Part.regs ∈ L ∧ Part.ctr ∈ L ∧ Part.mem ∈ L ∧ Part.out ∈ L ∧ Part.log ∈ L ∧ Part.logLost ∈ L ∧ Part.pins ∈ L ∧ Part.ports ∈ L ∧ Part.qps ∈ L ∧ Part.flows ∈ L ∧ Part.rings ∈ L ∧ Part.chans ∈ L ∧ Part.jobs ∈ L ∧ Part.nextJob ∈ L ∧ Part.fetches ∈ L ∧ Part.chains ∈ L) (hok : Only L w0 s) : Ends (Only L w0) (execSt211020Packet flow h segs s) := by
  unfold execSt211020Packet
  all_goals simp (maxDischargeDepth := 60) +contextual [hl, hok]

theorem execSt211030Packet_only (flow : Fin 256) (h : RtpHdr) (samples : List Nat) (hl : Part.regs ∈ L ∧ Part.ctr ∈ L ∧ Part.mem ∈ L ∧ Part.out ∈ L ∧ Part.log ∈ L ∧ Part.logLost ∈ L ∧ Part.pins ∈ L ∧ Part.ports ∈ L ∧ Part.qps ∈ L ∧ Part.flows ∈ L ∧ Part.rings ∈ L ∧ Part.chans ∈ L ∧ Part.jobs ∈ L ∧ Part.nextJob ∈ L ∧ Part.fetches ∈ L ∧ Part.chains ∈ L) (hok : Only L w0 s) : Ends (Only L w0) (execSt211030Packet flow h samples s) := by
  unfold execSt211030Packet
  all_goals simp (maxDischargeDepth := 60) +contextual [hl, hok]

theorem execThardaxPacketReceive_only (flow : Fin 256) (h : RtpHdr) (payload : List Byte) (hl : Part.regs ∈ L ∧ Part.ctr ∈ L ∧ Part.mem ∈ L ∧ Part.out ∈ L ∧ Part.log ∈ L ∧ Part.logLost ∈ L ∧ Part.pins ∈ L ∧ Part.ports ∈ L ∧ Part.qps ∈ L ∧ Part.flows ∈ L ∧ Part.rings ∈ L ∧ Part.due ∈ L ∧ Part.chans ∈ L ∧ Part.jobs ∈ L ∧ Part.nextJob ∈ L ∧ Part.fetches ∈ L ∧ Part.chains ∈ L) (hok : Only L w0 s) : Ends (Only L w0) (execThardaxPacketReceive flow h payload s) := by
  unfold execThardaxPacketReceive
  all_goals simp (maxDischargeDepth := 60) +contextual [hl, hok]

theorem execTimeStep_only (w : Word) (hl : Part.time ∈ L ∧ Part.ctr ∈ L ∧ Part.boot ∈ L ∧ Part.ports ∈ L ∧ Part.qps ∈ L ∧ Part.flows ∈ L ∧ Part.servo ∈ L ∧ Part.chans ∈ L ∧ Part.jobs ∈ L ∧ Part.players ∈ L ∧ Part.streams ∈ L) (hok : Only L w0 s) : Ends (Only L w0) (execTimeStep w s) := by
  unfold execTimeStep
  all_goals simp (maxDischargeDepth := 60) +contextual [hl, hok]

theorem execTimeSet_only (w : Word) (hl : Part.time ∈ L ∧ Part.ctr ∈ L ∧ Part.boot ∈ L ∧ Part.ports ∈ L ∧ Part.qps ∈ L ∧ Part.flows ∈ L ∧ Part.servo ∈ L ∧ Part.chans ∈ L ∧ Part.jobs ∈ L ∧ Part.players ∈ L ∧ Part.streams ∈ L) (hok : Only L w0 s) : Ends (Only L w0) (execTimeSet w s) := by
  unfold execTimeSet
  all_goals simp (maxDischargeDepth := 60) +contextual [hl, hok]

theorem execPtpMessage_only (port : Fin 4) (domain : Nat) (m : PtpMsg) (hl : Part.time ∈ L ∧ Part.regs ∈ L ∧ Part.ctr ∈ L ∧ Part.log ∈ L ∧ Part.logLost ∈ L ∧ Part.pins ∈ L ∧ Part.boot ∈ L ∧ Part.ports ∈ L ∧ Part.qps ∈ L ∧ Part.flows ∈ L ∧ Part.servo ∈ L ∧ Part.chans ∈ L ∧ Part.jobs ∈ L ∧ Part.players ∈ L ∧ Part.streams ∈ L) (hok : Only L w0 s) : Ends (Only L w0) (execPtpMessage port domain m s) := by
  unfold execPtpMessage
  repeat' split
  all_goals simp (maxDischargeDepth := 60) +contextual [hl, hok]

theorem execPtpDelayReq_only (hl : Part.ctr ∈ L ∧ Part.out ∈ L ∧ Part.ports ∈ L ∧ Part.servo ∈ L) (hok : Only L w0 s) : Ends (Only L w0) (execPtpDelayReq s) := by
  unfold execPtpDelayReq
  repeat' split
  all_goals simp (maxDischargeDepth := 60) +contextual [hl, hok]

theorem execPpsEdge_only (hl : Part.time ∈ L ∧ Part.regs ∈ L ∧ Part.ctr ∈ L ∧ Part.log ∈ L ∧ Part.logLost ∈ L ∧ Part.pins ∈ L ∧ Part.boot ∈ L ∧ Part.ports ∈ L ∧ Part.qps ∈ L ∧ Part.flows ∈ L ∧ Part.servo ∈ L ∧ Part.chans ∈ L ∧ Part.jobs ∈ L ∧ Part.players ∈ L ∧ Part.streams ∈ L) (hok : Only L w0 s) : Ends (Only L w0) (execPpsEdge s) := by
  unfold execPpsEdge
  dsimp only
  repeat' split
  all_goals simp (maxDischargeDepth := 60) +contextual [hl, hok]

theorem execTimeHoldover_only (hl : Part.regs ∈ L ∧ Part.ctr ∈ L ∧ Part.log ∈ L ∧ Part.logLost ∈ L ∧ Part.pins ∈ L ∧ Part.servo ∈ L) (hok : Only L w0 s) : Ends (Only L w0) (execTimeHoldover s) := by
  unfold execTimeHoldover
  repeat' split
  all_goals simp (maxDischargeDepth := 60) +contextual [hl, hok]

theorem execQuiesceReqSet_only (page : Fin 4096) (hl : Part.regs ∈ L ∧ Part.ctr ∈ L ∧ Part.pins ∈ L) (hok : Only L w0 s) : Ends (Only L w0) (execQuiesceReqSet page s) := by
  unfold execQuiesceReqSet
  all_goals simp (maxDischargeDepth := 60) +contextual [hl, hok]

theorem execQuiesceReqClear_only (page : Fin 4096) (hl : Part.regs ∈ L ∧ Part.ctr ∈ L ∧ Part.log ∈ L ∧ Part.logLost ∈ L ∧ Part.pins ∈ L) (hok : Only L w0 s) : Ends (Only L w0) (execQuiesceReqClear page s) := by
  unfold execQuiesceReqClear
  all_goals simp (maxDischargeDepth := 60) +contextual [hl, hok]

theorem execResetReq_only (page : Fin 4096) (hl : Part.regs ∈ L ∧ Part.ctr ∈ L ∧ Part.mem ∈ L ∧ Part.log ∈ L ∧ Part.logLost ∈ L ∧ Part.pins ∈ L ∧ Part.traces ∈ L ∧ Part.players ∈ L ∧ Part.treLast ∈ L ∧ Part.shds ∈ L ∧ Part.tableBanks ∈ L) (hok : Only L w0 s) : Ends (Only L w0) (execResetReq page s) := by
  unfold execResetReq
  all_goals simp (maxDischargeDepth := 60) +contextual [hl, hok]

theorem execPowerDownReq_only (page : Fin 4096) (hl : Part.regs ∈ L ∧ Part.ctr ∈ L ∧ Part.mem ∈ L ∧ Part.log ∈ L ∧ Part.logLost ∈ L ∧ Part.pins ∈ L ∧ Part.traces ∈ L ∧ Part.players ∈ L ∧ Part.treLast ∈ L ∧ Part.shds ∈ L ∧ Part.tableBanks ∈ L) (hok : Only L w0 s) : Ends (Only L w0) (execPowerDownReq page s) := by
  unfold execPowerDownReq
  all_goals simp (maxDischargeDepth := 60) +contextual [hl, hok]

theorem execPowerUpReq_only (page : Fin 4096) (hl : Part.regs ∈ L ∧ Part.ctr ∈ L ∧ Part.log ∈ L ∧ Part.logLost ∈ L ∧ Part.pins ∈ L) (hok : Only L w0 s) : Ends (Only L w0) (execPowerUpReq page s) := by
  unfold execPowerUpReq
  all_goals simp (maxDischargeDepth := 60) +contextual [hl, hok]

theorem execEnableClear_only (page : Fin 4096) (hl : Part.regs ∈ L ∧ Part.ctr ∈ L ∧ Part.log ∈ L ∧ Part.logLost ∈ L ∧ Part.pins ∈ L ∧ Part.due ∈ L ∧ Part.chans ∈ L) (hok : Only L w0 s) : Ends (Only L w0) (execEnableClear page s) := by
  unfold execEnableClear
  all_goals simp (maxDischargeDepth := 60) +contextual [hl, hok]

theorem execEnableSet_only (page : Fin 4096) (hl : Part.regs ∈ L ∧ Part.ctr ∈ L ∧ Part.log ∈ L ∧ Part.logLost ∈ L ∧ Part.pins ∈ L ∧ Part.due ∈ L ∧ Part.chans ∈ L) (hok : Only L w0 s) : Ends (Only L w0) (execEnableSet page s) := by
  unfold execEnableSet
  all_goals simp (maxDischargeDepth := 60) +contextual [hl, hok]

theorem execQuiesceDone_only (page : Fin 4096) (hl : Part.regs ∈ L ∧ Part.ctr ∈ L ∧ Part.mem ∈ L ∧ Part.log ∈ L ∧ Part.logLost ∈ L ∧ Part.pins ∈ L ∧ Part.traces ∈ L ∧ Part.players ∈ L ∧ Part.treLast ∈ L ∧ Part.shds ∈ L ∧ Part.tableBanks ∈ L) (hok : Only L w0 s) : Ends (Only L w0) (execQuiesceDone page s) := by
  unfold execQuiesceDone
  dsimp only
  repeat' split
  all_goals simp (maxDischargeDepth := 60) +contextual [hl, hok]

theorem execBlockResetDone_only (page : Fin 4096) (hl : Part.regs ∈ L ∧ Part.ctr ∈ L ∧ Part.banks ∈ L ∧ Part.mem ∈ L ∧ Part.log ∈ L ∧ Part.logLost ∈ L ∧ Part.pins ∈ L ∧ Part.traces ∈ L ∧ Part.players ∈ L ∧ Part.treLast ∈ L ∧ Part.shds ∈ L ∧ Part.tableBanks ∈ L) (hok : Only L w0 s) : Ends (Only L w0) (execBlockResetDone page s) := by
  unfold execBlockResetDone
  dsimp only
  repeat' split
  all_goals simp (maxDischargeDepth := 60) +contextual [hl, hok]

theorem execPairJoin_only (hl : Part.free ∈ L ∧ Part.regs ∈ L ∧ Part.ctr ∈ L ∧ Part.out ∈ L ∧ Part.log ∈ L ∧ Part.logLost ∈ L ∧ Part.pins ∈ L ∧ Part.ports ∈ L ∧ Part.qps ∈ L ∧ Part.pair ∈ L ∧ Part.rings ∈ L ∧ Part.due ∈ L ∧ Part.jobs ∈ L ∧ Part.fetches ∈ L) (hok : Only L w0 s) : Ends (Only L w0) (execPairJoin s) := by
  unfold execPairJoin
  all_goals simp (maxDischargeDepth := 60) +contextual [hl, hok]

theorem execJoinReceive_only (h : PairHdr) (payload : List Byte) (hl : Part.regs ∈ L ∧ Part.ctr ∈ L ∧ Part.out ∈ L ∧ Part.ports ∈ L ∧ Part.qps ∈ L ∧ Part.pair ∈ L ∧ Part.rings ∈ L ∧ Part.jobs ∈ L ∧ Part.fetches ∈ L) (hok : Only L w0 s) : Ends (Only L w0) (execJoinReceive h payload s) := by
  unfold execJoinReceive
  repeat' split
  all_goals simp (maxDischargeDepth := 60) +contextual [hl, hok]

theorem execJoinSigReceive_only (h : PairHdr) (sig : List Byte) (hl : Part.regs ∈ L ∧ Part.ctr ∈ L ∧ Part.log ∈ L ∧ Part.logLost ∈ L ∧ Part.pins ∈ L ∧ Part.pair ∈ L ∧ Part.due ∈ L ∧ Part.chans ∈ L ∧ Part.points ∈ L) (hok : Only L w0 s) : Ends (Only L w0) (execJoinSigReceive h sig s) := by
  unfold execJoinSigReceive
  dsimp only
  repeat' split
  all_goals simp (maxDischargeDepth := 60) +contextual [hl, hok]

theorem execBeatSend_only (hl : Part.regs ∈ L ∧ Part.ctr ∈ L ∧ Part.out ∈ L ∧ Part.log ∈ L ∧ Part.logLost ∈ L ∧ Part.pins ∈ L ∧ Part.ports ∈ L ∧ Part.qps ∈ L ∧ Part.pair ∈ L ∧ Part.rings ∈ L ∧ Part.due ∈ L ∧ Part.jobs ∈ L ∧ Part.fetches ∈ L) (hok : Only L w0 s) : Ends (Only L w0) (execBeatSend s) := by
  unfold execBeatSend
  repeat' split
  all_goals simp (maxDischargeDepth := 60) +contextual [hl, hok]

theorem execBeatReceive_only (h : PairHdr) (st x2 : Nat) (hl : Part.free ∈ L ∧ Part.regs ∈ L ∧ Part.ctr ∈ L ∧ Part.mem ∈ L ∧ Part.out ∈ L ∧ Part.log ∈ L ∧ Part.logLost ∈ L ∧ Part.pins ∈ L ∧ Part.ports ∈ L ∧ Part.qps ∈ L ∧ Part.flows ∈ L ∧ Part.pair ∈ L ∧ Part.queues ∈ L ∧ Part.rings ∈ L ∧ Part.due ∈ L ∧ Part.chans ∈ L ∧ Part.opens ∈ L ∧ Part.jobs ∈ L ∧ Part.fetches ∈ L ∧ Part.chains ∈ L ∧ Part.stores ∈ L ∧ Part.lives ∈ L) (hok : Only L w0 s) : Ends (Only L w0) (execBeatReceive h st x2 s) := by
  unfold execBeatReceive
  dsimp only
  repeat' split
  all_goals simp (maxDischargeDepth := 60) +contextual [hl, hok]

theorem execBeatPeriodMissed_only (hl : Part.regs ∈ L ∧ Part.ctr ∈ L ∧ Part.log ∈ L ∧ Part.logLost ∈ L ∧ Part.pins ∈ L ∧ Part.pair ∈ L ∧ Part.due ∈ L) (hok : Only L w0 s) : Ends (Only L w0) (execBeatPeriodMissed s) := by
  unfold execBeatPeriodMissed
  dsimp only
  repeat' split
  all_goals simp (maxDischargeDepth := 60) +contextual [hl, hok]

theorem execMirrorPoint_only (handle : Word) (hl : Part.free ∈ L ∧ Part.regs ∈ L ∧ Part.ctr ∈ L ∧ Part.out ∈ L ∧ Part.ports ∈ L ∧ Part.qps ∈ L ∧ Part.pair ∈ L ∧ Part.rings ∈ L ∧ Part.chans ∈ L ∧ Part.jobs ∈ L ∧ Part.fetches ∈ L) (hok : Only L w0 s) : Ends (Only L w0) (execMirrorPoint handle s) := by
  unfold execMirrorPoint
  dsimp only
  repeat' split
  all_goals simp (maxDischargeDepth := 60) +contextual [hl, hok]

theorem execCommit_only (h : PairHdr) (handle pic : Word) (x3 : Dword) (pt : Chan) (hl : Part.regs ∈ L ∧ Part.ctr ∈ L ∧ Part.out ∈ L ∧ Part.ports ∈ L ∧ Part.qps ∈ L ∧ Part.pair ∈ L ∧ Part.rings ∈ L ∧ Part.chans ∈ L ∧ Part.points ∈ L ∧ Part.nextIndex ∈ L ∧ Part.jobs ∈ L ∧ Part.fetches ∈ L) (hok : Only L w0 s) : Ends (Only L w0) (execCommit h handle pic x3 pt s) := by
  unfold execCommit
  dsimp only
  repeat' split
  all_goals simp (maxDischargeDepth := 60) +contextual [hl, hok]

theorem execAck_only (h : PairHdr) (handle pic : Word) (hl : Part.regs ∈ L ∧ Part.ctr ∈ L ∧ Part.log ∈ L ∧ Part.logLost ∈ L ∧ Part.pins ∈ L ∧ Part.pair ∈ L ∧ Part.due ∈ L ∧ Part.chans ∈ L) (hok : Only L w0 s) : Ends (Only L w0) (execAck h handle pic s) := by
  unfold execAck
  repeat' split
  all_goals simp (maxDischargeDepth := 60) +contextual [hl, hok]

theorem execPromote_only (q : Fin 256) (e : Entry) (hl : Part.free ∈ L ∧ Part.regs ∈ L ∧ Part.ctr ∈ L ∧ Part.banks ∈ L ∧ Part.out ∈ L ∧ Part.log ∈ L ∧ Part.logLost ∈ L ∧ Part.pins ∈ L ∧ Part.ports ∈ L ∧ Part.qps ∈ L ∧ Part.flows ∈ L ∧ Part.pair ∈ L ∧ Part.queues ∈ L ∧ Part.rings ∈ L ∧ Part.due ∈ L ∧ Part.devSeq ∈ L ∧ Part.chans ∈ L ∧ Part.points ∈ L ∧ Part.jobs ∈ L ∧ Part.nextJob ∈ L ∧ Part.fetches ∈ L ∧ Part.chains ∈ L) (hok : Only L w0 s) : Ends (Only L w0) (execPromote q e s) := by
  unfold execPromote
  all_goals simp (maxDischargeDepth := 60) +contextual [hl, hok]

theorem execCswApply_only (q : Fin 256) (e : Entry) (remote : List Byte) (hl : Part.free ∈ L ∧ Part.regs ∈ L ∧ Part.ctr ∈ L ∧ Part.banks ∈ L ∧ Part.out ∈ L ∧ Part.log ∈ L ∧ Part.logLost ∈ L ∧ Part.pins ∈ L ∧ Part.ids ∈ L ∧ Part.ports ∈ L ∧ Part.qps ∈ L ∧ Part.traces ∈ L ∧ Part.pair ∈ L ∧ Part.queues ∈ L ∧ Part.rings ∈ L ∧ Part.due ∈ L ∧ Part.devSeq ∈ L ∧ Part.chans ∈ L ∧ Part.points ∈ L ∧ Part.jobs ∈ L ∧ Part.fetches ∈ L ∧ Part.players ∈ L) (hok : Only L w0 s) : Ends (Only L w0) (execCswApply q e remote s) := by
  unfold execCswApply
  all_goals simp (maxDischargeDepth := 60) +contextual [hl, hok]

theorem execRepair_only (q : Fin 256) (e : Entry) (remote : List Byte) (hl : Part.free ∈ L ∧ Part.regs ∈ L ∧ Part.ctr ∈ L ∧ Part.banks ∈ L ∧ Part.out ∈ L ∧ Part.log ∈ L ∧ Part.logLost ∈ L ∧ Part.pins ∈ L ∧ Part.ids ∈ L ∧ Part.ports ∈ L ∧ Part.qps ∈ L ∧ Part.pair ∈ L ∧ Part.queues ∈ L ∧ Part.rings ∈ L ∧ Part.due ∈ L ∧ Part.devSeq ∈ L ∧ Part.chans ∈ L ∧ Part.jobs ∈ L ∧ Part.fetches ∈ L) (hok : Only L w0 s) : Ends (Only L w0) (execRepair q e remote s) := by
  unfold execRepair
  all_goals simp (maxDischargeDepth := 60) +contextual [hl, hok]

theorem execAttest_only (q : Fin 256) (e : Entry) (hl : Part.free ∈ L ∧ Part.regs ∈ L ∧ Part.ctr ∈ L ∧ Part.banks ∈ L ∧ Part.mem ∈ L ∧ Part.out ∈ L ∧ Part.log ∈ L ∧ Part.logLost ∈ L ∧ Part.pins ∈ L ∧ Part.ports ∈ L ∧ Part.qps ∈ L ∧ Part.pair ∈ L ∧ Part.queues ∈ L ∧ Part.rings ∈ L ∧ Part.due ∈ L ∧ Part.devSeq ∈ L ∧ Part.chans ∈ L ∧ Part.jobs ∈ L ∧ Part.fetches ∈ L) (hok : Only L w0 s) : Ends (Only L w0) (execAttest q e s) := by
  unfold execAttest
  all_goals simp (maxDischargeDepth := 60) +contextual [hl, hok]

theorem execPgErrClear_only (page : Fin 4096) (w : Word) (hl : Part.regs ∈ L ∧ Part.ctr ∈ L ∧ Part.pins ∈ L) (hok : Only L w0 s) : Ends (Only L w0) (execPgErrClear page w s) := by
  unfold execPgErrClear
  all_goals simp (maxDischargeDepth := 60) +contextual [hl, hok]

theorem execLogRdWrite_only (w : Word) (hl : Part.regs ∈ L ∧ Part.ctr ∈ L ∧ Part.log ∈ L ∧ Part.logLost ∈ L ∧ Part.pins ∈ L) (hok : Only L w0 s) : Ends (Only L w0) (execLogRdWrite w s) := by
  unfold execLogRdWrite
  all_goals simp (maxDischargeDepth := 60) +contextual [hl, hok]

theorem execRegisterWrite_only (page : Fin 4096) (word : Fin 1024) (w : Word) (hl : Part.free ∈ L ∧ Part.time ∈ L ∧ Part.regs ∈ L ∧ Part.ctr ∈ L ∧ Part.sample ∈ L ∧ Part.mem ∈ L ∧ Part.out ∈ L ∧ Part.log ∈ L ∧ Part.logLost ∈ L ∧ Part.pins ∈ L ∧ Part.boot ∈ L ∧ Part.ports ∈ L ∧ Part.qps ∈ L ∧ Part.flows ∈ L ∧ Part.servo ∈ L ∧ Part.traces ∈ L ∧ Part.pair ∈ L ∧ Part.queues ∈ L ∧ Part.rings ∈ L ∧ Part.q0Wanted ∈ L ∧ Part.due ∈ L ∧ Part.chans ∈ L ∧ Part.jobs ∈ L ∧ Part.inval ∈ L ∧ Part.fetches ∈ L ∧ Part.players ∈ L ∧ Part.treLast ∈ L ∧ Part.streams ∈ L ∧ Part.shds ∈ L ∧ Part.tableBanks ∈ L) (hok : Only L w0 s) : Ends (Only L w0) (execRegisterWrite page word w s) := by
  unfold execRegisterWrite
  all_goals simp (maxDischargeDepth := 60) +contextual [hl, hok]

theorem execRdmaRequestReceive_only (qp : Fin 4096) (op : RdmaOp) (rkey : Word) (addr : Dword) (ce : Bool) (hl : Part.free ∈ L ∧ Part.time ∈ L ∧ Part.regs ∈ L ∧ Part.latch ∈ L ∧ Part.ctr ∈ L ∧ Part.sample ∈ L ∧ Part.mem ∈ L ∧ Part.poison ∈ L ∧ Part.out ∈ L ∧ Part.log ∈ L ∧ Part.logLost ∈ L ∧ Part.pins ∈ L ∧ Part.boot ∈ L ∧ Part.ports ∈ L ∧ Part.qps ∈ L ∧ Part.flows ∈ L ∧ Part.servo ∈ L ∧ Part.traces ∈ L ∧ Part.pair ∈ L ∧ Part.queues ∈ L ∧ Part.rings ∈ L ∧ Part.q0Wanted ∈ L ∧ Part.due ∈ L ∧ Part.chans ∈ L ∧ Part.jobs ∈ L ∧ Part.inval ∈ L ∧ Part.fetches ∈ L ∧ Part.players ∈ L ∧ Part.treLast ∈ L ∧ Part.streams ∈ L ∧ Part.shds ∈ L ∧ Part.tableBanks ∈ L) (hok : Only L w0 s) : Ends (Only L w0) (execRdmaRequestReceive qp op rkey addr ce s) := by
  unfold execRdmaRequestReceive
  all_goals simp (maxDischargeDepth := 60) +contextual [hl, hok]

theorem execEntryFetch_only (pkgs : List Package) (remote : List (List Byte)) (hl : Part.free ∈ L ∧ Part.regs ∈ L ∧ Part.ctr ∈ L ∧ Part.banks ∈ L ∧ Part.mem ∈ L ∧ Part.out ∈ L ∧ Part.log ∈ L ∧ Part.logLost ∈ L ∧ Part.pins ∈ L ∧ Part.ids ∈ L ∧ Part.ports ∈ L ∧ Part.qps ∈ L ∧ Part.flows ∈ L ∧ Part.traces ∈ L ∧ Part.pair ∈ L ∧ Part.queues ∈ L ∧ Part.rings ∈ L ∧ Part.due ∈ L ∧ Part.devSeq ∈ L ∧ Part.chans ∈ L ∧ Part.points ∈ L ∧ Part.nextIndex ∈ L ∧ Part.freed ∈ L ∧ Part.opens ∈ L ∧ Part.jobs ∈ L ∧ Part.nextJob ∈ L ∧ Part.tlb ∈ L ∧ Part.fetches ∈ L ∧ Part.nextFetch ∈ L ∧ Part.players ∈ L ∧ Part.streams ∈ L ∧ Part.shds ∈ L ∧ Part.chains ∈ L ∧ Part.stores ∈ L ∧ Part.lives ∈ L ∧ Part.ens ∈ L) (hok : Only L w0 s) : Ends (Only L w0) (execEntryFetch pkgs remote s) := by
  unfold execEntryFetch
  all_goals simp (maxDischargeDepth := 60) +contextual [hl, hok]

theorem execFenceRelease_only (q : Fin 256) (pkg : Package) (remote : List Byte) (hl : Part.free ∈ L ∧ Part.regs ∈ L ∧ Part.ctr ∈ L ∧ Part.banks ∈ L ∧ Part.mem ∈ L ∧ Part.out ∈ L ∧ Part.log ∈ L ∧ Part.logLost ∈ L ∧ Part.pins ∈ L ∧ Part.ids ∈ L ∧ Part.ports ∈ L ∧ Part.qps ∈ L ∧ Part.flows ∈ L ∧ Part.traces ∈ L ∧ Part.pair ∈ L ∧ Part.queues ∈ L ∧ Part.rings ∈ L ∧ Part.due ∈ L ∧ Part.devSeq ∈ L ∧ Part.chans ∈ L ∧ Part.points ∈ L ∧ Part.nextIndex ∈ L ∧ Part.freed ∈ L ∧ Part.opens ∈ L ∧ Part.jobs ∈ L ∧ Part.nextJob ∈ L ∧ Part.tlb ∈ L ∧ Part.fetches ∈ L ∧ Part.nextFetch ∈ L ∧ Part.players ∈ L ∧ Part.streams ∈ L ∧ Part.shds ∈ L ∧ Part.chains ∈ L ∧ Part.stores ∈ L ∧ Part.lives ∈ L ∧ Part.ens ∈ L) (hok : Only L w0 s) : Ends (Only L w0) (execFenceRelease q pkg remote s) := by
  unfold execFenceRelease
  repeat' split
  all_goals simp (maxDischargeDepth := 60) +contextual [hl, hok]

theorem execForward_only (h : PairHdr) (e : Entry) (pkg : Package) (remote : List Byte) (ok : Bool) (hl : Part.free ∈ L ∧ Part.regs ∈ L ∧ Part.ctr ∈ L ∧ Part.banks ∈ L ∧ Part.mem ∈ L ∧ Part.out ∈ L ∧ Part.log ∈ L ∧ Part.logLost ∈ L ∧ Part.pins ∈ L ∧ Part.ids ∈ L ∧ Part.ports ∈ L ∧ Part.qps ∈ L ∧ Part.flows ∈ L ∧ Part.traces ∈ L ∧ Part.pair ∈ L ∧ Part.queues ∈ L ∧ Part.rings ∈ L ∧ Part.due ∈ L ∧ Part.devSeq ∈ L ∧ Part.chans ∈ L ∧ Part.points ∈ L ∧ Part.nextIndex ∈ L ∧ Part.freed ∈ L ∧ Part.opens ∈ L ∧ Part.jobs ∈ L ∧ Part.nextJob ∈ L ∧ Part.tlb ∈ L ∧ Part.fetches ∈ L ∧ Part.nextFetch ∈ L ∧ Part.players ∈ L ∧ Part.streams ∈ L ∧ Part.shds ∈ L ∧ Part.chains ∈ L ∧ Part.stores ∈ L ∧ Part.lives ∈ L ∧ Part.ens ∈ L) (hok : Only L w0 s) : Ends (Only L w0) (execForward h e pkg remote ok s) := by
  unfold execForward
  repeat' split
  all_goals simp (maxDischargeDepth := 60) +contextual [hl, hok]

end Sys2Proof.Machine
end

