-- ==== Sys2Proof/Laws/Same.lean ====
section
/-! SUPPORT. One part at a time: a state that differs only in the other parts holds the part as it was. -/

namespace Sys2Proof.Machine

variable {s t : State}

theorem same_pending (h : Only [.free, .time, .regs, .latch, .ctr, .banks, .sample, .mem, .poison, .out, .log, .logLost, .pins, .ids, .boot, .ports, .qps, .flows, .servo, .traces, .pair, .queues, .rings, .q0Wanted, .due, .devSeq, .chans, .points, .nextIndex, .freed, .opens, .jobs, .nextJob, .tlb, .inval, .fetches, .nextFetch, .players, .treLast, .streams, .shds, .chains, .relays, .stores, .slice, .tableBanks, .lives, .ens] s t) : t.pending = s.pending := h.same .pending (by decide)
theorem same_free (h : Only [.pending, .time, .regs, .latch, .ctr, .banks, .sample, .mem, .poison, .out, .log, .logLost, .pins, .ids, .boot, .ports, .qps, .flows, .servo, .traces, .pair, .queues, .rings, .q0Wanted, .due, .devSeq, .chans, .points, .nextIndex, .freed, .opens, .jobs, .nextJob, .tlb, .inval, .fetches, .nextFetch, .players, .treLast, .streams, .shds, .chains, .relays, .stores, .slice, .tableBanks, .lives, .ens] s t) : t.free = s.free := h.same .free (by decide)
theorem same_time (h : Only [.pending, .free, .regs, .latch, .ctr, .banks, .sample, .mem, .poison, .out, .log, .logLost, .pins, .ids, .boot, .ports, .qps, .flows, .servo, .traces, .pair, .queues, .rings, .q0Wanted, .due, .devSeq, .chans, .points, .nextIndex, .freed, .opens, .jobs, .nextJob, .tlb, .inval, .fetches, .nextFetch, .players, .treLast, .streams, .shds, .chains, .relays, .stores, .slice, .tableBanks, .lives, .ens] s t) : t.time = s.time := h.same .time (by decide)
theorem same_regs (h : Only [.pending, .free, .time, .latch, .ctr, .banks, .sample, .mem, .poison, .out, .log, .logLost, .pins, .ids, .boot, .ports, .qps, .flows, .servo, .traces, .pair, .queues, .rings, .q0Wanted, .due, .devSeq, .chans, .points, .nextIndex, .freed, .opens, .jobs, .nextJob, .tlb, .inval, .fetches, .nextFetch, .players, .treLast, .streams, .shds, .chains, .relays, .stores, .slice, .tableBanks, .lives, .ens] s t) : t.regs = s.regs := h.same .regs (by decide)
theorem same_latch (h : Only [.pending, .free, .time, .regs, .ctr, .banks, .sample, .mem, .poison, .out, .log, .logLost, .pins, .ids, .boot, .ports, .qps, .flows, .servo, .traces, .pair, .queues, .rings, .q0Wanted, .due, .devSeq, .chans, .points, .nextIndex, .freed, .opens, .jobs, .nextJob, .tlb, .inval, .fetches, .nextFetch, .players, .treLast, .streams, .shds, .chains, .relays, .stores, .slice, .tableBanks, .lives, .ens] s t) : t.latch = s.latch := h.same .latch (by decide)
theorem same_ctr (h : Only [.pending, .free, .time, .regs, .latch, .banks, .sample, .mem, .poison, .out, .log, .logLost, .pins, .ids, .boot, .ports, .qps, .flows, .servo, .traces, .pair, .queues, .rings, .q0Wanted, .due, .devSeq, .chans, .points, .nextIndex, .freed, .opens, .jobs, .nextJob, .tlb, .inval, .fetches, .nextFetch, .players, .treLast, .streams, .shds, .chains, .relays, .stores, .slice, .tableBanks, .lives, .ens] s t) : t.ctr = s.ctr := h.same .ctr (by decide)
theorem same_banks (h : Only [.pending, .free, .time, .regs, .latch, .ctr, .sample, .mem, .poison, .out, .log, .logLost, .pins, .ids, .boot, .ports, .qps, .flows, .servo, .traces, .pair, .queues, .rings, .q0Wanted, .due, .devSeq, .chans, .points, .nextIndex, .freed, .opens, .jobs, .nextJob, .tlb, .inval, .fetches, .nextFetch, .players, .treLast, .streams, .shds, .chains, .relays, .stores, .slice, .tableBanks, .lives, .ens] s t) : t.banks = s.banks := h.same .banks (by decide)
theorem same_sample (h : Only [.pending, .free, .time, .regs, .latch, .ctr, .banks, .mem, .poison, .out, .log, .logLost, .pins, .ids, .boot, .ports, .qps, .flows, .servo, .traces, .pair, .queues, .rings, .q0Wanted, .due, .devSeq, .chans, .points, .nextIndex, .freed, .opens, .jobs, .nextJob, .tlb, .inval, .fetches, .nextFetch, .players, .treLast, .streams, .shds, .chains, .relays, .stores, .slice, .tableBanks, .lives, .ens] s t) : t.sample = s.sample := h.same .sample (by decide)
theorem same_mem (h : Only [.pending, .free, .time, .regs, .latch, .ctr, .banks, .sample, .poison, .out, .log, .logLost, .pins, .ids, .boot, .ports, .qps, .flows, .servo, .traces, .pair, .queues, .rings, .q0Wanted, .due, .devSeq, .chans, .points, .nextIndex, .freed, .opens, .jobs, .nextJob, .tlb, .inval, .fetches, .nextFetch, .players, .treLast, .streams, .shds, .chains, .relays, .stores, .slice, .tableBanks, .lives, .ens] s t) : t.mem = s.mem := h.same .mem (by decide)
theorem same_poison (h : Only [.pending, .free, .time, .regs, .latch, .ctr, .banks, .sample, .mem, .out, .log, .logLost, .pins, .ids, .boot, .ports, .qps, .flows, .servo, .traces, .pair, .queues, .rings, .q0Wanted, .due, .devSeq, .chans, .points, .nextIndex, .freed, .opens, .jobs, .nextJob, .tlb, .inval, .fetches, .nextFetch, .players, .treLast, .streams, .shds, .chains, .relays, .stores, .slice, .tableBanks, .lives, .ens] s t) : t.poison = s.poison := h.same .poison (by decide)
theorem same_out (h : Only [.pending, .free, .time, .regs, .latch, .ctr, .banks, .sample, .mem, .poison, .log, .logLost, .pins, .ids, .boot, .ports, .qps, .flows, .servo, .traces, .pair, .queues, .rings, .q0Wanted, .due, .devSeq, .chans, .points, .nextIndex, .freed, .opens, .jobs, .nextJob, .tlb, .inval, .fetches, .nextFetch, .players, .treLast, .streams, .shds, .chains, .relays, .stores, .slice, .tableBanks, .lives, .ens] s t) : t.out = s.out := h.same .out (by decide)
theorem same_log (h : Only [.pending, .free, .time, .regs, .latch, .ctr, .banks, .sample, .mem, .poison, .out, .logLost, .pins, .ids, .boot, .ports, .qps, .flows, .servo, .traces, .pair, .queues, .rings, .q0Wanted, .due, .devSeq, .chans, .points, .nextIndex, .freed, .opens, .jobs, .nextJob, .tlb, .inval, .fetches, .nextFetch, .players, .treLast, .streams, .shds, .chains, .relays, .stores, .slice, .tableBanks, .lives, .ens] s t) : t.log = s.log := h.same .log (by decide)
theorem same_logLost (h : Only [.pending, .free, .time, .regs, .latch, .ctr, .banks, .sample, .mem, .poison, .out, .log, .pins, .ids, .boot, .ports, .qps, .flows, .servo, .traces, .pair, .queues, .rings, .q0Wanted, .due, .devSeq, .chans, .points, .nextIndex, .freed, .opens, .jobs, .nextJob, .tlb, .inval, .fetches, .nextFetch, .players, .treLast, .streams, .shds, .chains, .relays, .stores, .slice, .tableBanks, .lives, .ens] s t) : t.logLost = s.logLost := h.same .logLost (by decide)
theorem same_pins (h : Only [.pending, .free, .time, .regs, .latch, .ctr, .banks, .sample, .mem, .poison, .out, .log, .logLost, .ids, .boot, .ports, .qps, .flows, .servo, .traces, .pair, .queues, .rings, .q0Wanted, .due, .devSeq, .chans, .points, .nextIndex, .freed, .opens, .jobs, .nextJob, .tlb, .inval, .fetches, .nextFetch, .players, .treLast, .streams, .shds, .chains, .relays, .stores, .slice, .tableBanks, .lives, .ens] s t) : t.pins = s.pins := h.same .pins (by decide)
theorem same_ids (h : Only [.pending, .free, .time, .regs, .latch, .ctr, .banks, .sample, .mem, .poison, .out, .log, .logLost, .pins, .boot, .ports, .qps, .flows, .servo, .traces, .pair, .queues, .rings, .q0Wanted, .due, .devSeq, .chans, .points, .nextIndex, .freed, .opens, .jobs, .nextJob, .tlb, .inval, .fetches, .nextFetch, .players, .treLast, .streams, .shds, .chains, .relays, .stores, .slice, .tableBanks, .lives, .ens] s t) : t.ids = s.ids := h.same .ids (by decide)
theorem same_boot (h : Only [.pending, .free, .time, .regs, .latch, .ctr, .banks, .sample, .mem, .poison, .out, .log, .logLost, .pins, .ids, .ports, .qps, .flows, .servo, .traces, .pair, .queues, .rings, .q0Wanted, .due, .devSeq, .chans, .points, .nextIndex, .freed, .opens, .jobs, .nextJob, .tlb, .inval, .fetches, .nextFetch, .players, .treLast, .streams, .shds, .chains, .relays, .stores, .slice, .tableBanks, .lives, .ens] s t) : t.boot = s.boot := h.same .boot (by decide)
theorem same_ports (h : Only [.pending, .free, .time, .regs, .latch, .ctr, .banks, .sample, .mem, .poison, .out, .log, .logLost, .pins, .ids, .boot, .qps, .flows, .servo, .traces, .pair, .queues, .rings, .q0Wanted, .due, .devSeq, .chans, .points, .nextIndex, .freed, .opens, .jobs, .nextJob, .tlb, .inval, .fetches, .nextFetch, .players, .treLast, .streams, .shds, .chains, .relays, .stores, .slice, .tableBanks, .lives, .ens] s t) : t.ports = s.ports := h.same .ports (by decide)
theorem same_qps (h : Only [.pending, .free, .time, .regs, .latch, .ctr, .banks, .sample, .mem, .poison, .out, .log, .logLost, .pins, .ids, .boot, .ports, .flows, .servo, .traces, .pair, .queues, .rings, .q0Wanted, .due, .devSeq, .chans, .points, .nextIndex, .freed, .opens, .jobs, .nextJob, .tlb, .inval, .fetches, .nextFetch, .players, .treLast, .streams, .shds, .chains, .relays, .stores, .slice, .tableBanks, .lives, .ens] s t) : t.qps = s.qps := h.same .qps (by decide)
theorem same_flows (h : Only [.pending, .free, .time, .regs, .latch, .ctr, .banks, .sample, .mem, .poison, .out, .log, .logLost, .pins, .ids, .boot, .ports, .qps, .servo, .traces, .pair, .queues, .rings, .q0Wanted, .due, .devSeq, .chans, .points, .nextIndex, .freed, .opens, .jobs, .nextJob, .tlb, .inval, .fetches, .nextFetch, .players, .treLast, .streams, .shds, .chains, .relays, .stores, .slice, .tableBanks, .lives, .ens] s t) : t.flows = s.flows := h.same .flows (by decide)
theorem same_servo (h : Only [.pending, .free, .time, .regs, .latch, .ctr, .banks, .sample, .mem, .poison, .out, .log, .logLost, .pins, .ids, .boot, .ports, .qps, .flows, .traces, .pair, .queues, .rings, .q0Wanted, .due, .devSeq, .chans, .points, .nextIndex, .freed, .opens, .jobs, .nextJob, .tlb, .inval, .fetches, .nextFetch, .players, .treLast, .streams, .shds, .chains, .relays, .stores, .slice, .tableBanks, .lives, .ens] s t) : t.servo = s.servo := h.same .servo (by decide)
theorem same_traces (h : Only [.pending, .free, .time, .regs, .latch, .ctr, .banks, .sample, .mem, .poison, .out, .log, .logLost, .pins, .ids, .boot, .ports, .qps, .flows, .servo, .pair, .queues, .rings, .q0Wanted, .due, .devSeq, .chans, .points, .nextIndex, .freed, .opens, .jobs, .nextJob, .tlb, .inval, .fetches, .nextFetch, .players, .treLast, .streams, .shds, .chains, .relays, .stores, .slice, .tableBanks, .lives, .ens] s t) : t.traces = s.traces := h.same .traces (by decide)
theorem same_pair (h : Only [.pending, .free, .time, .regs, .latch, .ctr, .banks, .sample, .mem, .poison, .out, .log, .logLost, .pins, .ids, .boot, .ports, .qps, .flows, .servo, .traces, .queues, .rings, .q0Wanted, .due, .devSeq, .chans, .points, .nextIndex, .freed, .opens, .jobs, .nextJob, .tlb, .inval, .fetches, .nextFetch, .players, .treLast, .streams, .shds, .chains, .relays, .stores, .slice, .tableBanks, .lives, .ens] s t) : t.pair = s.pair := h.same .pair (by decide)
theorem same_queues (h : Only [.pending, .free, .time, .regs, .latch, .ctr, .banks, .sample, .mem, .poison, .out, .log, .logLost, .pins, .ids, .boot, .ports, .qps, .flows, .servo, .traces, .pair, .rings, .q0Wanted, .due, .devSeq, .chans, .points, .nextIndex, .freed, .opens, .jobs, .nextJob, .tlb, .inval, .fetches, .nextFetch, .players, .treLast, .streams, .shds, .chains, .relays, .stores, .slice, .tableBanks, .lives, .ens] s t) : t.queues = s.queues := h.same .queues (by decide)
theorem same_rings (h : Only [.pending, .free, .time, .regs, .latch, .ctr, .banks, .sample, .mem, .poison, .out, .log, .logLost, .pins, .ids, .boot, .ports, .qps, .flows, .servo, .traces, .pair, .queues, .q0Wanted, .due, .devSeq, .chans, .points, .nextIndex, .freed, .opens, .jobs, .nextJob, .tlb, .inval, .fetches, .nextFetch, .players, .treLast, .streams, .shds, .chains, .relays, .stores, .slice, .tableBanks, .lives, .ens] s t) : t.rings = s.rings := h.same .rings (by decide)
theorem same_q0Wanted (h : Only [.pending, .free, .time, .regs, .latch, .ctr, .banks, .sample, .mem, .poison, .out, .log, .logLost, .pins, .ids, .boot, .ports, .qps, .flows, .servo, .traces, .pair, .queues, .rings, .due, .devSeq, .chans, .points, .nextIndex, .freed, .opens, .jobs, .nextJob, .tlb, .inval, .fetches, .nextFetch, .players, .treLast, .streams, .shds, .chains, .relays, .stores, .slice, .tableBanks, .lives, .ens] s t) : t.q0Wanted = s.q0Wanted := h.same .q0Wanted (by decide)
theorem same_due (h : Only [.pending, .free, .time, .regs, .latch, .ctr, .banks, .sample, .mem, .poison, .out, .log, .logLost, .pins, .ids, .boot, .ports, .qps, .flows, .servo, .traces, .pair, .queues, .rings, .q0Wanted, .devSeq, .chans, .points, .nextIndex, .freed, .opens, .jobs, .nextJob, .tlb, .inval, .fetches, .nextFetch, .players, .treLast, .streams, .shds, .chains, .relays, .stores, .slice, .tableBanks, .lives, .ens] s t) : t.due = s.due := h.same .due (by decide)
theorem same_devSeq (h : Only [.pending, .free, .time, .regs, .latch, .ctr, .banks, .sample, .mem, .poison, .out, .log, .logLost, .pins, .ids, .boot, .ports, .qps, .flows, .servo, .traces, .pair, .queues, .rings, .q0Wanted, .due, .chans, .points, .nextIndex, .freed, .opens, .jobs, .nextJob, .tlb, .inval, .fetches, .nextFetch, .players, .treLast, .streams, .shds, .chains, .relays, .stores, .slice, .tableBanks, .lives, .ens] s t) : t.devSeq = s.devSeq := h.same .devSeq (by decide)
theorem same_chans (h : Only [.pending, .free, .time, .regs, .latch, .ctr, .banks, .sample, .mem, .poison, .out, .log, .logLost, .pins, .ids, .boot, .ports, .qps, .flows, .servo, .traces, .pair, .queues, .rings, .q0Wanted, .due, .devSeq, .points, .nextIndex, .freed, .opens, .jobs, .nextJob, .tlb, .inval, .fetches, .nextFetch, .players, .treLast, .streams, .shds, .chains, .relays, .stores, .slice, .tableBanks, .lives, .ens] s t) : t.chans = s.chans := h.same .chans (by decide)
theorem same_points (h : Only [.pending, .free, .time, .regs, .latch, .ctr, .banks, .sample, .mem, .poison, .out, .log, .logLost, .pins, .ids, .boot, .ports, .qps, .flows, .servo, .traces, .pair, .queues, .rings, .q0Wanted, .due, .devSeq, .chans, .nextIndex, .freed, .opens, .jobs, .nextJob, .tlb, .inval, .fetches, .nextFetch, .players, .treLast, .streams, .shds, .chains, .relays, .stores, .slice, .tableBanks, .lives, .ens] s t) : t.points = s.points := h.same .points (by decide)
theorem same_nextIndex (h : Only [.pending, .free, .time, .regs, .latch, .ctr, .banks, .sample, .mem, .poison, .out, .log, .logLost, .pins, .ids, .boot, .ports, .qps, .flows, .servo, .traces, .pair, .queues, .rings, .q0Wanted, .due, .devSeq, .chans, .points, .freed, .opens, .jobs, .nextJob, .tlb, .inval, .fetches, .nextFetch, .players, .treLast, .streams, .shds, .chains, .relays, .stores, .slice, .tableBanks, .lives, .ens] s t) : t.nextIndex = s.nextIndex := h.same .nextIndex (by decide)
theorem same_freed (h : Only [.pending, .free, .time, .regs, .latch, .ctr, .banks, .sample, .mem, .poison, .out, .log, .logLost, .pins, .ids, .boot, .ports, .qps, .flows, .servo, .traces, .pair, .queues, .rings, .q0Wanted, .due, .devSeq, .chans, .points, .nextIndex, .opens, .jobs, .nextJob, .tlb, .inval, .fetches, .nextFetch, .players, .treLast, .streams, .shds, .chains, .relays, .stores, .slice, .tableBanks, .lives, .ens] s t) : t.freed = s.freed := h.same .freed (by decide)
theorem same_opens (h : Only [.pending, .free, .time, .regs, .latch, .ctr, .banks, .sample, .mem, .poison, .out, .log, .logLost, .pins, .ids, .boot, .ports, .qps, .flows, .servo, .traces, .pair, .queues, .rings, .q0Wanted, .due, .devSeq, .chans, .points, .nextIndex, .freed, .jobs, .nextJob, .tlb, .inval, .fetches, .nextFetch, .players, .treLast, .streams, .shds, .chains, .relays, .stores, .slice, .tableBanks, .lives, .ens] s t) : t.opens = s.opens := h.same .opens (by decide)
theorem same_jobs (h : Only [.pending, .free, .time, .regs, .latch, .ctr, .banks, .sample, .mem, .poison, .out, .log, .logLost, .pins, .ids, .boot, .ports, .qps, .flows, .servo, .traces, .pair, .queues, .rings, .q0Wanted, .due, .devSeq, .chans, .points, .nextIndex, .freed, .opens, .nextJob, .tlb, .inval, .fetches, .nextFetch, .players, .treLast, .streams, .shds, .chains, .relays, .stores, .slice, .tableBanks, .lives, .ens] s t) : t.jobs = s.jobs := h.same .jobs (by decide)
theorem same_nextJob (h : Only [.pending, .free, .time, .regs, .latch, .ctr, .banks, .sample, .mem, .poison, .out, .log, .logLost, .pins, .ids, .boot, .ports, .qps, .flows, .servo, .traces, .pair, .queues, .rings, .q0Wanted, .due, .devSeq, .chans, .points, .nextIndex, .freed, .opens, .jobs, .tlb, .inval, .fetches, .nextFetch, .players, .treLast, .streams, .shds, .chains, .relays, .stores, .slice, .tableBanks, .lives, .ens] s t) : t.nextJob = s.nextJob := h.same .nextJob (by decide)
theorem same_tlb (h : Only [.pending, .free, .time, .regs, .latch, .ctr, .banks, .sample, .mem, .poison, .out, .log, .logLost, .pins, .ids, .boot, .ports, .qps, .flows, .servo, .traces, .pair, .queues, .rings, .q0Wanted, .due, .devSeq, .chans, .points, .nextIndex, .freed, .opens, .jobs, .nextJob, .inval, .fetches, .nextFetch, .players, .treLast, .streams, .shds, .chains, .relays, .stores, .slice, .tableBanks, .lives, .ens] s t) : t.tlb = s.tlb := h.same .tlb (by decide)
theorem same_inval (h : Only [.pending, .free, .time, .regs, .latch, .ctr, .banks, .sample, .mem, .poison, .out, .log, .logLost, .pins, .ids, .boot, .ports, .qps, .flows, .servo, .traces, .pair, .queues, .rings, .q0Wanted, .due, .devSeq, .chans, .points, .nextIndex, .freed, .opens, .jobs, .nextJob, .tlb, .fetches, .nextFetch, .players, .treLast, .streams, .shds, .chains, .relays, .stores, .slice, .tableBanks, .lives, .ens] s t) : t.inval = s.inval := h.same .inval (by decide)
theorem same_fetches (h : Only [.pending, .free, .time, .regs, .latch, .ctr, .banks, .sample, .mem, .poison, .out, .log, .logLost, .pins, .ids, .boot, .ports, .qps, .flows, .servo, .traces, .pair, .queues, .rings, .q0Wanted, .due, .devSeq, .chans, .points, .nextIndex, .freed, .opens, .jobs, .nextJob, .tlb, .inval, .nextFetch, .players, .treLast, .streams, .shds, .chains, .relays, .stores, .slice, .tableBanks, .lives, .ens] s t) : t.fetches = s.fetches := h.same .fetches (by decide)
theorem same_nextFetch (h : Only [.pending, .free, .time, .regs, .latch, .ctr, .banks, .sample, .mem, .poison, .out, .log, .logLost, .pins, .ids, .boot, .ports, .qps, .flows, .servo, .traces, .pair, .queues, .rings, .q0Wanted, .due, .devSeq, .chans, .points, .nextIndex, .freed, .opens, .jobs, .nextJob, .tlb, .inval, .fetches, .players, .treLast, .streams, .shds, .chains, .relays, .stores, .slice, .tableBanks, .lives, .ens] s t) : t.nextFetch = s.nextFetch := h.same .nextFetch (by decide)
theorem same_players (h : Only [.pending, .free, .time, .regs, .latch, .ctr, .banks, .sample, .mem, .poison, .out, .log, .logLost, .pins, .ids, .boot, .ports, .qps, .flows, .servo, .traces, .pair, .queues, .rings, .q0Wanted, .due, .devSeq, .chans, .points, .nextIndex, .freed, .opens, .jobs, .nextJob, .tlb, .inval, .fetches, .nextFetch, .treLast, .streams, .shds, .chains, .relays, .stores, .slice, .tableBanks, .lives, .ens] s t) : t.players = s.players := h.same .players (by decide)
theorem same_treLast (h : Only [.pending, .free, .time, .regs, .latch, .ctr, .banks, .sample, .mem, .poison, .out, .log, .logLost, .pins, .ids, .boot, .ports, .qps, .flows, .servo, .traces, .pair, .queues, .rings, .q0Wanted, .due, .devSeq, .chans, .points, .nextIndex, .freed, .opens, .jobs, .nextJob, .tlb, .inval, .fetches, .nextFetch, .players, .streams, .shds, .chains, .relays, .stores, .slice, .tableBanks, .lives, .ens] s t) : t.treLast = s.treLast := h.same .treLast (by decide)
theorem same_streams (h : Only [.pending, .free, .time, .regs, .latch, .ctr, .banks, .sample, .mem, .poison, .out, .log, .logLost, .pins, .ids, .boot, .ports, .qps, .flows, .servo, .traces, .pair, .queues, .rings, .q0Wanted, .due, .devSeq, .chans, .points, .nextIndex, .freed, .opens, .jobs, .nextJob, .tlb, .inval, .fetches, .nextFetch, .players, .treLast, .shds, .chains, .relays, .stores, .slice, .tableBanks, .lives, .ens] s t) : t.streams = s.streams := h.same .streams (by decide)
theorem same_shds (h : Only [.pending, .free, .time, .regs, .latch, .ctr, .banks, .sample, .mem, .poison, .out, .log, .logLost, .pins, .ids, .boot, .ports, .qps, .flows, .servo, .traces, .pair, .queues, .rings, .q0Wanted, .due, .devSeq, .chans, .points, .nextIndex, .freed, .opens, .jobs, .nextJob, .tlb, .inval, .fetches, .nextFetch, .players, .treLast, .streams, .chains, .relays, .stores, .slice, .tableBanks, .lives, .ens] s t) : t.shds = s.shds := h.same .shds (by decide)
theorem same_chains (h : Only [.pending, .free, .time, .regs, .latch, .ctr, .banks, .sample, .mem, .poison, .out, .log, .logLost, .pins, .ids, .boot, .ports, .qps, .flows, .servo, .traces, .pair, .queues, .rings, .q0Wanted, .due, .devSeq, .chans, .points, .nextIndex, .freed, .opens, .jobs, .nextJob, .tlb, .inval, .fetches, .nextFetch, .players, .treLast, .streams, .shds, .relays, .stores, .slice, .tableBanks, .lives, .ens] s t) : t.chains = s.chains := h.same .chains (by decide)
theorem same_relays (h : Only [.pending, .free, .time, .regs, .latch, .ctr, .banks, .sample, .mem, .poison, .out, .log, .logLost, .pins, .ids, .boot, .ports, .qps, .flows, .servo, .traces, .pair, .queues, .rings, .q0Wanted, .due, .devSeq, .chans, .points, .nextIndex, .freed, .opens, .jobs, .nextJob, .tlb, .inval, .fetches, .nextFetch, .players, .treLast, .streams, .shds, .chains, .stores, .slice, .tableBanks, .lives, .ens] s t) : t.relays = s.relays := h.same .relays (by decide)
theorem same_stores (h : Only [.pending, .free, .time, .regs, .latch, .ctr, .banks, .sample, .mem, .poison, .out, .log, .logLost, .pins, .ids, .boot, .ports, .qps, .flows, .servo, .traces, .pair, .queues, .rings, .q0Wanted, .due, .devSeq, .chans, .points, .nextIndex, .freed, .opens, .jobs, .nextJob, .tlb, .inval, .fetches, .nextFetch, .players, .treLast, .streams, .shds, .chains, .relays, .slice, .tableBanks, .lives, .ens] s t) : t.stores = s.stores := h.same .stores (by decide)
theorem same_slice (h : Only [.pending, .free, .time, .regs, .latch, .ctr, .banks, .sample, .mem, .poison, .out, .log, .logLost, .pins, .ids, .boot, .ports, .qps, .flows, .servo, .traces, .pair, .queues, .rings, .q0Wanted, .due, .devSeq, .chans, .points, .nextIndex, .freed, .opens, .jobs, .nextJob, .tlb, .inval, .fetches, .nextFetch, .players, .treLast, .streams, .shds, .chains, .relays, .stores, .tableBanks, .lives, .ens] s t) : t.slice = s.slice := h.same .slice (by decide)
theorem same_tableBanks (h : Only [.pending, .free, .time, .regs, .latch, .ctr, .banks, .sample, .mem, .poison, .out, .log, .logLost, .pins, .ids, .boot, .ports, .qps, .flows, .servo, .traces, .pair, .queues, .rings, .q0Wanted, .due, .devSeq, .chans, .points, .nextIndex, .freed, .opens, .jobs, .nextJob, .tlb, .inval, .fetches, .nextFetch, .players, .treLast, .streams, .shds, .chains, .relays, .stores, .slice, .lives, .ens] s t) : t.tableBanks = s.tableBanks := h.same .tableBanks (by decide)
theorem same_lives (h : Only [.pending, .free, .time, .regs, .latch, .ctr, .banks, .sample, .mem, .poison, .out, .log, .logLost, .pins, .ids, .boot, .ports, .qps, .flows, .servo, .traces, .pair, .queues, .rings, .q0Wanted, .due, .devSeq, .chans, .points, .nextIndex, .freed, .opens, .jobs, .nextJob, .tlb, .inval, .fetches, .nextFetch, .players, .treLast, .streams, .shds, .chains, .relays, .stores, .slice, .tableBanks, .ens] s t) : t.lives = s.lives := h.same .lives (by decide)
theorem same_ens (h : Only [.pending, .free, .time, .regs, .latch, .ctr, .banks, .sample, .mem, .poison, .out, .log, .logLost, .pins, .ids, .boot, .ports, .qps, .flows, .servo, .traces, .pair, .queues, .rings, .q0Wanted, .due, .devSeq, .chans, .points, .nextIndex, .freed, .opens, .jobs, .nextJob, .tlb, .inval, .fetches, .nextFetch, .players, .treLast, .streams, .shds, .chains, .relays, .stores, .slice, .tableBanks, .lives] s t) : t.ens = s.ens := h.same .ens (by decide)

end Sys2Proof.Machine
end

