-- ==== Sys2Proof/Laws/Admission.lean ====
section
/-! SUPPORT. What the admission of an accepted command does before the command's own body runs, and what its record does after. -/

namespace Sys2Proof.Machine

variable {L : List Part} {w0 s : State}

/-- A request of the pair engine that fails reaches the pair's queue pair alone. -/
theorem issue_pair (q : Nat) (m : Msg) (hl : Part.regs ∈ L ∧ Part.ctr ∈ L ∧ Part.out ∈ L ∧ Part.ports ∈ L ∧ Part.qps ∈ L) (hok : Only L w0 s) :
    Only L w0 (issue q m .pair s) := by
  have e : ∀ (c : Nat) (u : State), ownerFail .pair c u = setQp 4095 { u.qp 4095 with st := 0, out := [] } u := fun _ _ => rfl
  unfold issue holdRdmErr
  dsimp only
  simp only [e]
  repeat' split
  all_goals simp (maxDischargeDepth := 60) +contextual [hl, hok]

theorem mirrorWrite_pair (a : Nat) (l : List Byte) (hl : Part.regs ∈ L ∧ Part.ctr ∈ L ∧ Part.out ∈ L ∧ Part.ports ∈ L ∧ Part.qps ∈ L)
    (hok : Only L w0 s) : Only L w0 (mirrorWrite a l s) := by
  unfold mirrorWrite
  have h := issue_pair 4095 (.rdmaWrite 4095 (s.rf 0x38 Reg.PAIR_PEERID_ID) a l) hl hok
  simp (maxDischargeDepth := 60) [hl, h]

theorem mirrorVa_pair (hl : Part.regs ∈ L ∧ Part.ctr ∈ L ∧ Part.out ∈ L ∧ Part.ports ∈ L ∧ Part.qps ∈ L) (i : Nat) (fuel : Nat) :
    ∀ (va len : Nat) (s : State), Only L w0 s → Only L w0 (mirrorVa i va len fuel s) := by
  induction fuel with
  | zero => intro va len s h; exact h
  | succ n ih =>
    intro va len s h
    unfold mirrorVa
    dsimp only
    repeat' split
    all_goals first
      | exact h
      | exact ih _ _ _ h
      | exact ih _ _ _ (mirrorWrite_pair _ _ hl h)

theorem sendEntry_pair (e : Entry) (hl : Part.regs ∈ L ∧ Part.ctr ∈ L ∧ Part.out ∈ L ∧ Part.ports ∈ L ∧ Part.qps ∈ L ∧ Part.pair ∈ L)
    (hok : Only L w0 s) : Only L w0 (sendEntry e s) := by
  unfold sendEntry sendPair
  dsimp only
  refine bump_only _ _ _ hl.2.1 (issue_pair _ _ ⟨hl.1, hl.2.1, hl.2.2.1, hl.2.2.2.1, hl.2.2.2.2.1⟩ ?_)
  simp (maxDischargeDepth := 60) [hl, hok]

/-- Forwarding a command to the peer changes the pair's own parts alone. -/
theorem forwardEntry_pair (sp : CmdSpec) (e : Entry)
    (hl : Part.regs ∈ L ∧ Part.ctr ∈ L ∧ Part.out ∈ L ∧ Part.ports ∈ L ∧ Part.qps ∈ L ∧ Part.pair ∈ L) (hok : Only L w0 s) :
    Only L w0 (forwardEntry sp e s) := by
  unfold forwardEntry
  dsimp only
  repeat' split
  all_goals first
    | exact hok
    | exact sendEntry_pair e hl hok
    | exact sendEntry_pair e hl (mirrorVa_pair ⟨hl.1, hl.2.1, hl.2.2.1, hl.2.2.2.1, hl.2.2.2.2.1⟩ _ _ _ _ _ hok)

/-- The state in which the body of an accepted command of the device runs. -/
def admittedDevice (sp : CmdSpec) (q : Nat) (k : Queue) (e : Entry) (s : State) : State :=
  let r := nextDevSeq (forwardEntry sp e (bump 0x21 Cnt.HIF_CMDS_ADMITTED 1 { s with queues := tput s.queues q { k with openRecs := k.openRecs + 1 } }))
  swapBanks commandPages 0 r.1 r.2

/-- The context of an accepted command of the device. -/
def deviceCtxOf (q : Nat) (k : Queue) (e : Entry) (s : State) : Ctx :=
  { queue := q, tag := eTag e, handle := 0, seq := (s.devSeq + 1) % 2 ^ 32, ring := k.ring }

theorem admittedDevice_only (sp : CmdSpec) (q : Nat) (k : Queue) (e : Entry) (s : State) :
    Only [.free, .regs, .ctr, .banks, .out, .ports, .qps, .pair, .queues, .devSeq] s (admittedDevice sp q k e s) := by
  unfold admittedDevice
  dsimp only
  refine swapBanks_only _ _ _ (by simp) (nextDevSeq_only (by simp) (forwardEntry_pair _ _ (by simp) ?_))
  simp (maxDischargeDepth := 60) [Only.refl]

theorem forwardEntry_devSeq (sp : CmdSpec) (e : Entry) (s : State) : (forwardEntry sp e s).devSeq = s.devSeq :=
  (forwardEntry_pair sp e (L := [.regs, .ctr, .out, .ports, .qps, .pair]) (by simp) (Only.refl _ s)).same .devSeq (by simp)

theorem forwardEntry_queues (sp : CmdSpec) (e : Entry) (s : State) : (forwardEntry sp e s).queues = s.queues :=
  (forwardEntry_pair sp e (L := [.regs, .ctr, .out, .ports, .qps, .pair]) (by simp) (Only.refl _ s)).same .queues (by simp)

theorem forwardEntry_chans (sp : CmdSpec) (e : Entry) (s : State) : (forwardEntry sp e s).chans = s.chans :=
  (forwardEntry_pair sp e (L := [.regs, .ctr, .out, .ports, .qps, .pair]) (by simp) (Only.refl _ s)).same .chans (by simp)

theorem swapBanks_devSeq (l : List Nat) (h n : Nat) (s : State) : (swapBanks l h n s).devSeq = s.devSeq :=
  (swapBanks_only (L := [.free, .banks]) l h n (by simp) (Only.refl _ s)).same .devSeq (by simp)

theorem swapBanks_queues (l : List Nat) (h n : Nat) (s : State) : (swapBanks l h n s).queues = s.queues :=
  (swapBanks_only (L := [.free, .banks]) l h n (by simp) (Only.refl _ s)).same .queues (by simp)

theorem swapBanks_chans (l : List Nat) (h n : Nat) (s : State) : (swapBanks l h n s).chans = s.chans :=
  (swapBanks_only (L := [.free, .banks]) l h n (by simp) (Only.refl _ s)).same .chans (by simp)

theorem admittedDevice_devSeq (sp : CmdSpec) (q : Nat) (k : Queue) (e : Entry) (s : State) :
    (admittedDevice sp q k e s).devSeq = (s.devSeq + 1) % 2 ^ 32 := by
  unfold admittedDevice
  simp only [swapBanks_devSeq, nextDevSeq, forwardEntry_devSeq]
  rfl

theorem admittedDevice_queues (sp : CmdSpec) (q : Nat) (k : Queue) (e : Entry) (s : State) :
    (admittedDevice sp q k e s).queues = tput s.queues q { k with openRecs := k.openRecs + 1 } := by
  unfold admittedDevice
  simp only [swapBanks_queues, nextDevSeq, forwardEntry_queues]
  rfl

/-- An accepted command of the device runs its body. -/
theorem admitCmd_device {sp : CmdSpec} {q : Nat} {k : Queue} {e : Entry} {s : State} (h : Admits sp q k e s) (hc : sp.channel = false)
    (he : eHandle e = 0) (body : Ctx → Nat → Entry → State → State) :
    admitCmd sp q e body s = body (deviceCtxOf q k e s) 0 e (admittedDevice sp q k e s) := by
  have hr : ringFieldOk sp.op e (forwardEntry sp e (bump 0x21 Cnt.HIF_CMDS_ADMITTED 1 { s with queues := tput s.queues q { k with openRecs := k.openRecs + 1 } })) = true := by
    have e2 : (forwardEntry sp e (bump 0x21 Cnt.HIF_CMDS_ADMITTED 1 { s with queues := tput s.queues q { k with openRecs := k.openRecs + 1 } })).rings = s.rings :=
      (forwardEntry_pair sp e (L := [.regs, .ctr, .out, .ports, .qps, .pair]) (by simp) (Only.refl _ _)).same .rings (by simp)
    have := h.ring
    unfold ringFieldOk at *
    rw [e2]
    exact this
  have ha : (sp.admin && q != 0) = false := by
    cases hs : sp.admin with
    | false => rfl
    | true => simp [h.admin hs]
  unfold admitCmd
  rw [h.queue]
  dsimp only
  unfold admitFrom
  simp only [h.form, hr, ha, hc, he, Bool.not_true, Bool.or_self, Bool.false_eq_true, if_false, bne_self_eq_false, Bool.and_false]
  simp only [deviceCtx, Option.isSome_none, Bool.false_eq_true, if_false]
  have hn : (nextDevSeq (forwardEntry sp e (bump 0x21 Cnt.HIF_CMDS_ADMITTED 1 { s with queues := tput s.queues q { k with openRecs := k.openRecs + 1 } }))).1 =
      (s.devSeq + 1) % 2 ^ 32 := by
    simp only [nextDevSeq, forwardEntry_devSeq]
    rfl
  unfold admittedDevice deviceCtxOf
  dsimp only
  rw [hn]

/-- An accepted command of the device alone has no handle. -/
theorem entryFormOk_handle {sp : CmdSpec} {e : Entry} (h : entryFormOk sp e = true) (hc : sp.channel = false) (he : sp.either = false) :
    eHandle e = 0 := by
  unfold entryFormOk at h
  simp only [hc, he, Bool.and_eq_true, Bool.false_or, Bool.false_eq_true, if_false, beq_iff_eq] at h
  exact h.2

/-- The context of an accepted command of a channel, and the state in which its body runs. -/
def channelCtxOf (q : Nat) (e : Entry) (i : Nat) (s : State) : Ctx :=
  { queue := q, tag := eTag e, handle := eHandle e, seq := ((s.chan i).seq + 1) % 2 ^ 32, ring := (s.chan i).cq, chan := some i }

def admittedChannel (sp : CmdSpec) (q : Nat) (k : Queue) (e : Entry) (i : Nat) (s : State) : State :=
  let u := forwardEntry sp e (bump 0x21 Cnt.HIF_CMDS_ADMITTED 1 { s with queues := tput s.queues q { k with openRecs := k.openRecs + 1 } })
  swapBanks commandPages (eHandle e) (((s.chan i).seq + 1) % 2 ^ 32) { u with chans := tput u.chans i { s.chan i with seq := ((s.chan i).seq + 1) % 2 ^ 32 } }

theorem admittedChannel_only (sp : CmdSpec) (q : Nat) (k : Queue) (e : Entry) (i : Nat) (s : State) :
    Only [.free, .regs, .ctr, .banks, .out, .ports, .qps, .pair, .queues, .chans] s (admittedChannel sp q k e i s) := by
  unfold admittedChannel
  dsimp only
  refine swapBanks_only _ _ _ (by simp) ?_
  have h : Only [.free, .regs, .ctr, .banks, .out, .ports, .qps, .pair, .queues, .chans] s
      (forwardEntry sp e (bump 0x21 Cnt.HIF_CMDS_ADMITTED 1 { s with queues := tput s.queues q { k with openRecs := k.openRecs + 1 } })) := by
    refine forwardEntry_pair _ _ (by simp) ?_
    simp (maxDischargeDepth := 60) [Only.refl]
  simp (maxDischargeDepth := 60) [h]

theorem admittedChannel_chans (sp : CmdSpec) (q : Nat) (k : Queue) (e : Entry) (i : Nat) (s : State) :
    (admittedChannel sp q k e i s).chans = tput s.chans i { s.chan i with seq := ((s.chan i).seq + 1) % 2 ^ 32 } := by
  unfold admittedChannel
  simp only [swapBanks_chans, forwardEntry_chans]
  rfl

theorem admittedChannel_queues (sp : CmdSpec) (q : Nat) (k : Queue) (e : Entry) (i : Nat) (s : State) :
    (admittedChannel sp q k e i s).queues = tput s.queues q { k with openRecs := k.openRecs + 1 } := by
  unfold admittedChannel
  simp only [swapBanks_queues, forwardEntry_queues]
  rfl

theorem admittedChannel_chan (sp : CmdSpec) (q : Nat) (k : Queue) (e : Entry) (i : Nat) (s : State) :
    (admittedChannel sp q k e i s).chan i = { s.chan i with seq := ((s.chan i).seq + 1) % 2 ^ 32 } := by
  unfold State.chan
  rw [admittedChannel_chans]
  exact tget_tput_same _ _ _ _

theorem chanOf_handle {s : State} {h i : Nat} (hc : s.chanOf h = some i) : handleOf i (s.chan i) = h ∧ i < 2 ^ 18 := by
  unfold State.chanOf at hc
  split at hc
  · rename_i c hh
    split at hc
    · rename_i hg
      simp only [Option.some.injEq] at hc
      subst hc
      have e1 : s.chan (h % 2 ^ 18) = c := by
        unfold State.chan tget
        rw [hh]
        rfl
      unfold handleOf
      rw [e1, hg.1]
      omega
    · cases hc
  · cases hc

/-- An accepted command of a channel runs its body. -/
theorem admitCmd_channel {sp : CmdSpec} {q : Nat} {k : Queue} {e : Entry} {i : Nat} {s : State} (h : AdmitsFor sp q k e i s)
    (hl : eQuiet e = false) (hc : sp.channel = true ∨ (sp.either = true ∧ eHandle e ≠ 0)) (ho : sp.op ≠ 0x02 ∧ sp.op ≠ 0x10) (body : Ctx → Nat → Entry → State → State) :
    admitCmd sp q e body s = body (channelCtxOf q e i s) i e (admittedChannel sp q k e i s) := by
  have hr : ∀ t, ringFieldOk sp.op e t = true := by
    intro t
    unfold ringFieldOk
    simp [ho]
  have ha : (sp.admin && q != 0) = false := by
    cases hs : sp.admin with
    | false => rfl
    | true => simp [h.admin hs]
  have hh : (sp.channel || sp.either && eHandle e != 0) = true := by
    rcases hc with hc | ⟨h1, h2⟩
    · simp [hc]
    · simp [h1, h2]
  have e1 : ∀ u : State, u.chans = s.chans → u.chanOf (eHandle e) = some i := by
    intro u hu
    have := h.chan
    unfold State.chanOf at *
    rw [hu]
    exact this
  have e2 : ∀ u : State, u.chans = s.chans → u.chan i = s.chan i := by
    intro u hu
    unfold State.chan
    rw [hu]
  have hu : (forwardEntry sp e (bump 0x21 Cnt.HIF_CMDS_ADMITTED 1 { s with queues := tput s.queues q { k with openRecs := k.openRecs + 1 } })).chans = s.chans := by
    rw [forwardEntry_chans]
    rfl
  have hht := (chanOf_handle h.chan).1
  have ht : sp.types.contains (s.chan i).ty = true := by simpa using h.type
  have hst : sp.states.contains (s.chan i).st = true := by simpa using h.state
  unfold admitCmd
  rw [h.queue]
  dsimp only
  unfold admitFrom
  simp only [h.form, hr, ha, hh, Bool.not_true, Bool.or_self, Bool.false_eq_true, if_false, if_true, hl, Bool.false_and]
  rw [e1 _ hu]
  dsimp only
  rw [channelCtx]
  dsimp only
  rw [e2 _ hu]
  simp only [ht, hst, Bool.not_true, Bool.false_eq_true, if_false, hht]
  rfl

/-- A command that may not be QUIET is not. -/
theorem entryFormOk_loud {sp : CmdSpec} {e : Entry} (h : entryFormOk sp e = true) (hq : sp.quiet = false) : eQuiet e = false := by
  unfold entryFormOk at h
  simp only [hq, Bool.and_eq_true, Bool.or_false, Bool.not_eq_true'] at h
  exact h.1.1.1.2

/-- A record with a code falls due on a ring in service; its number and its channel's parts stay. -/
theorem finish_due (c : Ctx) (code r0 r1 : Nat) (s : State) (hf : c.fwd = none) (hq : c.quiet = false) (hr : (tget? s.rings c.ring).isSome = true) :
    (finish c code r0 r1 s).due = s.due ++
      [{ ring := c.ring, chan := c.chan, queue := some c.queue, body := { handle := c.handle, seq := c.seq, tag := c.tag, code, r0, r1 } }] := by
  unfold finish
  simp only [hf, hq, Bool.false_and, Bool.false_eq_true, if_false]
  unfold pushDue
  have h : ∀ u : State, u.rings = s.rings → u.due = s.due → (tget? u.rings c.ring).isSome = true ∧ u.due = s.due := by
    intro u h1 h2
    rw [h1]
    exact ⟨hr, h2⟩
  have g : Only [.regs, .ctr, .log, .logLost, .pins] s (postCode code c.handle c.seq r0 0 (if rejects code then bump 0x21 Cnt.HIF_CMDS_REJECTED 1 s else s)) := by
    refine postCode_only _ _ _ _ _ (by simp) ?_
    split
    · exact bump_only _ _ _ (by simp) (Only.refl _ _)
    · exact Only.refl _ _
  obtain ⟨g1, g2⟩ := h _ (g.same .rings (by simp)) (g.same .due (by simp))
  simp only [g1, if_true]
  rw [g2]

/-- Apart from its record, the end of a loud command that is not forwarded changes the callboard and the registers alone. -/
theorem finish_loud (c : Ctx) (code r0 r1 : Nat) (hf : c.fwd = none) (hq : c.quiet = false)
    (hl : Part.regs ∈ L ∧ Part.ctr ∈ L ∧ Part.log ∈ L ∧ Part.logLost ∈ L ∧ Part.pins ∈ L ∧ Part.due ∈ L) (hok : Only L w0 s) :
    Only L w0 (finish c code r0 r1 s) := by
  unfold finish
  simp only [hf, hq, Bool.false_and, Bool.false_eq_true, if_false]
  refine pushDue_only _ hl.2.2.2.2.2 (postCode_only _ _ _ _ _ ⟨hl.1, hl.2.1, hl.2.2.1, hl.2.2.2.1, hl.2.2.2.2.1⟩ ?_)
  split
  · exact bump_only _ _ _ hl.2.1 hok
  · exact hok

theorem admittedDevice_up {sp : CmdSpec} {q : Nat} {k : Queue} {e : Entry} {s : State} (h : Admits sp q k e s) :
    (tget? (admittedDevice sp q k e s).rings k.ring).isSome = true := by
  rw [(admittedDevice_only sp q k e s).same .rings (by simp)]
  exact h.up

theorem admittedChannel_up {sp : CmdSpec} {q : Nat} {k : Queue} {e : Entry} {i : Nat} {s : State} (h : AdmitsFor sp q k e i s) :
    (tget? (admittedChannel sp q k e i s).rings (s.chan i).cq).isSome = true := by
  rw [(admittedChannel_only sp q k e i s).same .rings (by simp)]
  exact h.up

/-- The record that ends a device command. -/
theorem answers_device {q : Nat} {k : Queue} {e : Entry} {code r0 r1 : Nat} {s u : State} (hd : u.due = s.due)
    (hn : u.devSeq = (s.devSeq + 1) % 2 ^ 32) (hr : (tget? u.rings k.ring).isSome = true) :
    Answers q k e code r0 r1 s (finish (deviceCtxOf q k e s) code r0 r1 u) := by
  refine ⟨?_, ?_⟩
  · exact ((finish_loud (deviceCtxOf q k e s) code r0 r1 rfl rfl (L := [.regs, .ctr, .log, .logLost, .pins, .due]) (by simp) (Only.refl _ u)).same .devSeq (by simp)).trans hn
  · rw [finish_due _ _ _ _ _ rfl rfl hr, hd]
    rfl

/-- The record that ends a channel command. -/
theorem answers_channel {q : Nat} {e : Entry} {i code r0 r1 : Nat} {s u : State} (hd : u.due = s.due)
    (hn : (u.chan i).seq = ((s.chan i).seq + 1) % 2 ^ 32) (hr : (tget? u.rings (s.chan i).cq).isSome = true) :
    AnswersFor q e i code r0 r1 s (finish (channelCtxOf q e i s) code r0 r1 u) := by
  refine ⟨?_, ?_⟩
  · have h : (finish (channelCtxOf q e i s) code r0 r1 u).chans = u.chans :=
      (finish_loud (channelCtxOf q e i s) code r0 r1 rfl rfl (L := [.regs, .ctr, .log, .logLost, .pins, .due]) (by simp) (Only.refl _ u)).same .chans (by simp)
    unfold State.chan at *
    rw [h]
    exact hn
  · rw [finish_due _ _ _ _ _ rfl rfl hr, hd]
    rfl

/-- A command that is not forwarded leaves the registers as they are at its admission. -/
theorem forwardEntry_none {sp : CmdSpec} (h : sp.forwarded = false) (e : Entry) (s : State) : forwardEntry sp e s = s := by
  unfold forwardEntry
  simp [h]

theorem admittedDevice_regs {sp : CmdSpec} (hf : sp.forwarded = false) (q : Nat) (k : Queue) (e : Entry) (s : State) :
    (admittedDevice sp q k e s).regs = s.regs := by
  unfold admittedDevice
  rw [forwardEntry_none hf]
  exact (swapBanks_only (L := [.free, .banks]) commandPages _ _ (by simp) (Only.refl _ _)).same .regs (by simp)

end Sys2Proof.Machine
end

