-- ==== Sys2Proof/Laws/Orderly.lean ====
section
/-! SUPPORT. What no operation of the machine can do: take a command from the queue, take back a message, draw a free value twice, break a
table's canonical form, or write the callboard out of turn. One relation, kept by every operation, in one lemma for each. -/

namespace Sys2Proof.Machine

/-- A table of registers in canonical form: keys rise and no entry holds its reset value. -/
def regsOk (t : Tbl Word) : Prop := rising t = true ∧ ∀ e ∈ t, e.2 ≠ regReset e.1

/-- A table of counters in canonical form. -/
def ctrOk (t : Tbl Nat) : Prop := rising t = true ∧ ∀ e ∈ t, e.2 ≠ 0

/-- The callboard: the latest records, at most 2,048, their numbers consecutive (spec/16, R583). -/
def logOk : List LogRec → Prop
  | [] => True
  | [_] => True
  | a :: b :: t => a.recno = b.recno + 1 ∧ logOk (b :: t)

/-- What every operation keeps, from the state before it to the state after it. -/
structure Orderly (s t : State) : Prop where
  pending : t.pending = s.pending
  out : s.out <:+ t.out
  free : s.free ≤ t.free
  mem : Memory.wf s.mem = true → Memory.wf t.mem = true
  regs : regsOk s.regs → regsOk t.regs
  ctr : ctrOk s.ctr → ctrOk t.ctr
  log : logOk s.log → logOk t.log
  logLen : s.log.length ≤ 2048 → t.log.length ≤ 2048

variable {w0 s t : State}

theorem Orderly.refl (s : State) : Orderly s s := ⟨rfl, List.suffix_refl _, le_refl _, id, id, id, id, id⟩

theorem Orderly.trans (h : Orderly w0 s) (g : Orderly s t) : Orderly w0 t :=
  ⟨g.pending.trans h.pending, h.out.trans g.out, h.free.trans g.free, fun x => g.mem (h.mem x), fun x => g.regs (h.regs x),
    fun x => g.ctr (h.ctr x), fun x => g.log (h.log x), fun x => g.logLen (h.logLen x)⟩

@[simp] theorem Orderly.mk_of (h : Orderly w0 s) {x_free : Nat} {x_time : Nat} {x_latch : Tbl Word} {x_banks : Tbl Bank} {x_sample : Option (Nat × Nat × Nat)} {x_poison : List Nat} {x_logLost : Nat} {x_pins : Pins} {x_ids : IdStore} {x_boot : BootSt} {x_ports : Tbl Port} {x_qps : Tbl Qp} {x_flows : Tbl Flow} {x_servo : Servo} {x_traces : Tbl Trace} {x_pair : PairSt} {x_queues : Tbl Queue} {x_rings : Tbl Ring} {x_q0Wanted : Bool} {x_due : List Due} {x_devSeq : Nat} {x_chans : Tbl Chan} {x_points : Tbl Chan} {x_nextIndex : Nat} {x_freed : List Nat} {x_opens : List OpenCmd} {x_jobs : Tbl Job} {x_nextJob : Nat} {x_tlb : List Tlb} {x_inval : Option (Nat × Nat × Nat)} {x_fetches : Tbl Fetch} {x_nextFetch : Nat} {x_players : Tbl Player} {x_treLast : Tbl Nat} {x_streams : Tbl Stream} {x_shds : Tbl Shd} {x_chains : List ChainSt} {x_relays : Tbl Ring4} {x_stores : List PicStore} {x_slice : Option (Nat × Nat)} {x_tableBanks : List (Option Nat)} {x_lives : Tbl Live} {x_ens : Tbl Ens} (hf : s.free ≤ x_free) :
    Orderly w0 (State.mk s.pending x_free x_time s.regs x_latch s.ctr x_banks x_sample s.mem x_poison s.out s.log x_logLost x_pins x_ids x_boot x_ports x_qps x_flows x_servo x_traces x_pair x_queues x_rings x_q0Wanted x_due x_devSeq x_chans x_points x_nextIndex x_freed x_opens x_jobs x_nextJob x_tlb x_inval x_fetches x_nextFetch x_players x_treLast x_streams x_shds x_chains x_relays x_stores x_slice x_tableBanks x_lives x_ens) :=
  ⟨h.pending, h.out, h.free.trans hf, h.mem, h.regs, h.ctr, h.log, h.logLen⟩

@[simp] theorem Orderly.ite {c : Prop} [Decidable c] (h : c → Orderly w0 s) (g : ¬c → Orderly w0 t) : Orderly w0 (if c then s else t) := by
  split
  · exact h ‹_›
  · exact g ‹_›

@[simp] theorem Orderly.foldl {β : Type} {f : State → β → State} (l : List β) (hf : ∀ a x, Orderly w0 a → Orderly w0 (f a x)) (h : Orderly w0 s) :
    Orderly w0 (l.foldl f s) := by
  induction l generalizing s with
  | nil => exact h
  | cons x l ih => exact ih (hf _ _ h)

@[simp] theorem Orderly.foldr {β : Type} {f : β → State → State} (l : List β) (hf : ∀ a x, Orderly w0 a → Orderly w0 (f x a)) (h : Orderly w0 s) :
    Orderly w0 (l.foldr f s) := by
  induction l with
  | nil => exact h
  | cons x l ih => exact hf _ _ ih

@[simp] theorem Orderly.foldl_pair {β γ : Type} {f : γ × State → β → γ × State} (l : List β) (c : γ × State)
    (hf : ∀ a x, Orderly w0 a.2 → Orderly w0 (f a x).2) (h : Orderly w0 c.2) : Orderly w0 (l.foldl f c).2 := by
  induction l generalizing c with
  | nil => exact h
  | cons x l ih => exact ih _ (hf _ _ h)

@[simp] theorem Orderly.foldl_fst {β γ : Type} {f : State × γ → β → State × γ} (l : List β) (c : State × γ)
    (hf : ∀ a x, Orderly w0 a.1 → Orderly w0 (f a x).1) (h : Orderly w0 c.1) : Orderly w0 (l.foldl f c).1 := by
  induction l generalizing c with
  | nil => exact h
  | cons x l ih => exact ih _ (hf _ _ h)

/-! The writers of the fields that the relation is about -/

theorem regsOk_dput (t : Tbl Word) (k : Nat) (w : Word) (h : regsOk t) : regsOk (dput (regReset k) t k w) := by
  refine ⟨rising_dput _ _ _ _ h.1, ?_⟩
  simp only [dput]
  split
  · intro e he
    exact h.2 e (List.mem_of_mem_filter he)
  · rename_i hw
    intro e he
    rcases mem_tput t k w e he with rfl | he
    · exact hw
    · exact h.2 e he

theorem ctrOk_dput (t : Tbl Nat) (k n : Nat) (h : ctrOk t) : ctrOk (dput 0 t k n) := by
  refine ⟨rising_dput _ _ _ _ h.1, ?_⟩
  simp only [dput]
  split
  · intro e he
    exact h.2 e (List.mem_of_mem_filter he)
  · rename_i hw
    intro e he
    rcases mem_tput t k n e he with rfl | he
    · exact hw
    · exact h.2 e he

theorem regsOk_filter (t : Tbl Word) (p : Nat × Word → Bool) (h : regsOk t) : regsOk (t.filter p) :=
  ⟨rising_filter t p h.1, fun e he => h.2 e (List.mem_of_mem_filter he)⟩

theorem ctrOk_filter (t : Tbl Nat) (p : Nat × Nat → Bool) (h : ctrOk t) : ctrOk (t.filter p) :=
  ⟨rising_filter t p h.1, fun e he => h.2 e (List.mem_of_mem_filter he)⟩

theorem logOk_take (n : Nat) (l : List LogRec) (h : logOk l) : logOk (l.take n) := by
  induction n generalizing l with
  | zero => trivial
  | succ n ih =>
    match l, h with
    | [], _ => trivial
    | [_], _ => cases n <;> trivial
    | a :: b :: t, h =>
      cases n with
      | zero => trivial
      | succ n => exact ⟨h.1, ih (b :: t) h.2⟩

@[simp] theorem setReg_orderly (page off : Nat) (w : Word) (h : Orderly w0 s) : Orderly w0 (s.setReg page off w) :=
  ⟨h.pending, h.out, h.free, h.mem, fun x => regsOk_dput _ _ _ (h.regs x), h.ctr, h.log, h.logLen⟩

@[simp] theorem State.clearPage_orderly (page : Nat) (h : Orderly w0 s) : Orderly w0 (s.clearPage page) :=
  ⟨h.pending, h.out, h.free, h.mem, fun x => regsOk_filter _ _ (h.regs x), h.ctr, h.log, h.logLen⟩

@[simp] theorem store_orderly (a : Nat) (l : List Byte) (h : Orderly w0 s) : Orderly w0 (s.store a l) :=
  ⟨h.pending, h.out, h.free, fun x => memWrite_wf _ _ _ (h.mem x), h.regs, h.ctr, h.log, h.logLen⟩

@[simp] theorem bump_orderly (page i n : Nat) (h : Orderly w0 s) : Orderly w0 (bump page i n s) :=
  ⟨h.pending, h.out, h.free, h.mem, h.regs, fun x => ctrOk_dput _ _ _ (h.ctr x), h.log, h.logLen⟩

@[simp] theorem peak_orderly (page i n : Nat) (h : Orderly w0 s) : Orderly w0 (peak page i n s) :=
  ⟨h.pending, h.out, h.free, h.mem, h.regs, fun x => ctrOk_dput _ _ _ (h.ctr x), h.log, h.logLen⟩

@[simp] theorem emit_orderly (m : Msg) (h : Orderly w0 s) : Orderly w0 (emit m s) :=
  ⟨h.pending, h.out.trans (List.suffix_cons _ _), h.free, h.mem, h.regs, h.ctr, h.log, h.logLen⟩

@[simp] theorem drawBytes_orderly (n : Nat) (h : Orderly w0 s) : Orderly w0 (drawBytes n s).2 := by
  induction n generalizing s with
  | zero => exact h
  | succ n ih => exact ih (Orderly.mk_of h (Nat.le_succ _))

theorem logPush_orderly (r : LogRec) (hr : r.recno = s.logWr + 1) (h : Orderly w0 s) : Orderly w0 (logPush r s) := by
  refine bump_orderly _ _ _ ⟨h.pending, h.out, h.free, h.mem, h.regs, h.ctr, fun x => logOk_take _ _ ?_, fun _ => by simp⟩
  have hs := h.log x
  unfold State.logWr at hr
  match hl : s.log, hs with
  | [], _ => trivial
  | a :: t, hs => rw [hl] at hr; exact ⟨hr, hs⟩

@[simp] theorem dieReset_orderly (h : Orderly w0 s) : Orderly w0 (dieReset s) :=
  ⟨h.pending, h.out, h.free, fun _ => rfl, fun x => regsOk_filter _ _ (h.regs x), fun x => ctrOk_filter _ _ (h.ctr x), fun _ => trivial,
    fun _ => by simp [dieReset]⟩

end Sys2Proof.Machine
end

