-- ==== Sys2Proof/Laws/OrderlyBase.lean ====
section
/-! SUPPORT. Orderly steps (Laws/Orderly.lean): registers, counters, the callboard, records, the start. One lemma for each operation. -/

namespace Sys2Proof.Machine

variable {w0 s : State}

/-! Machine/Ops.lean -/

@[simp] theorem wf_orderly (page : Nat) (f : Fld) (v : Nat) (hok : Orderly w0 s) : Orderly w0 (State.wf s page f v) := by
  unfold State.wf
  simp (maxDischargeDepth := 60) +contextual [hok]

@[simp] theorem wrote_orderly (n : Nat) (hok : Orderly w0 s) : Orderly w0 (wrote n s) := by
  unfold wrote
  simp (maxDischargeDepth := 60) +contextual [hok]

@[simp] theorem draw_orderly (hok : Orderly w0 s) : Orderly w0 (draw s).2 := by
  unfold draw
  simp (maxDischargeDepth := 60) +contextual [hok]

@[simp] theorem drawBelow_orderly (n : Nat) (hok : Orderly w0 s) : Orderly w0 (drawBelow n s).2 := by
  unfold drawBelow
  simp (maxDischargeDepth := 60) +contextual [hok]

@[simp] theorem drawBool_orderly (hok : Orderly w0 s) : Orderly w0 (drawBool s).2 := by
  unfold drawBool
  simp (maxDischargeDepth := 60) +contextual [hok]

@[simp] theorem sendOn_orderly (port prio : Nat) (m : Msg) (hok : Orderly w0 s) : Orderly w0 (sendOn port prio m s) := by
  unfold sendOn
  simp (maxDischargeDepth := 60) +contextual [hok]

/-! Machine/Flags.lean -/

@[simp] theorem alertUpdate_orderly (hok : Orderly w0 s) : Orderly w0 (alertUpdate s) := by
  unfold alertUpdate
  simp (maxDischargeDepth := 60) +contextual [hok]

@[simp] theorem record_orderly (page code : Nat) (hok : Orderly w0 s) : Orderly w0 (record page code s) := by
  unfold record
  simp (maxDischargeDepth := 60) +contextual [hok]

@[simp] theorem board_orderly (code inst handle seq d0 d1 : Nat) (hok : Orderly w0 s) : Orderly w0 (board code inst handle seq d0 d1 s) := by
  unfold board
  simp (maxDischargeDepth := 60) only [Orderly.ite, Orderly.mk_of, Orderly.foldl, le_refl, implies_true, bump_orderly, logPush_orderly, wf_orderly, alertUpdate_orderly, hok]

@[simp] theorem logGap_orderly (hok : Orderly w0 s) : Orderly w0 (logGap s) := by
  unfold logGap
  split
  · exact record_orderly _ _ (bump_orderly _ _ _ (logPush_orderly _ rfl (Orderly.mk_of hok (le_refl _))))
  · exact hok

@[simp] theorem postFull_orderly (page code handle seq d0 d1 : Nat) (hok : Orderly w0 s) : Orderly w0 (postFull page code handle seq d0 d1 s) := by
  unfold postFull
  simp (maxDischargeDepth := 60) +contextual [hok]

@[simp] theorem post_orderly (page code : Nat) (hok : Orderly w0 s) : Orderly w0 (post page code s) := by
  unfold post
  simp (maxDischargeDepth := 60) +contextual [hok]

@[simp] theorem holdRecord_orderly (page : Nat) (valid : Fld) (w : List (Fld × Nat)) (hok : Orderly w0 s) : Orderly w0 (holdRecord page valid w s) := by
  unfold holdRecord
  simp (maxDischargeDepth := 60) +contextual [hok]

@[simp] theorem setStat_orderly (page : Nat) (f : Fld) (v : Nat) (hok : Orderly w0 s) : Orderly w0 (setStat page f v s) := by
  unfold setStat
  simp (maxDischargeDepth := 60) +contextual [hok]

/-! Machine/Records.lean -/

@[simp] theorem probe_orderly (hok : Orderly w0 s) : Orderly w0 (probe s) := by
  unfold probe
  simp (maxDischargeDepth := 60) +contextual [hok]

@[simp] theorem setChan_orderly (i : Nat) (c : Chan) (hok : Orderly w0 s) : Orderly w0 (setChan i c s) := by
  unfold setChan
  simp (maxDischargeDepth := 60) +contextual [hok]

@[simp] theorem modChan_orderly (i : Nat) (f : Chan → Chan) (hok : Orderly w0 s) : Orderly w0 (modChan i f s) := by
  unfold modChan
  simp (maxDischargeDepth := 60) +contextual [hok]

@[simp] theorem pushDue_orderly (d : Due) (hok : Orderly w0 s) : Orderly w0 (pushDue d s) := by
  unfold pushDue
  simp (maxDischargeDepth := 60) +contextual [hok]

@[simp] theorem chanEvent_orderly (i seq code r0 r3 flags : Nat) (hok : Orderly w0 s) : Orderly w0 (chanEvent i seq code r0 r3 flags s) := by
  unfold chanEvent
  simp (maxDischargeDepth := 60) +contextual [hok]

@[simp] theorem deviceEvent_orderly (ring code r0 : Nat) (hok : Orderly w0 s) : Orderly w0 (deviceEvent ring code r0 s) := by
  unfold deviceEvent
  simp (maxDischargeDepth := 60) +contextual [hok]

@[simp] theorem nextDevSeq_orderly (hok : Orderly w0 s) : Orderly w0 (nextDevSeq s).2 := by
  unfold nextDevSeq
  simp (maxDischargeDepth := 60) +contextual [hok]

@[simp] theorem postCode_orderly (code handle seq d0 d1 : Nat) (hok : Orderly w0 s) : Orderly w0 (postCode code handle seq d0 d1 s) := by
  unfold postCode
  repeat' split
  all_goals simp (maxDischargeDepth := 60) +contextual [hok]

@[simp] theorem markPosted_orderly (d : Due) (hok : Orderly w0 s) : Orderly w0 (markPosted d s) := by
  unfold markPosted
  repeat' split
  all_goals simp (maxDischargeDepth := 60) +contextual [hok]

@[simp] theorem stopJob_orderly (id code : Nat) (hok : Orderly w0 s) : Orderly w0 (stopJob id code s) := by
  unfold stopJob
  repeat' split
  all_goals simp (maxDischargeDepth := 60) +contextual [hok]

/-! Machine/Counting.lean -/

@[simp] theorem postResized_orderly (e : Nat) (hok : Orderly w0 s) : Orderly w0 (postResized e s) := by
  unfold postResized
  simp (maxDischargeDepth := 60) +contextual [hok]

@[simp] theorem regrow_orderly (hok : Orderly w0 s) : Orderly w0 (regrow s) := by
  unfold regrow
  simp (maxDischargeDepth := 60) +contextual [hok]

@[simp] theorem resizing_orderly (f : State → State) (ok_f : ∀ u, Orderly w0 u → Orderly w0 (f u)) (hok : Orderly w0 s) : Orderly w0 (resizing f s) := by
  unfold resizing
  simp (maxDischargeDepth := 60) +contextual [hok, ok_f]

@[simp] theorem swapBank_orderly (page handle seq : Nat) (hok : Orderly w0 s) : Orderly w0 (swapBank page handle seq s) := by
  unfold swapBank
  simp (maxDischargeDepth := 60) +contextual [hok]

@[simp] theorem swapBanks_orderly (pages : List Nat) (handle seq : Nat) (hok : Orderly w0 s) : Orderly w0 (swapBanks pages handle seq s) := by
  unfold swapBanks
  simp (maxDischargeDepth := 60) +contextual [hok]

@[simp] theorem ctrGo_orderly (w : Word) (hok : Orderly w0 s) : Orderly w0 (ctrGo w s) := by
  unfold ctrGo
  simp (maxDischargeDepth := 60) +contextual [hok]

/-! Machine/Startup.lean -/

@[simp] theorem freshNonce_orderly (hok : Orderly w0 s) : Orderly w0 (freshNonce s) := by
  unfold freshNonce
  simp (maxDischargeDepth := 60) +contextual [hok]

@[simp] theorem hashed_orderly (hok : Orderly w0 s) : Orderly w0 (hashed s) := by
  unfold hashed
  simp (maxDischargeDepth := 60) +contextual [hok]

@[simp] theorem showKeys_orderly (hok : Orderly w0 s) : Orderly w0 (showKeys s) := by
  unfold showKeys
  simp (maxDischargeDepth := 60) +contextual [hok]

@[simp] theorem applyMap_orderly (m : RepairMap) (hok : Orderly w0 s) : Orderly w0 (applyMap m s) := by
  refine Orderly.foldl_fst _ _ (fun a x ha => ?_) hok
  dsimp only
  split <;> simp (maxDischargeDepth := 60) +contextual [*]

@[simp] theorem applyRepair_orderly (phys spare : Nat) (hok : Orderly w0 s) : Orderly w0 (applyRepair phys spare s) := by
  unfold applyRepair
  simp (maxDischargeDepth := 60) +contextual [hok]

@[simp] theorem applyPolicy_orderly (hok : Orderly w0 s) : Orderly w0 (applyPolicy s) := by
  unfold applyPolicy
  simp (maxDischargeDepth := 60) +contextual [hok]

@[simp] theorem boot_orderly (o : BootObs) (hok : Orderly w0 s) : Orderly w0 (boot o s) := by
  unfold boot
  simp (maxDischargeDepth := 60) +contextual [hok]

@[simp] theorem tryBoot_orderly (o : BootObs) (hok : Orderly w0 s) : Orderly w0 (tryBoot o s) := by
  unfold tryBoot
  simp (maxDischargeDepth := 60) +contextual [hok]

end Sys2Proof.Machine
end

