-- ==== Sys2Proof/Laws/OrderlyPorts.lean ====
section
/-! SUPPORT. Orderly steps (Laws/Orderly.lean): power, boot, Ethernet, RDMA, translation, memory lines, the pair link. One lemma for each operation. -/

namespace Sys2Proof.Machine

variable {w0 s : State}

/-! Machine/Power.lean -/

@[simp] theorem powerDown_orderly (cause : Nat) (hok : Orderly w0 s) : Orderly w0 (powerDown cause s) := by
  unfold powerDown
  simp (maxDischargeDepth := 60) +contextual [hok]

@[simp] theorem showVin_orderly (cv : Nat) (hok : Orderly w0 s) : Orderly w0 (showVin cv s) := by
  unfold showVin
  simp (maxDischargeDepth := 60) +contextual [hok]

@[simp] theorem gate_orderly (p10 p1 : Nat) (hok : Orderly w0 s) : Orderly w0 (gate p10 p1 s) := by
  unfold gate
  simp (maxDischargeDepth := 60) +contextual [hok]

@[simp] theorem linkDown_orderly (n : Nat) (hok : Orderly w0 s) : Orderly w0 (linkDown n s) := by
  unfold linkDown
  simp (maxDischargeDepth := 60) +contextual [hok]

/-! Machine/Boot.lean -/

@[simp] theorem reply_orderly (ip port type session mseq status : Nat) (payload : List Byte) (hok : Orderly w0 s) : Orderly w0 (reply ip port type session mseq status payload s) := by
  unfold reply
  simp (maxDischargeDepth := 60) +contextual [hok]

@[simp] theorem sendResult_orderly (ip port session mseq code : Nat) (digest : List Byte) (hok : Orderly w0 s) : Orderly w0 (sendResult ip port session mseq code digest s) := by
  unfold sendResult
  simp (maxDischargeDepth := 60) +contextual [hok]

@[simp] theorem sendAck_orderly (h : LoadHdr) (next status : Nat) (hok : Orderly w0 s) : Orderly w0 (sendAck h next status s) := by
  unfold sendAck
  simp (maxDischargeDepth := 60) +contextual [hok]

@[simp] theorem sendIdent_orderly (h : LoadHdr) (hok : Orderly w0 s) : Orderly w0 (sendIdent h s) := by
  unfold sendIdent
  simp (maxDischargeDepth := 60) +contextual [hok]

@[simp] theorem setSession_orderly (x : Option Session) (hok : Orderly w0 s) : Orderly w0 (setSession x s) := by
  unfold setSession
  simp (maxDischargeDepth := 60) +contextual [hok]

@[simp] theorem dropSession_orderly (hok : Orderly w0 s) : Orderly w0 (dropSession s) := by
  unfold dropSession
  simp (maxDischargeDepth := 60) +contextual [hok]

@[simp] theorem openSession_orderly (h : LoadHdr) (imageLen qp psn key : Nat) (hok : Orderly w0 s) : Orderly w0 (openSession h imageLen qp psn key s) := by
  unfold openSession
  simp (maxDischargeDepth := 60) +contextual [hok]

@[simp] theorem badMsg_orderly (hok : Orderly w0 s) : Orderly w0 (badMsg s) := by
  unfold badMsg
  simp (maxDischargeDepth := 60) +contextual [hok]

/-! Machine/Eth.lean -/

@[simp] theorem sendPause_orderly (n prio quanta : Nat) (hok : Orderly w0 s) : Orderly w0 (sendPause n prio quanta s) := by
  unfold sendPause
  simp (maxDischargeDepth := 60) +contextual [hok]

@[simp] theorem setBitOf_orderly (page : Nat) (f : Fld) (i : Nat) (b : Bool) (hok : Orderly w0 s) : Orderly w0 (setBitOf page f i b s) := by
  unfold setBitOf
  simp (maxDischargeDepth := 60) +contextual [hok]

@[simp] theorem drain_orderly (n prio bytes : Nat) (hok : Orderly w0 s) : Orderly w0 (drain n prio bytes s) := by
  unfold drain
  simp (maxDischargeDepth := 60) +contextual [hok]

@[simp] theorem releaseHeld_orderly (n prio : Nat) (hok : Orderly w0 s) : Orderly w0 (releaseHeld n prio s) := by
  unfold releaseHeld
  simp (maxDischargeDepth := 60) +contextual [hok]

@[simp] theorem ethCtrl_orderly (n : Nat) (w : Word) (hok : Orderly w0 s) : Orderly w0 (ethCtrl n w s) := by
  unfold ethCtrl
  simp (maxDischargeDepth := 60) +contextual [hok]

/-! Machine/Rdma.lean -/

@[simp] theorem setQp_orderly (q : Nat) (x : Qp) (hok : Orderly w0 s) : Orderly w0 (setQp q x s) := by
  unfold setQp
  simp (maxDischargeDepth := 60) +contextual [hok]

@[simp] theorem ownerFail_orderly (o : Owner) (code : Nat) (hok : Orderly w0 s) : Orderly w0 (ownerFail o code s) := by
  unfold ownerFail
  repeat' split
  all_goals simp (maxDischargeDepth := 60) +contextual [hok]

@[simp] theorem holdRdmErr_orderly (q kind : Nat) (hok : Orderly w0 s) : Orderly w0 (holdRdmErr q kind s) := by
  unfold holdRdmErr
  simp (maxDischargeDepth := 60) +contextual [hok]

@[simp] theorem issue_orderly (q : Nat) (m : Msg) (o : Owner) (hok : Orderly w0 s) : Orderly w0 (issue q m o s) := by
  unfold issue
  repeat' split
  all_goals simp (maxDischargeDepth := 60) +contextual [hok]

@[simp] theorem failAll_orderly (q code : Nat) (hok : Orderly w0 s) : Orderly w0 (failAll q code s) := by
  unfold failAll
  simp (maxDischargeDepth := 60) +contextual [hok]

@[simp] theorem ownerDone_orderly (o : Owner) (bytes : List Byte) (hok : Orderly w0 s) : Orderly w0 (ownerDone o bytes s) := by
  unfold ownerDone
  repeat' split
  all_goals simp (maxDischargeDepth := 60) +contextual [hok]

@[simp] theorem discardReply_orderly (o : Owner) (hok : Orderly w0 s) : Orderly w0 (discardReply o s) := by
  unfold discardReply
  repeat' split
  all_goals simp (maxDischargeDepth := 60) +contextual [hok]

@[simp] theorem requestReply_orderly (r : Req) (bytes : List Byte) (hok : Orderly w0 s) : Orderly w0 (requestReply r bytes s) := by
  unfold requestReply
  simp (maxDischargeDepth := 60) +contextual [hok]

@[simp] theorem cnpFor_orderly (q : Nat) (ce : Bool) (hok : Orderly w0 s) : Orderly w0 (cnpFor q ce s) := by
  unfold cnpFor
  dsimp only
  repeat' split
  all_goals simp (maxDischargeDepth := 60) +contextual [hok]

@[simp] theorem timeout_orderly (q : Nat) (hok : Orderly w0 s) : Orderly w0 (timeout q s) := by
  unfold timeout
  dsimp only
  repeat' split
  all_goals simp (maxDischargeDepth := 60) +contextual [hok]

@[simp] theorem qpReset_orderly (q : Nat) (w : Word) (hok : Orderly w0 s) : Orderly w0 (qpReset q w s) := by
  unfold qpReset
  simp (maxDischargeDepth := 60) +contextual [hok]

@[simp] theorem qpReady_orderly (q : Nat) (w : Word) (hok : Orderly w0 s) : Orderly w0 (qpReady q w s) := by
  unfold qpReady
  simp (maxDischargeDepth := 60) +contextual [hok]

@[simp] theorem qpTouch_orderly (q : Nat) (w : Word) (hok : Orderly w0 s) : Orderly w0 (qpTouch q w s) := by
  unfold qpTouch
  simp (maxDischargeDepth := 60) +contextual [hok]

@[simp] theorem qpCfg_orderly (q : Nat) (w : Word) (hok : Orderly w0 s) : Orderly w0 (qpCfg q w s) := by
  unfold qpCfg
  simp (maxDischargeDepth := 60) +contextual [hok]

/-! Machine/Xlt.lean -/

@[simp] theorem writeOut_orderly (a : Nat) (l : List Byte) (o : Owner) (hok : Orderly w0 s) : Orderly w0 (writeOut a l o s) := by
  unfold writeOut
  simp (maxDischargeDepth := 60) +contextual [hok]

@[simp] theorem cacheWalk_orderly (i va : Nat) (hok : Orderly w0 s) : Orderly w0 (cacheWalk i va s) := by
  unfold cacheWalk
  repeat' split
  all_goals simp (maxDischargeDepth := 60) +contextual [hok]

@[simp] theorem holdXlt_orderly (kind level : Nat) (write : Bool) (va handle : Nat) (hok : Orderly w0 s) : Orderly w0 (holdXlt kind level write va handle s) := by
  unfold holdXlt
  simp (maxDischargeDepth := 60) +contextual [hok]

@[simp] theorem placeFault_orderly (a : Nat) (write : Bool) (hok : Orderly w0 s) : Orderly w0 (placeFault a write s) := by
  unfold placeFault
  simp (maxDischargeDepth := 60) +contextual [hok]

@[simp] theorem walkFail_orderly (i va : Nat) (write : Bool) (w : Walk) (hok : Orderly w0 s) : Orderly w0 (walkFail i va write w s).2 := by
  unfold walkFail
  repeat' split
  all_goals simp (maxDischargeDepth := 60) +contextual [hok]

@[simp] theorem writeVa_orderly (i va : Nat) (l : List Byte) (o : Owner) (fuel : Nat) (hok : Orderly w0 s) : Orderly w0 (writeVa i va l o fuel s) := by
  induction fuel generalizing va l s with
  | zero => exact hok
  | succ n ih =>
    rw [writeVa]
    split
    · exact hok
    · refine ih _ _ ?_
      split
      · exact writeOut_orderly _ _ _ hok
      · exact hok

@[simp] theorem xltInval_orderly (w : Word) (hok : Orderly w0 s) : Orderly w0 (xltInval w s) := by
  unfold xltInval
  simp (maxDischargeDepth := 60) +contextual [hok]

@[simp] theorem dropTlb_orderly (scope va index gen : Nat) (hok : Orderly w0 s) : Orderly w0 (dropTlb scope va index gen s) := by
  unfold dropTlb
  simp (maxDischargeDepth := 60) +contextual [hok]

/-! Machine/Mem.lean -/

@[simp] theorem uncorrectable_orderly (a : Nat) (scrub : Bool) (hok : Orderly w0 s) : Orderly w0 (uncorrectable a scrub s) := by
  unfold uncorrectable
  simp (maxDischargeDepth := 60) +contextual [hok]

@[simp] theorem poisonLine_orderly (a : Nat) (hok : Orderly w0 s) : Orderly w0 (poisonLine a s) := by
  unfold poisonLine
  simp (maxDischargeDepth := 60) +contextual [hok]

@[simp] theorem stopOf_orderly (job : Option Nat) (code : Nat) (hok : Orderly w0 s) : Orderly w0 (stopOf job code s) := by
  unfold stopOf
  repeat' split
  all_goals simp (maxDischargeDepth := 60) +contextual [hok]

@[simp] theorem offLpddr_orderly (a : Nat) (write : Bool) (job : Option Nat) (hok : Orderly w0 s) : Orderly w0 (offLpddr a write job s) := by
  unfold offLpddr
  simp (maxDischargeDepth := 60) +contextual [hok]

/-! Machine/Link.lean -/

@[simp] theorem sendPair_orderly (type : Nat) (payload : List Byte) (hok : Orderly w0 s) : Orderly w0 (sendPair type payload s) := by
  unfold sendPair
  simp (maxDischargeDepth := 60) +contextual [hok]

@[simp] theorem mirrorWrite_orderly (a : Nat) (l : List Byte) (hok : Orderly w0 s) : Orderly w0 (mirrorWrite a l s) := by
  unfold mirrorWrite
  simp (maxDischargeDepth := 60) +contextual [hok]

@[simp] theorem mirrorVa_orderly (i va len fuel : Nat) (hok : Orderly w0 s) : Orderly w0 (mirrorVa i va len fuel s) := by
  induction fuel generalizing va len s with
  | zero => exact hok
  | succ n ih =>
    rw [mirrorVa]
    split
    · exact hok
    · refine ih _ _ ?_
      split
      · split
        · exact hok
        · exact mirrorWrite_orderly _ _ hok
      · exact hok

@[simp] theorem sendEntry_orderly (e : Entry) (hok : Orderly w0 s) : Orderly w0 (sendEntry e s) := by
  unfold sendEntry
  simp (maxDischargeDepth := 60) +contextual [hok]

@[simp] theorem forwardEntry_orderly (sp : CmdSpec) (e : Entry) (hok : Orderly w0 s) : Orderly w0 (forwardEntry sp e s) := by
  unfold forwardEntry
  repeat' split
  all_goals simp (maxDischargeDepth := 60) +contextual [hok]

@[simp] theorem exclude_orderly (handle : Nat) (hok : Orderly w0 s) : Orderly w0 (exclude handle s) := by
  unfold exclude
  repeat' split
  all_goals simp (maxDischargeDepth := 60) +contextual [hok]

@[simp] theorem diverge_orderly (handle seq : Nat) (hok : Orderly w0 s) : Orderly w0 (diverge handle seq s) := by
  unfold diverge
  simp (maxDischargeDepth := 60) +contextual [hok]

@[simp] theorem finishFwd_orderly (ok : Bool) (c : Ctx) (code : Nat) (hok : Orderly w0 s) : Orderly w0 (finishFwd ok c code s) := by
  unfold finishFwd
  repeat' split
  all_goals simp (maxDischargeDepth := 60) +contextual [hok]

end Sys2Proof.Machine
end

