-- ==== Sys2Proof/Laws/OrderlyHost.lean ====
section
/-! SUPPORT. Orderly steps (Laws/Orderly.lean): queues, admission, ensembles, channels. One lemma for each operation. -/

namespace Sys2Proof.Machine

variable {w0 s : State}

/-! Machine/Admit.lean -/

@[simp] theorem passQuiet_orderly (q : Nat) (hok : Orderly w0 s) : Orderly w0 (passQuiet q s) := by
  unfold passQuiet
  repeat' split
  all_goals simp (maxDischargeDepth := 60) +contextual [hok]

@[simp] theorem finish_orderly (c : Ctx) (code r0 r1 : Nat) (hok : Orderly w0 s) : Orderly w0 (finish c code r0 r1 s) := by
  unfold finish
  repeat' split
  all_goals simp (maxDischargeDepth := 60) +contextual [hok]

@[simp] theorem fail_orderly (c : Ctx) (code : Nat) (hok : Orderly w0 s) : Orderly w0 (fail c code s) := by
  unfold fail
  simp (maxDischargeDepth := 60) +contextual [hok]

@[simp] theorem done_orderly (c : Ctx) (hok : Orderly w0 s) : Orderly w0 (done c s) := by
  unfold done
  simp (maxDischargeDepth := 60) +contextual [hok]

@[simp] theorem deviceCtx_orderly (q : Source) (e : Entry) (handle : Nat) (hok : Orderly w0 s) : Orderly w0 (deviceCtx q e handle s).2 := by
  unfold deviceCtx
  repeat' split
  all_goals simp (maxDischargeDepth := 60) +contextual [hok]

@[simp] theorem channelCtx_orderly (q : Source) (i : Nat) (e : Entry) (hok : Orderly w0 s) : Orderly w0 (channelCtx q i e s).2 := by
  unfold channelCtx
  simp (maxDischargeDepth := 60) +contextual [hok]

@[simp] theorem admitFrom_orderly (sp : CmdSpec) (q : Source) (e : Entry) (body : Ctx → Nat → Entry → State → State) (ok_body : ∀ x0 x1 x2 u, Orderly w0 u → Orderly w0 (body x0 x1 x2 u)) (hok : Orderly w0 s) : Orderly w0 (admitFrom sp q e body s) := by
  unfold admitFrom
  repeat' split
  all_goals simp (maxDischargeDepth := 60) +contextual [hok, ok_body]

@[simp] theorem admitCmd_orderly (sp : CmdSpec) (q : Nat) (e : Entry) (body : Ctx → Nat → Entry → State → State) (ok_body : ∀ x0 x1 x2 u, Orderly w0 u → Orderly w0 (body x0 x1 x2 u)) (hok : Orderly w0 s) : Orderly w0 (admitCmd sp q e body s) := by
  unfold admitCmd
  repeat' split
  all_goals simp (maxDischargeDepth := 60) +contextual [hok, ok_body]

@[simp] theorem noteDevSeq_orderly (d : Due) (hok : Orderly w0 s) : Orderly w0 (noteDevSeq d s) := by
  unfold noteDevSeq
  simp (maxDischargeDepth := 60) +contextual [hok]

/-! Machine/Queues.lean -/

@[simp] theorem holdQerr_orderly (number : Nat) (ring : Bool) (kind : Nat) (hok : Orderly w0 s) : Orderly w0 (holdQerr number ring kind s) := by
  unfold holdQerr
  simp (maxDischargeDepth := 60) +contextual [hok]

@[simp] theorem startQueue_orderly (q : Nat) (k : Queue) (hok : Orderly w0 s) : Orderly w0 (startQueue q k s) := by
  unfold startQueue
  simp (maxDischargeDepth := 60) +contextual [hok]

@[simp] theorem startRing_orderly (r : Nat) (k : Ring) (hok : Orderly w0 s) : Orderly w0 (startRing r k s) := by
  unfold startRing
  simp (maxDischargeDepth := 60) +contextual [hok]

@[simp] theorem sqCreate_orderly (c : Ctx) (x1 : Nat) (e : Entry) (hok : Orderly w0 s) : Orderly w0 (sqCreate c x1 e s) := by
  unfold sqCreate
  simp (maxDischargeDepth := 60) +contextual [hok]

@[simp] theorem nop_orderly (c : Ctx) (x1 : Nat) (x2 : Entry) (hok : Orderly w0 s) : Orderly w0 (nop c x1 x2 s) := by
  unfold nop
  simp (maxDischargeDepth := 60) +contextual [hok]

@[simp] theorem trySqDelete_orderly (q : Nat) (hok : Orderly w0 s) : Orderly w0 (trySqDelete q s) := by
  unfold trySqDelete
  repeat' split
  all_goals simp (maxDischargeDepth := 60) +contextual [hok]

@[simp] theorem sqDelete_orderly (c : Ctx) (x1 : Nat) (e : Entry) (hok : Orderly w0 s) : Orderly w0 (sqDelete c x1 e s) := by
  unfold sqDelete
  dsimp only
  repeat' split
  all_goals simp (maxDischargeDepth := 60) +contextual [hok]

@[simp] theorem cqCreate_orderly (c : Ctx) (x1 : Nat) (e : Entry) (hok : Orderly w0 s) : Orderly w0 (cqCreate c x1 e s) := by
  unfold cqCreate
  simp (maxDischargeDepth := 60) +contextual [hok]

@[simp] theorem discardRing_orderly (r : Nat) (hok : Orderly w0 s) : Orderly w0 (discardRing r s) := by
  unfold discardRing
  simp (maxDischargeDepth := 60) +contextual [hok]

@[simp] theorem cqDelete_orderly (c : Ctx) (x1 : Nat) (e : Entry) (hok : Orderly w0 s) : Orderly w0 (cqDelete c x1 e s) := by
  unfold cqDelete
  dsimp only
  repeat' split
  all_goals simp (maxDischargeDepth := 60) +contextual [hok]

@[simp] theorem doorbellOn_orderly (q : Nat) (d : Dword) (hok : Orderly w0 s) : Orderly w0 (doorbellOn q d s) := by
  unfold doorbellOn
  repeat' split
  all_goals simp (maxDischargeDepth := 60) +contextual [hok]

@[simp] theorem doorbell_orderly (q : Nat) (d : Dword) (hok : Orderly w0 s) : Orderly w0 (doorbell q d s) := by
  unfold doorbell
  simp (maxDischargeDepth := 60) +contextual [hok]

@[simp] theorem cqHead_orderly (r : Nat) (w : Word) (hok : Orderly w0 s) : Orderly w0 (cqHead r w s) := by
  unfold cqHead
  repeat' split
  all_goals simp (maxDischargeDepth := 60) +contextual [hok]

@[simp] theorem q0Set_orderly (hok : Orderly w0 s) : Orderly w0 (q0Set s) := by
  unfold q0Set
  simp (maxDischargeDepth := 60) +contextual [hok]

@[simp] theorem stopQueue0_orderly (hok : Orderly w0 s) : Orderly w0 (stopQueue0 s) := by
  unfold stopQueue0
  repeat' split
  all_goals simp (maxDischargeDepth := 60) +contextual [hok]

@[simp] theorem dropFailed0_orderly (hok : Orderly w0 s) : Orderly w0 (dropFailed0 s) := by
  unfold dropFailed0
  repeat' split
  all_goals simp (maxDischargeDepth := 60) +contextual [hok]

@[simp] theorem q0Clear_orderly (hok : Orderly w0 s) : Orderly w0 (q0Clear s) := by
  unfold q0Clear
  simp (maxDischargeDepth := 60) +contextual [hok]

@[simp] theorem ringWrite_orderly (r a : Nat) (l : List Byte) (body : Bool) (hok : Orderly w0 s) : Orderly w0 (ringWrite r a l body s) := by
  unfold ringWrite
  simp (maxDischargeDepth := 60) +contextual [hok]

@[simp] theorem chProbe_orderly (w : Word) (hok : Orderly w0 s) : Orderly w0 (chProbe w s) := by
  unfold chProbe
  simp (maxDischargeDepth := 60) +contextual [hok]

/-! Machine/Ensembles.lean -/

@[simp] theorem ensForm_orderly (c : Ctx) (x1 : Nat) (e : Entry) (hok : Orderly w0 s) : Orderly w0 (ensForm c x1 e s) := by
  unfold ensForm
  simp (maxDischargeDepth := 60) +contextual [hok]

@[simp] theorem ensDissolve_orderly (c : Ctx) (x1 : Nat) (e : Entry) (hok : Orderly w0 s) : Orderly w0 (ensDissolve c x1 e s) := by
  unfold ensDissolve
  simp (maxDischargeDepth := 60) +contextual [hok]

@[simp] theorem contextObject_orderly (hok : Orderly w0 s) : Orderly w0 (contextObject s).2 := by
  simp (maxDischargeDepth := 60) +contextual [contextObject, hok]

@[simp] theorem swapOut_orderly (i : Nat) (hok : Orderly w0 s) : Orderly w0 (swapOut i s) := by
  unfold swapOut
  dsimp only
  repeat' split
  all_goals simp (maxDischargeDepth := 60) +contextual [hok]

@[simp] theorem swapIn_orderly (i n : Nat) (hok : Orderly w0 s) : Orderly w0 (swapIn i n s) := by
  unfold swapIn
  simp (maxDischargeDepth := 60) +contextual [hok]

theorem takeSlot_orderly {i e : Nat} {t : State} (h : takeSlot i e s = some t) (hok : Orderly w0 s) : Orderly w0 t := by
  unfold takeSlot at h
  dsimp only at h
  repeat' split at h
  all_goals try cases h
  all_goals repeat' first
    | with_reducible assumption | with_reducible apply swapIn_orderly | with_reducible apply swapOut_orderly | with_reducible apply drawBelow_orderly

@[simp] theorem evict_orderly (n : Nat) (hok : Orderly w0 s) : Orderly w0 (evict n s) := by
  unfold evict
  repeat' split
  all_goals simp (maxDischargeDepth := 60) +contextual [hok]

@[simp] theorem makeSuspect_orderly (p handle seq : Nat) (hok : Orderly w0 s) : Orderly w0 (makeSuspect p handle seq s) := by
  unfold makeSuspect
  simp (maxDischargeDepth := 60) +contextual [hok]

@[simp] theorem retire_orderly (c : Ctx) (x1 : Nat) (e : Entry) (hok : Orderly w0 s) : Orderly w0 (retire c x1 e s) := by
  unfold retire
  simp (maxDischargeDepth := 60) +contextual [hok]

@[simp] theorem forget_orderly (p : Nat) (hok : Orderly w0 s) : Orderly w0 (forget p s) := by
  unfold forget
  simp (maxDischargeDepth := 60) +contextual [hok]

@[simp] theorem readmit_orderly (c : Ctx) (x1 : Nat) (e : Entry) (hok : Orderly w0 s) : Orderly w0 (readmit c x1 e s) := by
  unfold readmit
  simp (maxDischargeDepth := 60) +contextual [hok]

/-! Machine/ChanCmds.lean -/

@[simp] theorem takeIndex_orderly (hok : Orderly w0 s) : Orderly w0 (takeIndex s) := by
  unfold takeIndex
  exact Orderly.mk_of hok (le_refl _)

@[simp] theorem notePlace_orderly (code a : Nat) (hok : Orderly w0 s) : Orderly w0 (notePlace code a s) := by
  unfold notePlace
  simp (maxDischargeDepth := 60) +contextual [hok]

@[simp] theorem chCreate_orderly (c : Ctx) (x1 : Nat) (e : Entry) (hok : Orderly w0 s) : Orderly w0 (chCreate c x1 e s) := by
  unfold chCreate
  dsimp only
  split
  · simp (maxDischargeDepth := 60) [hok]
  · exact finish_orderly _ _ _ _ (bump_orderly _ _ _ (setChan_orderly _ _ (takeIndex_orderly hok)))

@[simp] theorem settleSettings_orderly (i : Nat) (hok : Orderly w0 s) : Orderly w0 (settleSettings i s) := by
  unfold settleSettings
  split
  · exact hok
  · refine Orderly.foldl _ (fun a x ha => ?_) (Orderly.mk_of hok (le_refl _))
    split <;> simp (maxDischargeDepth := 60) +contextual [*]

@[simp] theorem chSet_orderly (c : Ctx) (i : Nat) (e : Entry) (hok : Orderly w0 s) : Orderly w0 (chSet c i e s) := by
  unfold chSet
  simp (maxDischargeDepth := 60) +contextual [hok]

@[simp] theorem statsSet_orderly (c : Ctx) (i : Nat) (e : Entry) (hok : Orderly w0 s) : Orderly w0 (statsSet c i e s) := by
  unfold statsSet
  dsimp only
  repeat' split
  all_goals simp (maxDischargeDepth := 60) +contextual [hok]

@[simp] theorem restartHeld_orderly (i : Nat) (hok : Orderly w0 s) : Orderly w0 (restartHeld i s) := by
  unfold restartHeld
  simp (maxDischargeDepth := 60) +contextual [hok]

@[simp] theorem chContinue_orderly (c : Ctx) (i : Nat) (x2 : Entry) (hok : Orderly w0 s) : Orderly w0 (chContinue c i x2 s) := by
  unfold chContinue
  simp (maxDischargeDepth := 60) +contextual [hok]

@[simp] theorem chEnsemble_orderly (c : Ctx) (i : Nat) (e : Entry) (hok : Orderly w0 s) : Orderly w0 (chEnsemble c i e s) := by
  unfold chEnsemble
  dsimp only
  repeat' split
  any_goals simp (maxDischargeDepth := 60) +contextual [*]
  exact done_orderly _ (modChan_orderly _ _ (takeSlot_orderly ‹_› (setChan_orderly _ _ hok)))

@[simp] theorem cancel_orderly (c : Ctx) (i : Nat) (e : Entry) (hok : Orderly w0 s) : Orderly w0 (cancel c i e s) := by
  unfold cancel
  simp (maxDischargeDepth := 60) +contextual [hok]

end Sys2Proof.Machine
end

