-- ==== Sys2Proof/Laws/OrderlyCore.lean ====
section
/-! SUPPORT. Orderly steps (Laws/Orderly.lean): players, trace, the control core, cues and their engines. One lemma for each operation. -/

namespace Sys2Proof.Machine

variable {w0 s : State}

/-! Machine/Players.lean -/

@[simp] theorem setPly_orderly (p : Nat) (x : Player) (hok : Orderly w0 s) : Orderly w0 (setPly p x s) := by
  unfold setPly
  simp (maxDischargeDepth := 60) +contextual [hok]

@[simp] theorem setThread_orderly (p t : Nat) (x : Thread) (hok : Orderly w0 s) : Orderly w0 (setThread p t x s) := by
  unfold setThread
  simp (maxDischargeDepth := 60) +contextual [hok]

@[simp] theorem repause_orderly (p : Nat) (hok : Orderly w0 s) : Orderly w0 (repause p s) := by
  unfold repause
  dsimp only
  repeat' split
  all_goals simp (maxDischargeDepth := 60) +contextual [hok]

@[simp] theorem repauseAll_orderly (hok : Orderly w0 s) : Orderly w0 (repauseAll s) := by
  unfold repauseAll
  simp (maxDischargeDepth := 60) +contextual [hok]

@[simp] theorem restall_orderly (id : Nat) (hok : Orderly w0 s) : Orderly w0 (restall id s) := by
  unfold restall
  repeat' split
  all_goals simp (maxDischargeDepth := 60) +contextual [hok]

@[simp] theorem repauseJob_orderly (job : Option Nat) (hok : Orderly w0 s) : Orderly w0 (repauseJob job s) := by
  unfold repauseJob
  repeat' split
  all_goals simp (maxDischargeDepth := 60) +contextual [hok]

@[simp] theorem touch_orderly (p : Nat) (hok : Orderly w0 s) : Orderly w0 (touch p s) := by
  unfold touch
  simp (maxDischargeDepth := 60) +contextual [hok]

@[simp] theorem moved_orderly (job : Option Nat) (hok : Orderly w0 s) : Orderly w0 (moved job s) := by
  unfold moved
  repeat' split
  all_goals simp (maxDischargeDepth := 60) +contextual [hok]

@[simp] theorem closeIdle_orderly (p : Nat) (hok : Orderly w0 s) : Orderly w0 (closeIdle p s) := by
  unfold closeIdle
  simp (maxDischargeDepth := 60) +contextual [hok]

/-! Machine/Trace.lean -/

@[simp] theorem setTrc_orderly (p : Nat) (x : Trace) (hok : Orderly w0 s) : Orderly w0 (setTrc p x s) := by
  unfold setTrc
  simp (maxDischargeDepth := 60) +contextual [hok]

@[simp] theorem freeze_orderly (p : Nat) (hok : Orderly w0 s) : Orderly w0 (freeze p s) := by
  unfold freeze
  simp (maxDischargeDepth := 60) +contextual [hok]

@[simp] theorem enterPacket_orderly (p : Nat) (k : Packet) (hok : Orderly w0 s) : Orderly w0 (enterPacket p k s) := by
  unfold enterPacket
  simp (maxDischargeDepth := 60) +contextual [hok]

@[simp] theorem packet_orderly (p : Nat) (k : Packet) (hok : Orderly w0 s) : Orderly w0 (packet p k s) := by
  unfold packet
  simp (maxDischargeDepth := 60) only [Orderly.ite, Orderly.mk_of, Orderly.foldl, le_refl, implies_true, bump_orderly, wf_orderly, setTrc_orderly, enterPacket_orderly, hok]

@[simp] theorem flushBits_orderly (p t : Nat) (hok : Orderly w0 s) : Orderly w0 (flushBits p t s) := by
  unfold flushBits
  simp (maxDischargeDepth := 60) +contextual [hok]

@[simp] theorem traceSync_orderly (p t : Nat) (hok : Orderly w0 s) : Orderly w0 (traceSync p t s) := by
  unfold traceSync
  simp (maxDischargeDepth := 60) +contextual [hok]

@[simp] theorem traceEvent_orderly (p t kind value : Nat) (hok : Orderly w0 s) : Orderly w0 (traceEvent p t kind value s) := by
  unfold traceEvent
  simp (maxDischargeDepth := 60) +contextual [hok]

@[simp] theorem traceIndirect_orderly (p t target : Nat) (hok : Orderly w0 s) : Orderly w0 (traceIndirect p t target s) := by
  unfold traceIndirect
  simp (maxDischargeDepth := 60) +contextual [hok]

@[simp] theorem traceBranch_orderly (p t : Nat) (taken : Bool) (hok : Orderly w0 s) : Orderly w0 (traceBranch p t taken s) := by
  unfold traceBranch
  simp (maxDischargeDepth := 60) +contextual [hok]

@[simp] theorem fireOne_orderly (p t src : Nat) (hok : Orderly w0 s) : Orderly w0 (fireOne p t src s) := by
  unfold fireOne
  simp (maxDischargeDepth := 60) +contextual [hok]

@[simp] theorem fire_orderly (p t src : Nat) (hok : Orderly w0 s) : Orderly w0 (fire p t src s) := by
  unfold fire
  simp (maxDischargeDepth := 60) +contextual [hok]

@[simp] theorem fireTrap_orderly (p t : Nat) (hok : Orderly w0 s) : Orderly w0 (fireTrap p t s) := by
  unfold fireTrap
  simp (maxDischargeDepth := 60) +contextual [hok]

@[simp] theorem freezeAtEnd_orderly (p : Nat) (hok : Orderly w0 s) : Orderly w0 (freezeAtEnd p s) := by
  unfold freezeAtEnd
  simp (maxDischargeDepth := 60) +contextual [hok]

@[simp] theorem emptyTrace_orderly (p : Nat) (hok : Orderly w0 s) : Orderly w0 (emptyTrace p s) := by
  unfold emptyTrace
  simp (maxDischargeDepth := 60) +contextual [hok]

@[simp] theorem trcEnable_orderly (p : Nat) (w : Word) (hok : Orderly w0 s) : Orderly w0 (trcEnable p w s) := by
  unfold trcEnable
  simp (maxDischargeDepth := 60) +contextual [hok]

@[simp] theorem trcTrig_orderly (p : Nat) (w : Word) (hok : Orderly w0 s) : Orderly w0 (trcTrig p w s) := by
  unfold trcTrig
  simp (maxDischargeDepth := 60) +contextual [hok]

@[simp] theorem traceGap_orderly (p : Nat) (hok : Orderly w0 s) : Orderly w0 (traceGap p s) := by
  unfold traceGap
  simp (maxDischargeDepth := 60) +contextual [hok]

@[simp] theorem dbgStop_orderly (p t value : Nat) (hok : Orderly w0 s) : Orderly w0 (dbgStop p t value s) := by
  unfold dbgStop
  simp (maxDischargeDepth := 60) +contextual [hok]

@[simp] theorem dbgHalt_orderly (p t : Nat) (hok : Orderly w0 s) : Orderly w0 (dbgHalt p t s) := by
  unfold dbgHalt
  simp (maxDischargeDepth := 60) +contextual [hok]

@[simp] theorem dbgContinue_orderly (p t : Nat) (hok : Orderly w0 s) : Orderly w0 (dbgContinue p t s) := by
  unfold dbgContinue
  simp (maxDischargeDepth := 60) +contextual [hok]

@[simp] theorem dbgResume_orderly (p t : Nat) (hok : Orderly w0 s) : Orderly w0 (dbgResume p t s) := by
  unfold dbgResume
  simp (maxDischargeDepth := 60) +contextual [hok]

@[simp] theorem dbgStep_orderly (p t : Nat) (hok : Orderly w0 s) : Orderly w0 (dbgStep p t s) := by
  unfold dbgStep
  simp (maxDischargeDepth := 60) +contextual [hok]

@[simp] theorem dbgData_orderly (hi : Bool) (w : Word) (hok : Orderly w0 s) : Orderly w0 (dbgData hi w s) := by
  unfold dbgData
  simp (maxDischargeDepth := 60) only [Orderly.ite, Orderly.mk_of, Orderly.foldl, le_refl, implies_true, record_orderly, setThread_orderly, hok]

/-! Machine/RiscV.lean -/

@[simp] theorem coreStore_orderly (p a n v : Nat) (hok : Orderly w0 s) : Orderly w0 (coreStore s p a n v).2 := by
  unfold coreStore
  repeat' split
  all_goals simp (maxDischargeDepth := 60) +contextual [hok]

@[simp] theorem stopPlayerJob_orderly (p code : Nat) (hok : Orderly w0 s) : Orderly w0 (stopPlayerJob p code s) := by
  unfold stopPlayerJob
  repeat' split
  all_goals simp (maxDischargeDepth := 60) +contextual [hok]

@[simp] theorem plyFault_orderly (p kind thread engine repeat_ cause detail addr value code : Nat) (hok : Orderly w0 s) : Orderly w0 (plyFault p kind thread engine repeat_ cause detail addr value code s) := by
  unfold plyFault
  simp (maxDischargeDepth := 60) +contextual [hok]

@[simp] theorem coreTrap_orderly (p t cause tval : Nat) (hok : Orderly w0 s) : Orderly w0 (coreTrap p t cause tval s) := by
  unfold coreTrap
  simp (maxDischargeDepth := 60) +contextual [hok]

@[simp] theorem retireAt_orderly (p t : Nat) (x : Thread) (npc : Nat) (hok : Orderly w0 s) : Orderly w0 (retireAt p t x npc s) := by
  unfold retireAt
  simp (maxDischargeDepth := 60) +contextual [hok]

@[simp] theorem pcTrigger_orderly (p t : Nat) (hok : Orderly w0 s) : Orderly w0 (pcTrigger p t s) := by
  unfold pcTrigger
  simp (maxDischargeDepth := 60) +contextual [hok]

@[simp] theorem rvExec_orderly (p t w len : Nat) (hok : Orderly w0 s) : Orderly w0 (rvExec p t w len s) := by
  unfold rvExec
  dsimp only
  repeat' first
    | with_reducible assumption | with_reducible apply traceIndirect_orderly | with_reducible apply traceBranch_orderly | with_reducible apply dbgStop_orderly | with_reducible apply coreStore_orderly | with_reducible apply coreTrap_orderly | with_reducible apply retireAt_orderly | with_reducible apply bump_orderly | split

@[simp] theorem fetchMiss_orderly (p : Nat) (hok : Orderly w0 s) : Orderly w0 (fetchMiss p s) := by
  unfold fetchMiss
  simp (maxDischargeDepth := 60) +contextual [hok]

/-! Machine/Scaling.lean -/

@[simp] theorem countJob_orderly (id tid : Nat) (count : Bool) (l : List (Fp × Cstat)) (hok : Orderly w0 s) : Orderly w0 (countJob id tid count l s) := by
  unfold countJob
  repeat' split
  all_goals simp (maxDischargeDepth := 60) +contextual [hok]

@[simp] theorem countStats_orderly (p tid : Nat) (count : Bool) (l : List (Fp × Cstat)) (hok : Orderly w0 s) : Orderly w0 (countStats p tid count l s) := by
  unfold countStats
  repeat' split
  all_goals simp (maxDischargeDepth := 60) +contextual [hok]

@[simp] theorem countOnly_orderly (p tid : Nat) (l : List (Fp × Cstat)) (hok : Orderly w0 s) : Orderly w0 (countOnly p tid l s) := by
  unfold countOnly
  repeat' split
  all_goals simp (maxDischargeDepth := 60) +contextual [hok]

@[simp] theorem clearValid_orderly (i bank : Nat) (hok : Orderly w0 s) : Orderly w0 (clearValid i bank s) := by
  unfold clearValid
  simp (maxDischargeDepth := 60) +contextual [hok]

@[simp] theorem writeStats_orderly (i seq : Nat) (hok : Orderly w0 s) : Orderly w0 (writeStats i seq s) := by
  unfold writeStats
  dsimp only
  repeat' split
  all_goals simp (maxDischargeDepth := 60) +contextual [hok]

@[simp] theorem closeInterval_orderly (i : Nat) (hok : Orderly w0 s) : Orderly w0 (closeInterval i s) := by
  unfold closeInterval
  simp (maxDischargeDepth := 60) +contextual [hok]

/-! Machine/Fsc.lean -/

@[simp] theorem fscFail_orderly (code pos handle : Nat) (host : Bool) (hok : Orderly w0 s) : Orderly w0 (fscFail code pos handle host s) := by
  unfold fscFail
  repeat' split
  all_goals simp (maxDischargeDepth := 60) +contextual [hok]

@[simp] theorem countComp_orderly (orig body : List Byte) (mode : Nat) (hok : Orderly w0 s) : Orderly w0 (countComp orig body mode s) := by
  unfold countComp
  simp (maxDischargeDepth := 60) +contextual [hok]

@[simp] theorem countDecomp_orderly (orig body : Nat) (hok : Orderly w0 s) : Orderly w0 (countDecomp orig body s) := by
  unfold countDecomp
  simp (maxDischargeDepth := 60) +contextual [hok]

@[simp] theorem countRefs_orderly (top : Nat) (hok : Orderly w0 s) : Orderly w0 (countRefs top s) := by
  unfold countRefs
  simp (maxDischargeDepth := 60) +contextual [hok]

/-! Machine/Cues.lean -/

@[simp] theorem cueIllegal_orderly (p t cls pos : Nat) (hok : Orderly w0 s) : Orderly w0 (cueIllegal p t cls pos s) := by
  unfold cueIllegal
  simp (maxDischargeDepth := 60) +contextual [hok]

@[simp] theorem enqueue_orderly (p t cue : Nat) (hok : Orderly w0 s) : Orderly w0 (enqueue p t cue s) := by
  unfold enqueue
  simp (maxDischargeDepth := 60) +contextual [hok]

@[simp] theorem cueIssueOf_orderly (bad : Option Nat) (p t w : Nat) (x : Thread) (cue : Nat) (hok : Orderly w0 s) : Orderly w0 (cueIssueOf bad p t w x cue s) := by
  unfold cueIssueOf
  repeat' split
  all_goals simp (maxDischargeDepth := 60) +contextual [hok]

@[simp] theorem cueIssueAt_orderly (p t w : Nat) (hok : Orderly w0 s) : Orderly w0 (cueIssueAt p t w s) := by
  unfold cueIssueAt
  simp (maxDischargeDepth := 60) +contextual [hok]

@[simp] theorem cueIssue_orderly (p t w : Nat) (hok : Orderly w0 s) : Orderly w0 (cueIssue p t w s) := by
  unfold cueIssue
  simp (maxDischargeDepth := 60) +contextual [hok]

@[simp] theorem cueTryOf_orderly (bad : Option Nat) (p t w : Nat) (x : Thread) (cue : Nat) (hok : Orderly w0 s) : Orderly w0 (cueTryOf bad p t w x cue s) := by
  unfold cueTryOf
  repeat' split
  all_goals simp (maxDischargeDepth := 60) +contextual [hok]

@[simp] theorem cueTryAt_orderly (p t w : Nat) (hok : Orderly w0 s) : Orderly w0 (cueTryAt p t w s) := by
  unfold cueTryAt
  simp (maxDischargeDepth := 60) +contextual [hok]

@[simp] theorem cueTry_orderly (p t w : Nat) (hok : Orderly w0 s) : Orderly w0 (cueTry p t w s) := by
  unfold cueTry
  simp (maxDischargeDepth := 60) +contextual [hok]

@[simp] theorem setSem_orderly (p i n : Nat) (hok : Orderly w0 s) : Orderly w0 (setSem p i n s) := by
  unfold setSem
  simp (maxDischargeDepth := 60) +contextual [hok]

@[simp] theorem semAdd_orderly (p i n thread : Nat) (hok : Orderly w0 s) : Orderly w0 (semAdd p i n thread s) := by
  unfold semAdd
  simp (maxDischargeDepth := 60) +contextual [hok]

@[simp] theorem semWait_orderly (p t w : Nat) (hok : Orderly w0 s) : Orderly w0 (semWait p t w s) := by
  unfold semWait
  simp (maxDischargeDepth := 60) +contextual [hok]

@[simp] theorem semTry_orderly (p t w : Nat) (hok : Orderly w0 s) : Orderly w0 (semTry p t w s) := by
  unfold semTry
  simp (maxDischargeDepth := 60) +contextual [hok]

@[simp] theorem semRead_orderly (p t w : Nat) (hok : Orderly w0 s) : Orderly w0 (semRead p t w s) := by
  unfold semRead
  simp (maxDischargeDepth := 60) +contextual [hok]

@[simp] theorem semPost_orderly (p t w : Nat) (hok : Orderly w0 s) : Orderly w0 (semPost p t w s) := by
  unfold semPost
  dsimp only
  repeat' split
  all_goals simp (maxDischargeDepth := 60) +contextual [hok]

@[simp] theorem fenceCue_orderly (p t w : Nat) (hok : Orderly w0 s) : Orderly w0 (fenceCue p t w s) := by
  unfold fenceCue
  simp (maxDischargeDepth := 60) +contextual [hok]

@[simp] theorem releaseBarrier_orderly (id : Nat) (j : Job) (hok : Orderly w0 s) : Orderly w0 (releaseBarrier id j s) := by
  unfold releaseBarrier
  simp (maxDischargeDepth := 60) +contextual [hok]

@[simp] theorem bar_orderly (p t w : Nat) (hok : Orderly w0 s) : Orderly w0 (bar p t w s) := by
  unfold bar
  dsimp only
  repeat' split
  all_goals simp (maxDischargeDepth := 60) +contextual [hok]

@[simp] theorem yieldCue_orderly (p t w : Nat) (hok : Orderly w0 s) : Orderly w0 (yieldCue p t w s) := by
  unfold yieldCue
  repeat' split
  all_goals simp (maxDischargeDepth := 60) +contextual [hok]

@[simp] theorem yieldAt_orderly (p t w : Nat) (hok : Orderly w0 s) : Orderly w0 (yieldAt p t w s) := by
  unfold yieldAt
  simp (maxDischargeDepth := 60) +contextual [hok]

@[simp] theorem jobEnd_orderly (p t w : Nat) (hok : Orderly w0 s) : Orderly w0 (jobEnd p t w s) := by
  unfold jobEnd
  simp (maxDischargeDepth := 60) +contextual [hok]

@[simp] theorem setHead_orderly (p cls : Nat) (c : QCue) (hok : Orderly w0 s) : Orderly w0 (setHead p cls c s) := by
  unfold setHead
  simp (maxDischargeDepth := 60) +contextual [hok]

@[simp] theorem startCue_orderly (p cls : Nat) (c : QCue) (hok : Orderly w0 s) : Orderly w0 (startCue p cls c s) := by
  unfold startCue
  simp (maxDischargeDepth := 60) +contextual [hok]

@[simp] theorem ranCue_orderly (p cls : Nat) (c : QCue) (hok : Orderly w0 s) : Orderly w0 (ranCue p cls c s) := by
  unfold ranCue
  simp (maxDischargeDepth := 60) +contextual [hok]

@[simp] theorem completeHead_orderly (p cls : Nat) (hok : Orderly w0 s) : Orderly w0 (completeHead p cls s) := by
  unfold completeHead
  dsimp only
  repeat' split
  all_goals simp (maxDischargeDepth := 60) +contextual [hok]

/-! Machine/Engines.lean -/

@[simp] theorem lsStore_orderly (p base fmt : Nat) (l : List Nat) (hok : Orderly w0 s) : Orderly w0 (lsStore p base fmt l s) := by
  unfold lsStore
  simp (maxDischargeDepth := 60) +contextual [hok]

@[simp] theorem frameIllegal_orderly (p t cls pos : Nat) (hok : Orderly w0 s) : Orderly w0 (frameIllegal p t cls pos s) := by
  unfold frameIllegal
  simp (maxDischargeDepth := 60) +contextual [hok]

@[simp] theorem lsRead_orderly (p n : Nat) (hok : Orderly w0 s) : Orderly w0 (lsRead p n s) := by
  unfold lsRead
  simp (maxDischargeDepth := 60) +contextual [hok]

@[simp] theorem lsWrote_orderly (p n : Nat) (hok : Orderly w0 s) : Orderly w0 (lsWrote p n s) := by
  unfold lsWrote
  simp (maxDischargeDepth := 60) +contextual [hok]

@[simp] theorem macDrain_orderly (p oLine : Nat) (j : MacJob) (b : Acc) (hok : Orderly w0 s) : Orderly w0 (macDrain p oLine j b s) := by
  unfold macDrain
  simp (maxDischargeDepth := 60) +contextual [hok]

@[simp] theorem vecWrite_orderly (p : Nat) (j : VecJob) (n : Nat) (count : Bool) (f : Nat → VOut) (hok : Orderly w0 s) : Orderly w0 (vecWrite p j n count f s) := by
  unfold vecWrite
  simp (maxDischargeDepth := 60) +contextual [hok]

@[simp] theorem vecScale_orderly (p : Nat) (j : VecJob) (hok : Orderly w0 s) : Orderly w0 (vecScale p j s) := by
  unfold vecScale
  simp (maxDischargeDepth := 60) +contextual [hok]

@[simp] theorem stepSkipped_orderly (p : Nat) (hok : Orderly w0 s) : Orderly w0 (stepSkipped p s) := by
  unfold stepSkipped
  repeat' split
  all_goals simp (maxDischargeDepth := 60) +contextual [hok]

@[simp] theorem stepUpdated_orderly (p : Nat) (hok : Orderly w0 s) : Orderly w0 (stepUpdated p s) := by
  unfold stepUpdated
  repeat' split
  all_goals simp (maxDischargeDepth := 60) +contextual [hok]

@[simp] theorem vecAdam_orderly (p : Nat) (j : VecJob) (hok : Orderly w0 s) : Orderly w0 (vecAdam p j s) := by
  unfold vecAdam
  repeat' split
  all_goals simp (maxDischargeDepth := 60) +contextual [hok]

@[simp] theorem vecQlat_orderly (p : Nat) (j : VecJob) (hok : Orderly w0 s) : Orderly w0 (vecQlat p j s) := by
  unfold vecQlat
  simp (maxDischargeDepth := 60) +contextual [hok]

/-! Machine/Transform.lean -/

@[simp] theorem treRange_orderly (p cause chan value : Nat) (hok : Orderly w0 s) : Orderly w0 (treRange p cause chan value s) := by
  unfold treRange
  simp (maxDischargeDepth := 60) +contextual [hok]

@[simp] theorem treWrite_orderly (p q : Nat) (f : TreFrame) (out : Nat → Nat → VOut) (hok : Orderly w0 s) : Orderly w0 (treWrite p q f out s) := by
  unfold treWrite
  simp (maxDischargeDepth := 60) +contextual [hok]

@[simp] theorem treCount_orderly (p : Nat) (ntt : Bool) (f : TreFrame) (hok : Orderly w0 s) : Orderly w0 (treCount p ntt f s) := by
  unfold treCount
  simp (maxDischargeDepth := 60) +contextual [hok]

@[simp] theorem treStart_orderly (p mode : Nat) (c : QCue) (hok : Orderly w0 s) : Orderly w0 (treStart p mode c s) := by
  unfold treStart
  dsimp only
  repeat' split
  all_goals simp (maxDischargeDepth := 60) +contextual [hok]

@[simp] theorem markWaited_orderly (pg : Nat) (hok : Orderly w0 s) : Orderly w0 (markWaited pg s) := by
  unfold markWaited
  simp (maxDischargeDepth := 60) +contextual [hok]

@[simp] theorem treIdle_orderly (pg : Nat) (hok : Orderly w0 s) : Orderly w0 (treIdle pg s) := by
  unfold treIdle
  simp (maxDischargeDepth := 60) +contextual [hok]

@[simp] theorem nttCheck_orderly (p : Nat) (c : QCue) (f : TreFrame) (hok : Orderly w0 s) : Orderly w0 (nttCheck p c f s) := by
  unfold nttCheck
  dsimp only
  repeat' split
  all_goals simp (maxDischargeDepth := 60) +contextual [hok]

@[simp] theorem nttConv_orderly (p q : Nat) (f : TreFrame) (hok : Orderly w0 s) : Orderly w0 (nttConv p q f s) := by
  unfold nttConv
  simp (maxDischargeDepth := 60) +contextual [hok]

@[simp] theorem fftConv_orderly (p q : Nat) (f : TreFrame) (hok : Orderly w0 s) : Orderly w0 (fftConv p q f s) := by
  unfold fftConv
  simp (maxDischargeDepth := 60) +contextual [hok]

@[simp] theorem rawFft_orderly (inverse : Bool) (p q : Nat) (f : TreFrame) (hok : Orderly w0 s) : Orderly w0 (rawFft inverse p q f s) := by
  unfold rawFft
  simp (maxDischargeDepth := 60) +contextual [hok]

@[simp] theorem treFinish_orderly (p : Nat) (c : QCue) (hok : Orderly w0 s) : Orderly w0 (treFinish p c s) := by
  unfold treFinish
  repeat' split
  all_goals simp (maxDischargeDepth := 60) +contextual [hok]

end Sys2Proof.Machine
end

