-- ==== Sys2Proof/Laws/OrderlyStage.lean ====
section
/-! SUPPORT. Orderly steps (Laws/Orderly.lean): streams, stagehands, relays, binds. One lemma for each operation. -/

namespace Sys2Proof.Machine

variable {w0 s : State}

/-! Machine/Streams.lean -/

@[simp] theorem storeBits_orderly (bit n v : Nat) (hok : Orderly w0 s) : Orderly w0 (storeBits bit n v s) := by
  unfold storeBits
  simp (maxDischargeDepth := 60) +contextual [hok]

/-! Machine/Stagehands.lean -/

@[simp] theorem shdFail_orderly (sh : Nat) (job : Option Nat) (code : Nat) (hok : Orderly w0 s) : Orderly w0 (shdFail sh job code s) := by
  unfold shdFail
  simp (maxDischargeDepth := 60) +contextual [hok]

@[simp] theorem setEdge_orderly (c : Nat) (e : Edge) (hok : Orderly w0 s) : Orderly w0 (setEdge c e s) := by
  unfold setEdge
  simp (maxDischargeDepth := 60) +contextual [hok]

@[simp] theorem showPool_orderly (hok : Orderly w0 s) : Orderly w0 (showPool s) := by
  unfold showPool
  simp (maxDischargeDepth := 60) +contextual [hok]

@[simp] theorem dropChain_orderly (o : ChainOwner) (hok : Orderly w0 s) : Orderly w0 (dropChain o s) := by
  unfold dropChain
  simp (maxDischargeDepth := 60) +contextual [hok]

@[simp] theorem creditMoved_orderly (c : ChainSt) (hok : Orderly w0 s) : Orderly w0 (creditMoved c s) := by
  unfold creditMoved
  simp (maxDischargeDepth := 60) +contextual [hok]

@[simp] theorem flexArea_orderly (pool gather : Nat) (f : State → State) (ok_f : ∀ u, Orderly w0 u → Orderly w0 (f u)) (hok : Orderly w0 s) : Orderly w0 (flexArea pool gather f s) := by
  unfold flexArea
  simp (maxDischargeDepth := 60) +contextual [hok, ok_f]

@[simp] theorem hoPool_orderly (w : Word) (hok : Orderly w0 s) : Orderly w0 (hoPool w s) := by
  unfold hoPool
  simp (maxDischargeDepth := 60) +contextual [hok]

@[simp] theorem gatherWrite_orderly (w : Word) (hok : Orderly w0 s) : Orderly w0 (gatherWrite w s) := by
  unfold gatherWrite
  simp (maxDischargeDepth := 60) +contextual [hok]

@[simp] theorem leaveQueue_orderly (p : Nat) (hok : Orderly w0 s) : Orderly w0 (leaveQueue p s) := by
  unfold leaveQueue
  simp (maxDischargeDepth := 60) +contextual [hok]

@[simp] theorem descFetch_orderly (sh off : Nat) (hok : Orderly w0 s) : Orderly w0 (descFetch sh off s) := by
  unfold descFetch
  simp (maxDischargeDepth := 60) +contextual [hok]

@[simp] theorem armStream_orderly (p : Nat) (c : QCue) (slot : Nat) (d : List Byte) (go : State → State) (ok_go : ∀ u, Orderly w0 u → Orderly w0 (go u)) (hok : Orderly w0 s) : Orderly w0 (armStream p c slot d go s) := by
  unfold armStream
  simp (maxDischargeDepth := 60) +contextual [hok, ok_go]

@[simp] theorem startLocal_orderly (p : Nat) (hok : Orderly w0 s) : Orderly w0 (startLocal p s) := by
  unfold startLocal
  repeat' split
  all_goals simp (maxDischargeDepth := 60) +contextual [hok]

@[simp] theorem startShared_orderly (n slot id off : Nat) (hok : Orderly w0 s) : Orderly w0 (startShared n slot id off s) := by
  unfold startShared
  repeat' split
  all_goals simp (maxDischargeDepth := 60) +contextual [hok]

@[simp] theorem shdRearm_orderly (room : Bool) (again : Nat → Stream → State → State) (p : Nat) (ok_again : ∀ x0 x1 u, Orderly w0 u → Orderly w0 (again x0 x1 u)) (hok : Orderly w0 s) : Orderly w0 (shdRearm room again p s) := by
  unfold shdRearm
  dsimp only
  repeat' split
  all_goals simp (maxDischargeDepth := 60) +contextual [hok, ok_again]

@[simp] theorem shdClose_orderly (p : Nat) (hok : Orderly w0 s) : Orderly w0 (shdClose p s) := by
  unfold shdClose
  dsimp only
  repeat' split
  all_goals simp (maxDischargeDepth := 60) +contextual [hok]

@[simp] theorem passEnd_orderly (sh slot : Nat) (x : Stream) (hok : Orderly w0 s) : Orderly w0 (passEnd sh slot x s) := by
  unfold passEnd
  dsimp only
  repeat' split
  all_goals simp (maxDischargeDepth := 60) +contextual [hok]

@[simp] theorem clearPage_orderly (i : Nat) (hok : Orderly w0 s) : Orderly w0 (clearPage i s) := by
  unfold clearPage
  simp (maxDischargeDepth := 60) +contextual [hok]

@[simp] theorem haltStream_orderly (sh slot : Nat) (x : Stream) (va pos : Nat) (write fetch : Bool) (entry : Nat) (hok : Orderly w0 s) : Orderly w0 (haltStream sh slot x va pos write fetch entry s) := by
  unfold haltStream
  simp (maxDischargeDepth := 60) +contextual [hok]

@[simp] theorem resumeStream_orderly (key : Nat) (hok : Orderly w0 s) : Orderly w0 (resumeStream key s) := by
  unfold resumeStream
  repeat' split
  all_goals simp (maxDischargeDepth := 60) +contextual [hok]

@[simp] theorem takeSem_orderly (sh n : Nat) (hok : Orderly w0 s) : Orderly w0 (takeSem sh n s) := by
  unfold takeSem
  simp (maxDischargeDepth := 60) +contextual [hok]

@[simp] theorem takeTile_orderly (sh : Nat) (x : Stream) (hok : Orderly w0 s) : Orderly w0 (takeTile sh x s) := by
  unfold takeTile
  dsimp only
  repeat' split
  all_goals simp (maxDischargeDepth := 60) +contextual [hok]

@[simp] theorem putLocal_orderly (sh : Nat) (x : Stream) (off n code : Nat) (hok : Orderly w0 s) : Orderly w0 (putLocal sh x off n code s) := by
  unfold putLocal
  simp (maxDischargeDepth := 60) +contextual [hok]

@[simp] theorem Orderly.foldl_pulled {β : Type} {g : Pulled → β → Pulled} (l : List β) (c : Pulled) (hf : ∀ a x, Orderly w0 a.st → Orderly w0 (g a x).st) (h : Orderly w0 c.st) :
    Orderly w0 (l.foldl g c).st := by
  induction l generalizing c with
  | nil => exact h
  | cons x l ih => exact ih _ (hf _ _ h)

@[simp] theorem pullOne_orderly (sh : Nat) (x : Stream) (f : Shape) (front : List Byte) (a : Pulled) (n : Nat) (hok : Orderly w0 a.st) : Orderly w0 (pullOne sh x f front a n).st := by
  unfold pullOne
  dsimp only
  split <;> simp (maxDischargeDepth := 60) +contextual [hok]

@[simp] theorem pullIn_orderly (sh : Nat) (x : Stream) (f : Shape) (upto : Nat) (far : List Byte) (hok : Orderly w0 s) : Orderly w0 (pullIn sh x f upto far s).st := by
  unfold pullIn
  exact Orderly.foldl_pulled _ _ (fun a q ha => pullOne_orderly _ _ _ _ _ _ ha) hok

@[simp] theorem lineReqs_orderly (sh n : Nat) (x : Stream) (hok : Orderly w0 s) : Orderly w0 (lineReqs sh n x s) := by
  unfold lineReqs
  dsimp only
  repeat' split
  all_goals simp (maxDischargeDepth := 60) +contextual [hok]

@[simp] theorem countMoved_orderly (sh : Nat) (x : Stream) (l : List (Fp × Cstat)) (hok : Orderly w0 s) : Orderly w0 (countMoved sh x l s) := by
  unfold countMoved
  repeat' split
  all_goals simp (maxDischargeDepth := 60) +contextual [hok]

@[simp] theorem moveIn_orderly (sh : Nat) (x : Stream) (f : Shape) (upto : Nat) (far : List Byte) (hok : Orderly w0 s) : Orderly w0 (moveIn sh x f upto far s) := by
  unfold moveIn
  simp (maxDischargeDepth := 60) +contextual [hok]

@[simp] theorem writeRuns_orderly (sh slot : Nat) (x : Stream) (mb : Nat) (l : List (Nat × Nat)) (hok : Orderly w0 s) : Orderly w0 (writeRuns sh slot x mb l s) := by
  unfold writeRuns
  simp (maxDischargeDepth := 60) +contextual [hok]

@[simp] theorem moveOut_orderly (sh slot : Nat) (x : Stream) (f : Shape) (upto : Nat) (far : List Byte) (hok : Orderly w0 s) : Orderly w0 (moveOut sh slot x f upto far s) := by
  unfold moveOut
  dsimp only
  repeat' split
  all_goals simp (maxDischargeDepth := 60) +contextual [hok]

@[simp] theorem moveCopy_orderly (sh slot : Nat) (x : Stream) (f : Shape) (upto : Nat) (far : List Byte) (hok : Orderly w0 s) : Orderly w0 (moveCopy sh slot x f upto far s) := by
  unfold moveCopy
  simp (maxDischargeDepth := 60) +contextual [hok]

@[simp] theorem moveTo_orderly (sh slot : Nat) (x : Stream) (f : Shape) (upto : Nat) (far : List Byte) (hok : Orderly w0 s) : Orderly w0 (moveTo sh slot x f upto far s) := by
  unfold moveTo
  simp (maxDischargeDepth := 60) +contextual [hok]

@[simp] theorem tileFail_orderly (sh : Nat) (x : Stream) (va : Nat) (w : Walk) (hok : Orderly w0 s) : Orderly w0 (tileFail sh x va w s) := by
  unfold tileFail
  repeat' split
  all_goals simp (maxDischargeDepth := 60) +contextual [hok]

@[simp] theorem readEdge_orderly (x : Stream) (hok : Orderly w0 s) : Orderly w0 (readEdge x s) := by
  unfold readEdge
  repeat' split
  all_goals simp (maxDischargeDepth := 60) +contextual [hok]

@[simp] theorem tileSem_orderly (sh : Nat) (x : Stream) (hok : Orderly w0 s) : Orderly w0 (tileSem sh x s) := by
  unfold tileSem
  simp (maxDischargeDepth := 60) +contextual [hok]

@[simp] theorem touchShd_orderly (sh : Nat) (hok : Orderly w0 s) : Orderly w0 (touchShd sh s) := by
  unfold touchShd
  simp (maxDischargeDepth := 60) +contextual [hok]

@[simp] theorem tileEnd_orderly (sh slot : Nat) (x : Stream) (hok : Orderly w0 s) : Orderly w0 (tileEnd sh slot x s) := by
  unfold tileEnd
  simp (maxDischargeDepth := 60) +contextual [hok]

@[simp] theorem tileDone_orderly (sh slot : Nat) (far idx : List Byte) (hok : Orderly w0 s) : Orderly w0 (tileDone sh slot far idx s) := by
  unfold tileDone
  dsimp only
  repeat' split
  all_goals simp (maxDischargeDepth := 60) +contextual [hok]

@[simp] theorem haltTile_orderly (sh slot : Nat) (x : Stream) (f : Shape) (va : Nat) (fetch : Bool) (entry : Nat) (hok : Orderly w0 s) : Orderly w0 (haltTile sh slot x f va fetch entry s) := by
  unfold haltTile
  simp (maxDischargeDepth := 60) +contextual [hok]

@[simp] theorem streamHalt_orderly (sh slot : Nat) (far idx : List Byte) (at_ : SharedAt) (hok : Orderly w0 s) : Orderly w0 (streamHalt sh slot far idx at_ s) := by
  unfold streamHalt
  dsimp only
  repeat' split
  all_goals simp (maxDischargeDepth := 60) +contextual [hok]

@[simp] theorem resume_orderly (c : Ctx) (i : Nat) (e : Entry) (hok : Orderly w0 s) : Orderly w0 (resume c i e s) := by
  unfold resume
  dsimp only
  repeat' split
  all_goals simp (maxDischargeDepth := 60) +contextual [hok]

@[simp] theorem resumeFetch_orderly (id : Nat) (hok : Orderly w0 s) : Orderly w0 (resumeFetch id s) := by
  unfold resumeFetch
  simp (maxDischargeDepth := 60) +contextual [hok]

@[simp] theorem failFetch_orderly (id code : Nat) (hok : Orderly w0 s) : Orderly w0 (failFetch id code s) := by
  unfold failFetch
  simp (maxDischargeDepth := 60) +contextual [hok]

@[simp] theorem issueFetch_orderly (id : Nat) (f : Fetch) (t : Nat × Nat × Nat) (hok : Orderly w0 s) : Orderly w0 (issueFetch id f t s) := by
  unfold issueFetch
  simp (maxDischargeDepth := 60) +contextual [hok]

/-! Machine/Relays.lean -/

@[simp] theorem setWing_orderly (w : Nat) (r : Ring4) (hok : Orderly w0 s) : Orderly w0 (setWing w r s) := by
  unfold setWing
  simp (maxDischargeDepth := 60) +contextual [hok]

@[simp] theorem setRelay_orderly (w : Nat) (r : Relay) (hok : Orderly w0 s) : Orderly w0 (setRelay w r s) := by
  unfold setRelay
  simp (maxDischargeDepth := 60) +contextual [hok]

@[simp] theorem keepMeets_orderly (p : Nat) (hok : Orderly w0 s) : Orderly w0 (keepMeets p s) := by
  unfold keepMeets
  repeat' split
  all_goals simp (maxDischargeDepth := 60) +contextual [hok]

@[simp] theorem showRing_orderly (w : Nat) (hok : Orderly w0 s) : Orderly w0 (showRing w s) := by
  unfold showRing
  repeat' split
  all_goals simp (maxDischargeDepth := 60) +contextual [hok]

@[simp] theorem enterRelay_orderly (p slot : Nat) (x : Stream) (hok : Orderly w0 s) : Orderly w0 (enterRelay p slot x s) := by
  unfold enterRelay
  repeat' split
  all_goals simp (maxDischargeDepth := 60) +contextual [hok]

@[simp] theorem noteTag_orderly (id w tag : Nat) (hok : Orderly w0 s) : Orderly w0 (noteTag id w tag s) := by
  unfold noteTag
  repeat' split
  all_goals simp (maxDischargeDepth := 60) +contextual [hok]

@[simp] theorem keepDone_orderly (w q : Nat) (hok : Orderly w0 s) : Orderly w0 (keepDone w q s) := by
  unfold keepDone
  simp (maxDischargeDepth := 60) +contextual [hok]

@[simp] theorem meetSlice_orderly (w q : Nat) (f : Fly) (hok : Orderly w0 s) : Orderly w0 (meetSlice w q f s) := by
  unfold meetSlice
  dsimp only
  repeat' split
  all_goals simp (maxDischargeDepth := 60) +contextual [hok]

/-! Machine/Binds.lean -/

@[simp] theorem pkgFault_orderly (k : Package) (code handle : Nat) (hok : Orderly w0 s) : Orderly w0 (pkgFault k code handle s) := by
  unfold pkgFault
  repeat' split
  all_goals simp (maxDischargeDepth := 60) +contextual [hok]

@[simp] theorem pkgLoad_orderly (k : Package) (c : Ctx) (i : Nat) (e : Entry) (hok : Orderly w0 s) : Orderly w0 (pkgLoad k c i e s) := by
  unfold pkgLoad
  dsimp only
  repeat' split
  all_goals simp (maxDischargeDepth := 60) +contextual [hok]

@[simp] theorem installPkg_orderly (i : Nat) (k : Package) (hok : Orderly w0 s) : Orderly w0 (installPkg i k s) := by
  unfold installPkg
  simp (maxDischargeDepth := 60) +contextual [hok]

@[simp] theorem setFlow_orderly (n : Nat) (f : Flow) (hok : Orderly w0 s) : Orderly w0 (setFlow n f s) := by
  unfold setFlow
  simp (maxDischargeDepth := 60) +contextual [hok]

@[simp] theorem bindFlow_orderly (n : Nat) (chan : Option Nat) (hok : Orderly w0 s) : Orderly w0 (bindFlow n chan s) := by
  unfold bindFlow
  simp (maxDischargeDepth := 60) +contextual [hok]

@[simp] theorem chIo_orderly (c : Ctx) (i : Nat) (e : Entry) (hok : Orderly w0 s) : Orderly w0 (chIo c i e s) := by
  unfold chIo
  simp (maxDischargeDepth := 60) +contextual [hok]

@[simp] theorem chBind_orderly (c : Ctx) (i : Nat) (e : Entry) (hok : Orderly w0 s) : Orderly w0 (chBind c i e s) := by
  unfold chBind
  simp (maxDischargeDepth := 60) +contextual [hok]

end Sys2Proof.Machine
end

