-- ==== Sys2Proof/Laws/OrderlyUnits.lean ====
section
/-! SUPPORT. Orderly steps (Laws/Orderly.lean): records posted, units, egress, rehearsal, the encoder, audio. One lemma for each operation. -/

namespace Sys2Proof.Machine

variable {w0 s : State}

/-! Machine/Posting.lean -/

@[simp] theorem chooseCode_orderly (codes : List Nat) (b : Rec) (hok : Orderly w0 s) : Orderly w0 (chooseCode codes b s).2 := by
  unfold chooseCode
  simp (maxDischargeDepth := 60) +contextual [hok]

@[simp] theorem statsFail_orderly (i seq : Nat) (hok : Orderly w0 s) : Orderly w0 (statsFail i seq s).2 := by
  unfold statsFail
  repeat' split
  all_goals simp (maxDischargeDepth := 60) +contextual [hok]

@[simp] theorem settleCode_orderly (d : Due) (hok : Orderly w0 s) : Orderly w0 (settleCode d s).2 := by
  unfold settleCode
  repeat' split
  all_goals simp (maxDischargeDepth := 60) +contextual [hok]

/-! Machine/Units.lean -/

@[simp] theorem postUnit_orderly (i seq : Nat) (cmd : Option Ctx) (codes : List Nat) (b : Rec) (hok : Orderly w0 s) : Orderly w0 (postUnit i seq cmd codes b s) := by
  unfold postUnit
  simp (maxDischargeDepth := 60) +contextual [hok]

@[simp] theorem unitCode_orderly (i seq code : Nat) (hok : Orderly w0 s) : Orderly w0 (unitCode i seq code s) := by
  unfold unitCode
  simp (maxDischargeDepth := 60) +contextual [hok]

@[simp] theorem nextSeq_orderly (i : Nat) (hok : Orderly w0 s) : Orderly w0 (nextSeq i s).2 := by
  unfold nextSeq
  simp (maxDischargeDepth := 60) +contextual [hok]

@[simp] theorem addJob_orderly (j : Job) (hok : Orderly w0 s) : Orderly w0 (addJob j s) := by
  unfold addJob
  simp (maxDischargeDepth := 60) +contextual [hok]

@[simp] theorem sendRtp_orderly (n ts : Nat) (marker : Bool) (payload : List Byte) (hok : Orderly w0 s) : Orderly w0 (sendRtp n ts marker payload s) := by
  unfold sendRtp
  simp (maxDischargeDepth := 60) +contextual [hok]

@[simp] theorem sendSegment_orderly (n : Nat) (seg : List Byte) (key marker : Bool) (tag ts : Nat) (hok : Orderly w0 s) : Orderly w0 (sendSegment n seg key marker tag ts s) := by
  unfold sendSegment
  simp (maxDischargeDepth := 60) +contextual [hok]

@[simp] theorem ringOut_orderly (i base size pos : Nat) (l : List Byte) (hok : Orderly w0 s) : Orderly w0 (ringOut i base size pos l s) := by
  unfold ringOut
  simp (maxDischargeDepth := 60) +contextual [hok]

@[simp] theorem emitSeg_orderly (i : Nat) (seg : List Byte) (key marker : Bool) (tag ts : Nat) (hok : Orderly w0 s) : Orderly w0 (emitSeg i seg key marker tag ts s) := by
  unfold emitSeg
  dsimp only
  repeat' split
  all_goals simp (maxDischargeDepth := 60) +contextual [hok]

@[simp] theorem writeEnd_orderly (i : Nat) (hok : Orderly w0 s) : Orderly w0 (writeEnd i s) := by
  unfold writeEnd
  simp (maxDischargeDepth := 60) +contextual [hok]

@[simp] theorem cancelJobs_orderly (i : Nat) (hok : Orderly w0 s) : Orderly w0 (cancelJobs i s) := by
  unfold cancelJobs
  simp (maxDischargeDepth := 60) +contextual [hok]

@[simp] theorem endLive_orderly (i : Nat) (hok : Orderly w0 s) : Orderly w0 (endLive i s) := by
  unfold endLive
  repeat' split
  all_goals simp (maxDischargeDepth := 60) +contextual [hok]

@[simp] theorem settleUnbinds_orderly (hok : Orderly w0 s) : Orderly w0 (settleUnbinds s) := by
  refine Orderly.foldl _ (fun a x ha => ?_) (Orderly.mk_of hok (le_refl _))
  split <;> simp (maxDischargeDepth := 60) +contextual [*]

@[simp] theorem renumber_orderly (i : Nat) (hok : Orderly w0 s) : Orderly w0 (renumber i s) := by
  unfold renumber
  simp (maxDischargeDepth := 60) +contextual [hok]

@[simp] theorem leaveHouse_orderly (i : Nat) (hok : Orderly w0 s) : Orderly w0 (leaveHouse i s) := by
  unfold leaveHouse
  simp (maxDischargeDepth := 60) +contextual [hok]

@[simp] theorem cutPicture_orderly (i : Nat) (hok : Orderly w0 s) : Orderly w0 (cutPicture i s) := by
  unfold cutPicture
  repeat' split
  all_goals simp (maxDischargeDepth := 60) +contextual [hok]

@[simp] theorem dropStores_orderly (i : Nat) (hok : Orderly w0 s) : Orderly w0 (dropStores i s) := by
  unfold dropStores
  simp (maxDischargeDepth := 60) +contextual [hok]

@[simp] theorem finishStop_orderly (i : Nat) (hok : Orderly w0 s) : Orderly w0 (finishStop i s) := by
  have hf : ∀ t, Orderly w0 t → Orderly w0 ((s.chan i).stopping.foldl (fun a x => match x.1 with | some ctx => done ctx a | none => a) t) := by
    intro t ht
    refine Orderly.foldl _ (fun a x ha => ?_) ht
    split <;> simp (maxDischargeDepth := 60) +contextual [*]
  unfold finishStop
  dsimp only
  split
  · exact hok
  · refine settleUnbinds_orderly ?_
    split
    · refine renumber_orderly _ (modChan_orderly _ _ (hf _ ?_))
      simp (maxDischargeDepth := 60) +contextual [*]
    · refine hf _ ?_
      simp (maxDischargeDepth := 60) +contextual [*]

@[simp] theorem stopChan_orderly (i : Nat) (ctx : Option Ctx) (abort : Bool) (hok : Orderly w0 s) : Orderly w0 (stopChan i ctx abort s) := by
  unfold stopChan
  simp (maxDischargeDepth := 60) +contextual [hok]

@[simp] theorem finishRetire_orderly (i cause : Nat) (hok : Orderly w0 s) : Orderly w0 (finishRetire i cause s) := by
  unfold finishRetire
  dsimp only
  split
  · exact hok
  · refine settleUnbinds_orderly (Orderly.foldl _ (fun a x ha => stopChan_orderly _ _ _ ha) ?_)
    refine postUnit_orderly _ _ _ _ _ (unitCode_orderly _ _ _ (bump_orderly _ _ _ (nextSeq_orderly _ (modChan_orderly _ _ (swapOut_orderly _ ?_)))))
    refine Orderly.foldl _ (fun a x ha => ?_) ?_
    · split <;> simp (maxDischargeDepth := 60) +contextual [*]
    · simp (maxDischargeDepth := 60) +contextual [*]

@[simp] theorem beginRetire_orderly (i cause : Nat) (hok : Orderly w0 s) : Orderly w0 (beginRetire i cause s) := by
  unfold beginRetire
  simp (maxDischargeDepth := 60) +contextual [hok]

@[simp] theorem settleChan_orderly (i : Nat) (hok : Orderly w0 s) : Orderly w0 (settleChan i s) := by
  unfold settleChan
  dsimp only
  repeat' split
  all_goals simp (maxDischargeDepth := 60) +contextual [hok]

@[simp] theorem dropJob_orderly (id : Nat) (hok : Orderly w0 s) : Orderly w0 (dropJob id s) := by
  unfold dropJob
  repeat' split
  all_goals simp (maxDischargeDepth := 60) +contextual [hok]

@[simp] theorem postRecord_orderly (r : Nat) (k : Ring) (d : Due) (rest : List Due) (hok : Orderly w0 s) : Orderly w0 (postRecord r k d rest s) := by
  unfold postRecord
  simp (maxDischargeDepth := 60) +contextual [hok]

@[simp] theorem postDue_orderly (r : Nat) (k : Ring) (d : Due) (rest : List Due) (hok : Orderly w0 s) : Orderly w0 (postDue r k d rest s) := by
  unfold postDue
  repeat' split
  all_goals simp (maxDischargeDepth := 60) +contextual [hok]

@[simp] theorem holdDue_orderly (r : Nat) (hok : Orderly w0 s) : Orderly w0 (holdDue r s) := by
  unfold holdDue
  simp (maxDischargeDepth := 60) +contextual [hok]

/-! Machine/Egress.lean -/

@[simp] theorem modOut_orderly (i : Nat) (f : Flow → Flow) (hok : Orderly w0 s) : Orderly w0 (modOut i f s) := by
  unfold modOut
  repeat' split
  all_goals simp (maxDischargeDepth := 60) +contextual [hok]

@[simp] theorem egressBegin_orderly (i : Nat) (hok : Orderly w0 s) : Orderly w0 (egressBegin i s) := by
  unfold egressBegin
  simp (maxDischargeDepth := 60) +contextual [hok]

@[simp] theorem egressAnnounce_orderly (i : Nat) (u : OutUnit) (hok : Orderly w0 s) : Orderly w0 (egressAnnounce i u s) := by
  unfold egressAnnounce
  simp (maxDischargeDepth := 60) +contextual [hok]

@[simp] theorem egressReady_orderly (i num : Nat) (send : Bool) (bytes : List Byte) (hok : Orderly w0 s) : Orderly w0 (egressReady i num send bytes s) := by
  unfold egressReady
  simp (maxDischargeDepth := 60) +contextual [hok]

@[simp] theorem sendUnit_orderly (n instant : Nat) (bytes : List Byte) (hok : Orderly w0 s) : Orderly w0 (sendUnit n instant bytes s) := by
  unfold sendUnit
  simp (maxDischargeDepth := 60) +contextual [hok]

@[simp] theorem egress_orderly (n : Nat) (hok : Orderly w0 s) : Orderly w0 (egress n s) := by
  unfold egress
  dsimp only
  repeat' split
  all_goals simp (maxDischargeDepth := 60) +contextual [hok]

/-! Machine/Start.lean -/

@[simp] theorem dropLoad_orderly (i : Nat) (o : OpenCmd) (hok : Orderly w0 s) : Orderly w0 (dropLoad i s o) := by
  unfold dropLoad
  repeat' split
  all_goals simp (maxDischargeDepth := 60) +contextual [hok]

@[simp] theorem chDestroy_orderly (c : Ctx) (i : Nat) (x2 : Entry) (hok : Orderly w0 s) : Orderly w0 (chDestroy c i x2 s) := by
  unfold chDestroy
  simp (maxDischargeDepth := 60) +contextual [hok]

@[simp] theorem startFail_orderly (c : Ctx) (i : Nat) (r : Nat × Nat) (hok : Orderly w0 s) : Orderly w0 (startFail c i r s) := by
  unfold startFail
  simp (maxDischargeDepth := 60) +contextual [hok]

@[simp] theorem startChan_orderly (i : Nat) (hok : Orderly w0 s) : Orderly w0 (startChan i s) := by
  unfold startChan
  dsimp only
  repeat' split
  all_goals simp (maxDischargeDepth := 60) +contextual [hok]

@[simp] theorem chPrepare_orderly (c : Ctx) (i : Nat) (x2 : Entry) (hok : Orderly w0 s) : Orderly w0 (chPrepare c i x2 s) := by
  unfold chPrepare
  dsimp only
  repeat' split
  any_goals simp (maxDischargeDepth := 60) +contextual [*]
  exact done_orderly _ (modChan_orderly _ _ (takeSlot_orderly ‹_› hok))

@[simp] theorem chStart_orderly (c : Ctx) (i : Nat) (x2 : Entry) (hok : Orderly w0 s) : Orderly w0 (chStart c i x2 s) := by
  unfold chStart
  simp (maxDischargeDepth := 60) +contextual [hok]

@[simp] theorem chStop_orderly (c : Ctx) (i : Nat) (e : Entry) (hok : Orderly w0 s) : Orderly w0 (chStop c i e s) := by
  unfold chStop
  simp (maxDischargeDepth := 60) +contextual [hok]

@[simp] theorem forceIntra_orderly (c : Ctx) (i : Nat) (x2 : Entry) (hok : Orderly w0 s) : Orderly w0 (forceIntra c i x2 s) := by
  unfold forceIntra
  simp (maxDischargeDepth := 60) +contextual [hok]

@[simp] theorem failLate_orderly (c : Ctx) (i : Nat) (e : Entry) (code : Nat) (hok : Orderly w0 s) : Orderly w0 (failLate c i e code s) := by
  unfold failLate
  simp (maxDischargeDepth := 60) +contextual [hok]

@[simp] theorem addUnit_orderly (i : Nat) (j : Job) (hok : Orderly w0 s) : Orderly w0 (addUnit i j s) := by
  unfold addUnit
  simp (maxDischargeDepth := 60) +contextual [hok]

@[simp] theorem armPersistent_orderly (i at_ out : Nat) (hok : Orderly w0 s) : Orderly w0 (armPersistent i at_ out s) := by
  unfold armPersistent
  simp (maxDischargeDepth := 60) +contextual [hok]

@[simp] theorem holdInput_orderly (i num : Nat) (hok : Orderly w0 s) : Orderly w0 (holdInput i num s) := by
  unfold holdInput
  simp (maxDischargeDepth := 60) +contextual [hok]

@[simp] theorem releaseInput_orderly (i num : Nat) (hok : Orderly w0 s) : Orderly w0 (releaseInput i num s) := by
  unfold releaseInput
  simp (maxDischargeDepth := 60) +contextual [hok]

@[simp] theorem enhUnit_orderly (i num : Nat) (dl : Option Nat) (tick a pts : Nat) (hok : Orderly w0 s) : Orderly w0 (enhUnit i num dl tick a pts s) := by
  unfold enhUnit
  simp (maxDischargeDepth := 60) +contextual [hok]

@[simp] theorem enhAdmit_orderly (i num : Nat) (hok : Orderly w0 s) : Orderly w0 (enhAdmit i num s) := by
  unfold enhAdmit
  dsimp only
  repeat' split
  all_goals simp (maxDischargeDepth := 60) +contextual [hok]

@[simp] theorem inputWhole_orderly (i num : Nat) (hok : Orderly w0 s) : Orderly w0 (inputWhole i num s) := by
  unfold inputWhole
  dsimp only
  repeat' split
  all_goals simp (maxDischargeDepth := 60) +contextual [hok]

@[simp] theorem announce_orderly (i total pts : Nat) (hok : Orderly w0 s) : Orderly w0 (announce i total pts s) := by
  unfold announce
  simp (maxDischargeDepth := 60) +contextual [hok]

@[simp] theorem streamIn_orderly (c : Ctx) (i : Nat) (e : Entry) (hok : Orderly w0 s) : Orderly w0 (streamIn c i e s) := by
  unfold streamIn
  simp (maxDischargeDepth := 60) +contextual [hok]

@[simp] theorem streamInFwd_orderly (c : Ctx) (i : Nat) (e : Entry) (hok : Orderly w0 s) : Orderly w0 (streamInFwd c i e s) := by
  unfold streamInFwd
  simp (maxDischargeDepth := 60) +contextual [hok]

@[simp] theorem outHead_orderly (c : Ctx) (i : Nat) (e : Entry) (hok : Orderly w0 s) : Orderly w0 (outHead c i e s) := by
  unfold outHead
  simp (maxDischargeDepth := 60) +contextual [hok]

@[simp] theorem tensor_orderly (c : Ctx) (i : Nat) (e : Entry) (hok : Orderly w0 s) : Orderly w0 (tensor c i e s) := by
  unfold tensor
  simp (maxDischargeDepth := 60) +contextual [hok]

@[simp] theorem comp_orderly (c : Ctx) (i : Nat) (e : Entry) (hok : Orderly w0 s) : Orderly w0 (comp c i e s) := by
  unfold comp
  simp (maxDischargeDepth := 60) +contextual [hok]

@[simp] theorem liveBind_orderly (remote : List Byte) (c : Ctx) (i : Nat) (e : Entry) (hok : Orderly w0 s) : Orderly w0 (liveBind remote c i e s) := by
  unfold liveBind
  dsimp only
  repeat' split
  all_goals simp (maxDischargeDepth := 60) +contextual [hok]

@[simp] theorem liveUnbind_orderly (c : Ctx) (i : Nat) (e : Entry) (hok : Orderly w0 s) : Orderly w0 (liveUnbind c i e s) := by
  unfold liveUnbind
  simp (maxDischargeDepth := 60) +contextual [hok]

/-! Machine/Encoder.lean -/

@[simp] theorem modEnc_orderly (i : Nat) (f : Enc → Enc) (hok : Orderly w0 s) : Orderly w0 (modEnc i f s) := by
  unfold modEnc
  simp (maxDischargeDepth := 60) +contextual [hok]

@[simp] theorem modPic_orderly (i n : Nat) (f : EncPic → EncPic) (hok : Orderly w0 s) : Orderly w0 (modPic i n f s) := by
  unfold modPic
  simp (maxDischargeDepth := 60) +contextual [hok]

@[simp] theorem beginPic_orderly (i num : Nat) (hok : Orderly w0 s) : Orderly w0 (beginPic i num s) := by
  unfold beginPic
  dsimp only
  repeat' split
  all_goals simp (maxDischargeDepth := 60) +contextual [hok]

@[simp] theorem releaseSlice_orderly (i n k : Nat) (hok : Orderly w0 s) : Orderly w0 (releaseSlice i n k s) := by
  unfold releaseSlice
  repeat' first
    | (try lift_lets
       intro x
       first
         | (have hx : Orderly w0 x := by
              simp only [x]
              all_goals simp (maxDischargeDepth := 60) +contextual [*]
            try clear_value x)
         | (have hq : State := x; clear hq)
         | clear_value x
         | skip)
    | split
  all_goals simp (maxDischargeDepth := 60) +contextual [*]

@[simp] theorem sliceRelease_orderly (i : Nat) (hok : Orderly w0 s) : Orderly w0 (sliceRelease i s) := by
  unfold sliceRelease
  dsimp only
  repeat' split
  all_goals simp (maxDischargeDepth := 60) +contextual [hok]

@[simp] theorem fillLine_orderly (i : Nat) (h : List Byte) (pitch base : Nat) (gone : List Nat) (pl y : Nat) (hok : Orderly w0 s) : Orderly w0 (fillLine i h pitch base gone pl y s) := by
  unfold fillLine
  simp (maxDischargeDepth := 60) +contextual [hok]

@[simp] theorem fillLines_orderly (i num : Nat) (hok : Orderly w0 s) : Orderly w0 (fillLines i num s) := by
  unfold fillLines
  dsimp only
  repeat' split
  all_goals simp (maxDischargeDepth := 60) +contextual [hok]

@[simp] theorem startGovernor_orderly (i n : Nat) (hok : Orderly w0 s) : Orderly w0 (startGovernor i n s) := by
  unfold startGovernor
  dsimp only
  repeat' split
  all_goals simp (maxDischargeDepth := 60) +contextual [hok]

@[simp] theorem noteCurtain_orderly (i n k row cause : Nat) (firstOfSlice : Bool) (hok : Orderly w0 s) : Orderly w0 (noteCurtain i n k row cause firstOfSlice s) := by
  unfold noteCurtain
  repeat' split
  all_goals simp (maxDischargeDepth := 60) +contextual [hok]

@[simp] theorem sampleRgv_orderly (i n : Nat) (hok : Orderly w0 s) : Orderly w0 (sampleRgv i n s) := by
  unfold sampleRgv
  repeat' split
  all_goals simp (maxDischargeDepth := 60) +contextual [hok]

@[simp] theorem rgvProbe_orderly (w : Word) (hok : Orderly w0 s) : Orderly w0 (rgvProbe w s) := by
  unfold rgvProbe
  simp (maxDischargeDepth := 60) +contextual [hok]

@[simp] theorem rowCommit_orderly (id : Nat) (g : Coding) (k : Package) (hok : Orderly w0 s) : Orderly w0 (rowCommit id g k s) := by
  unfold rowCommit
  simp (maxDischargeDepth := 60) +contextual [hok]

@[simp] theorem endPicture_orderly (i n : Nat) (hok : Orderly w0 s) : Orderly w0 (endPicture i n s) := by
  unfold endPicture
  repeat' split
  all_goals simp (maxDischargeDepth := 60) +contextual [hok]

@[simp] theorem admitRecons_orderly (i n fuel : Nat) (hok : Orderly w0 s) : Orderly w0 (admitRecons i n fuel s) := by
  induction fuel generalizing s with
  | zero => exact hok
  | succ k ih =>
    rw [admitRecons]
    dsimp only
    repeat' first
      | with_reducible assumption | with_reducible apply ih | with_reducible apply addJob_orderly | with_reducible apply modPic_orderly | split

@[simp] theorem leavePic_orderly (i n : Nat) (hok : Orderly w0 s) : Orderly w0 (leavePic i n s) := by
  unfold leavePic
  repeat' split
  all_goals simp (maxDischargeDepth := 60) +contextual [hok]

@[simp] theorem admitTune_orderly (i : Nat) (p : EncPic) (hok : Orderly w0 s) : Orderly w0 (admitTune i p s) := by
  unfold admitTune
  dsimp only
  repeat' split
  all_goals simp (maxDischargeDepth := 60) +contextual [hok]

@[simp] theorem settlePics_orderly (i fuel : Nat) (hok : Orderly w0 s) : Orderly w0 (settlePics i fuel s) := by
  induction fuel generalizing s with
  | zero => exact hok
  | succ n ih =>
    unfold settlePics
    dsimp only
    repeat' split
    all_goals simp (maxDischargeDepth := 60) [hok, ih]

@[simp] theorem resolveSlice_orderly (i n : Nat) (hok : Orderly w0 s) : Orderly w0 (resolveSlice i n s) := by
  unfold resolveSlice
  repeat' split
  all_goals simp (maxDischargeDepth := 60) +contextual [hok]

@[simp] theorem uncharge_orderly (i n bits : Nat) (hok : Orderly w0 s) : Orderly w0 (uncharge i n bits s) := by
  unfold uncharge
  repeat' split
  all_goals simp (maxDischargeDepth := 60) only [Orderly.ite, Orderly.mk_of, Orderly.foldl, le_refl, implies_true, modEnc_orderly, modPic_orderly, hok]

@[simp] theorem loseSlice_orderly (i n k st : Nat) (hok : Orderly w0 s) : Orderly w0 (loseSlice i n k st s) := by
  unfold loseSlice
  repeat' split
  all_goals simp (maxDischargeDepth := 60) +contextual [hok]

@[simp] theorem gatherRow_orderly (id : Nat) (g : Coding) (k : Package) (hok : Orderly w0 s) : Orderly w0 (gatherRow id g k s) := by
  unfold gatherRow
  repeat' first
    | (try lift_lets
       intro x
       first
         | (have hx : Orderly w0 x := by
              simp only [x]
              repeat' split
              all_goals simp (maxDischargeDepth := 60) [*]
            try clear_value x)
         | (have hq : State := x; clear hq)
         | clear_value x
         | skip)
    | split
  all_goals simp (maxDischargeDepth := 60) [*]

@[simp] theorem sliceClose_orderly (g : Coding) (k : Package) (hok : Orderly w0 s) : Orderly w0 (sliceClose g k s) := by
  unfold sliceClose
  simp (maxDischargeDepth := 60) only [Orderly.ite, Orderly.mk_of, Orderly.foldl, le_refl, implies_true, bump_orderly, holdRecord_orderly, done_orderly, unitCode_orderly, modPic_orderly, noteCurtain_orderly, resolveSlice_orderly, loseSlice_orderly, hok]

@[simp] theorem flushAuds_orderly (i fuel : Nat) (hok : Orderly w0 s) : Orderly w0 (flushAuds i fuel s) := by
  induction fuel generalizing s with
  | zero => exact hok
  | succ k ih =>
    rw [flushAuds]
    dsimp only
    repeat' first
      | with_reducible assumption | with_reducible apply ih | with_reducible apply modEnc_orderly | with_reducible apply emitSeg_orderly | split

@[simp] theorem emitHead_orderly (i : Nat) (p : EncPic) (hok : Orderly w0 s) : Orderly w0 (emitHead i p s) := by
  unfold emitHead
  simp (maxDischargeDepth := 60) +contextual [hok]

@[simp] theorem emitSlice_orderly (i id : Nat) (j : Job) (p : EncPic) (k : Nat) (x : EncSlice) (hok : Orderly w0 s) : Orderly w0 (emitSlice i id j p k x s) := by
  unfold emitSlice
  repeat' first
    | (try lift_lets
       intro x
       first
         | (have hx : Orderly w0 x := by
              simp only [x]
              repeat' split
              all_goals simp (maxDischargeDepth := 60) [*]
            try clear_value x)
         | (have hx : Orderly w0 x.2 := by
              simp only [x]
              all_goals simp (maxDischargeDepth := 60) [*]
            try clear_value x)
         | (have hq : State := x; clear hq)
         | clear_value x
         | skip)
    | split
  all_goals simp (maxDischargeDepth := 60) [*]

@[simp] theorem sliceEmit_orderly (i : Nat) (hok : Orderly w0 s) : Orderly w0 (sliceEmit i s) := by
  unfold sliceEmit
  dsimp only
  repeat' split
  all_goals simp (maxDischargeDepth := 60) +contextual [hok]

@[simp] theorem reconEnd_orderly (i n k : Nat) (pkg : Package) (ok : Bool) (hok : Orderly w0 s) : Orderly w0 (reconEnd i n k pkg ok s) := by
  unfold reconEnd
  repeat' split
  all_goals simp (maxDischargeDepth := 60) +contextual [hok]

@[simp] theorem adapterSet_orderly (id : Nat) (j : Job) (n : Nat) (k : Package) (t : Tuning) (hok : Orderly w0 s) : Orderly w0 (adapterSet id j n k t s) := by
  unfold adapterSet
  simp (maxDischargeDepth := 60) +contextual [hok]

@[simp] theorem decodesReady_orderly (m : Nat) (t : Option Nat) (hok : Orderly w0 s) : Orderly w0 (decodesReady m t s) := by
  unfold decodesReady
  simp (maxDischargeDepth := 60) +contextual [hok]

@[simp] theorem tableBankLoad_orderly (id : Nat) (j : Job) (k : Package) (hok : Orderly w0 s) : Orderly w0 (tableBankLoad id j k s) := by
  unfold tableBankLoad
  dsimp only
  repeat' split
  all_goals simp (maxDischargeDepth := 60) +contextual [hok]

@[simp] theorem parityStop_orderly (l : List Nat) (hok : Orderly w0 s) : Orderly w0 (parityStop l s) := by
  unfold parityStop
  simp (maxDischargeDepth := 60) +contextual [hok]

@[simp] theorem rcaParity_orderly (at_ : Nat) (hok : Orderly w0 s) : Orderly w0 (rcaParity at_ s) := by
  unfold rcaParity
  repeat' split
  all_goals simp (maxDischargeDepth := 60) +contextual [hok]

/-! Machine/Audio.lean -/

@[simp] theorem modJob_orderly (id : Nat) (f : Job → Job) (hok : Orderly w0 s) : Orderly w0 (modJob id f s) := by
  unfold modJob
  repeat' split
  all_goals simp (maxDischargeDepth := 60) +contextual [hok]

@[simp] theorem addCode_orderly (id code : Nat) (hok : Orderly w0 s) : Orderly w0 (addCode id code s) := by
  unfold addCode
  simp (maxDischargeDepth := 60) +contextual [hok]

@[simp] theorem closeUnit_orderly (id : Nat) (slice : Option Nat) (hok : Orderly w0 s) : Orderly w0 (closeUnit id slice s) := by
  unfold closeUnit
  repeat' split
  all_goals simp (maxDischargeDepth := 60) +contextual [hok]

@[simp] theorem audHit_orderly (j : Job) (hok : Orderly w0 s) : Orderly w0 (audHit j s) := by
  unfold audHit
  simp (maxDischargeDepth := 60) +contextual [hok]

@[simp] theorem audCount_orderly (nch nh nl : Nat) (hok : Orderly w0 s) : Orderly w0 (audCount nch nh nl s) := by
  unfold audCount
  simp (maxDischargeDepth := 60) +contextual [hok]

@[simp] theorem audFrame_orderly (id : Nat) (j : Job) (k : Package) (hok : Orderly w0 s) : Orderly w0 (audFrame id j k s) := by
  unfold audFrame
  repeat' split
  all_goals simp (maxDischargeDepth := 60) +contextual [hok]

@[simp] theorem audFinish_orderly (id : Nat) (hok : Orderly w0 s) : Orderly w0 (audFinish id s) := by
  unfold audFinish
  repeat' split
  all_goals simp (maxDischargeDepth := 60) +contextual [hok]

@[simp] theorem audRecord_orderly (id : Nat) (j : Job) (slot bytes : Nat) (hok : Orderly w0 s) : Orderly w0 (audRecord id j slot bytes s) := by
  unfold audRecord
  simp (maxDischargeDepth := 60) +contextual [hok]

@[simp] theorem audEmit_orderly (id : Nat) (j : Job) (hok : Orderly w0 s) : Orderly w0 (audEmit id j s) := by
  unfold audEmit
  dsimp only
  repeat' split
  all_goals simp (maxDischargeDepth := 60) +contextual [hok]

@[simp] theorem audWrite_orderly (id : Nat) (j : Job) (hok : Orderly w0 s) : Orderly w0 (audWrite id j s) := by
  unfold audWrite
  dsimp only
  repeat' split
  all_goals simp (maxDischargeDepth := 60) +contextual [hok]

end Sys2Proof.Machine
end

