-- ==== Sys2Proof/Laws/OrderlyDecode.lean ====
section
/-! SUPPORT. Orderly steps (Laws/Orderly.lean): the decoder, segments, picture stores. One lemma for each operation. -/

namespace Sys2Proof.Machine

variable {w0 s : State}

/-! Machine/Decoder.lean -/

@[simp] theorem modDec_orderly (i : Nat) (f : Dec → Dec) (hok : Orderly w0 s) : Orderly w0 (modDec i f s) := by
  unfold modDec
  simp (maxDischargeDepth := 60) +contextual [hok]

@[simp] theorem modDecPic_orderly (i : Nat) (f : DecPic → DecPic) (hok : Orderly w0 s) : Orderly w0 (modDecPic i f s) := by
  unfold modDecPic
  simp (maxDischargeDepth := 60) +contextual [hok]

@[simp] theorem decodeJob_orderly (id : Nat) (j : Job) (k : Package) (index first rows : Nat) (side main : List Byte) (hok : Orderly w0 s) : Orderly w0 (decodeJob id j k index first rows side main s) := by
  unfold decodeJob
  dsimp only
  repeat' split
  all_goals simp (maxDischargeDepth := 60) +contextual [hok]

@[simp] theorem takeSlice_orderly (x : ReadySlice) (hok : Orderly w0 s) : Orderly w0 (takeSlice x s) := by
  unfold takeSlice
  repeat' split
  all_goals simp (maxDischargeDepth := 60) +contextual [hok]

@[simp] theorem decFinish_orderly (id : Nat) (hok : Orderly w0 s) : Orderly w0 (decFinish id s) := by
  unfold decFinish
  repeat' first
    | (try lift_lets
       intro x
       first
         | (have hx : Orderly w0 x := by
              simp only [x]
              repeat' split
              all_goals simp (maxDischargeDepth := 60) [*]
            try clear_value x)
         | (have hq : State := x; clear hq)
         | clear_value x
         | skip)
    | split
  all_goals simp (maxDischargeDepth := 60) [*]

@[simp] theorem writeAll_orderly (i : Nat) (l : List (Nat × List Byte)) (hok : Orderly w0 s) : Orderly w0 (writeAll i l s) := by
  unfold writeAll
  simp (maxDischargeDepth := 60) +contextual [hok]

@[simp] theorem decRecord_orderly (id : Nat) (j : Job) (p : DecPic) (fin : Bool) (buf : Nat) (hok : Orderly w0 s) : Orderly w0 (decRecord id j p fin buf s) := by
  unfold decRecord
  simp (maxDischargeDepth := 60) only [Orderly.ite, Orderly.mk_of, Orderly.foldl, le_refl, implies_true, wrote_orderly, post_orderly, modChan_orderly, postUnit_orderly, dropJob_orderly, modDecPic_orderly, hok]

@[simp] theorem decWrite_orderly (id : Nat) (j : Job) (hok : Orderly w0 s) : Orderly w0 (decWrite id j s) := by
  unfold decWrite
  dsimp only
  repeat' split
  all_goals simp (maxDischargeDepth := 60) +contextual [hok]

@[simp] theorem enhFinish_orderly (id a b pts : Nat) (hok : Orderly w0 s) : Orderly w0 (enhFinish id a b pts s) := by
  unfold enhFinish
  repeat' split
  all_goals simp (maxDischargeDepth := 60) +contextual [hok]

@[simp] theorem openInput_orderly (i pts : Nat) (hok : Orderly w0 s) : Orderly w0 (openInput i pts s).2 := by
  unfold openInput
  dsimp only
  repeat' split
  all_goals simp (maxDischargeDepth := 60) +contextual [hok]

@[simp] theorem fuseIn_orderly (v pts : Nat) (bytes : List Byte) (hok : Orderly w0 s) : Orderly w0 (fuseIn v pts bytes s) := by
  unfold fuseIn
  dsimp only
  repeat' split
  all_goals simp (maxDischargeDepth := 60) only [Orderly.ite, Orderly.mk_of, Orderly.foldl, le_refl, implies_true, modChan_orderly, writeAll_orderly, openInput_orderly, hok]

@[simp] theorem enhRecord_orderly (id : Nat) (j : Job) (pts buf : Nat) (wrote : Bool) (hok : Orderly w0 s) : Orderly w0 (enhRecord id j pts buf wrote s) := by
  unfold enhRecord
  simp (maxDischargeDepth := 60) +contextual [hok]

@[simp] theorem enhWrite_orderly (id : Nat) (j : Job) (pts : Nat) (hok : Orderly w0 s) : Orderly w0 (enhWrite id j pts s) := by
  unfold enhWrite
  repeat' first
    | (try lift_lets
       intro x
       first
         | (have hx : Orderly w0 x := by
              simp only [x]
              repeat' split
              all_goals simp (maxDischargeDepth := 60) [*]
            try clear_value x)
         | (have hx : Orderly w0 x.2 := by
              simp only [x]
              all_goals simp (maxDischargeDepth := 60) [*]
            try clear_value x)
         | (have hq : State := x; clear hq)
         | clear_value x
         | skip)
    | split
  all_goals simp (maxDischargeDepth := 60) [*]

@[simp] theorem deliver_orderly (id : Nat) (hok : Orderly w0 s) : Orderly w0 (deliver id s) := by
  unfold deliver
  repeat' split
  all_goals simp (maxDischargeDepth := 60) +contextual [hok]

/-! Machine/Segments.lean -/

@[simp] theorem streamEvent_orderly (i code pos : Nat) (hok : Orderly w0 s) : Orderly w0 (streamEvent i code pos s) := by
  unfold streamEvent
  simp (maxDischargeDepth := 60) +contextual [hok]

@[simp] theorem consume_orderly (i pos : Nat) (after : Bool) (hok : Orderly w0 s) : Orderly w0 (consume i pos after s) := by
  unfold consume
  simp (maxDischargeDepth := 60) +contextual [hok]

@[simp] theorem endAudio_orderly (i : Nat) (hok : Orderly w0 s) : Orderly w0 (endAudio i s) := by
  unfold endAudio
  repeat' split
  all_goals simp (maxDischargeDepth := 60) +contextual [hok]

@[simp] theorem endSeq_orderly (i : Nat) (hok : Orderly w0 s) : Orderly w0 (endSeq i s) := by
  unfold endSeq
  simp (maxDischargeDepth := 60) +contextual [hok]

@[simp] theorem addDecode_orderly (i : Nat) (w : Work) (deadline : Option Nat) (hok : Orderly w0 s) : Orderly w0 (addDecode i w deadline s) := by
  unfold addDecode
  dsimp only
  repeat' split
  all_goals simp (maxDischargeDepth := 60) +contextual [hok]

@[simp] theorem endPic_orderly (i pos : Nat) (hok : Orderly w0 s) : Orderly w0 (endPic i pos s) := by
  unfold endPic
  dsimp only
  repeat' split
  all_goals simp (maxDischargeDepth := 60) +contextual [hok]

@[simp] theorem doubtAll_orderly (i : Nat) (hok : Orderly w0 s) : Orderly w0 (doubtAll i s) := by
  unfold doubtAll
  simp (maxDischargeDepth := 60) +contextual [hok]

@[simp] theorem emptySlots_orderly (i : Nat) (hok : Orderly w0 s) : Orderly w0 (emptySlots i s) := by
  unfold emptySlots
  simp (maxDischargeDepth := 60) +contextual [hok]

@[simp] theorem losePic_orderly (i : Nat) (hok : Orderly w0 s) : Orderly w0 (losePic i s) := by
  unfold losePic
  dsimp only
  repeat' split
  all_goals simp (maxDischargeDepth := 60) +contextual [hok]

@[simp] theorem toMarker_orderly (i : Nat) (far : List Byte) (hok : Orderly w0 s) : Orderly w0 (toMarker i far s).2 := by
  unfold toMarker
  dsimp only
  repeat' split
  all_goals simp (maxDischargeDepth := 60) +contextual [hok]

@[simp] theorem onSegment_orderly (handle : Word) (far : List Byte) (codes : Nat → Bool) (take : Nat → List Byte → State → State) (ok_take : ∀ x0 x1 u, Orderly w0 u → Orderly w0 (take x0 x1 u)) (hok : Orderly w0 s) : Orderly w0 (onSegment handle far codes take s) := by
  unfold onSegment
  dsimp only
  repeat' split
  all_goals simp (maxDischargeDepth := 60) +contextual [hok, ok_take]

@[simp] theorem leave_orderly (i n : Nat) (after : Bool) (hok : Orderly w0 s) : Orderly w0 (leave i n after s) := by
  unfold leave
  simp (maxDischargeDepth := 60) +contextual [hok]

@[simp] theorem skipSegment_orderly (i : Nat) (hok : Orderly w0 s) : Orderly w0 (skipSegment i s) := by
  unfold skipSegment
  simp (maxDischargeDepth := 60) +contextual [hok]

@[simp] theorem leaveBad_orderly (i : Nat) (x : Content) (hok : Orderly w0 s) : Orderly w0 (leaveBad i x s) := by
  unfold leaveBad
  simp (maxDischargeDepth := 60) +contextual [hok]

@[simp] theorem takeSeq_orderly (i : Nat) (l : List Byte) (hok : Orderly w0 s) : Orderly w0 (takeSeq i l s) := by
  unfold takeSeq
  simp (maxDischargeDepth := 60) only [Orderly.ite, Orderly.mk_of, Orderly.foldl, le_refl, implies_true, modDec_orderly, streamEvent_orderly, endSeq_orderly, endPic_orderly, leave_orderly, leaveBad_orderly, hok]

@[simp] theorem beginDec_orderly (i : Nat) (h : List Byte) (hok : Orderly w0 s) : Orderly w0 (beginDec i h s) := by
  unfold beginDec
  repeat' first
    | (try lift_lets
       intro x
       first
         | (have hx : Orderly w0 x := by
              simp only [x]
              repeat' split
              all_goals simp (maxDischargeDepth := 60) +contextual [*]
            try clear_value x)
         | (have hq : State := x; clear hq)
         | clear_value x
         | skip)
    | split
  all_goals simp (maxDischargeDepth := 60) +contextual [*]

@[simp] theorem takePic_orderly (i : Nat) (l : List Byte) (hok : Orderly w0 s) : Orderly w0 (takePic i l s) := by
  unfold takePic
  simp (maxDischargeDepth := 60) +contextual [hok]

@[simp] theorem sliceCode_orderly (i code pos : Nat) (p : DecPic) (hok : Orderly w0 s) : Orderly w0 (sliceCode i code pos p s) := by
  unfold sliceCode
  simp (maxDischargeDepth := 60) +contextual [hok]

@[simp] theorem receiveSlice_orderly (i n code : Nat) (side main : List Byte) (pos : Nat) (p : DecPic) (hok : Orderly w0 s) : Orderly w0 (receiveSlice i n code side main pos p s) := by
  unfold receiveSlice
  simp (maxDischargeDepth := 60) +contextual [hok]

@[simp] theorem takeSlc_orderly (i : Nat) (l : List Byte) (hok : Orderly w0 s) : Orderly w0 (takeSlc i l s) := by
  unfold takeSlc
  dsimp only
  repeat' split
  all_goals simp (maxDischargeDepth := 60) +contextual [hok]

@[simp] theorem addAudio_orderly (n : Nat) (a : AudIn) (pts : Nat) (codes : List Nat) (deadline : Option Nat) (hok : Orderly w0 s) : Orderly w0 (addAudio n a pts codes deadline s) := by
  unfold addAudio
  simp (maxDischargeDepth := 60) +contextual [hok]

@[simp] theorem audArrive_orderly (n : Nat) (seq : List Byte) (x : Content) (code : Nat) (deadline : Option Nat) (hok : Orderly w0 s) : Orderly w0 (audArrive n seq x code deadline s) := by
  unfold audArrive
  simp (maxDischargeDepth := 60) +contextual [hok]

@[simp] theorem takeAud_orderly (i : Nat) (l : List Byte) (hok : Orderly w0 s) : Orderly w0 (takeAud i l s) := by
  unfold takeAud
  repeat' split
  all_goals simp (maxDischargeDepth := 60) +contextual [hok]

@[simp] theorem takeAdp_orderly (i : Nat) (l : List Byte) (hok : Orderly w0 s) : Orderly w0 (takeAdp i l s) := by
  unfold takeAdp
  simp (maxDischargeDepth := 60) +contextual [hok]

@[simp] theorem takeEnd_orderly (i : Nat) (x1 : List Byte) (hok : Orderly w0 s) : Orderly w0 (takeEnd i x1 s) := by
  unfold takeEnd
  simp (maxDischargeDepth := 60) +contextual [hok]

/-! Machine/Store.lean -/

@[simp] theorem commitStore_orderly (n : Nat) (p : PicStore) (objs : List (List Byte)) (hok : Orderly w0 s) : Orderly w0 (commitStore n p objs s) := by
  unfold commitStore
  repeat' split
  all_goals simp (maxDischargeDepth := 60) +contextual [hok]

@[simp] theorem storeRetry_orderly (n : Nat) (p : PicStore) (pos : Nat) (hok : Orderly w0 s) : Orderly w0 (storeRetry n p pos s) := by
  unfold storeRetry
  simp (maxDischargeDepth := 60) +contextual [hok]

@[simp] theorem storeRow_orderly (n : Nat) (mismatch : Bool) (hok : Orderly w0 s) : Orderly w0 (storeRow n mismatch s) := by
  unfold storeRow
  repeat' split
  all_goals simp (maxDischargeDepth := 60) +contextual [hok]

@[simp] theorem compEnd_orderly (id : Nat) (hok : Orderly w0 s) : Orderly w0 (compEnd id s) := by
  unfold compEnd
  repeat' split
  all_goals simp (maxDischargeDepth := 60) +contextual [hok]

theorem compBad_orderly {id i va len : Nat} {write : Bool} {t : State} (h : compBad id i va len write s = some t) (hok : Orderly w0 s) :
    Orderly w0 t := by
  unfold compBad at h
  dsimp only at h
  repeat' split at h
  all_goals try cases h
  all_goals repeat' first
    | with_reducible assumption | with_reducible apply stopJob_orderly | with_reducible apply walkFail_orderly

theorem compBad_orElse_orderly {id i va len va2 len2 : Nat} {w w2 : Bool} {t : State} (h : ((compBad id i va len w s).orElse fun _ => compBad id i va2 len2 w2 s) = some t) (hok : Orderly w0 s) : Orderly w0 t := by
  cases hc : compBad id i va len w s with
  | none => exact compBad_orderly (by simpa [hc] using h) hok
  | some u => exact (by simpa [hc] using h : u = t) ▸ compBad_orderly hc hok

@[simp] theorem zeroHeads_orderly (i : Nat) (l : List Nat) (hok : Orderly w0 s) : Orderly w0 (zeroHeads i l s) := by
  unfold zeroHeads
  simp (maxDischargeDepth := 60) +contextual [hok]

@[simp] theorem compFail_orderly (id code pos handle : Nat) (host : Bool) (hok : Orderly w0 s) : Orderly w0 (compFail id code pos handle host s) := by
  unfold compFail
  simp (maxDischargeDepth := 60) +contextual [hok]

@[simp] theorem compPut_orderly (i : Nat) (a : CompArgs) (x : CompSt) (l : List Byte) (hok : Orderly w0 s) : Orderly w0 (compPut i a x l s) := by
  unfold compPut
  simp (maxDischargeDepth := 60) +contextual [hok]

@[simp] theorem compStore_orderly (id : Nat) (j : Job) (a : CompArgs) (mismatch : Bool) (far : List Byte) (hok : Orderly w0 s) : Orderly w0 (compStore id j a mismatch far s) := by
  unfold compStore
  dsimp only
  repeat' split
  all_goals first | simp (maxDischargeDepth := 60) [*] | exact compBad_orderly ‹_› (by simp (maxDischargeDepth := 60) [*])

@[simp] theorem compOut_orderly (id i : Nat) (a : CompArgs) (x : CompSt) (body : Nat) (l : List Byte) (hok : Orderly w0 s) : Orderly w0 (compOut id i a x body l s) := by
  unfold compOut
  dsimp only
  repeat' split
  all_goals first | simp (maxDischargeDepth := 60) [*] | exact compBad_orderly ‹_› (by simp (maxDischargeDepth := 60) [*])

@[simp] theorem compSpoil_orderly (id i : Nat) (a : CompArgs) (x : CompSt) (n : Nat) (e : FscFail) (hok : Orderly w0 s) : Orderly w0 (compSpoil id i a x n e s) := by
  unfold compSpoil
  simp (maxDischargeDepth := 60) +contextual [hok]

@[simp] theorem compBody_orderly (id i : Nat) (a : CompArgs) (x : CompSt) (hd far : List Byte) (hok : Orderly w0 s) : Orderly w0 (compBody id i a x hd far s) := by
  unfold compBody
  repeat' first
    | (try lift_lets
       intro x
       first
         | (have hx : Orderly w0 x := by
              simp only [x]
              repeat' split
              all_goals first | simp (maxDischargeDepth := 60) [*] | exact compBad_orElse_orderly ‹_› (by simp (maxDischargeDepth := 60) [*])
            try clear_value x)
         | (have hq : State := x; clear hq)
         | clear_value x
         | skip)
    | split
  all_goals first | simp (maxDischargeDepth := 60) [*] | exact compBad_orElse_orderly ‹_› (by simp (maxDischargeDepth := 60) [*])

@[simp] theorem compLoad_orderly (id : Nat) (j : Job) (a : CompArgs) (far : List Byte) (hok : Orderly w0 s) : Orderly w0 (compLoad id j a far s) := by
  unfold compLoad
  dsimp only
  repeat' split
  all_goals first | simp (maxDischargeDepth := 60) [*] | exact compBad_orderly ‹_› (by simp (maxDischargeDepth := 60) [*])

@[simp] theorem fscStore_orderly (job : Option Nat) (n : Nat) (mismatch : Bool) (far : List Byte) (hok : Orderly w0 s) : Orderly w0 (fscStore job n mismatch far s) := by
  unfold fscStore
  repeat' split
  all_goals simp (maxDischargeDepth := 60) +contextual [hok]

end Sys2Proof.Machine
end

