-- ==== Sys2Proof/Laws/OrderlyEnds.lean ====
section
/-! SUPPORT. Orderly steps (Laws/Orderly.lean): jobs, stops, media, the clock. One lemma for each operation. -/

namespace Sys2Proof.Machine

variable {w0 s : State}

/-! Machine/Jobs.lean -/

@[simp] theorem clearStore_orderly (p : Nat) (hok : Orderly w0 s) : Orderly w0 (clearStore p s) :=
  ⟨hok.pending, hok.out, hok.free, fun x => memFilter_wf _ _ (hok.mem x), hok.regs, hok.ctr, hok.log, hok.logLen⟩

@[simp] theorem writeBlock_orderly (j : Job) (e : Nat) (hok : Orderly w0 s) : Orderly w0 (writeBlock j e s).2 := by
  unfold writeBlock
  repeat' split
  all_goals simp (maxDischargeDepth := 60) +contextual [hok]

@[simp] theorem traceStart_orderly (p seq t : Nat) (hok : Orderly w0 s) : Orderly w0 (traceStart p seq t s) := by
  unfold traceStart
  simp (maxDischargeDepth := 60) +contextual [hok]

@[simp] theorem restorePlayer_orderly (p : Nat) (k : Player) (v : Save) (hok : Orderly w0 s) : Orderly w0 (restorePlayer p k v s) := by
  unfold restorePlayer
  simp (maxDischargeDepth := 60) +contextual [hok]

@[simp] theorem startPlayer_orderly (id : Nat) (j : Job) (e size p rank : Nat) (hok : Orderly w0 s) : Orderly w0 (startPlayer id j e size p rank s) := by
  unfold startPlayer
  repeat' split
  all_goals simp (maxDischargeDepth := 60) +contextual [hok]

@[simp] theorem startSlice_orderly (id i n k : Nat) (pkg : Package) (hok : Orderly w0 s) : Orderly w0 (startSlice id i n k pkg s) := by
  unfold startSlice
  repeat' split
  all_goals simp (maxDischargeDepth := 60) +contextual [hok]

@[simp] theorem startTune_orderly (id i n : Nat) (pkg : Package) (t : Tuning) (hok : Orderly w0 s) : Orderly w0 (startTune id i n pkg t s) := by
  unfold startTune
  simp (maxDischargeDepth := 60) +contextual [hok]

@[simp] theorem beginWork_orderly (id : Nat) (j : Job) (hok : Orderly w0 s) : Orderly w0 (beginWork id j s) := by
  unfold beginWork
  repeat' split
  all_goals simp (maxDischargeDepth := 60) +contextual [hok]

@[simp] theorem startJob_orderly (id : Nat) (j : Job) (hok : Orderly w0 s) : Orderly w0 (startJob id j s) := by
  unfold startJob
  repeat' split
  all_goals simp (maxDischargeDepth := 60) +contextual [hok]

@[simp] theorem haltSize_orderly (i : Nat) (hok : Orderly w0 s) : Orderly w0 (haltSize i s) := by
  unfold haltSize
  simp (maxDischargeDepth := 60) +contextual [hok]

@[simp] theorem refuseEmpty_orderly (id : Nat) (j : Job) (hok : Orderly w0 s) : Orderly w0 (refuseEmpty id j s) := by
  unfold refuseEmpty
  repeat' split
  all_goals simp (maxDischargeDepth := 60) +contextual [hok]

@[simp] theorem jobDispatch_orderly (id : Nat) (hok : Orderly w0 s) : Orderly w0 (jobDispatch id s) := by
  unfold jobDispatch
  repeat' split
  all_goals simp (maxDischargeDepth := 60) +contextual [hok]

@[simp] theorem freePlayers_orderly (ps : List Nat) (hok : Orderly w0 s) : Orderly w0 (freePlayers ps s) := by
  unfold freePlayers
  simp (maxDischargeDepth := 60) +contextual [hok]

@[simp] theorem savePlayer_orderly (tensor : Bool) (base : Nat) (x : Nat × Nat) (hok : Orderly w0 s) : Orderly w0 (savePlayer tensor base s x) := by
  unfold savePlayer
  simp (maxDischargeDepth := 60) +contextual [hok]

@[simp] theorem yieldPoint_orderly (id : Nat) (j : Job) (hok : Orderly w0 s) : Orderly w0 (yieldPoint id j s) := by
  unfold yieldPoint
  dsimp only
  repeat' split
  all_goals simp (maxDischargeDepth := 60) +contextual [hok]

@[simp] theorem jobFinish_orderly (id : Nat) (j : Job) (hok : Orderly w0 s) : Orderly w0 (jobFinish id j s) := by
  unfold jobFinish
  dsimp only
  repeat' split
  all_goals simp (maxDischargeDepth := 60) +contextual [hok]

/-! Machine/Stops.lean -/

@[simp] theorem suspectPlayer_orderly (p thread id : Nat) (j : Job) (rec_ : List (Fld × Nat)) (hok : Orderly w0 s) : Orderly w0 (suspectPlayer p thread id j rec_ s) := by
  unfold suspectPlayer
  simp (maxDischargeDepth := 60) +contextual [hok]

@[simp] theorem upset_orderly (p kind cls place id : Nat) (j : Job) (hok : Orderly w0 s) : Orderly w0 (upset p kind cls place id j s) := by
  unfold upset
  dsimp only
  repeat' split
  all_goals simp (maxDischargeDepth := 60) +contextual [hok]

@[simp] theorem stopPlayer_orderly (p : Nat) (hok : Orderly w0 s) : Orderly w0 (stopPlayer p s) := by
  unfold stopPlayer
  simp (maxDischargeDepth := 60) +contextual [hok]

@[simp] theorem stopStreams_orderly (id : Nat) (j : Job) (hok : Orderly w0 s) : Orderly w0 (stopStreams id j s) := by
  unfold stopStreams
  simp (maxDischargeDepth := 60) +contextual [hok]

@[simp] theorem stopRelays_orderly (id : Nat) (hok : Orderly w0 s) : Orderly w0 (stopRelays id s) := by
  unfold stopRelays
  simp (maxDischargeDepth := 60) +contextual [hok]

@[simp] theorem stopCoder_orderly (id : Nat) (j : Job) (hok : Orderly w0 s) : Orderly w0 (stopCoder id j s) := by
  unfold stopCoder
  simp (maxDischargeDepth := 60) +contextual [hok]

@[simp] theorem stopBegin_orderly (id : Nat) (j : Job) (hok : Orderly w0 s) : Orderly w0 (stopBegin id j s) := by
  unfold stopBegin
  simp (maxDischargeDepth := 60) +contextual [hok]

@[simp] theorem restoreFrom_orderly (i n k : Nat) (j : Job) (old : Enc) (p : EncPic) (x : EncSlice) (hok : Orderly w0 s) : Orderly w0 (restoreFrom i n k j old p x s) := by
  unfold restoreFrom
  simp (maxDischargeDepth := 60) only [Orderly.ite, Orderly.mk_of, Orderly.foldl, le_refl, implies_true, done_orderly, holdInput_orderly, modEnc_orderly, modPic_orderly, uncharge_orderly, hok]

@[simp] theorem restoreSlice_orderly (i n k : Nat) (j : Job) (hok : Orderly w0 s) : Orderly w0 (restoreSlice i n k j s) := by
  unfold restoreSlice
  repeat' split
  all_goals simp (maxDischargeDepth := 60) +contextual [hok]

@[simp] theorem cancelHist_orderly (j : Job) (hok : Orderly w0 s) : Orderly w0 (cancelHist j s) := by
  unfold cancelHist
  simp (maxDischargeDepth := 60) +contextual [hok]

@[simp] theorem cancelReh_orderly (j : Job) (hok : Orderly w0 s) : Orderly w0 (cancelReh j s) := by
  unfold cancelReh
  repeat' split
  all_goals simp (maxDischargeDepth := 60) +contextual [hok]

@[simp] theorem restoreState_orderly (j : Job) (hok : Orderly w0 s) : Orderly w0 (restoreState j s) := by
  unfold restoreState
  repeat' split
  all_goals simp (maxDischargeDepth := 60) +contextual [hok]

@[simp] theorem resetChain_orderly (id : Nat) (hok : Orderly w0 s) : Orderly w0 (resetChain id s) := by
  unfold resetChain
  simp (maxDischargeDepth := 60) +contextual [hok]

@[simp] theorem retryJob_orderly (id code : Nat) (j : Job) (hok : Orderly w0 s) : Orderly w0 (retryJob id code j s) := by
  unfold retryJob
  simp (maxDischargeDepth := 60) +contextual [hok]

@[simp] theorem holdJob_orderly (id : Nat) (j : Job) (hok : Orderly w0 s) : Orderly w0 (holdJob id j s) := by
  unfold holdJob
  simp (maxDischargeDepth := 60) +contextual [hok]

@[simp] theorem releaseInputs_orderly (j : Job) (hok : Orderly w0 s) : Orderly w0 (releaseInputs j s) := by
  unfold releaseInputs
  simp (maxDischargeDepth := 60) +contextual [hok]

@[simp] theorem cancelPicture_orderly (i code retries : Nat) (hok : Orderly w0 s) : Orderly w0 (cancelPicture i code retries s) := by
  unfold cancelPicture
  repeat' split
  all_goals simp (maxDischargeDepth := 60) +contextual [hok]

@[simp] theorem concealJob_orderly (id code : Nat) (j : Job) (hok : Orderly w0 s) : Orderly w0 (concealJob id code j s) := by
  unfold concealJob
  repeat' split
  all_goals simp (maxDischargeDepth := 60) +contextual [hok]

@[simp] theorem dropDecode_orderly (id code : Nat) (j : Job) (hok : Orderly w0 s) : Orderly w0 (dropDecode id code j s) := by
  unfold dropDecode
  dsimp only
  repeat' split
  all_goals simp (maxDischargeDepth := 60) +contextual [hok]

@[simp] theorem carryCode_orderly (i code : Nat) (hok : Orderly w0 s) : Orderly w0 (carryCode i code s) := by
  unfold carryCode
  simp (maxDischargeDepth := 60) +contextual [hok]

@[simp] theorem failUnit_orderly (id code : Nat) (j : Job) (goes : Bool) (hok : Orderly w0 s) : Orderly w0 (failUnit id code j goes s) := by
  unfold failUnit
  dsimp only
  repeat' split
  all_goals simp (maxDischargeDepth := 60) +contextual [hok]

@[simp] theorem stopEnd_orderly (id : Nat) (j : Job) (code : Nat) (hok : Orderly w0 s) : Orderly w0 (stopEnd id j code s) := by
  unfold stopEnd
  dsimp only
  repeat' split
  all_goals simp (maxDischargeDepth := 60) +contextual [hok]

@[simp] theorem jobStop_orderly (id : Nat) (hok : Orderly w0 s) : Orderly w0 (jobStop id s) := by
  unfold jobStop
  repeat' split
  all_goals simp (maxDischargeDepth := 60) +contextual [hok]

@[simp] theorem drainEnd_orderly (sh : Nat) (hok : Orderly w0 s) : Orderly w0 (drainEnd sh s) := by
  unfold drainEnd
  repeat' first
    | (try lift_lets
       intro x
       first
         | (have hx : Orderly w0 x := by
              simp only [x]
              all_goals simp (maxDischargeDepth := 60) +contextual [*]
            try clear_value x)
         | (have hq : State := x; clear hq)
         | clear_value x
         | skip)
    | split
  all_goals simp (maxDischargeDepth := 60) +contextual [*]

@[simp] theorem shsDouble_orderly (offset : Nat) (job : Option Nat) (hok : Orderly w0 s) : Orderly w0 (shsDouble offset job s) := by
  unfold shsDouble
  dsimp only
  repeat' split
  all_goals simp (maxDischargeDepth := 60) +contextual [hok]

/-! Machine/Media.lean -/

@[simp] theorem flowCfg_orderly (n : Nat) (w : Word) (hok : Orderly w0 s) : Orderly w0 (flowCfg n w s) := by
  unfold flowCfg
  simp (maxDischargeDepth := 60) +contextual [hok]

@[simp] theorem rtpIn_orderly (n kind : Nat) (h : RtpHdr) (hold : Nat → Bool → State → Option State) (go : Nat → Bool → State → State) (ok_hold : ∀ x0 x1 u, Orderly w0 u → Kept (Orderly w0) (hold x0 x1 u)) (ok_go : ∀ x0 x1 u, Orderly w0 u → Orderly w0 (go x0 x1 u)) (hok : Orderly w0 s) : Orderly w0 (rtpIn n kind h hold go s) := by
  unfold rtpIn
  dsimp only
  split
  · exact hok
  split
  · simp (maxDischargeDepth := 60) [hok]
  split
  · rename_i t ht
    cases hf : s.flowChan (s.flow n) with
    | none => simp [hf] at ht
    | some i => exact ok_hold i _ s hok t (by simpa [hf] using ht)
  · split <;> simp (maxDischargeDepth := 60) [hok, ok_go]

@[simp] theorem closeInput_orderly (i num : Nat) (hok : Orderly w0 s) : Orderly w0 (closeInput i num s) := by
  unfold closeInput
  simp (maxDischargeDepth := 60) +contextual [hok]

@[simp] theorem closeFlow_orderly (n i : Nat) (hok : Orderly w0 s) : Orderly w0 (closeFlow n i s) := by
  unfold closeFlow
  dsimp only
  repeat' split
  all_goals simp (maxDischargeDepth := 60) +contextual [hok]

@[simp] theorem openFlow_orderly (n i ts : Nat) (hok : Orderly w0 s) : Orderly w0 (openFlow n i ts s) := by
  unfold openFlow
  simp (maxDischargeDepth := 60) +contextual [hok]

@[simp] theorem putSample_orderly (f : Flow) (i : Nat) (h : List Byte) (base pitch : Nat) (g : RowSeg) (x : Nat × Nat) (hok : Orderly w0 s) : Orderly w0 (putSample f i h base pitch g s x) := by
  unfold putSample
  simp (maxDischargeDepth := 60) +contextual [hok]

@[simp] theorem putSegment_orderly (n i num : Nat) (io : Io) (g : RowSeg) (hok : Orderly w0 s) : Orderly w0 (putSegment n i num io g s) := by
  unfold putSegment
  repeat' first
    | (try lift_lets
       intro x
       first
         | (have hx : Orderly w0 x := by
              simp only [x]
              all_goals simp (maxDischargeDepth := 60) +contextual [*]
            try clear_value x)
         | (have hq : State := x; clear hq)
         | clear_value x
         | skip)
    | split
  all_goals simp (maxDischargeDepth := 60) +contextual [*]

@[simp] theorem videoIn_orderly (n : Nat) (h : RtpHdr) (segs : List RowSeg) (i : Nat) (hok : Orderly w0 s) : Orderly w0 (videoIn n h segs i s) := by
  unfold videoIn
  repeat' first
    | (try lift_lets
       intro x
       first
         | (have hx : Orderly w0 x := by
              simp only [x]
              repeat' split
              all_goals simp (maxDischargeDepth := 60) +contextual [*]
            try clear_value x)
         | (have hq : State := x; clear hq)
         | clear_value x
         | skip)
    | split
  all_goals simp (maxDischargeDepth := 60) +contextual [*]

@[simp] theorem openFrame_orderly (n i : Nat) (hok : Orderly w0 s) : Orderly w0 (openFrame n i s) := by
  unfold openFrame
  simp (maxDischargeDepth := 60) +contextual [hok]

@[simp] theorem putInstant_orderly (n i : Nat) (v : Option (List Nat)) (hok : Orderly w0 s) : Orderly w0 (putInstant n i v s) := by
  unfold putInstant
  repeat' split
  all_goals simp (maxDischargeDepth := 60) only [Orderly.ite, Orderly.mk_of, Orderly.foldl, le_refl, implies_true, bump_orderly, modChan_orderly, writeVa_orderly, setFlow_orderly, inputWhole_orderly, openFrame_orderly, hok]

@[simp] theorem audioOpen_orderly (n : Nat) (h : RtpHdr) (hok : Orderly w0 s) : Orderly w0 (audioOpen n h s) := by
  unfold audioOpen
  simp (maxDischargeDepth := 60) +contextual [hok]

@[simp] theorem lostInstants_orderly (n i k : Nat) (hok : Orderly w0 s) : Orderly w0 (lostInstants n i k s) := by
  unfold lostInstants
  simp (maxDischargeDepth := 60) +contextual [hok]

@[simp] theorem audioHold_orderly (n : Nat) (h : RtpHdr) (samples : List Nat) (i : Nat) (hok : Orderly w0 s) : Kept (Orderly w0) (audioHold n h samples i s) := by
  unfold audioHold
  dsimp only
  repeat' split
  all_goals simp (maxDischargeDepth := 60) +contextual [hok]

@[simp] theorem audioIn_orderly (n : Nat) (h : RtpHdr) (samples : List Nat) (i : Nat) (hok : Orderly w0 s) : Orderly w0 (audioIn n h samples i s) := by
  unfold audioIn
  simp (maxDischargeDepth := 60) +contextual [hok]

@[simp] theorem ringIn_orderly (i pos : Nat) (l : List Byte) (hok : Orderly w0 s) : Orderly w0 (ringIn i pos l s) := by
  unfold ringIn
  repeat' split
  all_goals simp (maxDischargeDepth := 60) +contextual [hok]

@[simp] theorem takeRun_orderly (i : Nat) (l : List Byte) (hok : Orderly w0 s) : Orderly w0 (takeRun i l s) := by
  unfold takeRun
  simp (maxDischargeDepth := 60) +contextual [hok]

@[simp] theorem cutTake_orderly (code i : Nat) (l : List Byte) (hok : Orderly w0 s) : Orderly w0 (cutTake code i l s) := by
  unfold cutTake
  repeat' split
  all_goals simp (maxDischargeDepth := 60) +contextual [hok]

@[simp] theorem cutSegment_orderly (n i : Nat) (hok : Orderly w0 s) : Orderly w0 (cutSegment n i s).2 := by
  unfold cutSegment
  dsimp only
  repeat' split
  all_goals simp (maxDischargeDepth := 60) +contextual [hok]

@[simp] theorem thardaxHold_orderly (n : Nat) (payload : List Byte) (i : Nat) (gap : Bool) (hok : Orderly w0 s) : Kept (Orderly w0) (thardaxHold n payload i gap s) := by
  unfold thardaxHold
  dsimp only
  repeat' split
  all_goals simp (maxDischargeDepth := 60) +contextual [hok]

@[simp] theorem thardaxIn_orderly (n : Nat) (payload : List Byte) (i : Nat) (gap : Bool) (hok : Orderly w0 s) : Orderly w0 (thardaxIn n payload i gap s) := by
  unfold thardaxIn
  dsimp only
  repeat' split
  all_goals simp (maxDischargeDepth := 60) +contextual [hok]

/-! Machine/Clock.lean -/

@[simp] theorem stepTime_orderly (d : Int) (hok : Orderly w0 s) : Orderly w0 (stepTime d s) := by
  unfold stepTime
  simp (maxDischargeDepth := 60) +contextual [hok]

@[simp] theorem timeSet_orderly (w : Word) (hok : Orderly w0 s) : Orderly w0 (timeSet w s) := by
  unfold timeSet
  simp (maxDischargeDepth := 60) +contextual [hok]

@[simp] theorem tick_orderly (hok : Orderly w0 s) : Orderly w0 (tick s) := by
  unfold tick ppsMissing
  simp (maxDischargeDepth := 60) +contextual [hok]

@[simp] theorem setTimeState_orderly (n : Nat) (hok : Orderly w0 s) : Orderly w0 (setTimeState n s) := by
  unfold setTimeState
  simp (maxDischargeDepth := 60) +contextual [hok]

@[simp] theorem sourceSeen_orderly (hok : Orderly w0 s) : Orderly w0 (sourceSeen s) := by
  unfold sourceSeen
  simp (maxDischargeDepth := 60) +contextual [hok]

@[simp] theorem measured_orderly (off : Int) (hok : Orderly w0 s) : Orderly w0 (measured off s) := by
  unfold measured
  dsimp only
  repeat' split
  all_goals simp (maxDischargeDepth := 60) +contextual [hok]

@[simp] theorem ptpOffset_orderly (hok : Orderly w0 s) : Orderly w0 (ptpOffset s) := by
  unfold ptpOffset
  repeat' split
  all_goals simp (maxDischargeDepth := 60) +contextual [hok]

@[simp] theorem ptpMessage_orderly (port domain : Nat) (m : PtpMsg) (hok : Orderly w0 s) : Orderly w0 (ptpMessage port domain m s) := by
  unfold ptpMessage
  dsimp only
  repeat' split
  all_goals simp (maxDischargeDepth := 60) +contextual [hok]

@[simp] theorem timeCtrl_orderly (w : Word) (hok : Orderly w0 s) : Orderly w0 (timeCtrl w s) := by
  unfold timeCtrl
  simp (maxDischargeDepth := 60) +contextual [hok]

end Sys2Proof.Machine
end

