-- ==== Sys2Proof/Laws/OrderlyChip.lean ====
section
/-! SUPPORT. Orderly steps (Laws/Orderly.lean): blocks, the pair, countersigned records, register accesses, fetch. One lemma for each operation. -/

namespace Sys2Proof.Machine

variable {w0 s : State}

/-! Machine/Blocks.lean -/

@[simp] theorem resetBlock_orderly (page : Nat) (hok : Orderly w0 s) : Orderly w0 (resetBlock page s) := by
  unfold resetBlock
  repeat' split
  all_goals simp (maxDischargeDepth := 60) +contextual [hok]

@[simp] theorem loseBlock_orderly (page : Nat) (hok : Orderly w0 s) : Orderly w0 (loseBlock page s) := by
  unfold loseBlock
  repeat' split
  all_goals simp (maxDischargeDepth := 60) +contextual [hok]

@[simp] theorem takeRequests_orderly (page : Nat) (hok : Orderly w0 s) : Orderly w0 (takeRequests page s) := by
  unfold takeRequests
  simp (maxDischargeDepth := 60) +contextual [hok]

@[simp] theorem quiesceSet_orderly (page : Nat) (hok : Orderly w0 s) : Orderly w0 (quiesceSet page s) := by
  unfold quiesceSet
  simp (maxDischargeDepth := 60) +contextual [hok]

@[simp] theorem quiesceClear_orderly (page : Nat) (hok : Orderly w0 s) : Orderly w0 (quiesceClear page s) := by
  unfold quiesceClear
  simp (maxDischargeDepth := 60) +contextual [hok]

@[simp] theorem resetReq_orderly (page : Nat) (hok : Orderly w0 s) : Orderly w0 (resetReq page s) := by
  unfold resetReq
  simp (maxDischargeDepth := 60) +contextual [hok]

@[simp] theorem powerReq_orderly (page : Nat) (hok : Orderly w0 s) : Orderly w0 (powerReq page s) := by
  unfold powerReq
  simp (maxDischargeDepth := 60) +contextual [hok]

@[simp] theorem powerClear_orderly (page : Nat) (hok : Orderly w0 s) : Orderly w0 (powerClear page s) := by
  unfold powerClear
  simp (maxDischargeDepth := 60) +contextual [hok]

@[simp] theorem enableClear_orderly (page : Nat) (hok : Orderly w0 s) : Orderly w0 (enableClear page s) := by
  unfold enableClear
  simp (maxDischargeDepth := 60) +contextual [hok]

@[simp] theorem enableSet_orderly (page : Nat) (hok : Orderly w0 s) : Orderly w0 (enableSet page s) := by
  unfold enableSet
  simp (maxDischargeDepth := 60) +contextual [hok]

@[simp] theorem viewReject_orderly (hok : Orderly w0 s) : Orderly w0 (viewReject s) := by
  unfold viewReject
  simp (maxDischargeDepth := 60) +contextual [hok]

@[simp] theorem onPage_orderly (page : Nat) (all view : Bool) (f : Nat → State → State) (ok_f : ∀ x0 u, Orderly w0 u → Orderly w0 (f x0 u)) (hok : Orderly w0 s) : Orderly w0 (onPage page all view f s) := by
  unfold onPage
  repeat' split
  all_goals simp (maxDischargeDepth := 60) +contextual [hok, ok_f]

@[simp] theorem clearBank_orderly (page : Nat) (hok : Orderly w0 s) : Orderly w0 (clearBank page s) := by
  unfold clearBank
  simp (maxDischargeDepth := 60) +contextual [hok]

@[simp] theorem ctrlWord_orderly (w : Word) (page : Nat) (hok : Orderly w0 s) : Orderly w0 (ctrlWord w page s) := by
  unfold ctrlWord
  simp (maxDischargeDepth := 60) +contextual [hok]

@[simp] theorem pgCtrl_orderly (page : Nat) (w : Word) (hok : Orderly w0 s) : Orderly w0 (pgCtrl page w s) := by
  unfold pgCtrl
  repeat' split
  all_goals simp (maxDischargeDepth := 60) +contextual [hok]

/-! Machine/Pair.lean -/

@[simp] theorem setPairState_orderly (n : Nat) (hok : Orderly w0 s) : Orderly w0 (setPairState n s) := by
  unfold setPairState
  simp (maxDischargeDepth := 60) +contextual [hok]

@[simp] theorem pairJoin_orderly (hok : Orderly w0 s) : Orderly w0 (pairJoin s) := by
  unfold pairJoin
  simp (maxDischargeDepth := 60) +contextual [hok]

@[simp] theorem discardPair_orderly (hok : Orderly w0 s) : Orderly w0 (discardPair s) := by
  unfold discardPair
  simp (maxDischargeDepth := 60) +contextual [hok]

@[simp] theorem settlePair_orderly (hok : Orderly w0 s) : Orderly w0 (settlePair s) := by
  unfold settlePair
  simp (maxDischargeDepth := 60) +contextual [hok]

@[simp] theorem showLag_orderly (hok : Orderly w0 s) : Orderly w0 (showLag s) := by
  unfold showLag
  simp (maxDischargeDepth := 60) +contextual [hok]

@[simp] theorem joined_orderly (peer : List Byte) (hok : Orderly w0 s) : Orderly w0 (joined peer s) := by
  unfold joined
  simp (maxDischargeDepth := 60) +contextual [hok]

@[simp] theorem fence_orderly (hok : Orderly w0 s) : Orderly w0 (fence s) := by
  refine Orderly.foldl _ (fun a x ha => ?_) (bump_orderly _ _ _ (setPairState_orderly _ hok))
  dsimp only
  split <;> simp (maxDischargeDepth := 60) +contextual [*]

@[simp] theorem mirrorPoint_orderly (i n : Nat) (hok : Orderly w0 s) : Orderly w0 (mirrorPoint i n s) := by
  unfold mirrorPoint
  simp (maxDischargeDepth := 60) +contextual [hok]

@[simp] theorem pointChan_orderly (i : Nat) (pt : Chan) (hok : Orderly w0 s) : Orderly w0 (pointChan i pt s) := by
  unfold pointChan
  simp (maxDischargeDepth := 60) +contextual [hok]

@[simp] theorem resumeChan_orderly (i : Nat) (pt : Chan) (hok : Orderly w0 s) : Orderly w0 (resumeChan i pt s) := by
  unfold resumeChan
  dsimp only
  repeat' split
  all_goals simp (maxDischargeDepth := 60) +contextual [hok]

@[simp] theorem coldChan_orderly (i : Nat) (hok : Orderly w0 s) : Orderly w0 (coldChan i s) := by
  unfold coldChan
  simp (maxDischargeDepth := 60) +contextual [hok]

@[simp] theorem promote_orderly (c : Ctx) (x1 : Nat) (e : Entry) (hok : Orderly w0 s) : Orderly w0 (promote c x1 e s) := by
  unfold promote
  split
  · simp (maxDischargeDepth := 60) +contextual [*]
  · split
    · simp (maxDischargeDepth := 60) +contextual [*]
    · refine finish_orderly _ _ _ _ (Orderly.mk_of (Orderly.foldl _ (fun a x ha => ?_) ?_) (le_refl _))
      · repeat' split
        all_goals simp (maxDischargeDepth := 60) +contextual [*]
      · simp (maxDischargeDepth := 60) +contextual [*]

@[simp] theorem pairSingle_orderly (hok : Orderly w0 s) : Orderly w0 (pairSingle s) := by
  unfold pairSingle
  simp (maxDischargeDepth := 60) +contextual [hok]

/-! Machine/Csw.lean -/

@[simp] theorem applyFields_orderly (l : List CswItem) (hok : Orderly w0 s) : Orderly w0 (applyFields l s) := by
  refine Orderly.foldl _ (fun a x ha => ?_) hok
  split <;> simp (maxDischargeDepth := 60) +contextual [*]

@[simp] theorem relock_orderly (was : State) (hok : Orderly w0 s) : Orderly w0 (relock was s) := by
  unfold relock
  simp (maxDischargeDepth := 60) +contextual [hok]

@[simp] theorem setPolicy_orderly (p : Policy) (hok : Orderly w0 s) : Orderly w0 (setPolicy p s) := by
  unfold setPolicy
  simp (maxDischargeDepth := 60) +contextual [hok]

@[simp] theorem applyKind1_orderly (r : CswRec) (hok : Orderly w0 s) : Orderly w0 (applyKind1 r s) := by
  unfold applyKind1
  simp (maxDischargeDepth := 60) +contextual [hok]

@[simp] theorem applyKind2_orderly (r : CswRec) (hok : Orderly w0 s) : Orderly w0 (applyKind2 r s) := by
  unfold applyKind2
  simp (maxDischargeDepth := 60) +contextual [hok]

@[simp] theorem cswFail_orderly (c : Ctx) (f : CswFail) (hok : Orderly w0 s) : Orderly w0 (cswFail c f s) := by
  unfold cswFail
  simp (maxDischargeDepth := 60) +contextual [hok]

@[simp] theorem cswDone_orderly (c : Ctx) (hok : Orderly w0 s) : Orderly w0 (cswDone c s) := by
  unfold cswDone
  simp (maxDischargeDepth := 60) +contextual [hok]

@[simp] theorem countVerify_orderly (x : Except CswFail CswRec) (hok : Orderly w0 s) : Orderly w0 (countVerify x s) := by
  unfold countVerify
  repeat' split
  all_goals simp (maxDischargeDepth := 60) +contextual [hok]

@[simp] theorem cswApply_orderly (remote : List Byte) (c : Ctx) (x2 : Nat) (e : Entry) (hok : Orderly w0 s) : Orderly w0 (cswApply remote c x2 e s) := by
  unfold cswApply
  dsimp only
  repeat' split
  all_goals simp (maxDischargeDepth := 60) +contextual [hok]

@[simp] theorem repair_orderly (remote : List Byte) (c : Ctx) (x2 : Nat) (e : Entry) (hok : Orderly w0 s) : Orderly w0 (repair remote c x2 e s) := by
  unfold repair
  dsimp only
  repeat' split
  all_goals simp (maxDischargeDepth := 60) +contextual [hok]

@[simp] theorem attest_orderly (c : Ctx) (x1 : Nat) (e : Entry) (hok : Orderly w0 s) : Orderly w0 (attest c x1 e s) := by
  unfold attest
  simp (maxDischargeDepth := 60) +contextual [hok]

/-! Machine/RegRead.lean -/

@[simp] theorem regRead_orderly (page off : Nat) (hok : Orderly w0 s) : Orderly w0 (regRead page off s).2 := by
  unfold regRead
  repeat' split
  all_goals simp (maxDischargeDepth := 60) +contextual [hok]

@[simp] theorem windowRead_orderly (a n : Nat) (hok : Orderly w0 s) : Orderly w0 (windowRead a n s).2 := by
  induction n generalizing a s with
  | zero => exact hok
  | succ n ih => exact ih _ (regRead_orderly _ _ hok)

/-! Machine/RegWrite.lean -/

@[simp] theorem plainWrite_orderly (page off : Nat) (w : Word) (hok : Orderly w0 s) : Orderly w0 (plainWrite page off w s) := by
  unfold plainWrite
  repeat' split
  all_goals simp (maxDischargeDepth := 60) +contextual [hok]

@[simp] theorem errClear_orderly (page : Nat) (w : Word) (hok : Orderly w0 s) : Orderly w0 (errClear page w s) := by
  unfold errClear
  simp (maxDischargeDepth := 60) +contextual [hok]

@[simp] theorem maskWrite_orderly (page : Nat) (w : Word) (hok : Orderly w0 s) : Orderly w0 (maskWrite page w s) := by
  unfold maskWrite
  simp (maxDischargeDepth := 60) +contextual [hok]

@[simp] theorem pgErr_orderly (page : Nat) (w : Word) (hok : Orderly w0 s) : Orderly w0 (pgErr page w s) := by
  unfold pgErr
  repeat' split
  all_goals simp (maxDischargeDepth := 60) +contextual [hok]

@[simp] theorem logRd_orderly (w : Word) (hok : Orderly w0 s) : Orderly w0 (logRd w s) := by
  unfold logRd
  simp (maxDischargeDepth := 60) +contextual [hok]

@[simp] theorem dbgCtrl_orderly (p : Nat) (w : Word) (hok : Orderly w0 s) : Orderly w0 (dbgCtrl p w s) := by
  unfold dbgCtrl
  simp (maxDischargeDepth := 60) +contextual [hok]

@[simp] theorem trcWrite_orderly (p off : Nat) (w : Word) (hok : Orderly w0 s) : Orderly w0 (trcWrite p off w s) := by
  unfold trcWrite
  simp (maxDischargeDepth := 60) +contextual [hok]

@[simp] theorem ownWrite_orderly (page : Nat) (b : Blk) (off : Nat) (w : Word) (hok : Orderly w0 s) : Orderly w0 (ownWrite page b off w s) := by
  unfold ownWrite
  repeat' split
  all_goals simp (maxDischargeDepth := 60) +contextual [hok]

@[simp] theorem viewWrite_orderly (page off : Nat) (w : Word) (hok : Orderly w0 s) : Orderly w0 (viewWrite page off w s) := by
  unfold viewWrite
  simp (maxDischargeDepth := 60) +contextual [hok]

@[simp] theorem regWrite_orderly (page off : Nat) (w : Word) (hok : Orderly w0 s) : Orderly w0 (regWrite page off w s) := by
  unfold regWrite
  repeat' split
  all_goals simp (maxDischargeDepth := 60) +contextual [hok]

@[simp] theorem windowWrite_orderly (a : Nat) (l : List Word) (hok : Orderly w0 s) : Orderly w0 (windowWrite a l s) := by
  fun_induction windowWrite a l s with
  | case1 => exact hok
  | case2 => exact regWrite_orderly _ _ _ (wrote_orderly _ hok)
  | case3 a s w v t q h ih => exact ih (doorbell_orderly _ _ (wrote_orderly _ hok))
  | case4 a s w v t h ih => exact ih (regWrite_orderly _ _ _ (wrote_orderly _ hok))

/-! Machine/Responder.lean -/

@[simp] theorem refuse_orderly (q : Nat) (m : Msg) (hok : Orderly w0 s) : Orderly w0 (refuse q m s) := by
  unfold refuse
  simp (maxDischargeDepth := 60) +contextual [hok]

@[simp] theorem cleanLines_orderly (a len : Nat) (hok : Orderly w0 s) : Orderly w0 (cleanLines a len s) := by
  unfold cleanLines
  simp (maxDischargeDepth := 60) +contextual [hok]

@[simp] theorem respond_orderly (q : Nat) (m : Msg) (hok : Orderly w0 s) : Orderly w0 (respond q m s) := by
  unfold respond
  simp (maxDischargeDepth := 60) +contextual [hok]

@[simp] theorem serveRead_orderly (q key a len : Nat) (hok : Orderly w0 s) : Orderly w0 (serveRead q key a len s) := by
  unfold serveRead
  simp (maxDischargeDepth := 60) +contextual [hok]

@[simp] theorem serveWrite_orderly (q key a : Nat) (l : List Byte) (hok : Orderly w0 s) : Orderly w0 (serveWrite q key a l s) := by
  unfold serveWrite
  simp (maxDischargeDepth := 60) +contextual [hok]

@[simp] theorem rdmaRequest_orderly (q : Nat) (op : RdmaOp) (key a : Nat) (ce : Bool) (hok : Orderly w0 s) : Orderly w0 (rdmaRequest q op key a ce s) := by
  unfold rdmaRequest
  repeat' split
  all_goals simp (maxDischargeDepth := 60) +contextual [hok]

/-! Machine/Fetch.lean -/

@[simp] theorem runEntry_orderly (adm : CmdSpec → (Ctx → Nat → Entry → State → State) → State → State) (e : Entry) (pkg : Package)
    (remote : List Byte) (hadm : ∀ sp body t, (∀ c n e u, Orderly w0 u → Orderly w0 (body c n e u)) → Orderly w0 t → Orderly w0 (adm sp body t))
    (hok : Orderly w0 s) : Orderly w0 (runEntry adm e pkg remote s) := by
  unfold runEntry
  split
  all_goals refine hadm _ _ _ (fun _ _ _ _ hb => ?_) hok
  all_goals first
    | with_reducible assumption | with_reducible apply nop_orderly | with_reducible apply sqCreate_orderly | with_reducible apply sqDelete_orderly | with_reducible apply cqCreate_orderly | with_reducible apply cqDelete_orderly | with_reducible apply ensForm_orderly | with_reducible apply ensDissolve_orderly | with_reducible apply retire_orderly | with_reducible apply readmit_orderly | with_reducible apply repair_orderly | with_reducible apply promote_orderly | with_reducible apply cswApply_orderly | with_reducible apply attest_orderly | with_reducible apply chCreate_orderly | with_reducible apply chDestroy_orderly | with_reducible apply pkgLoad_orderly | with_reducible apply chBind_orderly | with_reducible apply chIo_orderly | with_reducible apply chPrepare_orderly | with_reducible apply chStart_orderly | with_reducible apply chStop_orderly | with_reducible apply chSet_orderly | with_reducible apply statsSet_orderly | with_reducible apply chEnsemble_orderly | with_reducible apply chContinue_orderly | with_reducible apply forceIntra_orderly | with_reducible apply streamInFwd_orderly | with_reducible apply outHead_orderly | with_reducible apply resume_orderly | with_reducible apply cancel_orderly | with_reducible apply tensor_orderly | with_reducible apply comp_orderly | with_reducible apply liveBind_orderly | with_reducible apply liveUnbind_orderly
  all_goals with_reducible assumption

@[simp] theorem admitEntry_orderly (q : Nat) (e : Entry) (pkg : Package) (remote : List Byte) (hok : Orderly w0 s) : Orderly w0 (admitEntry q e pkg remote s) :=
  trySqDelete_orderly _ (runEntry_orderly _ _ _ _ (fun _ _ _ hb ht => admitCmd_orderly _ _ _ _ hb ht) hok)

@[simp] theorem fetchQueue_orderly (q n : Nat) (x : Feed × State) (hok : Orderly w0 x.2) : Orderly w0 (fetchQueue q n x).2 := by
  induction n generalizing x with
  | zero => exact hok
  | succ n ih =>
    obtain ⟨f, s⟩ := x
    rw [fetchQueue]
    dsimp only at hok ⊢
    split
    · exact hok
    · split
      · exact hok
      · split
        · exact wf_orderly _ _ _ (Orderly.mk_of hok (le_refl _))
        · exact ih _ (admitEntry_orderly _ _ _ _ (wf_orderly _ _ _ (Orderly.mk_of hok (le_refl _))))

@[simp] theorem fetchTurn_orderly (f : Feed) (hok : Orderly w0 s) : Orderly w0 (fetchTurn f s) := by
  unfold fetchTurn
  simp (maxDischargeDepth := 60) +contextual [hok]

end Sys2Proof.Machine
end

