-- ==== Sys2Proof/Laws/ExecOrderly.lean ====
section
/-! SUPPORT. Each command is an orderly step (Laws/Orderly.lean). -/

namespace Sys2Proof.Machine

variable {w0 s : State}

@[simp] theorem hostWrite_orderly (n : Nat) (f : State → State) (ok_f : ∀ u, Orderly w0 u → Orderly w0 (f u)) (hok : Orderly w0 s) : Ends (Orderly w0) (hostWrite n f s) := by
  unfold hostWrite
  simp (maxDischargeDepth := 60) +contextual [hok, ok_f]

theorem execCtrSampleGo_orderly (w : Word) (hok : Orderly w0 s) : Ends (Orderly w0) (execCtrSampleGo w s) := by
  unfold execCtrSampleGo
  all_goals simp (maxDischargeDepth := 60) +contextual [hok]

theorem execCtrSampleDone_orderly (coincident : Bool) (hok : Orderly w0 s) : Ends (Orderly w0) (execCtrSampleDone coincident s) := by
  unfold execCtrSampleDone
  repeat' split
  all_goals simp (maxDischargeDepth := 60) +contextual [hok]

theorem execInputApply_orderly (cv : Nat) (hok : Orderly w0 s) : Ends (Orderly w0) (execInputApply cv s) := by
  unfold execInputApply
  repeat' split
  all_goals simp (maxDischargeDepth := 60) +contextual [hok]

theorem execInputRemoval_orderly (hok : Orderly w0 s) : Ends (Orderly w0) (execInputRemoval s) := by
  unfold execInputRemoval
  split
  · exact hok
  · refine wf_orderly _ _ _ (wf_orderly _ _ _ (setReg_orderly _ _ _ ?_))
    exact ⟨hok.pending, hok.out, hok.free, hok.mem, hok.regs, fun x => ctrOk_filter _ _ (hok.ctr x), hok.log, hok.logLen⟩

theorem execPwrEnRise_orderly (hok : Orderly w0 s) : Ends (Orderly w0) (execPwrEnRise s) := by
  unfold execPwrEnRise
  repeat' split
  all_goals simp (maxDischargeDepth := 60) +contextual [hok]

theorem execRailsInRegulation_orderly (obs : BootObs) (hok : Orderly w0 s) : Ends (Orderly w0) (execRailsInRegulation obs s) := by
  unfold execRailsInRegulation
  repeat' split
  all_goals simp (maxDischargeDepth := 60) +contextual [hok]

theorem execRailTimeout_orderly (hok : Orderly w0 s) : Ends (Orderly w0) (execRailTimeout s) := by
  unfold execRailTimeout
  repeat' split
  all_goals simp (maxDischargeDepth := 60) +contextual [hok]

theorem execPwrEnFall_orderly (hok : Orderly w0 s) : Ends (Orderly w0) (execPwrEnFall s) := by
  unfold execPwrEnFall
  repeat' split
  all_goals simp (maxDischargeDepth := 60) +contextual [hok]

theorem execModResetNAssert_orderly (ns : Nat) (hok : Orderly w0 s) : Ends (Orderly w0) (execModResetNAssert ns s) := by
  unfold execModResetNAssert
  dsimp only
  repeat' split
  all_goals simp (maxDischargeDepth := 60) +contextual [hok]

theorem execModResetNRelease_orderly (obs : BootObs) (hok : Orderly w0 s) : Ends (Orderly w0) (execModResetNRelease obs s) := by
  unfold execModResetNRelease
  repeat' split
  all_goals simp (maxDischargeDepth := 60) +contextual [hok]

theorem execUndervoltageStop_orderly (hok : Orderly w0 s) : Ends (Orderly w0) (execUndervoltageStop s) := by
  unfold execUndervoltageStop
  repeat' split
  all_goals simp (maxDischargeDepth := 60) +contextual [hok]

theorem execOvervoltageStop_orderly (hok : Orderly w0 s) : Ends (Orderly w0) (execOvervoltageStop s) := by
  unfold execOvervoltageStop
  repeat' split
  all_goals simp (maxDischargeDepth := 60) +contextual [hok]

theorem execOvercurrentStop_orderly (hok : Orderly w0 s) : Ends (Orderly w0) (execOvercurrentStop s) := by
  unfold execOvercurrentStop
  repeat' split
  all_goals simp (maxDischargeDepth := 60) +contextual [hok]

theorem execPowerSample_orderly (cv ma : Nat) (hok : Orderly w0 s) : Ends (Orderly w0) (execPowerSample cv ma s) := by
  unfold execPowerSample
  dsimp only
  repeat' split
  all_goals simp (maxDischargeDepth := 60) +contextual [hok]

theorem execTempSample_orderly (die : List Nat) (plate : Nat) (hok : Orderly w0 s) : Ends (Orderly w0) (execTempSample die plate s) := by
  unfold execTempSample
  dsimp only
  repeat' split
  all_goals simp (maxDischargeDepth := 60) +contextual [hok]

theorem execPllLockLoss_orderly (memory : Bool) (hok : Orderly w0 s) : Ends (Orderly w0) (execPllLockLoss memory s) := by
  unfold execPllLockLoss
  repeat' split
  all_goals simp (maxDischargeDepth := 60) +contextual [hok]

theorem execEthPllLockLoss_orderly (hok : Orderly w0 s) : Ends (Orderly w0) (execEthPllLockLoss s) := by
  unfold execEthPllLockLoss
  repeat' split
  all_goals simp (maxDischargeDepth := 60) +contextual [hok]

theorem execHello_orderly (h : LoadHdr) (imageLen qp psn key : Nat) (hok : Orderly w0 s) : Ends (Orderly w0) (execHello h imageLen qp psn key s) := by
  unfold execHello
  repeat' split
  all_goals simp (maxDischargeDepth := 60) +contextual [hok]

theorem execData_orderly (h : LoadHdr) (offset : Nat) (bytes : List Byte) (hok : Orderly w0 s) : Ends (Orderly w0) (execData h offset bytes s) := by
  unfold execData
  dsimp only
  repeat' split
  all_goals simp (maxDischargeDepth := 60) +contextual [hok]

theorem execEndImage_orderly (h : LoadHdr) (hok : Orderly w0 s) : Ends (Orderly w0) (execEndImage h s) := by
  unfold execEndImage
  dsimp only
  repeat' split
  all_goals simp (maxDischargeDepth := 60) +contextual [hok]

theorem execAbortLoad_orderly (h : LoadHdr) (hok : Orderly w0 s) : Ends (Orderly w0) (execAbortLoad h s) := by
  unfold execAbortLoad
  repeat' split
  all_goals simp (maxDischargeDepth := 60) +contextual [hok]

theorem execImageVerifyDone_orderly (hok : Orderly w0 s) : Ends (Orderly w0) (execImageVerifyDone s) := by
  unfold execImageVerifyDone
  dsimp only
  repeat' split
  all_goals simp (maxDischargeDepth := 60) +contextual [hok]

theorem execOperational_orderly (ms : Nat) (hok : Orderly w0 s) : Ends (Orderly w0) (execOperational ms s) := by
  unfold execOperational
  repeat' split
  all_goals simp (maxDischargeDepth := 60) +contextual [hok]

theorem execFrameReceive_orderly (port : Fin 4) (pcp : Option (Fin 8)) (dscp : Fin 64) (len : Nat) (rtcp ce : Bool) (drained : Nat) (hok : Orderly w0 s) : Ends (Orderly w0) (execFrameReceive port pcp dscp len rtcp ce drained s) := by
  unfold execFrameReceive
  dsimp only
  repeat' split
  all_goals simp (maxDischargeDepth := 60) +contextual [hok]

theorem execPfcRefresh_orderly (hok : Orderly w0 s) : Ends (Orderly w0) (execPfcRefresh s) := by
  unfold execPfcRefresh
  all_goals simp (maxDischargeDepth := 60) +contextual [hok]

theorem execPfcResume_orderly (port : Fin 4) (prio : Fin 8) (drained : Nat) (hok : Orderly w0 s) : Ends (Orderly w0) (execPfcResume port prio drained s) := by
  unfold execPfcResume
  dsimp only
  repeat' split
  all_goals simp (maxDischargeDepth := 60) +contextual [hok]

theorem execPauseReceive_orderly (port : Fin 4) (prio : Fin 8) (quanta : BitVec 16) (hok : Orderly w0 s) : Ends (Orderly w0) (execPauseReceive port prio quanta s) := by
  unfold execPauseReceive
  dsimp only
  repeat' split
  all_goals simp (maxDischargeDepth := 60) +contextual [hok]

theorem execPfcWatchdog_orderly (port : Fin 4) (prio : Fin 8) (hok : Orderly w0 s) : Ends (Orderly w0) (execPfcWatchdog port prio s) := by
  unfold execPfcWatchdog
  dsimp only
  repeat' split
  all_goals simp (maxDischargeDepth := 60) +contextual [hok]

theorem execLinkChange_orderly (port : Fin 4) (up : Bool) (hok : Orderly w0 s) : Ends (Orderly w0) (execLinkChange port up s) := by
  unfold execLinkChange
  repeat' split
  all_goals simp (maxDischargeDepth := 60) +contextual [hok]

theorem execEthCtrlWrite_orderly (port : Fin 4) (w : Word) (hok : Orderly w0 s) : Ends (Orderly w0) (execEthCtrlWrite port w s) := by
  unfold execEthCtrlWrite
  all_goals simp (maxDischargeDepth := 60) +contextual [hok]

theorem execRdmaAckReceive_orderly (qp : Fin 4096) (n : Nat) (bytes : List Byte) (ce : Bool) (hok : Orderly w0 s) : Ends (Orderly w0) (execRdmaAckReceive qp n bytes ce s) := by
  unfold execRdmaAckReceive
  dsimp only
  repeat' split
  all_goals simp (maxDischargeDepth := 60) +contextual [hok]

theorem execRdmaRetransmit_orderly (qp : Fin 4096) (hok : Orderly w0 s) : Ends (Orderly w0) (execRdmaRetransmit qp s) := by
  unfold execRdmaRetransmit
  all_goals simp (maxDischargeDepth := 60) +contextual [hok]

theorem execRdmaNakReceive_orderly (qp : Fin 4096) (kind : Nak) (hok : Orderly w0 s) : Ends (Orderly w0) (execRdmaNakReceive qp kind s) := by
  unfold execRdmaNakReceive
  dsimp only
  repeat' split
  all_goals simp (maxDischargeDepth := 60) +contextual [hok]

theorem execCnpReceive_orderly (qp : Fin 4096) (hok : Orderly w0 s) : Ends (Orderly w0) (execCnpReceive qp s) := by
  unfold execCnpReceive
  dsimp only
  repeat' split
  all_goals simp (maxDischargeDepth := 60) +contextual [hok]

theorem execCcRateRise_orderly (qp : Fin 4096) (hok : Orderly w0 s) : Ends (Orderly w0) (execCcRateRise qp s) := by
  unfold execCcRateRise
  dsimp only
  repeat' split
  all_goals simp (maxDischargeDepth := 60) +contextual [hok]

theorem execQpReset_orderly (qp : Fin 4096) (w : Word) (hok : Orderly w0 s) : Ends (Orderly w0) (execQpReset qp w s) := by
  unfold execQpReset
  all_goals simp (maxDischargeDepth := 60) +contextual [hok]

theorem execQpReady_orderly (qp : Fin 4096) (w : Word) (hok : Orderly w0 s) : Ends (Orderly w0) (execQpReady qp w s) := by
  unfold execQpReady
  all_goals simp (maxDischargeDepth := 60) +contextual [hok]

theorem execQpCfgWrite_orderly (qp : Fin 4096) (w : Word) (hok : Orderly w0 s) : Ends (Orderly w0) (execQpCfgWrite qp w s) := by
  unfold execQpCfgWrite
  all_goals simp (maxDischargeDepth := 60) +contextual [hok]

theorem execXltInvalidate_orderly (w : Word) (hok : Orderly w0 s) : Ends (Orderly w0) (execXltInvalidate w s) := by
  unfold execXltInvalidate
  all_goals simp (maxDischargeDepth := 60) +contextual [hok]

theorem execXltInvalDone_orderly (hok : Orderly w0 s) : Ends (Orderly w0) (execXltInvalDone s) := by
  unfold execXltInvalDone
  repeat' split
  all_goals simp (maxDischargeDepth := 60) +contextual [hok]

theorem execLpddrRead_orderly (a : Nat) (job : Option Nat) (ecc : Ecc) (hok : Orderly w0 s) : Ends (Orderly w0) (execLpddrRead a job ecc s) := by
  unfold execLpddrRead
  dsimp only
  repeat' split
  all_goals simp (maxDischargeDepth := 60) +contextual [hok]

theorem execLpddrWrite_orderly (a off : Nat) (bytes : List Byte) (job : Option Nat) (ecc : Ecc) (hok : Orderly w0 s) : Ends (Orderly w0) (execLpddrWrite a off bytes job ecc s) := by
  unfold execLpddrWrite
  dsimp only
  repeat' split
  all_goals simp (maxDischargeDepth := 60) +contextual [hok]

theorem execScrubLine_orderly (a : Nat) (ecc : Ecc) (raced : Bool) (hok : Orderly w0 s) : Ends (Orderly w0) (execScrubLine a ecc raced s) := by
  unfold execScrubLine
  dsimp only
  repeat' split
  all_goals simp (maxDischargeDepth := 60) +contextual [hok]

theorem execNop_orderly (q : Fin 256) (e : Entry) (hok : Orderly w0 s) : Ends (Orderly w0) (execNop q e s) := by
  unfold execNop
  all_goals simp (maxDischargeDepth := 60) +contextual [hok]

theorem execSqCreate_orderly (q : Fin 256) (e : Entry) (hok : Orderly w0 s) : Ends (Orderly w0) (execSqCreate q e s) := by
  unfold execSqCreate
  all_goals simp (maxDischargeDepth := 60) +contextual [hok]

theorem execSqDelete_orderly (q : Fin 256) (e : Entry) (hok : Orderly w0 s) : Ends (Orderly w0) (execSqDelete q e s) := by
  unfold execSqDelete
  all_goals simp (maxDischargeDepth := 60) +contextual [hok]

theorem execCqCreate_orderly (q : Fin 256) (e : Entry) (hok : Orderly w0 s) : Ends (Orderly w0) (execCqCreate q e s) := by
  unfold execCqCreate
  all_goals simp (maxDischargeDepth := 60) +contextual [hok]

theorem execCqDelete_orderly (q : Fin 256) (e : Entry) (hok : Orderly w0 s) : Ends (Orderly w0) (execCqDelete q e s) := by
  unfold execCqDelete
  all_goals simp (maxDischargeDepth := 60) +contextual [hok]

theorem execDoorbell_orderly (q : Fin 256) (d : Dword) (hok : Orderly w0 s) : Ends (Orderly w0) (execDoorbell q d s) := by
  unfold execDoorbell
  all_goals simp (maxDischargeDepth := 60) +contextual [hok]

theorem execCqHeadWrite_orderly (r : Fin 256) (w : Word) (hok : Orderly w0 s) : Ends (Orderly w0) (execCqHeadWrite r w s) := by
  unfold execCqHeadWrite
  all_goals simp (maxDischargeDepth := 60) +contextual [hok]

theorem execQ0EnSet_orderly (hok : Orderly w0 s) : Ends (Orderly w0) (execQ0EnSet s) := by
  unfold execQ0EnSet
  all_goals simp (maxDischargeDepth := 60) +contextual [hok]

theorem execQ0EnTakeEffect_orderly (hok : Orderly w0 s) : Ends (Orderly w0) (execQ0EnTakeEffect s) := by
  unfold execQ0EnTakeEffect
  dsimp only
  repeat' split
  all_goals simp (maxDischargeDepth := 60) +contextual [hok]

theorem execQ0EnClear_orderly (hok : Orderly w0 s) : Ends (Orderly w0) (execQ0EnClear s) := by
  unfold execQ0EnClear
  all_goals simp (maxDischargeDepth := 60) +contextual [hok]

theorem execCompletionWordWrite_orderly (r : Fin 256) (hok : Orderly w0 s) : Ends (Orderly w0) (execCompletionWordWrite r s) := by
  unfold execCompletionWordWrite
  dsimp only
  repeat' split
  all_goals simp (maxDischargeDepth := 60) +contextual [hok]

theorem execCompletionWriteFail_orderly (r : Fin 256) (hok : Orderly w0 s) : Ends (Orderly w0) (execCompletionWriteFail r s) := by
  unfold execCompletionWriteFail
  repeat' split
  all_goals simp (maxDischargeDepth := 60) +contextual [hok]

theorem execHifChProbeWrite_orderly (w : Word) (hok : Orderly w0 s) : Ends (Orderly w0) (execHifChProbeWrite w s) := by
  unfold execHifChProbeWrite
  all_goals simp (maxDischargeDepth := 60) +contextual [hok]

theorem execContextSwap_orderly (handle : Word) (hok : Orderly w0 s) : Ends (Orderly w0) (execContextSwap handle s) := by
  unfold execContextSwap
  split
  · exact hok
  · dsimp only
    split
    · exact hok
    · split
      · exact takeSlot_orderly ‹_› hok
      · simp [hok]

theorem execEnsForm_orderly (q : Fin 256) (e : Entry) (hok : Orderly w0 s) : Ends (Orderly w0) (execEnsForm q e s) := by
  unfold execEnsForm
  all_goals simp (maxDischargeDepth := 60) +contextual [hok]

theorem execEnsDissolve_orderly (q : Fin 256) (e : Entry) (hok : Orderly w0 s) : Ends (Orderly w0) (execEnsDissolve q e s) := by
  unfold execEnsDissolve
  all_goals simp (maxDischargeDepth := 60) +contextual [hok]

theorem execRetire_orderly (q : Fin 256) (e : Entry) (hok : Orderly w0 s) : Ends (Orderly w0) (execRetire q e s) := by
  unfold execRetire
  all_goals simp (maxDischargeDepth := 60) +contextual [hok]

theorem execReadmit_orderly (q : Fin 256) (e : Entry) (hok : Orderly w0 s) : Ends (Orderly w0) (execReadmit q e s) := by
  unfold execReadmit
  all_goals simp (maxDischargeDepth := 60) +contextual [hok]

theorem execChCreate_orderly (q : Fin 256) (e : Entry) (hok : Orderly w0 s) : Ends (Orderly w0) (execChCreate q e s) := by
  unfold execChCreate
  all_goals simp (maxDischargeDepth := 60) +contextual [hok]

theorem execChSet_orderly (q : Fin 256) (e : Entry) (hok : Orderly w0 s) : Ends (Orderly w0) (execChSet q e s) := by
  unfold execChSet
  all_goals simp (maxDischargeDepth := 60) +contextual [hok]

theorem execStatsSet_orderly (q : Fin 256) (e : Entry) (hok : Orderly w0 s) : Ends (Orderly w0) (execStatsSet q e s) := by
  unfold execStatsSet
  all_goals simp (maxDischargeDepth := 60) +contextual [hok]

theorem execChEnsemble_orderly (q : Fin 256) (e : Entry) (hok : Orderly w0 s) : Ends (Orderly w0) (execChEnsemble q e s) := by
  unfold execChEnsemble
  all_goals simp (maxDischargeDepth := 60) +contextual [hok]

theorem execChContinue_orderly (q : Fin 256) (e : Entry) (hok : Orderly w0 s) : Ends (Orderly w0) (execChContinue q e s) := by
  unfold execChContinue
  all_goals simp (maxDischargeDepth := 60) +contextual [hok]

theorem execCancel_orderly (q : Fin 256) (e : Entry) (hok : Orderly w0 s) : Ends (Orderly w0) (execCancel q e s) := by
  unfold execCancel
  all_goals simp (maxDischargeDepth := 60) +contextual [hok]

theorem execTrcEnable_orderly (p : Fin 68) (w : Word) (hok : Orderly w0 s) : Ends (Orderly w0) (execTrcEnable p w s) := by
  unfold execTrcEnable
  all_goals simp (maxDischargeDepth := 60) +contextual [hok]

theorem execTrcArm_orderly (p : Fin 68) (w : Word) (hok : Orderly w0 s) : Ends (Orderly w0) (execTrcArm p w s) := by
  unfold execTrcArm
  all_goals simp (maxDischargeDepth := 60) +contextual [hok]

theorem execTrcNow_orderly (p : Fin 68) (w : Word) (hok : Orderly w0 s) : Ends (Orderly w0) (execTrcNow p w s) := by
  unfold execTrcNow
  all_goals simp (maxDischargeDepth := 60) +contextual [hok]

theorem execTraceDrain_orderly (p : Fin 68) (hok : Orderly w0 s) : Ends (Orderly w0) (execTraceDrain p s) := by
  unfold execTraceDrain
  dsimp only
  repeat' split
  all_goals simp (maxDischargeDepth := 60) +contextual [hok]

theorem execTraceSyncPeriod_orderly (p : Fin 68) (hok : Orderly w0 s) : Ends (Orderly w0) (execTraceSyncPeriod p s) := by
  unfold execTraceSyncPeriod
  dsimp only
  repeat' split
  all_goals simp (maxDischargeDepth := 60) +contextual [hok]

theorem execDbgHalt_orderly (p : Fin 68) (t : Fin 8) (hok : Orderly w0 s) : Ends (Orderly w0) (execDbgHalt p t s) := by
  unfold execDbgHalt
  all_goals simp (maxDischargeDepth := 60) +contextual [hok]

theorem execDbgResume_orderly (p : Fin 68) (t : Fin 8) (hok : Orderly w0 s) : Ends (Orderly w0) (execDbgResume p t s) := by
  unfold execDbgResume
  all_goals simp (maxDischargeDepth := 60) +contextual [hok]

theorem execDbgStep_orderly (p : Fin 68) (t : Fin 8) (hok : Orderly w0 s) : Ends (Orderly w0) (execDbgStep p t s) := by
  unfold execDbgStep
  all_goals simp (maxDischargeDepth := 60) +contextual [hok]

theorem execDbgDataWrite_orderly (hi : Bool) (w : Word) (hok : Orderly w0 s) : Ends (Orderly w0) (execDbgDataWrite hi w s) := by
  unfold execDbgDataWrite
  all_goals simp (maxDischargeDepth := 60) +contextual [hok]

theorem execInstructionRetire_orderly (p : Fin 68) (t : Fin 8) (hok : Orderly w0 s) : Ends (Orderly w0) (execInstructionRetire p t s) := by
  unfold execInstructionRetire
  repeat' split
  all_goals simp (maxDischargeDepth := 60) +contextual [hok]

theorem execCueIssue_orderly (p : Fin 68) (t : Fin 8) (hok : Orderly w0 s) : Ends (Orderly w0) (execCueIssue p t s) := by
  unfold execCueIssue
  repeat' split
  all_goals simp (maxDischargeDepth := 60) +contextual [hok]

theorem execCueIssueUnpark_orderly (p : Fin 68) (t : Fin 8) (hok : Orderly w0 s) : Ends (Orderly w0) (execCueIssueUnpark p t s) := by
  unfold execCueIssueUnpark
  dsimp only
  repeat' split
  all_goals simp (maxDischargeDepth := 60) +contextual [hok]

theorem execCueTry_orderly (p : Fin 68) (t : Fin 8) (hok : Orderly w0 s) : Ends (Orderly w0) (execCueTry p t s) := by
  unfold execCueTry
  repeat' split
  all_goals simp (maxDischargeDepth := 60) +contextual [hok]

theorem execSemWait_orderly (p : Fin 68) (t : Fin 8) (hok : Orderly w0 s) : Ends (Orderly w0) (execSemWait p t s) := by
  unfold execSemWait
  repeat' split
  all_goals simp (maxDischargeDepth := 60) +contextual [hok]

theorem execSemWaitTake_orderly (p : Fin 68) (t : Fin 8) (hok : Orderly w0 s) : Ends (Orderly w0) (execSemWaitTake p t s) := by
  unfold execSemWaitTake
  dsimp only
  repeat' split
  all_goals simp (maxDischargeDepth := 60) +contextual [hok]

theorem execSemTry_orderly (p : Fin 68) (t : Fin 8) (hok : Orderly w0 s) : Ends (Orderly w0) (execSemTry p t s) := by
  unfold execSemTry
  repeat' split
  all_goals simp (maxDischargeDepth := 60) +contextual [hok]

theorem execSemRead_orderly (p : Fin 68) (t : Fin 8) (hok : Orderly w0 s) : Ends (Orderly w0) (execSemRead p t s) := by
  unfold execSemRead
  repeat' split
  all_goals simp (maxDischargeDepth := 60) +contextual [hok]

theorem execSemPost_orderly (p : Fin 68) (t : Fin 8) (hok : Orderly w0 s) : Ends (Orderly w0) (execSemPost p t s) := by
  unfold execSemPost
  repeat' split
  all_goals simp (maxDischargeDepth := 60) +contextual [hok]

theorem execRemotePostArrive_orderly (p src : Fin 68) (hok : Orderly w0 s) : Ends (Orderly w0) (execRemotePostArrive p src s) := by
  unfold execRemotePostArrive
  dsimp only
  repeat' split
  all_goals simp (maxDischargeDepth := 60) +contextual [hok]

theorem execFenceCue_orderly (p : Fin 68) (t : Fin 8) (hok : Orderly w0 s) : Ends (Orderly w0) (execFenceCue p t s) := by
  unfold execFenceCue
  repeat' split
  all_goals simp (maxDischargeDepth := 60) +contextual [hok]

theorem execFenceCueRelease_orderly (p : Fin 68) (t : Fin 8) (hok : Orderly w0 s) : Ends (Orderly w0) (execFenceCueRelease p t s) := by
  unfold execFenceCueRelease
  dsimp only
  repeat' split
  all_goals simp (maxDischargeDepth := 60) +contextual [hok]

theorem execBar_orderly (p : Fin 68) (t : Fin 8) (hok : Orderly w0 s) : Ends (Orderly w0) (execBar p t s) := by
  unfold execBar
  repeat' split
  all_goals simp (maxDischargeDepth := 60) +contextual [hok]

theorem execYield_orderly (p : Fin 68) (t : Fin 8) (hok : Orderly w0 s) : Ends (Orderly w0) (execYield p t s) := by
  unfold execYield
  repeat' split
  all_goals simp (maxDischargeDepth := 60) +contextual [hok]

theorem execJobEnd_orderly (p : Fin 68) (t : Fin 8) (hok : Orderly w0 s) : Ends (Orderly w0) (execJobEnd p t s) := by
  unfold execJobEnd
  repeat' split
  all_goals simp (maxDischargeDepth := 60) +contextual [hok]

theorem execCueNop_orderly (p : Fin 68) (cls : Nat) (hok : Orderly w0 s) : Ends (Orderly w0) (execCueNop p cls s) := by
  unfold execCueNop
  repeat' split
  all_goals simp (maxDischargeDepth := 60) +contextual [hok]

theorem execMacPsum_orderly (p : Fin 68) (hok : Orderly w0 s) : Ends (Orderly w0) (execMacPsum p s) := by
  unfold execMacPsum
  dsimp only
  repeat' split
  all_goals simp (maxDischargeDepth := 60) +contextual [hok]

@[simp] theorem runVec_orderly (op : Nat) (body : Nat → VecJob → State → State) (p : Fin 68) (ok_body : ∀ x0 x1 u, Orderly w0 u → Orderly w0 (body x0 x1 u)) (hok : Orderly w0 s) : Ends (Orderly w0) (runVec op body p s) := by
  unfold runVec
  dsimp only
  repeat' split
  all_goals simp (maxDischargeDepth := 60) +contextual [hok, ok_body]

theorem execVecElt_orderly (p : Fin 68) (hok : Orderly w0 s) : Ends (Orderly w0) (execVecElt p s) := by
  unfold execVecElt
  simp (maxDischargeDepth := 60) +contextual [hok]

theorem execVecFunc_orderly (p : Fin 68) (hok : Orderly w0 s) : Ends (Orderly w0) (execVecFunc p s) := by
  unfold execVecFunc
  simp (maxDischargeDepth := 60) +contextual [hok]

theorem execVecConv_orderly (p : Fin 68) (hok : Orderly w0 s) : Ends (Orderly w0) (execVecConv p s) := by
  unfold execVecConv
  simp (maxDischargeDepth := 60) +contextual [hok]

theorem execVecScale_orderly (p : Fin 68) (hok : Orderly w0 s) : Ends (Orderly w0) (execVecScale p s) := by
  unfold execVecScale
  simp (maxDischargeDepth := 60) +contextual [hok]

theorem execVecAdam_orderly (p : Fin 68) (hok : Orderly w0 s) : Ends (Orderly w0) (execVecAdam p s) := by
  unfold execVecAdam
  simp (maxDischargeDepth := 60) +contextual [hok]

theorem execVecWarp_orderly (p : Fin 68) (hok : Orderly w0 s) : Ends (Orderly w0) (execVecWarp p s) := by
  unfold execVecWarp
  simp (maxDischargeDepth := 60) +contextual [hok]

theorem execVecReduce_orderly (p : Fin 68) (hok : Orderly w0 s) : Ends (Orderly w0) (execVecReduce p s) := by
  unfold execVecReduce
  simp (maxDischargeDepth := 60) +contextual [hok]

theorem execVecMove_orderly (p : Fin 68) (hok : Orderly w0 s) : Ends (Orderly w0) (execVecMove p s) := by
  unfold execVecMove
  simp (maxDischargeDepth := 60) +contextual [hok]

theorem execVecQlat_orderly (p : Fin 68) (hok : Orderly w0 s) : Ends (Orderly w0) (execVecQlat p s) := by
  unfold execVecQlat
  simp (maxDischargeDepth := 60) +contextual [hok]

@[simp] theorem runTab_orderly (op : Nat) (f : State → Nat → Nat → Int → Int) (ok : State → Nat → Nat → Bool) (p : Fin 68) (hok : Orderly w0 s) : Ends (Orderly w0) (runTab op f ok p s) := by
  unfold runTab
  dsimp only
  repeat' split
  all_goals simp (maxDischargeDepth := 60) +contextual [hok]

theorem execTabLookup_orderly (p : Fin 68) (hok : Orderly w0 s) : Ends (Orderly w0) (execTabLookup p s) :=
  runTab_orderly _ _ _ _ hok

theorem execTabBucket_orderly (p : Fin 68) (hok : Orderly w0 s) : Ends (Orderly w0) (execTabBucket p s) :=
  runTab_orderly _ _ _ _ hok

@[simp] theorem runTre_orderly (op mode : Nat) (check : Nat → QCue → TreFrame → State → State) (p : Fin 68) (ok_check : ∀ x0 x1 x2 u, Orderly w0 u → Orderly w0 (check x0 x1 x2 u)) (hok : Orderly w0 s) : Ends (Orderly w0) (runTre op mode check p s) := by
  unfold runTre
  dsimp only
  repeat' split
  all_goals simp (maxDischargeDepth := 60) +contextual [hok, ok_check]

theorem execTreNttconv_orderly (p : Fin 68) (hok : Orderly w0 s) : Ends (Orderly w0) (execTreNttconv p s) := by
  unfold execTreNttconv
  simp (maxDischargeDepth := 60) +contextual [hok]

theorem execTreFftconv_orderly (p : Fin 68) (hok : Orderly w0 s) : Ends (Orderly w0) (execTreFftconv p s) := by
  unfold execTreFftconv
  simp (maxDischargeDepth := 60) +contextual [hok]

theorem execTreFft_orderly (p : Fin 68) (hok : Orderly w0 s) : Ends (Orderly w0) (execTreFft p s) := by
  unfold execTreFft
  simp (maxDischargeDepth := 60) +contextual [hok]

theorem execTreIfft_orderly (p : Fin 68) (hok : Orderly w0 s) : Ends (Orderly w0) (execTreIfft p s) := by
  unfold execTreIfft
  simp (maxDischargeDepth := 60) +contextual [hok]

theorem execCueComplete_orderly (p : Fin 68) (cls : Nat) (hok : Orderly w0 s) : Ends (Orderly w0) (execCueComplete p cls s) := by
  unfold execCueComplete
  repeat' split
  all_goals simp (maxDischargeDepth := 60) +contextual [hok]

theorem execCreditGrant_orderly (n : Nat) (hok : Orderly w0 s) : Ends (Orderly w0) (execCreditGrant n s) := by
  unfold execCreditGrant
  repeat' split
  all_goals simp (maxDischargeDepth := 60) +contextual [hok]

theorem execHandoverTile_orderly (n : Nat) (num : Fin 64) (bytes : List Byte) (hok : Orderly w0 s) : Ends (Orderly w0) (execHandoverTile n num bytes s) := by
  unfold execHandoverTile
  repeat' split
  all_goals simp (maxDischargeDepth := 60) +contextual [hok]

theorem execCreditReturn_orderly (n : Nat) (num : Fin 64) (hok : Orderly w0 s) : Ends (Orderly w0) (execCreditReturn n num s) := by
  unfold execCreditReturn
  repeat' split
  all_goals simp (maxDischargeDepth := 60) +contextual [hok]

theorem execHoPoolWrite_orderly (w : Word) (hok : Orderly w0 s) : Ends (Orderly w0) (execHoPoolWrite w s) := by
  unfold execHoPoolWrite
  all_goals simp (maxDischargeDepth := 60) +contextual [hok]

theorem execGatherWrite_orderly (w : Word) (hok : Orderly w0 s) : Ends (Orderly w0) (execGatherWrite w s) := by
  unfold execGatherWrite
  all_goals simp (maxDischargeDepth := 60) +contextual [hok]

theorem execShdStart_orderly (by_ : Starter) (hok : Orderly w0 s) : Ends (Orderly w0) (execShdStart by_ s) := by
  unfold execShdStart
  repeat' split
  all_goals simp (maxDischargeDepth := 60) +contextual [hok]

theorem execShdClose_orderly (p : Fin 68) (hok : Orderly w0 s) : Ends (Orderly w0) (execShdClose p s) := by
  unfold execShdClose
  all_goals simp (maxDischargeDepth := 60) +contextual [hok]

theorem execStreamTileDone_orderly (sh : Nat) (slot : Fin 6) (far idx : List Byte) (hok : Orderly w0 s) : Ends (Orderly w0) (execStreamTileDone sh slot far idx s) := by
  unfold execStreamTileDone
  all_goals simp (maxDischargeDepth := 60) +contextual [hok]

theorem execStreamPassEnd_orderly (sh : Nat) (slot : Fin 6) (hok : Orderly w0 s) : Ends (Orderly w0) (execStreamPassEnd sh slot s) := by
  unfold execStreamPassEnd
  repeat' split
  all_goals simp (maxDischargeDepth := 60) +contextual [hok]

theorem execStreamHalt_orderly (sh : Nat) (slot : Fin 6) (far idx : List Byte) (at_ : SharedAt) (hok : Orderly w0 s) : Ends (Orderly w0) (execStreamHalt sh slot far idx at_ s) := by
  unfold execStreamHalt
  all_goals simp (maxDischargeDepth := 60) +contextual [hok]

theorem execHaltTimeout_orderly (sh : Nat) (slot : Fin 6) (hok : Orderly w0 s) : Ends (Orderly w0) (execHaltTimeout sh slot s) := by
  unfold execHaltTimeout
  dsimp only
  repeat' split
  all_goals simp (maxDischargeDepth := 60) +contextual [hok]

theorem execResume_orderly (q : Fin 256) (e : Entry) (hok : Orderly w0 s) : Ends (Orderly w0) (execResume q e s) := by
  unfold execResume
  all_goals simp (maxDischargeDepth := 60) +contextual [hok]

theorem execFetchStart_orderly (hok : Orderly w0 s) : Ends (Orderly w0) (execFetchStart s) := by
  unfold execFetchStart
  dsimp only
  repeat' split
  all_goals simp (maxDischargeDepth := 60) +contextual [hok]

theorem execFetchComplete_orderly (id : Nat) (hok : Orderly w0 s) : Ends (Orderly w0) (execFetchComplete id s) := by
  unfold execFetchComplete
  repeat' split
  all_goals simp (maxDischargeDepth := 60) +contextual [hok]

theorem execXltWalk_orderly (handle : Word) (va : Dword) (write halts : Bool) (job : Option Nat) (hok : Orderly w0 s) : Ends (Orderly w0) (execXltWalk handle va write halts job s) := by
  unfold execXltWalk
  dsimp only
  repeat' split
  all_goals simp (maxDischargeDepth := 60) +contextual [hok]

theorem execRelayAccept_orderly (p : Fin 68) (hok : Orderly w0 s) : Ends (Orderly w0) (execRelayAccept p s) := by
  unfold execRelayAccept
  dsimp only
  repeat' split
  all_goals first
    | (simp (maxDischargeDepth := 60) [hok]; done)
    | (refine armStream_orderly _ _ _ _ _ (fun u hu => ?_) hok
       split <;> simp (maxDischargeDepth := 60) [hok, hu])

theorem execShdRearm_orderly (p : Fin 68) (hok : Orderly w0 s) : Ends (Orderly w0) (execShdRearm p s) := by
  unfold execShdRearm
  all_goals simp (maxDischargeDepth := 60) +contextual [hok]

theorem execRelaySliceSend_orderly (w : Fin 4) (far : List Byte) (hok : Orderly w0 s) : Ends (Orderly w0) (execRelaySliceSend w far s) := by
  unfold execRelaySliceSend
  dsimp only
  repeat' split
  all_goals simp (maxDischargeDepth := 60) +contextual [hok]

theorem execRelaySliceArrive_orderly (w : Fin 4) (k : Nat) (hok : Orderly w0 s) : Ends (Orderly w0) (execRelaySliceArrive w k s) := by
  unfold execRelaySliceArrive
  dsimp only
  repeat' split
  all_goals simp (maxDischargeDepth := 60) +contextual [hok]

theorem execRelayStreamEnd_orderly (w : Fin 4) (hok : Orderly w0 s) : Ends (Orderly w0) (execRelayStreamEnd w s) := by
  unfold execRelayStreamEnd
  dsimp only
  repeat' split
  all_goals simp (maxDischargeDepth := 60) +contextual [hok]

theorem execRelayParityError_orderly (w : Fin 4) (k : Nat) (hok : Orderly w0 s) : Ends (Orderly w0) (execRelayParityError w k s) := by
  unfold execRelayParityError
  repeat' split
  all_goals simp (maxDischargeDepth := 60) +contextual [hok]

theorem execRlyKeep_orderly (p : Fin 68) (hok : Orderly w0 s) : Ends (Orderly w0) (execRlyKeep p s) := by
  unfold execRlyKeep
  repeat' split
  all_goals simp (maxDischargeDepth := 60) +contextual [hok]

theorem execPkgLoad_orderly (q : Fin 256) (e : Entry) (pkg : Package) (hok : Orderly w0 s) : Ends (Orderly w0) (execPkgLoad q e pkg s) := by
  unfold execPkgLoad
  all_goals simp (maxDischargeDepth := 60) +contextual [hok]

theorem execPkgLoadComplete_orderly (handle : Word) (hok : Orderly w0 s) : Ends (Orderly w0) (execPkgLoadComplete handle s) := by
  unfold execPkgLoadComplete
  dsimp only
  repeat' split
  all_goals simp (maxDischargeDepth := 60) +contextual [hok]

theorem execChIo_orderly (q : Fin 256) (e : Entry) (hok : Orderly w0 s) : Ends (Orderly w0) (execChIo q e s) := by
  unfold execChIo
  all_goals simp (maxDischargeDepth := 60) +contextual [hok]

theorem execChBind_orderly (q : Fin 256) (e : Entry) (hok : Orderly w0 s) : Ends (Orderly w0) (execChBind q e s) := by
  unfold execChBind
  all_goals simp (maxDischargeDepth := 60) +contextual [hok]

theorem execRecordPost_orderly (r : Fin 256) (hok : Orderly w0 s) : Ends (Orderly w0) (execRecordPost r s) := by
  unfold execRecordPost
  repeat' split
  all_goals simp (maxDischargeDepth := 60) +contextual [hok]

theorem execEgressInstant_orderly (flow : Fin 256) (hok : Orderly w0 s) : Ends (Orderly w0) (execEgressInstant flow s) := by
  unfold execEgressInstant
  all_goals simp (maxDischargeDepth := 60) +contextual [hok]

theorem execChDestroy_orderly (q : Fin 256) (e : Entry) (hok : Orderly w0 s) : Ends (Orderly w0) (execChDestroy q e s) := by
  unfold execChDestroy
  all_goals simp (maxDischargeDepth := 60) +contextual [hok]

theorem execChPrepare_orderly (q : Fin 256) (e : Entry) (hok : Orderly w0 s) : Ends (Orderly w0) (execChPrepare q e s) := by
  unfold execChPrepare
  all_goals simp (maxDischargeDepth := 60) +contextual [hok]

theorem execChStart_orderly (q : Fin 256) (e : Entry) (hok : Orderly w0 s) : Ends (Orderly w0) (execChStart q e s) := by
  unfold execChStart
  all_goals simp (maxDischargeDepth := 60) +contextual [hok]

theorem execChStop_orderly (q : Fin 256) (e : Entry) (hok : Orderly w0 s) : Ends (Orderly w0) (execChStop q e s) := by
  unfold execChStop
  all_goals simp (maxDischargeDepth := 60) +contextual [hok]

theorem execForceIntra_orderly (q : Fin 256) (e : Entry) (hok : Orderly w0 s) : Ends (Orderly w0) (execForceIntra q e s) := by
  unfold execForceIntra
  all_goals simp (maxDischargeDepth := 60) +contextual [hok]

theorem execStreamIn_orderly (q : Fin 256) (e : Entry) (hok : Orderly w0 s) : Ends (Orderly w0) (execStreamIn q e s) := by
  unfold execStreamIn
  all_goals simp (maxDischargeDepth := 60) +contextual [hok]

theorem execOutHead_orderly (q : Fin 256) (e : Entry) (hok : Orderly w0 s) : Ends (Orderly w0) (execOutHead q e s) := by
  unfold execOutHead
  all_goals simp (maxDischargeDepth := 60) +contextual [hok]

theorem execTensor_orderly (q : Fin 256) (e : Entry) (hok : Orderly w0 s) : Ends (Orderly w0) (execTensor q e s) := by
  unfold execTensor
  all_goals simp (maxDischargeDepth := 60) +contextual [hok]

theorem execComp_orderly (q : Fin 256) (e : Entry) (hok : Orderly w0 s) : Ends (Orderly w0) (execComp q e s) := by
  unfold execComp
  all_goals simp (maxDischargeDepth := 60) +contextual [hok]

theorem execLiveBind_orderly (q : Fin 256) (e : Entry) (remote : List Byte) (hok : Orderly w0 s) : Ends (Orderly w0) (execLiveBind q e remote s) := by
  unfold execLiveBind
  all_goals simp (maxDischargeDepth := 60) +contextual [hok]

theorem execLiveUnbind_orderly (q : Fin 256) (e : Entry) (hok : Orderly w0 s) : Ends (Orderly w0) (execLiveUnbind q e s) := by
  unfold execLiveUnbind
  all_goals simp (maxDischargeDepth := 60) +contextual [hok]

theorem execSliceRelease_orderly (handle : Word) (hok : Orderly w0 s) : Ends (Orderly w0) (execSliceRelease handle s) := by
  unfold execSliceRelease
  repeat' split
  all_goals simp (maxDischargeDepth := 60) +contextual [hok]

theorem execLineTimeout_orderly (handle : Word) (hok : Orderly w0 s) : Ends (Orderly w0) (execLineTimeout handle s) := by
  unfold execLineTimeout
  repeat' split
  all_goals simp (maxDischargeDepth := 60) +contextual [hok]

theorem execRgvProbeWrite_orderly (w : Word) (hok : Orderly w0 s) : Ends (Orderly w0) (execRgvProbeWrite w s) := by
  unfold execRgvProbeWrite
  all_goals simp (maxDischargeDepth := 60) +contextual [hok]

theorem execRowCommit_orderly (id row : Nat) (hok : Orderly w0 s) : Ends (Orderly w0) (execRowCommit id row s) := by
  unfold execRowCommit
  repeat' split
  all_goals simp (maxDischargeDepth := 60) +contextual [hok]

theorem execGatherRow_orderly (id row : Nat) (hok : Orderly w0 s) : Ends (Orderly w0) (execGatherRow id row s) := by
  unfold execGatherRow
  repeat' split
  all_goals simp (maxDischargeDepth := 60) +contextual [hok]

theorem execSliceEmit_orderly (handle : Word) (hok : Orderly w0 s) : Ends (Orderly w0) (execSliceEmit handle s) := by
  unfold execSliceEmit
  repeat' split
  all_goals simp (maxDischargeDepth := 60) +contextual [hok]

theorem execAdapterSetComplete_orderly (id : Nat) (handle seq : Word) (hok : Orderly w0 s) : Ends (Orderly w0) (execAdapterSetComplete id handle seq s) := by
  unfold execAdapterSetComplete
  repeat' split
  all_goals simp (maxDischargeDepth := 60) +contextual [hok]

theorem execTableBankLoad_orderly (id : Nat) (hok : Orderly w0 s) : Ends (Orderly w0) (execTableBankLoad id s) := by
  unfold execTableBankLoad
  repeat' split
  all_goals simp (maxDischargeDepth := 60) +contextual [hok]

theorem execRcaParityError_orderly (at_ : Nat) (hok : Orderly w0 s) : Ends (Orderly w0) (execRcaParityError at_ s) := by
  unfold execRcaParityError
  all_goals simp (maxDischargeDepth := 60) +contextual [hok]

theorem execAudioFrameCode_orderly (id : Nat) (handle seq : Word) (hok : Orderly w0 s) : Ends (Orderly w0) (execAudioFrameCode id handle seq s) := by
  unfold execAudioFrameCode
  repeat' split
  all_goals simp (maxDischargeDepth := 60) +contextual [hok]

theorem execCodePhaseStart_orderly (hok : Orderly w0 s) : Ends (Orderly w0) (execCodePhaseStart s) := by
  unfold execCodePhaseStart
  repeat' split
  all_goals simp (maxDischargeDepth := 60) +contextual [hok]

theorem execSliceClose_orderly (hok : Orderly w0 s) : Ends (Orderly w0) (execSliceClose s) := by
  unfold execSliceClose
  repeat' split
  all_goals simp (maxDischargeDepth := 60) +contextual [hok]

theorem execDeliveryWrite_orderly (id : Nat) (hok : Orderly w0 s) : Ends (Orderly w0) (execDeliveryWrite id s) := by
  unfold execDeliveryWrite
  all_goals simp (maxDischargeDepth := 60) +contextual [hok]

theorem execSeqSegment_orderly (handle : Word) (far : List Byte) (hok : Orderly w0 s) : Ends (Orderly w0) (execSeqSegment handle far s) := by
  unfold execSeqSegment
  all_goals simp (maxDischargeDepth := 60) +contextual [hok]

theorem execPicSegment_orderly (handle : Word) (far : List Byte) (hok : Orderly w0 s) : Ends (Orderly w0) (execPicSegment handle far s) := by
  unfold execPicSegment
  all_goals simp (maxDischargeDepth := 60) +contextual [hok]

theorem execSlcSegment_orderly (handle : Word) (far : List Byte) (hok : Orderly w0 s) : Ends (Orderly w0) (execSlcSegment handle far s) := by
  unfold execSlcSegment
  all_goals simp (maxDischargeDepth := 60) +contextual [hok]

theorem execAudSegment_orderly (handle : Word) (far : List Byte) (hok : Orderly w0 s) : Ends (Orderly w0) (execAudSegment handle far s) := by
  unfold execAudSegment
  all_goals simp (maxDischargeDepth := 60) +contextual [hok]

theorem execAdpSegment_orderly (handle : Word) (far : List Byte) (hok : Orderly w0 s) : Ends (Orderly w0) (execAdpSegment handle far s) := by
  unfold execAdpSegment
  all_goals simp (maxDischargeDepth := 60) +contextual [hok]

theorem execEndSegment_orderly (handle : Word) (far : List Byte) (hok : Orderly w0 s) : Ends (Orderly w0) (execEndSegment handle far s) := by
  unfold execEndSegment
  all_goals simp (maxDischargeDepth := 60) +contextual [hok]

theorem execPadSegment_orderly (handle : Word) (far : List Byte) (hok : Orderly w0 s) : Ends (Orderly w0) (execPadSegment handle far s) := by
  unfold execPadSegment
  all_goals simp (maxDischargeDepth := 60) +contextual [hok]

theorem execReservedSegment_orderly (handle : Word) (far : List Byte) (hok : Orderly w0 s) : Ends (Orderly w0) (execReservedSegment handle far s) := by
  unfold execReservedSegment
  all_goals simp (maxDischargeDepth := 60) +contextual [hok]

theorem execFscStore_orderly (job : Option Nat) (n : Nat) (mismatch : Bool) (far : List Byte) (hok : Orderly w0 s) : Ends (Orderly w0) (execFscStore job n mismatch far s) := by
  unfold execFscStore
  all_goals simp (maxDischargeDepth := 60) +contextual [hok]

theorem execFscLoad_orderly (id : Nat) (far : List Byte) (hok : Orderly w0 s) : Ends (Orderly w0) (execFscLoad id far s) := by
  unfold execFscLoad
  repeat' split
  all_goals simp (maxDischargeDepth := 60) +contextual [hok]

theorem execJobDispatch_orderly (id : Nat) (hok : Orderly w0 s) : Ends (Orderly w0) (execJobDispatch id s) := by
  unfold execJobDispatch
  all_goals simp (maxDischargeDepth := 60) +contextual [hok]

theorem execYieldPoint_orderly (id : Nat) (hok : Orderly w0 s) : Ends (Orderly w0) (execYieldPoint id s) := by
  unfold execYieldPoint
  dsimp only
  repeat' split
  all_goals simp (maxDischargeDepth := 60) +contextual [hok]

theorem execJobFinish_orderly (id : Nat) (hok : Orderly w0 s) : Ends (Orderly w0) (execJobFinish id s) := by
  unfold execJobFinish
  repeat' split
  all_goals simp (maxDischargeDepth := 60) +contextual [hok]

theorem execPlayerUpset_orderly (p : Fin 68) (kind cls place : Nat) (hok : Orderly w0 s) : Ends (Orderly w0) (execPlayerUpset p kind cls place s) := by
  unfold execPlayerUpset
  repeat' split
  all_goals simp (maxDischargeDepth := 60) +contextual [hok]

theorem execPlayerWatchdog_orderly (p : Fin 68) (hok : Orderly w0 s) : Ends (Orderly w0) (execPlayerWatchdog p s) := by
  unfold execPlayerWatchdog
  dsimp only
  repeat' split
  all_goals simp (maxDischargeDepth := 60) +contextual [hok]

theorem execStreamStall_orderly (id : Nat) (hok : Orderly w0 s) : Ends (Orderly w0) (execStreamStall id s) := by
  unfold execStreamStall
  repeat' split
  all_goals simp (maxDischargeDepth := 60) +contextual [hok]

theorem execJobStop_orderly (id : Nat) (hok : Orderly w0 s) : Ends (Orderly w0) (execJobStop id s) := by
  unfold execJobStop
  all_goals simp (maxDischargeDepth := 60) +contextual [hok]

theorem execStagehandDrainEnd_orderly (sh : Nat) (hok : Orderly w0 s) : Ends (Orderly w0) (execStagehandDrainEnd sh s) := by
  unfold execStagehandDrainEnd
  all_goals simp (maxDischargeDepth := 60) +contextual [hok]

theorem execShsEccError_orderly (offset : Nat) (double : Bool) (job : Option Nat) (hok : Orderly w0 s) : Ends (Orderly w0) (execShsEccError offset double job s) := by
  unfold execShsEccError
  repeat' split
  all_goals simp (maxDischargeDepth := 60) +contextual [hok]

theorem execFlowApply_orderly (tx : Bool) (flow : Fin 256) (w : Word) (hok : Orderly w0 s) : Ends (Orderly w0) (execFlowApply tx flow w s) := by
  unfold execFlowApply
  all_goals simp (maxDischargeDepth := 60) +contextual [hok]

theorem execSt211020Packet_orderly (flow : Fin 256) (h : RtpHdr) (segs : List RowSeg) (hok : Orderly w0 s) : Ends (Orderly w0) (execSt211020Packet flow h segs s) := by
  unfold execSt211020Packet
  all_goals simp (maxDischargeDepth := 60) +contextual [hok]

theorem execSt211030Packet_orderly (flow : Fin 256) (h : RtpHdr) (samples : List Nat) (hok : Orderly w0 s) : Ends (Orderly w0) (execSt211030Packet flow h samples s) := by
  unfold execSt211030Packet
  all_goals simp (maxDischargeDepth := 60) +contextual [hok]

theorem execThardaxPacketReceive_orderly (flow : Fin 256) (h : RtpHdr) (payload : List Byte) (hok : Orderly w0 s) : Ends (Orderly w0) (execThardaxPacketReceive flow h payload s) := by
  unfold execThardaxPacketReceive
  all_goals simp (maxDischargeDepth := 60) +contextual [hok]

theorem execTimeStep_orderly (w : Word) (hok : Orderly w0 s) : Ends (Orderly w0) (execTimeStep w s) := by
  unfold execTimeStep
  all_goals simp (maxDischargeDepth := 60) +contextual [hok]

theorem execTimeSet_orderly (w : Word) (hok : Orderly w0 s) : Ends (Orderly w0) (execTimeSet w s) := by
  unfold execTimeSet
  all_goals simp (maxDischargeDepth := 60) +contextual [hok]

theorem execPtpMessage_orderly (port : Fin 4) (domain : Nat) (m : PtpMsg) (hok : Orderly w0 s) : Ends (Orderly w0) (execPtpMessage port domain m s) := by
  unfold execPtpMessage
  repeat' split
  all_goals simp (maxDischargeDepth := 60) +contextual [hok]

theorem execPtpDelayReq_orderly (hok : Orderly w0 s) : Ends (Orderly w0) (execPtpDelayReq s) := by
  unfold execPtpDelayReq
  repeat' split
  all_goals simp (maxDischargeDepth := 60) +contextual [hok]

theorem execPpsEdge_orderly (hok : Orderly w0 s) : Ends (Orderly w0) (execPpsEdge s) := by
  unfold execPpsEdge
  dsimp only
  repeat' split
  all_goals simp (maxDischargeDepth := 60) +contextual [hok]

theorem execTimeHoldover_orderly (hok : Orderly w0 s) : Ends (Orderly w0) (execTimeHoldover s) := by
  unfold execTimeHoldover
  repeat' split
  all_goals simp (maxDischargeDepth := 60) +contextual [hok]

theorem execQuiesceReqSet_orderly (page : Fin 4096) (hok : Orderly w0 s) : Ends (Orderly w0) (execQuiesceReqSet page s) := by
  unfold execQuiesceReqSet
  all_goals simp (maxDischargeDepth := 60) +contextual [hok]

theorem execQuiesceReqClear_orderly (page : Fin 4096) (hok : Orderly w0 s) : Ends (Orderly w0) (execQuiesceReqClear page s) := by
  unfold execQuiesceReqClear
  all_goals simp (maxDischargeDepth := 60) +contextual [hok]

theorem execResetReq_orderly (page : Fin 4096) (hok : Orderly w0 s) : Ends (Orderly w0) (execResetReq page s) := by
  unfold execResetReq
  all_goals simp (maxDischargeDepth := 60) +contextual [hok]

theorem execPowerDownReq_orderly (page : Fin 4096) (hok : Orderly w0 s) : Ends (Orderly w0) (execPowerDownReq page s) := by
  unfold execPowerDownReq
  all_goals simp (maxDischargeDepth := 60) +contextual [hok]

theorem execPowerUpReq_orderly (page : Fin 4096) (hok : Orderly w0 s) : Ends (Orderly w0) (execPowerUpReq page s) := by
  unfold execPowerUpReq
  all_goals simp (maxDischargeDepth := 60) +contextual [hok]

theorem execEnableClear_orderly (page : Fin 4096) (hok : Orderly w0 s) : Ends (Orderly w0) (execEnableClear page s) := by
  unfold execEnableClear
  all_goals simp (maxDischargeDepth := 60) +contextual [hok]

theorem execEnableSet_orderly (page : Fin 4096) (hok : Orderly w0 s) : Ends (Orderly w0) (execEnableSet page s) := by
  unfold execEnableSet
  all_goals simp (maxDischargeDepth := 60) +contextual [hok]

theorem execQuiesceDone_orderly (page : Fin 4096) (hok : Orderly w0 s) : Ends (Orderly w0) (execQuiesceDone page s) := by
  unfold execQuiesceDone
  dsimp only
  repeat' split
  all_goals simp (maxDischargeDepth := 60) +contextual [hok]

theorem execBlockResetDone_orderly (page : Fin 4096) (hok : Orderly w0 s) : Ends (Orderly w0) (execBlockResetDone page s) := by
  unfold execBlockResetDone
  dsimp only
  repeat' split
  all_goals simp (maxDischargeDepth := 60) +contextual [hok]

theorem execPairJoin_orderly (hok : Orderly w0 s) : Ends (Orderly w0) (execPairJoin s) := by
  unfold execPairJoin
  all_goals simp (maxDischargeDepth := 60) +contextual [hok]

theorem execJoinReceive_orderly (h : PairHdr) (payload : List Byte) (hok : Orderly w0 s) : Ends (Orderly w0) (execJoinReceive h payload s) := by
  unfold execJoinReceive
  repeat' split
  all_goals simp (maxDischargeDepth := 60) +contextual [hok]

theorem execJoinSigReceive_orderly (h : PairHdr) (sig : List Byte) (hok : Orderly w0 s) : Ends (Orderly w0) (execJoinSigReceive h sig s) := by
  unfold execJoinSigReceive
  dsimp only
  repeat' split
  all_goals simp (maxDischargeDepth := 60) +contextual [hok]

theorem execBeatSend_orderly (hok : Orderly w0 s) : Ends (Orderly w0) (execBeatSend s) := by
  unfold execBeatSend
  repeat' split
  all_goals simp (maxDischargeDepth := 60) +contextual [hok]

theorem execBeatReceive_orderly (h : PairHdr) (st x2 : Nat) (hok : Orderly w0 s) : Ends (Orderly w0) (execBeatReceive h st x2 s) := by
  unfold execBeatReceive
  dsimp only
  repeat' split
  all_goals simp (maxDischargeDepth := 60) +contextual [hok]

theorem execBeatPeriodMissed_orderly (hok : Orderly w0 s) : Ends (Orderly w0) (execBeatPeriodMissed s) := by
  unfold execBeatPeriodMissed
  dsimp only
  repeat' split
  all_goals simp (maxDischargeDepth := 60) +contextual [hok]

theorem execMirrorPoint_orderly (handle : Word) (hok : Orderly w0 s) : Ends (Orderly w0) (execMirrorPoint handle s) := by
  unfold execMirrorPoint
  dsimp only
  repeat' split
  all_goals simp (maxDischargeDepth := 60) +contextual [hok]

theorem execCommit_orderly (h : PairHdr) (handle pic : Word) (x3 : Dword) (pt : Chan) (hok : Orderly w0 s) : Ends (Orderly w0) (execCommit h handle pic x3 pt s) := by
  unfold execCommit
  dsimp only
  repeat' split
  all_goals simp (maxDischargeDepth := 60) +contextual [hok]

theorem execAck_orderly (h : PairHdr) (handle pic : Word) (hok : Orderly w0 s) : Ends (Orderly w0) (execAck h handle pic s) := by
  unfold execAck
  repeat' split
  all_goals simp (maxDischargeDepth := 60) +contextual [hok]

theorem execPromote_orderly (q : Fin 256) (e : Entry) (hok : Orderly w0 s) : Ends (Orderly w0) (execPromote q e s) := by
  unfold execPromote
  all_goals simp (maxDischargeDepth := 60) +contextual [hok]

theorem execCswApply_orderly (q : Fin 256) (e : Entry) (remote : List Byte) (hok : Orderly w0 s) : Ends (Orderly w0) (execCswApply q e remote s) := by
  unfold execCswApply
  all_goals simp (maxDischargeDepth := 60) +contextual [hok]

theorem execRepair_orderly (q : Fin 256) (e : Entry) (remote : List Byte) (hok : Orderly w0 s) : Ends (Orderly w0) (execRepair q e remote s) := by
  unfold execRepair
  all_goals simp (maxDischargeDepth := 60) +contextual [hok]

theorem execAttest_orderly (q : Fin 256) (e : Entry) (hok : Orderly w0 s) : Ends (Orderly w0) (execAttest q e s) := by
  unfold execAttest
  all_goals simp (maxDischargeDepth := 60) +contextual [hok]

theorem execPgErrClear_orderly (page : Fin 4096) (w : Word) (hok : Orderly w0 s) : Ends (Orderly w0) (execPgErrClear page w s) := by
  unfold execPgErrClear
  all_goals simp (maxDischargeDepth := 60) +contextual [hok]

theorem execLogRdWrite_orderly (w : Word) (hok : Orderly w0 s) : Ends (Orderly w0) (execLogRdWrite w s) := by
  unfold execLogRdWrite
  all_goals simp (maxDischargeDepth := 60) +contextual [hok]

theorem execRegisterWrite_orderly (page : Fin 4096) (word : Fin 1024) (w : Word) (hok : Orderly w0 s) : Ends (Orderly w0) (execRegisterWrite page word w s) := by
  unfold execRegisterWrite
  all_goals simp (maxDischargeDepth := 60) +contextual [hok]

theorem execRdmaRequestReceive_orderly (qp : Fin 4096) (op : RdmaOp) (rkey : Word) (addr : Dword) (ce : Bool) (hok : Orderly w0 s) : Ends (Orderly w0) (execRdmaRequestReceive qp op rkey addr ce s) := by
  unfold execRdmaRequestReceive
  all_goals simp (maxDischargeDepth := 60) +contextual [hok]

theorem execEntryFetch_orderly (pkgs : List Package) (remote : List (List Byte)) (hok : Orderly w0 s) : Ends (Orderly w0) (execEntryFetch pkgs remote s) := by
  unfold execEntryFetch
  all_goals simp (maxDischargeDepth := 60) +contextual [hok]

theorem execFenceRelease_orderly (q : Fin 256) (pkg : Package) (remote : List Byte) (hok : Orderly w0 s) : Ends (Orderly w0) (execFenceRelease q pkg remote s) := by
  unfold execFenceRelease
  repeat' split
  all_goals simp (maxDischargeDepth := 60) +contextual [hok]

theorem execForward_orderly (h : PairHdr) (e : Entry) (pkg : Package) (remote : List Byte) (ok : Bool) (hok : Orderly w0 s) : Ends (Orderly w0) (execForward h e pkg remote ok s) := by
  unfold execForward
  repeat' split
  all_goals simp (maxDischargeDepth := 60) +contextual [hok]

end Sys2Proof.Machine
end

