-- ==== Sys2Proof/Laws/State.lean ====
section
/-! SUPPORT. The fields of State after the operations that write one of them: the others keep what they hold, and reads of registers and
counters see only the tables. -/

namespace Sys2Proof.Machine

@[simp] theorem State_setReg_fields (page off : Nat) (w : Word) (s : State) :
    (State.setReg s page off w).pending = s.pending ∧ (State.setReg s page off w).free = s.free ∧ (State.setReg s page off w).time = s.time ∧ (State.setReg s page off w).latch = s.latch ∧ (State.setReg s page off w).ctr = s.ctr ∧ (State.setReg s page off w).banks = s.banks ∧ (State.setReg s page off w).sample = s.sample ∧ (State.setReg s page off w).mem = s.mem ∧ (State.setReg s page off w).poison = s.poison ∧ (State.setReg s page off w).out = s.out ∧ (State.setReg s page off w).log = s.log ∧ (State.setReg s page off w).logLost = s.logLost ∧ (State.setReg s page off w).pins = s.pins ∧ (State.setReg s page off w).ids = s.ids ∧ (State.setReg s page off w).boot = s.boot ∧ (State.setReg s page off w).ports = s.ports ∧ (State.setReg s page off w).qps = s.qps ∧ (State.setReg s page off w).flows = s.flows ∧ (State.setReg s page off w).servo = s.servo ∧ (State.setReg s page off w).traces = s.traces ∧ (State.setReg s page off w).pair = s.pair ∧ (State.setReg s page off w).queues = s.queues ∧ (State.setReg s page off w).rings = s.rings ∧ (State.setReg s page off w).q0Wanted = s.q0Wanted ∧ (State.setReg s page off w).due = s.due ∧ (State.setReg s page off w).devSeq = s.devSeq ∧ (State.setReg s page off w).chans = s.chans ∧ (State.setReg s page off w).points = s.points ∧ (State.setReg s page off w).nextIndex = s.nextIndex ∧ (State.setReg s page off w).freed = s.freed ∧ (State.setReg s page off w).opens = s.opens ∧ (State.setReg s page off w).jobs = s.jobs ∧ (State.setReg s page off w).nextJob = s.nextJob ∧ (State.setReg s page off w).tlb = s.tlb ∧ (State.setReg s page off w).inval = s.inval ∧ (State.setReg s page off w).fetches = s.fetches ∧ (State.setReg s page off w).nextFetch = s.nextFetch ∧ (State.setReg s page off w).players = s.players ∧ (State.setReg s page off w).treLast = s.treLast ∧ (State.setReg s page off w).streams = s.streams ∧ (State.setReg s page off w).shds = s.shds ∧ (State.setReg s page off w).chains = s.chains ∧ (State.setReg s page off w).relays = s.relays ∧ (State.setReg s page off w).stores = s.stores ∧ (State.setReg s page off w).slice = s.slice ∧ (State.setReg s page off w).tableBanks = s.tableBanks ∧ (State.setReg s page off w).lives = s.lives ∧ (State.setReg s page off w).ens = s.ens :=
  ⟨rfl, rfl, rfl, rfl, rfl, rfl, rfl, rfl, rfl, rfl, rfl, rfl, rfl, rfl, rfl, rfl, rfl, rfl, rfl, rfl, rfl, rfl, rfl, rfl, rfl, rfl, rfl, rfl, rfl, rfl, rfl, rfl, rfl, rfl, rfl, rfl, rfl, rfl, rfl, rfl, rfl, rfl, rfl, rfl, rfl, rfl, rfl, rfl⟩

@[simp] theorem State_wf_fields (page : Nat) (f : Fld) (v : Nat) (s : State) :
    (State.wf s page f v).pending = s.pending ∧ (State.wf s page f v).free = s.free ∧ (State.wf s page f v).time = s.time ∧ (State.wf s page f v).latch = s.latch ∧ (State.wf s page f v).ctr = s.ctr ∧ (State.wf s page f v).banks = s.banks ∧ (State.wf s page f v).sample = s.sample ∧ (State.wf s page f v).mem = s.mem ∧ (State.wf s page f v).poison = s.poison ∧ (State.wf s page f v).out = s.out ∧ (State.wf s page f v).log = s.log ∧ (State.wf s page f v).logLost = s.logLost ∧ (State.wf s page f v).pins = s.pins ∧ (State.wf s page f v).ids = s.ids ∧ (State.wf s page f v).boot = s.boot ∧ (State.wf s page f v).ports = s.ports ∧ (State.wf s page f v).qps = s.qps ∧ (State.wf s page f v).flows = s.flows ∧ (State.wf s page f v).servo = s.servo ∧ (State.wf s page f v).traces = s.traces ∧ (State.wf s page f v).pair = s.pair ∧ (State.wf s page f v).queues = s.queues ∧ (State.wf s page f v).rings = s.rings ∧ (State.wf s page f v).q0Wanted = s.q0Wanted ∧ (State.wf s page f v).due = s.due ∧ (State.wf s page f v).devSeq = s.devSeq ∧ (State.wf s page f v).chans = s.chans ∧ (State.wf s page f v).points = s.points ∧ (State.wf s page f v).nextIndex = s.nextIndex ∧ (State.wf s page f v).freed = s.freed ∧ (State.wf s page f v).opens = s.opens ∧ (State.wf s page f v).jobs = s.jobs ∧ (State.wf s page f v).nextJob = s.nextJob ∧ (State.wf s page f v).tlb = s.tlb ∧ (State.wf s page f v).inval = s.inval ∧ (State.wf s page f v).fetches = s.fetches ∧ (State.wf s page f v).nextFetch = s.nextFetch ∧ (State.wf s page f v).players = s.players ∧ (State.wf s page f v).treLast = s.treLast ∧ (State.wf s page f v).streams = s.streams ∧ (State.wf s page f v).shds = s.shds ∧ (State.wf s page f v).chains = s.chains ∧ (State.wf s page f v).relays = s.relays ∧ (State.wf s page f v).stores = s.stores ∧ (State.wf s page f v).slice = s.slice ∧ (State.wf s page f v).tableBanks = s.tableBanks ∧ (State.wf s page f v).lives = s.lives ∧ (State.wf s page f v).ens = s.ens :=
  ⟨rfl, rfl, rfl, rfl, rfl, rfl, rfl, rfl, rfl, rfl, rfl, rfl, rfl, rfl, rfl, rfl, rfl, rfl, rfl, rfl, rfl, rfl, rfl, rfl, rfl, rfl, rfl, rfl, rfl, rfl, rfl, rfl, rfl, rfl, rfl, rfl, rfl, rfl, rfl, rfl, rfl, rfl, rfl, rfl, rfl, rfl, rfl, rfl⟩

@[simp] theorem State_clearPage_fields (page : Nat) (s : State) :
    (State.clearPage s page).pending = s.pending ∧ (State.clearPage s page).free = s.free ∧ (State.clearPage s page).time = s.time ∧ (State.clearPage s page).latch = s.latch ∧ (State.clearPage s page).ctr = s.ctr ∧ (State.clearPage s page).banks = s.banks ∧ (State.clearPage s page).sample = s.sample ∧ (State.clearPage s page).mem = s.mem ∧ (State.clearPage s page).poison = s.poison ∧ (State.clearPage s page).out = s.out ∧ (State.clearPage s page).log = s.log ∧ (State.clearPage s page).logLost = s.logLost ∧ (State.clearPage s page).pins = s.pins ∧ (State.clearPage s page).ids = s.ids ∧ (State.clearPage s page).boot = s.boot ∧ (State.clearPage s page).ports = s.ports ∧ (State.clearPage s page).qps = s.qps ∧ (State.clearPage s page).flows = s.flows ∧ (State.clearPage s page).servo = s.servo ∧ (State.clearPage s page).traces = s.traces ∧ (State.clearPage s page).pair = s.pair ∧ (State.clearPage s page).queues = s.queues ∧ (State.clearPage s page).rings = s.rings ∧ (State.clearPage s page).q0Wanted = s.q0Wanted ∧ (State.clearPage s page).due = s.due ∧ (State.clearPage s page).devSeq = s.devSeq ∧ (State.clearPage s page).chans = s.chans ∧ (State.clearPage s page).points = s.points ∧ (State.clearPage s page).nextIndex = s.nextIndex ∧ (State.clearPage s page).freed = s.freed ∧ (State.clearPage s page).opens = s.opens ∧ (State.clearPage s page).jobs = s.jobs ∧ (State.clearPage s page).nextJob = s.nextJob ∧ (State.clearPage s page).tlb = s.tlb ∧ (State.clearPage s page).inval = s.inval ∧ (State.clearPage s page).fetches = s.fetches ∧ (State.clearPage s page).nextFetch = s.nextFetch ∧ (State.clearPage s page).players = s.players ∧ (State.clearPage s page).treLast = s.treLast ∧ (State.clearPage s page).streams = s.streams ∧ (State.clearPage s page).shds = s.shds ∧ (State.clearPage s page).chains = s.chains ∧ (State.clearPage s page).relays = s.relays ∧ (State.clearPage s page).stores = s.stores ∧ (State.clearPage s page).slice = s.slice ∧ (State.clearPage s page).tableBanks = s.tableBanks ∧ (State.clearPage s page).lives = s.lives ∧ (State.clearPage s page).ens = s.ens :=
  ⟨rfl, rfl, rfl, rfl, rfl, rfl, rfl, rfl, rfl, rfl, rfl, rfl, rfl, rfl, rfl, rfl, rfl, rfl, rfl, rfl, rfl, rfl, rfl, rfl, rfl, rfl, rfl, rfl, rfl, rfl, rfl, rfl, rfl, rfl, rfl, rfl, rfl, rfl, rfl, rfl, rfl, rfl, rfl, rfl, rfl, rfl, rfl, rfl⟩

@[simp] theorem State_store_fields (a : Nat) (l : List Byte) (s : State) :
    (State.store s a l).pending = s.pending ∧ (State.store s a l).free = s.free ∧ (State.store s a l).time = s.time ∧ (State.store s a l).regs = s.regs ∧ (State.store s a l).latch = s.latch ∧ (State.store s a l).ctr = s.ctr ∧ (State.store s a l).banks = s.banks ∧ (State.store s a l).sample = s.sample ∧ (State.store s a l).poison = s.poison ∧ (State.store s a l).out = s.out ∧ (State.store s a l).log = s.log ∧ (State.store s a l).logLost = s.logLost ∧ (State.store s a l).pins = s.pins ∧ (State.store s a l).ids = s.ids ∧ (State.store s a l).boot = s.boot ∧ (State.store s a l).ports = s.ports ∧ (State.store s a l).qps = s.qps ∧ (State.store s a l).flows = s.flows ∧ (State.store s a l).servo = s.servo ∧ (State.store s a l).traces = s.traces ∧ (State.store s a l).pair = s.pair ∧ (State.store s a l).queues = s.queues ∧ (State.store s a l).rings = s.rings ∧ (State.store s a l).q0Wanted = s.q0Wanted ∧ (State.store s a l).due = s.due ∧ (State.store s a l).devSeq = s.devSeq ∧ (State.store s a l).chans = s.chans ∧ (State.store s a l).points = s.points ∧ (State.store s a l).nextIndex = s.nextIndex ∧ (State.store s a l).freed = s.freed ∧ (State.store s a l).opens = s.opens ∧ (State.store s a l).jobs = s.jobs ∧ (State.store s a l).nextJob = s.nextJob ∧ (State.store s a l).tlb = s.tlb ∧ (State.store s a l).inval = s.inval ∧ (State.store s a l).fetches = s.fetches ∧ (State.store s a l).nextFetch = s.nextFetch ∧ (State.store s a l).players = s.players ∧ (State.store s a l).treLast = s.treLast ∧ (State.store s a l).streams = s.streams ∧ (State.store s a l).shds = s.shds ∧ (State.store s a l).chains = s.chains ∧ (State.store s a l).relays = s.relays ∧ (State.store s a l).stores = s.stores ∧ (State.store s a l).slice = s.slice ∧ (State.store s a l).tableBanks = s.tableBanks ∧ (State.store s a l).lives = s.lives ∧ (State.store s a l).ens = s.ens :=
  ⟨rfl, rfl, rfl, rfl, rfl, rfl, rfl, rfl, rfl, rfl, rfl, rfl, rfl, rfl, rfl, rfl, rfl, rfl, rfl, rfl, rfl, rfl, rfl, rfl, rfl, rfl, rfl, rfl, rfl, rfl, rfl, rfl, rfl, rfl, rfl, rfl, rfl, rfl, rfl, rfl, rfl, rfl, rfl, rfl, rfl, rfl, rfl, rfl⟩

@[simp] theorem bump_fields (page i n : Nat) (s : State) :
    (bump page i n s).pending = s.pending ∧ (bump page i n s).free = s.free ∧ (bump page i n s).time = s.time ∧ (bump page i n s).regs = s.regs ∧ (bump page i n s).latch = s.latch ∧ (bump page i n s).banks = s.banks ∧ (bump page i n s).sample = s.sample ∧ (bump page i n s).mem = s.mem ∧ (bump page i n s).poison = s.poison ∧ (bump page i n s).out = s.out ∧ (bump page i n s).log = s.log ∧ (bump page i n s).logLost = s.logLost ∧ (bump page i n s).pins = s.pins ∧ (bump page i n s).ids = s.ids ∧ (bump page i n s).boot = s.boot ∧ (bump page i n s).ports = s.ports ∧ (bump page i n s).qps = s.qps ∧ (bump page i n s).flows = s.flows ∧ (bump page i n s).servo = s.servo ∧ (bump page i n s).traces = s.traces ∧ (bump page i n s).pair = s.pair ∧ (bump page i n s).queues = s.queues ∧ (bump page i n s).rings = s.rings ∧ (bump page i n s).q0Wanted = s.q0Wanted ∧ (bump page i n s).due = s.due ∧ (bump page i n s).devSeq = s.devSeq ∧ (bump page i n s).chans = s.chans ∧ (bump page i n s).points = s.points ∧ (bump page i n s).nextIndex = s.nextIndex ∧ (bump page i n s).freed = s.freed ∧ (bump page i n s).opens = s.opens ∧ (bump page i n s).jobs = s.jobs ∧ (bump page i n s).nextJob = s.nextJob ∧ (bump page i n s).tlb = s.tlb ∧ (bump page i n s).inval = s.inval ∧ (bump page i n s).fetches = s.fetches ∧ (bump page i n s).nextFetch = s.nextFetch ∧ (bump page i n s).players = s.players ∧ (bump page i n s).treLast = s.treLast ∧ (bump page i n s).streams = s.streams ∧ (bump page i n s).shds = s.shds ∧ (bump page i n s).chains = s.chains ∧ (bump page i n s).relays = s.relays ∧ (bump page i n s).stores = s.stores ∧ (bump page i n s).slice = s.slice ∧ (bump page i n s).tableBanks = s.tableBanks ∧ (bump page i n s).lives = s.lives ∧ (bump page i n s).ens = s.ens :=
  ⟨rfl, rfl, rfl, rfl, rfl, rfl, rfl, rfl, rfl, rfl, rfl, rfl, rfl, rfl, rfl, rfl, rfl, rfl, rfl, rfl, rfl, rfl, rfl, rfl, rfl, rfl, rfl, rfl, rfl, rfl, rfl, rfl, rfl, rfl, rfl, rfl, rfl, rfl, rfl, rfl, rfl, rfl, rfl, rfl, rfl, rfl, rfl, rfl⟩

@[simp] theorem wrote_fields (n : Nat) (s : State) :
    (wrote n s).pending = s.pending ∧ (wrote n s).free = s.free ∧ (wrote n s).time = s.time ∧ (wrote n s).regs = s.regs ∧ (wrote n s).latch = s.latch ∧ (wrote n s).banks = s.banks ∧ (wrote n s).sample = s.sample ∧ (wrote n s).mem = s.mem ∧ (wrote n s).poison = s.poison ∧ (wrote n s).out = s.out ∧ (wrote n s).log = s.log ∧ (wrote n s).logLost = s.logLost ∧ (wrote n s).pins = s.pins ∧ (wrote n s).ids = s.ids ∧ (wrote n s).boot = s.boot ∧ (wrote n s).ports = s.ports ∧ (wrote n s).qps = s.qps ∧ (wrote n s).flows = s.flows ∧ (wrote n s).servo = s.servo ∧ (wrote n s).traces = s.traces ∧ (wrote n s).pair = s.pair ∧ (wrote n s).queues = s.queues ∧ (wrote n s).rings = s.rings ∧ (wrote n s).q0Wanted = s.q0Wanted ∧ (wrote n s).due = s.due ∧ (wrote n s).devSeq = s.devSeq ∧ (wrote n s).chans = s.chans ∧ (wrote n s).points = s.points ∧ (wrote n s).nextIndex = s.nextIndex ∧ (wrote n s).freed = s.freed ∧ (wrote n s).opens = s.opens ∧ (wrote n s).jobs = s.jobs ∧ (wrote n s).nextJob = s.nextJob ∧ (wrote n s).tlb = s.tlb ∧ (wrote n s).inval = s.inval ∧ (wrote n s).fetches = s.fetches ∧ (wrote n s).nextFetch = s.nextFetch ∧ (wrote n s).players = s.players ∧ (wrote n s).treLast = s.treLast ∧ (wrote n s).streams = s.streams ∧ (wrote n s).shds = s.shds ∧ (wrote n s).chains = s.chains ∧ (wrote n s).relays = s.relays ∧ (wrote n s).stores = s.stores ∧ (wrote n s).slice = s.slice ∧ (wrote n s).tableBanks = s.tableBanks ∧ (wrote n s).lives = s.lives ∧ (wrote n s).ens = s.ens :=
  ⟨rfl, rfl, rfl, rfl, rfl, rfl, rfl, rfl, rfl, rfl, rfl, rfl, rfl, rfl, rfl, rfl, rfl, rfl, rfl, rfl, rfl, rfl, rfl, rfl, rfl, rfl, rfl, rfl, rfl, rfl, rfl, rfl, rfl, rfl, rfl, rfl, rfl, rfl, rfl, rfl, rfl, rfl, rfl, rfl, rfl, rfl, rfl, rfl⟩

@[simp] theorem peak_fields (page i n : Nat) (s : State) :
    (peak page i n s).pending = s.pending ∧ (peak page i n s).free = s.free ∧ (peak page i n s).time = s.time ∧ (peak page i n s).regs = s.regs ∧ (peak page i n s).latch = s.latch ∧ (peak page i n s).banks = s.banks ∧ (peak page i n s).sample = s.sample ∧ (peak page i n s).mem = s.mem ∧ (peak page i n s).poison = s.poison ∧ (peak page i n s).out = s.out ∧ (peak page i n s).log = s.log ∧ (peak page i n s).logLost = s.logLost ∧ (peak page i n s).pins = s.pins ∧ (peak page i n s).ids = s.ids ∧ (peak page i n s).boot = s.boot ∧ (peak page i n s).ports = s.ports ∧ (peak page i n s).qps = s.qps ∧ (peak page i n s).flows = s.flows ∧ (peak page i n s).servo = s.servo ∧ (peak page i n s).traces = s.traces ∧ (peak page i n s).pair = s.pair ∧ (peak page i n s).queues = s.queues ∧ (peak page i n s).rings = s.rings ∧ (peak page i n s).q0Wanted = s.q0Wanted ∧ (peak page i n s).due = s.due ∧ (peak page i n s).devSeq = s.devSeq ∧ (peak page i n s).chans = s.chans ∧ (peak page i n s).points = s.points ∧ (peak page i n s).nextIndex = s.nextIndex ∧ (peak page i n s).freed = s.freed ∧ (peak page i n s).opens = s.opens ∧ (peak page i n s).jobs = s.jobs ∧ (peak page i n s).nextJob = s.nextJob ∧ (peak page i n s).tlb = s.tlb ∧ (peak page i n s).inval = s.inval ∧ (peak page i n s).fetches = s.fetches ∧ (peak page i n s).nextFetch = s.nextFetch ∧ (peak page i n s).players = s.players ∧ (peak page i n s).treLast = s.treLast ∧ (peak page i n s).streams = s.streams ∧ (peak page i n s).shds = s.shds ∧ (peak page i n s).chains = s.chains ∧ (peak page i n s).relays = s.relays ∧ (peak page i n s).stores = s.stores ∧ (peak page i n s).slice = s.slice ∧ (peak page i n s).tableBanks = s.tableBanks ∧ (peak page i n s).lives = s.lives ∧ (peak page i n s).ens = s.ens :=
  ⟨rfl, rfl, rfl, rfl, rfl, rfl, rfl, rfl, rfl, rfl, rfl, rfl, rfl, rfl, rfl, rfl, rfl, rfl, rfl, rfl, rfl, rfl, rfl, rfl, rfl, rfl, rfl, rfl, rfl, rfl, rfl, rfl, rfl, rfl, rfl, rfl, rfl, rfl, rfl, rfl, rfl, rfl, rfl, rfl, rfl, rfl, rfl, rfl⟩

@[simp] theorem emit_fields (m : Msg) (s : State) :
    (emit m s).pending = s.pending ∧ (emit m s).free = s.free ∧ (emit m s).time = s.time ∧ (emit m s).regs = s.regs ∧ (emit m s).latch = s.latch ∧ (emit m s).ctr = s.ctr ∧ (emit m s).banks = s.banks ∧ (emit m s).sample = s.sample ∧ (emit m s).mem = s.mem ∧ (emit m s).poison = s.poison ∧ (emit m s).log = s.log ∧ (emit m s).logLost = s.logLost ∧ (emit m s).pins = s.pins ∧ (emit m s).ids = s.ids ∧ (emit m s).boot = s.boot ∧ (emit m s).ports = s.ports ∧ (emit m s).qps = s.qps ∧ (emit m s).flows = s.flows ∧ (emit m s).servo = s.servo ∧ (emit m s).traces = s.traces ∧ (emit m s).pair = s.pair ∧ (emit m s).queues = s.queues ∧ (emit m s).rings = s.rings ∧ (emit m s).q0Wanted = s.q0Wanted ∧ (emit m s).due = s.due ∧ (emit m s).devSeq = s.devSeq ∧ (emit m s).chans = s.chans ∧ (emit m s).points = s.points ∧ (emit m s).nextIndex = s.nextIndex ∧ (emit m s).freed = s.freed ∧ (emit m s).opens = s.opens ∧ (emit m s).jobs = s.jobs ∧ (emit m s).nextJob = s.nextJob ∧ (emit m s).tlb = s.tlb ∧ (emit m s).inval = s.inval ∧ (emit m s).fetches = s.fetches ∧ (emit m s).nextFetch = s.nextFetch ∧ (emit m s).players = s.players ∧ (emit m s).treLast = s.treLast ∧ (emit m s).streams = s.streams ∧ (emit m s).shds = s.shds ∧ (emit m s).chains = s.chains ∧ (emit m s).relays = s.relays ∧ (emit m s).stores = s.stores ∧ (emit m s).slice = s.slice ∧ (emit m s).tableBanks = s.tableBanks ∧ (emit m s).lives = s.lives ∧ (emit m s).ens = s.ens :=
  ⟨rfl, rfl, rfl, rfl, rfl, rfl, rfl, rfl, rfl, rfl, rfl, rfl, rfl, rfl, rfl, rfl, rfl, rfl, rfl, rfl, rfl, rfl, rfl, rfl, rfl, rfl, rfl, rfl, rfl, rfl, rfl, rfl, rfl, rfl, rfl, rfl, rfl, rfl, rfl, rfl, rfl, rfl, rfl, rfl, rfl, rfl, rfl, rfl⟩

@[simp] theorem draw_fields (s : State) :
    (draw s).2.pending = s.pending ∧ (draw s).2.time = s.time ∧ (draw s).2.regs = s.regs ∧ (draw s).2.latch = s.latch ∧ (draw s).2.ctr = s.ctr ∧ (draw s).2.banks = s.banks ∧ (draw s).2.sample = s.sample ∧ (draw s).2.mem = s.mem ∧ (draw s).2.poison = s.poison ∧ (draw s).2.out = s.out ∧ (draw s).2.log = s.log ∧ (draw s).2.logLost = s.logLost ∧ (draw s).2.pins = s.pins ∧ (draw s).2.ids = s.ids ∧ (draw s).2.boot = s.boot ∧ (draw s).2.ports = s.ports ∧ (draw s).2.qps = s.qps ∧ (draw s).2.flows = s.flows ∧ (draw s).2.servo = s.servo ∧ (draw s).2.traces = s.traces ∧ (draw s).2.pair = s.pair ∧ (draw s).2.queues = s.queues ∧ (draw s).2.rings = s.rings ∧ (draw s).2.q0Wanted = s.q0Wanted ∧ (draw s).2.due = s.due ∧ (draw s).2.devSeq = s.devSeq ∧ (draw s).2.chans = s.chans ∧ (draw s).2.points = s.points ∧ (draw s).2.nextIndex = s.nextIndex ∧ (draw s).2.freed = s.freed ∧ (draw s).2.opens = s.opens ∧ (draw s).2.jobs = s.jobs ∧ (draw s).2.nextJob = s.nextJob ∧ (draw s).2.tlb = s.tlb ∧ (draw s).2.inval = s.inval ∧ (draw s).2.fetches = s.fetches ∧ (draw s).2.nextFetch = s.nextFetch ∧ (draw s).2.players = s.players ∧ (draw s).2.treLast = s.treLast ∧ (draw s).2.streams = s.streams ∧ (draw s).2.shds = s.shds ∧ (draw s).2.chains = s.chains ∧ (draw s).2.relays = s.relays ∧ (draw s).2.stores = s.stores ∧ (draw s).2.slice = s.slice ∧ (draw s).2.tableBanks = s.tableBanks ∧ (draw s).2.lives = s.lives ∧ (draw s).2.ens = s.ens :=
  ⟨rfl, rfl, rfl, rfl, rfl, rfl, rfl, rfl, rfl, rfl, rfl, rfl, rfl, rfl, rfl, rfl, rfl, rfl, rfl, rfl, rfl, rfl, rfl, rfl, rfl, rfl, rfl, rfl, rfl, rfl, rfl, rfl, rfl, rfl, rfl, rfl, rfl, rfl, rfl, rfl, rfl, rfl, rfl, rfl, rfl, rfl, rfl, rfl⟩

@[simp] theorem drawBelow_fields (n : Nat) (s : State) :
    (drawBelow n s).2.pending = s.pending ∧ (drawBelow n s).2.time = s.time ∧ (drawBelow n s).2.regs = s.regs ∧ (drawBelow n s).2.latch = s.latch ∧ (drawBelow n s).2.ctr = s.ctr ∧ (drawBelow n s).2.banks = s.banks ∧ (drawBelow n s).2.sample = s.sample ∧ (drawBelow n s).2.mem = s.mem ∧ (drawBelow n s).2.poison = s.poison ∧ (drawBelow n s).2.out = s.out ∧ (drawBelow n s).2.log = s.log ∧ (drawBelow n s).2.logLost = s.logLost ∧ (drawBelow n s).2.pins = s.pins ∧ (drawBelow n s).2.ids = s.ids ∧ (drawBelow n s).2.boot = s.boot ∧ (drawBelow n s).2.ports = s.ports ∧ (drawBelow n s).2.qps = s.qps ∧ (drawBelow n s).2.flows = s.flows ∧ (drawBelow n s).2.servo = s.servo ∧ (drawBelow n s).2.traces = s.traces ∧ (drawBelow n s).2.pair = s.pair ∧ (drawBelow n s).2.queues = s.queues ∧ (drawBelow n s).2.rings = s.rings ∧ (drawBelow n s).2.q0Wanted = s.q0Wanted ∧ (drawBelow n s).2.due = s.due ∧ (drawBelow n s).2.devSeq = s.devSeq ∧ (drawBelow n s).2.chans = s.chans ∧ (drawBelow n s).2.points = s.points ∧ (drawBelow n s).2.nextIndex = s.nextIndex ∧ (drawBelow n s).2.freed = s.freed ∧ (drawBelow n s).2.opens = s.opens ∧ (drawBelow n s).2.jobs = s.jobs ∧ (drawBelow n s).2.nextJob = s.nextJob ∧ (drawBelow n s).2.tlb = s.tlb ∧ (drawBelow n s).2.inval = s.inval ∧ (drawBelow n s).2.fetches = s.fetches ∧ (drawBelow n s).2.nextFetch = s.nextFetch ∧ (drawBelow n s).2.players = s.players ∧ (drawBelow n s).2.treLast = s.treLast ∧ (drawBelow n s).2.streams = s.streams ∧ (drawBelow n s).2.shds = s.shds ∧ (drawBelow n s).2.chains = s.chains ∧ (drawBelow n s).2.relays = s.relays ∧ (drawBelow n s).2.stores = s.stores ∧ (drawBelow n s).2.slice = s.slice ∧ (drawBelow n s).2.tableBanks = s.tableBanks ∧ (drawBelow n s).2.lives = s.lives ∧ (drawBelow n s).2.ens = s.ens :=
  ⟨rfl, rfl, rfl, rfl, rfl, rfl, rfl, rfl, rfl, rfl, rfl, rfl, rfl, rfl, rfl, rfl, rfl, rfl, rfl, rfl, rfl, rfl, rfl, rfl, rfl, rfl, rfl, rfl, rfl, rfl, rfl, rfl, rfl, rfl, rfl, rfl, rfl, rfl, rfl, rfl, rfl, rfl, rfl, rfl, rfl, rfl, rfl, rfl⟩

@[simp] theorem drawBool_fields (s : State) :
    (drawBool s).2.pending = s.pending ∧ (drawBool s).2.time = s.time ∧ (drawBool s).2.regs = s.regs ∧ (drawBool s).2.latch = s.latch ∧ (drawBool s).2.ctr = s.ctr ∧ (drawBool s).2.banks = s.banks ∧ (drawBool s).2.sample = s.sample ∧ (drawBool s).2.mem = s.mem ∧ (drawBool s).2.poison = s.poison ∧ (drawBool s).2.out = s.out ∧ (drawBool s).2.log = s.log ∧ (drawBool s).2.logLost = s.logLost ∧ (drawBool s).2.pins = s.pins ∧ (drawBool s).2.ids = s.ids ∧ (drawBool s).2.boot = s.boot ∧ (drawBool s).2.ports = s.ports ∧ (drawBool s).2.qps = s.qps ∧ (drawBool s).2.flows = s.flows ∧ (drawBool s).2.servo = s.servo ∧ (drawBool s).2.traces = s.traces ∧ (drawBool s).2.pair = s.pair ∧ (drawBool s).2.queues = s.queues ∧ (drawBool s).2.rings = s.rings ∧ (drawBool s).2.q0Wanted = s.q0Wanted ∧ (drawBool s).2.due = s.due ∧ (drawBool s).2.devSeq = s.devSeq ∧ (drawBool s).2.chans = s.chans ∧ (drawBool s).2.points = s.points ∧ (drawBool s).2.nextIndex = s.nextIndex ∧ (drawBool s).2.freed = s.freed ∧ (drawBool s).2.opens = s.opens ∧ (drawBool s).2.jobs = s.jobs ∧ (drawBool s).2.nextJob = s.nextJob ∧ (drawBool s).2.tlb = s.tlb ∧ (drawBool s).2.inval = s.inval ∧ (drawBool s).2.fetches = s.fetches ∧ (drawBool s).2.nextFetch = s.nextFetch ∧ (drawBool s).2.players = s.players ∧ (drawBool s).2.treLast = s.treLast ∧ (drawBool s).2.streams = s.streams ∧ (drawBool s).2.shds = s.shds ∧ (drawBool s).2.chains = s.chains ∧ (drawBool s).2.relays = s.relays ∧ (drawBool s).2.stores = s.stores ∧ (drawBool s).2.slice = s.slice ∧ (drawBool s).2.tableBanks = s.tableBanks ∧ (drawBool s).2.lives = s.lives ∧ (drawBool s).2.ens = s.ens :=
  ⟨rfl, rfl, rfl, rfl, rfl, rfl, rfl, rfl, rfl, rfl, rfl, rfl, rfl, rfl, rfl, rfl, rfl, rfl, rfl, rfl, rfl, rfl, rfl, rfl, rfl, rfl, rfl, rfl, rfl, rfl, rfl, rfl, rfl, rfl, rfl, rfl, rfl, rfl, rfl, rfl, rfl, rfl, rfl, rfl, rfl, rfl, rfl, rfl⟩

@[simp] theorem setPly_fields (p : Nat) (x : Player) (s : State) :
    (setPly p x s).pending = s.pending ∧ (setPly p x s).free = s.free ∧ (setPly p x s).time = s.time ∧ (setPly p x s).regs = s.regs ∧ (setPly p x s).latch = s.latch ∧ (setPly p x s).ctr = s.ctr ∧ (setPly p x s).banks = s.banks ∧ (setPly p x s).sample = s.sample ∧ (setPly p x s).mem = s.mem ∧ (setPly p x s).poison = s.poison ∧ (setPly p x s).out = s.out ∧ (setPly p x s).log = s.log ∧ (setPly p x s).logLost = s.logLost ∧ (setPly p x s).pins = s.pins ∧ (setPly p x s).ids = s.ids ∧ (setPly p x s).boot = s.boot ∧ (setPly p x s).ports = s.ports ∧ (setPly p x s).qps = s.qps ∧ (setPly p x s).flows = s.flows ∧ (setPly p x s).servo = s.servo ∧ (setPly p x s).traces = s.traces ∧ (setPly p x s).pair = s.pair ∧ (setPly p x s).queues = s.queues ∧ (setPly p x s).rings = s.rings ∧ (setPly p x s).q0Wanted = s.q0Wanted ∧ (setPly p x s).due = s.due ∧ (setPly p x s).devSeq = s.devSeq ∧ (setPly p x s).chans = s.chans ∧ (setPly p x s).points = s.points ∧ (setPly p x s).nextIndex = s.nextIndex ∧ (setPly p x s).freed = s.freed ∧ (setPly p x s).opens = s.opens ∧ (setPly p x s).jobs = s.jobs ∧ (setPly p x s).nextJob = s.nextJob ∧ (setPly p x s).tlb = s.tlb ∧ (setPly p x s).inval = s.inval ∧ (setPly p x s).fetches = s.fetches ∧ (setPly p x s).nextFetch = s.nextFetch ∧ (setPly p x s).treLast = s.treLast ∧ (setPly p x s).streams = s.streams ∧ (setPly p x s).shds = s.shds ∧ (setPly p x s).chains = s.chains ∧ (setPly p x s).relays = s.relays ∧ (setPly p x s).stores = s.stores ∧ (setPly p x s).slice = s.slice ∧ (setPly p x s).tableBanks = s.tableBanks ∧ (setPly p x s).lives = s.lives ∧ (setPly p x s).ens = s.ens :=
  ⟨rfl, rfl, rfl, rfl, rfl, rfl, rfl, rfl, rfl, rfl, rfl, rfl, rfl, rfl, rfl, rfl, rfl, rfl, rfl, rfl, rfl, rfl, rfl, rfl, rfl, rfl, rfl, rfl, rfl, rfl, rfl, rfl, rfl, rfl, rfl, rfl, rfl, rfl, rfl, rfl, rfl, rfl, rfl, rfl, rfl, rfl, rfl, rfl⟩

@[simp] theorem setThread_fields (p t : Nat) (x : Thread) (s : State) :
    (setThread p t x s).pending = s.pending ∧ (setThread p t x s).free = s.free ∧ (setThread p t x s).time = s.time ∧ (setThread p t x s).regs = s.regs ∧ (setThread p t x s).latch = s.latch ∧ (setThread p t x s).ctr = s.ctr ∧ (setThread p t x s).banks = s.banks ∧ (setThread p t x s).sample = s.sample ∧ (setThread p t x s).mem = s.mem ∧ (setThread p t x s).poison = s.poison ∧ (setThread p t x s).out = s.out ∧ (setThread p t x s).log = s.log ∧ (setThread p t x s).logLost = s.logLost ∧ (setThread p t x s).pins = s.pins ∧ (setThread p t x s).ids = s.ids ∧ (setThread p t x s).boot = s.boot ∧ (setThread p t x s).ports = s.ports ∧ (setThread p t x s).qps = s.qps ∧ (setThread p t x s).flows = s.flows ∧ (setThread p t x s).servo = s.servo ∧ (setThread p t x s).traces = s.traces ∧ (setThread p t x s).pair = s.pair ∧ (setThread p t x s).queues = s.queues ∧ (setThread p t x s).rings = s.rings ∧ (setThread p t x s).q0Wanted = s.q0Wanted ∧ (setThread p t x s).due = s.due ∧ (setThread p t x s).devSeq = s.devSeq ∧ (setThread p t x s).chans = s.chans ∧ (setThread p t x s).points = s.points ∧ (setThread p t x s).nextIndex = s.nextIndex ∧ (setThread p t x s).freed = s.freed ∧ (setThread p t x s).opens = s.opens ∧ (setThread p t x s).jobs = s.jobs ∧ (setThread p t x s).nextJob = s.nextJob ∧ (setThread p t x s).tlb = s.tlb ∧ (setThread p t x s).inval = s.inval ∧ (setThread p t x s).fetches = s.fetches ∧ (setThread p t x s).nextFetch = s.nextFetch ∧ (setThread p t x s).treLast = s.treLast ∧ (setThread p t x s).streams = s.streams ∧ (setThread p t x s).shds = s.shds ∧ (setThread p t x s).chains = s.chains ∧ (setThread p t x s).relays = s.relays ∧ (setThread p t x s).stores = s.stores ∧ (setThread p t x s).slice = s.slice ∧ (setThread p t x s).tableBanks = s.tableBanks ∧ (setThread p t x s).lives = s.lives ∧ (setThread p t x s).ens = s.ens :=
  ⟨rfl, rfl, rfl, rfl, rfl, rfl, rfl, rfl, rfl, rfl, rfl, rfl, rfl, rfl, rfl, rfl, rfl, rfl, rfl, rfl, rfl, rfl, rfl, rfl, rfl, rfl, rfl, rfl, rfl, rfl, rfl, rfl, rfl, rfl, rfl, rfl, rfl, rfl, rfl, rfl, rfl, rfl, rfl, rfl, rfl, rfl, rfl, rfl⟩

@[simp] theorem setTrc_fields (p : Nat) (x : Trace) (s : State) :
    (setTrc p x s).pending = s.pending ∧ (setTrc p x s).free = s.free ∧ (setTrc p x s).time = s.time ∧ (setTrc p x s).regs = s.regs ∧ (setTrc p x s).latch = s.latch ∧ (setTrc p x s).ctr = s.ctr ∧ (setTrc p x s).banks = s.banks ∧ (setTrc p x s).sample = s.sample ∧ (setTrc p x s).mem = s.mem ∧ (setTrc p x s).poison = s.poison ∧ (setTrc p x s).out = s.out ∧ (setTrc p x s).log = s.log ∧ (setTrc p x s).logLost = s.logLost ∧ (setTrc p x s).pins = s.pins ∧ (setTrc p x s).ids = s.ids ∧ (setTrc p x s).boot = s.boot ∧ (setTrc p x s).ports = s.ports ∧ (setTrc p x s).qps = s.qps ∧ (setTrc p x s).flows = s.flows ∧ (setTrc p x s).servo = s.servo ∧ (setTrc p x s).pair = s.pair ∧ (setTrc p x s).queues = s.queues ∧ (setTrc p x s).rings = s.rings ∧ (setTrc p x s).q0Wanted = s.q0Wanted ∧ (setTrc p x s).due = s.due ∧ (setTrc p x s).devSeq = s.devSeq ∧ (setTrc p x s).chans = s.chans ∧ (setTrc p x s).points = s.points ∧ (setTrc p x s).nextIndex = s.nextIndex ∧ (setTrc p x s).freed = s.freed ∧ (setTrc p x s).opens = s.opens ∧ (setTrc p x s).jobs = s.jobs ∧ (setTrc p x s).nextJob = s.nextJob ∧ (setTrc p x s).tlb = s.tlb ∧ (setTrc p x s).inval = s.inval ∧ (setTrc p x s).fetches = s.fetches ∧ (setTrc p x s).nextFetch = s.nextFetch ∧ (setTrc p x s).players = s.players ∧ (setTrc p x s).treLast = s.treLast ∧ (setTrc p x s).streams = s.streams ∧ (setTrc p x s).shds = s.shds ∧ (setTrc p x s).chains = s.chains ∧ (setTrc p x s).relays = s.relays ∧ (setTrc p x s).stores = s.stores ∧ (setTrc p x s).slice = s.slice ∧ (setTrc p x s).tableBanks = s.tableBanks ∧ (setTrc p x s).lives = s.lives ∧ (setTrc p x s).ens = s.ens :=
  ⟨rfl, rfl, rfl, rfl, rfl, rfl, rfl, rfl, rfl, rfl, rfl, rfl, rfl, rfl, rfl, rfl, rfl, rfl, rfl, rfl, rfl, rfl, rfl, rfl, rfl, rfl, rfl, rfl, rfl, rfl, rfl, rfl, rfl, rfl, rfl, rfl, rfl, rfl, rfl, rfl, rfl, rfl, rfl, rfl, rfl, rfl, rfl, rfl⟩

@[simp] theorem setQp_fields (q : Nat) (x : Qp) (s : State) :
    (setQp q x s).pending = s.pending ∧ (setQp q x s).free = s.free ∧ (setQp q x s).time = s.time ∧ (setQp q x s).regs = s.regs ∧ (setQp q x s).latch = s.latch ∧ (setQp q x s).ctr = s.ctr ∧ (setQp q x s).banks = s.banks ∧ (setQp q x s).sample = s.sample ∧ (setQp q x s).mem = s.mem ∧ (setQp q x s).poison = s.poison ∧ (setQp q x s).out = s.out ∧ (setQp q x s).log = s.log ∧ (setQp q x s).logLost = s.logLost ∧ (setQp q x s).pins = s.pins ∧ (setQp q x s).ids = s.ids ∧ (setQp q x s).boot = s.boot ∧ (setQp q x s).ports = s.ports ∧ (setQp q x s).flows = s.flows ∧ (setQp q x s).servo = s.servo ∧ (setQp q x s).traces = s.traces ∧ (setQp q x s).pair = s.pair ∧ (setQp q x s).queues = s.queues ∧ (setQp q x s).rings = s.rings ∧ (setQp q x s).q0Wanted = s.q0Wanted ∧ (setQp q x s).due = s.due ∧ (setQp q x s).devSeq = s.devSeq ∧ (setQp q x s).chans = s.chans ∧ (setQp q x s).points = s.points ∧ (setQp q x s).nextIndex = s.nextIndex ∧ (setQp q x s).freed = s.freed ∧ (setQp q x s).opens = s.opens ∧ (setQp q x s).jobs = s.jobs ∧ (setQp q x s).nextJob = s.nextJob ∧ (setQp q x s).tlb = s.tlb ∧ (setQp q x s).inval = s.inval ∧ (setQp q x s).fetches = s.fetches ∧ (setQp q x s).nextFetch = s.nextFetch ∧ (setQp q x s).players = s.players ∧ (setQp q x s).treLast = s.treLast ∧ (setQp q x s).streams = s.streams ∧ (setQp q x s).shds = s.shds ∧ (setQp q x s).chains = s.chains ∧ (setQp q x s).relays = s.relays ∧ (setQp q x s).stores = s.stores ∧ (setQp q x s).slice = s.slice ∧ (setQp q x s).tableBanks = s.tableBanks ∧ (setQp q x s).lives = s.lives ∧ (setQp q x s).ens = s.ens :=
  ⟨rfl, rfl, rfl, rfl, rfl, rfl, rfl, rfl, rfl, rfl, rfl, rfl, rfl, rfl, rfl, rfl, rfl, rfl, rfl, rfl, rfl, rfl, rfl, rfl, rfl, rfl, rfl, rfl, rfl, rfl, rfl, rfl, rfl, rfl, rfl, rfl, rfl, rfl, rfl, rfl, rfl, rfl, rfl, rfl, rfl, rfl, rfl, rfl⟩

@[simp] theorem setSession_fields (x : Option Session) (s : State) :
    (setSession x s).pending = s.pending ∧ (setSession x s).free = s.free ∧ (setSession x s).time = s.time ∧ (setSession x s).regs = s.regs ∧ (setSession x s).latch = s.latch ∧ (setSession x s).ctr = s.ctr ∧ (setSession x s).banks = s.banks ∧ (setSession x s).sample = s.sample ∧ (setSession x s).mem = s.mem ∧ (setSession x s).poison = s.poison ∧ (setSession x s).out = s.out ∧ (setSession x s).log = s.log ∧ (setSession x s).logLost = s.logLost ∧ (setSession x s).pins = s.pins ∧ (setSession x s).ids = s.ids ∧ (setSession x s).ports = s.ports ∧ (setSession x s).qps = s.qps ∧ (setSession x s).flows = s.flows ∧ (setSession x s).servo = s.servo ∧ (setSession x s).traces = s.traces ∧ (setSession x s).pair = s.pair ∧ (setSession x s).queues = s.queues ∧ (setSession x s).rings = s.rings ∧ (setSession x s).q0Wanted = s.q0Wanted ∧ (setSession x s).due = s.due ∧ (setSession x s).devSeq = s.devSeq ∧ (setSession x s).chans = s.chans ∧ (setSession x s).points = s.points ∧ (setSession x s).nextIndex = s.nextIndex ∧ (setSession x s).freed = s.freed ∧ (setSession x s).opens = s.opens ∧ (setSession x s).jobs = s.jobs ∧ (setSession x s).nextJob = s.nextJob ∧ (setSession x s).tlb = s.tlb ∧ (setSession x s).inval = s.inval ∧ (setSession x s).fetches = s.fetches ∧ (setSession x s).nextFetch = s.nextFetch ∧ (setSession x s).players = s.players ∧ (setSession x s).treLast = s.treLast ∧ (setSession x s).streams = s.streams ∧ (setSession x s).shds = s.shds ∧ (setSession x s).chains = s.chains ∧ (setSession x s).relays = s.relays ∧ (setSession x s).stores = s.stores ∧ (setSession x s).slice = s.slice ∧ (setSession x s).tableBanks = s.tableBanks ∧ (setSession x s).lives = s.lives ∧ (setSession x s).ens = s.ens :=
  ⟨rfl, rfl, rfl, rfl, rfl, rfl, rfl, rfl, rfl, rfl, rfl, rfl, rfl, rfl, rfl, rfl, rfl, rfl, rfl, rfl, rfl, rfl, rfl, rfl, rfl, rfl, rfl, rfl, rfl, rfl, rfl, rfl, rfl, rfl, rfl, rfl, rfl, rfl, rfl, rfl, rfl, rfl, rfl, rfl, rfl, rfl, rfl, rfl⟩

@[simp] theorem setSem_fields (p i n : Nat) (s : State) :
    (setSem p i n s).pending = s.pending ∧ (setSem p i n s).free = s.free ∧ (setSem p i n s).time = s.time ∧ (setSem p i n s).regs = s.regs ∧ (setSem p i n s).latch = s.latch ∧ (setSem p i n s).ctr = s.ctr ∧ (setSem p i n s).banks = s.banks ∧ (setSem p i n s).sample = s.sample ∧ (setSem p i n s).mem = s.mem ∧ (setSem p i n s).poison = s.poison ∧ (setSem p i n s).out = s.out ∧ (setSem p i n s).log = s.log ∧ (setSem p i n s).logLost = s.logLost ∧ (setSem p i n s).pins = s.pins ∧ (setSem p i n s).ids = s.ids ∧ (setSem p i n s).boot = s.boot ∧ (setSem p i n s).ports = s.ports ∧ (setSem p i n s).qps = s.qps ∧ (setSem p i n s).flows = s.flows ∧ (setSem p i n s).servo = s.servo ∧ (setSem p i n s).traces = s.traces ∧ (setSem p i n s).pair = s.pair ∧ (setSem p i n s).queues = s.queues ∧ (setSem p i n s).rings = s.rings ∧ (setSem p i n s).q0Wanted = s.q0Wanted ∧ (setSem p i n s).due = s.due ∧ (setSem p i n s).devSeq = s.devSeq ∧ (setSem p i n s).chans = s.chans ∧ (setSem p i n s).points = s.points ∧ (setSem p i n s).nextIndex = s.nextIndex ∧ (setSem p i n s).freed = s.freed ∧ (setSem p i n s).opens = s.opens ∧ (setSem p i n s).jobs = s.jobs ∧ (setSem p i n s).nextJob = s.nextJob ∧ (setSem p i n s).tlb = s.tlb ∧ (setSem p i n s).inval = s.inval ∧ (setSem p i n s).fetches = s.fetches ∧ (setSem p i n s).nextFetch = s.nextFetch ∧ (setSem p i n s).treLast = s.treLast ∧ (setSem p i n s).streams = s.streams ∧ (setSem p i n s).shds = s.shds ∧ (setSem p i n s).chains = s.chains ∧ (setSem p i n s).relays = s.relays ∧ (setSem p i n s).stores = s.stores ∧ (setSem p i n s).slice = s.slice ∧ (setSem p i n s).tableBanks = s.tableBanks ∧ (setSem p i n s).lives = s.lives ∧ (setSem p i n s).ens = s.ens :=
  ⟨rfl, rfl, rfl, rfl, rfl, rfl, rfl, rfl, rfl, rfl, rfl, rfl, rfl, rfl, rfl, rfl, rfl, rfl, rfl, rfl, rfl, rfl, rfl, rfl, rfl, rfl, rfl, rfl, rfl, rfl, rfl, rfl, rfl, rfl, rfl, rfl, rfl, rfl, rfl, rfl, rfl, rfl, rfl, rfl, rfl, rfl, rfl, rfl⟩

@[simp] theorem setWing_fields (w : Nat) (r : Ring4) (s : State) :
    (setWing w r s).pending = s.pending ∧ (setWing w r s).free = s.free ∧ (setWing w r s).time = s.time ∧ (setWing w r s).regs = s.regs ∧ (setWing w r s).latch = s.latch ∧ (setWing w r s).ctr = s.ctr ∧ (setWing w r s).banks = s.banks ∧ (setWing w r s).sample = s.sample ∧ (setWing w r s).mem = s.mem ∧ (setWing w r s).poison = s.poison ∧ (setWing w r s).out = s.out ∧ (setWing w r s).log = s.log ∧ (setWing w r s).logLost = s.logLost ∧ (setWing w r s).pins = s.pins ∧ (setWing w r s).ids = s.ids ∧ (setWing w r s).boot = s.boot ∧ (setWing w r s).ports = s.ports ∧ (setWing w r s).qps = s.qps ∧ (setWing w r s).flows = s.flows ∧ (setWing w r s).servo = s.servo ∧ (setWing w r s).traces = s.traces ∧ (setWing w r s).pair = s.pair ∧ (setWing w r s).queues = s.queues ∧ (setWing w r s).rings = s.rings ∧ (setWing w r s).q0Wanted = s.q0Wanted ∧ (setWing w r s).due = s.due ∧ (setWing w r s).devSeq = s.devSeq ∧ (setWing w r s).chans = s.chans ∧ (setWing w r s).points = s.points ∧ (setWing w r s).nextIndex = s.nextIndex ∧ (setWing w r s).freed = s.freed ∧ (setWing w r s).opens = s.opens ∧ (setWing w r s).jobs = s.jobs ∧ (setWing w r s).nextJob = s.nextJob ∧ (setWing w r s).tlb = s.tlb ∧ (setWing w r s).inval = s.inval ∧ (setWing w r s).fetches = s.fetches ∧ (setWing w r s).nextFetch = s.nextFetch ∧ (setWing w r s).players = s.players ∧ (setWing w r s).treLast = s.treLast ∧ (setWing w r s).streams = s.streams ∧ (setWing w r s).shds = s.shds ∧ (setWing w r s).chains = s.chains ∧ (setWing w r s).stores = s.stores ∧ (setWing w r s).slice = s.slice ∧ (setWing w r s).tableBanks = s.tableBanks ∧ (setWing w r s).lives = s.lives ∧ (setWing w r s).ens = s.ens :=
  ⟨rfl, rfl, rfl, rfl, rfl, rfl, rfl, rfl, rfl, rfl, rfl, rfl, rfl, rfl, rfl, rfl, rfl, rfl, rfl, rfl, rfl, rfl, rfl, rfl, rfl, rfl, rfl, rfl, rfl, rfl, rfl, rfl, rfl, rfl, rfl, rfl, rfl, rfl, rfl, rfl, rfl, rfl, rfl, rfl, rfl, rfl, rfl, rfl⟩

@[simp] theorem setEdge_fields (c : Nat) (e : Edge) (s : State) :
    (setEdge c e s).pending = s.pending ∧ (setEdge c e s).free = s.free ∧ (setEdge c e s).time = s.time ∧ (setEdge c e s).regs = s.regs ∧ (setEdge c e s).latch = s.latch ∧ (setEdge c e s).ctr = s.ctr ∧ (setEdge c e s).banks = s.banks ∧ (setEdge c e s).sample = s.sample ∧ (setEdge c e s).mem = s.mem ∧ (setEdge c e s).poison = s.poison ∧ (setEdge c e s).out = s.out ∧ (setEdge c e s).log = s.log ∧ (setEdge c e s).logLost = s.logLost ∧ (setEdge c e s).pins = s.pins ∧ (setEdge c e s).ids = s.ids ∧ (setEdge c e s).boot = s.boot ∧ (setEdge c e s).ports = s.ports ∧ (setEdge c e s).qps = s.qps ∧ (setEdge c e s).flows = s.flows ∧ (setEdge c e s).servo = s.servo ∧ (setEdge c e s).traces = s.traces ∧ (setEdge c e s).pair = s.pair ∧ (setEdge c e s).queues = s.queues ∧ (setEdge c e s).rings = s.rings ∧ (setEdge c e s).q0Wanted = s.q0Wanted ∧ (setEdge c e s).due = s.due ∧ (setEdge c e s).devSeq = s.devSeq ∧ (setEdge c e s).chans = s.chans ∧ (setEdge c e s).points = s.points ∧ (setEdge c e s).nextIndex = s.nextIndex ∧ (setEdge c e s).freed = s.freed ∧ (setEdge c e s).opens = s.opens ∧ (setEdge c e s).jobs = s.jobs ∧ (setEdge c e s).nextJob = s.nextJob ∧ (setEdge c e s).tlb = s.tlb ∧ (setEdge c e s).inval = s.inval ∧ (setEdge c e s).fetches = s.fetches ∧ (setEdge c e s).nextFetch = s.nextFetch ∧ (setEdge c e s).players = s.players ∧ (setEdge c e s).treLast = s.treLast ∧ (setEdge c e s).streams = s.streams ∧ (setEdge c e s).shds = s.shds ∧ (setEdge c e s).relays = s.relays ∧ (setEdge c e s).stores = s.stores ∧ (setEdge c e s).slice = s.slice ∧ (setEdge c e s).tableBanks = s.tableBanks ∧ (setEdge c e s).lives = s.lives ∧ (setEdge c e s).ens = s.ens :=
  ⟨rfl, rfl, rfl, rfl, rfl, rfl, rfl, rfl, rfl, rfl, rfl, rfl, rfl, rfl, rfl, rfl, rfl, rfl, rfl, rfl, rfl, rfl, rfl, rfl, rfl, rfl, rfl, rfl, rfl, rfl, rfl, rfl, rfl, rfl, rfl, rfl, rfl, rfl, rfl, rfl, rfl, rfl, rfl, rfl, rfl, rfl, rfl, rfl⟩

@[simp] theorem setRelay_fields (w : Nat) (r : Relay) (s : State) :
    (setRelay w r s).pending = s.pending ∧ (setRelay w r s).free = s.free ∧ (setRelay w r s).time = s.time ∧ (setRelay w r s).regs = s.regs ∧ (setRelay w r s).latch = s.latch ∧ (setRelay w r s).ctr = s.ctr ∧ (setRelay w r s).banks = s.banks ∧ (setRelay w r s).sample = s.sample ∧ (setRelay w r s).mem = s.mem ∧ (setRelay w r s).poison = s.poison ∧ (setRelay w r s).out = s.out ∧ (setRelay w r s).log = s.log ∧ (setRelay w r s).logLost = s.logLost ∧ (setRelay w r s).pins = s.pins ∧ (setRelay w r s).ids = s.ids ∧ (setRelay w r s).boot = s.boot ∧ (setRelay w r s).ports = s.ports ∧ (setRelay w r s).qps = s.qps ∧ (setRelay w r s).flows = s.flows ∧ (setRelay w r s).servo = s.servo ∧ (setRelay w r s).traces = s.traces ∧ (setRelay w r s).pair = s.pair ∧ (setRelay w r s).queues = s.queues ∧ (setRelay w r s).rings = s.rings ∧ (setRelay w r s).q0Wanted = s.q0Wanted ∧ (setRelay w r s).due = s.due ∧ (setRelay w r s).devSeq = s.devSeq ∧ (setRelay w r s).chans = s.chans ∧ (setRelay w r s).points = s.points ∧ (setRelay w r s).nextIndex = s.nextIndex ∧ (setRelay w r s).freed = s.freed ∧ (setRelay w r s).opens = s.opens ∧ (setRelay w r s).jobs = s.jobs ∧ (setRelay w r s).nextJob = s.nextJob ∧ (setRelay w r s).tlb = s.tlb ∧ (setRelay w r s).inval = s.inval ∧ (setRelay w r s).fetches = s.fetches ∧ (setRelay w r s).nextFetch = s.nextFetch ∧ (setRelay w r s).players = s.players ∧ (setRelay w r s).treLast = s.treLast ∧ (setRelay w r s).streams = s.streams ∧ (setRelay w r s).shds = s.shds ∧ (setRelay w r s).chains = s.chains ∧ (setRelay w r s).stores = s.stores ∧ (setRelay w r s).slice = s.slice ∧ (setRelay w r s).tableBanks = s.tableBanks ∧ (setRelay w r s).lives = s.lives ∧ (setRelay w r s).ens = s.ens :=
  ⟨rfl, rfl, rfl, rfl, rfl, rfl, rfl, rfl, rfl, rfl, rfl, rfl, rfl, rfl, rfl, rfl, rfl, rfl, rfl, rfl, rfl, rfl, rfl, rfl, rfl, rfl, rfl, rfl, rfl, rfl, rfl, rfl, rfl, rfl, rfl, rfl, rfl, rfl, rfl, rfl, rfl, rfl, rfl, rfl, rfl, rfl, rfl, rfl⟩

@[simp] theorem nextDevSeq_fields (s : State) :
    (nextDevSeq s).2.pending = s.pending ∧ (nextDevSeq s).2.free = s.free ∧ (nextDevSeq s).2.time = s.time ∧ (nextDevSeq s).2.regs = s.regs ∧ (nextDevSeq s).2.latch = s.latch ∧ (nextDevSeq s).2.ctr = s.ctr ∧ (nextDevSeq s).2.banks = s.banks ∧ (nextDevSeq s).2.sample = s.sample ∧ (nextDevSeq s).2.mem = s.mem ∧ (nextDevSeq s).2.poison = s.poison ∧ (nextDevSeq s).2.out = s.out ∧ (nextDevSeq s).2.log = s.log ∧ (nextDevSeq s).2.logLost = s.logLost ∧ (nextDevSeq s).2.pins = s.pins ∧ (nextDevSeq s).2.ids = s.ids ∧ (nextDevSeq s).2.boot = s.boot ∧ (nextDevSeq s).2.ports = s.ports ∧ (nextDevSeq s).2.qps = s.qps ∧ (nextDevSeq s).2.flows = s.flows ∧ (nextDevSeq s).2.servo = s.servo ∧ (nextDevSeq s).2.traces = s.traces ∧ (nextDevSeq s).2.pair = s.pair ∧ (nextDevSeq s).2.queues = s.queues ∧ (nextDevSeq s).2.rings = s.rings ∧ (nextDevSeq s).2.q0Wanted = s.q0Wanted ∧ (nextDevSeq s).2.due = s.due ∧ (nextDevSeq s).2.chans = s.chans ∧ (nextDevSeq s).2.points = s.points ∧ (nextDevSeq s).2.nextIndex = s.nextIndex ∧ (nextDevSeq s).2.freed = s.freed ∧ (nextDevSeq s).2.opens = s.opens ∧ (nextDevSeq s).2.jobs = s.jobs ∧ (nextDevSeq s).2.nextJob = s.nextJob ∧ (nextDevSeq s).2.tlb = s.tlb ∧ (nextDevSeq s).2.inval = s.inval ∧ (nextDevSeq s).2.fetches = s.fetches ∧ (nextDevSeq s).2.nextFetch = s.nextFetch ∧ (nextDevSeq s).2.players = s.players ∧ (nextDevSeq s).2.treLast = s.treLast ∧ (nextDevSeq s).2.streams = s.streams ∧ (nextDevSeq s).2.shds = s.shds ∧ (nextDevSeq s).2.chains = s.chains ∧ (nextDevSeq s).2.relays = s.relays ∧ (nextDevSeq s).2.stores = s.stores ∧ (nextDevSeq s).2.slice = s.slice ∧ (nextDevSeq s).2.tableBanks = s.tableBanks ∧ (nextDevSeq s).2.lives = s.lives ∧ (nextDevSeq s).2.ens = s.ens :=
  ⟨rfl, rfl, rfl, rfl, rfl, rfl, rfl, rfl, rfl, rfl, rfl, rfl, rfl, rfl, rfl, rfl, rfl, rfl, rfl, rfl, rfl, rfl, rfl, rfl, rfl, rfl, rfl, rfl, rfl, rfl, rfl, rfl, rfl, rfl, rfl, rfl, rfl, rfl, rfl, rfl, rfl, rfl, rfl, rfl, rfl, rfl, rfl, rfl⟩

@[simp] theorem rf_mk (p : Nat) (f : Fld) (s : State) {x_pending : List Instr} {x_free : Nat} {x_time : Nat} {x_latch : Tbl Word} {x_ctr : Tbl Nat} {x_banks : Tbl Bank} {x_sample : Option (Nat × Nat × Nat)} {x_mem : List Host.Cell} {x_poison : List Nat} {x_out : List Msg} {x_log : List LogRec} {x_logLost : Nat} {x_pins : Pins} {x_ids : IdStore} {x_boot : BootSt} {x_ports : Tbl Port} {x_qps : Tbl Qp} {x_flows : Tbl Flow} {x_servo : Servo} {x_traces : Tbl Trace} {x_pair : PairSt} {x_queues : Tbl Queue} {x_rings : Tbl Ring} {x_q0Wanted : Bool} {x_due : List Due} {x_devSeq : Nat} {x_chans : Tbl Chan} {x_points : Tbl Chan} {x_nextIndex : Nat} {x_freed : List Nat} {x_opens : List OpenCmd} {x_jobs : Tbl Job} {x_nextJob : Nat} {x_tlb : List Tlb} {x_inval : Option (Nat × Nat × Nat)} {x_fetches : Tbl Fetch} {x_nextFetch : Nat} {x_players : Tbl Player} {x_treLast : Tbl Nat} {x_streams : Tbl Stream} {x_shds : Tbl Shd} {x_chains : List ChainSt} {x_relays : Tbl Ring4} {x_stores : List PicStore} {x_slice : Option (Nat × Nat)} {x_tableBanks : List (Option Nat)} {x_lives : Tbl Live} {x_ens : Tbl Ens} :
    (State.mk x_pending x_free x_time s.regs x_latch x_ctr x_banks x_sample x_mem x_poison x_out x_log x_logLost x_pins x_ids x_boot x_ports x_qps x_flows x_servo x_traces x_pair x_queues x_rings x_q0Wanted x_due x_devSeq x_chans x_points x_nextIndex x_freed x_opens x_jobs x_nextJob x_tlb x_inval x_fetches x_nextFetch x_players x_treLast x_streams x_shds x_chains x_relays x_stores x_slice x_tableBanks x_lives x_ens).rf p f = s.rf p f := rfl

@[simp] theorem reg_mk (p o : Nat) (s : State) {x_pending : List Instr} {x_free : Nat} {x_time : Nat} {x_latch : Tbl Word} {x_ctr : Tbl Nat} {x_banks : Tbl Bank} {x_sample : Option (Nat × Nat × Nat)} {x_mem : List Host.Cell} {x_poison : List Nat} {x_out : List Msg} {x_log : List LogRec} {x_logLost : Nat} {x_pins : Pins} {x_ids : IdStore} {x_boot : BootSt} {x_ports : Tbl Port} {x_qps : Tbl Qp} {x_flows : Tbl Flow} {x_servo : Servo} {x_traces : Tbl Trace} {x_pair : PairSt} {x_queues : Tbl Queue} {x_rings : Tbl Ring} {x_q0Wanted : Bool} {x_due : List Due} {x_devSeq : Nat} {x_chans : Tbl Chan} {x_points : Tbl Chan} {x_nextIndex : Nat} {x_freed : List Nat} {x_opens : List OpenCmd} {x_jobs : Tbl Job} {x_nextJob : Nat} {x_tlb : List Tlb} {x_inval : Option (Nat × Nat × Nat)} {x_fetches : Tbl Fetch} {x_nextFetch : Nat} {x_players : Tbl Player} {x_treLast : Tbl Nat} {x_streams : Tbl Stream} {x_shds : Tbl Shd} {x_chains : List ChainSt} {x_relays : Tbl Ring4} {x_stores : List PicStore} {x_slice : Option (Nat × Nat)} {x_tableBanks : List (Option Nat)} {x_lives : Tbl Live} {x_ens : Tbl Ens} :
    (State.mk x_pending x_free x_time s.regs x_latch x_ctr x_banks x_sample x_mem x_poison x_out x_log x_logLost x_pins x_ids x_boot x_ports x_qps x_flows x_servo x_traces x_pair x_queues x_rings x_q0Wanted x_due x_devSeq x_chans x_points x_nextIndex x_freed x_opens x_jobs x_nextJob x_tlb x_inval x_fetches x_nextFetch x_players x_treLast x_streams x_shds x_chains x_relays x_stores x_slice x_tableBanks x_lives x_ens).reg p o = s.reg p o := rfl

@[simp] theorem count_mk (p i : Nat) (s : State) {x_pending : List Instr} {x_free : Nat} {x_time : Nat} {x_regs : Tbl Word} {x_latch : Tbl Word} {x_banks : Tbl Bank} {x_sample : Option (Nat × Nat × Nat)} {x_mem : List Host.Cell} {x_poison : List Nat} {x_out : List Msg} {x_log : List LogRec} {x_logLost : Nat} {x_pins : Pins} {x_ids : IdStore} {x_boot : BootSt} {x_ports : Tbl Port} {x_qps : Tbl Qp} {x_flows : Tbl Flow} {x_servo : Servo} {x_traces : Tbl Trace} {x_pair : PairSt} {x_queues : Tbl Queue} {x_rings : Tbl Ring} {x_q0Wanted : Bool} {x_due : List Due} {x_devSeq : Nat} {x_chans : Tbl Chan} {x_points : Tbl Chan} {x_nextIndex : Nat} {x_freed : List Nat} {x_opens : List OpenCmd} {x_jobs : Tbl Job} {x_nextJob : Nat} {x_tlb : List Tlb} {x_inval : Option (Nat × Nat × Nat)} {x_fetches : Tbl Fetch} {x_nextFetch : Nat} {x_players : Tbl Player} {x_treLast : Tbl Nat} {x_streams : Tbl Stream} {x_shds : Tbl Shd} {x_chains : List ChainSt} {x_relays : Tbl Ring4} {x_stores : List PicStore} {x_slice : Option (Nat × Nat)} {x_tableBanks : List (Option Nat)} {x_lives : Tbl Live} {x_ens : Tbl Ens} :
    (State.mk x_pending x_free x_time x_regs x_latch s.ctr x_banks x_sample x_mem x_poison x_out x_log x_logLost x_pins x_ids x_boot x_ports x_qps x_flows x_servo x_traces x_pair x_queues x_rings x_q0Wanted x_due x_devSeq x_chans x_points x_nextIndex x_freed x_opens x_jobs x_nextJob x_tlb x_inval x_fetches x_nextFetch x_players x_treLast x_streams x_shds x_chains x_relays x_stores x_slice x_tableBanks x_lives x_ens).count p i = s.count p i := rfl

@[simp] theorem rf_bump (p i n : Nat) (s : State) (q : Nat) (f : Fld) : (bump p i n s).rf q f = s.rf q f := rfl
@[simp] theorem rf_peak (p i n : Nat) (s : State) (q : Nat) (f : Fld) : (peak p i n s).rf q f = s.rf q f := rfl
@[simp] theorem rf_wrote (n : Nat) (s : State) (q : Nat) (f : Fld) : (wrote n s).rf q f = s.rf q f := rfl
@[simp] theorem rf_store (a : Nat) (b : List Byte) (s : State) (q : Nat) (f : Fld) : (s.store a b).rf q f = s.rf q f := rfl
@[simp] theorem rf_emit (m : Msg) (s : State) (q : Nat) (f : Fld) : (emit m s).rf q f = s.rf q f := rfl
@[simp] theorem reg_bump (p i n : Nat) (s : State) (q o : Nat) : (bump p i n s).reg q o = s.reg q o := rfl
@[simp] theorem reg_wrote (n : Nat) (s : State) (q o : Nat) : (wrote n s).reg q o = s.reg q o := rfl
@[simp] theorem count_wf (p : Nat) (f : Fld) (v : Nat) (s : State) (q i : Nat) : (s.wf p f v).count q i = s.count q i := rfl
@[simp] theorem count_setReg (p o : Nat) (w : Word) (s : State) (q i : Nat) : (s.setReg p o w).count q i = s.count q i := rfl
@[simp] theorem count_store (a : Nat) (b : List Byte) (s : State) (q i : Nat) : (s.store a b).count q i = s.count q i := rfl
@[simp] theorem count_emit (m : Msg) (s : State) (q i : Nat) : (emit m s).count q i = s.count q i := rfl

end Sys2Proof.Machine
end

