-- ==== Sys2Proof/Laws/Fields.lean ====
section
/-! SUPPORT. The fields of State that the shared operations keep, from Laws/Only*.lean. -/

namespace Sys2Proof.Machine

@[simp] theorem alertUpdate_fields (s : State) :
    (alertUpdate s).pending = s.pending ∧ (alertUpdate s).free = s.free ∧ (alertUpdate s).time = s.time ∧ (alertUpdate s).latch = s.latch ∧ (alertUpdate s).banks = s.banks ∧ (alertUpdate s).sample = s.sample ∧ (alertUpdate s).mem = s.mem ∧ (alertUpdate s).poison = s.poison ∧ (alertUpdate s).out = s.out ∧ (alertUpdate s).log = s.log ∧ (alertUpdate s).logLost = s.logLost ∧ (alertUpdate s).ids = s.ids ∧ (alertUpdate s).boot = s.boot ∧ (alertUpdate s).ports = s.ports ∧ (alertUpdate s).qps = s.qps ∧ (alertUpdate s).flows = s.flows ∧ (alertUpdate s).servo = s.servo ∧ (alertUpdate s).traces = s.traces ∧ (alertUpdate s).pair = s.pair ∧ (alertUpdate s).queues = s.queues ∧ (alertUpdate s).rings = s.rings ∧ (alertUpdate s).q0Wanted = s.q0Wanted ∧ (alertUpdate s).due = s.due ∧ (alertUpdate s).devSeq = s.devSeq ∧ (alertUpdate s).chans = s.chans ∧ (alertUpdate s).points = s.points ∧ (alertUpdate s).nextIndex = s.nextIndex ∧ (alertUpdate s).freed = s.freed ∧ (alertUpdate s).opens = s.opens ∧ (alertUpdate s).jobs = s.jobs ∧ (alertUpdate s).nextJob = s.nextJob ∧ (alertUpdate s).tlb = s.tlb ∧ (alertUpdate s).inval = s.inval ∧ (alertUpdate s).fetches = s.fetches ∧ (alertUpdate s).nextFetch = s.nextFetch ∧ (alertUpdate s).players = s.players ∧ (alertUpdate s).treLast = s.treLast ∧ (alertUpdate s).streams = s.streams ∧ (alertUpdate s).shds = s.shds ∧ (alertUpdate s).chains = s.chains ∧ (alertUpdate s).relays = s.relays ∧ (alertUpdate s).stores = s.stores ∧ (alertUpdate s).slice = s.slice ∧ (alertUpdate s).tableBanks = s.tableBanks ∧ (alertUpdate s).lives = s.lives ∧ (alertUpdate s).ens = s.ens := by
  have h : Only [.regs, .ctr, .pins] s (alertUpdate s) := by simp [Only.refl]
  exact ⟨h.same .pending (by decide), h.same .free (by decide), h.same .time (by decide), h.same .latch (by decide), h.same .banks (by decide), h.same .sample (by decide), h.same .mem (by decide), h.same .poison (by decide), h.same .out (by decide), h.same .log (by decide), h.same .logLost (by decide), h.same .ids (by decide), h.same .boot (by decide), h.same .ports (by decide), h.same .qps (by decide), h.same .flows (by decide), h.same .servo (by decide), h.same .traces (by decide), h.same .pair (by decide), h.same .queues (by decide), h.same .rings (by decide), h.same .q0Wanted (by decide), h.same .due (by decide), h.same .devSeq (by decide), h.same .chans (by decide), h.same .points (by decide), h.same .nextIndex (by decide), h.same .freed (by decide), h.same .opens (by decide), h.same .jobs (by decide), h.same .nextJob (by decide), h.same .tlb (by decide), h.same .inval (by decide), h.same .fetches (by decide), h.same .nextFetch (by decide), h.same .players (by decide), h.same .treLast (by decide), h.same .streams (by decide), h.same .shds (by decide), h.same .chains (by decide), h.same .relays (by decide), h.same .stores (by decide), h.same .slice (by decide), h.same .tableBanks (by decide), h.same .lives (by decide), h.same .ens (by decide)⟩

@[simp] theorem record_fields (page code : Nat) (s : State) :
    (record page code s).pending = s.pending ∧ (record page code s).free = s.free ∧ (record page code s).time = s.time ∧ (record page code s).latch = s.latch ∧ (record page code s).banks = s.banks ∧ (record page code s).sample = s.sample ∧ (record page code s).mem = s.mem ∧ (record page code s).poison = s.poison ∧ (record page code s).out = s.out ∧ (record page code s).log = s.log ∧ (record page code s).logLost = s.logLost ∧ (record page code s).ids = s.ids ∧ (record page code s).boot = s.boot ∧ (record page code s).ports = s.ports ∧ (record page code s).qps = s.qps ∧ (record page code s).flows = s.flows ∧ (record page code s).servo = s.servo ∧ (record page code s).traces = s.traces ∧ (record page code s).pair = s.pair ∧ (record page code s).queues = s.queues ∧ (record page code s).rings = s.rings ∧ (record page code s).q0Wanted = s.q0Wanted ∧ (record page code s).due = s.due ∧ (record page code s).devSeq = s.devSeq ∧ (record page code s).chans = s.chans ∧ (record page code s).points = s.points ∧ (record page code s).nextIndex = s.nextIndex ∧ (record page code s).freed = s.freed ∧ (record page code s).opens = s.opens ∧ (record page code s).jobs = s.jobs ∧ (record page code s).nextJob = s.nextJob ∧ (record page code s).tlb = s.tlb ∧ (record page code s).inval = s.inval ∧ (record page code s).fetches = s.fetches ∧ (record page code s).nextFetch = s.nextFetch ∧ (record page code s).players = s.players ∧ (record page code s).treLast = s.treLast ∧ (record page code s).streams = s.streams ∧ (record page code s).shds = s.shds ∧ (record page code s).chains = s.chains ∧ (record page code s).relays = s.relays ∧ (record page code s).stores = s.stores ∧ (record page code s).slice = s.slice ∧ (record page code s).tableBanks = s.tableBanks ∧ (record page code s).lives = s.lives ∧ (record page code s).ens = s.ens := by
  have h : Only [.regs, .ctr, .pins] s (record page code s) := by simp [Only.refl]
  exact ⟨h.same .pending (by decide), h.same .free (by decide), h.same .time (by decide), h.same .latch (by decide), h.same .banks (by decide), h.same .sample (by decide), h.same .mem (by decide), h.same .poison (by decide), h.same .out (by decide), h.same .log (by decide), h.same .logLost (by decide), h.same .ids (by decide), h.same .boot (by decide), h.same .ports (by decide), h.same .qps (by decide), h.same .flows (by decide), h.same .servo (by decide), h.same .traces (by decide), h.same .pair (by decide), h.same .queues (by decide), h.same .rings (by decide), h.same .q0Wanted (by decide), h.same .due (by decide), h.same .devSeq (by decide), h.same .chans (by decide), h.same .points (by decide), h.same .nextIndex (by decide), h.same .freed (by decide), h.same .opens (by decide), h.same .jobs (by decide), h.same .nextJob (by decide), h.same .tlb (by decide), h.same .inval (by decide), h.same .fetches (by decide), h.same .nextFetch (by decide), h.same .players (by decide), h.same .treLast (by decide), h.same .streams (by decide), h.same .shds (by decide), h.same .chains (by decide), h.same .relays (by decide), h.same .stores (by decide), h.same .slice (by decide), h.same .tableBanks (by decide), h.same .lives (by decide), h.same .ens (by decide)⟩

@[simp] theorem board_fields (code inst handle seq d0 d1 : Nat) (s : State) :
    (board code inst handle seq d0 d1 s).pending = s.pending ∧ (board code inst handle seq d0 d1 s).free = s.free ∧ (board code inst handle seq d0 d1 s).time = s.time ∧ (board code inst handle seq d0 d1 s).latch = s.latch ∧ (board code inst handle seq d0 d1 s).banks = s.banks ∧ (board code inst handle seq d0 d1 s).sample = s.sample ∧ (board code inst handle seq d0 d1 s).mem = s.mem ∧ (board code inst handle seq d0 d1 s).poison = s.poison ∧ (board code inst handle seq d0 d1 s).out = s.out ∧ (board code inst handle seq d0 d1 s).ids = s.ids ∧ (board code inst handle seq d0 d1 s).boot = s.boot ∧ (board code inst handle seq d0 d1 s).ports = s.ports ∧ (board code inst handle seq d0 d1 s).qps = s.qps ∧ (board code inst handle seq d0 d1 s).flows = s.flows ∧ (board code inst handle seq d0 d1 s).servo = s.servo ∧ (board code inst handle seq d0 d1 s).traces = s.traces ∧ (board code inst handle seq d0 d1 s).pair = s.pair ∧ (board code inst handle seq d0 d1 s).queues = s.queues ∧ (board code inst handle seq d0 d1 s).rings = s.rings ∧ (board code inst handle seq d0 d1 s).q0Wanted = s.q0Wanted ∧ (board code inst handle seq d0 d1 s).due = s.due ∧ (board code inst handle seq d0 d1 s).devSeq = s.devSeq ∧ (board code inst handle seq d0 d1 s).chans = s.chans ∧ (board code inst handle seq d0 d1 s).points = s.points ∧ (board code inst handle seq d0 d1 s).nextIndex = s.nextIndex ∧ (board code inst handle seq d0 d1 s).freed = s.freed ∧ (board code inst handle seq d0 d1 s).opens = s.opens ∧ (board code inst handle seq d0 d1 s).jobs = s.jobs ∧ (board code inst handle seq d0 d1 s).nextJob = s.nextJob ∧ (board code inst handle seq d0 d1 s).tlb = s.tlb ∧ (board code inst handle seq d0 d1 s).inval = s.inval ∧ (board code inst handle seq d0 d1 s).fetches = s.fetches ∧ (board code inst handle seq d0 d1 s).nextFetch = s.nextFetch ∧ (board code inst handle seq d0 d1 s).players = s.players ∧ (board code inst handle seq d0 d1 s).treLast = s.treLast ∧ (board code inst handle seq d0 d1 s).streams = s.streams ∧ (board code inst handle seq d0 d1 s).shds = s.shds ∧ (board code inst handle seq d0 d1 s).chains = s.chains ∧ (board code inst handle seq d0 d1 s).relays = s.relays ∧ (board code inst handle seq d0 d1 s).stores = s.stores ∧ (board code inst handle seq d0 d1 s).slice = s.slice ∧ (board code inst handle seq d0 d1 s).tableBanks = s.tableBanks ∧ (board code inst handle seq d0 d1 s).lives = s.lives ∧ (board code inst handle seq d0 d1 s).ens = s.ens := by
  have h : Only [.regs, .ctr, .log, .logLost, .pins] s (board code inst handle seq d0 d1 s) := by simp [Only.refl]
  exact ⟨h.same .pending (by decide), h.same .free (by decide), h.same .time (by decide), h.same .latch (by decide), h.same .banks (by decide), h.same .sample (by decide), h.same .mem (by decide), h.same .poison (by decide), h.same .out (by decide), h.same .ids (by decide), h.same .boot (by decide), h.same .ports (by decide), h.same .qps (by decide), h.same .flows (by decide), h.same .servo (by decide), h.same .traces (by decide), h.same .pair (by decide), h.same .queues (by decide), h.same .rings (by decide), h.same .q0Wanted (by decide), h.same .due (by decide), h.same .devSeq (by decide), h.same .chans (by decide), h.same .points (by decide), h.same .nextIndex (by decide), h.same .freed (by decide), h.same .opens (by decide), h.same .jobs (by decide), h.same .nextJob (by decide), h.same .tlb (by decide), h.same .inval (by decide), h.same .fetches (by decide), h.same .nextFetch (by decide), h.same .players (by decide), h.same .treLast (by decide), h.same .streams (by decide), h.same .shds (by decide), h.same .chains (by decide), h.same .relays (by decide), h.same .stores (by decide), h.same .slice (by decide), h.same .tableBanks (by decide), h.same .lives (by decide), h.same .ens (by decide)⟩

@[simp] theorem logGap_fields (s : State) :
    (logGap s).pending = s.pending ∧ (logGap s).free = s.free ∧ (logGap s).time = s.time ∧ (logGap s).latch = s.latch ∧ (logGap s).banks = s.banks ∧ (logGap s).sample = s.sample ∧ (logGap s).mem = s.mem ∧ (logGap s).poison = s.poison ∧ (logGap s).out = s.out ∧ (logGap s).ids = s.ids ∧ (logGap s).boot = s.boot ∧ (logGap s).ports = s.ports ∧ (logGap s).qps = s.qps ∧ (logGap s).flows = s.flows ∧ (logGap s).servo = s.servo ∧ (logGap s).traces = s.traces ∧ (logGap s).pair = s.pair ∧ (logGap s).queues = s.queues ∧ (logGap s).rings = s.rings ∧ (logGap s).q0Wanted = s.q0Wanted ∧ (logGap s).due = s.due ∧ (logGap s).devSeq = s.devSeq ∧ (logGap s).chans = s.chans ∧ (logGap s).points = s.points ∧ (logGap s).nextIndex = s.nextIndex ∧ (logGap s).freed = s.freed ∧ (logGap s).opens = s.opens ∧ (logGap s).jobs = s.jobs ∧ (logGap s).nextJob = s.nextJob ∧ (logGap s).tlb = s.tlb ∧ (logGap s).inval = s.inval ∧ (logGap s).fetches = s.fetches ∧ (logGap s).nextFetch = s.nextFetch ∧ (logGap s).players = s.players ∧ (logGap s).treLast = s.treLast ∧ (logGap s).streams = s.streams ∧ (logGap s).shds = s.shds ∧ (logGap s).chains = s.chains ∧ (logGap s).relays = s.relays ∧ (logGap s).stores = s.stores ∧ (logGap s).slice = s.slice ∧ (logGap s).tableBanks = s.tableBanks ∧ (logGap s).lives = s.lives ∧ (logGap s).ens = s.ens := by
  have h : Only [.regs, .ctr, .log, .logLost, .pins] s (logGap s) := by simp [Only.refl]
  exact ⟨h.same .pending (by decide), h.same .free (by decide), h.same .time (by decide), h.same .latch (by decide), h.same .banks (by decide), h.same .sample (by decide), h.same .mem (by decide), h.same .poison (by decide), h.same .out (by decide), h.same .ids (by decide), h.same .boot (by decide), h.same .ports (by decide), h.same .qps (by decide), h.same .flows (by decide), h.same .servo (by decide), h.same .traces (by decide), h.same .pair (by decide), h.same .queues (by decide), h.same .rings (by decide), h.same .q0Wanted (by decide), h.same .due (by decide), h.same .devSeq (by decide), h.same .chans (by decide), h.same .points (by decide), h.same .nextIndex (by decide), h.same .freed (by decide), h.same .opens (by decide), h.same .jobs (by decide), h.same .nextJob (by decide), h.same .tlb (by decide), h.same .inval (by decide), h.same .fetches (by decide), h.same .nextFetch (by decide), h.same .players (by decide), h.same .treLast (by decide), h.same .streams (by decide), h.same .shds (by decide), h.same .chains (by decide), h.same .relays (by decide), h.same .stores (by decide), h.same .slice (by decide), h.same .tableBanks (by decide), h.same .lives (by decide), h.same .ens (by decide)⟩

@[simp] theorem postFull_fields (page code handle seq d0 d1 : Nat) (s : State) :
    (postFull page code handle seq d0 d1 s).pending = s.pending ∧ (postFull page code handle seq d0 d1 s).free = s.free ∧ (postFull page code handle seq d0 d1 s).time = s.time ∧ (postFull page code handle seq d0 d1 s).latch = s.latch ∧ (postFull page code handle seq d0 d1 s).banks = s.banks ∧ (postFull page code handle seq d0 d1 s).sample = s.sample ∧ (postFull page code handle seq d0 d1 s).mem = s.mem ∧ (postFull page code handle seq d0 d1 s).poison = s.poison ∧ (postFull page code handle seq d0 d1 s).out = s.out ∧ (postFull page code handle seq d0 d1 s).ids = s.ids ∧ (postFull page code handle seq d0 d1 s).boot = s.boot ∧ (postFull page code handle seq d0 d1 s).ports = s.ports ∧ (postFull page code handle seq d0 d1 s).qps = s.qps ∧ (postFull page code handle seq d0 d1 s).flows = s.flows ∧ (postFull page code handle seq d0 d1 s).servo = s.servo ∧ (postFull page code handle seq d0 d1 s).traces = s.traces ∧ (postFull page code handle seq d0 d1 s).pair = s.pair ∧ (postFull page code handle seq d0 d1 s).queues = s.queues ∧ (postFull page code handle seq d0 d1 s).rings = s.rings ∧ (postFull page code handle seq d0 d1 s).q0Wanted = s.q0Wanted ∧ (postFull page code handle seq d0 d1 s).due = s.due ∧ (postFull page code handle seq d0 d1 s).devSeq = s.devSeq ∧ (postFull page code handle seq d0 d1 s).chans = s.chans ∧ (postFull page code handle seq d0 d1 s).points = s.points ∧ (postFull page code handle seq d0 d1 s).nextIndex = s.nextIndex ∧ (postFull page code handle seq d0 d1 s).freed = s.freed ∧ (postFull page code handle seq d0 d1 s).opens = s.opens ∧ (postFull page code handle seq d0 d1 s).jobs = s.jobs ∧ (postFull page code handle seq d0 d1 s).nextJob = s.nextJob ∧ (postFull page code handle seq d0 d1 s).tlb = s.tlb ∧ (postFull page code handle seq d0 d1 s).inval = s.inval ∧ (postFull page code handle seq d0 d1 s).fetches = s.fetches ∧ (postFull page code handle seq d0 d1 s).nextFetch = s.nextFetch ∧ (postFull page code handle seq d0 d1 s).players = s.players ∧ (postFull page code handle seq d0 d1 s).treLast = s.treLast ∧ (postFull page code handle seq d0 d1 s).streams = s.streams ∧ (postFull page code handle seq d0 d1 s).shds = s.shds ∧ (postFull page code handle seq d0 d1 s).chains = s.chains ∧ (postFull page code handle seq d0 d1 s).relays = s.relays ∧ (postFull page code handle seq d0 d1 s).stores = s.stores ∧ (postFull page code handle seq d0 d1 s).slice = s.slice ∧ (postFull page code handle seq d0 d1 s).tableBanks = s.tableBanks ∧ (postFull page code handle seq d0 d1 s).lives = s.lives ∧ (postFull page code handle seq d0 d1 s).ens = s.ens := by
  have h : Only [.regs, .ctr, .log, .logLost, .pins] s (postFull page code handle seq d0 d1 s) := by simp [Only.refl]
  exact ⟨h.same .pending (by decide), h.same .free (by decide), h.same .time (by decide), h.same .latch (by decide), h.same .banks (by decide), h.same .sample (by decide), h.same .mem (by decide), h.same .poison (by decide), h.same .out (by decide), h.same .ids (by decide), h.same .boot (by decide), h.same .ports (by decide), h.same .qps (by decide), h.same .flows (by decide), h.same .servo (by decide), h.same .traces (by decide), h.same .pair (by decide), h.same .queues (by decide), h.same .rings (by decide), h.same .q0Wanted (by decide), h.same .due (by decide), h.same .devSeq (by decide), h.same .chans (by decide), h.same .points (by decide), h.same .nextIndex (by decide), h.same .freed (by decide), h.same .opens (by decide), h.same .jobs (by decide), h.same .nextJob (by decide), h.same .tlb (by decide), h.same .inval (by decide), h.same .fetches (by decide), h.same .nextFetch (by decide), h.same .players (by decide), h.same .treLast (by decide), h.same .streams (by decide), h.same .shds (by decide), h.same .chains (by decide), h.same .relays (by decide), h.same .stores (by decide), h.same .slice (by decide), h.same .tableBanks (by decide), h.same .lives (by decide), h.same .ens (by decide)⟩

@[simp] theorem post_fields (page code : Nat) (s : State) :
    (post page code s).pending = s.pending ∧ (post page code s).free = s.free ∧ (post page code s).time = s.time ∧ (post page code s).latch = s.latch ∧ (post page code s).banks = s.banks ∧ (post page code s).sample = s.sample ∧ (post page code s).mem = s.mem ∧ (post page code s).poison = s.poison ∧ (post page code s).out = s.out ∧ (post page code s).ids = s.ids ∧ (post page code s).boot = s.boot ∧ (post page code s).ports = s.ports ∧ (post page code s).qps = s.qps ∧ (post page code s).flows = s.flows ∧ (post page code s).servo = s.servo ∧ (post page code s).traces = s.traces ∧ (post page code s).pair = s.pair ∧ (post page code s).queues = s.queues ∧ (post page code s).rings = s.rings ∧ (post page code s).q0Wanted = s.q0Wanted ∧ (post page code s).due = s.due ∧ (post page code s).devSeq = s.devSeq ∧ (post page code s).chans = s.chans ∧ (post page code s).points = s.points ∧ (post page code s).nextIndex = s.nextIndex ∧ (post page code s).freed = s.freed ∧ (post page code s).opens = s.opens ∧ (post page code s).jobs = s.jobs ∧ (post page code s).nextJob = s.nextJob ∧ (post page code s).tlb = s.tlb ∧ (post page code s).inval = s.inval ∧ (post page code s).fetches = s.fetches ∧ (post page code s).nextFetch = s.nextFetch ∧ (post page code s).players = s.players ∧ (post page code s).treLast = s.treLast ∧ (post page code s).streams = s.streams ∧ (post page code s).shds = s.shds ∧ (post page code s).chains = s.chains ∧ (post page code s).relays = s.relays ∧ (post page code s).stores = s.stores ∧ (post page code s).slice = s.slice ∧ (post page code s).tableBanks = s.tableBanks ∧ (post page code s).lives = s.lives ∧ (post page code s).ens = s.ens := by
  have h : Only [.regs, .ctr, .log, .logLost, .pins] s (post page code s) := by simp [Only.refl]
  exact ⟨h.same .pending (by decide), h.same .free (by decide), h.same .time (by decide), h.same .latch (by decide), h.same .banks (by decide), h.same .sample (by decide), h.same .mem (by decide), h.same .poison (by decide), h.same .out (by decide), h.same .ids (by decide), h.same .boot (by decide), h.same .ports (by decide), h.same .qps (by decide), h.same .flows (by decide), h.same .servo (by decide), h.same .traces (by decide), h.same .pair (by decide), h.same .queues (by decide), h.same .rings (by decide), h.same .q0Wanted (by decide), h.same .due (by decide), h.same .devSeq (by decide), h.same .chans (by decide), h.same .points (by decide), h.same .nextIndex (by decide), h.same .freed (by decide), h.same .opens (by decide), h.same .jobs (by decide), h.same .nextJob (by decide), h.same .tlb (by decide), h.same .inval (by decide), h.same .fetches (by decide), h.same .nextFetch (by decide), h.same .players (by decide), h.same .treLast (by decide), h.same .streams (by decide), h.same .shds (by decide), h.same .chains (by decide), h.same .relays (by decide), h.same .stores (by decide), h.same .slice (by decide), h.same .tableBanks (by decide), h.same .lives (by decide), h.same .ens (by decide)⟩

@[simp] theorem holdRecord_fields (page : Nat) (valid : Fld) (w : List (Fld × Nat)) (s : State) :
    (holdRecord page valid w s).pending = s.pending ∧ (holdRecord page valid w s).free = s.free ∧ (holdRecord page valid w s).time = s.time ∧ (holdRecord page valid w s).latch = s.latch ∧ (holdRecord page valid w s).ctr = s.ctr ∧ (holdRecord page valid w s).banks = s.banks ∧ (holdRecord page valid w s).sample = s.sample ∧ (holdRecord page valid w s).mem = s.mem ∧ (holdRecord page valid w s).poison = s.poison ∧ (holdRecord page valid w s).out = s.out ∧ (holdRecord page valid w s).log = s.log ∧ (holdRecord page valid w s).logLost = s.logLost ∧ (holdRecord page valid w s).pins = s.pins ∧ (holdRecord page valid w s).ids = s.ids ∧ (holdRecord page valid w s).boot = s.boot ∧ (holdRecord page valid w s).ports = s.ports ∧ (holdRecord page valid w s).qps = s.qps ∧ (holdRecord page valid w s).flows = s.flows ∧ (holdRecord page valid w s).servo = s.servo ∧ (holdRecord page valid w s).traces = s.traces ∧ (holdRecord page valid w s).pair = s.pair ∧ (holdRecord page valid w s).queues = s.queues ∧ (holdRecord page valid w s).rings = s.rings ∧ (holdRecord page valid w s).q0Wanted = s.q0Wanted ∧ (holdRecord page valid w s).due = s.due ∧ (holdRecord page valid w s).devSeq = s.devSeq ∧ (holdRecord page valid w s).chans = s.chans ∧ (holdRecord page valid w s).points = s.points ∧ (holdRecord page valid w s).nextIndex = s.nextIndex ∧ (holdRecord page valid w s).freed = s.freed ∧ (holdRecord page valid w s).opens = s.opens ∧ (holdRecord page valid w s).jobs = s.jobs ∧ (holdRecord page valid w s).nextJob = s.nextJob ∧ (holdRecord page valid w s).tlb = s.tlb ∧ (holdRecord page valid w s).inval = s.inval ∧ (holdRecord page valid w s).fetches = s.fetches ∧ (holdRecord page valid w s).nextFetch = s.nextFetch ∧ (holdRecord page valid w s).players = s.players ∧ (holdRecord page valid w s).treLast = s.treLast ∧ (holdRecord page valid w s).streams = s.streams ∧ (holdRecord page valid w s).shds = s.shds ∧ (holdRecord page valid w s).chains = s.chains ∧ (holdRecord page valid w s).relays = s.relays ∧ (holdRecord page valid w s).stores = s.stores ∧ (holdRecord page valid w s).slice = s.slice ∧ (holdRecord page valid w s).tableBanks = s.tableBanks ∧ (holdRecord page valid w s).lives = s.lives ∧ (holdRecord page valid w s).ens = s.ens := by
  have h : Only [.regs] s (holdRecord page valid w s) := by simp [Only.refl]
  exact ⟨h.same .pending (by decide), h.same .free (by decide), h.same .time (by decide), h.same .latch (by decide), h.same .ctr (by decide), h.same .banks (by decide), h.same .sample (by decide), h.same .mem (by decide), h.same .poison (by decide), h.same .out (by decide), h.same .log (by decide), h.same .logLost (by decide), h.same .pins (by decide), h.same .ids (by decide), h.same .boot (by decide), h.same .ports (by decide), h.same .qps (by decide), h.same .flows (by decide), h.same .servo (by decide), h.same .traces (by decide), h.same .pair (by decide), h.same .queues (by decide), h.same .rings (by decide), h.same .q0Wanted (by decide), h.same .due (by decide), h.same .devSeq (by decide), h.same .chans (by decide), h.same .points (by decide), h.same .nextIndex (by decide), h.same .freed (by decide), h.same .opens (by decide), h.same .jobs (by decide), h.same .nextJob (by decide), h.same .tlb (by decide), h.same .inval (by decide), h.same .fetches (by decide), h.same .nextFetch (by decide), h.same .players (by decide), h.same .treLast (by decide), h.same .streams (by decide), h.same .shds (by decide), h.same .chains (by decide), h.same .relays (by decide), h.same .stores (by decide), h.same .slice (by decide), h.same .tableBanks (by decide), h.same .lives (by decide), h.same .ens (by decide)⟩

@[simp] theorem setStat_fields (page : Nat) (f : Fld) (v : Nat) (s : State) :
    (setStat page f v s).pending = s.pending ∧ (setStat page f v s).free = s.free ∧ (setStat page f v s).time = s.time ∧ (setStat page f v s).latch = s.latch ∧ (setStat page f v s).banks = s.banks ∧ (setStat page f v s).sample = s.sample ∧ (setStat page f v s).mem = s.mem ∧ (setStat page f v s).poison = s.poison ∧ (setStat page f v s).out = s.out ∧ (setStat page f v s).ids = s.ids ∧ (setStat page f v s).boot = s.boot ∧ (setStat page f v s).ports = s.ports ∧ (setStat page f v s).qps = s.qps ∧ (setStat page f v s).flows = s.flows ∧ (setStat page f v s).servo = s.servo ∧ (setStat page f v s).traces = s.traces ∧ (setStat page f v s).pair = s.pair ∧ (setStat page f v s).queues = s.queues ∧ (setStat page f v s).rings = s.rings ∧ (setStat page f v s).q0Wanted = s.q0Wanted ∧ (setStat page f v s).due = s.due ∧ (setStat page f v s).devSeq = s.devSeq ∧ (setStat page f v s).chans = s.chans ∧ (setStat page f v s).points = s.points ∧ (setStat page f v s).nextIndex = s.nextIndex ∧ (setStat page f v s).freed = s.freed ∧ (setStat page f v s).opens = s.opens ∧ (setStat page f v s).jobs = s.jobs ∧ (setStat page f v s).nextJob = s.nextJob ∧ (setStat page f v s).tlb = s.tlb ∧ (setStat page f v s).inval = s.inval ∧ (setStat page f v s).fetches = s.fetches ∧ (setStat page f v s).nextFetch = s.nextFetch ∧ (setStat page f v s).players = s.players ∧ (setStat page f v s).treLast = s.treLast ∧ (setStat page f v s).streams = s.streams ∧ (setStat page f v s).shds = s.shds ∧ (setStat page f v s).chains = s.chains ∧ (setStat page f v s).relays = s.relays ∧ (setStat page f v s).stores = s.stores ∧ (setStat page f v s).slice = s.slice ∧ (setStat page f v s).tableBanks = s.tableBanks ∧ (setStat page f v s).lives = s.lives ∧ (setStat page f v s).ens = s.ens := by
  have h : Only [.regs, .ctr, .log, .logLost, .pins] s (setStat page f v s) := by simp [Only.refl]
  exact ⟨h.same .pending (by decide), h.same .free (by decide), h.same .time (by decide), h.same .latch (by decide), h.same .banks (by decide), h.same .sample (by decide), h.same .mem (by decide), h.same .poison (by decide), h.same .out (by decide), h.same .ids (by decide), h.same .boot (by decide), h.same .ports (by decide), h.same .qps (by decide), h.same .flows (by decide), h.same .servo (by decide), h.same .traces (by decide), h.same .pair (by decide), h.same .queues (by decide), h.same .rings (by decide), h.same .q0Wanted (by decide), h.same .due (by decide), h.same .devSeq (by decide), h.same .chans (by decide), h.same .points (by decide), h.same .nextIndex (by decide), h.same .freed (by decide), h.same .opens (by decide), h.same .jobs (by decide), h.same .nextJob (by decide), h.same .tlb (by decide), h.same .inval (by decide), h.same .fetches (by decide), h.same .nextFetch (by decide), h.same .players (by decide), h.same .treLast (by decide), h.same .streams (by decide), h.same .shds (by decide), h.same .chains (by decide), h.same .relays (by decide), h.same .stores (by decide), h.same .slice (by decide), h.same .tableBanks (by decide), h.same .lives (by decide), h.same .ens (by decide)⟩

@[simp] theorem probe_fields (s : State) :
    (probe s).pending = s.pending ∧ (probe s).free = s.free ∧ (probe s).time = s.time ∧ (probe s).latch = s.latch ∧ (probe s).ctr = s.ctr ∧ (probe s).banks = s.banks ∧ (probe s).sample = s.sample ∧ (probe s).mem = s.mem ∧ (probe s).poison = s.poison ∧ (probe s).out = s.out ∧ (probe s).log = s.log ∧ (probe s).logLost = s.logLost ∧ (probe s).pins = s.pins ∧ (probe s).ids = s.ids ∧ (probe s).boot = s.boot ∧ (probe s).ports = s.ports ∧ (probe s).qps = s.qps ∧ (probe s).flows = s.flows ∧ (probe s).servo = s.servo ∧ (probe s).traces = s.traces ∧ (probe s).pair = s.pair ∧ (probe s).queues = s.queues ∧ (probe s).rings = s.rings ∧ (probe s).q0Wanted = s.q0Wanted ∧ (probe s).due = s.due ∧ (probe s).devSeq = s.devSeq ∧ (probe s).chans = s.chans ∧ (probe s).points = s.points ∧ (probe s).nextIndex = s.nextIndex ∧ (probe s).freed = s.freed ∧ (probe s).opens = s.opens ∧ (probe s).jobs = s.jobs ∧ (probe s).nextJob = s.nextJob ∧ (probe s).tlb = s.tlb ∧ (probe s).inval = s.inval ∧ (probe s).fetches = s.fetches ∧ (probe s).nextFetch = s.nextFetch ∧ (probe s).players = s.players ∧ (probe s).treLast = s.treLast ∧ (probe s).streams = s.streams ∧ (probe s).shds = s.shds ∧ (probe s).chains = s.chains ∧ (probe s).relays = s.relays ∧ (probe s).stores = s.stores ∧ (probe s).slice = s.slice ∧ (probe s).tableBanks = s.tableBanks ∧ (probe s).lives = s.lives ∧ (probe s).ens = s.ens := by
  have h : Only [.regs] s (probe s) := by simp [Only.refl]
  exact ⟨h.same .pending (by decide), h.same .free (by decide), h.same .time (by decide), h.same .latch (by decide), h.same .ctr (by decide), h.same .banks (by decide), h.same .sample (by decide), h.same .mem (by decide), h.same .poison (by decide), h.same .out (by decide), h.same .log (by decide), h.same .logLost (by decide), h.same .pins (by decide), h.same .ids (by decide), h.same .boot (by decide), h.same .ports (by decide), h.same .qps (by decide), h.same .flows (by decide), h.same .servo (by decide), h.same .traces (by decide), h.same .pair (by decide), h.same .queues (by decide), h.same .rings (by decide), h.same .q0Wanted (by decide), h.same .due (by decide), h.same .devSeq (by decide), h.same .chans (by decide), h.same .points (by decide), h.same .nextIndex (by decide), h.same .freed (by decide), h.same .opens (by decide), h.same .jobs (by decide), h.same .nextJob (by decide), h.same .tlb (by decide), h.same .inval (by decide), h.same .fetches (by decide), h.same .nextFetch (by decide), h.same .players (by decide), h.same .treLast (by decide), h.same .streams (by decide), h.same .shds (by decide), h.same .chains (by decide), h.same .relays (by decide), h.same .stores (by decide), h.same .slice (by decide), h.same .tableBanks (by decide), h.same .lives (by decide), h.same .ens (by decide)⟩

@[simp] theorem setChan_fields (i : Nat) (c : Chan) (s : State) :
    (setChan i c s).pending = s.pending ∧ (setChan i c s).free = s.free ∧ (setChan i c s).time = s.time ∧ (setChan i c s).latch = s.latch ∧ (setChan i c s).ctr = s.ctr ∧ (setChan i c s).banks = s.banks ∧ (setChan i c s).sample = s.sample ∧ (setChan i c s).mem = s.mem ∧ (setChan i c s).poison = s.poison ∧ (setChan i c s).out = s.out ∧ (setChan i c s).log = s.log ∧ (setChan i c s).logLost = s.logLost ∧ (setChan i c s).pins = s.pins ∧ (setChan i c s).ids = s.ids ∧ (setChan i c s).boot = s.boot ∧ (setChan i c s).ports = s.ports ∧ (setChan i c s).qps = s.qps ∧ (setChan i c s).flows = s.flows ∧ (setChan i c s).servo = s.servo ∧ (setChan i c s).traces = s.traces ∧ (setChan i c s).pair = s.pair ∧ (setChan i c s).queues = s.queues ∧ (setChan i c s).rings = s.rings ∧ (setChan i c s).q0Wanted = s.q0Wanted ∧ (setChan i c s).due = s.due ∧ (setChan i c s).devSeq = s.devSeq ∧ (setChan i c s).points = s.points ∧ (setChan i c s).nextIndex = s.nextIndex ∧ (setChan i c s).freed = s.freed ∧ (setChan i c s).opens = s.opens ∧ (setChan i c s).jobs = s.jobs ∧ (setChan i c s).nextJob = s.nextJob ∧ (setChan i c s).tlb = s.tlb ∧ (setChan i c s).inval = s.inval ∧ (setChan i c s).fetches = s.fetches ∧ (setChan i c s).nextFetch = s.nextFetch ∧ (setChan i c s).players = s.players ∧ (setChan i c s).treLast = s.treLast ∧ (setChan i c s).streams = s.streams ∧ (setChan i c s).shds = s.shds ∧ (setChan i c s).chains = s.chains ∧ (setChan i c s).relays = s.relays ∧ (setChan i c s).stores = s.stores ∧ (setChan i c s).slice = s.slice ∧ (setChan i c s).tableBanks = s.tableBanks ∧ (setChan i c s).lives = s.lives ∧ (setChan i c s).ens = s.ens := by
  have h : Only [.regs, .chans] s (setChan i c s) := by simp [Only.refl]
  exact ⟨h.same .pending (by decide), h.same .free (by decide), h.same .time (by decide), h.same .latch (by decide), h.same .ctr (by decide), h.same .banks (by decide), h.same .sample (by decide), h.same .mem (by decide), h.same .poison (by decide), h.same .out (by decide), h.same .log (by decide), h.same .logLost (by decide), h.same .pins (by decide), h.same .ids (by decide), h.same .boot (by decide), h.same .ports (by decide), h.same .qps (by decide), h.same .flows (by decide), h.same .servo (by decide), h.same .traces (by decide), h.same .pair (by decide), h.same .queues (by decide), h.same .rings (by decide), h.same .q0Wanted (by decide), h.same .due (by decide), h.same .devSeq (by decide), h.same .points (by decide), h.same .nextIndex (by decide), h.same .freed (by decide), h.same .opens (by decide), h.same .jobs (by decide), h.same .nextJob (by decide), h.same .tlb (by decide), h.same .inval (by decide), h.same .fetches (by decide), h.same .nextFetch (by decide), h.same .players (by decide), h.same .treLast (by decide), h.same .streams (by decide), h.same .shds (by decide), h.same .chains (by decide), h.same .relays (by decide), h.same .stores (by decide), h.same .slice (by decide), h.same .tableBanks (by decide), h.same .lives (by decide), h.same .ens (by decide)⟩

@[simp] theorem modChan_fields (i : Nat) (f : Chan → Chan) (s : State) :
    (modChan i f s).pending = s.pending ∧ (modChan i f s).free = s.free ∧ (modChan i f s).time = s.time ∧ (modChan i f s).latch = s.latch ∧ (modChan i f s).ctr = s.ctr ∧ (modChan i f s).banks = s.banks ∧ (modChan i f s).sample = s.sample ∧ (modChan i f s).mem = s.mem ∧ (modChan i f s).poison = s.poison ∧ (modChan i f s).out = s.out ∧ (modChan i f s).log = s.log ∧ (modChan i f s).logLost = s.logLost ∧ (modChan i f s).pins = s.pins ∧ (modChan i f s).ids = s.ids ∧ (modChan i f s).boot = s.boot ∧ (modChan i f s).ports = s.ports ∧ (modChan i f s).qps = s.qps ∧ (modChan i f s).flows = s.flows ∧ (modChan i f s).servo = s.servo ∧ (modChan i f s).traces = s.traces ∧ (modChan i f s).pair = s.pair ∧ (modChan i f s).queues = s.queues ∧ (modChan i f s).rings = s.rings ∧ (modChan i f s).q0Wanted = s.q0Wanted ∧ (modChan i f s).due = s.due ∧ (modChan i f s).devSeq = s.devSeq ∧ (modChan i f s).points = s.points ∧ (modChan i f s).nextIndex = s.nextIndex ∧ (modChan i f s).freed = s.freed ∧ (modChan i f s).opens = s.opens ∧ (modChan i f s).jobs = s.jobs ∧ (modChan i f s).nextJob = s.nextJob ∧ (modChan i f s).tlb = s.tlb ∧ (modChan i f s).inval = s.inval ∧ (modChan i f s).fetches = s.fetches ∧ (modChan i f s).nextFetch = s.nextFetch ∧ (modChan i f s).players = s.players ∧ (modChan i f s).treLast = s.treLast ∧ (modChan i f s).streams = s.streams ∧ (modChan i f s).shds = s.shds ∧ (modChan i f s).chains = s.chains ∧ (modChan i f s).relays = s.relays ∧ (modChan i f s).stores = s.stores ∧ (modChan i f s).slice = s.slice ∧ (modChan i f s).tableBanks = s.tableBanks ∧ (modChan i f s).lives = s.lives ∧ (modChan i f s).ens = s.ens := by
  have h : Only [.regs, .chans] s (modChan i f s) := by simp [Only.refl]
  exact ⟨h.same .pending (by decide), h.same .free (by decide), h.same .time (by decide), h.same .latch (by decide), h.same .ctr (by decide), h.same .banks (by decide), h.same .sample (by decide), h.same .mem (by decide), h.same .poison (by decide), h.same .out (by decide), h.same .log (by decide), h.same .logLost (by decide), h.same .pins (by decide), h.same .ids (by decide), h.same .boot (by decide), h.same .ports (by decide), h.same .qps (by decide), h.same .flows (by decide), h.same .servo (by decide), h.same .traces (by decide), h.same .pair (by decide), h.same .queues (by decide), h.same .rings (by decide), h.same .q0Wanted (by decide), h.same .due (by decide), h.same .devSeq (by decide), h.same .points (by decide), h.same .nextIndex (by decide), h.same .freed (by decide), h.same .opens (by decide), h.same .jobs (by decide), h.same .nextJob (by decide), h.same .tlb (by decide), h.same .inval (by decide), h.same .fetches (by decide), h.same .nextFetch (by decide), h.same .players (by decide), h.same .treLast (by decide), h.same .streams (by decide), h.same .shds (by decide), h.same .chains (by decide), h.same .relays (by decide), h.same .stores (by decide), h.same .slice (by decide), h.same .tableBanks (by decide), h.same .lives (by decide), h.same .ens (by decide)⟩

@[simp] theorem pushDue_fields (d : Due) (s : State) :
    (pushDue d s).pending = s.pending ∧ (pushDue d s).free = s.free ∧ (pushDue d s).time = s.time ∧ (pushDue d s).regs = s.regs ∧ (pushDue d s).latch = s.latch ∧ (pushDue d s).ctr = s.ctr ∧ (pushDue d s).banks = s.banks ∧ (pushDue d s).sample = s.sample ∧ (pushDue d s).mem = s.mem ∧ (pushDue d s).poison = s.poison ∧ (pushDue d s).out = s.out ∧ (pushDue d s).log = s.log ∧ (pushDue d s).logLost = s.logLost ∧ (pushDue d s).pins = s.pins ∧ (pushDue d s).ids = s.ids ∧ (pushDue d s).boot = s.boot ∧ (pushDue d s).ports = s.ports ∧ (pushDue d s).qps = s.qps ∧ (pushDue d s).flows = s.flows ∧ (pushDue d s).servo = s.servo ∧ (pushDue d s).traces = s.traces ∧ (pushDue d s).pair = s.pair ∧ (pushDue d s).queues = s.queues ∧ (pushDue d s).rings = s.rings ∧ (pushDue d s).q0Wanted = s.q0Wanted ∧ (pushDue d s).devSeq = s.devSeq ∧ (pushDue d s).chans = s.chans ∧ (pushDue d s).points = s.points ∧ (pushDue d s).nextIndex = s.nextIndex ∧ (pushDue d s).freed = s.freed ∧ (pushDue d s).opens = s.opens ∧ (pushDue d s).jobs = s.jobs ∧ (pushDue d s).nextJob = s.nextJob ∧ (pushDue d s).tlb = s.tlb ∧ (pushDue d s).inval = s.inval ∧ (pushDue d s).fetches = s.fetches ∧ (pushDue d s).nextFetch = s.nextFetch ∧ (pushDue d s).players = s.players ∧ (pushDue d s).treLast = s.treLast ∧ (pushDue d s).streams = s.streams ∧ (pushDue d s).shds = s.shds ∧ (pushDue d s).chains = s.chains ∧ (pushDue d s).relays = s.relays ∧ (pushDue d s).stores = s.stores ∧ (pushDue d s).slice = s.slice ∧ (pushDue d s).tableBanks = s.tableBanks ∧ (pushDue d s).lives = s.lives ∧ (pushDue d s).ens = s.ens := by
  have h : Only [.due] s (pushDue d s) := by simp [Only.refl]
  exact ⟨h.same .pending (by decide), h.same .free (by decide), h.same .time (by decide), h.same .regs (by decide), h.same .latch (by decide), h.same .ctr (by decide), h.same .banks (by decide), h.same .sample (by decide), h.same .mem (by decide), h.same .poison (by decide), h.same .out (by decide), h.same .log (by decide), h.same .logLost (by decide), h.same .pins (by decide), h.same .ids (by decide), h.same .boot (by decide), h.same .ports (by decide), h.same .qps (by decide), h.same .flows (by decide), h.same .servo (by decide), h.same .traces (by decide), h.same .pair (by decide), h.same .queues (by decide), h.same .rings (by decide), h.same .q0Wanted (by decide), h.same .devSeq (by decide), h.same .chans (by decide), h.same .points (by decide), h.same .nextIndex (by decide), h.same .freed (by decide), h.same .opens (by decide), h.same .jobs (by decide), h.same .nextJob (by decide), h.same .tlb (by decide), h.same .inval (by decide), h.same .fetches (by decide), h.same .nextFetch (by decide), h.same .players (by decide), h.same .treLast (by decide), h.same .streams (by decide), h.same .shds (by decide), h.same .chains (by decide), h.same .relays (by decide), h.same .stores (by decide), h.same .slice (by decide), h.same .tableBanks (by decide), h.same .lives (by decide), h.same .ens (by decide)⟩

@[simp] theorem chanEvent_fields (i seq code r0 r3 flags : Nat) (s : State) :
    (chanEvent i seq code r0 r3 flags s).pending = s.pending ∧ (chanEvent i seq code r0 r3 flags s).free = s.free ∧ (chanEvent i seq code r0 r3 flags s).time = s.time ∧ (chanEvent i seq code r0 r3 flags s).regs = s.regs ∧ (chanEvent i seq code r0 r3 flags s).latch = s.latch ∧ (chanEvent i seq code r0 r3 flags s).ctr = s.ctr ∧ (chanEvent i seq code r0 r3 flags s).banks = s.banks ∧ (chanEvent i seq code r0 r3 flags s).sample = s.sample ∧ (chanEvent i seq code r0 r3 flags s).mem = s.mem ∧ (chanEvent i seq code r0 r3 flags s).poison = s.poison ∧ (chanEvent i seq code r0 r3 flags s).out = s.out ∧ (chanEvent i seq code r0 r3 flags s).log = s.log ∧ (chanEvent i seq code r0 r3 flags s).logLost = s.logLost ∧ (chanEvent i seq code r0 r3 flags s).pins = s.pins ∧ (chanEvent i seq code r0 r3 flags s).ids = s.ids ∧ (chanEvent i seq code r0 r3 flags s).boot = s.boot ∧ (chanEvent i seq code r0 r3 flags s).ports = s.ports ∧ (chanEvent i seq code r0 r3 flags s).qps = s.qps ∧ (chanEvent i seq code r0 r3 flags s).flows = s.flows ∧ (chanEvent i seq code r0 r3 flags s).servo = s.servo ∧ (chanEvent i seq code r0 r3 flags s).traces = s.traces ∧ (chanEvent i seq code r0 r3 flags s).pair = s.pair ∧ (chanEvent i seq code r0 r3 flags s).queues = s.queues ∧ (chanEvent i seq code r0 r3 flags s).rings = s.rings ∧ (chanEvent i seq code r0 r3 flags s).q0Wanted = s.q0Wanted ∧ (chanEvent i seq code r0 r3 flags s).devSeq = s.devSeq ∧ (chanEvent i seq code r0 r3 flags s).chans = s.chans ∧ (chanEvent i seq code r0 r3 flags s).points = s.points ∧ (chanEvent i seq code r0 r3 flags s).nextIndex = s.nextIndex ∧ (chanEvent i seq code r0 r3 flags s).freed = s.freed ∧ (chanEvent i seq code r0 r3 flags s).opens = s.opens ∧ (chanEvent i seq code r0 r3 flags s).jobs = s.jobs ∧ (chanEvent i seq code r0 r3 flags s).nextJob = s.nextJob ∧ (chanEvent i seq code r0 r3 flags s).tlb = s.tlb ∧ (chanEvent i seq code r0 r3 flags s).inval = s.inval ∧ (chanEvent i seq code r0 r3 flags s).fetches = s.fetches ∧ (chanEvent i seq code r0 r3 flags s).nextFetch = s.nextFetch ∧ (chanEvent i seq code r0 r3 flags s).players = s.players ∧ (chanEvent i seq code r0 r3 flags s).treLast = s.treLast ∧ (chanEvent i seq code r0 r3 flags s).streams = s.streams ∧ (chanEvent i seq code r0 r3 flags s).shds = s.shds ∧ (chanEvent i seq code r0 r3 flags s).chains = s.chains ∧ (chanEvent i seq code r0 r3 flags s).relays = s.relays ∧ (chanEvent i seq code r0 r3 flags s).stores = s.stores ∧ (chanEvent i seq code r0 r3 flags s).slice = s.slice ∧ (chanEvent i seq code r0 r3 flags s).tableBanks = s.tableBanks ∧ (chanEvent i seq code r0 r3 flags s).lives = s.lives ∧ (chanEvent i seq code r0 r3 flags s).ens = s.ens := by
  have h : Only [.due] s (chanEvent i seq code r0 r3 flags s) := by simp [Only.refl]
  exact ⟨h.same .pending (by decide), h.same .free (by decide), h.same .time (by decide), h.same .regs (by decide), h.same .latch (by decide), h.same .ctr (by decide), h.same .banks (by decide), h.same .sample (by decide), h.same .mem (by decide), h.same .poison (by decide), h.same .out (by decide), h.same .log (by decide), h.same .logLost (by decide), h.same .pins (by decide), h.same .ids (by decide), h.same .boot (by decide), h.same .ports (by decide), h.same .qps (by decide), h.same .flows (by decide), h.same .servo (by decide), h.same .traces (by decide), h.same .pair (by decide), h.same .queues (by decide), h.same .rings (by decide), h.same .q0Wanted (by decide), h.same .devSeq (by decide), h.same .chans (by decide), h.same .points (by decide), h.same .nextIndex (by decide), h.same .freed (by decide), h.same .opens (by decide), h.same .jobs (by decide), h.same .nextJob (by decide), h.same .tlb (by decide), h.same .inval (by decide), h.same .fetches (by decide), h.same .nextFetch (by decide), h.same .players (by decide), h.same .treLast (by decide), h.same .streams (by decide), h.same .shds (by decide), h.same .chains (by decide), h.same .relays (by decide), h.same .stores (by decide), h.same .slice (by decide), h.same .tableBanks (by decide), h.same .lives (by decide), h.same .ens (by decide)⟩

@[simp] theorem deviceEvent_fields (ring code r0 : Nat) (s : State) :
    (deviceEvent ring code r0 s).pending = s.pending ∧ (deviceEvent ring code r0 s).free = s.free ∧ (deviceEvent ring code r0 s).time = s.time ∧ (deviceEvent ring code r0 s).regs = s.regs ∧ (deviceEvent ring code r0 s).latch = s.latch ∧ (deviceEvent ring code r0 s).ctr = s.ctr ∧ (deviceEvent ring code r0 s).banks = s.banks ∧ (deviceEvent ring code r0 s).sample = s.sample ∧ (deviceEvent ring code r0 s).mem = s.mem ∧ (deviceEvent ring code r0 s).poison = s.poison ∧ (deviceEvent ring code r0 s).out = s.out ∧ (deviceEvent ring code r0 s).log = s.log ∧ (deviceEvent ring code r0 s).logLost = s.logLost ∧ (deviceEvent ring code r0 s).pins = s.pins ∧ (deviceEvent ring code r0 s).ids = s.ids ∧ (deviceEvent ring code r0 s).boot = s.boot ∧ (deviceEvent ring code r0 s).ports = s.ports ∧ (deviceEvent ring code r0 s).qps = s.qps ∧ (deviceEvent ring code r0 s).flows = s.flows ∧ (deviceEvent ring code r0 s).servo = s.servo ∧ (deviceEvent ring code r0 s).traces = s.traces ∧ (deviceEvent ring code r0 s).pair = s.pair ∧ (deviceEvent ring code r0 s).queues = s.queues ∧ (deviceEvent ring code r0 s).rings = s.rings ∧ (deviceEvent ring code r0 s).q0Wanted = s.q0Wanted ∧ (deviceEvent ring code r0 s).devSeq = s.devSeq ∧ (deviceEvent ring code r0 s).chans = s.chans ∧ (deviceEvent ring code r0 s).points = s.points ∧ (deviceEvent ring code r0 s).nextIndex = s.nextIndex ∧ (deviceEvent ring code r0 s).freed = s.freed ∧ (deviceEvent ring code r0 s).opens = s.opens ∧ (deviceEvent ring code r0 s).jobs = s.jobs ∧ (deviceEvent ring code r0 s).nextJob = s.nextJob ∧ (deviceEvent ring code r0 s).tlb = s.tlb ∧ (deviceEvent ring code r0 s).inval = s.inval ∧ (deviceEvent ring code r0 s).fetches = s.fetches ∧ (deviceEvent ring code r0 s).nextFetch = s.nextFetch ∧ (deviceEvent ring code r0 s).players = s.players ∧ (deviceEvent ring code r0 s).treLast = s.treLast ∧ (deviceEvent ring code r0 s).streams = s.streams ∧ (deviceEvent ring code r0 s).shds = s.shds ∧ (deviceEvent ring code r0 s).chains = s.chains ∧ (deviceEvent ring code r0 s).relays = s.relays ∧ (deviceEvent ring code r0 s).stores = s.stores ∧ (deviceEvent ring code r0 s).slice = s.slice ∧ (deviceEvent ring code r0 s).tableBanks = s.tableBanks ∧ (deviceEvent ring code r0 s).lives = s.lives ∧ (deviceEvent ring code r0 s).ens = s.ens := by
  have h : Only [.due] s (deviceEvent ring code r0 s) := by simp [Only.refl]
  exact ⟨h.same .pending (by decide), h.same .free (by decide), h.same .time (by decide), h.same .regs (by decide), h.same .latch (by decide), h.same .ctr (by decide), h.same .banks (by decide), h.same .sample (by decide), h.same .mem (by decide), h.same .poison (by decide), h.same .out (by decide), h.same .log (by decide), h.same .logLost (by decide), h.same .pins (by decide), h.same .ids (by decide), h.same .boot (by decide), h.same .ports (by decide), h.same .qps (by decide), h.same .flows (by decide), h.same .servo (by decide), h.same .traces (by decide), h.same .pair (by decide), h.same .queues (by decide), h.same .rings (by decide), h.same .q0Wanted (by decide), h.same .devSeq (by decide), h.same .chans (by decide), h.same .points (by decide), h.same .nextIndex (by decide), h.same .freed (by decide), h.same .opens (by decide), h.same .jobs (by decide), h.same .nextJob (by decide), h.same .tlb (by decide), h.same .inval (by decide), h.same .fetches (by decide), h.same .nextFetch (by decide), h.same .players (by decide), h.same .treLast (by decide), h.same .streams (by decide), h.same .shds (by decide), h.same .chains (by decide), h.same .relays (by decide), h.same .stores (by decide), h.same .slice (by decide), h.same .tableBanks (by decide), h.same .lives (by decide), h.same .ens (by decide)⟩

@[simp] theorem postCode_fields (code handle seq d0 d1 : Nat) (s : State) :
    (postCode code handle seq d0 d1 s).pending = s.pending ∧ (postCode code handle seq d0 d1 s).free = s.free ∧ (postCode code handle seq d0 d1 s).time = s.time ∧ (postCode code handle seq d0 d1 s).latch = s.latch ∧ (postCode code handle seq d0 d1 s).banks = s.banks ∧ (postCode code handle seq d0 d1 s).sample = s.sample ∧ (postCode code handle seq d0 d1 s).mem = s.mem ∧ (postCode code handle seq d0 d1 s).poison = s.poison ∧ (postCode code handle seq d0 d1 s).out = s.out ∧ (postCode code handle seq d0 d1 s).ids = s.ids ∧ (postCode code handle seq d0 d1 s).boot = s.boot ∧ (postCode code handle seq d0 d1 s).ports = s.ports ∧ (postCode code handle seq d0 d1 s).qps = s.qps ∧ (postCode code handle seq d0 d1 s).flows = s.flows ∧ (postCode code handle seq d0 d1 s).servo = s.servo ∧ (postCode code handle seq d0 d1 s).traces = s.traces ∧ (postCode code handle seq d0 d1 s).pair = s.pair ∧ (postCode code handle seq d0 d1 s).queues = s.queues ∧ (postCode code handle seq d0 d1 s).rings = s.rings ∧ (postCode code handle seq d0 d1 s).q0Wanted = s.q0Wanted ∧ (postCode code handle seq d0 d1 s).due = s.due ∧ (postCode code handle seq d0 d1 s).devSeq = s.devSeq ∧ (postCode code handle seq d0 d1 s).chans = s.chans ∧ (postCode code handle seq d0 d1 s).points = s.points ∧ (postCode code handle seq d0 d1 s).nextIndex = s.nextIndex ∧ (postCode code handle seq d0 d1 s).freed = s.freed ∧ (postCode code handle seq d0 d1 s).opens = s.opens ∧ (postCode code handle seq d0 d1 s).jobs = s.jobs ∧ (postCode code handle seq d0 d1 s).nextJob = s.nextJob ∧ (postCode code handle seq d0 d1 s).tlb = s.tlb ∧ (postCode code handle seq d0 d1 s).inval = s.inval ∧ (postCode code handle seq d0 d1 s).fetches = s.fetches ∧ (postCode code handle seq d0 d1 s).nextFetch = s.nextFetch ∧ (postCode code handle seq d0 d1 s).players = s.players ∧ (postCode code handle seq d0 d1 s).treLast = s.treLast ∧ (postCode code handle seq d0 d1 s).streams = s.streams ∧ (postCode code handle seq d0 d1 s).shds = s.shds ∧ (postCode code handle seq d0 d1 s).chains = s.chains ∧ (postCode code handle seq d0 d1 s).relays = s.relays ∧ (postCode code handle seq d0 d1 s).stores = s.stores ∧ (postCode code handle seq d0 d1 s).slice = s.slice ∧ (postCode code handle seq d0 d1 s).tableBanks = s.tableBanks ∧ (postCode code handle seq d0 d1 s).lives = s.lives ∧ (postCode code handle seq d0 d1 s).ens = s.ens := by
  have h : Only [.regs, .ctr, .log, .logLost, .pins] s (postCode code handle seq d0 d1 s) := by simp [Only.refl]
  exact ⟨h.same .pending (by decide), h.same .free (by decide), h.same .time (by decide), h.same .latch (by decide), h.same .banks (by decide), h.same .sample (by decide), h.same .mem (by decide), h.same .poison (by decide), h.same .out (by decide), h.same .ids (by decide), h.same .boot (by decide), h.same .ports (by decide), h.same .qps (by decide), h.same .flows (by decide), h.same .servo (by decide), h.same .traces (by decide), h.same .pair (by decide), h.same .queues (by decide), h.same .rings (by decide), h.same .q0Wanted (by decide), h.same .due (by decide), h.same .devSeq (by decide), h.same .chans (by decide), h.same .points (by decide), h.same .nextIndex (by decide), h.same .freed (by decide), h.same .opens (by decide), h.same .jobs (by decide), h.same .nextJob (by decide), h.same .tlb (by decide), h.same .inval (by decide), h.same .fetches (by decide), h.same .nextFetch (by decide), h.same .players (by decide), h.same .treLast (by decide), h.same .streams (by decide), h.same .shds (by decide), h.same .chains (by decide), h.same .relays (by decide), h.same .stores (by decide), h.same .slice (by decide), h.same .tableBanks (by decide), h.same .lives (by decide), h.same .ens (by decide)⟩

@[simp] theorem markPosted_fields (d : Due) (s : State) :
    (markPosted d s).pending = s.pending ∧ (markPosted d s).free = s.free ∧ (markPosted d s).time = s.time ∧ (markPosted d s).regs = s.regs ∧ (markPosted d s).latch = s.latch ∧ (markPosted d s).ctr = s.ctr ∧ (markPosted d s).banks = s.banks ∧ (markPosted d s).sample = s.sample ∧ (markPosted d s).mem = s.mem ∧ (markPosted d s).poison = s.poison ∧ (markPosted d s).out = s.out ∧ (markPosted d s).log = s.log ∧ (markPosted d s).logLost = s.logLost ∧ (markPosted d s).pins = s.pins ∧ (markPosted d s).ids = s.ids ∧ (markPosted d s).boot = s.boot ∧ (markPosted d s).ports = s.ports ∧ (markPosted d s).qps = s.qps ∧ (markPosted d s).flows = s.flows ∧ (markPosted d s).servo = s.servo ∧ (markPosted d s).traces = s.traces ∧ (markPosted d s).pair = s.pair ∧ (markPosted d s).rings = s.rings ∧ (markPosted d s).q0Wanted = s.q0Wanted ∧ (markPosted d s).due = s.due ∧ (markPosted d s).devSeq = s.devSeq ∧ (markPosted d s).points = s.points ∧ (markPosted d s).nextIndex = s.nextIndex ∧ (markPosted d s).freed = s.freed ∧ (markPosted d s).opens = s.opens ∧ (markPosted d s).jobs = s.jobs ∧ (markPosted d s).nextJob = s.nextJob ∧ (markPosted d s).tlb = s.tlb ∧ (markPosted d s).inval = s.inval ∧ (markPosted d s).fetches = s.fetches ∧ (markPosted d s).nextFetch = s.nextFetch ∧ (markPosted d s).players = s.players ∧ (markPosted d s).treLast = s.treLast ∧ (markPosted d s).streams = s.streams ∧ (markPosted d s).shds = s.shds ∧ (markPosted d s).chains = s.chains ∧ (markPosted d s).relays = s.relays ∧ (markPosted d s).stores = s.stores ∧ (markPosted d s).slice = s.slice ∧ (markPosted d s).tableBanks = s.tableBanks ∧ (markPosted d s).lives = s.lives ∧ (markPosted d s).ens = s.ens := by
  have h : Only [.queues, .chans] s (markPosted d s) := by simp [Only.refl]
  exact ⟨h.same .pending (by decide), h.same .free (by decide), h.same .time (by decide), h.same .regs (by decide), h.same .latch (by decide), h.same .ctr (by decide), h.same .banks (by decide), h.same .sample (by decide), h.same .mem (by decide), h.same .poison (by decide), h.same .out (by decide), h.same .log (by decide), h.same .logLost (by decide), h.same .pins (by decide), h.same .ids (by decide), h.same .boot (by decide), h.same .ports (by decide), h.same .qps (by decide), h.same .flows (by decide), h.same .servo (by decide), h.same .traces (by decide), h.same .pair (by decide), h.same .rings (by decide), h.same .q0Wanted (by decide), h.same .due (by decide), h.same .devSeq (by decide), h.same .points (by decide), h.same .nextIndex (by decide), h.same .freed (by decide), h.same .opens (by decide), h.same .jobs (by decide), h.same .nextJob (by decide), h.same .tlb (by decide), h.same .inval (by decide), h.same .fetches (by decide), h.same .nextFetch (by decide), h.same .players (by decide), h.same .treLast (by decide), h.same .streams (by decide), h.same .shds (by decide), h.same .chains (by decide), h.same .relays (by decide), h.same .stores (by decide), h.same .slice (by decide), h.same .tableBanks (by decide), h.same .lives (by decide), h.same .ens (by decide)⟩

@[simp] theorem stopJob_fields (id code : Nat) (s : State) :
    (stopJob id code s).pending = s.pending ∧ (stopJob id code s).free = s.free ∧ (stopJob id code s).time = s.time ∧ (stopJob id code s).regs = s.regs ∧ (stopJob id code s).latch = s.latch ∧ (stopJob id code s).ctr = s.ctr ∧ (stopJob id code s).banks = s.banks ∧ (stopJob id code s).sample = s.sample ∧ (stopJob id code s).mem = s.mem ∧ (stopJob id code s).poison = s.poison ∧ (stopJob id code s).out = s.out ∧ (stopJob id code s).log = s.log ∧ (stopJob id code s).logLost = s.logLost ∧ (stopJob id code s).pins = s.pins ∧ (stopJob id code s).ids = s.ids ∧ (stopJob id code s).boot = s.boot ∧ (stopJob id code s).ports = s.ports ∧ (stopJob id code s).qps = s.qps ∧ (stopJob id code s).flows = s.flows ∧ (stopJob id code s).servo = s.servo ∧ (stopJob id code s).traces = s.traces ∧ (stopJob id code s).pair = s.pair ∧ (stopJob id code s).queues = s.queues ∧ (stopJob id code s).rings = s.rings ∧ (stopJob id code s).q0Wanted = s.q0Wanted ∧ (stopJob id code s).due = s.due ∧ (stopJob id code s).devSeq = s.devSeq ∧ (stopJob id code s).chans = s.chans ∧ (stopJob id code s).points = s.points ∧ (stopJob id code s).nextIndex = s.nextIndex ∧ (stopJob id code s).freed = s.freed ∧ (stopJob id code s).opens = s.opens ∧ (stopJob id code s).nextJob = s.nextJob ∧ (stopJob id code s).tlb = s.tlb ∧ (stopJob id code s).inval = s.inval ∧ (stopJob id code s).fetches = s.fetches ∧ (stopJob id code s).nextFetch = s.nextFetch ∧ (stopJob id code s).players = s.players ∧ (stopJob id code s).treLast = s.treLast ∧ (stopJob id code s).streams = s.streams ∧ (stopJob id code s).shds = s.shds ∧ (stopJob id code s).chains = s.chains ∧ (stopJob id code s).relays = s.relays ∧ (stopJob id code s).stores = s.stores ∧ (stopJob id code s).slice = s.slice ∧ (stopJob id code s).tableBanks = s.tableBanks ∧ (stopJob id code s).lives = s.lives ∧ (stopJob id code s).ens = s.ens := by
  have h : Only [.jobs] s (stopJob id code s) := by simp [Only.refl]
  exact ⟨h.same .pending (by decide), h.same .free (by decide), h.same .time (by decide), h.same .regs (by decide), h.same .latch (by decide), h.same .ctr (by decide), h.same .banks (by decide), h.same .sample (by decide), h.same .mem (by decide), h.same .poison (by decide), h.same .out (by decide), h.same .log (by decide), h.same .logLost (by decide), h.same .pins (by decide), h.same .ids (by decide), h.same .boot (by decide), h.same .ports (by decide), h.same .qps (by decide), h.same .flows (by decide), h.same .servo (by decide), h.same .traces (by decide), h.same .pair (by decide), h.same .queues (by decide), h.same .rings (by decide), h.same .q0Wanted (by decide), h.same .due (by decide), h.same .devSeq (by decide), h.same .chans (by decide), h.same .points (by decide), h.same .nextIndex (by decide), h.same .freed (by decide), h.same .opens (by decide), h.same .nextJob (by decide), h.same .tlb (by decide), h.same .inval (by decide), h.same .fetches (by decide), h.same .nextFetch (by decide), h.same .players (by decide), h.same .treLast (by decide), h.same .streams (by decide), h.same .shds (by decide), h.same .chains (by decide), h.same .relays (by decide), h.same .stores (by decide), h.same .slice (by decide), h.same .tableBanks (by decide), h.same .lives (by decide), h.same .ens (by decide)⟩

@[simp] theorem sendOn_fields (port prio : Nat) (m : Msg) (s : State) :
    (sendOn port prio m s).pending = s.pending ∧ (sendOn port prio m s).free = s.free ∧ (sendOn port prio m s).time = s.time ∧ (sendOn port prio m s).regs = s.regs ∧ (sendOn port prio m s).latch = s.latch ∧ (sendOn port prio m s).banks = s.banks ∧ (sendOn port prio m s).sample = s.sample ∧ (sendOn port prio m s).mem = s.mem ∧ (sendOn port prio m s).poison = s.poison ∧ (sendOn port prio m s).log = s.log ∧ (sendOn port prio m s).logLost = s.logLost ∧ (sendOn port prio m s).pins = s.pins ∧ (sendOn port prio m s).ids = s.ids ∧ (sendOn port prio m s).boot = s.boot ∧ (sendOn port prio m s).qps = s.qps ∧ (sendOn port prio m s).flows = s.flows ∧ (sendOn port prio m s).servo = s.servo ∧ (sendOn port prio m s).traces = s.traces ∧ (sendOn port prio m s).pair = s.pair ∧ (sendOn port prio m s).queues = s.queues ∧ (sendOn port prio m s).rings = s.rings ∧ (sendOn port prio m s).q0Wanted = s.q0Wanted ∧ (sendOn port prio m s).due = s.due ∧ (sendOn port prio m s).devSeq = s.devSeq ∧ (sendOn port prio m s).chans = s.chans ∧ (sendOn port prio m s).points = s.points ∧ (sendOn port prio m s).nextIndex = s.nextIndex ∧ (sendOn port prio m s).freed = s.freed ∧ (sendOn port prio m s).opens = s.opens ∧ (sendOn port prio m s).jobs = s.jobs ∧ (sendOn port prio m s).nextJob = s.nextJob ∧ (sendOn port prio m s).tlb = s.tlb ∧ (sendOn port prio m s).inval = s.inval ∧ (sendOn port prio m s).fetches = s.fetches ∧ (sendOn port prio m s).nextFetch = s.nextFetch ∧ (sendOn port prio m s).players = s.players ∧ (sendOn port prio m s).treLast = s.treLast ∧ (sendOn port prio m s).streams = s.streams ∧ (sendOn port prio m s).shds = s.shds ∧ (sendOn port prio m s).chains = s.chains ∧ (sendOn port prio m s).relays = s.relays ∧ (sendOn port prio m s).stores = s.stores ∧ (sendOn port prio m s).slice = s.slice ∧ (sendOn port prio m s).tableBanks = s.tableBanks ∧ (sendOn port prio m s).lives = s.lives ∧ (sendOn port prio m s).ens = s.ens := by
  have h : Only [.ctr, .out, .ports] s (sendOn port prio m s) := by simp [Only.refl]
  exact ⟨h.same .pending (by decide), h.same .free (by decide), h.same .time (by decide), h.same .regs (by decide), h.same .latch (by decide), h.same .banks (by decide), h.same .sample (by decide), h.same .mem (by decide), h.same .poison (by decide), h.same .log (by decide), h.same .logLost (by decide), h.same .pins (by decide), h.same .ids (by decide), h.same .boot (by decide), h.same .qps (by decide), h.same .flows (by decide), h.same .servo (by decide), h.same .traces (by decide), h.same .pair (by decide), h.same .queues (by decide), h.same .rings (by decide), h.same .q0Wanted (by decide), h.same .due (by decide), h.same .devSeq (by decide), h.same .chans (by decide), h.same .points (by decide), h.same .nextIndex (by decide), h.same .freed (by decide), h.same .opens (by decide), h.same .jobs (by decide), h.same .nextJob (by decide), h.same .tlb (by decide), h.same .inval (by decide), h.same .fetches (by decide), h.same .nextFetch (by decide), h.same .players (by decide), h.same .treLast (by decide), h.same .streams (by decide), h.same .shds (by decide), h.same .chains (by decide), h.same .relays (by decide), h.same .stores (by decide), h.same .slice (by decide), h.same .tableBanks (by decide), h.same .lives (by decide), h.same .ens (by decide)⟩

@[simp] theorem swapBank_fields (page handle seq : Nat) (s : State) :
    (swapBank page handle seq s).pending = s.pending ∧ (swapBank page handle seq s).time = s.time ∧ (swapBank page handle seq s).regs = s.regs ∧ (swapBank page handle seq s).latch = s.latch ∧ (swapBank page handle seq s).ctr = s.ctr ∧ (swapBank page handle seq s).sample = s.sample ∧ (swapBank page handle seq s).mem = s.mem ∧ (swapBank page handle seq s).poison = s.poison ∧ (swapBank page handle seq s).out = s.out ∧ (swapBank page handle seq s).log = s.log ∧ (swapBank page handle seq s).logLost = s.logLost ∧ (swapBank page handle seq s).pins = s.pins ∧ (swapBank page handle seq s).ids = s.ids ∧ (swapBank page handle seq s).boot = s.boot ∧ (swapBank page handle seq s).ports = s.ports ∧ (swapBank page handle seq s).qps = s.qps ∧ (swapBank page handle seq s).flows = s.flows ∧ (swapBank page handle seq s).servo = s.servo ∧ (swapBank page handle seq s).traces = s.traces ∧ (swapBank page handle seq s).pair = s.pair ∧ (swapBank page handle seq s).queues = s.queues ∧ (swapBank page handle seq s).rings = s.rings ∧ (swapBank page handle seq s).q0Wanted = s.q0Wanted ∧ (swapBank page handle seq s).due = s.due ∧ (swapBank page handle seq s).devSeq = s.devSeq ∧ (swapBank page handle seq s).chans = s.chans ∧ (swapBank page handle seq s).points = s.points ∧ (swapBank page handle seq s).nextIndex = s.nextIndex ∧ (swapBank page handle seq s).freed = s.freed ∧ (swapBank page handle seq s).opens = s.opens ∧ (swapBank page handle seq s).jobs = s.jobs ∧ (swapBank page handle seq s).nextJob = s.nextJob ∧ (swapBank page handle seq s).tlb = s.tlb ∧ (swapBank page handle seq s).inval = s.inval ∧ (swapBank page handle seq s).fetches = s.fetches ∧ (swapBank page handle seq s).nextFetch = s.nextFetch ∧ (swapBank page handle seq s).players = s.players ∧ (swapBank page handle seq s).treLast = s.treLast ∧ (swapBank page handle seq s).streams = s.streams ∧ (swapBank page handle seq s).shds = s.shds ∧ (swapBank page handle seq s).chains = s.chains ∧ (swapBank page handle seq s).relays = s.relays ∧ (swapBank page handle seq s).stores = s.stores ∧ (swapBank page handle seq s).slice = s.slice ∧ (swapBank page handle seq s).tableBanks = s.tableBanks ∧ (swapBank page handle seq s).lives = s.lives ∧ (swapBank page handle seq s).ens = s.ens := by
  have h : Only [.free, .banks] s (swapBank page handle seq s) := by simp [Only.refl]
  exact ⟨h.same .pending (by decide), h.same .time (by decide), h.same .regs (by decide), h.same .latch (by decide), h.same .ctr (by decide), h.same .sample (by decide), h.same .mem (by decide), h.same .poison (by decide), h.same .out (by decide), h.same .log (by decide), h.same .logLost (by decide), h.same .pins (by decide), h.same .ids (by decide), h.same .boot (by decide), h.same .ports (by decide), h.same .qps (by decide), h.same .flows (by decide), h.same .servo (by decide), h.same .traces (by decide), h.same .pair (by decide), h.same .queues (by decide), h.same .rings (by decide), h.same .q0Wanted (by decide), h.same .due (by decide), h.same .devSeq (by decide), h.same .chans (by decide), h.same .points (by decide), h.same .nextIndex (by decide), h.same .freed (by decide), h.same .opens (by decide), h.same .jobs (by decide), h.same .nextJob (by decide), h.same .tlb (by decide), h.same .inval (by decide), h.same .fetches (by decide), h.same .nextFetch (by decide), h.same .players (by decide), h.same .treLast (by decide), h.same .streams (by decide), h.same .shds (by decide), h.same .chains (by decide), h.same .relays (by decide), h.same .stores (by decide), h.same .slice (by decide), h.same .tableBanks (by decide), h.same .lives (by decide), h.same .ens (by decide)⟩

@[simp] theorem swapBanks_fields (pages : List Nat) (handle seq : Nat) (s : State) :
    (swapBanks pages handle seq s).pending = s.pending ∧ (swapBanks pages handle seq s).time = s.time ∧ (swapBanks pages handle seq s).regs = s.regs ∧ (swapBanks pages handle seq s).latch = s.latch ∧ (swapBanks pages handle seq s).ctr = s.ctr ∧ (swapBanks pages handle seq s).sample = s.sample ∧ (swapBanks pages handle seq s).mem = s.mem ∧ (swapBanks pages handle seq s).poison = s.poison ∧ (swapBanks pages handle seq s).out = s.out ∧ (swapBanks pages handle seq s).log = s.log ∧ (swapBanks pages handle seq s).logLost = s.logLost ∧ (swapBanks pages handle seq s).pins = s.pins ∧ (swapBanks pages handle seq s).ids = s.ids ∧ (swapBanks pages handle seq s).boot = s.boot ∧ (swapBanks pages handle seq s).ports = s.ports ∧ (swapBanks pages handle seq s).qps = s.qps ∧ (swapBanks pages handle seq s).flows = s.flows ∧ (swapBanks pages handle seq s).servo = s.servo ∧ (swapBanks pages handle seq s).traces = s.traces ∧ (swapBanks pages handle seq s).pair = s.pair ∧ (swapBanks pages handle seq s).queues = s.queues ∧ (swapBanks pages handle seq s).rings = s.rings ∧ (swapBanks pages handle seq s).q0Wanted = s.q0Wanted ∧ (swapBanks pages handle seq s).due = s.due ∧ (swapBanks pages handle seq s).devSeq = s.devSeq ∧ (swapBanks pages handle seq s).chans = s.chans ∧ (swapBanks pages handle seq s).points = s.points ∧ (swapBanks pages handle seq s).nextIndex = s.nextIndex ∧ (swapBanks pages handle seq s).freed = s.freed ∧ (swapBanks pages handle seq s).opens = s.opens ∧ (swapBanks pages handle seq s).jobs = s.jobs ∧ (swapBanks pages handle seq s).nextJob = s.nextJob ∧ (swapBanks pages handle seq s).tlb = s.tlb ∧ (swapBanks pages handle seq s).inval = s.inval ∧ (swapBanks pages handle seq s).fetches = s.fetches ∧ (swapBanks pages handle seq s).nextFetch = s.nextFetch ∧ (swapBanks pages handle seq s).players = s.players ∧ (swapBanks pages handle seq s).treLast = s.treLast ∧ (swapBanks pages handle seq s).streams = s.streams ∧ (swapBanks pages handle seq s).shds = s.shds ∧ (swapBanks pages handle seq s).chains = s.chains ∧ (swapBanks pages handle seq s).relays = s.relays ∧ (swapBanks pages handle seq s).stores = s.stores ∧ (swapBanks pages handle seq s).slice = s.slice ∧ (swapBanks pages handle seq s).tableBanks = s.tableBanks ∧ (swapBanks pages handle seq s).lives = s.lives ∧ (swapBanks pages handle seq s).ens = s.ens := by
  have h : Only [.free, .banks] s (swapBanks pages handle seq s) := by simp [Only.refl]
  exact ⟨h.same .pending (by decide), h.same .time (by decide), h.same .regs (by decide), h.same .latch (by decide), h.same .ctr (by decide), h.same .sample (by decide), h.same .mem (by decide), h.same .poison (by decide), h.same .out (by decide), h.same .log (by decide), h.same .logLost (by decide), h.same .pins (by decide), h.same .ids (by decide), h.same .boot (by decide), h.same .ports (by decide), h.same .qps (by decide), h.same .flows (by decide), h.same .servo (by decide), h.same .traces (by decide), h.same .pair (by decide), h.same .queues (by decide), h.same .rings (by decide), h.same .q0Wanted (by decide), h.same .due (by decide), h.same .devSeq (by decide), h.same .chans (by decide), h.same .points (by decide), h.same .nextIndex (by decide), h.same .freed (by decide), h.same .opens (by decide), h.same .jobs (by decide), h.same .nextJob (by decide), h.same .tlb (by decide), h.same .inval (by decide), h.same .fetches (by decide), h.same .nextFetch (by decide), h.same .players (by decide), h.same .treLast (by decide), h.same .streams (by decide), h.same .shds (by decide), h.same .chains (by decide), h.same .relays (by decide), h.same .stores (by decide), h.same .slice (by decide), h.same .tableBanks (by decide), h.same .lives (by decide), h.same .ens (by decide)⟩

@[simp] theorem linkDown_fields (n : Nat) (s : State) :
    (linkDown n s).pending = s.pending ∧ (linkDown n s).free = s.free ∧ (linkDown n s).time = s.time ∧ (linkDown n s).latch = s.latch ∧ (linkDown n s).banks = s.banks ∧ (linkDown n s).sample = s.sample ∧ (linkDown n s).mem = s.mem ∧ (linkDown n s).poison = s.poison ∧ (linkDown n s).out = s.out ∧ (linkDown n s).log = s.log ∧ (linkDown n s).logLost = s.logLost ∧ (linkDown n s).pins = s.pins ∧ (linkDown n s).ids = s.ids ∧ (linkDown n s).boot = s.boot ∧ (linkDown n s).ports = s.ports ∧ (linkDown n s).qps = s.qps ∧ (linkDown n s).flows = s.flows ∧ (linkDown n s).servo = s.servo ∧ (linkDown n s).traces = s.traces ∧ (linkDown n s).pair = s.pair ∧ (linkDown n s).queues = s.queues ∧ (linkDown n s).rings = s.rings ∧ (linkDown n s).q0Wanted = s.q0Wanted ∧ (linkDown n s).due = s.due ∧ (linkDown n s).devSeq = s.devSeq ∧ (linkDown n s).chans = s.chans ∧ (linkDown n s).points = s.points ∧ (linkDown n s).nextIndex = s.nextIndex ∧ (linkDown n s).freed = s.freed ∧ (linkDown n s).opens = s.opens ∧ (linkDown n s).jobs = s.jobs ∧ (linkDown n s).nextJob = s.nextJob ∧ (linkDown n s).tlb = s.tlb ∧ (linkDown n s).inval = s.inval ∧ (linkDown n s).fetches = s.fetches ∧ (linkDown n s).nextFetch = s.nextFetch ∧ (linkDown n s).players = s.players ∧ (linkDown n s).treLast = s.treLast ∧ (linkDown n s).streams = s.streams ∧ (linkDown n s).shds = s.shds ∧ (linkDown n s).chains = s.chains ∧ (linkDown n s).relays = s.relays ∧ (linkDown n s).stores = s.stores ∧ (linkDown n s).slice = s.slice ∧ (linkDown n s).tableBanks = s.tableBanks ∧ (linkDown n s).lives = s.lives ∧ (linkDown n s).ens = s.ens := by
  have h : Only [.regs, .ctr] s (linkDown n s) := by simp [Only.refl]
  exact ⟨h.same .pending (by decide), h.same .free (by decide), h.same .time (by decide), h.same .latch (by decide), h.same .banks (by decide), h.same .sample (by decide), h.same .mem (by decide), h.same .poison (by decide), h.same .out (by decide), h.same .log (by decide), h.same .logLost (by decide), h.same .pins (by decide), h.same .ids (by decide), h.same .boot (by decide), h.same .ports (by decide), h.same .qps (by decide), h.same .flows (by decide), h.same .servo (by decide), h.same .traces (by decide), h.same .pair (by decide), h.same .queues (by decide), h.same .rings (by decide), h.same .q0Wanted (by decide), h.same .due (by decide), h.same .devSeq (by decide), h.same .chans (by decide), h.same .points (by decide), h.same .nextIndex (by decide), h.same .freed (by decide), h.same .opens (by decide), h.same .jobs (by decide), h.same .nextJob (by decide), h.same .tlb (by decide), h.same .inval (by decide), h.same .fetches (by decide), h.same .nextFetch (by decide), h.same .players (by decide), h.same .treLast (by decide), h.same .streams (by decide), h.same .shds (by decide), h.same .chains (by decide), h.same .relays (by decide), h.same .stores (by decide), h.same .slice (by decide), h.same .tableBanks (by decide), h.same .lives (by decide), h.same .ens (by decide)⟩

@[simp] theorem sendPause_fields (n prio quanta : Nat) (s : State) :
    (sendPause n prio quanta s).pending = s.pending ∧ (sendPause n prio quanta s).free = s.free ∧ (sendPause n prio quanta s).time = s.time ∧ (sendPause n prio quanta s).regs = s.regs ∧ (sendPause n prio quanta s).latch = s.latch ∧ (sendPause n prio quanta s).banks = s.banks ∧ (sendPause n prio quanta s).sample = s.sample ∧ (sendPause n prio quanta s).mem = s.mem ∧ (sendPause n prio quanta s).poison = s.poison ∧ (sendPause n prio quanta s).log = s.log ∧ (sendPause n prio quanta s).logLost = s.logLost ∧ (sendPause n prio quanta s).pins = s.pins ∧ (sendPause n prio quanta s).ids = s.ids ∧ (sendPause n prio quanta s).boot = s.boot ∧ (sendPause n prio quanta s).ports = s.ports ∧ (sendPause n prio quanta s).qps = s.qps ∧ (sendPause n prio quanta s).flows = s.flows ∧ (sendPause n prio quanta s).servo = s.servo ∧ (sendPause n prio quanta s).traces = s.traces ∧ (sendPause n prio quanta s).pair = s.pair ∧ (sendPause n prio quanta s).queues = s.queues ∧ (sendPause n prio quanta s).rings = s.rings ∧ (sendPause n prio quanta s).q0Wanted = s.q0Wanted ∧ (sendPause n prio quanta s).due = s.due ∧ (sendPause n prio quanta s).devSeq = s.devSeq ∧ (sendPause n prio quanta s).chans = s.chans ∧ (sendPause n prio quanta s).points = s.points ∧ (sendPause n prio quanta s).nextIndex = s.nextIndex ∧ (sendPause n prio quanta s).freed = s.freed ∧ (sendPause n prio quanta s).opens = s.opens ∧ (sendPause n prio quanta s).jobs = s.jobs ∧ (sendPause n prio quanta s).nextJob = s.nextJob ∧ (sendPause n prio quanta s).tlb = s.tlb ∧ (sendPause n prio quanta s).inval = s.inval ∧ (sendPause n prio quanta s).fetches = s.fetches ∧ (sendPause n prio quanta s).nextFetch = s.nextFetch ∧ (sendPause n prio quanta s).players = s.players ∧ (sendPause n prio quanta s).treLast = s.treLast ∧ (sendPause n prio quanta s).streams = s.streams ∧ (sendPause n prio quanta s).shds = s.shds ∧ (sendPause n prio quanta s).chains = s.chains ∧ (sendPause n prio quanta s).relays = s.relays ∧ (sendPause n prio quanta s).stores = s.stores ∧ (sendPause n prio quanta s).slice = s.slice ∧ (sendPause n prio quanta s).tableBanks = s.tableBanks ∧ (sendPause n prio quanta s).lives = s.lives ∧ (sendPause n prio quanta s).ens = s.ens := by
  have h : Only [.ctr, .out] s (sendPause n prio quanta s) := by simp [Only.refl]
  exact ⟨h.same .pending (by decide), h.same .free (by decide), h.same .time (by decide), h.same .regs (by decide), h.same .latch (by decide), h.same .banks (by decide), h.same .sample (by decide), h.same .mem (by decide), h.same .poison (by decide), h.same .log (by decide), h.same .logLost (by decide), h.same .pins (by decide), h.same .ids (by decide), h.same .boot (by decide), h.same .ports (by decide), h.same .qps (by decide), h.same .flows (by decide), h.same .servo (by decide), h.same .traces (by decide), h.same .pair (by decide), h.same .queues (by decide), h.same .rings (by decide), h.same .q0Wanted (by decide), h.same .due (by decide), h.same .devSeq (by decide), h.same .chans (by decide), h.same .points (by decide), h.same .nextIndex (by decide), h.same .freed (by decide), h.same .opens (by decide), h.same .jobs (by decide), h.same .nextJob (by decide), h.same .tlb (by decide), h.same .inval (by decide), h.same .fetches (by decide), h.same .nextFetch (by decide), h.same .players (by decide), h.same .treLast (by decide), h.same .streams (by decide), h.same .shds (by decide), h.same .chains (by decide), h.same .relays (by decide), h.same .stores (by decide), h.same .slice (by decide), h.same .tableBanks (by decide), h.same .lives (by decide), h.same .ens (by decide)⟩

@[simp] theorem setBitOf_fields (page : Nat) (f : Fld) (i : Nat) (b : Bool) (s : State) :
    (setBitOf page f i b s).pending = s.pending ∧ (setBitOf page f i b s).free = s.free ∧ (setBitOf page f i b s).time = s.time ∧ (setBitOf page f i b s).latch = s.latch ∧ (setBitOf page f i b s).ctr = s.ctr ∧ (setBitOf page f i b s).banks = s.banks ∧ (setBitOf page f i b s).sample = s.sample ∧ (setBitOf page f i b s).mem = s.mem ∧ (setBitOf page f i b s).poison = s.poison ∧ (setBitOf page f i b s).out = s.out ∧ (setBitOf page f i b s).log = s.log ∧ (setBitOf page f i b s).logLost = s.logLost ∧ (setBitOf page f i b s).pins = s.pins ∧ (setBitOf page f i b s).ids = s.ids ∧ (setBitOf page f i b s).boot = s.boot ∧ (setBitOf page f i b s).ports = s.ports ∧ (setBitOf page f i b s).qps = s.qps ∧ (setBitOf page f i b s).flows = s.flows ∧ (setBitOf page f i b s).servo = s.servo ∧ (setBitOf page f i b s).traces = s.traces ∧ (setBitOf page f i b s).pair = s.pair ∧ (setBitOf page f i b s).queues = s.queues ∧ (setBitOf page f i b s).rings = s.rings ∧ (setBitOf page f i b s).q0Wanted = s.q0Wanted ∧ (setBitOf page f i b s).due = s.due ∧ (setBitOf page f i b s).devSeq = s.devSeq ∧ (setBitOf page f i b s).chans = s.chans ∧ (setBitOf page f i b s).points = s.points ∧ (setBitOf page f i b s).nextIndex = s.nextIndex ∧ (setBitOf page f i b s).freed = s.freed ∧ (setBitOf page f i b s).opens = s.opens ∧ (setBitOf page f i b s).jobs = s.jobs ∧ (setBitOf page f i b s).nextJob = s.nextJob ∧ (setBitOf page f i b s).tlb = s.tlb ∧ (setBitOf page f i b s).inval = s.inval ∧ (setBitOf page f i b s).fetches = s.fetches ∧ (setBitOf page f i b s).nextFetch = s.nextFetch ∧ (setBitOf page f i b s).players = s.players ∧ (setBitOf page f i b s).treLast = s.treLast ∧ (setBitOf page f i b s).streams = s.streams ∧ (setBitOf page f i b s).shds = s.shds ∧ (setBitOf page f i b s).chains = s.chains ∧ (setBitOf page f i b s).relays = s.relays ∧ (setBitOf page f i b s).stores = s.stores ∧ (setBitOf page f i b s).slice = s.slice ∧ (setBitOf page f i b s).tableBanks = s.tableBanks ∧ (setBitOf page f i b s).lives = s.lives ∧ (setBitOf page f i b s).ens = s.ens := by
  have h : Only [.regs] s (setBitOf page f i b s) := by simp [Only.refl]
  exact ⟨h.same .pending (by decide), h.same .free (by decide), h.same .time (by decide), h.same .latch (by decide), h.same .ctr (by decide), h.same .banks (by decide), h.same .sample (by decide), h.same .mem (by decide), h.same .poison (by decide), h.same .out (by decide), h.same .log (by decide), h.same .logLost (by decide), h.same .pins (by decide), h.same .ids (by decide), h.same .boot (by decide), h.same .ports (by decide), h.same .qps (by decide), h.same .flows (by decide), h.same .servo (by decide), h.same .traces (by decide), h.same .pair (by decide), h.same .queues (by decide), h.same .rings (by decide), h.same .q0Wanted (by decide), h.same .due (by decide), h.same .devSeq (by decide), h.same .chans (by decide), h.same .points (by decide), h.same .nextIndex (by decide), h.same .freed (by decide), h.same .opens (by decide), h.same .jobs (by decide), h.same .nextJob (by decide), h.same .tlb (by decide), h.same .inval (by decide), h.same .fetches (by decide), h.same .nextFetch (by decide), h.same .players (by decide), h.same .treLast (by decide), h.same .streams (by decide), h.same .shds (by decide), h.same .chains (by decide), h.same .relays (by decide), h.same .stores (by decide), h.same .slice (by decide), h.same .tableBanks (by decide), h.same .lives (by decide), h.same .ens (by decide)⟩

@[simp] theorem drain_fields (n prio bytes : Nat) (s : State) :
    (drain n prio bytes s).pending = s.pending ∧ (drain n prio bytes s).free = s.free ∧ (drain n prio bytes s).time = s.time ∧ (drain n prio bytes s).regs = s.regs ∧ (drain n prio bytes s).latch = s.latch ∧ (drain n prio bytes s).ctr = s.ctr ∧ (drain n prio bytes s).banks = s.banks ∧ (drain n prio bytes s).sample = s.sample ∧ (drain n prio bytes s).mem = s.mem ∧ (drain n prio bytes s).poison = s.poison ∧ (drain n prio bytes s).out = s.out ∧ (drain n prio bytes s).log = s.log ∧ (drain n prio bytes s).logLost = s.logLost ∧ (drain n prio bytes s).pins = s.pins ∧ (drain n prio bytes s).ids = s.ids ∧ (drain n prio bytes s).boot = s.boot ∧ (drain n prio bytes s).qps = s.qps ∧ (drain n prio bytes s).flows = s.flows ∧ (drain n prio bytes s).servo = s.servo ∧ (drain n prio bytes s).traces = s.traces ∧ (drain n prio bytes s).pair = s.pair ∧ (drain n prio bytes s).queues = s.queues ∧ (drain n prio bytes s).rings = s.rings ∧ (drain n prio bytes s).q0Wanted = s.q0Wanted ∧ (drain n prio bytes s).due = s.due ∧ (drain n prio bytes s).devSeq = s.devSeq ∧ (drain n prio bytes s).chans = s.chans ∧ (drain n prio bytes s).points = s.points ∧ (drain n prio bytes s).nextIndex = s.nextIndex ∧ (drain n prio bytes s).freed = s.freed ∧ (drain n prio bytes s).opens = s.opens ∧ (drain n prio bytes s).jobs = s.jobs ∧ (drain n prio bytes s).nextJob = s.nextJob ∧ (drain n prio bytes s).tlb = s.tlb ∧ (drain n prio bytes s).inval = s.inval ∧ (drain n prio bytes s).fetches = s.fetches ∧ (drain n prio bytes s).nextFetch = s.nextFetch ∧ (drain n prio bytes s).players = s.players ∧ (drain n prio bytes s).treLast = s.treLast ∧ (drain n prio bytes s).streams = s.streams ∧ (drain n prio bytes s).shds = s.shds ∧ (drain n prio bytes s).chains = s.chains ∧ (drain n prio bytes s).relays = s.relays ∧ (drain n prio bytes s).stores = s.stores ∧ (drain n prio bytes s).slice = s.slice ∧ (drain n prio bytes s).tableBanks = s.tableBanks ∧ (drain n prio bytes s).lives = s.lives ∧ (drain n prio bytes s).ens = s.ens := by
  have h : Only [.ports] s (drain n prio bytes s) := by simp [Only.refl]
  exact ⟨h.same .pending (by decide), h.same .free (by decide), h.same .time (by decide), h.same .regs (by decide), h.same .latch (by decide), h.same .ctr (by decide), h.same .banks (by decide), h.same .sample (by decide), h.same .mem (by decide), h.same .poison (by decide), h.same .out (by decide), h.same .log (by decide), h.same .logLost (by decide), h.same .pins (by decide), h.same .ids (by decide), h.same .boot (by decide), h.same .qps (by decide), h.same .flows (by decide), h.same .servo (by decide), h.same .traces (by decide), h.same .pair (by decide), h.same .queues (by decide), h.same .rings (by decide), h.same .q0Wanted (by decide), h.same .due (by decide), h.same .devSeq (by decide), h.same .chans (by decide), h.same .points (by decide), h.same .nextIndex (by decide), h.same .freed (by decide), h.same .opens (by decide), h.same .jobs (by decide), h.same .nextJob (by decide), h.same .tlb (by decide), h.same .inval (by decide), h.same .fetches (by decide), h.same .nextFetch (by decide), h.same .players (by decide), h.same .treLast (by decide), h.same .streams (by decide), h.same .shds (by decide), h.same .chains (by decide), h.same .relays (by decide), h.same .stores (by decide), h.same .slice (by decide), h.same .tableBanks (by decide), h.same .lives (by decide), h.same .ens (by decide)⟩

@[simp] theorem issue_fields (q : Nat) (m : Msg) (o : Owner) (s : State) :
    (issue q m o s).pending = s.pending ∧ (issue q m o s).free = s.free ∧ (issue q m o s).time = s.time ∧ (issue q m o s).latch = s.latch ∧ (issue q m o s).banks = s.banks ∧ (issue q m o s).sample = s.sample ∧ (issue q m o s).mem = s.mem ∧ (issue q m o s).poison = s.poison ∧ (issue q m o s).log = s.log ∧ (issue q m o s).logLost = s.logLost ∧ (issue q m o s).pins = s.pins ∧ (issue q m o s).ids = s.ids ∧ (issue q m o s).boot = s.boot ∧ (issue q m o s).flows = s.flows ∧ (issue q m o s).servo = s.servo ∧ (issue q m o s).traces = s.traces ∧ (issue q m o s).pair = s.pair ∧ (issue q m o s).queues = s.queues ∧ (issue q m o s).q0Wanted = s.q0Wanted ∧ (issue q m o s).due = s.due ∧ (issue q m o s).devSeq = s.devSeq ∧ (issue q m o s).chans = s.chans ∧ (issue q m o s).points = s.points ∧ (issue q m o s).nextIndex = s.nextIndex ∧ (issue q m o s).freed = s.freed ∧ (issue q m o s).opens = s.opens ∧ (issue q m o s).nextJob = s.nextJob ∧ (issue q m o s).tlb = s.tlb ∧ (issue q m o s).inval = s.inval ∧ (issue q m o s).nextFetch = s.nextFetch ∧ (issue q m o s).players = s.players ∧ (issue q m o s).treLast = s.treLast ∧ (issue q m o s).streams = s.streams ∧ (issue q m o s).shds = s.shds ∧ (issue q m o s).chains = s.chains ∧ (issue q m o s).relays = s.relays ∧ (issue q m o s).stores = s.stores ∧ (issue q m o s).slice = s.slice ∧ (issue q m o s).tableBanks = s.tableBanks ∧ (issue q m o s).lives = s.lives ∧ (issue q m o s).ens = s.ens := by
  have h : Only [.regs, .ctr, .out, .ports, .qps, .rings, .jobs, .fetches] s (issue q m o s) := by simp [Only.refl]
  exact ⟨h.same .pending (by decide), h.same .free (by decide), h.same .time (by decide), h.same .latch (by decide), h.same .banks (by decide), h.same .sample (by decide), h.same .mem (by decide), h.same .poison (by decide), h.same .log (by decide), h.same .logLost (by decide), h.same .pins (by decide), h.same .ids (by decide), h.same .boot (by decide), h.same .flows (by decide), h.same .servo (by decide), h.same .traces (by decide), h.same .pair (by decide), h.same .queues (by decide), h.same .q0Wanted (by decide), h.same .due (by decide), h.same .devSeq (by decide), h.same .chans (by decide), h.same .points (by decide), h.same .nextIndex (by decide), h.same .freed (by decide), h.same .opens (by decide), h.same .nextJob (by decide), h.same .tlb (by decide), h.same .inval (by decide), h.same .nextFetch (by decide), h.same .players (by decide), h.same .treLast (by decide), h.same .streams (by decide), h.same .shds (by decide), h.same .chains (by decide), h.same .relays (by decide), h.same .stores (by decide), h.same .slice (by decide), h.same .tableBanks (by decide), h.same .lives (by decide), h.same .ens (by decide)⟩

@[simp] theorem ownerFail_fields (o : Owner) (code : Nat) (s : State) :
    (ownerFail o code s).pending = s.pending ∧ (ownerFail o code s).free = s.free ∧ (ownerFail o code s).time = s.time ∧ (ownerFail o code s).regs = s.regs ∧ (ownerFail o code s).latch = s.latch ∧ (ownerFail o code s).ctr = s.ctr ∧ (ownerFail o code s).banks = s.banks ∧ (ownerFail o code s).sample = s.sample ∧ (ownerFail o code s).mem = s.mem ∧ (ownerFail o code s).poison = s.poison ∧ (ownerFail o code s).out = s.out ∧ (ownerFail o code s).log = s.log ∧ (ownerFail o code s).logLost = s.logLost ∧ (ownerFail o code s).pins = s.pins ∧ (ownerFail o code s).ids = s.ids ∧ (ownerFail o code s).boot = s.boot ∧ (ownerFail o code s).ports = s.ports ∧ (ownerFail o code s).flows = s.flows ∧ (ownerFail o code s).servo = s.servo ∧ (ownerFail o code s).traces = s.traces ∧ (ownerFail o code s).pair = s.pair ∧ (ownerFail o code s).queues = s.queues ∧ (ownerFail o code s).q0Wanted = s.q0Wanted ∧ (ownerFail o code s).due = s.due ∧ (ownerFail o code s).devSeq = s.devSeq ∧ (ownerFail o code s).chans = s.chans ∧ (ownerFail o code s).points = s.points ∧ (ownerFail o code s).nextIndex = s.nextIndex ∧ (ownerFail o code s).freed = s.freed ∧ (ownerFail o code s).opens = s.opens ∧ (ownerFail o code s).nextJob = s.nextJob ∧ (ownerFail o code s).tlb = s.tlb ∧ (ownerFail o code s).inval = s.inval ∧ (ownerFail o code s).nextFetch = s.nextFetch ∧ (ownerFail o code s).players = s.players ∧ (ownerFail o code s).treLast = s.treLast ∧ (ownerFail o code s).streams = s.streams ∧ (ownerFail o code s).shds = s.shds ∧ (ownerFail o code s).chains = s.chains ∧ (ownerFail o code s).relays = s.relays ∧ (ownerFail o code s).stores = s.stores ∧ (ownerFail o code s).slice = s.slice ∧ (ownerFail o code s).tableBanks = s.tableBanks ∧ (ownerFail o code s).lives = s.lives ∧ (ownerFail o code s).ens = s.ens := by
  have h : Only [.qps, .rings, .jobs, .fetches] s (ownerFail o code s) := by simp [Only.refl]
  exact ⟨h.same .pending (by decide), h.same .free (by decide), h.same .time (by decide), h.same .regs (by decide), h.same .latch (by decide), h.same .ctr (by decide), h.same .banks (by decide), h.same .sample (by decide), h.same .mem (by decide), h.same .poison (by decide), h.same .out (by decide), h.same .log (by decide), h.same .logLost (by decide), h.same .pins (by decide), h.same .ids (by decide), h.same .boot (by decide), h.same .ports (by decide), h.same .flows (by decide), h.same .servo (by decide), h.same .traces (by decide), h.same .pair (by decide), h.same .queues (by decide), h.same .q0Wanted (by decide), h.same .due (by decide), h.same .devSeq (by decide), h.same .chans (by decide), h.same .points (by decide), h.same .nextIndex (by decide), h.same .freed (by decide), h.same .opens (by decide), h.same .nextJob (by decide), h.same .tlb (by decide), h.same .inval (by decide), h.same .nextFetch (by decide), h.same .players (by decide), h.same .treLast (by decide), h.same .streams (by decide), h.same .shds (by decide), h.same .chains (by decide), h.same .relays (by decide), h.same .stores (by decide), h.same .slice (by decide), h.same .tableBanks (by decide), h.same .lives (by decide), h.same .ens (by decide)⟩

@[simp] theorem ownerDone_fields (o : Owner) (bytes : List Byte) (s : State) :
    (ownerDone o bytes s).pending = s.pending ∧ (ownerDone o bytes s).free = s.free ∧ (ownerDone o bytes s).time = s.time ∧ (ownerDone o bytes s).regs = s.regs ∧ (ownerDone o bytes s).latch = s.latch ∧ (ownerDone o bytes s).ctr = s.ctr ∧ (ownerDone o bytes s).banks = s.banks ∧ (ownerDone o bytes s).sample = s.sample ∧ (ownerDone o bytes s).mem = s.mem ∧ (ownerDone o bytes s).poison = s.poison ∧ (ownerDone o bytes s).out = s.out ∧ (ownerDone o bytes s).log = s.log ∧ (ownerDone o bytes s).logLost = s.logLost ∧ (ownerDone o bytes s).pins = s.pins ∧ (ownerDone o bytes s).ids = s.ids ∧ (ownerDone o bytes s).boot = s.boot ∧ (ownerDone o bytes s).ports = s.ports ∧ (ownerDone o bytes s).qps = s.qps ∧ (ownerDone o bytes s).flows = s.flows ∧ (ownerDone o bytes s).servo = s.servo ∧ (ownerDone o bytes s).traces = s.traces ∧ (ownerDone o bytes s).pair = s.pair ∧ (ownerDone o bytes s).queues = s.queues ∧ (ownerDone o bytes s).q0Wanted = s.q0Wanted ∧ (ownerDone o bytes s).due = s.due ∧ (ownerDone o bytes s).devSeq = s.devSeq ∧ (ownerDone o bytes s).chans = s.chans ∧ (ownerDone o bytes s).points = s.points ∧ (ownerDone o bytes s).nextIndex = s.nextIndex ∧ (ownerDone o bytes s).freed = s.freed ∧ (ownerDone o bytes s).opens = s.opens ∧ (ownerDone o bytes s).jobs = s.jobs ∧ (ownerDone o bytes s).nextJob = s.nextJob ∧ (ownerDone o bytes s).tlb = s.tlb ∧ (ownerDone o bytes s).inval = s.inval ∧ (ownerDone o bytes s).nextFetch = s.nextFetch ∧ (ownerDone o bytes s).players = s.players ∧ (ownerDone o bytes s).treLast = s.treLast ∧ (ownerDone o bytes s).streams = s.streams ∧ (ownerDone o bytes s).shds = s.shds ∧ (ownerDone o bytes s).chains = s.chains ∧ (ownerDone o bytes s).relays = s.relays ∧ (ownerDone o bytes s).stores = s.stores ∧ (ownerDone o bytes s).slice = s.slice ∧ (ownerDone o bytes s).tableBanks = s.tableBanks ∧ (ownerDone o bytes s).lives = s.lives ∧ (ownerDone o bytes s).ens = s.ens := by
  have h : Only [.rings, .fetches] s (ownerDone o bytes s) := by simp [Only.refl]
  exact ⟨h.same .pending (by decide), h.same .free (by decide), h.same .time (by decide), h.same .regs (by decide), h.same .latch (by decide), h.same .ctr (by decide), h.same .banks (by decide), h.same .sample (by decide), h.same .mem (by decide), h.same .poison (by decide), h.same .out (by decide), h.same .log (by decide), h.same .logLost (by decide), h.same .pins (by decide), h.same .ids (by decide), h.same .boot (by decide), h.same .ports (by decide), h.same .qps (by decide), h.same .flows (by decide), h.same .servo (by decide), h.same .traces (by decide), h.same .pair (by decide), h.same .queues (by decide), h.same .q0Wanted (by decide), h.same .due (by decide), h.same .devSeq (by decide), h.same .chans (by decide), h.same .points (by decide), h.same .nextIndex (by decide), h.same .freed (by decide), h.same .opens (by decide), h.same .jobs (by decide), h.same .nextJob (by decide), h.same .tlb (by decide), h.same .inval (by decide), h.same .nextFetch (by decide), h.same .players (by decide), h.same .treLast (by decide), h.same .streams (by decide), h.same .shds (by decide), h.same .chains (by decide), h.same .relays (by decide), h.same .stores (by decide), h.same .slice (by decide), h.same .tableBanks (by decide), h.same .lives (by decide), h.same .ens (by decide)⟩

@[simp] theorem failAll_fields (q code : Nat) (s : State) :
    (failAll q code s).pending = s.pending ∧ (failAll q code s).free = s.free ∧ (failAll q code s).time = s.time ∧ (failAll q code s).regs = s.regs ∧ (failAll q code s).latch = s.latch ∧ (failAll q code s).ctr = s.ctr ∧ (failAll q code s).banks = s.banks ∧ (failAll q code s).sample = s.sample ∧ (failAll q code s).mem = s.mem ∧ (failAll q code s).poison = s.poison ∧ (failAll q code s).out = s.out ∧ (failAll q code s).log = s.log ∧ (failAll q code s).logLost = s.logLost ∧ (failAll q code s).pins = s.pins ∧ (failAll q code s).ids = s.ids ∧ (failAll q code s).boot = s.boot ∧ (failAll q code s).ports = s.ports ∧ (failAll q code s).flows = s.flows ∧ (failAll q code s).servo = s.servo ∧ (failAll q code s).traces = s.traces ∧ (failAll q code s).pair = s.pair ∧ (failAll q code s).queues = s.queues ∧ (failAll q code s).q0Wanted = s.q0Wanted ∧ (failAll q code s).due = s.due ∧ (failAll q code s).devSeq = s.devSeq ∧ (failAll q code s).chans = s.chans ∧ (failAll q code s).points = s.points ∧ (failAll q code s).nextIndex = s.nextIndex ∧ (failAll q code s).freed = s.freed ∧ (failAll q code s).opens = s.opens ∧ (failAll q code s).nextJob = s.nextJob ∧ (failAll q code s).tlb = s.tlb ∧ (failAll q code s).inval = s.inval ∧ (failAll q code s).nextFetch = s.nextFetch ∧ (failAll q code s).players = s.players ∧ (failAll q code s).treLast = s.treLast ∧ (failAll q code s).streams = s.streams ∧ (failAll q code s).shds = s.shds ∧ (failAll q code s).chains = s.chains ∧ (failAll q code s).relays = s.relays ∧ (failAll q code s).stores = s.stores ∧ (failAll q code s).slice = s.slice ∧ (failAll q code s).tableBanks = s.tableBanks ∧ (failAll q code s).lives = s.lives ∧ (failAll q code s).ens = s.ens := by
  have h : Only [.qps, .rings, .jobs, .fetches] s (failAll q code s) := by simp [Only.refl]
  exact ⟨h.same .pending (by decide), h.same .free (by decide), h.same .time (by decide), h.same .regs (by decide), h.same .latch (by decide), h.same .ctr (by decide), h.same .banks (by decide), h.same .sample (by decide), h.same .mem (by decide), h.same .poison (by decide), h.same .out (by decide), h.same .log (by decide), h.same .logLost (by decide), h.same .pins (by decide), h.same .ids (by decide), h.same .boot (by decide), h.same .ports (by decide), h.same .flows (by decide), h.same .servo (by decide), h.same .traces (by decide), h.same .pair (by decide), h.same .queues (by decide), h.same .q0Wanted (by decide), h.same .due (by decide), h.same .devSeq (by decide), h.same .chans (by decide), h.same .points (by decide), h.same .nextIndex (by decide), h.same .freed (by decide), h.same .opens (by decide), h.same .nextJob (by decide), h.same .tlb (by decide), h.same .inval (by decide), h.same .nextFetch (by decide), h.same .players (by decide), h.same .treLast (by decide), h.same .streams (by decide), h.same .shds (by decide), h.same .chains (by decide), h.same .relays (by decide), h.same .stores (by decide), h.same .slice (by decide), h.same .tableBanks (by decide), h.same .lives (by decide), h.same .ens (by decide)⟩

@[simp] theorem holdRdmErr_fields (q kind : Nat) (s : State) :
    (holdRdmErr q kind s).pending = s.pending ∧ (holdRdmErr q kind s).free = s.free ∧ (holdRdmErr q kind s).time = s.time ∧ (holdRdmErr q kind s).latch = s.latch ∧ (holdRdmErr q kind s).ctr = s.ctr ∧ (holdRdmErr q kind s).banks = s.banks ∧ (holdRdmErr q kind s).sample = s.sample ∧ (holdRdmErr q kind s).mem = s.mem ∧ (holdRdmErr q kind s).poison = s.poison ∧ (holdRdmErr q kind s).out = s.out ∧ (holdRdmErr q kind s).log = s.log ∧ (holdRdmErr q kind s).logLost = s.logLost ∧ (holdRdmErr q kind s).pins = s.pins ∧ (holdRdmErr q kind s).ids = s.ids ∧ (holdRdmErr q kind s).boot = s.boot ∧ (holdRdmErr q kind s).ports = s.ports ∧ (holdRdmErr q kind s).qps = s.qps ∧ (holdRdmErr q kind s).flows = s.flows ∧ (holdRdmErr q kind s).servo = s.servo ∧ (holdRdmErr q kind s).traces = s.traces ∧ (holdRdmErr q kind s).pair = s.pair ∧ (holdRdmErr q kind s).queues = s.queues ∧ (holdRdmErr q kind s).rings = s.rings ∧ (holdRdmErr q kind s).q0Wanted = s.q0Wanted ∧ (holdRdmErr q kind s).due = s.due ∧ (holdRdmErr q kind s).devSeq = s.devSeq ∧ (holdRdmErr q kind s).chans = s.chans ∧ (holdRdmErr q kind s).points = s.points ∧ (holdRdmErr q kind s).nextIndex = s.nextIndex ∧ (holdRdmErr q kind s).freed = s.freed ∧ (holdRdmErr q kind s).opens = s.opens ∧ (holdRdmErr q kind s).jobs = s.jobs ∧ (holdRdmErr q kind s).nextJob = s.nextJob ∧ (holdRdmErr q kind s).tlb = s.tlb ∧ (holdRdmErr q kind s).inval = s.inval ∧ (holdRdmErr q kind s).fetches = s.fetches ∧ (holdRdmErr q kind s).nextFetch = s.nextFetch ∧ (holdRdmErr q kind s).players = s.players ∧ (holdRdmErr q kind s).treLast = s.treLast ∧ (holdRdmErr q kind s).streams = s.streams ∧ (holdRdmErr q kind s).shds = s.shds ∧ (holdRdmErr q kind s).chains = s.chains ∧ (holdRdmErr q kind s).relays = s.relays ∧ (holdRdmErr q kind s).stores = s.stores ∧ (holdRdmErr q kind s).slice = s.slice ∧ (holdRdmErr q kind s).tableBanks = s.tableBanks ∧ (holdRdmErr q kind s).lives = s.lives ∧ (holdRdmErr q kind s).ens = s.ens := by
  have h : Only [.regs] s (holdRdmErr q kind s) := by simp [Only.refl]
  exact ⟨h.same .pending (by decide), h.same .free (by decide), h.same .time (by decide), h.same .latch (by decide), h.same .ctr (by decide), h.same .banks (by decide), h.same .sample (by decide), h.same .mem (by decide), h.same .poison (by decide), h.same .out (by decide), h.same .log (by decide), h.same .logLost (by decide), h.same .pins (by decide), h.same .ids (by decide), h.same .boot (by decide), h.same .ports (by decide), h.same .qps (by decide), h.same .flows (by decide), h.same .servo (by decide), h.same .traces (by decide), h.same .pair (by decide), h.same .queues (by decide), h.same .rings (by decide), h.same .q0Wanted (by decide), h.same .due (by decide), h.same .devSeq (by decide), h.same .chans (by decide), h.same .points (by decide), h.same .nextIndex (by decide), h.same .freed (by decide), h.same .opens (by decide), h.same .jobs (by decide), h.same .nextJob (by decide), h.same .tlb (by decide), h.same .inval (by decide), h.same .fetches (by decide), h.same .nextFetch (by decide), h.same .players (by decide), h.same .treLast (by decide), h.same .streams (by decide), h.same .shds (by decide), h.same .chains (by decide), h.same .relays (by decide), h.same .stores (by decide), h.same .slice (by decide), h.same .tableBanks (by decide), h.same .lives (by decide), h.same .ens (by decide)⟩

@[simp] theorem cnpFor_fields (q : Nat) (ce : Bool) (s : State) :
    (cnpFor q ce s).pending = s.pending ∧ (cnpFor q ce s).free = s.free ∧ (cnpFor q ce s).time = s.time ∧ (cnpFor q ce s).regs = s.regs ∧ (cnpFor q ce s).latch = s.latch ∧ (cnpFor q ce s).banks = s.banks ∧ (cnpFor q ce s).sample = s.sample ∧ (cnpFor q ce s).mem = s.mem ∧ (cnpFor q ce s).poison = s.poison ∧ (cnpFor q ce s).log = s.log ∧ (cnpFor q ce s).logLost = s.logLost ∧ (cnpFor q ce s).pins = s.pins ∧ (cnpFor q ce s).ids = s.ids ∧ (cnpFor q ce s).boot = s.boot ∧ (cnpFor q ce s).flows = s.flows ∧ (cnpFor q ce s).servo = s.servo ∧ (cnpFor q ce s).traces = s.traces ∧ (cnpFor q ce s).pair = s.pair ∧ (cnpFor q ce s).queues = s.queues ∧ (cnpFor q ce s).rings = s.rings ∧ (cnpFor q ce s).q0Wanted = s.q0Wanted ∧ (cnpFor q ce s).due = s.due ∧ (cnpFor q ce s).devSeq = s.devSeq ∧ (cnpFor q ce s).chans = s.chans ∧ (cnpFor q ce s).points = s.points ∧ (cnpFor q ce s).nextIndex = s.nextIndex ∧ (cnpFor q ce s).freed = s.freed ∧ (cnpFor q ce s).opens = s.opens ∧ (cnpFor q ce s).jobs = s.jobs ∧ (cnpFor q ce s).nextJob = s.nextJob ∧ (cnpFor q ce s).tlb = s.tlb ∧ (cnpFor q ce s).inval = s.inval ∧ (cnpFor q ce s).fetches = s.fetches ∧ (cnpFor q ce s).nextFetch = s.nextFetch ∧ (cnpFor q ce s).players = s.players ∧ (cnpFor q ce s).treLast = s.treLast ∧ (cnpFor q ce s).streams = s.streams ∧ (cnpFor q ce s).shds = s.shds ∧ (cnpFor q ce s).chains = s.chains ∧ (cnpFor q ce s).relays = s.relays ∧ (cnpFor q ce s).stores = s.stores ∧ (cnpFor q ce s).slice = s.slice ∧ (cnpFor q ce s).tableBanks = s.tableBanks ∧ (cnpFor q ce s).lives = s.lives ∧ (cnpFor q ce s).ens = s.ens := by
  have h : Only [.ctr, .out, .ports, .qps] s (cnpFor q ce s) := by simp [Only.refl]
  exact ⟨h.same .pending (by decide), h.same .free (by decide), h.same .time (by decide), h.same .regs (by decide), h.same .latch (by decide), h.same .banks (by decide), h.same .sample (by decide), h.same .mem (by decide), h.same .poison (by decide), h.same .log (by decide), h.same .logLost (by decide), h.same .pins (by decide), h.same .ids (by decide), h.same .boot (by decide), h.same .flows (by decide), h.same .servo (by decide), h.same .traces (by decide), h.same .pair (by decide), h.same .queues (by decide), h.same .rings (by decide), h.same .q0Wanted (by decide), h.same .due (by decide), h.same .devSeq (by decide), h.same .chans (by decide), h.same .points (by decide), h.same .nextIndex (by decide), h.same .freed (by decide), h.same .opens (by decide), h.same .jobs (by decide), h.same .nextJob (by decide), h.same .tlb (by decide), h.same .inval (by decide), h.same .fetches (by decide), h.same .nextFetch (by decide), h.same .players (by decide), h.same .treLast (by decide), h.same .streams (by decide), h.same .shds (by decide), h.same .chains (by decide), h.same .relays (by decide), h.same .stores (by decide), h.same .slice (by decide), h.same .tableBanks (by decide), h.same .lives (by decide), h.same .ens (by decide)⟩

@[simp] theorem timeout_fields (q : Nat) (s : State) :
    (timeout q s).pending = s.pending ∧ (timeout q s).free = s.free ∧ (timeout q s).time = s.time ∧ (timeout q s).latch = s.latch ∧ (timeout q s).banks = s.banks ∧ (timeout q s).sample = s.sample ∧ (timeout q s).mem = s.mem ∧ (timeout q s).poison = s.poison ∧ (timeout q s).log = s.log ∧ (timeout q s).logLost = s.logLost ∧ (timeout q s).pins = s.pins ∧ (timeout q s).ids = s.ids ∧ (timeout q s).boot = s.boot ∧ (timeout q s).flows = s.flows ∧ (timeout q s).servo = s.servo ∧ (timeout q s).traces = s.traces ∧ (timeout q s).pair = s.pair ∧ (timeout q s).queues = s.queues ∧ (timeout q s).q0Wanted = s.q0Wanted ∧ (timeout q s).due = s.due ∧ (timeout q s).devSeq = s.devSeq ∧ (timeout q s).chans = s.chans ∧ (timeout q s).points = s.points ∧ (timeout q s).nextIndex = s.nextIndex ∧ (timeout q s).freed = s.freed ∧ (timeout q s).opens = s.opens ∧ (timeout q s).nextJob = s.nextJob ∧ (timeout q s).tlb = s.tlb ∧ (timeout q s).inval = s.inval ∧ (timeout q s).nextFetch = s.nextFetch ∧ (timeout q s).players = s.players ∧ (timeout q s).treLast = s.treLast ∧ (timeout q s).streams = s.streams ∧ (timeout q s).shds = s.shds ∧ (timeout q s).chains = s.chains ∧ (timeout q s).relays = s.relays ∧ (timeout q s).stores = s.stores ∧ (timeout q s).slice = s.slice ∧ (timeout q s).tableBanks = s.tableBanks ∧ (timeout q s).lives = s.lives ∧ (timeout q s).ens = s.ens := by
  have h : Only [.regs, .ctr, .out, .ports, .qps, .rings, .jobs, .fetches] s (timeout q s) := by simp [Only.refl]
  exact ⟨h.same .pending (by decide), h.same .free (by decide), h.same .time (by decide), h.same .latch (by decide), h.same .banks (by decide), h.same .sample (by decide), h.same .mem (by decide), h.same .poison (by decide), h.same .log (by decide), h.same .logLost (by decide), h.same .pins (by decide), h.same .ids (by decide), h.same .boot (by decide), h.same .flows (by decide), h.same .servo (by decide), h.same .traces (by decide), h.same .pair (by decide), h.same .queues (by decide), h.same .q0Wanted (by decide), h.same .due (by decide), h.same .devSeq (by decide), h.same .chans (by decide), h.same .points (by decide), h.same .nextIndex (by decide), h.same .freed (by decide), h.same .opens (by decide), h.same .nextJob (by decide), h.same .tlb (by decide), h.same .inval (by decide), h.same .nextFetch (by decide), h.same .players (by decide), h.same .treLast (by decide), h.same .streams (by decide), h.same .shds (by decide), h.same .chains (by decide), h.same .relays (by decide), h.same .stores (by decide), h.same .slice (by decide), h.same .tableBanks (by decide), h.same .lives (by decide), h.same .ens (by decide)⟩

@[simp] theorem holdXlt_fields (kind level : Nat) (write : Bool) (va handle : Nat) (s : State) :
    (holdXlt kind level write va handle s).pending = s.pending ∧ (holdXlt kind level write va handle s).free = s.free ∧ (holdXlt kind level write va handle s).time = s.time ∧ (holdXlt kind level write va handle s).latch = s.latch ∧ (holdXlt kind level write va handle s).ctr = s.ctr ∧ (holdXlt kind level write va handle s).banks = s.banks ∧ (holdXlt kind level write va handle s).sample = s.sample ∧ (holdXlt kind level write va handle s).mem = s.mem ∧ (holdXlt kind level write va handle s).poison = s.poison ∧ (holdXlt kind level write va handle s).out = s.out ∧ (holdXlt kind level write va handle s).log = s.log ∧ (holdXlt kind level write va handle s).logLost = s.logLost ∧ (holdXlt kind level write va handle s).pins = s.pins ∧ (holdXlt kind level write va handle s).ids = s.ids ∧ (holdXlt kind level write va handle s).boot = s.boot ∧ (holdXlt kind level write va handle s).ports = s.ports ∧ (holdXlt kind level write va handle s).qps = s.qps ∧ (holdXlt kind level write va handle s).flows = s.flows ∧ (holdXlt kind level write va handle s).servo = s.servo ∧ (holdXlt kind level write va handle s).traces = s.traces ∧ (holdXlt kind level write va handle s).pair = s.pair ∧ (holdXlt kind level write va handle s).queues = s.queues ∧ (holdXlt kind level write va handle s).rings = s.rings ∧ (holdXlt kind level write va handle s).q0Wanted = s.q0Wanted ∧ (holdXlt kind level write va handle s).due = s.due ∧ (holdXlt kind level write va handle s).devSeq = s.devSeq ∧ (holdXlt kind level write va handle s).chans = s.chans ∧ (holdXlt kind level write va handle s).points = s.points ∧ (holdXlt kind level write va handle s).nextIndex = s.nextIndex ∧ (holdXlt kind level write va handle s).freed = s.freed ∧ (holdXlt kind level write va handle s).opens = s.opens ∧ (holdXlt kind level write va handle s).jobs = s.jobs ∧ (holdXlt kind level write va handle s).nextJob = s.nextJob ∧ (holdXlt kind level write va handle s).tlb = s.tlb ∧ (holdXlt kind level write va handle s).inval = s.inval ∧ (holdXlt kind level write va handle s).fetches = s.fetches ∧ (holdXlt kind level write va handle s).nextFetch = s.nextFetch ∧ (holdXlt kind level write va handle s).players = s.players ∧ (holdXlt kind level write va handle s).treLast = s.treLast ∧ (holdXlt kind level write va handle s).streams = s.streams ∧ (holdXlt kind level write va handle s).shds = s.shds ∧ (holdXlt kind level write va handle s).chains = s.chains ∧ (holdXlt kind level write va handle s).relays = s.relays ∧ (holdXlt kind level write va handle s).stores = s.stores ∧ (holdXlt kind level write va handle s).slice = s.slice ∧ (holdXlt kind level write va handle s).tableBanks = s.tableBanks ∧ (holdXlt kind level write va handle s).lives = s.lives ∧ (holdXlt kind level write va handle s).ens = s.ens := by
  have h : Only [.regs] s (holdXlt kind level write va handle s) := by simp [Only.refl]
  exact ⟨h.same .pending (by decide), h.same .free (by decide), h.same .time (by decide), h.same .latch (by decide), h.same .ctr (by decide), h.same .banks (by decide), h.same .sample (by decide), h.same .mem (by decide), h.same .poison (by decide), h.same .out (by decide), h.same .log (by decide), h.same .logLost (by decide), h.same .pins (by decide), h.same .ids (by decide), h.same .boot (by decide), h.same .ports (by decide), h.same .qps (by decide), h.same .flows (by decide), h.same .servo (by decide), h.same .traces (by decide), h.same .pair (by decide), h.same .queues (by decide), h.same .rings (by decide), h.same .q0Wanted (by decide), h.same .due (by decide), h.same .devSeq (by decide), h.same .chans (by decide), h.same .points (by decide), h.same .nextIndex (by decide), h.same .freed (by decide), h.same .opens (by decide), h.same .jobs (by decide), h.same .nextJob (by decide), h.same .tlb (by decide), h.same .inval (by decide), h.same .fetches (by decide), h.same .nextFetch (by decide), h.same .players (by decide), h.same .treLast (by decide), h.same .streams (by decide), h.same .shds (by decide), h.same .chains (by decide), h.same .relays (by decide), h.same .stores (by decide), h.same .slice (by decide), h.same .tableBanks (by decide), h.same .lives (by decide), h.same .ens (by decide)⟩

@[simp] theorem stopOf_fields (job : Option Nat) (code : Nat) (s : State) :
    (stopOf job code s).pending = s.pending ∧ (stopOf job code s).free = s.free ∧ (stopOf job code s).time = s.time ∧ (stopOf job code s).regs = s.regs ∧ (stopOf job code s).latch = s.latch ∧ (stopOf job code s).ctr = s.ctr ∧ (stopOf job code s).banks = s.banks ∧ (stopOf job code s).sample = s.sample ∧ (stopOf job code s).mem = s.mem ∧ (stopOf job code s).poison = s.poison ∧ (stopOf job code s).out = s.out ∧ (stopOf job code s).log = s.log ∧ (stopOf job code s).logLost = s.logLost ∧ (stopOf job code s).pins = s.pins ∧ (stopOf job code s).ids = s.ids ∧ (stopOf job code s).boot = s.boot ∧ (stopOf job code s).ports = s.ports ∧ (stopOf job code s).qps = s.qps ∧ (stopOf job code s).flows = s.flows ∧ (stopOf job code s).servo = s.servo ∧ (stopOf job code s).traces = s.traces ∧ (stopOf job code s).pair = s.pair ∧ (stopOf job code s).queues = s.queues ∧ (stopOf job code s).rings = s.rings ∧ (stopOf job code s).q0Wanted = s.q0Wanted ∧ (stopOf job code s).due = s.due ∧ (stopOf job code s).devSeq = s.devSeq ∧ (stopOf job code s).chans = s.chans ∧ (stopOf job code s).points = s.points ∧ (stopOf job code s).nextIndex = s.nextIndex ∧ (stopOf job code s).freed = s.freed ∧ (stopOf job code s).opens = s.opens ∧ (stopOf job code s).nextJob = s.nextJob ∧ (stopOf job code s).tlb = s.tlb ∧ (stopOf job code s).inval = s.inval ∧ (stopOf job code s).fetches = s.fetches ∧ (stopOf job code s).nextFetch = s.nextFetch ∧ (stopOf job code s).players = s.players ∧ (stopOf job code s).treLast = s.treLast ∧ (stopOf job code s).streams = s.streams ∧ (stopOf job code s).shds = s.shds ∧ (stopOf job code s).chains = s.chains ∧ (stopOf job code s).relays = s.relays ∧ (stopOf job code s).stores = s.stores ∧ (stopOf job code s).slice = s.slice ∧ (stopOf job code s).tableBanks = s.tableBanks ∧ (stopOf job code s).lives = s.lives ∧ (stopOf job code s).ens = s.ens := by
  have h : Only [.jobs] s (stopOf job code s) := by simp [Only.refl]
  exact ⟨h.same .pending (by decide), h.same .free (by decide), h.same .time (by decide), h.same .regs (by decide), h.same .latch (by decide), h.same .ctr (by decide), h.same .banks (by decide), h.same .sample (by decide), h.same .mem (by decide), h.same .poison (by decide), h.same .out (by decide), h.same .log (by decide), h.same .logLost (by decide), h.same .pins (by decide), h.same .ids (by decide), h.same .boot (by decide), h.same .ports (by decide), h.same .qps (by decide), h.same .flows (by decide), h.same .servo (by decide), h.same .traces (by decide), h.same .pair (by decide), h.same .queues (by decide), h.same .rings (by decide), h.same .q0Wanted (by decide), h.same .due (by decide), h.same .devSeq (by decide), h.same .chans (by decide), h.same .points (by decide), h.same .nextIndex (by decide), h.same .freed (by decide), h.same .opens (by decide), h.same .nextJob (by decide), h.same .tlb (by decide), h.same .inval (by decide), h.same .fetches (by decide), h.same .nextFetch (by decide), h.same .players (by decide), h.same .treLast (by decide), h.same .streams (by decide), h.same .shds (by decide), h.same .chains (by decide), h.same .relays (by decide), h.same .stores (by decide), h.same .slice (by decide), h.same .tableBanks (by decide), h.same .lives (by decide), h.same .ens (by decide)⟩

@[simp] theorem passQuiet_fields (q : Nat) (s : State) :
    (passQuiet q s).pending = s.pending ∧ (passQuiet q s).free = s.free ∧ (passQuiet q s).time = s.time ∧ (passQuiet q s).regs = s.regs ∧ (passQuiet q s).latch = s.latch ∧ (passQuiet q s).ctr = s.ctr ∧ (passQuiet q s).banks = s.banks ∧ (passQuiet q s).sample = s.sample ∧ (passQuiet q s).mem = s.mem ∧ (passQuiet q s).poison = s.poison ∧ (passQuiet q s).out = s.out ∧ (passQuiet q s).log = s.log ∧ (passQuiet q s).logLost = s.logLost ∧ (passQuiet q s).pins = s.pins ∧ (passQuiet q s).ids = s.ids ∧ (passQuiet q s).boot = s.boot ∧ (passQuiet q s).ports = s.ports ∧ (passQuiet q s).qps = s.qps ∧ (passQuiet q s).flows = s.flows ∧ (passQuiet q s).servo = s.servo ∧ (passQuiet q s).traces = s.traces ∧ (passQuiet q s).pair = s.pair ∧ (passQuiet q s).rings = s.rings ∧ (passQuiet q s).q0Wanted = s.q0Wanted ∧ (passQuiet q s).due = s.due ∧ (passQuiet q s).devSeq = s.devSeq ∧ (passQuiet q s).chans = s.chans ∧ (passQuiet q s).points = s.points ∧ (passQuiet q s).nextIndex = s.nextIndex ∧ (passQuiet q s).freed = s.freed ∧ (passQuiet q s).opens = s.opens ∧ (passQuiet q s).jobs = s.jobs ∧ (passQuiet q s).nextJob = s.nextJob ∧ (passQuiet q s).tlb = s.tlb ∧ (passQuiet q s).inval = s.inval ∧ (passQuiet q s).fetches = s.fetches ∧ (passQuiet q s).nextFetch = s.nextFetch ∧ (passQuiet q s).players = s.players ∧ (passQuiet q s).treLast = s.treLast ∧ (passQuiet q s).streams = s.streams ∧ (passQuiet q s).shds = s.shds ∧ (passQuiet q s).chains = s.chains ∧ (passQuiet q s).relays = s.relays ∧ (passQuiet q s).stores = s.stores ∧ (passQuiet q s).slice = s.slice ∧ (passQuiet q s).tableBanks = s.tableBanks ∧ (passQuiet q s).lives = s.lives ∧ (passQuiet q s).ens = s.ens := by
  have h : Only [.queues] s (passQuiet q s) := by simp [Only.refl]
  exact ⟨h.same .pending (by decide), h.same .free (by decide), h.same .time (by decide), h.same .regs (by decide), h.same .latch (by decide), h.same .ctr (by decide), h.same .banks (by decide), h.same .sample (by decide), h.same .mem (by decide), h.same .poison (by decide), h.same .out (by decide), h.same .log (by decide), h.same .logLost (by decide), h.same .pins (by decide), h.same .ids (by decide), h.same .boot (by decide), h.same .ports (by decide), h.same .qps (by decide), h.same .flows (by decide), h.same .servo (by decide), h.same .traces (by decide), h.same .pair (by decide), h.same .rings (by decide), h.same .q0Wanted (by decide), h.same .due (by decide), h.same .devSeq (by decide), h.same .chans (by decide), h.same .points (by decide), h.same .nextIndex (by decide), h.same .freed (by decide), h.same .opens (by decide), h.same .jobs (by decide), h.same .nextJob (by decide), h.same .tlb (by decide), h.same .inval (by decide), h.same .fetches (by decide), h.same .nextFetch (by decide), h.same .players (by decide), h.same .treLast (by decide), h.same .streams (by decide), h.same .shds (by decide), h.same .chains (by decide), h.same .relays (by decide), h.same .stores (by decide), h.same .slice (by decide), h.same .tableBanks (by decide), h.same .lives (by decide), h.same .ens (by decide)⟩

@[simp] theorem finish_fields (c : Ctx) (code r0 r1 : Nat) (s : State) :
    (finish c code r0 r1 s).pending = s.pending ∧ (finish c code r0 r1 s).free = s.free ∧ (finish c code r0 r1 s).time = s.time ∧ (finish c code r0 r1 s).latch = s.latch ∧ (finish c code r0 r1 s).banks = s.banks ∧ (finish c code r0 r1 s).sample = s.sample ∧ (finish c code r0 r1 s).mem = s.mem ∧ (finish c code r0 r1 s).poison = s.poison ∧ (finish c code r0 r1 s).out = s.out ∧ (finish c code r0 r1 s).ids = s.ids ∧ (finish c code r0 r1 s).boot = s.boot ∧ (finish c code r0 r1 s).ports = s.ports ∧ (finish c code r0 r1 s).qps = s.qps ∧ (finish c code r0 r1 s).flows = s.flows ∧ (finish c code r0 r1 s).servo = s.servo ∧ (finish c code r0 r1 s).traces = s.traces ∧ (finish c code r0 r1 s).rings = s.rings ∧ (finish c code r0 r1 s).q0Wanted = s.q0Wanted ∧ (finish c code r0 r1 s).devSeq = s.devSeq ∧ (finish c code r0 r1 s).points = s.points ∧ (finish c code r0 r1 s).nextIndex = s.nextIndex ∧ (finish c code r0 r1 s).freed = s.freed ∧ (finish c code r0 r1 s).opens = s.opens ∧ (finish c code r0 r1 s).jobs = s.jobs ∧ (finish c code r0 r1 s).nextJob = s.nextJob ∧ (finish c code r0 r1 s).tlb = s.tlb ∧ (finish c code r0 r1 s).inval = s.inval ∧ (finish c code r0 r1 s).fetches = s.fetches ∧ (finish c code r0 r1 s).nextFetch = s.nextFetch ∧ (finish c code r0 r1 s).players = s.players ∧ (finish c code r0 r1 s).treLast = s.treLast ∧ (finish c code r0 r1 s).streams = s.streams ∧ (finish c code r0 r1 s).shds = s.shds ∧ (finish c code r0 r1 s).chains = s.chains ∧ (finish c code r0 r1 s).relays = s.relays ∧ (finish c code r0 r1 s).stores = s.stores ∧ (finish c code r0 r1 s).slice = s.slice ∧ (finish c code r0 r1 s).tableBanks = s.tableBanks ∧ (finish c code r0 r1 s).lives = s.lives ∧ (finish c code r0 r1 s).ens = s.ens := by
  have h : Only [.regs, .ctr, .log, .logLost, .pins, .pair, .queues, .due, .chans] s (finish c code r0 r1 s) := by simp [Only.refl]
  exact ⟨h.same .pending (by decide), h.same .free (by decide), h.same .time (by decide), h.same .latch (by decide), h.same .banks (by decide), h.same .sample (by decide), h.same .mem (by decide), h.same .poison (by decide), h.same .out (by decide), h.same .ids (by decide), h.same .boot (by decide), h.same .ports (by decide), h.same .qps (by decide), h.same .flows (by decide), h.same .servo (by decide), h.same .traces (by decide), h.same .rings (by decide), h.same .q0Wanted (by decide), h.same .devSeq (by decide), h.same .points (by decide), h.same .nextIndex (by decide), h.same .freed (by decide), h.same .opens (by decide), h.same .jobs (by decide), h.same .nextJob (by decide), h.same .tlb (by decide), h.same .inval (by decide), h.same .fetches (by decide), h.same .nextFetch (by decide), h.same .players (by decide), h.same .treLast (by decide), h.same .streams (by decide), h.same .shds (by decide), h.same .chains (by decide), h.same .relays (by decide), h.same .stores (by decide), h.same .slice (by decide), h.same .tableBanks (by decide), h.same .lives (by decide), h.same .ens (by decide)⟩

@[simp] theorem fail_fields (c : Ctx) (code : Nat) (s : State) :
    (fail c code s).pending = s.pending ∧ (fail c code s).free = s.free ∧ (fail c code s).time = s.time ∧ (fail c code s).latch = s.latch ∧ (fail c code s).banks = s.banks ∧ (fail c code s).sample = s.sample ∧ (fail c code s).mem = s.mem ∧ (fail c code s).poison = s.poison ∧ (fail c code s).out = s.out ∧ (fail c code s).ids = s.ids ∧ (fail c code s).boot = s.boot ∧ (fail c code s).ports = s.ports ∧ (fail c code s).qps = s.qps ∧ (fail c code s).flows = s.flows ∧ (fail c code s).servo = s.servo ∧ (fail c code s).traces = s.traces ∧ (fail c code s).rings = s.rings ∧ (fail c code s).q0Wanted = s.q0Wanted ∧ (fail c code s).devSeq = s.devSeq ∧ (fail c code s).points = s.points ∧ (fail c code s).nextIndex = s.nextIndex ∧ (fail c code s).freed = s.freed ∧ (fail c code s).opens = s.opens ∧ (fail c code s).jobs = s.jobs ∧ (fail c code s).nextJob = s.nextJob ∧ (fail c code s).tlb = s.tlb ∧ (fail c code s).inval = s.inval ∧ (fail c code s).fetches = s.fetches ∧ (fail c code s).nextFetch = s.nextFetch ∧ (fail c code s).players = s.players ∧ (fail c code s).treLast = s.treLast ∧ (fail c code s).streams = s.streams ∧ (fail c code s).shds = s.shds ∧ (fail c code s).chains = s.chains ∧ (fail c code s).relays = s.relays ∧ (fail c code s).stores = s.stores ∧ (fail c code s).slice = s.slice ∧ (fail c code s).tableBanks = s.tableBanks ∧ (fail c code s).lives = s.lives ∧ (fail c code s).ens = s.ens := by
  have h : Only [.regs, .ctr, .log, .logLost, .pins, .pair, .queues, .due, .chans] s (fail c code s) := by simp [Only.refl]
  exact ⟨h.same .pending (by decide), h.same .free (by decide), h.same .time (by decide), h.same .latch (by decide), h.same .banks (by decide), h.same .sample (by decide), h.same .mem (by decide), h.same .poison (by decide), h.same .out (by decide), h.same .ids (by decide), h.same .boot (by decide), h.same .ports (by decide), h.same .qps (by decide), h.same .flows (by decide), h.same .servo (by decide), h.same .traces (by decide), h.same .rings (by decide), h.same .q0Wanted (by decide), h.same .devSeq (by decide), h.same .points (by decide), h.same .nextIndex (by decide), h.same .freed (by decide), h.same .opens (by decide), h.same .jobs (by decide), h.same .nextJob (by decide), h.same .tlb (by decide), h.same .inval (by decide), h.same .fetches (by decide), h.same .nextFetch (by decide), h.same .players (by decide), h.same .treLast (by decide), h.same .streams (by decide), h.same .shds (by decide), h.same .chains (by decide), h.same .relays (by decide), h.same .stores (by decide), h.same .slice (by decide), h.same .tableBanks (by decide), h.same .lives (by decide), h.same .ens (by decide)⟩

@[simp] theorem done_fields (c : Ctx) (s : State) :
    (done c s).pending = s.pending ∧ (done c s).free = s.free ∧ (done c s).time = s.time ∧ (done c s).latch = s.latch ∧ (done c s).banks = s.banks ∧ (done c s).sample = s.sample ∧ (done c s).mem = s.mem ∧ (done c s).poison = s.poison ∧ (done c s).out = s.out ∧ (done c s).ids = s.ids ∧ (done c s).boot = s.boot ∧ (done c s).ports = s.ports ∧ (done c s).qps = s.qps ∧ (done c s).flows = s.flows ∧ (done c s).servo = s.servo ∧ (done c s).traces = s.traces ∧ (done c s).rings = s.rings ∧ (done c s).q0Wanted = s.q0Wanted ∧ (done c s).devSeq = s.devSeq ∧ (done c s).points = s.points ∧ (done c s).nextIndex = s.nextIndex ∧ (done c s).freed = s.freed ∧ (done c s).opens = s.opens ∧ (done c s).jobs = s.jobs ∧ (done c s).nextJob = s.nextJob ∧ (done c s).tlb = s.tlb ∧ (done c s).inval = s.inval ∧ (done c s).fetches = s.fetches ∧ (done c s).nextFetch = s.nextFetch ∧ (done c s).players = s.players ∧ (done c s).treLast = s.treLast ∧ (done c s).streams = s.streams ∧ (done c s).shds = s.shds ∧ (done c s).chains = s.chains ∧ (done c s).relays = s.relays ∧ (done c s).stores = s.stores ∧ (done c s).slice = s.slice ∧ (done c s).tableBanks = s.tableBanks ∧ (done c s).lives = s.lives ∧ (done c s).ens = s.ens := by
  have h : Only [.regs, .ctr, .log, .logLost, .pins, .pair, .queues, .due, .chans] s (done c s) := by simp [Only.refl]
  exact ⟨h.same .pending (by decide), h.same .free (by decide), h.same .time (by decide), h.same .latch (by decide), h.same .banks (by decide), h.same .sample (by decide), h.same .mem (by decide), h.same .poison (by decide), h.same .out (by decide), h.same .ids (by decide), h.same .boot (by decide), h.same .ports (by decide), h.same .qps (by decide), h.same .flows (by decide), h.same .servo (by decide), h.same .traces (by decide), h.same .rings (by decide), h.same .q0Wanted (by decide), h.same .devSeq (by decide), h.same .points (by decide), h.same .nextIndex (by decide), h.same .freed (by decide), h.same .opens (by decide), h.same .jobs (by decide), h.same .nextJob (by decide), h.same .tlb (by decide), h.same .inval (by decide), h.same .fetches (by decide), h.same .nextFetch (by decide), h.same .players (by decide), h.same .treLast (by decide), h.same .streams (by decide), h.same .shds (by decide), h.same .chains (by decide), h.same .relays (by decide), h.same .stores (by decide), h.same .slice (by decide), h.same .tableBanks (by decide), h.same .lives (by decide), h.same .ens (by decide)⟩

@[simp] theorem forwardEntry_fields (sp : CmdSpec) (e : Entry) (s : State) :
    (forwardEntry sp e s).pending = s.pending ∧ (forwardEntry sp e s).free = s.free ∧ (forwardEntry sp e s).time = s.time ∧ (forwardEntry sp e s).latch = s.latch ∧ (forwardEntry sp e s).banks = s.banks ∧ (forwardEntry sp e s).sample = s.sample ∧ (forwardEntry sp e s).mem = s.mem ∧ (forwardEntry sp e s).poison = s.poison ∧ (forwardEntry sp e s).log = s.log ∧ (forwardEntry sp e s).logLost = s.logLost ∧ (forwardEntry sp e s).pins = s.pins ∧ (forwardEntry sp e s).ids = s.ids ∧ (forwardEntry sp e s).boot = s.boot ∧ (forwardEntry sp e s).flows = s.flows ∧ (forwardEntry sp e s).servo = s.servo ∧ (forwardEntry sp e s).traces = s.traces ∧ (forwardEntry sp e s).queues = s.queues ∧ (forwardEntry sp e s).q0Wanted = s.q0Wanted ∧ (forwardEntry sp e s).due = s.due ∧ (forwardEntry sp e s).devSeq = s.devSeq ∧ (forwardEntry sp e s).chans = s.chans ∧ (forwardEntry sp e s).points = s.points ∧ (forwardEntry sp e s).nextIndex = s.nextIndex ∧ (forwardEntry sp e s).freed = s.freed ∧ (forwardEntry sp e s).opens = s.opens ∧ (forwardEntry sp e s).nextJob = s.nextJob ∧ (forwardEntry sp e s).tlb = s.tlb ∧ (forwardEntry sp e s).inval = s.inval ∧ (forwardEntry sp e s).nextFetch = s.nextFetch ∧ (forwardEntry sp e s).players = s.players ∧ (forwardEntry sp e s).treLast = s.treLast ∧ (forwardEntry sp e s).streams = s.streams ∧ (forwardEntry sp e s).shds = s.shds ∧ (forwardEntry sp e s).chains = s.chains ∧ (forwardEntry sp e s).relays = s.relays ∧ (forwardEntry sp e s).stores = s.stores ∧ (forwardEntry sp e s).slice = s.slice ∧ (forwardEntry sp e s).tableBanks = s.tableBanks ∧ (forwardEntry sp e s).lives = s.lives ∧ (forwardEntry sp e s).ens = s.ens := by
  have h : Only [.regs, .ctr, .out, .ports, .qps, .pair, .rings, .jobs, .fetches] s (forwardEntry sp e s) := by simp [Only.refl]
  exact ⟨h.same .pending (by decide), h.same .free (by decide), h.same .time (by decide), h.same .latch (by decide), h.same .banks (by decide), h.same .sample (by decide), h.same .mem (by decide), h.same .poison (by decide), h.same .log (by decide), h.same .logLost (by decide), h.same .pins (by decide), h.same .ids (by decide), h.same .boot (by decide), h.same .flows (by decide), h.same .servo (by decide), h.same .traces (by decide), h.same .queues (by decide), h.same .q0Wanted (by decide), h.same .due (by decide), h.same .devSeq (by decide), h.same .chans (by decide), h.same .points (by decide), h.same .nextIndex (by decide), h.same .freed (by decide), h.same .opens (by decide), h.same .nextJob (by decide), h.same .tlb (by decide), h.same .inval (by decide), h.same .nextFetch (by decide), h.same .players (by decide), h.same .treLast (by decide), h.same .streams (by decide), h.same .shds (by decide), h.same .chains (by decide), h.same .relays (by decide), h.same .stores (by decide), h.same .slice (by decide), h.same .tableBanks (by decide), h.same .lives (by decide), h.same .ens (by decide)⟩

@[simp] theorem sendPair_fields (type : Nat) (payload : List Byte) (s : State) :
    (sendPair type payload s).pending = s.pending ∧ (sendPair type payload s).free = s.free ∧ (sendPair type payload s).time = s.time ∧ (sendPair type payload s).latch = s.latch ∧ (sendPair type payload s).banks = s.banks ∧ (sendPair type payload s).sample = s.sample ∧ (sendPair type payload s).mem = s.mem ∧ (sendPair type payload s).poison = s.poison ∧ (sendPair type payload s).log = s.log ∧ (sendPair type payload s).logLost = s.logLost ∧ (sendPair type payload s).pins = s.pins ∧ (sendPair type payload s).ids = s.ids ∧ (sendPair type payload s).boot = s.boot ∧ (sendPair type payload s).flows = s.flows ∧ (sendPair type payload s).servo = s.servo ∧ (sendPair type payload s).traces = s.traces ∧ (sendPair type payload s).queues = s.queues ∧ (sendPair type payload s).q0Wanted = s.q0Wanted ∧ (sendPair type payload s).due = s.due ∧ (sendPair type payload s).devSeq = s.devSeq ∧ (sendPair type payload s).chans = s.chans ∧ (sendPair type payload s).points = s.points ∧ (sendPair type payload s).nextIndex = s.nextIndex ∧ (sendPair type payload s).freed = s.freed ∧ (sendPair type payload s).opens = s.opens ∧ (sendPair type payload s).nextJob = s.nextJob ∧ (sendPair type payload s).tlb = s.tlb ∧ (sendPair type payload s).inval = s.inval ∧ (sendPair type payload s).nextFetch = s.nextFetch ∧ (sendPair type payload s).players = s.players ∧ (sendPair type payload s).treLast = s.treLast ∧ (sendPair type payload s).streams = s.streams ∧ (sendPair type payload s).shds = s.shds ∧ (sendPair type payload s).chains = s.chains ∧ (sendPair type payload s).relays = s.relays ∧ (sendPair type payload s).stores = s.stores ∧ (sendPair type payload s).slice = s.slice ∧ (sendPair type payload s).tableBanks = s.tableBanks ∧ (sendPair type payload s).lives = s.lives ∧ (sendPair type payload s).ens = s.ens := by
  have h : Only [.regs, .ctr, .out, .ports, .qps, .pair, .rings, .jobs, .fetches] s (sendPair type payload s) := by simp [Only.refl]
  exact ⟨h.same .pending (by decide), h.same .free (by decide), h.same .time (by decide), h.same .latch (by decide), h.same .banks (by decide), h.same .sample (by decide), h.same .mem (by decide), h.same .poison (by decide), h.same .log (by decide), h.same .logLost (by decide), h.same .pins (by decide), h.same .ids (by decide), h.same .boot (by decide), h.same .flows (by decide), h.same .servo (by decide), h.same .traces (by decide), h.same .queues (by decide), h.same .q0Wanted (by decide), h.same .due (by decide), h.same .devSeq (by decide), h.same .chans (by decide), h.same .points (by decide), h.same .nextIndex (by decide), h.same .freed (by decide), h.same .opens (by decide), h.same .nextJob (by decide), h.same .tlb (by decide), h.same .inval (by decide), h.same .nextFetch (by decide), h.same .players (by decide), h.same .treLast (by decide), h.same .streams (by decide), h.same .shds (by decide), h.same .chains (by decide), h.same .relays (by decide), h.same .stores (by decide), h.same .slice (by decide), h.same .tableBanks (by decide), h.same .lives (by decide), h.same .ens (by decide)⟩

@[simp] theorem ringWrite_fields (r a : Nat) (l : List Byte) (body : Bool) (s : State) :
    (ringWrite r a l body s).pending = s.pending ∧ (ringWrite r a l body s).free = s.free ∧ (ringWrite r a l body s).time = s.time ∧ (ringWrite r a l body s).latch = s.latch ∧ (ringWrite r a l body s).banks = s.banks ∧ (ringWrite r a l body s).sample = s.sample ∧ (ringWrite r a l body s).mem = s.mem ∧ (ringWrite r a l body s).poison = s.poison ∧ (ringWrite r a l body s).log = s.log ∧ (ringWrite r a l body s).logLost = s.logLost ∧ (ringWrite r a l body s).pins = s.pins ∧ (ringWrite r a l body s).ids = s.ids ∧ (ringWrite r a l body s).boot = s.boot ∧ (ringWrite r a l body s).flows = s.flows ∧ (ringWrite r a l body s).servo = s.servo ∧ (ringWrite r a l body s).traces = s.traces ∧ (ringWrite r a l body s).pair = s.pair ∧ (ringWrite r a l body s).queues = s.queues ∧ (ringWrite r a l body s).q0Wanted = s.q0Wanted ∧ (ringWrite r a l body s).due = s.due ∧ (ringWrite r a l body s).devSeq = s.devSeq ∧ (ringWrite r a l body s).chans = s.chans ∧ (ringWrite r a l body s).points = s.points ∧ (ringWrite r a l body s).nextIndex = s.nextIndex ∧ (ringWrite r a l body s).freed = s.freed ∧ (ringWrite r a l body s).opens = s.opens ∧ (ringWrite r a l body s).nextJob = s.nextJob ∧ (ringWrite r a l body s).tlb = s.tlb ∧ (ringWrite r a l body s).inval = s.inval ∧ (ringWrite r a l body s).nextFetch = s.nextFetch ∧ (ringWrite r a l body s).players = s.players ∧ (ringWrite r a l body s).treLast = s.treLast ∧ (ringWrite r a l body s).streams = s.streams ∧ (ringWrite r a l body s).shds = s.shds ∧ (ringWrite r a l body s).chains = s.chains ∧ (ringWrite r a l body s).relays = s.relays ∧ (ringWrite r a l body s).stores = s.stores ∧ (ringWrite r a l body s).slice = s.slice ∧ (ringWrite r a l body s).tableBanks = s.tableBanks ∧ (ringWrite r a l body s).lives = s.lives ∧ (ringWrite r a l body s).ens = s.ens := by
  have h : Only [.regs, .ctr, .out, .ports, .qps, .rings, .jobs, .fetches] s (ringWrite r a l body s) := by simp [Only.refl]
  exact ⟨h.same .pending (by decide), h.same .free (by decide), h.same .time (by decide), h.same .latch (by decide), h.same .banks (by decide), h.same .sample (by decide), h.same .mem (by decide), h.same .poison (by decide), h.same .log (by decide), h.same .logLost (by decide), h.same .pins (by decide), h.same .ids (by decide), h.same .boot (by decide), h.same .flows (by decide), h.same .servo (by decide), h.same .traces (by decide), h.same .pair (by decide), h.same .queues (by decide), h.same .q0Wanted (by decide), h.same .due (by decide), h.same .devSeq (by decide), h.same .chans (by decide), h.same .points (by decide), h.same .nextIndex (by decide), h.same .freed (by decide), h.same .opens (by decide), h.same .nextJob (by decide), h.same .tlb (by decide), h.same .inval (by decide), h.same .nextFetch (by decide), h.same .players (by decide), h.same .treLast (by decide), h.same .streams (by decide), h.same .shds (by decide), h.same .chains (by decide), h.same .relays (by decide), h.same .stores (by decide), h.same .slice (by decide), h.same .tableBanks (by decide), h.same .lives (by decide), h.same .ens (by decide)⟩

@[simp] theorem modPic_fields (i n : Nat) (f : EncPic → EncPic) (s : State) :
    (modPic i n f s).pending = s.pending ∧ (modPic i n f s).free = s.free ∧ (modPic i n f s).time = s.time ∧ (modPic i n f s).latch = s.latch ∧ (modPic i n f s).ctr = s.ctr ∧ (modPic i n f s).banks = s.banks ∧ (modPic i n f s).sample = s.sample ∧ (modPic i n f s).mem = s.mem ∧ (modPic i n f s).poison = s.poison ∧ (modPic i n f s).out = s.out ∧ (modPic i n f s).log = s.log ∧ (modPic i n f s).logLost = s.logLost ∧ (modPic i n f s).pins = s.pins ∧ (modPic i n f s).ids = s.ids ∧ (modPic i n f s).boot = s.boot ∧ (modPic i n f s).ports = s.ports ∧ (modPic i n f s).qps = s.qps ∧ (modPic i n f s).flows = s.flows ∧ (modPic i n f s).servo = s.servo ∧ (modPic i n f s).traces = s.traces ∧ (modPic i n f s).pair = s.pair ∧ (modPic i n f s).queues = s.queues ∧ (modPic i n f s).rings = s.rings ∧ (modPic i n f s).q0Wanted = s.q0Wanted ∧ (modPic i n f s).due = s.due ∧ (modPic i n f s).devSeq = s.devSeq ∧ (modPic i n f s).points = s.points ∧ (modPic i n f s).nextIndex = s.nextIndex ∧ (modPic i n f s).freed = s.freed ∧ (modPic i n f s).opens = s.opens ∧ (modPic i n f s).jobs = s.jobs ∧ (modPic i n f s).nextJob = s.nextJob ∧ (modPic i n f s).tlb = s.tlb ∧ (modPic i n f s).inval = s.inval ∧ (modPic i n f s).fetches = s.fetches ∧ (modPic i n f s).nextFetch = s.nextFetch ∧ (modPic i n f s).players = s.players ∧ (modPic i n f s).treLast = s.treLast ∧ (modPic i n f s).streams = s.streams ∧ (modPic i n f s).shds = s.shds ∧ (modPic i n f s).chains = s.chains ∧ (modPic i n f s).relays = s.relays ∧ (modPic i n f s).stores = s.stores ∧ (modPic i n f s).slice = s.slice ∧ (modPic i n f s).tableBanks = s.tableBanks ∧ (modPic i n f s).lives = s.lives ∧ (modPic i n f s).ens = s.ens := by
  have h : Only [.regs, .chans] s (modPic i n f s) := by simp [Only.refl]
  exact ⟨h.same .pending (by decide), h.same .free (by decide), h.same .time (by decide), h.same .latch (by decide), h.same .ctr (by decide), h.same .banks (by decide), h.same .sample (by decide), h.same .mem (by decide), h.same .poison (by decide), h.same .out (by decide), h.same .log (by decide), h.same .logLost (by decide), h.same .pins (by decide), h.same .ids (by decide), h.same .boot (by decide), h.same .ports (by decide), h.same .qps (by decide), h.same .flows (by decide), h.same .servo (by decide), h.same .traces (by decide), h.same .pair (by decide), h.same .queues (by decide), h.same .rings (by decide), h.same .q0Wanted (by decide), h.same .due (by decide), h.same .devSeq (by decide), h.same .points (by decide), h.same .nextIndex (by decide), h.same .freed (by decide), h.same .opens (by decide), h.same .jobs (by decide), h.same .nextJob (by decide), h.same .tlb (by decide), h.same .inval (by decide), h.same .fetches (by decide), h.same .nextFetch (by decide), h.same .players (by decide), h.same .treLast (by decide), h.same .streams (by decide), h.same .shds (by decide), h.same .chains (by decide), h.same .relays (by decide), h.same .stores (by decide), h.same .slice (by decide), h.same .tableBanks (by decide), h.same .lives (by decide), h.same .ens (by decide)⟩

@[simp] theorem modEnc_fields (i : Nat) (f : Enc → Enc) (s : State) :
    (modEnc i f s).pending = s.pending ∧ (modEnc i f s).free = s.free ∧ (modEnc i f s).time = s.time ∧ (modEnc i f s).latch = s.latch ∧ (modEnc i f s).ctr = s.ctr ∧ (modEnc i f s).banks = s.banks ∧ (modEnc i f s).sample = s.sample ∧ (modEnc i f s).mem = s.mem ∧ (modEnc i f s).poison = s.poison ∧ (modEnc i f s).out = s.out ∧ (modEnc i f s).log = s.log ∧ (modEnc i f s).logLost = s.logLost ∧ (modEnc i f s).pins = s.pins ∧ (modEnc i f s).ids = s.ids ∧ (modEnc i f s).boot = s.boot ∧ (modEnc i f s).ports = s.ports ∧ (modEnc i f s).qps = s.qps ∧ (modEnc i f s).flows = s.flows ∧ (modEnc i f s).servo = s.servo ∧ (modEnc i f s).traces = s.traces ∧ (modEnc i f s).pair = s.pair ∧ (modEnc i f s).queues = s.queues ∧ (modEnc i f s).rings = s.rings ∧ (modEnc i f s).q0Wanted = s.q0Wanted ∧ (modEnc i f s).due = s.due ∧ (modEnc i f s).devSeq = s.devSeq ∧ (modEnc i f s).points = s.points ∧ (modEnc i f s).nextIndex = s.nextIndex ∧ (modEnc i f s).freed = s.freed ∧ (modEnc i f s).opens = s.opens ∧ (modEnc i f s).jobs = s.jobs ∧ (modEnc i f s).nextJob = s.nextJob ∧ (modEnc i f s).tlb = s.tlb ∧ (modEnc i f s).inval = s.inval ∧ (modEnc i f s).fetches = s.fetches ∧ (modEnc i f s).nextFetch = s.nextFetch ∧ (modEnc i f s).players = s.players ∧ (modEnc i f s).treLast = s.treLast ∧ (modEnc i f s).streams = s.streams ∧ (modEnc i f s).shds = s.shds ∧ (modEnc i f s).chains = s.chains ∧ (modEnc i f s).relays = s.relays ∧ (modEnc i f s).stores = s.stores ∧ (modEnc i f s).slice = s.slice ∧ (modEnc i f s).tableBanks = s.tableBanks ∧ (modEnc i f s).lives = s.lives ∧ (modEnc i f s).ens = s.ens := by
  have h : Only [.regs, .chans] s (modEnc i f s) := by simp [Only.refl]
  exact ⟨h.same .pending (by decide), h.same .free (by decide), h.same .time (by decide), h.same .latch (by decide), h.same .ctr (by decide), h.same .banks (by decide), h.same .sample (by decide), h.same .mem (by decide), h.same .poison (by decide), h.same .out (by decide), h.same .log (by decide), h.same .logLost (by decide), h.same .pins (by decide), h.same .ids (by decide), h.same .boot (by decide), h.same .ports (by decide), h.same .qps (by decide), h.same .flows (by decide), h.same .servo (by decide), h.same .traces (by decide), h.same .pair (by decide), h.same .queues (by decide), h.same .rings (by decide), h.same .q0Wanted (by decide), h.same .due (by decide), h.same .devSeq (by decide), h.same .points (by decide), h.same .nextIndex (by decide), h.same .freed (by decide), h.same .opens (by decide), h.same .jobs (by decide), h.same .nextJob (by decide), h.same .tlb (by decide), h.same .inval (by decide), h.same .fetches (by decide), h.same .nextFetch (by decide), h.same .players (by decide), h.same .treLast (by decide), h.same .streams (by decide), h.same .shds (by decide), h.same .chains (by decide), h.same .relays (by decide), h.same .stores (by decide), h.same .slice (by decide), h.same .tableBanks (by decide), h.same .lives (by decide), h.same .ens (by decide)⟩

@[simp] theorem modDec_fields (i : Nat) (f : Dec → Dec) (s : State) :
    (modDec i f s).pending = s.pending ∧ (modDec i f s).free = s.free ∧ (modDec i f s).time = s.time ∧ (modDec i f s).latch = s.latch ∧ (modDec i f s).ctr = s.ctr ∧ (modDec i f s).banks = s.banks ∧ (modDec i f s).sample = s.sample ∧ (modDec i f s).mem = s.mem ∧ (modDec i f s).poison = s.poison ∧ (modDec i f s).out = s.out ∧ (modDec i f s).log = s.log ∧ (modDec i f s).logLost = s.logLost ∧ (modDec i f s).pins = s.pins ∧ (modDec i f s).ids = s.ids ∧ (modDec i f s).boot = s.boot ∧ (modDec i f s).ports = s.ports ∧ (modDec i f s).qps = s.qps ∧ (modDec i f s).flows = s.flows ∧ (modDec i f s).servo = s.servo ∧ (modDec i f s).traces = s.traces ∧ (modDec i f s).pair = s.pair ∧ (modDec i f s).queues = s.queues ∧ (modDec i f s).rings = s.rings ∧ (modDec i f s).q0Wanted = s.q0Wanted ∧ (modDec i f s).due = s.due ∧ (modDec i f s).devSeq = s.devSeq ∧ (modDec i f s).points = s.points ∧ (modDec i f s).nextIndex = s.nextIndex ∧ (modDec i f s).freed = s.freed ∧ (modDec i f s).opens = s.opens ∧ (modDec i f s).jobs = s.jobs ∧ (modDec i f s).nextJob = s.nextJob ∧ (modDec i f s).tlb = s.tlb ∧ (modDec i f s).inval = s.inval ∧ (modDec i f s).fetches = s.fetches ∧ (modDec i f s).nextFetch = s.nextFetch ∧ (modDec i f s).players = s.players ∧ (modDec i f s).treLast = s.treLast ∧ (modDec i f s).streams = s.streams ∧ (modDec i f s).shds = s.shds ∧ (modDec i f s).chains = s.chains ∧ (modDec i f s).relays = s.relays ∧ (modDec i f s).stores = s.stores ∧ (modDec i f s).slice = s.slice ∧ (modDec i f s).tableBanks = s.tableBanks ∧ (modDec i f s).lives = s.lives ∧ (modDec i f s).ens = s.ens := by
  have h : Only [.regs, .chans] s (modDec i f s) := by simp [Only.refl]
  exact ⟨h.same .pending (by decide), h.same .free (by decide), h.same .time (by decide), h.same .latch (by decide), h.same .ctr (by decide), h.same .banks (by decide), h.same .sample (by decide), h.same .mem (by decide), h.same .poison (by decide), h.same .out (by decide), h.same .log (by decide), h.same .logLost (by decide), h.same .pins (by decide), h.same .ids (by decide), h.same .boot (by decide), h.same .ports (by decide), h.same .qps (by decide), h.same .flows (by decide), h.same .servo (by decide), h.same .traces (by decide), h.same .pair (by decide), h.same .queues (by decide), h.same .rings (by decide), h.same .q0Wanted (by decide), h.same .due (by decide), h.same .devSeq (by decide), h.same .points (by decide), h.same .nextIndex (by decide), h.same .freed (by decide), h.same .opens (by decide), h.same .jobs (by decide), h.same .nextJob (by decide), h.same .tlb (by decide), h.same .inval (by decide), h.same .fetches (by decide), h.same .nextFetch (by decide), h.same .players (by decide), h.same .treLast (by decide), h.same .streams (by decide), h.same .shds (by decide), h.same .chains (by decide), h.same .relays (by decide), h.same .stores (by decide), h.same .slice (by decide), h.same .tableBanks (by decide), h.same .lives (by decide), h.same .ens (by decide)⟩

@[simp] theorem unitCode_fields (i seq code : Nat) (s : State) :
    (unitCode i seq code s).pending = s.pending ∧ (unitCode i seq code s).free = s.free ∧ (unitCode i seq code s).time = s.time ∧ (unitCode i seq code s).latch = s.latch ∧ (unitCode i seq code s).banks = s.banks ∧ (unitCode i seq code s).sample = s.sample ∧ (unitCode i seq code s).mem = s.mem ∧ (unitCode i seq code s).poison = s.poison ∧ (unitCode i seq code s).out = s.out ∧ (unitCode i seq code s).ids = s.ids ∧ (unitCode i seq code s).boot = s.boot ∧ (unitCode i seq code s).ports = s.ports ∧ (unitCode i seq code s).qps = s.qps ∧ (unitCode i seq code s).flows = s.flows ∧ (unitCode i seq code s).servo = s.servo ∧ (unitCode i seq code s).traces = s.traces ∧ (unitCode i seq code s).pair = s.pair ∧ (unitCode i seq code s).queues = s.queues ∧ (unitCode i seq code s).rings = s.rings ∧ (unitCode i seq code s).q0Wanted = s.q0Wanted ∧ (unitCode i seq code s).due = s.due ∧ (unitCode i seq code s).devSeq = s.devSeq ∧ (unitCode i seq code s).chans = s.chans ∧ (unitCode i seq code s).points = s.points ∧ (unitCode i seq code s).nextIndex = s.nextIndex ∧ (unitCode i seq code s).freed = s.freed ∧ (unitCode i seq code s).opens = s.opens ∧ (unitCode i seq code s).jobs = s.jobs ∧ (unitCode i seq code s).nextJob = s.nextJob ∧ (unitCode i seq code s).tlb = s.tlb ∧ (unitCode i seq code s).inval = s.inval ∧ (unitCode i seq code s).fetches = s.fetches ∧ (unitCode i seq code s).nextFetch = s.nextFetch ∧ (unitCode i seq code s).players = s.players ∧ (unitCode i seq code s).treLast = s.treLast ∧ (unitCode i seq code s).streams = s.streams ∧ (unitCode i seq code s).shds = s.shds ∧ (unitCode i seq code s).chains = s.chains ∧ (unitCode i seq code s).relays = s.relays ∧ (unitCode i seq code s).stores = s.stores ∧ (unitCode i seq code s).slice = s.slice ∧ (unitCode i seq code s).tableBanks = s.tableBanks ∧ (unitCode i seq code s).lives = s.lives ∧ (unitCode i seq code s).ens = s.ens := by
  have h : Only [.regs, .ctr, .log, .logLost, .pins] s (unitCode i seq code s) := by simp [Only.refl]
  exact ⟨h.same .pending (by decide), h.same .free (by decide), h.same .time (by decide), h.same .latch (by decide), h.same .banks (by decide), h.same .sample (by decide), h.same .mem (by decide), h.same .poison (by decide), h.same .out (by decide), h.same .ids (by decide), h.same .boot (by decide), h.same .ports (by decide), h.same .qps (by decide), h.same .flows (by decide), h.same .servo (by decide), h.same .traces (by decide), h.same .pair (by decide), h.same .queues (by decide), h.same .rings (by decide), h.same .q0Wanted (by decide), h.same .due (by decide), h.same .devSeq (by decide), h.same .chans (by decide), h.same .points (by decide), h.same .nextIndex (by decide), h.same .freed (by decide), h.same .opens (by decide), h.same .jobs (by decide), h.same .nextJob (by decide), h.same .tlb (by decide), h.same .inval (by decide), h.same .fetches (by decide), h.same .nextFetch (by decide), h.same .players (by decide), h.same .treLast (by decide), h.same .streams (by decide), h.same .shds (by decide), h.same .chains (by decide), h.same .relays (by decide), h.same .stores (by decide), h.same .slice (by decide), h.same .tableBanks (by decide), h.same .lives (by decide), h.same .ens (by decide)⟩

@[simp] theorem nextSeq_fields (i : Nat) (s : State) :
    (nextSeq i s).2.pending = s.pending ∧ (nextSeq i s).2.free = s.free ∧ (nextSeq i s).2.time = s.time ∧ (nextSeq i s).2.regs = s.regs ∧ (nextSeq i s).2.latch = s.latch ∧ (nextSeq i s).2.ctr = s.ctr ∧ (nextSeq i s).2.banks = s.banks ∧ (nextSeq i s).2.sample = s.sample ∧ (nextSeq i s).2.mem = s.mem ∧ (nextSeq i s).2.poison = s.poison ∧ (nextSeq i s).2.out = s.out ∧ (nextSeq i s).2.log = s.log ∧ (nextSeq i s).2.logLost = s.logLost ∧ (nextSeq i s).2.pins = s.pins ∧ (nextSeq i s).2.ids = s.ids ∧ (nextSeq i s).2.boot = s.boot ∧ (nextSeq i s).2.ports = s.ports ∧ (nextSeq i s).2.qps = s.qps ∧ (nextSeq i s).2.flows = s.flows ∧ (nextSeq i s).2.servo = s.servo ∧ (nextSeq i s).2.traces = s.traces ∧ (nextSeq i s).2.pair = s.pair ∧ (nextSeq i s).2.queues = s.queues ∧ (nextSeq i s).2.rings = s.rings ∧ (nextSeq i s).2.q0Wanted = s.q0Wanted ∧ (nextSeq i s).2.due = s.due ∧ (nextSeq i s).2.devSeq = s.devSeq ∧ (nextSeq i s).2.points = s.points ∧ (nextSeq i s).2.nextIndex = s.nextIndex ∧ (nextSeq i s).2.freed = s.freed ∧ (nextSeq i s).2.opens = s.opens ∧ (nextSeq i s).2.jobs = s.jobs ∧ (nextSeq i s).2.nextJob = s.nextJob ∧ (nextSeq i s).2.tlb = s.tlb ∧ (nextSeq i s).2.inval = s.inval ∧ (nextSeq i s).2.fetches = s.fetches ∧ (nextSeq i s).2.nextFetch = s.nextFetch ∧ (nextSeq i s).2.players = s.players ∧ (nextSeq i s).2.treLast = s.treLast ∧ (nextSeq i s).2.streams = s.streams ∧ (nextSeq i s).2.shds = s.shds ∧ (nextSeq i s).2.chains = s.chains ∧ (nextSeq i s).2.relays = s.relays ∧ (nextSeq i s).2.stores = s.stores ∧ (nextSeq i s).2.slice = s.slice ∧ (nextSeq i s).2.tableBanks = s.tableBanks ∧ (nextSeq i s).2.lives = s.lives ∧ (nextSeq i s).2.ens = s.ens := by
  have h : Only [.chans] s (nextSeq i s).2 := by simp [Only.refl]
  exact ⟨h.same .pending (by decide), h.same .free (by decide), h.same .time (by decide), h.same .regs (by decide), h.same .latch (by decide), h.same .ctr (by decide), h.same .banks (by decide), h.same .sample (by decide), h.same .mem (by decide), h.same .poison (by decide), h.same .out (by decide), h.same .log (by decide), h.same .logLost (by decide), h.same .pins (by decide), h.same .ids (by decide), h.same .boot (by decide), h.same .ports (by decide), h.same .qps (by decide), h.same .flows (by decide), h.same .servo (by decide), h.same .traces (by decide), h.same .pair (by decide), h.same .queues (by decide), h.same .rings (by decide), h.same .q0Wanted (by decide), h.same .due (by decide), h.same .devSeq (by decide), h.same .points (by decide), h.same .nextIndex (by decide), h.same .freed (by decide), h.same .opens (by decide), h.same .jobs (by decide), h.same .nextJob (by decide), h.same .tlb (by decide), h.same .inval (by decide), h.same .fetches (by decide), h.same .nextFetch (by decide), h.same .players (by decide), h.same .treLast (by decide), h.same .streams (by decide), h.same .shds (by decide), h.same .chains (by decide), h.same .relays (by decide), h.same .stores (by decide), h.same .slice (by decide), h.same .tableBanks (by decide), h.same .lives (by decide), h.same .ens (by decide)⟩

@[simp] theorem addJob_fields (j : Job) (s : State) :
    (addJob j s).pending = s.pending ∧ (addJob j s).free = s.free ∧ (addJob j s).time = s.time ∧ (addJob j s).latch = s.latch ∧ (addJob j s).ctr = s.ctr ∧ (addJob j s).banks = s.banks ∧ (addJob j s).sample = s.sample ∧ (addJob j s).mem = s.mem ∧ (addJob j s).poison = s.poison ∧ (addJob j s).out = s.out ∧ (addJob j s).log = s.log ∧ (addJob j s).logLost = s.logLost ∧ (addJob j s).pins = s.pins ∧ (addJob j s).ids = s.ids ∧ (addJob j s).boot = s.boot ∧ (addJob j s).ports = s.ports ∧ (addJob j s).qps = s.qps ∧ (addJob j s).flows = s.flows ∧ (addJob j s).servo = s.servo ∧ (addJob j s).traces = s.traces ∧ (addJob j s).pair = s.pair ∧ (addJob j s).queues = s.queues ∧ (addJob j s).rings = s.rings ∧ (addJob j s).q0Wanted = s.q0Wanted ∧ (addJob j s).due = s.due ∧ (addJob j s).devSeq = s.devSeq ∧ (addJob j s).chans = s.chans ∧ (addJob j s).points = s.points ∧ (addJob j s).nextIndex = s.nextIndex ∧ (addJob j s).freed = s.freed ∧ (addJob j s).opens = s.opens ∧ (addJob j s).tlb = s.tlb ∧ (addJob j s).inval = s.inval ∧ (addJob j s).fetches = s.fetches ∧ (addJob j s).nextFetch = s.nextFetch ∧ (addJob j s).players = s.players ∧ (addJob j s).treLast = s.treLast ∧ (addJob j s).streams = s.streams ∧ (addJob j s).shds = s.shds ∧ (addJob j s).relays = s.relays ∧ (addJob j s).stores = s.stores ∧ (addJob j s).slice = s.slice ∧ (addJob j s).tableBanks = s.tableBanks ∧ (addJob j s).lives = s.lives ∧ (addJob j s).ens = s.ens := by
  have h : Only [.regs, .jobs, .nextJob, .chains] s (addJob j s) := by simp [Only.refl]
  exact ⟨h.same .pending (by decide), h.same .free (by decide), h.same .time (by decide), h.same .latch (by decide), h.same .ctr (by decide), h.same .banks (by decide), h.same .sample (by decide), h.same .mem (by decide), h.same .poison (by decide), h.same .out (by decide), h.same .log (by decide), h.same .logLost (by decide), h.same .pins (by decide), h.same .ids (by decide), h.same .boot (by decide), h.same .ports (by decide), h.same .qps (by decide), h.same .flows (by decide), h.same .servo (by decide), h.same .traces (by decide), h.same .pair (by decide), h.same .queues (by decide), h.same .rings (by decide), h.same .q0Wanted (by decide), h.same .due (by decide), h.same .devSeq (by decide), h.same .chans (by decide), h.same .points (by decide), h.same .nextIndex (by decide), h.same .freed (by decide), h.same .opens (by decide), h.same .tlb (by decide), h.same .inval (by decide), h.same .fetches (by decide), h.same .nextFetch (by decide), h.same .players (by decide), h.same .treLast (by decide), h.same .streams (by decide), h.same .shds (by decide), h.same .relays (by decide), h.same .stores (by decide), h.same .slice (by decide), h.same .tableBanks (by decide), h.same .lives (by decide), h.same .ens (by decide)⟩

@[simp] theorem setPairState_fields (n : Nat) (s : State) :
    (setPairState n s).pending = s.pending ∧ (setPairState n s).free = s.free ∧ (setPairState n s).time = s.time ∧ (setPairState n s).latch = s.latch ∧ (setPairState n s).banks = s.banks ∧ (setPairState n s).sample = s.sample ∧ (setPairState n s).mem = s.mem ∧ (setPairState n s).poison = s.poison ∧ (setPairState n s).out = s.out ∧ (setPairState n s).ids = s.ids ∧ (setPairState n s).boot = s.boot ∧ (setPairState n s).ports = s.ports ∧ (setPairState n s).qps = s.qps ∧ (setPairState n s).flows = s.flows ∧ (setPairState n s).servo = s.servo ∧ (setPairState n s).traces = s.traces ∧ (setPairState n s).pair = s.pair ∧ (setPairState n s).queues = s.queues ∧ (setPairState n s).rings = s.rings ∧ (setPairState n s).q0Wanted = s.q0Wanted ∧ (setPairState n s).devSeq = s.devSeq ∧ (setPairState n s).chans = s.chans ∧ (setPairState n s).points = s.points ∧ (setPairState n s).nextIndex = s.nextIndex ∧ (setPairState n s).freed = s.freed ∧ (setPairState n s).opens = s.opens ∧ (setPairState n s).jobs = s.jobs ∧ (setPairState n s).nextJob = s.nextJob ∧ (setPairState n s).tlb = s.tlb ∧ (setPairState n s).inval = s.inval ∧ (setPairState n s).fetches = s.fetches ∧ (setPairState n s).nextFetch = s.nextFetch ∧ (setPairState n s).players = s.players ∧ (setPairState n s).treLast = s.treLast ∧ (setPairState n s).streams = s.streams ∧ (setPairState n s).shds = s.shds ∧ (setPairState n s).chains = s.chains ∧ (setPairState n s).relays = s.relays ∧ (setPairState n s).stores = s.stores ∧ (setPairState n s).slice = s.slice ∧ (setPairState n s).tableBanks = s.tableBanks ∧ (setPairState n s).lives = s.lives ∧ (setPairState n s).ens = s.ens := by
  have h : Only [.regs, .ctr, .log, .logLost, .pins, .due] s (setPairState n s) := by simp [Only.refl]
  exact ⟨h.same .pending (by decide), h.same .free (by decide), h.same .time (by decide), h.same .latch (by decide), h.same .banks (by decide), h.same .sample (by decide), h.same .mem (by decide), h.same .poison (by decide), h.same .out (by decide), h.same .ids (by decide), h.same .boot (by decide), h.same .ports (by decide), h.same .qps (by decide), h.same .flows (by decide), h.same .servo (by decide), h.same .traces (by decide), h.same .pair (by decide), h.same .queues (by decide), h.same .rings (by decide), h.same .q0Wanted (by decide), h.same .devSeq (by decide), h.same .chans (by decide), h.same .points (by decide), h.same .nextIndex (by decide), h.same .freed (by decide), h.same .opens (by decide), h.same .jobs (by decide), h.same .nextJob (by decide), h.same .tlb (by decide), h.same .inval (by decide), h.same .fetches (by decide), h.same .nextFetch (by decide), h.same .players (by decide), h.same .treLast (by decide), h.same .streams (by decide), h.same .shds (by decide), h.same .chains (by decide), h.same .relays (by decide), h.same .stores (by decide), h.same .slice (by decide), h.same .tableBanks (by decide), h.same .lives (by decide), h.same .ens (by decide)⟩

@[simp] theorem startCue_fields (p cls : Nat) (c : QCue) (s : State) :
    (startCue p cls c s).pending = s.pending ∧ (startCue p cls c s).free = s.free ∧ (startCue p cls c s).time = s.time ∧ (startCue p cls c s).regs = s.regs ∧ (startCue p cls c s).latch = s.latch ∧ (startCue p cls c s).ctr = s.ctr ∧ (startCue p cls c s).banks = s.banks ∧ (startCue p cls c s).sample = s.sample ∧ (startCue p cls c s).mem = s.mem ∧ (startCue p cls c s).poison = s.poison ∧ (startCue p cls c s).out = s.out ∧ (startCue p cls c s).log = s.log ∧ (startCue p cls c s).logLost = s.logLost ∧ (startCue p cls c s).pins = s.pins ∧ (startCue p cls c s).ids = s.ids ∧ (startCue p cls c s).boot = s.boot ∧ (startCue p cls c s).ports = s.ports ∧ (startCue p cls c s).qps = s.qps ∧ (startCue p cls c s).flows = s.flows ∧ (startCue p cls c s).servo = s.servo ∧ (startCue p cls c s).traces = s.traces ∧ (startCue p cls c s).pair = s.pair ∧ (startCue p cls c s).queues = s.queues ∧ (startCue p cls c s).rings = s.rings ∧ (startCue p cls c s).q0Wanted = s.q0Wanted ∧ (startCue p cls c s).due = s.due ∧ (startCue p cls c s).devSeq = s.devSeq ∧ (startCue p cls c s).chans = s.chans ∧ (startCue p cls c s).points = s.points ∧ (startCue p cls c s).nextIndex = s.nextIndex ∧ (startCue p cls c s).freed = s.freed ∧ (startCue p cls c s).opens = s.opens ∧ (startCue p cls c s).jobs = s.jobs ∧ (startCue p cls c s).nextJob = s.nextJob ∧ (startCue p cls c s).tlb = s.tlb ∧ (startCue p cls c s).inval = s.inval ∧ (startCue p cls c s).fetches = s.fetches ∧ (startCue p cls c s).nextFetch = s.nextFetch ∧ (startCue p cls c s).treLast = s.treLast ∧ (startCue p cls c s).streams = s.streams ∧ (startCue p cls c s).shds = s.shds ∧ (startCue p cls c s).chains = s.chains ∧ (startCue p cls c s).relays = s.relays ∧ (startCue p cls c s).stores = s.stores ∧ (startCue p cls c s).slice = s.slice ∧ (startCue p cls c s).tableBanks = s.tableBanks ∧ (startCue p cls c s).lives = s.lives ∧ (startCue p cls c s).ens = s.ens := by
  have h : Only [.players] s (startCue p cls c s) := by simp [Only.refl]
  exact ⟨h.same .pending (by decide), h.same .free (by decide), h.same .time (by decide), h.same .regs (by decide), h.same .latch (by decide), h.same .ctr (by decide), h.same .banks (by decide), h.same .sample (by decide), h.same .mem (by decide), h.same .poison (by decide), h.same .out (by decide), h.same .log (by decide), h.same .logLost (by decide), h.same .pins (by decide), h.same .ids (by decide), h.same .boot (by decide), h.same .ports (by decide), h.same .qps (by decide), h.same .flows (by decide), h.same .servo (by decide), h.same .traces (by decide), h.same .pair (by decide), h.same .queues (by decide), h.same .rings (by decide), h.same .q0Wanted (by decide), h.same .due (by decide), h.same .devSeq (by decide), h.same .chans (by decide), h.same .points (by decide), h.same .nextIndex (by decide), h.same .freed (by decide), h.same .opens (by decide), h.same .jobs (by decide), h.same .nextJob (by decide), h.same .tlb (by decide), h.same .inval (by decide), h.same .fetches (by decide), h.same .nextFetch (by decide), h.same .treLast (by decide), h.same .streams (by decide), h.same .shds (by decide), h.same .chains (by decide), h.same .relays (by decide), h.same .stores (by decide), h.same .slice (by decide), h.same .tableBanks (by decide), h.same .lives (by decide), h.same .ens (by decide)⟩

@[simp] theorem ranCue_fields (p cls : Nat) (c : QCue) (s : State) :
    (ranCue p cls c s).pending = s.pending ∧ (ranCue p cls c s).free = s.free ∧ (ranCue p cls c s).time = s.time ∧ (ranCue p cls c s).regs = s.regs ∧ (ranCue p cls c s).latch = s.latch ∧ (ranCue p cls c s).ctr = s.ctr ∧ (ranCue p cls c s).banks = s.banks ∧ (ranCue p cls c s).sample = s.sample ∧ (ranCue p cls c s).mem = s.mem ∧ (ranCue p cls c s).poison = s.poison ∧ (ranCue p cls c s).out = s.out ∧ (ranCue p cls c s).log = s.log ∧ (ranCue p cls c s).logLost = s.logLost ∧ (ranCue p cls c s).pins = s.pins ∧ (ranCue p cls c s).ids = s.ids ∧ (ranCue p cls c s).boot = s.boot ∧ (ranCue p cls c s).ports = s.ports ∧ (ranCue p cls c s).qps = s.qps ∧ (ranCue p cls c s).flows = s.flows ∧ (ranCue p cls c s).servo = s.servo ∧ (ranCue p cls c s).traces = s.traces ∧ (ranCue p cls c s).pair = s.pair ∧ (ranCue p cls c s).queues = s.queues ∧ (ranCue p cls c s).rings = s.rings ∧ (ranCue p cls c s).q0Wanted = s.q0Wanted ∧ (ranCue p cls c s).due = s.due ∧ (ranCue p cls c s).devSeq = s.devSeq ∧ (ranCue p cls c s).chans = s.chans ∧ (ranCue p cls c s).points = s.points ∧ (ranCue p cls c s).nextIndex = s.nextIndex ∧ (ranCue p cls c s).freed = s.freed ∧ (ranCue p cls c s).opens = s.opens ∧ (ranCue p cls c s).jobs = s.jobs ∧ (ranCue p cls c s).nextJob = s.nextJob ∧ (ranCue p cls c s).tlb = s.tlb ∧ (ranCue p cls c s).inval = s.inval ∧ (ranCue p cls c s).fetches = s.fetches ∧ (ranCue p cls c s).nextFetch = s.nextFetch ∧ (ranCue p cls c s).treLast = s.treLast ∧ (ranCue p cls c s).streams = s.streams ∧ (ranCue p cls c s).shds = s.shds ∧ (ranCue p cls c s).chains = s.chains ∧ (ranCue p cls c s).relays = s.relays ∧ (ranCue p cls c s).stores = s.stores ∧ (ranCue p cls c s).slice = s.slice ∧ (ranCue p cls c s).tableBanks = s.tableBanks ∧ (ranCue p cls c s).lives = s.lives ∧ (ranCue p cls c s).ens = s.ens := by
  have h : Only [.players] s (ranCue p cls c s) := by simp [Only.refl]
  exact ⟨h.same .pending (by decide), h.same .free (by decide), h.same .time (by decide), h.same .regs (by decide), h.same .latch (by decide), h.same .ctr (by decide), h.same .banks (by decide), h.same .sample (by decide), h.same .mem (by decide), h.same .poison (by decide), h.same .out (by decide), h.same .log (by decide), h.same .logLost (by decide), h.same .pins (by decide), h.same .ids (by decide), h.same .boot (by decide), h.same .ports (by decide), h.same .qps (by decide), h.same .flows (by decide), h.same .servo (by decide), h.same .traces (by decide), h.same .pair (by decide), h.same .queues (by decide), h.same .rings (by decide), h.same .q0Wanted (by decide), h.same .due (by decide), h.same .devSeq (by decide), h.same .chans (by decide), h.same .points (by decide), h.same .nextIndex (by decide), h.same .freed (by decide), h.same .opens (by decide), h.same .jobs (by decide), h.same .nextJob (by decide), h.same .tlb (by decide), h.same .inval (by decide), h.same .fetches (by decide), h.same .nextFetch (by decide), h.same .treLast (by decide), h.same .streams (by decide), h.same .shds (by decide), h.same .chains (by decide), h.same .relays (by decide), h.same .stores (by decide), h.same .slice (by decide), h.same .tableBanks (by decide), h.same .lives (by decide), h.same .ens (by decide)⟩

@[simp] theorem completeHead_fields (p cls : Nat) (s : State) :
    (completeHead p cls s).pending = s.pending ∧ (completeHead p cls s).free = s.free ∧ (completeHead p cls s).time = s.time ∧ (completeHead p cls s).latch = s.latch ∧ (completeHead p cls s).banks = s.banks ∧ (completeHead p cls s).sample = s.sample ∧ (completeHead p cls s).mem = s.mem ∧ (completeHead p cls s).poison = s.poison ∧ (completeHead p cls s).out = s.out ∧ (completeHead p cls s).ids = s.ids ∧ (completeHead p cls s).boot = s.boot ∧ (completeHead p cls s).ports = s.ports ∧ (completeHead p cls s).qps = s.qps ∧ (completeHead p cls s).flows = s.flows ∧ (completeHead p cls s).servo = s.servo ∧ (completeHead p cls s).pair = s.pair ∧ (completeHead p cls s).queues = s.queues ∧ (completeHead p cls s).rings = s.rings ∧ (completeHead p cls s).q0Wanted = s.q0Wanted ∧ (completeHead p cls s).due = s.due ∧ (completeHead p cls s).devSeq = s.devSeq ∧ (completeHead p cls s).chans = s.chans ∧ (completeHead p cls s).points = s.points ∧ (completeHead p cls s).nextIndex = s.nextIndex ∧ (completeHead p cls s).freed = s.freed ∧ (completeHead p cls s).opens = s.opens ∧ (completeHead p cls s).nextJob = s.nextJob ∧ (completeHead p cls s).tlb = s.tlb ∧ (completeHead p cls s).inval = s.inval ∧ (completeHead p cls s).fetches = s.fetches ∧ (completeHead p cls s).nextFetch = s.nextFetch ∧ (completeHead p cls s).treLast = s.treLast ∧ (completeHead p cls s).shds = s.shds ∧ (completeHead p cls s).chains = s.chains ∧ (completeHead p cls s).relays = s.relays ∧ (completeHead p cls s).stores = s.stores ∧ (completeHead p cls s).slice = s.slice ∧ (completeHead p cls s).tableBanks = s.tableBanks ∧ (completeHead p cls s).lives = s.lives ∧ (completeHead p cls s).ens = s.ens := by
  have h : Only [.regs, .ctr, .log, .logLost, .pins, .traces, .jobs, .players, .streams] s (completeHead p cls s) := by simp [Only.refl]
  exact ⟨h.same .pending (by decide), h.same .free (by decide), h.same .time (by decide), h.same .latch (by decide), h.same .banks (by decide), h.same .sample (by decide), h.same .mem (by decide), h.same .poison (by decide), h.same .out (by decide), h.same .ids (by decide), h.same .boot (by decide), h.same .ports (by decide), h.same .qps (by decide), h.same .flows (by decide), h.same .servo (by decide), h.same .pair (by decide), h.same .queues (by decide), h.same .rings (by decide), h.same .q0Wanted (by decide), h.same .due (by decide), h.same .devSeq (by decide), h.same .chans (by decide), h.same .points (by decide), h.same .nextIndex (by decide), h.same .freed (by decide), h.same .opens (by decide), h.same .nextJob (by decide), h.same .tlb (by decide), h.same .inval (by decide), h.same .fetches (by decide), h.same .nextFetch (by decide), h.same .treLast (by decide), h.same .shds (by decide), h.same .chains (by decide), h.same .relays (by decide), h.same .stores (by decide), h.same .slice (by decide), h.same .tableBanks (by decide), h.same .lives (by decide), h.same .ens (by decide)⟩

@[simp] theorem retireAt_fields (p t : Nat) (x : Thread) (npc : Nat) (s : State) :
    (retireAt p t x npc s).pending = s.pending ∧ (retireAt p t x npc s).free = s.free ∧ (retireAt p t x npc s).time = s.time ∧ (retireAt p t x npc s).latch = s.latch ∧ (retireAt p t x npc s).banks = s.banks ∧ (retireAt p t x npc s).sample = s.sample ∧ (retireAt p t x npc s).mem = s.mem ∧ (retireAt p t x npc s).poison = s.poison ∧ (retireAt p t x npc s).out = s.out ∧ (retireAt p t x npc s).log = s.log ∧ (retireAt p t x npc s).logLost = s.logLost ∧ (retireAt p t x npc s).pins = s.pins ∧ (retireAt p t x npc s).ids = s.ids ∧ (retireAt p t x npc s).boot = s.boot ∧ (retireAt p t x npc s).ports = s.ports ∧ (retireAt p t x npc s).qps = s.qps ∧ (retireAt p t x npc s).flows = s.flows ∧ (retireAt p t x npc s).servo = s.servo ∧ (retireAt p t x npc s).pair = s.pair ∧ (retireAt p t x npc s).queues = s.queues ∧ (retireAt p t x npc s).rings = s.rings ∧ (retireAt p t x npc s).q0Wanted = s.q0Wanted ∧ (retireAt p t x npc s).due = s.due ∧ (retireAt p t x npc s).devSeq = s.devSeq ∧ (retireAt p t x npc s).chans = s.chans ∧ (retireAt p t x npc s).points = s.points ∧ (retireAt p t x npc s).nextIndex = s.nextIndex ∧ (retireAt p t x npc s).freed = s.freed ∧ (retireAt p t x npc s).opens = s.opens ∧ (retireAt p t x npc s).nextJob = s.nextJob ∧ (retireAt p t x npc s).tlb = s.tlb ∧ (retireAt p t x npc s).inval = s.inval ∧ (retireAt p t x npc s).fetches = s.fetches ∧ (retireAt p t x npc s).nextFetch = s.nextFetch ∧ (retireAt p t x npc s).treLast = s.treLast ∧ (retireAt p t x npc s).streams = s.streams ∧ (retireAt p t x npc s).shds = s.shds ∧ (retireAt p t x npc s).chains = s.chains ∧ (retireAt p t x npc s).relays = s.relays ∧ (retireAt p t x npc s).stores = s.stores ∧ (retireAt p t x npc s).slice = s.slice ∧ (retireAt p t x npc s).tableBanks = s.tableBanks ∧ (retireAt p t x npc s).lives = s.lives ∧ (retireAt p t x npc s).ens = s.ens := by
  have h : Only [.regs, .ctr, .traces, .jobs, .players] s (retireAt p t x npc s) := by simp [Only.refl]
  exact ⟨h.same .pending (by decide), h.same .free (by decide), h.same .time (by decide), h.same .latch (by decide), h.same .banks (by decide), h.same .sample (by decide), h.same .mem (by decide), h.same .poison (by decide), h.same .out (by decide), h.same .log (by decide), h.same .logLost (by decide), h.same .pins (by decide), h.same .ids (by decide), h.same .boot (by decide), h.same .ports (by decide), h.same .qps (by decide), h.same .flows (by decide), h.same .servo (by decide), h.same .pair (by decide), h.same .queues (by decide), h.same .rings (by decide), h.same .q0Wanted (by decide), h.same .due (by decide), h.same .devSeq (by decide), h.same .chans (by decide), h.same .points (by decide), h.same .nextIndex (by decide), h.same .freed (by decide), h.same .opens (by decide), h.same .nextJob (by decide), h.same .tlb (by decide), h.same .inval (by decide), h.same .fetches (by decide), h.same .nextFetch (by decide), h.same .treLast (by decide), h.same .streams (by decide), h.same .shds (by decide), h.same .chains (by decide), h.same .relays (by decide), h.same .stores (by decide), h.same .slice (by decide), h.same .tableBanks (by decide), h.same .lives (by decide), h.same .ens (by decide)⟩

@[simp] theorem frameIllegal_fields (p t cls pos : Nat) (s : State) :
    (frameIllegal p t cls pos s).pending = s.pending ∧ (frameIllegal p t cls pos s).free = s.free ∧ (frameIllegal p t cls pos s).time = s.time ∧ (frameIllegal p t cls pos s).latch = s.latch ∧ (frameIllegal p t cls pos s).banks = s.banks ∧ (frameIllegal p t cls pos s).sample = s.sample ∧ (frameIllegal p t cls pos s).mem = s.mem ∧ (frameIllegal p t cls pos s).poison = s.poison ∧ (frameIllegal p t cls pos s).out = s.out ∧ (frameIllegal p t cls pos s).ids = s.ids ∧ (frameIllegal p t cls pos s).boot = s.boot ∧ (frameIllegal p t cls pos s).ports = s.ports ∧ (frameIllegal p t cls pos s).qps = s.qps ∧ (frameIllegal p t cls pos s).flows = s.flows ∧ (frameIllegal p t cls pos s).servo = s.servo ∧ (frameIllegal p t cls pos s).pair = s.pair ∧ (frameIllegal p t cls pos s).queues = s.queues ∧ (frameIllegal p t cls pos s).rings = s.rings ∧ (frameIllegal p t cls pos s).q0Wanted = s.q0Wanted ∧ (frameIllegal p t cls pos s).due = s.due ∧ (frameIllegal p t cls pos s).devSeq = s.devSeq ∧ (frameIllegal p t cls pos s).chans = s.chans ∧ (frameIllegal p t cls pos s).points = s.points ∧ (frameIllegal p t cls pos s).nextIndex = s.nextIndex ∧ (frameIllegal p t cls pos s).freed = s.freed ∧ (frameIllegal p t cls pos s).opens = s.opens ∧ (frameIllegal p t cls pos s).nextJob = s.nextJob ∧ (frameIllegal p t cls pos s).tlb = s.tlb ∧ (frameIllegal p t cls pos s).inval = s.inval ∧ (frameIllegal p t cls pos s).fetches = s.fetches ∧ (frameIllegal p t cls pos s).nextFetch = s.nextFetch ∧ (frameIllegal p t cls pos s).players = s.players ∧ (frameIllegal p t cls pos s).treLast = s.treLast ∧ (frameIllegal p t cls pos s).streams = s.streams ∧ (frameIllegal p t cls pos s).shds = s.shds ∧ (frameIllegal p t cls pos s).chains = s.chains ∧ (frameIllegal p t cls pos s).relays = s.relays ∧ (frameIllegal p t cls pos s).stores = s.stores ∧ (frameIllegal p t cls pos s).slice = s.slice ∧ (frameIllegal p t cls pos s).tableBanks = s.tableBanks ∧ (frameIllegal p t cls pos s).lives = s.lives ∧ (frameIllegal p t cls pos s).ens = s.ens := by
  have h : Only [.regs, .ctr, .log, .logLost, .pins, .traces, .jobs] s (frameIllegal p t cls pos s) := by simp [Only.refl]
  exact ⟨h.same .pending (by decide), h.same .free (by decide), h.same .time (by decide), h.same .latch (by decide), h.same .banks (by decide), h.same .sample (by decide), h.same .mem (by decide), h.same .poison (by decide), h.same .out (by decide), h.same .ids (by decide), h.same .boot (by decide), h.same .ports (by decide), h.same .qps (by decide), h.same .flows (by decide), h.same .servo (by decide), h.same .pair (by decide), h.same .queues (by decide), h.same .rings (by decide), h.same .q0Wanted (by decide), h.same .due (by decide), h.same .devSeq (by decide), h.same .chans (by decide), h.same .points (by decide), h.same .nextIndex (by decide), h.same .freed (by decide), h.same .opens (by decide), h.same .nextJob (by decide), h.same .tlb (by decide), h.same .inval (by decide), h.same .fetches (by decide), h.same .nextFetch (by decide), h.same .players (by decide), h.same .treLast (by decide), h.same .streams (by decide), h.same .shds (by decide), h.same .chains (by decide), h.same .relays (by decide), h.same .stores (by decide), h.same .slice (by decide), h.same .tableBanks (by decide), h.same .lives (by decide), h.same .ens (by decide)⟩

@[simp] theorem coreTrap_fields (p t cause tval : Nat) (s : State) :
    (coreTrap p t cause tval s).pending = s.pending ∧ (coreTrap p t cause tval s).free = s.free ∧ (coreTrap p t cause tval s).time = s.time ∧ (coreTrap p t cause tval s).latch = s.latch ∧ (coreTrap p t cause tval s).banks = s.banks ∧ (coreTrap p t cause tval s).sample = s.sample ∧ (coreTrap p t cause tval s).mem = s.mem ∧ (coreTrap p t cause tval s).poison = s.poison ∧ (coreTrap p t cause tval s).out = s.out ∧ (coreTrap p t cause tval s).ids = s.ids ∧ (coreTrap p t cause tval s).boot = s.boot ∧ (coreTrap p t cause tval s).ports = s.ports ∧ (coreTrap p t cause tval s).qps = s.qps ∧ (coreTrap p t cause tval s).flows = s.flows ∧ (coreTrap p t cause tval s).servo = s.servo ∧ (coreTrap p t cause tval s).pair = s.pair ∧ (coreTrap p t cause tval s).queues = s.queues ∧ (coreTrap p t cause tval s).rings = s.rings ∧ (coreTrap p t cause tval s).q0Wanted = s.q0Wanted ∧ (coreTrap p t cause tval s).due = s.due ∧ (coreTrap p t cause tval s).devSeq = s.devSeq ∧ (coreTrap p t cause tval s).chans = s.chans ∧ (coreTrap p t cause tval s).points = s.points ∧ (coreTrap p t cause tval s).nextIndex = s.nextIndex ∧ (coreTrap p t cause tval s).freed = s.freed ∧ (coreTrap p t cause tval s).opens = s.opens ∧ (coreTrap p t cause tval s).nextJob = s.nextJob ∧ (coreTrap p t cause tval s).tlb = s.tlb ∧ (coreTrap p t cause tval s).inval = s.inval ∧ (coreTrap p t cause tval s).fetches = s.fetches ∧ (coreTrap p t cause tval s).nextFetch = s.nextFetch ∧ (coreTrap p t cause tval s).treLast = s.treLast ∧ (coreTrap p t cause tval s).streams = s.streams ∧ (coreTrap p t cause tval s).shds = s.shds ∧ (coreTrap p t cause tval s).chains = s.chains ∧ (coreTrap p t cause tval s).relays = s.relays ∧ (coreTrap p t cause tval s).stores = s.stores ∧ (coreTrap p t cause tval s).slice = s.slice ∧ (coreTrap p t cause tval s).tableBanks = s.tableBanks ∧ (coreTrap p t cause tval s).lives = s.lives ∧ (coreTrap p t cause tval s).ens = s.ens := by
  have h : Only [.regs, .ctr, .log, .logLost, .pins, .traces, .jobs, .players] s (coreTrap p t cause tval s) := by simp [Only.refl]
  exact ⟨h.same .pending (by decide), h.same .free (by decide), h.same .time (by decide), h.same .latch (by decide), h.same .banks (by decide), h.same .sample (by decide), h.same .mem (by decide), h.same .poison (by decide), h.same .out (by decide), h.same .ids (by decide), h.same .boot (by decide), h.same .ports (by decide), h.same .qps (by decide), h.same .flows (by decide), h.same .servo (by decide), h.same .pair (by decide), h.same .queues (by decide), h.same .rings (by decide), h.same .q0Wanted (by decide), h.same .due (by decide), h.same .devSeq (by decide), h.same .chans (by decide), h.same .points (by decide), h.same .nextIndex (by decide), h.same .freed (by decide), h.same .opens (by decide), h.same .nextJob (by decide), h.same .tlb (by decide), h.same .inval (by decide), h.same .fetches (by decide), h.same .nextFetch (by decide), h.same .treLast (by decide), h.same .streams (by decide), h.same .shds (by decide), h.same .chains (by decide), h.same .relays (by decide), h.same .stores (by decide), h.same .slice (by decide), h.same .tableBanks (by decide), h.same .lives (by decide), h.same .ens (by decide)⟩

@[simp] theorem countStats_fields (p tid : Nat) (count : Bool) (l : List (Fp × Cstat)) (s : State) :
    (countStats p tid count l s).pending = s.pending ∧ (countStats p tid count l s).free = s.free ∧ (countStats p tid count l s).time = s.time ∧ (countStats p tid count l s).regs = s.regs ∧ (countStats p tid count l s).latch = s.latch ∧ (countStats p tid count l s).ctr = s.ctr ∧ (countStats p tid count l s).banks = s.banks ∧ (countStats p tid count l s).sample = s.sample ∧ (countStats p tid count l s).mem = s.mem ∧ (countStats p tid count l s).poison = s.poison ∧ (countStats p tid count l s).out = s.out ∧ (countStats p tid count l s).log = s.log ∧ (countStats p tid count l s).logLost = s.logLost ∧ (countStats p tid count l s).pins = s.pins ∧ (countStats p tid count l s).ids = s.ids ∧ (countStats p tid count l s).boot = s.boot ∧ (countStats p tid count l s).ports = s.ports ∧ (countStats p tid count l s).qps = s.qps ∧ (countStats p tid count l s).flows = s.flows ∧ (countStats p tid count l s).servo = s.servo ∧ (countStats p tid count l s).traces = s.traces ∧ (countStats p tid count l s).pair = s.pair ∧ (countStats p tid count l s).queues = s.queues ∧ (countStats p tid count l s).rings = s.rings ∧ (countStats p tid count l s).q0Wanted = s.q0Wanted ∧ (countStats p tid count l s).due = s.due ∧ (countStats p tid count l s).devSeq = s.devSeq ∧ (countStats p tid count l s).chans = s.chans ∧ (countStats p tid count l s).points = s.points ∧ (countStats p tid count l s).nextIndex = s.nextIndex ∧ (countStats p tid count l s).freed = s.freed ∧ (countStats p tid count l s).opens = s.opens ∧ (countStats p tid count l s).nextJob = s.nextJob ∧ (countStats p tid count l s).tlb = s.tlb ∧ (countStats p tid count l s).inval = s.inval ∧ (countStats p tid count l s).fetches = s.fetches ∧ (countStats p tid count l s).nextFetch = s.nextFetch ∧ (countStats p tid count l s).players = s.players ∧ (countStats p tid count l s).treLast = s.treLast ∧ (countStats p tid count l s).streams = s.streams ∧ (countStats p tid count l s).shds = s.shds ∧ (countStats p tid count l s).chains = s.chains ∧ (countStats p tid count l s).relays = s.relays ∧ (countStats p tid count l s).stores = s.stores ∧ (countStats p tid count l s).slice = s.slice ∧ (countStats p tid count l s).tableBanks = s.tableBanks ∧ (countStats p tid count l s).lives = s.lives ∧ (countStats p tid count l s).ens = s.ens := by
  have h : Only [.jobs] s (countStats p tid count l s) := by simp [Only.refl]
  exact ⟨h.same .pending (by decide), h.same .free (by decide), h.same .time (by decide), h.same .regs (by decide), h.same .latch (by decide), h.same .ctr (by decide), h.same .banks (by decide), h.same .sample (by decide), h.same .mem (by decide), h.same .poison (by decide), h.same .out (by decide), h.same .log (by decide), h.same .logLost (by decide), h.same .pins (by decide), h.same .ids (by decide), h.same .boot (by decide), h.same .ports (by decide), h.same .qps (by decide), h.same .flows (by decide), h.same .servo (by decide), h.same .traces (by decide), h.same .pair (by decide), h.same .queues (by decide), h.same .rings (by decide), h.same .q0Wanted (by decide), h.same .due (by decide), h.same .devSeq (by decide), h.same .chans (by decide), h.same .points (by decide), h.same .nextIndex (by decide), h.same .freed (by decide), h.same .opens (by decide), h.same .nextJob (by decide), h.same .tlb (by decide), h.same .inval (by decide), h.same .fetches (by decide), h.same .nextFetch (by decide), h.same .players (by decide), h.same .treLast (by decide), h.same .streams (by decide), h.same .shds (by decide), h.same .chains (by decide), h.same .relays (by decide), h.same .stores (by decide), h.same .slice (by decide), h.same .tableBanks (by decide), h.same .lives (by decide), h.same .ens (by decide)⟩

@[simp] theorem lsStore_fields (p base fmt : Nat) (l : List Nat) (s : State) :
    (lsStore p base fmt l s).pending = s.pending ∧ (lsStore p base fmt l s).free = s.free ∧ (lsStore p base fmt l s).time = s.time ∧ (lsStore p base fmt l s).regs = s.regs ∧ (lsStore p base fmt l s).latch = s.latch ∧ (lsStore p base fmt l s).ctr = s.ctr ∧ (lsStore p base fmt l s).banks = s.banks ∧ (lsStore p base fmt l s).sample = s.sample ∧ (lsStore p base fmt l s).poison = s.poison ∧ (lsStore p base fmt l s).out = s.out ∧ (lsStore p base fmt l s).log = s.log ∧ (lsStore p base fmt l s).logLost = s.logLost ∧ (lsStore p base fmt l s).pins = s.pins ∧ (lsStore p base fmt l s).ids = s.ids ∧ (lsStore p base fmt l s).boot = s.boot ∧ (lsStore p base fmt l s).ports = s.ports ∧ (lsStore p base fmt l s).qps = s.qps ∧ (lsStore p base fmt l s).flows = s.flows ∧ (lsStore p base fmt l s).servo = s.servo ∧ (lsStore p base fmt l s).traces = s.traces ∧ (lsStore p base fmt l s).pair = s.pair ∧ (lsStore p base fmt l s).queues = s.queues ∧ (lsStore p base fmt l s).rings = s.rings ∧ (lsStore p base fmt l s).q0Wanted = s.q0Wanted ∧ (lsStore p base fmt l s).due = s.due ∧ (lsStore p base fmt l s).devSeq = s.devSeq ∧ (lsStore p base fmt l s).chans = s.chans ∧ (lsStore p base fmt l s).points = s.points ∧ (lsStore p base fmt l s).nextIndex = s.nextIndex ∧ (lsStore p base fmt l s).freed = s.freed ∧ (lsStore p base fmt l s).opens = s.opens ∧ (lsStore p base fmt l s).jobs = s.jobs ∧ (lsStore p base fmt l s).nextJob = s.nextJob ∧ (lsStore p base fmt l s).tlb = s.tlb ∧ (lsStore p base fmt l s).inval = s.inval ∧ (lsStore p base fmt l s).fetches = s.fetches ∧ (lsStore p base fmt l s).nextFetch = s.nextFetch ∧ (lsStore p base fmt l s).players = s.players ∧ (lsStore p base fmt l s).treLast = s.treLast ∧ (lsStore p base fmt l s).streams = s.streams ∧ (lsStore p base fmt l s).shds = s.shds ∧ (lsStore p base fmt l s).chains = s.chains ∧ (lsStore p base fmt l s).relays = s.relays ∧ (lsStore p base fmt l s).stores = s.stores ∧ (lsStore p base fmt l s).slice = s.slice ∧ (lsStore p base fmt l s).tableBanks = s.tableBanks ∧ (lsStore p base fmt l s).lives = s.lives ∧ (lsStore p base fmt l s).ens = s.ens := by
  have h : Only [.mem] s (lsStore p base fmt l s) := by simp [Only.refl]
  exact ⟨h.same .pending (by decide), h.same .free (by decide), h.same .time (by decide), h.same .regs (by decide), h.same .latch (by decide), h.same .ctr (by decide), h.same .banks (by decide), h.same .sample (by decide), h.same .poison (by decide), h.same .out (by decide), h.same .log (by decide), h.same .logLost (by decide), h.same .pins (by decide), h.same .ids (by decide), h.same .boot (by decide), h.same .ports (by decide), h.same .qps (by decide), h.same .flows (by decide), h.same .servo (by decide), h.same .traces (by decide), h.same .pair (by decide), h.same .queues (by decide), h.same .rings (by decide), h.same .q0Wanted (by decide), h.same .due (by decide), h.same .devSeq (by decide), h.same .chans (by decide), h.same .points (by decide), h.same .nextIndex (by decide), h.same .freed (by decide), h.same .opens (by decide), h.same .jobs (by decide), h.same .nextJob (by decide), h.same .tlb (by decide), h.same .inval (by decide), h.same .fetches (by decide), h.same .nextFetch (by decide), h.same .players (by decide), h.same .treLast (by decide), h.same .streams (by decide), h.same .shds (by decide), h.same .chains (by decide), h.same .relays (by decide), h.same .stores (by decide), h.same .slice (by decide), h.same .tableBanks (by decide), h.same .lives (by decide), h.same .ens (by decide)⟩

@[simp] theorem moved_fields (job : Option Nat) (s : State) :
    (moved job s).pending = s.pending ∧ (moved job s).free = s.free ∧ (moved job s).time = s.time ∧ (moved job s).regs = s.regs ∧ (moved job s).latch = s.latch ∧ (moved job s).ctr = s.ctr ∧ (moved job s).banks = s.banks ∧ (moved job s).sample = s.sample ∧ (moved job s).mem = s.mem ∧ (moved job s).poison = s.poison ∧ (moved job s).out = s.out ∧ (moved job s).log = s.log ∧ (moved job s).logLost = s.logLost ∧ (moved job s).pins = s.pins ∧ (moved job s).ids = s.ids ∧ (moved job s).boot = s.boot ∧ (moved job s).ports = s.ports ∧ (moved job s).qps = s.qps ∧ (moved job s).flows = s.flows ∧ (moved job s).servo = s.servo ∧ (moved job s).traces = s.traces ∧ (moved job s).pair = s.pair ∧ (moved job s).queues = s.queues ∧ (moved job s).rings = s.rings ∧ (moved job s).q0Wanted = s.q0Wanted ∧ (moved job s).due = s.due ∧ (moved job s).devSeq = s.devSeq ∧ (moved job s).chans = s.chans ∧ (moved job s).points = s.points ∧ (moved job s).nextIndex = s.nextIndex ∧ (moved job s).freed = s.freed ∧ (moved job s).opens = s.opens ∧ (moved job s).nextJob = s.nextJob ∧ (moved job s).tlb = s.tlb ∧ (moved job s).inval = s.inval ∧ (moved job s).fetches = s.fetches ∧ (moved job s).nextFetch = s.nextFetch ∧ (moved job s).players = s.players ∧ (moved job s).treLast = s.treLast ∧ (moved job s).streams = s.streams ∧ (moved job s).shds = s.shds ∧ (moved job s).chains = s.chains ∧ (moved job s).relays = s.relays ∧ (moved job s).stores = s.stores ∧ (moved job s).slice = s.slice ∧ (moved job s).tableBanks = s.tableBanks ∧ (moved job s).lives = s.lives ∧ (moved job s).ens = s.ens := by
  have h : Only [.jobs] s (moved job s) := by simp [Only.refl]
  exact ⟨h.same .pending (by decide), h.same .free (by decide), h.same .time (by decide), h.same .regs (by decide), h.same .latch (by decide), h.same .ctr (by decide), h.same .banks (by decide), h.same .sample (by decide), h.same .mem (by decide), h.same .poison (by decide), h.same .out (by decide), h.same .log (by decide), h.same .logLost (by decide), h.same .pins (by decide), h.same .ids (by decide), h.same .boot (by decide), h.same .ports (by decide), h.same .qps (by decide), h.same .flows (by decide), h.same .servo (by decide), h.same .traces (by decide), h.same .pair (by decide), h.same .queues (by decide), h.same .rings (by decide), h.same .q0Wanted (by decide), h.same .due (by decide), h.same .devSeq (by decide), h.same .chans (by decide), h.same .points (by decide), h.same .nextIndex (by decide), h.same .freed (by decide), h.same .opens (by decide), h.same .nextJob (by decide), h.same .tlb (by decide), h.same .inval (by decide), h.same .fetches (by decide), h.same .nextFetch (by decide), h.same .players (by decide), h.same .treLast (by decide), h.same .streams (by decide), h.same .shds (by decide), h.same .chains (by decide), h.same .relays (by decide), h.same .stores (by decide), h.same .slice (by decide), h.same .tableBanks (by decide), h.same .lives (by decide), h.same .ens (by decide)⟩

@[simp] theorem settleChan_fields (i : Nat) (s : State) :
    (settleChan i s).pending = s.pending ∧ (settleChan i s).time = s.time ∧ (settleChan i s).latch = s.latch ∧ (settleChan i s).banks = s.banks ∧ (settleChan i s).sample = s.sample ∧ (settleChan i s).poison = s.poison ∧ (settleChan i s).ids = s.ids ∧ (settleChan i s).boot = s.boot ∧ (settleChan i s).servo = s.servo ∧ (settleChan i s).traces = s.traces ∧ (settleChan i s).q0Wanted = s.q0Wanted ∧ (settleChan i s).devSeq = s.devSeq ∧ (settleChan i s).points = s.points ∧ (settleChan i s).nextIndex = s.nextIndex ∧ (settleChan i s).freed = s.freed ∧ (settleChan i s).nextJob = s.nextJob ∧ (settleChan i s).tlb = s.tlb ∧ (settleChan i s).inval = s.inval ∧ (settleChan i s).nextFetch = s.nextFetch ∧ (settleChan i s).players = s.players ∧ (settleChan i s).treLast = s.treLast ∧ (settleChan i s).streams = s.streams ∧ (settleChan i s).shds = s.shds ∧ (settleChan i s).relays = s.relays ∧ (settleChan i s).slice = s.slice ∧ (settleChan i s).tableBanks = s.tableBanks ∧ (settleChan i s).ens = s.ens := by
  have h : Only [.free, .regs, .ctr, .mem, .out, .log, .logLost, .pins, .ports, .qps, .flows, .pair, .queues, .rings, .due, .chans, .opens, .jobs, .fetches, .chains, .stores, .lives] s (settleChan i s) := by simp [Only.refl]
  exact ⟨h.same .pending (by decide), h.same .time (by decide), h.same .latch (by decide), h.same .banks (by decide), h.same .sample (by decide), h.same .poison (by decide), h.same .ids (by decide), h.same .boot (by decide), h.same .servo (by decide), h.same .traces (by decide), h.same .q0Wanted (by decide), h.same .devSeq (by decide), h.same .points (by decide), h.same .nextIndex (by decide), h.same .freed (by decide), h.same .nextJob (by decide), h.same .tlb (by decide), h.same .inval (by decide), h.same .nextFetch (by decide), h.same .players (by decide), h.same .treLast (by decide), h.same .streams (by decide), h.same .shds (by decide), h.same .relays (by decide), h.same .slice (by decide), h.same .tableBanks (by decide), h.same .ens (by decide)⟩

end Sys2Proof.Machine
end

