-- ==== Sys2Proof/Laws/Regs.lean ====
section
/-! SUPPORT. Registers, their fields and the counters: what reads give after writes. -/

namespace Sys2Proof.Machine

/-! Fields of a word -/

theorem putField_toNat (w : Word) (lo width v : Nat) (h : lo + width ≤ 32) :
    (putField w lo width v).toNat = w.toNat % 2 ^ lo + 2 ^ lo * (v % 2 ^ width + 2 ^ width * (w.toNat / 2 ^ (lo + width))) := by
  have hl : 0 < 2 ^ lo := Nat.two_pow_pos lo
  have hw : 0 < 2 ^ width := Nat.two_pow_pos width
  have e1 : w.toNat = w.toNat % 2 ^ lo + 2 ^ lo * (bits w.toNat lo width + 2 ^ width * (w.toNat / 2 ^ (lo + width))) := by
    rw [bits, pow_add, ← Nat.div_div_eq_div_mul, Nat.mod_add_div, Nat.mod_add_div]
  have hlt := w.isLt
  have hb : bits w.toNat lo width < 2 ^ width := Nat.mod_lt _ hw
  have hv : v % 2 ^ width < 2 ^ width := Nat.mod_lt _ hw
  have ha : w.toNat % 2 ^ lo < 2 ^ lo := Nat.mod_lt _ hl
  generalize hA : w.toNat % 2 ^ lo = a at *
  generalize hB : bits w.toNat lo width = b at *
  generalize hC : w.toNat / 2 ^ (lo + width) = c at *
  generalize hV : v % 2 ^ width = v' at *
  have e2 : w.toNat - b * 2 ^ lo + v' * 2 ^ lo = a + 2 ^ lo * (v' + 2 ^ width * c) := by
    have : w.toNat = a + 2 ^ lo * (2 ^ width * c) + b * 2 ^ lo := by rw [e1]; ring
    rw [this, Nat.add_sub_cancel]; ring
  have hc : c < 2 ^ (32 - lo - width) := by
    rw [← hC, Nat.div_lt_iff_lt_mul (Nat.two_pow_pos _), ← pow_add]
    rw [show 32 - lo - width + (lo + width) = 32 by omega]; exact hlt
  have hlt2 : a + 2 ^ lo * (v' + 2 ^ width * c) < 2 ^ 32 := by
    have h1 : v' + 2 ^ width * c < 2 ^ width * 2 ^ (32 - lo - width) := by
      calc v' + 2 ^ width * c < 2 ^ width + 2 ^ width * c := by omega
        _ = 2 ^ width * (c + 1) := by ring
        _ ≤ _ := Nat.mul_le_mul_left _ hc
    calc a + 2 ^ lo * (v' + 2 ^ width * c) < 2 ^ lo + 2 ^ lo * (v' + 2 ^ width * c) := by omega
      _ = 2 ^ lo * (v' + 2 ^ width * c + 1) := by ring
      _ ≤ 2 ^ lo * (2 ^ width * 2 ^ (32 - lo - width)) := Nat.mul_le_mul_left _ h1
      _ = 2 ^ 32 := by rw [← pow_add, ← pow_add]; congr 1; omega
  rw [putField, hB, hV, e2, BitVec.toNat_ofNat, Nat.mod_eq_of_lt hlt2]

/-- A field reads as the value written to it, cut to its width. -/
theorem bits_putField_same (w : Word) (lo width v : Nat) (h : lo + width ≤ 32) :
    bits (putField w lo width v).toNat lo width = v % 2 ^ width := by
  rw [putField_toNat w lo width v h, bits, Nat.add_mul_div_left _ _ (Nat.two_pow_pos lo), Nat.div_eq_of_lt (Nat.mod_lt _ (Nat.two_pow_pos lo)),
    Nat.zero_add, Nat.add_mul_mod_self_left, Nat.mod_mod]

/-- A field apart from the one written keeps its value. -/
theorem bits_putField_other (w : Word) (lo width v lo' width' : Nat) (h : lo + width ≤ 32) (ha : lo' + width' ≤ lo ∨ lo + width ≤ lo') :
    bits (putField w lo width v).toNat lo' width' = bits w.toNat lo' width' := by
  rw [putField_toNat w lo width v h]
  rcases ha with ha | ha
  · obtain ⟨d, rfl⟩ : ∃ d, lo = lo' + (width' + d) := ⟨lo - lo' - width', by omega⟩
    simp only [bits]
    rw [pow_add, pow_add, mul_assoc, Nat.add_mul_div_left _ _ (Nat.two_pow_pos _), mul_assoc, Nat.add_mul_mod_self_left]
    rw [Nat.mod_mul_right_div_self, Nat.mod_mul_right_mod]
  · obtain ⟨d, rfl⟩ : ∃ d, lo' = lo + width + d := ⟨lo' - lo - width, by omega⟩
    simp only [bits, pow_add 2 (lo + width) d, ← Nat.div_div_eq_div_mul _ (2 ^ (lo + width)) (2 ^ d)]
    have hv : v % 2 ^ width < 2 ^ width := Nat.mod_lt _ (Nat.two_pow_pos _)
    have hm : w.toNat % 2 ^ lo < 2 ^ lo := Nat.mod_lt _ (Nat.two_pow_pos _)
    generalize w.toNat / 2 ^ (lo + width) = c
    have e : (w.toNat % 2 ^ lo + 2 ^ lo * (v % 2 ^ width + 2 ^ width * c)) / 2 ^ (lo + width) = c := by
      rw [pow_add, ← Nat.div_div_eq_div_mul, Nat.add_mul_div_left _ _ (Nat.two_pow_pos lo), Nat.div_eq_of_lt hm, Nat.zero_add,
        Nat.add_mul_div_left _ _ (Nat.two_pow_pos width), Nat.div_eq_of_lt hv, Nat.zero_add]
    rw [e]

/-! Registers -/

@[simp] theorem reg_setReg_same (s : State) (p o : Nat) (w : Word) : (s.setReg p o w).reg p o = w := by simp [State.reg, State.setReg]

theorem reg_setReg_other (s : State) (p o p' o' : Nat) (w : Word) (h : p' * 4096 + o' ≠ p * 4096 + o) :
    (s.setReg p o w).reg p' o' = s.reg p' o' := by simp [State.reg, State.setReg, tget_dput_other _ _ _ _ h]

theorem reg_wf_other (s : State) (p : Nat) (f : Fld) (v p' o' : Nat) (h : p' * 4096 + o' ≠ p * 4096 + f.off) :
    (s.wf p f v).reg p' o' = s.reg p' o' := reg_setReg_other _ _ _ _ _ _ h

/-- A field reads as it was written. -/
theorem rf_wf_same (s : State) (p : Nat) (f : Fld) (v : Nat) (h : f.lo + f.width ≤ 32) : (s.wf p f v).rf p f = v % 2 ^ f.width := by
  simp only [State.rf, State.wf, reg_setReg_same]
  exact bits_putField_same _ _ _ _ h

/-- A field of another register keeps its value. -/
theorem rf_wf_apart (s : State) (p : Nat) (f : Fld) (v p' : Nat) (g : Fld) (h : p' * 4096 + g.off ≠ p * 4096 + f.off) :
    (s.wf p f v).rf p' g = s.rf p' g := by simp [State.rf, reg_wf_other _ _ _ _ _ _ h]

/-- Another field of the register keeps its value. -/
theorem rf_wf_beside (s : State) (p : Nat) (f : Fld) (v : Nat) (g : Fld) (ho : g.off = f.off) (h : f.lo + f.width ≤ 32)
    (ha : g.lo + g.width ≤ f.lo ∨ f.lo + f.width ≤ g.lo) : (s.wf p f v).rf p g = s.rf p g := by
  simp only [State.rf, State.wf, ho, reg_setReg_same]
  exact bits_putField_other _ _ _ _ _ _ h ha

theorem rf_setReg_apart (s : State) (p o : Nat) (w : Word) (p' : Nat) (g : Fld) (h : p' * 4096 + g.off ≠ p * 4096 + o) :
    (s.setReg p o w).rf p' g = s.rf p' g := by simp [State.rf, reg_setReg_other _ _ _ _ _ _ h]

/-! Counters -/

@[simp] theorem count_bump_same (p i n : Nat) (s : State) : (bump p i n s).count p i = (s.count p i + n) % 2 ^ 64 := by simp [bump, State.count]

theorem count_bump_other (p i n : Nat) (s : State) (p' i' : Nat) (h : p' * 32 + i' ≠ p * 32 + i) :
    (bump p i n s).count p' i' = s.count p' i' := by simp [bump, State.count, tget_dput_other _ _ _ _ h]

theorem count_peak_other (p i n : Nat) (s : State) (p' i' : Nat) (h : p' * 32 + i' ≠ p * 32 + i) :
    (peak p i n s).count p' i' = s.count p' i' := by simp [peak, State.count, tget_dput_other _ _ _ _ h]

@[simp] theorem count_peak_same (p i n : Nat) (s : State) : (peak p i n s).count p i = max (s.count p i) n := by simp [peak, State.count]

end Sys2Proof.Machine
end

