-- ==== Sys2Proof/Laws/Keeps.lean ====
section
/-! SUPPORT. Which registers and counters the shared operations write: `KeepsRegs` and `KeepsCtrs` (Safety.lean), one lemma for each. -/

namespace Sys2Proof.Machine

variable {w0 s t : State} {l : List Nat}

theorem KeepsRegs.refl (l : List Nat) (s : State) : KeepsRegs l s s := ⟨fun _ _ => rfl⟩

theorem KeepsRegs.trans (h : KeepsRegs l w0 s) (g : KeepsRegs l s t) : KeepsRegs l w0 t :=
  ⟨fun k hk => (g.same k hk).trans (h.same k hk)⟩

theorem KeepsCtrs.refl (l : List Nat) (s : State) : KeepsCtrs l s s := ⟨fun _ _ => rfl⟩

theorem KeepsCtrs.trans (h : KeepsCtrs l w0 s) (g : KeepsCtrs l s t) : KeepsCtrs l w0 t :=
  ⟨fun k hk => (g.same k hk).trans (h.same k hk)⟩

@[simp] theorem keepsRegs_mk (h : KeepsRegs l w0 s) {x_pending : List Instr} {x_free : Nat} {x_time : Nat} {x_latch : Tbl Word} {x_ctr : Tbl Nat} {x_banks : Tbl Bank} {x_sample : Option (Nat × Nat × Nat)} {x_mem : List Host.Cell} {x_poison : List Nat} {x_out : List Msg} {x_log : List LogRec} {x_logLost : Nat} {x_pins : Pins} {x_ids : IdStore} {x_boot : BootSt} {x_ports : Tbl Port} {x_qps : Tbl Qp} {x_flows : Tbl Flow} {x_servo : Servo} {x_traces : Tbl Trace} {x_pair : PairSt} {x_queues : Tbl Queue} {x_rings : Tbl Ring} {x_q0Wanted : Bool} {x_due : List Due} {x_devSeq : Nat} {x_chans : Tbl Chan} {x_points : Tbl Chan} {x_nextIndex : Nat} {x_freed : List Nat} {x_opens : List OpenCmd} {x_jobs : Tbl Job} {x_nextJob : Nat} {x_tlb : List Tlb} {x_inval : Option (Nat × Nat × Nat)} {x_fetches : Tbl Fetch} {x_nextFetch : Nat} {x_players : Tbl Player} {x_treLast : Tbl Nat} {x_streams : Tbl Stream} {x_shds : Tbl Shd} {x_chains : List ChainSt} {x_relays : Tbl Ring4} {x_stores : List PicStore} {x_slice : Option (Nat × Nat)} {x_tableBanks : List (Option Nat)} {x_lives : Tbl Live} {x_ens : Tbl Ens} :
    KeepsRegs l w0 (State.mk x_pending x_free x_time s.regs x_latch x_ctr x_banks x_sample x_mem x_poison x_out x_log x_logLost x_pins x_ids x_boot x_ports x_qps x_flows x_servo x_traces x_pair x_queues x_rings x_q0Wanted x_due x_devSeq x_chans x_points x_nextIndex x_freed x_opens x_jobs x_nextJob x_tlb x_inval x_fetches x_nextFetch x_players x_treLast x_streams x_shds x_chains x_relays x_stores x_slice x_tableBanks x_lives x_ens) := ⟨fun k hk => h.same k hk⟩

@[simp] theorem keepsRegs_ite {c : Prop} [Decidable c] (h : c → KeepsRegs l w0 s) (g : ¬c → KeepsRegs l w0 t) : KeepsRegs l w0 (if c then s else t) := by
  split
  · exact h ‹_›
  · exact g ‹_›

theorem keepsRegs_of_eq (e : t.regs = s.regs) (h : KeepsRegs l w0 s) : KeepsRegs l w0 t := ⟨fun k hk => by rw [e]; exact h.same k hk⟩

@[simp] theorem keepsCtrs_mk (h : KeepsCtrs l w0 s) {x_pending : List Instr} {x_free : Nat} {x_time : Nat} {x_regs : Tbl Word} {x_latch : Tbl Word} {x_banks : Tbl Bank} {x_sample : Option (Nat × Nat × Nat)} {x_mem : List Host.Cell} {x_poison : List Nat} {x_out : List Msg} {x_log : List LogRec} {x_logLost : Nat} {x_pins : Pins} {x_ids : IdStore} {x_boot : BootSt} {x_ports : Tbl Port} {x_qps : Tbl Qp} {x_flows : Tbl Flow} {x_servo : Servo} {x_traces : Tbl Trace} {x_pair : PairSt} {x_queues : Tbl Queue} {x_rings : Tbl Ring} {x_q0Wanted : Bool} {x_due : List Due} {x_devSeq : Nat} {x_chans : Tbl Chan} {x_points : Tbl Chan} {x_nextIndex : Nat} {x_freed : List Nat} {x_opens : List OpenCmd} {x_jobs : Tbl Job} {x_nextJob : Nat} {x_tlb : List Tlb} {x_inval : Option (Nat × Nat × Nat)} {x_fetches : Tbl Fetch} {x_nextFetch : Nat} {x_players : Tbl Player} {x_treLast : Tbl Nat} {x_streams : Tbl Stream} {x_shds : Tbl Shd} {x_chains : List ChainSt} {x_relays : Tbl Ring4} {x_stores : List PicStore} {x_slice : Option (Nat × Nat)} {x_tableBanks : List (Option Nat)} {x_lives : Tbl Live} {x_ens : Tbl Ens} :
    KeepsCtrs l w0 (State.mk x_pending x_free x_time x_regs x_latch s.ctr x_banks x_sample x_mem x_poison x_out x_log x_logLost x_pins x_ids x_boot x_ports x_qps x_flows x_servo x_traces x_pair x_queues x_rings x_q0Wanted x_due x_devSeq x_chans x_points x_nextIndex x_freed x_opens x_jobs x_nextJob x_tlb x_inval x_fetches x_nextFetch x_players x_treLast x_streams x_shds x_chains x_relays x_stores x_slice x_tableBanks x_lives x_ens) := ⟨fun k hk => h.same k hk⟩

@[simp] theorem keepsCtrs_ite {c : Prop} [Decidable c] (h : c → KeepsCtrs l w0 s) (g : ¬c → KeepsCtrs l w0 t) : KeepsCtrs l w0 (if c then s else t) := by
  split
  · exact h ‹_›
  · exact g ‹_›

theorem keepsCtrs_of_eq (e : t.ctr = s.ctr) (h : KeepsCtrs l w0 s) : KeepsCtrs l w0 t := ⟨fun k hk => by rw [e]; exact h.same k hk⟩

@[simp] theorem keepsRegs_setReg (page off : Nat) (w : Word) (hk : regKey page off ∈ l) (h : KeepsRegs l w0 s) : KeepsRegs l w0 (s.setReg page off w) := by
  refine ⟨fun k hn => ?_⟩
  have hne : k ≠ page * 4096 + off := fun e => hn (by rw [e]; exact hk)
  exact (tget_dput_other _ _ _ _ hne).trans (h.same k hn)

@[simp] theorem keepsRegs_wf (page : Nat) (f : Fld) (v : Nat) (hk : regKey page f.off ∈ l) (h : KeepsRegs l w0 s) : KeepsRegs l w0 (s.wf page f v) :=
  keepsRegs_setReg _ _ _ hk h

@[simp] theorem keepsCtrs_bump (page i n : Nat) (hk : ctrKey page i ∈ l) (h : KeepsCtrs l w0 s) : KeepsCtrs l w0 (bump page i n s) := by
  refine ⟨fun k hn => ?_⟩
  have hne : k ≠ page * 32 + i := fun e => hn (by rw [e]; exact hk)
  exact (tget_dput_other _ _ _ _ hne).trans (h.same k hn)

@[simp] theorem keepsCtrs_peak (page i n : Nat) (hk : ctrKey page i ∈ l) (h : KeepsCtrs l w0 s) : KeepsCtrs l w0 (peak page i n s) := by
  refine ⟨fun k hn => ?_⟩
  have hne : k ≠ page * 32 + i := fun e => hn (by rw [e]; exact hk)
  exact (tget_dput_other _ _ _ _ hne).trans (h.same k hn)

@[simp] theorem keepsCtrs_wrote (n : Nat) (hk : ctrKey 0 Cnt.GLB_REG_WRITES ∈ l) (h : KeepsCtrs l w0 s) : KeepsCtrs l w0 (wrote n s) :=
  keepsCtrs_bump _ _ _ hk h

@[simp] theorem keepsRegs_bump (page i n : Nat) (h : KeepsRegs l w0 s) : KeepsRegs l w0 (bump page i n s) := ⟨fun k hk => h.same k hk⟩
@[simp] theorem keepsRegs_peak (page i n : Nat) (h : KeepsRegs l w0 s) : KeepsRegs l w0 (peak page i n s) := ⟨fun k hk => h.same k hk⟩
@[simp] theorem keepsRegs_wrote (n : Nat) (h : KeepsRegs l w0 s) : KeepsRegs l w0 (wrote n s) := ⟨fun k hk => h.same k hk⟩
@[simp] theorem keepsRegs_store (a : Nat) (b : List Byte) (h : KeepsRegs l w0 s) : KeepsRegs l w0 (s.store a b) := ⟨fun k hk => h.same k hk⟩
@[simp] theorem keepsRegs_emit (m : Msg) (h : KeepsRegs l w0 s) : KeepsRegs l w0 (emit m s) := ⟨fun k hk => h.same k hk⟩
@[simp] theorem keepsCtrs_setReg (page off : Nat) (w : Word) (h : KeepsCtrs l w0 s) : KeepsCtrs l w0 (s.setReg page off w) := ⟨fun k hk => h.same k hk⟩
@[simp] theorem keepsCtrs_wf (page : Nat) (f : Fld) (v : Nat) (h : KeepsCtrs l w0 s) : KeepsCtrs l w0 (s.wf page f v) := ⟨fun k hk => h.same k hk⟩
@[simp] theorem keepsCtrs_store (a : Nat) (b : List Byte) (h : KeepsCtrs l w0 s) : KeepsCtrs l w0 (s.store a b) := ⟨fun k hk => h.same k hk⟩
@[simp] theorem keepsCtrs_emit (m : Msg) (h : KeepsCtrs l w0 s) : KeepsCtrs l w0 (emit m s) := ⟨fun k hk => h.same k hk⟩

/-! Recording a code -/

theorem noteRegs_mem (page : Nat) : ∀ k ∈ noteRegs page, k = regKey page 0x010 ∨ k = regKey page Reg.PG_ERR_FIRST_COUNT.off ∨
    k = regKey page Reg.PG_ERR_TIME_LO_TIME.off ∨ k = regKey page Reg.PG_ERR_TIME_HI_TIME.off ∨ k = regKey 0 Reg.GLB_ALERT_ASSERTED.off ∨
    k = regKey 0x3B Reg.LOG_DROPPED_DROPPED.off := by
  intro k hk
  simpa [noteRegs] using hk

@[simp] theorem keepsRegs_alert (hk : regKey 0 Reg.GLB_ALERT_ASSERTED.off ∈ l) (h : KeepsRegs l w0 s) : KeepsRegs l w0 (alertUpdate s) := by
  unfold alertUpdate
  simp (maxDischargeDepth := 60) [hk, h]

@[simp] theorem keepsCtrs_alert (hk : ctrKey 0 Cnt.GLB_ALERTS ∈ l) (h : KeepsCtrs l w0 s) : KeepsCtrs l w0 (alertUpdate s) := by
  unfold alertUpdate
  simp (maxDischargeDepth := 60) [hk, h]

@[simp] theorem keepsRegs_record (page code : Nat) (hk : ∀ k ∈ noteRegs page, k ∈ l) (h : KeepsRegs l w0 s) : KeepsRegs l w0 (record page code s) := by
  have a := hk _ (List.mem_cons_self ..)
  have b : regKey page Reg.PG_ERR_FIRST_COUNT.off ∈ l := hk _ (by simp [noteRegs])
  have c : regKey page Reg.PG_ERR_FIRST_CODE.off ∈ l := b
  have d : regKey page Reg.PG_ERR_TIME_LO_TIME.off ∈ l := hk _ (by simp [noteRegs])
  have e : regKey page Reg.PG_ERR_TIME_HI_TIME.off ∈ l := hk _ (by simp [noteRegs])
  have f : regKey 0 Reg.GLB_ALERT_ASSERTED.off ∈ l := hk _ (by simp [noteRegs])
  unfold record
  simp (maxDischargeDepth := 60) [a, b, c, d, e, f, h]

@[simp] theorem keepsCtrs_record (page code : Nat) (hk : ctrKey 0 Cnt.GLB_ALERTS ∈ l) (h : KeepsCtrs l w0 s) : KeepsCtrs l w0 (record page code s) := by
  unfold record
  simp (maxDischargeDepth := 60) [hk, h]

@[simp] theorem keepsRegs_logPush (r : LogRec) (h : KeepsRegs l w0 s) : KeepsRegs l w0 (logPush r s) := ⟨fun k hk => h.same k hk⟩

@[simp] theorem keepsCtrs_logPush (r : LogRec) (hk : ctrKey 0x3B Cnt.LOG_RECORDS ∈ l) (h : KeepsCtrs l w0 s) : KeepsCtrs l w0 (logPush r s) := by
  unfold logPush
  simp (maxDischargeDepth := 60) [hk, h]

@[simp] theorem keepsRegs_board (code inst handle seq d0 d1 : Nat) (ha : regKey 0 Reg.GLB_ALERT_ASSERTED.off ∈ l)
    (hd : regKey 0x3B Reg.LOG_DROPPED_DROPPED.off ∈ l) (h : KeepsRegs l w0 s) : KeepsRegs l w0 (board code inst handle seq d0 d1 s) := by
  unfold board
  simp (maxDischargeDepth := 60) [ha, hd, h]

@[simp] theorem keepsCtrs_board (code inst handle seq d0 d1 : Nat) (hk : ∀ k ∈ noteCtrs, k ∈ l) (h : KeepsCtrs l w0 s) :
    KeepsCtrs l w0 (board code inst handle seq d0 d1 s) := by
  have a : ctrKey 0 Cnt.GLB_ALERTS ∈ l := hk _ (by simp [noteCtrs])
  have b : ctrKey 0x3B Cnt.LOG_RECORDS ∈ l := hk _ (by simp [noteCtrs])
  have c : ctrKey 0x3B Cnt.LOG_DROPPED ∈ l := hk _ (by simp [noteCtrs])
  unfold board
  simp (maxDischargeDepth := 60) [a, b, c, h]

@[simp] theorem keepsRegs_postFull (page code handle seq d0 d1 : Nat) (hk : ∀ k ∈ noteRegs page, k ∈ l) (h : KeepsRegs l w0 s) :
    KeepsRegs l w0 (postFull page code handle seq d0 d1 s) := by
  have f : regKey 0 Reg.GLB_ALERT_ASSERTED.off ∈ l := hk _ (by simp [noteRegs])
  have g : regKey 0x3B Reg.LOG_DROPPED_DROPPED.off ∈ l := hk _ (by simp [noteRegs])
  have r := keepsRegs_record page code hk h
  unfold postFull
  simp (maxDischargeDepth := 60) [f, g, r]

@[simp] theorem keepsCtrs_postFull (page code handle seq d0 d1 : Nat) (hk : ∀ k ∈ noteCtrs, k ∈ l) (h : KeepsCtrs l w0 s) :
    KeepsCtrs l w0 (postFull page code handle seq d0 d1 s) := by
  have a : ctrKey 0 Cnt.GLB_ALERTS ∈ l := hk _ (by simp [noteCtrs])
  have r : KeepsCtrs l w0 (record page code s) := keepsCtrs_record page code a h
  have b := keepsCtrs_board code (pageInst page) handle seq d0 d1 hk r
  unfold postFull
  exact keepsCtrs_ite (fun _ => b) (fun _ => r)

@[simp] theorem keepsRegs_post (page code : Nat) (hk : ∀ k ∈ noteRegs page, k ∈ l) (h : KeepsRegs l w0 s) : KeepsRegs l w0 (post page code s) :=
  keepsRegs_postFull _ _ _ _ _ _ hk h

@[simp] theorem keepsCtrs_post (page code : Nat) (hk : ∀ k ∈ noteCtrs, k ∈ l) (h : KeepsCtrs l w0 s) : KeepsCtrs l w0 (post page code s) :=
  keepsCtrs_postFull _ _ _ _ _ _ hk h

end Sys2Proof.Machine
end

