-- ==== Sys2Proof/Laws/PerInstr.lean ====
section
/-! SUPPORT. A law of every command as syntax: spec/opcode_table.json gives its row no bits, so no word spells it. -/

namespace Sys2Proof.Laws.NoWord

/-- No word spells the command, and putting the word in front of a queue leaves the state as it was. -/
def Statement (i : Instr) : Prop :=
  ∀ nbits w : Nat, decodeTableWord nbits w ≠ some i ∧ ∀ s : Machine.State, s.withFetchWord nbits w = s

theorem of_none (i : Instr) : Statement i := fun _ _ => ⟨by simp [decodeTableWord], fun _ => rfl⟩

theorem inputApply (cv : Nat) : Statement (.inputApply cv) := of_none _
theorem inputRemoval : Statement (.inputRemoval) := of_none _
theorem pwrEnRise : Statement (.pwrEnRise) := of_none _
theorem railsInRegulation (obs : BootObs) : Statement (.railsInRegulation obs) := of_none _
theorem railTimeout : Statement (.railTimeout) := of_none _
theorem pwrEnFall : Statement (.pwrEnFall) := of_none _
theorem modResetNAssert (ns : Nat) : Statement (.modResetNAssert ns) := of_none _
theorem modResetNRelease (obs : BootObs) : Statement (.modResetNRelease obs) := of_none _
theorem undervoltageStop : Statement (.undervoltageStop) := of_none _
theorem overvoltageStop : Statement (.overvoltageStop) := of_none _
theorem overcurrentStop : Statement (.overcurrentStop) := of_none _
theorem powerSample (cv : Nat) (ma : Nat) : Statement (.powerSample cv ma) := of_none _
theorem tempSample (die : List Nat) (plate : Nat) : Statement (.tempSample die plate) := of_none _
theorem pllLockLoss (memory : Bool) : Statement (.pllLockLoss memory) := of_none _
theorem ethPllLockLoss : Statement (.ethPllLockLoss) := of_none _
theorem hello (h : LoadHdr) (imageLen : Nat) (qp : Nat) (psn : Nat) (key : Nat) : Statement (.hello h imageLen qp psn key) := of_none _
theorem data (h : LoadHdr) (offset : Nat) (bytes : List Byte) : Statement (.data h offset bytes) := of_none _
theorem endImage (h : LoadHdr) : Statement (.endImage h) := of_none _
theorem abortLoad (h : LoadHdr) : Statement (.abortLoad h) := of_none _
theorem imageVerifyDone : Statement (.imageVerifyDone) := of_none _
theorem operational (ms : Nat) : Statement (.operational ms) := of_none _
theorem linkChange (port : Fin 4) (up : Bool) : Statement (.linkChange port up) := of_none _
theorem frameReceive (port : Fin 4) (pcp : Option (Fin 8)) (dscp : Fin 64) (len : Nat) (rtcp : Bool) (ce : Bool) (drained : Nat) : Statement (.frameReceive port pcp dscp len rtcp ce drained) := of_none _
theorem pfcRefresh : Statement (.pfcRefresh) := of_none _
theorem pfcResume (port : Fin 4) (prio : Fin 8) (drained : Nat) : Statement (.pfcResume port prio drained) := of_none _
theorem pauseReceive (port : Fin 4) (prio : Fin 8) (quanta : BitVec 16) : Statement (.pauseReceive port prio quanta) := of_none _
theorem pfcWatchdog (port : Fin 4) (prio : Fin 8) : Statement (.pfcWatchdog port prio) := of_none _
theorem rdmaRequestReceive (qp : Fin 4096) (op : RdmaOp) (rkey : Word) (addr : Dword) (ce : Bool) : Statement (.rdmaRequestReceive qp op rkey addr ce) := of_none _
theorem rdmaAckReceive (qp : Fin 4096) (n : Nat) (bytes : List Byte) (ce : Bool) : Statement (.rdmaAckReceive qp n bytes ce) := of_none _
theorem rdmaNakReceive (qp : Fin 4096) (kind : Nak) : Statement (.rdmaNakReceive qp kind) := of_none _
theorem rdmaRetransmit (qp : Fin 4096) : Statement (.rdmaRetransmit qp) := of_none _
theorem cnpReceive (qp : Fin 4096) : Statement (.cnpReceive qp) := of_none _
theorem ccRateRise (qp : Fin 4096) : Statement (.ccRateRise qp) := of_none _
theorem qpReset (qp : Fin 4096) (w : Word) : Statement (.qpReset qp w) := of_none _
theorem qpReady (qp : Fin 4096) (w : Word) : Statement (.qpReady qp w) := of_none _
theorem qpCfgWrite (qp : Fin 4096) (w : Word) : Statement (.qpCfgWrite qp w) := of_none _
theorem ethCtrlWrite (port : Fin 4) (w : Word) : Statement (.ethCtrlWrite port w) := of_none _
theorem flowApply (tx : Bool) (flow : Fin 256) (w : Word) : Statement (.flowApply tx flow w) := of_none _
theorem st211020Packet (flow : Fin 256) (h : RtpHdr) (segs : List RowSeg) : Statement (.st211020Packet flow h segs) := of_none _
theorem st211030Packet (flow : Fin 256) (h : RtpHdr) (samples : List Nat) : Statement (.st211030Packet flow h samples) := of_none _
theorem thardaxPacketReceive (flow : Fin 256) (h : RtpHdr) (payload : List Byte) : Statement (.thardaxPacketReceive flow h payload) := of_none _
theorem egressInstant (flow : Fin 256) : Statement (.egressInstant flow) := of_none _
theorem ptpMessage (port : Fin 4) (domain : Nat) (m : PtpMsg) : Statement (.ptpMessage port domain m) := of_none _
theorem ptpDelayReq : Statement (.ptpDelayReq) := of_none _
theorem ppsEdge : Statement (.ppsEdge) := of_none _
theorem timeHoldover : Statement (.timeHoldover) := of_none _
theorem timeStep (w : Word) : Statement (.timeStep w) := of_none _
theorem timeSet (w : Word) : Statement (.timeSet w) := of_none _
theorem registerWrite (page : Fin 4096) (word : Fin 1024) (w : Word) : Statement (.registerWrite page word w) := of_none _
theorem pgErrClear (page : Fin 4096) (w : Word) : Statement (.pgErrClear page w) := of_none _
theorem quiesceReqSet (page : Fin 4096) : Statement (.quiesceReqSet page) := of_none _
theorem quiesceDone (page : Fin 4096) : Statement (.quiesceDone page) := of_none _
theorem quiesceReqClear (page : Fin 4096) : Statement (.quiesceReqClear page) := of_none _
theorem resetReq (page : Fin 4096) : Statement (.resetReq page) := of_none _
theorem powerDownReq (page : Fin 4096) : Statement (.powerDownReq page) := of_none _
theorem powerUpReq (page : Fin 4096) : Statement (.powerUpReq page) := of_none _
theorem enableClear (page : Fin 4096) : Statement (.enableClear page) := of_none _
theorem enableSet (page : Fin 4096) : Statement (.enableSet page) := of_none _
theorem doorbell (q : Fin 256) (d : Dword) : Statement (.doorbell q d) := of_none _
theorem cqHeadWrite (r : Fin 256) (w : Word) : Statement (.cqHeadWrite r w) := of_none _
theorem q0EnSet : Statement (.q0EnSet) := of_none _
theorem q0EnTakeEffect : Statement (.q0EnTakeEffect) := of_none _
theorem q0EnClear : Statement (.q0EnClear) := of_none _
theorem entryFetch (pkgs : List Package) (remote : List (List Byte)) : Statement (.entryFetch pkgs remote) := of_none _
theorem fenceRelease (q : Fin 256) (pkg : Package) (remote : List Byte) : Statement (.fenceRelease q pkg remote) := of_none _
theorem nop (q : Fin 256) (e : Entry) : Statement (.nop q e) := of_none _
theorem sqCreate (q : Fin 256) (e : Entry) : Statement (.sqCreate q e) := of_none _
theorem sqDelete (q : Fin 256) (e : Entry) : Statement (.sqDelete q e) := of_none _
theorem cqCreate (q : Fin 256) (e : Entry) : Statement (.cqCreate q e) := of_none _
theorem cqDelete (q : Fin 256) (e : Entry) : Statement (.cqDelete q e) := of_none _
theorem ensForm (q : Fin 256) (e : Entry) : Statement (.ensForm q e) := of_none _
theorem ensDissolve (q : Fin 256) (e : Entry) : Statement (.ensDissolve q e) := of_none _
theorem retire (q : Fin 256) (e : Entry) : Statement (.retire q e) := of_none _
theorem readmit (q : Fin 256) (e : Entry) : Statement (.readmit q e) := of_none _
theorem repair (q : Fin 256) (e : Entry) (remote : List Byte) : Statement (.repair q e remote) := of_none _
theorem promote (q : Fin 256) (e : Entry) : Statement (.promote q e) := of_none _
theorem cswApply (q : Fin 256) (e : Entry) (remote : List Byte) : Statement (.cswApply q e remote) := of_none _
theorem attest (q : Fin 256) (e : Entry) : Statement (.attest q e) := of_none _
theorem chCreate (q : Fin 256) (e : Entry) : Statement (.chCreate q e) := of_none _
theorem chDestroy (q : Fin 256) (e : Entry) : Statement (.chDestroy q e) := of_none _
theorem pkgLoad (q : Fin 256) (e : Entry) (pkg : Package) : Statement (.pkgLoad q e pkg) := of_none _
theorem pkgLoadComplete (handle : Word) : Statement (.pkgLoadComplete handle) := of_none _
theorem chBind (q : Fin 256) (e : Entry) : Statement (.chBind q e) := of_none _
theorem chIo (q : Fin 256) (e : Entry) : Statement (.chIo q e) := of_none _
theorem chPrepare (q : Fin 256) (e : Entry) : Statement (.chPrepare q e) := of_none _
theorem chStart (q : Fin 256) (e : Entry) : Statement (.chStart q e) := of_none _
theorem chStop (q : Fin 256) (e : Entry) : Statement (.chStop q e) := of_none _
theorem chSet (q : Fin 256) (e : Entry) : Statement (.chSet q e) := of_none _
theorem statsSet (q : Fin 256) (e : Entry) : Statement (.statsSet q e) := of_none _
theorem chEnsemble (q : Fin 256) (e : Entry) : Statement (.chEnsemble q e) := of_none _
theorem chContinue (q : Fin 256) (e : Entry) : Statement (.chContinue q e) := of_none _
theorem forceIntra (q : Fin 256) (e : Entry) : Statement (.forceIntra q e) := of_none _
theorem streamIn (q : Fin 256) (e : Entry) : Statement (.streamIn q e) := of_none _
theorem outHead (q : Fin 256) (e : Entry) : Statement (.outHead q e) := of_none _
theorem resume (q : Fin 256) (e : Entry) : Statement (.resume q e) := of_none _
theorem cancel (q : Fin 256) (e : Entry) : Statement (.cancel q e) := of_none _
theorem tensor (q : Fin 256) (e : Entry) : Statement (.tensor q e) := of_none _
theorem comp (q : Fin 256) (e : Entry) : Statement (.comp q e) := of_none _
theorem liveBind (q : Fin 256) (e : Entry) (remote : List Byte) : Statement (.liveBind q e remote) := of_none _
theorem liveUnbind (q : Fin 256) (e : Entry) : Statement (.liveUnbind q e) := of_none _
theorem recordPost (r : Fin 256) : Statement (.recordPost r) := of_none _
theorem completionWordWrite (r : Fin 256) : Statement (.completionWordWrite r) := of_none _
theorem completionWriteFail (r : Fin 256) : Statement (.completionWriteFail r) := of_none _
theorem hifChProbeWrite (w : Word) : Statement (.hifChProbeWrite w) := of_none _
theorem rgvProbeWrite (w : Word) : Statement (.rgvProbeWrite w) := of_none _
theorem xltInvalidate (w : Word) : Statement (.xltInvalidate w) := of_none _
theorem xltInvalDone : Statement (.xltInvalDone) := of_none _
theorem hoPoolWrite (w : Word) : Statement (.hoPoolWrite w) := of_none _
theorem gatherWrite (w : Word) : Statement (.gatherWrite w) := of_none _
theorem logRdWrite (w : Word) : Statement (.logRdWrite w) := of_none _
theorem ctrSampleGo (w : Word) : Statement (.ctrSampleGo w) := of_none _
theorem ctrSampleDone (coincident : Bool) : Statement (.ctrSampleDone coincident) := of_none _
theorem trcEnable (p : Fin 68) (w : Word) : Statement (.trcEnable p w) := of_none _
theorem trcArm (p : Fin 68) (w : Word) : Statement (.trcArm p w) := of_none _
theorem trcNow (p : Fin 68) (w : Word) : Statement (.trcNow p w) := of_none _
theorem traceDrain (p : Fin 68) : Statement (.traceDrain p) := of_none _
theorem dbgHalt (p : Fin 68) (t : Fin 8) : Statement (.dbgHalt p t) := of_none _
theorem dbgResume (p : Fin 68) (t : Fin 8) : Statement (.dbgResume p t) := of_none _
theorem dbgStep (p : Fin 68) (t : Fin 8) : Statement (.dbgStep p t) := of_none _
theorem dbgDataWrite (hi : Bool) (w : Word) : Statement (.dbgDataWrite hi w) := of_none _
theorem pairJoin : Statement (.pairJoin) := of_none _
theorem joinReceive (h : PairHdr) (payload : List Byte) : Statement (.joinReceive h payload) := of_none _
theorem joinSigReceive (h : PairHdr) (sig : List Byte) : Statement (.joinSigReceive h sig) := of_none _
theorem beatSend : Statement (.beatSend) := of_none _
theorem beatReceive (h : PairHdr) (st : Nat) (commits : Nat) : Statement (.beatReceive h st commits) := of_none _
theorem beatPeriodMissed : Statement (.beatPeriodMissed) := of_none _
theorem forward (h : PairHdr) (e : Entry) (pkg : Package) (remote : List Byte) (ok : Bool) : Statement (.forward h e pkg remote ok) := of_none _
theorem mirrorPoint (handle : Word) : Statement (.mirrorPoint handle) := of_none _
theorem commit (h : PairHdr) (handle : Word) (pic : Word) (bytes : Dword) (pt : Machine.Chan) : Statement (.commit h handle pic bytes pt) := of_none _
theorem ack (h : PairHdr) (handle : Word) (pic : Word) : Statement (.ack h handle pic) := of_none _
theorem jobDispatch (id : Nat) : Statement (.jobDispatch id) := of_none _
theorem contextSwap (handle : Word) : Statement (.contextSwap handle) := of_none _
theorem instructionRetire (p : Fin 68) (t : Fin 8) : Statement (.instructionRetire p t) := of_none _
theorem cueIssue (p : Fin 68) (t : Fin 8) : Statement (.cueIssue p t) := of_none _
theorem cueIssueUnpark (p : Fin 68) (t : Fin 8) : Statement (.cueIssueUnpark p t) := of_none _
theorem cueTry (p : Fin 68) (t : Fin 8) : Statement (.cueTry p t) := of_none _
theorem semWait (p : Fin 68) (t : Fin 8) : Statement (.semWait p t) := of_none _
theorem semWaitTake (p : Fin 68) (t : Fin 8) : Statement (.semWaitTake p t) := of_none _
theorem semTry (p : Fin 68) (t : Fin 8) : Statement (.semTry p t) := of_none _
theorem semPost (p : Fin 68) (t : Fin 8) : Statement (.semPost p t) := of_none _
theorem remotePostArrive (p : Fin 68) (src : Fin 68) : Statement (.remotePostArrive p src) := of_none _
theorem semRead (p : Fin 68) (t : Fin 8) : Statement (.semRead p t) := of_none _
theorem fenceCue (p : Fin 68) (t : Fin 8) : Statement (.fenceCue p t) := of_none _
theorem fenceCueRelease (p : Fin 68) (t : Fin 8) : Statement (.fenceCueRelease p t) := of_none _
theorem bar (p : Fin 68) (t : Fin 8) : Statement (.bar p t) := of_none _
theorem yield (p : Fin 68) (t : Fin 8) : Statement (.yield p t) := of_none _
theorem yieldPoint (id : Nat) : Statement (.yieldPoint id) := of_none _
theorem jobEnd (p : Fin 68) (t : Fin 8) : Statement (.jobEnd p t) := of_none _
theorem jobFinish (id : Nat) : Statement (.jobFinish id) := of_none _
theorem cueNop (p : Fin 68) (cls : Nat) : Statement (.cueNop p cls) := of_none _
theorem macPsum (p : Fin 68) : Statement (.macPsum p) := of_none _
theorem vecElt (p : Fin 68) : Statement (.vecElt p) := of_none _
theorem vecFunc (p : Fin 68) : Statement (.vecFunc p) := of_none _
theorem vecConv (p : Fin 68) : Statement (.vecConv p) := of_none _
theorem vecScale (p : Fin 68) : Statement (.vecScale p) := of_none _
theorem vecAdam (p : Fin 68) : Statement (.vecAdam p) := of_none _
theorem vecWarp (p : Fin 68) : Statement (.vecWarp p) := of_none _
theorem vecReduce (p : Fin 68) : Statement (.vecReduce p) := of_none _
theorem vecMove (p : Fin 68) : Statement (.vecMove p) := of_none _
theorem vecQlat (p : Fin 68) : Statement (.vecQlat p) := of_none _
theorem tabLookup (p : Fin 68) : Statement (.tabLookup p) := of_none _
theorem tabBucket (p : Fin 68) : Statement (.tabBucket p) := of_none _
theorem shdStart (by_ : Starter) : Statement (.shdStart by_) := of_none _
theorem shdRearm (p : Fin 68) : Statement (.shdRearm p) := of_none _
theorem shdClose (p : Fin 68) : Statement (.shdClose p) := of_none _
theorem treNttconv (p : Fin 68) : Statement (.treNttconv p) := of_none _
theorem treFftconv (p : Fin 68) : Statement (.treFftconv p) := of_none _
theorem treFft (p : Fin 68) : Statement (.treFft p) := of_none _
theorem treIfft (p : Fin 68) : Statement (.treIfft p) := of_none _
theorem rlyKeep (p : Fin 68) : Statement (.rlyKeep p) := of_none _
theorem cueComplete (p : Fin 68) (cls : Nat) : Statement (.cueComplete p cls) := of_none _
theorem playerUpset (p : Fin 68) (kind : Nat) (cls : Nat) (place : Nat) : Statement (.playerUpset p kind cls place) := of_none _
theorem playerWatchdog (p : Fin 68) : Statement (.playerWatchdog p) := of_none _
theorem streamStall (id : Nat) : Statement (.streamStall id) := of_none _
theorem jobStop (id : Nat) : Statement (.jobStop id) := of_none _
theorem stagehandDrainEnd (sh : Nat) : Statement (.stagehandDrainEnd sh) := of_none _
theorem streamTileDone (sh : Nat) (slot : Fin 6) (far : List Byte) (idx : List Byte) : Statement (.streamTileDone sh slot far idx) := of_none _
theorem streamPassEnd (sh : Nat) (slot : Fin 6) : Statement (.streamPassEnd sh slot) := of_none _
theorem streamHalt (sh : Nat) (slot : Fin 6) (far : List Byte) (idx : List Byte) (at_ : SharedAt) : Statement (.streamHalt sh slot far idx at_) := of_none _
theorem haltTimeout (sh : Nat) (slot : Fin 6) : Statement (.haltTimeout sh slot) := of_none _
theorem fetchStart : Statement (.fetchStart) := of_none _
theorem fetchComplete (id : Nat) : Statement (.fetchComplete id) := of_none _
theorem xltWalk (handle : Word) (va : Dword) (write : Bool) (halts : Bool) (job : Option Nat) : Statement (.xltWalk handle va write halts job) := of_none _
theorem lpddrRead (a : Nat) (job : Option Nat) (ecc : Ecc) : Statement (.lpddrRead a job ecc) := of_none _
theorem lpddrWrite (a : Nat) (off : Nat) (bytes : List Byte) (job : Option Nat) (ecc : Ecc) : Statement (.lpddrWrite a off bytes job ecc) := of_none _
theorem scrubLine (a : Nat) (ecc : Ecc) (raced : Bool) : Statement (.scrubLine a ecc raced) := of_none _
theorem shsEccError (offset : Nat) (double : Bool) (job : Option Nat) : Statement (.shsEccError offset double job) := of_none _
theorem creditGrant (n : Nat) : Statement (.creditGrant n) := of_none _
theorem handoverTile (n : Nat) (num : Fin 64) (bytes : List Byte) : Statement (.handoverTile n num bytes) := of_none _
theorem creditReturn (n : Nat) (num : Fin 64) : Statement (.creditReturn n num) := of_none _
theorem relayAccept (p : Fin 68) : Statement (.relayAccept p) := of_none _
theorem relaySliceSend (w : Fin 4) (far : List Byte) : Statement (.relaySliceSend w far) := of_none _
theorem relaySliceArrive (w : Fin 4) (k : Nat) : Statement (.relaySliceArrive w k) := of_none _
theorem relayStreamEnd (w : Fin 4) : Statement (.relayStreamEnd w) := of_none _
theorem relayParityError (w : Fin 4) (k : Nat) : Statement (.relayParityError w k) := of_none _
theorem lineTimeout (handle : Word) : Statement (.lineTimeout handle) := of_none _
theorem sliceRelease (handle : Word) : Statement (.sliceRelease handle) := of_none _
theorem rowCommit (id row : Nat) : Statement (.rowCommit id row) := of_none _
theorem gatherRow (id row : Nat) : Statement (.gatherRow id row) := of_none _
theorem codePhaseStart : Statement (.codePhaseStart) := of_none _
theorem sliceClose : Statement (.sliceClose) := of_none _
theorem sliceEmit (handle : Word) : Statement (.sliceEmit handle) := of_none _
theorem audioFrameCode (id : Nat) (handle seq : Word) : Statement (.audioFrameCode id handle seq) := of_none _
theorem tableBankLoad (id : Nat) : Statement (.tableBankLoad id) := of_none _
theorem rcaParityError (at_ : Nat) : Statement (.rcaParityError at_) := of_none _
theorem adapterSetComplete (id : Nat) (handle seq : Word) : Statement (.adapterSetComplete id handle seq) := of_none _
theorem seqSegment (handle : Word) (far : List Byte) : Statement (.seqSegment handle far) := of_none _
theorem picSegment (handle : Word) (far : List Byte) : Statement (.picSegment handle far) := of_none _
theorem slcSegment (handle : Word) (far : List Byte) : Statement (.slcSegment handle far) := of_none _
theorem audSegment (handle : Word) (far : List Byte) : Statement (.audSegment handle far) := of_none _
theorem adpSegment (handle : Word) (far : List Byte) : Statement (.adpSegment handle far) := of_none _
theorem endSegment (handle : Word) (far : List Byte) : Statement (.endSegment handle far) := of_none _
theorem padSegment (handle : Word) (far : List Byte) : Statement (.padSegment handle far) := of_none _
theorem reservedSegment (handle : Word) (far : List Byte) : Statement (.reservedSegment handle far) := of_none _
theorem deliveryWrite (id : Nat) : Statement (.deliveryWrite id) := of_none _
theorem fscStore (job : Option Nat) (n : Nat) (mismatch : Bool) (far : List Byte) : Statement (.fscStore job n mismatch far) := of_none _
theorem fscLoad (id : Nat) (far : List Byte) : Statement (.fscLoad id far) := of_none _
theorem blockResetDone (page : Fin 4096) : Statement (.blockResetDone page) := of_none _
theorem traceSyncPeriod (p : Fin 68) : Statement (.traceSyncPeriod p) := of_none _

end Sys2Proof.Laws.NoWord
end

