-- ==== Sys2Proof/Laws/Spec.lean ====
section
/-! SUPPORT. Reading registers, counters and pins after the shared operations. -/

namespace Sys2Proof.Machine

theorem rf_keeps {l : List Nat} {s t : State} (h : KeepsRegs l s t) (p : Nat) (f : Fld) (hn : regKey p f.off ∉ l) : t.rf p f = s.rf p f := by
  have := h.same _ hn
  simp only [State.rf, State.reg]
  simp only [regKey] at this
  rw [this]

theorem reg_keeps {l : List Nat} {s t : State} (h : KeepsRegs l s t) (p o : Nat) (hn : regKey p o ∉ l) : t.reg p o = s.reg p o := by
  have := h.same _ hn
  simp only [State.reg]
  simp only [regKey] at this
  rw [this]

theorem count_keeps {l : List Nat} {s t : State} (h : KeepsCtrs l s t) (p i : Nat) (hn : ctrKey p i ∉ l) : t.count p i = s.count p i := h.same _ hn

theorem pins_alert (s : State) : (alertUpdate s).pins = { s.pins with alertN := (alertUpdate s).pins.alertN } := by
  unfold alertUpdate
  dsimp only
  split
  · split <;> rfl
  · split <;> rfl

theorem pins_record (page code : Nat) (s : State) : (record page code s).pins = { s.pins with alertN := (record page code s).pins.alertN } := by
  unfold record
  dsimp only
  rw [pins_alert]
  split <;> rfl

theorem pins_board (a b c d e f : Nat) (s : State) : (board a b c d e f s).pins = { s.pins with alertN := (board a b c d e f s).pins.alertN } := by
  unfold board
  split
  · rw [pins_alert]; rfl
  · rfl

theorem pins_postFull (page code a b c d : Nat) (s : State) : (postFull page code a b c d s).pins = { s.pins with alertN := (postFull page code a b c d s).pins.alertN } := by
  unfold postFull
  dsimp only
  split
  · rw [pins_board, pins_record]
  · exact pins_record _ _ _

theorem pins_post (page code : Nat) (s : State) : (post page code s).pins = { s.pins with alertN := (post page code s).pins.alertN } := pins_postFull _ _ _ _ _ _ _

theorem tget?_filter {α : Type} (q : Nat → Bool) (t : Tbl α) (k : Nat) : tget? (t.filter (fun e => q e.1)) k = if q k then tget? t k else none := by
  induction t with
  | nil => simp [tget?]
  | cons e t ih =>
    obtain ⟨i, v⟩ := e
    by_cases hq : q i = true
    · simp only [List.filter_cons, hq, if_true, tget?]
      by_cases hk : i = k
      · subst hk; simp [hq]
      · simp [hk, ih]
    · simp only [List.filter_cons, hq, tget?]
      by_cases hk : i = k
      · subst hk; simp [hq, ih]
      · simp [hk, ih]

theorem tget_filter {α : Type} (q : Nat → Bool) (t : Tbl α) (d : α) (k : Nat) : tget (t.filter (fun e => q e.1)) d k = if q k then tget t d k else d := by
  simp only [tget, tget?_filter]; split <;> simp_all

theorem dieReset_reg (s : State) (p o : Nat) : (dieReset s).reg p o = if keptReg (p * 4096 + o) then s.reg p o else regReset (p * 4096 + o) := by
  simp only [State.reg, dieReset]; exact tget_filter keptReg _ _ _

theorem dieReset_count (s : State) (p i : Nat) : (dieReset s).count p i = if (p * 32 + i) / 32 = 3 then s.count p i else 0 := by
  simp only [State.count, dieReset]
  have := tget_filter (fun k => decide (k / 32 = 3)) s.ctr 0 (p * 32 + i)
  simpa using this

end Sys2Proof.Machine
end

