-- ==== Sys2Proof/Laws/Sent.lean ====
section
/-! SUPPORT. Handing a message to a port does what `Sent` (Safety.lean) says. -/

namespace Sys2Proof.Machine

theorem sendOn_sent (port prio : Nat) (m : Msg) (s : State) : Sent port prio m s (sendOn port prio m s) := by
  unfold Sent sendOn
  simp only [rf_bump]
  by_cases h : bits (s.rf (4 + port) Reg.ETH_STAT_PEER_PAUSED) prio 1 = 1 ∧ bits (s.rf (4 + port) Reg.ETH_STAT_WD_ACTIVE) prio 1 = 0
  · simp only [h, and_self, if_true]
    refine ⟨rfl, ?_⟩
    simp only [tget_tput_same]
    rfl
  · simp only [h, if_false]
    exact ⟨rfl, rfl⟩

/-- What was sent before the registers, the outbox and the ports changed is sent of the state before. -/
theorem Sent.of {port prio : Nat} {m : Msg} {s u t : State} (hr : u.regs = s.regs) (ho : u.out = s.out) (hp : u.ports = s.ports)
    (h : Sent port prio m u t) : Sent port prio m s t := by
  have e : ∀ p f, u.rf p f = s.rf p f := by
    intro p f
    simp only [State.rf, State.reg, hr]
  unfold Sent at *
  simpa only [e, ho, hp] using h

/-- What happens after a message is sent and touches neither the outbox nor the ports leaves it sent. -/
theorem Sent.after {port prio : Nat} {m : Msg} {s u t : State} (h : Sent port prio m s u) (ho : t.out = u.out) (hp : t.ports = u.ports) :
    Sent port prio m s t := by
  unfold Sent at *
  rw [ho, hp]
  exact h

end Sys2Proof.Machine
end

