-- ==== Sys2Proof/Tests/Slice0.lean ====
section
/-! SUPPORT. Tests: the checks of WellFormed, worked examples of the spec, and for every statement of Certificates/Slice0/Obligations.lean
states and operands that meet the hypotheses of each of its clauses (`test_<statement>_met`, one conjunct for a clause). A signature that
verifies and a digest rest on functions of Config that have no body: the witnesses of those clauses take them as functions they may be
(`hv`, `hf`: what verifies; `hk`: a digest of zeros). -/

namespace Sys2Proof.Tests

open Sys2Proof.Machine

set_option Elab.async false
set_option maxRecDepth 20000
set_option exponentiation.threshold 4096

/-! The checks of WellFormed -/

def ldHdr : LoadHdr := { ip := 1, port := 2, dest := 3, head := List.replicate 16 0 }
def prHdr : PairHdr := { head := List.replicate 24 0 }
def rtHdr : RtpHdr := { src := 1, dest := 2, dport := 3, ssrc := 4, pt := 5, seq := 6, timestamp := 7, marker := false }

/-- One well-formed term for every constructor with a check. -/
theorem test_wellFormed_accepts :
    ([.tempSample (List.replicate 32 20) 20, .hello ldHdr 1 2 3 4, .data ldHdr 0 [], .endImage ldHdr, .abortLoad ldHdr, .rdmaRequestReceive 1 (.read 8) 0 0 false,
      .st211020Packet 0 rtHdr [], .st211030Packet 0 rtHdr [], .thardaxPacketReceive 0 rtHdr [], .ptpMessage 0 0 .announce, .joinReceive prHdr [], .joinSigReceive prHdr [],
      .beatReceive prHdr 6 0, .forward prHdr 0 {} [] true, .commit prHdr 0 0 0 {}, .ack prHdr 0 0, .cueNop 0 6, .cueComplete 0 1, .playerUpset 0 0 0 0,
      .playerUpset 0 2 5 0, .playerUpset 0 3 0 7, .stagehandDrainEnd 67, .stagehandDrainEnd 0x87, .streamTileDone 0x80 0 [] [], .streamPassEnd 0 5,
      .streamHalt 0 0 [] [] { job := none, chan := 0, va := 0, write := false, pos := 0 }, .haltTimeout 0 0, .lpddrRead 0x3DFFFFFFFF none .clean,
      .lpddrWrite 0 63 [1] none .clean, .scrubLine 0 .clean false, .shsEccError 0x3FFFFFF true none, .rcaParityError 9] : List Instr).all WellFormed = true := by decide +kernel

/-- A load header with one field out of its range is refused, in each message. -/
theorem test_wellFormed_refuses_load_headers :
    ([{ ldHdr with ip := 2 ^ 32 }, { ldHdr with port := 2 ^ 16 }, { ldHdr with dest := 2 ^ 32 }, { ldHdr with head := List.replicate 15 0 }] : List LoadHdr).all (fun h =>
      !WellFormed (.hello h 1 2 3 4) && !WellFormed (.data h 0 []) && !WellFormed (.endImage h) && !WellFormed (.abortLoad h)) = true := by decide +kernel

theorem test_wellFormed_refuses_load_fields :
    ([.hello ldHdr (2 ^ 32) 2 3 4, .hello ldHdr 1 (2 ^ 24) 3 4, .hello ldHdr 1 2 (2 ^ 24) 4, .hello ldHdr 1 2 3 (2 ^ 32), .data ldHdr (2 ^ 32) []] : List Instr).any WellFormed = false := by
  decide +kernel

/-- An RTP header with one field out of its range is refused, in each packet. -/
theorem test_wellFormed_refuses_rtp_headers :
    ([{ rtHdr with src := 2 ^ 32 }, { rtHdr with dest := 2 ^ 32 }, { rtHdr with dport := 2 ^ 16 }, { rtHdr with ssrc := 2 ^ 32 }, { rtHdr with pt := 128 },
      { rtHdr with seq := 2 ^ 16 }, { rtHdr with timestamp := 2 ^ 32 }] : List RtpHdr).all (fun h =>
      !WellFormed (.st211020Packet 0 h []) && !WellFormed (.st211030Packet 0 h []) && !WellFormed (.thardaxPacketReceive 0 h [])) = true := by decide +kernel

theorem test_wellFormed_refuses_rdma_lengths :
    WellFormed (.rdmaRequestReceive 1 (.read (2 ^ 32)) 0 0 false) = false ∧ WellFormed (.rdmaRequestReceive 1 (.write (List.replicate (2 ^ 32) 0)) 0 0 false) = false ∧
    WellFormed (.rdmaRequestReceive 1 (.send (List.replicate (2 ^ 32) 0)) 0 0 false) = false := by
  simp only [WellFormed, RdmaOp.wf, List.length_replicate]; decide

theorem test_wellFormed_refuses_pair_messages :
    let h := { prHdr with head := List.replicate 23 0 }
    ([.joinReceive h [], .joinSigReceive h [], .beatReceive h 0 0, .beatReceive prHdr 7 0, .beatReceive prHdr 0 (2 ^ 32), .forward h 0 {} [] true, .commit h 0 0 0 {},
      .ack h 0 0, .ptpMessage 0 128 .announce, .tempSample (List.replicate 33 20) 20] : List Instr).any WellFormed = false := by decide +kernel

theorem test_wellFormed_refuses_players_and_lines :
    ([.cueNop 0 0, .cueNop 0 7, .cueComplete 0 0, .cueComplete 0 7, .playerUpset 0 4 0 0, .playerUpset 0 2 4 0, .playerUpset 0 3 0 8, .stagehandDrainEnd 68,
      .streamTileDone 0x88 0 [] [], .streamPassEnd 0x7F 0, .streamHalt 68 0 [] [] { job := none, chan := 0, va := 0, write := false, pos := 0 }, .haltTimeout 68 0,
      .lpddrRead 0x3E00000000 none .clean, .lpddrWrite 0x3E00000000 0 [1] none .clean, .lpddrWrite 0 64 [1] none .clean, .lpddrWrite 0 0 [] none .clean,
      .lpddrWrite 0 63 [1, 2] none .clean, .scrubLine 0x3E00000000 .clean false, .shsEccError (2 ^ 26) true none, .rcaParityError 10] : List Instr).any WellFormed = false := by
  decide +kernel

/-! Worked examples of the spec -/

/-- FP32 sources converted to E4M3i, E5M2 and INT8 (spec/02, the example of R58's table). -/
theorem test_conversion_examples :
    toFloat e4m3i (.ofInt 17) = (0x58, .plain) ∧ toFloat e4m3i (.ofInt 19) = (0x5A, .plain) ∧ toFloat e4m3i (.ofInt (-17)) = (0xD8, .plain) ∧
    toFloat e4m3i (.ofInt 247) = (0x77, .plain) ∧ toFloat e4m3i (.fin false (248 * 65536 - 1) (-16)) = (0x77, .plain) ∧
    toFloat e4m3i (.ofInt 248) = (0x78, .clip) ∧ toFloat e4m3i (.fin false 1 (-10)) = (0, .underflow) ∧
    toFloat e4m3i (.fin false 3 (-10)) = (0x02, .underflow) ∧ toFloat e5m2 (.ofInt 61439) = (0x7B, .plain) := by decide +kernel

/-- Scaling by a tensor exponent and rounding (spec/03, the example of R87): x = 1.125 under e = -2. -/
theorem test_scaling_example :
    convert 1 (-2) 0 (.fin false 9 (-3)) = (5, .plain) ∧ convert 1 (-2) 0 (.fin true 9 (-3)) = (0xFB, .plain) ∧ convert 4 (-2) 0 (.fin false 9 (-3)) = (0x44, .plain) ∧
    convert 4 (-2) 0 (.fin true 9 (-3)) = (0xC4, .plain) ∧ convert 1 (-2) (-3) (.fin false 9 (-3)) = (2, .plain) := by decide +kernel

/-- Requantisation rounds ties away from zero (spec/02, the example of R66: y before the bounds LO and HI). -/
theorem test_requantise_example :
    (requantise 373 { m := 8, s := 4, zp := -3, lo := -999, hi := 999 }).1 = 184 ∧ (requantise (-373) { m := 8, s := 4, zp := -3, lo := -999, hi := 999 }).1 = -190 := by
  decide +kernel

/-- Table interpolation (spec/02, the example of R70). -/
theorem test_lookup_example :
    tableLookup (fun i => if i = 300 then 1000 else 1005) 5696 = 1003 ∧ tableLookup (fun i => if i = 300 then 1000 else 995) 5696 = 997 := by decide +kernel

/-- A warp tap clamped at the left edge (spec/02, the example of R72). -/
theorem test_warp_example : warp (fun y x => if x = 0 ∧ y = 2 then 100 else if x = 0 ∧ y = 3 then 101 else 0) 64 64 (-72) 8 3 2 = 101 := by decide +kernel

/-- The exponents of a delayed tensor (spec/03, the example of R94). -/
theorem test_scale_exponent_example :
    scaleExponent (.ofInt 3) 0 240 (-40) 40 = -6 ∧ scaleExponent (.ofInt 40) 0 240 (-40) 40 = -2 ∧ scaleExponent (.fin false 1 (-12)) 0 240 (-40) 40 = -19 := by decide +kernel

/-- Output sizes of a window layer (spec/05, the examples of R163). -/
theorem test_window_examples :
    windowOut 1080 3 1 2 1 1 = 540 ∧ windowOut 1080 2 1 4 0 0 = 270 ∧ windowOut 4 7 2 1 0 0 = -8 ∧ windowOut 4 7 2 1 6 6 = 4 ∧ windowOut 4 7 1 1 8 8 = 14 ∧
    windowOut 8 3 16 1 16 16 = 8 := by decide +kernel

/-- Lane 0 of a substream (spec/08, the example of R298); the other lanes carry symbols that leave their state. -/
theorem test_range_coding_example :
    let l := (2000, 50) :: List.replicate 7 (0, 65536) ++ (60000, 700) :: List.replicate 7 (0, 65536) ++ [(5120, 1024)]
    (ransEncode l).take 4 = [0x00, 0x77, 0x08, 0x01] ∧ (ransEncode l).drop 32 = [0xEA, 0xDC] := by decide +kernel

/-- Tokens of the lossless code (spec/11, the example of R407). -/
theorem test_lossless_examples :
    (fscInflate 12 [0x03, 0x41, 0x42, 0x43, 0x44, 0x60, 0x03]).toOption = some [0x41, 0x42, 0x43, 0x44, 0x41, 0x42, 0x43, 0x44, 0x41, 0x42, 0x43, 0x44] ∧
    (match fscInflate 12 [0x03, 0x41, 0x42, 0x43, 0x44, 0x60, 0x04] with | .error e => e.1 | .ok _ => 0) = Code.E_FSC_DIST ∧
    (match fscInflate 15 [0x03, 0x41, 0x42, 0x43, 0x44, 0x78, 0x05] with | .error e => e.1 | .ok _ => 0) = Code.E_FSC_DIST := by decide +kernel

/-- A SAMPLE16 block at 4:1 (spec/11, the example of R413). -/
theorem test_fixed_ratio_example :
    let h := fixHead 1 3 [500, 520, 536, 540]
    h = 500 + 3 * 4096 ∧ fixValue 1 3 h (fixField 1 3 h 520).1 = 524 ∧ fixValue 1 3 h (fixField 1 3 h 536).1 = 540 ∧ fixValue 1 3 h (fixField 1 3 h 540).1 = 540 := by
  decide +kernel

/-- The size of a picture buffer (spec/10, the example of R369) and the division of a picture into slices (spec/07, the example of the segments). -/
theorem test_picture_examples :
    let h := hMake [(16, 36), (8, 1), (128, 0), (16, 3840), (16, 2160), (2, 0), (2, 1), (28, 0), (32, 60), (32, 1), (8, 0)]
    picBytes h 7680 = 24883200 ∧ seqBC h = 240 ∧ seqBR h = 135 ∧ seqHC h = 60 := by decide +kernel

/-- Concealed audio fades by three quarters, ties away from zero, and is silent from the ninth frame on (spec/10, the example of R405). -/
theorem test_audio_fade_example :
    ((List.range 8).foldl (fun (a : List (List Int)) i => a ++ [audFade false (i + 1) (a.getLastD [10, -10])]) [] =
      [[8, -8], [6, -6], [5, -5], [4, -4], [3, -3], [2, -2], [2, -2], [2, -2]]) ∧ audFade false 9 [2, -2] = [0, 0] := by decide +kernel

/-! Small states of the witnesses -/


/-- A cue sheet whose first instruction is `w`, for every thread in the mask. -/
def sheet (w : Nat) : List Byte := leBytes 4 w ++ List.replicate 60 0
/-- A tensor job on channel 0 that runs that sheet on player 0. -/
def job0 (w : Nat) : Job :=
  { chan := 0, seq := 1, work := .tensor, pkg := some { sheets := [(6, sheet w)] }, st := .running, players := [0] }
/-- Player 0 runs it in thread 0, whose registers are given. -/
def ply0 (x : Thread) (k : Player := {}) : Player := { k with st := 2, job := some 0, size := 1, threads := [(0, x)] }
def thr (regs : List (Nat × Nat)) : Thread := { st := 1, pc := 0x20000000, regs := regs }
def chan0 : Chan := { st := 3, ty := 5, seq := 1, slot := some 0, io := some {} }
def run (w : Nat) (regs : List (Nat × Nat)) (k : Player := {}) (j : Job := job0 w) : State :=
  { State.reset with players := [(0, ply0 (thr regs) k)], jobs := [(0, j)], nextJob := 1, chans := [(0, chan0)] }
/-- The thread of player 0 is in another state. -/
def park (st wait : Nat) (k : Player := {}) : State :=
  { run 0 [] with players := [(0, ply0 { thr [] with st := st, wait := wait } k)] }
/-- A cue is at the head of a queue of player 0. -/
def headed (cls cue : Nat) (c : QCue := { cue := cue, thread := 0 }) (k : Player := {}) : State := run 0 [] { k with queues := [(cls, [c])] }
/-- The queue of class 1 of player 0 holds sixteen cues. -/
def full : Player := { queues := [(1, List.replicate 16 { cue := 1, thread := 0 })] }
/-- The job of `run` holds players 0 and 1. -/
def pair (w : Nat) : Job := { job0 w with players := [0, 1] }
/-- The first players of the module count, and ring 0 stands. -/
def live (n : Nat) (s : State) : State :=
  (List.range n).foldl (fun a p => (a.wf (0x100 + p) Reg.PLY_IDX_LOGICAL p).wf (0x100 + p) Reg.PG_CTRL_ENABLE 1) { s with rings := [(0, { base := 0, log2n := 4 })] }
/-- Job 0 alone, on channel 0. -/
def alone (j : Job) (streams : Tbl Stream := []) (c : Chan := chan0) : State :=
  live 1 { State.reset with players := [(0, { st := 2, job := some 0, size := 1, threads := [(0, { thr [] with st := 6 })] })], jobs := [(0, j)], nextJob := 1, chans := [(0, c)], streams := streams }
def waiting : Job := { job0 0x13 with st := .ready, players := [] }
def comp0 : Job := { waiting with work := .comp { op := 0, mode := 0, elem := 0, width := 1, count := 1, src := 0, srcLen := 1, dst := 0, dstLen := 1 } }
/-- A cue of one of the queues of player 0, not started. -/
def nop (cue : Nat) : QCue := { cue := cue, thread := 0 }
/-- A MAC PSUM of one step of INT8 in the Script profile, which drains or not, and its frame. -/
def macCue (drain : Nat) : Nat := 0x11 + 2 ^ 24 + 2 ^ 28 + 2 * 2 ^ 32 + 66 * 2 ^ 48 + 70 * 2 ^ 64 + 2 ^ 80 + 2 ^ 111 + drain * 2 ^ 112
def macState (drain : Nat) : State :=
  ((headed 1 (macCue drain)).store (lsAddr 0 64) [0x41, 0, 0, 0, 1, 0, 0, 0, 0, 0, 67, 0, 68, 0, 0, 0, 0, 0, 1, 0, 1, 0]).store (lsAddr 0 (64 * 66)) [3]
/-- A TAB cue of one line, its table in line 2. -/
def tabCue (op : Nat) : Nat := 3 + 16 * op + 2 ^ 24 + 2 ^ 28 + 20 * 2 ^ 32 + 30 * 2 ^ 48 + 2 * 2 ^ 64
def rise (s : State) : State := (List.range 63).foldl (fun a i => a.store (lsAddr 0 (128 + 4 * i)) [BitVec.ofNat 8 i, BitVec.ofNat 8 0]) s
/-- A VEC cue of 64 elements, its frame in line 1. -/
def vecCue (op : Nat) : Nat := 2 + 16 * op + (if op = 9 ∨ op = 8 then 0 else 2 ^ 20) + 2 ^ 24 + 2 ^ 28 + 10 * 2 ^ 32 + 40 * 2 ^ 48 + 80 * 2 ^ 64 + 2 ^ 80
def adJob : Job := { job0 0 with pkg := some { sheets := [(6, sheet 0)], inputOf := [(0, 1)] } }
def vecState (op : Nat) : State := (({ headed 2 (vecCue op) with jobs := [(0, adJob)] } : State).store (lsAddr 0 66) [if op = 4 then 32 else 0]).store (lsAddr 0 640) [1, 2, 3]
def skips : State := { vecState 5 with jobs := [(0, { adJob with marks := [(1, (0, true))] })], chans := [(0, { chan0 with codec := { stat := List.replicate 16 0 ++ [1] } })] }
/-- A TRE cue, its frame in line 1. -/
def treCue (op : Nat) : Nat := 5 + 16 * op + (if op = 1 then 0 else 2 ^ 20) + 10 * 2 ^ 32 + 2000 * 2 ^ 48 + 4000 * 2 ^ 64 + 2 ^ 80
def treBytes (op l1 : Nat) : List Byte :=
  [if op ≤ 2 then 0 else 2, if op ≤ 2 then 0 else 6, 0x11, 0, 1, 1, 1, 1, 1, 0, 1, 0, 0, 0, if op = 1 then 1 else 0, 0] ++ leBytes 8 l1 ++ [0, 0, 5, 0, if op = 1 then 6 else 0, 0, 0, 0, 1, 0]
def treState (op : Nat) (c : QCue := nop (treCue op)) : State := (headed 5 0 c).store (lsAddr 0 64) (treBytes op (if op = 1 then 1 else 0))
def treOver (op : Nat) : State := (headed 5 (treCue op)).store (lsAddr 0 64) (treBytes op 0x7FFFFFFF80000000)
/-- A stream descriptor of one tile of four bytes of INT8: flags, kind and direction in byte 0. -/
def desc (kd flags : Nat) : List Byte :=
  [BitVec.ofNat 8 kd, BitVec.ofNat 8 flags, 0x11, 9, 1, 0, 0x41, 0] ++ List.replicate 8 0 ++ [100, 0, 1, 0, 4, 0, 1, 0, 1, 0, 1, 0, 1, 0, 0, 0] ++ List.replicate 20 0 ++
    (if kd = 3 then [2, 0] else [0, 0]) ++ List.replicate 10 0
/-- A relay descriptor: kind 3, tag 7, two slices. -/
def relayDesc : List Byte := (desc 3 0x18).take 0x30 ++ [7, 0, 0, 0, 2, 0] ++ List.replicate 10 0
def dJob (d : List Byte) : Job := { job0 0x13 with pkg := some { sheets := [(6, sheet 0x13)], descs := d } }
/-- A SHD cue of slot 1 that signals semaphore 3. -/
def shdCue (op : Nat) : Nat := 4 + 16 * op + 2 ^ 14 + 3 * 2 ^ 15 + 2 ^ 24
/-- Player 0 runs a job whose package holds one descriptor, a SHD cue at the head of its queue. -/
def shdState (op : Nat) (d : List Byte) (streams : Tbl Stream := []) : State :=
  { run 0x13 [] { queues := [(4, [nop (shdCue op)])], sems := [(3, 1)] } (dJob d) with streams := streams }
def strm (d : List Byte) : Stream := { chan := 0, job := some 0, desc := d }
/-- Partition 0 holds the first gigabytes; page 0 of channel 0 translates to 0x10000, or, where it is held, to nothing. -/
def part0 (s : State) : State := ((s.wf 0x20 Reg.XLT_PART_EN 1).wf 0x20 Reg.XLT_PART_LIMIT 4)
def mapped (s : State) : State := { part0 s with tlb := [{ index := 0, gen := (s.chan 0).gen, vpage := 0, base := 0x10000, w := true, level := 3 }] }
def heldPage (s : State) : State := (((part0 s).store 0x2000 (leBytes 8 0x3001)).store 0x3000 (leBytes 8 0x4001)).store 0x4000 [8]
def chanX : Chan := { chan0 with xltRoot := 0x2000 }
/-- A stream in slot 1 of player 0, with its page as `f` leaves it. -/
def sstate (f : State → State) (x : Stream) : State := f { shdState 1 x.desc [(1, x)] with chans := [(0, chanX)] }
/-- A request of slot 1 of player 0's stagehand is not acknowledged. -/
def waits0 (s : State) : State := { heldPage s with qps := [(1, { out := [{ msg := .rdmaRead 1 0 0 0, owner := .stream 0 1 (some 0) }] })] }
def edge0 (b : Option (List Byte)) (l : List (List Byte)) (f : Nat) : Edge := { num := 0, prod := 0, cons := 1, credits := 2, tileBytes := 16384, free := f, built := b, tiles := l, read := !l.isEmpty }
def chain0 (g : Bool) (b : Option (List Byte)) (l : List (List Byte)) (f : Nat) : ChainSt := { owner := .job 0, edges := [edge0 b l f], granted := g }
def chained (g : Bool) (b : Option (List Byte)) (l : List (List Byte)) (f : Nat) : State := { run 0x13 [] with chains := [chain0 g b l f] }
def edge1 : Edge := { num := 0, prod := 0x100, cons := 1, credits := 2, tileBytes := 1, free := 2 }
def chain1 : ChainSt := { owner := .job 0, edges := [edge1], granted := true }
/-- A relay stream of player 0 in slot 1, and its ring. -/
def rly : Relay := { tag := 7, job := 0, player := 0, slot := 1, base := 0, slices := 2, parts := [] }
def ringState (l : List Relay) (f : List Fly) : State := { shdState 1 relayDesc with chans := [(0, chanX)], relays := [(0, { streams := l, flying := f })] }
def fly : Fly := { tag := 7, job := 0, slice := 0, bytes := [1, 2, 3] }
def keepCue : Nat := 6 + 16 + 2 ^ 40 + 100 * 2 ^ 48 + 7 * 2 ^ 64
def keep1 : Keep := { tag := 7, first := 0, count := 2, dst := 100 }
def keptState (f : Fly) : State := { run 0x13 [] { keep := some keep1 } with relays := [(0, { streams := [rly], flying := [f] })] }
/-- A sequence header of `h` lines of no column, so that rows hold no elements. -/
def seqOf (h : Nat) : List Byte := hMake [(16, 36), (8, 1), (128, 0), (16, 0), (16, h), (4, 0), (28, 0), (32, 1), (32, 0), (8, 0)]
/-- An encode channel of one block row a slice, ungoverned (`rc` 2) or not, with an encoder and its inputs. -/
def encChan (rc : Nat) (h : Nat) (e : Enc) (inputs : List InPic := []) (k : Package := {}) : Chan :=
  { chan0 with ty := 0, bind := some ([1, BitVec.ofNat 8 rc, 0, 0, 0, 0, 0, 1, 0xFF, 0xFF, 0xFF, 0] ++ List.replicate 52 0), seqHdr := seqOf h, pkg := some k, io := some { inSlots := 1 }, codec := { started := true, enc := e, inputs } }
def inp0 : InPic := { num := 0, pts := 9, whole := some 0 }
def slc (st : Nat) (x : EncSlice := { first := 0, rows := 1, seq := 1 }) : EncSlice := { x with st }
def pic0 (l : List EncSlice) : EncPic := { n := 0, count := 0, pts := 9, input := 0, intra := true, started := true, head := [segment 0xA2 [1]], slices := l }
def encJob (w : Work) (st : JobState := .running) (k : Package := {}) : Job := { chan := 0, seq := 1, work := w, pkg := some k, st := st, unit := true, role := 0 }
def encState (c : Chan) (j : List (Nat × Job)) : State := { State.reset with chans := [(0, c)], jobs := j, nextJob := 1, rings := [(0, { base := 0, log2n := 4 })] }
/-- A slice of one picture on its channel, with its coding job. -/
def codeState (rc : Nat) (x : EncSlice) (st : JobState := .running) : State :=
  encState (encChan rc 32 { n := 1, ql := 1, pics := [pic0 [x]] } [inp0]) [(0, encJob (.slice 0 0) st)]
def codingOf (s : State) : Coding := (s.coding 0).getD ⟨encJob .tensor, 9, 9, pic0 [], slc 9⟩
def rowOf (g : Bool) : EncRow := { k := 0, ql := 0, curtain := false, gathered := g }
def banks (s : State) : State := { s with tableBanks := [some (modelId {}), none] }
def decPic0 : DecPic := { num := 0, count := 0, pts := 0, intra := true, refs := [], store := none, qlRow := false, ql := 0, sliceRows := 1, nslices := 2, lost := [0] }
def sliceJob0 (st : JobState) : Job := encJob (.decode 0 0 1 [] []) st
def decChan (d : Dec) : Chan := { chan0 with ty := 1, bind := some [], pkg := some {}, io := some { inBytes := 4096 }, codec := { started := true, dec := d } }
def audPkg : Package := { audSyms := some (0, 0) }
def audState (c : Chan) (j : Job) : State := { encState c [(0, j)] with tableBanks := [some (modelId audPkg), none] }
def tunJob (u : Bool) : Job := { encJob (.tune 0) .offstage with tuning := some { rank := 1, lat := [] }, updated := u }
/-- A sequence header of 64 columns and lines. -/
def seq64 (model aud : Nat) : List Byte := hMake [(16, 36), (8, 1), (128, model), (16, 64), (16, 64), (4, 0), (28, 0), (32, 1), (32, 0), (5, aud), (3, 0)]
/-- A decode channel, whose unread stream holds `b`; `r` is the second byte of its parameters. -/
def segState (b : List Byte) (d : Dec) (ty : Nat := 1) (aud : Aud := {}) : State :=
  mapped ((encState { decChan d with ty, bind := some ((if ty = 1 then 8 else 1) :: List.replicate 63 0), codec := { started := true, dec := d, aud, total := b.length } } []).store 0x10000 b)
/-- The parser stands on the marker. -/
def stood (s : State) : State := (toMarker 0 [] s).2
def behind (s : State) : List Byte := ((toMarker 0 [] s).1.map (·.2)).getD []
def picHdr : List Byte := mkPic 5 77 false [] 0 false 0 1 4 0
def slcBody (c : List Byte) : List Byte := mkSlc 5 0 0 1 c [2]
def picNow : DecPic := { num := 1, count := 5, pts := 77, intra := true, refs := [], store := none, qlRow := false, ql := 0, sliceRows := 1, nslices := 4 }
def adpHdr (id : Nat) : List Byte := hMake [(16, 26), (16, id), (8, 0), (8, 0), (32, 0), (128, 0)]
/-- A decoded, enhanced or audio unit whose computation has ended. -/
def unitState (ty : Nat) (r : List Byte) (w : Work) (io : Io) (d : Dec := {}) (st : JobState := .offstage) : State :=
  mapped (encState { chan0 with ty, bind := some (r ++ List.replicate 64 0), pkg := some {}, io := some io, codec := { started := true, dec := d } } [(0, { encJob w st with seg := [1, 2, 3] })])
/-- A coded audio frame behind its sequence header. -/
def audDone : State :=
  let s := unitState 2 [0] (.audEnc 6) { outBytes := 65536 }
  { s with chans := [(0, { s.chan 0 with codec := { (s.chan 0).codec with enc := { seqOut := true } } })] }
def compArgs (op : Nat) (n : Nat) : CompArgs := { op, mode := 2, elem := 1, width := 4, count := n, src := 0, srcLen := 64, dst := 512, dstLen := 512 }
/-- A lossless object of one literal run (R406, R407). -/
def fives : List Byte := fscHeader 1 0 0 4 5 (crc32c [5, 5, 5, 5]) ++ [3, 5, 5, 5, 5]
def compState (op n : Nat) (b : List Byte) : State :=
  mapped ((encState { chan0 with io := none } [(0, { encJob (.comp (compArgs op n)) with unit := true })]).store 0x10000 b)
def storeState (p : PicStore) (check : Nat) : State := ({ encState chan0 [] with stores := [p] } : State).wf 0x34 Reg.FSC_CTRL_SELFCHECK check
def store0 (n : Nat) : PicStore := { chan := 0, slot := 2, rows := List.replicate n [1, 1, 1, 1] }
def queue0 (o : Nat) : Queue := { base := 0x4000, log2n := 4, ring := 0, weight := 1, t := 1, openRecs := o }
def fenced (o : Nat) (fence : Bool) : State := ({ State.reset with queues := [(3, queue0 o)], rings := [(0, { base := 0, log2n := 4 })] } : State).store 0x4000 [1, if fence then 1 else 0]
def jobOf (s : State) : Job := (tget? s.jobs 0).getD (encJob .tensor)
def low (f : State → State := id) : State := f (State.reset.wf 0x10 Reg.MEM_SCRUB_PERIOD 1)
def lowJob (f : State → State := id) : State := { low f with jobs := [(0, waiting)] }
def bad0 (s : State) : State := { s with poison := [0] }
def off0 (s : State) : State := s.wf 0x10 Reg.PG_STAT_QUIESCED 1
/-! States of the host's commands -/

/-- The module runs, and the host has a queue pair. -/
def up0 : State :=
  ({ State.reset with boot := { running := true }, qps := [(1, { st := 1, rdOk := true, wrOk := true, key := 5 })], pins := { input := true, pwrEn := true, conv := .on, modResetN := true, refclk := true, pwrGood := true } } : State).wf 1 Reg.SMG_BOOT_STAGE 9
/-- An entry with its TAG and fields, by byte offset; for a command of channel 0, or of the device. -/
def ent (l : List (Nat × Nat)) : Entry := BitVec.ofNat 1024 ((l ++ [((8 : Nat), (77 : Nat))]).foldl (fun (a : Nat) (x : Nat × Nat) => a + x.2 * 2 ^ (8 * x.1)) 0)
def chEnt (l : List (Nat × Nat)) : Entry := ent ((4, 2 ^ 18) :: l)
def kq : Queue := { base := 0x4000, log2n := 4, ring := 0, weight := 1 }
def r0 : Ring := { base := 0x030000000000, log2n := 4 }
/-- Queue 0 and ring 0 stand; the ring's window is open, and queue pair 1 serves it. -/
def cmds (chans : Tbl Chan := []) : State :=
  (((({ up0 with queues := [(0, kq)], rings := [(0, r0)], chans := chans, nextIndex := 1 } : State).wf 0x20 Reg.XLT_WIN_CFG_ENABLE 1).wf 0x20 Reg.XLT_WIN_CFG_QP 1).wf 0x20 Reg.XLT_WIN_PERM_PARTS 0xFFFF).wf 0x20 Reg.XLT_WIN_PERM_WR 1
def cmdP (c : Chan := {}) : State := part0 (cmds [(0, c)])
def devP : State := part0 cmds
def cst (st ty : Nat) : Chan := { chan0 with st, ty, slot := none }
/-- Every player counts. -/
def counted (s : State) : State := (List.range 64).foldl (fun a p => (a.wf (0x100 + p) Reg.PLY_IDX_LOGICAL p).wf (0x100 + p) Reg.PG_CTRL_ENABLE 1) s
def beObs : BootObs := { refclk := true, puf := [] }
def lh (type len : Nat) (s : State) : LoadHdr := { ip := 1, port := 2, dest := s.bootAddr, head := [0x4B, 0x51, 1, BitVec.ofNat 8 type, 0, 0, 0, 5, 0, 0, 0, 1, BitVec.ofNat 8 (len / 256), BitVec.ofNat 8 len, 0, 0] }
def boot5 : State := ({ State.reset with boot := { running := true } } : State).wf 1 Reg.SMG_BOOT_STAGE 5
def sess0 : Session := { id := 5, ip := 1, port := 2, imageLen := 4, hostQp := 7, hostPsn := 0, devKey := 3 }
def boot6 : State := ({ State.reset with boot := { running := true, session := some sess0 } } : State).wf 1 Reg.SMG_BOOT_STAGE 6
def boot7 (n : Nat) : State := ({ State.reset with boot := { running := true, session := some { sess0 with verifying := true }, image := [] } } : State).wf 1 Reg.SMG_BOOT_STAGE n
def imgLen : Nat := 128 + 64 + 29792
def imgHead : List Byte := leBytes 4 0x4647514B ++ leBytes 2 1 ++ leBytes 2 0 ++ leBytes 4 imgLen ++ leBytes 4 0 ++ leBytes 4 0 ++ leBytes 4 64 ++ List.replicate 104 0
/-- All of an image has come. -/
def sessEnd : Session :=
  { sess0 with imageLen := imgLen, next := imgLen, chunks := [(0, imgHead ++ List.replicate 8064 0), (8192, List.replicate 8192 0), (16384, List.replicate 8192 0), (24576, List.replicate 5408 0)] }
def bootEnd : State := ({ State.reset with boot := { running := true, session := some sessEnd } } : State).wf 1 Reg.SMG_BOOT_STAGE 6
def ports0 (f : Port → Port) : State := { up0 with ports := [(2, f {})] }
/-- Queue pair 1 with a request outstanding. -/
def asked (r : Req) (tries : Nat := 0) (s : State := up0) : State := { s with qps := [(1, { st := 1, wrOk := true, key := 5, out := [r], tries, retry := 3 })] }
def readReq : Req := { msg := .rdmaRead 1 0 0 4, owner := .fetch 0 }
def strReq (e : Nat) : Req := { msg := .rdmaRead 1 0 0 4, owner := .stream 0 1 (some 0), epoch := e }
/-- Flow 3 of a channel of one type. -/
def rtp0 : RtpHdr := { src := 1, dest := 2, dport := 3, ssrc := 4, pt := 96, seq := 10, timestamp := 90, marker := false }
def flow0 (kind : Nat) (f : Flow → Flow := id) : Flow := f { kind, dest := 2, dport := 3, src := 1, ssrc := 4 }
def flowState (fl : Flow) (c : Chan) (n : Nat := 3) : State := mapped { up0 with flows := [(n, fl)], chans := [(0, c)], rings := [(0, r0)] }
def recvChan (ty : Nat) (x : Codec := { started := true }) : Chan := { chan0 with ty, pkg := some {}, bind := some (List.replicate 64 0), io := some { inSlots := 2, inBytes := 4096, inPitch := 128 }, codec := { x with started := true }, seqHdr := seq64 0 0 }
def thx (s2 : Nat) (off : Nat) : List Byte := hMake [(2, 1), (1, s2), (5, 0), (24, 0), (32, off)]
/-- Device time is kept from PTP. -/
def ptp0 (st : Nat) (sv : Servo := {}) : State := ({ up0 with servo := sv, time := 5 * 10 ^ 9 } : State).wf 0x35 Reg.MED_TIME_CTRL_SOURCE 1 |>.wf 0x35 Reg.MED_TIME_STAT_STATE st
/-- Page 0x205 in the quiesce protocol. -/
def blk (q : Nat) (f : State → State := id) : State := f ((up0.wf 0x205 Reg.PG_CTRL_QUIESCE_REQ 1).wf 0x205 Reg.PG_STAT_QUIESCED q)
def encRec : List Byte := [1, 2, 0, 0, 0, 0, 0, 1, 0xFF, 0xFF, 0xFF, 0] ++ List.replicate 52 0
def num (b : List Byte) : Nat := b.foldr (fun x a => x.toNat + 256 * a) 0
def pairUp (role st : Nat) (ps : PairSt := {}) (f : State → State := id) : State :=
  f (((({ cmds with pair := ps, qps := up0.qps ++ [(4095, { st := 1 })] } : State).wf 0x38 Reg.PAIR_CFG_ROLE role).wf 0x38 Reg.PAIR_STATE_STATE st).wf 0x38 Reg.PAIR_STATE_PAIR_EPOCH 4)
def pairHdr (type len epoch : Nat) : PairHdr := { head := leBytes 4 0x5250514B ++ leBytes 1 type ++ leBytes 1 0 ++ leBytes 2 epoch ++ leBytes 4 0 ++ leBytes 4 len ++ leBytes 8 0 }
/-- A trace that is on. -/
def trc0 (x : Trace := {}) (st : Nat := 0) : State := (((({ part0 up0 with traces := [(0, x)] } : State).wf 0x1000 Reg.TRC_RING_HI_LOG2 16).wf 0x1000 Reg.TRC_CFG_ENABLE 1).wf 0x1000 Reg.TRC_CFG_THREADS 1).wf 0x1000 Reg.TRC_TRIG_TRIG_STATE st
def open0 (s : State) : State := s.setReg 2 0x130 1
def thread0 (st : Nat) (held : Nat := 0) : State := open0 { up0 with players := [(0, { st := 2, threads := [(0, { thr [(1, 7)] with st := st, held := held })] })] }
def walked (s : State) : State := ((s.store 0x2000 (leBytes 8 0x3001)).store 0x3000 (leBytes 8 0x4001)).store 0x4000 (leBytes 8 0x200007)
def fEnt : Nat := 0x030000000018
def fetchState (f : Fetch) : State := (((devP.store 0x4000 (leBytes 8 fEnt)).store 0x4100 (leBytes 8 0x20000)).wf 0x20 Reg.XLT_WIN_PERM_RD 1) |> fun s => { s with fetches := [(0, f)] }
def fet0 : Fetch := { chan := 0, vpage := 0, entry := 0x4000 }
def fet1 : Fetch := { fet0 with started := true, value := 9, dest := 0x20000, data := some [1, 2] }
def due0 : Due := { ring := 0, body := { seq := 2 }, chan := some 0 }
def seqLive : List Byte := hMake [(16, 36), (8, 1), (128, 0), (16, 64), (16, 64), (2, 1), (2, 0), (28, 0), (32, 1), (32, 1), (8, 0)]
def liveState : State :=
  counted { mapped (cmdP { cst 1 0 with pkg := some {}, bind := some encRec, seqHdr := seqLive, io := some { inPitch := 128, inSlots := 1, inBytes := 32768 } }) with
    flows := [(3, { kind := 1, width := 64, height := 64, num := 1, den := 1 }), (260, { kind := 3 })] }
def compOf (x : Entry) : CompArgs :=
  { op := eGet x 0x10 0 1, mode := eGet x 0x11 0 8, elem := eGet x 0x12 0 4, width := eGet x 0x14 0 16, count := eGet x 0x18 0 32, src := eGet x 0x20 0 64, srcLen := eGet x 0x28 0 64, dst := eGet x 0x30 0 64, dstLen := eGet x 0x38 0 64 }
/-- A countersigned change record of two blocks, its digest and its nonce of zeros, and what it says. -/
def sig0 : List Byte := List.replicate 29792 0
def recBody (kind n : Nat) (items : List Byte) : List Byte :=
  leBytes 4 0x4353524B ++ [1, BitVec.ofNat 8 kind, 0, BitVec.ofNat 8 n] ++ List.replicate 64 0 ++ items
def blockHead (n : Nat) : List Byte := [BitVec.ofNat 8 n, 0, 0, 0] ++ leBytes 4 29792
def recWith (g : List Byte) (kind n : Nat) (items : List Byte) : List Byte :=
  recBody kind n items ++ (blockHead 0 ++ (g ++ (blockHead 1 ++ (g ++ []))))
def cswBytes : Nat → Nat → List Byte → List Byte := recWith sig0
def recOf (kind n : Nat) (items : List Byte) (l : List CswItem) (g : List Byte := sig0) : CswRec :=
  ⟨kind, false, List.replicate 32 0, List.replicate 32 0, l, recBody kind n items, [⟨0, 0, g⟩, ⟨1, 0, g⟩]⟩
def twoKeys : Policy := { keys := [⟨0, false, [1]⟩, ⟨1, false, [2]⟩] }
/-- The window lets the device read the record; the policy holds `p`; player 3 is retired, and the spare of its wing is free. -/
def cswState (p : Policy) : State :=
  (((({ devP with ids := { devP.ids with policy := ⟨p, p, true, true, false⟩ } } : State).wf 0x20 Reg.XLT_WIN_PERM_RD 1).wf 0x103 Reg.PG_STAT_RETIRED 1).wf 0x103
    Reg.PLY_IDX_LOGICAL 3).wf 0x110 Reg.PLY_IDX_LOGICAL 0xFF
def cswEnt (l : List (Nat × Nat)) (n : Nat) : Entry := ent (l ++ [(0x18, 0x030000001000), (0x20, n)])
def fieldItem : List Byte := [0x20, 0, 0, 0, 0x44, 1, 0, 0] ++ leBytes 4 0xFF ++ leBytes 4 3
def keyItem (n : Nat) : List Byte := [BitVec.ofNat 8 n, 0, 0, 0, 0, 0, 0, 0] ++ List.replicate 64 0
def repairItem : List Byte := [3, 16] ++ List.replicate 14 0

theorem slice_append {p b : List Byte} {a m : Nat} (h : a + m ≤ p.length) : ((p ++ b).drop a).take m = (p.drop a).take m := by
  rw [List.drop_append_of_le_length (by omega), List.take_append_of_le_length (by rw [List.length_drop]; omega)]

theorem leAt_append {p b : List Byte} {a m : Nat} (h : a + m ≤ p.length) : leAt (p ++ b) a m = leAt p a m := by rw [leAt, leAt, slice_append h]

theorem cswBlock_of {g r : List Byte} (n : Nat) (hn : n = 0 ∨ n = 1) (hg : g.length = 29792) : cswBlock (blockHead n ++ (g ++ r)) = some ⟨n, 0, g⟩ := by
  have h : ∀ l : List Byte, cswBlock (blockHead n ++ l) = some ⟨n, 0, l.take 29792⟩ := by
    intro l; rcases hn with rfl | rfl <;> rfl
  rw [h, ← hg, List.take_left]

/-- A record of two blocks parses to what it says, whatever its signatures. -/
theorem cswParse_with {g items : List Byte} {kind n size : Nat} {l : List CswItem} (hg : g.length = 29792) (hz : (if kind = 2 then 72 else 16) = size)
    (hs : (recBody kind n items).length = 0x48 + n * size) (hk : leAt (recBody kind n items) 5 1 = kind) (hn : leAt (recBody kind n items) 7 1 = n)
    (hm : kind = 1 ∧ 1 ≤ n ∧ n ≤ 64 ∨ kind = 2 ∧ 2 ≤ n ∧ n ≤ 8 ∨ kind = 3 ∧ n = 1)
    (h0 : leAt (recBody kind n items) 0 4 = 0x4353524B ∧ leAt (recBody kind n items) 4 1 = 1 ∧ leAt (recBody kind n items) 6 1 = 0)
    (h8 : ((recBody kind n items).drop 8).take 32 = List.replicate 32 0 ∧ ((recBody kind n items).drop 0x28).take 32 = List.replicate 32 0)
    (hl : (List.range n).map (fun k => cswItem kind (((recBody kind n items).drop (0x48 + k * size)).take size)) = l.map some) :
    cswParse (recWith g kind n items) = .ok (recOf kind n items l g) := by
  have hr : ∀ x ∈ List.range n, cswItem kind (((recWith g kind n items).drop (0x48 + x * size)).take size) =
      cswItem kind (((recBody kind n items).drop (0x48 + x * size)).take size) := by
    intro x hx
    have : (x + 1) * size ≤ n * size := Nat.mul_le_mul_right _ (List.mem_range.1 hx)
    rw [recWith, slice_append (by rw [hs]; rw [Nat.add_mul] at this; omega)]
  have hq : ∀ {a m : Nat}, a + m ≤ 0x48 → leAt (recWith g kind n items) a m = leAt (recBody kind n items) a m := fun h => leAt_append (by omega)
  have hi : ∀ {a : Nat}, a + 32 ≤ 0x48 → ((recWith g kind n items).drop a).take 32 = ((recBody kind n items).drop a).take 32 := fun h => slice_append (by omega)
  have hd : (recWith g kind n items).drop (0x48 + n * size) = blockHead 0 ++ (g ++ (blockHead 1 ++ (g ++ []))) := by rw [recWith, ← hs, List.drop_left]
  have ht : (recWith g kind n items).take (0x48 + n * size) = recBody kind n items := by rw [recWith, ← hs, List.take_left]
  have he : (recWith g kind n items).drop (0x48 + n * size + 8 + 29792) = blockHead 1 ++ (g ++ []) := by
    rw [recWith, ← List.append_assoc, ← List.append_assoc]
    exact List.drop_left' (by rw [List.length_append, List.length_append, hs, hg]; rfl)
  have hw : (recWith g kind n items).length = 0x48 + n * size + 8 + 29792 + 8 + 29792 := by
    rw [recWith, List.length_append, List.length_append, List.length_append, List.length_append, List.append_nil, hs, hg]
    exact (by omega : ∀ z : Nat, z + (8 + (29792 + (8 + 29792))) = z + 8 + 29792 + 8 + 29792) _
  have hf : (l.map some).findIdx? (·.isNone) = none := by simp [List.findIdx?_eq_none_iff]
  have hf2 : (l.map some).filterMap id = l := by simp [List.filterMap_map]
  rw [cswParse]
  simp only [hq (show 5 + 1 ≤ 0x48 by omega), hq (show 7 + 1 ≤ 0x48 by omega), hq (show 0 + 4 ≤ 0x48 by omega), hq (show 4 + 1 ≤ 0x48 by omega),
    hq (show 6 + 1 ≤ 0x48 by omega), hk, hn, h0, hz, List.map_congr_left hr, hl, hf, hf2, hd, ht, cswBlock_of 0 (.inl rfl) hg, sigLen, ↓reduceIte, he,
    cswBlock_of 1 (.inr rfl) hg, hw, hi (show 8 + 32 ≤ 0x48 by omega), hi (show 0x28 + 32 ≤ 0x48 by omega), h8]
  rcases hm with ⟨rfl, h, h'⟩ | ⟨rfl, h, h'⟩ | ⟨rfl, rfl⟩ <;> simp_all [recOf]

/-- A record whose form, nonce, digest, keys and items are in order passes, where its signatures verify. -/
theorem cswCheck_of {b : List Byte} {r : CswRec} {s : State} (hp : cswParse b = .ok r) (hr : roleItem r s = none)
    (hk : ∀ b n, Config.shake256 b n = List.replicate n 0) (hi : r.ident = List.replicate 32 0) (hn : r.nonce = s.nonce)
    (hd : (r.blocks.map CswBlock.index).eraseDups.length = r.blocks.length)
    (hv : ∀ k f m x, Config.slhVerify k f m x = true)
    (hb : ∀ x ∈ r.blocks, ∃ k, (cswKeys r s).find? (fun k => k.index == x.index) = some k ∧ k.f = (x.alg == 1))
    (ht : itemCheck r s = none) : cswCheck b s = .ok r := by
  have hx : r.blocks.findIdx? (fun x => !blockOk r (cswKeys r s) x) = none := by
    rw [List.findIdx?_eq_none_iff]
    intro x m
    obtain ⟨k, e, f⟩ := hb x m
    simp [blockOk, e, f, hv]
  simp [cswCheck, hp, hr, keyDigest, hk, hi, hn, hd, hx, ht]

theorem record_of {s : State} {a n : Nat} {b : List Byte} (ha : isRemote a = true) (hl : n = b.length) (hm : n ≤ 102400) : s.record a n b = b := by
  subst hl; simp [State.record, ha, Nat.not_lt.2 hm]

theorem cswBytes_length {kind n : Nat} {items : List Byte} : (cswBytes kind n items).length = (recBody kind n items).length + (8 + (29792 + (8 + 29792))) := by
  have h : sig0.length = 29792 := List.length_replicate
  rw [cswBytes, recWith, List.length_append, List.length_append, List.length_append, List.length_append, List.append_nil, h]
  rfl

/-! Witnesses -/

theorem test_StepRunsTheFrontCommand_met :
    let s : State := up0; s.pending = [] :=
  by decide +kernel

theorem test_StepKeepsTheQueueAndWhatWasSent_met :
    let s : State := up0; let t : State := tick up0; Steps s t :=
  rfl

theorem test_StepKeepsCanonicalForm_met :
    let s : State := up0; let t : State := tick up0; Steps s t ∧ Canonical s :=
  ⟨rfl, ⟨by decide +kernel, ⟨by decide +kernel, by decide +kernel⟩, by decide +kernel, by decide +kernel⟩⟩

theorem test_StepKeepsTheCallboardInOrder_met :
    let s : State := up0; let t : State := tick up0; Steps s t ∧ Numbered s.log ∧ s.log.length ≤ 2048 :=
  ⟨rfl, trivial, by decide +kernel⟩

theorem test_EveryWellFormedCommandAnswersANextState_met :
    (let a : Nat := 0x050000000000; let id : Nat := 0; let j : Job := waiting; let s : State := { up0 with jobs := [(0, waiting)] }; isLpddr a = false ∧
    isShared a = false ∧ isLocal a = false ∧ isWindow a = false ∧ isRemote a = false ∧ tget? s.jobs id = some j ∧ j.stop = none) ∧
    (let a : Nat := 0x050000000000; let id : Nat := 0; let j : Job := waiting; let s : State := { up0 with jobs := [(0, waiting)] }; isLpddr a = false ∧
    isShared a = false ∧ isLocal a = false ∧ isWindow a = false ∧ isRemote a = false ∧ tget? s.jobs id = some j ∧ j.stop = none) ∧
    (let a : Nat := 0x050000000000; isLpddr a = false) ∧
    (let o : Nat := 0x4000000; 0x4000000 ≤ o) :=
  ⟨by decide +kernel,
   by decide +kernel,
   by decide +kernel,
   by decide +kernel⟩

theorem test_InputAndPowerEnableDriveThePins_met :
    (let cv : Nat := 4800; let s : State := State.reset; s.pins.input = false ∧ 3800 ≤ cv) ∧
    (let s : State := up0; s.pins.input = true) ∧
    (let s : State := { State.reset with pins := { input := true } }; s.pins.input = true ∧ s.pins.pwrEn = false) :=
  ⟨by decide +kernel,
   by decide +kernel,
   by decide +kernel⟩

theorem test_StopsPowerTheModuleDown_met :
    (let s : State := { State.reset with pins := { input := true, pwrEn := true, conv := .starting } }; s.pins.conv = .starting) ∧
    (let s : State := up0; s.pins.pwrEn = true ∧ s.pins.conv ≠ .off) ∧
    (let s : State := { State.reset with pins := { input := true, pwrEn := true, armed := false, thermTripN := false } }; s.pins.pwrEn = true ∧ s.pins.conv = .off) ∧
    (let s : State := { up0 with pins := { up0.pins with input := false } }; s.pins.input = false ∧ s.pins.conv ≠ .off) ∧
    (let s : State := up0; s.pins.conv ≠ .off) ∧
    (let s : State := up0; s.pins.conv ≠ .off) ∧
    (let die : List Nat := [20, 120]; let plate : Nat := 40; let s : State := up0; s.pins.input = true ∧ s.pins.conv ≠ .off ∧ ((115 ≤ (hottest die).1 ∨ 75 ≤ plate))) :=
  ⟨by decide +kernel,
   by decide +kernel,
   by decide +kernel,
   by decide +kernel,
   by decide +kernel,
   by decide +kernel,
   by decide +kernel⟩

theorem test_OvercurrentStopsTheConverters_met :
    (let s : State := up0; s.pins.conv ≠ .off) ∧
    (let s : State := State.reset; s.pins.conv = .off) :=
  ⟨by decide +kernel,
   by decide +kernel⟩

theorem test_ResetPinAndRailsStartTheDie_met :
    (let ns : Nat := 10; ns < 1000) ∧
    (let ns : Nat := 20000; let s : State := up0; 10000 ≤ ns ∧ s.pins.modResetN = true) ∧
    (let obs : BootObs := beObs; let s : State := { State.reset with pins := { input := true, pwrEn := true, conv := .on, pwrGood := true } }; s.pins.modResetN = false ∧
    s.pins.pwrGood = true ∧ obs.refclk = true ∧ s.boot.running = false) ∧
    (let obs : BootObs := beObs; let s : State := State.reset; s.pins.modResetN = false ∧ ((s.pins.pwrGood = false ∨ obs.refclk = false ∨ s.boot.running = true))) ∧
    (let s : State := { State.reset with pins := { input := true, pwrEn := true, conv := .starting, modResetN := true } }; s.pins.conv = .starting) :=
  ⟨by decide +kernel,
   by decide +kernel,
   by decide +kernel,
   by decide +kernel,
   by decide +kernel⟩

theorem test_MeasurementsAreShown_met :
    (let s : State := up0; s.pins.input = true) ∧
    (let die : List Nat := [50, 60]; let plate : Nat := 40; let s : State := up0; s.pins.input = true ∧ (hottest die).1 < 115 ∧ plate < 75) ∧
    (let s : State := up0; s.boot.running = true) :=
  ⟨by decide +kernel,
   by decide +kernel,
   by decide +kernel⟩

theorem test_LoadProtocolBringsTheModuleUp_met :
    (let h : LoadHdr := lh 1 16 boot5; let s : State := boot5; s.hears h = true ∧ h.fits 1 16 = true ∧ h.session ≠ 0 ∧ s.boot.session = none) ∧
    (let h : LoadHdr := lh 3 8 boot6; let off : Nat := 0; let bytes : List Byte := [1, 2, 3, 4]; let x : Session := sess0; let s : State := boot6; s.hears h = true ∧
    h.fits 3 (4 + bytes.length) = true ∧ s.boot.session = some x ∧ x.id = h.session ∧ x.verifying = false ∧ s.boot.fault = 0 ∧ off % 8192 = 0 ∧ off < x.imageLen ∧
    bytes.length = min 8192 (x.imageLen - off) ∧ off + bytes.length ≤ x.next + 2097152 ∧ x.next ≤ off ∧ tget? x.chunks off = none) ∧
    (let h : LoadHdr := lh 5 0 bootEnd; let x : Session := sessEnd; let s : State := bootEnd; s.hears h = true ∧ h.fits 5 0 = true ∧ s.boot.session = some x ∧
    x.id = h.session ∧ x.verifying = false ∧ x.imageLen ≤ x.next ∧ imageOk x.imageLen (x.chunks.flatMap (·.2)) = true) ∧
    (let h : LoadHdr := lh 7 0 boot6; let x : Session := sess0; let s : State := boot6; s.hears h = true ∧ h.fits 7 0 = true ∧ s.boot.session = some x ∧
    x.id = h.session ∧ x.verifying = false) ∧
    (let x : Session := { sess0 with verifying := true }; let s : State := boot7 8; s.boot.session = some x ∧ s.rf 1 Reg.SMG_BOOT_STAGE = 8) :=
  ⟨⟨by rw [State.hears, Bool.and_eq_true]; exact ⟨by decide +kernel, beq_self_eq_true _⟩, by decide +kernel, by decide +kernel, by decide +kernel⟩,
   ⟨by rw [State.hears, Bool.and_eq_true]; exact ⟨by decide +kernel, beq_self_eq_true _⟩, by decide +kernel, by decide +kernel, by decide +kernel, by decide +kernel,
   by decide +kernel, by decide +kernel, by decide +kernel, by decide +kernel, by decide +kernel, by decide +kernel, by decide +kernel⟩,
   ⟨by rw [State.hears, Bool.and_eq_true]; exact ⟨by decide +kernel, beq_self_eq_true _⟩, by decide +kernel, by decide +kernel, by decide +kernel, by decide +kernel,
   by decide +kernel, by decide +kernel⟩,
   ⟨by rw [State.hears, Bool.and_eq_true]; exact ⟨by decide +kernel, beq_self_eq_true _⟩, by decide +kernel, by decide +kernel, by decide +kernel, by decide +kernel⟩,
   by decide +kernel⟩

theorem test_LoadProtocolBringsTheModuleUp_met_verified (hv : ∀ k f m x, Config.slhVerify k f m x = true) :
    let x : Session := { sess0 with verifying := true }; let s : State := boot7 7; s.boot.session = some x ∧ s.rf 1 Reg.SMG_BOOT_STAGE = 7 ∧
    imageSigned s.boot.image = true :=
  ⟨by decide +kernel, by decide +kernel, hv _ _ _ _⟩

theorem test_LoadProtocolBringsTheModuleUp_met_unverified (hf : ∀ k f m x, Config.slhVerify k f m x = false) :
    let x : Session := { sess0 with verifying := true }; let s : State := boot7 7; s.boot.session = some x ∧ s.rf 1 Reg.SMG_BOOT_STAGE = 7 ∧
    imageSigned s.boot.image = false :=
  ⟨by decide +kernel, by decide +kernel, hf _ _ _ _⟩

theorem test_PortsFollowTheFlowControlRules_met :
    (let s : State := up0; s.boot.running = true) ∧
    (let s : State := up0.wf 6 Reg.ETH_STAT_LINK 1; s.boot.running = true) ∧
    (let port : Fin 4 := 2; let pcp : Option (Fin 8) := none; let dscp : Fin 64 := 8; let len : Nat := 100;
    let s : State := up0.wf 6 Reg.ETH_CTRL_LOSSLESS 0; s.up = true ∧ len ≤ 9216 ∧ bits (s.rf (4 + port.val) Reg.ETH_CTRL_LOSSLESS) (framePrio pcp dscp) 1 = 0 ∧
    ((tget s.ports {} port.val).occ.getD (framePrio pcp dscp) 0) + len ≤ 524288) ∧
    (let port : Fin 4 := 2; let pcp : Option (Fin 8) := some 3; let dscp : Fin 64 := 8; let len : Nat := 100;
    let s : State := (ports0 (fun p => { p with occ := List.replicate 8 262100 })).wf 6 Reg.ETH_CTRL_LOSSLESS 8; s.up = true ∧ len ≤ 9216 ∧
    bits (s.rf (4 + port.val) Reg.ETH_CTRL_LOSSLESS) (framePrio pcp dscp) 1 = 1 ∧ bits (s.rf (4 + port.val) Reg.ETH_STAT_PAUSING) (framePrio pcp dscp) 1 = 0 ∧
    262144 ≤ ((tget s.ports {} port.val).occ.getD (framePrio pcp dscp) 0) + len) ∧
    (let port : Fin 4 := 2; let prio : Fin 8 := 3; let s : State := up0.wf 6 Reg.ETH_STAT_PAUSING 8; bits (s.rf (4 + port.val) Reg.ETH_STAT_PAUSING) prio.val 1 = 1 ∧
    (tget s.ports {} port.val).occ.getD prio.val 0 < 131072) ∧
    (let port : Fin 4 := 2; let prio : Fin 8 := 3; let quanta : BitVec 16 := 100; let s : State := up0; s.up = true ∧ quanta ≠ 0 ∧
    bits (s.rf (4 + port.val) Reg.ETH_STAT_WD_ACTIVE) prio.val 1 = 0 ∧ bits (s.rf (4 + port.val) Reg.ETH_STAT_PEER_PAUSED) prio.val 1 = 0) ∧
    (let s : State := (ports0 (fun p => { p with held := [(3, .cnp 1), (4, .cnp 2), (3, .cnp 3)] })).wf 6 Reg.ETH_STAT_PEER_PAUSED 8; s.up = true) ∧
    (let port : Fin 4 := 2; let prio : Fin 8 := 3;
    let s : State := { ((ports0 (fun p => { p with held := [(3, .cnp 1), (4, .cnp 2), (3, .cnp 3)] })).wf 6 Reg.ETH_STAT_PEER_PAUSED 8).wf 6 Reg.ETH_CTRL_PFC_WD 3 with time := 10 ^ 9 }; bits (s.rf (4 + port.val) Reg.ETH_STAT_PEER_PAUSED) prio.val 1 = 1 ∧
    s.rf (4 + port.val) Reg.ETH_CTRL_PFC_WD ≠ 0 ∧ (tget s.ports {} port.val).since.getD prio.val 0 + 2 ^ s.rf (4 + port.val) Reg.ETH_CTRL_PFC_WD * 1000000 ≤ s.time) ∧
    (let s : State := up0.wf 6 Reg.ETH_STAT_LINK 1; s.hostUp = true) :=
  ⟨by decide +kernel,
   by decide +kernel,
   by decide +kernel,
   by decide +kernel,
   by decide +kernel,
   by decide +kernel,
   by decide +kernel,
   by decide +kernel,
   by decide +kernel⟩

theorem test_LongFramesAreDropped_met :
    (let len : Nat := 9217; let s : State := up0; s.up = true ∧ 9216 < len) ∧
    (let len : Nat := 9216; let s : State := up0; s.up = true ∧ len ≤ 9216) :=
  ⟨by decide +kernel,
   by decide +kernel⟩

theorem test_RdmaRequestsAreServedOrRefused_met :
    (let q : Fin 4096 := 1; let l : List Byte := [1, 2, 3]; let key : Word := 5; let a : Dword := 0x1000; let s : State := up0; s.up = true ∧ (s.qp q.val).st = 1 ∧
    key.toNat = (s.qp q.val).key ∧ (s.qp q.val).wrOk = true ∧ l ≠ [] ∧ a.toNat + l.length ≤ 0x003DC0000000) ∧
    (let q : Fin 4096 := 1; let len : Nat := 3; let key : Word := 5; let a : Dword := 0x1000; let s : State := up0; s.up = true ∧ (s.qp q.val).st = 1 ∧
    key.toNat = (s.qp q.val).key ∧ (s.qp q.val).rdOk = true ∧ 0 < len ∧ a.toNat + len ≤ 0x003DC0000000) ∧
    (let q : Fin 4096 := 1; let key : Word := 6; let s : State := up0; s.up = true ∧ (s.qp q.val).st = 1 ∧ ((key.toNat ≠ (s.qp q.val).key ∨ (s.qp q.val).wrOk = false))) ∧
    (let q : Fin 4096 := 1; let op : RdmaOp := .other; let s : State := up0; s.up = true ∧ (s.qp q.val).st = 1 ∧ q.val ≠ 4095 ∧ ((op = .other ∨ ∃ l, op = .send l))) ∧
    (let q : Fin 4096 := 1; let s : State := State.reset; ((s.up = false ∨ (s.qp q.val).st ≠ 1))) :=
  ⟨by decide +kernel,
   by decide +kernel,
   by decide +kernel,
   ⟨by decide +kernel, by decide +kernel, by decide +kernel, .inl rfl⟩,
   by decide +kernel⟩

theorem test_OutstandingRequestsEnd_met :
    (let q : Fin 4096 := 1; let r : Req := readReq; let rest : List Req := [];
    let s : State := { asked readReq with fetches := [(0, { chan := 0, vpage := 0, entry := 0 })] }; (s.qp q.val).st = 1 ∧ (s.qp q.val).out = r :: rest ∧
    s.current r = true) ∧
    (let q : Fin 4096 := 1; let j : Nat := 0; let sh : Nat := 0; let slot : Nat := 1; let r : Req := strReq 1; let rest : List Req := []; let x : Job := waiting;
    let s : State := { asked (strReq 1) with jobs := [(0, waiting)] }; (s.qp q.val).st = 1 ∧ (s.qp q.val).out = r :: rest ∧ r.owner = .stream sh slot (some j) ∧
    s.current r = false ∧ tget? s.jobs j = some x ∧ x.stop = none) ∧
    (let q : Fin 4096 := 1; let kind : Nak := .access; let j : Nat := 0; let sh : Nat := 0; let slot : Nat := 1; let r : Req := strReq 0; let rest : List Req := [];
    let x : Job := waiting; let s : State := { asked (strReq 0) with jobs := [(0, waiting)] }; (s.qp q.val).st = 1 ∧ (s.qp q.val).out = r :: rest ∧
    r.owner = .stream sh slot (some j) ∧ ((kind = .access ∨ kind = .invalid)) ∧ tget? s.jobs j = some x ∧ x.stop = none) ∧
    (let q : Fin 4096 := 1; let r : Req := readReq; let rest : List Req := []; let s : State := asked readReq; (s.qp q.val).st = 1 ∧ (s.qp q.val).out = r :: rest ∧
    (s.qp q.val).tries < (s.qp q.val).retry) ∧
    (let q : Fin 4096 := 1; let r : Req := readReq; let rest : List Req := []; let s : State := asked readReq 3; q.val ≠ 4095 ∧ (s.qp q.val).st = 1 ∧
    (s.qp q.val).out = r :: rest ∧ (s.qp q.val).retry ≤ (s.qp q.val).tries) :=
  ⟨by decide +kernel,
   by decide +kernel,
   by decide +kernel,
   by decide +kernel,
   by decide +kernel⟩

theorem test_QueuePairsFollowTheirRegisters_met :
    (let q : Fin 4096 := 1; let s : State := up0; s.hostUp = true ∧ q.val ≠ 4095 ∧ (s.qp q.val).out = []) ∧
    (let q : Fin 4096 := 1; let s : State := asked readReq; s.hostUp = true ∧ q.val ≠ 4095) ∧
    (let q : Fin 4096 := 5; let s : State := up0; s.hostUp = true ∧ q.val ≠ 4095 ∧ (s.qp q.val).st = 0) ∧
    (let q : Fin 4096 := 1; let w : Word := 0x1C002; let s : State := asked readReq; s.hostUp = true ∧ q.val ≠ 4095 ∧ bits w.toNat 2 2 = 0) ∧
    (let q : Fin 4096 := 1; let w : Word := 0x6C006; let s : State := up0; s.hostUp = true ∧ q.val ≠ 4095 ∧ (s.qp q.val).st = 1 ∧ bits w.toNat 2 2 ≠ 0) ∧
    (let q : Fin 4096 := 4095; let s : State := up0; s.hostUp = true ∧ q.val = 4095) ∧
    (let s : State := up0.wf 8 Reg.RDM_CC_CC_EN 1; s.rf 8 Reg.RDM_CC_CC_EN = 1) ∧
    (let s : State := up0.wf 8 Reg.RDM_CC_CC_EN 0; s.rf 8 Reg.RDM_CC_CC_EN = 0) ∧
    (let q : Fin 4096 := 1; let s : State := { up0.wf 8 Reg.RDM_CC_CC_EN 1 with time := 10 ^ 9 }; s.rf 8 Reg.RDM_CC_CC_EN = 1 ∧
    (s.qp q.val).lastCut + s.rf 8 Reg.RDM_CC_RISE_US * 1000 ≤ s.time) :=
  ⟨by decide +kernel,
   by decide +kernel,
   by decide +kernel,
   by decide +kernel,
   by decide +kernel,
   by decide +kernel,
   by decide +kernel,
   by decide +kernel,
   by decide +kernel⟩

theorem test_FlowsFollowTheirSettings_met :
    (let tx : Bool := false; let flow : Fin 256 := 3; let s : State := up0; s.hostUp = true ∧ (s.flow (flow.val + 256 * bit tx)).bound = none) ∧
    (let tx : Bool := false; let flow : Fin 256 := 3; let s : State := flowState (flow0 1 (fun f => { f with bound := some 0 })) (recvChan 0); s.hostUp = true ∧
    (s.flow (flow.val + 256 * bit tx)).bound ≠ none) ∧
    (let flow : Fin 256 := 3; let h : RtpHdr := { rtp0 with dest := 9 }; let s : State := flowState (flow0 1) (recvChan 0); s.up = true ∧ (s.flow flow.val).kind = 1 ∧
    (s.flow flow.val).accepts h = false) ∧
    (let flow : Fin 256 := 3; let h : RtpHdr := rtp0; let s : State := flowState (flow0 1) (recvChan 0); s.up = true ∧ (s.flow flow.val).kind = 1 ∧
    (s.flow flow.val).accepts h = true ∧ (s.flow flow.val).bound = none) ∧
    (let flow : Fin 256 := 3; let h : RtpHdr := rtp0; let s : State := flowState (flow0 2) (recvChan 3); s.up = true ∧ (s.flow flow.val).kind = 2 ∧
    (s.flow flow.val).accepts h = true ∧ (s.flow flow.val).bound = none) ∧
    (let flow : Fin 256 := 3; let h : RtpHdr := rtp0; let payload : List Byte := [1, 2]; let i : Nat := 0;
    let s : State := flowState (flow0 3 (fun f => { f with bound := some 0, seq := some 10 })) (recvChan 1); s.up = true ∧ (s.flow flow.val).kind = 3 ∧
    (s.flow flow.val).accepts h = true ∧ (s.flow flow.val).bound = some i ∧ (s.chan i).admits = true ∧ (s.chan i).codec.started = true ∧ (s.chan i).io.isSome = true ∧
    (s.flow flow.val).seq = some (h.seq % 65536) ∧ payload.length < 8) ∧
    (let flow : Fin 256 := 3; let h : RtpHdr := rtp0; let payload : List Byte := thx 1 0 ++ [0x4B, 0x51]; let i : Nat := 0;
    let s : State := flowState (flow0 3 (fun f => { f with bound := some 0, seq := some 10 })) (recvChan 1); s.up = true ∧ (s.flow flow.val).kind = 3 ∧
    (s.flow flow.val).accepts h = true ∧ (s.flow flow.val).bound = some i ∧ (s.chan i).admits = true ∧ (s.chan i).codec.started = true ∧ (s.chan i).io.isSome = true ∧
    (s.flow flow.val).gap h = false ∧ 8 ≤ payload.length ∧ hBits (payload.take 8) 0 2 = 1 ∧ hBits (payload.take 8) 2 1 = 1 ∧
    payload.length - 8 ≤ (s.chan i).inCap - ((s.chan i).codec.total - (s.chan i).codec.used)) ∧
    (let flow : Fin 256 := 3; let h : RtpHdr := rtp0; let payload : List Byte := thx 0 64 ++ [0x4B, 0x51]; let i : Nat := 0;
    let s : State := flowState (flow0 3 (fun f => { f with bound := some 0, seq := some 9 })) (recvChan 1); s.up = true ∧ (s.flow flow.val).kind = 3 ∧
    (s.flow flow.val).accepts h = true ∧ s.flowChan (s.flow flow.val) = some i ∧ (s.flow flow.val).gap h = true ∧ (s.flow flow.val).inSegment = false ∧
    8 ≤ payload.length ∧ hBits (payload.take 8) 0 2 = 1 ∧ hBits (payload.take 8) 2 1 = 0) ∧
    (let flow : Fin 256 := 3; let h : RtpHdr := rtp0; let g : RowSeg := ⟨2, 0, [1, 2, 3], false⟩; let i : Nat := 0; let p : InPic := { num := 0, pts := 9 };
    let io : Io := { inSlots := 2, inBytes := 4096, inPitch := 128 }; let q : List Byte := seq64 0 0;
    let f : Flow := flow0 1 (fun f => { f with bound := some 0, ts := some 90 });
    let s : State := flowState f (recvChan 0 { started := true, inputs := [p] }); s.up = true ∧ f = s.flow flow.val ∧ f.kind = 1 ∧ f.accepts h = true ∧
    s.flowChan f = some i ∧ f.ts = some (h.timestamp % 2 ^ 32) ∧ f.closedTs = none ∧ f.skip = false ∧ h.marker = false ∧
    (s.chan i).codec.inputs.find? (fun y => !y.closed) = some p ∧ (s.chan i).io = some io ∧ q = s.inGeom i ∧ g.line < seqH q ∧
    tget f.filled 0 g.line + g.samples.length < planeW q 0 + planeW q 1 + planeW q 2) ∧
    (let flow : Fin 256 := 3; let h : RtpHdr := rtp0; let i : Nat := 0;
    let s : State := flowState (flow0 1 (fun f => { f with bound := some 0, closedTs := some 90 })) (recvChan 0); s.up = true ∧ (s.flow flow.val).kind = 1 ∧
    (s.flow flow.val).accepts h = true ∧ s.flowChan (s.flow flow.val) = some i ∧ (s.flow flow.val).closedTs = some (h.timestamp % 2 ^ 32)) ∧
    (let flow : Fin 256 := 3; let h : RtpHdr := rtp0; let l : List Nat := [7]; let i : Nat := 0; let v : Nat := 80; let n : Nat := auNch (recvChan 3).rec_;
    let f : Flow := flow0 2 (fun f => { f with bound := some 0, ts := some 80, filled := [(0, 10)] });
    let s : State := flowState f (recvChan 3 { started := true, total := 1 }); s.up = true ∧ f = s.flow flow.val ∧ f.kind = 2 ∧ f.accepts h = true ∧
    s.flowChan f = some i ∧ f.ts = some v ∧ h.timestamp % 2 ^ 32 = (v + f.pos) % 2 ^ 32 ∧ l.length = f.ch + 1 ∧ n = auNch (s.chan i).rec_ ∧ 0 < f.pos ∧ f.pos < 479) ∧
    (let flow : Fin 256 := 3; let u : OutUnit := { num := 0, pts := 0, instant := some 0 }; let rest : List OutUnit := []; let a : Nat := 0; let b : List Byte := [1, 2];
    let s : State := flowState (flow0 1 (fun f => { f with units := [u], sent := some [1, 2] })) (recvChan 1) 259; (s.flow (flow.val + 256)).units = u :: rest ∧
    u.instant = some a ∧ a ≤ s.time ∧ u.whole = false ∧ (s.flow (flow.val + 256)).sent = some b ∧ ((∀ i, (s.flow (flow.val + 256)).bound = some i → s.mute i = false))) ∧
    (let flow : Fin 256 := 3; let u : OutUnit := { num := 0, pts := 0, instant := some 0, whole := true, bytes := [5] }; let rest : List OutUnit := []; let a : Nat := 0;
    let s : State := flowState (flow0 1 (fun f => { f with units := [u] })) (recvChan 1) 259; (s.flow (flow.val + 256)).units = u :: rest ∧ u.instant = some a ∧
    a ≤ s.time ∧ u.whole = true ∧ ((∀ i, (s.flow (flow.val + 256)).bound = some i → s.mute i = false))) :=
  ⟨by decide +kernel,
   by decide +kernel,
   by decide +kernel,
   by decide +kernel,
   by decide +kernel,
   by decide +kernel,
   by decide +kernel,
   by decide +kernel,
   by decide +kernel,
   by decide +kernel,
   by decide +kernel,
   by decide +kernel,
   by decide +kernel⟩

theorem test_DeviceTimeFollowsItsSource_met :
    (let port : Fin 4 := 0; let d : Nat := 0; let s : State := ptp0 1; s.up = true ∧ s.rf 0x35 Reg.MED_TIME_CTRL_SOURCE = 1 ∧
    s.rf 0x35 Reg.MED_TIME_CTRL_PTP_PORT = port.val ∧ s.rf 0x35 Reg.MED_TIME_CTRL_DOMAIN = d ∧ s.rf 0x35 Reg.MED_TIME_STAT_STATE ≠ 0) ∧
    (let port : Fin 4 := 0; let d : Nat := 0; let t1 : Nat := 10; let t3 : Nat := 70; let s : State := ptp0 1 { t1 := some 10, t2 := 20, t3 := some 70 }; s.up = true ∧
    s.rf 0x35 Reg.MED_TIME_CTRL_SOURCE = 1 ∧ s.rf 0x35 Reg.MED_TIME_CTRL_PTP_PORT = port.val ∧ s.rf 0x35 Reg.MED_TIME_CTRL_DOMAIN = d ∧
    s.rf 0x35 Reg.MED_TIME_STAT_STATE ≠ 0 ∧ s.servo.t1 = some t1 ∧ s.servo.t3 = some t3) ∧
    (let port : Fin 4 := 1; let d : Nat := 0; let m : PtpMsg := .announce; let s : State := ptp0 1; s.up = true ∧ ((∀ o b, m ≠ .sync o b)) ∧
    ((s.rf 0x35 Reg.MED_TIME_CTRL_SOURCE ≠ 1 ∨ s.rf 0x35 Reg.MED_TIME_CTRL_PTP_PORT ≠ port.val ∨ s.rf 0x35 Reg.MED_TIME_CTRL_DOMAIN ≠ d))) ∧
    (let t1 : Nat := 10; let s : State := ptp0 1 { t1 := some 10 }; s.up = true ∧ s.rf 0x35 Reg.MED_TIME_CTRL_SOURCE = 1 ∧ s.servo.t1 = some t1) ∧
    (let s : State := up0.wf 0x35 Reg.MED_TIME_CTRL_SOURCE 1; s.up = true ∧ s.rf 0x35 Reg.MED_TIME_CTRL_SOURCE ≠ 2) ∧
    (let s : State := ptp0 2; s.rf 0x35 Reg.MED_TIME_STAT_STATE = 2 ∧ s.servo.lastMeas + 3000000000 ≤ s.time) ∧
    (let s : State := { up0 with time := 9, jobs := [(0, { waiting with deadline := some 100, stopAt := some (5, 0) })] }; s.hostUp = true) ∧
    (let s : State := up0; s.hostUp = true ∧ s.rf 0x35 Reg.MED_TIME_SET_LO_TIME < 2 ^ 32) :=
  ⟨by decide +kernel,
   by decide +kernel,
   ⟨by decide +kernel, nofun, by decide +kernel⟩,
   by decide +kernel,
   by decide +kernel,
   by decide +kernel,
   by decide +kernel,
   by decide +kernel⟩

theorem test_RegisterWritesFollowTheFields_met :
    (let page : Fin 4096 := 0x9; let s : State := up0; s.hostUp = true ∧ pageBlk page.val = none) ∧
    (let page : Fin 4096 := 2; let word : Fin 1024 := 64; let d : RegDesc := (regAt 2 256).getD ⟨0, 0, 0, []⟩; let s : State := up0; s.hostUp = true ∧
    pageBlk page.val = some .sec ∧ 256 ≤ 4 * word.val ∧ regAt page.val (4 * word.val) = some d ∧ d.mask .csw = 0) ∧
    (let page : Fin 4096 := 0x205; let b : Blk := .smv; let s : State := up0.setReg 0x205 0x010 3; s.hostUp = true ∧ 0 < page.val ∧ pageBlk page.val = some b ∧
    b ≠ .view ∧ b ≠ .board) ∧
    (let w : Word := 0; let s : State := up0; s.hostUp = true ∧ s.logLost = 0 ∧
    ahead 32 w.toNat (s.rf 0x3B Reg.LOG_RD_RD) ≤ ahead 32 (s.logWr % 2 ^ 32) (s.rf 0x3B Reg.LOG_RD_RD)) ∧
    (let w : Word := 9; let s : State := up0; s.hostUp = true ∧ ahead 32 (s.logWr % 2 ^ 32) (s.rf 0x3B Reg.LOG_RD_RD) < ahead 32 w.toNat (s.rf 0x3B Reg.LOG_RD_RD)) ∧
    (let s : State := up0; s.hostUp = true) ∧
    (let s : State := cmdP (cst 3 0); s.hostUp = true ∧ ((∀ i, (s.chan i).st < 8))) ∧
    (let s : State := up0; s.hostUp = true) ∧
    (let w : Word := 3; let s : State := up0; s.hostUp = true ∧ s.hoPool + 4 * max 1 (bits w.toNat 0 8) ≤ 2560) ∧
    (let w : Word := 100; let s : State := up0; s.hostUp = true ∧ min 2048 (bits w.toNat 0 12) + 4 * s.rf 0x32 Reg.RCA_CTRL_GATHER ≤ 2560) ∧
    (let w : Word := 2048; let s : State := (up0.wf 0x32 Reg.RCA_CTRL_GATHER 200); s.hostUp = true ∧
    2560 < min 2048 (bits w.toNat 0 12) + 4 * s.rf 0x32 Reg.RCA_CTRL_GATHER) :=
  ⟨by decide +kernel,
   by decide +kernel,
   by decide +kernel,
   by decide +kernel,
   by decide +kernel,
   by decide +kernel,
   ⟨by decide +kernel, fun i => by rcases i with _ | i; exact (by decide +kernel); exact Nat.zero_lt_succ 7⟩,
   by decide +kernel,
   by decide +kernel,
   by decide +kernel,
   by decide +kernel⟩

theorem test_BlocksQuiesceBeforeTheyStop_met :
    (let page : Fin 4096 := 0x205; let b : Blk := .smv; let s : State := up0; s.hostUp = true ∧ pageBlk page.val = some b ∧ b.quiesces = true) ∧
    (let page : Fin 4096 := 0x205; let s : State := blk 0; 0x200 ≤ page.val ∧ page.val < 0x244 ∧ s.rf page.val Reg.PG_CTRL_QUIESCE_REQ = 1 ∧
    s.rf page.val Reg.PG_STAT_QUIESCED = 0 ∧ s.holdsRequest page.val = false ∧ s.rf page.val Reg.PG_CTRL_RESET_REQ = 0 ∧ s.rf page.val Reg.PG_CTRL_POWER_DOWN_REQ = 0) ∧
    (let page : Fin 4096 := 0x205; let s : State := (blk 1).wf 0x205 Reg.PG_CTRL_ENABLE 1; s.hostUp = true ∧ 0x200 ≤ page.val ∧ page.val < 0x244 ∧
    s.rf page.val Reg.PG_CTRL_QUIESCE_REQ = 1 ∧ s.rf page.val Reg.PG_STAT_POWERED_DOWN = 0 ∧ s.rf page.val Reg.PG_STAT_IN_RESET = 0) ∧
    (let page : Fin 4096 := 0x205; let s : State := blk 1 (fun s => s.wf 0x205 Reg.PG_STAT_POWERED_DOWN 1); s.hostUp = true ∧ 0x200 ≤ page.val ∧ page.val < 0x244 ∧
    s.rf page.val Reg.PG_CTRL_QUIESCE_REQ = 1 ∧ s.rf page.val Reg.PG_STAT_POWERED_DOWN = 1) ∧
    (let page : Fin 4096 := 0x205; let s : State := blk 0; s.hostUp = true ∧ 0x200 ≤ page.val ∧ page.val < 0x244 ∧ s.rf page.val Reg.PG_STAT_POWERED_DOWN = 0 ∧
    s.rf page.val Reg.PG_STAT_QUIESCED = 0) ∧
    (let page : Fin 4096 := 0x205; let s : State := blk 1; s.hostUp = true ∧ 0x200 ≤ page.val ∧ page.val < 0x244 ∧ s.rf page.val Reg.PG_STAT_POWERED_DOWN = 0 ∧
    s.rf page.val Reg.PG_STAT_QUIESCED = 1 ∧ s.rf page.val Reg.PG_STAT_IN_RESET = 0) ∧
    (let page : Fin 4096 := 0x205; let s : State := blk 1 (fun s => (s.wf 0x205 Reg.PG_STAT_POWERED_DOWN 1).wf 0x205 Reg.PG_CTRL_POWER_DOWN_REQ 1); s.hostUp = true ∧
    0x200 ≤ page.val ∧ page.val < 0x244 ∧ s.rf page.val Reg.PG_STAT_POWERED_DOWN = 1 ∧ s.rf page.val Reg.PG_CTRL_POWER_DOWN_REQ = 1) ∧
    (let page : Fin 4096 := 0x205; let s : State := blk 1 (fun s => s.wf 0x205 Reg.PG_STAT_IN_RESET 1); 0x200 ≤ page.val ∧ page.val < 0x244 ∧
    s.rf page.val Reg.PG_STAT_IN_RESET = 1 ∧ s.rf page.val Reg.PG_CTRL_POWER_DOWN_REQ = 0) :=
  ⟨by decide +kernel,
   by decide +kernel,
   by decide +kernel,
   by decide +kernel,
   by decide +kernel,
   by decide +kernel,
   by decide +kernel,
   by decide +kernel⟩

theorem test_EnableClearsOnlyWhileQuiesced_met :
    let page : Fin 4096 := 0x205; let b : Blk := .smv; let s : State := blk 1; s.hostUp = true ∧ pageBlk page.val = some b ∧ b ≠ .view ∧ b ≠ .board ∧ b ≠ .ply :=
  by decide +kernel

theorem test_DoorbellsAndHeadsKeepTheirBounds_met :
    (let q : Fin 256 := 3; let s : State := cmds; s.hostUp = true ∧ tget? s.queues q.val = none) ∧
    (let q : Fin 256 := 0; let s : State := cmds; s.hostUp = true ∧ q.val = 0 ∧ s.rf 0x21 Reg.HIF_CTRL_Q0_EN = 0) ∧
    (let q : Fin 256 := 0; let d : Dword := 3; let k : Queue := kq; let s : State := cmds.wf 0x21 Reg.HIF_CTRL_Q0_EN 1; s.hostUp = true ∧ tget? s.queues q.val = some k ∧
    k.deleting = none ∧ k.stopped = false ∧ ((q.val = 0 → s.rf 0x21 Reg.HIF_CTRL_Q0_EN = 1)) ∧ bits d.toNat 16 8 = q.val ∧ d.toNat < 2 ^ 24 ∧
    ahead 16 k.t (k.h % 2 ^ 16) ≤ ahead 16 (d.toNat % 2 ^ 16) (k.h % 2 ^ 16) ∧ ahead 16 (d.toNat % 2 ^ 16) (k.h % 2 ^ 16) ≤ 2 ^ k.log2n) ∧
    (let q : Fin 256 := 0; let d : Dword := 0x10003; let k : Queue := kq; let s : State := cmds.wf 0x21 Reg.HIF_CTRL_Q0_EN 1; s.hostUp = true ∧
    tget? s.queues q.val = some k ∧ k.deleting = none ∧ k.stopped = false ∧ ((q.val = 0 → s.rf 0x21 Reg.HIF_CTRL_Q0_EN = 1)) ∧
    ((bits d.toNat 16 8 ≠ q.val ∨ 2 ^ 24 ≤ d.toNat ∨ 2 ^ k.log2n < ahead 16 (d.toNat % 2 ^ 16) (k.h % 2 ^ 16)))) ∧
    (let r : Fin 256 := 0; let w : Word := 0; let k : Ring := r0; let s : State := cmds; s.hostUp = true ∧ tget? s.rings r.val = some k ∧
    ahead 16 (w.toNat % 2 ^ 16) (s.rf 0x22 (Reg.HQD_CQH_HEAD.nth 4 r.val)) ≤ ahead 16 (k.w % 2 ^ 16) (s.rf 0x22 (Reg.HQD_CQH_HEAD.nth 4 r.val))) ∧
    (let r : Fin 256 := 0; let w : Word := 5; let k : Ring := r0; let s : State := cmds; s.hostUp = true ∧ tget? s.rings r.val = some k ∧
    ahead 16 (k.w % 2 ^ 16) (s.rf 0x22 (Reg.HQD_CQH_HEAD.nth 4 r.val)) < ahead 16 (w.toNat % 2 ^ 16) (s.rf 0x22 (Reg.HQD_CQH_HEAD.nth 4 r.val))) ∧
    (let s : State := up0; s.hostUp = true ∧ s.rf 0x21 Reg.HIF_CTRL_Q0_EN = 0) ∧
    (let a : Nat := 5; let b : Nat := 6;
    let s : State := { (((cmds.wf 0x21 Reg.HIF_Q0_SIZE_SQ_LOG2 5).wf 0x21 Reg.HIF_Q0_SIZE_CQ_LOG2 6).wf 0x21 Reg.HIF_CQ0_HI_BASE 0x300) with queues := [], rings := [], q0Wanted := true } |> part0; s.q0Wanted = true ∧
    tget? s.queues 0 = none ∧ tget? s.rings 0 = none ∧ s.ringBusy 0 = false ∧ s.rf 0x21 Reg.HIF_Q0_SIZE_SQ_LOG2 = a ∧ s.rf 0x21 Reg.HIF_Q0_SIZE_CQ_LOG2 = b ∧ 4 ≤ a ∧
    a ≤ 12 ∧ 4 ≤ b ∧ s.base0 Reg.HIF_SQ0_LO_BASE Reg.HIF_SQ0_HI_BASE % 4096 = 0 ∧ s.base0 Reg.HIF_CQ0_LO_BASE Reg.HIF_CQ0_HI_BASE % 4096 = 0 ∧
    s.devicePlace (s.base0 Reg.HIF_SQ0_LO_BASE Reg.HIF_SQ0_HI_BASE) (128 * 2 ^ a) = true ∧
    s.ringPlace (s.base0 Reg.HIF_CQ0_LO_BASE Reg.HIF_CQ0_HI_BASE) (64 * 2 ^ b) = true) ∧
    (let k : Queue := kq; let s : State := { cmds with rings := [] }; s.hostUp = true ∧ tget? s.queues 0 = some k ∧ tget? s.rings 0 = none) :=
  ⟨by decide +kernel,
   by decide +kernel,
   by decide +kernel,
   by decide +kernel,
   by decide +kernel,
   by decide +kernel,
   by decide +kernel,
   by decide +kernel,
   by decide +kernel⟩

theorem test_QueueCommandsOpenAndCloseQueues_met :
    (let q : Fin 256 := 0; let e : Entry := ent []; let k : Queue := kq; let s : State := cmds; Admits spNop q.val k (eWithOp e 0x01) s ∧ eHandle (eWithOp e 0x01) = 0) ∧
    (let q : Fin 256 := 0; let e : Entry := chEnt []; let k : Queue := kq; let i : Nat := 0;
    let s : State := cmdP (cst 3 0); AdmitsFor spNop q.val k (eWithOp e 0x01) i s ∧ eHandle (eWithOp e 0x01) ≠ 0) ∧
    (let q : Fin 256 := 0; let e : Entry := ent [(0x10, 5), (0x11, 4), (0x13, 3), (0x18, 0x8000)]; let x : Entry := eWithOp e 2; let k : Queue := kq; let n : Nat := 5;
    let s : State := devP; x = eWithOp e 0x02 ∧ Admits spSqCreate q.val k x s ∧ n = eGet x 0x10 0 8 ∧ tget? s.queues n = none ∧
    s.devicePlace (eGet x 0x18 0 64) (128 * 2 ^ eGet x 0x11 0 4) = true) ∧
    (let q : Fin 256 := 0; let e : Entry := ent [(0x10, 5), (0x11, 4), (0x13, 3), (0x18, 0x8000)]; let x : Entry := eWithOp e 2; let k : Queue := kq; let d : Queue := kq;
    let s : State := { devP with queues := [(0, kq), (5, kq)] }; x = eWithOp e 0x02 ∧ Admits spSqCreate q.val k x s ∧ tget? s.queues (eGet x 0x10 0 8) = some d) ∧
    (let q : Fin 256 := 0; let e : Entry := ent [(0x10, 5)]; let x : Entry := eWithOp e 3; let k : Queue := kq; let d : Queue := kq; let n : Nat := 5;
    let s : State := { devP with queues := [(0, kq), (5, kq)] }; x = eWithOp e 0x03 ∧ Admits spSqDelete q.val k x s ∧ n = eGet x 0x10 0 8 ∧ n ≠ q.val ∧
    tget? s.queues n = some d ∧ d.waiting = []) ∧
    (let q : Fin 256 := 0; let e : Entry := ent [(0x10, 5)]; let x : Entry := eWithOp e 3; let k : Queue := kq; let d : Queue := { kq with waiting := [0] };
    let n : Nat := 5; let s : State := { devP with queues := [(0, kq), (5, d)] }; x = eWithOp e 0x03 ∧ Admits spSqDelete q.val k x s ∧ n = eGet x 0x10 0 8 ∧ n ≠ q.val ∧
    tget? s.queues n = some d ∧ d.waiting ≠ []) ∧
    (let q : Fin 256 := 0; let e : Entry := ent [(0x10, 5), (0x11, 4), (0x18, 0x030000001000)]; let x : Entry := eWithOp e 4; let k : Queue := kq; let n : Nat := 5;
    let s : State := devP; x = eWithOp e 0x04 ∧ Admits spCqCreate q.val k x s ∧ n = eGet x 0x10 0 8 ∧ tget? s.rings n = none ∧
    s.ringPlace (eGet x 0x18 0 64) (64 * 2 ^ eGet x 0x11 0 4) = true) ∧
    (let q : Fin 256 := 0; let e : Entry := ent [(0x10, 5), (0x11, 4), (0x18, 0x030000001000)]; let x : Entry := eWithOp e 4; let k : Queue := kq; let r : Ring := r0;
    let s : State := { devP with rings := [(0, r0), (5, r0)] }; x = eWithOp e 0x04 ∧ Admits spCqCreate q.val k x s ∧ tget? s.rings (eGet x 0x10 0 8) = some r) ∧
    (let q : Fin 256 := 0; let e : Entry := ent [(0x10, 5)]; let x : Entry := eWithOp e 5; let k : Queue := kq; let r : Ring := r0; let n : Nat := 5;
    let s : State := { devP with rings := [(0, r0), (5, r0)] }; x = eWithOp e 0x05 ∧ Admits spCqDelete q.val k x s ∧ n = eGet x 0x10 0 8 ∧ tget? s.rings n = some r ∧
    r.failed = false ∧ r.cur = none ∧ s.due.any (fun d => d.ring == n) = false ∧ s.queues.all (fun y => y.2.ring != n) = true ∧ k.ring ≠ n ∧
    s.chans.any (fun y => y.2.st != 0 && y.2.cq == n) = false) ∧
    (let q : Fin 256 := 0; let e : Entry := ent [(0x10, 5)]; let x : Entry := eWithOp e 5; let k : Queue := kq; let r : Ring := r0;
    let s : State := { devP with rings := [(0, r0), (5, r0)], chans := [(0, { cst 1 0 with cq := 5 })] }; x = eWithOp e 0x05 ∧ Admits spCqDelete q.val k x s ∧
    tget? s.rings (eGet x 0x10 0 8) = some r ∧ s.chans.any (fun y => y.2.st != 0 && y.2.cq == eGet x 0x10 0 8) = true) :=
  ⟨⟨by constructor <;> decide +kernel, by decide +kernel⟩,
   ⟨by constructor <;> decide +kernel, by decide +kernel⟩,
   ⟨by decide +kernel, by constructor <;> decide +kernel, by decide +kernel, by decide +kernel, by decide +kernel⟩,
   ⟨by decide +kernel, by constructor <;> decide +kernel, by decide +kernel⟩,
   ⟨by decide +kernel, by constructor <;> decide +kernel, by decide +kernel, by decide +kernel, by decide +kernel, by decide +kernel⟩,
   ⟨by decide +kernel, by constructor <;> decide +kernel, by decide +kernel, by decide +kernel, by decide +kernel, by decide +kernel⟩,
   ⟨by decide +kernel, by constructor <;> decide +kernel, by decide +kernel, by decide +kernel, by decide +kernel⟩,
   ⟨by decide +kernel, by constructor <;> decide +kernel, by decide +kernel⟩,
   ⟨by decide +kernel, by constructor <;> decide +kernel, by decide +kernel, by decide +kernel, by decide +kernel, by decide +kernel, by decide +kernel,
   by decide +kernel, by decide +kernel, by decide +kernel⟩,
   ⟨by decide +kernel, by constructor <;> decide +kernel, by decide +kernel, by decide +kernel⟩⟩

theorem test_EnsemblesAndSlotsFollowTheCommands_met :
    (let q : Fin 256 := 0; let e : Entry := ent [(0x10, 90), (0x11, 2), (0x20, 5), (0x21, 6)]; let x : Entry := eWithOp e 6; let k : Queue := kq; let n : Nat := 90;
    let ms : List Nat := [5, 6]; let s : State := counted devP; x = eWithOp e 0x06 ∧ Admits spEnsForm q.val k x s ∧ n = eGet x 0x10 0 8 ∧ ms = eMembers x ∧
    tget? s.ens n = none ∧ ((∀ m ∈ ms, s.ensExists m = true)) ∧ (ms.map s.ensDepth).foldl max 0 < 4 ∧ s.unionPlayers ms ≠ [] ∧
    ((∀ l ∈ s.unionPlayers ms, ∃ p, s.physOf l = some p ∧ s.outOf p = false))) ∧
    (let q : Fin 256 := 0; let e : Entry := ent [(0x10, 90), (0x11, 1), (0x20, 5)]; let x : Entry := eWithOp e 6; let k : Queue := kq; let d : Ens := ⟨[5], [0], 1⟩;
    let s : State := { devP with ens := [(90, d)] }; x = eWithOp e 0x06 ∧ Admits spEnsForm q.val k x s ∧ tget? s.ens (eGet x 0x10 0 8) = some d) ∧
    (let q : Fin 256 := 0; let e : Entry := ent [(0x10, 90)]; let x : Entry := eWithOp e 7; let k : Queue := kq; let n : Nat := 90; let d : Ens := ⟨[5], [0], 1⟩;
    let s : State := { devP with ens := [(90, d)] }; x = eWithOp e 0x07 ∧ Admits spEnsDissolve q.val k x s ∧ n = eGet x 0x10 0 8 ∧ tget? s.ens n = some d ∧
    s.chans.any (fun c => c.2.st != 0 && c.2.ty != 6 && c.2.ens == n) = false ∧ s.ens.any (fun y => y.2.members.contains n) = false) ∧
    (let q : Fin 256 := 0; let e : Entry := ent [(0x10, 90)]; let x : Entry := eWithOp e 7; let k : Queue := kq; let d : Ens := ⟨[5], [0], 1⟩;
    let s : State := { devP with ens := [(90, d)], chans := [(0, { cst 1 0 with ens := 90 })] }; x = eWithOp e 0x07 ∧ Admits spEnsDissolve q.val k x s ∧
    tget? s.ens (eGet x 0x10 0 8) = some d ∧ s.chans.any (fun c => c.2.st != 0 && c.2.ty != 6 && c.2.ens == eGet x 0x10 0 8) = true) ∧
    (let q : Fin 256 := 0; let e : Entry := ent [(0x10, 3)]; let x : Entry := eWithOp e 8; let k : Queue := kq; let pg : Nat := 0x103;
    let s : State := devP.wf 0x103 Reg.PG_STAT_SUSPECT 1; x = eWithOp e 0x08 ∧ Admits spRetire q.val k x s ∧ pg = 0x100 + eGet x 0x10 0 7 ∧
    s.rf pg Reg.PG_STAT_SUSPECT = 1) ∧
    (let q : Fin 256 := 0; let e : Entry := ent [(0x10, 3)]; let x : Entry := eWithOp e 8; let k : Queue := kq; let s : State := devP; x = eWithOp e 0x08 ∧
    Admits spRetire q.val k x s ∧ s.rf (0x100 + eGet x 0x10 0 7) Reg.PG_STAT_SUSPECT = 0) ∧
    (let q : Fin 256 := 0; let e : Entry := ent [(0x10, 3)]; let x : Entry := eWithOp e 9; let k : Queue := kq; let p : Nat := 3;
    let s : State := { devP.wf 0x103 Reg.PG_STAT_SUSPECT 1 with jobs := [(0, { waiting with detections := [(3, 1, 0), (4, 1, 0)] })] }; x = eWithOp e 0x09 ∧
    Admits spReadmit q.val k x s ∧ p = eGet x 0x10 0 7 ∧ s.rf (0x100 + p) Reg.PG_STAT_SUSPECT = 1) ∧
    (let handle : Word := 2 ^ 18; let i : Nat := 0; let n : Nat := 1;
    let s : State := counted { cmdP (cst 3 0) with jobs := [(0, waiting)] }; s.chanOf handle.toNat = some i ∧ (s.chan i).ty ≠ 6 ∧ (s.chan i).st = 3 ∧
    (s.chan i).slot = none ∧ s.jobs.any (fun j => j.2.chan == i && j.2.st == .ready) = true ∧ n ∈ s.liveOf (s.chan i).ens ∧ s.slotOwner n = none) ∧
    (let handle : Word := 2 ^ 18; let i : Nat := 0; let v : Nat := 1; let n : Nat := 0;
    let s : State := live 1 { cmdP (cst 3 0) with jobs := [(0, waiting)], chans := [(0, cst 3 0), (1, { cst 3 0 with slot := some 0 })] }; s.chanOf handle.toNat = some i ∧
    (s.chan i).ty ≠ 6 ∧ (s.chan i).st = 3 ∧ (s.chan i).slot = none ∧ s.jobs.any (fun j => j.2.chan == i && j.2.st == .ready) = true ∧
    ((∀ m ∈ s.liveOf (s.chan i).ens, s.slotOwner m ≠ none)) ∧ s.victim (s.liveOf (s.chan i).ens) = some v ∧ (s.chan v).slot = some n ∧ v ≠ i) ∧
    (let handle : Word := 2 ^ 18; let i : Nat := 0;
    let s : State := live 1 { cmdP (cst 3 0) with jobs := [(0, waiting)], chans := [(0, cst 3 0), (1, { cst 2 0 with slot := some 0 })] }; s.chanOf handle.toNat = some i ∧
    (s.chan i).ty ≠ 6 ∧ (s.chan i).st = 3 ∧ (s.chan i).slot = none ∧ s.jobs.any (fun j => j.2.chan == i && j.2.st == .ready) = true ∧
    ((∀ m ∈ s.liveOf (s.chan i).ens, s.slotOwner m ≠ none)) ∧ s.victim (s.liveOf (s.chan i).ens) = none) :=
  ⟨⟨by decide +kernel, by constructor <;> decide +kernel, by decide +kernel, by decide +kernel, by decide +kernel, by decide +kernel, by decide +kernel,
   by decide +kernel, by decide +kernel⟩,
   ⟨by decide +kernel, by constructor <;> decide +kernel, by decide +kernel⟩,
   ⟨by decide +kernel, by constructor <;> decide +kernel, by decide +kernel, by decide +kernel, by decide +kernel, by decide +kernel⟩,
   ⟨by decide +kernel, by constructor <;> decide +kernel, by decide +kernel, by decide +kernel⟩,
   ⟨by decide +kernel, by constructor <;> decide +kernel, by decide +kernel, by decide +kernel⟩,
   ⟨by decide +kernel, by constructor <;> decide +kernel, by decide +kernel⟩,
   ⟨by decide +kernel, by constructor <;> decide +kernel, by decide +kernel, by decide +kernel⟩,
   by decide +kernel,
   by decide +kernel,
   by decide +kernel⟩

theorem test_CountersignedCommandsNeedTheirRecords_met_verified (hv : ∀ k f m x, Config.slhVerify k f m x = true) (hk : ∀ b n, Config.shake256 b n = List.replicate n 0) :
    (let q : Fin 256 := 0; let e : Entry := cswEnt [] 59688; let x : Entry := eWithOp e 0x0C; let remote : List Byte := cswBytes 1 1 fieldItem; let k : Queue := kq;
    let r : CswRec := recOf 1 1 fieldItem [.field 0x20 0x144 0xFF 3]; let o : Nat := 0x144; let m : Nat := 0xFF; let v : Nat := 3;
    let s : State := cswState twoKeys; x = eWithOp e 0x0C ∧ Admits spCswApply q.val k x s ∧ s.recPlace (eGet x 0x18 0 64) (eGet x 0x20 0 64) = true ∧
    cswCheck (s.record (eGet x 0x18 0 64) (eGet x 0x20 0 64) remote) s = .ok r ∧ r.kind = 1 ∧ r.persist = false ∧ r.items = [.field 0x20 o m v] ∧ o < 4096 ∧
    partCheck r s = none) ∧
    (let q : Fin 256 := 0; let e : Entry := cswEnt [] 59816; let x : Entry := eWithOp e 0x0C; let remote : List Byte := cswBytes 2 2 (keyItem 0 ++ keyItem 1);
    let k : Queue := kq; let r : CswRec := recOf 2 2 (keyItem 0 ++ keyItem 1) [.key 0 0 (List.replicate 64 0), .key 1 0 (List.replicate 64 0)];
    let s : State := cswState {}; x = eWithOp e 0x0C ∧ Admits spCswApply q.val k x s ∧ s.recPlace (eGet x 0x18 0 64) (eGet x 0x20 0 64) = true ∧
    cswCheck (s.record (eGet x 0x18 0 64) (eGet x 0x20 0 64) remote) s = .ok r ∧ r.kind = 2) ∧
    (let q : Fin 256 := 0; let e : Entry := cswEnt [(0x10, 3), (0x11, 16)] 59688; let x : Entry := eWithOp e 0x0A; let remote : List Byte := cswBytes 3 1 repairItem;
    let k : Queue := kq; let r : CswRec := recOf 3 1 repairItem [.repair 3 16]; let p : Nat := 3; let sp : Nat := 16;
    let s : State := cswState twoKeys; x = eWithOp e 0x0A ∧ Admits spRepair q.val k x s ∧ p = eGet x 0x10 0 7 ∧ sp = eGet x 0x11 0 7 ∧
    s.recPlace (eGet x 0x18 0 64) (eGet x 0x20 0 64) = true ∧ cswCheck (s.record (eGet x 0x18 0 64) (eGet x 0x20 0 64) remote) s = .ok r ∧ r.kind = 3 ∧
    r.items = [.repair p sp] ∧ repairOk p sp s = true) :=
  ⟨⟨by decide +kernel, by constructor <;> decide +kernel, by decide +kernel, by
  rw [record_of (by decide +kernel) (by rw [cswBytes_length]; decide +kernel) (by decide +kernel)]
  exact cswCheck_of (cswParse_with (size := 16) List.length_replicate rfl rfl (by decide +kernel) (by decide +kernel) (by decide +kernel) (by decide +kernel) (by decide +kernel) (by decide +kernel))
    (by decide +kernel) hk rfl (by decide +kernel) (by decide +kernel) hv (by decide +kernel) (by decide +kernel), by decide +kernel, by decide +kernel, by decide +kernel, by decide +kernel, by decide +kernel⟩,
   ⟨by decide +kernel, by constructor <;> decide +kernel, by decide +kernel, by
  rw [record_of (by decide +kernel) (by rw [cswBytes_length]; decide +kernel) (by decide +kernel)]
  exact cswCheck_of (cswParse_with (size := 72) List.length_replicate rfl rfl (by decide +kernel) (by decide +kernel) (by decide +kernel) (by decide +kernel) (by decide +kernel) (by decide +kernel))
    (by decide +kernel) hk rfl (by decide +kernel) (by decide +kernel) hv (by decide +kernel) (by decide +kernel), by decide +kernel⟩,
   ⟨by decide +kernel, by constructor <;> decide +kernel, by decide +kernel, by decide +kernel, by decide +kernel, by
  rw [record_of (by decide +kernel) (by rw [cswBytes_length]; decide +kernel) (by decide +kernel)]
  exact cswCheck_of (cswParse_with (size := 16) List.length_replicate rfl rfl (by decide +kernel) (by decide +kernel) (by decide +kernel) (by decide +kernel) (by decide +kernel) (by decide +kernel))
    (by decide +kernel) hk rfl (by decide +kernel) (by decide +kernel) hv (by decide +kernel) (by decide +kernel), by decide +kernel, by decide +kernel, by decide +kernel⟩⟩

theorem test_CountersignedCommandsNeedTheirRecords_met :
    (let q : Fin 256 := 0; let e : Entry := ent [(0x18, 0x5000), (0x20, 64)]; let x : Entry := eWithOp e 0x0C; let remote : List Byte := []; let k : Queue := kq;
    let f : CswFail := (match cswCheck (devP.record (eGet x 0x18 0 64) (eGet x 0x20 0 64) remote) devP with | .error f => f | _ => ⟨0, 0, 0⟩);
    let s : State := devP; x = eWithOp e 0x0C ∧ Admits spCswApply q.val k x s ∧ s.recPlace (eGet x 0x18 0 64) (eGet x 0x20 0 64) = true ∧
    cswCheck (s.record (eGet x 0x18 0 64) (eGet x 0x20 0 64) remote) s = .error f) ∧
    (let q : Fin 256 := 0; let e : Entry := ent [(0x18, 0x5000), (0x20, 0x10000)]; let x : Entry := eWithOp e 0x0D; let k : Queue := kq;
    let s : State := { devP with ids := { devP.ids with chain := { devP.ids.chain with a := [], b := [] } } }; x = eWithOp e 0x0D ∧ Admits spAttest q.val k x s ∧
    s.outPlace (eGet x 0x18 0 64) (eGet x 0x20 0 64) = true ∧ reportLen s ≤ eGet x 0x20 0 64 ∧ isRemote (eGet x 0x18 0 64) = false) ∧
    (let q : Fin 256 := 0; let e : Entry := ent [(0x18, 0x5000), (0x20, 64)]; let x : Entry := eWithOp e 0x0D; let k : Queue := kq;
    let s : State := devP; x = eWithOp e 0x0D ∧ Admits spAttest q.val k x s ∧ s.outPlace (eGet x 0x18 0 64) (eGet x 0x20 0 64) = true ∧ eGet x 0x20 0 64 < reportLen s) ∧
    (let q : Fin 256 := 0; let e : Entry := ent [(0x10, 4)]; let x : Entry := eWithOp e 0x0B; let k : Queue := kq; let s : State := pairUp 2 3; x = eWithOp e 0x0B ∧
    Admits spPromote q.val k x s ∧ s.role = 2 ∧ ((s.pairState = 3 ∨ s.pairState = 4)) ∧ eGet x 0x10 0 16 = s.pairEpoch ∧ s.chans = []) ∧
    (let q : Fin 256 := 0; let e : Entry := ent [(0x10, 4)]; let x : Entry := eWithOp e 0x0B; let k : Queue := kq; let s : State := pairUp 1 3; x = eWithOp e 0x0B ∧
    Admits spPromote q.val k x s ∧ ((s.role ≠ 2 ∨ (s.pairState ≠ 3 ∧ s.pairState ≠ 4)))) ∧
    (let q : Fin 256 := 0; let e : Entry := ent [(0x10, 5)]; let x : Entry := eWithOp e 0x0B; let k : Queue := kq; let s : State := pairUp 2 3; x = eWithOp e 0x0B ∧
    Admits spPromote q.val k x s ∧ s.role = 2 ∧ ((s.pairState = 3 ∨ s.pairState = 4)) ∧ eGet x 0x10 0 16 ≠ s.pairEpoch) :=
  ⟨⟨by decide +kernel, by constructor <;> decide +kernel, by decide +kernel, rfl⟩,
   ⟨by decide +kernel, by constructor <;> decide +kernel, by decide +kernel, by decide +kernel, by decide +kernel⟩,
   ⟨by decide +kernel, by constructor <;> decide +kernel, by decide +kernel, by decide +kernel⟩,
   ⟨by decide +kernel, by constructor <;> decide +kernel, by decide +kernel, by decide +kernel, by decide +kernel, by decide +kernel⟩,
   ⟨by decide +kernel, by constructor <;> decide +kernel, by decide +kernel⟩,
   ⟨by decide +kernel, by constructor <;> decide +kernel, by decide +kernel, by decide +kernel, by decide +kernel⟩⟩

theorem test_ChannelsAreCreatedStartedStoppedDestroyed_met :
    (let q : Fin 256 := 0; let e : Entry := ent [(0x10, 0), (0x20, 0x10000), (0x28, 0x2000)]; let x : Entry := eWithOp e 0x10; let k : Queue := kq; let i : Nat := 1;
    let s : State := cmdP (cst 3 0); x = eWithOp e 0x10 ∧ Admits spChCreate q.val k x s ∧ chCreateCheck x s = 0 ∧ i = s.nextIndex ∧ i < 2 ^ 18 ∧ s.devSeq < 2 ^ 32) ∧
    (let q : Fin 256 := 0; let e : Entry := ent [(0x10, 0), (0x11, 90), (0x20, 0x10000), (0x28, 0x2000)]; let x : Entry := eWithOp e 0x10; let k : Queue := kq;
    let s : State := cmdP (cst 3 0); x = eWithOp e 0x10 ∧ Admits spChCreate q.val k x s ∧ s.ensExists (eGet x 0x11 0 8) = false) ∧
    (let q : Fin 256 := 0; let e : Entry := chEnt []; let x : Entry := eWithOp e 0x15; let k : Queue := kq; let i : Nat := 0; let n : Nat := 1;
    let s : State := counted (cmdP { cst 1 5 with pkg := some {}, io := some {} }); x = eWithOp e 0x15 ∧ AdmitsFor spChPrepare q.val k x i s ∧ startCheck i s = (0, 0) ∧
    (s.chan i).ty ≠ 6 ∧ (s.chan i).slot = none ∧ n ∈ s.liveOf (s.chan i).ens ∧ s.slotOwner n = none) ∧
    (let q : Fin 256 := 0; let e : Entry := chEnt []; let x : Entry := eWithOp e 0x15; let k : Queue := kq; let i : Nat := 0;
    let s : State := cmdP (cst 1 5); x = eWithOp e 0x15 ∧ AdmitsFor spChPrepare q.val k x i s ∧ (s.chan i).missing false ≠ 0) ∧
    (let q : Fin 256 := 0; let e : Entry := chEnt []; let x : Entry := eWithOp e 0x16; let k : Queue := kq; let i : Nat := 0;
    let s : State := counted (cmdP { cst 1 5 with pkg := some {}, io := some {} }); x = eWithOp e 0x16 ∧ AdmitsFor spChStart q.val k x i s ∧ startCheck i s = (0, 0) ∧
    (s.chan i).page = false ∧ (s.chan i).size = false ∧ (s.chan i).susp = false) ∧
    (let q : Fin 256 := 0; let e : Entry := chEnt []; let x : Entry := eWithOp e 0x16; let k : Queue := kq; let i : Nat := 0;
    let s : State := cmdP (cst 1 5); x = eWithOp e 0x16 ∧ AdmitsFor spChStart q.val k x i s ∧ (s.chan i).missing false ≠ 0) ∧
    (let q : Fin 256 := 0; let e : Entry := chEnt []; let x : Entry := eWithOp e 0x17; let k : Queue := kq; let i : Nat := 0;
    let s : State := cmdP { cst 3 5 with slot := some 1 }; x = eWithOp e 0x17 ∧ AdmitsFor spChStop q.val k x i s ∧ (s.chan i).st ≠ 5 ∧ s.chanJobs i = [] ∧ s.stores = [] ∧
    (s.chan i).endDue = false ∧ (s.chan i).live = none ∧ (s.chan i).stopping = [] ∧ (s.chan i).codec.dec.pic = none ∧ s.opens = []) ∧
    (let q : Fin 256 := 0; let e : Entry := chEnt [(0x10, 1)]; let x : Entry := eWithOp e 0x17; let k : Queue := kq; let i : Nat := 0;
    let s : State := { cmdP (cst 3 5) with jobs := [(0, waiting)] }; x = eWithOp e 0x17 ∧ AdmitsFor spChStop q.val k x i s ∧ s.chanJobs i ≠ []) ∧
    (let q : Fin 256 := 0; let e : Entry := chEnt []; let x : Entry := eWithOp e 0x11; let k : Queue := kq; let i : Nat := 0;
    let s : State := cmdP (cst 1 5); x = eWithOp e 0x11 ∧ AdmitsFor spChDestroy q.val k x i s ∧ s.opens = []) :=
  ⟨⟨by decide +kernel, by constructor <;> decide +kernel, by decide +kernel, by decide +kernel, by decide +kernel, by decide +kernel⟩,
   ⟨by decide +kernel, by constructor <;> decide +kernel, by decide +kernel⟩,
   ⟨by decide +kernel, by constructor <;> decide +kernel, by decide +kernel, by decide +kernel, by decide +kernel, by decide +kernel, by decide +kernel⟩,
   ⟨by decide +kernel, by constructor <;> decide +kernel, by decide +kernel⟩,
   ⟨by decide +kernel, by constructor <;> decide +kernel, by decide +kernel, by decide +kernel, by decide +kernel, by decide +kernel⟩,
   ⟨by decide +kernel, by constructor <;> decide +kernel, by decide +kernel⟩,
   ⟨by decide +kernel, by constructor <;> decide +kernel, by decide +kernel, by decide +kernel, by decide +kernel, by decide +kernel, by decide +kernel,
   by decide +kernel, by decide +kernel, by decide +kernel⟩,
   ⟨by decide +kernel, by constructor <;> decide +kernel, by decide +kernel⟩,
   ⟨by decide +kernel, by constructor <;> decide +kernel, by decide +kernel⟩⟩

theorem test_ChannelSettingsTakeEffect_met :
    (let q : Fin 256 := 0; let e : Entry := chEnt [(0x10, 3)]; let x : Entry := eWithOp e 0x18; let k : Queue := kq; let i : Nat := 0;
    let s : State := cmdP (cst 3 5); x = eWithOp e 0x18 ∧ AdmitsFor spChSet q.val k x i s ∧ s.dispatched i = false ∧ s.opens = []) ∧
    (let q : Fin 256 := 0; let e : Entry := chEnt [(0x10, 3)]; let x : Entry := eWithOp e 0x18; let k : Queue := kq; let i : Nat := 0;
    let s : State := { cmdP (cst 3 5) with jobs := [(0, job0 0)] }; x = eWithOp e 0x18 ∧ AdmitsFor spChSet q.val k x i s ∧ s.dispatched i = true) ∧
    (let q : Fin 256 := 0; let e : Entry := chEnt [(0x10, 7), (0x20, 1)]; let x : Entry := eWithOp e 0x19; let k : Queue := kq; let i : Nat := 0;
    let s : State := cmdP (cst 3 5); x = eWithOp e 0x19 ∧ AdmitsFor spStatsSet q.val k x i s ∧ statBlockOk (eBytes x 0x10 24) = true ∧ leAt (eBytes x 0x10 24) 8 8 = 0) ∧
    (let q : Fin 256 := 0; let e : Entry := chEnt [(0x24, 1)]; let x : Entry := eWithOp e 0x19; let k : Queue := kq; let i : Nat := 0;
    let s : State := cmdP (cst 3 5); x = eWithOp e 0x19 ∧ AdmitsFor spStatsSet q.val k x i s ∧ statBlockOk (eBytes x 0x10 24) = false) ∧
    (let q : Fin 256 := 0; let e : Entry := chEnt [(0x10, 5)]; let x : Entry := eWithOp e 0x1A; let k : Queue := kq; let i : Nat := 0; let n : Nat := 5;
    let s : State := cmdP (cst 1 5); x = eWithOp e 0x1A ∧ AdmitsFor spChEnsemble q.val k x i s ∧ n = eGet x 0x10 0 8 ∧ (s.chan i).ty ≠ 6 ∧ s.ensExists n = true ∧
    (((s.chan i).pkg = none ∨ s.ensFits n (s.chan i).pkg = true)) ∧ (s.chan i).st = 1) ∧
    (let q : Fin 256 := 0; let e : Entry := chEnt [(0x10, 5)]; let x : Entry := eWithOp e 0x1A; let k : Queue := kq; let i : Nat := 0; let n : Nat := 5;
    let s : State := cmdP { cst 4 5 with susp := true }; x = eWithOp e 0x1A ∧ AdmitsFor spChEnsemble q.val k x i s ∧ n = eGet x 0x10 0 8 ∧ (s.chan i).ty ≠ 6 ∧
    s.ensExists n = true ∧ (((s.chan i).pkg = none ∨ s.ensFits n (s.chan i).pkg = true)) ∧ (s.chan i).st = 4 ∧ (s.chan i).page = false ∧
    (((s.chan i).size = true ∨ (s.chan i).susp = true))) ∧
    (let q : Fin 256 := 0; let e : Entry := chEnt [(0x10, 5)]; let x : Entry := eWithOp e 0x1A; let k : Queue := kq; let i : Nat := 0;
    let s : State := cmdP { cst 4 5 with page := true }; x = eWithOp e 0x1A ∧ AdmitsFor spChEnsemble q.val k x i s ∧ (s.chan i).st = 4 ∧ (s.chan i).size = false ∧
    (s.chan i).susp = false) ∧
    (let q : Fin 256 := 0; let e : Entry := chEnt []; let x : Entry := eWithOp e 0x1B; let k : Queue := kq; let i : Nat := 0;
    let s : State := cmdP { cst 4 5 with susp := true, page := true }; x = eWithOp e 0x1B ∧ AdmitsFor spChContinue q.val k x i s ∧ (s.chan i).susp = true) ∧
    (let q : Fin 256 := 0; let e : Entry := chEnt []; let x : Entry := eWithOp e 0x1B; let k : Queue := kq; let i : Nat := 0;
    let s : State := cmdP { cst 4 5 with page := true }; x = eWithOp e 0x1B ∧ AdmitsFor spChContinue q.val k x i s ∧ (s.chan i).susp = false) ∧
    (let q : Fin 256 := 0; let e : Entry := chEnt []; let x : Entry := eWithOp e 0x1C; let k : Queue := kq; let i : Nat := 0;
    let s : State := cmdP (cst 3 0); x = eWithOp e 0x1C ∧ AdmitsFor spForceIntra q.val k x i s) ∧
    (let q : Fin 256 := 0; let e : Entry := chEnt [(0x10, 1)]; let x : Entry := eWithOp e 0x20; let k : Queue := kq; let i : Nat := 0;
    let s : State := { cmdP (cst 3 5) with jobs := [(0, waiting), (1, { waiting with seq := 2 })] }; x = eWithOp e 0x20 ∧ AdmitsFor spCancel q.val k x i s) :=
  ⟨⟨by decide +kernel, by constructor <;> decide +kernel, by decide +kernel, by decide +kernel⟩,
   ⟨by decide +kernel, by constructor <;> decide +kernel, by decide +kernel⟩,
   ⟨by decide +kernel, by constructor <;> decide +kernel, by decide +kernel, by decide +kernel⟩,
   ⟨by decide +kernel, by constructor <;> decide +kernel, by decide +kernel⟩,
   ⟨by decide +kernel, by constructor <;> decide +kernel, by decide +kernel, by decide +kernel, by decide +kernel, by decide +kernel, by decide +kernel⟩,
   ⟨by decide +kernel, by constructor <;> decide +kernel, by decide +kernel, by decide +kernel, by decide +kernel, by decide +kernel, by decide +kernel,
   by decide +kernel, by decide +kernel⟩,
   ⟨by decide +kernel, by constructor <;> decide +kernel, by decide +kernel, by decide +kernel, by decide +kernel⟩,
   ⟨by decide +kernel, by constructor <;> decide +kernel, by decide +kernel⟩,
   ⟨by decide +kernel, by constructor <;> decide +kernel, by decide +kernel⟩,
   ⟨by decide +kernel, by constructor <;> decide +kernel⟩,
   ⟨by decide +kernel, by constructor <;> decide +kernel⟩⟩

theorem test_ChannelsTakePackagesRecordsAndFlows_met :
    (let q : Fin 256 := 0; let e : Entry := chEnt [(0x10, 0x1000), (0x18, 64)]; let x : Entry := eWithOp e 0x12; let p : Package := {}; let k : Queue := kq;
    let i : Nat := 0; let s : State := mapped (cmdP (cst 3 5)); x = eWithOp e 0x12 ∧ AdmitsFor spPkgLoad q.val k x i s ∧ eGet x 0x18 0 64 ≠ 0 ∧
    s.firstBad i (eGet x 0x10 0 64) (eGet x 0x18 0 64) false = none ∧ pkgCheck p = 0 ∧ chainCheck (pkgEdges i p s ++ bindingEdges i s) s = 0) ∧
    (let q : Fin 256 := 0; let e : Entry := chEnt [(0x10, 0x1000), (0x18, 64)]; let x : Entry := eWithOp e 0x12; let p : Package := { structOk := false };
    let k : Queue := kq; let i : Nat := 0; let s : State := mapped (cmdP (cst 3 5)); x = eWithOp e 0x12 ∧ AdmitsFor spPkgLoad q.val k x i s ∧ eGet x 0x18 0 64 ≠ 0 ∧
    s.firstBad i (eGet x 0x10 0 64) (eGet x 0x18 0 64) false = none ∧ pkgCheck p ≠ 0) ∧
    (let handle : Word := 2 ^ 18; let i : Nat := 0; let c : Ctx := { queue := 0, tag := 7, handle := 2 ^ 18, seq := 4, ring := 0, chan := some 0 }; let p : Package := {};
    let rest : List OpenCmd := []; let s : State := { cmdP (cst 3 5) with opens := [.pkgLoad c p] }; s.chanOf handle.toNat = some i ∧ s.opens = .pkgLoad c p :: rest ∧
    c.chan = some i ∧ c.fwd = none ∧ c.quiet = false ∧ (tget? s.rings c.ring).isSome = true ∧ s.jobs.any (fun j => j.2.chan == i) = false) ∧
    (let handle : Word := 2 ^ 18; let i : Nat := 0; let c : Ctx := { queue := 0, tag := 7, handle := 2 ^ 18, seq := 4, ring := 0, chan := some 0 }; let p : Package := {};
    let rest : List OpenCmd := []; let s : State := { cmdP (cst 3 5) with opens := [.pkgLoad c p], jobs := [(0, job0 0)] }; s.chanOf handle.toNat = some i ∧
    s.opens = .pkgLoad c p :: rest ∧ c.chan = some i ∧ s.jobs.any (fun j => j.2.chan == i) = true) ∧
    (let q : Fin 256 := 0; let e : Entry := chEnt [(0x10, 4), (0x11, 2)]; let x : Entry := eWithOp e 0x13; let k : Queue := kq; let i : Nat := 0;
    let r : List Byte := eBytes x 0x10 64; let h : List Byte := eBytes x 0x50 36; let s : State := cmdP (cst 1 1); x = eWithOp e 0x13 ∧ AdmitsFor spChBind q.val k x i s ∧
    r = eBytes x 0x10 64 ∧ h = eBytes x 0x50 36 ∧ (((s.chan i).ty ≠ 0 → (s.chan i).ty ≠ 3 → h.all (· == 0) = true)) ∧
    ((((s.chan i).ty = 3 ∨ (s.chan i).ty = 4) → zeros r 32 32 = true ∧ (auIo r = 0 → auBase r % 64 = 0))) ∧ bindCheck (s.chan i) r h s = 0 ∧
    (((s.chan i).pkg = none ∨ s.ensFits (s.chan i).ens (s.chan i).pkg = true))) ∧
    (let q : Fin 256 := 0; let e : Entry := chEnt [(0x10, 3)]; let x : Entry := eWithOp e 0x13; let k : Queue := kq; let i : Nat := 0;
    let r : List Byte := eBytes x 0x10 64; let h : List Byte := eBytes x 0x50 36; let s : State := cmdP (cst 1 1); x = eWithOp e 0x13 ∧ AdmitsFor spChBind q.val k x i s ∧
    r = eBytes x 0x10 64 ∧ h = eBytes x 0x50 36 ∧ (((s.chan i).ty ≠ 0 → (s.chan i).ty ≠ 3 → h.all (· == 0) = true)) ∧
    ((((s.chan i).ty = 3 ∨ (s.chan i).ty = 4) → zeros r 32 32 = true ∧ (auIo r = 0 → auBase r % 64 = 0))) ∧ bindCheck (s.chan i) r h s ≠ 0) ∧
    (let q : Fin 256 := 0; let e : Entry := chEnt [(0x10, 4), (0x11, 2)]; let x : Entry := eWithOp e 0x13; let k : Queue := kq; let i : Nat := 0;
    let r : List Byte := eBytes x 0x10 64; let h : List Byte := eBytes x 0x50 36;
    let s : State := cmdP { cst 1 1 with ens := 90, pkg := some { sheets := [(3, sheet 0x13)] } }; x = eWithOp e 0x13 ∧ AdmitsFor spChBind q.val k x i s ∧
    r = eBytes x 0x10 64 ∧ h = eBytes x 0x50 36 ∧ (((s.chan i).ty ≠ 0 → (s.chan i).ty ≠ 3 → h.all (· == 0) = true)) ∧
    ((((s.chan i).ty = 3 ∨ (s.chan i).ty = 4) → zeros r 32 32 = true ∧ (auIo r = 0 → auBase r % 64 = 0))) ∧ bindCheck (s.chan i) r h s = 0 ∧
    (s.chan i).pkg.isSome = true ∧ s.ensFits (s.chan i).ens (s.chan i).pkg = false) ∧
    (let q : Fin 256 := 0; let e : Entry := chEnt []; let x : Entry := eWithOp e 0x14; let k : Queue := kq; let i : Nat := 0;
    let s : State := cmdP { cst 1 1 with io := none }; x = eWithOp e 0x14 ∧ AdmitsFor spChIo q.val k x i s ∧ (s.chan i).io = none ∧ eGet x 0x10 0 8 = 0 ∧
    (((s.chan i).ty = 0 ∨ (s.chan i).ty = 2 → eGet x 0x11 0 8 ≠ 0)) ∧ (((s.chan i).ty = 1 ∨ (s.chan i).ty = 4 → eGet x 0x11 0 8 = 0))) ∧
    (let q : Fin 256 := 0; let e : Entry := chEnt [(0x10, 1), (0x11, 2), (0x12, 3)]; let x : Entry := eWithOp e 0x14; let k : Queue := kq; let i : Nat := 0;
    let n : Nat := 3; let s : State := { cmdP { cst 1 0 with io := none } with flows := [(3, { kind := 1 })] }; x = eWithOp e 0x14 ∧ AdmitsFor spChIo q.val k x i s ∧
    (s.chan i).io = none ∧ eGet x 0x10 0 8 = 1 ∧ n = eGet x 0x12 0 16 ∧ s.flowOk i n false = true ∧ (((s.chan i).ty = 0 ∨ (s.chan i).ty = 2 → eGet x 0x11 0 8 ≠ 0)) ∧
    (((s.chan i).ty = 1 ∨ (s.chan i).ty = 4 → eGet x 0x11 0 8 = 0))) ∧
    (let q : Fin 256 := 0; let e : Entry := chEnt [(0x10, 1), (0x11, 2), (0x12, 3)]; let x : Entry := eWithOp e 0x14; let k : Queue := kq; let i : Nat := 0;
    let s : State := cmdP { cst 1 0 with io := none }; x = eWithOp e 0x14 ∧ AdmitsFor spChIo q.val k x i s ∧ eGet x 0x10 0 8 = 1 ∧
    s.flowOk i (eGet x 0x12 0 16) false = false ∧ (((s.chan i).ty = 0 ∨ (s.chan i).ty = 2 → eGet x 0x11 0 8 ≠ 0)) ∧
    (((s.chan i).ty = 1 ∨ (s.chan i).ty = 4 → eGet x 0x11 0 8 = 0))) :=
  ⟨⟨by decide +kernel, by constructor <;> decide +kernel, by decide +kernel, by decide +kernel, by decide +kernel, by decide +kernel⟩,
   ⟨by decide +kernel, by constructor <;> decide +kernel, by decide +kernel, by decide +kernel, by decide +kernel⟩,
   by decide +kernel,
   by decide +kernel,
   ⟨by decide +kernel, by constructor <;> decide +kernel, by decide +kernel, by decide +kernel, by decide +kernel, by decide +kernel, by decide +kernel,
   by decide +kernel⟩,
   ⟨by decide +kernel, by constructor <;> decide +kernel, by decide +kernel, by decide +kernel, by decide +kernel, by decide +kernel, by decide +kernel⟩,
   ⟨by decide +kernel, by constructor <;> decide +kernel, by decide +kernel, by decide +kernel, by decide +kernel, by decide +kernel, by decide +kernel,
   by decide +kernel, by decide +kernel⟩,
   ⟨by decide +kernel, by constructor <;> decide +kernel, by decide +kernel, by decide +kernel, by decide +kernel, by decide +kernel⟩,
   ⟨by decide +kernel, by constructor <;> decide +kernel, by decide +kernel, by decide +kernel, by decide +kernel, by decide +kernel, by decide +kernel,
   by decide +kernel⟩,
   ⟨by decide +kernel, by constructor <;> decide +kernel, by decide +kernel, by decide +kernel, by decide +kernel, by decide +kernel⟩⟩

theorem test_CountsMoveAndWorkStarts_met :
    (let q : Fin 256 := 0; let e : Entry := chEnt [(0x10, 1)]; let x : Entry := eWithOp e 0x1D; let k : Queue := kq; let i : Nat := 0; let n : Nat := 1;
    let s : State := cmdP { recvChan 0 with st := 3 }; x = eWithOp e 0x1D ∧ AdmitsFor spStreamIn q.val k x i s ∧ eQuiet x = false ∧ n = eGet x 0x10 0 64 ∧
    (((s.chan i).ty = 0 ∨ (s.chan i).ty = 1 ∨ (s.chan i).ty = 4)) ∧ (s.chan i).codec.total ≤ n ∧ n ≤ (s.chan i).codec.used + (s.chan i).inCap) ∧
    (let q : Fin 256 := 0; let e : Entry := chEnt [(0x10, 1), (1, 2)]; let x : Entry := eWithOp e 0x1D; let k : Queue := kq; let i : Nat := 0; let n : Nat := 1;
    let s : State := cmdP { recvChan 1 with st := 3 }; x = eWithOp e 0x1D ∧ AdmitsFor spStreamIn q.val k x i s ∧ eQuiet x = true ∧ n = eGet x 0x10 0 64 ∧
    (((s.chan i).ty = 0 ∨ (s.chan i).ty = 1 ∨ (s.chan i).ty = 4)) ∧ (s.chan i).codec.total ≤ n ∧ n ≤ (s.chan i).codec.used + (s.chan i).inCap) ∧
    (let q : Fin 256 := 0; let e : Entry := chEnt [(0x10, 1)]; let x : Entry := eWithOp e 0x1D; let k : Queue := kq; let i : Nat := 0; let n : Nat := 1;
    let s : State := (((cmdP { recvChan 2 with st := 3 }).wf 0x38 Reg.PAIR_CFG_ROLE 2).wf 0x38 Reg.PAIR_STATE_STATE 3); x = eWithOp e 0x1D ∧
    AdmitsFor spStreamIn q.val k x i s ∧ eQuiet x = false ∧ n = eGet x 0x10 0 64 ∧ (((s.chan i).ty = 2 ∨ (s.chan i).ty = 3)) ∧ s.standby = true ∧
    (s.chan i).codec.total ≤ n ∧ n ≤ (s.chan i).codec.used + (s.chan i).inCap) ∧
    (let q : Fin 256 := 0; let e : Entry := chEnt [(0x10, 9)]; let x : Entry := eWithOp e 0x1D; let k : Queue := kq; let i : Nat := 0; let n : Nat := 9;
    let s : State := cmdP { recvChan 0 with st := 3 }; x = eWithOp e 0x1D ∧ AdmitsFor spStreamIn q.val k x i s ∧ eQuiet x = false ∧ n = eGet x 0x10 0 64 ∧
    ((5 ≤ (s.chan i).ty ∨ n < (s.chan i).codec.total ∨ (s.chan i).codec.used + (s.chan i).inCap < n))) ∧
    (let q : Fin 256 := 0; let e : Entry := chEnt [(0x10, 2)]; let x : Entry := eWithOp e 0x1E; let k : Queue := kq; let i : Nat := 0; let n : Nat := 2;
    let s : State := cmdP { recvChan 0 { made := 3 } with st := 3 }; x = eWithOp e 0x1E ∧ AdmitsFor spOutHead q.val k x i s ∧ eQuiet x = false ∧ n = eGet x 0x10 0 64 ∧
    (s.chan i).ty < 5 ∧ (s.chan i).codec.head ≤ n ∧ n ≤ (s.chan i).codec.made ∧ (s.chan i).stopping = [] ∧ (s.chan i).dying = none) ∧
    (let q : Fin 256 := 0; let e : Entry := chEnt [(0x10, 2), (1, 2)]; let x : Entry := eWithOp e 0x1E; let k : Queue := kq; let i : Nat := 0; let n : Nat := 2;
    let s : State := cmdP { recvChan 0 { made := 3 } with st := 3 }; x = eWithOp e 0x1E ∧ AdmitsFor spOutHead q.val k x i s ∧ eQuiet x = true ∧ n = eGet x 0x10 0 64 ∧
    (s.chan i).ty < 5 ∧ (s.chan i).codec.head ≤ n ∧ n ≤ (s.chan i).codec.made ∧ (s.chan i).stopping = [] ∧ (s.chan i).dying = none) ∧
    (let q : Fin 256 := 0; let e : Entry := chEnt [(0x10, 4)]; let x : Entry := eWithOp e 0x1E; let k : Queue := kq; let i : Nat := 0; let n : Nat := 4;
    let s : State := cmdP { recvChan 0 { made := 3 } with st := 3 }; x = eWithOp e 0x1E ∧ AdmitsFor spOutHead q.val k x i s ∧ eQuiet x = false ∧ n = eGet x 0x10 0 64 ∧
    ((5 ≤ (s.chan i).ty ∨ n < (s.chan i).codec.head ∨ (s.chan i).codec.made < n))) ∧
    (let q : Fin 256 := 0; let e : Entry := chEnt [(0x10, 4)]; let x : Entry := eWithOp e 0x21; let k : Queue := kq; let i : Nat := 0;
    let s : State := cmdP { cst 3 5 with pkg := some {} }; x = eWithOp e 0x21 ∧ AdmitsFor spTensor q.val k x i s ∧ (s.chan i).admits = true ∧
    ((eWindow x = true → geomCheck (eBytes x 0x10 32) = 0))) ∧
    (let q : Fin 256 := 0; let e : Entry := chEnt [(0x10, 4), (1, 4)]; let x : Entry := eWithOp e 0x21; let k : Queue := kq; let i : Nat := 0;
    let s : State := cmdP { cst 3 5 with pkg := some {} }; x = eWithOp e 0x21 ∧ AdmitsFor spTensor q.val k x i s ∧ (s.chan i).admits = true ∧ eWindow x = true ∧
    geomCheck (eBytes x 0x10 32) ≠ 0) ∧
    (let q : Fin 256 := 0; let e : Entry := chEnt [(0x10, 1), (0x18, 1)]; let x : Entry := eWithOp e 0x22; let k : Queue := kq; let i : Nat := 0;
    let a : CompArgs := compOf x; let s : State := cmdP { cst 3 6 with pkg := some {} }; x = eWithOp e 0x22 ∧ AdmitsFor spComp q.val k x i s ∧
    a = { op := eGet x 0x10 0 1, mode := eGet x 0x11 0 8, elem := eGet x 0x12 0 4, width := eGet x 0x14 0 16, count := eGet x 0x18 0 32, src := eGet x 0x20 0 64, srcLen := eGet x 0x28 0 64, dst := eGet x 0x30 0 64, dstLen := eGet x 0x38 0 64 } ∧
    (s.chan i).admits = true ∧ a.count ≠ 0 ∧ ((a.op = 0 → 1 ≤ a.mode ∧ a.mode ≤ 4 ∧ a.elem ≤ 3 ∧ (a.mode = 1 ↔ a.elem = 0) ∧
    compSizes a.mode a.width a.count a.srcLen = true))) ∧
    (let q : Fin 256 := 0; let e : Entry := chEnt [(0x10, 0x70100)]; let x : Entry := eWithOp e 0x1F; let k : Queue := kq; let i : Nat := 0; let n : Nat := 0x70100;
    let m : Nat := slotKey (n % 256) (bits n 8 3); let y : Stream := { strm (desc 1 0) with st := 5, haltSeq := 7 };
    let s : State := { walked (cmdP { cst 4 5 with page := true, xltRoot := 0x2000 }) with streams := [(m, y)] }; x = eWithOp e 0x1F ∧ AdmitsFor spResume q.val k x i s ∧
    (s.chan i).page = true ∧ n = eGet x 0x10 0 32 ∧ m = slotKey (n % 256) (bits n 8 3) ∧ tget? s.streams m = some y ∧ y.st = 5 ∧ y.chan = i ∧ y.haltSeq = n / 65536 ∧
    bits n 11 5 = 0 ∧ y.desc ≠ [] ∧ ((∃ a : Nat, s.walk i y.haltVa y.haltWrite = .ok a))) ∧
    (let q : Fin 256 := 0; let e : Entry := chEnt [(0x10, 0x70100)]; let x : Entry := eWithOp e 0x1F; let k : Queue := kq; let i : Nat := 0; let n : Nat := 0x70100;
    let s : State := cmdP { cst 4 5 with page := true }; x = eWithOp e 0x1F ∧ AdmitsFor spResume q.val k x i s ∧ (s.chan i).page = true ∧ n = eGet x 0x10 0 32 ∧
    tget? s.streams (slotKey (n % 256) (bits n 8 3)) = none) ∧
    (let s : State := liveState; let q : Fin 256 := 0; let e : Entry := chEnt [(0x10, 2 ^ 18), (0x1C, 3), (0x1E, 0xFFFF), (0x20, 4)]; let x : Entry := eWithOp e 0x23;
    let k : Queue := kq; let i : Nat := 0; let l : Live := liveOf x i s; x = eWithOp e 0x23 ∧ AdmitsFor spLiveBind q.val k x i s ∧ l = liveOf x i s ∧ l.enh = none ∧
    l.aud = none ∧ eGet x 0x28 0 64 = 0 ∧ liveCheck x l s = (0, 0) ∧ chainCheck (match (s.chan i).pkg with | some p => pkgEdges i p s | none => []) s = 0 ∧
    startCheck i (modChan i (fun y => { y with io := some (l.io i y.io) }) s) = (0, 0) ∧ (s.chan i).page = false ∧ (s.chan i).size = false ∧ (s.chan i).susp = false) ∧
    (let q : Fin 256 := 0; let e : Entry := chEnt [(0x10, 2 ^ 18), (0x1C, 3), (0x1E, 0xFFFF), (0x20, 4)]; let x : Entry := eWithOp e 0x23; let k : Queue := kq;
    let i : Nat := 0; let s : State := cmdP (cst 1 0); x = eWithOp e 0x23 ∧ AdmitsFor spLiveBind q.val k x i s ∧ (liveCheck x (liveOf x i s) s).1 ≠ 0) ∧
    (let q : Fin 256 := 0; let e : Entry := chEnt [(0x10, 1)]; let x : Entry := eWithOp e 0x24; let k : Queue := kq; let i : Nat := 0; let n : Nat := 0;
    let s : State := { cmdP { cst 3 0 with live := some 0 } with jobs := [(0, job0 0)] }; x = eWithOp e 0x24 ∧ AdmitsFor spLiveUnbind q.val k x i s ∧
    (s.chan i).live = some n ∧ s.partners i = [] ∧ s.chanJobs i ≠ []) ∧
    (let q : Fin 256 := 0; let e : Entry := chEnt [(0x10, 1)]; let x : Entry := eWithOp e 0x24; let k : Queue := kq; let i : Nat := 0;
    let s : State := cmdP (cst 3 0); x = eWithOp e 0x24 ∧ AdmitsFor spLiveUnbind q.val k x i s ∧ (s.chan i).live = none) :=
  ⟨⟨by decide +kernel, by constructor <;> decide +kernel, by decide +kernel, by decide +kernel, by decide +kernel, by decide +kernel, by decide +kernel⟩,
   ⟨by decide +kernel, by constructor <;> decide +kernel, by decide +kernel, by decide +kernel, by decide +kernel, by decide +kernel, by decide +kernel⟩,
   ⟨by decide +kernel, by constructor <;> decide +kernel, by decide +kernel, by decide +kernel, by decide +kernel, by decide +kernel, by decide +kernel,
   by decide +kernel⟩,
   ⟨by decide +kernel, by constructor <;> decide +kernel, by decide +kernel, by decide +kernel, by decide +kernel⟩,
   ⟨by decide +kernel, by constructor <;> decide +kernel, by decide +kernel, by decide +kernel, by decide +kernel, by decide +kernel, by decide +kernel,
   by decide +kernel, by decide +kernel⟩,
   ⟨by decide +kernel, by constructor <;> decide +kernel, by decide +kernel, by decide +kernel, by decide +kernel, by decide +kernel, by decide +kernel,
   by decide +kernel, by decide +kernel⟩,
   ⟨by decide +kernel, by constructor <;> decide +kernel, by decide +kernel, by decide +kernel, by decide +kernel⟩,
   ⟨by decide +kernel, by constructor <;> decide +kernel, by decide +kernel, by decide +kernel⟩,
   ⟨by decide +kernel, by constructor <;> decide +kernel, by decide +kernel, by decide +kernel, by decide +kernel⟩,
   ⟨by decide +kernel, by constructor <;> decide +kernel, by decide +kernel, by decide +kernel, by decide +kernel, by decide +kernel⟩,
   ⟨by decide +kernel, by constructor <;> decide +kernel, by decide +kernel, by decide +kernel, by decide +kernel, by decide +kernel, by decide +kernel,
   by decide +kernel, by decide +kernel, by decide +kernel, by decide +kernel, ⟨_, rfl⟩⟩,
   ⟨by decide +kernel, by constructor <;> decide +kernel, by decide +kernel, by decide +kernel, by decide +kernel⟩,
   ⟨by decide +kernel, by constructor <;> decide +kernel, by decide +kernel, by decide +kernel, by decide +kernel, by decide +kernel, by decide +kernel,
   by decide +kernel, by decide +kernel, by decide +kernel, by decide +kernel, by decide +kernel⟩,
   ⟨by decide +kernel, by constructor <;> decide +kernel, by decide +kernel⟩,
   ⟨by decide +kernel, by constructor <;> decide +kernel, by decide +kernel, by decide +kernel, by decide +kernel⟩,
   ⟨by decide +kernel, by constructor <;> decide +kernel, by decide +kernel⟩⟩

theorem test_RecordsAreWrittenInTwoSteps_met :
    (let r : Fin 256 := 0; let k : Ring := r0; let d : Due := { ring := 0, body := {} }; let rest : List Due := [];
    let s : State := { cmds with due := [d] }; tget? s.rings r.val = some k ∧ k.failed = false ∧ k.cur = none ∧ s.ringRoom r.val k = true ∧ s.refusing 8 = false ∧
    s.due = d :: rest ∧ d.ring = r.val ∧ d.chan = none ∧ (s.winOk 0 (k.base + 64 * (k.w % 2 ^ k.log2n)) 64).2 = true ∧
    (s.qp (s.winTarget (k.base + 64 * (k.w % 2 ^ k.log2n))).1).st = 1) ∧
    (let r : Fin 256 := 0; let k : Ring := { r0 with failed := true };
    let s : State := { cmds with rings := [(0, k)], due := [{ ring := 0, body := {} }, { ring := 1, body := {} }] }; tget? s.rings r.val = some k ∧
    ((k.failed = true ∨ s.ringRoom r.val k = false))) ∧
    (let r : Fin 256 := 0; let k : Ring := r0; let s : State := cmds.wf 8 Reg.PG_STAT_QUIESCED 1; tget? s.rings r.val = some k ∧ k.failed = false ∧
    s.ringRoom r.val k = true ∧ ((k.cur ≠ none ∨ s.refusing 8 = true))) ∧
    (let r : Fin 256 := 0; let k : Ring := { r0 with cur := some (due0, 5, true) }; let d : Due := due0; let i : Nat := 0; let n : Nat := 5; let u : Bool := false;
    let s : State := { cmdP (cst 3 0) with rings := [(0, k)] }; tget? s.rings r.val = some k ∧ k.failed = false ∧ k.broken = false ∧ s.refusing 8 = false ∧
    k.cur = some (d, n, true) ∧ d.chan = some i ∧ d.event = u ∧ (s.winOk 0 (k.base + 64 * (k.w % 2 ^ k.log2n) + 0x3C) 4).2 = true ∧
    (s.qp (s.winTarget (k.base + 64 * (k.w % 2 ^ k.log2n) + 0x3C)).1).st = 1) ∧
    (let r : Fin 256 := 0; let k : Ring := { r0 with cur := some (due0, 5, false) }; let d : Due := due0; let n : Nat := 5;
    let s : State := { cmdP (cst 3 0) with rings := [(0, k)] }; tget? s.rings r.val = some k ∧ k.cur = some (d, n, false)) ∧
    (let r : Fin 256 := 0; let k : Ring := { r0 with broken := true }; let s : State := { cmds with rings := [(0, k)] }; tget? s.rings r.val = some k ∧ k.broken = true ∧
    k.failed = false ∧ s.rf 0x21 Reg.HIF_QERR_VALID = 0) ∧
    (let r : Fin 256 := 0; let k : Ring := { r0 with broken := true };
    let s : State := { cmds with rings := [(0, k)] } |> fun s => s.wf 0x21 Reg.HIF_QERR_VALID 1; tget? s.rings r.val = some k ∧ k.broken = true ∧ k.failed = false ∧
    s.rf 0x21 Reg.HIF_QERR_VALID = 1) :=
  ⟨by decide +kernel,
   by decide +kernel,
   by decide +kernel,
   by decide +kernel,
   by decide +kernel,
   by decide +kernel,
   by decide +kernel⟩

theorem test_TranslationsAreCachedDroppedAndFetched_met :
    (let sc : Nat := 1; let va : Nat := 0; let h : Nat := 2 ^ 18;
    let s : State := { mapped (cmdP (cst 3 5)) with inval := some (1, 0, 2 ^ 18), qps := [(1, { out := [{ msg := .rdmaRead 1 0 0 0, owner := .stream 0 1 (some 0) }] })], jobs := [(0, waiting)] }; s.inval = some (sc, va, h) ∧
    s.inFlight (h % 2 ^ 18) = true) ∧
    (let sc : Nat := 1; let va : Nat := 0; let h : Nat := 2 ^ 18;
    let s : State := { mapped (cmdP (cst 3 5)) with inval := some (1, 0, 2 ^ 18) }; s.inval = some (sc, va, h) ∧ s.inFlight (h % 2 ^ 18) = false) ∧
    (let s : State := up0; s.inval = none) ∧
    (let w : Word := 3; let s : State := up0; s.hostUp = true ∧ bits w.toNat 1 1 = 1 ∧ s.inval = none) ∧
    (let s : State := { up0 with inval := some (1, 0, 2 ^ 18) }; s.hostUp = true ∧ s.inval ≠ none) ∧
    (let handle : Word := 2 ^ 18; let va : Dword := 4; let write : Bool := false; let i : Nat := 0; let a : Nat := 0x10004;
    let s : State := mapped (cmdP (cst 3 5)); s.chanOf handle.toNat = some i ∧
    s.tlb.any (fun t => t.index == i && t.gen == (s.chan i).gen && t.vpage == va.toNat / 2 ^ 16) = true ∧ va.toNat < 2 ^ 48 ∧ s.access i va.toNat write = .ok a) ∧
    (let handle : Word := 2 ^ 18; let va : Dword := 4; let write : Bool := false; let i : Nat := 0; let a : Nat := 0x200004;
    let s : State := walked (cmdP { cst 3 5 with xltRoot := 0x2000 }); s.chanOf handle.toNat = some i ∧
    s.tlb.any (fun t => t.index == i && t.gen == (s.chan i).gen && t.vpage == va.toNat / 2 ^ 16) = false ∧ s.access i va.toNat write = .ok a) ∧
    (let id : Nat := 0; let f : Fetch := fet0; let rest : Tbl Fetch := []; let e : Nat := fEnt; let s : State := fetchState f; s.fetches = (id, f) :: rest ∧
    f.started = false ∧ rest.all (fun x => !x.2.started) = true ∧ e = s.load f.entry 8 ∧ fetchable e = true ∧ s.load (f.entry + 256) 8 % 65536 = 0 ∧
    s.inPart (s.chanPart f.chan) (s.load (f.entry + 256) 8) 65536 = true ∧ (s.winOk (s.chanPart f.chan) (entryAddr e) 65536).1 = true ∧
    (s.qp (s.winTarget (entryAddr e)).1).st = 1 ∧ s.refusing 8 = false) ∧
    (let id : Nat := 0; let f : Fetch := { chan := 0, vpage := 0, entry := 0x4000 };
    let rest : Tbl Fetch := (List.range 8).map (fun n => (n + 1, { f with started := true }));
    let s : State := { cmds with fetches := (id, f) :: rest }; s.fetches = (id, f) :: rest ∧ f.started = false ∧ 8 ≤ (s.fetches.filter (fun x => x.2.started)).length) ∧
    (let id : Nat := 0; let f : Fetch := fet1; let b : List Byte := [1, 2];
    let s : State := { (cmdP (cst 3 5)).store 0x4000 [9] with fetches := [(id, f)] }; tget? s.fetches id = some f ∧ f.failCode = 0 ∧ f.data = some b ∧
    s.load f.entry 8 = f.value ∧ s.streams.all (fun y => y.2.fetch != some id) = true) ∧
    (let id : Nat := 0; let f : Fetch := fet1; let b : List Byte := [1, 2]; let s : State := { cmdP (cst 3 5) with fetches := [(id, f)] }; tget? s.fetches id = some f ∧
    f.failCode = 0 ∧ f.data = some b ∧ s.load f.entry 8 ≠ f.value ∧ s.streams.all (fun y => y.2.fetch != some id) = true) ∧
    (let id : Nat := 0; let s : State := cmds; tget? s.fetches id = none) :=
  ⟨by decide +kernel,
   by decide +kernel,
   by decide +kernel,
   by decide +kernel,
   by decide +kernel,
   by decide +kernel,
   by decide +kernel,
   by decide +kernel,
   by decide +kernel,
   by decide +kernel,
   by decide +kernel,
   by decide +kernel⟩

theorem test_SamplesHoldTheCountsOfAnInterval_met :
    (let w : Word := 0x80000205; let s : State := up0; s.hostUp = true ∧ bits w.toNat 31 1 = 1 ∧ s.sample = none) ∧
    (let w : Word := 0x80000205; let s : State := { up0 with sample := some (5, 0, 0) }; s.hostUp = true ∧ bits w.toNat 31 1 = 1 ∧ s.sample ≠ none) ∧
    (let w : Word := 0x205; let s : State := up0; s.hostUp = true ∧ bits w.toNat 31 1 = 0) ∧
    (let page : Nat := 0x205; let mode : Nat := 0; let n : Nat := 0; let b : Bank := { swaps := 2, cHandle := 3, cSeq := 4, cBase := [(0, 1)], cEnd := [(0, 5)] };
    let vals : List Nat := since b.cEnd b.cBase; let s : State := { up0 with sample := some (page, mode, n), banks := [(0x205, b)] }; s.sample = some (page, mode, n) ∧
    (pageBlk page).isSome = true ∧ s.rf page Reg.PG_STAT_POWERED_DOWN = 0 ∧ b = tget s.banks {} page ∧ b.swaps ≠ 0 ∧
    vals = (if mode = 0 then since b.cEnd b.cBase else since (s.counters page) [])) ∧
    (let page : Nat := 0x205; let mode : Nat := 0; let n : Nat := 0; let s : State := { up0 with sample := some (page, mode, n) }; s.sample = some (page, mode, n) ∧
    (((pageBlk page).isNone = true ∨ s.rf page Reg.PG_STAT_POWERED_DOWN = 1 ∨ (tget s.banks {} page).swaps = 0))) ∧
    (let s : State := up0; s.sample = none) :=
  ⟨by decide +kernel,
   by decide +kernel,
   by decide +kernel,
   by decide +kernel,
   by decide +kernel,
   by decide +kernel⟩

theorem test_TraceFollowsItsRegisters_met :
    (let p : Fin 68 := 0; let base : Nat := 0; let n : Nat := 16; let s : State := (trc0.wf 0x1000 Reg.TRC_CFG_ENABLE 0); s.hostUp = true ∧
    base = s.rf (0x1000 + p.val) Reg.TRC_RING_LO_BASE + s.rf (0x1000 + p.val) Reg.TRC_RING_HI_BASE * 2 ^ 32 ∧ n = s.rf (0x1000 + p.val) Reg.TRC_RING_HI_LOG2 ∧ 16 ≤ n ∧
    n ≤ 30 ∧ base % 2 ^ n = 0 ∧ s.inPart 0 base (2 ^ n) = true ∧ s.rf (0x1000 + p.val) Reg.TRC_CFG_ENABLE = 0 ∧ s.startedThreads p.val = []) ∧
    (let p : Fin 68 := 0; let base : Nat := 0; let n : Nat := 3; let s : State := (trc0.wf 0x1000 Reg.TRC_RING_HI_LOG2 3); s.hostUp = true ∧
    base = s.rf (0x1000 + p.val) Reg.TRC_RING_LO_BASE + s.rf (0x1000 + p.val) Reg.TRC_RING_HI_BASE * 2 ^ 32 ∧ n = s.rf (0x1000 + p.val) Reg.TRC_RING_HI_LOG2 ∧
    ((n < 16 ∨ 30 < n ∨ base % 2 ^ n ≠ 0 ∨ s.inPart 0 base (2 ^ n) = false))) ∧
    (let w : Word := 1; let s : State := trc0; s.hostUp = true ∧ bits (w ||| 1).toNat 4 1 = 0) ∧
    (let w : Word := 0x10; let s : State := trc0; s.hostUp = true ∧ bits (w ||| 1).toNat 4 1 = 1) ∧
    (let p : Fin 68 := 0; let w : Word := 0x10; let s : State := trc0 {} 1; s.hostUp = true ∧ bits (w ||| 16).toNat 0 1 = 0 ∧
    s.rf (0x1000 + p.val) Reg.TRC_TRIG_TRIG_STATE = 1) ∧
    (let p : Fin 68 := 0; let w : Word := 0x10; let s : State := trc0; s.hostUp = true ∧ bits (w ||| 16).toNat 0 1 = 0 ∧
    s.rf (0x1000 + p.val) Reg.TRC_TRIG_TRIG_STATE ≠ 1) ∧
    (let p : Fin 68 := 0; let x : Packet := .indirect 0 5; let l : List Packet := []; let pg : Nat := 0x1000; let n : Nat := 16; let wr : Nat := 0; let base : Nat := 0;
    let s : State := trc0 { buf := [x] } 3; pg = 0x1000 + p.val ∧ (s.trc p.val).buf = x :: l ∧ (s.trc p.val).lostSince = 0 ∧ s.rf pg Reg.TRC_CFG_ENABLE = 1 ∧
    ((s.rf pg Reg.TRC_CFG_DRAIN = 1 ∨ s.rf pg Reg.TRC_TRIG_TRIG_STATE = 3)) ∧ n = s.rf pg Reg.TRC_RING_HI_LOG2 ∧ wr = s.rf pg Reg.TRC_WR_WR ∧
    ahead 32 wr (s.rf pg Reg.TRC_RD_RD) < 2 ^ (n - 4) ∧ base = s.rf pg Reg.TRC_RING_LO_BASE + s.rf pg Reg.TRC_RING_HI_BASE * 2 ^ 32) ∧
    (let p : Fin 68 := 0;
    let s : State := trc0; (((s.trc p.val).buf = [] ∨ s.rf (0x1000 + p.val) Reg.TRC_CFG_ENABLE = 0 ∨ 2 ^ (s.rf (0x1000 + p.val) Reg.TRC_RING_HI_LOG2 - 4) ≤ ahead 32 (s.rf (0x1000 + p.val) Reg.TRC_WR_WR) (s.rf (0x1000 + p.val) Reg.TRC_RD_RD)))) ∧
    (let p : Fin 68 := 0; let n : Nat := 0;
    let s : State := { trc0 {} with time := 10 ^ 9, players := [(0, { st := 2, threads := [(0, thr [])] })] } |> fun s => s.wf 0x1000 Reg.TRC_CFG_TS_EXP 1; s.rf (0x1000 + p.val) Reg.TRC_CFG_TS_EXP ≠ 0 ∧
    (s.ply p.val).st = 2 ∧ s.startedThreads p.val = [n] ∧ s.traced p.val n = true ∧
    (((s.trc p.val).nextSync + 1) * 2 ^ s.rf (0x1000 + p.val) Reg.TRC_CFG_TS_EXP) * 2 ≤ (s.time - (s.ply p.val).started) * 3 ∧ ((s.trc p.val).bits.getD n (0, 0)).1 = 0 ∧
    s.rf (0x1000 + p.val) Reg.TRC_TRIG_TRIG_STATE < 2 ∧ (s.trc p.val).buf.length < 4096) ∧
    (let p : Fin 68 := 0; let s : State := trc0; ((s.rf (0x1000 + p.val) Reg.TRC_CFG_TS_EXP = 0 ∨ (s.ply p.val).st ≠ 2))) :=
  ⟨by decide +kernel,
   by decide +kernel,
   by decide +kernel,
   by decide +kernel,
   by decide +kernel,
   by decide +kernel,
   by decide +kernel,
   by decide +kernel,
   by decide +kernel,
   by decide +kernel⟩

theorem test_DebuggerNeedsTheUnlock_met :
    (let p : Fin 68 := 0; let s : State := up0; s.hostUp = true ∧ s.unlocked p.val = false) ∧
    (let p : Fin 68 := 0; let t : Fin 8 := 0; let s : State := thread0 1; s.hostUp = true ∧ s.unlocked p.val = true ∧ (s.thread p.val t.val).st ≠ 0 ∧
    (s.thread p.val t.val).st ≠ 6 ∧ (s.thread p.val t.val).st ≠ 9) ∧
    (let p : Fin 68 := 0; let t : Fin 8 := 0; let s : State := thread0 9; s.hostUp = true ∧ s.unlocked p.val = true ∧
    (((s.thread p.val t.val).st = 0 ∨ (s.thread p.val t.val).st = 6 ∨ (s.thread p.val t.val).st = 9))) ∧
    (let p : Fin 68 := 0; let t : Fin 8 := 0; let s : State := thread0 9 1; s.hostUp = true ∧ s.unlocked p.val = true ∧ (s.thread p.val t.val).st = 9) ∧
    (let p : Fin 68 := 0; let t : Fin 8 := 0; let s : State := thread0 9 1; s.hostUp = true ∧ s.unlocked p.val = true ∧ (s.thread p.val t.val).st = 9) ∧
    (let p : Fin 68 := 0; let t : Fin 8 := 0; let s : State := thread0 1; s.hostUp = true ∧ s.unlocked p.val = true ∧ (s.thread p.val t.val).st ≠ 9) ∧
    (let p : Nat := 0; let t : Nat := 0; let r : Nat := 1; let old : Nat := 7; let s : State := (thread0 9 1).wf 0x1000 Reg.TRC_DBG_SEL_REG 1; s.hostUp = true ∧
    p = s.rf 0x37 Reg.TRC_SEL_PLAYER ∧ t = s.rf (0x1000 + p) Reg.TRC_DBG_SEL_THREAD ∧ r = s.rf (0x1000 + p) Reg.TRC_DBG_SEL_REG ∧ s.unlocked p = true ∧
    (s.thread p t).st = 9 ∧ 1 ≤ r ∧ r ≤ 31 ∧ old = tget (s.thread p t).regs 0 r) ∧
    (let p : Nat := 0; let t : Nat := 0; let s : State := thread0 9 1; s.hostUp = true ∧ p = s.rf 0x37 Reg.TRC_SEL_PLAYER ∧ t = s.rf (0x1000 + p) Reg.TRC_DBG_SEL_THREAD ∧
    s.rf (0x1000 + p) Reg.TRC_DBG_SEL_REG = 0 ∧ s.unlocked p = true ∧ (s.thread p t).st = 9) ∧
    (let p : Nat := 0; let t : Nat := 0; let old : Nat := 0x20000000; let s : State := (thread0 9 1).wf 0x1000 Reg.TRC_DBG_SEL_REG 32; s.hostUp = true ∧
    p = s.rf 0x37 Reg.TRC_SEL_PLAYER ∧ t = s.rf (0x1000 + p) Reg.TRC_DBG_SEL_THREAD ∧ s.rf (0x1000 + p) Reg.TRC_DBG_SEL_REG = 32 ∧ s.unlocked p = true ∧
    (s.thread p t).st = 9 ∧ old = (s.thread p t).pc) ∧
    (let s : State := up0.wf 0x37 Reg.TRC_SEL_PLAYER 70; s.hostUp = true ∧ 68 ≤ s.rf 0x37 Reg.TRC_SEL_PLAYER) ∧
    (let s : State := up0; s.hostUp = true ∧ s.rf 0x37 Reg.TRC_SEL_PLAYER < 68 ∧ s.unlocked (s.rf 0x37 Reg.TRC_SEL_PLAYER) = false) :=
  ⟨by decide +kernel,
   by decide +kernel,
   by decide +kernel,
   by decide +kernel,
   by decide +kernel,
   by decide +kernel,
   by decide +kernel,
   by decide +kernel,
   by decide +kernel,
   by decide +kernel,
   by decide +kernel⟩

theorem test_PairsJoinAndMissBeats_met :
    (let s : State := pairUp 2 0; s.refusing 8 = false ∧ s.hostUp = true ∧ ((s.role = 1 ∨ s.role = 2)) ∧ ((s.pairState = 0 ∨ s.pairState = 4)) ∧
    ((s.role = 2 → s.chans.all (fun c => c.2.st == 0) = true))) ∧
    (let s : State := pairUp 0 0; s.hostUp = true ∧ ((s.role ≠ 1 ∧ s.role ≠ 2 ∨ s.pairState ≠ 0 ∧ s.pairState ≠ 4))) ∧
    (let h : PairHdr := pairHdr 1 116 3; let b : List Byte := List.replicate 116 0; let s : State := pairUp 1 1; s.refusing 8 = false ∧ s.pairOpen = true ∧
    h.fits 1 116 = true ∧ b.length = 116 ∧ s.pairState = 1) ∧
    (let h : PairHdr := pairHdr 1 115 3; let b : List Byte := List.replicate 116 0; let s : State := pairUp 1 1; s.pairOpen = true ∧
    ((h.fits 1 116 = false ∨ b.length ≠ 116))) ∧
    (let h : PairHdr := pairHdr 2 49856 3; let sig : List Byte := List.replicate 49856 0; let p : List Byte := 1 :: List.replicate 115 0;
    let s : State := pairUp 1 1 { peerJoin := some p }; s.pairOpen = true ∧ h.fits 2 49856 = true ∧ sig.length = 49856 ∧ s.pair.peerJoin = some p ∧ s.pairState = 1 ∧
    (¬(keyDigest (p.drop 52) = s.peerId ∧ Config.slhVerify (p.drop 52) true (p ++ s.pair.myJoin) sig = true ∧ leAt p 0 1 ≠ s.role))) ∧
    (let s : State := pairUp 2 3; s.refusing 8 = false ∧ s.pairOpen = true ∧ s.beats = true ∧ s.role ≠ 1) ∧
    (let h : PairHdr := pairHdr 3 8 4; let s : State := pairUp 2 2; s.pairOpen = true ∧ h.fits 3 8 = true ∧ h.epoch = s.pairEpoch) ∧
    (let h : PairHdr := pairHdr 3 8 3; let s : State := pairUp 2 2; s.pairOpen = true ∧ ((h.fits 3 8 = false ∨ h.epoch < s.pairEpoch))) ∧
    (let h : PairHdr := pairHdr 3 8 5; let s : State := pairUp 1 3; s.pairOpen = true ∧ h.fits 3 8 = true ∧ s.pairEpoch < h.epoch ∧ s.role = 1 ∧ s.pairState ≠ 6 ∧
    s.chans = []) ∧
    (let s : State := pairUp 2 3 { beatSeen := true }; s.up = true ∧ s.beats = true ∧ s.pair.beatSeen = true) ∧
    (let n : Nat := 3; let s : State := pairUp 2 3 {} (fun s => s.wf 0x38 Reg.PAIR_BEAT_MISSED 3); s.up = true ∧ s.beats = true ∧ s.pair.beatSeen = false ∧
    n = s.rf 0x38 Reg.PAIR_BEAT_MISSED ∧ n ≠ 4) ∧
    (let s : State := pairUp 2 3 {} (fun s => s.wf 0x38 Reg.PAIR_BEAT_MISSED 4); s.up = true ∧ s.beats = true ∧ s.pair.beatSeen = false ∧
    s.rf 0x38 Reg.PAIR_BEAT_MISSED = 4) :=
  ⟨by decide +kernel,
   by decide +kernel,
   by decide +kernel,
   by decide +kernel,
   ⟨by decide +kernel, by decide +kernel, by decide +kernel, by decide +kernel, by decide +kernel, fun h => absurd h.2.2 (by decide +kernel)⟩,
   by decide +kernel,
   by decide +kernel,
   by decide +kernel,
   by decide +kernel,
   by decide +kernel,
   by decide +kernel,
   by decide +kernel⟩

theorem test_PairsJoinAndMissBeats_met_verified (hv : ∀ k f m x, Config.slhVerify k f m x = true) (hk : ∀ b n, Config.shake256 b n = List.replicate n 0) :
    let h : PairHdr := pairHdr 2 49856 3; let sig : List Byte := List.replicate 49856 0; let p : List Byte := List.replicate 116 0;
    let s : State := pairUp 2 1 { peerJoin := some p }; s.pairOpen = true ∧ h.fits 2 49856 = true ∧ sig.length = 49856 ∧ s.pair.peerJoin = some p ∧ s.pairState = 1 ∧
    s.role = 2 ∧ keyDigest (p.drop 52) = s.peerId ∧ Config.slhVerify (p.drop 52) true (p ++ s.pair.myJoin) sig = true ∧ leAt p 0 1 ≠ s.role :=
  ⟨by decide +kernel, by decide +kernel, by decide +kernel, by decide +kernel, by decide +kernel, by decide +kernel, by rw [keyDigest, hk]; decide +kernel, hv _ _ _ _,
  by decide +kernel⟩

theorem test_UnderstudyFollowsThePrimary_met :
    (let h : PairHdr := pairHdr 4 128 4; let e : Entry := eWithOp (chEnt [(0x10, 3)]) 0x18; let i : Nat := 0;
    let s : State := pairUp 2 3 {} (fun s => { s with chans := [(0, cst 3 5)] }); s.pairOpen = true ∧ h.fits 4 128 = true ∧ s.pairEpoch ≤ h.epoch ∧ s.role = 2 ∧
    ((s.pairState = 2 ∨ s.pairState = 3)) ∧ eOp e = 0x18 ∧ entryFormOk spChSet e = true ∧ s.chanOf (eHandle e) = some i ∧ (s.chan i).st ∈ spChSet.states ∧
    (s.chan i).ty ≤ 6 ∧ s.dispatched i = false ∧ s.opens = []) ∧
    (let h : PairHdr := pairHdr 4 128 3; let s : State := pairUp 2 3; s.pairOpen = true ∧ ((h.fits 4 128 = false ∨ h.epoch < s.pairEpoch))) ∧
    (let handle : Word := 2 ^ 18; let i : Nat := 0; let n : Nat := 6;
    let s : State := pairUp 1 3 {} (fun s => { s with chans := [(0, { cst 3 0 with codec := { lastUnit := some 6 } })] }); s.refusing 8 = false ∧
    s.chanOf handle.toNat = some i ∧ (s.chan i).codec.lastUnit = some n ∧ s.mirrors = true ∧ s.pairOpen = true ∧ s.mirrored (i, s.chan i) = true ∧
    (s.chan i).mirSent ≠ some n) ∧
    (let handle : Word := 2 ^ 18; let i : Nat := 0; let n : Nat := 6;
    let s : State := pairUp 1 3 {} (fun s => { s with chans := [(0, { cst 3 0 with mirSent := some 6, codec := { lastUnit := some 6 } })] }); s.chanOf handle.toNat = some i ∧
    (s.chan i).codec.lastUnit = some n ∧ (s.chan i).mirSent = some n) ∧
    (let h : PairHdr := pairHdr 5 16 4; let handle : Word := 2 ^ 18; let i : Nat := 0;
    let s : State := pairUp 2 3 {} (fun s => { s with chans := [(0, cst 3 0)] }); s.refusing 8 = false ∧ s.pairOpen = true ∧ h.fits 5 16 = true ∧ s.pairEpoch ≤ h.epoch ∧
    s.role = 2 ∧ ((s.pairState = 2 ∨ s.pairState = 3)) ∧ i = handle.toNat % 2 ^ 18 ∧ i ∉ s.pair.excluded) ∧
    (let h : PairHdr := pairHdr 5 16 3; let s : State := pairUp 2 3; s.pairOpen = true ∧ ((h.fits 5 16 = false ∨ h.epoch < s.pairEpoch))) ∧
    (let h : PairHdr := pairHdr 6 8 4; let handle : Word := 2 ^ 18; let i : Nat := 0;
    let s : State := pairUp 1 3 {} (fun s => { s with chans := [(0, cst 3 0)] }); s.pairOpen = true ∧ h.fits 6 8 = true ∧ s.pairEpoch ≤ h.epoch ∧
    s.chanOf handle.toNat = some i ∧ s.mirrors = true) ∧
    (let h : PairHdr := pairHdr 6 8 3; let s : State := pairUp 1 3; s.pairOpen = true ∧ ((h.fits 6 8 = false ∨ h.epoch < s.pairEpoch))) :=
  ⟨by decide +kernel,
   by decide +kernel,
   by decide +kernel,
   by decide +kernel,
   by decide +kernel,
   by decide +kernel,
   by decide +kernel,
   by decide +kernel⟩

theorem test_HostWritesNeedAWayIn_met :
    let c : Instr := .q0EnSet; let s : State := State.reset; hostWrites c = true ∧ s.hostUp = false :=
  by decide +kernel

theorem test_InstructionsRetireOrTrap_met :
    (let p : Fin 68 := 0; let t : Fin 8 := 0; let len : Nat := 4; let w : Nat := 0x003100B3;
    let s : State := run 0x003100B3 [(2, 5), (3, 7)]; Fetches s p.val t.val len w ∧ bits w 0 7 = 0x33 ∧ bits w 25 7 = 0) ∧
    (let p : Fin 68 := 0; let t : Fin 8 := 0; let len : Nat := 4; let w : Nat := 0x023100B3;
    let s : State := run 0x023100B3 [(2, 5), (3, 7)]; Fetches s p.val t.val len w ∧ bits w 0 7 = 0x33 ∧ bits w 25 7 = 1) ∧
    (let p : Fin 68 := 0; let t : Fin 8 := 0; let len : Nat := 4; let w : Nat := 0x403100B3;
    let s : State := run 0x403100B3 [(2, 5), (3, 7)]; Fetches s p.val t.val len w ∧ bits w 0 7 = 0x33 ∧ bits w 25 7 = 32 ∧ ((bits w 12 3 = 0 ∨ bits w 12 3 = 5))) ∧
    (let p : Fin 68 := 0; let t : Fin 8 := 0; let len : Nat := 4; let w : Nat := 0x003100BB; let v : BitVec 64 := 0xFFFFFFFF80000000;
    let s : State := run 0x003100BB [(2, 0x7FFFFFFF), (3, 1)]; Fetches s p.val t.val len w ∧ bits w 0 7 = 0x3B ∧
    alu32 (bits w 12 3) (bits w 25 7) ((s.thread p.val t.val).x (bits w 15 5)) ((s.thread p.val t.val).x (bits w 20 5)) = some v) ∧
    (let p : Fin 68 := 0; let t : Fin 8 := 0; let len : Nat := 4; let w : Nat := 0xFFF10093; let s : State := run 0xFFF10093 [(2, 5)]; Fetches s p.val t.val len w ∧
    bits w 0 7 = 0x13 ∧ bits w 12 3 ≠ 1 ∧ bits w 12 3 ≠ 5) ∧
    (let p : Fin 68 := 0; let t : Fin 8 := 0; let len : Nat := 4; let w : Nat := 0x43F15093; let s : State := run 0x43F15093 [(2, 2 ^ 63)]; Fetches s p.val t.val len w ∧
    bits w 0 7 = 0x13 ∧ ((bits w 12 3 = 1 ∧ bits w 26 6 = 0 ∨ bits w 12 3 = 5 ∧ (bits w 26 6 = 0 ∨ bits w 26 6 = 16)))) ∧
    (let p : Fin 68 := 0; let t : Fin 8 := 0; let len : Nat := 4; let w : Nat := 0x800000B7; let s : State := run 0x800000B7 []; Fetches s p.val t.val len w ∧
    bits w 0 7 = 0x37) ∧
    (let p : Fin 68 := 0; let t : Fin 8 := 0; let len : Nat := 4; let w : Nat := 0x00001097; let s : State := run 0x00001097 []; Fetches s p.val t.val len w ∧
    bits w 0 7 = 0x17) ∧
    (let p : Fin 68 := 0; let t : Fin 8 := 0; let len : Nat := 4; let w : Nat := 0x008000EF; let s : State := run 0x008000EF []; Fetches s p.val t.val len w ∧
    bits w 0 7 = 0x6F) ∧
    (let p : Fin 68 := 0; let t : Fin 8 := 0; let len : Nat := 4; let w : Nat := 0x004100E7;
    let s : State := run 0x004100E7 [(2, 0x20000011)]; Fetches s p.val t.val len w ∧ bits w 0 7 = 0x67 ∧ bits w 12 3 = 0) ∧
    (let p : Fin 68 := 0; let t : Fin 8 := 0; let len : Nat := 4; let w : Nat := 0x00310463; let b : Bool := true;
    let s : State := run 0x00310463 [(2, 7), (3, 7)]; Fetches s p.val t.val len w ∧ bits w 0 7 = 0x63 ∧
    branchTaken (bits w 12 3) ((s.thread p.val t.val).x (bits w 15 5)) ((s.thread p.val t.val).x (bits w 20 5)) = some b) ∧
    (let p : Fin 68 := 0; let t : Fin 8 := 0; let len : Nat := 4; let w : Nat := 0x00013083; let a : Nat := 0x10000000; let v : Nat := 7;
    let s : State := run 0x00013083 [(2, 0x10000000)] { tdm := [(0, 7)] }; Fetches s p.val t.val len w ∧ bits w 0 7 = 0x03 ∧ bits w 12 3 ≠ 7 ∧
    a = ((s.thread p.val t.val).x (bits w 15 5) + immI w).toNat ∧ coreLoad s p.val a (2 ^ (bits w 12 3 % 4)) = (0, v)) ∧
    (let p : Fin 68 := 0; let t : Fin 8 := 0; let len : Nat := 4; let w : Nat := 0x00312023; let a : Nat := 0x40; let n : Nat := 4;
    let s : State := run 0x00312023 [(2, 0x40), (3, 0x123456789)]; Fetches s p.val t.val len w ∧ bits w 0 7 = 0x23 ∧ bits w 12 3 < 4 ∧
    a = ((s.thread p.val t.val).x (bits w 15 5) + immS w).toNat ∧ n = 2 ^ bits w 12 3 ∧ a % n = 0 ∧ a + n ≤ 0x300000) ∧
    (let p : Fin 68 := 0; let t : Fin 8 := 0; let len : Nat := 4; let w : Nat := 0x00312023; let a : Nat := 0x10000004; let n : Nat := 4;
    let s : State := run 0x00312023 [(2, 0x10000004), (3, 0x123456789)] { tdm := [(9, 7)] }; Fetches s p.val t.val len w ∧ bits w 0 7 = 0x23 ∧ bits w 12 3 < 4 ∧
    a = ((s.thread p.val t.val).x (bits w 15 5) + immS w).toNat ∧ n = 2 ^ bits w 12 3 ∧ a % n = 0 ∧ coreRegion a n = 2) ∧
    (let p : Fin 68 := 0; let t : Fin 8 := 0; let len : Nat := 4; let w : Nat := 0xF14020F3; let v : Nat := 0;
    let s : State := run 0xF14020F3 [(1, 9)]; Fetches s p.val t.val len w ∧ bits w 0 7 = 0x73 ∧
    ((bits w 12 3 = 2 ∨ bits w 12 3 = 3 ∨ bits w 12 3 = 6 ∨ bits w 12 3 = 7)) ∧ bits w 15 5 = 0 ∧ readCsr s p.val t.val (bits w 20 12) = some v) ∧
    (let p : Fin 68 := 0; let t : Fin 8 := 0; let len : Nat := 4; let w : Nat := 0x00000073; let s : State := run 0x00000073 []; Fetches s p.val t.val len w ∧
    w = 0x00000073) ∧
    (let p : Fin 68 := 0; let t : Fin 8 := 0; let len : Nat := 4; let w : Nat := 0x00012083; let a : Nat := 0x41;
    let s : State := run 0x00012083 [(2, 0x41)]; Fetches s p.val t.val len w ∧ bits w 0 7 = 0x03 ∧ bits w 12 3 ≠ 7 ∧
    a = ((s.thread p.val t.val).x (bits w 15 5) + immI w).toNat ∧ a % 2 ^ (bits w 12 3 % 4) ≠ 0) ∧
    (let p : Fin 68 := 0; let t : Fin 8 := 0; let len : Nat := 2; let s : State := run 0 []; s.canIssue p.val t.val = true ∧ fetch s p.val t.val = (0, len, none)) ∧
    (let p : Fin 68 := 0; let t : Fin 8 := 0; let s : State := { run 0 [] with players := [(0, ply0 { st := 1, pc := 64 })] }; s.canIssue p.val t.val = true ∧
    coreRegion (s.thread p.val t.val).pc 2 ≠ 3) :=
  ⟨⟨by constructor <;> decide +kernel, by decide +kernel, by decide +kernel⟩,
   ⟨by constructor <;> decide +kernel, by decide +kernel, by decide +kernel⟩,
   ⟨by constructor <;> decide +kernel, by decide +kernel, by decide +kernel, by decide +kernel⟩,
   ⟨by constructor <;> decide +kernel, by decide +kernel, by decide +kernel⟩,
   ⟨by constructor <;> decide +kernel, by decide +kernel, by decide +kernel, by decide +kernel⟩,
   ⟨by constructor <;> decide +kernel, by decide +kernel, by decide +kernel⟩,
   ⟨by constructor <;> decide +kernel, by decide +kernel⟩,
   ⟨by constructor <;> decide +kernel, by decide +kernel⟩,
   ⟨by constructor <;> decide +kernel, by decide +kernel⟩,
   ⟨by constructor <;> decide +kernel, by decide +kernel, by decide +kernel⟩,
   ⟨by constructor <;> decide +kernel, by decide +kernel, by decide +kernel⟩,
   ⟨by constructor <;> decide +kernel, by decide +kernel, by decide +kernel, by decide +kernel, by decide +kernel⟩,
   ⟨by constructor <;> decide +kernel, by decide +kernel, by decide +kernel, by decide +kernel, by decide +kernel, by decide +kernel, by decide +kernel⟩,
   ⟨by constructor <;> decide +kernel, by decide +kernel, by decide +kernel, by decide +kernel, by decide +kernel, by decide +kernel, by decide +kernel⟩,
   ⟨by constructor <;> decide +kernel, by decide +kernel, by decide +kernel, by decide +kernel, by decide +kernel⟩,
   ⟨by constructor <;> decide +kernel, by decide +kernel⟩,
   ⟨by constructor <;> decide +kernel, by decide +kernel, by decide +kernel, by decide +kernel, by decide +kernel⟩,
   by decide +kernel,
   by decide +kernel⟩

theorem test_ThreadsIssueCues_met :
    (let p : Fin 68 := 0; let t : Fin 8 := 0; let w : Nat := 0x0020828B; let q : Nat := 1;
    let s : State := run 0x0020828B [(1, 1)]; customAt s p.val t.val 0x0B 0 = some w ∧ q = cueOf (s.thread p.val t.val) w ∧ cueBad q = none ∧
    s.queueLen p.val (cClass q) < 16) ∧
    (let p : Fin 68 := 0; let t : Fin 8 := 0; let w : Nat := 0x0020828B; let q : Nat := 1;
    let s : State := run 0x0020828B [(1, 1)] full; customAt s p.val t.val 0x0B 0 = some w ∧ q = cueOf (s.thread p.val t.val) w ∧ cueBad q = none ∧
    16 ≤ s.queueLen p.val (cClass q)) ∧
    (let p : Fin 68 := 0; let t : Fin 8 := 0; let w : Nat := 0x0020828B; let q : Nat := 7; let n : Nat := 0;
    let s : State := run 0x0020828B [(1, 7)]; customAt s p.val t.val 0x0B 0 = some w ∧ q = cueOf (s.thread p.val t.val) w ∧ cueBad q = some n) ∧
    (let p : Fin 68 := 0; let t : Fin 8 := 0; let w : Nat := 0x0020928B; let q : Nat := 1;
    let s : State := run 0x0020928B [(1, 1)]; customAt s p.val t.val 0x0B 1 = some w ∧ q = cueOf (s.thread p.val t.val) w ∧ cueBad q = none ∧
    s.queueLen p.val (cClass q) < 16) ∧
    (let p : Fin 68 := 0; let t : Fin 8 := 0; let w : Nat := 0x0020928B; let q : Nat := 1;
    let s : State := run 0x0020928B [(1, 1)] full; customAt s p.val t.val 0x0B 1 = some w ∧ q = cueOf (s.thread p.val t.val) w ∧ cueBad q = none ∧
    16 ≤ s.queueLen p.val (cClass q)) ∧
    (let s : State := park 3 1; let p : Fin 68 := 0; let t : Fin 8 := 0; let x : Thread := s.thread 0 0; x = s.thread p.val t.val ∧ x.st = 3 ∧ s.jobRuns p.val = true ∧
    s.queueLen p.val (cClass x.wait) < 16) :=
  ⟨by decide +kernel,
   by decide +kernel,
   by decide +kernel,
   by decide +kernel,
   by decide +kernel,
   by decide +kernel⟩

theorem test_SemaphoresCountAndPark_met :
    (let p : Fin 68 := 0; let t : Fin 8 := 0; let w : Nat := 0x0020A28B; let v : Nat := 31;
    let s : State := run 0x0020A28B [(1, 31)] { sems := [(31, 2)] }; customAt s p.val t.val 0x0B 2 = some w ∧ v = ((s.thread p.val t.val).x (bits w 15 5)).toNat ∧
    v < 32 ∧ 1 ≤ s.semLeft p.val v) ∧
    (let p : Fin 68 := 0; let t : Fin 8 := 0; let w : Nat := 0x0020A28B; let v : Nat := 31;
    let s : State := run 0x0020A28B [(1, 31)]; customAt s p.val t.val 0x0B 2 = some w ∧ v = ((s.thread p.val t.val).x (bits w 15 5)).toNat ∧ v < 32 ∧
    s.semLeft p.val v = 0) ∧
    (let p : Fin 68 := 0; let t : Fin 8 := 0; let w : Nat := 0x0020A28B; let v : Nat := 32;
    let s : State := run 0x0020A28B [(1, 32)]; customAt s p.val t.val 0x0B 2 = some w ∧ v = ((s.thread p.val t.val).x (bits w 15 5)).toNat ∧ 32 ≤ v) ∧
    (let s : State := park 2 5 { sems := [(5, 1)] }; let p : Fin 68 := 0; let t : Fin 8 := 0; let x : Thread := s.thread 0 0; x = s.thread p.val t.val ∧ x.st = 2 ∧
    s.jobRuns p.val = true ∧ s.semLeft p.val x.wait ≠ 0) ∧
    (let p : Fin 68 := 0; let t : Fin 8 := 0; let w : Nat := 0x0020B28B; let v : Nat := 31;
    let s : State := run 0x0020B28B [(1, 31)] { sems := [(31, 2)] }; customAt s p.val t.val 0x0B 3 = some w ∧ v = ((s.thread p.val t.val).x (bits w 15 5)).toNat ∧ v < 32) ∧
    (let p : Fin 68 := 0; let t : Fin 8 := 0; let w : Nat := 0x0020D28B; let v : Nat := 31;
    let s : State := run 0x0020D28B [(1, 31)] { sems := [(31, 2)] }; customAt s p.val t.val 0x0B 5 = some w ∧ v = ((s.thread p.val t.val).x (bits w 15 5)).toNat ∧ v < 32) ∧
    (let p : Fin 68 := 0; let t : Fin 8 := 0; let w : Nat := 0x0020C28B; let v : Nat := 31; let n : Nat := 255;
    let s : State := run 0x0020C28B [(1, 31), (2, 255)]; customAt s p.val t.val 0x0B 4 = some w ∧ v = ((s.thread p.val t.val).x (bits w 15 5)).toNat ∧ v < 4096 ∧
    n = ((s.thread p.val t.val).x (bits w 20 5)).toNat ∧ n < 256 ∧ bits v 11 1 = 0 ∧ s.sem p.val (v % 32) + n ≤ 255) ∧
    (let p : Fin 68 := 0; let t : Fin 8 := 0; let w : Nat := 0x0020C28B; let v : Nat := 31; let n : Nat := 255;
    let s : State := run 0x0020C28B [(1, 31), (2, 255)] { sems := [(31, 2)] }; customAt s p.val t.val 0x0B 4 = some w ∧
    v = ((s.thread p.val t.val).x (bits w 15 5)).toNat ∧ v < 4096 ∧ n = ((s.thread p.val t.val).x (bits w 20 5)).toNat ∧ n < 256 ∧ bits v 11 1 = 0 ∧
    255 < s.sem p.val (v % 32) + n) ∧
    (let p : Fin 68 := 0; let t : Fin 8 := 0; let w : Nat := 0x0020C28B; let v : Nat := 0x800; let n : Nat := 3; let q : Nat := 0;
    let s : State := run 0x0020C28B [(1, 0x800), (2, 3)]; customAt s p.val t.val 0x0B 4 = some w ∧ v = ((s.thread p.val t.val).x (bits w 15 5)).toNat ∧ v < 4096 ∧
    n = ((s.thread p.val t.val).x (bits w 20 5)).toNat ∧ n < 256 ∧ bits v 11 1 = 1 ∧ s.playerOfRank p.val (bits v 5 6) = some q) ∧
    (let p : Fin 68 := 0; let t : Fin 8 := 0; let w : Nat := 0x0020C28B; let v : Nat := 0xFE0;
    let s : State := run 0x0020C28B [(1, 0xFE0), (2, 3)]; customAt s p.val t.val 0x0B 4 = some w ∧ v = ((s.thread p.val t.val).x (bits w 15 5)).toNat ∧ v < 4096 ∧
    ((s.thread p.val t.val).x (bits w 20 5)).toNat < 256 ∧ bits v 11 1 = 1 ∧ s.playerOfRank p.val (bits v 5 6) = none) ∧
    (let p : Fin 68 := 0; let src : Fin 68 := 0; let x : Nat × Nat × Nat := (0, 4, 3);
    let s : State := run 0 [] { posts := [(0, 4, 3)] }; (s.ply p.val).posts.find? (fun y => y.1 == src.val) = some x ∧ s.sem p.val x.2.1 + x.2.2 ≤ 255) ∧
    (let p : Fin 68 := 0; let src : Fin 68 := 0; let x : Nat × Nat × Nat := (0, 4, 255);
    let s : State := run 0 [] { posts := [(0, 4, 255)], sems := [(4, 1)] }; (s.ply p.val).posts.find? (fun y => y.1 == src.val) = some x ∧
    255 < s.sem p.val x.2.1 + x.2.2) :=
  ⟨by decide +kernel,
   by decide +kernel,
   by decide +kernel,
   by decide +kernel,
   by decide +kernel,
   by decide +kernel,
   by decide +kernel,
   by decide +kernel,
   by decide +kernel,
   by decide +kernel,
   by decide +kernel,
   by decide +kernel⟩

theorem test_ThreadsFenceMeetYieldAndEnd_met :
    (let p : Fin 68 := 0; let t : Fin 8 := 0; let w : Nat := 0x002082AB; let v : Nat := 1;
    let s : State := run 0x002082AB [(1, 1)]; customAt s p.val t.val 0x2B 0 = some w ∧ v = ((s.thread p.val t.val).x (bits w 15 5)).toNat ∧ v < 64 ∧
    s.fenced p.val t.val v = false) ∧
    (let p : Fin 68 := 0; let t : Fin 8 := 0; let w : Nat := 0x002082AB; let v : Nat := 1;
    let s : State := run 0x002082AB [(1, 1)] { queues := [(1, [{ cue := 1, thread := 0 }])] }; customAt s p.val t.val 0x2B 0 = some w ∧
    v = ((s.thread p.val t.val).x (bits w 15 5)).toNat ∧ v < 64 ∧ s.fenced p.val t.val v = true) ∧
    (let s : State := park 5 1; let p : Fin 68 := 0; let t : Fin 8 := 0; let x : Thread := s.thread 0 0; x = s.thread p.val t.val ∧ x.st = 5 ∧ s.jobRuns p.val = true ∧
    s.fenced p.val t.val x.wait = false) ∧
    (let p : Fin 68 := 0; let t : Fin 8 := 0; let w : Nat := 0x002092AB; let v : Nat := 9; let id : Nat := 0; let j : Job := pair 0x002092AB;
    let s : State := run 0x002092AB [(1, 9)] {} (pair 0x002092AB); customAt s p.val t.val 0x2B 1 = some w ∧ v = ((s.thread p.val t.val).x (bits w 15 5)).toNat ∧ v < 256 ∧
    (s.ply p.val).job = some id ∧ tget? s.jobs id = some j ∧ (s.ply p.val).barrier = none ∧ ((j.barrier = none ∨ j.barrier = some v)) ∧ ((∃ q ∈ j.players, q ≠ p.val ∧
    (s.ply q).barrier = none))) ∧
    (let p : Fin 68 := 0; let t : Fin 8 := 0; let w : Nat := 0x002092AB; let v : Nat := 9; let id : Nat := 0; let j : Job := job0 0x002092AB;
    let s : State := run 0x002092AB [(1, 9)]; customAt s p.val t.val 0x2B 1 = some w ∧ v = ((s.thread p.val t.val).x (bits w 15 5)).toNat ∧ v < 256 ∧
    (s.ply p.val).job = some id ∧ tget? s.jobs id = some j ∧ (s.ply p.val).barrier = none ∧ ((j.barrier = none ∨ j.barrier = some v)) ∧
    ((∀ q ∈ j.players, q ≠ p.val → (s.ply q).barrier.isSome = true))) ∧
    (let p : Fin 68 := 0; let t : Fin 8 := 0; let w : Nat := 0x002092AB; let v : Nat := 9; let id : Nat := 0; let j : Job := job0 0x002092AB;
    let s : State := run 0x002092AB [(1, 9)] { barrier := some 3 }; customAt s p.val t.val 0x2B 1 = some w ∧ v = ((s.thread p.val t.val).x (bits w 15 5)).toNat ∧
    v < 256 ∧ (s.ply p.val).job = some id ∧ tget? s.jobs id = some j ∧ (((s.ply p.val).barrier.isSome = true ∨ (j.barrier.isSome = true ∧ j.barrier ≠ some v)))) ∧
    (let p : Fin 68 := 0; let t : Fin 8 := 0; let w : Nat := 0x0020A2AB; let j : Job := job0 0x0020A2AB;
    let s : State := run 0x0020A2AB []; customAt s p.val t.val 0x2B 2 = some w ∧ s.jobOf p.val = some j ∧ j.tensorJob = true) ∧
    (let p : Fin 68 := 0; let t : Fin 8 := 0; let w : Nat := 0x0020A2AB; let j : Job := { job0 0x0020A2AB with work := .slice 0 0 };
    let s : State := run 0x0020A2AB [] {} { job0 0x0020A2AB with work := .slice 0 0 }; customAt s p.val t.val 0x2B 2 = some w ∧ s.jobOf p.val = some j ∧
    j.tensorJob = false) ∧
    (let p : Fin 68 := 0; let t : Fin 8 := 0; let w : Nat := 0x0020B2AB; let s : State := run 0x0020B2AB []; customAt s p.val t.val 0x2B 3 = some w ∧
    (s.thread p.val t.val).x (bits w 15 5) = 0) ∧
    (let p : Fin 68 := 0; let t : Fin 8 := 0; let w : Nat := 0x0020B2AB; let v : Nat := 7;
    let s : State := run 0x0020B2AB [(1, 7)]; customAt s p.val t.val 0x2B 3 = some w ∧ v = ((s.thread p.val t.val).x (bits w 15 5)).toNat ∧ 0 < v ∧ v < 2 ^ 32) :=
  ⟨by decide +kernel,
   by decide +kernel,
   by decide +kernel,
   by decide +kernel,
   by decide +kernel,
   by decide +kernel,
   by decide +kernel,
   by decide +kernel,
   by decide +kernel,
   by decide +kernel⟩

theorem test_JobsComeAndGo_met :
    (let id : Nat := 0; let e : Nat := 0; let j : Job := waiting; let s : State := { alone waiting with players := [] }; tget? s.jobs id = some j ∧ e = s.ensOf j ∧
    s.dispatchable id j = true ∧ j.bare = false ∧ (s.sizes e).1 ≠ 0 ∧ s.ensFits e j.pkg = true ∧ s.blocked j = false ∧ s.ensBusy e = false ∧ s.outranked id j = false) ∧
    (let id : Nat := 0; let j : Job := comp0; let s : State := { alone comp0 with players := [] }; tget? s.jobs id = some j ∧ s.dispatchable id j = true ∧ j.bare = true ∧
    s.blocked j = false) ∧
    (let id : Nat := 0; let j : Job := waiting; let s : State := (alone waiting).wf 0x100 Reg.PG_CTRL_QUIESCE_REQ 1; tget? s.jobs id = some j ∧
    s.dispatchable id j = true ∧ j.bare = false ∧ (s.sizes (s.ensOf j)).1 ≠ 0 ∧ s.ensFits (s.ensOf j) j.pkg = true ∧ s.blocked j = true) ∧
    (let id : Nat := 0; let j : Job := job0 0;
    let s : State := live 1 { park 8 0 with streams := [(0, { chan := 0, job := some 0, st := 4 })] }; tget? s.jobs id = some j ∧ j.tensorJob = true ∧ j.st = .running ∧
    j.stop = none ∧ ((∀ p ∈ j.players, s.idleQueues p = true ∧ (s.ply p).posts = [] ∧ ∀ n ∈ s.threadStates p, n = 6 ∨ n = 8)) ∧
    ((∃ p ∈ j.players, 8 ∈ s.threadStates p)) ∧ ((∀ y ∈ s.jobStreams id, y.2.st = 4))) ∧
    (let id : Nat := 0; let j : Job := job0 0x13; let s : State := alone (job0 0x13) [(0, { chan := 0, job := some 0, st := 4 })]; tget? s.jobs id = some j ∧
    s.finished id j = true ∧ j.work = .tensor ∧ (tget? s.rings (s.chan j.chan).cq).isSome = true ∧ (s.chan j.chan).dying = none ∧ (s.chan j.chan).stopping = []) ∧
    (let id : Nat := 0; let n : Nat := 0; let k : Nat := 0; let j : Job := { job0 0x13 with work := .slice 0 0 };
    let s : State := alone { job0 0x13 with work := .slice 0 0 }; tget? s.jobs id = some j ∧ s.finished id j = true ∧ j.work = .slice n k) ∧
    (let id : Nat := 0; let j : Job := job0 0x13; let s : State := alone (job0 0x13); tget? s.jobs id = some j ∧ s.finished id j = true) :=
  ⟨by decide +kernel,
   by decide +kernel,
   by decide +kernel,
   by decide +kernel,
   by decide +kernel,
   by decide +kernel,
   by decide +kernel⟩

theorem test_StoppedJobsDrainAndEnd_met :
    (let id : Nat := 0; let code : Nat := Code.E_STALL; let j : Job := { job0 0x13 with stop := some Code.E_STALL };
    let s : State := alone { job0 0x13 with stop := some Code.E_STALL } [(0, { chan := 0, job := some 0, st := 3 }), (1, { chan := 1, job := none, st := 3 })]; tget? s.jobs id = some j ∧
    j.stop = some code ∧ j.st = .running ∧ rising s.streams = true ∧ s.jobStreams id ≠ []) ∧
    (let id : Nat := 0; let j : Job := { waiting with stop := some Code.E_CANCELLED };
    let s : State := alone { waiting with stop := some Code.E_CANCELLED }; tget? s.jobs id = some j ∧ j.stop = some Code.E_CANCELLED ∧
    ((j.st = .ready ∨ j.st = .stopping ∧ s.drained id j = true)) ∧ j.work = .tensor ∧ (tget? s.rings (s.chan j.chan).cq).isSome = true ∧ (s.chan j.chan).dying = none ∧
    (s.chan j.chan).stopping = []) ∧
    (let id : Nat := 0; let j : Job := { job0 0x13 with stop := some Code.F_PLY_UPSET, st := .stopping };
    let s : State := alone { job0 0x13 with stop := some Code.F_PLY_UPSET, st := .stopping } [] chan0; tget? s.jobs id = some j ∧ j.stop = some Code.F_PLY_UPSET ∧
    j.st = .stopping ∧ s.drained id j = true ∧ (s.chan j.chan).dying = none ∧ (s.chan j.chan).stopping = [] ∧ j.retries < setRetries (s.chan j.chan).settings) ∧
    (let id : Nat := 0; let j : Job := job0 0x13; let s : State := alone (job0 0x13); tget? s.jobs id = some j ∧ ((j.stop = none ∨ j.st = .stopping ∧
    s.drained id j = false))) ∧
    (let sh : Nat := 0; let s : State := State.reset.wf (shdPage 0) Reg.SMV_JOB_DEAD 1; s.rf (shdPage sh) Reg.SMV_JOB_DEAD = 1 ∧ s.shdWaits (fun a _ => a == sh) = false ∧
    ((∀ y ∈ s.relays, ∀ r ∈ y.2.streams, slotKey r.player r.slot / 8 ≠ sh))) ∧
    (let sh : Nat := 0; let s : State := State.reset; ((s.rf (shdPage sh) Reg.SMV_JOB_DEAD = 0 ∨ s.shdWaits (fun a _ => a == sh) = true))) :=
  ⟨by decide +kernel,
   by decide +kernel,
   by decide +kernel,
   by decide +kernel,
   by decide +kernel,
   by decide +kernel⟩

theorem test_DetectionsStopTheJob_met :
    (let p : Fin 68 := 0; let id : Nat := 0; let j : Job := job0 0x13; let s : State := run 0x13 []; (s.ply p.val).job = some id ∧ tget? s.jobs id = some j) ∧
    (let p : Fin 68 := 0; let kind : Nat := 3; let cls : Nat := 0; let place : Nat := 7; let id : Nat := 0; let j : Job := job0 0x13;
    let s : State := run 0x13 []; (s.ply p.val).job = some id ∧ tget? s.jobs id = some j ∧ j.st = .running ∧ j.stop = none ∧ 1 ≤ kind ∧ kind ≤ 3 ∧
    ((kind = 2 → cls = 1 ∨ cls = 2 ∨ cls = 3 ∨ cls = 5)) ∧ ((kind = 3 → place ≤ 7)) ∧ (p.val, kind + 8 * (if kind = 2 then cls else 0), place) ∉ j.detections) ∧
    (let p : Fin 68 := 0; let kind : Nat := 1; let cls : Nat := 0; let place : Nat := 9; let id : Nat := 0; let j : Job := { job0 0x13 with detections := [(0, 1, 9)] };
    let s : State := run 0x13 [] {} { job0 0x13 with detections := [(0, 1, 9)] }; (s.ply p.val).job = some id ∧ tget? s.jobs id = some j ∧ j.st = .running ∧
    j.stop = none ∧ 1 ≤ kind ∧ kind ≤ 3 ∧ ((kind = 2 → cls = 1)) ∧ ((kind = 3 → place ≤ 7)) ∧ (p.val, kind + 8 * (if kind = 2 then cls else 0), place) ∈ j.detections) ∧
    (let p : Fin 68 := 0; let s : State := { run 0x13 [] with time := 2 ^ 30 }; s.jobRuns p.val = true ∧ (s.ply p.val).paused = none ∧
    2 * 2 ^ (18 + s.rf (0x100 + p.val) Reg.PLY_CTRL_WDOG_EXP) ≤ 3 * (s.time - (s.ply p.val).active)) ∧
    (let p : Fin 68 := 0; let s : State := run 0x13 [] { paused := some 0 }; ((s.jobRuns p.val = false ∨ (s.ply p.val).paused.isSome = true))) ∧
    (let id : Nat := 0; let j : Job := job0 0x13; let x : Nat × Stream := (0, { chan := 0, job := some 0, st := 3 });
    let s : State := { alone (job0 0x13) [(0, { chan := 0, job := some 0, st := 3 })] with time := 524288 }; tget? s.jobs id = some j ∧
    (s.jobStreams id).find? (fun y => y.2.inPass) = some x ∧ j.st = .running ∧ j.stop = none ∧ j.stallHeld = none ∧ j.moved + 524288 ≤ s.time) ∧
    (let sh : Nat := 0; let id : Nat := 0; let slot : Fin 6 := 0; let x : Stream := { chan := 0, job := some 0, st := 5 }; let j : Job := job0 0x13;
    let s : State := { (alone (job0 0x13) [(0, { chan := 0, job := some 0, st := 5 })]).wf (shdPage 0) Reg.SMV_CTRL_HALT_TO 1 with time := 1000001 }; tget? s.streams (slotKey sh slot.val) = some x ∧
    x.halted = true ∧ x.job = some id ∧ tget? s.jobs id = some j ∧ j.stop = none ∧ s.rf (shdPage sh) Reg.SMV_CTRL_HALT_TO ≠ 0 ∧
    x.haltAt + s.rf (shdPage sh) Reg.SMV_CTRL_HALT_TO * 1000000 < s.time) ∧
    (let w : Fin 4 := 0; let k : Nat := 0; let f : Fly := { tag := 0, job := 0, slice := 0, bytes := [] }; let j : Job := job0 0x13;
    let s : State := { alone (job0 0x13) with relays := [(0, { flying := [{ tag := 0, job := 0, slice := 0, bytes := [] }] })] }; (s.ring w.val).flying[k]? = some f ∧
    tget? s.jobs f.job = some j ∧ j.stop = none) :=
  ⟨by decide +kernel,
   by decide +kernel,
   by decide +kernel,
   by decide +kernel,
   by decide +kernel,
   by decide +kernel,
   by decide +kernel,
   by decide +kernel⟩

theorem test_CuesRunAndComplete_met :
    (let p : Fin 68 := 0; let cls : Nat := 1; let c : QCue := nop 0xC301;
    let s : State := headed 1 0xC301 (nop 0xC301) { sems := [(1, 1), (3, 7)] }; headCue s p.val cls 0 = some c ∧ ((cSigEn c.cue = true → s.sem p.val (cSig c.cue) < 255))) ∧
    (let s : State := macState 0; let p : Fin 68 := 0; let c : QCue := nop (macCue 0); let j : MacJob := macJobOf s 0 (macCue 0); headCue s p.val 1 1 = some c ∧
    j = macJobOf s p.val c.cue ∧ (readMacFrame s p.val (bits c.cue 80 16) (cScript c.cue)).2 = true ∧ bits c.cue 112 1 = 0) ∧
    (let s : State := macState 1; let p : Fin 68 := 0; let c : QCue := nop (macCue 1); let j : MacJob := macJobOf s 0 (macCue 1);
    let b : Acc := macSteps s 0 (macJobOf s 0 (macCue 1)) true {}; headCue s p.val 1 1 = some c ∧ j = macJobOf s p.val c.cue ∧
    (readMacFrame s p.val (bits c.cue 80 16) (cScript c.cue)).2 = true ∧ bits c.cue 112 1 = 1 ∧ inLs (bits c.cue 64 16) (j.pos * fmtLines j.frame.outFmt) = true ∧
    b = macSteps s p.val j (bits c.cue 111 1 == 1) (tget (s.ply p.val).acc {} (bits c.cue 102 1))) ∧
    (let p : Fin 68 := 0; let c : QCue := nop (macCue 0); let s : State := headed 1 (macCue 0); headCue s p.val 1 1 = some c ∧
    (readMacFrame s p.val (bits c.cue 80 16) (cScript c.cue)).2 = false) ∧
    (let p : Fin 68 := 0; let c : QCue := nop (tabCue 1); let n : Nat := 64; let tb : Nat := 128; let s : State := headed 3 (tabCue 1); headCue s p.val 3 1 = some c ∧
    n = 64 * (bits c.cue 80 16 + 1) ∧ tb = 64 * bits c.cue 64 16) ∧
    (let p : Fin 68 := 0; let c : QCue := nop (tabCue 2); let n : Nat := 64; let tb : Nat := 128;
    let s : State := rise (headed 3 (tabCue 2)); headCue s p.val 3 2 = some c ∧ n = 64 * (bits c.cue 80 16 + 1) ∧ tb = 64 * bits c.cue 64 16 ∧
    ascending (thresholds s p.val tb) = true) ∧
    (let p : Fin 68 := 0; let c : QCue := nop (tabCue 2); let s : State := (headed 3 (tabCue 2)).store (lsAddr 0 128) [5]; headCue s p.val 3 2 = some c ∧
    ascending (thresholds s p.val (64 * bits c.cue 64 16)) = false) ∧
    (let p : Fin 68 := 0; let cls : Nat := 1; let c : QCue := { nop 0xC301 with started := true, ran := true }; let rest : List QCue := [];
    let s : State := headed 1 0 { nop 0xC301 with started := true, ran := true } { sems := [(3, 7)] }; tget (s.ply p.val).queues [] cls = c :: rest ∧ c.ran = true ∧
    s.jobRuns p.val = true ∧ cls ≠ 5 ∧ ((cSigEn c.cue = true → s.sem p.val (cSig c.cue) < 255))) ∧
    (let p : Fin 68 := 0; let c : QCue := { nop (treCue 3) with started := true, ran := true }; let rest : List QCue := [];
    let s : State := treState 3 { nop (treCue 3) with started := true, ran := true }; tget (s.ply p.val).queues [] 5 = c :: rest ∧ c.ran = true ∧ s.jobRuns p.val = true) ∧
    (let p : Fin 68 := 0; let cls : Nat := 1; let s : State := headed 1 1; (tget (s.ply p.val).queues [] cls).head?.any QCue.ran = false) :=
  ⟨by decide +kernel,
   by decide +kernel,
   by decide +kernel,
   by decide +kernel,
   by decide +kernel,
   by decide +kernel,
   by decide +kernel,
   by decide +kernel,
   by decide +kernel,
   by decide +kernel⟩

theorem test_VectorCuesWriteTheirOutputs_met :
    (let s : State := vecState 1; let p : Fin 68 := 0; let c : QCue := nop (vecCue 1); let j : VecJob := vecJobOf s 0 1 (vecCue 1); VecRuns s p.val 1 c j) ∧
    (let s : State := vecState 2; let p : Fin 68 := 0; let c : QCue := nop (vecCue 2); let j : VecJob := vecJobOf s 0 2 (vecCue 2); VecRuns s p.val 2 c j) ∧
    (let s : State := vecState 3; let p : Fin 68 := 0; let c : QCue := nop (vecCue 3); let j : VecJob := vecJobOf s 0 3 (vecCue 3); VecRuns s p.val 3 c j) ∧
    (let s : State := vecState 4; let p : Fin 68 := 0; let c : QCue := nop (vecCue 4); let j : VecJob := vecJobOf s 0 4 (vecCue 4); VecRuns s p.val 4 c j ∧
    inLsBytes (bits c.cue 48 16) (upDiv j.n j.frame.group) = true) ∧
    (let s : State := vecState 5; let p : Fin 68 := 0; let c : QCue := nop (vecCue 5); let j : VecJob := vecJobOf s 0 5 (vecCue 5);
    let y : Job := adJob; VecRuns s p.val 5 c j ∧ s.jobOf p.val = some y ∧ adamSkips s p.val j y = false) ∧
    (let p : Fin 68 := 0; let c : QCue := nop (vecCue 5); let j : VecJob := vecJobOf skips 0 5 (vecCue 5); let y : Job := { adJob with marks := [(1, (0, true))] };
    let s : State := skips; VecRuns s p.val 5 c j ∧ s.jobOf p.val = some y ∧ adamSkips s p.val j y = true) ∧
    (let s : State := vecState 6; let p : Fin 68 := 0; let c : QCue := nop (vecCue 6); let j : VecJob := vecJobOf s 0 6 (vecCue 6); VecRuns s p.val 6 c j) ∧
    (let s : State := vecState 7; let p : Fin 68 := 0; let c : QCue := nop (vecCue 7); let j : VecJob := vecJobOf s 0 7 (vecCue 7); VecRuns s p.val 7 c j) ∧
    (let s : State := vecState 8; let p : Fin 68 := 0; let c : QCue := nop (vecCue 8); let j : VecJob := vecJobOf s 0 8 (vecCue 8); VecRuns s p.val 8 c j) ∧
    (let s : State := vecState 9; let p : Fin 68 := 0; let c : QCue := nop (vecCue 9); let j : VecJob := vecJobOf s 0 9 (vecCue 9); VecRuns s p.val 9 c j) ∧
    (let p : Fin 68 := 0; let c : QCue := nop (vecCue 1); let s : State := (headed 2 (vecCue 1)).store (lsAddr 0 67) [1]; headCue s p.val 2 1 = some c ∧
    (vecJobOf s p.val 1 c.cue).frame.ok = false) :=
  ⟨by constructor <;> decide +kernel,
   by constructor <;> decide +kernel,
   by constructor <;> decide +kernel,
   ⟨by constructor <;> decide +kernel, by decide +kernel⟩,
   ⟨by constructor <;> decide +kernel, by decide +kernel, by decide +kernel⟩,
   ⟨by constructor <;> decide +kernel, by decide +kernel, by decide +kernel⟩,
   by constructor <;> decide +kernel,
   by constructor <;> decide +kernel,
   by constructor <;> decide +kernel,
   by constructor <;> decide +kernel,
   by decide +kernel⟩

theorem test_TransformCuesTakeTheirEngine_met :
    (let s : State := treState 1; let p : Fin 68 := 0; let c : QCue := nop (treCue 1); let f : TreFrame := (readTreFrame s 0 1 1).1; TreStarts s p.val 1 c ∧
    f = (readTreFrame s p.val (bits c.cue 80 16) 1).1 ∧ f.wL1 * f.aBound < 0x7FFFFFFF80000000 ∧ kerOver s p.val c.cue f = none ∧ actOver s p.val c.cue f = none) ∧
    (let s : State := treOver 1; let p : Fin 68 := 0; let c : QCue := nop (treCue 1); let f : TreFrame := (readTreFrame s 0 1 1).1; TreStarts s p.val 1 c ∧
    f = (readTreFrame s p.val (bits c.cue 80 16) 1).1 ∧ 0x7FFFFFFF80000000 ≤ f.wL1 * f.aBound) ∧
    (let p : Fin 68 := 0; let c : QCue := nop (treCue 2); let s : State := treState 2; TreStarts s p.val 2 c) ∧
    (let p : Fin 68 := 0; let c : QCue := nop (treCue 3); let s : State := treState 3; TreStarts s p.val 3 c) ∧
    (let p : Fin 68 := 0; let c : QCue := nop (treCue 4); let s : State := treState 4; TreStarts s p.val 4 c) ∧
    (let p : Fin 68 := 0; let c : QCue := nop (treCue 3); let s : State := (treState 3).wf ((treState 3).trePage 0) Reg.TRE_STATE_MODE 1; headCue s p.val 5 3 = some c ∧
    s.refusing (s.trePage p.val) = false ∧ ((s.rf (s.trePage p.val) Reg.TRE_STATE_MODE ≠ 0 ∨ s.treTurn (s.trePage p.val) ≠ some (s.ply p.val).ens))) :=
  ⟨⟨by constructor <;> decide +kernel, by decide +kernel, by decide +kernel, by decide +kernel, by decide +kernel⟩,
   ⟨by constructor <;> decide +kernel, by decide +kernel, by decide +kernel⟩,
   by constructor <;> decide +kernel,
   by constructor <;> decide +kernel,
   by constructor <;> decide +kernel,
   by decide +kernel⟩

theorem test_StreamsStartAndClose_met :
    (let p : Fin 68 := 0; let c : QCue := nop (shdCue 1); let slot : Nat := 1; let id : Nat := 0; let d : List Byte := desc 0 0x18; let j : Job := dJob (desc 0 0x18);
    let s : State := shdState 1 (desc 0 0x18); startHead s p.val = some (c, slot, d) ∧ (¬(sdKind d = 3 ∧ sdLayoutOk d = true)) ∧ (s.ply p.val).job = some id ∧
    tget? s.jobs id = some j ∧ s.refusing (shdPage p.val) = false ∧ sdOk s (s.pkgOf p.val) p.val j.chan (fun n => (s.edge j.chan (some id) n).isSome) d = true) ∧
    (let p : Fin 68 := 0; let c : QCue := nop (shdCue 1); let slot : Nat := 1; let id : Nat := 0; let d : List Byte := desc 15 0x18; let j : Job := dJob (desc 15 0x18);
    let s : State := shdState 1 (desc 15 0x18); startHead s p.val = some (c, slot, d) ∧ (¬(sdKind d = 3 ∧ sdLayoutOk d = true)) ∧ (s.ply p.val).job = some id ∧
    tget? s.jobs id = some j ∧ j.stop = none ∧ s.refusing (shdPage p.val) = false ∧
    sdOk s (s.pkgOf p.val) p.val j.chan (fun n => (s.edge j.chan (some id) n).isSome) d = false) ∧
    (let n : Fin 8 := 7; let slot : Fin 6 := 5; let id : Nat := 0; let off : Nat := 0; let d : List Byte := desc 0 0x18; let j : Job := dJob (desc 0 0x18);
    let s : State := shdState 1 (desc 0 0x18); tget? s.jobs id = some j ∧ d = descAt (j.pkg.getD {}) off ∧ j.stop = none ∧ ((j.st = .running ∨ j.st = .offstage)) ∧
    tget? s.streams (slotKey (0x80 + n.val) slot.val) = none ∧ (¬(sdKind d = 3 ∧ sdLayoutOk d = true)) ∧ s.refusing (shdPage (0x80 + n.val)) = false ∧
    sdOk s (j.pkg.getD {}) (0x80 + n.val) j.chan (fun e => (s.edge j.chan (some id) e).isSome) d = true) ∧
    (let p : Fin 68 := 0; let c : QCue := nop (shdCue 2); let k : Nat := 1; let x : Stream := { strm (desc 0 1) with st := 4 };
    let s : State := shdState 2 (desc 0 1) [(1, { strm (desc 0 1) with st := 4 })]; headCue s p.val 4 2 = some c ∧ k = slotKey p.val (bits c.cue 24 3) ∧
    tget? s.streams k = some x ∧ sdPersist x.desc = true ∧ x.st = 4 ∧ sdKind x.desc ≠ 3) ∧
    (let p : Fin 68 := 0; let c : QCue := nop (shdCue 2); let x : Stream := strm (desc 0 1);
    let s : State := shdState 2 (desc 0 1) [(1, strm (desc 0 1))]; headCue s p.val 4 2 = some c ∧ tget? s.streams (slotKey p.val (bits c.cue 24 3)) = some x ∧
    sdPersist x.desc = true ∧ x.st ≠ 4) ∧
    (let p : Fin 68 := 0; let c : QCue := nop (shdCue 2); let id : Nat := 0; let j : Job := dJob (desc 0 1);
    let s : State := shdState 2 (desc 0 1); headCue s p.val 4 2 = some c ∧ tget? s.streams (slotKey p.val (bits c.cue 24 3)) = none ∧ (s.ply p.val).job = some id ∧
    tget? s.jobs id = some j ∧ j.stop = none) ∧
    (let p : Fin 68 := 0; let c : QCue := nop (shdCue 3); let k : Nat := 1; let x : Stream := { strm (desc 0 1) with st := 4 };
    let s : State := shdState 3 (desc 0 1) [(1, { strm (desc 0 1) with st := 4 })]; headCue s p.val 4 3 = some c ∧ k = slotKey p.val (bits c.cue 24 3) ∧
    tget? s.streams k = some x ∧ x.st = 4 ∧ ((cSigEn c.cue = true → s.sem p.val (cSig c.cue) < 255))) ∧
    (let p : Fin 68 := 0; let c : QCue := nop (shdCue 3); let id : Nat := 0; let j : Job := dJob (desc 0 1);
    let s : State := shdState 3 (desc 0 1); headCue s p.val 4 3 = some c ∧ tget? s.streams (slotKey p.val (bits c.cue 24 3)) = none ∧ (s.ply p.val).job = some id ∧
    tget? s.jobs id = some j ∧ j.stop = none) ∧
    (let sh : Nat := 0; let slot : Fin 6 := 1; let x : Stream := { strm (desc 0 0) with tile := 1, sig := some 3 };
    let s : State := shdState 1 (desc 0 0) [(1, { strm (desc 0 0) with tile := 1, sig := some 3 })]; tget? s.streams (slotKey sh slot.val) = some x ∧ x.st = 2 ∧
    sdKind x.desc ≠ 3 ∧ x.desc ≠ [] ∧ s.streamRuns sh x = true ∧ s.slotWaits sh slot.val = false ∧ (s.shapeFor sh x []).tiles ≤ x.tile ∧ sdPersist x.desc = false ∧
    ((sh < 68 → headCue s sh 4 3 = none ∧ ∀ n, x.sig = some n → s.sem sh n < 255))) ∧
    (let sh : Nat := 0; let slot : Fin 6 := 1; let x : Stream := { strm (desc 0 1) with tile := 1, sig := some 3 };
    let s : State := shdState 1 (desc 0 1) [(1, { strm (desc 0 1) with tile := 1, sig := some 3 })]; tget? s.streams (slotKey sh slot.val) = some x ∧ x.st = 2 ∧
    sdKind x.desc ≠ 3 ∧ x.desc ≠ [] ∧ s.streamRuns sh x = true ∧ s.slotWaits sh slot.val = false ∧ (s.shapeFor sh x []).tiles ≤ x.tile ∧ sdPersist x.desc = true ∧
    ((sh < 68 → headCue s sh 4 3 = none ∧ (s.threadStates sh).any (fun n => n != 6) = true ∧ ∀ n, x.sig = some n → s.sem sh n < 255))) ∧
    (let sh : Nat := 0; let slot : Fin 6 := 1; let x : Stream := { strm (desc 0 1) with tile := 1, sig := some 3 }; let c : QCue := nop (shdCue 3);
    let s : State := shdState 3 (desc 0 1) [(1, { strm (desc 0 1) with tile := 1, sig := some 3 })]; tget? s.streams (slotKey sh slot.val) = some x ∧ x.st = 2 ∧
    sdKind x.desc ≠ 3 ∧ x.desc ≠ [] ∧ s.streamRuns sh x = true ∧ s.slotWaits sh slot.val = false ∧ (s.shapeFor sh x []).tiles ≤ x.tile ∧ sh < 68 ∧
    headCue s sh 4 3 = some c ∧ bits c.cue 24 3 = slot.val ∧ cWaitEn c.cue = false ∧ ((∀ n, x.sig = some n → s.sem sh n < 255))) ∧
    (let sh : Nat := 0; let slot : Fin 6 := 1; let x : Stream := strm (desc 0 1);
    let s : State := shdState 3 (desc 0 1) [(1, strm (desc 0 1))]; tget? s.streams (slotKey sh slot.val) = some x ∧
    ((s.slotWaits sh slot.val = true ∨ x.tile < (s.shapeFor sh x []).tiles))) :=
  ⟨by decide +kernel,
   by decide +kernel,
   by decide +kernel,
   by decide +kernel,
   by decide +kernel,
   by decide +kernel,
   by decide +kernel,
   by decide +kernel,
   by decide +kernel,
   by decide +kernel,
   by decide +kernel,
   by decide +kernel⟩

theorem test_StreamsMoveAndHalt_met :
    (let s : State := (sstate mapped (strm (desc 0 0x18))).store 0x10000 [9, 8, 7, 6]; let sh : Nat := 0; let slot : Fin 6 := 1; let idx : List Byte := [];
    let x : Stream := strm (desc 0 0x18); let f : Shape := s.shapeFor 0 (strm (desc 0 0x18)) []; tget? s.streams (slotKey sh slot.val) = some x ∧
    f = s.shapeFor sh x idx ∧ s.canMove sh x f = true ∧ (s.badTap x f).isNone = true) ∧
    (let s : State := (sstate mapped (strm (desc 0 0x18))).store 0x10000 [9, 8, 7, 6]; let sh : Nat := 0; let slot : Fin 6 := 1; let idx : List Byte := [];
    let x : Stream := strm (desc 0 0x18); let f : Shape := s.shapeFor 0 (strm (desc 0 0x18)) []; tget? s.streams (slotKey sh slot.val) = some x ∧
    f = s.shapeFor sh x idx ∧ s.canMove sh x f = true ∧ (s.badTap x f).isNone = true ∧ sh < 68 ∧ sdDir x.desc = 0 ∧ sdDataEn x.desc = true ∧
    ((x.took = true ∨ sdFreeEn x.desc = false ∨ x.tile < 4)) ∧ s.sem sh (sdDataSem x.desc) < 255) ∧
    (let s : State := sstate part0 (strm (desc 0 0x18)); let sh : Nat := 0; let slot : Fin 6 := 1; let idx : List Byte := []; let x : Stream := strm (desc 0 0x18);
    let f : Shape := s.shapeFor 0 (strm (desc 0 0x18)) []; let n : Nat := 0; let va : Nat := 0; let kind : Nat := 1; let level : Nat := 0; let id : Nat := 0;
    let w : Bool := false; let j : Job := dJob (desc 0 0x18); tget? s.streams (slotKey sh slot.val) = some x ∧ f = s.shapeFor sh x idx ∧ s.canMove sh x f = true ∧
    s.badTap x f = some (n, va, .fault kind level w) ∧ x.job = some id ∧ tget? s.jobs id = some j ∧ j.stop = none) ∧
    (let sh : Nat := 0; let slot : Fin 6 := 1; let idx : List Byte := []; let x : Stream := { strm (desc 0 0x18) with tile := 1 };
    let s : State := sstate mapped { strm (desc 0 0x18) with tile := 1 }; tget? s.streams (slotKey sh slot.val) = some x ∧ s.canMove sh x (s.shapeFor sh x idx) = false) ∧
    (let s : State := sstate heldPage (strm (desc 0 0x18)); let sh : Nat := 0; let slot : Fin 6 := 1; let far : List Byte := []; let idx : List Byte := [];
    let x : Stream := strm (desc 0 0x18); let f : Shape := s.shapeFor 0 (strm (desc 0 0x18)) []; let n : Nat := 0; let va : Nat := 0; let level : Nat := 2;
    let entry : Nat := 0x4000; let fetch : Bool := false;
    let u : State := moveTo 0 1 (strm (desc 0 0x18)) (s.shapeFor 0 (strm (desc 0 0x18)) []) 0 [] (takeTile 0 (strm (desc 0 0x18)) s); tget? s.streams (slotKey sh slot.val) = some x ∧
    f = s.shapeFor sh x idx ∧ s.canMove sh x f = true ∧ s.badTap x f = some (n, va, .hold level fetch entry) ∧ u = moveTo sh slot.val x f n far (takeTile sh x s) ∧
    u.slotWaits sh slot.val = false) ∧
    (let s : State := sstate waits0 (strm (desc 0 0x18)); let sh : Nat := 0; let slot : Fin 6 := 1; let far : List Byte := []; let idx : List Byte := [];
    let x : Stream := strm (desc 0 0x18); let f : Shape := s.shapeFor 0 (strm (desc 0 0x18)) []; let n : Nat := 0; let va : Nat := 0; let level : Nat := 2;
    let entry : Nat := 0x4000; let fetch : Bool := false;
    let u : State := moveTo 0 1 (strm (desc 0 0x18)) (s.shapeFor 0 (strm (desc 0 0x18)) []) 0 [] (takeTile 0 (strm (desc 0 0x18)) s); tget? s.streams (slotKey sh slot.val) = some x ∧
    f = s.shapeFor sh x idx ∧ s.canMove sh x f = true ∧ s.badTap x f = some (n, va, .hold level fetch entry) ∧ u = moveTo sh slot.val x f n far (takeTile sh x s) ∧
    u.slotWaits sh slot.val = true) ∧
    (let sh : Nat := 0x80; let slot : Fin 6 := 1; let a : SharedAt := { job := none, chan := 0, va := 0, write := false, pos := 5 }; let level : Nat := 2;
    let entry : Nat := 0x4000; let fetch : Bool := false; let s : State := sstate heldPage (strm (desc 0 0x18)); tget? s.streams (slotKey sh slot.val) = none ∧
    0x80 ≤ sh ∧ sh < 0x88 ∧ (s.chan a.chan).st ≠ 0 ∧ a.job = none ∧ s.walk a.chan a.va a.write = .hold level fetch entry) ∧
    (let n : Nat := 0; let c : ChainSt := { owner := .job 0, edges := [{ num := 0, prod := 0, cons := 1, credits := 2, tileBytes := 16384, free := 2 }] };
    let s : State := chained false none [] 2; s.chains[n]? = some c ∧ c.granted = false ∧
    ((c.units = 0 ∨ (s.chains.take n).any (fun x => !x.granted && x.units != 0) = false ∧ s.grantedUnits + c.units ≤ s.hoPool))) ∧
    (let n : Nat := 0; let c : ChainSt := { owner := .job 0, edges := [{ num := 0, prod := 0, cons := 1, credits := 2, tileBytes := 16384, free := 2 }] };
    let s : State := (chained false none [] 2).wf 0x280 Reg.SMV_HO_POOL_POOL 1; s.chains[n]? = some c ∧ c.granted = false ∧ c.units ≠ 0 ∧
    (((s.chains.take n).any (fun x => !x.granted && x.units != 0) = true ∨ s.hoPool < s.grantedUnits + c.units))) ∧
    (let n : Nat := 0; let num : Fin 64 := 0; let b : List Byte := [5]; let c : ChainSt := chain0 true (some [5]) [] 1; let e : Edge := edge0 (some [5]) [] 1;
    let s : State := chained true (some [5]) [] 1; s.chains[n]? = some c ∧ c.edges.find? (fun y => y.num == num.val) = some e ∧ c.granted = true ∧ e.built = some b) ∧
    (let n : Nat := 0; let num : Fin 64 := 0; let c : ChainSt := chain1; let e : Edge := edge1;
    let s : State := { run 0x13 [] with chains := [chain1] }; s.chains[n]? = some c ∧ c.edges.find? (fun y => y.num == num.val) = some e ∧ c.granted = true ∧
    e.built = none ∧ isBlock e.prod = true ∧ e.free ≠ 0) ∧
    (let n : Nat := 0; let num : Fin 64 := 0; let c : ChainSt := chain0 true none [] 1; let e : Edge := edge0 none [] 1;
    let s : State := chained true none [] 1; s.chains[n]? = some c ∧ c.edges.find? (fun y => y.num == num.val) = some e ∧ e.built = none ∧
    ((isBlock e.prod = false ∨ e.free = 0))) ∧
    (let n : Nat := 0; let num : Fin 64 := 0; let c : ChainSt := chain0 true none [[5]] 1; let e : Edge := edge0 none [[5]] 1;
    let s : State := chained true none [[5]] 1; s.chains[n]? = some c ∧ c.edges.find? (fun y => y.num == num.val) = some e ∧ e.tiles ≠ [] ∧
    ((e.read = true ∨ isBlock e.cons = true))) :=
  ⟨⟨by decide +kernel, rfl, by decide +kernel, by decide +kernel⟩,
   ⟨by decide +kernel, rfl, by decide +kernel, by decide +kernel, by decide +kernel, by decide +kernel, by decide +kernel, by decide +kernel, by decide +kernel⟩,
   ⟨by decide +kernel, rfl, by decide +kernel, by decide +kernel, by decide +kernel, by decide +kernel, by decide +kernel⟩,
   by decide +kernel,
   ⟨by decide +kernel, rfl, by decide +kernel, by decide +kernel, rfl, by decide +kernel⟩,
   ⟨by decide +kernel, rfl, by decide +kernel, by decide +kernel, rfl, by decide +kernel⟩,
   by decide +kernel,
   by decide +kernel,
   by decide +kernel,
   by decide +kernel,
   by decide +kernel,
   by decide +kernel,
   by decide +kernel⟩

theorem test_RelayStreamsReachTheirPlayers_met :
    (let p : Fin 68 := 0; let c : QCue := nop (shdCue 1); let slot : Nat := 1; let id : Nat := 0; let w : Nat := 0; let d : List Byte := relayDesc;
    let j : Job := dJob relayDesc; let s : State := shdState 1 relayDesc; startHead s p.val = some (c, slot, d) ∧ w = wingOf p.val ∧ sdKind d = 3 ∧ sdLayoutOk d = true ∧
    (s.ply p.val).job = some id ∧ tget? s.jobs id = some j ∧ s.relayRoom w = true ∧ j.tags.contains (w, sdRelayTag d) = false ∧ s.relay w id (sdRelayTag d) = none ∧
    s.refusing (wrlPage w) = false ∧ s.refusing (shdPage p.val) = false ∧ sdOk s (s.pkgOf p.val) p.val j.chan (fun n => (s.edge j.chan (some id) n).isSome) d = true) ∧
    (let p : Fin 68 := 0; let s : State := ringState (List.replicate 8 rly) []; s.relayRoom (wingOf p.val) = false) ∧
    (let p : Fin 68 := 0; let c : QCue := nop (shdCue 1); let slot : Nat := 1; let id : Nat := 0; let d : List Byte := relayDesc;
    let j : Job := { dJob relayDesc with tags := [(0, 7)] };
    let s : State := { shdState 1 relayDesc with jobs := [(0, { dJob relayDesc with tags := [(0, 7)] })] }; startHead s p.val = some (c, slot, d) ∧ sdKind d = 3 ∧
    sdLayoutOk d = true ∧ (s.ply p.val).job = some id ∧ tget? s.jobs id = some j ∧ j.stop = none ∧ s.relayRoom (wingOf p.val) = true ∧
    j.tags.contains (wingOf p.val, sdRelayTag d) = true) ∧
    (let w : Fin 4 := 0; let r : Relay := rly; let j : Job := dJob relayDesc;
    let s : State := mapped (ringState [rly] []); (s.ring w.val).streams.find? (fun r => r.sends && (s.unready r).isEmpty && (match tget? s.jobs r.job with | some j => j.stop.isNone && j.st == .running | none => false)) = some r ∧
    tget? s.jobs r.job = some j ∧ (s.firstMiss j.chan (r.base + 4096 * r.next) 4096 false).isNone = true) ∧
    (let w : Fin 4 := 0; let s : State := ringState [{ rly with next := 2 }] []; ((∀ r, r ∈ (s.ring w.val).streams → (r.sends && (s.unready r).isEmpty) = false))) ∧
    (let w : Fin 4 := 0; let k : Nat := 0; let q : Nat := 0; let f : Fly := fly; let kp : Keep := keep1; let j : Job := job0 0x13;
    let s : State := keptState fly; (s.ring w.val).flying[k]? = some f ∧ f.hop < 17 ∧ q = 17 * w.val + f.hop ∧ ((k = 0 ∨ ∃ x, (s.ring w.val).flying[k - 1]? = some x ∧
    f.hop < x.hop)) ∧ tget? s.jobs f.job = some j ∧ j.stop = none ∧ j.st = .running ∧ (s.ply q).job = some f.job ∧ (s.ply q).keep = some kp ∧ kp.tag = f.tag ∧
    kp.first ≠ 0xFFFF ∧ kp.first ≤ f.slice ∧ f.slice < kp.first + kp.count) ∧
    (let w : Fin 4 := 0; let k : Nat := 0; let q : Nat := 0; let f : Fly := fly; let s : State := ringState [rly] [fly]; (s.ring w.val).flying[k]? = some f ∧ f.hop < 16 ∧
    q = 17 * w.val + f.hop ∧ ((k = 0 ∨ ∃ x, (s.ring w.val).flying[k - 1]? = some x ∧ f.hop < x.hop)) ∧ (s.ply q).keep = none) ∧
    (let w : Fin 4 := 0; let k : Nat := 1; let f : Fly := fly; let x : Fly := fly; let s : State := ringState [rly] [fly, fly]; (s.ring w.val).flying[k]? = some f ∧
    0 < k ∧ (s.ring w.val).flying[k - 1]? = some x ∧ x.hop ≤ f.hop) ∧
    (let w : Fin 4 := 0; let r : Relay := { rly with next := 2 };
    let s : State := { ringState [{ rly with next := 2 }] [{ fly with slice := 1, hop := 17 }] with streams := [(1, { strm relayDesc with sig := some 3 })] }; (s.ring w.val).streams.find? (fun r => (r.stopped || decide (r.slices ≤ r.next)) && (s.ring w.val).flying.all (fun f => f.job != r.job || f.tag != r.tag || f.hop == 17)) = some r) ∧
    (let w : Fin 4 := 0; let s : State := ringState [rly] []; ((∀ r, r ∈ (s.ring w.val).streams → r.stopped = false ∧ r.next < r.slices))) ∧
    (let p : Fin 68 := 0; let c : QCue := nop keepCue; let s : State := run 0x13 [] { queues := [(6, [nop keepCue])] }; headCue s p.val 6 1 = some c) ∧
    (let p : Fin 68 := 0; let c : QCue := nop keepCue; let id : Nat := 0; let j : Job := job0 0x13; let r : Relay := { rly with slices := 1 };
    let s : State := { run 0x13 [] { queues := [(6, [nop keepCue])] } with relays := [(0, { streams := [{ rly with slices := 1 }] })] }; headCue s p.val 6 1 = some c ∧
    (s.ply p.val).job = some id ∧ tget? s.jobs id = some j ∧ j.stop = none ∧ s.relay (wingOf p.val) id (bits c.cue 64 32) = some r ∧ bits c.cue 24 16 ≠ 0xFFFF ∧
    ((bits c.cue 24 16 < tget r.ends 0 p.val ∨ r.slices < bits c.cue 24 16 + (bits c.cue 40 8 + 1)))) :=
  ⟨by decide +kernel,
   by decide +kernel,
   by decide +kernel,
   by decide +kernel,
   by decide +kernel,
   by decide +kernel,
   by decide +kernel,
   by decide +kernel,
   by decide +kernel,
   by decide +kernel,
   by decide +kernel,
   by decide +kernel⟩

theorem test_InputsFillAndSlicesAreReleased_met :
    (let handle : Word := (handleOf 0 {} : Nat); let i : Nat := 0; let p : InPic := { num := 0, pts := 0, got := [(0, 1)] }; let io : Io := {inSlots := 1};
    let gone : List Nat := (List.range 31).map (· + 1);
    let s : State := { part0 (encState (encChan 2 32 {} [{ num := 0, pts := 0, got := [(0, 1)] }]) []) with time := 100000000 }; s.chanOf handle.toNat = some i ∧
    (s.chan i).ty = 0 ∧ (s.chan i).io = some io ∧ (s.chan i).codec.inputs.find? (fun q => !q.closed) = some p ∧
    (s.chan i).codec.inputs.find? (fun q => q.num == p.num) = some p ∧ p.last + 1000 * max 1 (s.rf 0x30 Reg.SEQ_CTRL_LINE_TO) ≤ s.time ∧
    gone = (List.range (seqH (s.chan i).seqHdr)).filter (fun l => !p.has l) ∧ gone ≠ []) ∧
    (let handle : Word := (handleOf 0 {} : Nat); let i : Nat := 0; let p : InPic := { num := 0, pts := 0, got := [(0, 1)], last := 5 };
    let s : State := encState (encChan 2 32 {} [{ num := 0, pts := 0, got := [(0, 1)], last := 5 }]) []; s.chanOf handle.toNat = some i ∧
    (s.chan i).codec.inputs.find? (fun q => !q.closed) = some p ∧ s.time < p.last + 1000 * max 1 (s.rf 0x30 Reg.SEQ_CTRL_LINE_TO)) ∧
    (let handle : Word := (handleOf 0 {} : Nat); let i : Nat := 0; let k : Nat := 1; let first : Nat := 1; let p : EncPic := pic0 [slc 1]; let inp : InPic := inp0;
    let pkg : Package := {}; let s : State := encState (encChan 2 32 { n := 1, pics := [pic0 [slc 1]] } [inp0]) []; s.chanOf handle.toNat = some i ∧ (s.chan i).ty = 0 ∧
    (s.chan i).admits = true ∧ (s.chan i).bind.isSome = true ∧ s.standby = false ∧ (s.chan i).pkg = some pkg ∧
    (s.chan i).codec.enc.pics.find? (fun q => decide (q.slices.length < enSlices (s.chan i).rec_ (s.chan i).seqHdr)) = some p ∧ s.encPic i p.n = some p ∧
    k = p.slices.length ∧ 0 < k ∧ first = k * enSliceRows (s.chan i).rec_ ∧ (s.chan i).codec.inputs.find? (fun q => q.num == p.input) = some inp ∧
    ((∀ l, l ∈ List.range (needEnd (s.chan i).seqHdr pkg first (min (enSliceRows (s.chan i).rec_) (seqBR (s.chan i).seqHdr - first))) → inp.has l = true))) ∧
    (let handle : Word := (handleOf 0 {} : Nat); let i : Nat := 0; let inp : InPic := inp0; let pkg : Package := {}; let e : Enc := {};
    let s : State := encState (encChan 2 32 {} [inp0]) []; s.chanOf handle.toNat = some i ∧ (s.chan i).ty = 0 ∧ (s.chan i).admits = true ∧ (s.chan i).bind.isSome = true ∧
    s.standby = false ∧ (s.chan i).pkg = some pkg ∧ e = (s.chan i).codec.enc ∧
    e.pics.find? (fun q => decide (q.slices.length < enSlices (s.chan i).rec_ (s.chan i).seqHdr)) = none ∧ s.encPic i e.n = none ∧
    (s.chan i).codec.inputs.find? (fun q => !q.taken) = some inp ∧ (s.chan i).codec.inputs.find? (fun q => q.num == inp.num) = some inp ∧
    ((∀ l, l ∈ List.range (needEnd (s.chan i).seqHdr pkg 0 (min (enSliceRows (s.chan i).rec_) (seqBR (s.chan i).seqHdr))) → inp.has l = true)) ∧
    ((e.need = true ∨ e.force = true ∨ e.owed = true ∨ e.prev = none ∨ (enPeriod (s.chan i).rec_ ≠ 0 ∧ enPeriod (s.chan i).rec_ ≤ e.since)))) ∧
    (let handle : Word := (handleOf 0 {} : Nat); let i : Nat := 0; let l : Nat := 0; let inp : InPic := { num := 0, pts := 0 }; let pkg : Package := {};
    let s : State := encState (encChan 2 32 {} [{ num := 0, pts := 0 }]) []; s.chanOf handle.toNat = some i ∧ (s.chan i).pkg = some pkg ∧
    (s.chan i).codec.enc.pics.find? (fun q => decide (q.slices.length < enSlices (s.chan i).rec_ (s.chan i).seqHdr)) = none ∧
    (s.chan i).codec.inputs.find? (fun q => !q.taken) = some inp ∧ (s.chan i).codec.inputs.find? (fun q => q.num == inp.num) = some inp ∧
    l < needEnd (s.chan i).seqHdr pkg 0 (min (enSliceRows (s.chan i).rec_) (seqBR (s.chan i).seqHdr)) ∧ inp.has l = false) :=
  ⟨by decide +kernel,
   by decide +kernel,
   by decide +kernel,
   by decide +kernel,
   by decide +kernel⟩

theorem test_RowsAreCommittedAndGathered_met :
    (let s : State := codeState 2 (slc 1); let id : Nat := 0; let lvl : Nat := 0; let est : Nat := estimate 14 []; let g : Coding := codingOf s; let k : Package := {};
    let ch : Chan := s.chan 0; let c : RowCtx := rowCtx {} (seqOf 32);
    let f : List (Fp × (Int × Cstat)) × CodedRow := (codingOf s).form (rowCtx {} (seqOf 32)) (seqOf 32) 0; let z : List Int := [];
    let x : Commit := commitRow (s.chan 0).rec_ (seqOf 32) 1 0 (estimate 14 []) (pic0 [slc 1]) (slc 1); s.coding id = some g ∧ g.job.pkg = some k ∧ g.job.st = .running ∧
    g.job.stop = none ∧ g.slice.st = 1 ∧ g.slice.done.length < g.slice.rows ∧ ch = s.chan g.job.chan ∧ c = rowCtx k ch.seqHdr ∧
    lvl = (if governed ch.rec_ then ch.codec.enc.ql else enQlInit ch.rec_) ∧ f = g.form c ch.seqHdr lvl ∧ z = f.1.map (fun y => y.2.1) ∧
    est = estimate (14 + 3 * bit (governed ch.rec_)) (f.2.pairs ++ hyperPairs c z) ∧ x = commitRow ch.rec_ ch.seqHdr ch.codec.enc.ql g.k est g.pic g.slice) ∧
    (let s : State := codeState 2 (slc 2); let id : Nat := 0; let row : Nat := 0; let g : Coding := codingOf s; s.coding id = some g ∧
    ((g.slice.st ≠ 1 ∨ g.slice.rows ≤ g.slice.done.length ∨ row ≠ g.slice.done.length))) ∧
    (let id : Nat := 0; let r : Nat := 0; let g : Coding := codingOf (codeState 2 (slc 1 { first := 0, rows := 1, seq := 1, done := [rowOf false] }));
    let k : Package := {}; let d : EncRow := rowOf false; let a : CodedSlice := {}; let b : CodedSlice := addRow (rowCtx {} (seqOf 32)) false 0 {} 0 ⟨false, 0, ⟨[], []⟩⟩;
    let c : RowCtx := rowCtx {} (seqOf 32);
    let s : State := banks (codeState 2 (slc 1 { first := 0, rows := 1, seq := 1, done := [rowOf false] })); s.coding id = some g ∧ g.job.pkg = some k ∧
    g.job.st = .running ∧ g.job.stop = none ∧ g.slice.st = 1 ∧ s.banked (modelId k) = true ∧ r = g.slice.done.findIdx (fun x => !x.gathered) ∧ g.slice.done[r]? = some d ∧
    c = rowCtx k (s.chan g.job.chan).seqHdr ∧
    a = { yhat := (g.slice.done.take r).map EncRow.yhat, zs := hyperRows (g.slice.done.take r), side := g.slice.side, main := g.slice.main } ∧
    b = addRow c (governed (s.chan g.job.chan).rec_) g.slice.first a r ⟨d.curtain, d.ql, d.syms⟩) ∧
    (let s : State := codeState 2 (slc 1); let id : Nat := 0; let row : Nat := 0; let g : Coding := codingOf s; let k : Package := {}; s.coding id = some g ∧ g.job.pkg = some k ∧
    (s.banked (modelId k) = false ∨ row ≠ g.slice.done.findIdx (fun x => !x.gathered))) ∧
    (let id : Nat := 0; let n : Nat := 0; let m : Nat := 0; let j : Job := encJob (.slice 0 0); let k : Package := {};
    let s : State := codeState 2 (slc 1); tget? s.jobs id = some j ∧ j.pkg = some k ∧ j.work = .slice n m ∧ j.st = .running ∧ j.stop = none ∧ s.tableBanks = [none, none]) ∧
    (let id : Nat := 0; let j : Job := encJob (.slice 0 0); let k : Package := {}; let s : State := banks (codeState 2 (slc 1)); tget? s.jobs id = some j ∧
    j.pkg = some k ∧ s.banked (modelId k) = true) ∧
    (let at_ : Nat := 1; let id : Nat := 0; let ph : Nat := 1; let j : Job := encJob (.slice 0 0);
    let s : State := { codeState 2 (slc 3) with slice := some (0, 1) }; at_ < 2 ∧ s.slice = some (id, ph) ∧ tget? s.jobs id = some j ∧ j.stop = none) ∧
    (let at_ : Nat := 3; let id : Nat := 0; let j : Job := { encJob (.slice 0 0) with coder := some 3 };
    let s : State := { codeState 2 (slc 3) with jobs := [(0, { encJob (.slice 0 0) with coder := some 3 })] }; 2 ≤ at_ ∧ at_ < 8 ∧ tget? s.jobs id = some j ∧
    j.stop = none ∧ j.coder = some at_) ∧
    (let at_ : Nat := 8; let m : Nat := modelId {}; let s : State := banks State.reset; 8 ≤ at_ ∧ s.tableBanks.getD (at_ - 8) none = some m) ∧
    (let at_ : Nat := 9; let s : State := banks State.reset; ((at_ < 2 ∧ s.slice = none ∨ 8 ≤ at_ ∧ s.tableBanks.getD (at_ - 8) none = none))) :=
  ⟨⟨by decide +kernel, by decide +kernel, by decide +kernel, by decide +kernel, by decide +kernel, by decide +kernel, by decide +kernel, rfl, by decide +kernel,
   by decide +kernel, by decide +kernel, by decide +kernel, by decide +kernel⟩,
   by decide +kernel,
   ⟨by decide +kernel, by decide +kernel, by decide +kernel, by decide +kernel, by decide +kernel, List.contains_iff_mem.2 (.head _), by decide +kernel,
   by decide +kernel, rfl, by decide +kernel, by decide +kernel⟩,
   by decide +kernel,
   by decide +kernel,
   ⟨by decide +kernel, by decide +kernel, List.contains_iff_mem.2 (.head _)⟩,
   by decide +kernel,
   by decide +kernel,
   ⟨by decide +kernel, rfl⟩,
   by decide +kernel⟩

theorem test_CodingUnitsCloseAndLeave_met :
    (let id : Nat := 0; let at_ : Nat := 0; let i : Nat := 0;
    let s : State := encState (decChan { pic := some decPic0 }) [(0, { sliceJob0 .running with codeAt := some 0 })]; s.slice = none ∧
    firstReady s.readySlices = some ⟨id, at_, i, none⟩) ∧
    (let s : State := codeState 2 (slc 2); let id : Nat := 0; let at_ : Nat := 0; let i : Nat := 0; let g : Coding := codingOf s; s.slice = none ∧
    firstReady s.readySlices = some ⟨id, at_, i, some g⟩ ∧ s.encPic i g.n = some g.pic ∧ g.pic.slices[g.k]? = some g.slice ∧
    sliceSyms (s.chan i).rec_ (s.chan i).seqHdr ≤ s.rf 0x32 Reg.RCA_CTRL_GATHER * 16384) ∧
    (let id : Nat := 0; let at_ : Nat := 0; let i : Nat := 0; let g : Coding := codingOf (codeState 2 (slc 2)); let j : Job := encJob (.slice 0 0);
    let s : State := (codeState 2 (slc 2)).wf 0x32 Reg.RCA_CTRL_GATHER 0; s.slice = none ∧ firstReady s.readySlices = some ⟨id, at_, i, some g⟩ ∧
    tget? s.jobs id = some j ∧ j.stop = none ∧ s.rf 0x32 Reg.RCA_CTRL_GATHER * 16384 < sliceSyms (s.chan i).rec_ (s.chan i).seqHdr) ∧
    (let s : State := State.reset; ((s.slice.isSome = true ∨ s.readySlices.isEmpty = true))) ∧
    (let id : Nat := 0; let ph : Nat := 1; let index : Nat := 0; let first : Nat := 0; let rows : Nat := 1; let side : List Byte := []; let main : List Byte := [];
    let j : Job := { sliceJob0 .running with codeAt := some 0 }; let k : Package := {}; let p : DecPic := decPic0;
    let x : Decoded := decodeSlice (rowCtx {} (seqOf 32)) false 0 0 1 [] [];
    let s : State := { encState (decChan { seq := seqOf 32, pic := some decPic0 }) [(0, { sliceJob0 .running with codeAt := some 0 })] with slice := some (0, 1) }; s.slice = some (id, ph) ∧
    tget? s.jobs id = some j ∧ j.work = .decode index first rows side main ∧ j.pkg = some k ∧ j.stop = none ∧ (s.chan j.chan).codec.dec.pic = some p ∧
    x = decodeSlice (rowCtx k (s.chan j.chan).codec.dec.seq) p.qlRow p.ql first rows side main) ∧
    (let id : Nat := 0; let ph : Nat := 0; let g : Coding := codingOf (codeState 2 (slc 3)); let k : Package := {};
    let z : List Byte × CodedSlice × Nat := sliceSegment (codingOf (codeState 2 (slc 3))) {} (seqOf 32) false 0;
    let s : State := { codeState 2 (slc 3) with slice := some (0, 0) }; s.slice = some (id, ph) ∧ s.coding id = some g ∧ g.job.pkg = some k ∧ g.slice.st = 3 ∧
    g.job.stop = none ∧ g.slice.deadline = none ∧ governed (s.chan g.job.chan).rec_ = false ∧
    z = sliceSegment g k (s.chan g.job.chan).seqHdr false (g.slice.done.findIdx (fun y => y.curtain))) ∧
    (let id : Nat := 0; let ph : Nat := 0; let k0 : Nat := 0; let cut : Nat := 0; let g : Coding := codingOf (codeState 0 (slc 3)); let k : Package := {};
    let z : List Byte × CodedSlice × Nat := sliceSegment (codingOf (codeState 0 (slc 3))) {} (seqOf 32) true 0;
    let s : State := { codeState 0 (slc 3) with slice := some (0, 0) }; s.slice = some (id, ph) ∧ s.coding id = some g ∧ g.job.pkg = some k ∧ g.slice.st = 3 ∧
    g.job.stop = none ∧ g.slice.deadline = none ∧ governed (s.chan g.job.chan).rec_ = true ∧ k0 = g.slice.done.findIdx (fun y => y.curtain) ∧
    cut = fitRows (fun n => 8 * (sliceSegment g k (s.chan g.job.chan).seqHdr true n).1.length) g.slice.charged k0 ∧
    z = sliceSegment g k (s.chan g.job.chan).seqHdr true cut) ∧
    (let s : State := State.reset; s.slice = none) ∧
    (let handle : Word := (handleOf 0 {} : Nat); let i : Nat := 0; let k : Nat := 0; let id : Nat := 0; let n : Nat := 6;
    let p : EncPic := pic0 [slc 4 { first := 0, rows := 1, seq := 1, seg := [1, 2, 3] }]; let x : EncSlice := slc 4 { first := 0, rows := 1, seq := 1, seg := [1, 2, 3] };
    let j : Job := encJob (.slice 0 0) .offstage;
    let s : State := mapped (let s := codeState 2 (slc 4 { first := 0, rows := 1, seq := 1, seg := [1, 2, 3] }) .offstage; { s with chans := [(0, { s.chan 0 with io := some { outBytes := 65536 } })] }); s.chanOf handle.toNat = some i ∧
    (s.chan i).ty = 0 ∧ ((s.chan i).codec.enc.pics.find? (fun q => q.slices.any (fun y => decide (y.st < 5 ∨ y.st = 7))) = some p) ∧ s.encPic i p.n = some p ∧
    (k = p.slices.findIdx (fun y => decide (y.st < 5 ∨ y.st = 7))) ∧ p.slices[k]? = some x ∧ x.st = 4 ∧ s.sliceJob i p.n k = some (id, j) ∧ tget? s.jobs id = some j ∧
    j.st = .offstage ∧ j.stop = none ∧ s.mirrorGate i p.count = true ∧ s.standby = false ∧ (s.chan i).stopping = [] ∧ (s.chan i).dying = none ∧ p.pad = [] ∧
    (s.chan i).codec.enc.auds = [] ∧ n = (if p.headOut then 0 else (p.head.map List.length).foldl (· + ·) 0) + x.seg.length ∧ (s.chan i).room n = true ∧
    s.outBad i n = none ∧ (tget? s.rings (s.chan i).cq).isSome = true) ∧
    (let handle : Word := (handleOf 0 {} : Nat); let i : Nat := 0; let k : Nat := 0; let p : EncPic := pic0 [slc 3]; let x : EncSlice := slc 3;
    let s : State := codeState 2 (slc 3); s.chanOf handle.toNat = some i ∧
    ((s.chan i).codec.enc.pics.find? (fun q => q.slices.any (fun y => decide (y.st < 5 ∨ y.st = 7))) = some p) ∧
    (k = p.slices.findIdx (fun y => decide (y.st < 5 ∨ y.st = 7))) ∧ p.slices[k]? = some x ∧ x.st < 4) ∧
    (let handle : Word := (handleOf 0 chan0 : Nat); let seq : Word := 1; let id : Nat := 0; let f : Nat := 0; let n : Nat := 2; let nh : Nat := 0; let nl : Nat := 0; let pts : Nat := 0; let j : Job := encJob (.audEnc 0) .running audPkg;
    let k : Package := audPkg; let hyp : List (List Int) := []; let lat : List (List Int) := [];
    let s : State := audState { chan0 with ty := 2, bind := some [] } (encJob (.audEnc 0) .running audPkg); s.names j handle seq = true ∧ tget? s.jobs id = some j ∧ j.pkg = some k ∧
    j.work = .audEnc f ∧ j.st = .running ∧ j.stop = none ∧ j.coder = none ∧ s.banked (modelId k) = true ∧ s.freeCoder = some n ∧ k.audSyms = some (nh, nl) ∧
    hyp = (List.range (auNch (s.chan j.chan).rec_)).map (fun c => audHyp k (s.framePcm j.chan f) c nh) ∧
    lat = hyp.zipIdx.map (fun x => audLat k (s.framePcm j.chan f) x.2 nl x.1) ∧
    pts = (match (s.chan j.chan).codec.inputs.find? (fun p => p.num == f) with | some p => p.pts | none => 0)) ∧
    (let handle : Word := (handleOf 0 chan0 : Nat); let seq : Word := 1; let id : Nat := 0; let n : Nat := 2; let nh : Nat := 0; let nl : Nat := 0;
    let j : Job := encJob (.audDec ⟨0, some (audEncode audPkg 0 [] []), false⟩) .running audPkg; let k : Package := audPkg;
    let a : AudIn := ⟨0, some (audEncode audPkg 0 [] []), false⟩; let data : List Byte := audEncode audPkg 0 [] []; let y : List (List Int) := [];
    let s : State := audState { chan0 with ty := 4, bind := some [] } (encJob (.audDec ⟨0, some (audEncode audPkg 0 [] []), false⟩) .running audPkg); s.names j handle seq = true ∧ tget? s.jobs id = some j ∧
    j.pkg = some k ∧ j.work = .audDec a ∧ a.data = some data ∧ j.st = .running ∧ j.stop = none ∧ j.coder = none ∧ s.banked (modelId k) = true ∧ s.freeCoder = some n ∧
    k.audSyms = some (nh, nl) ∧ (audDecode k a.frame (auNch (s.chan j.chan).rec_) data).1 = some y ∧
    (audDecode k a.frame (auNch (s.chan j.chan).rec_) data).2.2.1 = false) ∧
    (let handle : Word := (handleOf 0 chan0 : Nat); let seq : Word := 1; let id : Nat := 0; let n : Nat := 0; let j : Job := tunJob false; let k : Package := {}; let t : Tuning := { rank := 1, lat := [] };
    let s : State := encState (encChan 2 32 {}) [(0, tunJob false)]; s.names j handle seq = true ∧ tget? s.jobs id = some j ∧ j.pkg = some k ∧ j.work = .tune n ∧ j.tuning = some t ∧ j.st = .offstage ∧
    j.stop = none ∧ j.updated = false ∧ (s.chan j.chan).dying = none ∧ (s.chan j.chan).stopping = []) ∧
    (let handle : Word := (handleOf 0 chan0 : Nat); let seq : Word := 1; let id : Nat := 0; let n : Nat := 0; let j : Job := tunJob true; let k : Package := {}; let t : Tuning := { rank := 1, lat := [] };
    let s : State := encState (encChan 2 32 {}) [(0, tunJob true)]; s.names j handle seq = true ∧ tget? s.jobs id = some j ∧ j.pkg = some k ∧ j.work = .tune n ∧ j.tuning = some t ∧ j.st = .offstage ∧
    j.stop = none ∧ j.updated = true ∧ (s.chan j.chan).dying = none ∧ (s.chan j.chan).stopping = []) ∧
    (let id : Nat := 0; let handle : Word := (handleOf 0 chan0 : Nat); let seq : Word := 1; let j : Job := encJob (.tune 0); let s : State := encState (encChan 2 32 {}) [(0, encJob (.tune 0))]; tget? s.jobs id = some j ∧
    (j.st ≠ .offstage ∨ s.names j handle seq = false)) :=
  ⟨⟨by decide +kernel, rfl⟩,
   ⟨by decide +kernel, rfl, by decide +kernel, by decide +kernel, by decide +kernel⟩,
   ⟨by decide +kernel, rfl, by decide +kernel, by decide +kernel, by decide +kernel⟩,
   by decide +kernel,
   by decide +kernel,
   by decide +kernel,
   by decide +kernel,
   by decide +kernel,
   by decide +kernel,
   by decide +kernel,
   ⟨by decide +kernel, by decide +kernel, by decide +kernel, by decide +kernel, by decide +kernel, by decide +kernel, by decide +kernel, List.contains_iff_mem.2 (.head _),
   by decide +kernel, by decide +kernel, by decide +kernel, by decide +kernel, by decide +kernel⟩,
   ⟨by decide +kernel, by decide +kernel, by decide +kernel, by decide +kernel, by decide +kernel, by decide +kernel, by decide +kernel,
   by decide +kernel, List.contains_iff_mem.2 (.head _), by decide +kernel, by decide +kernel, by decide +kernel, by decide +kernel⟩,
   by decide +kernel,
   by decide +kernel,
   by decide +kernel⟩

theorem test_SegmentsAreTaken_met_verified (hk : ∀ b n, Config.shake256 b n = List.replicate n 0) :
    (let s : State := segState (segment 0xA1 (seq64 0 0)) ({}) 1 ({}); let u : State := stood s; let handle : Word := (handleOf 0 {} : Nat); let i : Nat := 0;
    let far : List Byte := []; let l : List Byte := behind s; let x : Content := content 36 (fun _ => some 0) (behind s);
    let d : Dec := (u.chan 0).codec.dec; AtSegment s handle i 0xA1 far l u ∧ x = content 36 (fun _ => some 0) l ∧ d = (u.chan i).codec.dec ∧ x.took = .all ∧
    x.bad = false ∧ seqRanges x.head = true ∧ seqModel x.head = modelId ((u.chan i).pkg.getD {}) ∧ decRingOk (u.chan i) x.head = true ∧ x.head ≠ d.seq ∧
    ((∀ p, d.pic = some p → p.ended = true ∧ p.gone = true)) ∧ u.stores.any (fun y => y.chan == i) = false) ∧
    (let s : State := segState (segment 0xA1 (seq64 0 0)) ({ seq := seq64 0 0 }) 1 ({}); let u : State := stood s; let handle : Word := (handleOf 0 {} : Nat);
    let i : Nat := 0; let far : List Byte := []; let l : List Byte := behind s; let x : Content := content 36 (fun _ => some 0) (behind s);
    let d : Dec := (u.chan 0).codec.dec; AtSegment s handle i 0xA1 far l u ∧ x = content 36 (fun _ => some 0) l ∧ d = (u.chan i).codec.dec ∧ x.took = .all ∧
    x.bad = false ∧ x.head = d.seq ∧ seqModel x.head = modelId ((u.chan i).pkg.getD {})) ∧
    (let s : State := segState (segment 0xA5 (adpHdr 1)) ({ seq := seq64 0 1 }) 1 ({}); let u : State := stood s; let handle : Word := (handleOf 0 {} : Nat);
    let i : Nat := 0; let far : List Byte := []; let l : List Byte := behind s; let x : Content := content 26 adpLen (behind s);
    let d : Dec := (u.chan 0).codec.dec; AtSegment s handle i 0xA5 far l u ∧ x = content 26 adpLen l ∧ d = (u.chan i).codec.dec ∧ d.seq ≠ [] ∧ x.took = .all ∧
    x.bad = false ∧ hBits x.head 16 16 ≠ 0 ∧ beNat (Config.shake256 x.pay 16) = hBits x.head 80 128 ∧
    adpRecsOk ((u.chan i).pkg.getD {}) (hBits x.head 32 8) none x.pay = true) :=
  ⟨⟨⟨by decide +kernel, by decide +kernel, by decide +kernel, by decide +kernel, by decide +kernel, by decide +kernel,
   by decide +kernel, Prod.ext (by decide +kernel) rfl⟩, by decide +kernel, by decide +kernel, by decide +kernel, by decide +kernel, by decide +kernel,
   by rw [modelId, hk]; decide +kernel, by decide +kernel, by decide +kernel, by decide +kernel, by decide +kernel⟩,
   ⟨⟨by decide +kernel, by decide +kernel, by decide +kernel, by decide +kernel, by decide +kernel, by decide +kernel,
   by decide +kernel, Prod.ext (by decide +kernel) rfl⟩, by decide +kernel, by decide +kernel, by decide +kernel, by decide +kernel, by decide +kernel,
   by rw [modelId, hk]; decide +kernel⟩,
   ⟨⟨by decide +kernel, by decide +kernel, by decide +kernel, by decide +kernel, by decide +kernel, by decide +kernel,
   by decide +kernel, Prod.ext (by decide +kernel) rfl⟩, by decide +kernel, by decide +kernel, by decide +kernel, by decide +kernel, by decide +kernel, by decide +kernel,
   by rw [hk]; decide +kernel, by decide +kernel⟩⟩

theorem test_SegmentsAreTaken_met :
    (let s : State := segState (segment 0xA1 (seqOf 32)) ({}) 1 ({}); let u : State := stood s; let handle : Word := (handleOf 0 {} : Nat); let i : Nat := 0;
    let code : Nat := Code.E_STREAM_SYNTAX; let far : List Byte := []; let l : List Byte := behind s; let x : Content := content 36 (fun _ => some 0) (behind s);
    let d : Dec := (u.chan 0).codec.dec; AtSegment s handle i 0xA1 far l u ∧ x = content 36 (fun _ => some 0) l ∧ d = (u.chan i).codec.dec ∧ x.took = .all ∧
    ((x.bad = true ∧ code = Code.E_STREAM_SYNTAX ∨ x.bad = false ∧ seqRanges x.head = false ∧ x.head ≠ d.seq ∧ code = Code.E_STREAM_SYNTAX ∨ x.bad = false ∧
    seqRanges x.head = true ∧ seqModel x.head ≠ modelId ((u.chan i).pkg.getD {}) ∧ code = Code.E_MODEL_MISMATCH)) ∧ ((∀ p, d.pic = some p → p.ended = true ∧
    p.gone = true)) ∧ u.stores.any (fun y => y.chan == i) = false ∧ (tget? u.rings (u.chan i).cq).isSome = true) ∧
    (let s : State := segState (segment 0xA2 (picHdr)) ({ seq := seq64 0 0 }) 1 ({}); let u : State := stood s; let handle : Word := (handleOf 0 {} : Nat);
    let i : Nat := 0; let far : List Byte := []; let l : List Byte := behind s; let x : Content := content 20 (fun _ => some 0) (behind s);
    let d : Dec := (u.chan 0).codec.dec; AtSegment s handle i 0xA2 far l u ∧ (u.chan i).ty = 1 ∧ x = content 20 (fun _ => some 0) l ∧ d = (u.chan i).codec.dec ∧
    d.seq ≠ [] ∧ x.took = .all ∧ x.bad = false ∧ picOk d.seq x.head = true ∧ ((∀ p, d.pic = some p → p.ended = true ∧ p.gone = true)) ∧
    u.stores.any (fun y => y.chan == i) = false) ∧
    (let s : State := segState (segment 0xA3 (slcBody [1])) ({ seq := seq64 0 0, pic := some picNow }) 1 ({}); let u : State := stood s;
    let handle : Word := (handleOf 0 {} : Nat); let i : Nat := 0; let n : Nat := 0; let k : Nat := 1; let far : List Byte := []; let l : List Byte := behind s;
    let x : Content := content 22 slcLen (behind s); let d : Dec := (u.chan 0).codec.dec; let p : DecPic := picNow; AtSegment s handle i 0xA3 far l u ∧
    (u.chan i).ty = 1 ∧ x = content 22 slcLen l ∧ d = (u.chan i).codec.dec ∧ d.seq ≠ [] ∧ d.pic = some p ∧ p.whole = false ∧ x.took = .all ∧ x.bad = false ∧
    x.headOk = true ∧ n = hBits x.head 32 16 ∧ k = hBits x.head 80 32 ∧ hBits x.head 16 16 = p.count % 65536 ∧ p.next ≤ n ∧ n < p.nslices ∧
    hBits x.head 48 16 = n * p.sliceRows ∧ hBits x.head 64 8 = (p.rows d.seq n).length ∧ crc32c x.pay = hBits x.head 144 32) ∧
    (let s : State := segState (segment 0xA3 ((slcBody [1]).dropLast ++ [9])) ({ seq := seq64 0 0, pic := some picNow }) 1 ({}); let u : State := stood s;
    let handle : Word := (handleOf 0 {} : Nat); let i : Nat := 0; let n : Nat := 0; let far : List Byte := []; let l : List Byte := behind s;
    let x : Content := content 22 slcLen (behind s); let d : Dec := (u.chan 0).codec.dec; let p : DecPic := picNow; AtSegment s handle i 0xA3 far l u ∧
    (u.chan i).ty = 1 ∧ x = content 22 slcLen l ∧ d = (u.chan i).codec.dec ∧ d.seq ≠ [] ∧ d.pic = some p ∧ p.whole = false ∧ x.took = .all ∧ x.bad = false ∧
    x.headOk = true ∧ n = hBits x.head 32 16 ∧ hBits x.head 16 16 = p.count % 65536 ∧ p.next ≤ n ∧ n < p.nslices ∧ crc32c x.pay ≠ hBits x.head 144 32) ∧
    (let s : State := segState (segment 0xA4 (mkAud 8 5 1 [1, 2])) ({ seq := seq64 0 1 }) 4 ({ last := some 7 }); let u : State := stood s;
    let handle : Word := (handleOf 0 {} : Nat); let i : Nat := 0; let n : Nat := 0; let f : Nat := 8; let far : List Byte := []; let l : List Byte := behind s;
    let x : Content := content 22 audLen (behind s); let d : Dec := (u.chan 0).codec.dec; AtSegment s handle i 0xA4 far l u ∧ x = content 22 audLen l ∧
    d = (u.chan i).codec.dec ∧ d.seq ≠ [] ∧ x.took = .all ∧ x.bad = false ∧ u.audOf i = some n ∧ seqAud d.seq ≠ 0 ∧ hBits x.head 96 5 = seqAud d.seq ∧
    hBits x.head 96 5 = auNch (u.chan n).rec_ ∧ crc32c x.pay = hBits x.head 144 32 ∧ f = hBits x.head 16 32 ∧
    (((u.chan n).codec.aud.last = none ∨ ∃ p, (u.chan n).codec.aud.last = some p ∧ ahead 32 f p = 1))) ∧
    (let s : State := segState (segment 0xA4 (mkAud 8 5 1 [1, 2])) ({ seq := seq64 0 1 }) 1 ({}); let u : State := stood s; let handle : Word := (handleOf 0 {} : Nat);
    let i : Nat := 0; let far : List Byte := []; let l : List Byte := behind s; let x : Content := content 22 audLen (behind s);
    let d : Dec := (u.chan 0).codec.dec; AtSegment s handle i 0xA4 far l u ∧ x = content 22 audLen l ∧ d = (u.chan i).codec.dec ∧ d.seq ≠ [] ∧ x.took = .all ∧
    x.bad = false ∧ u.audOf i = none) ∧
    (let s : State := segState (segment 0xA5 (adpHdr 0)) ({ seq := seq64 0 1 }) 1 ({}); let u : State := stood s; let handle : Word := (handleOf 0 {} : Nat);
    let i : Nat := 0; let far : List Byte := []; let l : List Byte := behind s; let x : Content := content 26 adpLen (behind s);
    let d : Dec := (u.chan 0).codec.dec; AtSegment s handle i 0xA5 far l u ∧ x = content 26 adpLen l ∧ d = (u.chan i).codec.dec ∧ d.seq ≠ [] ∧ x.took = .all ∧
    x.bad = false ∧
    ((hBits x.head 16 16 = 0 ∨ beNat (Config.shake256 x.pay 16) ≠ hBits x.head 80 128 ∨ adpRecsOk ((u.chan i).pkg.getD {}) (hBits x.head 32 8) none x.pay = false)) ∧
    (tget? u.rings (u.chan i).cq).isSome = true) ∧
    (let s : State := segState (segment 0xA6 ([])) ({ seq := seq64 0 1 }) 1 ({}); let u : State := stood s; let handle : Word := (handleOf 0 {} : Nat); let i : Nat := 0;
    let far : List Byte := []; let l : List Byte := behind s; let d : Dec := (u.chan 0).codec.dec; AtSegment s handle i 0xA6 far l u ∧ d = (u.chan i).codec.dec ∧
    d.seq ≠ [] ∧ ((∀ p, d.pic = some p → p.ended = true ∧ p.gone = true)) ∧ u.stores.any (fun y => y.chan == i) = false) ∧
    (let s : State := segState (segment 0xAF ([])) ({ seq := seq64 0 1 }) 1 ({}); let u : State := stood s; let handle : Word := (handleOf 0 {} : Nat); let i : Nat := 0;
    let far : List Byte := []; let l : List Byte := behind s; let d : Dec := (u.chan 0).codec.dec; AtSegment s handle i 0xAF far l u ∧ d = (u.chan i).codec.dec) ∧
    (let s : State := segState (segment 0xA7 ([])) ({ seq := seq64 0 1 }) 1 ({}); let u : State := stood s; let handle : Word := (handleOf 0 {} : Nat); let i : Nat := 0;
    let code : Nat := 0xA7; let far : List Byte := []; let l : List Byte := behind s; let d : Dec := (u.chan 0).codec.dec; AtSegment s handle i code far l u ∧
    ((code = 0xA0 ∨ 0xA7 ≤ code ∧ code ≠ 0xAF)) ∧ d = (u.chan i).codec.dec) ∧
    (let s : State := segState (segment 0xA7 ([])) ({ seq := seq64 0 1 }) 1 ({}); let handle : Word := (handleOf 0 {} : Nat); let i : Nat := 0; let code : Nat := 0xA7;
    let far : List Byte := []; let l : List Byte := behind s; let u : State := stood s; AtSegment s handle i code far l u ∧ code ≠ 0xA1) :=
  ⟨⟨⟨by decide +kernel, by decide +kernel, by decide +kernel, by decide +kernel, by decide +kernel, by decide +kernel,
   by decide +kernel, Prod.ext (by decide +kernel) rfl⟩, by decide +kernel, by decide +kernel, by decide +kernel, by decide +kernel, by decide +kernel, by decide +kernel,
   by decide +kernel⟩,
   ⟨⟨by decide +kernel, by decide +kernel, by decide +kernel, by decide +kernel, by decide +kernel, by decide +kernel,
   by decide +kernel, Prod.ext (by decide +kernel) rfl⟩, by decide +kernel, by decide +kernel, by decide +kernel, by decide +kernel, by decide +kernel, by decide +kernel,
   by decide +kernel, by decide +kernel, by decide +kernel⟩,
   ⟨⟨by decide +kernel, by decide +kernel, by decide +kernel, by decide +kernel, by decide +kernel, by decide +kernel,
   by decide +kernel, Prod.ext (by decide +kernel) rfl⟩, by decide +kernel, by decide +kernel, by decide +kernel, by decide +kernel, by decide +kernel, by decide +kernel,
   by decide +kernel, by decide +kernel, by decide +kernel, by decide +kernel, by decide +kernel, by decide +kernel, by decide +kernel, by decide +kernel,
   by decide +kernel, by decide +kernel, by decide +kernel⟩,
   ⟨⟨by decide +kernel, by decide +kernel, by decide +kernel, by decide +kernel, by decide +kernel, by decide +kernel,
   by decide +kernel, Prod.ext (by decide +kernel) rfl⟩, by decide +kernel, by decide +kernel, by decide +kernel, by decide +kernel, by decide +kernel, by decide +kernel,
   by decide +kernel, by decide +kernel, by decide +kernel, by decide +kernel, by decide +kernel, by decide +kernel, by decide +kernel, by decide +kernel⟩,
   ⟨⟨by decide +kernel, by decide +kernel, by decide +kernel, by decide +kernel, by decide +kernel, by decide +kernel,
   by decide +kernel, Prod.ext (by decide +kernel) rfl⟩, by decide +kernel, by decide +kernel, by decide +kernel, by decide +kernel, by decide +kernel, by decide +kernel,
   by decide +kernel, by decide +kernel, by decide +kernel, by decide +kernel, by decide +kernel, by decide +kernel⟩,
   ⟨⟨by decide +kernel, by decide +kernel, by decide +kernel, by decide +kernel, by decide +kernel, by decide +kernel,
   by decide +kernel, Prod.ext (by decide +kernel) rfl⟩, by decide +kernel, by decide +kernel, by decide +kernel, by decide +kernel, by decide +kernel, by decide +kernel⟩,
   ⟨⟨by decide +kernel, by decide +kernel, by decide +kernel, by decide +kernel, by decide +kernel, by decide +kernel,
   by decide +kernel, Prod.ext (by decide +kernel) rfl⟩, by decide +kernel, by decide +kernel, by decide +kernel, by decide +kernel, by decide +kernel, by decide +kernel,
   by decide +kernel⟩,
   ⟨⟨by decide +kernel, by decide +kernel, by decide +kernel, by decide +kernel, by decide +kernel, by decide +kernel,
   by decide +kernel, Prod.ext (by decide +kernel) rfl⟩, by decide +kernel, by decide +kernel, by decide +kernel, by decide +kernel⟩,
   ⟨⟨by decide +kernel, by decide +kernel, by decide +kernel, by decide +kernel, by decide +kernel, by decide +kernel,
   by decide +kernel, Prod.ext (by decide +kernel) rfl⟩, by decide +kernel⟩,
   ⟨⟨by decide +kernel, by decide +kernel, by decide +kernel, by decide +kernel, by decide +kernel, by decide +kernel,
   by decide +kernel, Prod.ext (by decide +kernel) rfl⟩, by decide +kernel, by decide +kernel⟩,
   ⟨⟨by decide +kernel, by decide +kernel, by decide +kernel, by decide +kernel, by decide +kernel, by decide +kernel,
   by decide +kernel, Prod.ext (by decide +kernel) rfl⟩, by decide +kernel⟩⟩

theorem test_UnitsAreDelivered_met :
    (let s : State := unitState 1 [0, 1] (.decode 3 0 1 [] []) {} ({ seq := seqOf 32, pic := some picNow }); let id : Nat := 0; let n : Nat := 3; let first : Nat := 0;
    let rows : Nat := 1; let upto : Nat := 2; let buf : Nat := 0; let base : Nat := 0; let side : List Byte := []; let main : List Byte := []; let fin : Bool := true;
    let j : Job := jobOf s; let c : Chan := s.chan 0; let h : List Byte := seqOf 32; let p : DecPic := picNow; let q : DecPic := { picNow with wrote := 2 };
    let l : List (Nat × List Byte) := ((List.range 2).map (· + 0)).flatMap (rowWrites (seqOf 32) 0 0 []); Delivers s id j ∧ j.work = .decode n first rows side main ∧
    c = s.chan j.chan ∧ h = c.codec.dec.seq ∧ c.codec.dec.pic = some p ∧ deMode c.rec_ = 0 ∧ upto = j.upto h (j.pkg.getD {}) p ∧ fin = decide (n + 1 = p.nslices) ∧
    q = { p with wrote := max p.wrote upto, dropped := p.dropped || j.late } ∧ buf = c.codec.made % max 1 (deSlots c.rec_) ∧
    base = deBase c.rec_ + buf * picBytes h (dePitch c.rec_) ∧
    l = (if j.withheld c.rec_ p then [] else ((List.range (upto - p.wrote)).map (· + p.wrote)).flatMap (rowWrites h base (dePitch c.rec_) p.lines)) ++ (if fin then recordWrites (deInfo c.rec_) q buf s.time else []) ∧
    c.codec.made - c.codec.head < deSlots c.rec_ ∧ s.writesBad j.chan l = none) ∧
    (let s : State := unitState 1 [0, 0] (.decode 3 0 1 [] []) {} ({ seq := seqOf 32, pic := some picNow }); let id : Nat := 0; let n : Nat := 3; let first : Nat := 0;
    let rows : Nat := 1; let side : List Byte := []; let main : List Byte := []; let j : Job := jobOf s; let c : Chan := s.chan 0;
    let p : DecPic := picNow; Delivers s id j ∧ j.work = .decode n first rows side main ∧ c = s.chan j.chan ∧ c.codec.dec.pic = some p ∧ deMode c.rec_ = 0 ∧
    deSlots c.rec_ ≤ c.codec.made - c.codec.head) ∧
    (let s : State := unitState 3 [] (.enhance 0 0 9) { inSlots := 1, outBytes := 65536 }; let id : Nat := 0; let slots : Nat := 1; let buf : Nat := 0;
    let pts : Nat := 9; let a : Nat := 0; let b : Nat := 0; let j : Job := jobOf s; let c : Chan := s.chan 0; let h : List Byte := enhGeom s 0 0 0;
    let x : Io := { inSlots := 1, outBytes := 65536 }; let l : List (Nat × List Byte) := sampleWrites (enhGeom s 0 0 0) 0 0 [1, 2, 3]; Delivers s id j ∧
    j.work = .enhance a b pts ∧ c = s.chan j.chan ∧ c.io = some x ∧ nhMode c.rec_ = 0 ∧ j.late = false ∧
    h = enhGeom s j.chan (nhW c.rec_ * nhSr c.rec_) (nhH c.rec_ * nhSr c.rec_) ∧ slots = max 1 x.inSlots ∧ buf = c.codec.made % slots ∧
    l = (sampleWrites h (x.outBase + buf * picBytes h x.outPitch) x.outPitch j.seg).filter (fun y => decide (y.1 + y.2.length ≤ x.outBase + x.outBytes)) ∧
    c.codec.made - c.codec.head < slots ∧ s.writesBad j.chan l = none ∧ (tget? s.rings c.cq).isSome = true) ∧
    (let s : State := unitState 4 [0] (.audDec ⟨6, none, false⟩) {}; let id : Nat := 0; let n : Nat := 1; let slot : Nat := 0; let va : Nat := 0;
    let bytes : List Byte := [1, 2, 3]; let a : AudIn := ⟨6, none, false⟩; let j : Job := jobOf s; let c : Chan := s.chan 0; Delivers s id j ∧ j.work = .audDec a ∧
    c = s.chan j.chan ∧ auIo c.rec_ ≠ 1 ∧ n = max 1 (auFrames c.rec_) ∧ slot = c.codec.made % n ∧ va = auBase c.rec_ + slot * 1920 * auNch c.rec_ ∧
    bytes = (if j.late then List.replicate (1920 * auNch c.rec_) 0 else j.seg) ∧ c.codec.made - c.codec.head < n ∧ s.firstMiss j.chan va bytes.length true = none ∧
    (tget? s.rings c.cq).isSome = true) ∧
    (let id : Nat := 0; let n : Nat := 3; let f : Nat := 6; let head : List Byte := []; let j : Job := jobOf audDone; let c : Chan := audDone.chan 0;
    let s : State := audDone; Delivers s id j ∧ j.work = .audEnc f ∧ c = s.chan j.chan ∧ j.late = false ∧ auMux c.rec_ = 0 ∧
    head = (if c.codec.enc.seqOut then [] else audSeq c (j.pkg.getD {})) ∧ n = head.length + j.seg.length ∧ c.room n = true ∧ s.outBad j.chan n = none ∧
    (tget? s.rings c.cq).isSome = true) ∧
    (let s : State := unitState 2 [0] (.audEnc 6) {} {} .running; let id : Nat := 0; let j : Job := jobOf s; tget? s.jobs id = some j ∧
    ((j.st ≠ .offstage ∨ (s.chanJobs j.chan).any (fun (x : Nat × Job) => decide (x.1 < id)) = true))) :=
  ⟨⟨by constructor <;> decide +kernel, by decide +kernel, by decide +kernel, by decide +kernel, by decide +kernel, by decide +kernel, by decide +kernel,
   by decide +kernel, by decide +kernel, by decide +kernel, by decide +kernel, by decide +kernel, by decide +kernel, by decide +kernel⟩,
   ⟨by constructor <;> decide +kernel, by decide +kernel, by decide +kernel, by decide +kernel, by decide +kernel, by decide +kernel⟩,
   ⟨by constructor <;> decide +kernel, by decide +kernel, by decide +kernel, by decide +kernel, by decide +kernel, by decide +kernel, by decide +kernel,
   by decide +kernel, by decide +kernel, by decide +kernel, by decide +kernel, by decide +kernel, by decide +kernel⟩,
   ⟨by constructor <;> decide +kernel, by decide +kernel, by decide +kernel, by decide +kernel, by decide +kernel, by decide +kernel, by decide +kernel,
   by decide +kernel, by decide +kernel, by decide +kernel, by decide +kernel⟩,
   ⟨by constructor <;> decide +kernel, by decide +kernel, by decide +kernel, by decide +kernel, by decide +kernel, by decide +kernel, by decide +kernel,
   by decide +kernel, by decide +kernel, by decide +kernel⟩,
   by decide +kernel⟩

theorem test_FrameStoreWorks_met :
    (let n : Nat := 0; let mismatch : Bool := true; let orig : List Byte := [1, 1, 1, 1]; let p : PicStore := store0 2;
    let s : State := storeState (store0 2) 0; s.stores[n]? = some p ∧ p.rows[p.objs.length]? = some orig ∧ ((mismatch = false ∨ s.rf 0x34 Reg.FSC_CTRL_SELFCHECK = 0)) ∧
    p.objs.length + 1 < p.rows.length) ∧
    (let n : Nat := 0; let mismatch : Bool := false; let orig : List Byte := [1, 1, 1, 1]; let p : PicStore := store0 1;
    let s : State := storeState (store0 1) 1; s.stores[n]? = some p ∧ p.rows[p.objs.length]? = some orig ∧ ((mismatch = false ∨ s.rf 0x34 Reg.FSC_CTRL_SELFCHECK = 0)) ∧
    p.objs.length + 1 = p.rows.length ∧ p.pic = none ∧ (s.chan p.chan).stopping = []) ∧
    (let n : Nat := 0; let orig : List Byte := [1, 1, 1, 1]; let p : PicStore := store0 2;
    let s : State := let s := storeState (store0 2) 1; { s with chans := [(0, { chan0 with settings := 0xFFFF })] }; s.stores[n]? = some p ∧
    p.rows[p.objs.length]? = some orig ∧ s.rf 0x34 Reg.FSC_CTRL_SELFCHECK = 1 ∧ p.tries < setRetries (s.chan p.chan).settings) ∧
    (let s : State := compState 0 32 [7, 7, 7]; let id : Nat := 0; let k : Nat := 32; let i : Nat := 0; let mismatch : Bool := false; let far : List Byte := [];
    let orig : List Byte := readVa s 0 0 32 []; let obj : List Byte := fixObject 2 1 4 (readVa s 0 0 32 []); let j : Job := jobOf s; let a : CompArgs := compArgs 0 32;
    let x : CompSt := {}; s.compJob id 0 = some (j, a) ∧ i = j.chan ∧ x = j.comp ∧ k = min a.count (a.srcLen - x.src) ∧ s.firstMiss i (a.src + x.src) k false = none ∧
    orig = readVa s i (a.src + x.src) k far ∧ obj = (if a.mode = 1 then fscObject orig else fixObject a.mode a.elem a.width orig) ∧ x.dst + obj.length ≤ a.dstLen ∧
    s.firstMiss i (a.dst + x.dst) obj.length true = none ∧ ((mismatch = false ∨ s.rf 0x34 Reg.FSC_CTRL_SELFCHECK = 0)) ∧ x.src + k < a.srcLen) ∧
    (let s : State := compState 0 64 [7, 7, 7]; let id : Nat := 0; let k : Nat := 64; let i : Nat := 0; let mismatch : Bool := false; let far : List Byte := [];
    let orig : List Byte := readVa s 0 0 64 []; let obj : List Byte := fixObject 2 1 4 (readVa s 0 0 64 []); let j : Job := jobOf s; let a : CompArgs := compArgs 0 64;
    let x : CompSt := {}; s.compJob id 0 = some (j, a) ∧ i = j.chan ∧ x = j.comp ∧ k = min a.count (a.srcLen - x.src) ∧ s.firstMiss i (a.src + x.src) k false = none ∧
    orig = readVa s i (a.src + x.src) k far ∧ obj = (if a.mode = 1 then fscObject orig else fixObject a.mode a.elem a.width orig) ∧ x.dst + obj.length ≤ a.dstLen ∧
    s.firstMiss i (a.dst + x.dst) obj.length true = none ∧ ((mismatch = false ∨ s.rf 0x34 Reg.FSC_CTRL_SELFCHECK = 0)) ∧ a.srcLen ≤ x.src + k ∧ (s.chan i).stopping = [] ∧
    (s.chan i).dying = none ∧ (tget? s.rings (s.chan i).cq).isSome = true) ∧
    (let s : State := compState 1 2 fives; let id : Nat := 0; let i : Nat := 0; let far : List Byte := []; let hd : List Byte := readVa s 0 0 16 [];
    let l : List Byte := [5, 5, 5, 5]; let j : Job := jobOf s; let a : CompArgs := compArgs 1 2; let x : CompSt := {}; s.compJob id 1 = some (j, a) ∧ i = j.chan ∧
    x = j.comp ∧ x.src + 16 ≤ a.srcLen ∧ s.firstMiss i (a.src + x.src) 16 false = none ∧ hd = readVa s i (a.src + x.src) 16 far ∧ fscHeadFail hd = none ∧
    x.src + 16 + leAt hd 8 4 ≤ a.srcLen ∧ x.dst + leAt hd 4 4 ≤ a.dstLen ∧ s.firstMiss i (a.src + x.src + 16) (leAt hd 8 4) false = none ∧
    s.firstMiss i (a.dst + x.dst) (leAt hd 4 4) true = none ∧
    (fscOpen hd (readVa s i (a.src + x.src + 16) (leAt hd 8 4) (pastHead s i (a.src + x.src) far))).toOption = some l ∧ x.objs + 1 < a.count) ∧
    (let s : State := compState 1 2 []; let id : Nat := 0; let i : Nat := 0; let code : Nat := (fscHeadFail (List.replicate 16 0)).getD 0; let far : List Byte := [];
    let hd : List Byte := readVa s 0 0 16 []; let j : Job := jobOf s; let a : CompArgs := compArgs 1 2; let x : CompSt := {}; s.compJob id 1 = some (j, a) ∧ i = j.chan ∧
    x = j.comp ∧ x.src + 16 ≤ a.srcLen ∧ s.firstMiss i (a.src + x.src) 16 false = none ∧ hd = readVa s i (a.src + x.src) 16 far ∧ fscHeadFail hd = some code) ∧
    (let id : Nat := 0; let s : State := State.reset; s.compJob id 1 = none) :=
  ⟨by decide +kernel,
   by decide +kernel,
   by decide +kernel,
   by decide +kernel,
   by decide +kernel,
   by decide +kernel,
   by decide +kernel,
   by decide +kernel⟩

theorem test_EntriesAreFetched_met :
    (let s : State := fenced 2 false; let q : Nat := 3; let k : Queue := queue0 2; let e : Entry := BitVec.ofNat 1024 (s.load 0x4000 128); s.queues = [(q, k)] ∧
    k.weight = 1 ∧ k.stopped = false ∧ k.waiting = [] ∧ k.covered ≠ 0 ∧ e = BitVec.ofNat 1024 (s.load (k.base + 128 * (k.h % 2 ^ k.log2n)) 128) ∧
    ((eFence e = false ∨ k.openRecs = 0))) ∧
    (let s : State := fenced 2 true; let q : Nat := 3; let k : Queue := queue0 2; let e : Entry := BitVec.ofNat 1024 (s.load 0x4000 128); s.queues = [(q, k)] ∧
    0 < k.weight ∧ k.stopped = false ∧ k.waiting = [] ∧ k.covered ≠ 0 ∧ e = BitVec.ofNat 1024 (s.load (k.base + 128 * (k.h % 2 ^ k.log2n)) 128) ∧ eFence e = true ∧
    0 < k.openRecs) ∧
    (let s : State := State.reset; ((∀ q k, tget? s.queues q = some k → k.stopped = true ∨ k.waiting.isEmpty = false ∨ k.covered = 0))) ∧
    (let q : Fin 256 := 3; let k : Queue := { queue0 0 with waiting := [1] }; let e : Entry := 1; let w : List Entry := [];
    let s : State := { fenced 0 false with queues := [(3, { queue0 0 with waiting := [1] })] }; tget? s.queues q.val = some k ∧ k.waiting = e :: w ∧ k.openRecs = 0) ∧
    (let q : Fin 256 := 3; let k : Queue := { queue0 2 with waiting := [1] };
    let s : State := { fenced 0 false with queues := [(3, { queue0 2 with waiting := [1] })] }; tget? s.queues q.val = some k ∧ ((0 < k.openRecs ∨ k.waiting = []))) :=
  ⟨by decide +kernel,
   by decide +kernel,
   nofun,
   by decide +kernel,
   by decide +kernel⟩

theorem test_MemoryLinesAreReadWrittenAndScrubbed_met :
    (let a : Nat := 0; let s : State := low; isLpddr a = true ∧ s.refusing (memPage a) = false ∧ s.poison.contains (a / 64) = false) ∧
    (let a : Nat := 0; let s : State := low; isLpddr a = true ∧ s.refusing (memPage a) = false ∧ s.poison.contains (a / 64) = false) ∧
    (let a : Nat := 0; let id : Nat := 0; let j : Job := waiting; let s : State := lowJob; isLpddr a = true ∧ s.refusing (memPage a) = false ∧
    s.poison.contains (a / 64) = false ∧ tget? s.jobs id = some j ∧ j.stop = none) ∧
    (let a : Nat := 0; let id : Nat := 0; let j : Job := waiting; let s : State := lowJob bad0; isLpddr a = true ∧ s.refusing (memPage a) = false ∧
    s.poison.contains (a / 64) = true ∧ tget? s.jobs id = some j ∧ j.stop = none) ∧
    (let a : Nat := 0; let id : Nat := 0; let j : Job := waiting; let s : State := lowJob off0; isLpddr a = true ∧ s.refusing (memPage a) = true ∧
    tget? s.jobs id = some j ∧ j.stop = none) ∧
    (let a : Nat := 0; let b : List Byte := List.replicate 64 7; let s : State := low bad0; isLpddr a = true ∧ s.refusing (memPage a) = false ∧ b.length = 64) ∧
    (let a : Nat := 0; let off : Nat := 3; let b : List Byte := [1, 2]; let s : State := low; isLpddr a = true ∧ s.refusing (memPage a) = false ∧ off < 64 ∧
    off + b.length ≤ 64 ∧ b.length < 64 ∧ s.poison.contains (a / 64) = false) ∧
    (let a : Nat := 0; let s : State := low; isLpddr a = true ∧ s.rf (memPage a) Reg.MEM_SCRUB_PERIOD ≠ 0 ∧ s.rf (memPage a) Reg.PG_STAT_POWERED_DOWN = 0) ∧
    (let a : Nat := 0; let s : State := low; isLpddr a = true ∧ s.rf (memPage a) Reg.MEM_SCRUB_PERIOD ≠ 0 ∧ s.rf (memPage a) Reg.PG_STAT_POWERED_DOWN = 0 ∧
    s.poison.contains (a / 64) = false) ∧
    (let a : Nat := 0; let s : State := State.reset.wf 0x10 Reg.MEM_SCRUB_PERIOD 0; s.rf (memPage a) Reg.MEM_SCRUB_PERIOD = 0) ∧
    (let o : Nat := 64; o < 0x4000000) ∧
    (let o : Nat := 64; let id : Nat := 0; let j : Job := waiting; let s : State := lowJob; o < 0x4000000 ∧ s.wordOwner o = none ∧ tget? s.jobs id = some j ∧
    j.stop = none ∧ s.rf 0x3A Reg.SHS_UE_VALID = 0) ∧
    (let o : Nat := 0x400000; let i : Nat := 0; let s : State := encState chan0 []; o < 0x4000000 ∧ s.wordOwner o = some i ∧ (s.chan i).dying = none ∧ (s.chan i).st ≠ 5 ∧
    s.chanJobs i = [] ∧ (s.chan i).endDue = false ∧ (s.chan i).live = none) :=
  ⟨by decide +kernel,
   by decide +kernel,
   by decide +kernel,
   by decide +kernel,
   by decide +kernel,
   by decide +kernel,
   by decide +kernel,
   by decide +kernel,
   by decide +kernel,
   by decide +kernel,
   by decide +kernel,
   by decide +kernel,
   by decide +kernel⟩

end Sys2Proof.Tests
end

section
/-! PROOFS. Frames a port receives (spec/14, R516): what FRAME_RECEIVE counts, and the settling of O15. -/

namespace Sys2Proof.Machine

/-! What the port operations do to the counters -/

/-- Counters of one page are apart. -/
theorem count_bump_beside {i j : Nat} (h : j ≠ i) (p n : Nat) (s : State) : (bump p i n s).count p j = s.count p j :=
  count_bump_other _ _ _ _ _ _ (by omega)

@[simp] theorem count_drain (n prio bytes : Nat) (s : State) (p i : Nat) : (drain n prio bytes s).count p i = s.count p i := rfl

@[simp] theorem count_setBitOf (pg : Nat) (f : Fld) (k : Nat) (b : Bool) (s : State) (p i : Nat) :
    (setBitOf pg f k b s).count p i = s.count p i := rfl

/-- A pause frame counts in TX_FRAMES and PFC_TX of its port and in nothing else of the port. -/
theorem count_sendPause_beside {i : Nat} (hf : i ≠ Cnt.ETH_TX_FRAMES) (hp : i ≠ Cnt.ETH_PFC_TX) (n prio quanta : Nat) (s : State) :
    (sendPause n prio quanta s).count (4 + n) i = s.count (4 + n) i := by
  rw [sendPause, count_bump_beside hp, count_bump_beside hf, count_emit]

/-- Counters of the media page are apart from those of every port. -/
theorem count_bump_media_port (port : Fin 4) {i j : Nat} (hi : i < 32) (n : Nat) (s : State) :
    (bump 0x35 j n s).count (4 + port.val) i = s.count (4 + port.val) i :=
  count_bump_other _ _ _ _ _ _ (by omega)

/-- The state after a frame of `len` bytes has been counted as received on page `pg` (R516); `exec_frameReceive_cases` says where the
machine reaches it. -/
def countTaken (pg len : Nat) (ce : Bool) (s : State) : State :=
  if ce then bump pg Cnt.ETH_ECN_CE_RX 1 (bump pg Cnt.ETH_RX_BYTES len (bump pg Cnt.ETH_RX_FRAMES 1 s))
  else bump pg Cnt.ETH_RX_BYTES len (bump pg Cnt.ETH_RX_FRAMES 1 s)

theorem countTaken_eq (pg len : Nat) (ce : Bool) (s : State) :
    countTaken pg len ce s =
      if ce then bump pg Cnt.ETH_ECN_CE_RX 1 (bump pg Cnt.ETH_RX_BYTES len (bump pg Cnt.ETH_RX_FRAMES 1 s))
      else bump pg Cnt.ETH_RX_BYTES len (bump pg Cnt.ETH_RX_FRAMES 1 s) := rfl

theorem count_countTaken_frames (pg len : Nat) (ce : Bool) (s : State) :
    (countTaken pg len ce s).count pg Cnt.ETH_RX_FRAMES = (s.count pg Cnt.ETH_RX_FRAMES + 1) % 2 ^ 64 := by
  have hb : Cnt.ETH_RX_FRAMES ≠ Cnt.ETH_RX_BYTES := by decide
  have hc : Cnt.ETH_RX_FRAMES ≠ Cnt.ETH_ECN_CE_RX := by decide
  cases ce <;> simp [countTaken, count_bump_beside hb, count_bump_beside hc]

theorem count_countTaken_oversize (pg len : Nat) (ce : Bool) (s : State) :
    (countTaken pg len ce s).count pg Cnt.ETH_RX_OVERSIZE = s.count pg Cnt.ETH_RX_OVERSIZE := by
  have hf : Cnt.ETH_RX_OVERSIZE ≠ Cnt.ETH_RX_FRAMES := by decide
  have hb : Cnt.ETH_RX_OVERSIZE ≠ Cnt.ETH_RX_BYTES := by decide
  have hc : Cnt.ETH_RX_OVERSIZE ≠ Cnt.ETH_ECN_CE_RX := by decide
  cases ce <;> simp [countTaken, count_bump_beside hf, count_bump_beside hb, count_bump_beside hc]

/-! The cases of FRAME_RECEIVE -/

section
variable {port : Fin 4} {pcp : Option (Fin 8)} {dscp : Fin 64} {len drained : Nat} {rtcp ce : Bool} {s : State}

theorem exec_frameReceive :
    exec (.frameReceive port pcp dscp len rtcp ce drained) s = execFrameReceive port pcp dscp len rtcp ce drained s := rfl

theorem exec_frameReceive_oversize (hup : s.up = true) (hlen : 9216 < len) :
    exec (.frameReceive port pcp dscp len rtcp ce drained) s =
      .next (bump (4 + port.val) Cnt.ETH_RX_OVERSIZE 1 (drain port.val (framePrio pcp dscp) drained s)) := by
  simp [exec_frameReceive, execFrameReceive, hup, hlen]

/-- A frame that is not too long is dropped for its class (R518), discarded as RTCP (R535), or stored in the receive buffer, where
it may make the port pause the priority (R518). -/
theorem exec_frameReceive_cases (hup : s.up = true) (hlen : len ≤ 9216) :
    let d := drain port.val (framePrio pcp dscp) drained s
    let taken := countTaken (4 + port.val) len ce d
    exec (.frameReceive port pcp dscp len rtcp ce drained) s = .next (bump (4 + port.val) Cnt.ETH_RX_DROP_CLASS 1 d) ∨
    exec (.frameReceive port pcp dscp len rtcp ce drained) s = .next (bump 0x35 Cnt.MED_RTCP_DISCARD 1 taken) ∨
    ∃ ps : Tbl Port,
      exec (.frameReceive port pcp dscp len rtcp ce drained) s = .next { taken with ports := ps } ∨
      exec (.frameReceive port pcp dscp len rtcp ce drained) s =
        .next (sendPause port.val (framePrio pcp dscp) 0xFFFF
          (setBitOf (4 + port.val) Reg.ETH_STAT_PAUSING (framePrio pcp dscp) true { taken with ports := ps })) := by
  intro d taken
  have hfits : ¬ 9216 < len := Nat.not_lt.2 hlen
  have hrun : ¬ (!s.up) = true := by simp [hup]
  rw [exec_frameReceive, execFrameReceive, if_neg hrun]
  dsimp only
  rw [if_neg hfits, ← countTaken_eq]
  split
  · exact .inl rfl
  · split
    · exact .inr (.inl rfl)
    · split
      · exact .inr (.inr ⟨_, .inr rfl⟩)
      · exact .inr (.inr ⟨_, .inl rfl⟩)

end

/-- Settles O15: the cases of FRAME_RECEIVE, and what each of them counts. -/
theorem longFramesAreDropped : Obligations.LongFramesAreDropped := by
  unfold Obligations.LongFramesAreDropped
  refine ⟨fun _ _ _ _ _ _ _ _ hup hlen => exec_frameReceive_oversize hup hlen, ?_⟩
  intro port pcp dscp len drained rtcp ce s hup hlen
  have hclass : Cnt.ETH_RX_OVERSIZE ≠ Cnt.ETH_RX_DROP_CLASS := by decide
  obtain h | h | ⟨ps, h | h⟩ := exec_frameReceive_cases (port := port) (pcp := pcp) (dscp := dscp) (drained := drained)
    (rtcp := rtcp) (ce := ce) hup hlen
  case inl => exact ⟨_, h, count_bump_beside hclass .., .inr (count_bump_same ..)⟩
  case inr.inl =>
    refine ⟨_, h, ?_, .inl ?_⟩
    · rw [count_bump_media_port port (by decide), count_countTaken_oversize, count_drain]
    · rw [count_bump_media_port port (by decide), count_countTaken_frames, count_drain]
  case inr.inr.inl => exact ⟨_, h, count_countTaken_oversize .., .inl (count_countTaken_frames ..)⟩
  case inr.inr.inr =>
    refine ⟨_, h, ?_, .inl ?_⟩
    · rw [count_sendPause_beside (by decide) (by decide), count_setBitOf, count_mk, count_countTaken_oversize, count_drain]
    · rw [count_sendPause_beside (by decide) (by decide), count_setBitOf, count_mk, count_countTaken_frames, count_drain]

end Sys2Proof.Machine
end

section
/-! PROOFS. The power-down at the pins (spec/19, R665 to R667): `powerDown` does what `PoweredDown` says, and the settling of O10. -/

namespace Sys2Proof.Machine

/-! What the die loses -/

/-- The reset of the die leaves every volatile part as at reset (R546). -/
theorem dieReset_lost (s : State) : Only [.pending, .free, .regs, .ctr, .out, .pins, .ids] State.reset (dieReset s) :=
  ⟨fun p hp => by cases p <;> simp at hp <;> rfl⟩

/-- The standby domain keeps registers of the PWR page alone (R667). -/
theorem keptReg_page {p o : Nat} (hp : p ≠ 3) (ho : o < 4096) : keptReg (p * 4096 + o) = false := by
  simp only [keptReg, List.contains_eq_mem, List.mem_cons, List.not_mem_nil, or_false, decide_eq_false_iff_not]
  omega

theorem dieReset_reg_page {p o : Nat} (hp : p ≠ 3) (ho : o < 4096) (s : State) : (dieReset s).reg p o = regReset (regKey p o) := by
  simp [dieReset_reg, keptReg_page hp ho, regKey]

theorem dieReset_count_page {p i : Nat} (hp : p ≠ 3) (hi : i < 32) (s : State) : (dieReset s).count p i = 0 := by
  rw [dieReset_count, if_neg (by omega)]

theorem dieReset_count_standby {i : Nat} (hi : i < 32) (s : State) : (dieReset s).count 3 i = s.count 3 i := by
  rw [dieReset_count, if_pos (by omega)]

/-! What PWR_STAT and PWR_LAST_OFF show -/

/-- PWR_STAT with the rails down, every PLL unlocked and no gating, and PWR_LAST_OFF with the cause (R665); `powerDown_eq` says where
the machine writes them. -/
def showOff (cause : Nat) (s : State) : State :=
  (((((s.wf 3 Reg.PWR_STAT_RAILS_OK 0).wf 3 Reg.PWR_STAT_ROOT_LOCK 0).wf 3 Reg.PWR_STAT_MEM_LOCK 0).wf 3 Reg.PWR_STAT_ETH_LOCK 0).wf 3
    Reg.PWR_STAT_CAP_ACTIVE 0).wf 3 Reg.PWR_LAST_OFF_CAUSE cause

theorem showOff_cause {cause : Nat} (hc : cause < 8) (s : State) : (showOff cause s).rf 3 Reg.PWR_LAST_OFF_CAUSE = cause := by
  rw [showOff, rf_wf_same _ _ _ _ (by decide)]
  exact Nat.mod_eq_of_lt hc

theorem showOff_rails (cause : Nat) (s : State) :
    (showOff cause s).rf 3 Reg.PWR_STAT_RAILS_OK = 0 ∧ (showOff cause s).rf 3 Reg.PWR_STAT_ROOT_LOCK = 0 ∧
      (showOff cause s).rf 3 Reg.PWR_STAT_MEM_LOCK = 0 ∧ (showOff cause s).rf 3 Reg.PWR_STAT_ETH_LOCK = 0 := by
  simp [showOff, rf_wf_apart, rf_wf_beside, rf_wf_same, Reg.PWR_STAT_RAILS_OK, Reg.PWR_STAT_ROOT_LOCK, Reg.PWR_STAT_MEM_LOCK,
    Reg.PWR_STAT_ETH_LOCK, Reg.PWR_STAT_CAP_ACTIVE, Reg.PWR_LAST_OFF_CAUSE]

theorem showOff_keepsRegs (cause : Nat) (s : State) : KeepsRegs [regKey 3 0x100, regKey 3 0x118] s (showOff cause s) := by
  simp (maxDischargeDepth := 10) [showOff, KeepsRegs.refl, Reg.PWR_STAT_RAILS_OK, Reg.PWR_STAT_ROOT_LOCK, Reg.PWR_STAT_MEM_LOCK,
    Reg.PWR_STAT_ETH_LOCK, Reg.PWR_STAT_CAP_ACTIVE, Reg.PWR_LAST_OFF_CAUSE]

/-- Registers of the other pages stay. -/
theorem showOff_reg_page {p o : Nat} (hp : p ≠ 3) (ho : o < 4096) (cause : Nat) (s : State) : (showOff cause s).reg p o = s.reg p o := by
  refine reg_keeps (showOff_keepsRegs cause s) p o ?_
  simp only [regKey, List.mem_cons, List.not_mem_nil, or_false]
  omega

theorem showOff_only (cause : Nat) (s : State) : Only [.regs] s (showOff cause s) := by
  simp (maxDischargeDepth := 10) [showOff, Only.refl]

@[simp] theorem count_showOff (cause : Nat) (s : State) (p i : Nat) : (showOff cause s).count p i = s.count p i := rfl

@[simp] theorem showOff_pins (cause : Nat) (s : State) : (showOff cause s).pins = s.pins := rfl

/-! The power-down -/

/-- The die reset with the converters off, before the standby domain shows and counts the stop. -/
def dieOff (cause : Nat) (s : State) : State :=
  { dieReset s with
    pins := { (dieReset s).pins with
      conv := .off, pwrGood := false, armed := decide (cause = 1 ∨ cause = 2), nextCause := if cause = 4 then 2 else 0, belowUs := 0 } }

/-- A power-down resets the die, shows the cause and, unless PWR_EN fell, counts in STOPS. -/
theorem powerDown_eq (cause : Nat) (s : State) :
    powerDown cause s = if cause = 1 then showOff cause (dieOff cause s) else bump 3 Cnt.PWR_STOPS 1 (showOff cause (dieOff cause s)) := rfl

theorem powerDown_rf (cause : Nat) (s : State) (p : Nat) (f : Fld) :
    (powerDown cause s).rf p f = (showOff cause (dieOff cause s)).rf p f := by
  rw [powerDown_eq]; split <;> rfl

theorem powerDown_reg (cause : Nat) (s : State) (p o : Nat) :
    (powerDown cause s).reg p o = (showOff cause (dieOff cause s)).reg p o := by
  rw [powerDown_eq]; split <;> rfl

theorem powerDown_pins (cause : Nat) (s : State) : (powerDown cause s).pins = (dieOff cause s).pins := by
  rw [powerDown_eq]; split <;> rfl

theorem powerDown_stops (cause : Nat) (s : State) :
    (powerDown cause s).count 3 Cnt.PWR_STOPS =
      if cause = 1 then s.count 3 Cnt.PWR_STOPS else (s.count 3 Cnt.PWR_STOPS + 1) % 2 ^ 64 := by
  have hkept : (dieOff cause s).count 3 Cnt.PWR_STOPS = s.count 3 Cnt.PWR_STOPS := dieReset_count_standby (by decide) s
  rw [powerDown_eq]
  split
  · rw [count_showOff, hkept]
  · rw [count_bump_same, count_showOff, hkept]

theorem powerDown_count_page {p i : Nat} (hp : p ≠ 3) (hi : i < 32) (cause : Nat) (s : State) : (powerDown cause s).count p i = 0 := by
  have hlost : (dieOff cause s).count p i = 0 := dieReset_count_page hp hi s
  have hstops : Cnt.PWR_STOPS < 32 := by decide
  rw [powerDown_eq]
  split
  · rw [count_showOff, hlost]
  · rw [count_bump_other _ _ _ _ _ _ (by omega), count_showOff, hlost]

/-- After the die's reset a power-down touches the PWR page and the pins alone. -/
theorem powerDown_after_dieReset (cause : Nat) (s : State) : Only [.regs, .ctr, .pins] (dieReset s) (powerDown cause s) := by
  have hoff : Only [.regs, .ctr, .pins] (dieReset s) (dieOff cause s) := by simp [dieOff, Only.refl]
  have hshow : Only [.regs, .ctr, .pins] (dieReset s) (showOff cause (dieOff cause s)) :=
    hoff.trans ((showOff_only cause _).mono (by decide))
  rw [powerDown_eq]
  split
  · exact hshow
  · exact bump_only _ _ _ (by decide) hshow

/-- Every stop that records a cause PWR_LAST_OFF has room for is a power-down at the pins (R665 to R667). -/
theorem powerDown_poweredDown {cause : Nat} (hc : cause < 8) (s : State) : PoweredDown cause s (powerDown cause s) where
  conv := by rw [powerDown_pins]; rfl
  pwrGood := by rw [powerDown_pins]; rfl
  cause := by rw [powerDown_rf, showOff_cause hc]
  rails := by simp only [powerDown_rf, showOff_rails, and_self]
  stops := powerDown_stops cause s
  lost := (dieReset_lost s).trans ((powerDown_after_dieReset cause s).mono (by decide))
  kept := ⟨(powerDown_after_dieReset cause s).same .ids (by decide), (powerDown_after_dieReset cause s).same .pending (by decide)⟩
  registers := fun p o hp ho => by rw [powerDown_reg, showOff_reg_page hp ho]; exact dieReset_reg_page hp ho s
  counters := fun p i hp hi => powerDown_count_page hp hi cause s

/-! OVERCURRENT_STOP -/

theorem exec_overcurrentStop (s : State) :
    exec .overcurrentStop s = if s.pins.conv = .off then .next s else .next (powerDown 6 s) := rfl

/-- Settles O10: OVERCURRENT_STOP is a power-down with cause 6 while the converters run (R655), and nothing otherwise. -/
theorem overcurrentStopsTheConverters : Obligations.OvercurrentStopsTheConverters := by
  unfold Obligations.OvercurrentStopsTheConverters
  constructor
  · intro s hon
    exact ⟨powerDown 6 s, by rw [exec_overcurrentStop, if_neg hon], powerDown_poweredDown (by decide) s⟩
  · intro s hoff
    rw [exec_overcurrentStop, if_pos hoff]

end Sys2Proof.Machine
end
